-- ==== Sys2Proof/Word.lean ====
section
/-! DEFINITION. The word types: every register is 32 bits wide (spec/00_scope.md R7) and images, frames and records
are byte strings. -/

namespace Sys2Proof

/-- One 32-bit register value (R7). -/
abbrev Word := BitVec 32

/-- One byte of an image, header, record or frame. -/
abbrev Byte := BitVec 8

/-- An instant in units of 2^-32 fabric clock: the 96-bit timestamp of spec/00_scope.md R15 as one number,
count times 2^32 plus fraction. -/
abbrev Instant := Nat

end Sys2Proof
end

