-- ==== Sys2Proof/Syntax.lean ====
section
/-! DEFINITION. The commands the block takes: one constructor for each row of spec/opcode_table.json, with the row's
operands, and the operand types. What an operation or event is measured to be outside the engine (a level on a pin, the
outcome of a physical test, the payload of a received cell) is an operand (log 9). A command given without an operand that
has a default is the command with that default; every other value may be sent as well. -/

namespace Sys2Proof

/-- A host read (spec/00_scope.md R8): of 32 bits with some byte enables set, or of 64 bits. -/
inductive ReadSize where
  | enables (be : BitVec 4) | wide
deriving DecidableEq, Repr

/-- The rails of spec/15_startup_and_black_box.md R361. -/
inductive Rail where
  | vddAon | vddAux | vddIo | vddCore | vddSram | vddAna | vddAnaHi | vppHbm | vddqHbm
deriving DecidableEq, Repr

/-- The step of a rail in the table of R361. -/
def Rail.step : Rail → Nat
  | .vddAon => 1 | .vddAux => 2 | .vddIo => 3 | .vddCore => 4 | .vddSram => 5
  | .vddAna => 6 | .vddAnaHi => 7 | .vppHbm => 8 | .vddqHbm => 9

/-- The straps sampled on entry to RESET (spec/19_package_and_electrical.md R443). -/
structure Straps where
  compatSel : Bool
  pairRole : Bool
  arrayId : BitVec 5
  eraseEn : Bool
deriving DecidableEq, Repr

/-- Levels at pins that the engine watches: whether VREF_EXT lies in its range (spec/04_converter_banks.md R132), and whether BYP_CLK
toggles at 100 MHz (spec/06_clocking.md R174). -/
structure Levels where
  ext : Bool
  byp : Bool
deriving DecidableEq, Repr

/-- REF_IN as it is classed on entry to RESET (spec/06_clocking.md R156). -/
inductive RefClass where
  | noRef | ref10 | ref100
deriving DecidableEq, Repr

/-- The REF_IN rate by its class (R156). -/
def RefClass.hz : RefClass → Nat
  | .noRef => 0 | .ref10 => 10000000 | .ref100 => 100000000

/-- The code CLK.STATUS.REF_FREQ shows. -/
def RefClass.code : RefClass → Nat
  | .noRef => 0 | .ref10 => 1 | .ref100 => 2

/-- The PLLs (spec/06_clocking.md R155). -/
inductive Pll where
  | spll | fpll | mpll | ppll | lpll
deriving DecidableEq, Repr

def Pll.idx : Pll → Nat
  | .spll => 0 | .fpll => 1 | .mpll => 2 | .ppll => 3 | .lpll => 4

/-- How far a black-box commit had come when VDD_AON fell (spec/15_startup_and_black_box.md R363, R376, R377): none was
under way, it completed, copy A's or copy B's journal entry is left incomplete, or complete and not done, or copy A is done and B's
journal unwritten. -/
inductive CommitCut where
  | noCommit | finished | journalAPart | journalAWhole | journalBPart | journalBWhole | copyADone
deriving DecidableEq, Repr

/-- The measured part of a self-test (R366). Items FUSE, MBIST, CONVERTER, SERDES and DRAFT carry their DETAIL when
they fail; `pllLost` names PLLs that lost lock during self-test; `railOut` is the lowest rail out of range; `ms` is the
time spent. -/
structure SelftestResults where
  draft : Option Word
  fuse : Option Word
  pllLost : BitVec 5
  mbist : Option Word
  hbmRetire : List (Fin 64)
  converter : Option Word
  serdes : Option Word
  railOut : Option Rail
  ms : BitVec 12
deriving DecidableEq, Repr

/-- What the Loom passes with an action that takes an instant (spec/03_axis_and_loom.md R93): the trigger instant, the
source named in the header (0 to 15 a trigger unit, 16 AUX_TRIG, 0xFF none), and whether the match was late. -/
structure IssueTime where
  instant : Instant
  source : Nat
  late : Bool
deriving DecidableEq, Repr

/-- The corrected samples of a channel that a word's passage through the trigger units works on (spec/07_trigger.md R176,
R180): the word, the samples before it and those after it that are at hand. -/
structure ChanWord where
  chan : Fin 4
  before : List Int
  word : List Int
  ahead : List Int
deriving DecidableEq, Repr

/-- The consumers of spec/09_segments_and_placement.md R233. -/
inductive Consumer where
  | host | stream
deriving DecidableEq, Repr

/-- A HEARTBEAT payload (spec/16_pair_and_array.md R391): role code, PROTECTED, DROPPED, engine state code and the
ARRAY_ID the sender sees of its peer. -/
structure Heartbeat where
  role : Nat
  prot : Bool
  dropped : Bool
  state : Nat
  arrayIdSeen : BitVec 5
deriving DecidableEq, Repr

/-- A HELLO payload (R391): ARRAY_ID, PAIR_ROLE strap, PAIR_POLICY, the digest of the image and of the configuration. -/
structure PairHello where
  arrayId : BitVec 5
  strap : Bool
  paired : Bool
  takeover : Bool
  draftDigest : List Byte
  cfgDigest : List Byte
deriving DecidableEq, Repr

/-- A FORM payload (R391). -/
inductive FormMsg where
  | request | accept | refuse (cause : Nat)
deriving DecidableEq, Repr

/-- What a MATCH cell says of one OPEN or MARKER issued (R391): the clock, tread, accepted bit, CSEQ, instant and MULT. -/
structure MatchIssue where
  clock : Nat
  tread : Fin 4096
  accepted : Bool
  cseq : Nat
  instant : Instant
  mult : Nat
deriving DecidableEq, Repr

/-- A MATCH payload (R391): the first of 16 fabric clocks, four met bits for each, and what was issued. -/
structure MatchCell where
  first : Nat
  met : List (BitVec 4)
  issues : List MatchIssue
deriving DecidableEq, Repr

/-- A tenon cell by KIND (R391). -/
inductive Cell where
  | heartbeat (h : Heartbeat)
  | hello (h : PairHello)
  | form (m : FormMsg)
  | matchC (m : MatchCell)
  | write (tsc off : Nat) (v : Word)
  | hand (consumer : Consumer) (ctx cseq gseq : Nat) (header : List Byte)
  | data (ctx cseq off : Nat) (bytes : List Byte)
  | mirrored (consumer : Consumer) (gseq : Nat)
  | ack (consumer : Consumer) (ctx first last : Nat)
  | bbx (record : List Byte)
  | resend (first : Nat)
deriving DecidableEq, Repr

/-- How a cell arrives (R391): whether its CRC is good, its CELL_SEQ and its sender's TSC; and, where CELL_SEQ numbers before it did
not arrive, the ACTIVE's clock of the first WRITE that one of them carried (R396). -/
structure CellHead where
  good : Bool
  seq : Nat
  tsc : Nat
  lostWrite : Option Nat
deriving DecidableEq, Repr

/-- What the host set in the configuration space before it uses the link (R304): Max Payload Size 2^mps x 128 B, Max Read Request
Size 2^mrrs x 128 B, the Device Control enable of Relaxed Ordering, 10-bit tags, ECRC, ASPM L1, and the completion timeout range of
Device Control 2. -/
structure PcieConfig where
  mps : Fin 3
  mrrs : Fin 6
  relaxed : Bool
  tags10 : Bool
  ecrc : Bool
  aspmL1 : Bool
  timeout : BitVec 4
deriving DecidableEq, Repr

/-- The settings after a reset of the link: the standard's defaults (log 148). -/
def PcieConfig.init : PcieConfig :=
  { mps := 0, mrrs := 2, relaxed := true, tags10 := false, ecrc := false, aspmL1 := false, timeout := 0 }

/-- What a pseudo-channel controller meets at an error (R285, R289): cause 1 UE_DATA, 2 CA_PARITY, 3 TIMEOUT, the requester,
the failing address, the raw data bits and the syndrome. -/
structure HbmError where
  cause : Nat
  requester : Nat
  bank : Nat
  row : Nat
  col : Nat
  raw : BitVec 64
  syndrome : Byte
deriving DecidableEq, Repr

/-- Delay sweeps of a pseudo-channel at one data rate (R286): for each lane (0 to 31 data, 32 to 35 ECC, 36 and 37 the
spares) the settings that pass, bit n for n steps. -/
structure PcSweep where
  read : List (BitVec 128)
  write : List (BitVec 128)
deriving DecidableEq, Repr

/-- The sweeps of training steps 4, 5 and 8 for the 64 pseudo-channels, each at 6.4, 4.8 and 3.2 Gb/s (R286). -/
abbrev Training := List (List PcSweep)

/-- Display data that had not arrived when it was scanned (R354, R355): overlay lines (second overlay, line, pixels that had
arrived), and columns of a spilled raster with how many of their bins, from the top of the layer on, had not. -/
structure FrameLate where
  lines : List (Bool × Nat × Nat)
  columns : List (Nat × Nat)
deriving DecidableEq, Repr

/-- What the return lane did to a control frame (R333, R338): the bits in error that its bytes arrive with (none beyond the list), and
the codewords corrected. -/
structure CtlFrame where
  errors : List Byte
  corrected : Nat
deriving DecidableEq, Repr

/-- What the calibration estimator measures over the blocks of a visit (spec/05_selvedge_calibration.md R137, R139): the
residuals (offset in 1/64 slice LSB, gain in 2^-20, skew in 1/8 fs, the eight tap corrections in 2^-16), the blocks
discarded as over-range, and the rms of the channel's first difference in corrected codes. -/
structure VisitEst where
  offset : Int
  gain : Int
  skew : Int
  taps : List Int
  overBlocks : Nat
  rmsDiff : Nat
deriving DecidableEq, Repr
/-- The commands: spec/opcode_table.json. -/
inductive Instr where
  /-- AON_VALID (R31). -/
  | aonValid (i2cAddr : BitVec 3) (pageRead : Bool) (passA : Bool) (passB : Bool) (bad : Bool × Bool := (false, false))
  /-- RAIL_LOSS (R363). -/
  | railLoss (rail : Rail) (i2cAddr : BitVec 3) (passA : Bool) (passB : Bool) (bad : Bool × Bool := (false, false))
  /-- AON_LOSS (R31). -/
  | aonLoss (cut : CommitCut)
  /-- SEQ_VIOLATION (R362). -/
  | seqViolation (rail : Rail) (before : Rail)
  /-- RAIL_SEQUENCE_COMPLETE (R362). -/
  | railSequenceComplete (straps : Straps) (ref : RefClass)
  /-- PERST_ASSERT (R54). -/
  | perstAssert (straps : Straps) (ref : RefClass)
  /-- PERST_RELEASE (R54). -/
  | perstRelease
  /-- FLASH_LOAD_DONE (R48). -/
  | flashLoadDone (image : List Byte)
  /-- HBM_TRAINING_DONE (R286). -/
  | hbmTrainingDone (results : Training)
  /-- LOADED (R31). -/
  | loaded
  /-- SELFTEST_DONE (R367). -/
  | selftestDone (results : SelftestResults) (fenced : Bool)
  /-- SELFTEST_TIMEOUT (R366). -/
  | selftestTimeout (unfinished : BitVec 10) (results : SelftestResults)
  /-- RELOAD (R36). -/
  | reload (source : Bool) (pins : Option (Straps × RefClass) := none)
  /-- CHECK (R58). -/
  | check
  /-- CHECK_DONE (R58). -/
  | checkDone
  /-- STAGE_DATA (R56). -/
  | stageData (v : Word)
  /-- STAGE_ADDR (R56). -/
  | stageAddr (v : Word)
  /-- BURN_KEY (R61). -/
  | burnKey (v : Word)
  /-- BURN_SIGNED_ONLY (R61). -/
  | burnSignedOnly (v : Word)
  /-- BURN_DONE (R61). -/
  | burnDone (keyRead : List Word) (soRead : Bool)
  /-- COMPAT_WRITE (R62). -/
  | compatWrite (v : Word)
  /-- RUN (R104). -/
  | run (en : BitVec 4)
  /-- STOP (R33). -/
  | stop (en : BitVec 4)
  /-- STOP_COMPLETE (R33). -/
  | stopComplete
  /-- CURSOR_EN (R90). -/
  | cursorEn (en : BitVec 4)
  /-- TREAD_MATCH (R92). -/
  | treadMatch (k : Fin 4)
  /-- NOP (R87). -/
  | nop (kind : BitVec 5)
  /-- ARM (R95). -/
  | arm (c : Fin 1024) (tread : Fin 4096)
  /-- DISARM (R98). -/
  | disarm (c : Fin 1024)
  /-- OPEN (R93). -/
  | openSegment (c : Fin 1024) (iss : IssueTime)
  /-- CLOSE (R230). -/
  | close (c : Fin 1024)
  /-- LANE_SWAP (R221). -/
  | laneSwap (c : Fin 1024)
  /-- COEF_SWAP (R223). -/
  | coefSwap (c : Fin 1024) (stage : Bool) (sel : Fin 4)
  /-- ACC_START (R264). -/
  | accStart (j : Fin 256)
  /-- ACC_STOP (R264). -/
  | accStop (j : Fin 256)
  /-- ACC_FOLD (R266). -/
  | accFold (j : Fin 256)
  /-- TRIG_OUT (R198). -/
  | trigOut (p : Fin 4) (w : Fin 256)
  /-- TRIG_OUT_PULSE_END (R198). -/
  | trigOutPulseEnd (p : Fin 4)
  /-- MARKER (R457). -/
  | marker (c : Fin 1024) (code : BitVec 12) (iss : IssueTime)
  /-- FLAG (R88). -/
  | flag (f : Fin 32) (v : Bool)
  /-- IRQ (R87). -/
  | irq (v : Fin 64)
  /-- AXIS_CMP (R87). -/
  | axisCmp (k : Fin 16) (mode : Fin 4)
  /-- DOORBELL (R86). -/
  | doorbell (v : Word)
  /-- SWAP_REQ (R101). -/
  | swapReq (v : Word)
  /-- SWAP_CANCEL (R103). -/
  | swapCancel
  /-- SWAP_DONE (R102). -/
  | swapDone
  /-- TREAD_WINDOW_WRITE (R100). -/
  | treadWindowWrite (off : Fin 8192) (v : Word)
  /-- CTX_WINDOW_WRITE (R27). -/
  | ctxWindowWrite (c : Fin 1024) (word : Fin 64) (v : Word)
  /-- AXIS_CFG_WRITE (R69). -/
  | axisCfgWrite (v : Word)
  /-- AXIS_QUAD_EDGE (R73). -/
  | axisQuadEdge (a : Bool) (b : Bool) (t : Instant) (hold : Nat := 64)
  /-- AXIS_REF_EDGE (R73). -/
  | axisRefEdge (t : Instant) (hold : Nat := 64)
  /-- AXIS_INDEX_EDGE (R74). -/
  | axisIndexEdge (t : Instant) (hold : Nat := 64)
  /-- ENTER_COAST (R75). -/
  | enterCoast
  /-- ENTER_STALLED (R75). -/
  | enterStalled
  /-- PAIRED_WRITE (R81). -/
  | pairedWrite (off : Nat) (v : Word)
  /-- LATCHING_READ (R81). -/
  | latchingRead (off : Nat) (size : ReadSize := .enables 15) (levels : Option Levels := none)
  /-- RCL_READ (R10). -/
  | rclRead (off : Nat) (size : ReadSize := .enables 15)
  /-- W1C_WRITE (R10). -/
  | w1cWrite (off : Nat) (v : Word)
  /-- REGISTER_WRITE (R8). -/
  | registerWrite (off : Nat) (v : Word) (be : BitVec 4) (high : Option (Word × BitVec 4) := none) (levels : Option Levels := none)
  /-- REF_SEL_WRITE (R124). -/
  | refSelWrite (v : Word) (extInRange : Bool)
  /-- REF_SETTLED (R124). -/
  | refSettled (extInRange : Bool := true)
  /-- EXT_FAULT (R126). -/
  | extFault
  /-- CAL_CTRL_WRITE (R136). -/
  | calCtrlWrite (v : Word)
  /-- CAL_START (R135). -/
  | calStart
  /-- SWEEP_PERIOD_EXPIRY (R135). -/
  | sweepPeriodExpiry
  /-- CAPTURE_START (R134). -/
  | captureStart (b : Fin 4)
  /-- CAPTURE_END (R137). -/
  | captureEnd (b : Fin 4) (est : VisitEst)
  /-- VISIT_END (R134). -/
  | visitEnd (b : Fin 4) (terms : List Int)
  /-- INJ (R148). -/
  | inj (v : Word)
  /-- INJ_RUNNING (R148). -/
  | injRunning (b : Fin 4)
  /-- INJ_DONE (R148). -/
  | injDone (b : Fin 4) (reading : BitVec 16)
  /-- MON_POP (R146). -/
  | monPop (size : ReadSize := .enables 15)
  /-- CAL_SEL (R152). -/
  | calSel (v : Word)
  /-- COEF_COMMIT (R153). -/
  | coefCommit
  /-- CLK_RATE_GO (R162). -/
  | clkRateGo (v : Word) (levels : Option Levels := none)
  /-- ENTRY_STALE (R163). -/
  | entryStale
  /-- PLL_LOCK_DECLARED (R160). -/
  | pllLockDeclared (p : Pll) (counts : List Nat) (band : Byte) (temp : BitVec 7)
  /-- PLL_OUTPUTS_OPEN (R165). -/
  | pllOutputsOpen (p : Pll) (cycles : Nat) (sclkRate : BitVec 15 := 0)
  /-- PLL_LOCK_TIMEOUT (R160). -/
  | pllLockTimeout (p : Pll)
  /-- UNLOCK (R161). -/
  | unlock (p : Pll) (counts : List Nat := [])
  /-- REF_LOST (R169). -/
  | refLost (byp : Bool := false)
  /-- REF_RETURN (R171). -/
  | refReturn (j : Int) (byp : Bool := false) (ref : Option RefClass := none) (lane : Bool := false)
  /-- REALIGN_RESTART (R459). -/
  | realignRestart (refEdges : Nat)
  /-- HOLD_EXPIRED (R169). -/
  | holdExpired (byp : Bool := false)
  /-- SCLK_LOST (R157). -/
  | sclkLost (byp : Bool := false)
  /-- SYNC_IN_EDGE (R166). -/
  | syncInEdge (phase : Int)
  /-- PAIR_TRIM_WRITE (R168). -/
  | pairTrimWrite (v : Word)
  /-- CLK_OUT_EN_WRITE (R159). -/
  | clkOutEnWrite (p : Pll) (o : Fin 16) (v : Word)
  /-- APPLY (R177). -/
  | apply (v : Word)
  /-- TRIGGER_REPORT (R187). -/
  | triggerReport (clock : Nat) (words : List ChanWord) (ovr : BitVec 4) (sat : BitVec 64)
  /-- AUX_TRIG_EDGE (R190). -/
  | auxTrigEdge (rising : Bool) (t : Instant) (hold : Nat)
  /-- SEAL (R219). -/
  | seal (l : Fin 64)
  /-- SEAL_NOW (R219). -/
  | sealNow (l : Fin 64)
  /-- DEFERRED_HANDOVER (R220). -/
  | deferredHandover (l : Fin 64)
  /-- COEF_WINDOW_WRITE (R224). -/
  | coefWindowWrite (l : Fin 64) (i : Fin 256) (v : Word)
  /-- LANE_PARAM_WRITE (R218). -/
  | laneParamWrite (l : Fin 64) (word : Fin 48) (v : Word)
  /-- SEGMENT_CLOSE (R230). -/
  | segmentClose (c : Fin 1024) (first : Nat) (raw : List (BitVec 10))
  /-- RECORD_READY (R229). -/
  | recordReady (c : Fin 1024) (copied : Bool)
  /-- RECORD_HANDED (R234). -/
  | recordHanded (c : Fin 1024)
  /-- CTX_CLEAR (R232). -/
  | ctxClear (v : Word)
  /-- PLACE (R267). -/
  | place (j : Fin 256)
  /-- RELEASE_JOB (R267). -/
  | releaseJob (j : Fin 256)
  /-- JOB_DESCRIPTOR_WRITE (R252). -/
  | jobDescriptorWrite (j : Fin 256) (word : Fin 13) (v : Word)
  /-- PREPARE_DONE (R265). -/
  | prepareDone (j : Fin 256)
  /-- DRAIN_DONE (R264). -/
  | drainDone (j : Fin 256)
  /-- UNLOAD_DONE (R271). -/
  | unloadDone (j : Fin 256)
  /-- RESULT_BUFFER_FREE (R273). -/
  | resultBufferFree (j : Fin 256)
  /-- BEAM_FREE (R276). -/
  | beamFree (j : Fin 256)
  /-- BEAM_UNCORR (R276). -/
  | beamUncorr (b : Fin 16) (word : Fin 786432)
  /-- BEAM_CORRECTED (R275). -/
  | beamCorrected (b : Fin 16)
  /-- PEEK_SEL (R274). -/
  | peekSel (v : Word)
  /-- PEEK0_READ (R274). -/
  | peek0Read (size : ReadSize := .enables 15)
  /-- HBM_FREEZE (R289). -/
  | hbmFreeze (p : Fin 64) (err : HbmError) (issued : List (Nat × Nat))
  /-- HBM_CORRECTED (R285). -/
  | hbmCorrected (p : Fin 64)
  /-- RELEASE (R290). -/
  | release (p : Fin 64)
  /-- RELEASE_DONE (R290). -/
  | releaseDone (p : Fin 64) (sweep : PcSweep)
  /-- HBM_UNREADABLE (R290). -/
  | hbmUnreadable (p : Fin 64) (c : Fin 1024) (cseq : Nat) (err : HbmError)
  /-- RETIRE (R290). -/
  | retire (p : Fin 64)
  /-- FREQ_GO (R291). -/
  | freqGo (v : Word)
  /-- FREQ_DEFERRED_START (R293). -/
  | freqDeferredStart
  /-- FREQ_DONE (R292). -/
  | freqDone (sweeps : List (List (BitVec 128)))
  /-- TRACK_PASS (R288). -/
  | trackPass (maps : List (List (BitVec 17))) (clocks : Nat)
  /-- BAR2_READ (R294). -/
  | bar2Read (addr : BitVec 32)
  /-- BAR2_WRITE (R294). -/
  | bar2Write
  /-- QUOTA_WINDOW_END (R299). -/
  | quotaWindowEnd (stack : Fin 2)
  /-- DQ_ENABLE (R313). -/
  | dqEnable (q : Fin 64) (v : Word)
  /-- DQ_DISABLE (R313). -/
  | dqDisable (q : Fin 64) (v : Word)
  /-- FREE_PROD (R315). -/
  | freeProd (q : Fin 64) (v : Word)
  /-- COMP_CONS (R321). -/
  | compCons (q : Fin 64) (v : Word)
  /-- DESCRIPTOR_PREFETCH (R316). -/
  | descriptorPrefetch (q : Fin 64) (descs : List (BitVec 64 × Word))
  /-- DMA_BURST_START (R309). -/
  | dmaBurstStart (toHost : Bool) (data : List Byte)
  /-- COMPLETION_RECORD_WRITE (R319). -/
  | completionRecordWrite (q : Fin 64) (flushed : Bool := false)
  /-- COAL_TIME_EXPIRY (R324). -/
  | coalTimeExpiry (q : Fin 64)
  /-- PACED_REQUEST (R307). -/
  | pacedRequest (n : Fin 32) (line : Nat) (scan : Option Nat := none)
  /-- PACED_WITHDRAW (R329). -/
  | pacedWithdraw (n : Fin 32)
  /-- BUS_ERROR (R326). -/
  | busError (ch : Fin 32) (addr : BitVec 64) (write : Bool) (cause : Fin 16)
  /-- ALL_STOP (R327). -/
  | allStop (ch : Fin 4) (addr : BitVec 64) (cause : Fin 16)
  /-- RESUME (R326). -/
  | resume (ch : Fin 32)
  /-- RESTART (R326). -/
  | restart (ch : Fin 32)
  /-- DMA_RESET (R328). -/
  | dmaReset
  /-- DMA_RESET_DONE (R328). -/
  | dmaResetDone
  /-- DMA_CH_CFG_WRITE (R311). -/
  | dmaChCfgWrite (ch : Fin 32) (v : Word)
  /-- D3HOT_ENTRY (R305). -/
  | d3hotEntry
  /-- D0_RETURN (R305). -/
  | d0Return
  /-- STREAM_FRAME_START (R337). -/
  | streamFrameStart
  /-- STREAM_FRAME_SENT (R336). -/
  | streamFrameSent
  /-- CREDIT (R337). -/
  | credit (frame : CtlFrame) (limit : Word)
  /-- ACK (R338). -/
  | ack (frame : CtlFrame) (g : BitVec 64)
  /-- RESEND (R339). -/
  | resend (frame : CtlFrame) (fseq : Word)
  /-- HELLO (R340). -/
  | hello (frame : CtlFrame) (g : BitVec 64) (limit : Word)
  /-- STREAM_LINK_DOWN (R340). -/
  | streamLinkDown
  /-- STALL (R342). -/
  | stall
  /-- RX_FEC_UNCORRECTABLE (R333). -/
  | rxFecUncorrectable
  /-- DISP_EN (R348). -/
  | dispEn (v : Word)
  /-- DISP_STOP (R348). -/
  | dispStop
  /-- HPD_ASSERT (R348). -/
  | hpdAssert
  /-- HPD_LOST (R348). -/
  | hpdLost
  /-- HPD_IRQ (R348). -/
  | hpdIrq
  /-- TRAINING_DONE (R348). -/
  | trainingDone (ok : Bool)
  /-- TIMING_COMMIT (R350). -/
  | timingCommit
  /-- VERTICAL_BLANK (R356). -/
  | verticalBlank (late : FrameLate)
  /-- PIXCLK_RELOCKED (R351). -/
  | pixclkRelocked
  /-- AUX_CMD (R349). -/
  | auxCmd (v : Word)
  /-- AUX_DONE (R349). -/
  | auxDone (result : Fin 4) (data : List Byte)
  /-- LUT_COMMIT (R354). -/
  | lutCommit
  /-- CURSOR_PAGE_WRITE (R355). -/
  | cursorPageWrite (page : Bool) (i : Fin 4096) (v : Word)
  /-- RECORD_MADE (R375). -/
  | recordMade (source : Byte) (code : BitVec 16) (payload : List Byte)
  /-- RECORD_COMMITTED (R376). -/
  | recordCommitted (okA : Bool) (okB : Bool)
  /-- RETRY (R379). -/
  | retry (passA : Bool) (passB : Bool)
  /-- SNAP_LATCH (R380). -/
  | snapLatch
  /-- SNAP_RELEASE (R380). -/
  | snapRelease
  /-- READ_SEL_LOAD (R380). -/
  | readSelLoad (v : Word)
  /-- ANNOT (R381). -/
  | annot (v : Word)
  /-- ERASE_REQ (R382). -/
  | eraseReq (v : Word)
  /-- ERASE_GO (R382). -/
  | eraseGo (v : Word)
  /-- CHALLENGE_EXPIRY (R382). -/
  | challengeExpiry
  /-- TIME_SAVE (R365). -/
  | timeSave (n : Nat := 60)
  /-- I2C_WRITE (R454). -/
  | i2cWrite (addr : Byte) (bytes : List Byte) (straps : Straps) (ref : RefClass)
  /-- I2C_READ (R454). -/
  | i2cRead (n : Nat)
  /-- I2C_DRAFT_RELOAD (R455). -/
  | i2cDraftReload (pins : Option (Straps × RefClass) := none)
  /-- I2C_RESET (R455). -/
  | i2cReset (straps : Straps) (ref : RefClass)
  /-- I2C_SNAP_LATCH (R454). -/
  | i2cSnapLatch
  /-- I2C_SNAP_RELEASE (R454). -/
  | i2cSnapRelease
  /-- I2C_READ_SEL_LOAD (R454). -/
  | i2cReadSelLoad (b : Byte)
  /-- FORM (R392). -/
  | form (peerReady : Bool) (tscEqual : Bool) (phaseOk : Bool) (lead : Int := 0)
  /-- DISSOLVE (R392). -/
  | dissolve
  /-- HEARTBEAT_SEND (R391). -/
  | heartbeatSend
  /-- HEARTBEAT (R391). -/
  | heartbeat (h : CellHead) (p : Heartbeat)
  /-- HEARTBEAT_MISSED (R401). -/
  | heartbeatMissed
  /-- PAIR_HELLO_CELL (R392). -/
  | pairHelloCell (h : CellHead) (p : PairHello)
  /-- FORM_CELL (R392). -/
  | formCell (h : CellHead) (m : FormMsg) (peerReady : Bool) (tscEqual : Bool) (phaseOk : Bool) (lead : Int := 0)
  /-- MATCH (R395). -/
  | matchCell (h : CellHead) (m : MatchCell)
  /-- MATCH_LATE (R396). -/
  | matchLate
  /-- WRITE (R394). -/
  | write (h : CellHead) (tsc : Nat) (off : Nat) (v : Word)
  /-- HAND (R397). -/
  | hand (h : CellHead) (k : Consumer) (c : Fin 1024) (cseq : Nat) (gseq : Nat) (header : List Byte)
  /-- DATA (R397). -/
  | data (h : CellHead) (c : Fin 1024) (cseq : Nat) (off : Nat) (bytes : List Byte)
  /-- MIRRORED (R397). -/
  | mirrored (h : CellHead) (k : Consumer) (gseq : Nat)
  /-- PAIR_ACK_CELL (R398). -/
  | pairAckCell (h : CellHead) (k : Consumer) (c : Fin 1024) (first : Nat) (last : Nat)
  /-- BBX (R405). -/
  | bbx (h : CellHead) (record : List Byte)
  /-- TENON_RESEND (R391). -/
  | tenonResend (h : CellHead) (first : Nat)
  /-- PAIR_FENCED_N_ASSERT (R400). -/
  | pairFencedNAssert
  /-- PAIR_FENCE_ACK (R401). -/
  | pairFenceAck
  /-- DROPPED (R404). -/
  | dropped
  /-- PHASE_MEASURE (R393). -/
  | phaseMeasure (lead : Int)
  /-- THERM_READING (R416). -/
  | thermReading (reading : BitVec 16) (diode : Fin 8)
  /-- OVERVOLTAGE (R417). -/
  | overvoltage (rail : Rail)
  /-- CTRL_SRAM_UE (R417). -/
  | ctrlSramUe (inst : BitVec 16)
  /-- FABRIC_CLOCK (R417). -/
  | fabricClock
  /-- FATAL (R418). -/
  | fatal (cause : Fin 32) (detail : BitVec 16)
  /-- FREEZE_TIMEOUT (R426). -/
  | freezeTimeout (c : Fin 1024)
  /-- OCC_SEL (R420). -/
  | occSel (v : Word)
  /-- STREAM_RETRAINED (R340). -/
  | streamRetrained
  /-- PCIE_LINK_UP (R30). -/
  | pcieLinkUp (width : Fin 17) (rate : Fin 6) (cfg : PcieConfig := PcieConfig.init)
  /-- TENON_LINK_UP (R392). -/
  | tenonLinkUp
  /-- TENON_LINK_DOWN (R405). -/
  | tenonLinkDown
  /-- SEQUENCE_T_MAX_EXPIRY (R184). -/
  | sequenceTMaxExpiry (k : Fin 16)
deriving DecidableEq, Repr

end Sys2Proof
end

