-- ==== Sys2Proof/Config.lean ====
section
/-! DEFINITION. The free values: constants without a body, for what the spec leaves open (log 10). No proof can see
what they are, so a claim holds whatever they are. -/

namespace Sys2Proof.Config

/-- The n-th fresh 32-bit free value. -/
opaque freeWord : Nat → Word

/-- What a word of HBM holds that no request has written since the training of this number (log 95). From the number of the
training, the pseudo-channel, the column, bank and row (spec/11_memory_and_shuttle.md R281), and the word of the column. -/
opaque hbmWord : Nat → Nat → Nat × Nat × Nat → Nat → Word

/-- Which 2 KiB of a pseudo-channel an area's chunk takes: no rule says it (log 95). From the kind of the area (0 a context's ring,
1 a report, 2 a job's spill area, 3 the mirror area), its number, and the chunk's number in it. -/
opaque chunkPlace : Nat → Nat → Nat → Nat

/-- A byte that a write transaction stores where the spec does not tell its data (log 95): from the pseudo-channel, the
transaction's place in the order of arrival, and the byte. -/
opaque storedByte : Nat → Nat → Nat → BitVec 8

/-- How many transactions of a pool a controller completes in a fabric clock (log 30): its command cycles are not the engine's
clocks. From the clock and the pseudo-channel. -/
opaque memServed : Nat → Nat → Nat

/-- Which of the transactions that may come next a controller takes (spec/11_memory_and_shuttle.md R283, log 30): row states and bank
timing are the stack's. From the clock and the pseudo-channel. -/
opaque memPick : Nat → Nat → Nat

/-- Whether a value that lies between two integers is rounded to the upper one, where the spec names no rounding. -/
opaque roundsUp : Rat → Bool

/-- Whether the square root of a mean square that lies between two integers is rounded to the upper one, where the spec names
no rounding. -/
opaque rmsUp : Rat → Bool

/-- The VCO frequency of the LPLL in hertz, which spec/06_clocking.md R155 gives as that of a lane group. -/
opaque laneVco : Nat

/-- Where, in 1/1024 sample from 0 to 1024, the reconstruction between two samples meets a level: the windowed-sinc kernel
of spec/07_trigger.md R180 has no stated coefficients. The arguments are the samples m - 8 to m + 7 and the level. -/
opaque crossing : List Int → Int → Fin 1025

/-- The rate after an edge's correction by the axis tracking loop, whose equations spec/03_axis_and_loom.md R70 does not
state: from the rate (2^-48 unit per fabric clock), the phase error (2^-48 unit), SHIFT and the time since the last edge
(2^-32 fabric clock). -/
opaque trackRate : Int → Int → Nat → Int → Int

/-- The position correction of the axis tracking loop at an edge (R70): from the phase error and SHIFT, in 2^-48 unit. -/
opaque trackPos : Int → Nat → Int

/-- Whether a cell whose centre lies exactly on an edge of a mask polygon belongs to it (spec/10_cloth_beams.md R258 says
nothing of it): from the vertices and the cell. -/
opaque edgeCell : List (Nat × Nat) → Nat → Nat → Bool

/-- Which of several longest runs of passing settings a controller takes, and which of several lanes it repairs
(spec/11_memory_and_shuttle.md R286, R287 name one): an index into the list of the candidates' positions. -/
opaque pickOf : List Nat → Nat

/-- Which ports a PORTS section makes exist, as stream, display and tenon; none for content out of range. No chapter of the
spec lays the section out (spec/02_draft_image.md R44). -/
opaque portsOf : List (BitVec 8) → Option (Bool × Bool × Bool)

/-- The correction tables of a FACTORY_CAL section after its serial number (R44 gives no layout): by 65 x bank + slice the
offset, gain, total delay in femtoseconds and taps; none for content out of range. -/
opaque factoryTables : List (BitVec 8) → Option (List (Nat × Int × Int × Rat × List Int))

/-- The bytes whose SHA-256 is the configuration digest (spec/16_pair_and_array.md R392 lists what it covers and gives it no
layout): from the numbers of each of the six items in the order of the list. -/
opaque configBytes : List (List Int) → List (BitVec 8)

end Sys2Proof.Config
end

