-- ==== Sys2Proof/Machine/Sparse.lean ====
section
/-! DEFINITION. Sparse data by number: the canonical form of the register file, the memories and the per-instance
tables of State. A list of (key, value) pairs with strictly rising keys, in which no value equals what an unlisted key
reads as. -/

namespace Sys2Proof.Machine

/-- Data by key, keys strictly rising, no value equal to its default. -/
abbrev Sparse (α : Type) := List (Nat × α)

/-- The listed value of a key. -/
def sparseFind {α : Type} : Sparse α → Nat → Option α
  | [], _ => none
  | (j, u) :: t, k => if j = k then some u else sparseFind t k

/-- Lists `v` at `k`. -/
def sparsePut {α : Type} : Sparse α → Nat → α → Sparse α
  | [], k, v => [(k, v)]
  | (j, u) :: t, k, v =>
    if k < j then (k, v) :: (j, u) :: t
    else if j = k then (k, v) :: t
    else (j, u) :: sparsePut t k v

/-- Lists nothing at `k`. -/
def sparseDel {α : Type} : Sparse α → Nat → Sparse α
  | [], _ => []
  | (j, u) :: t, k => if j = k then sparseDel t k else (j, u) :: sparseDel t k

/-- The value at `k`, where an unlisted key reads as `d`. -/
def sparseGet {α : Type} (d : Nat → α) (m : Sparse α) (k : Nat) : α :=
  match sparseFind m k with
  | some v => v
  | none => d k

/-- Sets the value at `k`; the value an unlisted key reads as is not listed. -/
def sparseSet {α : Type} [DecidableEq α] (d : Nat → α) (m : Sparse α) (k : Nat) (v : α) : Sparse α :=
  if v = d k then sparseDel m k else sparsePut m k v

/-- The canonical form: every key of the list lies above `lo`, keys rise, and no value is the default. -/
def sparseWfFrom {α : Type} [DecidableEq α] (d : Nat → α) : Option Nat → Sparse α → Bool
  | _, [] => true
  | none, (j, u) :: t => decide (u ≠ d j) && sparseWfFrom d (some j) t
  | some lo, (j, u) :: t => decide (lo < j) && decide (u ≠ d j) && sparseWfFrom d (some j) t

/-- The canonical form of a sparse table. -/
def sparseWf {α : Type} [DecidableEq α] (d : Nat → α) (m : Sparse α) : Bool :=
  sparseWfFrom d none m

end Sys2Proof.Machine
end

