-- ==== Sys2Proof/Machine/Bits.lean ====
section
/-! DEFINITION. Fields of 32-bit words, and fixed-point helpers shared by every block. -/

namespace Sys2Proof.Machine

/-- The mask of bits lo to lo + w - 1. -/
def fieldMask (lo w : Nat) : Word := BitVec.ofNat 32 (2 ^ w - 1) <<< lo

/-- The value of bits lo to lo + w - 1 of a word. -/
def fieldOf (v : Word) (lo w : Nat) : Nat := (v >>> lo).toNat % 2 ^ w

/-- A word with bits lo to lo + w - 1 replaced by the low w bits of n. -/
def insertField (v : Word) (lo w n : Nat) : Word :=
  (v &&& ~~~(fieldMask lo w)) ||| (BitVec.ofNat 32 (n % 2 ^ w) <<< lo)

/-- A word with the masked bits taken from a written value. -/
def mergeWrite (old mask v : Word) : Word := (old &&& ~~~mask) ||| (v &&& mask)

/-- 1 for true. -/
def b2n (b : Bool) : Nat := if b then 1 else 0

/-- n saturated at a maximum. -/
def satTo (m n : Nat) : Nat := if n ≤ m then n else m

/-- An integer as the two's-complement value of w bits. -/
def toBitsInt (w : Nat) (n : Int) : Nat := (BitVec.ofInt w n).toNat

/-- The signed value of the low w bits of n. -/
def ofBitsInt (w n : Nat) : Int := (BitVec.ofNat w n).toInt

/-- n clamped between two bounds. -/
def clampInt (lo hi n : Int) : Int := if n < lo then lo else if hi < n then hi else n

/-- The number of ones in the low w bits of n. -/
def popCount : Nat → Nat → Nat
  | 0, _ => 0
  | w + 1, n => n % 2 + popCount w (n / 2)

/-- The bits set among the low w bits of n, lowest first. -/
def bitsSet (w n : Nat) : List Nat := (List.range w).filter (fun i => n.testBit i)

/-- The ceiling of a quotient. -/
def ceilDiv (a b : Nat) : Nat := if b = 0 then 0 else (a + b - 1) / b

/-- An exact value as an integer: itself where it is one, else one of its two neighbours, as the free value says (log 113). -/
def roundOpen (x : Rat) : Int := if x.den = 1 then x.num else if Config.roundsUp x then x.floor + 1 else x.floor

/-- The root of a mean square as an integer: exact where it is one, else one of its two neighbours (log 113). -/
def rmsOpen (x : Rat) : Nat :=
  let r := Nat.sqrt x.floor.toNat
  if ((r * r : Nat) : Rat) = x then r else if Config.rmsUp x then r + 1 else r

end Sys2Proof.Machine
end

