-- ==== Sys2Proof/Machine/Crypto.lean ====
section
/-! DEFINITION. The checks over byte strings: little-endian values, CRC-16 (spec/09_segments_and_placement.md R239),
CRC-32 (spec/02_draft_image.md R47), SHA-256, HMAC-SHA-256 (R46, spec/15_startup_and_black_box.md R382) and ECDSA over
P-384 (R46). The constants of SHA-256 and P-384 come from the published standards that the spec names, not from the
spec itself (PRESUMED, log 12). -/

namespace Sys2Proof.Machine

/-- The value of little-endian bytes. -/
def leNat : List Byte → Nat
  | [] => 0
  | b :: t => b.toNat + 256 * leNat t

/-- The value of big-endian bytes. -/
def beNat (bs : List Byte) : Nat := bs.foldl (fun a b => 256 * a + b.toNat) 0

/-- The low n bytes of a value, lowest first. -/
def leBytes : Nat → Nat → List Byte
  | 0, _ => []
  | n + 1, v => BitVec.ofNat 8 v :: leBytes n (v / 256)

/-- The low n bytes of a value, highest first. -/
def beBytes (n v : Nat) : List Byte := (leBytes n v).reverse

/-- n bytes of a string from an offset, zero beyond its end. -/
def sliceBytes (bs : List Byte) (off n : Nat) : List Byte :=
  let t := (bs.drop off).take n
  t ++ List.replicate (n - t.length) 0

/-- The little-endian field of n bytes at an offset. -/
def fieldLe (bs : List Byte) (off n : Nat) : Nat := leNat (sliceBytes bs off n)

/-- One bit of CRC-16, polynomial 0x1021, not reflected. -/
def crc16Bit (c : BitVec 16) : BitVec 16 := if c.getLsbD 15 then (c <<< 1) ^^^ 0x1021#16 else c <<< 1

def crc16Byte (c : BitVec 16) (b : Byte) : BitVec 16 :=
  Nat.repeat crc16Bit 8 (c ^^^ (b.zeroExtend 16 <<< 8))

/-- CRC-16 of R239: initial 0xFFFF, no reflection, no final exclusive-OR. -/
def crc16 (bs : List Byte) : BitVec 16 := bs.foldl crc16Byte 0xFFFF#16

/-- One bit of CRC-32 in reflected form. -/
def crc32Bit (c : Word) : Word := if c.getLsbD 0 then (c >>> 1) ^^^ 0xEDB88320#32 else c >>> 1

def crc32Byte (c : Word) (b : Byte) : Word := Nat.repeat crc32Bit 8 (c ^^^ b.zeroExtend 32)

/-- CRC-32 of IEEE 802.3 (R47). -/
def crc32 (bs : List Byte) : Word := (bs.foldl crc32Byte 0xFFFFFFFF#32) ^^^ 0xFFFFFFFF#32

/-- The greatest r below 2^n over which `below` holds, found bit by bit from the top; `below` holds up to some number. -/
def greatest (below : Nat → Bool) : Nat → Nat → Nat
  | 0, r => r
  | n + 1, r => greatest below n (if below (r + 2 ^ n) then r + 2 ^ n else r)

/-- The first primes, up to 311: the 64 that SHA-256 draws on. -/
def shaPrimes : List Nat := (List.range 312).filter (fun n => decide (2 ≤ n) && (List.range n).all (fun d => decide (d < 2) || n % d != 0))

/-- The first 32 bits of the fractional part of the e-th root of n. -/
def rootWord (e n : Nat) : Word := BitVec.ofNat 32 (greatest (fun r => decide (r ^ e ≤ n * 2 ^ (32 * e))) 40 0)

/-- The constants that SHA-256 adds round by round: from the cube roots of the primes (FIPS 180-4; PRESUMED, log 12). -/
def shaAddends : List Word := shaPrimes.map (rootWord 3)

/-- The chaining value that SHA-256 begins with: from the square roots of the first eight primes. -/
def shaStart : List Word := (shaPrimes.take 8).map (rootWord 2)

/-- The exclusive-OR of a word's rotations to the right. -/
def turned (w : Word) (by' : List Nat) : Word := by'.foldl (fun x n => x ^^^ w.rotateRight n) 0#32

/-- A message schedule, latest word first, with its next word. -/
def shaGrow (w : List Word) : List Word :=
  let at' (back : Nat) : Word := w.getD (back - 1) 0#32
  let late := turned (at' 2) [17, 19] ^^^ (at' 2 >>> 10)
  let early := turned (at' 15) [7, 18] ^^^ (at' 15 >>> 3)
  (late + at' 7 + early + at' 16) :: w

/-- A round of SHA-256. Of the eight working words four are the latest of one sequence and four the latest of another; a round
adds a word to each. -/
def shaTurn (x : List Word × List Word) (addend : Word) : List Word × List Word :=
  let p (i : Nat) : Word := x.1.getD i 0#32
  let q (i : Nat) : Word := x.2.getD i 0#32
  let mix := addend + q 3 + turned (q 0) [6, 11, 25] + ((q 0 &&& q 1) ||| (~~~(q 0) &&& q 2))
  let vote := (p 0 &&& (p 1 ||| p 2)) ||| (p 1 &&& p 2)
  ((mix + turned (p 0) [2, 13, 22] + vote) :: x.1.take 3, (p 3 + mix) :: x.2.take 3)

/-- The 16 big-endian words of a 64-byte block. -/
def blockWords (block : List Byte) : List Word :=
  (List.range 16).map (fun i => BitVec.ofNat 32 (beNat (sliceBytes block (4 * i) 4)))

/-- The chaining value after one block. -/
def shaAbsorb (h : List Word) (block : List Byte) : List Word :=
  let w := (Nat.repeat shaGrow 48 (blockWords block).reverse).reverse
  let x := (List.zipWith (· + ·) shaAddends w).foldl shaTurn (h.take 4, h.drop 4)
  List.zipWith (· + ·) h (x.1 ++ x.2)

/-- SHA-256 of a byte string, as 32 bytes: the string is closed by a bit of 1, zeros to a whole block and its length in bits. -/
def sha256 (bs : List Byte) : List Byte :=
  let blocks := (bs.length + 72) / 64
  let m := sliceBytes (bs ++ [0x80#8]) 0 (64 * blocks - 8) ++ beBytes 8 (8 * bs.length)
  (Nat.repeat (fun x => (shaAbsorb x.1 (x.2.take 64), x.2.drop 64)) blocks (shaStart, m)).1.flatMap (fun w => beBytes 4 w.toNat)

/-- HMAC-SHA-256 with a 32-byte key (R382). -/
def hmacSha256 (key msg : List Byte) : List Byte :=
  let k := key ++ List.replicate (64 - key.length) 0#8
  sha256 (k.map (· ^^^ 0x5c#8) ++ sha256 (k.map (· ^^^ 0x36#8) ++ msg))

/-- The field prime of P-384 (FIPS 186-5, SP 800-186; PRESUMED, log 12). -/
def p384P : Nat := 2 ^ 384 - 2 ^ 128 - 2 ^ 96 + 2 ^ 32 - 1
def p384N : Nat :=
  0xffffffffffffffffffffffffffffffffffffffffffffffffc7634d81f4372ddf581a0db248b0a77aecec196accc52973
def p384B : Nat :=
  0xb3312fa7e23ee7e4988e056be3f82d19181d9c6efe8141120314088f5013875ac656398d8a2ed19d2a85c8edd3ec2aef
def p384Gx : Nat :=
  0xaa87ca22be8b05378eb1c71ef320ad746e1d3b628ba79b9859f741e082542a385502f25dbf55296c3a545e3872760ab7
def p384Gy : Nat :=
  0x3617de4a96262c6f5d9e98bf9292dc29f8f41dbd289a147ce9da3113b5f0b8c00a60b1ce1d7e819d7a431d7c90ea0e5f

/-- x to the e modulo m, over `fuel` bits of e. -/
def powMod (m : Nat) : Nat → Nat → Nat → Nat
  | 0, _, _ => 1 % m
  | fuel + 1, x, e =>
    let h := powMod m fuel (x * x % m) (e / 2)
    if e % 2 = 1 then x * h % m else h

/-- The inverse modulo a prime. -/
def invMod (m x : Nat) : Nat := powMod m 384 (x % m) (m - 2)

/-- A point of the curve in affine coordinates; none is the point at infinity. -/
abbrev CurvePoint := Option (Nat × Nat)

/-- The sum of two points of P-384. -/
def p384Add (a b : CurvePoint) : CurvePoint :=
  match a, b with
  | none, q => q
  | p, none => p
  | some (x1, y1), some (x2, y2) =>
    if x1 = x2 ∧ (y1 + y2) % p384P = 0 then none
    else
      let l := if x1 = x2 then
          (3 * x1 * x1 + (p384P - 3)) % p384P * invMod p384P (2 * y1) % p384P
        else (y2 + p384P - y1) % p384P * invMod p384P (x2 + p384P - x1) % p384P
      let x3 := (l * l + 2 * p384P - x1 - x2) % p384P
      some (x3, (l * ((x1 + p384P - x3) % p384P) + p384P - y1) % p384P)

/-- k times a point, over `fuel` bits of k. -/
def p384Mul : Nat → Nat → CurvePoint → CurvePoint
  | 0, _, _ => none
  | fuel + 1, k, p =>
    let h := p384Mul fuel (k / 2) (p384Add p p)
    if k % 2 = 1 then p384Add p h else h

/-- ECDSA verification over P-384 of a hash value shorter than the group order (R46, FIPS 186-5). -/
def ecdsaVerify (qx qy hash r t : Nat) : Bool :=
  let onCurve := decide (qx < p384P) && decide (qy < p384P) &&
    decide (qy * qy % p384P = (qx * qx % p384P * qx + (p384P - 3) * qx + p384B) % p384P)
  let inRange := decide (0 < r) && decide (r < p384N) && decide (0 < t) && decide (t < p384N)
  let w := invMod p384N t
  let u1 := hash % p384N * w % p384N
  let u2 := r * w % p384N
  match p384Add (p384Mul 384 u1 (some (p384Gx, p384Gy))) (p384Mul 384 u2 (some (qx, qy))) with
  | none => false
  | some (x, _) => onCurve && inRange && decide (x % p384N = r)

end Sys2Proof.Machine
end

