-- ==== Sys2Proof/Machine/Regs.lean ====
section
/-! DEFINITION. The register map of BAR0 (spec/18_register_map.md R431, R434 and the register table of each
chapter): every register's offset, access code, writable or clearable bits and reset value, an address constant for
each, and the named fields the meanings use. -/

namespace Sys2Proof.Machine

/-- The access codes of spec/00_scope.md R10. -/
inductive Access where
  | rw | ro | wo | w1c | rws | rcl
deriving DecidableEq, Repr

/-- One register of a block's table, or `cnt` registers `stride` bytes apart. `mask` holds the bits a host may write
(RW, RWS) or clear (W1C). `stepReset` is added to the reset value for each further instance (DQq.VECTOR resets to q). -/
structure RegDesc where
  name : String
  off : Nat
  cnt : Nat
  stride : Nat
  acc : Access
  mask : Nat
  reset : Nat
  stepReset : Nat := 0
deriving DecidableEq, Repr

/-- A field of a register: bits lo to lo + w - 1 of the register at `off`. -/
structure Fld where
  off : Nat
  lo : Nat
  w : Nat
deriving DecidableEq, Repr

/-- DEV: spec/18_register_map.md R434. -/
def devRegs : List RegDesc := [
  ⟨"ID", 0x0, 1, 4, .ro, 0x0, 0x53486404, 0⟩,
  ⟨"STEP", 0x4, 1, 4, .ro, 0x0, 0x4130, 0⟩,
  ⟨"STATE", 0x8, 1, 4, .ro, 0x0, 0x112, 0⟩,
  ⟨"CTRL", 0xc, 1, 4, .rws, 0x1, 0x0, 0⟩,
  ⟨"SERIAL_LO", 0x10, 1, 4, .ro, 0x0, 0x0, 0⟩,
  ⟨"SERIAL_HI", 0x14, 1, 4, .ro, 0x0, 0x0, 0⟩,
  ⟨"SUBSYS", 0x18, 1, 4, .ro, 0x0, 0x0, 0⟩,
  ⟨"CAPS", 0x1c, 1, 4, .ro, 0x0, 0x0, 0⟩,
  ⟨"MAP_VERSION", 0x20, 1, 4, .ro, 0x0, 0x10000, 0⟩,
  ⟨"SCRATCH", 0x24, 1, 4, .rw, 0xffffffff, 0x0, 0⟩]

/-- DRAFT: spec/02_draft_image.md R60. -/
def draftRegs : List RegDesc := [
  ⟨"CTRL", 0x0, 1, 4, .rw, 0x1, 0x0, 0⟩,
  ⟨"STATUS", 0x4, 1, 4, .ro, 0x0, 0x0, 0⟩,
  ⟨"CHECK_STATUS", 0x8, 1, 4, .w1c, 0x2, 0x0, 0⟩,
  ⟨"STAGE_ADDR", 0xc, 1, 4, .rw, 0x7ffffc, 0x0, 0⟩,
  ⟨"STAGE_DATA", 0x10, 1, 4, .wo, 0x0, 0x0, 0⟩,
  ⟨"IMG_SERIAL", 0x14, 1, 4, .ro, 0x0, 0x0, 0⟩,
  ⟨"DIGEST", 0x20, 8, 4, .ro, 0x0, 0x0, 0⟩,
  ⟨"KEY_HASH", 0x40, 8, 4, .ro, 0x0, 0x0, 0⟩,
  ⟨"FUSE_STAGE", 0x60, 8, 4, .wo, 0x0, 0x0, 0⟩,
  ⟨"FUSE_CTRL", 0x80, 1, 4, .w1c, 0x20, 0x0, 0⟩]

/-- AXIS: spec/03_axis_and_loom.md R81. -/
def axisRegs : List RegDesc := [
  ⟨"CFG", 0x0, 1, 4, .rw, 0x3ffffff, 0x0, 0⟩,
  ⟨"SCALE", 0x4, 1, 4, .rw, 0x1ffffff, 0x1, 0⟩,
  ⟨"POLICY", 0x8, 1, 4, .rw, 0x1, 0x0, 0⟩,
  ⟨"PHASE_THRESH", 0xc, 1, 4, .rw, 0xffffffff, 0x100, 0⟩,
  ⟨"COAST_WINDOW", 0x10, 1, 4, .rw, 0xff, 0x4, 0⟩,
  ⟨"STALL_TIMEOUT", 0x14, 1, 4, .rw, 0xffff, 0x7d0, 0⟩,
  ⟨"LOOP", 0x18, 1, 4, .rw, 0xf, 0x6, 0⟩,
  ⟨"STATUS", 0x1c, 1, 4, .ro, 0x0, 0x0, 0⟩,
  ⟨"EVENTS", 0x20, 1, 4, .w1c, 0x1ff, 0x0, 0⟩,
  ⟨"POS_LO", 0x28, 1, 4, .ro, 0x0, 0x0, 0⟩,
  ⟨"POS_HI", 0x2c, 1, 4, .ro, 0x0, 0x0, 0⟩,
  ⟨"RATE_LO", 0x30, 1, 4, .ro, 0x0, 0x0, 0⟩,
  ⟨"RATE_HI", 0x34, 1, 4, .ro, 0x0, 0x0, 0⟩,
  ⟨"Z_LATCH_LO", 0x38, 1, 4, .ro, 0x0, 0x0, 0⟩,
  ⟨"Z_LATCH_HI", 0x3c, 1, 4, .ro, 0x0, 0x0, 0⟩,
  ⟨"STEP_FROM_LO", 0x40, 1, 4, .ro, 0x0, 0x0, 0⟩,
  ⟨"STEP_FROM_HI", 0x44, 1, 4, .ro, 0x0, 0x0, 0⟩,
  ⟨"STEP_TO_LO", 0x48, 1, 4, .ro, 0x0, 0x0, 0⟩,
  ⟨"STEP_TO_HI", 0x4c, 1, 4, .ro, 0x0, 0x0, 0⟩,
  ⟨"CMP_LO", 0x100, 16, 8, .rw, 0xffffffff, 0x0, 0⟩,
  ⟨"CMP_HI", 0x104, 16, 8, .rw, 0xffffffff, 0x0, 0⟩,
  ⟨"CMP_STEP_LO", 0x180, 16, 8, .rw, 0xffffffff, 0x0, 0⟩,
  ⟨"CMP_STEP_HI", 0x184, 16, 8, .rw, 0xffffffff, 0x0, 0⟩,
  ⟨"CMP_LOAD_LO", 0x200, 16, 8, .rw, 0xffffffff, 0x0, 0⟩,
  ⟨"CMP_LOAD_HI", 0x204, 16, 8, .rw, 0xffffffff, 0x0, 0⟩]

/-- LOOM: spec/03_axis_and_loom.md R105. -/
def loomRegs : List RegDesc := [
  ⟨"CTRL", 0x0, 1, 4, .rw, 0xf1, 0x0, 0⟩,
  ⟨"STATUS", 0x4, 1, 4, .ro, 0x0, 0x0, 0⟩,
  ⟨"EVENTS", 0x8, 1, 4, .w1c, 0x7ff, 0x0, 0⟩,
  ⟨"SWAP", 0xc, 1, 4, .rw, 0x3ff1c, 0x0, 0⟩,
  ⟨"WIN", 0x10, 1, 4, .rw, 0x3, 0x0, 0⟩,
  ⟨"ENTRY", 0x20, 4, 4, .rw, 0xfff, 0x0, 0⟩,
  ⟨"CURSOR", 0x30, 4, 4, .ro, 0x0, 0x0, 0⟩,
  ⟨"DOORBELL", 0x40, 1, 4, .wo, 0x0, 0x0, 0⟩,
  ⟨"DOORBELL_PEND", 0x44, 1, 4, .ro, 0x0, 0x0, 0⟩,
  ⟨"FLAGS", 0x48, 1, 4, .rw, 0xffffffff, 0x0, 0⟩,
  ⟨"ARM_FAIL_LAST", 0x50, 1, 4, .ro, 0x0, 0x0, 0⟩,
  ⟨"ARM_FAIL_COUNT", 0x54, 1, 4, .rcl, 0x0, 0x0, 0⟩,
  ⟨"OPEN_REFUSED", 0x58, 1, 4, .rcl, 0x0, 0x0, 0⟩,
  ⟨"LATE_COUNT", 0x5c, 1, 4, .rcl, 0x0, 0x0, 0⟩,
  ⟨"NOT_LIVE_COUNT", 0x60, 1, 4, .rcl, 0x0, 0x0, 0⟩]

/-- CTX: spec/18_register_map.md R432. -/
def ctxRegs : List RegDesc := [
  ⟨"CTL", 0x0, 1024, 256, .rw, 0x8ff8ff0f, 0x0, 0⟩,
  ⟨"TRIG_MASK", 0x4, 1024, 256, .rw, 0x1ffff, 0x0, 0⟩,
  ⟨"HOLDOFF_LO", 0x8, 1024, 256, .rw, 0xffffffff, 0x0, 0⟩,
  ⟨"HOLDOFF_HI", 0xc, 1024, 256, .rw, 0x70ffffff, 0x0, 0⟩,
  ⟨"STORE", 0x10, 1024, 256, .rw, 0xff03010f, 0x0, 0⟩,
  ⟨"SEG_LEN_LO", 0x14, 1024, 256, .rw, 0xffffffff, 0x0, 0⟩,
  ⟨"SEG_LEN_HI", 0x18, 1024, 256, .rw, 0xff, 0x0, 0⟩,
  ⟨"PRETRIG_LO", 0x1c, 1024, 256, .rw, 0xffffffff, 0x0, 0⟩,
  ⟨"PRETRIG_HI", 0x20, 1024, 256, .rw, 0xff, 0x0, 0⟩,
  ⟨"QUOTA", 0x24, 1024, 256, .rw, 0x1ffffff, 0x0, 0⟩,
  ⟨"STREAM_QUOTA", 0x28, 1024, 256, .rw, 0x1ffffff, 0x0, 0⟩,
  ⟨"FREEZE_TIMEOUT", 0x2c, 1024, 256, .rw, 0xffff, 0x0, 0⟩,
  ⟨"RANK", 0x40, 1024, 256, .rw, 0xf, 0x0, 0⟩,
  ⟨"CIC_CFG", 0x44, 1024, 256, .rw, 0x3f0107, 0x0, 0⟩,
  ⟨"CIC_RATIO", 0x48, 1024, 256, .rw, 0x1ffff, 0x0, 0⟩,
  ⟨"CIC_GAIN", 0x4c, 1024, 256, .rw, 0x3ffff, 0x0, 0⟩,
  ⟨"FIR_CFG", 0x50, 1024, 256, .rw, 0x11fff, 0x0, 0⟩,
  ⟨"RS_CFG", 0x54, 1024, 256, .rw, 0x13, 0x0, 0⟩,
  ⟨"RS_NUM", 0x58, 1024, 256, .rw, 0xffffff, 0x0, 0⟩,
  ⟨"RS_DEN", 0x5c, 1024, 256, .rw, 0xffffff, 0x0, 0⟩,
  ⟨"RS_STEP_LO", 0x60, 1024, 256, .rw, 0xffffffff, 0x0, 0⟩,
  ⟨"RS_STEP_HI", 0x64, 1024, 256, .rw, 0xffff, 0x0, 0⟩,
  ⟨"RS_GRID", 0x68, 1024, 256, .rw, 0x1ffff, 0x0, 0⟩,
  ⟨"RS_MAXRATE", 0x6c, 1024, 256, .rw, 0xffffffff, 0x0, 0⟩,
  ⟨"PEAK_RATIO", 0x70, 1024, 256, .rw, 0x1ffff, 0x0, 0⟩,
  ⟨"ENV_RATIO", 0x74, 1024, 256, .rw, 0x1ffff, 0x0, 0⟩,
  ⟨"HIRES", 0x78, 1024, 256, .rw, 0x1f, 0x0, 0⟩]

/-- CONV: spec/04_converter_banks.md R132. -/
def convRegs : List RegDesc := [
  ⟨"MODE", 0x0, 1, 4, .ro, 0x0, 0x0, 0⟩,
  ⟨"REF_CTRL", 0x4, 1, 4, .rw, 0x3, 0x0, 0⟩,
  ⟨"REF_STATUS", 0x8, 1, 4, .ro, 0x0, 0x0, 0⟩,
  ⟨"EVENTS", 0xc, 1, 4, .w1c, 0xef, 0x0, 0⟩,
  ⟨"BW_COMMIT", 0x10, 1, 4, .ro, 0x0, 0x0, 0⟩,
  ⟨"W16_COMMIT", 0x14, 1, 4, .ro, 0x0, 0x0, 0⟩]

/-- CAL: spec/05_selvedge_calibration.md R154. -/
def calRegs : List RegDesc := [
  ⟨"CTRL", 0x0, 1, 4, .rw, 0x6f3f3f, 0x700000, 0⟩,
  ⟨"STATUS", 0x4, 1, 4, .ro, 0x0, 0x0, 0⟩,
  ⟨"EVENTS", 0x8, 1, 4, .w1c, 0x7f, 0x0, 0⟩,
  ⟨"SWEEP_PERIOD", 0xc, 1, 4, .rw, 0xffff, 0xa, 0⟩,
  ⟨"LOOP", 0x10, 1, 4, .rw, 0xffff7f0f, 0x400802, 0⟩,
  ⟨"INJ", 0x14, 1, 4, .wo, 0x0, 0x0, 0⟩,
  ⟨"INJ_STATUS", 0x18, 1, 4, .ro, 0x0, 0x0, 0⟩,
  ⟨"INJ_DROPPED", 0x1c, 1, 4, .rcl, 0x0, 0x0, 0⟩,
  ⟨"MON_PEEK", 0x20, 1, 4, .ro, 0x0, 0x700000, 0⟩,
  ⟨"MON_POP", 0x24, 1, 4, .rcl, 0x0, 0x700000, 0⟩,
  ⟨"MON_COUNT", 0x28, 1, 4, .ro, 0x0, 0x0, 0⟩,
  ⟨"MON_LOST", 0x2c, 1, 4, .rcl, 0x0, 0x0, 0⟩,
  ⟨"SWEEP_COUNT", 0x30, 1, 4, .ro, 0x0, 0x0, 0⟩,
  ⟨"SEL", 0x40, 1, 4, .rw, 0x37f, 0x0, 0⟩,
  ⟨"COEF_OFFSET", 0x44, 1, 4, .rws, 0xffff, 0x0, 0⟩,
  ⟨"COEF_GAIN", 0x48, 1, 4, .rws, 0x3ffff, 0x20000, 0⟩,
  ⟨"COEF_DELAY", 0x4c, 1, 4, .rws, 0xffff, 0x0, 0⟩,
  ⟨"COEF_TRIM", 0x50, 1, 4, .rws, 0xfff, 0x0, 0⟩,
  ⟨"COEF_COMMIT", 0x54, 1, 4, .wo, 0x0, 0x0, 0⟩,
  ⟨"COEF_H0_3", 0x60, 4, 4, .rws, 0x3ffff, 0x0, 0⟩,
  ⟨"COEF_H4", 0x70, 1, 4, .rws, 0x3ffff, 0x10000, 0⟩,
  ⟨"COEF_H5_7", 0x74, 3, 4, .rws, 0x3ffff, 0x0, 0⟩]

/-- CLK: spec/06_clocking.md R174. -/
def clkRegs : List RegDesc := [
  ⟨"RATE", 0x0, 1, 4, .rw, 0x1f7fff, 0x61a8, 0⟩,
  ⟨"STATUS", 0x4, 1, 4, .ro, 0x0, 0x0, 0⟩,
  ⟨"EVENTS", 0x8, 1, 4, .w1c, 0xfff, 0x0, 0⟩,
  ⟨"LOCK", 0xc, 1, 4, .rw, 0xfffff, 0x20814, 0⟩,
  ⟨"HOLD", 0x10, 1, 4, .rw, 0xcfffffff, 0x64000a, 0⟩,
  ⟨"SYNC", 0x18, 1, 4, .rw, 0x3, 0x0, 0⟩,
  ⟨"SYNC_OFFSET", 0x1c, 1, 4, .ro, 0x0, 0x0, 0⟩,
  ⟨"TSC_LO", 0x20, 1, 4, .ro, 0x0, 0x0, 0⟩,
  ⟨"TSC_HI", 0x24, 1, 4, .ro, 0x0, 0x0, 0⟩,
  ⟨"TSC_LOAD_LO", 0x28, 1, 4, .rw, 0xffffffff, 0x0, 0⟩,
  ⟨"TSC_LOAD_HI", 0x2c, 1, 4, .rw, 0xffffffff, 0x0, 0⟩,
  ⟨"BUILD_OUT_LO", 0x30, 1, 4, .ro, 0x0, 0x0, 0⟩,
  ⟨"BUILD_OUT_HI", 0x34, 1, 4, .ro, 0x0, 0x0, 0⟩,
  ⟨"PAIR_TRIM", 0x38, 1, 4, .rw, 0xffff, 0x0, 0⟩,
  ⟨"EPOCH_TSC_LO", 0x40, 1, 4, .ro, 0x0, 0x0, 0⟩,
  ⟨"EPOCH_TSC_HI", 0x44, 1, 4, .ro, 0x0, 0x0, 0⟩,
  ⟨"EPOCH_RATE", 0x48, 1, 4, .ro, 0x0, 0x61a8, 0⟩,
  ⟨"PLL_STATUS", 0x100, 5, 32, .ro, 0x0, 0x0, 0⟩,
  ⟨"PLL_MEAS", 0x104, 5, 32, .ro, 0x0, 0x0, 0⟩,
  ⟨"OUT0", 0x200, 4, 4, .rw, 0x80000000, 0x80000000, 0⟩,
  ⟨"OUT0_4", 0x210, 1, 4, .rw, 0x8fffffff, 0x80000001, 0⟩,
  ⟨"OUT0_5", 0x214, 1, 4, .rw, 0x80000000, 0x90000000, 0⟩,
  ⟨"OUT1", 0x240, 1, 4, .rw, 0x80000000, 0x80000000, 0⟩,
  ⟨"OUT2", 0x280, 2, 4, .rw, 0x80000000, 0xa0000000, 0⟩,
  ⟨"OUT3", 0x2c0, 1, 4, .rw, 0x80000000, 0xa0000000, 0⟩,
  ⟨"OUT4", 0x300, 4, 4, .rw, 0x80000000, 0xa0000000, 0⟩,
  ⟨"BAND0", 0x400, 16, 4, .ro, 0x0, 0x0, 0⟩,
  ⟨"BAND1", 0x440, 16, 4, .ro, 0x0, 0x0, 0⟩,
  ⟨"BAND2", 0x480, 16, 4, .ro, 0x0, 0x0, 0⟩,
  ⟨"BAND3", 0x4c0, 16, 4, .ro, 0x0, 0x0, 0⟩,
  ⟨"BAND4", 0x500, 16, 4, .ro, 0x0, 0x0, 0⟩]

/-- TRIG: spec/07_trigger.md R201. -/
def trigRegs : List RegDesc := [
  ⟨"APPLY", 0x0, 1, 4, .wo, 0x0, 0x0, 0⟩,
  ⟨"STATUS", 0x4, 1, 4, .ro, 0x0, 0x0, 0⟩,
  ⟨"EVENTS", 0x8, 1, 4, .w1c, 0x1fffff, 0x0, 0⟩,
  ⟨"AUX_CFG", 0x10, 1, 4, .rws, 0xff, 0x0, 0⟩,
  ⟨"AUX_OFFSET", 0x14, 1, 4, .rws, 0xffffffff, 0x0, 0⟩,
  ⟨"AUX_HOLDOFF", 0x18, 1, 4, .rws, 0xffffff, 0x0, 0⟩,
  ⟨"AUX_COUNT", 0x1c, 1, 4, .rcl, 0x0, 0x0, 0⟩,
  ⟨"AUX_LAST_FRAC", 0x20, 1, 4, .ro, 0x0, 0x0, 0⟩,
  ⟨"AUX_LAST_LO", 0x24, 1, 4, .ro, 0x0, 0x0, 0⟩,
  ⟨"AUX_LAST_HI", 0x28, 1, 4, .ro, 0x0, 0x0, 0⟩,
  ⟨"OUT_CFG", 0x30, 1, 4, .rw, 0xff, 0x0, 0⟩,
  ⟨"OUT_STATUS", 0x34, 1, 4, .ro, 0x0, 0x0, 0⟩,
  ⟨"OUT_COUNT", 0x38, 1, 4, .rcl, 0x0, 0x0, 0⟩,
  ⟨"UNIT_CFG", 0x100, 16, 64, .rws, 0xfff80000, 0x0, 0⟩,
  ⟨"UNIT_LEVEL", 0x104, 16, 64, .rws, 0x3fff3fff, 0x0, 0⟩,
  ⟨"UNIT_HYST", 0x108, 16, 64, .rws, 0xfff, 0x0, 0⟩,
  ⟨"UNIT_T_MIN", 0x10c, 16, 64, .rws, 0xffffffff, 0x0, 0⟩,
  ⟨"UNIT_T_MAX", 0x110, 16, 64, .rws, 0xffffffff, 0x0, 0⟩,
  ⟨"UNIT_HOLDOFF", 0x114, 16, 64, .rws, 0xffffff, 0x0, 0⟩,
  ⟨"UNIT_PAT_CARE", 0x118, 16, 64, .rws, 0x1ffff, 0x0, 0⟩,
  ⟨"UNIT_PAT_VALUE", 0x11c, 16, 64, .rws, 0x1ffff, 0x0, 0⟩,
  ⟨"UNIT_SEQ", 0x120, 16, 64, .rws, 0x11f1f1f, 0x0, 0⟩,
  ⟨"UNIT_SEQ_COUNT", 0x124, 16, 64, .rws, 0xffffff, 0x0, 0⟩,
  ⟨"UNIT_STATUS", 0x128, 16, 64, .ro, 0x0, 0x0, 0⟩,
  ⟨"UNIT_COUNT", 0x12c, 16, 64, .rcl, 0x0, 0x0, 0⟩,
  ⟨"UNIT_HELD", 0x130, 16, 64, .rcl, 0x0, 0x0, 0⟩,
  ⟨"UNIT_LAST_FRAC", 0x134, 16, 64, .ro, 0x0, 0x0, 0⟩,
  ⟨"UNIT_LAST_LO", 0x138, 16, 64, .ro, 0x0, 0x0, 0⟩,
  ⟨"UNIT_LAST_HI", 0x13c, 16, 64, .ro, 0x0, 0x0, 0⟩]

/-- LANE: spec/08_decimation_lanes.md R225. -/
def laneRegs : List RegDesc := [
  ⟨"BIND", 0x0, 64, 2048, .ro, 0x0, 0x0, 0⟩,
  ⟨"STATUS", 0x4, 64, 2048, .ro, 0x0, 0x0, 0⟩,
  ⟨"EVENTS", 0x8, 64, 2048, .w1c, 0xff, 0x0, 0⟩,
  ⟨"SHADOW_BUSY", 0xc, 64, 2048, .w1c, 0x1, 0x0, 0⟩,
  ⟨"SEAL", 0x10, 64, 2048, .wo, 0x0, 0x0, 0⟩,
  ⟨"DELAY_LO", 0x14, 64, 2048, .ro, 0x0, 0x0, 0⟩,
  ⟨"DELAY_HI", 0x18, 64, 2048, .ro, 0x0, 0x0, 0⟩,
  ⟨"OUT_RATE", 0x1c, 64, 2048, .ro, 0x0, 0x0, 0⟩,
  ⟨"COEF_PAGE", 0x20, 64, 2048, .rw, 0x131f, 0x0, 0⟩,
  ⟨"SWAP_FRAC", 0x24, 64, 2048, .ro, 0x0, 0x0, 0⟩,
  ⟨"SWAP_LO", 0x28, 64, 2048, .ro, 0x0, 0x0, 0⟩,
  ⟨"SWAP_HI", 0x2c, 64, 2048, .ro, 0x0, 0x0, 0⟩,
  ⟨"HANDOVERS", 0x30, 64, 2048, .rcl, 0x0, 0x0, 0⟩,
  ⟨"CLAMP_COUNT", 0x34, 64, 2048, .rcl, 0x0, 0x0, 0⟩,
  ⟨"RANK", 0x40, 64, 2048, .rws, 0xf, 0x0, 0⟩,
  ⟨"CIC_CFG", 0x44, 64, 2048, .rws, 0x3f0107, 0x0, 0⟩,
  ⟨"CIC_RATIO", 0x48, 64, 2048, .rws, 0x1ffff, 0x0, 0⟩,
  ⟨"CIC_GAIN", 0x4c, 64, 2048, .rws, 0x3ffff, 0x0, 0⟩,
  ⟨"FIR_CFG", 0x50, 64, 2048, .rws, 0x11fff, 0x0, 0⟩,
  ⟨"RS_CFG", 0x54, 64, 2048, .rws, 0x13, 0x0, 0⟩,
  ⟨"RS_NUM", 0x58, 64, 2048, .rws, 0xffffff, 0x0, 0⟩,
  ⟨"RS_DEN", 0x5c, 64, 2048, .rws, 0xffffff, 0x0, 0⟩,
  ⟨"RS_STEP_LO", 0x60, 64, 2048, .rws, 0xffffffff, 0x0, 0⟩,
  ⟨"RS_STEP_HI", 0x64, 64, 2048, .rws, 0xffff, 0x0, 0⟩,
  ⟨"RS_GRID", 0x68, 64, 2048, .rws, 0x1ffff, 0x0, 0⟩,
  ⟨"RS_MAXRATE", 0x6c, 64, 2048, .rws, 0xffffffff, 0x0, 0⟩,
  ⟨"PEAK_RATIO", 0x70, 64, 2048, .rws, 0x1ffff, 0x0, 0⟩,
  ⟨"ENV_RATIO", 0x74, 64, 2048, .rws, 0x1ffff, 0x0, 0⟩,
  ⟨"HIRES", 0x78, 64, 2048, .rws, 0x1f, 0x0, 0⟩]

/-- SEG: spec/09_segments_and_placement.md R249. -/
def segRegs : List RegDesc := [
  ⟨"STATUS", 0x0, 1, 4, .ro, 0x0, 0x40, 0⟩,
  ⟨"EVENTS", 0x4, 1, 4, .w1c, 0x3f, 0x0, 0⟩,
  ⟨"TABLE_FREE", 0x8, 1, 4, .ro, 0x0, 0x400000, 0⟩,
  ⟨"FREE_CHUNKS", 0xc, 1, 4, .ro, 0x0, 0x0, 0⟩,
  ⟨"RESERVED_CHUNKS", 0x10, 1, 4, .ro, 0x0, 0x0, 0⟩,
  ⟨"RING_FULL_COUNT", 0x14, 1, 4, .rcl, 0x0, 0x0, 0⟩,
  ⟨"OVERWRITE_GAPS", 0x18, 1, 4, .rcl, 0x0, 0x0, 0⟩,
  ⟨"TABLE_FULL_COUNT", 0x1c, 1, 4, .rcl, 0x0, 0x0, 0⟩,
  ⟨"CTX_CLEAR", 0x20, 1, 4, .wo, 0x0, 0x0, 0⟩,
  ⟨"GSEQ_HOST_LO", 0x28, 1, 4, .ro, 0x0, 0x0, 0⟩,
  ⟨"GSEQ_HOST_HI", 0x2c, 1, 4, .ro, 0x0, 0x0, 0⟩,
  ⟨"GSEQ_STREAM_LO", 0x30, 1, 4, .ro, 0x0, 0x0, 0⟩,
  ⟨"GSEQ_STREAM_HI", 0x34, 1, 4, .ro, 0x0, 0x0, 0⟩,
  ⟨"PC_LOAD", 0x100, 64, 4, .ro, 0x0, 0x0, 0⟩,
  ⟨"CSTAT_NEXT_LO", 0x4000, 1024, 16, .ro, 0x0, 0x0, 0⟩,
  ⟨"CSTAT_NEXT_HI", 0x4004, 1024, 16, .ro, 0x0, 0x0, 0⟩,
  ⟨"CSTAT_USED", 0x4008, 1024, 16, .ro, 0x0, 0x0, 0⟩,
  ⟨"CSTAT_RETAINED", 0x400c, 1024, 16, .ro, 0x0, 0x0, 0⟩]

/-- BEAM: spec/10_cloth_beams.md R278. -/
def beamRegs : List RegDesc := [
  ⟨"STATUS", 0x0, 1, 4, .ro, 0x0, 0x0, 0⟩,
  ⟨"EVENTS", 0x4, 1, 4, .w1c, 0x1ff, 0x0, 0⟩,
  ⟨"ACTION_IGNORED", 0x8, 1, 4, .rcl, 0x0, 0x0, 0⟩,
  ⟨"PLACE_FAIL", 0xc, 1, 4, .rcl, 0x0, 0x0, 0⟩,
  ⟨"FOLD_REFUSED", 0x10, 1, 4, .rcl, 0x0, 0x0, 0⟩,
  ⟨"PEEK_SEL", 0x14, 1, 4, .rw, 0xffffffff, 0x0, 0⟩,
  ⟨"PEEK", 0x18, 4, 4, .ro, 0x0, 0x0, 0⟩,
  ⟨"POOL_LO", 0x28, 1, 4, .ro, 0x0, 0x0, 0⟩,
  ⟨"POOL_HI", 0x2c, 1, 4, .ro, 0x0, 0x0, 0⟩,
  ⟨"BEAM_STATUS", 0x100, 16, 16, .ro, 0x0, 0x0, 0⟩,
  ⟨"CE_COUNT", 0x104, 16, 16, .rcl, 0x0, 0x0, 0⟩,
  ⟨"UE_COUNT", 0x108, 16, 16, .rcl, 0x0, 0x0, 0⟩,
  ⟨"JOB_CFG", 0x4000, 256, 64, .rw, 0xe0ff0f37, 0x0, 0⟩,
  ⟨"JOB_REPORT", 0x4004, 256, 64, .rw, 0x7003ff, 0x0, 0⟩,
  ⟨"JOB_WIDTH", 0x4008, 256, 64, .rw, 0x1ffffff, 0x0, 0⟩,
  ⟨"JOB_HEIGHT", 0x400c, 256, 64, .rw, 0xfff, 0x0, 0⟩,
  ⟨"JOB_X_START_LO", 0x4010, 256, 64, .rw, 0xffffffff, 0x0, 0⟩,
  ⟨"JOB_X_START_HI", 0x4014, 256, 64, .rw, 0xff, 0x0, 0⟩,
  ⟨"JOB_X_DIV", 0x4018, 256, 64, .rw, 0x1ffff, 0x0, 0⟩,
  ⟨"JOB_YMAP", 0x401c, 256, 64, .rw, 0xfffff, 0x0, 0⟩,
  ⟨"JOB_UI_LO", 0x4020, 256, 64, .rw, 0xffffffff, 0x0, 0⟩,
  ⟨"JOB_UI_HI", 0x4024, 256, 64, .rw, 0xffff, 0x0, 0⟩,
  ⟨"JOB_FOLD_OFFSET", 0x4028, 256, 64, .rw, 0xffffffff, 0x0, 0⟩,
  ⟨"JOB_AXIS_MULT", 0x402c, 256, 64, .rw, 0xffff, 0x0, 0⟩,
  ⟨"JOB_SWEEP_LIMIT", 0x4030, 256, 64, .rw, 0x1ffffff, 0x0, 0⟩,
  ⟨"JOB_CTRL", 0x4034, 256, 64, .wo, 0x0, 0x0, 0⟩,
  ⟨"JOB_STATE", 0x4038, 256, 64, .ro, 0x0, 0x0, 0⟩,
  ⟨"JOB_SWEEPS", 0x403c, 256, 64, .ro, 0x0, 0x0, 0⟩,
  ⟨"POLY_COUNT", 0x8000, 8, 256, .rw, 0x3f, 0x0, 0⟩,
  ⟨"POLY0", 0x8004, 63, 4, .rw, 0x1fff0fff, 0x0, 0⟩,
  ⟨"POLY1", 0x8104, 63, 4, .rw, 0x1fff0fff, 0x0, 0⟩,
  ⟨"POLY2", 0x8204, 63, 4, .rw, 0x1fff0fff, 0x0, 0⟩,
  ⟨"POLY3", 0x8304, 63, 4, .rw, 0x1fff0fff, 0x0, 0⟩,
  ⟨"POLY4", 0x8404, 63, 4, .rw, 0x1fff0fff, 0x0, 0⟩,
  ⟨"POLY5", 0x8504, 63, 4, .rw, 0x1fff0fff, 0x0, 0⟩,
  ⟨"POLY6", 0x8604, 63, 4, .rw, 0x1fff0fff, 0x0, 0⟩,
  ⟨"POLY7", 0x8704, 63, 4, .rw, 0x1fff0fff, 0x0, 0⟩]

/-- MEM: spec/11_memory_and_shuttle.md R302. -/
def memRegs : List RegDesc := [
  ⟨"FREQ", 0x0, 1, 4, .rw, 0x3, 0x0, 0⟩,
  ⟨"STATUS", 0x4, 1, 4, .ro, 0x0, 0x0, 0⟩,
  ⟨"EVENTS", 0x8, 1, 4, .w1c, 0x1ff, 0x0, 0⟩,
  ⟨"TRACK_PERIOD", 0xc, 1, 4, .rw, 0xffff, 0x64, 0⟩,
  ⟨"CE_TOTAL", 0x10, 1, 4, .rcl, 0x0, 0x0, 0⟩,
  ⟨"DBG_BASE", 0x14, 1, 4, .rw, 0xf, 0x0, 0⟩,
  ⟨"RETIRED_LO", 0x18, 1, 4, .ro, 0x0, 0x0, 0⟩,
  ⟨"RETIRED_HI", 0x1c, 1, 4, .ro, 0x0, 0x0, 0⟩,
  ⟨"FROZEN_LO", 0x20, 1, 4, .ro, 0x0, 0x0, 0⟩,
  ⟨"FROZEN_HI", 0x24, 1, 4, .ro, 0x0, 0x0, 0⟩,
  ⟨"QWIN_SEL", 0x30, 1, 4, .rw, 0x3f001f, 0x0, 0⟩,
  ⟨"QWIN0", 0x34, 1, 4, .ro, 0x0, 0x0, 0⟩,
  ⟨"QWIN1", 0x38, 1, 4, .ro, 0x0, 0x0, 0⟩,
  ⟨"QWIN2", 0x3c, 1, 4, .ro, 0x0, 0x0, 0⟩,
  ⟨"PC_STATE", 0x100, 64, 64, .ro, 0x0, 0x0, 0⟩,
  ⟨"PC_CTRL", 0x104, 64, 64, .wo, 0x0, 0x0, 0⟩,
  ⟨"PC_ERR_ADDR", 0x108, 64, 64, .ro, 0x0, 0x0, 0⟩,
  ⟨"PC_ERR_INFO", 0x10c, 64, 64, .ro, 0x0, 0x0, 0⟩,
  ⟨"PC_ERR_DATA_LO", 0x110, 64, 64, .ro, 0x0, 0x0, 0⟩,
  ⟨"PC_ERR_DATA_HI", 0x114, 64, 64, .ro, 0x0, 0x0, 0⟩,
  ⟨"PC_CE_COUNT", 0x118, 64, 64, .rcl, 0x0, 0x0, 0⟩,
  ⟨"PC_UE_COUNT", 0x11c, 64, 64, .rcl, 0x0, 0x0, 0⟩,
  ⟨"PC_LANEMAP", 0x120, 64, 64, .ro, 0x0, 0x3f3f, 0⟩,
  ⟨"PC_RD_CENTRE", 0x124, 64, 64, .ro, 0x0, 0x0, 0⟩,
  ⟨"PC_WR_CENTRE", 0x128, 64, 64, .ro, 0x0, 0x0, 0⟩,
  ⟨"PC_EYE_MIN", 0x12c, 64, 64, .ro, 0x0, 0x0, 0⟩,
  ⟨"PC_OUTSTANDING", 0x130, 64, 64, .ro, 0x0, 0x0, 0⟩]

/-- ARB: spec/11_memory_and_shuttle.md R303. -/
def arbRegs : List RegDesc := [
  ⟨"WINDOW", 0x0, 2, 4096, .rw, 0xffff, 0x400, 0⟩,
  ⟨"EVENTS", 0x4, 2, 4096, .w1c, 0xfff0fff, 0x0, 0⟩,
  ⟨"RQ0", 0x40, 2, 4096, .rw, 0xff07ffff, 0x4070c00, 0⟩,
  ⟨"RQ1", 0x44, 2, 4096, .rw, 0xff07ffff, 0x4070c00, 0⟩,
  ⟨"RQ2", 0x48, 2, 4096, .rw, 0xff07ffff, 0x4070c00, 0⟩,
  ⟨"RQ3", 0x4c, 2, 4096, .rw, 0xff07ffff, 0x4070c00, 0⟩,
  ⟨"RQ4", 0x50, 2, 4096, .rw, 0xff07ffff, 0x8060200, 0⟩,
  ⟨"RQ5", 0x54, 2, 4096, .rw, 0xff07ffff, 0x8060200, 0⟩,
  ⟨"RQ6", 0x58, 2, 4096, .rw, 0xff07ffff, 0x20040000, 0⟩,
  ⟨"RQ7", 0x5c, 2, 4096, .rw, 0xff07ffff, 0x20040000, 0⟩,
  ⟨"RQ8", 0x60, 2, 4096, .rw, 0xff07ffff, 0x10050000, 0⟩,
  ⟨"RQ9", 0x64, 2, 4096, .rw, 0xff07ffff, 0x20040000, 0⟩,
  ⟨"RQ10", 0x68, 2, 4096, .rw, 0xff07ffff, 0x10060100, 0⟩,
  ⟨"RQ11", 0x6c, 2, 4096, .rw, 0xff07ffff, 0xff000000, 0⟩,
  ⟨"STAT_S0", 0x80, 12, 4, .ro, 0x0, 0x0, 0⟩,
  ⟨"GRANTS_S0", 0xc0, 12, 4, .rcl, 0x0, 0x0, 0⟩,
  ⟨"FORCED_S0", 0x100, 12, 4, .rcl, 0x0, 0x0, 0⟩,
  ⟨"STAT_S1", 0x1080, 12, 4, .ro, 0x0, 0x0, 0⟩,
  ⟨"GRANTS_S1", 0x10c0, 12, 4, .rcl, 0x0, 0x0, 0⟩,
  ⟨"FORCED_S1", 0x1100, 12, 4, .rcl, 0x0, 0x0, 0⟩]

/-- DMA: spec/12_host_port_and_delivery.md R331. -/
def dmaRegs : List RegDesc := [
  ⟨"CTRL", 0x0, 1, 4, .wo, 0x0, 0x0, 0⟩,
  ⟨"STATUS", 0x4, 1, 4, .ro, 0x0, 0x0, 0⟩,
  ⟨"EVENTS", 0x8, 1, 4, .w1c, 0x1f, 0x0, 0⟩,
  ⟨"HALTED", 0xc, 1, 4, .ro, 0x0, 0x0, 0⟩,
  ⟨"VEC_MAP", 0x10, 1, 4, .rw, 0x3f3f3f3f, 0x3c3d3e3f, 0⟩,
  ⟨"LINK", 0x14, 1, 4, .ro, 0x0, 0x0, 0⟩,
  ⟨"CH_CFG_PF", 0x400, 4, 64, .rw, 0x3fff0770, 0x3, 0⟩,
  ⟨"CH_CTRL", 0x404, 32, 64, .wo, 0x0, 0x0, 0⟩,
  ⟨"CH_STATUS_PF", 0x408, 4, 64, .ro, 0x0, 0x1, 0⟩,
  ⟨"CH_ERR_ADDR_LO", 0x40c, 32, 64, .ro, 0x0, 0x0, 0⟩,
  ⟨"CH_ERR_ADDR_HI", 0x410, 32, 64, .ro, 0x0, 0x0, 0⟩,
  ⟨"CH_BURSTS", 0x414, 32, 64, .rcl, 0x0, 0x0, 0⟩,
  ⟨"CH_WITHDRAWN", 0x418, 32, 64, .rcl, 0x0, 0x0, 0⟩,
  ⟨"CH_CFG", 0x500, 28, 64, .rw, 0x3fff0773, 0x0, 0⟩,
  ⟨"CH_STATUS", 0x508, 28, 64, .ro, 0x0, 0x0, 0⟩,
  ⟨"DQ_CFG", 0x1000, 64, 64, .rw, 0x9f3fff00, 0x0, 0⟩,
  ⟨"DQ_BUF_LEN", 0x1004, 64, 64, .rw, 0x3ffff, 0x0, 0⟩,
  ⟨"DQ_FREE_BASE_LO", 0x1008, 64, 64, .rw, 0xffffffff, 0x0, 0⟩,
  ⟨"DQ_FREE_BASE_HI", 0x100c, 64, 64, .rw, 0xffffffff, 0x0, 0⟩,
  ⟨"DQ_COMP_BASE_LO", 0x1010, 64, 64, .rw, 0xffffffff, 0x0, 0⟩,
  ⟨"DQ_COMP_BASE_HI", 0x1014, 64, 64, .rw, 0xffffffff, 0x0, 0⟩,
  ⟨"DQ_FREE_PROD", 0x1018, 64, 64, .rw, 0xffffffff, 0x0, 0⟩,
  ⟨"DQ_FREE_CONS", 0x101c, 64, 64, .ro, 0x0, 0x0, 0⟩,
  ⟨"DQ_COMP_PROD", 0x1020, 64, 64, .ro, 0x0, 0x0, 0⟩,
  ⟨"DQ_COMP_CONS", 0x1024, 64, 64, .rw, 0xffffffff, 0x0, 0⟩,
  ⟨"DQ_COAL", 0x1028, 64, 64, .rw, 0xffffffff, 0x1, 0⟩,
  ⟨"DQ_VECTOR", 0x102c, 64, 64, .rw, 0x3f, 0x0, 1⟩,
  ⟨"DQ_STATUS", 0x1030, 64, 64, .ro, 0x0, 0x0, 0⟩,
  ⟨"DQ_EVENTS", 0x1034, 64, 64, .w1c, 0x7, 0x0, 0⟩,
  ⟨"DQ_STARVED_COUNT", 0x1038, 64, 64, .rcl, 0x0, 0x0, 0⟩,
  ⟨"MSIX_ADDR_LO", 0x8000, 64, 16, .rw, 0xfffffffc, 0x0, 0⟩,
  ⟨"MSIX_ADDR_HI", 0x8004, 64, 16, .rw, 0xffffffff, 0x0, 0⟩,
  ⟨"MSIX_DATA", 0x8008, 64, 16, .rw, 0xffffffff, 0x0, 0⟩,
  ⟨"MSIX_CTL", 0x800c, 64, 16, .rw, 0x1, 0x1, 0⟩,
  ⟨"PBA", 0x9000, 2, 4, .ro, 0x0, 0x0, 0⟩]

/-- STRM: spec/13_stream_port.md R346. -/
def strmRegs : List RegDesc := [
  ⟨"CTRL", 0x0, 1, 4, .rw, 0xff01, 0x100, 0⟩,
  ⟨"STATUS", 0x4, 1, 4, .ro, 0x0, 0x0, 0⟩,
  ⟨"EVENTS", 0x8, 1, 4, .w1c, 0x7f, 0x0, 0⟩,
  ⟨"COMMIT", 0xc, 1, 4, .ro, 0x0, 0x0, 0⟩,
  ⟨"LIMIT", 0x10, 1, 4, .ro, 0x0, 0x0, 0⟩,
  ⟨"SENT", 0x14, 1, 4, .ro, 0x0, 0x0, 0⟩,
  ⟨"FSEQ_NEXT", 0x18, 1, 4, .ro, 0x0, 0x0, 0⟩,
  ⟨"ACKED_LO", 0x20, 1, 4, .ro, 0x0, 0x0, 0⟩,
  ⟨"ACKED_HI", 0x24, 1, 4, .ro, 0x0, 0x0, 0⟩,
  ⟨"BACKLOG", 0x28, 1, 4, .ro, 0x0, 0x0, 0⟩,
  ⟨"DROPPED", 0x2c, 1, 4, .rcl, 0x0, 0x0, 0⟩,
  ⟨"RESENT", 0x30, 1, 4, .rcl, 0x0, 0x0, 0⟩,
  ⟨"CTL_BAD", 0x34, 1, 4, .rcl, 0x0, 0x0, 0⟩,
  ⟨"FEC_CORR", 0x38, 1, 4, .rcl, 0x0, 0x0, 0⟩,
  ⟨"FEC_UNCORR", 0x3c, 1, 4, .rcl, 0x0, 0x0, 0⟩]

/-- DISP: spec/14_display_scanout.md R360. -/
def dispRegs : List RegDesc := [
  ⟨"CTRL", 0x0, 1, 4, .rw, 0xc0030710, 0x20300, 0⟩,
  ⟨"STATUS", 0x4, 1, 4, .ro, 0x0, 0x0, 0⟩,
  ⟨"EVENTS", 0x8, 1, 4, .w1c, 0xfff, 0x0, 0⟩,
  ⟨"FRAME_COUNT", 0xc, 1, 4, .ro, 0x0, 0x0, 0⟩,
  ⟨"H_TIMING0", 0x10, 1, 4, .rw, 0x1fff1fff, 0x0, 0⟩,
  ⟨"H_TIMING1", 0x14, 1, 4, .rw, 0x9fff1fff, 0x0, 0⟩,
  ⟨"V_TIMING0", 0x18, 1, 4, .rw, 0x1fff1fff, 0x0, 0⟩,
  ⟨"V_TIMING1", 0x1c, 1, 4, .rw, 0x9fff1fff, 0x0, 0⟩,
  ⟨"PIXCLK", 0x20, 1, 4, .rw, 0xfffff, 0x0, 0⟩,
  ⟨"TIMING_COMMIT", 0x24, 1, 4, .wo, 0x0, 0x0, 0⟩,
  ⟨"BACKGROUND", 0x28, 1, 4, .rws, 0xffffff, 0x0, 0⟩,
  ⟨"LOCK", 0x2c, 1, 4, .rw, 0x1, 0x0, 0⟩,
  ⟨"AUX_CMD", 0x30, 1, 4, .wo, 0x0, 0x0, 0⟩,
  ⟨"AUX_STATUS", 0x34, 1, 4, .ro, 0x0, 0x0, 0⟩,
  ⟨"AUX_DATA", 0x38, 4, 4, .rw, 0xffffffff, 0x0, 0⟩,
  ⟨"PANEL", 0x48, 1, 4, .rw, 0x3, 0x0, 0⟩,
  ⟨"LUT_COMMIT", 0x4c, 1, 4, .wo, 0x0, 0x0, 0⟩,
  ⟨"CRC_STATUS", 0x50, 1, 4, .ro, 0x0, 0x0, 0⟩,
  ⟨"CRC_VOID", 0x54, 1, 4, .rcl, 0x0, 0x0, 0⟩,
  ⟨"LAYER_CFG", 0x100, 4, 64, .rws, 0x80ffffff, 0x0, 0⟩,
  ⟨"LAYER_POS", 0x104, 4, 64, .rws, 0x1fff1fff, 0x0, 0⟩,
  ⟨"LAYER_SIZE", 0x108, 4, 64, .rws, 0x1fff1fff, 0x0, 0⟩,
  ⟨"LAYER_ADDR_LO", 0x10c, 4, 64, .rws, 0xffffffff, 0x0, 0⟩,
  ⟨"LAYER_ADDR_HI", 0x110, 4, 64, .rws, 0xffffffff, 0x0, 0⟩,
  ⟨"LAYER_STRIDE", 0x114, 4, 64, .rws, 0xfffff, 0x0, 0⟩,
  ⟨"LAYER_KEY", 0x118, 4, 64, .rws, 0xffffff, 0x0, 0⟩,
  ⟨"LAYER_STATUS", 0x11c, 4, 64, .ro, 0x0, 0x8, 0⟩,
  ⟨"LAYER_REL_ADDR_LO", 0x120, 4, 64, .ro, 0x0, 0x0, 0⟩,
  ⟨"LAYER_REL_ADDR_HI", 0x124, 4, 64, .ro, 0x0, 0x0, 0⟩,
  ⟨"LAYER_UNDERRUN", 0x128, 4, 64, .rcl, 0x0, 0x0, 0⟩,
  ⟨"CRC_POS", 0x200, 8, 32, .rws, 0x1fff1fff, 0x0, 0⟩,
  ⟨"CRC_SIZE", 0x204, 8, 32, .rws, 0x1fff1fff, 0x0, 0⟩,
  ⟨"CRC_EXPECT", 0x208, 8, 32, .rws, 0xffffffff, 0x0, 0⟩,
  ⟨"CRC_RESULT", 0x20c, 8, 32, .ro, 0x0, 0x0, 0⟩,
  ⟨"CRC_MISMATCH", 0x210, 8, 32, .rcl, 0x0, 0x0, 0⟩,
  ⟨"CRC_CFG", 0x214, 8, 32, .rws, 0x1, 0x0, 0⟩,
  ⟨"CRC_SKIPPED", 0x218, 8, 32, .rcl, 0x0, 0x0, 0⟩,
  ⟨"CURSOR", 0x1000, 8192, 4, .rw, 0xffffffff, 0x0, 0⟩,
  ⟨"LUT", 0x9000, 256, 4, .rw, 0xffffffff, 0x0, 0⟩]

/-- PAIR: spec/16_pair_and_array.md R410. -/
def pairRegs : List RegDesc := [
  ⟨"CTRL", 0x0, 1, 4, .wo, 0x0, 0x0, 0⟩,
  ⟨"STATUS", 0x4, 1, 4, .ro, 0x0, 0x0, 0⟩,
  ⟨"EVENTS", 0x8, 1, 4, .w1c, 0x1ff, 0x0, 0⟩,
  ⟨"ID", 0xc, 1, 4, .ro, 0x0, 0x0, 0⟩,
  ⟨"PHASE_COMP", 0x10, 1, 4, .rw, 0xffff, 0x0, 0⟩,
  ⟨"PHASE_ERR", 0x14, 1, 4, .ro, 0x0, 0x0, 0⟩,
  ⟨"FORM_REFUSE", 0x18, 1, 4, .ro, 0x0, 0x0, 0⟩,
  ⟨"MIRROR_QUOTA", 0x1c, 1, 4, .ro, 0x0, 0x0, 0⟩,
  ⟨"MIRROR_USED", 0x20, 1, 4, .ro, 0x0, 0x0, 0⟩,
  ⟨"HB_MISSED", 0x24, 1, 4, .rcl, 0x0, 0x0, 0⟩,
  ⟨"CELL_BAD", 0x28, 1, 4, .rcl, 0x0, 0x0, 0⟩,
  ⟨"REPLAYED", 0x2c, 1, 4, .rcl, 0x0, 0x0, 0⟩,
  ⟨"TAKEOVER_TSC_LO", 0x30, 1, 4, .ro, 0x0, 0x0, 0⟩,
  ⟨"TAKEOVER_TSC_HI", 0x34, 1, 4, .ro, 0x0, 0x0, 0⟩]

/-- FLT: spec/17_faults_and_ordering.md R430. -/
def fltRegs : List RegDesc := [
  ⟨"SUMMARY", 0x0, 1, 4, .ro, 0x0, 0x0, 0⟩,
  ⟨"CLASS", 0x4, 1, 4, .w1c, 0xfffff, 0x0, 0⟩,
  ⟨"HOST", 0x8, 1, 4, .w1c, 0x3fff, 0x0, 0⟩,
  ⟨"DRAFT", 0xc, 1, 4, .w1c, 0x3, 0x0, 0⟩,
  ⟨"BBX", 0x10, 1, 4, .w1c, 0x3, 0x0, 0⟩,
  ⟨"FATAL", 0x14, 1, 4, .ro, 0x0, 0x0, 0⟩,
  ⟨"FATAL_TSC_LO", 0x18, 1, 4, .ro, 0x0, 0x0, 0⟩,
  ⟨"FATAL_TSC_HI", 0x1c, 1, 4, .ro, 0x0, 0x0, 0⟩,
  ⟨"HELD", 0x20, 1, 4, .ro, 0x0, 0x0, 0⟩,
  ⟨"THERM", 0x24, 1, 4, .ro, 0x0, 0x0, 0⟩,
  ⟨"OCC_SEL", 0x28, 1, 4, .rw, 0xffffff, 0x0, 0⟩,
  ⟨"OCC", 0x30, 8, 4, .rcl, 0x0, 0x0, 0⟩,
  ⟨"GAP", 0x84, 10, 4, .rcl, 0x0, 0x0, 0⟩]

/-- BBX: spec/15_startup_and_black_box.md R385. -/
def bbxRegs : List RegDesc := [
  ⟨"CTRL", 0x0, 1, 4, .wo, 0x0, 0x0, 0⟩,
  ⟨"STATUS", 0x4, 1, 4, .ro, 0x0, 0x0, 0⟩,
  ⟨"EVENTS", 0x8, 1, 4, .w1c, 0x3ff, 0x0, 0⟩,
  ⟨"NEXT_LO", 0x10, 1, 4, .ro, 0x0, 0x0, 0⟩,
  ⟨"NEXT_HI", 0x14, 1, 4, .ro, 0x0, 0x0, 0⟩,
  ⟨"OLDEST_LO", 0x18, 1, 4, .ro, 0x0, 0x0, 0⟩,
  ⟨"OLDEST_HI", 0x1c, 1, 4, .ro, 0x0, 0x0, 0⟩,
  ⟨"SNAP_FROM_LO", 0x20, 1, 4, .rw, 0xffffffff, 0x0, 0⟩,
  ⟨"SNAP_FROM_HI", 0x24, 1, 4, .rw, 0xffff, 0x0, 0⟩,
  ⟨"SNAP_TO_LO", 0x28, 1, 4, .rw, 0xffffffff, 0x0, 0⟩,
  ⟨"SNAP_TO_HI", 0x2c, 1, 4, .rw, 0xffff, 0x0, 0⟩,
  ⟨"READ_SEL_LO", 0x30, 1, 4, .rw, 0xffffffff, 0x0, 0⟩,
  ⟨"READ_SEL_HI", 0x34, 1, 4, .rw, 0xffff, 0x0, 0⟩,
  ⟨"PENDING", 0x38, 1, 4, .ro, 0x0, 0x0, 0⟩,
  ⟨"PCC", 0x3c, 1, 4, .ro, 0x0, 0x0, 0⟩,
  ⟨"HOURS", 0x40, 1, 4, .ro, 0x0, 0x0, 0⟩,
  ⟨"SECS", 0x44, 1, 4, .ro, 0x0, 0x0, 0⟩,
  ⟨"LOST_COUNT", 0x48, 1, 4, .rcl, 0x0, 0x0, 0⟩,
  ⟨"ANNOT_WALL_LO", 0x50, 1, 4, .rw, 0xffffffff, 0x0, 0⟩,
  ⟨"ANNOT_WALL_HI", 0x54, 1, 4, .rw, 0xffffffff, 0x0, 0⟩,
  ⟨"ANNOT_CTRL", 0x58, 1, 4, .wo, 0x0, 0x0, 0⟩,
  ⟨"ANNOT_NOTE", 0x60, 8, 4, .rw, 0xffffffff, 0x0, 0⟩,
  ⟨"ERASE_CHAL", 0x80, 4, 4, .ro, 0x0, 0x0, 0⟩,
  ⟨"ERASE_RESP", 0x90, 4, 4, .wo, 0x0, 0x0, 0⟩,
  ⟨"ERASE_CTRL", 0xa0, 1, 4, .rw, 0x0, 0xf80000, 0⟩,
  ⟨"READ", 0x100, 16, 4, .ro, 0x0, 0x0, 0⟩]

/-- TEST: spec/15_startup_and_black_box.md R384. -/
def testRegs : List RegDesc := [
  ⟨"RESULT", 0x0, 1, 4, .ro, 0x0, 0x0, 0⟩,
  ⟨"DURATION", 0x4, 1, 4, .ro, 0x0, 0x0, 0⟩,
  ⟨"SAFE_CODE", 0x8, 1, 4, .ro, 0x0, 0x0, 0⟩,
  ⟨"DETAIL", 0x10, 10, 4, .ro, 0x0, 0x0, 0⟩]

/-- The block that holds a BAR0 offset: its base and its registers (R431). -/
def blockAt (off : Nat) : Option (Nat × List RegDesc) :=
  match off / 0x10000 with
  | 0 => some (0x0, devRegs)
  | 1 => some (0x10000, draftRegs)
  | 2 => some (0x20000, axisRegs)
  | 3 => some (0x30000, loomRegs)
  | 4 => some (0x40000, ctxRegs)
  | 5 => some (0x40000, ctxRegs)
  | 6 => some (0x40000, ctxRegs)
  | 7 => some (0x40000, ctxRegs)
  | 8 => some (0x80000, convRegs)
  | 9 => some (0x90000, calRegs)
  | 10 => some (0xa0000, clkRegs)
  | 11 => some (0xb0000, trigRegs)
  | 12 => some (0xc0000, laneRegs)
  | 13 => some (0xc0000, laneRegs)
  | 14 => some (0xe0000, segRegs)
  | 15 => some (0xf0000, beamRegs)
  | 16 => some (0x100000, memRegs)
  | 17 => some (0x110000, arbRegs)
  | 18 => some (0x120000, dmaRegs)
  | 19 => some (0x130000, strmRegs)
  | 20 => some (0x140000, dispRegs)
  | 21 => some (0x150000, pairRegs)
  | 22 => some (0x160000, fltRegs)
  | 23 => some (0x170000, bbxRegs)
  | 24 => some (0x180000, testRegs)
  | _ => none

/-- Whether register description `d` covers offset `o` of its block, and as which instance. -/
def RegDesc.index? (d : RegDesc) (o : Nat) : Option Nat :=
  if d.off ≤ o ∧ (o - d.off) % d.stride = 0 ∧ (o - d.off) / d.stride < d.cnt then some ((o - d.off) / d.stride) else none

/-- The first description covering an offset, with the instance number. -/
def findDesc : List RegDesc → Nat → Option (RegDesc × Nat)
  | [], _ => none
  | d :: ds, o => match d.index? o with
    | some i => some (d, i)
    | none => findDesc ds o

/-- The register at a BAR0 offset; none for reserved space (R9). -/
def descAt (off : Nat) : Option (RegDesc × Nat) :=
  match blockAt off with
  | some (base, ds) => findDesc ds (off - base)
  | none => none

/-- The reset value of the register at an offset; reserved space reads zero (R9). -/
def resetValue (off : Nat) : Word :=
  match descAt off with
  | some (d, i) => BitVec.ofNat 32 (d.reset + d.stepReset * i)
  | none => 0

/-- The access code at an offset (reserved space is read only, R9). -/
def accessAt (off : Nat) : Access :=
  match descAt off with
  | some (d, _) => d.acc
  | none => .ro

/-- The writable (RW, RWS) or clearable (W1C) bits at an offset. -/
def maskAt (off : Nat) : Word :=
  match descAt off with
  | some (d, _) => BitVec.ofNat 32 d.mask
  | none => 0

namespace Reg

abbrev DEV_ID : Nat := 0x0
abbrev DEV_STEP : Nat := 0x4
abbrev DEV_STATE : Nat := 0x8
abbrev DEV_CTRL : Nat := 0xc
abbrev DEV_SERIAL_LO : Nat := 0x10
abbrev DEV_SERIAL_HI : Nat := 0x14
abbrev DEV_SUBSYS : Nat := 0x18
abbrev DEV_CAPS : Nat := 0x1c
abbrev DEV_MAP_VERSION : Nat := 0x20
abbrev DEV_SCRATCH : Nat := 0x24
abbrev DRAFT_CTRL : Nat := 0x10000
abbrev DRAFT_STATUS : Nat := 0x10004
abbrev DRAFT_CHECK_STATUS : Nat := 0x10008
abbrev DRAFT_STAGE_ADDR : Nat := 0x1000c
abbrev DRAFT_STAGE_DATA : Nat := 0x10010
abbrev DRAFT_IMG_SERIAL : Nat := 0x10014
abbrev DRAFT_DIGEST (i : Nat) : Nat := 0x10020 + 4 * i
abbrev DRAFT_KEY_HASH (i : Nat) : Nat := 0x10040 + 4 * i
abbrev DRAFT_FUSE_STAGE (i : Nat) : Nat := 0x10060 + 4 * i
abbrev DRAFT_FUSE_CTRL : Nat := 0x10080
abbrev AXIS_CFG : Nat := 0x20000
abbrev AXIS_SCALE : Nat := 0x20004
abbrev AXIS_POLICY : Nat := 0x20008
abbrev AXIS_PHASE_THRESH : Nat := 0x2000c
abbrev AXIS_COAST_WINDOW : Nat := 0x20010
abbrev AXIS_STALL_TIMEOUT : Nat := 0x20014
abbrev AXIS_LOOP : Nat := 0x20018
abbrev AXIS_STATUS : Nat := 0x2001c
abbrev AXIS_EVENTS : Nat := 0x20020
abbrev AXIS_POS_LO : Nat := 0x20028
abbrev AXIS_POS_HI : Nat := 0x2002c
abbrev AXIS_RATE_LO : Nat := 0x20030
abbrev AXIS_RATE_HI : Nat := 0x20034
abbrev AXIS_Z_LATCH_LO : Nat := 0x20038
abbrev AXIS_Z_LATCH_HI : Nat := 0x2003c
abbrev AXIS_STEP_FROM_LO : Nat := 0x20040
abbrev AXIS_STEP_FROM_HI : Nat := 0x20044
abbrev AXIS_STEP_TO_LO : Nat := 0x20048
abbrev AXIS_STEP_TO_HI : Nat := 0x2004c
abbrev AXIS_CMP_LO (i : Nat) : Nat := 0x20100 + 8 * i
abbrev AXIS_CMP_HI (i : Nat) : Nat := 0x20104 + 8 * i
abbrev AXIS_CMP_STEP_LO (i : Nat) : Nat := 0x20180 + 8 * i
abbrev AXIS_CMP_STEP_HI (i : Nat) : Nat := 0x20184 + 8 * i
abbrev AXIS_CMP_LOAD_LO (i : Nat) : Nat := 0x20200 + 8 * i
abbrev AXIS_CMP_LOAD_HI (i : Nat) : Nat := 0x20204 + 8 * i
abbrev LOOM_CTRL : Nat := 0x30000
abbrev LOOM_STATUS : Nat := 0x30004
abbrev LOOM_EVENTS : Nat := 0x30008
abbrev LOOM_SWAP : Nat := 0x3000c
abbrev LOOM_WIN : Nat := 0x30010
abbrev LOOM_ENTRY (i : Nat) : Nat := 0x30020 + 4 * i
abbrev LOOM_CURSOR (i : Nat) : Nat := 0x30030 + 4 * i
abbrev LOOM_DOORBELL : Nat := 0x30040
abbrev LOOM_DOORBELL_PEND : Nat := 0x30044
abbrev LOOM_FLAGS : Nat := 0x30048
abbrev LOOM_ARM_FAIL_LAST : Nat := 0x30050
abbrev LOOM_ARM_FAIL_COUNT : Nat := 0x30054
abbrev LOOM_OPEN_REFUSED : Nat := 0x30058
abbrev LOOM_LATE_COUNT : Nat := 0x3005c
abbrev LOOM_NOT_LIVE_COUNT : Nat := 0x30060
abbrev CTX_CTL (i : Nat) : Nat := 0x40000 + 256 * i
abbrev CTX_TRIG_MASK (i : Nat) : Nat := 0x40004 + 256 * i
abbrev CTX_HOLDOFF_LO (i : Nat) : Nat := 0x40008 + 256 * i
abbrev CTX_HOLDOFF_HI (i : Nat) : Nat := 0x4000c + 256 * i
abbrev CTX_STORE (i : Nat) : Nat := 0x40010 + 256 * i
abbrev CTX_SEG_LEN_LO (i : Nat) : Nat := 0x40014 + 256 * i
abbrev CTX_SEG_LEN_HI (i : Nat) : Nat := 0x40018 + 256 * i
abbrev CTX_PRETRIG_LO (i : Nat) : Nat := 0x4001c + 256 * i
abbrev CTX_PRETRIG_HI (i : Nat) : Nat := 0x40020 + 256 * i
abbrev CTX_QUOTA (i : Nat) : Nat := 0x40024 + 256 * i
abbrev CTX_STREAM_QUOTA (i : Nat) : Nat := 0x40028 + 256 * i
abbrev CTX_FREEZE_TIMEOUT (i : Nat) : Nat := 0x4002c + 256 * i
abbrev CTX_RANK (i : Nat) : Nat := 0x40040 + 256 * i
abbrev CTX_CIC_CFG (i : Nat) : Nat := 0x40044 + 256 * i
abbrev CTX_CIC_RATIO (i : Nat) : Nat := 0x40048 + 256 * i
abbrev CTX_CIC_GAIN (i : Nat) : Nat := 0x4004c + 256 * i
abbrev CTX_FIR_CFG (i : Nat) : Nat := 0x40050 + 256 * i
abbrev CTX_RS_CFG (i : Nat) : Nat := 0x40054 + 256 * i
abbrev CTX_RS_NUM (i : Nat) : Nat := 0x40058 + 256 * i
abbrev CTX_RS_DEN (i : Nat) : Nat := 0x4005c + 256 * i
abbrev CTX_RS_STEP_LO (i : Nat) : Nat := 0x40060 + 256 * i
abbrev CTX_RS_STEP_HI (i : Nat) : Nat := 0x40064 + 256 * i
abbrev CTX_RS_GRID (i : Nat) : Nat := 0x40068 + 256 * i
abbrev CTX_RS_MAXRATE (i : Nat) : Nat := 0x4006c + 256 * i
abbrev CTX_PEAK_RATIO (i : Nat) : Nat := 0x40070 + 256 * i
abbrev CTX_ENV_RATIO (i : Nat) : Nat := 0x40074 + 256 * i
abbrev CTX_HIRES (i : Nat) : Nat := 0x40078 + 256 * i
abbrev CONV_MODE : Nat := 0x80000
abbrev CONV_REF_CTRL : Nat := 0x80004
abbrev CONV_REF_STATUS : Nat := 0x80008
abbrev CONV_EVENTS : Nat := 0x8000c
abbrev CONV_BW_COMMIT : Nat := 0x80010
abbrev CONV_W16_COMMIT : Nat := 0x80014
abbrev CAL_CTRL : Nat := 0x90000
abbrev CAL_STATUS : Nat := 0x90004
abbrev CAL_EVENTS : Nat := 0x90008
abbrev CAL_SWEEP_PERIOD : Nat := 0x9000c
abbrev CAL_LOOP : Nat := 0x90010
abbrev CAL_INJ : Nat := 0x90014
abbrev CAL_INJ_STATUS : Nat := 0x90018
abbrev CAL_INJ_DROPPED : Nat := 0x9001c
abbrev CAL_MON_PEEK : Nat := 0x90020
abbrev CAL_MON_POP : Nat := 0x90024
abbrev CAL_MON_COUNT : Nat := 0x90028
abbrev CAL_MON_LOST : Nat := 0x9002c
abbrev CAL_SWEEP_COUNT : Nat := 0x90030
abbrev CAL_SEL : Nat := 0x90040
abbrev CAL_COEF_OFFSET : Nat := 0x90044
abbrev CAL_COEF_GAIN : Nat := 0x90048
abbrev CAL_COEF_DELAY : Nat := 0x9004c
abbrev CAL_COEF_TRIM : Nat := 0x90050
abbrev CAL_COEF_COMMIT : Nat := 0x90054
abbrev CLK_RATE : Nat := 0xa0000
abbrev CLK_STATUS : Nat := 0xa0004
abbrev CLK_EVENTS : Nat := 0xa0008
abbrev CLK_LOCK : Nat := 0xa000c
abbrev CLK_HOLD : Nat := 0xa0010
abbrev CLK_SYNC : Nat := 0xa0018
abbrev CLK_SYNC_OFFSET : Nat := 0xa001c
abbrev CLK_TSC_LO : Nat := 0xa0020
abbrev CLK_TSC_HI : Nat := 0xa0024
abbrev CLK_TSC_LOAD_LO : Nat := 0xa0028
abbrev CLK_TSC_LOAD_HI : Nat := 0xa002c
abbrev CLK_BUILD_OUT_LO : Nat := 0xa0030
abbrev CLK_BUILD_OUT_HI : Nat := 0xa0034
abbrev CLK_PAIR_TRIM : Nat := 0xa0038
abbrev CLK_EPOCH_TSC_LO : Nat := 0xa0040
abbrev CLK_EPOCH_TSC_HI : Nat := 0xa0044
abbrev CLK_EPOCH_RATE : Nat := 0xa0048
abbrev CLK_PLL_STATUS (i : Nat) : Nat := 0xa0100 + 32 * i
abbrev CLK_PLL_MEAS (i : Nat) : Nat := 0xa0104 + 32 * i
abbrev TRIG_APPLY : Nat := 0xb0000
abbrev TRIG_STATUS : Nat := 0xb0004
abbrev TRIG_EVENTS : Nat := 0xb0008
abbrev TRIG_AUX_CFG : Nat := 0xb0010
abbrev TRIG_AUX_OFFSET : Nat := 0xb0014
abbrev TRIG_AUX_HOLDOFF : Nat := 0xb0018
abbrev TRIG_AUX_COUNT : Nat := 0xb001c
abbrev TRIG_AUX_LAST_FRAC : Nat := 0xb0020
abbrev TRIG_AUX_LAST_LO : Nat := 0xb0024
abbrev TRIG_AUX_LAST_HI : Nat := 0xb0028
abbrev TRIG_OUT_CFG : Nat := 0xb0030
abbrev TRIG_OUT_STATUS : Nat := 0xb0034
abbrev TRIG_OUT_COUNT : Nat := 0xb0038
abbrev TRIG_UNIT_CFG (i : Nat) : Nat := 0xb0100 + 64 * i
abbrev TRIG_UNIT_LEVEL (i : Nat) : Nat := 0xb0104 + 64 * i
abbrev TRIG_UNIT_HYST (i : Nat) : Nat := 0xb0108 + 64 * i
abbrev TRIG_UNIT_T_MIN (i : Nat) : Nat := 0xb010c + 64 * i
abbrev TRIG_UNIT_T_MAX (i : Nat) : Nat := 0xb0110 + 64 * i
abbrev TRIG_UNIT_HOLDOFF (i : Nat) : Nat := 0xb0114 + 64 * i
abbrev TRIG_UNIT_PAT_CARE (i : Nat) : Nat := 0xb0118 + 64 * i
abbrev TRIG_UNIT_PAT_VALUE (i : Nat) : Nat := 0xb011c + 64 * i
abbrev TRIG_UNIT_SEQ (i : Nat) : Nat := 0xb0120 + 64 * i
abbrev TRIG_UNIT_SEQ_COUNT (i : Nat) : Nat := 0xb0124 + 64 * i
abbrev TRIG_UNIT_STATUS (i : Nat) : Nat := 0xb0128 + 64 * i
abbrev TRIG_UNIT_COUNT (i : Nat) : Nat := 0xb012c + 64 * i
abbrev TRIG_UNIT_HELD (i : Nat) : Nat := 0xb0130 + 64 * i
abbrev TRIG_UNIT_LAST_FRAC (i : Nat) : Nat := 0xb0134 + 64 * i
abbrev TRIG_UNIT_LAST_LO (i : Nat) : Nat := 0xb0138 + 64 * i
abbrev TRIG_UNIT_LAST_HI (i : Nat) : Nat := 0xb013c + 64 * i
abbrev LANE_BIND (i : Nat) : Nat := 0xc0000 + 2048 * i
abbrev LANE_STATUS (i : Nat) : Nat := 0xc0004 + 2048 * i
abbrev LANE_EVENTS (i : Nat) : Nat := 0xc0008 + 2048 * i
abbrev LANE_SHADOW_BUSY (i : Nat) : Nat := 0xc000c + 2048 * i
abbrev LANE_SEAL (i : Nat) : Nat := 0xc0010 + 2048 * i
abbrev LANE_DELAY_LO (i : Nat) : Nat := 0xc0014 + 2048 * i
abbrev LANE_DELAY_HI (i : Nat) : Nat := 0xc0018 + 2048 * i
abbrev LANE_OUT_RATE (i : Nat) : Nat := 0xc001c + 2048 * i
abbrev LANE_COEF_PAGE (i : Nat) : Nat := 0xc0020 + 2048 * i
abbrev LANE_SWAP_FRAC (i : Nat) : Nat := 0xc0024 + 2048 * i
abbrev LANE_SWAP_LO (i : Nat) : Nat := 0xc0028 + 2048 * i
abbrev LANE_SWAP_HI (i : Nat) : Nat := 0xc002c + 2048 * i
abbrev LANE_HANDOVERS (i : Nat) : Nat := 0xc0030 + 2048 * i
abbrev LANE_CLAMP_COUNT (i : Nat) : Nat := 0xc0034 + 2048 * i
abbrev LANE_RANK (i : Nat) : Nat := 0xc0040 + 2048 * i
abbrev LANE_CIC_CFG (i : Nat) : Nat := 0xc0044 + 2048 * i
abbrev LANE_CIC_RATIO (i : Nat) : Nat := 0xc0048 + 2048 * i
abbrev LANE_CIC_GAIN (i : Nat) : Nat := 0xc004c + 2048 * i
abbrev LANE_FIR_CFG (i : Nat) : Nat := 0xc0050 + 2048 * i
abbrev LANE_RS_CFG (i : Nat) : Nat := 0xc0054 + 2048 * i
abbrev LANE_RS_NUM (i : Nat) : Nat := 0xc0058 + 2048 * i
abbrev LANE_RS_DEN (i : Nat) : Nat := 0xc005c + 2048 * i
abbrev LANE_RS_STEP_LO (i : Nat) : Nat := 0xc0060 + 2048 * i
abbrev LANE_RS_STEP_HI (i : Nat) : Nat := 0xc0064 + 2048 * i
abbrev LANE_RS_GRID (i : Nat) : Nat := 0xc0068 + 2048 * i
abbrev LANE_RS_MAXRATE (i : Nat) : Nat := 0xc006c + 2048 * i
abbrev LANE_PEAK_RATIO (i : Nat) : Nat := 0xc0070 + 2048 * i
abbrev LANE_ENV_RATIO (i : Nat) : Nat := 0xc0074 + 2048 * i
abbrev LANE_HIRES (i : Nat) : Nat := 0xc0078 + 2048 * i
abbrev SEG_STATUS : Nat := 0xe0000
abbrev SEG_EVENTS : Nat := 0xe0004
abbrev SEG_TABLE_FREE : Nat := 0xe0008
abbrev SEG_FREE_CHUNKS : Nat := 0xe000c
abbrev SEG_RESERVED_CHUNKS : Nat := 0xe0010
abbrev SEG_RING_FULL_COUNT : Nat := 0xe0014
abbrev SEG_OVERWRITE_GAPS : Nat := 0xe0018
abbrev SEG_TABLE_FULL_COUNT : Nat := 0xe001c
abbrev SEG_CTX_CLEAR : Nat := 0xe0020
abbrev SEG_GSEQ_HOST_LO : Nat := 0xe0028
abbrev SEG_GSEQ_HOST_HI : Nat := 0xe002c
abbrev SEG_GSEQ_STREAM_LO : Nat := 0xe0030
abbrev SEG_GSEQ_STREAM_HI : Nat := 0xe0034
abbrev SEG_PC_LOAD (i : Nat) : Nat := 0xe0100 + 4 * i
abbrev SEG_CSTAT_NEXT_LO (i : Nat) : Nat := 0xe4000 + 16 * i
abbrev SEG_CSTAT_NEXT_HI (i : Nat) : Nat := 0xe4004 + 16 * i
abbrev SEG_CSTAT_USED (i : Nat) : Nat := 0xe4008 + 16 * i
abbrev SEG_CSTAT_RETAINED (i : Nat) : Nat := 0xe400c + 16 * i
abbrev BEAM_STATUS : Nat := 0xf0000
abbrev BEAM_EVENTS : Nat := 0xf0004
abbrev BEAM_ACTION_IGNORED : Nat := 0xf0008
abbrev BEAM_PLACE_FAIL : Nat := 0xf000c
abbrev BEAM_FOLD_REFUSED : Nat := 0xf0010
abbrev BEAM_PEEK_SEL : Nat := 0xf0014
abbrev BEAM_PEEK (i : Nat) : Nat := 0xf0018 + 4 * i
abbrev BEAM_POOL_LO : Nat := 0xf0028
abbrev BEAM_POOL_HI : Nat := 0xf002c
abbrev BEAM_BEAM_STATUS (i : Nat) : Nat := 0xf0100 + 16 * i
abbrev BEAM_CE_COUNT (i : Nat) : Nat := 0xf0104 + 16 * i
abbrev BEAM_UE_COUNT (i : Nat) : Nat := 0xf0108 + 16 * i
abbrev BEAM_JOB_CFG (i : Nat) : Nat := 0xf4000 + 64 * i
abbrev BEAM_JOB_REPORT (i : Nat) : Nat := 0xf4004 + 64 * i
abbrev BEAM_JOB_WIDTH (i : Nat) : Nat := 0xf4008 + 64 * i
abbrev BEAM_JOB_HEIGHT (i : Nat) : Nat := 0xf400c + 64 * i
abbrev BEAM_JOB_X_START_LO (i : Nat) : Nat := 0xf4010 + 64 * i
abbrev BEAM_JOB_X_START_HI (i : Nat) : Nat := 0xf4014 + 64 * i
abbrev BEAM_JOB_X_DIV (i : Nat) : Nat := 0xf4018 + 64 * i
abbrev BEAM_JOB_YMAP (i : Nat) : Nat := 0xf401c + 64 * i
abbrev BEAM_JOB_UI_LO (i : Nat) : Nat := 0xf4020 + 64 * i
abbrev BEAM_JOB_UI_HI (i : Nat) : Nat := 0xf4024 + 64 * i
abbrev BEAM_JOB_FOLD_OFFSET (i : Nat) : Nat := 0xf4028 + 64 * i
abbrev BEAM_JOB_AXIS_MULT (i : Nat) : Nat := 0xf402c + 64 * i
abbrev BEAM_JOB_SWEEP_LIMIT (i : Nat) : Nat := 0xf4030 + 64 * i
abbrev BEAM_JOB_CTRL (i : Nat) : Nat := 0xf4034 + 64 * i
abbrev BEAM_JOB_STATE (i : Nat) : Nat := 0xf4038 + 64 * i
abbrev BEAM_JOB_SWEEPS (i : Nat) : Nat := 0xf403c + 64 * i
abbrev MEM_FREQ : Nat := 0x100000
abbrev MEM_STATUS : Nat := 0x100004
abbrev MEM_EVENTS : Nat := 0x100008
abbrev MEM_TRACK_PERIOD : Nat := 0x10000c
abbrev MEM_CE_TOTAL : Nat := 0x100010
abbrev MEM_DBG_BASE : Nat := 0x100014
abbrev MEM_RETIRED_LO : Nat := 0x100018
abbrev MEM_RETIRED_HI : Nat := 0x10001c
abbrev MEM_FROZEN_LO : Nat := 0x100020
abbrev MEM_FROZEN_HI : Nat := 0x100024
abbrev MEM_QWIN_SEL : Nat := 0x100030
abbrev MEM_QWIN0 : Nat := 0x100034
abbrev MEM_QWIN1 : Nat := 0x100038
abbrev MEM_QWIN2 : Nat := 0x10003c
abbrev MEM_PC_STATE (i : Nat) : Nat := 0x100100 + 64 * i
abbrev MEM_PC_CTRL (i : Nat) : Nat := 0x100104 + 64 * i
abbrev MEM_PC_ERR_ADDR (i : Nat) : Nat := 0x100108 + 64 * i
abbrev MEM_PC_ERR_INFO (i : Nat) : Nat := 0x10010c + 64 * i
abbrev MEM_PC_ERR_DATA_LO (i : Nat) : Nat := 0x100110 + 64 * i
abbrev MEM_PC_ERR_DATA_HI (i : Nat) : Nat := 0x100114 + 64 * i
abbrev MEM_PC_CE_COUNT (i : Nat) : Nat := 0x100118 + 64 * i
abbrev MEM_PC_UE_COUNT (i : Nat) : Nat := 0x10011c + 64 * i
abbrev MEM_PC_LANEMAP (i : Nat) : Nat := 0x100120 + 64 * i
abbrev MEM_PC_RD_CENTRE (i : Nat) : Nat := 0x100124 + 64 * i
abbrev MEM_PC_WR_CENTRE (i : Nat) : Nat := 0x100128 + 64 * i
abbrev MEM_PC_EYE_MIN (i : Nat) : Nat := 0x10012c + 64 * i
abbrev MEM_PC_OUTSTANDING (i : Nat) : Nat := 0x100130 + 64 * i
abbrev ARB_WINDOW (i : Nat) : Nat := 0x110000 + 4096 * i
abbrev ARB_EVENTS (i : Nat) : Nat := 0x110004 + 4096 * i
abbrev DMA_CTRL : Nat := 0x120000
abbrev DMA_STATUS : Nat := 0x120004
abbrev DMA_EVENTS : Nat := 0x120008
abbrev DMA_HALTED : Nat := 0x12000c
abbrev DMA_VEC_MAP : Nat := 0x120010
abbrev DMA_LINK : Nat := 0x120014
abbrev DMA_CH_CTRL (i : Nat) : Nat := 0x120404 + 64 * i
abbrev DMA_CH_ERR_ADDR_LO (i : Nat) : Nat := 0x12040c + 64 * i
abbrev DMA_CH_ERR_ADDR_HI (i : Nat) : Nat := 0x120410 + 64 * i
abbrev DMA_CH_BURSTS (i : Nat) : Nat := 0x120414 + 64 * i
abbrev DMA_CH_WITHDRAWN (i : Nat) : Nat := 0x120418 + 64 * i
abbrev DMA_DQ_CFG (i : Nat) : Nat := 0x121000 + 64 * i
abbrev DMA_DQ_BUF_LEN (i : Nat) : Nat := 0x121004 + 64 * i
abbrev DMA_DQ_FREE_BASE_LO (i : Nat) : Nat := 0x121008 + 64 * i
abbrev DMA_DQ_FREE_BASE_HI (i : Nat) : Nat := 0x12100c + 64 * i
abbrev DMA_DQ_COMP_BASE_LO (i : Nat) : Nat := 0x121010 + 64 * i
abbrev DMA_DQ_COMP_BASE_HI (i : Nat) : Nat := 0x121014 + 64 * i
abbrev DMA_DQ_FREE_PROD (i : Nat) : Nat := 0x121018 + 64 * i
abbrev DMA_DQ_FREE_CONS (i : Nat) : Nat := 0x12101c + 64 * i
abbrev DMA_DQ_COMP_PROD (i : Nat) : Nat := 0x121020 + 64 * i
abbrev DMA_DQ_COMP_CONS (i : Nat) : Nat := 0x121024 + 64 * i
abbrev DMA_DQ_COAL (i : Nat) : Nat := 0x121028 + 64 * i
abbrev DMA_DQ_VECTOR (i : Nat) : Nat := 0x12102c + 64 * i
abbrev DMA_DQ_STATUS (i : Nat) : Nat := 0x121030 + 64 * i
abbrev DMA_DQ_EVENTS (i : Nat) : Nat := 0x121034 + 64 * i
abbrev DMA_DQ_STARVED_COUNT (i : Nat) : Nat := 0x121038 + 64 * i
abbrev DMA_MSIX_ADDR_LO (i : Nat) : Nat := 0x128000 + 16 * i
abbrev DMA_MSIX_ADDR_HI (i : Nat) : Nat := 0x128004 + 16 * i
abbrev DMA_MSIX_DATA (i : Nat) : Nat := 0x128008 + 16 * i
abbrev DMA_MSIX_CTL (i : Nat) : Nat := 0x12800c + 16 * i
abbrev DMA_PBA (i : Nat) : Nat := 0x129000 + 4 * i
abbrev STRM_CTRL : Nat := 0x130000
abbrev STRM_STATUS : Nat := 0x130004
abbrev STRM_EVENTS : Nat := 0x130008
abbrev STRM_COMMIT : Nat := 0x13000c
abbrev STRM_LIMIT : Nat := 0x130010
abbrev STRM_SENT : Nat := 0x130014
abbrev STRM_FSEQ_NEXT : Nat := 0x130018
abbrev STRM_ACKED_LO : Nat := 0x130020
abbrev STRM_ACKED_HI : Nat := 0x130024
abbrev STRM_BACKLOG : Nat := 0x130028
abbrev STRM_DROPPED : Nat := 0x13002c
abbrev STRM_RESENT : Nat := 0x130030
abbrev STRM_CTL_BAD : Nat := 0x130034
abbrev STRM_FEC_CORR : Nat := 0x130038
abbrev STRM_FEC_UNCORR : Nat := 0x13003c
abbrev DISP_CTRL : Nat := 0x140000
abbrev DISP_STATUS : Nat := 0x140004
abbrev DISP_EVENTS : Nat := 0x140008
abbrev DISP_FRAME_COUNT : Nat := 0x14000c
abbrev DISP_H_TIMING0 : Nat := 0x140010
abbrev DISP_H_TIMING1 : Nat := 0x140014
abbrev DISP_V_TIMING0 : Nat := 0x140018
abbrev DISP_V_TIMING1 : Nat := 0x14001c
abbrev DISP_PIXCLK : Nat := 0x140020
abbrev DISP_TIMING_COMMIT : Nat := 0x140024
abbrev DISP_BACKGROUND : Nat := 0x140028
abbrev DISP_LOCK : Nat := 0x14002c
abbrev DISP_AUX_CMD : Nat := 0x140030
abbrev DISP_AUX_STATUS : Nat := 0x140034
abbrev DISP_AUX_DATA (i : Nat) : Nat := 0x140038 + 4 * i
abbrev DISP_PANEL : Nat := 0x140048
abbrev DISP_LUT_COMMIT : Nat := 0x14004c
abbrev DISP_CRC_STATUS : Nat := 0x140050
abbrev DISP_CRC_VOID : Nat := 0x140054
abbrev DISP_LAYER_CFG (i : Nat) : Nat := 0x140100 + 64 * i
abbrev DISP_LAYER_POS (i : Nat) : Nat := 0x140104 + 64 * i
abbrev DISP_LAYER_SIZE (i : Nat) : Nat := 0x140108 + 64 * i
abbrev DISP_LAYER_ADDR_LO (i : Nat) : Nat := 0x14010c + 64 * i
abbrev DISP_LAYER_ADDR_HI (i : Nat) : Nat := 0x140110 + 64 * i
abbrev DISP_LAYER_STRIDE (i : Nat) : Nat := 0x140114 + 64 * i
abbrev DISP_LAYER_KEY (i : Nat) : Nat := 0x140118 + 64 * i
abbrev DISP_LAYER_STATUS (i : Nat) : Nat := 0x14011c + 64 * i
abbrev DISP_LAYER_REL_ADDR_LO (i : Nat) : Nat := 0x140120 + 64 * i
abbrev DISP_LAYER_REL_ADDR_HI (i : Nat) : Nat := 0x140124 + 64 * i
abbrev DISP_LAYER_UNDERRUN (i : Nat) : Nat := 0x140128 + 64 * i
abbrev DISP_CRC_POS (i : Nat) : Nat := 0x140200 + 32 * i
abbrev DISP_CRC_SIZE (i : Nat) : Nat := 0x140204 + 32 * i
abbrev DISP_CRC_EXPECT (i : Nat) : Nat := 0x140208 + 32 * i
abbrev DISP_CRC_RESULT (i : Nat) : Nat := 0x14020c + 32 * i
abbrev DISP_CRC_MISMATCH (i : Nat) : Nat := 0x140210 + 32 * i
abbrev DISP_CRC_CFG (i : Nat) : Nat := 0x140214 + 32 * i
abbrev DISP_CRC_SKIPPED (i : Nat) : Nat := 0x140218 + 32 * i
abbrev DISP_CURSOR (i : Nat) : Nat := 0x141000 + 4 * i
abbrev DISP_LUT (i : Nat) : Nat := 0x149000 + 4 * i
abbrev PAIR_CTRL : Nat := 0x150000
abbrev PAIR_STATUS : Nat := 0x150004
abbrev PAIR_EVENTS : Nat := 0x150008
abbrev PAIR_ID : Nat := 0x15000c
abbrev PAIR_PHASE_COMP : Nat := 0x150010
abbrev PAIR_PHASE_ERR : Nat := 0x150014
abbrev PAIR_FORM_REFUSE : Nat := 0x150018
abbrev PAIR_MIRROR_QUOTA : Nat := 0x15001c
abbrev PAIR_MIRROR_USED : Nat := 0x150020
abbrev PAIR_HB_MISSED : Nat := 0x150024
abbrev PAIR_CELL_BAD : Nat := 0x150028
abbrev PAIR_REPLAYED : Nat := 0x15002c
abbrev PAIR_TAKEOVER_TSC_LO : Nat := 0x150030
abbrev PAIR_TAKEOVER_TSC_HI : Nat := 0x150034
abbrev FLT_SUMMARY : Nat := 0x160000
abbrev FLT_CLASS : Nat := 0x160004
abbrev FLT_HOST : Nat := 0x160008
abbrev FLT_DRAFT : Nat := 0x16000c
abbrev FLT_BBX : Nat := 0x160010
abbrev FLT_FATAL : Nat := 0x160014
abbrev FLT_FATAL_TSC_LO : Nat := 0x160018
abbrev FLT_FATAL_TSC_HI : Nat := 0x16001c
abbrev FLT_HELD : Nat := 0x160020
abbrev FLT_THERM : Nat := 0x160024
abbrev FLT_OCC_SEL : Nat := 0x160028
abbrev FLT_OCC (i : Nat) : Nat := 0x160030 + 4 * i
abbrev FLT_GAP (i : Nat) : Nat := 0x160084 + 4 * i
abbrev BBX_CTRL : Nat := 0x170000
abbrev BBX_STATUS : Nat := 0x170004
abbrev BBX_EVENTS : Nat := 0x170008
abbrev BBX_NEXT_LO : Nat := 0x170010
abbrev BBX_NEXT_HI : Nat := 0x170014
abbrev BBX_OLDEST_LO : Nat := 0x170018
abbrev BBX_OLDEST_HI : Nat := 0x17001c
abbrev BBX_SNAP_FROM_LO : Nat := 0x170020
abbrev BBX_SNAP_FROM_HI : Nat := 0x170024
abbrev BBX_SNAP_TO_LO : Nat := 0x170028
abbrev BBX_SNAP_TO_HI : Nat := 0x17002c
abbrev BBX_READ_SEL_LO : Nat := 0x170030
abbrev BBX_READ_SEL_HI : Nat := 0x170034
abbrev BBX_PENDING : Nat := 0x170038
abbrev BBX_PCC : Nat := 0x17003c
abbrev BBX_HOURS : Nat := 0x170040
abbrev BBX_SECS : Nat := 0x170044
abbrev BBX_LOST_COUNT : Nat := 0x170048
abbrev BBX_ANNOT_WALL_LO : Nat := 0x170050
abbrev BBX_ANNOT_WALL_HI : Nat := 0x170054
abbrev BBX_ANNOT_CTRL : Nat := 0x170058
abbrev BBX_ANNOT_NOTE (i : Nat) : Nat := 0x170060 + 4 * i
abbrev BBX_ERASE_CHAL (i : Nat) : Nat := 0x170080 + 4 * i
abbrev BBX_ERASE_RESP (i : Nat) : Nat := 0x170090 + 4 * i
abbrev BBX_ERASE_CTRL : Nat := 0x1700a0
abbrev BBX_READ (i : Nat) : Nat := 0x170100 + 4 * i
abbrev TEST_RESULT : Nat := 0x180000
abbrev TEST_DURATION : Nat := 0x180004
abbrev TEST_SAFE_CODE : Nat := 0x180008
abbrev TEST_DETAIL (i : Nat) : Nat := 0x180010 + 4 * i
/-- Coefficient shadow of tap i. -/
abbrev CAL_COEF_H (i : Nat) : Nat := 0x90060 + 4 * i
/-- Output o of PLL p. -/
abbrev CLK_OUT (p o : Nat) : Nat := 0xa0200 + 0x40 * p + 4 * o
/-- Band-table entry e of PLL p. -/
abbrev CLK_BAND (p e : Nat) : Nat := 0xa0400 + 0x40 * p + 4 * e
/-- Vertex word w of polygon k (word 0 holds COUNT). -/
abbrev BEAM_POLY (k w : Nat) : Nat := 0xf8000 + 0x100 * k + 4 * w
abbrev DMA_CH_CFG (i : Nat) : Nat := 0x120400 + 64 * i
abbrev DMA_CH_STATUS (i : Nat) : Nat := 0x120408 + 64 * i
/-- Settings of requester r of shuttle st. -/
abbrev ARB_RQ (st r : Nat) : Nat := 0x110040 + 0x1000 * st + 4 * r
abbrev ARB_STAT (st r : Nat) : Nat := 0x110080 + 0x1000 * st + 4 * r
abbrev ARB_GRANTS (st r : Nat) : Nat := 0x1100c0 + 0x1000 * st + 4 * r
abbrev ARB_FORCED (st r : Nat) : Nat := 0x110100 + 0x1000 * st + 4 * r

end Reg

/-! The named fields, written as the spec writes them (BLOCK.REGISTER.FIELD, with underscores). -/

namespace F

def DEV_STATE_SELFTEST_FAIL : Fld := ⟨Reg.DEV_STATE, 16, 8⟩
def DEV_STATE_ENTRY_CAUSE : Fld := ⟨Reg.DEV_STATE, 8, 8⟩
def DEV_STATE_PREV : Fld := ⟨Reg.DEV_STATE, 4, 4⟩
def DEV_STATE_CUR : Fld := ⟨Reg.DEV_STATE, 0, 4⟩
def DEV_CTRL_COMPAT : Fld := ⟨Reg.DEV_CTRL, 0, 1⟩
def DEV_CAPS_BBX_SNAPSHOT : Fld := ⟨Reg.DEV_CAPS, 9, 1⟩
def DEV_CAPS_PAIRED : Fld := ⟨Reg.DEV_CAPS, 8, 1⟩
def DEV_CAPS_MODE : Fld := ⟨Reg.DEV_CAPS, 4, 2⟩
def DEV_CAPS_SCLK_MODE : Fld := ⟨Reg.DEV_CAPS, 3, 1⟩
def DEV_CAPS_TENON : Fld := ⟨Reg.DEV_CAPS, 2, 1⟩
def DEV_CAPS_DISPLAY : Fld := ⟨Reg.DEV_CAPS, 1, 1⟩
def DEV_CAPS_STREAM : Fld := ⟨Reg.DEV_CAPS, 0, 1⟩
def DRAFT_CTRL_SOURCE : Fld := ⟨Reg.DRAFT_CTRL, 0, 1⟩
def DRAFT_STATUS_LOADED : Fld := ⟨Reg.DRAFT_STATUS, 31, 1⟩
def DRAFT_STATUS_FAIL_SECTION : Fld := ⟨Reg.DRAFT_STATUS, 24, 6⟩
def DRAFT_STATUS_REFUSE_REASON : Fld := ⟨Reg.DRAFT_STATUS, 16, 8⟩
def DRAFT_STATUS_SIGNED_ONLY : Fld := ⟨Reg.DRAFT_STATUS, 11, 1⟩
def DRAFT_STATUS_CAL_SERIAL_MISMATCH : Fld := ⟨Reg.DRAFT_STATUS, 9, 1⟩
def DRAFT_STATUS_NO_FACTORY_CAL : Fld := ⟨Reg.DRAFT_STATUS, 8, 1⟩
def DRAFT_STATUS_COMPAT_ACTIVE : Fld := ⟨Reg.DRAFT_STATUS, 7, 1⟩
def DRAFT_STATUS_SIG_UNCHECKED : Fld := ⟨Reg.DRAFT_STATUS, 6, 1⟩
def DRAFT_STATUS_SIGNED : Fld := ⟨Reg.DRAFT_STATUS, 5, 1⟩
def DRAFT_STATUS_SOURCE_USED : Fld := ⟨Reg.DRAFT_STATUS, 4, 1⟩
def DRAFT_STATUS_FORMAT : Fld := ⟨Reg.DRAFT_STATUS, 0, 4⟩
def DRAFT_CHECK_STATUS_SECTION : Fld := ⟨Reg.DRAFT_CHECK_STATUS, 16, 6⟩
def DRAFT_CHECK_STATUS_REASON : Fld := ⟨Reg.DRAFT_CHECK_STATUS, 8, 8⟩
def DRAFT_CHECK_STATUS_PASS : Fld := ⟨Reg.DRAFT_CHECK_STATUS, 2, 1⟩
def DRAFT_CHECK_STATUS_DONE : Fld := ⟨Reg.DRAFT_CHECK_STATUS, 1, 1⟩
def DRAFT_CHECK_STATUS_BUSY : Fld := ⟨Reg.DRAFT_CHECK_STATUS, 0, 1⟩
def DRAFT_FUSE_CTRL_BURN_ERROR : Fld := ⟨Reg.DRAFT_FUSE_CTRL, 5, 1⟩
def DRAFT_FUSE_CTRL_SIGNED_ONLY : Fld := ⟨Reg.DRAFT_FUSE_CTRL, 4, 1⟩
def DRAFT_FUSE_CTRL_KEY_PROGRAMMED : Fld := ⟨Reg.DRAFT_FUSE_CTRL, 3, 1⟩
def DRAFT_FUSE_CTRL_BUSY : Fld := ⟨Reg.DRAFT_FUSE_CTRL, 2, 1⟩
def AXIS_CFG_FILTER : Fld := ⟨Reg.AXIS_CFG, 18, 8⟩
def AXIS_CFG_REF_DIV : Fld := ⟨Reg.AXIS_CFG, 6, 12⟩
def AXIS_CFG_REF_EDGE : Fld := ⟨Reg.AXIS_CFG, 5, 1⟩
def AXIS_CFG_DIR_INVERT : Fld := ⟨Reg.AXIS_CFG, 4, 1⟩
def AXIS_CFG_INDEX_MODE : Fld := ⟨Reg.AXIS_CFG, 2, 2⟩
def AXIS_CFG_SOURCE : Fld := ⟨Reg.AXIS_CFG, 0, 2⟩
def AXIS_STATUS_FORCED_TIME : Fld := ⟨Reg.AXIS_STATUS, 5, 1⟩
def AXIS_STATUS_DOWN : Fld := ⟨Reg.AXIS_STATUS, 4, 1⟩
def AXIS_STATUS_SLEWING : Fld := ⟨Reg.AXIS_STATUS, 3, 1⟩
def AXIS_STATUS_NEVER_LOCKED : Fld := ⟨Reg.AXIS_STATUS, 2, 1⟩
def AXIS_STATUS_STATE : Fld := ⟨Reg.AXIS_STATUS, 0, 2⟩
def AXIS_EVENTS_CMP_COLLIDE : Fld := ⟨Reg.AXIS_EVENTS, 8, 1⟩
def AXIS_EVENTS_PHASE_ALARM : Fld := ⟨Reg.AXIS_EVENTS, 7, 1⟩
def AXIS_EVENTS_QUAD_ERR : Fld := ⟨Reg.AXIS_EVENTS, 6, 1⟩
def AXIS_EVENTS_REVERSAL : Fld := ⟨Reg.AXIS_EVENTS, 5, 1⟩
def AXIS_EVENTS_INDEX : Fld := ⟨Reg.AXIS_EVENTS, 4, 1⟩
def AXIS_EVENTS_STEP : Fld := ⟨Reg.AXIS_EVENTS, 3, 1⟩
def AXIS_EVENTS_RETURN : Fld := ⟨Reg.AXIS_EVENTS, 2, 1⟩
def AXIS_EVENTS_ENTER_STALLED : Fld := ⟨Reg.AXIS_EVENTS, 1, 1⟩
def AXIS_EVENTS_ENTER_COAST : Fld := ⟨Reg.AXIS_EVENTS, 0, 1⟩
def LOOM_CTRL_CURSOR_EN : Fld := ⟨Reg.LOOM_CTRL, 4, 4⟩
def LOOM_CTRL_RUN : Fld := ⟨Reg.LOOM_CTRL, 0, 1⟩
def LOOM_STATUS_LIVE : Fld := ⟨Reg.LOOM_STATUS, 16, 7⟩
def LOOM_STATUS_WAITING : Fld := ⟨Reg.LOOM_STATUS, 4, 4⟩
def LOOM_STATUS_STOPPING : Fld := ⟨Reg.LOOM_STATUS, 3, 1⟩
def LOOM_STATUS_FRONT_PHYS : Fld := ⟨Reg.LOOM_STATUS, 2, 1⟩
def LOOM_STATUS_SWAP_PENDING : Fld := ⟨Reg.LOOM_STATUS, 1, 1⟩
def LOOM_STATUS_RUNNING : Fld := ⟨Reg.LOOM_STATUS, 0, 1⟩
def LOOM_SWAP_CTX : Fld := ⟨Reg.LOOM_SWAP, 8, 10⟩
def LOOM_SWAP_RESTART : Fld := ⟨Reg.LOOM_SWAP, 4, 1⟩
def LOOM_SWAP_BOUNDARY : Fld := ⟨Reg.LOOM_SWAP, 2, 2⟩
def LOOM_WIN_PAGE : Fld := ⟨Reg.LOOM_WIN, 0, 1⟩
def LOOM_WIN_VIEW : Fld := ⟨Reg.LOOM_WIN, 1, 1⟩
def LOOM_EVENTS_NOT_LIVE : Fld := ⟨Reg.LOOM_EVENTS, 10, 1⟩
def LOOM_EVENTS_FLAG_COLLIDE : Fld := ⟨Reg.LOOM_EVENTS, 9, 1⟩
def LOOM_EVENTS_OPEN_REFUSED : Fld := ⟨Reg.LOOM_EVENTS, 8, 1⟩
def LOOM_EVENTS_BAD_ACTION : Fld := ⟨Reg.LOOM_EVENTS, 7, 1⟩
def LOOM_EVENTS_CANCEL_LATE : Fld := ⟨Reg.LOOM_EVENTS, 6, 1⟩
def LOOM_EVENTS_SWAP_REFUSED : Fld := ⟨Reg.LOOM_EVENTS, 5, 1⟩
def LOOM_EVENTS_SWAP_DONE : Fld := ⟨Reg.LOOM_EVENTS, 4, 1⟩
def LOOM_EVENTS_LATE_FIRE : Fld := ⟨Reg.LOOM_EVENTS, 3, 1⟩
def LOOM_EVENTS_ARM_FAIL : Fld := ⟨Reg.LOOM_EVENTS, 2, 1⟩
def LOOM_EVENTS_BACK_LOCKED : Fld := ⟨Reg.LOOM_EVENTS, 1, 1⟩
def LOOM_EVENTS_FRONT_WRITE : Fld := ⟨Reg.LOOM_EVENTS, 0, 1⟩
def LOOM_CURSOR_TREAD (i : Nat) : Fld := ⟨Reg.LOOM_CURSOR i, 0, 12⟩
def LOOM_CURSOR_WAITING (i : Nat) : Fld := ⟨Reg.LOOM_CURSOR i, 12, 1⟩
def LOOM_CURSOR_HALTED (i : Nat) : Fld := ⟨Reg.LOOM_CURSOR i, 13, 1⟩
def CTX_CTL_VALID (i : Nat) : Fld := ⟨Reg.CTX_CTL i, 31, 1⟩
def CTX_CTL_JOB (i : Nat) : Fld := ⟨Reg.CTX_CTL i, 20, 8⟩
def CTX_CTL_JOB_EN (i : Nat) : Fld := ⟨Reg.CTX_CTL i, 19, 1⟩
def CTX_CTL_LANE_PROFILE (i : Nat) : Fld := ⟨Reg.CTX_CTL i, 8, 8⟩
def CTX_CTL_SOURCE (i : Nat) : Fld := ⟨Reg.CTX_CTL i, 0, 4⟩
def CTX_TRIG_MASK_MASK (i : Nat) : Fld := ⟨Reg.CTX_TRIG_MASK i, 0, 17⟩
def CTX_HOLDOFF_HI_FROM_END (i : Nat) : Fld := ⟨Reg.CTX_HOLDOFF_HI i, 30, 1⟩
def CTX_HOLDOFF_HI_UNIT (i : Nat) : Fld := ⟨Reg.CTX_HOLDOFF_HI i, 28, 2⟩
def CTX_HOLDOFF_HI_V_HI (i : Nat) : Fld := ⟨Reg.CTX_HOLDOFF_HI i, 0, 24⟩
def CTX_STORE_HOST_EN (i : Nat) : Fld := ⟨Reg.CTX_STORE i, 31, 1⟩
def CTX_STORE_STREAM_EN (i : Nat) : Fld := ⟨Reg.CTX_STORE i, 30, 1⟩
def CTX_STORE_DQ (i : Nat) : Fld := ⟨Reg.CTX_STORE i, 24, 6⟩
def CTX_STORE_ON_FREEZE (i : Nat) : Fld := ⟨Reg.CTX_STORE i, 16, 2⟩
def CTX_STORE_RING (i : Nat) : Fld := ⟨Reg.CTX_STORE i, 8, 1⟩
def CTX_STORE_CODING (i : Nat) : Fld := ⟨Reg.CTX_STORE i, 3, 1⟩
def CTX_STORE_ALIGN (i : Nat) : Fld := ⟨Reg.CTX_STORE i, 2, 1⟩
def CTX_STORE_FMT (i : Nat) : Fld := ⟨Reg.CTX_STORE i, 0, 2⟩
def CTX_QUOTA_QUOTA (i : Nat) : Fld := ⟨Reg.CTX_QUOTA i, 0, 25⟩
def CTX_STREAM_QUOTA_SQUOTA (i : Nat) : Fld := ⟨Reg.CTX_STREAM_QUOTA i, 0, 25⟩
def CTX_FREEZE_TIMEOUT_TIMEOUT (i : Nat) : Fld := ⟨Reg.CTX_FREEZE_TIMEOUT i, 0, 16⟩
def CONV_MODE_BANKS_PER_CH : Fld := ⟨Reg.CONV_MODE, 8, 4⟩
def CONV_MODE_CHANNELS : Fld := ⟨Reg.CONV_MODE, 4, 4⟩
def CONV_MODE_MODE : Fld := ⟨Reg.CONV_MODE, 0, 2⟩
def CONV_REF_CTRL_SEL : Fld := ⟨Reg.CONV_REF_CTRL, 0, 2⟩
def CONV_REF_STATUS_EXT_IN_RANGE : Fld := ⟨Reg.CONV_REF_STATUS, 3, 1⟩
def CONV_REF_STATUS_SEL_IN_EFFECT : Fld := ⟨Reg.CONV_REF_STATUS, 1, 2⟩
def CONV_REF_STATUS_SETTLED : Fld := ⟨Reg.CONV_REF_STATUS, 0, 1⟩
def CONV_EVENTS_BW_REFUSED : Fld := ⟨Reg.CONV_EVENTS, 7, 1⟩
def CONV_EVENTS_REF_WRITE_LOST : Fld := ⟨Reg.CONV_EVENTS, 6, 1⟩
def CONV_EVENTS_EXT_FAULT : Fld := ⟨Reg.CONV_EVENTS, 5, 1⟩
def CAL_CTRL_REPORT : Fld := ⟨Reg.CAL_CTRL, 16, 7⟩
def CAL_CTRL_FOCUS : Fld := ⟨Reg.CAL_CTRL, 8, 6⟩
def CAL_CTRL_MODE : Fld := ⟨Reg.CAL_CTRL, 4, 2⟩
def CAL_CTRL_BANK_EN : Fld := ⟨Reg.CAL_CTRL, 0, 4⟩
def CAL_STATUS_CONVERGED : Fld := ⟨Reg.CAL_STATUS, 4, 4⟩
def CAL_STATUS_SWEEPING : Fld := ⟨Reg.CAL_STATUS, 0, 4⟩
def CAL_EVENTS_CONV_LOST : Fld := ⟨Reg.CAL_EVENTS, 6, 1⟩
def CAL_EVENTS_ABORTED : Fld := ⟨Reg.CAL_EVENTS, 5, 1⟩
def CAL_EVENTS_LIMIT : Fld := ⟨Reg.CAL_EVENTS, 4, 1⟩
def CAL_EVENTS_COEF_BUSY : Fld := ⟨Reg.CAL_EVENTS, 3, 1⟩
def CAL_EVENTS_INJ_DROP : Fld := ⟨Reg.CAL_EVENTS, 2, 1⟩
def CAL_EVENTS_MON_OVERFLOW : Fld := ⟨Reg.CAL_EVENTS, 1, 1⟩
def CAL_EVENTS_SWEEP_DONE : Fld := ⟨Reg.CAL_EVENTS, 0, 1⟩
def CAL_LOOP_ACT_THRESH : Fld := ⟨Reg.CAL_LOOP, 16, 16⟩
def CAL_LOOP_BLOCKS : Fld := ⟨Reg.CAL_LOOP, 8, 7⟩
def CAL_LOOP_MU : Fld := ⟨Reg.CAL_LOOP, 0, 4⟩
def CAL_INJ_STATUS_BUSY : Fld := ⟨Reg.CAL_INJ_STATUS, 8, 4⟩
def CAL_SEL_BANK : Fld := ⟨Reg.CAL_SEL, 8, 2⟩
def CAL_SEL_SLICE : Fld := ⟨Reg.CAL_SEL, 0, 7⟩
def CLK_RATE_USE_ENTRY : Fld := ⟨Reg.CLK_RATE, 20, 1⟩
def CLK_RATE_ENTRY : Fld := ⟨Reg.CLK_RATE, 16, 4⟩
def CLK_RATE_RATE : Fld := ⟨Reg.CLK_RATE, 0, 15⟩
def CLK_STATUS_PAIR_SLEWING : Fld := ⟨Reg.CLK_STATUS, 21, 1⟩
def CLK_STATUS_SCLK_MODE : Fld := ⟨Reg.CLK_STATUS, 20, 1⟩
def CLK_STATUS_BYP_CLK_PRESENT : Fld := ⟨Reg.CLK_STATUS, 19, 1⟩
def CLK_STATUS_REF_PRESENT : Fld := ⟨Reg.CLK_STATUS, 18, 1⟩
def CLK_STATUS_REF_FREQ : Fld := ⟨Reg.CLK_STATUS, 16, 2⟩
def CLK_STATUS_RATE_IN_EFFECT : Fld := ⟨Reg.CLK_STATUS, 0, 15⟩
def CLK_EVENTS_BYP_CLK_FAIL : Fld := ⟨Reg.CLK_EVENTS, 11, 1⟩
def CLK_EVENTS_SYNC_IGNORED : Fld := ⟨Reg.CLK_EVENTS, 10, 1⟩
def CLK_EVENTS_SYNC_SLIP : Fld := ⟨Reg.CLK_EVENTS, 9, 1⟩
def CLK_EVENTS_SYNC_DONE : Fld := ⟨Reg.CLK_EVENTS, 8, 1⟩
def CLK_EVENTS_ENTRY_STALE : Fld := ⟨Reg.CLK_EVENTS, 7, 1⟩
def CLK_EVENTS_ENTRY_MISS : Fld := ⟨Reg.CLK_EVENTS, 6, 1⟩
def CLK_EVENTS_HOP_DONE : Fld := ⟨Reg.CLK_EVENTS, 5, 1⟩
def CLK_EVENTS_REALIGNED : Fld := ⟨Reg.CLK_EVENTS, 4, 1⟩
def CLK_EVENTS_PHASE_JUMP : Fld := ⟨Reg.CLK_EVENTS, 3, 1⟩
def CLK_EVENTS_HOLD_EXPIRED : Fld := ⟨Reg.CLK_EVENTS, 2, 1⟩
def CLK_EVENTS_REF_RETURN : Fld := ⟨Reg.CLK_EVENTS, 1, 1⟩
def CLK_EVENTS_REF_LOST : Fld := ⟨Reg.CLK_EVENTS, 0, 1⟩
def CLK_HOLD_POLICY : Fld := ⟨Reg.CLK_HOLD, 31, 1⟩
def CLK_HOLD_BYP_SEL : Fld := ⟨Reg.CLK_HOLD, 30, 1⟩
def CLK_HOLD_JUMP_THRESH : Fld := ⟨Reg.CLK_HOLD, 16, 12⟩
def CLK_LOCK_PPM : Fld := ⟨Reg.CLK_LOCK, 0, 8⟩
def CLK_LOCK_SETTLE : Fld := ⟨Reg.CLK_LOCK, 8, 8⟩
def CLK_LOCK_PASSES : Fld := ⟨Reg.CLK_LOCK, 16, 4⟩
def CLK_HOLD_TIME : Fld := ⟨Reg.CLK_HOLD, 0, 16⟩
def CLK_SYNC_MODE : Fld := ⟨Reg.CLK_SYNC, 0, 2⟩
def CLK_PLL_STATUS_ENTRY (i : Nat) : Fld := ⟨Reg.CLK_PLL_STATUS i, 16, 4⟩
def CLK_PLL_STATUS_BAND (i : Nat) : Fld := ⟨Reg.CLK_PLL_STATUS i, 8, 8⟩
def CLK_PLL_STATUS_GATED (i : Nat) : Fld := ⟨Reg.CLK_PLL_STATUS i, 3, 1⟩
def CLK_PLL_STATUS_STATE (i : Nat) : Fld := ⟨Reg.CLK_PLL_STATUS i, 0, 3⟩
def TRIG_STATUS_REPORTING : Fld := ⟨Reg.TRIG_STATUS, 0, 17⟩
def TRIG_EVENTS_OUT_DISABLED : Fld := ⟨Reg.TRIG_EVENTS, 20, 1⟩
def TRIG_EVENTS_BAD_CFG : Fld := ⟨Reg.TRIG_EVENTS, 19, 1⟩
def TRIG_EVENTS_CH_ABSENT : Fld := ⟨Reg.TRIG_EVENTS, 18, 1⟩
def TRIG_EVENTS_AUX_GLITCH : Fld := ⟨Reg.TRIG_EVENTS, 17, 1⟩
def TRIG_AUX_CFG_FILTER : Fld := ⟨Reg.TRIG_AUX_CFG, 2, 6⟩
def TRIG_AUX_CFG_EDGE : Fld := ⟨Reg.TRIG_AUX_CFG, 1, 1⟩
def TRIG_AUX_CFG_EN : Fld := ⟨Reg.TRIG_AUX_CFG, 0, 1⟩
def TRIG_OUT_CFG_INVERT : Fld := ⟨Reg.TRIG_OUT_CFG, 4, 4⟩
def TRIG_OUT_CFG_EN : Fld := ⟨Reg.TRIG_OUT_CFG, 0, 4⟩
def TRIG_OUT_STATUS_PINS : Fld := ⟨Reg.TRIG_OUT_STATUS, 4, 4⟩
def TRIG_OUT_STATUS_LEVELS : Fld := ⟨Reg.TRIG_OUT_STATUS, 0, 4⟩
def TRIG_UNIT_STATUS_BAD_CFG (i : Nat) : Fld := ⟨Reg.TRIG_UNIT_STATUS i, 5, 1⟩
def TRIG_UNIT_STATUS_CH_ABSENT (i : Nat) : Fld := ⟨Reg.TRIG_UNIT_STATUS i, 4, 1⟩
def TRIG_UNIT_STATUS_SEQ_STATE (i : Nat) : Fld := ⟨Reg.TRIG_UNIT_STATUS i, 2, 2⟩
def TRIG_UNIT_STATUS_STATE_B (i : Nat) : Fld := ⟨Reg.TRIG_UNIT_STATUS i, 1, 1⟩
def TRIG_UNIT_STATUS_STATE_A (i : Nat) : Fld := ⟨Reg.TRIG_UNIT_STATUS i, 0, 1⟩
def LANE_BIND_LIVE (i : Nat) : Fld := ⟨Reg.LANE_BIND i, 31, 1⟩
def LANE_BIND_PROFILE (i : Nat) : Fld := ⟨Reg.LANE_BIND i, 16, 8⟩
def LANE_BIND_CONTEXT (i : Nat) : Fld := ⟨Reg.LANE_BIND i, 0, 10⟩
def LANE_STATUS_LAST_REFUSE (i : Nat) : Fld := ⟨Reg.LANE_STATUS i, 8, 4⟩
def LANE_STATUS_CLAMPING (i : Nat) : Fld := ⟨Reg.LANE_STATUS i, 5, 1⟩
def LANE_STATUS_WARMUP (i : Nat) : Fld := ⟨Reg.LANE_STATUS i, 4, 1⟩
def LANE_STATUS_RS_BANK (i : Nat) : Fld := ⟨Reg.LANE_STATUS i, 3, 1⟩
def LANE_STATUS_FIR_BANK (i : Nat) : Fld := ⟨Reg.LANE_STATUS i, 2, 1⟩
def LANE_STATUS_DEFERRED (i : Nat) : Fld := ⟨Reg.LANE_STATUS i, 1, 1⟩
def LANE_STATUS_SEALED (i : Nat) : Fld := ⟨Reg.LANE_STATUS i, 0, 1⟩
def LANE_EVENTS_NOT_LIVE (i : Nat) : Fld := ⟨Reg.LANE_EVENTS i, 7, 1⟩
def LANE_EVENTS_GRID_SKIP (i : Nat) : Fld := ⟨Reg.LANE_EVENTS i, 6, 1⟩
def LANE_EVENTS_CLAMP (i : Nat) : Fld := ⟨Reg.LANE_EVENTS i, 5, 1⟩
def LANE_EVENTS_SAT (i : Nat) : Fld := ⟨Reg.LANE_EVENTS i, 4, 1⟩
def LANE_EVENTS_COEF_IN_USE (i : Nat) : Fld := ⟨Reg.LANE_EVENTS i, 3, 1⟩
def LANE_EVENTS_EMPTY_HANDOVER (i : Nat) : Fld := ⟨Reg.LANE_EVENTS i, 2, 1⟩
def LANE_EVENTS_BAD_SET (i : Nat) : Fld := ⟨Reg.LANE_EVENTS i, 1, 1⟩
def LANE_EVENTS_HANDOVER_DONE (i : Nat) : Fld := ⟨Reg.LANE_EVENTS i, 0, 1⟩
def LANE_SHADOW_BUSY_COLLIDED (i : Nat) : Fld := ⟨Reg.LANE_SHADOW_BUSY i, 0, 1⟩
def LANE_COEF_PAGE_PAGE (i : Nat) : Fld := ⟨Reg.LANE_COEF_PAGE i, 0, 5⟩
def LANE_COEF_PAGE_STAGE (i : Nat) : Fld := ⟨Reg.LANE_COEF_PAGE i, 8, 1⟩
def LANE_COEF_PAGE_BANK (i : Nat) : Fld := ⟨Reg.LANE_COEF_PAGE i, 9, 1⟩
def LANE_COEF_PAGE_BCAST (i : Nat) : Fld := ⟨Reg.LANE_COEF_PAGE i, 12, 1⟩
def SEG_STATUS_IN_SERVICE : Fld := ⟨Reg.SEG_STATUS, 0, 7⟩
def SEG_EVENTS_RESERVE_SHORT : Fld := ⟨Reg.SEG_EVENTS, 5, 1⟩
def SEG_EVENTS_CLEAR_REFUSED : Fld := ⟨Reg.SEG_EVENTS, 4, 1⟩
def SEG_EVENTS_COPY_WAIT : Fld := ⟨Reg.SEG_EVENTS, 3, 1⟩
def SEG_EVENTS_TABLE_FULL : Fld := ⟨Reg.SEG_EVENTS, 2, 1⟩
def SEG_EVENTS_OVERWRITE_GAP : Fld := ⟨Reg.SEG_EVENTS, 1, 1⟩
def SEG_EVENTS_RING_FULL : Fld := ⟨Reg.SEG_EVENTS, 0, 1⟩
def SEG_PC_LOAD_IN_SERVICE (i : Nat) : Fld := ⟨Reg.SEG_PC_LOAD i, 31, 1⟩
def SEG_PC_LOAD_FROZEN (i : Nat) : Fld := ⟨Reg.SEG_PC_LOAD i, 30, 1⟩
def SEG_PC_LOAD_LOAD (i : Nat) : Fld := ⟨Reg.SEG_PC_LOAD i, 0, 20⟩
def SEG_CSTAT_NEXT_HI_LIVE (i : Nat) : Fld := ⟨Reg.SEG_CSTAT_NEXT_HI i, 31, 1⟩
def SEG_CSTAT_NEXT_HI_RESERVED (i : Nat) : Fld := ⟨Reg.SEG_CSTAT_NEXT_HI i, 30, 1⟩
def SEG_CSTAT_NEXT_HI_FULL (i : Nat) : Fld := ⟨Reg.SEG_CSTAT_NEXT_HI i, 29, 1⟩
def SEG_CSTAT_NEXT_HI_HELD (i : Nat) : Fld := ⟨Reg.SEG_CSTAT_NEXT_HI i, 28, 1⟩
def SEG_CSTAT_NEXT_HI_WIDTH (i : Nat) : Fld := ⟨Reg.SEG_CSTAT_NEXT_HI i, 16, 7⟩
def SEG_CSTAT_NEXT_HI_NEXT_HI (i : Nat) : Fld := ⟨Reg.SEG_CSTAT_NEXT_HI i, 0, 16⟩
def BEAM_STATUS_BUSY : Fld := ⟨Reg.BEAM_STATUS, 16, 16⟩
def BEAM_STATUS_IN_SERVICE : Fld := ⟨Reg.BEAM_STATUS, 0, 16⟩
def BEAM_EVENTS_PEEK_MISS : Fld := ⟨Reg.BEAM_EVENTS, 8, 1⟩
def BEAM_EVENTS_BIN_SAT : Fld := ⟨Reg.BEAM_EVENTS, 7, 1⟩
def BEAM_EVENTS_SPILL_MISS : Fld := ⟨Reg.BEAM_EVENTS, 6, 1⟩
def BEAM_EVENTS_FOLD_REFUSED : Fld := ⟨Reg.BEAM_EVENTS, 5, 1⟩
def BEAM_EVENTS_DEGRADED : Fld := ⟨Reg.BEAM_EVENTS, 4, 1⟩
def BEAM_EVENTS_UNCORR : Fld := ⟨Reg.BEAM_EVENTS, 3, 1⟩
def BEAM_EVENTS_NO_SPACE : Fld := ⟨Reg.BEAM_EVENTS, 2, 1⟩
def BEAM_EVENTS_NO_BEAM : Fld := ⟨Reg.BEAM_EVENTS, 1, 1⟩
def BEAM_EVENTS_BAD_JOB : Fld := ⟨Reg.BEAM_EVENTS, 0, 1⟩
def BEAM_BEAM_STATUS_IN_SERVICE (i : Nat) : Fld := ⟨Reg.BEAM_BEAM_STATUS i, 31, 1⟩
def BEAM_BEAM_STATUS_BUSY (i : Nat) : Fld := ⟨Reg.BEAM_BEAM_STATUS i, 30, 1⟩
def BEAM_BEAM_STATUS_JOB (i : Nat) : Fld := ⟨Reg.BEAM_BEAM_STATUS i, 16, 8⟩
def BEAM_JOB_CFG_REPORT_EN (i : Nat) : Fld := ⟨Reg.BEAM_JOB_CFG i, 31, 1⟩
def BEAM_JOB_CFG_DOUBLE (i : Nat) : Fld := ⟨Reg.BEAM_JOB_CFG i, 30, 1⟩
def BEAM_JOB_CFG_Y_CLAMP (i : Nat) : Fld := ⟨Reg.BEAM_JOB_CFG i, 29, 1⟩
def BEAM_JOB_CFG_MASK_SEL (i : Nat) : Fld := ⟨Reg.BEAM_JOB_CFG i, 16, 8⟩
def BEAM_JOB_CFG_POOL (i : Nat) : Fld := ⟨Reg.BEAM_JOB_CFG i, 8, 4⟩
def BEAM_JOB_CFG_X_MODE (i : Nat) : Fld := ⟨Reg.BEAM_JOB_CFG i, 4, 2⟩
def BEAM_JOB_CFG_KIND (i : Nat) : Fld := ⟨Reg.BEAM_JOB_CFG i, 0, 3⟩
def BEAM_JOB_REPORT_RESULT_BUFS (i : Nat) : Fld := ⟨Reg.BEAM_JOB_REPORT i, 20, 3⟩
def BEAM_JOB_REPORT_CTX (i : Nat) : Fld := ⟨Reg.BEAM_JOB_REPORT i, 0, 10⟩
def BEAM_JOB_YMAP_Y_SHIFT (i : Nat) : Fld := ⟨Reg.BEAM_JOB_YMAP i, 16, 4⟩
def BEAM_JOB_YMAP_Y_BASE (i : Nat) : Fld := ⟨Reg.BEAM_JOB_YMAP i, 0, 16⟩
def BEAM_JOB_STATE_BEAM (i : Nat) : Fld := ⟨Reg.BEAM_JOB_STATE i, 16, 4⟩
def BEAM_JOB_STATE_SPILLED (i : Nat) : Fld := ⟨Reg.BEAM_JOB_STATE i, 12, 1⟩
def BEAM_JOB_STATE_START_PENDING (i : Nat) : Fld := ⟨Reg.BEAM_JOB_STATE i, 11, 1⟩
def BEAM_JOB_STATE_UNLOAD_BUSY (i : Nat) : Fld := ⟨Reg.BEAM_JOB_STATE i, 10, 1⟩
def BEAM_JOB_STATE_DEGRADED (i : Nat) : Fld := ⟨Reg.BEAM_JOB_STATE i, 9, 1⟩
def BEAM_JOB_STATE_STATE (i : Nat) : Fld := ⟨Reg.BEAM_JOB_STATE i, 0, 4⟩
def MEM_STATUS_FROZEN : Fld := ⟨Reg.MEM_STATUS, 16, 7⟩
def MEM_STATUS_IN_SERVICE : Fld := ⟨Reg.MEM_STATUS, 8, 7⟩
def MEM_STATUS_DEFERRED : Fld := ⟨Reg.MEM_STATUS, 4, 1⟩
def MEM_STATUS_TRAINING : Fld := ⟨Reg.MEM_STATUS, 3, 1⟩
def MEM_STATUS_CHANGING : Fld := ⟨Reg.MEM_STATUS, 2, 1⟩
def MEM_STATUS_POINT_IN_EFFECT : Fld := ⟨Reg.MEM_STATUS, 0, 2⟩
def MEM_EVENTS_RETIRE : Fld := ⟨Reg.MEM_EVENTS, 8, 1⟩
def MEM_EVENTS_FREEZE : Fld := ⟨Reg.MEM_EVENTS, 7, 1⟩
def MEM_EVENTS_DBG_VOID : Fld := ⟨Reg.MEM_EVENTS, 6, 1⟩
def MEM_EVENTS_CTRL_IGNORED : Fld := ⟨Reg.MEM_EVENTS, 5, 1⟩
def MEM_EVENTS_TRACK_WARN : Fld := ⟨Reg.MEM_EVENTS, 4, 1⟩
def MEM_EVENTS_FREQ_ABORTED : Fld := ⟨Reg.MEM_EVENTS, 3, 1⟩
def MEM_EVENTS_FREQ_DEFERRED : Fld := ⟨Reg.MEM_EVENTS, 2, 1⟩
def MEM_EVENTS_FREQ_REFUSED : Fld := ⟨Reg.MEM_EVENTS, 1, 1⟩
def MEM_EVENTS_FREQ_DONE : Fld := ⟨Reg.MEM_EVENTS, 0, 1⟩
def MEM_FREQ_POINT : Fld := ⟨Reg.MEM_FREQ, 0, 2⟩
def MEM_PC_STATE_SELF_REFRESH (i : Nat) : Fld := ⟨Reg.MEM_PC_STATE i, 9, 1⟩
def MEM_PC_STATE_IN_ORDER (i : Nat) : Fld := ⟨Reg.MEM_PC_STATE i, 8, 1⟩
def MEM_PC_STATE_STATE (i : Nat) : Fld := ⟨Reg.MEM_PC_STATE i, 0, 3⟩
def MEM_PC_ERR_INFO_CAUSE (i : Nat) : Fld := ⟨Reg.MEM_PC_ERR_INFO i, 28, 4⟩
def MEM_PC_ERR_INFO_REQUESTER (i : Nat) : Fld := ⟨Reg.MEM_PC_ERR_INFO i, 24, 4⟩
def MEM_PC_ERR_INFO_SYNDROME (i : Nat) : Fld := ⟨Reg.MEM_PC_ERR_INFO i, 16, 8⟩
def MEM_PC_ERR_INFO_QUEUED (i : Nat) : Fld := ⟨Reg.MEM_PC_ERR_INFO i, 8, 8⟩
def DMA_STATUS_STOP_CHANNEL : Fld := ⟨Reg.DMA_STATUS, 8, 5⟩
def DMA_STATUS_RESETTING : Fld := ⟨Reg.DMA_STATUS, 1, 1⟩
def DMA_STATUS_ALL_STOP : Fld := ⟨Reg.DMA_STATUS, 0, 1⟩
def DMA_EVENTS_CH_CFG_REFUSED : Fld := ⟨Reg.DMA_EVENTS, 4, 1⟩
def DMA_EVENTS_RESET_REFUSED : Fld := ⟨Reg.DMA_EVENTS, 3, 1⟩
def DMA_EVENTS_ALL_STOP : Fld := ⟨Reg.DMA_EVENTS, 2, 1⟩
def DMA_EVENTS_HALT : Fld := ⟨Reg.DMA_EVENTS, 1, 1⟩
def DMA_EVENTS_QUEUE : Fld := ⟨Reg.DMA_EVENTS, 0, 1⟩
def DMA_VEC_MAP_PAIR : Fld := ⟨Reg.DMA_VEC_MAP, 24, 6⟩
def DMA_VEC_MAP_DISP : Fld := ⟨Reg.DMA_VEC_MAP, 16, 6⟩
def DMA_VEC_MAP_DMA : Fld := ⟨Reg.DMA_VEC_MAP, 8, 6⟩
def DMA_VEC_MAP_FLT : Fld := ⟨Reg.DMA_VEC_MAP, 0, 6⟩
def DMA_LINK_WIDTH : Fld := ⟨Reg.DMA_LINK, 16, 5⟩
def DMA_LINK_RATE : Fld := ⟨Reg.DMA_LINK, 0, 3⟩
def DMA_CH_CFG_PERIPH (i : Nat) : Fld := ⟨Reg.DMA_CH_CFG i, 24, 6⟩
def DMA_CH_CFG_RATE (i : Nat) : Fld := ⟨Reg.DMA_CH_CFG i, 16, 8⟩
def DMA_CH_CFG_BURST (i : Nat) : Fld := ⟨Reg.DMA_CH_CFG i, 8, 3⟩
def DMA_CH_CFG_PRIO (i : Nat) : Fld := ⟨Reg.DMA_CH_CFG i, 4, 3⟩
def DMA_CH_CFG_KIND (i : Nat) : Fld := ⟨Reg.DMA_CH_CFG i, 0, 2⟩
def DMA_CH_STATUS_DIR (i : Nat) : Fld := ⟨Reg.DMA_CH_STATUS i, 16, 1⟩
def DMA_CH_STATUS_CAUSE (i : Nat) : Fld := ⟨Reg.DMA_CH_STATUS i, 8, 4⟩
def DMA_CH_STATUS_STATE (i : Nat) : Fld := ⟨Reg.DMA_CH_STATUS i, 0, 3⟩
def DMA_DQ_CFG_EN (i : Nat) : Fld := ⟨Reg.DMA_DQ_CFG i, 31, 1⟩
def DMA_DQ_CFG_CHAN (i : Nat) : Fld := ⟨Reg.DMA_DQ_CFG i, 24, 5⟩
def DMA_DQ_CFG_RO (i : Nat) : Fld := ⟨Reg.DMA_DQ_CFG i, 21, 1⟩
def DMA_DQ_CFG_STREAMS (i : Nat) : Fld := ⟨Reg.DMA_DQ_CFG i, 19, 2⟩
def DMA_DQ_CFG_RESHUFFLE (i : Nat) : Fld := ⟨Reg.DMA_DQ_CFG i, 16, 3⟩
def DMA_DQ_CFG_COMP_LOG2 (i : Nat) : Fld := ⟨Reg.DMA_DQ_CFG i, 12, 4⟩
def DMA_DQ_CFG_FREE_LOG2 (i : Nat) : Fld := ⟨Reg.DMA_DQ_CFG i, 8, 4⟩
def DMA_DQ_COAL_TIME (i : Nat) : Fld := ⟨Reg.DMA_DQ_COAL i, 16, 16⟩
def DMA_DQ_COAL_COUNT (i : Nat) : Fld := ⟨Reg.DMA_DQ_COAL i, 0, 16⟩
def DMA_DQ_STATUS_COMP_FULL (i : Nat) : Fld := ⟨Reg.DMA_DQ_STATUS i, 2, 1⟩
def DMA_DQ_STATUS_STARVED (i : Nat) : Fld := ⟨Reg.DMA_DQ_STATUS i, 1, 1⟩
def DMA_DQ_STATUS_PHASE (i : Nat) : Fld := ⟨Reg.DMA_DQ_STATUS i, 0, 1⟩
def DMA_DQ_EVENTS_CONS_OVERRUN (i : Nat) : Fld := ⟨Reg.DMA_DQ_EVENTS i, 2, 1⟩
def DMA_DQ_EVENTS_FREE_OVERRUN (i : Nat) : Fld := ⟨Reg.DMA_DQ_EVENTS i, 1, 1⟩
def DMA_DQ_EVENTS_CFG_REFUSED (i : Nat) : Fld := ⟨Reg.DMA_DQ_EVENTS i, 0, 1⟩
def STRM_CTRL_STALL_TIME : Fld := ⟨Reg.STRM_CTRL, 8, 8⟩
def STRM_CTRL_EN : Fld := ⟨Reg.STRM_CTRL, 0, 1⟩
def STRM_STATUS_STALLED : Fld := ⟨Reg.STRM_STATUS, 3, 1⟩
def STRM_STATUS_STATE : Fld := ⟨Reg.STRM_STATUS, 0, 3⟩
def STRM_EVENTS_BW_REFUSED : Fld := ⟨Reg.STRM_EVENTS, 6, 1⟩
def STRM_EVENTS_CTL_IGNORED : Fld := ⟨Reg.STRM_EVENTS, 5, 1⟩
def STRM_EVENTS_LINK_UP : Fld := ⟨Reg.STRM_EVENTS, 4, 1⟩
def STRM_EVENTS_LINK_DOWN : Fld := ⟨Reg.STRM_EVENTS, 3, 1⟩
def STRM_EVENTS_RESEND : Fld := ⟨Reg.STRM_EVENTS, 2, 1⟩
def STRM_EVENTS_DROP : Fld := ⟨Reg.STRM_EVENTS, 1, 1⟩
def STRM_EVENTS_STALL : Fld := ⟨Reg.STRM_EVENTS, 0, 1⟩
def DISP_CTRL_EN : Fld := ⟨Reg.DISP_CTRL, 31, 1⟩
def DISP_CTRL_EDP : Fld := ⟨Reg.DISP_CTRL, 30, 1⟩
def DISP_CTRL_LANES : Fld := ⟨Reg.DISP_CTRL, 16, 2⟩
def DISP_CTRL_RATE : Fld := ⟨Reg.DISP_CTRL, 8, 3⟩
def DISP_CTRL_BPC6 : Fld := ⟨Reg.DISP_CTRL, 4, 1⟩
def DISP_STATUS_HPD : Fld := ⟨Reg.DISP_STATUS, 8, 1⟩
def DISP_STATUS_STATE : Fld := ⟨Reg.DISP_STATUS, 0, 3⟩
def DISP_EVENTS_CURSOR_BUSY : Fld := ⟨Reg.DISP_EVENTS, 11, 1⟩
def DISP_EVENTS_RECT_BAD : Fld := ⟨Reg.DISP_EVENTS, 10, 1⟩
def DISP_EVENTS_CRC_MISMATCH : Fld := ⟨Reg.DISP_EVENTS, 9, 1⟩
def DISP_EVENTS_RELEASE : Fld := ⟨Reg.DISP_EVENTS, 8, 1⟩
def DISP_EVENTS_LAYER_BAD : Fld := ⟨Reg.DISP_EVENTS, 7, 1⟩
def DISP_EVENTS_UNDERRUN : Fld := ⟨Reg.DISP_EVENTS, 6, 1⟩
def DISP_EVENTS_WAVE_VOID : Fld := ⟨Reg.DISP_EVENTS, 5, 1⟩
def DISP_EVENTS_TIMING_DONE : Fld := ⟨Reg.DISP_EVENTS, 4, 1⟩
def DISP_EVENTS_TIMING_REFUSED : Fld := ⟨Reg.DISP_EVENTS, 3, 1⟩
def DISP_EVENTS_HPD_IRQ : Fld := ⟨Reg.DISP_EVENTS, 2, 1⟩
def DISP_EVENTS_HPD_LOST : Fld := ⟨Reg.DISP_EVENTS, 1, 1⟩
def DISP_EVENTS_TRAIN_FAIL : Fld := ⟨Reg.DISP_EVENTS, 0, 1⟩
def DISP_LOCK_LOCK : Fld := ⟨Reg.DISP_LOCK, 0, 1⟩
def DISP_AUX_STATUS_BUSY : Fld := ⟨Reg.DISP_AUX_STATUS, 8, 1⟩
def DISP_AUX_STATUS_RESULT : Fld := ⟨Reg.DISP_AUX_STATUS, 0, 2⟩
def DISP_PANEL_BL_EN : Fld := ⟨Reg.DISP_PANEL, 1, 1⟩
def DISP_PANEL_VDD_EN : Fld := ⟨Reg.DISP_PANEL, 0, 1⟩
def DISP_LAYER_STATUS_FETCH_IDLE (i : Nat) : Fld := ⟨Reg.DISP_LAYER_STATUS i, 3, 1⟩
def DISP_LAYER_STATUS_RELEASED (i : Nat) : Fld := ⟨Reg.DISP_LAYER_STATUS i, 2, 1⟩
def DISP_LAYER_STATUS_PENDING (i : Nat) : Fld := ⟨Reg.DISP_LAYER_STATUS i, 1, 1⟩
def DISP_LAYER_STATUS_ENABLED (i : Nat) : Fld := ⟨Reg.DISP_LAYER_STATUS i, 0, 1⟩
def PAIR_STATUS_PEER_ROLE : Fld := ⟨Reg.PAIR_STATUS, 12, 3⟩
def PAIR_STATUS_MIRROR_FULL : Fld := ⟨Reg.PAIR_STATUS, 9, 1⟩
def PAIR_STATUS_LOOM_DELAYED : Fld := ⟨Reg.PAIR_STATUS, 8, 1⟩
def PAIR_STATUS_LOCAL_LOOM : Fld := ⟨Reg.PAIR_STATUS, 7, 1⟩
def PAIR_STATUS_FENCE_OUT : Fld := ⟨Reg.PAIR_STATUS, 6, 1⟩
def PAIR_STATUS_PEER_HEARD : Fld := ⟨Reg.PAIR_STATUS, 5, 1⟩
def PAIR_STATUS_LINK_UP : Fld := ⟨Reg.PAIR_STATUS, 4, 1⟩
def PAIR_STATUS_PROTECTED : Fld := ⟨Reg.PAIR_STATUS, 3, 1⟩
def PAIR_STATUS_ROLE : Fld := ⟨Reg.PAIR_STATUS, 0, 3⟩
def PAIR_EVENTS_PHASE_ALARM : Fld := ⟨Reg.PAIR_EVENTS, 8, 1⟩
def PAIR_EVENTS_DROPPED : Fld := ⟨Reg.PAIR_EVENTS, 7, 1⟩
def PAIR_EVENTS_FOLLOW_FAIL : Fld := ⟨Reg.PAIR_EVENTS, 6, 1⟩
def PAIR_EVENTS_FENCED : Fld := ⟨Reg.PAIR_EVENTS, 5, 1⟩
def PAIR_EVENTS_TAKEOVER : Fld := ⟨Reg.PAIR_EVENTS, 4, 1⟩
def PAIR_EVENTS_FENCE_ASSERTED : Fld := ⟨Reg.PAIR_EVENTS, 3, 1⟩
def PAIR_EVENTS_PEER_LOST : Fld := ⟨Reg.PAIR_EVENTS, 2, 1⟩
def PAIR_EVENTS_FORM_REFUSED : Fld := ⟨Reg.PAIR_EVENTS, 1, 1⟩
def PAIR_EVENTS_FORMED : Fld := ⟨Reg.PAIR_EVENTS, 0, 1⟩
def PAIR_ID_FENCE_ACK : Fld := ⟨Reg.PAIR_ID, 18, 1⟩
def PAIR_ID_FENCED_N : Fld := ⟨Reg.PAIR_ID, 17, 1⟩
def PAIR_ID_PAIR_ROLE : Fld := ⟨Reg.PAIR_ID, 16, 1⟩
def PAIR_ID_ARRAY_ID : Fld := ⟨Reg.PAIR_ID, 0, 5⟩
def PAIR_FORM_REFUSE_CAUSE : Fld := ⟨Reg.PAIR_FORM_REFUSE, 0, 4⟩
def FLT_CLASS_FATAL : Fld := ⟨Reg.FLT_CLASS, 19, 1⟩
def FLT_CLASS_TEMP_WARN : Fld := ⟨Reg.FLT_CLASS, 18, 1⟩
def FLT_CLASS_FENCED : Fld := ⟨Reg.FLT_CLASS, 17, 1⟩
def FLT_CLASS_TAKEOVER : Fld := ⟨Reg.FLT_CLASS, 16, 1⟩
def FLT_CLASS_PEER_LOST : Fld := ⟨Reg.FLT_CLASS, 15, 1⟩
def FLT_CLASS_CAPACITY : Fld := ⟨Reg.FLT_CLASS, 14, 1⟩
def FLT_CLASS_STREAM_DROP : Fld := ⟨Reg.FLT_CLASS, 13, 1⟩
def FLT_CLASS_STREAM_STALL : Fld := ⟨Reg.FLT_CLASS, 12, 1⟩
def FLT_CLASS_BEAM_DEGRADED : Fld := ⟨Reg.FLT_CLASS, 11, 1⟩
def FLT_CLASS_AXIS_STALL : Fld := ⟨Reg.FLT_CLASS, 10, 1⟩
def FLT_CLASS_AXIS_COAST : Fld := ⟨Reg.FLT_CLASS, 9, 1⟩
def FLT_CLASS_CLK_REALIGN : Fld := ⟨Reg.FLT_CLASS, 8, 1⟩
def FLT_CLASS_CLK_BYPASS : Fld := ⟨Reg.FLT_CLASS, 7, 1⟩
def FLT_CLASS_CLK_HOLDOVER : Fld := ⟨Reg.FLT_CLASS, 6, 1⟩
def FLT_CLASS_DMA_ALL_STOP : Fld := ⟨Reg.FLT_CLASS, 5, 1⟩
def FLT_CLASS_DMA_HALT : Fld := ⟨Reg.FLT_CLASS, 4, 1⟩
def FLT_CLASS_FREEZE_TIMEOUT : Fld := ⟨Reg.FLT_CLASS, 3, 1⟩
def FLT_CLASS_FREEZE_HELD : Fld := ⟨Reg.FLT_CLASS, 2, 1⟩
def FLT_CLASS_HBM_RETIRE : Fld := ⟨Reg.FLT_CLASS, 1, 1⟩
def FLT_CLASS_HBM_FREEZE : Fld := ⟨Reg.FLT_CLASS, 0, 1⟩
def FLT_HOST_SHADOW_WRITE : Fld := ⟨Reg.FLT_HOST, 13, 1⟩
def FLT_HOST_PAIR_ROLE : Fld := ⟨Reg.FLT_HOST, 12, 1⟩
def FLT_HOST_DISP_BUSY : Fld := ⟨Reg.FLT_HOST, 11, 1⟩
def FLT_HOST_BAR2_WRITE : Fld := ⟨Reg.FLT_HOST, 10, 1⟩
def FLT_HOST_JOB_BUSY : Fld := ⟨Reg.FLT_HOST, 9, 1⟩
def FLT_HOST_STAGE_OVERRUN : Fld := ⟨Reg.FLT_HOST, 8, 1⟩
def FLT_HOST_CLK_BUSY : Fld := ⟨Reg.FLT_HOST, 7, 1⟩
def FLT_HOST_AXIS_BUSY : Fld := ⟨Reg.FLT_HOST, 6, 1⟩
def FLT_HOST_COMPAT_BUSY : Fld := ⟨Reg.FLT_HOST, 5, 1⟩
def FLT_HOST_STRUCT_ABSENT : Fld := ⟨Reg.FLT_HOST, 4, 1⟩
def FLT_HOST_DRAFT_BUSY : Fld := ⟨Reg.FLT_HOST, 3, 1⟩
def FLT_HOST_BLOCK_CLOSED : Fld := ⟨Reg.FLT_HOST, 2, 1⟩
def FLT_HOST_CTX_LIVE_WRITE : Fld := ⟨Reg.FLT_HOST, 1, 1⟩
def FLT_HOST_PARTIAL_WRITE : Fld := ⟨Reg.FLT_HOST, 0, 1⟩
def FLT_DRAFT_REFUSED : Fld := ⟨Reg.FLT_DRAFT, 1, 1⟩
def FLT_DRAFT_SECTION_SKIPPED : Fld := ⟨Reg.FLT_DRAFT, 0, 1⟩
def FLT_BBX_COPY_FAIL : Fld := ⟨Reg.FLT_BBX, 1, 1⟩
def FLT_BBX_LOST : Fld := ⟨Reg.FLT_BBX, 0, 1⟩
def FLT_FATAL_SEEN : Fld := ⟨Reg.FLT_FATAL, 31, 1⟩
def FLT_FATAL_CAUSE : Fld := ⟨Reg.FLT_FATAL, 16, 5⟩
def FLT_FATAL_DETAIL : Fld := ⟨Reg.FLT_FATAL, 0, 16⟩
def FLT_THERM_READING : Fld := ⟨Reg.FLT_THERM, 16, 16⟩
def FLT_THERM_DIODE : Fld := ⟨Reg.FLT_THERM, 0, 3⟩
def BBX_STATUS_MODE : Fld := ⟨Reg.BBX_STATUS, 31, 1⟩
def BBX_STATUS_SNAP_ACTIVE : Fld := ⟨Reg.BBX_STATUS, 6, 1⟩
def BBX_STATUS_COPY_B : Fld := ⟨Reg.BBX_STATUS, 4, 2⟩
def BBX_STATUS_COPY_A : Fld := ⟨Reg.BBX_STATUS, 2, 2⟩
def BBX_STATUS_LOST : Fld := ⟨Reg.BBX_STATUS, 1, 1⟩
def BBX_STATUS_COMMITTING : Fld := ⟨Reg.BBX_STATUS, 0, 1⟩
def BBX_EVENTS_SNAP_REFUSED : Fld := ⟨Reg.BBX_EVENTS, 9, 1⟩
def BBX_EVENTS_ERASE_REFUSED : Fld := ⟨Reg.BBX_EVENTS, 8, 1⟩
def BBX_EVENTS_STEPPED_BACK : Fld := ⟨Reg.BBX_EVENTS, 7, 1⟩
def BBX_EVENTS_ANNOT_REFUSED : Fld := ⟨Reg.BBX_EVENTS, 6, 1⟩
def BBX_EVENTS_OUT_OF_SNAP : Fld := ⟨Reg.BBX_EVENTS, 5, 1⟩
def BBX_EVENTS_SNAP_BROKEN : Fld := ⟨Reg.BBX_EVENTS, 4, 1⟩
def BBX_EVENTS_REPAIRED : Fld := ⟨Reg.BBX_EVENTS, 3, 1⟩
def BBX_EVENTS_LOST : Fld := ⟨Reg.BBX_EVENTS, 2, 1⟩
def BBX_EVENTS_JOURNAL_REPLAYED : Fld := ⟨Reg.BBX_EVENTS, 1, 1⟩
def BBX_EVENTS_COMMIT_FAIL : Fld := ⟨Reg.BBX_EVENTS, 0, 1⟩
def BBX_ERASE_CTRL_ERASES_LEFT : Fld := ⟨Reg.BBX_ERASE_CTRL, 20, 4⟩
def BBX_ERASE_CTRL_FULL_SET : Fld := ⟨Reg.BBX_ERASE_CTRL, 19, 1⟩
def BBX_ERASE_CTRL_STRAP : Fld := ⟨Reg.BBX_ERASE_CTRL, 8, 1⟩
def BBX_ERASE_CTRL_CHAL_VALID : Fld := ⟨Reg.BBX_ERASE_CTRL, 2, 1⟩
def TEST_RESULT_DONE : Fld := ⟨Reg.TEST_RESULT, 31, 1⟩
def TEST_SAFE_CODE_CLASS : Fld := ⟨Reg.TEST_SAFE_CODE, 8, 2⟩
def TEST_SAFE_CODE_DETAIL : Fld := ⟨Reg.TEST_SAFE_CODE, 0, 5⟩
/-- Bit c: channel c produced an over-range sample. -/
def CONV_EVENTS_OVR (c : Nat) : Fld := ⟨Reg.CONV_EVENTS, c, 1⟩
/-- Bit k: source k reported an event. -/
def TRIG_EVENTS_EVT (k : Nat) : Fld := ⟨Reg.TRIG_EVENTS, k, 1⟩
/-- Enable of output o of PLL p. -/
def CLK_OUT_EN (p o : Nat) : Fld := ⟨Reg.CLK_OUT p o, 31, 1⟩
def CLK_OUT_EN_EFFECT (p o : Nat) : Fld := ⟨Reg.CLK_OUT p o, 30, 1⟩
def CLK_BAND_VALID (p e : Nat) : Fld := ⟨Reg.CLK_BAND p e, 31, 1⟩
def CLK_BAND_BAND (p e : Nat) : Fld := ⟨Reg.CLK_BAND p e, 16, 8⟩
def CLK_BAND_RATE (p e : Nat) : Fld := ⟨Reg.CLK_BAND p e, 0, 15⟩
/-- Injection outcome of bank b. -/
def CAL_INJ_OUTCOME (b : Nat) : Fld := ⟨Reg.CAL_INJ_STATUS, 2 * b, 2⟩
/-- Phase of bank b. -/
def CAL_PHASE (b : Nat) : Fld := ⟨Reg.CAL_STATUS, 16 + 4 * b, 4⟩
def ARB_RQ_LIMIT (st r : Nat) : Fld := ⟨Reg.ARB_RQ st r, 24, 8⟩
def ARB_RQ_PRIO (st r : Nat) : Fld := ⟨Reg.ARB_RQ st r, 16, 3⟩
def ARB_RQ_QUOTA (st r : Nat) : Fld := ⟨Reg.ARB_RQ st r, 0, 16⟩
def ARB_STAT_MASKED (st r : Nat) : Fld := ⟨Reg.ARB_STAT st r, 16, 1⟩
def ARB_STAT_WAIT (st r : Nat) : Fld := ⟨Reg.ARB_STAT st r, 0, 8⟩
/-- Item i failed. -/
def TEST_RESULT_ITEM (i : Nat) : Fld := ⟨Reg.TEST_RESULT, i, 1⟩
/-- Mask bit of MSI-X vector v (PCI Express: bit 0 of Vector Control). -/
def DMA_MSIX_MASK (v : Nat) : Fld := ⟨Reg.DMA_MSIX_CTL v, 0, 1⟩
/-- Pending bit of MSI-X vector v. -/
def DMA_PBA_BIT (v : Nat) : Fld := ⟨0x129000 + 4 * (v / 32), v % 32, 1⟩

end F

end Sys2Proof.Machine
end

