-- ==== Sys2Proof/Machine/State.lean ====
section
/-! DEFINITION. The state of the block: one file of every BAR0 register by offset, the state that no register shows,
grouped by block, and the queue of waiting commands; the reasons a step can stop; and the state after reset. -/

namespace Sys2Proof.Machine

/-- The engine states of spec/01_engine_architecture.md R29. -/
inductive EngState where
  | off | aonUp | reset | selftest | idle | armed | acquiring | safeTalk
deriving DecidableEq, Repr

/-- The code of a state (R29). -/
def EngState.code : EngState → Nat
  | .off => 0 | .aonUp => 1 | .reset => 2 | .selftest => 3 | .idle => 4 | .armed => 5 | .acquiring => 6 | .safeTalk => 7

/-- What the engine sends toward the outside in the present fabric clock. -/
inductive Output where
  /-- The value a register read returns. -/
  | readData (off : Nat) (v : Word)
  /-- The value a BAR2 read returns. -/
  | bar2Data (addr : Nat) (v : Word)
  /-- The bytes a maintenance-port read returns. -/
  | i2cData (bytes : List Byte)
  /-- An MSI-X message. -/
  | msix (vector : Nat) (addr : BitVec 64) (data : Word)
  /-- A posted memory write toward host memory; `relaxed` asks for Relaxed Ordering, where Device Control permits it (R304). -/
  | hostWrite (addr : Nat) (bytes : List Byte) (relaxed : Bool)
  /-- A read request toward host memory; one of no bytes flushes the writes before it (R319). -/
  | hostRead (addr len : Nat)
  /-- A bolt frame. -/
  | boltFrame (bytes : List Byte)
  /-- A tenon cell with its CELL_SEQ, and its bytes on the link (R391). -/
  | cell (cseq : Nat) (c : Cell) (bytes : List Byte)
  /-- An AUX transaction toward the display. -/
  | aux (bytes : List Byte)
  /-- A command to the flash on QSPI, with the address and the number of bytes of a read (R55). -/
  | qspi (cmd : Byte) (addr len : Nat)
  /-- A period of SYNC_OUT begins, so many VCO cycles after the fabric clock does (R159). -/
  | syncOut (vco : Nat)
deriving DecidableEq, Repr

/-- The fuse array (R61, R375, R434): silicon stepping, serial number, subsystem identity, key hash (zero while blank),
SIGNED_ONLY, unburnt erase fuses, erase key. -/
structure Fuses where
  step : BitVec 16
  serial : BitVec 64
  subsys : Word
  keyHash : BitVec 256
  signedOnly : Bool
  erasesLeft : Nat
  eraseKey : BitVec 256
deriving DecidableEq, Repr

/-- The load that RESET still owes (R54): from flash or from the staging buffer. -/
inductive LoadFrom where
  | flash | staging
deriving DecidableEq, Repr

/-- What the board and the reset sequence give the engine: fuses, straps and I2C_ADDR as sampled, the class of REF_IN as RESET
found it and as it stands now, the levels at VREF_EXT and BYP_CLK, whether the PCIe link is up, what the host set in its
configuration space and AER's uncorrectable error status (R304), PERST_N, D3hot, the load that
RESET owes, whether training is done, the first sequence violation, the run of readings at 115 degrees or above (R416),
PAIR_FENCED_N low and PAIR_FENCE_ACK (R399), and how self-test ended in the present clock: what its items found,
PAIR_FENCED_N, and the items that a time-out found unfinished (R367). -/
structure BoardSt where
  fuses : Fuses
  straps : Straps
  i2cAddr : BitVec 3
  ref : RefClass
  refIn : RefClass
  levels : Levels
  pcieUp : Bool
  pcie : PcieConfig
  aer : Word
  perst : Bool
  d3hot : Bool
  load : Option LoadFrom
  trained : Bool
  seqViolation : Option (Rail × Rail)
  hotReadings : Nat
  fenced : Bool
  fenceAck : Bool
  verdict : Option (SelftestResults × Bool × Option (BitVec 10))
deriving DecidableEq, Repr

/-- A burn in progress (R61). -/
structure Burn where
  key : Bool
  signedOnly : Bool
deriving DecidableEq, Repr

/-- The draft loader: staging buffer, image store (empty while no image is in force), FUSE_STAGE0-7, a burn and a check
in progress. -/
structure DraftSt where
  staging : Sparse Byte
  image : List Byte
  fuseStage : BitVec 256
  burn : Option Burn
  checking : Bool
deriving DecidableEq, Repr

/-- A black-box record (R372); its CRC is computed when it is read. -/
structure BbxRecord where
  rseq : Nat
  secs : Nat
  pcc : Nat
  hours : Nat
  source : Byte
  rflags : Byte
  code : BitVec 16
  origin : Byte
  tsc : BitVec 64
  payload : List Byte
deriving DecidableEq, Repr

/-- A journal entry of one copy (R376): the record, and whether phase 1 completed. -/
structure Journal where
  entry : BbxRecord
  whole : Bool
deriving DecidableEq, Repr

/-- One copy of the control page (R364): PCC, the operating time, the state of each copy of the black box as BBX.STATUS codes it
(R378), the journal of each copy, and the CRC-16 that protects the page. The model's byte layout of the page is log 151. -/
structure Page where
  pcc : Nat
  hours : Nat
  secs : Nat
  stateA : Nat
  stateB : Nat
  journalA : Option Journal
  journalB : Option Journal
  crc : BitVec 16
deriving DecidableEq, Repr

/-- The black box beside its registers: both copies by slot, the volatile ring (oldest first, with the fabric clock in which
each record was made), the two copies of the control page (R364), the seconds since the operating time was last saved (R365), the
host's latched range, the posted erase challenge, ERASE_RESP as written, and the wall clock of the last WALL_CLOCK record committed (R381). For
the collisions of R383 it keeps of the present clock: a latch asked for, the outcomes of a RETRY's tests, the RSEQ that would have
been next where the store was erased, and the slots written with what they held before. -/
structure BbxSt where
  copyA : Sparse (Option BbxRecord)
  copyB : Sparse (Option BbxRecord)
  ring : List (BbxRecord × Nat)
  pageA : Page
  pageB : Page
  unsaved : Nat
  snap : Option (Nat × Nat)
  chal : Option (BitVec 128)
  eraseResp : BitVec 128
  lastWall : Option (BitVec 64)
  latchReq : Option (Nat × Nat)
  retryReq : Option (Bool × Bool)
  erased : Option Nat
  was : List (Bool × Nat × Option BbxRecord)
deriving DecidableEq, Repr

/-- The maintenance port (spec/19_package_and_electrical.md R454): address pointer, its own READ_SEL, SNAP_FROM and SNAP_TO,
read buffer, refusal flags, latched range, a latch asked for in the present clock, the record that a load under way brings,
and command result. -/
structure I2cSt where
  ptr : Byte
  readSel : BitVec 48
  snapFrom : BitVec 48
  snapTo : BitVec 48
  buffer : List Byte
  outOfSnap : Bool
  snapRefused : Bool
  snap : Option (Nat × Nat)
  latchReq : Option (Nat × Nat)
  loading : Option (List Byte)
  result : Byte
deriving DecidableEq, Repr

/-- Time inside the model: the fabric-clock count, the W1C bits set in the present clock, the occurrence counters it has
moved with their values before, the RCL registers it has added to with their values before and what it added (R10), and the
index of the next free value (log 10); `entered` is the clock of the last change of state with its rank in R35. -/
structure TimeSt where
  clk : Nat
  setNow : List Nat
  occNow : List (Nat × Nat)
  addNow : List (Nat × Nat × Nat)
  free : Nat
  entered : Option (Nat × Nat)
deriving DecidableEq, Repr

/-- Straps as an open board gives them (R443: an open strap reads 0; log 2). -/
def Straps.init : Straps := { compatSel := false, pairRole := false, arrayId := 0, eraseEn := false }

/-- The fuses of the unit the model starts with (DESIGN CHOICE, log 1): stepping A0, serial 0, key blank, all erase
fuses unburnt. -/
def Fuses.init : Fuses :=
  { step := 0x4130, serial := 0, subsys := 0, keyHash := 0, signedOnly := false, erasesLeft := 16, eraseKey := 0 }

/-- The board as RESET finds it after power-up: the flash load is owed (R54). -/
def BoardSt.init : BoardSt :=
  { fuses := Fuses.init, straps := Straps.init, i2cAddr := 0, ref := .noRef, refIn := .noRef, levels := { ext := false, byp := false }, pcieUp := false, pcie := PcieConfig.init, aer := 0, perst := false,
    d3hot := false, load := some .flash, trained := false, seqViolation := none, hotReadings := 0, fenced := false,
    fenceAck := false, verdict := none }

/-- The control page of a new unit, sealed by its CRC (DESIGN CHOICE, log 151): counts and time 0, both copies in service, no
journal. -/
def Page.init : Page :=
  { pcc := 0, hours := 0, secs := 0, stateA := 0, stateB := 0, journalA := none, journalB := none, crc := 0xA96A }

/-- An empty black box. -/
def BbxSt.init : BbxSt :=
  { copyA := [], copyB := [], ring := [], pageA := Page.init, pageB := Page.init, unsaved := 0, snap := none, chal := none, eraseResp := 0, lastWall := none, latchReq := none, retryReq := none,
    erased := none, was := [] }

/-- The maintenance port after power-up. -/
def I2cSt.init : I2cSt :=
  { ptr := 0, readSel := 0, snapFrom := 0, snapTo := 0, buffer := [], outOfSnap := false, snapRefused := false,
    snap := none, latchReq := none, loading := none, result := 0 }

/-- The converter reference: a change written in this clock, in effect in the next (R124), the SEL value before the first write
accepted in this clock (R126), and the spans of fabric clocks, newest first, in which SETTLED was clear (R125). -/
structure ConvSt where
  refPending : Option Nat
  refNow : Option Nat
  unsettled : List (Nat × Option Nat)
deriving DecidableEq, Repr

def ConvSt.init : ConvSt := { refPending := none, refNow := none, unsettled := [] }

/-- The correction coefficients of a slice (spec/04_converter_banks.md R116, spec/05_selvedge_calibration.md R138): the
delay correction is kept as one total D, in femtoseconds. -/
structure Coef where
  offset : Int
  gain : Int
  d : Rat
  delay : Int
  trim : Int
  taps : List Int
deriving DecidableEq, Repr

/-- Neutral correction (R116). -/
def Coef.neutral : Coef :=
  { offset := 0, gain := 0x20000, d := 0, delay := 0, trim := 0, taps := [0, 0, 0, 0, 0x10000, 0, 0, 0] }

/-- The phase of a visit (R134). -/
inductive CalPhase where
  | off | gap | self | settle | capture | update
deriving DecidableEq, Repr

/-- The calibration engine of one bank: phase, visited slice (64 in the self visit), whether the visit's capture has
begun or waits for an injection, LOOP as latched at the visit's start, the injection in progress (source, running), the
squared skew residuals and cleanness of the sweep so far, whether a sweep is due (R135), the bank term waiting for each
slice, the measured estimate, whether the visit ended in the present clock, and the clock in which CAPTURE_START began the
capture (R151). -/
structure CalBank where
  phase : CalPhase
  slice : Nat
  capturing : Bool
  capWait : Bool
  loop : Word
  inj : Option (Nat × Bool)
  skewSq : List Int
  clean : Bool
  due : Bool
  term : Sparse Int
  est : Option VisitEst
  ended : Bool
  capAt : Option Nat
deriving DecidableEq, Repr

def CalBank.init : CalBank :=
  { phase := .off, slice := 0, capturing := false, capWait := false, loop := 0, inj := none, skewSq := [], clean := true,
    due := false, term := [], est := none, ended := false, capAt := none }

/-- Calibration: coefficients in effect by 65 x bank + slice and those that take effect with the next clock (R134, R153),
the four banks, the monitor queue, the entries pushed into it in the present clock and those that met it full (R144, R147),
every change of coefficients, newest first, with the first fabric word that meets it and the coefficients before it (R119),
CAL.CTRL as it is in effect, and a START that waits for the MODE written with it (R136). -/
structure CalSt where
  coefs : Sparse Coef
  banks : Sparse CalBank
  queue : List Word
  pushedNow : Nat
  log : List (Nat × Nat × Coef)
  coming : List (Nat × Coef)
  excess : List Word
  ctrl : Word
  startReq : Bool
deriving DecidableEq, Repr

def CalSt.init : CalSt :=
  { coefs := [], banks := [], queue := [], pushedNow := 0, log := [], coming := [], excess := [], ctrl := 0, startReq := false }

/-- A REALIGN in progress (spec/06_clocking.md R171): decided; the segments are closed and the Loom holds; the outputs are
gated until the coincident edge; the dividers have restarted and the settle count runs. -/
inductive Realign where
  | decided | holding | gated | settling
deriving DecidableEq, Repr

/-- Why the SPLL and FPLL relock: the start in RESET, a GO of CLK.RATE, a return from BYPASS. -/
inductive Relock where
  | start | go | back
deriving DecidableEq, Repr

/-- The clock block beside its registers: existing outputs of each PLL, SCLK mode, why the SPLL and FPLL relock,
REALIGN progress, whether TSC counts, the fraction of TSC on the bypass clock, TSC at the origin edge (R459), the
position of the PAIR_TRIM slew, the spans of fabric clocks, newest first, in which the SPLL held over (R169), CLK.RATE
before a GO accepted in the present clock and as that GO wrote it (R172), CLK.RATE as it governs the relock under way or the
last one (R162), the slice rate in the unit of the TSC (R165), whether the holdover limit expired in the present clock, the
phase error and the step of the TSC of a REALIGN (R171), the EN bits in effect of each PLL (R159), and the fabric clocks since the
dividers restarted. -/
structure ClkSt where
  masks : List (BitVec 16)
  sclkMode : Bool
  relock : Option Relock
  realign : Option Realign
  tscRuns : Bool
  tscFrac : Nat
  originTsc : Nat
  trimNow : Int
  held : List (Nat × Option Nat)
  go : Option (Word × Word)
  want : Word
  rate : Nat
  expired : Bool
  jump : Int
  step : Int
  ens : List (BitVec 16)
  sync : Nat
deriving DecidableEq, Repr

def ClkSt.init : ClkSt :=
  { masks := [0x000F, 0x0001, 0x0003, 0x0000, 0x0001], sclkMode := false, relock := none, realign := none,
    tscRuns := false, tscFrac := 0, originTsc := 0, trimNow := 0, held := [], go := none,
    want := 0, rate := 25000, expired := false, jump := 0, step := 0, ens := List.replicate 5 0xFFFF, sync := 0 }

/-- A comparator (spec/07_trigger.md R179): its state, and whether it is armed for rising and falling detections. -/
structure Comparator where
  state : Bool
  armRise : Bool
  armFall : Bool
deriving DecidableEq, Repr

/-- What a unit shows the others for one word (R176, clock 73): the word's clock, its remaining events, the state A at
the word's start and its changes. -/
structure BusWord where
  clock : Nat
  events : List Int
  startA : Bool
  changes : List (Int × Bool)
deriving DecidableEq, Repr

/-- A trigger unit (R177 to R186): the set in effect (ten words in window order), the sets applied since with the TSC of
each APPLY, oldest first, that no word has met yet, BAD_CFG with each, comparators, the starts of a running pulse, runt or
transition in each direction, the last change of state A and whether its TIMEOUT was reported, the sequence, the HELD entry,
the state vector at the end of the last word with the pattern's truth, the last event kept and the word on the bus; and what fell on
the instant of the word's last sample, which the next word's may share: rising crossings of its own comparator A, and source
events of a sequence with their rank (R183, R184). Instants are in 2^-32 fabric clock. -/
structure TrigUnit where
  set : List Word
  bad : Bool
  applied : List (Nat × List Word × Bool)
  a : Comparator
  b : Comparator
  posStart : Option Int
  negStart : Option Int
  change : Option Int
  timedOut : Bool
  seqA : Option Int
  seqCount : Nat
  heldFrom : Option Int
  vec : Option Nat
  pattern : Bool
  lastKept : Option Int
  bus : BusWord
  rose : List Int
  late : List (Int × Nat)
deriving DecidableEq, Repr

def Comparator.init : Comparator := { state := false, armRise := false, armFall := false }

def TrigUnit.init : TrigUnit :=
  { set := [], bad := false, applied := [], a := Comparator.init, b := Comparator.init, posStart := none, negStart := none,
    change := none, timedOut := false, seqA := none, seqCount := 0, heldFrom := none, vec := none, pattern := false, lastKept := none,
    bus := { clock := 0, events := [], startA := false, changes := [] }, rose := [], late := [] }

/-- AUX_TRIG (R190): the sets applied, newest first, with the TSC of each APPLY, the pin's level after the filter, its changes
and the events kept, each by its reported instant, and the last event kept. -/
structure AuxSt where
  sets : List (Nat × List Word)
  level : Bool
  changes : List (Int × Bool)
  events : List Int
  lastKept : Option Int
deriving DecidableEq, Repr

/-- The trigger block: units, AUX_TRIG, and the TRIG_OUT pulses (clock of the rise, width) by pin (R198). -/
structure TrigSt where
  units : Sparse TrigUnit
  aux : AuxSt
  pulses : Sparse (Option (Nat × Nat))
deriving DecidableEq, Repr

def TrigSt.init : TrigSt :=
  { units := [], aux := { sets := [], level := false, changes := [], events := [], lastKept := none }, pulses := [] }

/-- An event reported to the Loom (spec/03_axis_and_loom.md R84, R85). -/
inductive LoomEvent where
  /-- A trigger source, its instant and MULT. -/
  | trig (src : Nat) (instant : Instant) (mult : Nat)
  /-- An axis event by its bit in an AXIS_EVENT mask, with its edge's instant; none for ENTER_COAST and ENTER_STALLED. -/
  | axis (bit : Nat) (instant : Option Instant)
  /-- A peer event code. -/
  | tenon (code : Nat)
deriving DecidableEq, Repr

/-- The descriptor of a beam job (spec/10_cloth_beams.md R278). -/
structure JobDesc where
  kind : Nat
  xMode : Nat
  pool : Nat
  maskSel : Nat
  yClamp : Bool
  double : Bool
  report : Bool
  bufs : Nat
  ctx : Nat
  width : Nat
  height : Nat
  xStart : Int
  xDiv : Nat
  yShift : Nat
  yBase : Int
  ui : Nat
  foldOffset : Nat
  axisMult : Nat
  limit : Nat
deriving DecidableEq, Repr

/-- A sweep whose samples the model does not hold: one in progress, or one that a fault cut (R261). At most so many samples went to
columns `lo` up to `hi`; what they were are free values from the index `f` on. -/
structure LooseSweep where
  n : Nat
  lo : Nat
  hi : Nat
  f : Nat
deriving DecidableEq, Repr

/-- One pass of a job (R256 to R261, R271, R272): its number, counts and marks, the count at the start of RUNNING, mask
counters, the raster (AVG sum and count; HIST and EYE bins; ENVELOPE least and greatest), sweeps in progress, and the
instant and axis position of the action that ended it. `loose` are sweeps whose samples the model does not hold; `blurred` marks a
raster whose contents are open, by the index of a free value: a beam or spill area lost. -/
structure BeamPass where
  no : Nat
  sweeps : Nat
  missed : Nat
  limited : Bool
  incomplete : Bool
  binSat : Bool
  restarted : Bool
  startTs : Nat
  offRaster : Nat
  spillMiss : Nat
  axisSkip : Nat
  hits : List Nat
  sweepsHit : List Nat
  cells : Sparse (Int × Int)
  sweepsIn : List (Nat × Nat)
  endTs : Nat
  endAxis : Int
  loose : List LooseSweep
  blurred : Option Nat
deriving DecidableEq, Repr

/-- What the other raster of a DOUBLE job is doing (R266). -/
inductive OldPhase where
  | idle | draining | unloading | waitBuf | clearing
deriving DecidableEq, Repr

/-- A beam job (R263): state code, beam, descriptor as placed, the masks as rasterised at the last PREPARE, pass number,
current pass, the pass of the other raster, the record that occupies each result buffer, pseudo-channels and chunks
reserved, those of the spill area; whether the pass that a beam error ended is still to be restarted (R276); what the spill area
keeps of the passes before, and the tiles of 64 columns that it keeps anything of (R265, R270). -/
structure JobSt where
  state : Nat
  beam : Option Nat
  desc : Option JobDesc
  masks : List (List (Nat × Nat))
  startPending : Bool
  degraded : Bool
  spilled : Bool
  nextPass : Nat
  cur : BeamPass
  old : BeamPass
  oldPhase : OldPhase
  bufs : List (Option (Nat × Nat))
  bufPcs : List Nat
  spillPcs : List Nat
  resv : Sparse Nat
  restart : Bool
  left : Sparse (Int × Int)
  leftTiles : List Nat
deriving DecidableEq, Repr

/-- The ACC actions (R264). -/
inductive AccAct where
  | start | stop | fold
deriving DecidableEq, Repr

/-- What an action or a placement of the present clock is to be counted for (R264, R266, R267): a FOLD refused for want of a
buffer is judged again at the end of the clock (R268). -/
inductive JobFault where
  | ignored | foldBusy | foldNoBuf | badJob | noBeam | noSpace
deriving DecidableEq, Repr

/-- What orders a job in a fabric clock (R92, R268): an ACC action, a segment of a feeding context that opens, or an OPEN of the
context that waits for space. -/
inductive JobEvent where
  | act (a : AccAct)
  | opened (ctx cseq : Nat)
  | waits (ctx : Nat)
deriving DecidableEq, Repr

/-- The beams: the pool of each beam from the image (R251), jobs; of the present clock (R92, R268) each job before the events that
order it with these events, each job before its RELEASE, the host's placements with their descriptors, and what is to be
counted. -/
structure BeamSt where
  pools : List Byte
  jobs : Sparse JobSt
  pre : List (Nat × JobSt × List JobEvent)
  freed : List (Nat × JobSt)
  placed : List (Nat × JobDesc)
  tally : List (Nat × JobFault)
deriving DecidableEq, Repr

def BeamPass.init : BeamPass :=
  { no := 0, sweeps := 0, missed := 0, limited := false, incomplete := false, binSat := false, restarted := false,
    startTs := 0, offRaster := 0, spillMiss := 0, axisSkip := 0, hits := [], sweepsHit := [], cells := [],
    sweepsIn := [], endTs := 0, endAxis := 0,
    loose := [], blurred := none }

def JobSt.init : JobSt :=
  { state := 0, beam := none, desc := none, masks := [], startPending := false, degraded := false, spilled := false,
    nextPass := 0, cur := BeamPass.init, old := BeamPass.init, oldPhase := .idle, bufs := [], bufPcs := [],
    spillPcs := [], resv := [], restart := false, left := [], leftTiles := [] }

def BeamSt.init : BeamSt := { pools := [], jobs := [], pre := [], freed := [], placed := [], tally := [] }

/-- The parameter set of a lane, or the lane parameters of a context (spec/08_decimation_lanes.md R225). -/
structure LaneSet where
  rank : Nat
  cicOrder : Nat
  cicM : Nat
  cicR : Nat
  cicGain : Nat
  cicShift : Nat
  firTaps : Nat
  firDec : Nat
  firStart : Bool
  rsMode : Nat
  rsStart : Bool
  rsNum : Nat
  rsDen : Nat
  rsStep : Nat
  rsGrid : Nat
  rsMax : Nat
  peak : Nat
  env : Nat
  hires : Nat
deriving DecidableEq, Repr

/-- What governs a lane's outputs from a boundary on (R221): the absolute index of the first channel sample that meets it,
the set, and the coefficients of the banks in effect. -/
structure LaneEra where
  start : Nat
  set : LaneSet
  fir : Sparse (BitVec 18)
  rs : Sparse (BitVec 18)
deriving DecidableEq, Repr

/-- A grid point of AXIS_GRID (R214): its position in resampler input samples, its number on the grid, whether it left the
grid because the rate was clamped, and whether points before it were skipped by a step. -/
structure GridPoint where
  pos : Rat
  number : Int
  clamped : Bool
  skipped : Bool
deriving DecidableEq, Repr

/-- A lane (R202 to R224): stage kinds from the image, the context bound, the first clock in which it may be bound again,
the copies of its set, the boundaries met since it was bound (newest first), the absolute index from which each stage's
inputs count, its coefficients by 2^14 x stage + 2^13 x bank + index, the banks in effect, the clock of the last SEAL with the
sealed set before it, the clocks of the last shadow write and LANE_SWAP, the banks that the COEF_SWAP actions of a clock bring into effect, by stage,
the coefficients overwritten in the present clock, the grid points found so far (newest first) with the number of the last
point produced on the grid, whether the next one follows a skip, the last step, where a STEP run begins, and the boundary of
this clock's hand-over and swaps with their number (R221). -/
structure LaneSt where
  kinds : List Nat
  ctx : Option Nat
  freeFrom : Nat
  eff : LaneSet
  sealed : Option LaneSet
  deferred : Option LaneSet
  eras : List LaneEra
  since : List Nat
  coefs : Sparse (BitVec 18)
  firBank : Bool
  rsBank : Bool
  sealedPre : Option (Nat × Option LaneSet)
  shadowAt : Option Nat
  swapped : Option Nat
  swaps : List (Nat × Bool)
  wrote : List (Nat × BitVec 18)
  grid : List GridPoint
  gridLast : Option Int
  gridSkip : Bool
  gridStep : Rat
  stepStart : Rat
  mark : Option (Nat × Nat)
deriving DecidableEq, Repr

/-- A set with every field zero. -/
def LaneSet.zero : LaneSet :=
  { rank := 0, cicOrder := 0, cicM := 1, cicR := 0, cicGain := 0, cicShift := 0, firTaps := 0, firDec := 0,
    firStart := false, rsMode := 0, rsStart := false, rsNum := 0, rsDen := 0, rsStep := 0, rsGrid := 0, rsMax := 0,
    peak := 0, env := 0, hires := 0 }

def LaneSt.init : LaneSt :=
  { kinds := [], ctx := none, freeFrom := 0, eff := LaneSet.zero, sealed := none, deferred := none, eras := [],
    since := [], coefs := [], firBank := false, rsBank := false, sealedPre := none, shadowAt := none, swapped := none, swaps := [], wrote := [],
    grid := [], gridLast := none, gridSkip := false, gridStep := 0, stepStart := 0, mark := none }

/-- The axis position from a fabric clock on (R67, R70): the position in 2^-48 unit and the rate in 2^-48 unit per fabric
clock in effect from `clk` on, the estimator state, whether the position jumped there (R77), and whether the motion was then
downward. -/
structure AxisKnot where
  clk : Nat
  pos : Int
  rate : Int
  st : Nat
  jump : Bool
  down : Bool
deriving DecidableEq, Repr

/-- The axis estimator beside its registers (R66 to R80): its track, newest first (empty on the time axis), the quadrature
count, the levels of AXIS_A and AXIS_B after the glitch filter, the last edge since STALLED or a reversal (its instant in
2^-32 fabric clock of the model's count, and its true position), the tracked rate, the error a SLEW still has to absorb, and
the registers written in the present clock, with the words that they held before (R81). -/
structure AxisSt where
  track : List AxisKnot
  count : Int
  a : Bool
  b : Bool
  lastEdge : Option Int
  lastTrue : Int
  rate : Int
  slew : Int
  wrote : List (Nat × Word)
deriving DecidableEq, Repr

def AxisSt.init : AxisSt :=
  { track := [], count := 0, a := false, b := false, lastEdge := none, lastTrue := 0, rate := 0, slew := 0, wrote := [] }

/-- A cursor of the Loom (R85, R90): the clock in which it arrived at its tread, the events seen since, and the clock after
its last evaluation. -/
structure CursorSt where
  arrival : Nat
  tally : Nat
  next : Nat
deriving DecidableEq, Repr

/-- A pending swap request (R101): boundary, restart, context, the clock of the request, whether the boundary's segment
has closed. -/
structure SwapReq where
  boundary : Nat
  restart : Bool
  ctx : Nat
  at' : Nat
  closed : Bool
deriving DecidableEq, Repr

/-- The Loom beside its registers: the table banks, cursors, pending swap, an exchange that evaluations have not met yet (its
clock, restart; R102) with the treads that the host has rewritten in the old FRONT before they have, a request withdrawn with the clock of its cancel (R103), the events of the last clocks with the clock
in which each was reported, the openings of the last clocks (R196), what the present clock has touched (R86, R88, R92):
compares changed by actions and by host writes with their values before, and by host writes of the clock before; CURSOR_EN at
the start of this clock and of the one before (R90); FLAGS bits set by actions and FLAGS before a host write, doorbells rung
in this clock and the one before, those that became pending then, those a match of this clock took; what a protected ACTIVE
reports of the clock (R391); and whether a stop is in progress, with the clock of its write (R33). -/
structure LoomSt where
  bank0 : Sparse (BitVec 128)
  bank1 : Sparse (BitVec 128)
  cursors : Sparse CursorSt
  swap : Option SwapReq
  swapAt : Option (Nat × Bool)
  frontWas : List (Nat × BitVec 128)
  swapGone : Option (Nat × SwapReq)
  events : List (Nat × LoomEvent)
  openings : List (Nat × Instant)
  cmpActed : List (Nat × Nat)
  cmpHost : List (Nat × Nat)
  cmpPrev : List (Nat × Nat)
  enNow : Nat
  enPrev : Nat
  flagActed : Word
  flagHost : Option Word
  rung : Word
  rungPrev : Word
  fresh : Word
  freshPrev : Word
  taken : Word
  metNow : BitVec 4
  issuesNow : List (Nat × MatchIssue)
  stopping : Bool
  stopAt : Option Nat
deriving DecidableEq, Repr

def CursorSt.init : CursorSt := { arrival := 0, tally := 0, next := 0 }

def LoomSt.init : LoomSt :=
  { bank0 := [], bank1 := [], cursors := [], swap := none, swapAt := none, frontWas := [], swapGone := none, events := [], openings := [], cmpActed := [],
    cmpHost := [], cmpPrev := [], enNow := 0, enPrev := 0, flagActed := 0, flagHost := none, rung := 0, rungPrev := 0, fresh := 0, freshPrev := 0, taken := 0,
    metNow := 0, issuesNow := [], stopping := false, stopAt := none }

/-- The record kinds (spec/09_segments_and_placement.md R226). -/
inductive RecKind where
  | segment | gap | marker
deriving DecidableEq, Repr

/-- The lifecycle of a record (R229) up to HANDED; VISIBLE and RETIRED are kept for each consumer and by removal. -/
inductive RecState where
  | opened | closing | ready | handed
deriving DecidableEq, Repr

/-- The gap causes (R238). -/
inductive GapCause where
  | overwritten | ringFull | tableFull | clkBypass | clkRealign | hbmRetired | hbmUnreadable | freezeTimeout
  | streamDropped | beamDegraded
deriving DecidableEq, Repr

def GapCause.code : GapCause → Nat
  | .overwritten => 1 | .ringFull => 2 | .tableFull => 3 | .clkBypass => 4 | .clkRealign => 5 | .hbmRetired => 6
  | .hbmUnreadable => 7 | .freezeTimeout => 8 | .streamDropped => 9 | .beamDegraded => 10

/-- A record at one consumer: whether its context names the consumer, its global sequence once handed, the gap it became
there, whether it is VISIBLE and acknowledged there, whether its copy was spilled (R342) and is mirrored (R397); whether its HAND cell
was sent (R397), and whether it is delivered again after a takeover (R402). -/
structure Delivery where
  wanted : Bool
  gseq : Option Nat
  gap : Option GapCause
  visible : Bool
  acked : Bool
  spilled : Bool
  mirrored : Bool
  hand : Bool
  again : Bool
deriving DecidableEq, Repr

/-- A record (R226, R236): its identity and header fields, its place in the segment table and the ring (byte position,
bytes occupied), pseudo-channels that hold a report's data, the stored data, and its delivery to each consumer. `len`,
`pre` and `late` are what the OPEN set; `cut` the instant a CLOSE named; `openedIn` the clock of the OPEN; `flags` and the
fields after it are final when the segment closes. `replay` marks a record delivered again from the mirror. -/
structure Record where
  ctx : Nat
  cseq : Nat
  kind : RecKind
  state : RecState
  lane : Nat
  fmt : Nat
  src : Nat
  cause : Nat
  ts : Instant
  samples : Nat
  pretrig : Nat
  trigFrac : Nat
  axisPos : Int
  delay : Nat
  flags : Nat
  len : Nat
  pre : Nat
  cut : Option Int
  openedIn : Nat
  readyIn : Nat
  slot : Option Nat
  start : Nat
  bytes : Nat
  reportPcs : List Nat
  job : Option Nat
  data : List Byte
  dq : Nat
  host : Delivery
  stream : Delivery
  replay : Bool
deriving DecidableEq, Repr

/-- A run of refused triggers waiting for its gap (R241, R243). -/
structure RefusedRun where
  cause : GapCause
  ts : Instant
  src : Nat
  axisPos : Int
  count : Nat
deriving DecidableEq, Repr

/-- What a context keeps whether live or not: next per-context sequence, the end of its last segment (R195), its
reservation in each pseudo-channel, its stripe set and the rotation in it, the pseudo-channel of each ring chunk, the next
ring byte, chunks of quota lost to freezes (R247), a run of refusals, whether delivery is held, and the freeze timer
(R426): the clock it started in, and whether it has expired. -/
structure CtxKeep where
  next : Nat
  lastEnd : Option Int
  resv : Sparse Nat
  stripe : List Nat
  rot : Nat
  chunks : Sparse (Option Nat)
  ringPos : Nat
  short : Nat
  run : Option RefusedRun
  heldHost : Bool
  heldStream : Bool
  timer : Option Nat
  expired : Bool
deriving DecidableEq, Repr

/-- A live context (R25): lane, whether it accepts OPENs, the clock in which it stops being live, its committed rates
(bytes per second, samples per second in W16, stream bytes per second), its output rate and its holdoff (R193, R194):
whether one is in force, H0 in 2^-32 fabric clock of the TSC (none before the segment's end is known) and of the model's count, the axis
position P0 at H0, the reports of masked sources since (instant, MULT), oldest first, and the segment opened at H0 with the clock
of its hand-over. -/
structure LiveCtx where
  lane : Nat
  armed : Bool
  release : Option Nat
  rate : Rat
  w16 : Rat
  strm : Rat
  outRate : Rat
  holdoff : Bool
  h0 : Option Int
  h0At : Int
  p0 : Int
  seen : List (Int × Nat)
  segCseq : Nat
  segHanded : Option Nat
deriving DecidableEq, Repr

/-- Before an OPEN of the present clock (R92): what a CLOSE of the same context in that clock restores, and the opening it
belongs to (R196). -/
structure OpenUndo where
  ctx : Nat
  clk : Nat
  recs : List Record
  keep : CtxKeep
  live : LiveCtx
  instant : Instant
  cseq : Nat
deriving DecidableEq, Repr

/-- An OPEN that finds no slot or no ring space, or no opening because such a one has it (R196, R241, R243): it is judged when the
clock's retirements are known (R244). The markers of its context issued before it in that clock, its place among the issues that
a protected ACTIVE reports, and whether a DISARM after it ends its run of refusals. -/
structure WaitOpen where
  ctx : Nat
  iss : IssueTime
  marks : Nat
  log : Option Nat
  ended : Bool
deriving DecidableEq, Repr

/-- Segments and placement: records in order of creation, live contexts, what contexts keep, slots still taken in frozen
pseudo-channels by records that became gaps (R427), openings that can be undone, DEV.STATE and the last transition before
the entry to ACQUIRING of the present clock, OPENs that wait for space, and the segments that OPENs of this clock overwrite,
by context and CSEQ (R242, R244). -/
structure SegSt where
  recs : List Record
  live : Sparse (Option LiveCtx)
  keep : Sparse CtxKeep
  deadSlots : List Nat
  undo : List OpenUndo
  before : Option (Word × Option (Nat × Nat))
  waiting : List WaitOpen
  taking : List (Nat × Nat)
deriving DecidableEq, Repr

def CtxKeep.init : CtxKeep :=
  { next := 0, lastEnd := none, resv := [], stripe := [], rot := 0, chunks := [], ringPos := 0, short := 0, run := none,
    heldHost := false, heldStream := false, timer := none, expired := false }

def SegSt.init : SegSt := { recs := [], live := [], keep := [], deadSlots := [], undo := [], before := none, waiting := [], taking := [] }

/-- The trained timing of a pseudo-channel at one data rate (R286): the centres of the five byte-lane groups, read and
write, and the narrowest working run. -/
structure PcTiming where
  rd : List Nat
  wr : List Nat
  narrow : Nat
deriving DecidableEq, Repr

/-- A change of frequency point in progress (R292): its point, the clock of its start, the clock of the GO, and whether the memory
clocks are open at the new point. -/
structure FreqChange where
  point : Nat
  start : Nat
  goAt : Nat
  opened : Bool
deriving DecidableEq, Repr

/-- A transaction in the pool of a pseudo-channel controller (R282, R302): whether it writes, its local byte address, its
requester, its place in the order of arrival, and the bytes it writes (none where no rule tells them). -/
structure PoolEntry where
  write : Bool
  addr : Nat
  requester : Nat
  order : Nat
  data : List Byte
deriving DecidableEq, Repr

/-- A run of requests that a requester makes of a shuttle, 256 bytes each (R296): the pseudo-channel, whether they write, the local
byte address, the bytes, and the data written (shorter than the bytes where no rule tells it). -/
structure MemReq where
  pc : Nat
  write : Bool
  addr : Nat
  bytes : Nat
  data : List Byte
deriving DecidableEq, Repr

/-- A tracking pass (R288): its first fabric clock, how many clocks it lasts, the settings that pass in each re-sweep, the
pseudo-channels in service at its start, lowest first, and how many of their re-sweeps are done. -/
structure TrackPass where
  start : Nat
  clocks : Nat
  maps : List (List (BitVec 17))
  turn : List Nat
  done : Nat
deriving DecidableEq, Repr

/-- The memory system beside its registers: the pool of each pseudo-channel (R282) and its transactions so far, what the stacks
hold, as blocks of 64 bytes (the block of local byte address a of pseudo-channel p is p x 2^24 + a div 64; an unlisted block holds
what it held after the training of this number, R280), the three shadow timing sets (R286), the records each release leaves to be
read again (R290), the clock of each RELEASE, the change in progress, a GO that waits (its point and clock; R293), the tracking
pass in progress (R288), and what the present clock decides at its end: the pseudo-channels to retire, those whose sweeps after a
RELEASE are done (R290, R429), and writes of PCp_CTRL to pseudo-channels that are not frozen (R295). -/
structure MemSt where
  pools : Sparse (List PoolEntry)
  arrived : Sparse Nat
  blocks : Sparse (List Byte)
  era : Nat
  timing : Sparse (List PcTiming)
  reread : Sparse (List (Nat × Nat))
  released : Sparse (Option Nat)
  change : Option FreqChange
  deferred : Option (Nat × Nat)
  track : Option TrackPass
  retireReq : List Nat
  doneReq : List (Nat × PcSweep)
  ctrlReq : List (Nat × Word)
deriving DecidableEq, Repr

def MemSt.init : MemSt :=
  { pools := [], arrived := [], blocks := [], era := 0, timing := [], reread := [], released := [], change := none,
    deferred := none, track := none, retireReq := [], doneReq := [], ctrlReq := [] }

/-- A shuttle (spec/11_memory_and_shuttle.md R296 to R300): the requests of each requester, oldest first; wait counters; grants in
the current window, the requesters masked in it, its rounds so far and its length; the rotating pointers by priority and the forced
pointer. -/
structure Shuttle where
  queues : Sparse (List MemReq)
  wait : Sparse Nat
  got : Sparse Nat
  masked : List Nat
  round : Nat
  len : Nat
  ptr : Sparse Nat
  forcedPtr : Nat
deriving DecidableEq, Repr

def Shuttle.init : Shuttle :=
  { queues := [], wait := [], got := [], masked := [], round := 0, len := 1024, ptr := [], forcedPtr := 0 }

/-- A buffer taken from a free ring (R316): its ring index, host address and TAG. -/
structure Taken where
  index : Nat
  addr : Nat
  tag : Word
deriving DecidableEq, Repr

/-- A delivery queue beside its registers (R312 to R330): descriptors read ahead (address, TAG), the record in transfer, the
buffers it has taken, buffers returned to the front of the taken order, bytes written, whether it is written as a gap,
whether the queue waits for a buffer, the records not yet acknowledged in completion order, records counted since the last
raise, FREE_PROD and COMP_CONS before a write of the present clock, and the address of a zero-length read that flushes the data
of the record in transfer and is not answered yet (R319). -/
structure QueueSt where
  ahead : List (Nat × Word)
  cur : Option (Nat × Nat)
  taken : List Taken
  back : List Taken
  sent : Nat
  asGap : Bool
  starved : Bool
  unacked : List (Nat × Nat)
  coal : Nat
  prodOld : Option (Nat × Nat)
  consOld : Option (Nat × Nat)
  flush : Option Nat
deriving DecidableEq, Repr

def QueueSt.init : QueueSt :=
  { ahead := [], cur := none, taken := [], back := [], sent := 0, asGap := false, starved := false, unacked := [],
    coal := 0, prodOld := none, consOld := none, flush := none }

/-- A PACED request (R307, R355): overlay layer, line, host address, bytes still to come, bytes that arrived, whether a
burst has started. -/
structure PacedReq where
  layer : Nat
  line : Nat
  addr : Nat
  left : Nat
  got : List Byte
  started : Bool
deriving DecidableEq, Repr

/-- A DMA channel beside its registers: the clock from which its limiter lets it start (R310), the queue and the byte count
before its last burst, the PACED requests outstanding, oldest first, the clock of the last PACED burst start, the PACED request
as it stood before its last burst (R326), one withdrawn in the present clock before its burst started (R330), and the queue and
byte count of a burst whose requests wait for the end of a change of memory point (R292). -/
structure ChanSt where
  notBefore : Rat
  last : Option (Nat × Nat)
  paced : List PacedReq
  burstAt : Option Nat
  lastPaced : Option PacedReq
  gone : Option PacedReq
  asked : Option (Nat × Nat)
deriving DecidableEq, Repr

def ChanSt.init : ChanSt :=
  { notBefore := 0, last := none, paced := [], burstAt := none, lastPaced := none, gone := none, asked := none }

/-- DMA beside its registers: queues, channels, the rotating pointers of the host-bound and engine-bound arbiters by
priority (R309), and what the present clock decides at its end (R330): whether a RESET was written, and the writes of CHn.CTRL. -/
structure DmaSt where
  queues : Sparse QueueSt
  chans : Sparse ChanSt
  ptrHost : Sparse Nat
  ptrEngine : Sparse Nat
  resetReq : Bool
  ctrlReq : List (Nat × Word)
deriving DecidableEq, Repr

def DmaSt.init : DmaSt := { queues := [], chans := [], ptrHost := [], ptrEngine := [], resetReq := false, ctrlReq := [] }

/-- A bolt frame as the port assembles it (R334). -/
structure Bolt where
  kind : Nat
  flags : Nat
  source : Nat
  fseq : Nat
  offset : Nat
  gseq : Nat
  cseq : Nat
  payload : List Byte
deriving DecidableEq, Repr

/-- The stream port beside its registers (R334 to R345): the GSEQ whose frames are next and the index of the next frame,
whether its END or GAP frame is in transmission, the first FSEQ and the frames sent, in order, of each record not yet acknowledged,
those sent of such records before the last HELLO, one past the GSEQ of the last VISIBLE record, a resend that waits for the frame in
flight, the FSEQs that RESENDs of the present clock name, LIMIT before a CREDIT of the present clock, records handed over in it
beyond their quota, whose backlog an END may still free (R345), and the frame whose requests wait for the end of a change of memory
point (R292). -/
structure StrmSt where
  gseq : Nat
  frame : Nat
  flying : Bool
  starts : List (Nat × Nat × List Bolt)
  held : List (Nat × List Bolt)
  visible : Nat
  resend : Option Nat
  resendReq : List Nat
  limitOld : Option (Nat × Nat)
  excess : List (Nat × Nat)
  asked : Option (Nat × Nat)
deriving DecidableEq, Repr

def StrmSt.init : StrmSt :=
  { gseq := 0, frame := 0, flying := false, starts := [], held := [], visible := 0, resend := none, resendReq := [],
    limitOld := none, excess := [], asked := none }

/-- The display beside its registers (R347 to R359): shadows in effect and those held back by LOCK or written in the present
clock, the timing in force and the pending one, whether the next frame waits for PPLL.0, whether the black frame in
progress is that of a new mode, the LUT in effect, a pending LUT_COMMIT, displaced overlay buffers, overlay lines that
arrived for the frame, and the AUX transaction under way. -/
structure DispSt where
  eff : Sparse Word
  wrote : List (Nat × Word)
  timing : List Word
  pendTiming : Option (List Word)
  relock : Bool
  timingBlack : Bool
  lut : Sparse Word
  lutPending : Bool
  displaced : Sparse (Option Nat)
  lines : List (Nat × Nat × List Byte)
  auxCmd : Option Word
deriving DecidableEq, Repr

def DispSt.init : DispSt :=
  { eff := [], wrote := [], timing := [0, 0, 0, 0, 0], pendTiming := none, relock := false,
    timingBlack := false, lut := [], lutPending := false, displaced := [], lines := [], auxCmd := none }

/-- A record in the mirror area (R397, R398): its context and CSEQ, GSEQ and header at each consumer, its data, whether
MIRRORED was sent and ACK received for each consumer; the pseudo-channels that hold it. -/
structure Mirror where
  ctx : Nat
  cseq : Nat
  host : Option (Nat × List Byte)
  stream : Option (Nat × List Byte)
  data : List Byte
  toldHost : Bool
  toldStream : Bool
  ackHost : Bool
  ackStream : Bool
  pcs : List Nat
deriving DecidableEq, Repr

/-- A formation asked for (R392, R408): whether the peer has accepted it; what the checks find with the peer: whether it is ready,
the TSCs are equal at a common edge, the phases align; and by how many femtoseconds the ACTIVE's edge followed this engine's own at
the last measurement (R393). -/
structure FormReq where
  accepted : Bool
  peerReady : Bool
  tscEqual : Bool
  phaseOk : Bool
  lead : Int
deriving DecidableEq, Repr

/-- The pair beside its registers: next CELL_SEQ and the cells that may be sent again (R391), the peer's HELLO and last
HEARTBEAT with its TSC, consecutive misses, the clock in which an ACTIVE lost its peer, the DROPPED flag, the MATCH cell being
built, MATCH and WRITE cells not yet applied, the mirror area with its reservation, one past the last GSEQ mirrored
since the pair formed at each consumer, TAKEOVER of the image (R386); the next CELL_SEQ expected and those missing before it, the clocks of the last
heartbeat and of the last DISSOLVE, and the rotation in the mirror area. For the collisions of R408 it keeps a miss of the
present clock, a formation to be judged in it, and the clock in which a SHADOW that fences saw PAIR_FENCE_ACK; `asked` is a
formation for which this engine waits for the peer's HELLO, `settled` whether the last one asked for has been judged, `fencing`
whether a fence is under way, which FENCE_OUT outlasts (R399). -/
structure PairSt where
  cellSeq : Nat
  sent : List (Nat × Cell)
  hello : Option PairHello
  beat : Option Heartbeat
  beatTsc : Nat
  missed : Nat
  lostAt : Option Nat
  dropped : Bool
  building : Option MatchCell
  cells : List MatchCell
  writes : List (Nat × Nat × Word)
  mirror : List Mirror
  resv : Sparse Nat
  nextHost : Option Nat
  nextStream : Option Nat
  localFrom : Option Nat
  takeover : Bool
  expect : Option Nat
  missing : List Nat
  heardAt : Option Nat
  dissolvedAt : Option Nat
  rot : Nat
  missNow : Bool
  formReq : Option FormReq
  ackAt : Option Nat
  asked : Option FormReq
  settled : Bool
  fencing : Bool
deriving DecidableEq, Repr

def PairSt.init : PairSt :=
  { cellSeq := 0, sent := [], hello := none, beat := none, beatTsc := 0, missed := 0, lostAt := none,
    dropped := false, building := none, cells := [], writes := [], mirror := [], resv := [], nextHost := none,
    nextStream := none, localFrom := none, takeover := false, expect := none, missing := [], heardAt := none,
    dissolvedAt := none, rot := 0, missNow := false, formReq := none, ackAt := none, asked := none, settled := false, fencing := false }

/-- The state of the block. -/
structure State where
  /-- BAR0 registers by offset; an unlisted one holds its reset value (R431, R433). -/
  regs : Sparse Word
  /-- LO words written and held until their HI is written (R81). -/
  held : Sparse (Option Word)
  /-- Partner words latched by a LO, FRAC or PEEK0 read (R81). -/
  latched : Sparse (Option Word)
  /-- Occurrence counters of W1C bits, by 32 x offset + bit (R420). -/
  occ : Sparse Byte
  /-- The model's time. -/
  time : TimeSt
  /-- What the engine has sent in the present fabric clock. -/
  out : List Output
  /-- Board, straps, fuses and the reset sequence. -/
  board : BoardSt
  /-- The draft loader. -/
  draft : DraftSt
  /-- The black box. -/
  bbx : BbxSt
  /-- The maintenance port. -/
  i2c : I2cSt
  /-- What the engine holds of its pair. -/
  pair : PairSt
  /-- The converter reference. -/
  conv : ConvSt
  /-- Calibration and the monitor queue. -/
  cal : CalSt
  /-- The clock block. -/
  clk : ClkSt
  /-- Trigger units, AUX_TRIG and TRIG_OUT. -/
  trig : TrigSt
  /-- The axis estimator. -/
  axis : AxisSt
  /-- The Loom. -/
  loom : LoomSt
  /-- The 64 lanes. -/
  lanes : Sparse LaneSt
  /-- Records, contexts and placement. -/
  seg : SegSt
  /-- The cloth beams. -/
  beam : BeamSt
  /-- The memory system. -/
  mem : MemSt
  /-- The two shuttles. -/
  shuttles : Sparse Shuttle
  /-- DMA. -/
  dma : DmaSt
  /-- The stream port. -/
  strm : StrmSt
  /-- The display. -/
  disp : DispSt
  /-- Commands waiting, first in, first out. -/
  pending : List Instr
deriving DecidableEq, Repr

/-- Why a step can stop with a fault. -/
inductive Fault where
  /-- Raised by the meanings of RECORD_MADE (a payload that no record holds), SEGMENT_CLOSE (fewer samples than the segment
  takes) and DMA_BURST_START (fewer bytes than the burst reads): the operand is not what the medium would carry. Safe: no
  such command exists. -/
  | illFormed (what : String)
deriving DecidableEq, Repr

/-- Why a step can be refused. -/
inductive Refusal where
  /-- Raised by exec for a command that has no meaning yet. Safe: nothing is claimed of it. -/
  | notModelled (mnemonic : String)
deriving DecidableEq, Repr

/-- The machine right after reset: the engine in RESET after power-up (R433, R434; log 4), every register at its
reset value, nothing loaded, nothing waiting. DESIGN CHOICE (log 159): FUSE_STAGE0-7, to which R60 gives no reset value, hold 0. -/
def State.reset : State where
  regs := []
  held := []
  latched := []
  occ := []
  time := { clk := 0, setNow := [], occNow := [], addNow := [], free := 0, entered := none }
  out := []
  board := BoardSt.init
  draft := { staging := [], image := [], fuseStage := 0, burn := none, checking := false }
  bbx := BbxSt.init
  i2c := I2cSt.init
  pair := PairSt.init
  conv := ConvSt.init
  cal := CalSt.init
  clk := ClkSt.init
  trig := TrigSt.init
  axis := AxisSt.init
  loom := LoomSt.init
  lanes := []
  seg := SegSt.init
  beam := BeamSt.init
  mem := MemSt.init
  shuttles := []
  dma := DmaSt.init
  strm := StrmSt.init
  disp := DispSt.init
  pending := []

end Sys2Proof.Machine
end

