-- ==== Sys2Proof/Machine/Ops.lean ====
section
/-! DEFINITION. The named operations over the register file and the engine state: reading and writing registers, fields
and 64-bit pairs, engine-state transitions, sending, and black-box records. -/

namespace Sys2Proof.Machine

abbrev Result := Host.Outcome State Fault Refusal

/-- The register at a BAR0 offset. -/
def State.reg (s : State) (off : Nat) : Word := sparseGet resetValue s.regs off

/-- Sets the register at a BAR0 offset, as the engine itself does. -/
def State.setReg (s : State) (off : Nat) (v : Word) : State :=
  { s with regs := sparseSet resetValue s.regs off v }

/-- A field of a register. -/
def State.getF (s : State) (f : Fld) : Nat := fieldOf (s.reg f.off) f.lo f.w

/-- Sets a field of a register. -/
def State.setF (s : State) (f : Fld) (n : Nat) : State :=
  s.setReg f.off (insertField (s.reg f.off) f.lo f.w n)

/-- Whether a one-bit field reads 1. -/
def State.bit (s : State) (f : Fld) : Bool := s.getF f != 0

/-- Sets a one-bit field. -/
def State.setBit (s : State) (f : Fld) (b : Bool) : State := s.setF f (b2n b)

/-- Bit i of the register at an offset, as a field. -/
def bitFld (off i : Nat) : Fld := ⟨off, i, 1⟩

/-- The 64-bit quantity of a LO, HI pair. -/
def State.get64 (s : State) (lo : Nat) : Nat := (s.reg lo).toNat + 2 ^ 32 * (s.reg (lo + 4)).toNat

/-- Sets the 64-bit quantity of a LO, HI pair. -/
def State.set64 (s : State) (lo n : Nat) : State :=
  (s.setReg lo (BitVec.ofNat 32 n)).setReg (lo + 4) (BitVec.ofNat 32 (n / 2 ^ 32))

/-- Sets each register of a list. -/
def State.setRegs (s : State) (l : List (Nat × Word)) : State := l.foldl (fun s p => s.setReg p.1 p.2) s

/-- Sends something toward the outside in the present clock. -/
def State.send (s : State) (o : Output) : State := { s with out := s.out ++ [o] }

/-- A free value's index, and the state in which the next free value is another one (log 10). -/
def State.nextFree (s : State) : State := { s with time := { s.time with free := s.time.free + 1 } }

/-- The state that a code names (R29). -/
def EngState.ofCode (n : Nat) : EngState :=
  match n with
  | 0 => .off | 1 => .aonUp | 2 => .reset | 3 => .selftest | 4 => .idle | 5 => .armed | 6 => .acquiring | _ => .safeTalk

/-- The engine state, as DEV.STATE.CUR reports it (R29). -/
def State.cur (s : State) : EngState := EngState.ofCode (s.getF F.DEV_STATE_CUR)

/-- IDLE, ARMED or ACQUIRING: every block is open and acquisition may run. -/
def State.operational (s : State) : Bool := s.cur == .idle || s.cur == .armed || s.cur == .acquiring

/-- ARMED or ACQUIRING. -/
def State.running (s : State) : Bool := s.cur == .armed || s.cur == .acquiring

/-- Whether the Loom may issue actions (R33, R35): while it runs, and for a tread matched in the clock of a stop. -/
def State.loomIssues (s : State) : Bool :=
  s.running && (match s.loom.stopAt with
    | some n => decide (s.time.clk ≤ n + 1)
    | none => s.bit F.LOOM_STATUS_RUNNING)

/-- The rank of a cause of transition in R35. -/
def causeRank (cause : Nat) : Nat :=
  if cause = 0x10 then 2 else if cause = 2 ∨ cause = 3 then 3 else if cause = 8 then 4 else if cause = 0x0D then 5 else 6

/-- The rank of the transition made in the present clock; 7 when there was none. -/
def State.rankNow (s : State) : Nat :=
  match s.time.entered with
  | some (c, r) => if c = s.time.clk then r else 7
  | none => 7

/-- The ENTRY record of the present clock is not made after all: its transition gives way (R35). -/
def State.dropEntry (s : State) : State :=
  match s.bbx.ring.find? (fun p => p.1.source == 2 && p.1.code == 1 && p.2 == s.time.clk) with
  | none => s
  | some (r, _) =>
    let ring := (s.bbx.ring.filter (fun p => p.1.rseq != r.rseq)).map (fun p =>
      (if r.rseq < p.1.rseq then { p.1 with rseq := p.1.rseq - 1 } else p.1, p.2))
    { s.set64 Reg.BBX_NEXT_LO (s.get64 Reg.BBX_NEXT_LO - 1) with bbx := { s.bbx with ring := ring } }

/-- A transition of the engine state: PREV names the state left, ENTRY_CAUSE the cause (R31); TEST.SAFE_CODE reads zero
outside SAFE_TALK (R384). A transition of lower rank in the same clock gives way to it (R35). -/
def State.enter (s : State) (dst : EngState) (cause : Nat) : State :=
  let s := if causeRank cause < s.rankNow ∧ s.rankNow < 7 then s.dropEntry else s.setF F.DEV_STATE_PREV s.cur.code
  let s := (s.setF F.DEV_STATE_ENTRY_CAUSE cause).setF F.DEV_STATE_CUR dst.code
  let s : State := { s with time := { s.time with entered := some (s.time.clk, causeRank cause) } }
  if dst == .safeTalk then s else s.setReg Reg.TEST_SAFE_CODE 0

/-- CLK.TSC, the fabric-clock count of timestamps (R15). -/
def State.tsc (s : State) : Nat := s.get64 Reg.CLK_TSC_LO

/-- The start of the present fabric clock, as an instant. -/
def State.now (s : State) : Instant := s.tsc * 2 ^ 32

/-- n pulses on one of STATUS1 and STATUS0, each 250 ms high and 250 ms low (R370). -/
def pinPulses (one : Bool) (n : Nat) : List (Bool × Bool × Nat) :=
  (List.replicate n [(one, !one, 250), (false, false, 250)]).flatten

/-- The blink code of SAFE_TALK (R370): CLASS pulses on STATUS1, a pause of 1 s, DETAIL pulses on STATUS0, a pause of 2 s. -/
def blinkCode (cls detail : Nat) : List (Bool × Bool × Nat) :=
  pinPulses true cls ++ [(false, false, 1000)] ++ pinPulses false detail ++ [(false, false, 2000)]

/-- What STATUS1 and STATUS0 repeat from the first fabric clock of the state on: levels and how many ms they last (R370). -/
def State.statusPins (s : State) : List (Bool × Bool × Nat) :=
  match s.cur with
  | .off => [(false, false, 100)]
  | .aonUp | .reset | .selftest => [(false, true, 250), (false, false, 250)]
  | .idle => [(false, true, 100)]
  | .armed => [(true, true, 100)]
  | .acquiring => [(true, true, 50), (true, false, 50)]
  | .safeTalk => blinkCode (s.getF F.TEST_SAFE_CODE_CLASS) (s.getF F.TEST_SAFE_CODE_DETAIL)

/-- Whether the engine drives STATUS1 and STATUS0: in OFF they are of high impedance, and the board pulls them low (R445). -/
def State.statusDriven (s : State) : Bool := s.cur != .off

/-- KIND of a cell (R391). -/
def cellKind : Cell → Nat
  | .heartbeat _ => 1 | .hello _ => 2 | .form _ => 3 | .matchC _ => 4 | .write .. => 5 | .hand .. => 6 | .data .. => 7
  | .mirrored .. => 8 | .ack .. => 9 | .bbx _ => 10 | .resend _ => 11

/-- A consumer, in one byte of a payload. -/
def consumerByte (k : Consumer) : Byte := if k = .stream then 1 else 0

/-- What a MATCH payload holds of one OPEN or MARKER. -/
def issueBytes (i : MatchIssue) : List Byte :=
  leBytes 8 i.clock ++ leBytes 2 (i.tread.val + 2 ^ 15 * b2n i.accepted) ++ leBytes 6 i.cseq ++ leBytes 12 i.instant ++ leBytes 1 i.mult

/-- The payload of a cell: the values that R391 names, in its order; their widths are the model's (DESIGN CHOICE, log 154). -/
def cellPayload : Cell → List Byte
  | .heartbeat h => leBytes 1 h.role ++ leBytes 1 (b2n h.prot) ++ leBytes 1 (b2n h.dropped) ++ leBytes 1 h.state ++
      leBytes 1 h.arrayIdSeen.toNat
  | .hello h => leBytes 1 h.arrayId.toNat ++ leBytes 1 (b2n h.strap) ++ leBytes 1 (b2n h.paired) ++ leBytes 1 (b2n h.takeover) ++
      h.draftDigest ++ h.cfgDigest
  | .form .request => [0]
  | .form .accept => [1]
  | .form (.refuse c) => 2 :: leBytes 1 c
  | .matchC m => leBytes 8 m.first ++ leBytes 8 (m.met.foldr (fun w a => a * 16 + w.toNat) 0) ++ m.issues.flatMap issueBytes
  | .write tsc off v => leBytes 8 tsc ++ leBytes 4 off ++ leBytes 4 v.toNat
  | .hand k c q g h => consumerByte k :: (leBytes 2 c ++ leBytes 6 q ++ leBytes 8 g ++ h)
  | .data c q off b => leBytes 2 c ++ leBytes 6 q ++ leBytes 5 off ++ b
  | .mirrored k g => consumerByte k :: leBytes 8 g
  | .ack k c a b => consumerByte k :: (leBytes 2 c ++ leBytes 6 a ++ leBytes 6 b)
  | .bbx r => r
  | .resend n => leBytes 4 n

/-- A cell on the link (R391): the header with KIND, a zero, LEN, CELL_SEQ and the sender's TSC; the payload; the CRC-32 of both; and
zeros to a multiple of 16 bytes (DESIGN CHOICE, log 154: the padding follows the CRC, which does not cover it). -/
def cellBytes (c : Cell) (cseq tsc : Nat) : List Byte :=
  let p := cellPayload c
  let b := leBytes 1 (cellKind c) ++ [0] ++ leBytes 2 p.length ++ leBytes 4 cseq ++ leBytes 8 tsc ++ p
  let b := b ++ leBytes 4 (crc32 b).toNat
  b ++ List.replicate ((16 - b.length % 16) % 16) 0

/-- A cell leaves for the link with a CELL_SEQ. -/
def State.emitCell (s : State) (cseq : Nat) (c : Cell) : State :=
  { s with out := s.out ++ [.cell cseq c (cellBytes c cseq s.tsc)] }

/-- Sends a tenon cell with the next CELL_SEQ, which is lost while the link is down; HAND, DATA, ACK and BBX cells may be
sent again (R391). -/
def State.sendCell (s : State) (c : Cell) : State :=
  let again := match c with
    | .hand .. | .data .. | .ack .. | .bbx .. => true
    | _ => false
  { s with
    out := if s.bit F.PAIR_STATUS_LINK_UP then (s.emitCell s.pair.cellSeq c).out else s.out
    pair := { s.pair with
      cellSeq := (s.pair.cellSeq + 1) % 2 ^ 32
      sent := if again then s.pair.sent ++ [(s.pair.cellSeq, c)] else s.pair.sent } }

end Sys2Proof.Machine
end

