-- ==== Sys2Proof/Machine/Flags.lean ====
section
/-! DEFINITION. Every flag computation: W1C bits that hardware sets, their occurrence counters, the RCL counters, and
the MSI-X vectors that flags raise (spec/00_scope.md R10, spec/17_faults_and_ordering.md R415 to R422,
spec/12_host_port_and_delivery.md R324). -/

namespace Sys2Proof.Machine

/-- The address of the MSI-X message of a vector. -/
def State.msixAddr (s : State) (v : Nat) : BitVec 64 :=
  BitVec.ofNat 64 ((s.reg (Reg.DMA_MSIX_ADDR_LO v)).toNat + 2 ^ 32 * (s.reg (Reg.DMA_MSIX_ADDR_HI v)).toNat)

/-- Raises an MSI-X vector: its PBA bit, or its message when it is unmasked and the function is not in D3hot
(R324, R305). -/
def State.raiseVector (s : State) (v : Nat) : State :=
  if s.bit (F.DMA_MSIX_MASK v) || s.board.d3hot then s.setBit (F.DMA_PBA_BIT v) true
  else s.send (.msix v (s.msixAddr v) (s.reg (Reg.DMA_MSIX_DATA v)))

/-- Sends the message of a vector that is pending and no longer held back (R324). -/
def State.releaseVector (s : State) (v : Nat) : State :=
  if s.bit (F.DMA_PBA_BIT v) && !s.bit (F.DMA_MSIX_MASK v) && !s.board.d3hot then
    (s.setBit (F.DMA_PBA_BIT v) false).send (.msix v (s.msixAddr v) (s.reg (Reg.DMA_MSIX_DATA v)))
  else s

/-- The vector a W1C bit raises when it is set: the FLT vector for CLASS, HOST, DRAFT and BBX (R421), the DMA vector for
an EVENTS bit of DMA or of a queue, the DISP and PAIR vectors for theirs (R324). -/
def flagVector (off : Nat) : Option Fld :=
  if off = Reg.FLT_CLASS ∨ off = Reg.FLT_HOST ∨ off = Reg.FLT_DRAFT ∨ off = Reg.FLT_BBX then some F.DMA_VEC_MAP_FLT
  else if off = Reg.DMA_EVENTS ∨ (0x121000 ≤ off ∧ off < 0x122000) then some F.DMA_VEC_MAP_DMA
  else if off = Reg.DISP_EVENTS then some F.DMA_VEC_MAP_DISP
  else if off = Reg.PAIR_EVENTS then some F.DMA_VEC_MAP_PAIR
  else none

/-- The key of a W1C bit's occurrence counter. -/
def occKey (f : Fld) : Nat := f.off * 32 + f.lo

/-- Counts one occurrence of a W1C bit, once in a fabric clock, saturating at 255 (R420). -/
def State.countOcc (s : State) (f : Fld) : State :=
  if s.time.setNow.contains (occKey f) then s
  else
    let old := (sparseGet (fun _ => 0) s.occ (occKey f)).toNat
    { s with
      occ := sparseSet (fun _ => 0) s.occ (occKey f) (BitVec.ofNat 8 (satTo 255 (old + 1)))
      time := { s.time with setNow := occKey f :: s.time.setNow, occNow := (occKey f, old) :: s.time.occNow } }

/-- Hardware sets a W1C bit (R10, R420, R421). -/
def State.hwSet (s : State) (f : Fld) : State :=
  let s := (s.countOcc f).setF f 1
  match flagVector f.off with
  | some m => s.raiseVector (s.getF m)
  | none => s

/-- What an RCL register held before the additions of the present clock, and how much they come to. -/
def State.addedNow (s : State) (off : Nat) : Option (Nat × Nat) := (s.time.addNow.find? (fun p => p.1 == off)).map (·.2)

/-- An RCL register that held `old` before the present clock's additions, which come to n: it shows the saturated sum. -/
def State.rclPut (s : State) (off old n : Nat) : State :=
  { s.setReg off (BitVec.ofNat 32 (satTo (2 ^ 32 - 1) (old + n))) with
    time := { s.time with addNow := (off, old, n) :: s.time.addNow.filter (fun p => p.1 != off) } }

/-- Adds to an RCL counter, saturating; what is added in the present clock stays for the next read (R10). -/
def State.rclAdd (s : State) (off n : Nat) : State :=
  match s.addedNow off with
  | some (old, m) => s.rclPut off old (m + n)
  | none => s.rclPut off (s.reg off).toNat n

/-- A read of an RCL register: its value without the present clock's additions, which stay (R10). -/
def State.rclTake (s : State) (off : Nat) : Word × State :=
  match s.addedNow off with
  | some (old, m) => (BitVec.ofNat 32 old, s.rclPut off 0 m)
  | none => (s.reg off, s.setReg off 0)

/-- A host write of ones to a W1C register: each bit named clears, unless hardware sets it in this clock (R10). -/
def State.w1cClear (s : State) (off : Nat) (v : Word) : State :=
  let clr := (bitsSet 32 (v &&& maskAt off).toNat).filter (fun i => !s.time.setNow.contains (off * 32 + i))
  clr.foldl (fun s i => s.setF (bitFld off i) 0) s

end Sys2Proof.Machine
end

