-- ==== Sys2Proof/Machine/Records.lean ====
section
/-! DEFINITION. Black-box records: their layout, slots, RSEQ order and the volatile ring
(spec/15_startup_and_black_box.md R372 to R380). -/

namespace Sys2Proof.Machine

/-- The bytes 0x00 to 0x3D of a black-box record (R372). -/
def BbxRecord.body (r : BbxRecord) : List Byte :=
  leBytes 6 r.rseq ++ leBytes 2 r.secs ++ leBytes 4 r.pcc ++ leBytes 4 r.hours ++ [r.source, r.rflags] ++
  leBytes 2 r.code.toNat ++ [r.origin, 0] ++ leBytes 8 r.tsc.toNat ++ sliceBytes r.payload 0 32

/-- The 64 bytes of a black-box record, its CRC-16 last (R372). -/
def BbxRecord.bytes (r : BbxRecord) : List Byte := r.body ++ leBytes 2 (crc16 r.body).toNat

/-- The slot of a record in each copy (R374). -/
def bbxSlot (r : Nat) : Nat := if r < 4096 then r else 4096 + (r - 4096) % 126976

/-- The slot of one copy. -/
def BbxSt.copyAt (x : BbxSt) (b : Bool) (slot : Nat) : Option BbxRecord :=
  sparseGet (fun _ => none) (if b then x.copyB else x.copyA) slot

/-- The copy states of BBX.STATUS (R378). -/
def State.copyInService (s : State) (b : Bool) : Bool :=
  s.getF (if b then F.BBX_STATUS_COPY_B else F.BBX_STATUS_COPY_A) == 0

/-- LOST: neither copy is in service (R379). -/
def State.bbxLost (s : State) : Bool := !s.copyInService false && !s.copyInService true

/-- The next RSEQ, as BBX.NEXT reports it. -/
def State.nextRseq (s : State) : Nat := s.get64 Reg.BBX_NEXT_LO

/-- The rank of a record among those of one fabric clock: ascending SOURCE, host annotations last (R375). -/
def sourceRank (src : Byte) : Nat := if src = 0x0C#8 then 256 else src.toNat

/-- Puts a record into the volatile ring: behind every record of an earlier clock and every record of this clock whose
rank is not above its own; the records behind it take the next RSEQ (R375). -/
def ringInsert (clk : Nat) (r : BbxRecord) : List (BbxRecord × Nat) → List (BbxRecord × Nat)
  | [] => [(r, clk)]
  | (q, c) :: t =>
    if c = clk ∧ sourceRank r.source < sourceRank q.source then
      ({ r with rseq := q.rseq }, clk) :: ((q, c) :: t).map (fun p => ({ p.1 with rseq := p.1.rseq + 1 }, p.2))
    else (q, c) :: ringInsert clk r t

/-- Whether the commit of the oldest waiting record would overwrite a record of a latched range, in a copy that it is written
to (R374, R380). -/
def State.rangeBlocks (s : State) (range : Option (Nat × Nat)) : Bool :=
  match range, s.bbx.ring with
  | some (f, t), (r, _) :: _ => [false, true].any (fun b => s.copyInService b &&
      (match s.bbx.copyAt b (bbxSlot r.rseq) with
        | some q => decide (q.rseq ≠ r.rseq ∧ f ≤ q.rseq ∧ q.rseq ≤ t)
        | none => false))
  | _, _ => false

/-- Whether the host's latched range, or the maintenance port's, holds back the next commit (R380, R454). -/
def State.snapBlocks (s : State) : Bool := s.rangeBlocks s.bbx.snap || s.rangeBlocks s.i2c.snap

/-- Releases the latched ranges that hold commits back because the volatile ring filled (R380). -/
def State.breakSnap (s : State) : State :=
  let host := s.rangeBlocks s.bbx.snap
  let port := s.rangeBlocks s.i2c.snap
  let s := (if host then s.setBit F.BBX_STATUS_SNAP_ACTIVE false else s).hwSet F.BBX_EVENTS_SNAP_BROKEN
  { s with bbx := { s.bbx with snap := if host then none else s.bbx.snap }
           i2c := { s.i2c with snap := if port then none else s.i2c.snap } }

/-- Drops the oldest record of a full ring while LOST (R379), counting it. -/
def State.ringRoom (s : State) : State :=
  if s.bbx.ring.length < 1024 then s
  else
    let s := s.rclAdd Reg.BBX_LOST_COUNT 1
    { s with bbx := { s.bbx with ring := s.bbx.ring.drop 1 } }

/-- The record the engine would make now, with RSEQ next in line (R372, R373). -/
def State.newRecord (s : State) (src code : Nat) (rflags : Byte) (payload : List Byte) : BbxRecord :=
  { rseq := s.nextRseq, secs := (s.reg Reg.BBX_SECS).toNat, pcc := (s.reg Reg.BBX_PCC).toNat,
    hours := (s.reg Reg.BBX_HOURS).toNat, source := BitVec.ofNat 8 src, rflags := rflags,
    code := BitVec.ofNat 16 code, origin := BitVec.ofNat 8 s.board.straps.arrayId.toNat,
    tsc := BitVec.ofNat 64 s.tsc, payload := payload }

/-- Sends a record of this engine in a BBX cell when the link is up and the policy is PAIRED; peer copies are not sent
back (R405). -/
def State.crossCopy (s : State) (r : BbxRecord) : State :=
  if s.bit F.PAIR_STATUS_LINK_UP && s.bit F.DEV_CAPS_PAIRED && !r.origin.getLsbD 7 then s.sendCell (.bbx r.bytes) else s

/-- Puts a record, whatever its RSEQ field, into the volatile ring with the next RSEQ. A record made in the clock of an erase
belongs to the store that was erased, and goes with it (R383). -/
def State.pushRecord (s : State) (r : BbxRecord) : State :=
  match s.bbx.erased with
  | some n => ({ s with bbx := { s.bbx with erased := some (n + 1) } } : State).crossCopy { r with rseq := n }
  | none =>
    let r := { r with rseq := s.nextRseq }
    let s := if s.bbxLost then s.ringRoom.crossCopy r else s
    { s.set64 Reg.BBX_NEXT_LO (s.nextRseq + 1) with
      bbx := { s.bbx with ring := ringInsert s.time.clk r s.bbx.ring } }

/-- Makes a black-box record (R373, R375). -/
def State.makeRecord (s : State) (src code : Nat) (payload : List Byte) : State :=
  s.pushRecord (s.newRecord src code 0 payload)

/-- The ENTRY record of R373, made on entry to RESET and SAFE_TALK and on entry to IDLE from SELFTEST. -/
def State.entryRecord (s : State) : State :=
  s.makeRecord 2 1 [BitVec.ofNat 8 (s.getF F.DEV_STATE_CUR), BitVec.ofNat 8 (s.getF F.DEV_STATE_PREV),
    BitVec.ofNat 8 (s.getF F.DEV_STATE_ENTRY_CAUSE)]

end Sys2Proof.Machine
end

