-- ==== Sys2Proof/Machine/Access.lean ====
section
/-! DEFINITION. What every host access to BAR0 passes first (spec/00_scope.md R8, spec/01_engine_architecture.md R30,
spec/02_draft_image.md R40). -/

namespace Sys2Proof.Machine

/-- Whether the blocks DEV, DRAFT, TEST, BBX and FLT alone answer (R30). -/
def State.closedState (s : State) : Bool := s.cur == .reset || s.cur == .selftest || s.cur == .safeTalk

/-- DEV, DRAFT, FLT, BBX and TEST by block number. -/
def alwaysOpen (blk : Nat) : Bool := blk == 0 || blk == 1 || blk == 0x16 || blk == 0x17 || blk == 0x18

/-- Whether a block's port is left out of the structure (R40): STRM, DISP and PAIR. -/
def State.blockAbsent (s : State) (blk : Nat) : Bool :=
  (blk == 0x13 && !s.bit F.DEV_CAPS_STREAM) || (blk == 0x14 && !s.bit F.DEV_CAPS_DISPLAY) ||
  (blk == 0x15 && !s.bit F.DEV_CAPS_TENON)

/-- Whether host requests reach the engine (R29, R30): never in OFF and AON_UP, in RESET once the link is up, and not in
D3hot, where the standard lets a function answer no memory request (R305). -/
def State.hostReaches (s : State) : Bool := s.board.pcieUp && !s.board.d3hot && s.cur != .off && s.cur != .aonUp

/-- AXIS, LOOM, CTX, TRIG, LANE and BEAM, whose host writes a formed pair forwards (R394). -/
def forwardedBlock (blk : Nat) : Bool := blk == 2 || blk == 3 || (4 ≤ blk && blk ≤ 7) || (0xB ≤ blk && blk ≤ 0xD) || blk == 0xF

/-- A paired SHADOW (R388, R394). -/
def State.isShadow (s : State) : Bool := s.bit F.PAIR_STATUS_PROTECTED && s.getF F.PAIR_STATUS_ROLE == 2

/-- A protected ACTIVE (R388, R394). -/
def State.isProtectedActive (s : State) : Bool := s.bit F.PAIR_STATUS_PROTECTED && s.getF F.PAIR_STATUS_ROLE == 1

/-- Whether the register's domain resets in the present clock, so that a host write of the clock is lost (R433): on an entry to
RESET, every domain but ALWAYS-ON; DEV, DRAFT and BBX are kept by a draft reload. -/
def State.resetsNow (s : State) (off : Nat) : Bool :=
  let blk := off / 0x10000
  s.cur == .reset && decide (s.rankNow < 7) && blk != 0x16 && off != Reg.DEV_SCRATCH &&
    (s.rankNow == 3 || !(blk == 0 || blk == 1 || blk == 0x17))

/-- A host write toward a block: lost without a link or in the clock in which its domain resets, ignored in reserved space (R9),
counted where the block is
closed or absent, discarded and counted for a forwarded block of a paired SHADOW, else performed, and forwarded by a protected
ACTIVE (R30, R40, R394). -/
def State.hostWrite (s : State) (off : Nat) (v : Word) (k : State → State) : State :=
  if !s.hostReaches || s.resetsNow off || decide (0x18 < off / 0x10000) then s
  else if s.closedState && !alwaysOpen (off / 0x10000) then s.hwSet F.FLT_HOST_BLOCK_CLOSED
  else if s.blockAbsent (off / 0x10000) then s.hwSet F.FLT_HOST_STRUCT_ABSENT
  else if forwardedBlock (off / 0x10000) && s.isShadow then s.hwSet F.FLT_HOST_SHADOW_WRITE
  else if forwardedBlock (off / 0x10000) && s.isProtectedActive then (k s).sendCell (.write s.tsc off v)
  else k s

/-- Whether a host read of a block meets its registers; otherwise it reads zero (R30, R40). -/
def State.readOpen (s : State) (off : Nat) : Bool :=
  !(s.closedState && !alwaysOpen (off / 0x10000)) && !s.blockAbsent (off / 0x10000)

/-- Stores the writable bits of a value in a register. -/
def State.storeReg (s : State) (off : Nat) (v : Word) : State :=
  s.setReg off (mergeWrite (s.reg off) (maskAt off) v)

/-- The word of a LO register that is held until its HI is written, or the word of a partner latched by a read. -/
def optAt (m : Sparse (Option Word)) (off : Nat) : Option Word := sparseGet (fun _ => none) m off

/-- A write of LO is held until the write of HI (R81). -/
def State.holdLo (s : State) (off : Nat) (v : Word) : State :=
  { s with held := sparseSet (fun _ => none) s.held off (some v) }

/-- The LO word that a write of HI brings into effect: the one held, else the one in effect; nothing is held then (R81). -/
def State.takeHeld (s : State) (off : Nat) : Word × State :=
  ((optAt s.held off).getD (s.reg off), { s with held := sparseSet (fun _ => none) s.held off none })

/-- Latches what a partner register shows, for the next read of it (R81). -/
def State.latch (s : State) (off : Nat) (v : Word) : State :=
  { s with latched := sparseSet (fun _ => none) s.latched off (some v) }

end Sys2Proof.Machine
end

