-- ==== Sys2Proof/Machine/Operands.lean ====
section
/-! DEFINITION. The operand forms: the fields of a tread (spec/03_axis_and_loom.md R83), of a context and of a lane's
parameter set (spec/09_segments_and_placement.md R227, spec/08_decimation_lanes.md R225), and of a beam job
(spec/10_cloth_beams.md R278). -/

namespace Sys2Proof.Machine

/-- A tread as decoded from its 128 bits (R83). -/
structure Tread where
  cond : Nat
  carg : Nat
  aKind : Nat
  aArg : Nat
  bKind : Nat
  bArg : Nat
  next : Nat
  target : Nat
  fail : Nat
deriving DecidableEq, Repr

/-- Bits lo to lo + w - 1 of a tread. -/
def treadBits (t : BitVec 128) (lo w : Nat) : Nat := t.toNat / 2 ^ lo % 2 ^ w

/-- The fields of a tread (R83). -/
def treadOf (t : BitVec 128) : Tread :=
  { cond := treadBits t 124 4, carg := treadBits t 80 44, aKind := treadBits t 75 5, aArg := treadBits t 53 22,
    bKind := treadBits t 48 5, bArg := treadBits t 26 22, next := treadBits t 24 2, target := treadBits t 12 12,
    fail := treadBits t 0 12 }

/-- The base of a context's window: 256 bytes each (R431). -/
def ctxBase (c : Nat) : Nat := 0x40000 + 0x100 * c

/-- The base of a lane's window: 2 KiB each (R225). -/
def laneBase (l : Nat) : Nat := 0xC0000 + 0x800 * l

/-- Under predecessor behaviour a context keeps none of the fields that it lacks (R436). -/
def State.dropNative (s : State) (c : Nat) : State :=
  if !s.bit F.DRAFT_STATUS_COMPAT_ACTIVE then s
  else ((s.setF (F.CTX_HOLDOFF_HI_UNIT c) 0).setBit (F.CTX_STORE_STREAM_EN c) false).setReg (Reg.CTX_STREAM_QUOTA c) 0

/-- A field of the word at an offset. -/
def State.fieldAt (s : State) (off lo w : Nat) : Nat := fieldOf (s.reg off) lo w

/-- The parameter set at a window base: a context's own (R218), or a lane's shadow. -/
def State.paramSet (s : State) (base : Nat) : LaneSet :=
  { rank := s.fieldAt (base + 0x40) 0 4
    cicOrder := s.fieldAt (base + 0x44) 0 3
    cicM := s.fieldAt (base + 0x44) 8 1 + 1
    cicR := s.fieldAt (base + 0x48) 0 17
    cicGain := s.fieldAt (base + 0x4C) 0 18
    cicShift := s.fieldAt (base + 0x44) 16 6
    firTaps := s.fieldAt (base + 0x50) 0 8
    firDec := s.fieldAt (base + 0x50) 8 5
    firStart := s.fieldAt (base + 0x50) 16 1 == 1
    rsMode := s.fieldAt (base + 0x54) 0 2
    rsStart := s.fieldAt (base + 0x54) 4 1 == 1
    rsNum := s.fieldAt (base + 0x58) 0 24
    rsDen := s.fieldAt (base + 0x5C) 0 24
    rsStep := s.fieldAt (base + 0x60) 0 32 + 2 ^ 32 * s.fieldAt (base + 0x64) 0 16
    rsGrid := s.fieldAt (base + 0x68) 0 17
    rsMax := (s.reg (base + 0x6C)).toNat
    peak := s.fieldAt (base + 0x70) 0 17
    env := s.fieldAt (base + 0x74) 0 17
    hires := s.fieldAt (base + 0x78) 0 5 }

/-- The number of the one channel that CTX.CTL.SOURCE names; none unless exactly one bit is set (R95). -/
def State.ctxChannel (s : State) (c : Nat) : Option Nat :=
  match bitsSet 4 (s.getF (F.CTX_CTL_SOURCE c)) with
  | [n] => some n
  | _ => none

/-- Whether a channel exists in the mode in force (R111). -/
def State.channelExists (s : State) (n : Nat) : Bool := (s.getF F.CONV_MODE_CHANNELS).testBit n

/-- Samples per fabric clock of a channel (R111): four slice clocks of 64 slices of each bank. -/
def State.samplesPerClock (s : State) : Nat := 256 * max 1 (s.getF F.CONV_MODE_BANKS_PER_CH)

/-- CTX segment length in lane output samples (R227). -/
def State.ctxLen (s : State) (c : Nat) : Nat :=
  (s.reg (Reg.CTX_SEG_LEN_LO c)).toNat + 2 ^ 32 * s.fieldAt (Reg.CTX_SEG_LEN_HI c) 0 8

/-- CTX pre-trigger length in lane output samples (R227). -/
def State.ctxPre (s : State) (c : Nat) : Nat :=
  (s.reg (Reg.CTX_PRETRIG_LO c)).toNat + 2 ^ 32 * s.fieldAt (Reg.CTX_PRETRIG_HI c) 0 8

/-- The holdoff value V in 2^-16 of its unit (R192). -/
def State.ctxHoldoff (s : State) (c : Nat) : Nat :=
  (s.reg (Reg.CTX_HOLDOFF_LO c)).toNat + 2 ^ 32 * s.fieldAt (Reg.CTX_HOLDOFF_HI c) 0 24

/-- The holdoff unit; under predecessor behaviour every holdoff is in time (R197). -/
def State.ctxUnit (s : State) (c : Nat) : Nat :=
  if s.bit F.DRAFT_STATUS_COMPAT_ACTIVE then 0 else s.getF (F.CTX_HOLDOFF_HI_UNIT c)

/-- FMT, ALIGN and CODING as WORD0 [7:4] holds them (R120, R236). -/
def State.ctxFmt (s : State) (c : Nat) : Nat :=
  s.getF (F.CTX_STORE_FMT c) + 4 * s.getF (F.CTX_STORE_ALIGN c) + 8 * s.getF (F.CTX_STORE_CODING c)

/-- Bits of a stored sample (R121). -/
def fmtWidth (fmt : Nat) : Nat :=
  match fmt % 4 with
  | 0 => 10 | 1 => 12 | _ => 16

/-- Data bytes of n samples (R122). -/
def dataBytes (fmt n : Nat) : Nat := ceilDiv (n * fmtWidth fmt) 8

/-- n rounded up to a multiple of 64. -/
def round64 (n : Nat) : Nat := ceilDiv n 64 * 64

/-- The footprint F (R228). -/
def State.footprint (s : State) (c : Nat) : Nat := round64 (dataBytes (s.ctxFmt c) (s.ctxLen c))

/-- Job j's descriptor as the host wrote it. -/
def State.jobDesc (s : State) (j : Nat) : JobDesc :=
  { kind := s.getF (F.BEAM_JOB_CFG_KIND j)
    xMode := s.getF (F.BEAM_JOB_CFG_X_MODE j)
    pool := s.getF (F.BEAM_JOB_CFG_POOL j)
    maskSel := s.getF (F.BEAM_JOB_CFG_MASK_SEL j)
    yClamp := s.bit (F.BEAM_JOB_CFG_Y_CLAMP j)
    double := s.bit (F.BEAM_JOB_CFG_DOUBLE j)
    report := s.bit (F.BEAM_JOB_CFG_REPORT_EN j)
    bufs := max 1 (s.getF (F.BEAM_JOB_REPORT_RESULT_BUFS j))
    ctx := s.getF (F.BEAM_JOB_REPORT_CTX j)
    width := s.fieldAt (Reg.BEAM_JOB_WIDTH j) 0 25
    height := s.fieldAt (Reg.BEAM_JOB_HEIGHT j) 0 12
    xStart := ofBitsInt 40 ((s.reg (Reg.BEAM_JOB_X_START_LO j)).toNat +
      2 ^ 32 * s.fieldAt (Reg.BEAM_JOB_X_START_HI j) 0 8)
    xDiv := s.fieldAt (Reg.BEAM_JOB_X_DIV j) 0 17
    yShift := s.getF (F.BEAM_JOB_YMAP_Y_SHIFT j)
    yBase := ofBitsInt 16 (s.getF (F.BEAM_JOB_YMAP_Y_BASE j))
    ui := (s.reg (Reg.BEAM_JOB_UI_LO j)).toNat + 2 ^ 32 * s.fieldAt (Reg.BEAM_JOB_UI_HI j) 0 16
    foldOffset := (s.reg (Reg.BEAM_JOB_FOLD_OFFSET j)).toNat
    axisMult := max 1 (s.fieldAt (Reg.BEAM_JOB_AXIS_MULT j) 0 16)
    limit := if s.fieldAt (Reg.BEAM_JOB_SWEEP_LIMIT j) 0 25 = 0 then 2 ^ 24
      else min (2 ^ 24) (s.fieldAt (Reg.BEAM_JOB_SWEEP_LIMIT j) 0 25) }

/-- Whether a delivery queue is enabled. -/
def State.queueEnabled (s : State) (q : Nat) : Bool := s.bit (F.DMA_DQ_CFG_EN q)

/-- A ring exponent, 16 written as 0 (R331). -/
def ringLog (n : Nat) : Nat := if n = 0 then 16 else n

/-- Entries of a queue's free ring (R312). -/
def State.freeEntries (s : State) (q : Nat) : Nat := 2 ^ ringLog (s.getF (F.DMA_DQ_CFG_FREE_LOG2 q))

/-- Bytes of a queue's buffers (R312). -/
def State.bufBytes (s : State) (q : Nat) : Nat :=
  let n := s.fieldAt (Reg.DMA_DQ_BUF_LEN q) 0 18
  (if n = 0 then 262144 else n) * 4096

/-- Planes of a queue's reshuffle mode for samples of a width (R320). -/
def State.queuePlanes (s : State) (q width : Nat) : Nat :=
  match s.getF (F.DMA_DQ_CFG_RESHUFFLE q) with
  | 1 => max 2 (s.getF (F.DMA_DQ_CFG_STREAMS q) + 1)
  | 2 => 1
  | 3 => 2
  | 4 => width
  | _ => 0

/-- Bytes of a header (R236, R240). -/
def State.headerBytes (s : State) : Nat := if s.bit F.DRAFT_STATUS_COMPAT_ACTIVE then 32 else 64

/-- Whether a record of n bytes needs more buffers than a queue may give it (R314). -/
def State.queueHolds (s : State) (q n : Nat) : Bool := ceilDiv n (s.bufBytes q) + 1 ≤ s.freeEntries q

end Sys2Proof.Machine
end

