-- ==== Sys2Proof/Machine/AxisOps.lean ====
section
/-! DEFINITION. The axis position and what the estimator reports (spec/03_axis_and_loom.md R66 to R80). The clocks of the
track count the model's fabric clocks; `tscOff` relates them to the TSC. -/

namespace Sys2Proof.Machine

/-- CLK.TSC minus the model's count of fabric clocks. -/
def State.tscOff (s : State) : Int := (s.tsc : Int) - s.time.clk

/-- An instant in 2^-32 fabric clock of the model's count. -/
def State.modelTime (s : State) (t : Instant) : Int := (t : Int) - s.tscOff * 2 ^ 32

/-- The time axis: SOURCE 0, or predecessor behaviour (R68). -/
def State.axisIsTime (s : State) : Bool := s.getF F.AXIS_CFG_SOURCE == 0 || s.bit F.DRAFT_STATUS_COMPAT_ACTIVE

/-- The part of the track in effect in a clock. -/
def State.axisKnot (s : State) (n : Int) : AxisKnot :=
  match s.axis.track.find? (fun k => (k.clk : Int) ≤ n) with
  | some k => k
  | none => { clk := 0, pos := 0, rate := 0, st := 2, jump := false, down := false }

/-- The position in effect in a clock of the model's count, in 2^-48 unit (R68, R70). -/
def State.axisAt (s : State) (n : Int) : Int :=
  if s.axisIsTime then (n + s.tscOff) * 2 ^ 48
  else
    let k := s.axisKnot n
    k.pos + k.rate * (n - k.clk)

/-- The estimator state in a clock: 0 TRACK, 1 COAST, 2 STALLED (R75); always TRACK on the time axis (R68). -/
def State.axisStAt (s : State) (n : Int) : Nat := if s.axisIsTime then 0 else (s.axisKnot n).st

/-- The rate in effect in a clock, in 2^-48 unit per clock. -/
def State.axisRateAt (s : State) (n : Int) : Int := if s.axisIsTime then 2 ^ 48 else (s.axisKnot n).rate

/-- The reported position, 48.16 (R67). -/
def State.axisReported (s : State) (n : Int) : Int := s.axisAt n / 2 ^ 32

/-- The position at an instant of the model's count, in 2^-48 unit: the clock's position plus the rate times the fraction;
the frozen position in STALLED (R80). -/
def State.axisAtTime (s : State) (t : Int) : Int :=
  let n := t / 2 ^ 32
  if s.axisStAt n = 2 then s.axisAt n else s.axisAt n + s.axisRateAt n * (t % 2 ^ 32) / 2 ^ 32

/-- The header's axis position at a trigger instant, 48.16 (R80). -/
def State.axisHeader (s : State) (t : Instant) : Int := s.axisAtTime (s.modelTime t) / 2 ^ 32

/-- Whether the estimator was in a state during any clock of a span of model time (R79). -/
def State.axisWas (s : State) (st : Nat) (t0 t1 : Int) : Bool :=
  if s.axisIsTime then false
  else
    let lo := t0 / 2 ^ 32
    let hi := t1 / 2 ^ 32
    s.axisStAt lo == st || s.axis.track.any (fun k => k.st == st && decide (lo ≤ (k.clk : Int)) && decide ((k.clk : Int) ≤ hi))

/-- Adds a part to the track from the present clock on. -/
def State.axisKnotNow (s : State) (pos rate : Int) (st : Nat) (jump : Bool) : State :=
  let k : AxisKnot := { clk := s.time.clk, pos := pos, rate := rate, st := st, jump := jump, down := s.bit F.AXIS_STATUS_DOWN }
  let s : State := { s with axis := { s.axis with track := k :: s.axis.track } }
  s.setF F.AXIS_STATUS_STATE st

/-- Reports something to the Loom in the present clock (R85). -/
def State.reportEvent (s : State) (e : LoomEvent) : State :=
  { s with loom := { s.loom with events := (s.time.clk, e) :: s.loom.events } }

/-- An axis event (R75 to R78): its sticky bit, and the report to the Loom. -/
def State.axisEvent (s : State) (bit : Nat) (t : Option Instant) : State :=
  (s.hwSet (bitFld Reg.AXIS_EVENTS bit)).reportEvent (.axis bit t)

/-- An AXIS register as it governs the present clock: a write of this clock takes effect in the next (R81). -/
def State.axisReg (s : State) (off : Nat) : Word :=
  match s.axis.wrote.find? (fun p => p.1 == off) with
  | some (_, v) => v
  | none => s.reg off

/-- A 64-bit AXIS quantity as it governs the present clock (R81). -/
def State.axisReg64 (s : State) (lo : Nat) : Nat := (s.axisReg lo).toNat + 2 ^ 32 * (s.axisReg (lo + 4)).toNat

/-- A field of an AXIS register as it governs the present clock (R81). -/
def State.axisField (s : State) (off lo w : Nat) : Nat := fieldOf (s.axisReg off) lo w

/-- Keeps the word of an AXIS register that a write of the present clock replaces. -/
def State.axisKeep (s : State) (off : Nat) : State :=
  if s.axis.wrote.any (fun p => p.1 == off) then s
  else { s with axis := { s.axis with wrote := (off, s.reg off) :: s.axis.wrote } }

/-- The direction of motion: -1 when STATUS.DOWN reads 1. -/
def State.axisDir (s : State) : Int := if s.bit F.AXIS_STATUS_DOWN then -1 else 1

/-- The estimator at rest after a choice of source (R69): position zero, and for an external source STALLED with
NEVER_LOCKED. The levels of the inputs are those of the pins whatever the source (R74). -/
def State.axisRestart (s : State) : State :=
  let s : State := { s with axis := { AxisSt.init with a := s.axis.a, b := s.axis.b, wrote := s.axis.wrote } }
  let s := (s.setBit F.AXIS_STATUS_DOWN false).setBit F.AXIS_STATUS_SLEWING false
  if s.axisIsTime then (s.setBit F.AXIS_STATUS_NEVER_LOCKED false).setF F.AXIS_STATUS_STATE 0
  else (s.axisKnotNow 0 0 2 true).setBit F.AXIS_STATUS_NEVER_LOCKED true

/-- One fabric clock of a SLEW (R77): 1/256 of the tracked rate is absorbed in each clock. -/
def State.axisTick (s : State) : State :=
  if s.axis.slew = 0 then s
  else
    let step := max 1 (s.axis.rate.natAbs / 256 : Nat)
    if s.axis.slew.natAbs ≤ step then
      let s := (s.axisKnotNow (s.axisAt s.time.clk) s.axis.rate 0 false).setBit F.AXIS_STATUS_SLEWING false
      { s with axis := { s.axis with slew := 0 } }
    else { s with axis := { s.axis with slew := if 0 < s.axis.slew then s.axis.slew - step else s.axis.slew + step } }

end Sys2Proof.Machine
end

