-- ==== Sys2Proof/Machine/Axis.lean ====
section
/-! DEFINITION. The axis commands (spec/03_axis_and_loom.md R66 to R81). -/

namespace Sys2Proof.Machine

/-- A write of AXIS.CFG (R66, R68, R69). DESIGN CHOICE (log 141): under predecessor behaviour SOURCE is ignored before the test
that discards SOURCE 3, so such a write stores the other fields. -/
def State.axisCfg (s : State) (v : Word) : State :=
  let v := if s.bit F.DRAFT_STATUS_COMPAT_ACTIVE then insertField v 0 2 0 else v
  if s.cur != .idle || fieldOf v 0 2 = 3 then s.hwSet F.FLT_HOST_AXIS_BUSY
  else
    let old := s.getF F.AXIS_CFG_SOURCE
    let s := s.storeReg Reg.AXIS_CFG v
    if s.getF F.AXIS_CFG_SOURCE = old then s else s.axisRestart

/-- AXIS_CFG_WRITE (R69). -/
def execAxisCfgWrite (v : Word) (s : State) : Result :=
  .next (s.hostWrite Reg.AXIS_CFG v (fun s => s.axisCfg v))

/-- The rate that two edges give (R76), in 2^-48 unit per clock. -/
def edgeRate (p0 p1 t0 t1 : Int) : Int := if t1 ≤ t0 then 0 else (p1 - p0) * 2 ^ 32 / (t1 - t0)

/-- A rate in the direction of motion, or none (R71). -/
def State.forwardRate (s : State) (rate : Int) : Int := if 0 < s.axisDir then max 0 rate else min 0 rate

/-- The reported position never moves against the direction of motion (R71). -/
def State.noBackward (s : State) (pos : Int) : Int :=
  let before := s.axisAt (s.time.clk - 1)
  if 0 < s.axisDir then max pos before else min pos before

/-- A STEP (R77, R78). -/
def State.axisStep (s : State) (pos rate : Int) (t : Instant) : State :=
  let before := s.axisReported (s.time.clk - 1)
  let s := s.axisKnotNow pos rate 0 true
  let s := (s.set64 Reg.AXIS_STEP_FROM_LO (toBitsInt 64 before)).set64 Reg.AXIS_STEP_TO_LO (toBitsInt 64 (pos / 2 ^ 32))
  (s.axisEvent 3 (some t)).makeRecord 6 1 (leBytes 8 (toBitsInt 64 before) ++ leBytes 8 (toBitsInt 64 (pos / 2 ^ 32)))

/-- What an edge with an assigned true position does (R69, R70, R75 to R78). `fresh` marks the first edge after a
reversal, which gives no rate (R71). DESIGN CHOICE (log 101): an edge met at rate zero within the threshold moves the
position as a jump, so that a compare it passes is reached late (R78, R93). -/
def State.axisEdge (s : State) (t : Instant) (truePos : Int) (fresh : Bool) : State :=
  let n : Int := s.time.clk
  let tm := s.modelTime t
  let st := s.axisStAt n
  let err := truePos - s.axisAtTime tm
  let never := s.bit F.AXIS_STATUS_NEVER_LOCKED
  let rate := if st = 2 || fresh then 0
    else if s.axis.rate = 0 then
      match s.axis.lastEdge with
      | some t0 => edgeRate s.axis.lastTrue truePos t0 tm
      | none => 0
    else Config.trackRate s.axis.rate err (max 1 (s.axisField Reg.AXIS_LOOP 0 4)) (tm - (s.axis.lastEdge.getD tm))
  let rate := s.forwardRate rate
  let oldRate := s.axis.rate
  let s : State := { s with axis := { s.axis with rate := rate, lastEdge := some tm, lastTrue := truePos, slew := 0 } }
  let s := s.setBit F.AXIS_STATUS_SLEWING false
  if never then (s.axisKnotNow truePos 0 0 true).setBit F.AXIS_STATUS_NEVER_LOCKED false
  else
    let s := if st = 0 then s else s.axisEvent 2 (some t)
    if (s.axisReg Reg.AXIS_PHASE_THRESH).toNat * 2 ^ 32 < err.natAbs then
      let s := s.hwSet F.AXIS_EVENTS_PHASE_ALARM
      if s.axisField Reg.AXIS_POLICY 0 1 = 0 ∨ oldRate = 0 then s.axisStep truePos rate t
      else
        let toward := decide (0 ≤ err) == decide (0 ≤ rate)
        let eff := if toward then rate * 257 / 256 else rate * 255 / 256
        let s := (s.axisKnotNow (s.axisAt n) eff 0 false).setBit F.AXIS_STATUS_SLEWING true
        { s with axis := { s.axis with slew := err } }
    else if st = 2 || oldRate = 0 then s.axisKnotNow (s.noBackward truePos) rate 0 true
    else
      s.axisKnotNow (s.noBackward (s.axisAt n + Config.trackPos err (max 1 (s.axisField Reg.AXIS_LOOP 0 4)))) rate 0 false

/-- One axis unit in 2^-48 unit. -/
def axisUnit : Int := 2 ^ 48

/-- The integer nearest a quotient; half way between two, the upper one (DESIGN CHOICE, log 102: R73 says only nearest). -/
def nearest (a b : Int) : Int := if b = 0 then 0 else (2 * a + b) / (2 * b)

/-- The true position of a reference edge whose grid is `per` to the unit (R73): nearest the estimate while the rate is
not zero, else the next integer unit beyond the position in effect. -/
def State.refTrue (s : State) (t : Instant) (per : Int) : Int :=
  let n : Int := s.time.clk
  if s.axisStAt n ≠ 2 ∧ s.axis.rate ≠ 0 then nearest (s.axisAtTime (s.modelTime t) * per) axisUnit * axisUnit / per
  else if 0 < s.axisDir then (s.axisAt n / axisUnit + 1) * axisUnit
  else (-(-(s.axisAt n) / axisUnit) - 1) * axisUnit

/-- The quadrature step between two pairs of levels, AXIS_A leading upward; none when both changed (R74). -/
def quadStep (a0 b0 a1 b1 : Bool) : Option Int :=
  if a0 != a1 && b0 != b1 then none
  else if a0 == a1 && b0 == b1 then some 0
  else if a0 != a1 then some (if a1 != b0 then 1 else -1)
  else some (if a0 == b1 then 1 else -1)

/-- A reversal of the quadrature inputs (R71): rate zero, and the event. -/
def State.axisReverse (s : State) (t : Instant) : State :=
  let s := s.setBit F.AXIS_STATUS_DOWN (!s.bit F.AXIS_STATUS_DOWN)
  let pos := s.axisAt s.time.clk
  let s := (s.axisKnotNow pos 0 (s.axisStAt s.time.clk) false).setBit F.AXIS_STATUS_SLEWING false
  let s : State := { s with axis := { s.axis with rate := 0, lastEdge := none, slew := 0 } }
  s.axisEvent 5 (some t)

/-- A counted quadrature step (R71, R73). -/
def State.quadCount (s : State) (d : Int) (t : Instant) : State :=
  let never := s.bit F.AXIS_STATUS_NEVER_LOCKED
  let turns := d != s.axisDir
  let s := if !turns then s else if never then s.setBit F.AXIS_STATUS_DOWN (d == -1) else s.axisReverse t
  let s : State := { s with axis := { s.axis with count := s.axis.count + d } }
  s.axisEdge t (s.axis.count * axisUnit / (max 1 (s.axisField Reg.AXIS_SCALE 0 25) : Nat)) turns

/-- An edge's timestamp: 1/64 of a fabric clock (R72). -/
def edgeStamp (t : Instant) : Instant := t / 2 ^ 26 * 2 ^ 26

/-- Whether the glitch filter accepts a level that holds for `hold` clocks (R72); the inputs are held in reset outside IDLE,
ARMED and ACQUIRING. -/
def State.axisAccepts (s : State) (hold : Nat) : Bool := decide (s.getF F.AXIS_CFG_FILTER ≤ hold)

/-- Whether the estimator runs on a source (R66, R72). -/
def State.axisRunsOn (s : State) (source : Nat) : Bool :=
  s.operational && !s.axisIsTime && s.getF F.AXIS_CFG_SOURCE == source

/-- AXIS_QUAD_EDGE: the levels of AXIS_A and AXIS_B from instant t on, which hold for `hold` clocks (R71 to R74). The levels
are followed whatever the source. -/
def execAxisQuadEdge (a b : Bool) (t : Instant) (s : State) (hold : Nat := 64) : Result :=
  .next (
    if !s.axisAccepts hold then s
    else
      let step := if s.bit F.AXIS_CFG_DIR_INVERT then quadStep s.axis.b s.axis.a b a else quadStep s.axis.a s.axis.b a b
      let s : State := { s with axis := { s.axis with a := a, b := b } }
      if !s.axisRunsOn 1 then s
      else
        match step with
        | none => s.hwSet F.AXIS_EVENTS_QUAD_ERR
        | some d => if d = 0 then s else s.quadCount d (edgeStamp t))

/-- AXIS_REF_EDGE: an edge of the polarity that REF_EDGE selects, whose level holds for `hold` clocks (R72, R73). -/
def execAxisRefEdge (t : Instant) (s : State) (hold : Nat := 64) : Result :=
  .next (
    if !s.axisRunsOn 2 || !s.axisAccepts hold then s
    else s.axisEdge (edgeStamp t) (s.refTrue (edgeStamp t) (s.getF F.AXIS_CFG_REF_DIV + 1)) false)

/-- AXIS_INDEX_EDGE: a rising edge of AXIS_Z, whose level holds for `hold` clocks (R74). DEDUCED (log 103): REFERENCE takes
part in the estimation under SOURCE 1, whose row of R66 names AXIS_Z; and as the first edge after a change of source it raises
INDEX, which R74 gives every rising edge, and sets the position to the next integer unit (R69, R73). -/
def execAxisIndexEdge (t : Instant) (s : State) (hold : Nat := 64) : Result :=
  .next (
    let m := s.getF F.AXIS_CFG_INDEX_MODE
    if !s.operational || (m != 1 && m != 2) || !s.axisAccepts hold then s
    else
      let t := edgeStamp t
      let s := (s.set64 Reg.AXIS_Z_LATCH_LO (toBitsInt 64 (s.axisHeader t))).axisEvent 4 (some t)
      if m = 2 ∧ s.axisRunsOn 1 then s.axisEdge t (s.refTrue t 1) false else s)

/-- ENTER_COAST (R75, R76): the position goes on at the held rate, and a SLEW ends. -/
def execEnterCoast (s : State) : Result :=
  .next (
    if s.operational && !s.axisIsTime && s.axisStAt s.time.clk == 0 && s.axis.rate != 0 then
      let s := (s.axisKnotNow (s.axisAt s.time.clk) s.axis.rate 1 false).setBit F.AXIS_STATUS_SLEWING false
      let s : State := { s with axis := { s.axis with slew := 0 } }
      (s.axisEvent 0 none).hwSet F.FLT_CLASS_AXIS_COAST
    else s)

/-- ENTER_STALLED: the position freezes and the rate is zero (R75). -/
def execEnterStalled (s : State) : Result :=
  .next (
    if s.operational && !s.axisIsTime && s.axisStAt s.time.clk != 2 then
      let s := (s.axisKnotNow (s.axisAt s.time.clk) 0 2 false).setBit F.AXIS_STATUS_SLEWING false
      let s : State := { s with axis := { s.axis with rate := 0, lastEdge := none, slew := 0 } }
      (s.axisEvent 1 none).hwSet F.FLT_CLASS_AXIS_STALL
    else s)

/-- The 64-bit compare k as a signed 48.16 number (R81). -/
def State.axisCmp (s : State) (k : Nat) : Int := ofBitsInt 64 (s.get64 (Reg.AXIS_CMP_LO k))

/-- The value of an AXIS_CMP action (R87): 0 ADVANCE, 1 LOAD, 2 FROM_POS, 3 NEXT_MULT. DEDUCED (log 104): the multiples of a
negative CMP_STEP are those of its magnitude. -/
def State.cmpValue (s : State) (k mode : Nat) (old : Nat) : Nat :=
  let step := s.axisReg64 (Reg.AXIS_CMP_STEP_LO k)
  let load := s.axisReg64 (Reg.AXIS_CMP_LOAD_LO k)
  let pos := s.axisReported s.time.clk
  match mode % 4 with
  | 0 => (old + step) % 2 ^ 64
  | 1 => load
  | 2 => toBitsInt 64 (pos + ofBitsInt 64 step)
  | _ =>
    let m : Int := (ofBitsInt 64 step).natAbs
    if m = 0 then load else toBitsInt 64 ((pos / m + 1) * m)

/-- Compare k as a match evaluated in the present clock saw it, in the clock before: without the actions and the host writes
of this clock, and without a host write of that clock, which takes effect only now (R81, R91). -/
def State.cmpSeen (s : State) (k : Nat) : Int :=
  let old (l : List (Nat × Nat)) : Option Nat := (l.find? (fun p => p.1 == k)).map (·.2)
  ofBitsInt 64 (match old s.loom.cmpPrev, old s.loom.cmpActed, old s.loom.cmpHost with
    | some v, _, _ => v
    | none, some v, _ => v
    | none, none, some v => v
    | none, none, none => s.get64 (Reg.AXIS_CMP_LO k))

/-- An AXIS_CMP action: it acts on the value before the actions and host writes of its clock (R88, R92). -/
def State.cmpAction (s : State) (k mode : Nat) : State :=
  let acted := (s.loom.cmpActed.find? (fun p => p.1 == k)).map (·.2)
  let hosted := (s.loom.cmpHost.find? (fun p => p.1 == k)).map (·.2)
  let old := match acted, hosted with
    | some v, _ => v
    | none, some v => v
    | none, none => s.get64 (Reg.AXIS_CMP_LO k)
  let s := if hosted.isSome && acted.isNone then s.hwSet F.AXIS_EVENTS_CMP_COLLIDE else s
  let s := s.set64 (Reg.AXIS_CMP_LO k) (s.cmpValue k mode old)
  if acted.isSome then s else { s with loom := { s.loom with cmpActed := (k, old) :: s.loom.cmpActed } }

/-- A host write of a compare register, lost where an action of the clock named it (R88). -/
def State.cmpHostWrite (s : State) (k v : Nat) : State :=
  if s.loom.cmpActed.any (fun p => p.1 == k) then s.hwSet F.AXIS_EVENTS_CMP_COLLIDE
  else
    let old := s.get64 (Reg.AXIS_CMP_LO k)
    let s : State := if s.loom.cmpHost.any (fun p => p.1 == k) then s
      else { s with loom := { s.loom with cmpHost := (k, old) :: s.loom.cmpHost } }
    s.set64 (Reg.AXIS_CMP_LO k) v

/-- AXIS_CMP (R87, R88, R92). -/
def execAxisCmp (k : Fin 16) (mode : Fin 4) (s : State) : Result :=
  .next (if s.loomIssues then s.cmpAction k mode else s)

end Sys2Proof.Machine
end

