-- ==== Sys2Proof/Machine/Cal.lean ====
section
/-! DEFINITION. Background calibration, the monitor queue and injected conversions
(spec/05_selvedge_calibration.md R133 to R153). -/

namespace Sys2Proof.Machine

/-- The calibration engine of a bank. -/
def State.calBank (s : State) (b : Nat) : CalBank := sparseGet (fun _ => CalBank.init) s.cal.banks b

/-- The code CAL.STATUS shows for a bank: an injected conversion shows before the visit's phase (R154). -/
def CalBank.code (x : CalBank) : Nat :=
  match x.inj with
  | some (_, false) => 6
  | some (_, true) => 7
  | none => match x.phase with
    | .off => 0 | .gap => 1 | .self => 2 | .settle => 3 | .capture => 4 | .update => 5

/-- Sets a bank's engine, with its phase code and BUSY bit (R154). -/
def State.setCalBank (s : State) (b : Nat) (x : CalBank) : State :=
  let s : State := { s with cal := { s.cal with banks := sparseSet (fun _ => CalBank.init) s.cal.banks b x } }
  (s.setF (F.CAL_PHASE b) x.code).setBit (bitFld Reg.CAL_INJ_STATUS (8 + b)) x.inj.isSome

/-- The coefficients in effect of a slice. -/
def State.coef (s : State) (b slice : Nat) : Coef := sparseGet (fun _ => Coef.neutral) s.cal.coefs (65 * b + slice)

/-- Changes the coefficients of a slice, by its key, with the present clock: they correct the words that reach the correction
stage from this clock on (R19, R119). -/
def State.putCoef (s : State) (key : Nat) (c : Coef) : State :=
  { s with cal := { s.cal with
      coefs := sparseSet (fun _ => Coef.neutral) s.cal.coefs key c
      log := (s.tsc - 5, key, sparseGet (fun _ => Coef.neutral) s.cal.coefs key) :: s.cal.log } }

/-- Coefficients of a slice that take effect at the start of the next clock (R134, R153). -/
def State.setCoef (s : State) (b slice : Nat) (c : Coef) : State :=
  { s with cal := { s.cal with coming := s.cal.coming ++ [(65 * b + slice, c)] } }

/-- The coefficients set in the clock before take effect (R134, R153). -/
def State.coefsTake (s : State) : State :=
  s.cal.coming.foldl (fun s q => s.putCoef q.1 q.2) { s with cal := { s.cal with coming := [] } }

/-- The coefficients that corrected a slice's samples of the word sampled in fabric clock `word`: those before the first
change that a later word met (R119). -/
def State.coefAtWord (s : State) (word b slice : Nat) : Coef :=
  match s.cal.log.reverse.find? (fun e => word < e.1 && e.2.1 == 65 * b + slice) with
  | some e => e.2.2
  | none => s.coef b slice

/-- A word of the monitor queue (R144). -/
def monWord (bank slice kind value : Nat) : Word :=
  BitVec.ofNat 32 (bank * 2 ^ 30 + slice % 128 * 2 ^ 23 + kind % 8 * 2 ^ 20 + value % 65536)

/-- What a read of the empty queue returns (R146). -/
def monEmpty : Word := 0x00700000

/-- Queues an entry of a kind that REPORT selects (MONITOR always). One that meets the queue full waits for a pop of its
clock (R145, R147). -/
def State.pushMon (s : State) (bank slice kind value : Nat) : State :=
  if kind != 4 && !(s.getF F.CAL_CTRL_REPORT).testBit kind then s
  else if 256 ≤ s.cal.queue.length then
    { s with cal := { s.cal with excess := s.cal.excess ++ [monWord bank slice kind value] } }
  else { s with cal := { s.cal with queue := s.cal.queue ++ [monWord bank slice kind value],
                                    pushedNow := s.cal.pushedNow + 1 } }

/-- The clock ends: what met the queue full and no pop is dropped and counted (R147). -/
def State.monSettle (s : State) : State :=
  if s.cal.excess.isEmpty then s
  else
    let s := (s.rclAdd Reg.CAL_MON_LOST s.cal.excess.length).hwSet F.CAL_EVENTS_MON_OVERFLOW
    { s with cal := { s.cal with excess := [] } }

/-- The oldest entry that stood in the queue at the start of the clock, or EMPTY (R146, R147). -/
def State.monOldest (s : State) : Word :=
  if s.cal.queue.length ≤ s.cal.pushedNow then monEmpty else s.cal.queue.headD monEmpty

/-- Removes that entry; the room goes to a push of the clock that met the queue full (R147). -/
def State.monTake (s : State) : State :=
  if s.cal.queue.length ≤ s.cal.pushedNow then s
  else { s with cal := { s.cal with
    queue := s.cal.queue.drop 1 ++ s.cal.excess.take 1
    pushedNow := s.cal.pushedNow + (s.cal.excess.take 1).length
    excess := s.cal.excess.drop 1 } }

/-- Blocks of a visit: 8 to 64, even (CAL.LOOP.BLOCKS). -/
def calBlocks (loop : Word) : Nat :=
  let n := fieldOf loop 8 7
  let n := if n < 8 then 8 else if 64 < n then 64 else n
  n - n % 2

/-- The update step exponent (CAL.LOOP.MU: 8 to 15 behave as 7). -/
def calMu (loop : Word) : Nat := min (fieldOf loop 0 4) 7

/-- A coefficient moved by its residual times 2^-MU; the rounding to the coefficient's unit is open (log 10). -/
def moveCoef (old : Int) (residual : Rat) (mu : Nat) : Int := roundOpen (old + residual / 2 ^ mu)

/-- The slice rate in effect, in hertz: CLK.STATUS.RATE_IN_EFFECT counts 100 kHz. -/
def State.sliceRate (s : State) : Nat := s.getF F.CLK_STATUS_RATE_IN_EFFECT * 100000

/-- Banks of each channel in the mode in force (R111, R132). -/
def State.banksPerCh (s : State) : Nat := max 1 (s.getF F.CONV_MODE_BANKS_PER_CH)

/-- The channel rate, in samples per second: 64 x slice rate x banks per channel (R111). -/
def State.chanRate (s : State) : Nat := 64 * s.sliceRate * s.banksPerCh

/-- The sample spacing in femtoseconds. -/
def State.spacingFs (s : State) : Rat := if s.chanRate = 0 then 0 else (10 ^ 15 : Rat) / s.chanRate

/-- DELAY at a sample spacing: the remainder of D beside TRIM, in 2^-20 sample spacing (R138, R140). -/
def Coef.atSpacing (c : Coef) (spacing : Rat) : Coef :=
  { c with delay := if spacing = 0 then 0
           else clampInt (-32768) 32767 (roundOpen ((c.d - 10 * c.trim) * 2 ^ 20 / spacing)) }

/-- TRIM and DELAY for a total delay D (R138): TRIM the nearest multiple of 10 fs, clamped to 2,000 steps. DESIGN CHOICE
(log 117): a D half way between two multiples goes to the upper one. -/
def Coef.withD (c : Coef) (d spacing : Rat) : Coef :=
  let c1 : Coef := { c with d := d, trim := clampInt (-2000) 2000 (d / 10 + 1 / 2).floor }
  c1.atSpacing spacing

/-- CAL.CTRL.MODE, FOCUS and a bank's BANK_EN as they are in effect, from the clock after their write (R136). -/
def calModeOf (v : Word) : Nat := fieldOf v 4 2
def calFocusOf (v : Word) : Nat := fieldOf v 8 6

/-- Whether a bank takes part under a CAL.CTRL word: BANK_EN set, and a MODE that calibrates (R135). -/
def calTakes (v : Word) (b : Nat) : Bool := v.getLsbD b && calModeOf v != 0

def State.calMode (s : State) : Nat := calModeOf s.cal.ctrl
def State.calFocus (s : State) : Nat := calFocusOf s.cal.ctrl
def State.bankEn (s : State) (b : Nat) : Bool := s.cal.ctrl.getLsbD b

/-- The banks of the channel that bank b serves (R111). -/
def State.chanGroup (s : State) (b : Nat) : List Nat :=
  (List.range 4).filter (fun i => i / s.banksPerCh == b / s.banksPerCh)

/-- The first bank of each channel. -/
def State.leadBanks (s : State) : List Nat := (List.range 4).filter (fun b => b % s.banksPerCh == 0)

/-- Starts a visit to a slice of a bank (R134): SETTLE, with LOOP as it stands. -/
def State.startVisit (s : State) (b slice : Nat) : State :=
  let x := s.calBank b
  s.setCalBank b { x with phase := if slice = 64 then .self else .settle, slice := slice, capturing := false,
                          capWait := false, loop := s.reg Reg.CAL_LOOP, est := none, ended := false, capAt := none }

/-- Starts a sweep, or a FOCUS run, of a bank: its self visit (R133, R135). -/
def State.startSweep (s : State) (b : Nat) : State :=
  let s := s.setCalBank b { s.calBank b with skewSq := [], clean := true, due := false }
  (s.setBit (bitFld Reg.CAL_STATUS b) true).startVisit b 64

/-- Ends calibration of a bank: OFF, or GAP where the bank waits for its next sweep. -/
def State.idleBank (s : State) (b : Nat) (phase : CalPhase) : State :=
  (s.setBit (bitFld Reg.CAL_STATUS b) false).setCalBank b
    { s.calBank b with phase := phase, capturing := false, capWait := false, est := none, ended := false, capAt := none }

/-- Whether a bank has a visit in progress. -/
def CalBank.visiting (x : CalBank) : Bool := x.phase != .off && x.phase != .gap && !x.ended

/-- Whether a bank's sweep or FOCUS run goes on. -/
def CalBank.busy (x : CalBank) : Bool := x.phase != .off && x.phase != .gap

/-- Abandons the visit in progress on a bank: the estimates are discarded, a SKIP entry with reason ABORTED is queued,
the sweep is not clean (R136, R139, R140). -/
def State.abortVisit (s : State) (b : Nat) : State :=
  if (s.calBank b).visiting then
    let s1 := (s.pushMon b (s.calBank b).slice 6 4).hwSet F.CAL_EVENTS_ABORTED
    s1.setCalBank b { s1.calBank b with clean := false, capturing := false, capWait := false, est := none }
  else s

/-- Whether the slice clocks run from the SPLL's outputs: no sweep starts while a relock gates them (R140). -/
def State.slicesRun (s : State) : Bool := !s.bit (F.CLK_PLL_STATUS_GATED 0)

/-- Starts a sweep on the banks of a channel that take part, in one clock, unless one of them is in a sweep (R135). -/
def State.startGroup (s : State) (lead : Nat) : State :=
  let banks := (s.chanGroup lead).filter (fun b => calTakes s.cal.ctrl b)
  if s.slicesRun && banks.all (fun b => !(s.calBank b).busy) then banks.foldl State.startSweep s else s

/-- What a change of MODE, BANK_EN or FOCUS does to one bank (R136): a visit on a bank it removes, or whose visited slice it
changes, is abandoned. A sweep goes on from PERIODIC to SINGLE and back. A FOCUS run begins with its self visit. -/
def State.calRetarget (s : State) (old : Word) (b : Nat) : State :=
  let mode := s.calMode
  let x := s.calBank b
  if !calTakes s.cal.ctrl b then (s.abortVisit b).idleBank b .off
  else if !calTakes old b then
    let s := s.idleBank b .gap
    if mode = 3 && s.slicesRun then s.startSweep b else s
  else if mode = calModeOf old then
    if mode = 3 && s.calFocus != calFocusOf old && x.visiting && x.phase != .self then
      (s.abortVisit b).startVisit b s.calFocus
    else s
  else if x.phase == .self && mode != 2 then s
  else if mode = 3 then
    let s := (s.abortVisit b).idleBank b .gap
    if s.slicesRun then s.startSweep b else s
  else if calModeOf old = 3 then (s.abortVisit b).idleBank b .gap
  else s

/-- Whether bank b begins to take part in PERIODIC calibration. -/
def State.freshPeriodic (s : State) (old : Word) (b : Nat) : Bool :=
  calTakes s.cal.ctrl b && !(calTakes old b && calModeOf old == 1)

/-- CAL.CTRL as written takes effect (R136). The banks of a channel that begin PERIODIC calibration together start their first
sweep; one that joins others waits for the channel's next start (R135). -/
def State.ctrlTakes (s : State) : State :=
  let old := s.cal.ctrl
  let v := s.reg Reg.CAL_CTRL
  if v = old then s
  else
    let s : State := { s with cal := { s.cal with ctrl := v } }
    if !s.operational then s
    else
      let s := (List.range 4).foldl (fun s b => s.calRetarget old b) s
      if s.calMode = 1 then
        s.leadBanks.foldl (fun s lead =>
          if (s.chanGroup lead).all (fun b => !calTakes v b || s.freshPeriodic old b) then s.startGroup lead else s) s
      else s

/-- A visit that ended in the clock before is followed by the next visit of the sweep or run, or by GAP (R133, R134, R135). -/
def State.visitFollows (s : State) (b : Nat) : State :=
  let x := s.calBank b
  if !x.ended then s
  else if s.calMode = 3 then s.startVisit b s.calFocus
  else if x.slice = 63 then s.idleBank b .gap
  else s.startVisit b (if x.slice = 64 then 0 else x.slice + 1)

/-- Starts the sweep of every bank that takes part in SINGLE mode, unless one is in progress (R135, R136). -/
def State.singleSweep (s : State) : State :=
  if s.calMode = 2 && s.getF F.CAL_STATUS_SWEEPING == 0 then s.leadBanks.foldl State.startGroup s else s

/-- Calibration at the start of a fabric clock: the coefficients and CAL.CTRL set in the clock before take effect, the next
visits begin, and with them the sweeps that are due (R134, R135, R136). -/
def State.calTick (s : State) : State :=
  let s := s.coefsTake.ctrlTakes
  let s := (List.range 4).foldl State.visitFollows s
  let s := if s.cal.startReq then ({ s with cal := { s.cal with startReq := false } } : State).singleSweep else s
  if s.operational && s.calMode == 1 then
    s.leadBanks.foldl (fun s lead =>
      if (s.chanGroup lead).any (fun b => calTakes s.cal.ctrl b && (s.calBank b).due) then s.startGroup lead else s) s
  else s

/-- A write of 1 to CAL.CTRL.START: a SINGLE sweep; with a MODE written in the same clock it waits for that MODE (R135,
R136). -/
def State.calStartSweep (s : State) : State :=
  if s.calMode = 2 then s.singleSweep else { s with cal := { s.cal with startReq := true } }

/-- A write of CAL.CTRL: MODE, BANK_EN and FOCUS take effect in the next clock (R136). -/
def State.calCtrl (s : State) (v : Word) : State :=
  let s := s.storeReg Reg.CAL_CTRL v
  if v.getLsbD 14 then s.calStartSweep else s

/-- CAL_CTRL_WRITE (R136). -/
def execCalCtrlWrite (v : Word) (s : State) : Result :=
  .next (s.hostWrite Reg.CAL_CTRL v (fun s => s.calCtrl v))

/-- CAL_START (R135). -/
def execCalStart (s : State) : Result :=
  .next (s.hostWrite Reg.CAL_CTRL 0x4000 State.calStartSweep)

/-- SWEEP_PERIOD_EXPIRY: a new sweep in PERIODIC mode; a sweep that outlasts the period is followed at once (R135). -/
def execSweepPeriodExpiry (s : State) : Result :=
  .next (if s.operational && s.calMode == 1 && s.slicesRun then
    s.leadBanks.foldl (fun s lead =>
      let banks := (s.chanGroup lead).filter (fun b => calTakes s.cal.ctrl b)
      if banks.any (fun b => (s.calBank b).busy) then
        banks.foldl (fun s b => s.setCalBank b { s.calBank b with due := true }) s
      else s.startGroup lead) s
  else s)

/-- The capture of a visit begins (R134). -/
def State.beginCapture (s : State) (b : Nat) : State :=
  let x := s.calBank b
  s.setCalBank b { x with capturing := true, capWait := false, phase := if x.slice = 64 then .self else .capture }

/-- CAPTURE_START: the capture begins, or waits for an injected conversion (R134, R151). -/
def execCaptureStart (b : Fin 4) (s : State) : Result :=
  .next (
    let x := s.calBank b
    if (x.phase == .settle || x.phase == .self) && !x.capturing && !x.ended then
      if x.inj.isSome then s.setCalBank b { x with capWait := true }
      else
        let s := s.beginCapture b
        s.setCalBank b { s.calBank b with capAt := some s.time.clk }
    else s)

/-- CAPTURE_END: the blocks are captured; UPDATE begins with the estimates (R134, R137). -/
def execCaptureEnd (b : Fin 4) (est : VisitEst) (s : State) : Result :=
  .next (
    let x := s.calBank b
    if x.capturing && x.est.isNone then
      s.setCalBank b { x with est := some est, phase := if x.slice = 64 then .self else .update }
    else s)

/-- The coefficients of the visited slice after a visit, and whether one reached its clamp (R137, R138, R139). `term` is
the bank term folded into D (R141). -/
def updatedCoef (c : Coef) (e : VisitEst) (mu : Nat) (selfVisit quiet : Bool) (term spacing : Rat) : Coef × Bool :=
  let c1 := { c with offset := clampInt (-32768) 32767 (moveCoef c.offset e.offset mu) }
  if selfVisit then
    let g := moveCoef c.gain ((e.gain : Rat) / 8) mu
    let g' := clampInt 0x18000 0x28000 g
    ({ c1 with gain := g' }, g' != g || g' == 0x18000 || g' == 0x28000)
  else if quiet then
    let c2 := c1.withD (c.d + term) spacing
    (c2, term != 0 && (c2.trim == 2000 || c2.trim == -2000))
  else
    let g' := clampInt 0x18000 0x28000 (moveCoef c.gain ((e.gain : Rat) / 8) mu)
    let c2 := { c1 with gain := g', taps := (List.zip c.taps e.taps).map (fun (p : Int × Int) =>
      clampInt (-131072) 131071 (moveCoef p.1 p.2 mu)) }
    let c3 := c2.withD (c.d + (e.skew : Rat) / 8 / 2 ^ mu + term) spacing
    (c3, g' == 0x18000 || g' == 0x28000 || c3.trim == 2000 || c3.trim == -2000)

/-- The monitor entries and the coefficients of a completed visit (R137 to R141, R145). DESIGN CHOICE (log 145): an OFFSET or GAIN
residual beyond 16 bits saturates in its entry's VALUE as SKEW does (R144), and an rms of 65,536 or more shows its low 16 bits. -/
def State.applyVisit (s : State) (b : Nat) (e : VisitEst) : State :=
  let x := s.calBank b
  let blocks := calBlocks x.loop
  let self := x.slice == 64
  let quiet := !self && decide (e.rmsDiff < fieldOf x.loop 16 16)
  let allOver := decide (blocks ≤ e.overBlocks)
  let term : Int := sparseGet (fun _ => 0) x.term x.slice
  let (c, limit) := updatedCoef (s.coef b x.slice) e (calMu x.loop) self quiet ((term : Rat) / 8) s.spacingFs
  let s := if allOver then s else s.setCoef b x.slice c
  let s := if allOver then s else s.pushMon b x.slice 0 (toBitsInt 16 (clampInt (-32768) 32767 e.offset))
  let s := if allOver || quiet then s else s.pushMon b x.slice 1 (toBitsInt 16 (clampInt (-32768) 32767 e.gain))
  let s := if allOver || quiet || self then s
    else (s.pushMon b x.slice 2 (toBitsInt 16 (clampInt (-32767) 32767 e.skew))).pushMon b x.slice 3
      (rmsOpen ((((e.taps.map (fun t => t * t)).foldl (· + ·) 0 : Int) : Rat) / 8))
  let s := if e.overBlocks = 0 then s else s.pushMon b x.slice 6 2
  let s := if quiet && !allOver then s.pushMon b x.slice 6 1 else s
  let s := if limit && !allOver then (s.pushMon b x.slice 6 3).hwSet F.CAL_EVENTS_LIMIT else s
  let used := !allOver && !quiet && !self
  s.setCalBank b { s.calBank b with
    clean := x.clean && e.overBlocks == 0 && !quiet
    skewSq := if used then x.skewSq ++ [e.skew * e.skew] else x.skewSq
    term := if allOver || self then x.term else sparseSet (fun _ => 0) x.term x.slice 0
    est := none }

/-- The sum of the squared skew residuals of a sweep and their number. -/
def sweepSkew (l : List Int) : Rat := if l.isEmpty then 0 else ((l.foldl (· + ·) 0 : Int) : Rat) / l.length

/-- The terms that the merged channel gives its banks but the first, in their order (R141): reported, and folded into D of
every slice of the bank at its next visit. -/
def State.foldTerms (s : State) (b : Nat) (terms : List Int) : State :=
  (List.zip ((s.chanGroup b).drop 1) terms).foldl (fun s q =>
    let s := s.pushMon q.1 65 2 (toBitsInt 16 (clampInt (-32767) 32767 q.2))
    let x := s.calBank q.1
    s.setCalBank q.1 { x with
      term := (List.range 64).foldl (fun m i => sparseSet (fun _ => 0) m i (sparseGet (fun _ => 0) m i + q.2)) x.term }) s

/-- The end of a bank's sweep (R135, R141, R143): CONVERGED is judged, the count and the SWEEP_DONE entry follow, and with the
last of the channel's banks come the bank terms. Under a period of 0 the next sweep is due. -/
def State.endSweep (s : State) (b : Nat) (terms : List Int) : State :=
  let x := s.calBank b
  let conv := x.clean && decide (sweepSkew x.skewSq ≤ 64 * 64)
  let f := bitFld Reg.CAL_STATUS (4 + b)
  let s := if s.bit f && !conv then s.hwSet F.CAL_EVENTS_CONV_LOST else s
  let s := s.setBit f conv
  let s := s.setF ⟨Reg.CAL_SWEEP_COUNT, 8 * b, 8⟩ (s.getF ⟨Reg.CAL_SWEEP_COUNT, 8 * b, 8⟩ + 1)
  let s := (s.pushMon b 0 5 (rmsOpen (sweepSkew x.skewSq))).hwSet F.CAL_EVENTS_SWEEP_DONE
  let last := (s.chanGroup b).all (fun i =>
    i == b || !s.bit (bitFld Reg.CAL_STATUS i) || ((s.calBank i).ended && (s.calBank i).slice == 63))
  let s := if last then s.foldTerms b terms else s
  if s.getF ⟨Reg.CAL_SWEEP_PERIOD, 0, 16⟩ = 0 then s.setCalBank b { s.calBank b with due := true } else s

/-- VISIT_END: the last clock of UPDATE. The entries are queued, the coefficients take effect with the next clock, in which the
next visit begins; the visit of S63 ends the sweep (R133, R134, R135). `terms` are the bank terms that the merged channel
gives. -/
def execVisitEnd (b : Fin 4) (terms : List Int) (s : State) : Result :=
  .next (match (s.calBank b).est with
    | none => s
    | some e =>
      let s := s.applyVisit b e
      let s := if (s.calBank b).slice = 63 && s.calMode != 3 then s.endSweep b terms else s
      s.setCalBank b { s.calBank b with capturing := false, ended := true })

/-- The phases of R150 in which a request finds the selvedge slice capturing: in a self visit up to its last clock. -/
def CalBank.capturingNow (x : CalBank) : Bool := x.phase == .capture || (x.phase == .self && (x.capturing || x.ended))

/-- A request for an injected conversion: PENDING, or dropped and counted (R148, R150). A capture that CAPTURE_START began in
this clock waits for it (R151). -/
def State.inject (s : State) (b source : Nat) : State :=
  let x := s.calBank b
  let drop (s : State) (code : Nat) : State :=
    ((s.setF (F.CAL_INJ_OUTCOME b) code).rclAdd Reg.CAL_INJ_DROPPED 1).hwSet F.CAL_EVENTS_INJ_DROP
  let sameClock := x.capAt == some s.time.clk
  if (x.capturingNow && !sameClock) || x.inj.isSome then drop s 2
  else if 22 ≤ source then drop s 3
  else
    let x1 := if sameClock then
      { x with capturing := false, capWait := true, capAt := none, phase := if x.slice = 64 then .self else .settle } else x
    (s.setF (F.CAL_INJ_OUTCOME b) 1).setCalBank b { x1 with inj := some (source, false) }

/-- INJ (R148). -/
def execInj (v : Word) (s : State) : Result :=
  .next (s.hostWrite Reg.CAL_INJ v (fun s => if v.getLsbD 31 then s.inject (fieldOf v 8 2) (fieldOf v 0 5) else s))

/-- INJ_RUNNING: the 64 clocks of PENDING end (R148). -/
def execInjRunning (b : Fin 4) (s : State) : Result :=
  .next (match (s.calBank b).inj with
    | some (src, false) => s.setCalBank b { s.calBank b with inj := some (src, true) }
    | _ => s)

/-- INJ_DONE: the MONITOR entry is queued, and a capture that waited begins (R148, R151). -/
def execInjDone (b : Fin 4) (reading : BitVec 16) (s : State) : Result :=
  .next (match (s.calBank b).inj with
    | some (src, true) =>
      let s := (s.pushMon b src 4 reading.toNat).setCalBank b { s.calBank b with inj := none }
      if (s.calBank b).capWait then s.beginCapture b else s
    | _ => s)

/-- The shadows of CAL.COEF_* for the selected slice (R152). -/
def State.loadCoefShadow (s : State) : State :=
  let b := s.getF F.CAL_SEL_BANK
  let sl := s.getF F.CAL_SEL_SLICE
  let c := if sl = 64 then { s.coef b 64 with delay := 0, taps := Coef.neutral.taps }
    else if sl < 64 then s.coef b sl else { offset := 0, gain := 0, d := 0, delay := 0, trim := 0, taps := [] }
  s.setRegs ([(Reg.CAL_COEF_OFFSET, BitVec.ofNat 32 (toBitsInt 16 c.offset)),
    (Reg.CAL_COEF_GAIN, BitVec.ofNat 32 (toBitsInt 18 c.gain)),
    (Reg.CAL_COEF_DELAY, BitVec.ofNat 32 (toBitsInt 16 c.delay)),
    (Reg.CAL_COEF_TRIM, BitVec.ofNat 32 (toBitsInt 12 c.trim))] ++
    (List.range 8).map (fun i => (Reg.CAL_COEF_H i, BitVec.ofNat 32 (toBitsInt 18 (c.taps.getD i 0)))))

/-- CAL_SEL (R152). -/
def execCalSel (v : Word) (s : State) : Result :=
  .next (s.hostWrite Reg.CAL_SEL v (fun s => (s.storeReg Reg.CAL_SEL v).loadCoefShadow))

/-- The coefficients that the shadow set commits (R116, R138, R153). -/
def State.shadowCoef (s : State) : Coef :=
  let trim := clampInt (-2000) 2000 (ofBitsInt 12 (s.reg Reg.CAL_COEF_TRIM).toNat)
  let delay := ofBitsInt 16 (s.reg Reg.CAL_COEF_DELAY).toNat
  { offset := ofBitsInt 16 (s.reg Reg.CAL_COEF_OFFSET).toNat
    gain := clampInt 0x18000 0x28000 (fieldOf (s.reg Reg.CAL_COEF_GAIN) 0 18 : Nat)
    d := 10 * trim + delay * s.spacingFs / 2 ^ 20
    delay := delay
    trim := trim
    taps := (List.range 8).map (fun i => ofBitsInt 18 (s.reg (Reg.CAL_COEF_H i)).toNat) }

/-- A write of 1 to COEF_COMMIT.GO (R153). -/
def State.coefCommit (s : State) : State :=
  if s.bankEn (s.getF F.CAL_SEL_BANK) || 64 ≤ s.getF F.CAL_SEL_SLICE then s.hwSet F.CAL_EVENTS_COEF_BUSY
  else s.setCoef (s.getF F.CAL_SEL_BANK) (s.getF F.CAL_SEL_SLICE) s.shadowCoef

/-- COEF_COMMIT (R153). -/
def execCoefCommit (s : State) : Result :=
  .next (s.hostWrite Reg.CAL_COEF_COMMIT 1 State.coefCommit)

/-- A relock of the sampling PLL begins: every visit is abandoned, no sweep is due, and CONVERGED clears (R140, R143). -/
def State.calRelock (s : State) : State :=
  (List.range 4).foldl (fun s b =>
    let s := if calTakes s.cal.ctrl b then (s.abortVisit b).idleBank b .gap else s
    let s := s.setCalBank b { s.calBank b with due := false }
    let f := bitFld Reg.CAL_STATUS (4 + b)
    if s.bit f then (s.setBit f false).hwSet F.CAL_EVENTS_CONV_LOST else s) s

/-- Calibration goes on at its next start point (R135, R140): FOCUS runs begin again, sweeps that run back to back are due. -/
def State.calResume (s : State) : State :=
  (List.range 4).foldl (fun s b =>
    if !s.operational || !calTakes s.cal.ctrl b || (s.calBank b).busy then s
    else if s.calMode = 3 then s.startSweep b
    else if s.calMode = 1 && s.getF ⟨Reg.CAL_SWEEP_PERIOD, 0, 16⟩ == 0 then s.setCalBank b { s.calBank b with due := true }
    else s) s

/-- A restart of the dividers abandons the visits in progress (R139, R166). -/
def State.calRestart (s : State) : State :=
  ((List.range 4).foldl (fun s b => if calTakes s.cal.ctrl b then (s.abortVisit b).idleBank b .gap else s) s).calResume

/-- The outputs run again (R140): every DELAY is computed anew from D at the new sample spacing, TRIM is kept. -/
def State.calReopen (s : State) : State :=
  let sp := s.spacingFs
  let s : State := { s with cal := { s.cal with coming := s.cal.coming.map (fun q => (q.1, q.2.atSpacing sp)) } }
  let s := s.cal.coefs.foldl (fun t p => t.putCoef p.1 (p.2.atSpacing sp)) s
  s.calResume

/-- Calibration stops without a record on entry to a state in which it does not run (R135). DESIGN CHOICE (log 118): an
injected conversion in progress stops with it. -/
def State.calHalt (s : State) : State :=
  (List.range 4).foldl (fun s b =>
    (s.setBit (bitFld Reg.CAL_STATUS b) false).setCalBank b { CalBank.init with term := (s.calBank b).term }) s

end Sys2Proof.Machine
end

