-- ==== Sys2Proof/Machine/Image.lean ====
section
/-! DEFINITION. The draft image: its layout, its sections and the checks of R48
(spec/02_draft_image.md R42 to R52, R63 to R65, and the chapter that owns each section). -/

namespace Sys2Proof.Machine

/-- A section-table entry (R43). -/
structure Section where
  index : Nat
  type : Nat
  sflags : Nat
  off : Nat
  len : Nat
  crc : Nat
deriving DecidableEq, Repr

/-- What the checks compare an image with. -/
structure Verifier where
  compat : Bool
  step : BitVec 16
  serial : BitVec 64
  keyHash : BitVec 256
  signedOnly : Bool
deriving DecidableEq, Repr

/-- FORMAT, IMAGE_LEN and SECTION_COUNT of a header (R42). -/
def imageFormat (img : List Byte) : Nat := fieldLe img 4 2
def imageLen (img : List Byte) : Nat := fieldLe img 8 4
def imageCount (img : List Byte) : Nat := fieldLe img 0x14 2

/-- FLAGS.SIGNED (R42). -/
def imageSigned (img : List Byte) : Bool := (fieldLe img 0x16 2).testBit 0

/-- The longest image, in bytes. -/
def maxImage : Nat := 4194304

/-- The bytes of the trailer (R46, R64). -/
def trailerLen (img : List Byte) : Nat := if imageFormat img = 2 then 4 else if imageSigned img then 288 else 32

/-- The section table of an image. -/
def imageSections (img : List Byte) : List Section :=
  (List.range (min 64 (imageCount img))).map (fun i =>
    let o := 0x40 + 16 * i
    { index := i, type := fieldLe img o 2, sflags := fieldLe img (o + 2) 2, off := fieldLe img (o + 4) 4,
      len := fieldLe img (o + 8) 4, crc := fieldLe img (o + 12) 4 })

/-- The bytes of a section. -/
def sectionBytes (img : List Byte) (x : Section) : List Byte := sliceBytes img x.off x.len

/-- The contents of the section of a type; none when it is absent. -/
def imageSection (img : List Byte) (type : Nat) : Option (List Byte) :=
  ((imageSections img).find? (fun x => x.type == type)).map (sectionBytes img)

/-- SHA-256 of the image (R46), or of all of a format-2 image (R64). -/
def imageDigest (img : List Byte) : List Byte :=
  let n := imageLen img
  sha256 (sliceBytes img 0 (if imageFormat img = 2 then n else n - trailerLen img))

/-- The bytes of the signature block. -/
def signBlock (img : List Byte) : List Byte := sliceBytes img (imageLen img - 256) 256

/-- The layout of the signature block (R46). -/
def signBlockOk (b : List Byte) : Bool :=
  sliceBytes b 0 4 == [0x53, 0x49, 0x47, 0x4E] && fieldLe b 4 1 == 4 && fieldLe b 0x65 3 == 0 && fieldLe b 0xC8 56 == 0

/-- Whether sections overlap no other and lie between the table and the trailer (R43). -/
def sectionsPlaced (img : List Byte) : Bool :=
  let l := imageSections img
  let lo := 0x40 + 16 * imageCount img
  let hi := imageLen img - trailerLen img
  l.all (fun x => x.off % 16 == 0 && x.len % 4 == 0 && x.len != 0 && decide (lo ≤ x.off ∧ x.off + x.len ≤ hi)) &&
    l.all (fun x => l.all (fun y => x.index == y.index || decide (x.off + x.len ≤ y.off ∨ y.off + y.len ≤ x.off)))

/-- Check 7 of R48. -/
def layoutOk (img : List Byte) : Bool :=
  let n := imageLen img
  fieldLe img 6 2 == 64 && fieldLe img 0x30 12 == 0 && fieldLe img 0x16 2 < 2 &&
    (imageSections img).all (fun x => x.sflags < 2) && !(imageFormat img == 2 && imageSigned img) &&
    decide (n % 16 = 0 ∧ n ≤ maxImage ∧ 0x40 + 16 * imageCount img + trailerLen img ≤ n) &&
    decide (1 ≤ imageCount img ∧ imageCount img ≤ 64) && sectionsPlaced img &&
    (!imageSigned img || signBlockOk (signBlock img))

/-- Check 8 of R48. -/
def digestOk (img : List Byte) : Bool :=
  let n := imageLen img
  if imageFormat img = 2 then fieldLe img (n - 4) 4 == (crc32 (sliceBytes img 0 (n - 4))).toNat
  else sliceBytes img (n - trailerLen img) 32 == imageDigest img

/-- Whether the fused key hash is programmed and matches PUBKEY (R48, check 10). DEDUCED (log 60): byte 0 of the hash lies in the
lowest byte of KEY_HASH0 and of FUSE_STAGE0, as the table of DRAFT's registers
places the bytes of DIGEST. -/
def keyMatches (v : Verifier) (img : List Byte) : Bool :=
  v.keyHash != 0 && sha256 (sliceBytes (signBlock img) 4 97) == leBytes 32 v.keyHash.toNat

/-- Check 11 of R48. -/
def signatureOk (img : List Byte) : Bool :=
  let b := signBlock img
  ecdsaVerify (beNat (sliceBytes b 5 48)) (beNat (sliceBytes b 53 48)) (beNat (imageDigest img))
    (beNat (sliceBytes b 0x68 48)) (beNat (sliceBytes b 0x98 48))

/-- The ports that an image makes exist: stream, display, tenon (R44). -/
def imagePorts (img : List Byte) : Bool × Bool × Bool :=
  match imageSection img 5 with
  | some b => (Config.portsOf b).getD (false, false, false)
  | none => (false, false, false)

/-- Whether PAIR_POLICY MODE is PAIRED (R386). -/
def imagePaired (img : List Byte) : Bool :=
  match imageSection img 8 with
  | some b => fieldLe b 0 1 == 1
  | none => false

/-- The masks of the outputs in force, by PLL (R158). -/
def imageMasks (img : List Byte) : List Nat :=
  let (stream, disp, tenon) := imagePorts img
  match imageSection img 6 with
  | some b => (List.range 5).map (fun p => fieldLe b (2 * p) 2)
  | none => [0x0F + 32 * b2n (imagePaired img), 1, 3, b2n disp, 1 + 2 * b2n stream + 4 * b2n tenon + 8 * b2n disp]

/-- SAMPLE_SRC and the slice rate after RESET (R158). -/
def imageSclk (img : List Byte) : Bool :=
  match imageSection img 6 with
  | some b => fieldLe b 10 1 == 1
  | none => false

def imageRate (img : List Byte) : Nat :=
  match imageSection img 6 with
  | some b => if fieldLe b 12 4 = 0 then 25000 else fieldLe b 12 4
  | none => 25000

/-- The permitted contents of MODE (R115). -/
def modeContents : List (List Byte) := [[0, 0x0F, 0, 0, 0, 1, 2, 3], [1, 5, 0, 0, 0, 0, 2, 2], [2, 1, 0, 0, 0, 0, 0, 0]]

/-- The stage kinds of lane l in a LANES section, and its profile (R203). -/
def laneKinds (b : List Byte) (l : Nat) : List Nat :=
  (List.range (fieldLe b (8 * l + 1) 1)).map (fun i => fieldLe b (8 * l + 2 + i) 1)

def laneProfile (b : List Byte) (l : Nat) : Nat := fieldLe b (8 * l) 1

/-- Whether the entry of one lane is permitted (R203). -/
def laneEntryOk (b : List Byte) (l : Nat) : Bool :=
  let n := fieldLe b (8 * l + 1) 1
  let ks := laneKinds b l
  let last := n - 1
  n ≤ 6 && ks.all (fun k => 1 ≤ k && k ≤ 7) &&
    (List.range 6).all (fun i => i < n || fieldLe b (8 * l + 2 + i) 1 == 0) &&
    (List.range 8).all (fun k => k == 1 || ks.count k ≤ 1) && !(ks.contains 2 && ks.contains 7) &&
    (List.range n).all (fun i => i == last || !(ks.getD i 0 == 5 || ks.getD i 0 == 6))

/-- The content of LANES (R203). -/
def lanesOk (b : List Byte) : Bool :=
  b.length == 512 && (List.range 64).all (laneEntryOk b) &&
    (List.range 64).all (fun l => (List.range l).all (fun m =>
      laneProfile b l != laneProfile b m || laneKinds b l == laneKinds b m))

/-- The content of PLL_OUTPUTS beside the ports (R158). -/
def pllOutputsOk (img b : List Byte) : Bool :=
  let (stream, disp, tenon) := imagePorts img
  let m (p : Nat) : Nat := fieldLe b (2 * p) 2
  let rate := fieldLe b 12 4
  b.length == 16 && m 0 % 16 == 15 && m 0 < 64 && m 1 == 1 && m 2 == 3 && m 3 < 2 && m 4 < 16 && m 4 % 2 == 1 &&
    fieldLe b 10 1 < 2 && fieldLe b 11 1 == 0 && (rate == 0 || decide (16000 ≤ rate ∧ rate ≤ 25000)) &&
    ((m 4).testBit 1 == stream) && ((m 4).testBit 2 == tenon) && ((m 4).testBit 3 == disp) && (!disp || m 3 == 1)

/-- The content of PAIR_POLICY (R386). -/
def pairPolicyOk (img b : List Byte) : Bool :=
  let q := fieldLe b 4 4
  b.length == 8 && fieldLe b 0 1 < 2 && fieldLe b 1 1 < 2 && fieldLe b 2 2 == 0 && decide (65536 ≤ q ∧ q ≤ 16777216) &&
    (fieldLe b 0 1 == 0 ||
      ((imagePorts img).2.2 && ((imageMasks img).getD 0 0).testBit 5 && ((imageMasks img).getD 4 0).testBit 2))

/-- The holdoff unit that a CONTEXTS section gives context c (R65). -/
def sectionHoldoffUnit (b : List Byte) (c : Nat) : Nat :=
  let f := F.CTX_HOLDOFF_HI_UNIT 0
  fieldOf (BitVec.ofNat 32 (fieldLe b (256 * c + (f.off - ctxBase 0)) 4)) f.lo f.w

/-- The content of a section of known type (R48, check 16; R65). -/
def contentOk (v : Verifier) (img : List Byte) (x : Section) : Bool :=
  let b := sectionBytes img x
  match x.type with
  | 1 => modeContents.contains b
  | 2 => lanesOk b
  | 3 => b.length == 16 && b.all (fun p => p.toNat < 16 || p == 0xFF)
  | 4 => b.length == 4 && fieldLe b 0 1 < 3 && fieldLe b 1 1 < 3 && fieldLe b 2 2 == 0
  | 5 => match Config.portsOf b with
    | some p => !(v.compat && p.1)
    | none => false
  | 6 => pllOutputsOk img b
  | 7 => b.length == 4 && fieldLe b 0 4 < 2
  | 8 => pairPolicyOk img b
  | 9 => b.length == 65536 || b.length == 131072
  | 10 =>
    b.length % 256 == 0 && decide (1 ≤ b.length / 256 ∧ b.length / 256 ≤ 1024) &&
      (!v.compat || (List.range (b.length / 256)).all (fun c => sectionHoldoffUnit b c == 0))
  | 11 => decide (8 ≤ b.length) && (fieldLe b 0 8 != v.serial.toNat || (Config.factoryTables (b.drop 8)).isSome)
  | _ => true

/-- Whether a section type is known (R44). -/
def knownType (t : Nat) : Bool := decide (1 ≤ t ∧ t ≤ 11)

/-- The index of the first section that fails a test. -/
def firstBad (l : List Section) (bad : Section → Bool) : Option Nat := (l.find? bad).map (·.index)

/-- Whether a signature is checked: one is present, and the fuses name a key (R50, R51). -/
def signatureChecked (v : Verifier) (img : List Byte) : Bool := imageSigned img && v.keyHash != 0

/-- Checks 12 to 16 of R48: the refusal code and FAIL_SECTION. -/
def verifySections (v : Verifier) (img : List Byte) : Nat × Nat :=
  let l := imageSections img
  match firstBad l (fun x => (crc32 (sectionBytes img x)).toNat != x.crc) with
  | some i => (0x0C, i)
  | none =>
    match [1, 2, 3, 4].find? (fun t => !l.any (fun x => x.type == t)) with
    | some t => (0x0D, t)
    | none =>
      match firstBad l (fun x => l.any (fun y => y.type == x.type && decide (y.index < x.index))) with
      | some i => (0x0E, i)
      | none =>
        match firstBad l (fun x => !knownType x.type && x.sflags.testBit 0) with
        | some i => (0x0F, i)
        | none =>
          match firstBad l (fun x => !contentOk v img x) with
          | some i => (0x10, i)
          | none => (0, 0)

/-- The verification of an image: the refusal code, 0 for none, and FAIL_SECTION (R48, R49, R51, R64). -/
def verifyImage (v : Verifier) (img : List Byte) : Nat × Nat :=
  let head := sliceBytes img 0 64
  let stepOf (o : Nat) : Nat := beNat (sliceBytes img o 2)
  if head.all (· == 0xFF) || head.all (· == 0) then (1, 0)
  else if fieldLe img 0 4 ≠ 0x54465244 then (2, 0)
  else if fieldLe img 0x3C 4 ≠ (crc32 (sliceBytes img 0 0x3C)).toNat then (3, 0)
  else if imageFormat img ≠ 3 ∧ ¬ (imageFormat img = 2 ∧ v.compat) then (4, 0)
  else if fieldLe img 0xC 4 ≠ 0x53486404 then (5, 0)
  else if v.step.toNat < stepOf 0x10 ∨ stepOf 0x12 < v.step.toNat then (6, 0)
  else if !layoutOk img then (7, 0)
  else if !digestOk img then (8, 0)
  else if v.signedOnly && !imageSigned img then (9, 0)
  else if imageSigned img && (v.keyHash != 0 || v.signedOnly) && !keyMatches v img then (0xA, 0)
  else if signatureChecked v img && !signatureOk img then (0xB, 0)
  else verifySections v img

/-- The order of a pseudo-channel's local address, as column, bank and row (spec/11_memory_and_shuttle.md R281). -/
def hbmDecode (order a : Nat) : Nat × Nat × Nat :=
  match order with
  | 0 => (a / 32 % 32, a / 1024 % 48, a / 49152)
  | 1 => (a / 32 % 32, a / 16777216, a / 1024 % 16384)
  | _ => (a / 1536 % 32, a / 32 % 48, a / 49152)

/-- The address order of a stack, as the image in force gives it (R281). -/
def State.hbmOrder (s : State) (stack : Nat) : Nat :=
  match imageSection s.draft.image 4 with
  | some b => fieldLe b stack 1
  | none => 0

end Sys2Proof.Machine
end

