-- ==== Sys2Proof/Machine/Stages.lean ====
section
/-! DEFINITION. What the correction stage and a lane's stages do to samples (spec/04_converter_banks.md R116 to R122,
spec/08_decimation_lanes.md R202 to R217): pure functions of the samples and the parameters. -/

namespace Sys2Proof.Machine

/-- A sample on its way through a lane: its number in its stage's output (absolute index for a channel sample, R205), its
uncorrected instant in channel samples (R216), the absolute index of the newest channel sample it uses (R221), its
container value, and the marks it carries. -/
structure LaneSample where
  idx : Int
  at' : Rat
  newest : Nat
  w : Int
  ovr : Bool
  sat : Bool
  skip : Bool
  clamp : Bool
deriving DecidableEq, Repr

/-- Saturation to the 16-bit container (R204). -/
def sat16 (n : Int) : Int := clampInt (-32768) 32767 n

/-- n / 2^k rounded half upward. -/
def roundShift (n : Int) (k : Nat) : Int := (2 * n + 2 ^ k) / (2 * 2 ^ k)

/-- The contiguous runs of n elements of a list, first to last. -/
def runsOf {α : Type} (n : Nat) : List α → List (List α)
  | [] => []
  | x :: t => if n ≤ (x :: t).length then (x :: t).take n :: runsOf n t else []

/-- The marks of a run of samples, joined on the sample the output takes its place from. -/
def joinMarks (place : LaneSample) (run : List LaneSample) (w : Int) : LaneSample :=
  { place with w := sat16 w, ovr := run.any (·.ovr), sat := run.any (·.sat) || sat16 w != w,
               skip := run.any (·.skip), clamp := run.any (·.clamp) }

def insertInt (x : Int) : List Int → List Int
  | [] => [x]
  | y :: t => if x ≤ y then x :: y :: t else y :: insertInt x t

/-- The median of an odd number of values. -/
def medianOf (l : List Int) : Int := ((l.foldr insertInt [])[l.length / 2]?).getD 0

/-- RANK (R208): the median of sample i and the k - 1 before it. -/
def runRank (k : Nat) (xs : List LaneSample) : List LaneSample :=
  (runsOf k xs).map (fun r => joinMarks (r.getLastD ⟨0, 0, 0, 0, false, false, false, false⟩) r (medianOf (r.map (·.w))))

/-- Prefix sums, from 0. -/
def prefixSums (acc : Int) : List Int → List Int
  | [] => [acc]
  | x :: t => acc :: prefixSums (acc + x) t

/-- Sums of the runs of n values. -/
def boxcar (n : Nat) (l : List Int) : List Int :=
  let p := prefixSums 0 l
  (List.zip (p.drop n) p).map (fun q => q.1 - q.2)

/-- n boxcars one after another. -/
def boxcars (len : Nat) : Nat → List Int → List Int
  | 0, l => l
  | n + 1, l => boxcars len n (boxcar len l)

/-- The samples whose number is a multiple of r, renumbered (R205). -/
def onGrid (r : Nat) (xs : List LaneSample) : List LaneSample :=
  (xs.filter (fun x => x.idx % (r : Int) == 0)).map (fun x => { x with idx := x.idx / (r : Int) })

/-- CIC (R209): the comb output is the true sum of N boxcars of R x M, scaled by the GAIN and SHIFT in force at the newest
sample. -/
def runCic (p : LaneSet) (eraOf : Nat → LaneSet) (xs : List LaneSample) : List LaneSample :=
  let len := p.cicR * p.cicM
  let span := p.cicOrder * len
  let sums := boxcars len p.cicOrder (xs.map (·.w))
  let marks (f : LaneSample → Bool) := (boxcar span (xs.map (fun x => (b2n (f x) : Int)))).map (fun n => n != 0)
  let outs := List.zip (xs.drop (span - 1)) (List.zip (sums.drop (p.cicOrder - 1))
    (List.zip (marks (·.ovr)) (marks (·.sat))))
  onGrid p.cicR (outs.map (fun q =>
    let e := eraOf q.1.newest
    let y := roundShift (q.2.1 * e.cicGain) (e.cicShift + 17)
    { q.1 with w := sat16 y, ovr := q.2.2.1, sat := q.2.2.2 || sat16 y != y }))

/-- HIRES (R210). -/
def runHires (l : Nat) (xs : List LaneSample) : List LaneSample :=
  let r := 2 ^ l
  let sums := boxcar r (xs.map (·.w))
  let marks (f : LaneSample → Bool) := (boxcar r (xs.map (fun x => (b2n (f x) : Int)))).map (fun n => n != 0)
  let outs := List.zip (xs.drop (r - 1)) (List.zip sums (List.zip (marks (·.ovr)) (marks (·.sat))))
  onGrid r (outs.map (fun q =>
    { q.1 with w := sat16 ((q.2.1 + r / 2) / r), ovr := q.2.2.1, sat := q.2.2.2 }))

/-- A stored coefficient as a signed number (R211, R212). -/
def coefAt (m : Sparse (BitVec 18)) (i : Nat) : Int := (sparseGet (fun _ => 0) m i).toInt

/-- FIR (R211): symmetric, with the coefficients of the bank in effect at the newest input. -/
def runFir (p : LaneSet) (bankOf : Nat → Sparse (BitVec 18)) (xs : List LaneSample) : List LaneSample :=
  let outs := (runsOf p.firTaps xs).filterMap (fun r =>
    match r.getLast? with
    | none => none
    | some x =>
      let h := bankOf x.newest
      let sum := (List.zip (List.range p.firTaps) r.reverse).foldl (fun a q =>
        a + coefAt h (min q.1 (p.firTaps - 1 - q.1)) * q.2.w) 0
      some (joinMarks x r (roundShift sum 16)))
  onGrid p.firDec outs

/-- The value of the resampler at a position, from the inputs floor(x) - 31 to floor(x), newest first (R212): the two
phases nearest the fraction, joined linearly at a resolution of 2^-32 input sample. -/
def rsValue (h : Sparse (BitVec 18)) (frac : Nat) (newestFirst : List Int) : Int :=
  let p := frac / 2 ^ 24
  let a : Int := frac % 2 ^ 24
  let at' (u : Nat) : Int := if u < 8192 then coefAt h (32 * (u % 256) + u / 256) else 0
  let v (q : Nat) := (List.zip (List.range 32) newestFirst).foldl (fun acc x => acc + at' (256 * x.1 + q) * x.2) 0
  roundShift (v p * (2 ^ 24 - a) + v (p + 1) * a) 40

/-- One resampler output at position `pos` with number `n`, where its 32 inputs are present (R212). -/
def rsOne (cum : Nat) (bankOf : Nat → Sparse (BitVec 18)) (xs : List LaneSample) (g : GridPoint) :
    Option LaneSample :=
  match xs with
  | [] => none
  | x0 :: _ =>
    let fl := g.pos.floor
    let frac := ((g.pos - fl) * 2 ^ 32).floor.toNat
    if fl - 31 < x0.idx then none
    else
      let w := ((xs.drop (fl - 31 - x0.idx).toNat).take 32)
      match w.getLast? with
      | none => none
      | some last =>
        if w.length < 32 then none
        else
          let o := joinMarks last w (rsValue (bankOf last.newest) frac (w.reverse.map (·.w)))
          some { o with idx := g.number, at' := (g.pos + 4095.5 / 256) * cum,
                        skip := g.skipped || o.skip, clamp := g.clamped || o.clamp }

/-- The resampler input sample count of a STEP value in force (R213). -/
def stepOf (e : LaneSet) : Rat := (e.rsStep : Rat) / 2 ^ 32

/-- Positions of STEP mode from a start (R213): each is the previous plus the STEP in force at its newest input. -/
def stepPositions (eraAt : Rat → LaneSet) (stop : Rat) : Nat → Int → Rat → List GridPoint
  | 0, _, _ => []
  | fuel + 1, n, x =>
    if stop < x then []
    else ⟨x, n, false, false⟩ :: stepPositions eraAt stop fuel (n + 1) (x + stepOf (eraAt x))

/-- Positions of RATIONAL mode from the first input on (R213), counted from absolute index zero. -/
def rationalPositions (num den : Nat) (lo hi : Int) : List GridPoint :=
  if num = 0 ∨ den = 0 then []
  else
    let first := (lo * den) / num
    let last := (hi * den) / num + 1
    (List.range (last - first + 1).toNat).map (fun i => ⟨((first + i) * num : Int) / (den : Rat), first + i, false, false⟩)

/-- RESAMP (R212 to R214) over inputs with cumulative ratio `cum`. -/
def runResamp (p : LaneSet) (cum : Nat) (eraOf : Nat → LaneSet) (bankOf : Nat → Sparse (BitVec 18)) (start : Rat)
    (grid : List GridPoint) (xs : List LaneSample) : List LaneSample :=
  match xs, xs.getLast? with
  | x0 :: _, some xn =>
    let pts := match p.rsMode with
      | 0 => rationalPositions p.rsNum p.rsDen x0.idx xn.idx
      | 1 => stepPositions (fun x => eraOf (x * cum).floor.toNat) xn.idx (4 * (xn.idx - start.floor + 1).toNat) 0 start
      | _ => grid
    pts.filterMap (rsOne cum bankOf xs)
  | _, _ => []

/-- Whole intervals of r inputs that begin on the grid (R205, R215). -/
def intervals (r : Nat) (xs : List LaneSample) : List (List LaneSample) :=
  (runsOf r xs).filter (fun l => match l with
    | [] => false
    | x :: _ => x.idx % r == 0)

/-- PEAK (R215): minimum, then maximum, at the interval's first input. -/
def runPeak (r : Nat) (xs : List LaneSample) : List LaneSample :=
  (intervals r xs).flatMap (fun l => match l, l.getLast? with
    | x :: _, some z =>
      let place := { x with newest := z.newest, idx := 2 * (x.idx / r) }
      let ws := l.map (·.w)
      [joinMarks place l (ws.foldl min x.w), joinMarks { place with idx := place.idx + 1 } l (ws.foldl max x.w)]
    | _, _ => [])

/-- ENVELOPE (R215): the largest magnitude, saturated. -/
def runEnvelope (r : Nat) (xs : List LaneSample) : List LaneSample :=
  (intervals r xs).filterMap (fun l => match l, l.getLast? with
    | x :: _, some z =>
      let m := l.foldl (fun (a : Int) y => max a y.w.natAbs) 0
      some { joinMarks { x with newest := z.newest, idx := x.idx / r } l (min m 32767) with sat := l.any (·.sat) || decide (32767 < m) }
    | _, _ => none)

/-- Decimation of a stage (R202); RESAMP counts as 1 (R216). -/
def stageRatio (p : LaneSet) (kind : Nat) : Nat :=
  match kind with
  | 2 => p.cicR | 3 => p.firDec | 5 => p.peak | 6 => p.env | 7 => 2 ^ p.hires | _ => 1

/-- Inputs a stage's first output needs (R206). -/
def stageSpan (p : LaneSet) (kind : Nat) : Nat :=
  match kind with
  | 1 => p.rank | 2 => p.cicOrder * p.cicR * p.cicM | 3 => p.firTaps | 4 => 32 | 5 => p.peak | 6 => p.env
  | 7 => 2 ^ p.hires | _ => 1

/-- Stated group delay of a stage, in its input samples (R202). -/
def stageDelay (p : LaneSet) (kind : Nat) : Rat :=
  match kind with
  | 1 => ((p.rank : Rat) - 1) / 2
  | 2 => (p.cicOrder : Rat) * ((p.cicR : Rat) * p.cicM - 1) / 2
  | 3 => ((p.firTaps : Rat) - 1) / 2
  | 4 => 4095.5 / 256
  | 7 => (2 ^ p.hires - 1 : Rat) / 2
  | _ => 0

/-- The total stated delay D, in channel samples, of stages whose inputs already carry ratio `cum` (R216). -/
def delayFrom (p : LaneSet) : Nat → List Nat → Rat
  | _, [] => 0
  | cum, k :: t => stageDelay p k * cum + delayFrom p (cum * stageRatio p k) t

/-- The total stated delay D of a lane (R216). -/
def laneDelay (p : LaneSet) (kinds : List Nat) : Rat := delayFrom p 1 kinds

/-- D as 48.16 fixed point (R216). -/
def delayFixed (p : LaneSet) (kinds : List Nat) : Nat := (laneDelay p kinds * 65536).floor.toNat

/-- The product of a list of ratios. -/
def ratioOf (p : LaneSet) (kinds : List Nat) : Nat := kinds.foldl (fun a k => a * stageRatio p k) 1

/-- Whether a lane resamples onto positions that no fixed ratio gives (R213). -/
def freeRate (p : LaneSet) (kinds : List Nat) : Bool := kinds.contains 4 && p.rsMode != 0

/-- The set in force for outputs whose newest channel sample is n (R221), from boundaries newest first. -/
def eraAt (l : LaneSt) (n : Nat) : LaneEra :=
  match l.eras.find? (fun e => e.start ≤ n) with
  | some e => e
  | none => (l.eras.getLast?).getD ⟨0, l.eff, [], []⟩

/-- A stage over its inputs, those before the stage's restart left out (R206, R220). -/
def runStage (l : LaneSt) (cum since kind : Nat) (xs : List LaneSample) : List LaneSample :=
  let xs := xs.filter (fun x => since ≤ x.newest)
  let p := l.eff
  match kind with
  | 1 => runRank p.rank xs
  | 2 => runCic p (fun n => (eraAt l n).set) xs
  | 3 => runFir p (fun n => (eraAt l n).fir) xs
  | 4 => runResamp p cum (fun n => (eraAt l n).set) (fun n => (eraAt l n).rs) l.stepStart l.grid.reverse xs
  | 5 => runPeak p.peak xs
  | 6 => runEnvelope p.env xs
  | 7 => runHires p.hires xs
  | _ => xs

/-- The stages of a lane in order (R202). -/
def runStages (l : LaneSt) : Nat → List Nat → List Nat → List LaneSample → List LaneSample
  | _, [], _, xs => xs
  | cum, k :: ks, since, xs =>
    runStages l (cum * stageRatio l.eff k) ks since.tail (runStage l cum (since.headD 0) k xs)

/-- A lane's outputs, with corrected instants (R216) in channel samples. -/
def laneOutputs (l : LaneSt) (xs : List LaneSample) : List LaneSample :=
  let d := laneDelay l.eff l.kinds
  (runStages l 1 l.kinds l.since xs).map (fun x => { x with at' := x.at' - d })

/-- The stored value of a sample (R121) as the bits of its width. -/
def storedValue (fmt : Nat) (w : Int) : Nat :=
  let width := fmtWidth fmt
  let v : Int := match fmt % 4 with
    | 0 => clampInt (-512) 511 ((w + 32) / 64)
    | 1 => clampInt (-2048) 2047 ((w + 8) / 16)
    | _ => if fmt / 4 % 2 = 1 then w / 4 else w
  let b := toBitsInt width v
  if fmt / 8 % 2 = 1 then (b + 2 ^ (width - 1)) % 2 ^ width else b

/-- Fields of w bits as one little-endian number (R122). -/
def packBits (w : Nat) : List Nat → Nat
  | [] => 0
  | x :: t => x + 2 ^ w * packBits w t

/-- Samples as stored bytes (R122). -/
def packSamples (fmt : Nat) (ws : List Int) : List Byte :=
  leBytes (dataBytes fmt ws.length) (packBits (fmtWidth fmt) (ws.map (storedValue fmt)))

/-- The i-th of w-bit fields of stored bytes (R122). -/
def storedField (w : Nat) (bs : List Byte) (i : Nat) : Nat := leNat bs / 2 ^ (w * i) % 2 ^ w

/-- Steps 1 to 3 of the correction of one slice result (R116), in 2^-17 of 1/64 slice LSB. -/
def correctGain (c : Coef) (x : Int) : Rat := ((64 * x - c.offset) * clampInt 98304 163840 c.gain : Int) / (2 ^ 17 : Rat)

/-- Step 4 over the samples n - 4 to n + 3, oldest first (R116). -/
def correctTaps (c : Coef) (around : List Rat) : Rat :=
  (List.zip c.taps around).foldl (fun a q => a + (q.1 : Rat) / 2 ^ 16 * q.2) 0

/-- Step 5 (R116). -/
def correctDelay (c : Coef) (before here after : Rat) : Rat := here - (c.delay : Rat) / 2 ^ 20 * (after - before) / 2

/-- Step 6: the 14-bit code (R116), and whether it saturated. -/
def mergeCode (w : Rat) : Int × Bool :=
  let c := (w / 4 + 1 / 2).floor
  (clampInt (-8192) 8191 c, c < -8192 || 8191 < c)

/-- The correction stage over contiguous slice results (R116 to R119): the first five and the last four serve as neighbours only.
`coefs` gives the coefficients for the i-th result. -/
def correctAll (coefs : Nat → Coef) (xs : List Int) : List (Int × Bool) :=
  let g := (List.zip (List.range xs.length) xs).map (fun q => correctGain (coefs q.1) q.2)
  let t := (List.zip (List.range (runsOf 8 g).length) (runsOf 8 g)).map (fun q => correctTaps (coefs (q.1 + 4)) q.2)
  (List.zip (List.range (runsOf 3 t).length) (runsOf 3 t)).map (fun q =>
    match q.2 with
    | [a, b, c] =>
      let m := mergeCode (correctDelay (coefs (q.1 + 5)) a b c)
      let x := xs.getD (q.1 + 5) 0
      (m.1, m.2 || x == -512 || x == 511)
    | _ => (0, false))

end Sys2Proof.Machine
end

