-- ==== Sys2Proof/Machine/LaneOps.lean ====
section
/-! DEFINITION. A lane's parameter checks, binding, hand-over, coefficient banks and axis grid
(spec/08_decimation_lanes.md R202 to R224). -/

namespace Sys2Proof.Machine

def State.lane (s : State) (l : Nat) : LaneSt := sparseGet (fun _ => LaneSt.init) s.lanes l

def State.setLane (s : State) (l : Nat) (x : LaneSt) : State :=
  { s with lanes := sparseSet (fun _ => LaneSt.init) s.lanes l x }

/-- The fabric clock's rate in hertz: slice rate in effect / 4 (R155). -/
def State.clockRate (s : State) : Nat := s.sliceRate / 4

/-- The output rate of a stage for an input rate, in samples per second, as the write budget counts it (R127, R213). -/
def stageRate (p : LaneSet) (r : Rat) (kind : Nat) : Rat :=
  match kind with
  | 4 => if p.rsMode = 0 then (if p.rsNum = 0 then 0 else r * p.rsDen / p.rsNum) else p.rsMax * 1000
  | 5 => if p.peak = 0 then 0 else r * 2 / p.peak
  | k => if stageRatio p k = 0 then 0 else r / stageRatio p k

/-- The lane's output sample rate (R127). -/
def laneRate (p : LaneSet) (kinds : List Nat) (chan : Rat) : Rat := kinds.foldl (stageRate p) chan

/-- Check 1 of R220 for one stage with input rate r, in samples per second; `clock` is the fabric rate. -/
def stageInRange (p : LaneSet) (r clock : Rat) (kind : Nat) : Bool :=
  match kind with
  | 1 => p.rank == 3 || p.rank == 5 || p.rank == 7 || p.rank == 9
  | 2 => 1 ≤ p.cicOrder && p.cicOrder ≤ 5 && 2 ≤ p.cicR && p.cicR ≤ 65536
  | 3 => 1 ≤ p.firTaps && 1 ≤ p.firDec && p.firDec ≤ 16
  | 4 =>
    let step : Rat := match p.rsMode with
      | 0 => if p.rsDen = 0 then 0 else (p.rsNum : Rat) / p.rsDen
      | 1 => stepOf p
      | _ => 1 / 4
    let out := if step = 0 then 0 else r / step
    1 ≤ p.rsMax && (match p.rsMode with
      | 0 => 1 ≤ p.rsNum && 1 ≤ p.rsDen && decide (out ≤ 256 * clock) && decide (out ≤ p.rsMax * 1000)
      | 1 => decide (out ≤ 256 * clock) && decide (out ≤ p.rsMax * 1000)
      | 2 => 1 ≤ p.rsGrid && p.rsGrid ≤ 65536
      | _ => false) && decide (1 / 4 ≤ step)
  | 5 => 2 ≤ p.peak && p.peak ≤ 65536
  | 6 => 2 ≤ p.env && p.env ≤ 65536
  | 7 => 1 ≤ p.hires && p.hires ≤ 16
  | _ => true

/-- Whether every stage passes a test of its input rate. -/
def stagesAll (p : LaneSet) (f : Rat → Nat → Bool) : Rat → List Nat → Bool
  | _, [] => true
  | r, k :: t => f r k && stagesAll p f (stageRate p r k) t

/-- The input limit of a stage kind, in samples per fabric clock (R202). -/
def stageLimit (kind : Nat) : Nat := if kind = 3 ∨ kind = 4 then 256 else 1024

/-- Checks 1 to 3 of R220: 0, or the cause 1 RANGE, 2 GROWTH, 3 THROUGHPUT. -/
def State.checkSet (s : State) (p : LaneSet) (kinds : List Nat) : Nat :=
  let clock : Rat := s.clockRate
  let r : Rat := s.chanRate
  if !stagesAll p (fun r k => stageInRange p r clock k) r kinds then 1
  else if kinds.contains 2 && decide (2 ^ 48 < (p.cicR * p.cicM) ^ p.cicOrder) then 2
  else if !stagesAll p (fun r k => decide (r ≤ stageLimit k * clock)) r kinds then 3
  else 0

/-- The words of the parameter set that a stage kind owns, by offset in the window (R225). -/
def stageWords (kind : Nat) : List Nat :=
  match kind with
  | 1 => [0x40] | 2 => [0x44, 0x48, 0x4C] | 3 => [0x50] | 4 => [0x54, 0x58, 0x5C, 0x60, 0x64, 0x68, 0x6C]
  | 5 => [0x70] | 6 => [0x74] | 7 => [0x78] | _ => []

/-- The words of every stage kind. -/
def allWords : List Nat := (List.range 15).map (fun i => 0x40 + 4 * i)

/-- The stored coefficients of one bank: stage 0 FIR, 1 RESAMP (R224). -/
def LaneSt.bank (x : LaneSt) (stage : Nat) (b : Bool) : Sparse (BitVec 18) :=
  let base := 2 ^ 14 * stage + 2 ^ 13 * b2n b
  (x.coefs.filter (fun p => base ≤ p.1 && p.1 < base + 2 ^ 13)).map (fun p => (p.1 - base, p.2))

/-- What governs a lane's outputs from channel sample `start` on. -/
def LaneSt.eraFrom (x : LaneSt) (start : Nat) : LaneEra :=
  { start := start, set := x.eff, fir := x.bank 0 x.firBank, rs := x.bank 1 x.rsBank }

/-- The first channel sample of the word sampled `back` clocks ago. -/
def State.wordStart (s : State) (back : Nat) : Nat := (s.tsc - back) * s.samplesPerClock

/-- Shows the banks in effect, the sealed and deferred sets and D (R216, R225). -/
def State.showLane (s : State) (l : Nat) : State :=
  let x := s.lane l
  let s := ((s.setBit (F.LANE_STATUS_SEALED l) x.sealed.isSome).setBit (F.LANE_STATUS_DEFERRED l) x.deferred.isSome)
  let s := (s.setBit (F.LANE_STATUS_FIR_BANK l) x.firBank).setBit (F.LANE_STATUS_RS_BANK l) x.rsBank
  s.set64 (Reg.LANE_DELAY_LO l) (if x.ctx.isSome then delayFixed x.eff x.kinds else 0)

/-- The least step a resampler may take (R213, R214), in its input samples. -/
def State.leastStep (s : State) (x : LaneSt) (cum : Nat) : Rat :=
  let inRate : Rat := if cum = 0 then 0 else (s.chanRate : Rat) / cum
  let perClock : Rat := if cum = 0 then 0 else (s.samplesPerClock : Rat) / cum
  max (1 / 4) (max (perClock / 256) (if x.eff.rsMax = 0 then 0 else inRate / (x.eff.rsMax * 1000)))

/-- A position at the resolution of 2^-32 input sample (R214). -/
def gridRes (x : Rat) : Rat := ((x * 2 ^ 32).floor : Rat) / 2 ^ 32

/-- The grid points of one fabric clock, oldest first: `p0` and `r` the clock's position and rate in grid steps, `x0` its
start and `per` its length in resampler input samples, `m` the first number due, `last` the position of the last output
(R214). A point that a correction of the position passes comes with the clock's start; one that would come within the least step
of the last output is not produced. -/
def gridPoints (p0 r x0 per least : Rat) (skipped : Bool) : Nat → Int → Rat → List GridPoint
  | 0, _, _ => []
  | fuel + 1, m, last =>
    let t := if r = 0 then 2 else max 0 (((m : Rat) - p0) / r)
    let pos := gridRes (x0 + t * per)
    let next := if 0 < r then m + 1 else m - 1
    if 1 < t then []
    else if pos < last + least then gridPoints p0 r x0 per least skipped fuel next last
    else ⟨pos, m, false, skipped⟩ :: gridPoints p0 r x0 per least false fuel next pos

/-- Outputs a step apart up to the end of the clock: the time grid of STALLED, and the clamped outputs (R214). -/
def stepPoints (stop step : Rat) (clamped : Bool) : Nat → Int → Rat → Bool → List GridPoint
  | 0, _, _, _ => []
  | fuel + 1, m, pos, skipped =>
    if stop < pos ∨ step ≤ 0 then []
    else ⟨gridRes pos, m, clamped, skipped⟩ :: stepPoints stop step clamped fuel (m + 1) (pos + step) false

/-- The number of a lane's next output on the grid, for a position that moves from p0 at rate r (R214): beyond p0, and beyond the
last point produced, which the position passes again after a reversal or a step against the motion. -/
def nextPoint (p0 r : Rat) (last : Option Int) : Int :=
  if 0 < r then
    match last with
    | some m => max (p0.floor + 1) (m + 1)
    | none => p0.floor + 1
  else
    match last with
    | some m => min (p0.ceil - 1) (m - 1)
    | none => p0.ceil - 1

/-- Where the points of a clock are counted from: its position p0, or where a position without a step stood at the end of the clock
before, when a correction has moved it on (R214). -/
def countFrom (p0 before r : Rat) (going : Bool) : Rat :=
  if !going then p0 else if 0 < r then min p0 before else max p0 before

/-- What the clock `back` clocks ago gives an AXIS_GRID lane (R214): the lane, whether it is clamped in that clock, and whether
a step skips grid points there. -/
def State.gridAt (s : State) (x : LaneSt) (back : Nat) : LaneSt × Bool × Bool :=
  let n : Int := s.time.clk - back
  let cum := max 1 (ratioOf x.eff (x.kinds.takeWhile (· != 4)))
  let per : Rat := (s.samplesPerClock : Rat) / cum
  let x0 : Rat := ((s.tsc : Rat) - back) * per
  let unit : Rat := 2 ^ 48 / x.eff.rsGrid
  let p0 : Rat := (s.axisAt n : Rat) / unit
  let r : Rat := (s.axisRateAt n : Rat) / unit
  let last := x.grid.head?
  let before : Rat := (s.axisAt (n - 1) + s.axisRateAt (n - 1) : Rat) / unit
  let jumped := !s.axisIsTime && ((s.axisKnot n).clk : Int) == n && (s.axisKnot n).jump && last.isSome
  let skips := jumped && (if (s.axisKnot n).down then decide (before.ceil ≠ p0.ceil) || decide (before < p0)
    else decide (before.floor ≠ p0.floor) || decide (p0 < before))
  let skip := x.gridSkip || skips
  if s.axisStAt n = 2 then
    match last with
    | some g =>
      let pts := stepPoints (x0 + per) x.gridStep false 257 (g.number + 1) (g.pos + x.gridStep) skip
      ({ x with grid := pts.reverse ++ x.grid, gridSkip := skip && pts.isEmpty }, false, skips)
    | none => ({ x with gridSkip := skip }, false, skips)
  else if r = 0 then ({ x with gridSkip := skip }, false, skips)
  else
    let least := s.leastStep x cum
    let clamped := decide (per < least * (if 0 < r then r else -r))
    let m0 := nextPoint (countFrom p0 before r (!jumped && last.isSome && s.axisStAt (n - 1) != 2)) r x.gridLast
    let pts :=
      if clamped then
        let first := x0 + max 0 (((m0 : Rat) - p0) / r) * per
        let from' := match last with
          | some g => if g.clamped then g.pos + least else max first (g.pos + least)
          | none => first
        stepPoints (x0 + per) least true 257 m0 from' skip
      else
        gridPoints p0 r x0 per least skip 257 m0 (match last with
          | some g => g.pos
          | none => x0 - per * 2 ^ 20)
    let all := pts.reverse ++ x.grid
    let done : Option Int := match pts.getLast? with
      | some g => some (if clamped then (if 0 < r then (p0 + r).floor else (p0 + r).ceil) else g.number)
      | none => x.gridLast
    let step := match all with
      | a :: b :: _ => a.pos - b.pos
      | _ => x.gridStep
    ({ x with grid := all, gridLast := done, gridSkip := skip && pts.isEmpty, gridStep := step }, clamped, skips)

/-- Whether a lane's outputs lie on the axis grid (R213). -/
def LaneSt.onAxis (x : LaneSt) : Bool := x.ctx.isSome && x.kinds.contains 4 && x.eff.rsMode == 2

/-- The points of the `back` clocks before this one, whose words are still to reach the lane (R206, R221). -/
def State.gridFill (s : State) (x : LaneSt) (back : Nat) : LaneSt :=
  if x.onAxis then (List.range back).foldl (fun x i => (s.gridAt x (back - i)).1) x else x

/-- The grid points of the clock that ends, for lane l (R214); a lane off the axis grid is not clamped. -/
def State.gridClock (s : State) (l : Nat) : State :=
  let x := s.lane l
  if !x.onAxis then s.setBit (F.LANE_STATUS_CLAMPING l) false
  else
    let (x', clamped, skips) := s.gridAt x 0
    let s := (s.setLane l x').setBit (F.LANE_STATUS_CLAMPING l) clamped
    let s := if clamped then (s.rclAdd (Reg.LANE_CLAMP_COUNT l) 1).hwSet (F.LANE_EVENTS_CLAMP l) else s
    if skips then s.hwSet (F.LANE_EVENTS_GRID_SKIP l) else s

/-- Binds context c to lane l (R25, R97, R218, R223): the context's set in effect and in the shadow, the START_BANKs, the
samples offered to the lane from the next clock on. -/
def State.bindLane (s : State) (l c : Nat) (outRate : Rat) : State :=
  let own := (s.lane l).kinds.flatMap stageWords
  let s := allWords.foldl (fun s o =>
    s.setReg (laneBase l + o) (if own.contains o then s.reg (ctxBase c + o) else 0)) s
  let p := s.paramSet (laneBase l)
  let start := s.wordStart 19
  let x0 := s.lane l
  let cum := ratioOf p (x0.kinds.takeWhile (· != 4))
  let x : LaneSt := { x0 with
    ctx := some c, eff := p, sealed := none, deferred := none, firBank := p.firStart, rsBank := p.rsStart,
    since := x0.kinds.map (fun _ => start), grid := [], gridLast := none, gridSkip := false, gridStep := 0, sealedPre := none,
    shadowAt := none, swapped := none, swaps := [],
    stepStart := (ceilDiv start (max 1 cum) : Rat) + ((Config.freeWord s.time.free).toNat : Rat) / 2 ^ 32 }
  let s := (s.setLane l { s.gridFill x 19 with eras := [x.eraFrom start] }).nextFree
  let s := (s.setBit (F.LANE_BIND_LIVE l) true).setF (F.LANE_BIND_CONTEXT l) c
  (s.setReg (Reg.LANE_OUT_RATE l) (BitVec.ofNat 32 (outRate / 1000).ceil.toNat)).showLane l

/-- Releases a lane: waiting sets are discarded (R222); it can be bound again from the next clock on (R26). -/
def State.freeLane (s : State) (l : Nat) : State :=
  let s := s.setLane l { s.lane l with ctx := none, freeFrom := s.time.clk + 1, sealed := none, deferred := none, swaps := [],
                                       eras := [], since := [], grid := [], gridLast := none, gridSkip := false }
  let s := (s.setBit (F.LANE_BIND_LIVE l) false).setReg (Reg.LANE_OUT_RATE l) 0
  (s.setBit (F.LANE_STATUS_CLAMPING l) false).showLane l

/-- The sealed and deferred sets of a lane are discarded (R222). -/
def State.dropSets (s : State) (l : Nat) : State :=
  (s.setLane l { s.lane l with sealed := none, deferred := none, sealedPre := none }).showLane l

/-- The lowest free lane of a profile (R456). -/
def State.findLane (s : State) (profile : Nat) : Option Nat :=
  (List.range 64).find? (fun l =>
    (s.lane l).ctx.isNone && (s.lane l).freeFrom ≤ s.time.clk && s.getF (F.LANE_BIND_PROFILE l) == profile)

/-- Fields that may change without a restart (R220), made equal in two sets. -/
def sameButSoft (p q : LaneSet) : LaneSet :=
  { q with cicGain := p.cicGain, cicShift := p.cicShift, firStart := p.firStart, rsStart := p.rsStart,
           rsStep := if p.rsMode = 1 ∧ q.rsMode = 1 then p.rsStep else q.rsStep,
           rsMax := if q.rsMax ≤ p.rsMax then p.rsMax else q.rsMax }

/-- Whether a stage of a kind restarts when set p follows set q (R220). -/
def stageRestarts (q p : LaneSet) (kind : Nat) : Bool :=
  let r := sameButSoft q p
  match kind with
  | 1 => r.rank != q.rank
  | 2 => r.cicOrder != q.cicOrder || r.cicM != q.cicM || r.cicR != q.cicR
  | 3 => r.firTaps != q.firTaps || r.firDec != q.firDec
  | 4 => r.rsMode != q.rsMode || r.rsNum != q.rsNum || r.rsDen != q.rsDen || r.rsStep != q.rsStep ||
      r.rsGrid != q.rsGrid || r.rsMax != q.rsMax
  | 5 => r.peak != q.peak
  | 6 => r.env != q.env
  | 7 => r.hires != q.hires
  | _ => false

/-- A boundary at the word of TSC `word`, met by n hand-overs and swaps, is recorded (R221). -/
def State.showBoundary (s : State) (l word n : Nat) : State :=
  let s := (s.setReg (Reg.LANE_SWAP_FRAC l) 0).set64 (Reg.LANE_SWAP_LO l) word
  (s.rclAdd (Reg.LANE_HANDOVERS l) n).hwSet (F.LANE_EVENTS_HANDOVER_DONE l)

/-- A hand-over or swap at the word sampled `back` clocks ago (R221): 19 for one of this clock, which the next clock records; 20
for a deferred one of the clock before. -/
def State.markBoundary (s : State) (l back : Nat) : State :=
  if back = 19 then
    let n := match (s.lane l).mark with
      | some (_, n) => n + 1
      | none => 1
    s.setLane l { s.lane l with mark := some (s.tsc - 19, n) }
  else s.showBoundary l (s.tsc - back) 1

/-- The boundaries of the clock before are recorded (R221). -/
def State.marksShow (s : State) : State :=
  s.lanes.foldl (fun s p => match p.2.mark with
    | some (word, n) => (s.setLane p.1 { s.lane p.1 with mark := none }).showBoundary p.1 word n
    | none => s) s

/-- The output positions of a lane whose set `old` gives way at channel sample `start` of the word sampled `back` clocks ago
(R213, R220, R222): positions go over to the input samples of the new ratio before RESAMP, a STEP run goes on from its last
position, and grid points from the boundary on follow the new set. -/
def State.regrid (s : State) (x : LaneSt) (old : LaneSet) (start back : Nat) : LaneSt :=
  let before := x.kinds.takeWhile (· != 4)
  let cum0 := max 1 (ratioOf old before)
  let cum1 := max 1 (ratioOf x.eff before)
  let k : Rat := (cum0 : Rat) / cum1
  let fresh := stageRestarts old x.eff 4
  let steps := if old.rsMode ≠ 1 ∨ cum0 = cum1 then [] else
    stepPositions (fun _ => old) ((start : Rat) / cum0) (4 * (((start / cum0 : Nat) : Int) - x.stepStart.floor + 1).toNat) 0 x.stepStart
  let next : Rat := match steps.getLast? with
    | some g => g.pos + stepOf old
    | none => x.stepStart
  let kept := if fresh then [] else
    (x.grid.filter (fun g => decide (g.pos * (cum0 : Rat) < (start : Rat)))).map (fun g => { g with pos := g.pos * k })
  s.gridFill { x with
    grid := kept
    gridLast := (kept.head?.map (·.number))
    gridStep := x.gridStep * k
    stepStart := if fresh then (ceilDiv start cum1 : Rat) + (x.stepStart - x.stepStart.floor) else if cum0 = cum1 then x.stepStart
      else next * k } back

/-- Puts a checked set into effect at the word sampled `back` clocks ago; stages whose fields changed restart there
(R220, R221). -/
def State.takeSet (s : State) (l back : Nat) (p : LaneSet) : State :=
  let start := s.wordStart back
  let x0 := s.lane l
  let since := (List.zip x0.kinds x0.since).map (fun q => if stageRestarts x0.eff p q.1 then start else q.2)
  let x : LaneSt := s.regrid { x0 with eff := p, since := since, deferred := none } x0.eff start back
  let s := s.setLane l { x with eras := x.eraFrom start :: x.eras }
  (s.markBoundary l back).showLane l

/-- Whether a set needs no restart of any stage of the lane. -/
def LaneSt.soft (x : LaneSt) (p : LaneSet) : Bool := x.kinds.all (fun k => !stageRestarts x.eff p k)

/-- A set that fails a check is discarded (R220). -/
def State.refuseSet (s : State) (l cause : Nat) : State :=
  ((s.setF (F.LANE_STATUS_LAST_REFUSE l) cause).hwSet (F.LANE_EVENTS_BAD_SET l)).showLane l

/-- The hand-over of set p, sealed for lane l whose context has a segment open or not, at the word sampled `back` clocks
ago; `committed` is the rate committed at ARM (R219 to R221). Answers whether it took effect at once. -/
def State.handSet (s : State) (l back : Nat) (p : LaneSet) (segOpen : Bool) (committed : Rat) : Bool × State :=
  let x := s.lane l
  let cause := s.checkSet p x.kinds
  let cause := if cause = 0 ∧ committed < laneRate p x.kinds s.chanRate then 4 else cause
  if cause ≠ 0 then (false, s.refuseSet l cause)
  else if x.soft p || !segOpen then (true, s.takeSet l back p)
  else (false, (s.setLane l { x with deferred := some p }).showLane l)

/-- A hand-over with the sealed set waiting (R219, R221): a SEAL of the present clock waits for the next hand-over. -/
def State.handover (s : State) (l : Nat) (segOpen : Bool) (committed : Rat) : Bool × State :=
  let x := s.lane l
  if x.swapped = some s.time.clk then (false, s)
  else
    let fresh := match x.sealedPre with
      | some (c, pre) => if c = s.time.clk then some pre else none
      | none => none
    let use := match fresh with
      | some pre => pre
      | none => x.sealed
    let s := if fresh.isSome || x.shadowAt = some s.time.clk then s.hwSet (F.LANE_SHADOW_BUSY_COLLIDED l) else s
    let s := s.setLane l { s.lane l with swapped := some s.time.clk,
                                         sealed := if fresh.isSome then x.sealed else none, sealedPre := none }
    match use with
    | none => (false, (s.hwSet (F.LANE_EVENTS_EMPTY_HANDOVER l)).showLane l)
    | some p => s.handSet l 19 p segOpen committed

/-- A host write of a coefficient that a swap of its clock brings into effect is undone (R222). -/
def State.undoCoefs (s : State) (l stage : Nat) (b : Bool) : State :=
  let x := s.lane l
  let base := 2 ^ 14 * stage + 2 ^ 13 * b2n b
  let hit := x.wrote.filter (fun p => base ≤ p.1 && p.1 < base + 2 ^ 13)
  if hit.isEmpty then s
  else
    (s.setLane l { x with
      coefs := hit.foldl (fun m p => sparseSet (fun _ => 0) m p.1 p.2) x.coefs
      wrote := x.wrote.filter (fun p => !(base ≤ p.1 && p.1 < base + 2 ^ 13)) }).hwSet (F.LANE_EVENTS_COEF_IN_USE l)

/-- A COEF_SWAP on stage 0 FIR or 1 RESAMP with selection 0 toggle, 1 A, 2 B: of two in one clock the later counts, and the bank
in effect selected again changes nothing (R92, R223). -/
def State.coefSwap (s : State) (l stage sel : Nat) : State :=
  let x := s.lane l
  let now := if stage = 0 then x.firBank else x.rsBank
  let new := if sel = 1 then false else if sel = 2 then true else !now
  let rest := x.swaps.filter (fun p => p.1 != stage)
  s.setLane l { x with swaps := if new = now then rest else rest ++ [(stage, new)] }

/-- A bank comes into effect at the boundary of the present clock (R221, R223). -/
def State.takeBank (s : State) (l stage : Nat) (new : Bool) : State :=
  let s := s.undoCoefs l stage new
  let x := s.lane l
  let x := if stage = 0 then { x with firBank := new } else { x with rsBank := new }
  let s := s.setLane l { x with eras := x.eraFrom (s.wordStart 19) :: x.eras }
  (s.markBoundary l 19).showLane l

/-- Whether the stage of a lane's coefficient window, 0 FIR or 1 RESAMP, is in its structure (R40). -/
def LaneSt.hasCoefs (x : LaneSt) (stage : Nat) : Bool := x.kinds.contains (if stage = 0 then 3 else 4)

/-- A write into the coefficient window (R222, R224): word i of the window of lane l; one for an absent stage is counted
(R40). -/
def State.coefWrite (s : State) (l i : Nat) (v : Word) : State :=
  let stage := s.getF (F.LANE_COEF_PAGE_STAGE l)
  let page := s.getF (F.LANE_COEF_PAGE_PAGE l)
  let b := s.bit (F.LANE_COEF_PAGE_BANK l)
  let idx := 256 * page + i
  let inEffect (x : LaneSt) : Bool := (if stage = 0 then x.firBank else x.rsBank) == b
  let store (s : State) (l : Nat) : State :=
    let x := s.lane l
    let key := 2 ^ 14 * stage + 2 ^ 13 * b2n b + idx
    s.setLane l { x with coefs := sparseSet (fun _ => 0) x.coefs key (v.truncate 18)
                         wrote := (key, sparseGet (fun _ => 0) x.coefs key) :: x.wrote }
  if !(s.lane l).hasCoefs stage then s.hwSet F.FLT_HOST_STRUCT_ABSENT
  else if (stage = 0 ∧ 128 ≤ idx) ∨ 8192 ≤ idx then s
  else if s.bit (F.LANE_COEF_PAGE_BCAST l) then
    let prof := s.getF (F.LANE_BIND_PROFILE l)
    let s := if (s.lane l).ctx.isSome && inEffect (s.lane l) then s.hwSet (F.LANE_EVENTS_COEF_IN_USE l) else s
    (List.range 64).foldl (fun s m =>
      if s.getF (F.LANE_BIND_PROFILE m) = prof ∧ !((s.lane m).ctx.isSome && inEffect (s.lane m)) then store s m else s) s
  else if (s.lane l).ctx.isSome && inEffect (s.lane l) then s.hwSet (F.LANE_EVENTS_COEF_IN_USE l)
  else store s l

/-- What word i of the coefficient window reads: the coefficient with its sign extended (R224), zero for an absent stage
(R40). -/
def State.coefRead (s : State) (l i : Nat) : Word :=
  let stage := s.getF (F.LANE_COEF_PAGE_STAGE l)
  let idx := 256 * s.getF (F.LANE_COEF_PAGE_PAGE l) + i
  if !(s.lane l).hasCoefs stage ∨ (stage = 0 ∧ 128 ≤ idx) ∨ 8192 ≤ idx then 0
  else (sparseGet (fun _ => 0) (s.lane l).coefs (2 ^ 14 * stage + 2 ^ 13 * s.getF (F.LANE_COEF_PAGE_BANK l) + idx)).signExtend 32

end Sys2Proof.Machine
end

