-- ==== Sys2Proof/Machine/Place.lean ====
section
/-! DEFINITION. Live contexts, what contexts keep, and the placement of records in HBM
(spec/09_segments_and_placement.md R226 to R249). -/

namespace Sys2Proof.Machine

def State.keepOf (s : State) (c : Nat) : CtxKeep := sparseGet (fun _ => CtxKeep.init) s.seg.keep c

def State.setKeep (s : State) (c : Nat) (k : CtxKeep) : State :=
  { s with seg := { s.seg with keep := sparseSet (fun _ => CtxKeep.init) s.seg.keep c k } }

/-- The context's live part; none when it is not live (R25). -/
def State.liveOf (s : State) (c : Nat) : Option LiveCtx := sparseGet (fun _ => none) s.seg.live c

def State.setLive (s : State) (c : Nat) (x : Option LiveCtx) : State :=
  { s with seg := { s.seg with live := sparseSet (fun _ => none) s.seg.live c x } }

def State.isLive (s : State) (c : Nat) : Bool := (s.liveOf c).isSome

/-- Live contexts, lowest first. -/
def State.lives (s : State) : List (Nat × LiveCtx) :=
  s.seg.live.filterMap (fun p => match p.2 with
    | some x => some (p.1, x)
    | none => none)

/-- Changes every record that a test selects. -/
def State.mapRecs (s : State) (sel : Record → Bool) (f : Record → Record) : State :=
  { s with seg := { s.seg with recs := s.seg.recs.map (fun r => if sel r then f r else r) } }

/-- The records of a context, oldest first. -/
def State.recsOf (s : State) (c : Nat) : List Record := s.seg.recs.filter (fun r => r.ctx == c)

/-- The open segment of a context. -/
def State.openRec (s : State) (c : Nat) : Option Record :=
  s.seg.recs.find? (fun r => r.ctx == c && r.kind == .segment && r.state == .opened)

/-- Whether any segment is open. -/
def State.anyOpen (s : State) : Bool := s.seg.recs.any (fun r => r.kind == .segment && r.state == .opened)

/-- A pseudo-channel's state: 0 TRAINING, 1 IN_SERVICE, 2 FROZEN, 3 RELEASING, 4 RETIRED (R302). -/
def State.pcState (s : State) (p : Nat) : Nat := s.getF (F.MEM_PC_STATE_STATE p)

def State.pcInService (s : State) (p : Nat) : Bool := s.pcState p == 1

/-- Frozen, or still releasing: what it holds is held (R247, R290). -/
def State.pcFrozen (s : State) (p : Nat) : Bool := s.pcState p == 2 || s.pcState p == 3

/-- The pseudo-channels in the order in which ties are taken (R245): 0, 32, 1, 33 and so on. -/
def pcTieOrder : List Nat := (List.range 32).flatMap (fun i => [i, i + 32])

/-- Pseudo-channels in service, in tie order. -/
def State.pcsInService (s : State) : List Nat := pcTieOrder.filter s.pcInService

/-- Chunks of 2 KiB that a pseudo-channel offers (R248): 801,112,064 bytes. -/
def pcChunks : Nat := 391168

/-- The committed load of a pseudo-channel, in bytes per second (R245). -/
def State.pcLoad (s : State) (p : Nat) : Rat :=
  s.lives.foldl (fun a q =>
    let set := (s.keepOf q.1).stripe
    if set.contains p ∧ set.length ≠ 0 then a + q.2.rate / set.length else a) 0

/-- Chunks reserved in a pseudo-channel by contexts, jobs and the mirror area. -/
def State.pcReserved (s : State) (p : Nat) : Nat :=
  s.seg.keep.foldl (fun a q => a + sparseGet (fun _ => 0) q.2.resv p) 0 +
    s.beam.jobs.foldl (fun a q => a + sparseGet (fun _ => 0) q.2.resv p) 0 + sparseGet (fun _ => 0) s.pair.resv p

/-- Unreserved chunks of a pseudo-channel in service. -/
def State.pcFree (s : State) (p : Nat) : Nat := if s.pcInService p then pcChunks - s.pcReserved p else 0

/-- The width W of a stripe set for a write rate (R245): the smallest of 4 to 64 that carries it, limited to the
pseudo-channels in service. -/
def State.stripeWidth (s : State) (rate : Rat) : Nat :=
  let w := match [4, 8, 16, 32].find? (fun w => decide (rate ≤ (w * 16000000000 : Nat))) with
    | some w => w
    | none => 64
  min w s.pcsInService.length

/-- Inserts a pseudo-channel behind those of no greater load. -/
def insertByLoad (load : Nat → Rat) (p : Nat) : List Nat → List Nat
  | [] => [p]
  | q :: t => if load q ≤ load p then q :: insertByLoad load p t else p :: q :: t

/-- The w pseudo-channels in service with the least committed load, ties in tie order (R245). -/
def State.leastLoaded (s : State) (w : Nat) : List Nat :=
  ((s.pcsInService.foldl (fun l p => insertByLoad s.pcLoad p l) []).take w)

/-- The chunks of a record's place in its ring, as chunk numbers. -/
def Record.chunkRange (r : Record) : List Nat :=
  if r.bytes = 0 then []
  else (List.range ((r.start + r.bytes - 1) / 2048 - r.start / 2048 + 1)).map (· + r.start / 2048)

/-- The pseudo-channels that hold chunks of a record, with a report's own. -/
def State.recPcs (s : State) (r : Record) : List Nat :=
  (r.chunkRange.filterMap (fun i => sparseGet (fun _ => none) (s.keepOf r.ctx).chunks i)) ++ r.reportPcs

/-- Chunks of a context that retained records hold, by pseudo-channel. -/
def State.retainedIn (s : State) (c p : Nat) : Nat :=
  (s.keepOf c).chunks.foldl (fun a q => if q.2 = some p then a + 1 else a) 0

/-- Places the chunks of ring bytes `from` to `to` that have no place yet, on successive members of the set (R245). -/
def State.placeChunks (s : State) (c start stop : Nat) : State :=
  if stop ≤ start then s
  else
    (List.range ((stop - 1) / 2048 - start / 2048 + 1)).foldl (fun s i =>
      let k := s.keepOf c
      let n := start / 2048 + i
      if (sparseGet (fun _ => none) k.chunks n).isSome ∨ k.stripe = [] then s
      else s.setKeep c { k with chunks := sparseSet (fun _ => none) k.chunks n k.stripe[k.rot % k.stripe.length]?,
                                rot := k.rot + 1 }) s

/-- The reservation a context keeps (R246): all of it while the context is live or retains a record, but outside its
stripe set only for the chunks that retained records hold there. -/
def State.refreshResv (s : State) (c : Nat) : State :=
  let k := s.keepOf c
  if !s.isLive c && (s.recsOf c).isEmpty && k.chunks.isEmpty then s.setKeep c { k with resv := [] }
  else
    s.setKeep c { k with resv := (List.range 64).foldl (fun m p =>
      if k.stripe.contains p then m else sparseSet (fun _ => 0) m p (s.retainedIn c p)) k.resv }

/-- Forgets chunks that no record with data uses any more; those in frozen pseudo-channels stay until the release or
retirement (R427). -/
def State.gcChunks (s : State) (c : Nat) : State :=
  let k := s.keepOf c
  let used := (s.recsOf c).flatMap Record.chunkRange
  let s := s.setKeep c { k with chunks := k.chunks.filter (fun q =>
    used.contains q.1 || (match q.2 with
      | some p => s.pcFrozen p
      | none => false)) }
  s.refreshResv c

/-- Whether the context's retained or new records, in bytes, leave room (R241): the ring less the holding window, less
what its records occupy. -/
def State.ringUsed (s : State) (c : Nat) : Nat := (s.recsOf c).foldl (fun a r => a + r.bytes) 0

/-- Slots of the segment table (R248). -/
def tableSlots : Nat := 4194304

/-- The slots in use. -/
def State.usedSlots (s : State) : List Nat := s.seg.recs.filterMap (·.slot) ++ s.seg.deadSlots

/-- A free slot at or after a slot, in a pseudo-channel in service (R247, R248). -/
def State.freeSlotFrom (s : State) (used : List Nat) : Nat → Nat → Option Nat
  | 0, _ => none
  | fuel + 1, i =>
    if s.pcInService (i % tableSlots % 64) && !used.contains (i % tableSlots) then some (i % tableSlots)
    else s.freeSlotFrom used fuel (i + 1)

/-- Free slots in pseudo-channels in service. -/
def State.tableFree (s : State) : Nat :=
  65536 * s.pcsInService.length - (s.usedSlots.filter (fun i => s.pcInService (i % 64))).length

/-- A free slot; which one the engine takes is open, so the search starts at a free value (log 10). -/
def State.takeSlot (s : State) : Option Nat :=
  if s.tableFree = 0 then none else s.freeSlotFrom s.usedSlots tableSlots (Config.freeWord s.time.free).toNat

/-- Whether a record is held in the frozen region (R247). -/
def State.recHeld (s : State) (r : Record) : Bool :=
  (s.recPcs r).any s.pcFrozen || (match r.slot with
    | some i => s.pcFrozen (i % 64)
    | none => false)

/-- What a context's writing consumes (R127): output rate, write rate, W16 rate and stream rate, exactly. -/
def State.ctxRates (s : State) (c : Nat) (p : LaneSet) (kinds : List Nat) : Rat × Rat × Rat × Rat :=
  let out := laneRate p kinds s.chanRate
  let w := fmtWidth (s.ctxFmt c)
  let rate := out * w / 8
  (out, rate, if w = 16 then out else 0, if s.bit (F.CTX_STORE_STREAM_EN c) then rate * 65 / 64 else 0)

/-- The sums of R128 and R341 over the live contexts: write rate, W16 rate, stream rate. -/
def State.commitments (s : State) : Rat × Rat × Rat :=
  s.lives.foldl (fun a q => (a.1 + q.2.rate, a.2.1 + q.2.w16, a.2.2 + q.2.strm)) (0, 0, 0)

/-- The limits of R128 at the frequency point in effect (R291). -/
def State.rateLimits (s : State) : Rat × Rat :=
  match s.getF F.MEM_STATUS_POINT_IN_EFFECT with
  | 1 => (720000000000, 240000000000)
  | 2 => (480000000000, 160000000000)
  | _ => (960000000000, 320000000000)

/-- A formed pair (R388). -/
def State.paired (s : State) : Bool := s.bit F.PAIR_STATUS_PROTECTED

/-- The holding window H of a context on a lane (R228, R395); it stays long while the Loom is delayed (R403). -/
def State.holdWindow (s : State) (c : Nat) (out : Rat) : Nat :=
  let perClock : Rat := if s.clockRate = 0 then 0 else out / s.clockRate
  let n := s.ctxPre c + ((if s.paired || s.bit F.PAIR_STATUS_LOOM_DELAYED then 224 else 128) * perClock).ceil.toNat
  round64 (dataBytes (s.ctxFmt c) n)

end Sys2Proof.Machine
end

