-- ==== Sys2Proof/Machine/Shuttle.lean ====
section
/-! DEFINITION. The pools of the pseudo-channel controllers and the shuttle arbiter (spec/11_memory_and_shuttle.md R280 to R284,
R296 to R303). -/

namespace Sys2Proof.Machine

/-! ### Pools -/

/-- The pool of a pseudo-channel controller, in order of arrival (R282). -/
def State.pool (s : State) (p : Nat) : List PoolEntry := sparseGet (fun _ => []) s.mem.pools p

def State.setPool (s : State) (p : Nat) (l : List PoolEntry) : State :=
  { s with mem := { s.mem with pools := sparseSet (fun _ => []) s.mem.pools p l } }

/-- Column, bank and row of a local byte address of pseudo-channel p, under the order of its stack (R281). -/
def State.placeIn (s : State) (p a : Nat) : Nat × Nat × Nat := hbmDecode (s.hbmOrder (p / 32)) a

/-- The bank of a local byte address (R280). -/
def State.bankIn (s : State) (p a : Nat) : Nat := (s.placeIn p a).2.1

/-- Whether a pool, in order of arrival, holds a read behind an earlier write of the same column, in bank `bank` when one is named
(R284). -/
def State.inOrder (s : State) (p : Nat) (bank : Option Nat) : List PoolEntry → Bool
  | [] => false
  | e :: l =>
    (e.write && bank.all (· == s.bankIn p e.addr) && l.any (fun f => !f.write && s.placeIn p f.addr == s.placeIn p e.addr)) ||
      s.inOrder p bank l

/-- Whether the transaction at index i of a pool may be issued next (R283, R284): no transaction before it in its bank, or it reads,
every earlier one there writes, and the bank is not in in-order mode. -/
def State.mayIssue (s : State) (p : Nat) (l : List PoolEntry) (i : Nat) : Bool :=
  match l[i]? with
  | none => false
  | some e =>
    let b := s.bankIn p e.addr
    let before := (l.take i).filter (fun f => s.bankIn p f.addr == b)
    before.isEmpty || (!e.write && before.all (·.write) && !s.inOrder p (some b) l)

/-- The key of the block of 64 bytes that holds a local byte address. -/
def blockKey (p a : Nat) : Nat := p * 2 ^ 24 + a / 64

/-- What a write transaction stores, 64 bytes. -/
def PoolEntry.block (e : PoolEntry) (p : Nat) : List Byte :=
  e.data ++ (List.range (64 - e.data.length)).map (fun i => Config.storedByte p e.order (e.data.length + i))

/-- A transaction completes: it leaves the pool, and what it writes stands in the stack. -/
def State.transactionDone (s : State) (p i : Nat) : State :=
  match (s.pool p)[i]? with
  | none => s
  | some e =>
    let s := s.setPool p ((s.pool p).eraseIdx i)
    if e.write then
      { s with mem := { s.mem with blocks := sparseSet (fun _ => []) s.mem.blocks (blockKey p e.addr) (e.block p) } }
    else s

/-- One more transaction of a pool completes, of those that may; which one is open (log 30). -/
def State.nextTransaction (s : State) (p : Nat) : State :=
  let may := (List.range (s.pool p).length).filter (s.mayIssue p (s.pool p))
  s.transactionDone p (may.getD (Config.memPick s.time.clk p % max 1 may.length) 0)

/-- The transactions of a pool that a fabric clock completes; how many is open (log 30). -/
def State.servePool (s : State) (p : Nat) : State :=
  match s.pool p with
  | [] => s
  | l => (List.range (Config.memServed s.time.clk p % (l.length + 1))).foldl (fun s _ => s.nextTransaction p) s

/-- Every transaction of a pool completes. -/
def State.drainPool (s : State) (p : Nat) : State := (List.range (s.pool p).length).foldl (fun s _ => s.nextTransaction p) s

/-- Whether a pseudo-channel's read delay is being swept in the present clock (R288): the pseudo-channels in turn, each for an equal
part of the pass (log 146). -/
def State.resweeping (s : State) (p : Nat) : Bool :=
  match s.mem.track with
  | some t => t.turn[(s.time.clk - t.start) * t.turn.length / max 1 t.clocks]? == some p
  | none => false

/-- Whether the controller of a pseudo-channel issues column commands: not while frozen, released or re-sweeping, and during a
change of point only what is in flight (R288, R289, R292). -/
def State.serving (s : State) (p : Nat) : Bool :=
  s.pcInService p && !s.resweeping p && (match s.mem.change with
    | some c => decide (s.time.clk < c.start + 626)
    | none => true)

/-- The controllers in one fabric clock. -/
def State.poolsTick (s : State) : State :=
  ((s.mem.pools.map (·.1)).filter s.serving).foldl State.servePool s

/-- The word of 32 bits that a pseudo-channel holds at a local byte address (R280). -/
def State.hbmWordAt (s : State) (p a : Nat) : Word :=
  match sparseGet (fun _ => []) s.mem.blocks (blockKey p a) with
  | [] => Config.hbmWord s.mem.era p (s.placeIn p a) (a % 32 / 4)
  | bs => BitVec.ofNat 32 (leNat (sliceBytes bs (a % 64 / 4 * 4) 4))

/-! ### Requests -/

/-- The shuttle of a stack. -/
def State.shuttle (s : State) (st : Nat) : Shuttle := sparseGet (fun _ => Shuttle.init) s.shuttles st

def State.setShuttle (s : State) (st : Nat) (x : Shuttle) : State :=
  { s with shuttles := sparseSet (fun _ => Shuttle.init) s.shuttles st x }

/-- The requests that a requester waits with, oldest first. -/
def Shuttle.queue (x : Shuttle) (r : Nat) : List MemReq := sparseGet (fun _ => []) x.queues r

/-- The first request of a run: up to 256 bytes (R296). -/
def MemReq.first (q : MemReq) : MemReq := { q with bytes := min 256 q.bytes, data := q.data.take 256 }

/-- The rest of a run. -/
def MemReq.rest (q : MemReq) : List MemReq :=
  if q.bytes ≤ 256 then [] else [{ q with addr := q.addr + 256, bytes := q.bytes - 256, data := q.data.drop 256 }]

/-- How many requests runs hold. -/
def requestCount (l : List MemReq) : Nat := l.foldl (fun a q => a + ceilDiv q.bytes 256) 0

/-- The first n requests of runs. -/
def firstRequests : Nat → List MemReq → List MemReq
  | 0, _ => []
  | _ + 1, [] => []
  | n + 1, q :: l => q.first :: firstRequests n (q.rest ++ l)

/-- The requests in a requester's pending queue of 16 entries; the requester stalls with what comes behind them (R297). -/
def Shuttle.pending (x : Shuttle) (r : Nat) : List MemReq := firstRequests 16 (x.queue r)

/-- Puts a run of requests behind those of requester r (R296, R297). -/
def State.offer (s : State) (r : Nat) (q : MemReq) : State :=
  if q.bytes = 0 then s
  else
    let x := s.shuttle (q.pc / 32)
    s.setShuttle (q.pc / 32) { x with queues := sparseSet (fun _ => []) x.queues r (x.queue r ++ [q]) }

/-- The requests of requester r for the bytes `lo` to `hi` of an area whose chunk n lies where `place` says, as pseudo-channel and
local byte address; `data` are the bytes when they are written. -/
def State.offerArea (s : State) (r : Nat) (write : Bool) (data : List Byte) (lo hi : Nat) (place : Nat → Option (Nat × Nat)) :
    State :=
  if hi ≤ lo then s
  else
    (List.range ((hi - 1) / 2048 - lo / 2048 + 1)).foldl (fun s i =>
      let n := lo / 2048 + i
      let from' := max lo (2048 * n)
      let upto := min hi (2048 * n + 2048)
      match place n with
      | some (p, a) => s.offer r { pc := p, write := write, addr := a + from' % 2048, bytes := upto - from',
                                   data := (data.drop (from' - lo)).take (upto - from') }
      | none => s) s

/-- The local byte address of chunk n of an area (R248, log 95). -/
def chunkAddr (area id n : Nat) : Nat := Config.chunkPlace area id n % pcChunks * 2048

/-- The requests for the ring bytes `start` to `stop` of context c. -/
def State.offerRing (s : State) (r : Nat) (write : Bool) (data : List Byte) (c start stop : Nat) : State :=
  s.offerArea r write data start stop (fun n =>
    (sparseGet (fun _ => none) (s.keepOf c).chunks n).map (fun p => (p, chunkAddr 0 c n)))

/-- The chunks of 2 KiB that areas with pseudo-channels of their own take, in rotation. -/
def placeOver (area id : Nat) (pcs : List Nat) (n : Nat) : Option (Nat × Nat) :=
  pcs[n % max 1 pcs.length]?.map (fun p => (p, chunkAddr area id n))

/-- The requests for the stored bytes `lo` to `hi` of a record: a report's and a mirrored record's data stand in chunks of
their own (R273, R397). -/
def State.offerRead (s : State) (req : Nat) (r : Record) (lo hi : Nat) : State :=
  if r.job.isSome || r.replay then s.offerArea req false [] lo hi (placeOver 1 (r.ctx * 2 ^ 48 + r.cseq) r.reportPcs)
  else s.offerRing req false [] r.ctx (r.start + lo) (r.start + hi)

/-- The request for the slot of a record: 64 bytes in the highest 4 MiB of its pseudo-channel (R248, R281). -/
def State.offerSlot (s : State) (req : Nat) (write : Bool) (data : List Byte) (r : Record) : State :=
  match r.slot with
  | some i => s.offer req { pc := i % 64, write := write, addr := 801112064 + i / 64 * 64, bytes := 64, data := data }
  | none => s

/-! ### Rounds -/

/-- The setting of a requester's LIMIT; 0 behaves as 1. -/
def State.arbLimit (s : State) (st r : Nat) : Nat := max 1 (s.getF (F.ARB_RQ_LIMIT st r))

/-- Whether a requester has used its quota in the current window (R299). -/
def State.arbMasked (s : State) (st r : Nat) : Bool :=
  let q := s.getF (F.ARB_RQ_QUOTA st r)
  q != 0 && decide (q ≤ sparseGet (fun _ => 0) (s.shuttle st).got r)

/-- Whether a pool takes all transactions of a request of 256 bytes at most: 32 in all, eight to a bank (R282). -/
def State.poolRoom (s : State) (q : MemReq) : Bool :=
  let new := (List.range (ceilDiv q.bytes 64)).map (fun i => q.addr + 64 * i)
  let all := (s.pool q.pc).map (·.addr) ++ new
  decide (all.length ≤ 8) || (decide (all.length ≤ 32) &&
    new.all (fun a => decide ((all.filter (fun b => s.bankIn q.pc b == s.bankIn q.pc a)).length ≤ 8)))

/-- Whether grants toward a pseudo-channel are made (R297): in service, and neither changing nor re-sweeping. -/
def State.grantable (s : State) (p : Nat) : Bool :=
  s.pcInService p && !s.bit F.MEM_STATUS_CHANGING && !s.resweeping p

/-- A requester's oldest eligible request (R297): of those of one pseudo-channel only the first, which goes before the others. -/
def State.arbRequest (s : State) (st r : Nat) : Option MemReq :=
  if s.arbMasked st r then none
  else
    let l := (s.shuttle st).pending r
    l.find? (fun q => s.grantable q.pc && s.poolRoom q && (l.find? (fun f => f.pc == q.pc)) == some q)

/-- The pseudo-channel of a requester's oldest eligible request. -/
def State.arbOffer (s : State) (st r : Nat) : Option Nat := (s.arbRequest st r).map (·.pc)

/-- One round's progress: grants so far (requester, pseudo-channel, forced), and the pointers. -/
structure ArbRound where
  grants : List (Nat × Nat × Bool)
  ptr : Sparse Nat
  forcedPtr : Nat
deriving DecidableEq, Repr

/-- The first requester of a list from a pointer, ascending modulo 12. -/
def firstFrom (ptr : Nat) (l : List (Nat × Nat)) : Option (Nat × Nat) :=
  l.foldl (fun a q =>
    match a with
    | none => some q
    | some b => if (q.1 + 12 - ptr) % 12 < (b.1 + 12 - ptr) % 12 then some q else a) none

/-- One slot of a round (R298). -/
def State.arbSlot (s : State) (st : Nat) (offers : List (Nat × Nat)) (a : ArbRound) : ArbRound :=
  let cand := offers.filter (fun q => !(a.grants.any (fun g => g.2.1 == q.2)))
  let waits := (s.shuttle st).wait
  let forced := cand.filter (fun q => decide (s.arbLimit st q.1 ≤ sparseGet (fun _ => 0) waits q.1))
  match firstFrom a.forcedPtr forced with
  | some q => { a with grants := a.grants ++ [(q.1, q.2, true)], forcedPtr := (q.1 + 1) % 12 }
  | none =>
    let top := cand.foldl (fun m q => max m (s.getF (F.ARB_RQ_PRIO st q.1))) 0
    match firstFrom (sparseGet (fun _ => 0) a.ptr top) (cand.filter (fun q => s.getF (F.ARB_RQ_PRIO st q.1) == top)) with
    | some q => { a with grants := a.grants ++ [(q.1, q.2, false)],
                         ptr := sparseSet (fun _ => 0) a.ptr top ((q.1 + 1) % 12) }
    | none => a

/-- Takes the first request toward p off runs. -/
def takeRequest (p : Nat) : List MemReq → List MemReq
  | [] => []
  | q :: l => if q.pc = p then q.rest ++ l else q :: takeRequest p l

/-- A request of at most 256 bytes enters the pool of its pseudo-channel, as transactions of 64 bytes (R282). -/
def State.enterPool (s : State) (r : Nat) (q : MemReq) : State :=
  let n := sparseGet (fun _ => 0) s.mem.arrived q.pc
  let k := ceilDiv q.bytes 64
  let new := (List.range k).map (fun i : Nat =>
    ({ write := q.write, addr := q.addr + 64 * i, requester := r, order := n + i, data := (q.data.drop (64 * i)).take 64 } : PoolEntry))
  let s := s.setPool q.pc (s.pool q.pc ++ new)
  { s with mem := { s.mem with arrived := sparseSet (fun _ => 0) s.mem.arrived q.pc (n + k) } }

/-- The requesters masked as QUOTA and the window's grants now stand; EVENTS tells of each once (R299, R300). -/
def State.noteMasked (s : State) (st : Nat) : State :=
  let now := (List.range 12).filter (s.arbMasked st)
  let old := (s.shuttle st).masked
  let s := (now.filter (fun r => !old.contains r)).foldl (fun s r => s.hwSet (bitFld (Reg.ARB_EVENTS st) (16 + r))) s
  s.setShuttle st { s.shuttle st with masked := now }

/-- What a grant does: the request leaves for its pool, and the counters and the window's count rise. -/
def State.arbGrant (s : State) (st : Nat) (g : Nat × Nat × Bool) : State :=
  let x := s.shuttle st
  let q := (x.pending g.1).find? (fun q => q.pc == g.2.1)
  let s := s.setShuttle st { x with
    queues := sparseSet (fun _ => []) x.queues g.1 (takeRequest g.2.1 (x.queue g.1))
    wait := sparseSet (fun _ => 0) x.wait g.1 0
    got := sparseSet (fun _ => 0) x.got g.1 (sparseGet (fun _ => 0) x.got g.1 + 1) }
  let s := match q with
    | some q => s.enterPool g.1 q
    | none => s
  let s := s.rclAdd (Reg.ARB_GRANTS st g.1) 1
  if g.2.2 then (s.rclAdd (Reg.ARB_FORCED st g.1) 1).hwSet (bitFld (Reg.ARB_EVENTS st) g.1) else s

/-- A quota window begins, of as many rounds as WINDOW says (R299, R300, R303). -/
def State.startWindow (s : State) (st : Nat) : State :=
  s.setShuttle st { s.shuttle st with
    got := [], masked := [], round := 0, len := max 1 (fieldOf (s.reg (Reg.ARB_WINDOW st)) 0 16) }

/-- Whether every round of the current window is made. -/
def State.windowOver (s : State) (st : Nat) : Bool := decide ((s.shuttle st).len ≤ (s.shuttle st).round)

/-- The slots of a round (R298): the grants, and what they leave of the pointers and wait counters. -/
def State.arbSlots (s : State) (st : Nat) : State :=
  let offers := (List.range 12).filterMap (fun r => (s.arbOffer st r).map (fun p => (r, p)))
  let x := s.shuttle st
  let a := (List.range 4).foldl (fun a _ => s.arbSlot st offers a)
    ({ grants := [], ptr := x.ptr, forcedPtr := x.forcedPtr } : ArbRound)
  let lost := offers.filter (fun q => !(a.grants.any (fun g => g.1 == q.1)))
  let wait := lost.foldl (fun w q => sparseSet (fun _ => 0) w q.1 (min 255 (sparseGet (fun _ => 0) w q.1 + 1))) x.wait
  let s := s.setShuttle st { x with wait := wait, ptr := a.ptr, forcedPtr := a.forcedPtr, round := x.round + 1 }
  a.grants.foldl (fun s g => s.arbGrant st g) s

/-- A round of one shuttle (R296 to R299); the next window begins with the first round after the last of its WINDOW. -/
def State.arbRound (s : State) (st : Nat) : State :=
  let s := if s.windowOver st then s.startWindow st else s
  ((s.noteMasked st).arbSlots st).noteMasked st

/-- Both shuttles' rounds in one fabric clock. -/
def State.shuttleTick (s : State) : State := if s.operational then (s.arbRound 0).arbRound 1 else s

/-- QUOTA_WINDOW_END (R299): once the last round of the window is made, the next window begins. -/
def execQuotaWindowEnd (stack : Fin 2) (s : State) : Result :=
  .next (if s.operational && s.windowOver stack then s.startWindow stack else s)

end Sys2Proof.Machine
end

