-- ==== Sys2Proof/Machine/Swap.lean ====
section
/-! DEFINITION. The Loom's cursors and the exchange of its table banks (spec/03_axis_and_loom.md R85, R100 to R103). -/

namespace Sys2Proof.Machine

def State.cursor (s : State) (k : Nat) : CursorSt := sparseGet (fun _ => CursorSt.init) s.loom.cursors k

def State.setCursor (s : State) (k : Nat) (x : CursorSt) : State :=
  { s with loom := { s.loom with cursors := sparseSet (fun _ => CursorSt.init) s.loom.cursors k x } }

/-- The physical bank that serves as FRONT, or the other. -/
def State.bank (s : State) (front : Bool) : Sparse (BitVec 128) :=
  if s.bit F.LOOM_STATUS_FRONT_PHYS == front then s.loom.bank1 else s.loom.bank0

/-- Whether the evaluations of the present clock still meet the bank that was FRONT before an exchange (R102). -/
def State.meetsOld (s : State) : Bool :=
  match s.loom.swapAt with
  | some (b, _) => decide (s.time.clk ≤ b + 1)
  | none => false

/-- Cursor k arrives at a tread, to evaluate it in the next clock (R85); an enabled cursor is then no longer halted. -/
def State.arrive (s : State) (k tread : Nat) : State :=
  let s := (s.setF (F.LOOM_CURSOR_TREAD k) (tread % 4096)).setBit (F.LOOM_CURSOR_WAITING k) false
  let s := if (s.getF F.LOOM_CTRL_CURSOR_EN).testBit k then s.setBit (F.LOOM_CURSOR_HALTED k) false else s
  (s.setBit (bitFld Reg.LOOM_STATUS (4 + k)) false).setCursor k
    { arrival := s.time.clk + 1, tally := 0, next := s.time.clk + 1 }

/-- Every cursor arrives at its index in the new FRONT, or with RESTART each enabled one at its ENTRY (R102); it is evaluated
from clock n on. -/
def State.arriveAll (s : State) (restart : Bool) (n : Nat) : State :=
  (List.range 4).foldl (fun s k =>
    let i := if restart && (s.getF F.LOOM_CTRL_CURSOR_EN).testBit k then s.fieldAt (Reg.LOOM_ENTRY k) 0 12
      else s.getF (F.LOOM_CURSOR_TREAD k)
    (s.arrive k i).setCursor k { arrival := n, tally := 0, next := n }) s

/-- The arrivals of an exchange, made in the clock in which the evaluations first meet it (R102). -/
def State.finishSwap (s : State) : State :=
  match s.loom.swapAt with
  | some (b, restart) =>
    if s.time.clk < b + 2 then s
    else ({ s with loom := { s.loom with swapAt := none, frontWas := [] } } : State).arriveAll restart s.time.clk
  | none => s

/-- The exchange of FRONT and BACK at boundary clock b (R102): evaluations in clock b, made in clock b + 1, meet the old FRONT.
The arrivals of an exchange one clock before come first. -/
def State.exchange (s : State) (q : SwapReq) (b : Nat) : State :=
  let s := match s.loom.swapAt with
    | some (_, restart) => s.arriveAll restart (s.time.clk + 1)
    | none => s
  let s := s.setBit F.LOOM_STATUS_FRONT_PHYS (!s.bit F.LOOM_STATUS_FRONT_PHYS)
  ({ s with loom := { s.loom with swapAt := some (b, q.restart), frontWas := [] } } : State).hwSet F.LOOM_EVENTS_SWAP_DONE

/-- The pending request is no longer pending. -/
def State.endSwap (s : State) : State :=
  ({ s with loom := { s.loom with swap := none } } : State).setBit F.LOOM_STATUS_SWAP_PENDING false

/-- Whether the position reaches a whole axis unit in clock n, in the direction of motion (R101). -/
def State.unitReached (s : State) (n : Nat) : Bool :=
  let now := s.axisAt n
  let before := s.axisAt ((n : Int) - 1)
  if 0 < s.axisDir then decide (before / 2 ^ 48 < now / 2 ^ 48) else decide ((-before) / 2 ^ 48 < (-now) / 2 ^ 48)

/-- Whether the boundary of a request falls in clock n, a clock after that of the request (R101; log 105): the present clock,
or for AXIS_UNIT the one before. The Loom runs in the clock of a stop's write (R33). -/
def State.atBoundary (s : State) (q : SwapReq) (n : Nat) : Bool :=
  decide (q.at' < n) && (match q.boundary with
    | 0 => n == s.time.clk && !s.bit F.LOOM_STATUS_RUNNING && s.loom.stopAt != some n
    | 1 => s.unitReached n
    | _ => n == s.time.clk && q.closed)

/-- A pending exchange whose boundary falls in the present clock, or fell in the one before through an edge that came in it
(R101). -/
def State.swapDue (s : State) : State :=
  match s.loom.swap with
  | some q =>
    if s.atBoundary q (s.time.clk - 1) then (s.exchange q (s.time.clk - 1)).endSwap
    else if s.atBoundary q s.time.clk then (s.exchange q s.time.clk).endSwap
    else s
  | none => s

/-- A request withdrawn in clock n whose boundary falls in that clock is carried out after all (R103). -/
def State.cancelLate (s : State) (n : Nat) : State :=
  match s.loom.swapGone with
  | some (c, q) =>
    if c == n && s.atBoundary q n then
      ({ s.exchange q n with loom := { (s.exchange q n).loom with swapGone := none } } : State).hwSet F.LOOM_EVENTS_CANCEL_LATE
    else s
  | none => s

/-- A write of CANCEL (R103): a request whose boundary falls in its clock is carried out. -/
def State.swapCancel (s : State) : State :=
  match s.loom.swap with
  | some q =>
    if s.atBoundary q s.time.clk then (s.exchange q s.time.clk).endSwap.hwSet F.LOOM_EVENTS_CANCEL_LATE
    else ({ s with loom := { s.loom with swapGone := some (s.time.clk, q) } } : State).endSwap
  | none =>
    if s.loom.swapAt.any (fun p => p.1 == s.time.clk) then s.hwSet F.LOOM_EVENTS_CANCEL_LATE else s

/-- A segment of context c has closed, which a SEGMENT_END request of an earlier clock waits for (R101, R103). -/
def State.swapClosed (s : State) (c : Nat) : State :=
  let mark (q : SwapReq) : SwapReq := if q.ctx = c ∧ q.at' < s.time.clk then { q with closed := true } else q
  let s : State := { s with loom := { s.loom with
    swap := s.loom.swap.map mark, swapGone := s.loom.swapGone.map (fun p => (p.1, mark p.2)) } }
  s.swapDue.cancelLate s.time.clk

end Sys2Proof.Machine
end

