-- ==== Sys2Proof/Machine/SegOps.lean ====
section
/-! DEFINITION. Records: their headers, lifecycle, gaps and delivery (spec/09_segments_and_placement.md R226 to R249,
spec/17_faults_and_ordering.md R411 to R428). -/

namespace Sys2Proof.Machine

/-- The ARRAY_ID that headers carry: the pair base under a PAIRED policy, else the engine's own (R387). -/
def State.headerId (s : State) : Nat :=
  let id := s.board.straps.arrayId.toNat
  if s.bit F.DEV_CAPS_PAIRED then id - id % 2 else id

/-- The native header of a record at a consumer (R236 to R239). -/
def State.nativeHeader (s : State) (r : Record) (d : Delivery) (spilled : Bool) : List Byte :=
  let gap := r.kind == .gap || d.gap.isSome
  let kind := if gap then 2 else if r.kind == .marker then 3 else 1
  let word0 := r.lane * 2 ^ 26 + r.ctx * 2 ^ 16 + s.headerId * 2 ^ 8 + r.fmt * 2 ^ 4 + kind
  let flags := r.flags + (if spilled then 2 ^ 13 else 0)
  let cause := match d.gap with
    | some g => g.code
    | none => r.cause
  let samples := if d.gap.isSome then 0 else r.samples
  let body (fl : Nat) := leBytes 4 word0 ++ leBytes 4 fl ++ leBytes 6 r.cseq ++ leBytes 1 r.src ++ leBytes 1 cause ++
    leBytes 8 (d.gseq.getD 0) ++ leBytes 8 (r.ts / 2 ^ 32) ++ leBytes 4 r.ts ++ leBytes 5 samples ++
    leBytes 5 r.pretrig ++ leBytes 2 r.trigFrac ++ leBytes 8 (toBitsInt 64 r.axisPos) ++ leBytes 6 r.delay
  body (flags + if d.again then 2 ^ 11 else 0) ++ leBytes 2 (crc16 (body flags)).toNat

/-- The header under predecessor behaviour (R240). -/
def compatHeader (r : Record) (d : Delivery) (spilled : Bool) : List Byte :=
  let gap := r.kind == .gap || d.gap.isSome
  let kind := if gap then 2 else if r.kind == .marker then 3 else 1
  let word0 := r.lane * 2 ^ 26 + r.ctx * 2 ^ 16 + r.fmt * 2 ^ 4 + kind
  let flags := r.flags + (if spilled then 2 ^ 13 else 0)
  let cause := match d.gap with
    | some g => g.code
    | none => r.cause
  let samples := if d.gap.isSome then 0 else r.samples
  let body (fl : Nat) := leBytes 4 word0 ++ leBytes 2 fl ++ leBytes 1 r.src ++ leBytes 1 cause ++ leBytes 4 r.cseq ++
    leBytes 4 r.ts ++ leBytes 8 (r.ts / 2 ^ 32) ++ leBytes 4 samples ++ leBytes 2 r.trigFrac
  body (flags + if d.again then 2 ^ 11 else 0) ++ leBytes 2 (crc16 (body flags)).toNat

/-- The header a consumer receives; `toStream` selects the STREAM copy. -/
def State.header (s : State) (r : Record) (toStream : Bool) : List Byte :=
  let d := if toStream then r.stream else r.host
  let spilled := toStream && r.stream.spilled
  if s.bit F.DRAFT_STATUS_COMPAT_ACTIVE then compatHeader r d spilled else s.nativeHeader r d spilled

/-- The data that a record still carries to a consumer: none once it is a gap there. -/
def Record.dataFor (r : Record) (toStream : Bool) : List Byte :=
  let d := if toStream then r.stream else r.host
  if d.gap.isSome then [] else r.data

/-- Where a delivery stands before anything happens. -/
def Delivery.new (wanted : Bool) : Delivery :=
  { wanted := wanted, gseq := none, gap := none, visible := false, acked := false, spilled := false, mirrored := false, hand := false
    again := false }

/-- A record of context c with the next per-context sequence (R232), in state OPEN; header fields are those every record
starts with. -/
def State.blankRecord (s : State) (c : Nat) (kind : RecKind) : Record :=
  { ctx := c, cseq := (s.keepOf c).next, kind := kind, state := .opened,
    lane := match s.liveOf c with
      | some x => x.lane
      | none => 0
    fmt := s.ctxFmt c, src := 0xFF, cause := 0, ts := 0, samples := 0, pretrig := 0, trigFrac := 0, axisPos := 0,
    delay := 0, flags := 0, len := 0, pre := 0, cut := none, openedIn := s.time.clk, readyIn := 0, slot := none,
    start := (s.keepOf c).ringPos, bytes := 0, reportPcs := [], job := none, data := [], dq := s.getF (F.CTX_STORE_DQ c),
    host := Delivery.new (s.bit (F.CTX_STORE_HOST_EN c)), stream := Delivery.new (s.bit (F.CTX_STORE_STREAM_EN c)),
    replay := false }

/-- Appends a record: it takes a slot when one is free, and its per-context sequence (R229, R232, R243). -/
def State.addRecord (s : State) (r : Record) : State :=
  let r := { r with slot := s.takeSlot }
  let s := s.setKeep r.ctx { s.keepOf r.ctx with next := (r.cseq + 1) % 2 ^ 48 }
  ({ s with seg := { s.seg with recs := s.seg.recs ++ [r] } } : State).nextFree

/-- Gives freed slots to the markers and gaps that wait, in issue order (R226, R243). -/
def State.serveMarkers (s : State) : State :=
  s.seg.recs.foldl (fun s r =>
    if r.kind == .segment || r.slot.isSome || r.state != .opened then s
    else
      match s.takeSlot with
      | none => s
      | some i =>
        (s.mapRecs (fun q => q.ctx == r.ctx && q.cseq == r.cseq) (fun q => { q with slot := some i, state := .closing })).nextFree) s

/-- A gap that stands for something without data (R238): RING_FULL, TABLE_FULL and BEAM_DEGRADED. It closes at once, or waits
for a slot in a full table as a marker does (R226, R243). -/
def State.addGap (s : State) (r : Record) (cause : GapCause) : State :=
  let s := s.addRecord { r with
    kind := .gap, cause := cause.code, state := if (s.takeSlot).isSome then .closing else .opened }
  s.rclAdd (Reg.FLT_GAP (cause.code - 1)) 1

/-- Appends a marker (R87, R243): it closes at once, or waits for a slot in a full table and is counted. -/
def State.addMarker (s : State) (r : Record) : State :=
  if (s.takeSlot).isSome then s.addRecord { r with kind := .marker, state := .closing }
  else (((s.addRecord { r with kind := .marker, state := .opened }).rclAdd Reg.SEG_TABLE_FULL_COUNT 1).hwSet
    F.SEG_EVENTS_TABLE_FULL).hwSet F.FLT_CLASS_CAPACITY

/-- The gap that announces a run of refused triggers (R238, R241, R243). -/
def State.announceRun (s : State) (c : Nat) : State :=
  match (s.keepOf c).run with
  | none => s
  | some run =>
    let s := s.setKeep c { s.keepOf c with run := none }
    let lane := match s.liveOf c with
      | some x => delayFixed (s.lane x.lane).eff (s.lane x.lane).kinds
      | none => 0
    s.addGap { s.blankRecord c .gap with
      src := run.src, ts := run.ts, axisPos := run.axisPos, samples := run.count, delay := lane } run.cause

/-- A delivery that becomes a gap, where the record is wanted and not yet VISIBLE (R428). -/
def Delivery.toGap (d : Delivery) (cause : GapCause) : Delivery :=
  if d.wanted && !d.visible && d.gap.isNone then { d with gap := some cause, mirrored := false } else d

/-- Whether a record's data is needed no more: it is VISIBLE or a gap at each consumer. -/
def Record.spent (r : Record) : Bool :=
  (!r.host.wanted || r.host.visible || r.host.gap.isSome) && (!r.stream.wanted || r.stream.visible || r.stream.gap.isSome)

/-- Frees the slot of a record that became a gap in a freeze: at once outside frozen pseudo-channels (R427), where those that
wait for a slot take it. -/
def State.freeSlotOf (s : State) (r : Record) : State :=
  match r.slot with
  | none => s
  | some i =>
    let s := s.mapRecs (fun q => q.ctx == r.ctx && q.cseq == r.cseq) (fun q => { q with slot := none })
    if s.pcFrozen (i % 64) then { s with seg := { s.seg with deadSlots := i :: s.seg.deadSlots } } else s.serveMarkers

/-- A protected ACTIVE sends the HAND cell of a record for one consumer (R397). -/
def State.sendHand (s : State) (r : Record) (toStream : Bool) : State :=
  let d := if toStream then r.stream else r.host
  s.sendCell (.hand (if toStream then .stream else .host) r.ctx r.cseq (d.gseq.getD 0) (s.header r toStream))

/-- A record that became a gap after its HAND cell has another one, with the header of the gap (R397, R428). -/
def State.handAgain (s : State) (old new : Record) : State :=
  if !s.isProtectedActive then s
  else
    let s := if new.host ≠ old.host ∧ new.host.hand then s.sendHand new false else s
    if new.stream ≠ old.stream ∧ new.stream.hand then s.sendHand new true else s

/-- Whether a record stands at a consumer waiting to become VISIBLE there. -/
def Record.waitingAt (r : Record) (toStream : Bool) : Bool :=
  let d := if toStream then r.stream else r.host
  d.wanted && !d.visible

/-- Whether a record is held at a consumer (R424, R428): it lies in the frozen region, and is neither VISIBLE nor a gap there. -/
def State.heldFor (s : State) (r : Record) (toStream : Bool) : Bool :=
  s.recHeld r && r.waitingAt toStream && (if toStream then r.stream.gap.isNone else r.host.gap.isNone)

/-- The oldest record of a context not yet VISIBLE at a consumer. -/
def State.oldestAt (s : State) (c : Nat) (toStream : Bool) : Option Record :=
  (s.recsOf c).find? (fun r => r.waitingAt toStream)

/-- Whether delivery of a context stops at a held record at a consumer (R424). -/
def State.stopsAt (s : State) (c : Nat) (toStream : Bool) : Bool :=
  match s.oldestAt c toStream with
  | some r => s.heldFor r toStream
  | none => false

/-- Judges anew where delivery of a context stops: HELD, FREEZE_HELD and the GAP_AFTER timer, which starts with the stop (R424,
R426). -/
def State.judgeHeld (s : State) (c : Nat) : State :=
  let k := s.keepOf c
  let h := s.stopsAt c false
  let t := s.stopsAt c true
  let stops := (h && !k.heldHost) || (t && !k.heldStream)
  let s := if stops then s.hwSet F.FLT_CLASS_FREEZE_HELD else s
  let anyHeld := (s.recsOf c).any (fun r => s.heldFor r false || s.heldFor r true)
  let timer := if !anyHeld then none
    else if k.timer.isSome || k.expired then k.timer
    else if stops && s.getF (F.CTX_STORE_ON_FREEZE c) == 1 then some s.time.clk else none
  s.setKeep c { k with heldHost := h, heldStream := t, timer := timer, expired := k.expired && anyHeld }

/-- Judges every context that has records. -/
def State.judgeAll (s : State) : State := (s.seg.keep.map (·.1)).foldl State.judgeHeld s

/-- Makes a record a gap at the consumers of `atHost` and `atStream` where it is not VISIBLE (R238, R242, R427, R428).
Nothing happens where it is a gap, or VISIBLE, at each of them already. -/
def State.gapRecord (s : State) (r : Record) (cause : GapCause) (atHost atStream : Bool) : State :=
  let h := if atHost then r.host.toGap cause else r.host
  let t := if atStream then r.stream.toGap cause else r.stream
  let none' := !r.host.wanted && !r.stream.wanted
  if h = r.host ∧ t = r.stream ∧ !none' then s
  else
    let r' := { r with host := h, stream := t }
    let fresh := r.host.gap != some cause && r.stream.gap != some cause
    let r' := if r'.spent then { r' with bytes := 0, data := if r'.host.visible || r'.stream.visible then r'.data else [] } else r'
    let s := (s.mapRecs (fun q => q.ctx == r.ctx && q.cseq == r.cseq) (fun _ => r')).handAgain r r'
    let s := if fresh then s.rclAdd (Reg.FLT_GAP (cause.code - 1)) 1 else s
    let frozen := cause == .hbmRetired || cause == .hbmUnreadable || cause == .freezeTimeout
    let s := if frozen && r'.spent then s.freeSlotOf r' else s
    (s.gcChunks r.ctx).judgeHeld r.ctx

/-- Changes a job, and what it was before the events of the present clock that order it. -/
def State.editJob (s : State) (j : Nat) (f : JobSt → JobSt) : State :=
  { s with beam := { s.beam with
    jobs := sparseSet (fun _ => JobSt.init) s.beam.jobs j (f (sparseGet (fun _ => JobSt.init) s.beam.jobs j))
    pre := s.beam.pre.map (fun p => if p.1 = j then (j, f p.2.1, p.2.2) else p) } }

/-- Frees what a retiring record holds besides its place: a report's result buffer (R273). -/
def State.freeBuffer (s : State) (r : Record) : State :=
  match r.job with
  | none => s
  | some j => s.editJob j (fun x => { x with bufs := x.bufs.map (fun b => if b == some (r.ctx, r.cseq) then none else b) })

/-- Whether every consumer of a record has acknowledged it (R235). -/
def Record.allAcked (r : Record) : Bool :=
  r.state == .handed && (!r.host.wanted || r.host.acked) && (!r.stream.wanted || r.stream.acked)

/-- Retires the records of context c that are acknowledged, in sequence order (R235). -/
def State.retireFrom (c : Nat) : Nat → State → State
  | 0, s => s
  | n + 1, s =>
    match s.recsOf c with
    | [] => s
    | r :: _ =>
      if r.allAcked then
        let s : State := { s with seg := { s.seg with
          recs := s.seg.recs.filter (fun q => !(q.ctx == c && q.cseq == r.cseq)) } }
        retireFrom c n ((s.freeBuffer r).gcChunks c).serveMarkers
      else s

/-- Retirement in context c (R229, R235). -/
def State.retire (s : State) (c : Nat) : State := State.retireFrom c (s.recsOf c).length s

/-- Whether the engine delivers: in IDLE, ARMED and ACQUIRING (R28), in the roles STANDALONE and ACTIVE (R388). -/
def State.delivers (s : State) : Bool :=
  s.operational && (s.getF F.PAIR_STATUS_ROLE == 0 || s.getF F.PAIR_STATUS_ROLE == 1)

/-- PAIR_QUIET is pulled low in a delivering role and released otherwise, and in OFF, AON_UP and RESET (R399, R418). -/
def State.pairQuietLow (s : State) : Bool := s.delivers

/-- Where a uniform lane's outputs lie: ratio, offset of output 0 from absolute index 0, both in channel samples,
corrected (R205, R212, R216). -/
def uniformGrid (p : LaneSet) (kinds : List Nat) : Rat × Rat :=
  let d := laneDelay p kinds
  let before := kinds.takeWhile (· != 4)
  if kinds.contains 4 then
    let cum : Rat := ratioOf p before
    let step : Rat := if p.rsDen = 0 then 1 else (p.rsNum : Rat) / p.rsDen
    let after : Rat := ratioOf p (kinds.dropWhile (· != 4)).tail
    (cum * step * after, 4095.5 / 256 * cum - d)
  else ((ratioOf p kinds : Nat), -d)

/-- The trigger instant in channel samples. -/
def State.inSamples (s : State) (t : Instant) : Rat := (t : Rat) * s.samplesPerClock / 2 ^ 32

/-- TRIG_FRAC on a uniform grid (R217, R236). -/
def State.uniformFrac (s : State) (l : Nat) (t : Instant) : Nat :=
  let x := s.lane l
  let (r, o) := uniformGrid x.eff x.kinds
  if r = 0 then 0
  else
    let k := ((s.inSamples t - o) / r).ceil
    min 65535 (((k : Rat) * r + o - s.inSamples t) / r * 65536).floor.toNat

/-- The number of the first output of a lane's stages that inputs from their restarts on give (R205, R206): `cum` is the ratio
of the inputs, `n` the first input at hand. -/
def firstOutput (p : LaneSet) : Rat → Int → List Nat → List Nat → Int
  | _, n, [], _ => n
  | cum, n, k :: ks, since =>
    let from' : Int := if cum = 0 then n else max n ((since.headD 0 : Nat) / cum : Rat).ceil
    let full : Int := from' + stageSpan p k - 1
    match k with
    | 4 =>
      let step : Rat := if p.rsDen = 0 then 1 else (p.rsNum : Rat) / p.rsDen
      firstOutput p (cum * step) (if step = 0 then full else ((full : Rat) / step).ceil) ks since.tail
    | 1 => firstOutput p cum full ks since.tail
    | _ =>
      let r := max 1 (stageRatio p k)
      let low := if k = 5 ∨ k = 6 then from' else full
      firstOutput p (cum * r) ((low : Rat) / r).ceil ks since.tail

/-- The number on a uniform grid of the output at or after an instant in channel samples (R217). -/
def State.outputAt (s : State) (l : Nat) (t : Rat) : Int :=
  let x := s.lane l
  let (r, o) := uniformGrid x.eff x.kinds
  if r = 0 then 0 else ((t - o) / r).ceil

/-- The number of the first output that a uniform lane gives its context (R97, R206). -/
def State.firstGiven (s : State) (l : Nat) : Int :=
  let x := s.lane l
  let start := match x.eras.getLast? with
    | some e => e.start
    | none => 0
  firstOutput x.eff 1 start x.kinds x.since

/-- Samples that a lane gives at each point of its grid: PEAK gives two (R215). -/
def State.perPoint (s : State) (l : Nat) : Nat := if (s.lane l).kinds.getLast? = some 5 then 2 else 1

/-- The pre-trigger outputs that a uniform lane had given before the trigger (R97, R236), counted in samples. -/
def State.outputsBefore (s : State) (r : Record) : Nat :=
  s.perPoint r.lane * (s.outputAt r.lane (s.inSamples r.ts) - s.firstGiven r.lane).toNat

/-- The first sample that an OPEN on a uniform lane names, and the first that the segment then holds (R97), by their numbers on the
grid. -/
def State.firstNamed (s : State) (r : Record) : Int :=
  s.outputAt r.lane (s.inSamples r.ts) - (ceilDiv r.pre (s.perPoint r.lane) : Nat)

def State.firstHeld (s : State) (r : Record) : Int := max (s.firstNamed r) (s.firstGiven r.lane)

/-- The number on a uniform grid of the programmed last sample of a segment (R97, R228). -/
def State.lastNamed (s : State) (r : Record) : Int := s.firstHeld r + (ceilDiv r.len (s.perPoint r.lane) : Nat) - 1

/-- An instant in channel samples as one in 2^-32 fabric clock. -/
def State.clockOf (s : State) (x : Rat) : Int := (x * 2 ^ 32 / s.samplesPerClock).floor

/-- The spacing of a lane's outputs at the trigger (R217, R236): that to the output before it, or after it. -/
def spacing (before outs : List LaneSample) (trig : LaneSample) : Rat :=
  match before.reverse.find? (fun x => x.at' != trig.at'), outs.find? (fun x => trig.at' < x.at') with
  | some p, _ => trig.at' - p.at'
  | none, some q => q.at' - trig.at'
  | none, none => 1

/-- TRIG_FRAC of a trigger that lies `d` before the sample at or after it, the samples being `gap` apart (R236). -/
def fracAt (gap d : Rat) : Nat := if gap = 0 then 0 else min 65535 (d / gap * 65536).floor.toNat

/-- The outputs of a lane without a uniform grid that come of its first `taken` channel samples, their values aside (R206, R213 to
R216). -/
def LaneSt.looseOutputs (x : LaneSt) (taken : Int) : List LaneSample :=
  let before := x.kinds.takeWhile (· != 4)
  let cum := max 1 (ratioOf x.eff before)
  let lastIn := (taken - 1) / cum
  let start := match x.eras.getLast? with
    | some e => e.start
    | none => 0
  let own := (x.since.drop before.length).headD 0
  let firstIn := max (firstOutput x.eff 1 start before x.since) (ceilDiv own cum : Nat)
  let pts := if x.eff.rsMode = 1 then
      stepPositions (fun q => (eraAt x (q * cum).floor.toNat).set) lastIn (4 * (lastIn - x.stepStart.floor + 1).toNat) 0 x.stepStart
    else x.grid.reverse
  let pts := pts.filter (fun g => decide (firstIn ≤ g.pos.floor - 31) && decide (g.pos.floor ≤ lastIn))
  let d := laneDelay x.eff x.kinds
  (runStages x cum (x.kinds.drop (before.length + 1)) (x.since.drop (before.length + 1)) (pts.map (fun g =>
    { idx := g.number, at' := (g.pos + 4095.5 / 256) * cum, newest := g.pos.floor.toNat * cum, w := 0, ovr := false, sat := false,
      skip := g.skipped, clamp := g.clamped }))).map (fun y => { y with at' := y.at' - d })

/-- The channel samples that have reached the lanes: the words sampled up to 19 clocks ago (R19). -/
def State.takenNow (s : State) : Int := ((s.tsc : Int) - 18) * s.samplesPerClock

/-- Those of a lane's outputs that a segment holds (R97): how many lie before the trigger, and all of them. -/
def State.heldOf (s : State) (r : Record) (outs : List LaneSample) : Nat × List LaneSample :=
  let before := outs.takeWhile (fun x => x.at' < s.inSamples r.ts)
  let pre := min r.pre before.length
  (pre, (outs.drop (before.length - pre)).take r.len)

/-- The number after that of the last output that a uniform lane has given: the words sampled up to 19 clocks ago have reached it
(R19, R206), and PEAK and ENVELOPE wait for the end of their interval. -/
def State.outputsGiven (s : State) (l : Nat) : Int :=
  let x := s.lane l
  let r := (uniformGrid x.eff x.kinds).1
  let taken : Rat := s.takenNow
  if r = 0 then 0
  else if x.kinds.getLast? = some 5 ∨ x.kinds.getLast? = some 6 then (taken / r).floor
  else (taken / r).ceil

/-- The samples of an open segment that its lane has given (R229, R230). -/
def State.samplesGiven (s : State) (r : Record) : Nat :=
  let x := s.lane r.lane
  if freeRate x.eff x.kinds then (s.heldOf r (x.looseOutputs s.takenNow)).2.length else
  min r.len (s.perPoint r.lane * (s.outputsGiven r.lane - s.firstHeld r).toNat)

/-- The chunks that a record holds (R229, R249): an open segment holds those of the samples that have arrived. -/
def State.chunksHeld (s : State) (r : Record) : List Nat :=
  if r.kind == .segment && r.state == .opened then
    { r with bytes := min r.bytes (dataBytes r.fmt (s.samplesGiven r)) }.chunkRange
  else r.chunkRange

/-- A flag bit of a header. -/
def flagBit (n : Nat) (b : Bool) : Nat := if b then 2 ^ n else 0

/-- Whether a span of fabric clocks meets one of the spans of a list (R125, R169). -/
def meetsSpan (l : List (Nat × Option Nat)) (lo hi : Int) : Bool :=
  l.any (fun p => decide ((p.1 : Int) ≤ hi) && (match p.2 with
    | some e => decide (lo < e)
    | none => true))

/-- The flags that the instants of a segment's first and last sample give it (R79, R125, R169, R237), as times of the model. -/
def State.timeFlags (s : State) (lo hi : Int) : Nat :=
  flagBit 0 (s.axisWas 1 lo hi) ||| flagBit 1 (s.axisWas 2 lo hi) |||
    flagBit 3 (meetsSpan s.conv.unsettled (lo / 2 ^ 32) (hi / 2 ^ 32)) |||
    flagBit 5 (meetsSpan s.clk.held (lo / 2 ^ 32) (hi / 2 ^ 32))

/-- The model time of a point of a uniform lane's grid. -/
def State.gridTime (s : State) (l : Nat) (k : Int) : Int :=
  let x := s.lane l
  let (r, o) := uniformGrid x.eff x.kinds
  (((k : Rat) * r + o) * 2 ^ 32 / s.samplesPerClock).floor - s.tscOff * 2 ^ 32

/-- Where the trigger sits in a segment that closes now, and what its lane's outputs mark (R97, R214, R236, R238): the pre-trigger
length, TRIG_FRAC (none where the sample at or after the trigger is still to come), whether the segment begins late, its first
instant, and the flags of skipped and clamped grid points. -/
def State.trigPlace (s : State) (r : Record) : Nat × Option Nat × Bool × Int × Nat :=
  let x := s.lane r.lane
  if freeRate x.eff x.kinds then
    let outs := x.looseOutputs s.takenNow
    let t := s.inSamples r.ts
    let before := outs.takeWhile (fun y => y.at' < t)
    let (pre, held) := s.heldOf r outs
    let lo := match held with
      | y :: _ => s.clockOf y.at' - s.tscOff * 2 ^ 32
      | [] => s.modelTime r.ts
    let marks := flagBit 8 (held.any (·.skip)) ||| flagBit 9 (held.any (·.clamp))
    match (outs.drop before.length).head? with
    | some trig =>
      let gap := spacing before outs trig
      (pre, some (fracAt gap (trig.at' - t)), decide (pre < r.pre) || (before.isEmpty && decide (gap ≤ trig.at' - t)), lo, marks)
    | none => (pre, none, decide (pre < r.pre), lo, marks)
  else
    (min r.pre (s.outputsBefore r), some (s.uniformFrac r.lane r.ts), decide (s.firstNamed r < s.firstGiven r.lane),
      s.gridTime r.lane (s.firstHeld r), 0)

/-- Fields of a segment's header that hold when it closes now without its samples (R238): LANE_DELAY, where the trigger sits, and
its flags. DESIGN CHOICE (log 144): what only the samples' values tell, OVER_RANGE and LANE_SAT, is a free value, since the command
that closes the segment does not bring them; and so is TRIG_FRAC where the lane has not given the trigger's sample. -/
def State.placeTrigger (s : State) (r : Record) : Record :=
  let x := s.lane r.lane
  let (pre, frac, short, lo, marks) := s.trigPlace r
  let bits := (Config.freeWord (s.time.free + 1)).toNat &&& 0x50
  { r with pretrig := pre, delay := delayFixed x.eff x.kinds
           trigFrac := frac.getD ((Config.freeWord s.time.free).toNat % 65536)
           flags := r.flags ||| bits ||| marks ||| s.timeFlags lo (max lo (((s.time.clk : Int) - 18) * 2 ^ 32 - 1)) |||
             flagBit 10 short }

/-- The last open segment has closed: ACQUIRING returns to ARMED while the Loom runs, not during a stop (R31). -/
def State.leaveAcquiring (s : State) : State :=
  if s.cur == .acquiring && !s.anyOpen && !s.loom.stopping then s.enter .armed 0x0B else s

/-- What the closing of a segment of context c means for the contexts and the Loom (R25, R98, R101). -/
def State.afterClose (s : State) (c : Nat) : State :=
  let s := match s.liveOf c with
    | some x =>
      if !x.armed || s.loom.stopping then s.setLive c (some { x with release := some (s.time.clk + 1) }) else s
    | none => s
  (s.swapClosed c).leaveAcquiring

/-- Bytes of a beam cell (R253). -/
def beamCellBytes (kind : Nat) : Nat := if kind = 1 then 12 else if kind = 4 then 1 else 4

/-- Bytes of a column of a raster that can spill (R269). -/
def columnBytes (d : JobDesc) : Nat := if d.kind = 2 then d.height * 4 else beamCellBytes d.kind

/-- Whether the prefetch of a spilled raster keeps up with a lane's output rate (R269). -/
def State.prefetchKeepsUp (s : State) (d : JobDesc) (out : Rat) : Bool :=
  decide (s.clockRate ≠ 0 ∧ d.xDiv ≠ 0 ∧ out / s.clockRate / d.xDiv * columnBytes d ≤ 128)

/-- Sets the sticky events that a pass has raised (R278). -/
def State.passEvents (s : State) (was now : BeamPass) : State :=
  let s := if now.binSat && !was.binSat then s.hwSet F.BEAM_EVENTS_BIN_SAT else s
  if was.spillMiss < now.spillMiss then s.hwSet F.BEAM_EVENTS_SPILL_MISS else s

/-- The output rate of a live context's lane. -/
def State.ctxOut (s : State) (c : Nat) : Rat :=
  match s.liveOf c with
  | some x => x.outRate
  | none => 0

/-- The columns, first and one past the last, that n samples of a sweep can reach (R254), `pre` being the pre-trigger length. -/
def JobDesc.reach (d : JobDesc) (pre n : Nat) : Nat × Nat :=
  if d.xMode = 0 then
    let col (i : Nat) : Int := ((i : Int) - pre - d.xStart) / (max 1 d.xDiv : Nat)
    (min d.width (col 0).toNat, min d.width (col n + 1).toNat)
  else (0, d.width)

/-- What a sweep of an open segment has stored so far, which no command has brought (R261). -/
def State.looseSweep (s : State) (d : JobDesc) (r : Record) (f : Nat) : LooseSweep :=
  let n := s.samplesGiven r
  let (lo, hi) := d.reach (s.trigPlace r).1 n
  { n := n, lo := lo, hi := hi, f := f }

/-- A pass with a sweep cut by a fault (R261): the command that cuts it does not bring its samples, so what they added, and how
many of them each counter took, are free values. -/
def BeamPass.cut (p : BeamPass) (d : JobDesc) (late : Bool) (sweep : Nat × Nat) (w : LooseSweep) : BeamPass :=
  let n := w.n
  let f := w.f
  let some' (i : Nat) : Nat := (Config.freeWord (f + 2 ^ 64 * i)).toNat % (n + 1)
  let hit (k : Nat) : Nat := if d.kind = 4 ∧ d.maskSel.testBit k then some' (k + 3) else 0
  let miss := if late then some' 11 else 0
  { p with
    sweepsIn := p.sweepsIn.filter (· != sweep), sweeps := p.sweeps + 1, loose := w :: p.loose
    offRaster := p.offRaster + (if 2 ≤ d.kind ∧ d.kind ≤ 4 ∧ !d.yClamp then some' 0 else 0)
    axisSkip := p.axisSkip + (if d.xMode = 2 then some' 1 else 0)
    binSat := p.binSat || ((d.kind == 2 || d.kind == 3) && some' 2 != 0)
    spillMiss := p.spillMiss + miss, incomplete := p.incomplete || miss != 0
    hits := (List.range 8).map (fun k => p.hits.getD k 0 + hit k)
    sweepsHit := (List.range 8).map (fun k => p.sweepsHit.getD k 0 + if hit k = 0 then 0 else 1) }

/-- A sweep that a fault cuts ends with the samples stored so far (R261). -/
def State.cutSweep (s : State) (r : Record) : State :=
  s.beam.jobs.foldl (fun s q =>
    let cut (p : BeamPass) : BeamPass :=
      match q.2.desc with
      | some d =>
        if p.sweepsIn.contains (r.ctx, r.cseq) then
          p.cut d (q.2.spilled && !s.prefetchKeepsUp d (s.ctxOut r.ctx)) (r.ctx, r.cseq) (s.looseSweep d r s.time.free)
        else p
      | none => p
    let cur := cut q.2.cur
    let old := cut q.2.old
    let s := s.editJob q.1 (fun x => { x with cur := cut x.cur, old := cut x.old })
    ((s.passEvents q.2.cur cur).passEvents q.2.old old).nextFree.nextFree) s

/-- The holdoff of a live context counts from t, and P0 is the position there (R193). -/
def State.withH0 (s : State) (y : LiveCtx) (t : Int) : LiveCtx :=
  let m := t - s.tscOff * 2 ^ 32
  { y with h0 := some t, h0At := m, p0 := s.axisAtTime m }

/-- H0 of a holdoff counted from the end of a segment (R193): known once the end is. -/
def State.holdoffFrom (s : State) (c cseq : Nat) (t : Int) : State :=
  match s.liveOf c with
  | some y => if y.segCseq = cseq ∧ y.h0 = none then s.setLive c (some (s.withH0 y t)) else s
  | none => s

/-- The segment that a SEGMENT holdoff waits for has been handed over (R194). -/
def State.noteHanded (s : State) (r : Record) : State :=
  match s.liveOf r.ctx with
  | some x => if x.holdoff && x.segCseq == r.cseq then s.setLive r.ctx (some { x with segHanded := some s.time.clk }) else s
  | none => s

/-- Closes the open segment of context c as a gap (R34, R171, R238). -/
def State.closeAsGap (s : State) (c : Nat) (cause : GapCause) : State :=
  match s.openRec c with
  | none => s
  | some r =>
    let r' := { s.placeTrigger r with state := .closing }
    let s := (s.mapRecs (fun q => q.ctx == c && q.cseq == r.cseq) (fun _ => r')).nextFree.nextFree
    let s := s.gapRecord r' cause true true
    let s := s.setKeep c { s.keepOf c with lastEnd := some s.now }
    ((s.cutSweep r).holdoffFrom c r.cseq s.now).afterClose c

/-- Closes every open segment as a gap. -/
def State.closeOpenAsGaps (s : State) (cause : GapCause) : State :=
  (s.lives.map (·.1)).foldl (fun s c => s.closeAsGap c cause) s

/-- Releases a live context: its lane, its committed rates, and what reservation it no longer needs (R25, R129, R246). -/
def State.releaseCtx (s : State) (c : Nat) : State :=
  match s.liveOf c with
  | none => s
  | some x => (((s.freeLane x.lane).setLive c none).refreshResv c)

/-- The Loom stops evaluating; live contexts without an open segment are released in the next clock (R33). -/
def State.stopLoom (s : State) : State :=
  let s : State := { s with loom := { s.loom with stopping := true, stopAt := some s.time.clk } }
  let s := ((s.setBit F.LOOM_STATUS_STOPPING true).setBit F.LOOM_STATUS_RUNNING false).setBit F.LOOM_CTRL_RUN false
  s.lives.foldl (fun s q =>
    if (s.openRec q.1).isSome then s else s.setLive q.1 (some { q.2 with release := some (s.time.clk + 1) })) s

/-- The stop is complete (R33): the engine is in IDLE with the Loom at rest. DESIGN CHOICE (log 107): no cursor is then
waiting, in STATUS and in CURSORk alike. -/
def State.loomAtRest (s : State) : State :=
  let s := (s.setBit F.LOOM_STATUS_STOPPING false).setF F.LOOM_STATUS_WAITING 0
  let s := (List.range 4).foldl (fun s k => s.setBit (F.LOOM_CURSOR_WAITING k) false) s
  let s := s.setBit F.PAIR_STATUS_LOOM_DELAYED false
  { s with loom := { s.loom with stopping := false, stopAt := none } }

/-- A switch of the sampling clock to bypass in ARMED or ACQUIRING (R34): the Loom stops, open segments close as gaps, live
contexts are released and the engine enters IDLE. DESIGN CHOICE (log 142): all of it in the clock of the switch, which is the next
segment boundary; a tread matched in that clock issues nothing. -/
def State.bypassAcquisition (s : State) : State :=
  let s := s.stopLoom.closeOpenAsGaps .clkBypass
  let s := (s.lives.map (·.1)).foldl State.releaseCtx s
  s.loomAtRest.enter .idle 0x0D

/-- Contexts whose release falls due (R25, R33): one with an open segment waits for it. -/
def State.releasesDue (s : State) : State :=
  s.lives.foldl (fun s q =>
    match q.2.release with
    | some n =>
      if s.time.clk < n then s
      else if (s.openRec q.1).isSome then s.setLive q.1 (some { q.2 with release := none })
      else s.releaseCtx q.1
    | none => s) s

/-- Whether a record would take its context's backlog beyond the stream quota (R342, R343): the waiting records handed before it
count. -/
def State.beyondQuota (s : State) (r : Record) : Bool :=
  let backlog := (s.recsOf r.ctx).foldl (fun a q =>
    if q.state == .handed && q.kind != .gap && q.waitingAt true && q.stream.gap.isNone && q.cseq < r.cseq then a + 64 + q.data.length
    else a) 0
  r.kind != .gap && r.stream.gap.isNone &&
    decide (s.fieldAt (Reg.CTX_STREAM_QUOTA r.ctx) 0 25 * 2048 < backlog + 64 + r.data.length)

/-- A record handed to STREAM is dropped there beyond the quota, and spilled while the port is STALLED or its link is down (R342,
R343). -/
def State.dropOrSpill (s : State) (r : Record) : State :=
  if s.beyondQuota r then
    let s := s.gapRecord r .streamDropped false true
    ((s.rclAdd Reg.STRM_DROPPED 1).hwSet F.STRM_EVENTS_DROP).hwSet F.FLT_CLASS_STREAM_DROP
  else if s.bit F.STRM_STATUS_STALLED || s.getF F.STRM_STATUS_STATE != 3 then
    s.mapRecs (fun q => q.ctx == r.ctx && q.cseq == r.cseq) (fun q => { q with stream := { q.stream with spilled := true } })
  else s

/-- Hands the record to the stream consumer (R233, R342, R343). One beyond the quota waits for the end of the clock, in which an END
may still free backlog (R345). -/
def State.handStream (s : State) (r : Record) : State :=
  let g := s.get64 Reg.SEG_GSEQ_STREAM_LO
  let s := s.set64 Reg.SEG_GSEQ_STREAM_LO (g + 1)
  let upd (q : Record) : Record := { q with stream := { q.stream with gseq := some g } }
  let s := s.mapRecs (fun q => q.ctx == r.ctx && q.cseq == r.cseq) upd
  if s.beyondQuota r then { s with strm := { s.strm with excess := s.strm.excess ++ [(r.ctx, r.cseq)] } }
  else s.dropOrSpill (upd r)

/-- Hands the record to the host consumer (R233). -/
def State.handHost (s : State) (r : Record) : State :=
  let g := s.get64 Reg.SEG_GSEQ_HOST_LO
  let s := s.set64 Reg.SEG_GSEQ_HOST_LO (g + 1)
  s.mapRecs (fun q => q.ctx == r.ctx && q.cseq == r.cseq) (fun q => { q with host := { q.host with gseq := some g } })

/-- The DATA cells of a record's bytes from an offset (R391, R397): 1,024 bytes in each. -/
def State.sendData (s : State) (ctx cseq : Nat) (bytes : List Byte) : Nat → Nat → State
  | 0, _ => s
  | fuel + 1, off =>
    if bytes.length ≤ off then s
    else (s.sendCell (.data ctx cseq off (sliceBytes bytes off (min 1024 (bytes.length - off))))).sendData ctx cseq bytes
      fuel (off + 1024)

/-- The mirror traffic of a record (R397): a HAND cell for each consumer at which it is not yet VISIBLE, and the data once, which the
tenon mirror requester reads. -/
def State.mirrorOut (s : State) (r : Record) : State :=
  if !s.isProtectedActive then s
  else
    let host := r.host.wanted && !r.host.visible
    let stream := r.stream.wanted && !r.stream.visible
    let mark (d : Delivery) (b : Bool) : Delivery := if b then { d with hand := true, mirrored := false } else d
    let s := s.mapRecs (fun q => q.ctx == r.ctx && q.cseq == r.cseq) (fun q =>
      { q with host := mark q.host host, stream := mark q.stream stream })
    let s := if host then s.sendHand r false else s
    let s := if stream then s.sendHand r true else s
    let data := if r.spent then [] else r.data
    let s := (s.offerSlot 10 false [] r).offerRead 10 r 0 data.length
    s.sendData r.ctx r.cseq data (data.length / 1024 + 1) 0

/-- Hands a record to each consumer of its context (R229, R234); one that names none retires (R228). -/
def State.handRecord (s : State) (r : Record) : State :=
  let s := s.mapRecs (fun q => q.ctx == r.ctx && q.cseq == r.cseq) (fun q => { q with state := .handed })
  let s := if r.host.wanted then s.handHost r else s
  let s := if r.stream.wanted then
      match s.seg.recs.find? (fun q => q.ctx == r.ctx && q.cseq == r.cseq) with
      | some q => s.handStream q
      | none => s
    else s
  let s := s.noteHanded r
  let s := match s.seg.recs.find? (fun q => q.ctx == r.ctx && q.cseq == r.cseq) with
    | some q => if s.strm.excess.contains (q.ctx, q.cseq) then s else s.mirrorOut q
    | none => s
  (s.judgeHeld r.ctx).retire r.ctx

/-- The end of a fabric clock for the records handed over beyond their stream quota (R343, R345). -/
def State.overSettle (s : State) : State :=
  let s' : State := { s with strm := { s.strm with excess := [] } }
  s.strm.excess.foldl (fun s k =>
    let find (s : State) := s.seg.recs.find? (fun q => q.ctx == k.1 && q.cseq == k.2)
    let s := match find s with
      | some r => s.dropOrSpill r
      | none => s
    match find s with
    | some r => (s.mirrorOut r).judgeHeld k.1
    | none => s) s'

/-- Whether a record of a context is held where it has still to become VISIBLE, which holds back every later one (R234, R424). -/
def State.heldAt (s : State) (c cseq : Nat) : Bool :=
  (s.recsOf c).any (fun r => decide (r.cseq ≤ cseq) &&
    (s.heldFor r false || s.heldFor r true || (s.recHeld r && r.state != .handed)))

/-- The head of a context's records where it is READY since an earlier clock (R230), unless a record up to it is held (R234,
R424). -/
def State.readyHead (s : State) (c : Nat) : Option Record :=
  match (s.recsOf c).find? (fun r => r.state != .handed) with
  | some r => if r.state == .ready && decide (r.readyIn < s.time.clk) && !s.heldAt c r.cseq then some r else none
  | none => none

/-- Whether context c's head is the next to be handed (R234): earliest READY, then ascending context number. -/
def State.nextToHand (s : State) (c : Nat) (r : Record) : Bool :=
  (s.seg.keep.map (·.1)).all (fun d => match s.readyHead d with
    | some q => d == c || decide (r.readyIn < q.readyIn) || (r.readyIn == q.readyIn && decide (c < d))
    | none => true)

end Sys2Proof.Machine
end

