-- ==== Sys2Proof/Machine/Clk.lean ====
section
/-! DEFINITION. Clock synthesis (spec/06_clocking.md R155 to R172, R459). -/

namespace Sys2Proof.Machine

/-- The state codes of PLLp_STATUS.STATE. -/
def pllOff : Nat := 0
def pllSearch : Nat := 1
def pllLocking : Nat := 2
def pllSettle : Nat := 3
def pllLocked : Nat := 4
def pllHoldover : Nat := 5
def pllBypass : Nat := 6

def State.pllState (s : State) (p : Pll) : Nat := s.getF (F.CLK_PLL_STATUS_STATE p.idx)

/-- Whether an output exists (R158). -/
def State.outExists (s : State) (p : Pll) (o : Nat) : Bool := (s.clk.masks.getD p.idx 0).getLsbD o

/-- Whether a PLL's outputs run: in lock and in holdover, and in BYPASS from the bypass clock (R164, R170). -/
def runsIn (st : Nat) : Bool := st == pllLocked || st == pllHoldover || st == pllBypass

/-- Gates a PLL's outputs, or lets each existing one run as its EN in effect says (R159, R164). -/
def State.setGate (s : State) (p : Pll) (gated : Bool) : State :=
  let s := s.setBit (F.CLK_PLL_STATUS_GATED p.idx) gated
  (List.range 6).foldl (fun s o =>
    if s.outExists p o then s.setBit (F.CLK_OUT_EN_EFFECT p.idx o) (!gated && (s.clk.ens.getD p.idx 0).getLsbD o) else s) s

/-- The EN bits of a PLL as they were last written come into effect (R159). -/
def State.takeEn (s : State) (p : Pll) : State :=
  let en := (List.range 6).foldl (fun a o => if s.bit (F.CLK_OUT_EN p.idx o) then a + 2 ^ o else a) 0
  let ens := (List.range 5).map (fun k => if k = p.idx then BitVec.ofNat 16 en else s.clk.ens.getD k 0)
  { s with clk := { s.clk with ens := ens } }

/-- Sets a PLL's state. Its outputs take their EN when it locks, are gated while none runs, and go on as they were in holdover
(R159, R164, R169, R170). -/
def State.setPll (s : State) (p : Pll) (st : Nat) : State :=
  let s := s.setF (F.CLK_PLL_STATUS_STATE p.idx) st
  let s := if st == pllLocked then s.takeEn p else s
  if st == pllHoldover then s else s.setGate p (!runsIn st)

/-- The fabric clock's nominal rate in hertz, the slice rate in effect / 4 (R155, R165). -/
def State.fabricHz (s : State) : Nat := s.clk.rate * 100000 / 4

/-- The bypass clock comes into use: BYP_OSC in place of a BYP_CLK that is selected and absent (R164, R170). -/
def State.useBypass (s : State) : State :=
  if s.bit F.CLK_HOLD_BYP_SEL && !s.bit F.CLK_STATUS_BYP_CLK_PRESENT then s.hwSet F.CLK_EVENTS_BYP_CLK_FAIL else s

/-- Whether the fabric runs from the bypass clock: while the SPLL or the FPLL is gated or in BYPASS (R164, R170). -/
def State.onBypass (s : State) : Bool :=
  !(s.pllState .fpll == pllLocked || s.pllState .fpll == pllHoldover) || s.bit (F.CLK_PLL_STATUS_GATED 1) ||
    s.bit (F.CLK_PLL_STATUS_GATED 0)

/-- The levels at VREF_EXT and BYP_CLK as a command brings them; none: as they were (R132, R174; log 116). -/
def State.levelsNow (s : State) (l : Option Levels) : State :=
  match l with
  | none => s
  | some l =>
    let s := ({ s with board := { s.board with levels := l } } : State).setBit F.CONV_REF_STATUS_EXT_IN_RANGE l.ext
    let s := s.setBit F.CLK_STATUS_BYP_CLK_PRESENT l.byp
    if s.onBypass then s.useBypass else s

/-- BYP_CLK toggles at 100 MHz, or does not (R174). -/
def State.bypClkNow (s : State) (b : Bool) : State := s.levelsNow (some { s.board.levels with byp := b })

/-- The PLLs as RESET starts them (R156, R160): with NO_REF those on REF_IN go to BYPASS. -/
def State.startPlls (s : State) : State :=
  let noRef := s.board.ref == .noRef
  let s := (s.setF F.CLK_STATUS_REF_FREQ s.board.ref.code).setBit F.CLK_STATUS_REF_PRESENT (!noRef)
  let s := (s.setBit F.CLK_STATUS_BYP_CLK_PRESENT s.board.levels.byp).setBit F.CONV_REF_STATUS_EXT_IN_RANGE s.board.levels.ext
  let st := if noRef then pllBypass else pllSearch
  let s : State := { s with clk := { s.clk with relock := some .start, tscRuns := noRef } }
  (((s.setPll .spll st).setPll .fpll st).setPll .mpll st).setPll .lpll pllSearch

/-- Every existing PLL has locked or has gone to BYPASS (R31). -/
def State.pllsSettled (s : State) : Bool :=
  [Pll.spll, Pll.fpll, Pll.mpll, Pll.ppll, Pll.lpll].all (fun p =>
    s.clk.masks.getD p.idx 0 == 0 || s.pllState p == pllLocked || s.pllState p == pllBypass)

/-- The bits of self-test item PLL: existing PLLs in BYPASS (R366). -/
def State.pllFails (s : State) : Nat :=
  [Pll.spll, Pll.fpll, Pll.mpll, Pll.ppll, Pll.lpll].foldl (fun a p =>
    if s.clk.masks.getD p.idx 0 != 0 && s.pllState p == pllBypass then a + 2 ^ p.idx else a) 0


/-- RATE, ENTRY and USE_ENTRY of the GO that governs a relock (R162, R163); after RESET those of the image. -/
def State.wantRate (s : State) : Nat := fieldOf s.clk.want 0 15
def State.wantEntry (s : State) : Nat := fieldOf s.clk.want 16 4
def State.wantUse (s : State) : Bool := s.clk.want.getLsbD 20

/-- Whether the entry of a PLL's table that the GO names may be reloaded: VALID and found for RATE (R163). -/
def State.entryFits (s : State) (p : Pll) : Bool :=
  s.wantUse && s.bit (F.CLK_BAND_VALID p.idx s.wantEntry) && s.getF (F.CLK_BAND_RATE p.idx s.wantEntry) == s.wantRate

/-- A PLL begins its relock: with the band of a fitting entry, else by a full search (R163). -/
def State.seek (s : State) (p : Pll) : State :=
  let s := s.setF (F.CLK_PLL_STATUS_ENTRY p.idx) s.wantEntry
  if s.entryFits p then
    (s.setPll p pllLocking).setF (F.CLK_PLL_STATUS_BAND p.idx) (s.getF (F.CLK_BAND_BAND p.idx s.wantEntry))
  else s.setPll p pllSearch

/-- The SPLL and FPLL start a relock: outputs gated, the fabric on the bypass clock, calibration visits abandoned; a GO or a return
that names no fitting entry sets ENTRY_MISS (R140, R163, R164). -/
def State.beginRelock (s : State) (why : Relock) : State :=
  let s := if s.wantUse && !(s.entryFits .spll && s.entryFits .fpll) then s.hwSet F.CLK_EVENTS_ENTRY_MISS else s
  let s := ((s.seek .spll).seek .fpll).calRelock.useBypass
  { s with clk := { s.clk with relock := some why } }

/-- The relock of an SPLL in BYPASS (R169, R170): when the reference is present and the engine is in IDLE. With SCLK_IN as the
reference it begins when SCLK_IN is locked again. -/
def State.relockDue (s : State) : State :=
  if s.cur == .idle && s.pllState .spll == pllBypass && s.bit F.CLK_STATUS_REF_PRESENT && !s.clk.sclkMode then
    s.beginRelock .back
  else s

/-- Whether a RATE value lies within 16,000 to 25,000 (R162). -/
def rateOk (v : Word) : Bool := 16000 ≤ fieldOf v 0 15 && fieldOf v 0 15 ≤ 25000

/-- A write of CLK.RATE; the relock of an accepted GO begins in the next clock (R157, R162, R172). -/
def State.rateWrite (s : State) (v : Word) : State :=
  if s.clk.sclkMode || !rateOk v then s.hwSet F.FLT_HOST_CLK_BUSY
  else if v.getLsbD 31 then
    if s.cur == .idle && s.pllState .spll == pllLocked then
      let old := (s.clk.go.map (·.1)).getD (s.reg Reg.CLK_RATE)
      let s := s.storeReg Reg.CLK_RATE v
      { s with clk := { s.clk with go := some (old, s.reg Reg.CLK_RATE) } }
    else s.hwSet F.FLT_HOST_CLK_BUSY
  else s.storeReg Reg.CLK_RATE v

/-- CLK_RATE_GO: a write of CLK.RATE (R162). -/
def execClkRateGo (v : Word) (s : State) (levels : Option Levels := none) : Result :=
  .next ((s.levelsNow levels).hostWrite Reg.CLK_RATE v (fun s => s.rateWrite v))

/-- A PLL that locks by a band reload searches instead. -/
def State.searchInstead (s : State) (p : Pll) : State := if s.pllState p == pllLocking then s.setPll p pllSearch else s

/-- ENTRY_STALE: no lock within 200 us of a band reload, so a full search follows (R163). -/
def execEntryStale (s : State) : Result :=
  .next (if (s.clk.relock = some .go ∨ s.clk.relock = some .back) ∧
      (s.pllState .spll = pllLocking ∨ s.pllState .fpll = pllLocking) then
    ((s.searchInstead .spll).searchInstead .fpll).hwSet F.CLK_EVENTS_ENTRY_STALE
  else s)

/-- The band-table entry that a search's result fills, under the rate of the GO (R163). -/
def State.storeBand (s : State) (p : Pll) (band : Byte) (temp : BitVec 7) : State :=
  s.setReg (Reg.CLK_BAND p.idx s.wantEntry)
    (BitVec.ofNat 32 (2 ^ 31 + temp.toNat * 2 ^ 24 + band.toNat * 2 ^ 16 + s.wantRate))

/-- A VCO frequency in hertz within a PLL's range from which a whole divider makes its output frequency: R155 names the range and
leaves the divider open (log 114). -/
def openVco (lo hi out : Nat) : Nat :=
  let l := (List.range 200).filter (fun d => decide (lo ≤ d * out) && decide (d * out ≤ hi))
  l.getD (Config.pickOf l % max 1 l.length) 1 * out

/-- The memory clock in hertz, a quarter of the data rate of the frequency point (R155). -/
def State.memClock (s : State) : Nat := [1600000000, 1200000000, 800000000].getD (s.getF F.MEM_FREQ_POINT) 1600000000

/-- The VCO frequency that a PLL is set to, in hertz (R155, R162). -/
def State.vcoHz (s : State) (p : Pll) : Nat :=
  match p with
  | .spll => 800000 * s.wantRate
  | .fpll => 200000 * s.wantRate
  | .mpll => openVco 3200000000 6400000000 s.memClock
  | .ppll => openVco 2400000000 4800000000 (1000 * fieldOf (s.disp.timing.getD 4 0) 0 20)
  | .lpll => Config.laneVco

/-- The frequency of a PLL's reference in hertz: REF_IN, SPLL.0 / 4 for the FPLL, PCIE_REFCLK for the LPLL (R155). -/
def State.pllRefHz (s : State) (p : Pll) : Nat :=
  match p with
  | .fpll => 25000 * s.wantRate
  | .lpll => 100000000
  | _ => s.board.ref.hz

/-- E of R160, the VCO cycles due in 1,024 reference cycles; with SCLK_IN the FPLL follows its slice rate. -/
def State.lockCount (s : State) (p : Pll) : Rat :=
  if p == .fpll then 8192 else if s.pllRefHz p = 0 then 0 else (1024 * s.vcoHz p : Nat) / (s.pllRefHz p : Rat)

/-- CLK.LOCK.PPM; 0 behaves as 1. -/
def State.lockPpm (s : State) : Nat := max 1 (s.getF F.CLK_LOCK_PPM)

/-- Whether a comparison that counted n VCO cycles passes (R160). -/
def State.comparisonPasses (s : State) (p : Pll) (n : Nat) : Bool :=
  let e := s.lockCount p
  decide (|(n : Rat) - e| * 1000000 ≤ s.lockPpm * e)

/-- Whether SCLK_IN is locked: two successive windows agree within PPM, at 16 to 20 GHz (R157). -/
def State.sclkLocked (s : State) (a b : Nat) : Bool :=
  let hz := s.board.ref.hz
  decide (((a : Int) - b).natAbs * 1000000 ≤ s.lockPpm * b) && decide (16000000000 * 1024 ≤ b * hz) &&
    decide (b * hz ≤ 20000000000 * 1024)

/-- Whether the last comparisons, oldest first, declare lock: LOCK.PASSES of them pass (R157, R160). -/
def State.lockPasses (s : State) (p : Pll) (counts : List Nat) : Bool :=
  if p == .spll && s.clk.sclkMode then
    match counts.reverse with
    | b :: a :: _ => s.sclkLocked a b
    | _ => false
  else
    let n := max 1 (s.getF F.CLK_LOCK_PASSES)
    decide (n ≤ counts.length) && (counts.reverse.take n).all (s.comparisonPasses p)

/-- PLLp_MEAS after a comparison: its signed error in 1/16 ppm (R174). -/
def State.measure (s : State) (p : Pll) (counts : List Nat) : State :=
  let e := s.lockCount p
  match counts.getLast? with
  | some n =>
    let err := roundOpen (if e = 0 then 0 else ((n : Rat) - e) / e * 16000000)
    s.setReg (Reg.CLK_PLL_MEAS p.idx) ((BitVec.ofInt 16 (max (-32768) (min 32767 err))).zeroExtend 32)
  | none => s

/-- Whether the reference of a PLL is present: REF_IN for the SPLL, MPLL and PPLL, and for the FPLL, which follows the SPLL, but
with SCLK_IN (R155). -/
def State.refHere (s : State) (p : Pll) : Bool :=
  s.bit F.CLK_STATUS_REF_PRESENT || p == .lpll || (p == .fpll && s.clk.sclkMode)

/-- Whether a PLL has a frequency to lock to: the SPLL and FPLL once the image that names their rate is in force (log 114). -/
def State.hasTarget (s : State) (p : Pll) : Bool := (p != .spll && p != .fpll) || s.bit F.DRAFT_STATUS_LOADED

/-- An SPLL in BYPASS whose SCLK_IN is locked again begins its relock (R170). -/
def State.sclkBack (s : State) (p : Pll) : State :=
  if p == .spll && s.clk.sclkMode && s.cur == .idle && s.pllState .spll == pllBypass then s.beginRelock .back else s

/-- PLL_LOCK_DECLARED: the comparisons whose counts are given have passed, and the settle count begins (R160). The band code and
the temperature are those a search found; a band reload keeps the entry's band (R163). -/
def execPllLockDeclared (p : Pll) (counts : List Nat) (band : Byte) (temp : BitVec 7) (s : State) : Result :=
  .next (
    if !s.hasTarget p then s
    else if !s.refHere p || !s.lockPasses p counts then s.measure p counts
    else
      let s := (s.measure p counts).sclkBack p
      let searched := s.pllState p == pllSearch
      let sampling := p == .spll || p == .fpll
      if searched || s.pllState p == pllLocking then
        let s := s.setPll p pllSettle
        let s := if searched || !sampling then s.setF (F.CLK_PLL_STATUS_BAND p.idx) band.toNat else s
        if searched && sampling && s.clk.relock != some .start && !s.clk.sclkMode then s.storeBand p band temp else s
      else s)

/-- TSC and rate at an opening, with the EPOCH record (R165). -/
def State.latchEpoch (s : State) : State :=
  let s := (s.set64 Reg.CLK_EPOCH_TSC_LO s.tsc).setReg Reg.CLK_EPOCH_RATE
    (BitVec.ofNat 32 (s.getF F.CLK_STATUS_RATE_IN_EFFECT))
  s.makeRecord 4 1 (leBytes 8 s.tsc ++ leBytes 4 (s.getF F.CLK_STATUS_RATE_IN_EFFECT))

/-- The record of a phase jump: J, and the step of the TSC under REALIGN (R171). -/
def State.jumpRecord (s : State) (j step : Int) : State :=
  s.makeRecord 4 2 (leBytes 8 (toBitsInt 64 j) ++ leBytes 8 (toBitsInt 64 step))

/-- What the opening of the SPLL outputs does (R140, R157, R165, R171): a new rate latches the epoch, and with SCLK_IN every
opening does. -/
def State.spllOpens (s : State) (sclkRate : BitVec 15) : State :=
  let rate := if s.clk.sclkMode then sclkRate.toNat else s.wantRate
  let new := s.clk.sclkMode || rate != s.clk.rate
  let s : State := { s with clk := { s.clk with rate := rate } }
  let s := (s.setF F.CLK_STATUS_RATE_IN_EFFECT rate).calReopen
  let s := if new then s.latchEpoch else s
  if s.clk.realign = some .settling then
    let s := (s.hwSet F.CLK_EVENTS_REALIGNED).jumpRecord s.clk.jump s.clk.step
    { s with clk := { s.clk with realign := none } }
  else { s with clk := { s.clk with originTsc := s.tsc, sync := 0 } }

/-- A relock ends when the outputs of the SPLL and of the FPLL are open; after a GO that sets HOP_DONE (R174). -/
def State.hopEnds (s : State) : State :=
  if s.pllState .spll == pllLocked && s.pllState .fpll == pllLocked then
    let s := if s.clk.relock = some .go then s.hwSet F.CLK_EVENTS_HOP_DONE else s
    { s with clk := { s.clk with relock := none } }
  else s

/-- Band-table entries 0, 1 and 2 of the MPLL, filled in RESET (R163); their band codes and rate words are free. -/
def State.fillMpllBands (s : State) : State :=
  (List.range 3).foldl (fun s e =>
    (s.setReg (Reg.CLK_BAND 2 e) ((Config.freeWord s.time.free &&& 0xFFFF7FFF) ||| 0x80000000)).nextFree) s

/-- Reference cycles from the declaration of lock to the opening (R160): LOCK.SETTLE x 64; 0 behaves as 1. -/
def State.settleCycles (s : State) : Nat := 64 * max 1 (s.getF F.CLK_LOCK_SETTLE)

/-- Whether SCLK_IN / 8 can be the slice rate: 2.0 to 2.5 GS/s (R157). -/
def sclkOk (rate : BitVec 15) : Bool := decide (20000 ≤ rate.toNat) && decide (rate.toNat ≤ 25000)

/-- PLL_OUTPUTS_OPEN: `cycles` reference cycles have passed since the declaration of lock (R160, R165), with the reference still
there (R169). With SCLK_IN the SPLL opens at the measured rate. -/
def execPllOutputsOpen (p : Pll) (cycles : Nat) (s : State) (sclkRate : BitVec 15 := 0) : Result :=
  .next (
    if s.pllState p == pllSettle && decide (s.settleCycles ≤ cycles) && s.hasTarget p && s.refHere p &&
        (p != .spll || !s.clk.sclkMode || sclkOk sclkRate) then
      let s := s.setPll p pllLocked
      match p with
      | .spll => (s.spllOpens sclkRate).hopEnds
      | .fpll => ({ s with clk := { s.clk with tscRuns := true } } : State).hopEnds
      | .mpll => if s.cur == .reset then s.fillMpllBands else s
      | _ => s
    else s)

/-- PLL_LOCK_TIMEOUT: no lock within 10 ms of starting in RESET (R160); in BYPASS the TSC counts (R165). -/
def execPllLockTimeout (p : Pll) (s : State) : Result :=
  .next (
    if s.cur == .reset && s.hasTarget p && (s.pllState p == pllSearch || s.pllState p == pllLocking) then
      let s := s.setPll p pllBypass
      if p == .fpll then { s with clk := { s.clk with tscRuns := true } } else s
    else s)

/-- A PLL on REF_IN freezes its control word and enters HOLDOVER (R161, R169). -/
def State.toHoldover (s : State) (p : Pll) : State :=
  if s.pllState p == pllLocked then s.setPll p pllHoldover else s

/-- The sampling clock's PLLs are between a relock's start and the opening of their outputs. -/
def State.relocking (s : State) : Bool :=
  s.pllState .spll == pllSearch || s.pllState .spll == pllLocking || s.pllState .spll == pllSettle

/-- The sampling clock in bypass: SPLL and FPLL in BYPASS, no slice rate in effect (R170, R174). An abandoned relock leaves the
outputs gated (R169), and an abandoned REALIGN its record. -/
def State.toBypass (s : State) : State :=
  let gated := s.relocking
  let s := if s.clk.realign.isSome then s.jumpRecord s.clk.jump 0 else s
  let s := ((s.setPll .spll pllBypass).setPll .fpll pllBypass).setF F.CLK_STATUS_RATE_IN_EFFECT 0
  let s := if gated then (s.setGate .spll true).setGate .fpll true else s
  ({ s with clk := { s.clk with relock := none, realign := none, tscRuns := true } } : State).useBypass

/-- What a switch of the sampling clock to bypass records and does (R34). -/
def State.clkBypass (s : State) : State :=
  let s := (s.toBypass.hwSet F.FLT_CLASS_CLK_BYPASS).makeRecord 4 3 []
  if s.running then s.bypassAcquisition else s

/-- UNLOCK: two comparisons fail with the reference present (R161); the FPLL, which follows SPLL.0, holds with it. With
SCLK_IN the SPLL has nothing to hold over (R157). -/
def execUnlock (p : Pll) (s : State) (counts : List Nat := []) : Result :=
  .next (
    let fails := match counts.reverse with
      | b :: a :: _ => if p == .spll && s.clk.sclkMode then !s.sclkLocked a b
          else !s.comparisonPasses p a && !s.comparisonPasses p b
      | _ => false
    let s := s.measure p counts
    if s.pllState p == pllLocked && s.refHere p && fails then
      if p == .spll && s.clk.sclkMode then s.clkBypass
      else
        let s := s.toHoldover p
        let s := if p == .spll then s.toHoldover .fpll else s
        (s.hwSet F.CLK_EVENTS_REF_LOST).hwSet F.FLT_CLASS_CLK_HOLDOVER
    else s)

/-- A GO of this clock is discarded and counted, as the loss of the reference prevails (R172). -/
def State.dropGo (s : State) : State :=
  match s.clk.go with
  | some (old, word) =>
    let s : State := { s with clk := { s.clk with go := none } }
    (if s.reg Reg.CLK_RATE = word then s.setReg Reg.CLK_RATE old else s).hwSet F.FLT_HOST_CLK_BUSY
  | none => s

/-- The relock of a GO accepted in the clock before (R162, R163). -/
def State.startGo (s : State) : State :=
  match s.clk.go with
  | some (_, word) =>
    ({ s with clk := { s.clk with go := none, want := word } } : State).beginRelock .go
  | none => s

/-- REF_LOST (R169, R172): the PLLs on REF_IN hold over; a relock of the SPLL and FPLL outside RESET is abandoned, which is a
switch to bypass (R34). With SCLK_IN the SPLL and FPLL are not on REF_IN (R155). -/
def execRefLost (s : State) (byp : Bool := false) : Result :=
  .next (
    let s := ((s.dropGo.setBit F.CLK_STATUS_REF_PRESENT false).hwSet F.CLK_EVENTS_REF_LOST).hwSet F.FLT_CLASS_CLK_HOLDOVER
    let s := ({ s with board := { s.board with refIn := .noRef } } : State).bypClkNow byp
    let s := if s.clk.sclkMode then s
      else if s.relocking && s.cur != .reset then s.clkBypass
      else (s.toHoldover .spll).toHoldover .fpll
    (s.toHoldover .mpll).toHoldover .ppll)

/-- CLK.HOLD.JUMP_THRESH in femtoseconds. -/
def State.jumpThresh (s : State) : Int := s.getF F.CLK_HOLD_JUMP_THRESH * 10000

/-- The SPLL's loop re-engages with the FPLL. -/
def State.reengage (s : State) : State := (s.setPll .spll pllLocked).setPll .fpll pllLocked

/-- The SPLL's return from HOLDOVER with phase error `j` in femtoseconds (R171). -/
def State.spllReturns (s : State) (j : Int) : State :=
  if j.natAbs ≤ s.jumpThresh.natAbs then s.reengage
  else
    let s := s.hwSet F.CLK_EVENTS_PHASE_JUMP
    if s.bit F.CLK_HOLD_POLICY then
      let s := s.calRelock
      { s with clk := { s.clk with realign := some .decided, jump := j } }
    else
      (s.jumpRecord j 0).reengage.set64 Reg.CLK_BUILD_OUT_LO (toBitsInt 64 (ofBitsInt 64 (s.get64 Reg.CLK_BUILD_OUT_LO) + j))

/-- A PLL other than the SPLL returns from HOLDOVER: it always builds out (R171). -/
def State.pllReturns (s : State) (p : Pll) : State := if s.pllState p == pllHoldover then s.setPll p pllLocked else s

/-- REF_RETURN: 1,024 cycles within range (R169, R171): every PLL in HOLDOVER returns, whichever loss sent it there (R161), and a
limit that expired in this clock has no effect (R172). An SPLL in BYPASS relocks in IDLE (R170). `ref` is the class that REF_IN
now has, where another source drives it; with `lane` it is PCIE_REFCLK, the reference of the LPLL, that is back (log 137). -/
def execRefReturn (j : Int) (s : State) (byp : Bool := false) (ref : Option RefClass := none) (lane : Bool := false) : Result :=
  .next (
    if lane then s.pllReturns .lpll
    else
      let s : State := { s with
        clk := { s.clk with expired := false }, board := { s.board with refIn := ref.getD s.board.ref } }
      let s := ((s.setBit F.CLK_STATUS_REF_PRESENT true).hwSet F.CLK_EVENTS_REF_RETURN).bypClkNow byp
      let s := (s.pllReturns .mpll).pllReturns .ppll
      if s.clk.realign.isSome then s
      else if s.pllState .spll == pllHoldover then s.spllReturns j
      else (s.pllReturns .fpll).relockDue)

/-- The clock after the REALIGN decision: open segments close as gaps and the Loom holds (R171). -/
def State.realignHold (s : State) : State :=
  let s := (s.closeOpenAsGaps .clkRealign).hwSet F.FLT_CLASS_CLK_REALIGN
  { s with clk := { s.clk with realign := some .holding } }

/-- The SPLL and FPLL during a REALIGN: the outputs of the SYNC class are gated, and SPLL.5, of the TRIM class, runs on (R171). -/
def State.realignPlls (s : State) (st : Nat) : State :=
  let s := (s.setF (F.CLK_PLL_STATUS_STATE 0) st).setF (F.CLK_PLL_STATUS_STATE 1) st
  let s := (s.setGate .spll true).setGate .fpll true
  if s.outExists .spll 5 then s.setBit (F.CLK_OUT_EN_EFFECT 0 5) ((s.clk.ens.getD 0 0).getLsbD 5) else s

/-- The next clock: the SYNC-class outputs are gated and the fabric goes to bypass (R171); where the reference is lost
meanwhile, the relock is abandoned as in R169. -/
def State.realignGate (s : State) : State :=
  let s := (s.realignPlls pllLocking).useBypass
  let s : State := { s with clk := { s.clk with realign := some .gated } }
  if s.bit F.CLK_STATUS_REF_PRESENT then s else s.clkBypass

/-- What is kept by instants or by words of the TSC stays at the same distance from the present when the TSC is loaded: the
coefficients' first words (R119), the trigger units and AUX_TRIG (R186), the lanes' boundaries (R221). -/
def State.rebase (s : State) (d : Int) : State :=
  let at' (t : Int) : Int := t + d * 2 ^ 32
  let word (n : Nat) : Nat := ((n : Int) + d).toNat
  let sample (n : Nat) : Nat := ((n : Int) + d * s.samplesPerClock).toNat
  let change (q : Int × Bool) : Int × Bool := (at' q.1, q.2)
  let unit (u : TrigUnit) : TrigUnit := { u with
    applied := u.applied.map (fun q => (word q.1, q.2)), posStart := u.posStart.map at', negStart := u.negStart.map at'
    change := u.change.map at', seqA := u.seqA.map at', heldFrom := u.heldFrom.map at', lastKept := u.lastKept.map at' }
  let aux := s.trig.aux
  { s with
    cal := { s.cal with log := s.cal.log.map (fun q => (word q.1, q.2)) }
    trig := { s.trig with
      units := s.trig.units.map (fun q => (q.1, unit q.2))
      aux := { aux with sets := aux.sets.map (fun q => (word q.1, q.2)), changes := aux.changes.map change, events := aux.events.map at', lastKept := aux.lastKept.map at' } }
    lanes := s.lanes.map (fun q => (q.1, { q.2 with
      since := q.2.since.map sample, eras := q.2.eras.map (fun e => { e with start := sample e.start }) })) }

/-- Loads the TSC (R166, R171). -/
def State.loadTsc (s : State) (n : Nat) : State := (s.rebase ((n : Int) - s.tsc)).set64 Reg.CLK_TSC_LO n

/-- REALIGN_RESTART at the REF_IN edge `refEdges` cycles after the origin edge (R459): on a coincident edge the dividers
restart and the TSC is loaded with the count that the reference gives. -/
def execRealignRestart (refEdges : Nat) (s : State) : Result :=
  .next (
    let hz := s.board.ref.hz
    if s.clk.realign = some .gated ∧ hz ≠ 0 ∧ refEdges * s.fabricHz % hz = 0 then
      let count := s.clk.originTsc + refEdges * s.fabricHz / hz
      let step : Int := (count : Int) - s.tsc
      let s := (s.realignPlls pllSettle).loadTsc count
      { s with clk := { s.clk with realign := some .settling, step := step, sync := 0 } }
    else s)

/-- HOLD_EXPIRED (R169, R172): the limit takes effect at the end of the clock, unless the reference returns in it. -/
def execHoldExpired (s : State) (byp : Bool := false) : Result :=
  .next (
    if (s.pllState .spll == pllHoldover || s.pllState .fpll == pllHoldover) && s.clk.realign.isNone then
      ({ s with clk := { s.clk with expired := true } } : State).bypClkNow byp
    else s)

/-- The end of a clock in which the holdover limit expired (R34, R169). -/
def State.expireHold (s : State) : State :=
  if s.clk.expired then
    (({ s with clk := { s.clk with expired := false } } : State).hwSet F.CLK_EVENTS_HOLD_EXPIRED).clkBypass
  else s

/-- SCLK_LOST (R157). -/
def execSclkLost (s : State) (byp : Bool := false) : Result :=
  .next (
    if s.clk.sclkMode && s.pllState .spll != pllBypass && s.pllState .spll != pllOff then (s.bypClkNow byp).clkBypass else s)

/-- A write of CLK.SYNC: ARM is accepted in IDLE alone (R166). -/
def State.syncWrite (s : State) (v : Word) : State :=
  if fieldOf v 0 2 = 1 ∧ s.cur ≠ .idle then s.hwSet F.FLT_HOST_CLK_BUSY else s.storeReg Reg.CLK_SYNC v

/-- SYNC_IN_EDGE: a restart under ARM, a comparison under CHECK (R166); `phase` is the divider phase in VCO cycles at the
eighth REF_IN edge. -/
def execSyncInEdge (phase : Int) (s : State) : Result :=
  .next (
    let mode := s.getF F.CLK_SYNC_MODE
    if mode = 0 ∨ mode = 3 then s
    else if !s.bit F.CLK_STATUS_REF_PRESENT || s.pllState .spll != pllLocked then s.hwSet F.CLK_EVENTS_SYNC_IGNORED
    else if mode = 1 then
      let count := s.get64 Reg.CLK_TSC_LOAD_LO
      let s := (s.loadTsc count).set64 Reg.CLK_BUILD_OUT_LO 0
      let s := (s.setF F.CLK_SYNC_MODE 2).hwSet F.CLK_EVENTS_SYNC_DONE
      let s := s.calRestart
      { s with clk := { s.clk with originTsc := count, sync := 0 } }
    else if phase = 0 then s
    else (s.setReg Reg.CLK_SYNC_OFFSET (BitVec.ofInt 32 phase)).hwSet F.CLK_EVENTS_SYNC_SLIP)

/-- The slew of PAIR_TRIM toward its target (R168). -/
def State.trimTarget (s : State) : Int := ofBitsInt 16 (s.reg Reg.CLK_PAIR_TRIM).toNat

/-- A new target of the slew. -/
def State.retrim (s : State) (v : Nat) : State :=
  let s := s.setReg Reg.CLK_PAIR_TRIM (BitVec.ofNat 32 (v % 65536))
  s.setBit F.CLK_STATUS_PAIR_SLEWING (s.trimTarget != s.clk.trimNow)

/-- A write of CLK.PAIR_TRIM (R168); on a paired SHADOW it is discarded (R393). -/
def State.trimWrite (s : State) (v : Word) : State :=
  if s.isShadow then s.hwSet F.FLT_HOST_SHADOW_WRITE else s.retrim (fieldOf v 0 16)

/-- PAIR_TRIM_WRITE (R168, R393). -/
def execPairTrimWrite (v : Word) (s : State) : Result :=
  .next (s.hostWrite Reg.CLK_PAIR_TRIM v (fun s => s.trimWrite v))

/-- Slice clock edges in a fabric clock: four while the SPLL runs, one of the bypass clock, none while it is gated (R164,
R170). -/
def State.sliceEdges (s : State) : Int :=
  if s.bit (F.CLK_PLL_STATUS_GATED 0) || s.pllState .spll == pllOff then 0 else if s.pllState .spll == pllBypass then 1 else 4

/-- One fabric clock of the slew: one step for each slice clock edge (R168). -/
def State.slewTrim (s : State) : State :=
  if s.bit F.CLK_STATUS_PAIR_SLEWING then
    let t := s.trimTarget
    let n := s.clk.trimNow
    let m := if n < t then min t (n + s.sliceEdges) else max t (n - s.sliceEdges)
    ({ s with clk := { s.clk with trimNow := m } } : State).setBit F.CLK_STATUS_PAIR_SLEWING (m != t)
  else s

/-- The outputs that R155 lists for each PLL. -/
def outCount (p : Pll) : Nat :=
  match p with
  | .spll => 6 | .fpll => 1 | .mpll => 2 | .ppll => 1 | .lpll => 4

/-- A write of CLK.OUTp_o (R9, R40, R159): the EN of a PLL that is not LOCKED is held. -/
def State.outWrite (s : State) (p : Pll) (o : Nat) (v : Word) : State :=
  if outCount p ≤ o then s
  else if !s.outExists p o then s.hwSet F.FLT_HOST_STRUCT_ABSENT
  else if ((p == .spll && o < 4) || p == .fpll) && s.cur != .idle then s.hwSet F.FLT_HOST_CLK_BUSY
  else
    let s := s.setBit (F.CLK_OUT_EN p.idx o) (v.getLsbD 31)
    let s := if p == .spll && o == 4 then
      (s.setF ⟨Reg.CLK_OUT 0 4, 16, 12⟩ (fieldOf v 16 12)).setF ⟨Reg.CLK_OUT 0 4, 0, 16⟩ (fieldOf v 0 16) else s
    if s.pllState p == pllLocked then (s.takeEn p).setGate p (s.bit (F.CLK_PLL_STATUS_GATED p.idx)) else s

/-- CLK_OUT_EN_WRITE (R40, R159). -/
def execClkOutEnWrite (p : Pll) (o : Fin 16) (v : Word) (s : State) : Result :=
  .next (s.hostWrite (Reg.CLK_OUT p.idx o) v (fun s => s.outWrite p o v))

/-- One fabric clock of the TSC: one count, or the nominal rate carried in a fraction on the bypass clock (R165). -/
def State.countTsc (s : State) : State :=
  if !s.clk.tscRuns then s
  else if !s.onBypass then s.set64 Reg.CLK_TSC_LO (s.tsc + 1)
  else
    let acc := s.clk.tscFrac + s.fabricHz
    ({ s with clk := { s.clk with tscFrac := acc % 100000000 } } : State).set64 Reg.CLK_TSC_LO (s.tsc + acc / 100000000)

/-- SYNC_OUT begins a period of DIV fabric clocks, counted from the restart of the dividers and DELAY VCO cycles late, of which a
fabric clock has 32, while SPLL.4 runs (R155, R159). -/
def State.syncPulse (s : State) : State :=
  let div := s.fieldAt (Reg.CLK_OUT 0 4) 0 16
  let delay := s.fieldAt (Reg.CLK_OUT 0 4) 16 12
  let n := s.clk.sync
  let s : State := { s with clk := { s.clk with sync := n + 1 } }
  if s.outExists .spll 4 && s.bit (F.CLK_OUT_EN_EFFECT 0 4) && !s.bit (F.CLK_PLL_STATUS_GATED 0) && div != 0 &&
      decide (delay / 32 ≤ n) && (n - delay / 32) % div == 0 then s.send (.syncOut (delay % 32))
  else s

/-- What the clock block does in one fabric clock. -/
def State.clkTick (s : State) : State :=
  let s := s.countTsc.slewTrim.startGo.relockDue.syncPulse
  match s.clk.realign with
  | some .decided => s.realignHold
  | some .holding => s.realignGate
  | _ => s

end Sys2Proof.Machine
end

