-- ==== Sys2Proof/Machine/Commit.lean ====
section
/-! DEFINITION. Committing black-box records and the states of the two copies
(spec/15_startup_and_black_box.md R364, R374 to R380). -/

namespace Sys2Proof.Machine

/-! ### The control page -/

/-- The bytes of a journal in the control page (R376): whether an entry lies there and is whole, the slot, the record
(DESIGN CHOICE, log 151). -/
def journalBytes : Option Journal → List Byte
  | none => [0]
  | some j => (if j.whole then 2 else 1) :: (leBytes 4 (bbxSlot j.entry.rseq) ++ j.entry.bytes)

/-- The bytes of the control page under its CRC (R364; DESIGN CHOICE, log 151). -/
def Page.bytes (p : Page) : List Byte :=
  leBytes 4 p.pcc ++ leBytes 4 p.hours ++ leBytes 2 p.secs ++ leBytes 1 p.stateA ++ leBytes 1 p.stateB ++
  journalBytes p.journalA ++ journalBytes p.journalB

/-- The page with the CRC that fits it. -/
def Page.sealed (p : Page) : Page := { p with crc := crc16 p.bytes }

/-- Whether a copy of the page reads whole (R364). -/
def Page.good (p : Page) : Bool := p.crc == crc16 p.bytes

/-- The page as it is read: copy A, or copy B where A's CRC fails; none where both fail (R364). -/
def BbxSt.page (x : BbxSt) : Option Page :=
  if x.pageA.good then some x.pageA else if x.pageB.good then some x.pageB else none

/-- Writes the page to both copies (R364). -/
def BbxSt.putPage (x : BbxSt) (p : Page) : BbxSt := { x with pageA := p.sealed, pageB := p.sealed }

/-- Changes the page in both copies. -/
def BbxSt.editPage (x : BbxSt) (f : Page → Page) : BbxSt := x.putPage (f (x.page.getD Page.init))

/-- What damages a copy of the page: its CRC fits no longer. -/
def BbxSt.damage (x : BbxSt) (a b : Bool) : BbxSt :=
  let spoil (p : Page) : Page := { p with crc := crc16 p.bytes ^^^ 1 }
  { x with pageA := if a then spoil x.pageA else x.pageA, pageB := if b then spoil x.pageB else x.pageB }

/-! ### The copies -/

/-- The slot of one copy as it stood before the writes of the present clock (R383). -/
def BbxSt.copyBefore (x : BbxSt) (b : Bool) (slot : Nat) : Option BbxRecord :=
  match x.was.find? (fun w => w.1 == b && w.2.1 == slot) with
  | some w => w.2.2
  | none => x.copyAt b slot

/-- Writes a slot of one copy. -/
def BbxSt.setCopy (x : BbxSt) (b : Bool) (slot : Nat) (r : Option BbxRecord) : BbxSt :=
  let x := { x with was := x.was ++ [(b, slot, x.copyAt b slot)] }
  if b then { x with copyB := sparseSet (fun _ => none) x.copyB slot r }
  else { x with copyA := sparseSet (fun _ => none) x.copyA slot r }

/-- Every committed record of one copy. -/
def BbxSt.records (x : BbxSt) (b : Bool) : List BbxRecord := (if b then x.copyB else x.copyA).filterMap (·.2)

/-- The highest committed RSEQ plus one; 0 when no record is committed (R375). -/
def BbxSt.nextCommitted (x : BbxSt) : Nat :=
  (x.records false ++ x.records true).foldl (fun a r => max a (r.rseq + 1)) 0

/-- The oldest sequence still in the ring; 0 while the ring holds none (R374). -/
def BbxSt.oldest (x : BbxSt) : Nat :=
  match ((x.records false ++ x.records true).map (·.rseq)).filter (4096 ≤ ·) with
  | [] => 0
  | r :: t => t.foldl min r

/-- The record with an RSEQ among slots, from a copy in service first (R378, R380). -/
def State.recordIn (s : State) (slots : Bool → Nat → Option BbxRecord) (rseq : Nat) : Option BbxRecord :=
  let hit (b : Bool) := match slots b (bbxSlot rseq) with
    | some r => if r.rseq = rseq then some r else none
    | none => none
  let first := !s.copyInService false && s.copyInService true
  match hit first with
  | some r => some r
  | none => hit (!first)

/-- The record with an RSEQ, as the copies stand. -/
def State.findRecord (s : State) (rseq : Nat) : Option BbxRecord := s.recordIn s.bbx.copyAt rseq

/-- The code of a copy's state in BBX.STATUS (R378). -/
def State.copyState (s : State) (b : Bool) : Nat := s.getF (if b then F.BBX_STATUS_COPY_B else F.BBX_STATUS_COPY_A)

/-- BBX.STATUS.LOST as the states of the copies give it: set, with its event and FLT.BBX.LOST, when both are FAILED, clear when
one is in service, unchanged while they are tested (R379). -/
def State.judgeLost (s : State) : State :=
  if s.copyState false = 1 && s.copyState true = 1 then
    if s.bit F.BBX_STATUS_LOST then s
    else ((s.setBit F.BBX_STATUS_LOST true).hwSet F.BBX_EVENTS_LOST).hwSet F.FLT_BBX_LOST
  else if s.bbxLost then s
  else s.setBit F.BBX_STATUS_LOST false

/-- Sets the state of one copy, in the control page too: 0 IN_SERVICE, 1 FAILED, 2 TESTING (R364, R378, R379). -/
def State.setCopyState (s : State) (b : Bool) (n : Nat) : State :=
  let s := s.setF (if b then F.BBX_STATUS_COPY_B else F.BBX_STATUS_COPY_A) n
  ({ s with bbx := s.bbx.editPage (fun p => if b then { p with stateB := n } else { p with stateA := n }) } : State).judgeLost

/-- A copy's write fails its verify: it is FAILED, COMMIT_FAIL and FLT.BBX.COPY_FAIL set, and a COPY_FAIL record is made
(R378). -/
def State.failCopy (s : State) (b : Bool) (r : BbxRecord) : State :=
  let s := ((s.setCopyState b 1).hwSet F.BBX_EVENTS_COMMIT_FAIL).hwSet F.FLT_BBX_COPY_FAIL
  s.makeRecord 0x0B 1 ([BitVec.ofNat 8 (b2n b), 0, 0, 0] ++ leBytes 6 r.rseq ++ [0, 0] ++ leBytes 4 (bbxSlot r.rseq))

/-- Writes one record to one copy: nothing when the copy is not in service, a failure when the write does not verify. -/
def State.commitTo (s : State) (b ok : Bool) (r : BbxRecord) : State :=
  if !s.copyInService b then s
  else if ok then { s with bbx := s.bbx.setCopy b (bbxSlot r.rseq) (some r) }
  else s.failCopy b r

/-- What follows a record that reached a copy: OLDEST, the last wall clock, the peer's copy (R374, R381, R405). -/
def State.afterCommit (s : State) (r : BbxRecord) : State :=
  let s := (s.set64 Reg.BBX_OLDEST_LO s.bbx.oldest).crossCopy r
  if r.source = 0x0C#8 ∧ r.code = 1#16 then
    { s with bbx := { s.bbx with lastWall := some (BitVec.ofNat 64 (fieldLe r.payload 0 8)) } }
  else s

/-- Commits the oldest waiting record to copy A and then to copy B (R376). A record that would overwrite a latched slot
waits (R380); while LOST nothing is committed (R379). -/
def State.commitHead (s : State) (okA okB : Bool) : State :=
  match s.bbx.ring with
  | [] => s
  | (r, _) :: _ =>
    if s.snapBlocks || s.bbxLost then s
    else
      let s1 := (s.commitTo false okA r).commitTo true okB r
      let stored := s1.bbx.copyAt false (bbxSlot r.rseq) == some r || s1.bbx.copyAt true (bbxSlot r.rseq) == some r
      if stored then
        ({ s1 with bbx := { s1.bbx with ring := s1.bbx.ring.filter (fun p => p.1.rseq != r.rseq) } }).afterCommit r
      else s1

/-- Commits every record that waits, all writes verifying. -/
def commitAll : Nat → State → State
  | 0, s => s
  | n + 1, s => commitAll n (s.commitHead true true)

/-- The record with a flag of RFLAGS set. -/
def BbxRecord.withFlag (r : BbxRecord) (f : Byte) : BbxRecord := { r with rflags := r.rflags ||| f }

/-- A HOLE record (R373). -/
def State.holeRecord (s : State) (first last cause : Nat) : State :=
  s.makeRecord 0x0B 2 (leBytes 6 first ++ [0, 0] ++ leBytes 6 last ++ [0, 0] ++ [BitVec.ofNat 8 cause])

/-- Tests each FAILED copy: a copy that passes returns to service, a copy that does not is FAILED again. When the first copy
returns after LOST, a HOLE record covers what no longer exists and no waiting HOLE names, the waiting records are marked
FROM_VOLATILE and committed, and REPAIRED sets (R379). -/
def State.testCopies (s : State) (passA passB : Bool) : State :=
  let lost := s.bbxLost
  let test (s : State) (b ok : Bool) : State := if s.copyInService b then s else s.setCopyState b (if ok then 0 else 1)
  let s1 := test (test s false passA) true passB
  if lost && !s1.bbxLost then
    let first := s1.bbx.nextCommitted
    let wait := s1.bbx.ring.length
    let head := match s1.bbx.ring with
      | [] => s1.nextRseq
      | (r, _) :: _ => r.rseq
    let s2 := { s1 with bbx := { s1.bbx with ring := s1.bbx.ring.map (fun p => (p.1.withFlag 4#8, p.2)) } }
    let covered := s1.bbx.ring.any (fun p => p.1.source == 0x0B && p.1.code == 2 &&
      decide (fieldLe p.1.payload 0 6 ≤ first ∧ head ≤ fieldLe p.1.payload 8 6 + 1))
    let s3 := if first < head && !covered then s2.holeRecord first (head - 1) 1 else s2
    (commitAll wait s3).hwSet F.BBX_EVENTS_REPAIRED
  else s1

/-- The control page is written to both copies and verified, with the operating time of now (R364, R365). -/
def State.savePage (s : State) : State :=
  { s with bbx := { s.bbx.editPage (fun p => { p with
      pcc := (s.reg Reg.BBX_PCC).toNat
      hours := (s.reg Reg.BBX_HOURS).toNat
      secs := (s.reg Reg.BBX_SECS).toNat
      stateA := s.copyState false
      stateB := s.copyState true }) with unsaved := 0 } }

/-- The operating time n seconds later: hours saturate at 32 bits (R365). -/
def State.addTime (s : State) (n : Nat) : State :=
  let t := (s.reg Reg.BBX_SECS).toNat + n
  (s.setReg Reg.BBX_SECS (BitVec.ofNat 32 (t % 3600))).setReg Reg.BBX_HOURS
    (BitVec.ofNat 32 (satTo (2 ^ 32 - 1) ((s.reg Reg.BBX_HOURS).toNat + t / 3600)))

/-- The FAILED copies are TESTING, and the tests end after the commits of the clock (R379, R383). -/
def State.retry (s : State) (passA passB : Bool) : State :=
  let mark (s : State) (b : Bool) : State := if s.copyInService b then s else s.setCopyState b 2
  let s := mark (mark s false) true
  { s with bbx := { s.bbx with retryReq := some (passA, passB) } }

/-- n seconds pass: the operating time is saved each time 60 s have passed since the last save (R365). -/
def State.passTime (s : State) (n : Nat) : State :=
  let left := 60 - s.bbx.unsaved
  if n < left then
    let s := s.addTime n
    { s with bbx := { s.bbx with unsaved := s.bbx.unsaved + n } }
  else
    let rest := (n - left) % 60
    let s := (s.addTime (n - rest)).savePage.addTime rest
    { s with bbx := { s.bbx with unsaved := rest } }

/-- Commits again a journal entry that is complete and not done, to every copy, with JOURNAL_REPLAYED (R377). -/
def State.replay (s : State) (r : BbxRecord) : State :=
  let r := r.withFlag 2#8
  let s := (s.commitTo false true r).commitTo true true r
  (s.hwSet F.BBX_EVENTS_JOURNAL_REPLAYED).afterCommit r

/-- The journals of the control page are empty. -/
def State.clearJournals (s : State) : State :=
  { s with bbx := s.bbx.editPage (fun p => { p with journalA := none, journalB := none }) }

/-- Examines the journals that the page held at entry to AON_UP: the outcome is 0 none, 1 replayed, 2 discarded (R377). -/
def State.examineJournals (s : State) (a b : Option Journal) : Nat × State :=
  let s := s.clearJournals
  match a, b with
  | none, none => (0, s)
  | some j, _ => if j.whole then (1, s.replay j.entry) else (2, s)
  | none, some j => if j.whole then (1, s.replay j.entry) else (2, s)

end Sys2Proof.Machine
end

