-- ==== Sys2Proof/Machine/Reset.lean ====
section
/-! DEFINITION. Reset domains and the entries to OFF, AON_UP, RESET and SAFE_TALK
(spec/18_register_map.md R433, spec/01_engine_architecture.md R31, spec/15_startup_and_black_box.md R369). -/

namespace Sys2Proof.Machine

/-- The block number of an offset: 64 KiB each (R431). -/
def blockOf (off : Nat) : Nat := off / 0x10000

/-- BBX.PCC, HOURS and SECS, which are never reset, and the values the black-box controller keeps (R364, R365, R433). -/
def bbxKept (off : Nat) : Bool :=
  off == Reg.BBX_PCC || off == Reg.BBX_HOURS || off == Reg.BBX_SECS || off == Reg.BBX_NEXT_LO ||
  off == Reg.BBX_NEXT_HI || off == Reg.BBX_OLDEST_LO || off == Reg.BBX_OLDEST_HI || off == Reg.BBX_STATUS

/-- The ALWAYS-ON domain: FLT and DEV.SCRATCH (R433). -/
def alwaysOn (off : Nat) : Bool := blockOf off == 0x16 || off == Reg.DEV_SCRATCH

/-- What an entry to RESET keeps: ALWAYS-ON, the black box's own values and TEST; a draft reload keeps DEV, DRAFT and BBX
as well (R41, R433). -/
def keptInReset (full : Bool) (off : Nat) : Bool :=
  alwaysOn off || bbxKept off || blockOf off == 0x18 || off == Reg.DEV_STATE ||
  (!full && (blockOf off == 0 || blockOf off == 1 || blockOf off == 0x17))

/-- The registers that a set of offsets keeps; the others return to their reset values. -/
def State.keepRegs (s : State) (keep : Nat → Bool) : State :=
  { s with regs := s.regs.filter (fun p => keep p.1), held := s.held.filter (fun p => keep p.1),
           latched := s.latched.filter (fun p => keep p.1) }

/-- Everything of the STRUCTURE domain that no register shows returns to its reset value: the loops, tables, queues and
engines of every block, and with them the stored records, which the load of RESET discards (R28, R235). The model's
count of memory trainings is no state of the spec's and goes on (log 95). -/
def State.clearStructure (s : State) : State :=
  { s with
    pair := PairSt.init, conv := ConvSt.init, cal := CalSt.init, clk := ClkSt.init
    trig := { TrigSt.init with aux := { TrigSt.init.aux with level := s.trig.aux.level } }
    axis := { AxisSt.init with a := s.axis.a, b := s.axis.b }, loom := LoomSt.init, lanes := [], seg := SegSt.init, beam := BeamSt.init
    mem := { MemSt.init with era := s.mem.era }
    shuttles := [], dma := DmaSt.init, strm := StrmSt.init, disp := DispSt.init }

/-- The values that straps and fuses give their registers on entry to RESET (R433, R434, R443). -/
def State.sampleBoard (s : State) (full : Bool) (straps : Straps) (ref : RefClass) : State :=
  let straps := if full then straps else { s.board.straps with eraseEn := straps.eraseEn }
  let s : State := { s with board := { s.board with straps := straps, ref := ref, refIn := ref } }
  let f := s.board.fuses
  let s := s.setRegs [(Reg.DEV_STEP, f.step.zeroExtend 32), (Reg.DEV_SERIAL_LO, f.serial.truncate 32),
    (Reg.DEV_SERIAL_HI, (f.serial >>> 32).truncate 32), (Reg.DEV_SUBSYS, f.subsys)]
  let s := s.setRegs ((List.range 8).map (fun i => (Reg.DRAFT_KEY_HASH i, (f.keyHash >>> (32 * i)).truncate 32)))
  let s := (s.setBit F.DRAFT_FUSE_CTRL_KEY_PROGRAMMED (f.keyHash != 0)).setBit F.DRAFT_FUSE_CTRL_SIGNED_ONLY f.signedOnly
  let s := s.setBit F.DRAFT_STATUS_SIGNED_ONLY f.signedOnly
  let s := ((s.setF F.BBX_ERASE_CTRL_ERASES_LEFT (satTo 15 f.erasesLeft)).setBit F.BBX_ERASE_CTRL_FULL_SET
    (f.erasesLeft == 16)).setBit F.BBX_ERASE_CTRL_STRAP straps.eraseEn
  let s := if full then s.setBit F.DEV_CTRL_COMPAT straps.compatSel else s
  let s := s.setBit F.DRAFT_STATUS_COMPAT_ACTIVE (s.bit F.DEV_CTRL_COMPAT)
  let s := s.setBit F.AXIS_STATUS_FORCED_TIME (s.bit F.DEV_CTRL_COMPAT)
  (s.setF F.PAIR_ID_ARRAY_ID straps.arrayId.toNat).setBit F.PAIR_ID_PAIR_ROLE straps.pairRole

/-- Entry to RESET (R31, R36, R41, R54, R433): the reset domains, the straps, the load that is owed, the ENTRY record.
`full` is false for a draft reload. DESIGN CHOICE (log 112): a burn under way at any other entry is dropped with no fuse changed,
and BUSY reads 0. -/
def State.enterReset (s : State) (cause : Nat) (full : Bool) (straps : Straps) (ref : RefClass) (load : LoadFrom) :
    State :=
  let s := s.enter .reset cause
  let s := (s.keepRegs (keptInReset full)).clearStructure
  let s := s.sampleBoard full straps ref
  let s := s.setBit F.BBX_STATUS_SNAP_ACTIVE false
  let s : State := { s with
    board := { s.board with load := some load, trained := false }
    draft := { s.draft with image := [], burn := if full then none else s.draft.burn, checking := false }
    bbx := { s.bbx with snap := none, latchReq := none, chal := if full then none else s.bbx.chal }
    i2c := { s.i2c with snap := none, latchReq := none } }
  let s := ((s.setBit F.DRAFT_STATUS_LOADED false).setF F.DRAFT_STATUS_FORMAT 0).setReg Reg.DEV_CAPS 0
  (s.setBit F.BBX_STATUS_MODE false).startPlls.entryRecord

/-- What stops on entry to SAFE_TALK (R29, R175, R369): the Loom, the trigger units, TRIG_OUT, calibration, SPLL and FPLL, the
stream, display and tenon lanes, the panel supplies; trained HBM goes to self-refresh. -/
def State.quiesce (s : State) : State :=
  let s := ((s.setBit F.LOOM_STATUS_RUNNING false).setBit F.LOOM_STATUS_STOPPING false).setBit F.LOOM_CTRL_RUN false
  let s := (s.setPll .spll pllOff).setPll .fpll pllOff
  let s := ((s.calHalt.setF F.CLK_STATUS_RATE_IN_EFFECT 0).setReg Reg.TRIG_OUT_STATUS 0).setF F.STRM_STATUS_STATE 0
  let s := ((List.range 16).foldl (fun s k => s.setF ⟨Reg.TRIG_UNIT_STATUS k, 0, 4⟩ 0) s).setReg Reg.TRIG_STATUS 0
  let s := ((s.setF F.DISP_STATUS_STATE 0).setReg Reg.DISP_PANEL 0).setBit F.PAIR_STATUS_LINK_UP false
  let s := (s.setBit F.PAIR_STATUS_PROTECTED false).setBit F.PAIR_STATUS_PEER_HEARD false
  let s := if s.board.trained then (List.range 64).foldl (fun s p => s.setBit (F.MEM_PC_STATE_SELF_REFRESH p) true) s else s
  { s with
    loom := { s.loom with stopping := false, stopAt := none, swap := none }
    trig := { s.trig with pulses := [], units := s.trig.units.map (fun q => (q.1, { TrigUnit.init with set := q.2.set })) }
    clk := { s.clk with relock := none, realign := none, go := none, expired := false } }

/-- Entry to SAFE_TALK (R31, R369): TRIG_OUT low, stream and display off, the ENTRY record. -/
def State.enterSafeTalk (s : State) (cause cls detail : Nat) : State :=
  let s := s.enter .safeTalk cause
  let s := (s.setF F.TEST_SAFE_CODE_CLASS cls).setF F.TEST_SAFE_CODE_DETAIL detail
  s.quiesce.entryRecord

/-- Entry to OFF: nothing is powered and DEV.STATE holds no value (R31); the MRAM keeps its contents, and with its control
page the count, the time and the state of each copy (R364). -/
def State.enterOff (s : State) : State :=
  let s := ((s.keepRegs (fun _ => false)).clearStructure).setReg Reg.DEV_STATE 0
  { s with
    time := { s.time with entered := some (s.time.clk, 1) }
    occ := []
    draft := { s.draft with staging := [], image := [], fuseStage := 0, burn := none, checking := false }
    board := { s.board with pcieUp := false, pcie := PcieConfig.init, aer := 0, d3hot := false, load := none, trained := false, seqViolation := none,
                            hotReadings := 0, fenced := false, fenceAck := false }
    bbx := { s.bbx with ring := [], unsaved := 0, snap := none, latchReq := none, retryReq := none, chal := none, eraseResp := 0 }
    i2c := I2cSt.init }

/-- Entry to AON_UP (R31, R57, R422, R433): the ALWAYS-ON domain resets and the staging buffer clears. TEST keeps its values until
self-test (R384), but for SAFE_CODE, which `enter` clears; LOST is judged anew by the tests that begin (R379). -/
def State.enterAonUp (s : State) (cause : Nat) (i2cAddr : BitVec 3) : State :=
  let s := s.enter .aonUp cause
  let s := (s.keepRegs (fun o => bbxKept o || blockOf o == 0x18 || o == Reg.DEV_STATE)).clearStructure
  let s := ((s.setBit F.BBX_STATUS_SNAP_ACTIVE false).setBit F.BBX_STATUS_MODE false).setBit F.BBX_STATUS_LOST false
  { s with
    occ := []
    draft := { s.draft with staging := [], image := [], fuseStage := 0, burn := none, checking := false }
    board := { s.board with pcieUp := false, pcie := PcieConfig.init, aer := 0, d3hot := false, load := none, trained := false, i2cAddr := i2cAddr,
                            seqViolation := none, hotReadings := 0, fenced := false, fenceAck := false }
    bbx := { s.bbx with snap := none, latchReq := none, chal := none, eraseResp := 0 }
    i2c := I2cSt.init }

end Sys2Proof.Machine
end

