-- ==== Sys2Proof/Machine/Bbx.lean ====
section
/-! DEFINITION. The commands of the black box (spec/15_startup_and_black_box.md R365, R372 to R385). -/

namespace Sys2Proof.Machine

/-- RECORD_MADE (R375). A payload has 32 bytes (R372). -/
def execRecordMade (source : Byte) (code : BitVec 16) (payload : List Byte) (s : State) : Result :=
  if 32 < payload.length then .fault (.illFormed "RECORD_MADE")
  else .next (if s.cur == .off then s else s.makeRecord source.toNat code.toNat payload)

/-- Whether the oldest waiting record was made in an earlier clock: its RSEQ can no longer change (R375). -/
def State.headSettled (s : State) : Bool := match s.bbx.ring with
  | [] => false
  | (_, c) :: _ => decide (c < s.time.clk)

/-- RECORD_COMMITTED (R376, R378): whether the writes of copy A and copy B verify. -/
def execRecordCommitted (okA okB : Bool) (s : State) : Result :=
  .next (if s.cur == .off || !s.headSettled then s else s.commitHead okA okB)

/-- RETRY (R379). -/
def execRetry (passA passB : Bool) (s : State) : Result :=
  .next (s.hostWrite Reg.BBX_CTRL 4 (fun s => s.retry passA passB))

/-! ### Reading -/

/-- SNAPSHOT mode (R380). -/
def State.snapshotMode (s : State) : Bool := s.bit F.BBX_STATUS_MODE

/-- Whether a range may be latched: at most 16,384 records, each of them held (R380). -/
def State.rangeOk (s : State) (first last : Nat) : Bool :=
  decide (first ≤ last ∧ last - first < 16384) &&
    (List.range (last + 1 - first)).all (fun i => (s.findRecord (first + i)).isSome)

/-- A write of 1 to CTRL.SNAP_LATCH (R380): the range is judged after the commits of the clock (R383). In LIVE mode there is
nothing to latch. -/
def State.snapLatch (s : State) : State :=
  let first := s.get64 Reg.BBX_SNAP_FROM_LO % 2 ^ 48
  let last := s.get64 Reg.BBX_SNAP_TO_LO % 2 ^ 48
  if s.snapshotMode then { s with bbx := { s.bbx with latchReq := some (first, last) } } else s

/-- A write of 1 to CTRL.SNAP_RELEASE (R380). -/
def State.snapRelease (s : State) : State :=
  ({ s with bbx := { s.bbx with snap := none, latchReq := none } } : State).setBit F.BBX_STATUS_SNAP_ACTIVE false

/-- The host's latch of the clock, taken or refused (R380, R383). -/
def State.latchHost (s : State) : State := match s.bbx.latchReq with
  | none => s
  | some (first, last) =>
    let s : State := { s with bbx := { s.bbx with latchReq := none } }
    if s.rangeOk first last then
      ({ s with bbx := { s.bbx with snap := some (first, last) } } : State).setBit F.BBX_STATUS_SNAP_ACTIVE true
    else s.hwSet F.BBX_EVENTS_SNAP_REFUSED

/-- The maintenance port's latch of the clock (R380, R454). -/
def State.latchPort (s : State) : State := match s.i2c.latchReq with
  | none => s
  | some (first, last) =>
    if s.rangeOk first last then { s with i2c := { s.i2c with latchReq := none, snap := some (first, last) } }
    else { s with i2c := { s.i2c with latchReq := none, snapRefused := true } }

/-- The end of a RETRY's tests (R379, R383). -/
def State.retestCopies (s : State) : State := match s.bbx.retryReq with
  | none => s
  | some (a, b) => ({ s with bbx := { s.bbx with retryReq := none } } : State).testCopies a b

/-- The port's load ends (R454, R455). -/
def State.loadPort (s : State) : State := match s.i2c.loading with
  | none => s
  | some b => { s with i2c := { s.i2c with buffer := b, loading := none } }

/-- The black box at the end of a clock (R376, R380, R383): the tests of the copies, the latches, the port's load; then, where a
latched range holds commits back in a full ring, its release. A ring that more records entered than it has places commits its
oldest ones until it holds 1,024 (DESIGN CHOICE, log 152). -/
def State.bbxSettle (s : State) : State :=
  let s := s.retestCopies.latchHost.latchPort.loadPort
  let s := if s.snapBlocks && 1024 ≤ s.bbx.ring.length then s.breakSnap else s
  commitAll (s.bbx.ring.length - 1024) s

/-- A write of BBX.CTRL (R385); the outcome of a RETRY's tests is a free value here. -/
def State.bbxCtrl (s : State) (v : Word) : State :=
  let s := if v.getLsbD 1 then s.snapRelease else s
  let s := if v.getLsbD 0 then s.snapLatch else s
  if v.getLsbD 2 then
    let w := Config.freeWord s.time.free
    s.nextFree.retry (w.getLsbD 0) (w.getLsbD 1)
  else s

/-- SNAP_LATCH (R380). -/
def execSnapLatch (s : State) : Result := .next (s.hostWrite Reg.BBX_CTRL 1 State.snapLatch)

/-- SNAP_RELEASE (R380). -/
def execSnapRelease (s : State) : Result := .next (s.hostWrite Reg.BBX_CTRL 2 State.snapRelease)

/-- What a load of a record gives under the mode in force and a latched range, from the slots as the clock found them (R383);
none in SNAPSHOT mode outside the range, an empty list where no copy holds the record (R380). -/
def State.loadedBytes (s : State) (rseq : Nat) (range : Option (Nat × Nat)) : Option (List Byte) :=
  let inside := match range with
    | some (f, t) => decide (f ≤ rseq ∧ rseq ≤ t)
    | none => false
  if s.snapshotMode && !inside then none
  else some (match s.recordIn s.bbx.copyBefore rseq with
    | some r => r.bytes
    | none => [])

/-- A write of READ_SEL_HI: the record is loaded into READ0 to READ15 (R380). -/
def State.readSelLoad (s : State) (v : Word) : State :=
  let (lo, s) := s.takeHeld Reg.BBX_READ_SEL_LO
  let s := (s.setReg Reg.BBX_READ_SEL_LO lo).storeReg Reg.BBX_READ_SEL_HI v
  let show' (s : State) (b : List Byte) : State :=
    s.setRegs ((List.range 16).map (fun i => (Reg.BBX_READ i, BitVec.ofNat 32 (fieldLe b (4 * i) 4))))
  match s.loadedBytes (s.get64 Reg.BBX_READ_SEL_LO) s.bbx.snap with
  | some b => show' s b
  | none => (show' s []).hwSet F.BBX_EVENTS_OUT_OF_SNAP

/-- READ_SEL_LOAD (R380). -/
def execReadSelLoad (v : Word) (s : State) : Result :=
  .next (s.hostWrite Reg.BBX_READ_SEL_HI v (fun s => s.readSelLoad v))

/-! ### Host annotations -/

/-- The bytes of the first n ANNOT_NOTE registers. -/
def State.noteBytes (s : State) (n : Nat) : List Byte :=
  (List.range n).flatMap (fun i => leBytes 4 (s.reg (Reg.BBX_ANNOT_NOTE i)).toNat)

/-- A write of ANNOT_CTRL (R381). -/
def State.annotate (s : State) (v : Word) : State :=
  if !v.getLsbD 31 then s
  else if 512 < s.bbx.ring.length then s.hwSet F.BBX_EVENTS_ANNOT_REFUSED
  else if v.getLsbD 0 then s.makeRecord 0x0C 2 (s.noteBytes 8)
  else
    let wall := s.get64 Reg.BBX_ANNOT_WALL_LO
    let back := match s.bbx.lastWall with
      | some w => decide (wall < w.toNat)
      | none => false
    let s := if back then s.hwSet F.BBX_EVENTS_STEPPED_BACK else s
    s.pushRecord (s.newRecord 0x0C 1 (if back then 1#8 else 0#8) (leBytes 8 wall ++ s.noteBytes 6))

/-- ANNOT (R381). -/
def execAnnot (v : Word) (s : State) : Result :=
  .next (s.hostWrite Reg.BBX_ANNOT_CTRL v (fun s => s.annotate v))

/-! ### Erase -/

/-- A challenge is posted; its 128 bits are free values (R382). -/
def State.postChallenge (s : State) : State :=
  let w (i : Nat) : Word := Config.freeWord (s.time.free + i)
  let c := (List.range 4).foldl (fun a i => a + (w i).toNat * 2 ^ (32 * i)) 0
  let s := s.setRegs ((List.range 4).map (fun i => (Reg.BBX_ERASE_CHAL i, w i)))
  let s : State := { s with bbx := { s.bbx with chal := some (BitVec.ofNat 128 c) } }
  (((s.nextFree).nextFree).nextFree).nextFree.setBit F.BBX_ERASE_CTRL_CHAL_VALID true

/-- The challenge is void (R382). -/
def State.voidChallenge (s : State) : State :=
  ({ s with bbx := { s.bbx with chal := none } } : State).setBit F.BBX_ERASE_CTRL_CHAL_VALID false

/-- The response that a challenge asks for: the first 128 bits of HMAC-SHA-256 over the challenge and the serial number
(R382). -/
def State.eraseAnswer (s : State) (chal : BitVec 128) : List Byte :=
  (hmacSha256 (leBytes 32 s.board.fuses.eraseKey.toNat)
    (leBytes 16 chal.toNat ++ leBytes 8 s.board.fuses.serial.toNat)).take 16

/-- Whether a GO erases (R382). -/
def State.eraseAllowed (s : State) : Bool :=
  (s.cur == .idle || s.cur == .safeTalk) && s.bit F.BBX_ERASE_CTRL_STRAP && s.board.fuses.erasesLeft != 0 &&
    (match s.bbx.chal with
      | some c => s.eraseAnswer c == leBytes 16 s.bbx.eraseResp.toNat
      | none => false)

/-- The factory erase (R382): what waits is committed first (R383), both copies are cleared, an erase fuse is burnt, and the
ERASED record opens the new store. -/
def State.erase (s : State) : State :=
  let s := commitAll s.bbx.ring.length s
  let left := s.board.fuses.erasesLeft - 1
  let next := s.nextRseq
  let s : State := { s with
    board := { s.board with fuses := { s.board.fuses with erasesLeft := left } }
    bbx := { s.bbx.editPage (fun p => { p with journalA := none, journalB := none }) with
                        copyA := [], copyB := [], ring := [], snap := none,
                        latchReq := none, lastWall := none }
    i2c := { s.i2c with snap := none, latchReq := none } }
  let s := (s.setBit F.BBX_STATUS_SNAP_ACTIVE false).set64 Reg.BBX_NEXT_LO 0
  let s := (s.set64 Reg.BBX_OLDEST_LO 0).setF F.BBX_ERASE_CTRL_ERASES_LEFT (satTo 15 left)
  let s := (s.setBit F.BBX_ERASE_CTRL_FULL_SET (left == 16)).makeRecord 0x0B 3 (leBytes 1 left)
  { s with bbx := { s.bbx with erased := some next } }

/-- A write of ERASE_CTRL (R382, R385): REQ and GO need ARM. -/
def State.eraseCtrl (s : State) (v : Word) : State :=
  if fieldOf v 24 8 ≠ 0x5A then s
  else
    let s := if !v.getLsbD 0 then s
      else if s.cur == .idle || s.cur == .safeTalk then s.postChallenge
      else s.hwSet F.BBX_EVENTS_ERASE_REFUSED
    if !v.getLsbD 1 then s
    else if s.eraseAllowed then s.erase.voidChallenge
    else s.voidChallenge.hwSet F.BBX_EVENTS_ERASE_REFUSED

/-- ERASE_REQ: a write of ERASE_CTRL with REQ (R382). -/
def execEraseReq (v : Word) (s : State) : Result :=
  .next (s.hostWrite Reg.BBX_ERASE_CTRL (v ||| 1) (fun s => s.eraseCtrl (v ||| 1)))

/-- ERASE_GO: a write of ERASE_CTRL with GO (R382). -/
def execEraseGo (v : Word) (s : State) : Result :=
  .next (s.hostWrite Reg.BBX_ERASE_CTRL (v ||| 2) (fun s => s.eraseCtrl (v ||| 2)))

/-- CHALLENGE_EXPIRY (R382). -/
def execChallengeExpiry (s : State) : Result :=
  .next (if s.bbx.chal.isSome then s.voidChallenge else s)

/-- TIME_SAVE: n seconds of operating time pass, 60 where the command names none, and the control page is saved every 60 s
(R365). -/
def execTimeSave (s : State) (n : Nat := 60) : Result := .next (if s.cur == .off then s else s.passTime n)

end Sys2Proof.Machine
end

