-- ==== Sys2Proof/Machine/BeamOps.lean ====
section
/-! DEFINITION. Accumulation jobs: the mapping of samples to a raster, passes, placement and results
(spec/10_cloth_beams.md R250 to R277). -/

namespace Sys2Proof.Machine

/-- A job. -/
def State.job (s : State) (j : Nat) : JobSt := sparseGet (fun _ => JobSt.init) s.beam.jobs j

def State.setJob (s : State) (j : Nat) (x : JobSt) : State :=
  { s with beam := { s.beam with jobs := sparseSet (fun _ => JobSt.init) s.beam.jobs j x } }

/-- The descriptor a job was placed with, or the host's. -/
def State.descOf (s : State) (j : Nat) : JobDesc := (s.job j).desc.getD (s.jobDesc j)

/-- A cell no sample has reached (R256, R257). -/
def emptyCell (kind : Nat) : Int × Int := if kind = 5 then (0x7FFF, -0x8000) else (0, 0)

/-- Bytes of a result cell (R253): none for MASK. -/
def resultCellBytes (kind : Nat) : Nat := if kind = 1 then 16 else if kind = 4 then 0 else 4

/-- The rows of a raster: 1 for AVG and ENVELOPE. -/
def JobDesc.rows (d : JobDesc) : Nat := if d.kind = 1 ∨ d.kind = 5 then 1 else d.height

/-- Raster positions. -/
def JobDesc.cells (d : JobDesc) : Nat := d.width * d.rows

/-- The resident limit of a kind in raster positions (R253). -/
def residentLimit (kind : Nat) : Nat := if kind = 1 then 524288 else if kind = 4 then 4194304 else 1572864

/-- The resident limit of a job: halved by DOUBLE. -/
def JobDesc.limitCells (d : JobDesc) : Nat := if d.double then residentLimit d.kind / 2 else residentLimit d.kind

/-- Whether the raster spills. -/
def JobDesc.spills (d : JobDesc) : Bool := decide (d.limitCells < d.cells)

/-- The result in bytes (R272). -/
def JobDesc.resultBytes (d : JobDesc) : Nat := 256 + d.cells * resultCellBytes d.kind

/-- The vertices of polygon k in its table; none for an empty mask (R258). -/
def State.polygon (s : State) (k : Nat) : List (Nat × Nat) :=
  (List.range (fieldOf (s.reg (Reg.BEAM_POLY k 0)) 0 6)).map (fun i =>
    let v := s.reg (Reg.BEAM_POLY k (i + 1))
    (fieldOf v 16 13, fieldOf v 0 12))

/-- The checks of R259, and of R314 where the report context delivers to the host. -/
def State.badJob (s : State) (d : JobDesc) : Bool :=
  let modeOk := match d.kind with
    | 1 | 2 | 5 => d.xMode == 0
    | 3 => d.xMode == 1 || d.xMode == 2
    | 4 => d.xMode != 3
    | _ => false
  let maxW := if d.kind = 1 ∨ d.kind = 5 then 16777216 else 4096
  let maxH := if d.kind = 4 then 1024 else 2048
  let sizeOk := 1 ≤ d.width && d.width ≤ maxW && (d.kind == 1 || d.kind == 5 || (1 ≤ d.height && d.height ≤ maxH))
  let divOk := 1 ≤ d.xDiv && d.xDiv ≤ 65536 && (d.kind != 1 || d.xDiv ≤ 256)
  let uiOk := d.xMode != 1 || 2 ^ 32 ≤ d.ui
  let polyOk := d.kind != 4 || (bitsSet 8 d.maskSel).all (fun k =>
    (s.polygon k).length != 1 && (s.polygon k).length != 2)
  let fits := !d.spills || (!d.double && d.kind != 3 && d.kind != 4)
  let queueOk := !d.report || !s.bit (F.CTX_STORE_HOST_EN d.ctx) ||
    (s.queueEnabled (s.getF (F.CTX_STORE_DQ d.ctx)) &&
      s.queueHolds (s.getF (F.CTX_STORE_DQ d.ctx)) (s.headerBytes + d.resultBytes))
  !(modeOk && sizeOk && divOk && uiOk && polyOk && fits && queueOk)

/-- Twice the signed area of the turn from a to b to p. -/
def turn (a b p : Int × Int) : Int := (b.1 - a.1) * (p.2 - a.2) - (b.2 - a.2) * (p.1 - a.1)

/-- Whether p lies on the segment from a to b. -/
def onSegment (a b p : Int × Int) : Bool :=
  turn a b p == 0 && decide (min a.1 b.1 ≤ p.1) && decide (p.1 ≤ max a.1 b.1) && decide (min a.2 b.2 ≤ p.2) &&
    decide (p.2 ≤ max a.2 b.2)

/-- Whether the ray from p to the right crosses the edge from a to b. -/
def crosses (a b p : Int × Int) : Bool :=
  if a.2 ≤ p.2 ∧ p.2 < b.2 then decide (0 < turn a b p)
  else if b.2 ≤ p.2 ∧ p.2 < a.2 then decide (turn a b p < 0)
  else false

/-- Whether cell (x, y) belongs to a polygon by the even-odd rule (R258), in half cells. -/
def inPolygon (v : List (Nat × Nat)) (x y : Nat) : Bool :=
  let pts : List (Int × Int) := v.map (fun q => (2 * (q.1 : Int), 2 * (q.2 : Int)))
  let edges := List.zip pts (pts.drop 1 ++ pts.take 1)
  let p : Int × Int := (2 * x + 1, 2 * y + 1)
  if edges.any (fun e => onSegment e.1 e.2 p) then Config.edgeCell v x y
  else (edges.filter (fun e => crosses e.1 e.2 p)).length % 2 == 1

/-- A stored sample of a sweep: its index in the segment, its value on the container scale, and the axis position at its
nominal instant in units, none in STALLED (R254). -/
structure SweepSample where
  i : Nat
  w : Int
  axis : Option Rat
deriving DecidableEq, Repr

/-- The fraction of a number. -/
def fracOf (x : Rat) : Rat := x - x.floor

/-- The column of a sample (R254); none when it is ignored. -/
def columnOf (d : JobDesc) (pre : Nat) (trigFrac : Nat) (q : SweepSample) : Option Nat :=
  let off : Rat := (d.foldOffset : Rat) / 2 ^ 32
  let x : Option Int := match d.xMode with
    | 0 => some (((q.i : Int) - pre - d.xStart) / d.xDiv)
    | 1 =>
      let t : Rat := ((q.i : Int) - pre : Int) + (trigFrac : Rat) / 2 ^ 16
      some (d.width * fracOf (t * 2 ^ 32 / d.ui + off) : Rat).floor
    | _ => q.axis.map (fun p => (d.width * fracOf (p * d.axisMult + off) : Rat).floor)
  match x with
  | some n => if 0 ≤ n ∧ n < d.width then some n.toNat else none
  | none => none

/-- The row of a sample (R255); none when it falls outside and is not clamped. -/
def rowOf (d : JobDesc) (w : Int) : Option Nat :=
  let y := (w - d.yBase) / 2 ^ d.yShift
  if 0 ≤ y ∧ y < d.height then some y.toNat
  else if d.yClamp then some (if y < 0 then 0 else d.height - 1) else none

/-- Adds to one element of a list of counters. -/
def bump (l : List Nat) (k : Nat) : List Nat := (List.range 8).map (fun i => l.getD i 0 + (if i = k then 1 else 0))

/-- The lowest columns of a spilled raster, up to 3 MiB, that stay in the beam (R269). -/
def pinnedColumns (d : JobDesc) : Nat := 3 * 2 ^ 20 / columnBytes d

/-- A sample whose tile is not resident (R269). -/
def BeamPass.missed' (p : BeamPass) : BeamPass := { p with spillMiss := p.spillMiss + 1, incomplete := true }

/-- One sample into a pass: the pass and the masks hit so far in the sweep (R254 to R258). `late` tells of a sample and its
column whether the tile it addresses is not yet resident (R269). -/
def addSample (d : JobDesc) (masks : List (List (Nat × Nat))) (pre trigFrac : Nat) (late : Nat → Nat → Bool)
    (acc : BeamPass × List Nat) (q : SweepSample) : BeamPass × List Nat :=
  let (p, hit) := acc
  if d.xMode = 2 ∧ q.axis.isNone then ({ p with axisSkip := p.axisSkip + 1 }, hit)
  else
    match columnOf d pre trigFrac q with
    | none => (p, hit)
    | some x =>
      let get (k : Nat) := sparseGet (fun _ => emptyCell d.kind) p.cells k
      let put (k : Nat) (v : Int × Int) : BeamPass :=
        { p with cells := sparseSet (fun _ => emptyCell d.kind) p.cells k v }
      match d.kind with
      | 1 => (if late q.i x then p.missed' else put x ((get x).1 + q.w, (get x).2 + 1), hit)
      | 5 => (if late q.i x then p.missed' else put x (min (get x).1 q.w, max (get x).2 q.w), hit)
      | k =>
        match rowOf d q.w with
        | none => ({ p with offRaster := p.offRaster + 1 }, hit)
        | some y =>
          if late q.i x then (p.missed', hit)
          else if k = 4 then
            let ks := (bitsSet 8 d.maskSel).filter (fun m => inPolygon (masks.getD m []) x y)
            ({ p with hits := ks.foldl bump p.hits }, ks.foldl (fun l m => if l.contains m then l else m :: l) hit)
          else
            let n := y * d.width + x
            if (get n).1 = 0xFFFFFFFF then ({ p with binSat := true }, hit)
            else (put n ((get n).1 + 1, 0), hit)

/-- A whole sweep into a pass (R261). -/
def addSweep (d : JobDesc) (masks : List (List (Nat × Nat))) (pre trigFrac : Nat) (late : Nat → Nat → Bool) (p : BeamPass)
    (qs : List SweepSample) : BeamPass :=
  let (p, hit) := qs.foldl (addSample d masks pre trigFrac late) (p, [])
  { p with sweeps := p.sweeps + 1, sweepsHit := hit.foldl bump p.sweepsHit }

/-- The requests for the bytes of columns `lo` to `hi` of a job's spill area by a requester (R269, R270, R296). -/
def State.offerSpill (s : State) (req j lo hi : Nat) : State :=
  let n := columnBytes (s.descOf j)
  s.offerArea req (req == 5) [] (lo * n) (hi * n) (placeOver 2 j (s.job j).spillPcs)

/-- The tiles of a spilled raster that samples address stream through the beam: the two beam-spill requesters read each and write
it back (R269, R296). -/
def State.streamTiles (s : State) (j pre trigFrac : Nat) (qs : List SweepSample) : State :=
  let d := s.descOf j
  let xs := (qs.filterMap (columnOf d pre trigFrac)).filter (fun x => decide (pinnedColumns d ≤ x))
  ((xs.map (· / 64)).eraseDups).foldl (fun s t =>
    let lo := max (pinnedColumns d) (64 * t)
    let hi := min d.width (64 * t + 64)
    (s.offerSpill 4 j lo hi).offerSpill 5 j lo hi) s

/-- A job as it stood before the events of the present clock, and these events (R92, R268): host placements and a RELEASE of the
clock come behind them. -/
def State.jobDay (s : State) (j : Nat) : JobSt × List JobEvent :=
  match s.beam.pre.find? (fun p => p.1 == j), s.beam.freed.find? (fun p => p.1 == j) with
  | some p, _ => p.2
  | none, some p => (p.2, [])
  | none, none => (if s.beam.placed.any (fun p => p.1 == j) then JobSt.init else s.job j, [])

/-- Something other than an ACC action or an OPEN changes the job: what orders it in the present clock begins anew. -/
def State.rebaseJob (s : State) (j : Nat) : State :=
  { s with beam := { s.beam with pre := s.beam.pre.filter (fun p => p.1 != j) } }

/-- The samples of a closed segment reach the raster of the pass they belong to (R261). Where a spilled raster's prefetch
does not keep up, whether the tile that a sample addresses is resident is a free value for each sample. -/
def State.accumulate (s : State) (c cseq pre trigFrac : Nat) (out : Rat) (qs : List SweepSample) : State :=
  s.beam.jobs.foldl (fun s p =>
    let x := s.job p.1
    let d := s.descOf p.1
    let behind := x.spilled && !s.prefetchKeepsUp d out
    let late (i col : Nat) : Bool :=
      behind && decide (pinnedColumns d ≤ col) && (Config.freeWord (s.time.free + 2 ^ 64 * i)).getLsbD 0
    let into (b : BeamPass) : BeamPass :=
      if b.sweepsIn.contains (c, cseq) then
        addSweep d x.masks pre trigFrac late { b with sweepsIn := b.sweepsIn.filter (· != (c, cseq)) } qs
      else b
    if x.cur.sweepsIn.contains (c, cseq) || x.old.sweepsIn.contains (c, cseq) then
      let cur := into x.cur
      let old := into x.old
      let s := (((s.editJob p.1 (fun x => { x with cur := into x.cur, old := into x.old })).passEvents x.cur cur).passEvents x.old old).nextFree
      let s := if (s.jobDay p.1).2.contains (.opened c cseq) then s.rebaseJob p.1 else s
      if x.spilled then s.streamTiles p.1 pre trigFrac qs else s
    else s) s

/-- The OPEN of a segment of a feeding context: a sweep of the current pass, or MISSED (R261). -/
def JobSt.opens (x : JobSt) (limit c cseq : Nat) : JobSt :=
  let begun := x.cur.sweeps + x.cur.sweepsIn.length
  let busy := x.cur.sweepsIn.length + x.old.sweepsIn.length
  let full := x.state == 3 && decide (limit ≤ begun)
  if x.state = 0 then x
  else if x.state ≠ 3 ∨ full ∨ (if x.spilled then 1 else 2) ≤ busy then
    { x with cur := { x.cur with missed := x.cur.missed + 1, limited := x.cur.limited || full } }
  else { x with cur := { x.cur with sweepsIn := x.cur.sweepsIn ++ [(c, cseq)] } }

/-- Whether a beam is in service. -/
def State.beamInService (s : State) (b : Nat) : Bool := s.bit (F.BEAM_BEAM_STATUS_IN_SERVICE b)

/-- The job a beam holds. -/
def State.beamJob (s : State) (b : Nat) : Option Nat :=
  (s.beam.jobs.find? (fun p => p.2.beam == some b)).map (·.1)

/-- The lowest-numbered beam of a pool that is in service and free (R267). -/
def State.freeBeam (s : State) (pool : Nat) : Option Nat :=
  (List.range 16).find? (fun b =>
    (s.beam.pools.getD b 0xFF).toNat == pool && s.beamInService b && (s.beamJob b).isNone)

/-- Chunks of an area by pseudo-channel, striped over a set. -/
def striped (pcs : List Nat) (chunks : Nat) : Sparse Nat :=
  (List.range pcs.length).foldl (fun m i =>
    sparseSet (fun _ => 0) m (pcs.getD i 0) ((chunks + pcs.length - 1 - i) / pcs.length)) []

/-- Sums of two reservations. -/
def addResv (a b : Sparse Nat) : Sparse Nat :=
  b.foldl (fun m p => sparseSet (fun _ => 0) m p.1 (sparseGet (fun _ => 0) m p.1 + p.2)) a

/-- The reservation of a job on the sets given: its result buffers and its spill area, each striped from the start of its
set (R267). -/
def JobDesc.reservation (d : JobDesc) (bufPcs spillPcs : List Nat) : Sparse Nat :=
  let bufs := (List.range d.bufs).foldl (fun m _ => addResv m (striped bufPcs (ceilDiv d.resultBytes 2048))) []
  if d.spills then addResv bufs (striped spillPcs (ceilDiv (d.cells * beamCellBytes d.kind) 2048)) else bufs

/-- Whether a reservation fits. -/
def State.resvFits (s : State) (r : Sparse Nat) : Bool := r.all (fun p => p.2 ≤ s.pcFree p.1)

/-- Something that a job's action or placement is to be counted for at the end of the clock. -/
def State.jobFault (s : State) (j : Nat) (f : JobFault) : State :=
  { s with beam := { s.beam with tally := s.beam.tally ++ [(j, f)] } }

/-- What a fault of a job counts and sets (R264, R266, R267). -/
def State.countFault (s : State) (f : JobFault) : State :=
  match f with
  | .ignored => s.rclAdd Reg.BEAM_ACTION_IGNORED 1
  | .foldBusy | .foldNoBuf => (s.rclAdd Reg.BEAM_FOLD_REFUSED 1).hwSet F.BEAM_EVENTS_FOLD_REFUSED
  | .badJob => (s.hwSet F.BEAM_EVENTS_BAD_JOB).rclAdd Reg.BEAM_PLACE_FAIL 1
  | .noBeam => (s.hwSet F.BEAM_EVENTS_NO_BEAM).rclAdd Reg.BEAM_PLACE_FAIL 1
  | .noSpace => (s.hwSet F.BEAM_EVENTS_NO_SPACE).rclAdd Reg.BEAM_PLACE_FAIL 1

/-- Places job j with a descriptor (R267); answers whether it is placed. -/
def State.placeJob (s : State) (j : Nat) (d : JobDesc) : Bool × State :=
  if s.badJob d then (false, s.jobFault j .badJob)
  else
    match s.freeBeam d.pool with
    | none => (false, s.jobFault j .noBeam)
    | some b =>
      let pcs := s.leastLoaded 16
      let r := d.reservation pcs pcs
      if pcs.isEmpty || !s.resvFits r then (false, s.jobFault j .noSpace)
      else (true, s.setJob j { JobSt.init with
        state := 1, beam := some b, desc := some d, spilled := d.spills, bufs := List.replicate d.bufs none,
        bufPcs := pcs, spillPcs := if d.spills then pcs else [], resv := r })

/-- The tiles of the unpinned columns that a pass's samples have addressed. -/
def BeamPass.tilesUsed (p : BeamPass) (d : JobDesc) : List Nat :=
  (((p.cells.map (fun q => q.1 % d.width)).filter (fun x => decide (pinnedColumns d ≤ x))).map (· / 64)).eraseDups

/-- What the spill area keeps once the pass in the beam is over: its tiles read as zero only from their first use in the next
(R265, R270). -/
def JobSt.keepSpill (x : JobSt) (d : JobDesc) : JobSt :=
  if !x.spilled then x
  else if x.cur.blurred.isSome || !x.cur.loose.isEmpty then { x with left := [], leftTiles := [] }
  else
    let used := x.cur.tilesUsed d
    let old := x.left.filter (fun q => !used.contains (q.1 % d.width / 64))
    { x with
      left := x.cur.cells.foldl (fun m q =>
        if q.1 % d.width < pinnedColumns d then m else sparseSet (fun _ => emptyCell d.kind) m q.1 q.2) old
      leftTiles := (x.leftTiles ++ used).eraseDups }

/-- A new pass begins with PREPARE (R258, R265). DESIGN CHOICE (log 123): sweeps missed in WAIT_BEAM count in the pass that the
restart begins. -/
def State.prepare (s : State) (j : Nat) (restarted : Bool) : State :=
  let x := (s.job j).keepSpill (s.descOf j)
  s.setJob j { x with
    state := 2, startPending := false, restart := false, nextPass := x.nextPass + 1,
    masks := (List.range 8).map s.polygon,
    cur := { BeamPass.init with no := x.nextPass, restarted := restarted, missed := if x.state = 7 then x.cur.missed else 0 } }

/-- Result buffers that neither a record nor an unload holds (R273). -/
def JobSt.freeBufs (x : JobSt) : Nat :=
  x.bufs.count none - (if x.state = 5 then 1 else 0) - (if x.oldPhase = .unloading then 1 else 0)

/-- Marks the end of the current pass by a STOP or FOLD of the present clock (R271). -/
def State.endPass (s : State) (p : BeamPass) : BeamPass :=
  { p with endTs := s.tsc, endAxis := s.axisReported s.time.clk }

/-- After the unload of the current pass: PLACED, or PREPARE when START_PENDING is set (R264). -/
def State.afterUnload (s : State) (j : Nat) : State :=
  let x := s.job j
  if x.startPending then s.prepare j false else s.setJob j { x with state := 1 }

/-- The current pass goes to its unload; with REPORT_EN 0 it is skipped (R264, R271, R273). -/
def State.unloadCur (s : State) (j : Nat) : State :=
  let x := s.job j
  if !(s.descOf j).report then s.afterUnload j
  else s.setJob j { x with state := if x.freeBufs = 0 then 6 else 5 }

/-- The other raster of a DOUBLE job goes to its unload, and with REPORT_EN 0 straight to its clearing (R266). -/
def State.unloadOld (s : State) (j : Nat) : State :=
  let x := s.job j
  if !(s.descOf j).report then s.setJob j { x with oldPhase := .clearing }
  else s.setJob j { x with oldPhase := if x.freeBufs = 0 then .waitBuf else .unloading }

/-- What the samples of a sweep that the model does not hold may have made of cell k (R256, R257, R261): a free value within what so
many samples can do. -/
def LooseSweep.cell (w : LooseSweep) (kind k : Nat) (v : Int × Int) : Int × Int :=
  let free (i : Nat) : Nat := (Config.freeWord (w.f + 2 ^ 64 * (4 * k + i))).toNat
  let m := free 0 % (w.n + 1)
  if m = 0 then v
  else match kind with
    | 1 => (v.1 + (((free 1 + 2 ^ 32 * free 2) % (65535 * m + 1) : Nat) : Int) - 32768 * m, v.2 + m)
    | 5 => (min v.1 (ofBitsInt 16 (free 1 % 65536)), max v.2 (ofBitsInt 16 (free 2 % 65536)))
    | _ => (min 0xFFFFFFFF (v.1 + m), v.2)

/-- Cell k of a pass: what the samples the model holds have made of it, and the others (R261). -/
def BeamPass.cell (p : BeamPass) (d : JobDesc) (k : Nat) : Int × Int :=
  let col := k % max 1 d.width
  (p.loose.filter (fun w => decide (w.lo ≤ col) && decide (col < w.hi))).foldl (fun v w => w.cell d.kind k v)
    (sparseGet (fun _ => emptyCell d.kind) p.cells k)

/-- A cell of a pass in result form (R272); where the raster's contents are open, a free value. -/
def BeamPass.cellBytes (p : BeamPass) (d : JobDesc) (k : Nat) : List Byte :=
  let kind := d.kind
  let v := p.cell d k
  let word (i : Nat) (n : Int) (w : Nat) : List Byte :=
    match p.blurred with
    | none => leBytes w (toBitsInt (8 * w) n)
    | some f => leBytes w (Config.freeWord (f + 2 ^ 64 * (4 * k + i))).toNat
  match kind with
  | 1 => word 0 v.1 8 ++ word 1 v.2 8
  | 5 => word 0 v.1 2 ++ word 1 v.2 2
  | _ => word 0 v.1 4

/-- PASS_FLAGS (R272). -/
def BeamPass.flags (p : BeamPass) (double : Bool) : Nat :=
  b2n p.incomplete + 2 * b2n p.binSat + 4 * b2n p.limited + 8 * b2n (p.missed != 0) + 16 * b2n (p.axisSkip != 0) +
    32 * b2n p.restarted + 64 * b2n double

/-- A pass result: the summary and the raster (R272). -/
def BeamPass.result (p : BeamPass) (d : JobDesc) (j beam : Nat) : List Byte :=
  let mask (k : Nat) : List Byte :=
    if d.kind = 4 && d.maskSel.testBit k then leBytes 8 (p.hits.getD k 0) ++ leBytes 4 (p.sweepsHit.getD k 0) ++ leBytes 4 0
    else leBytes 16 0
  leBytes 4 (j + 2 ^ 8 * d.kind + 2 ^ 12 * beam) ++ leBytes 4 (p.flags d.double) ++ leBytes 8 p.no ++
  leBytes 4 p.sweeps ++ leBytes 4 p.missed ++ leBytes 8 p.startTs ++ leBytes 4 0 ++ leBytes 4 d.width ++
  leBytes 4 d.rows ++ leBytes 4 0 ++ leBytes 8 p.offRaster ++ leBytes 8 p.spillMiss ++ leBytes 8 p.axisSkip ++
  leBytes 24 0 ++ (List.range 8).flatMap mask ++ leBytes 32 0 ++
  (if d.kind = 4 then [] else (List.range d.cells).flatMap (p.cellBytes d))

/-- The report marker of a pass, with a result buffer (R271, R273). -/
def State.report (s : State) (j : Nat) (p : BeamPass) : State :=
  let x := s.job j
  let d := s.descOf j
  let r := s.blankRecord d.ctx .marker
  let k := (List.range x.bufs.length).find? (fun i => (x.bufs.getD i none).isNone)
  let s := s.setJob j { x with bufs := match k with
    | some i => x.bufs.set i (some (d.ctx, r.cseq))
    | none => x.bufs }
  s.addMarker { r with
    trigFrac := 0xF00 + j, ts := p.endTs * 2 ^ 32, axisPos := p.endAxis, job := some j
    reportPcs := x.bufPcs.take (ceilDiv d.resultBytes 2048)
    data := p.result d j (x.beam.getD 0) }

/-- The gap that stands where a report would have stood (R276). -/
def State.reportGap (s : State) (j : Nat) : State :=
  let d := s.descOf j
  if !d.report then s
  else s.addGap { s.blankRecord d.ctx .gap with
    trigFrac := 0xF00 + j, ts := s.now, axisPos := s.axisReported s.time.clk } .beamDegraded

/-- A job is placed again (R267, R276): its descriptor is checked, it takes the lowest-numbered free beam of its pool, or waits for
one. -/
def State.resumeJob (s : State) (j : Nat) : State :=
  let x := s.job j
  if s.badJob (s.descOf j) then (s.setJob j JobSt.init).jobFault j .badJob
  else match s.freeBeam (s.descOf j).pool with
  | none => s.setJob j { x with state := 7, cur := { x.cur with missed := 0 } }
  | some b =>
    let x := { x with beam := some b }
    let s := s.setJob j x
    if x.restart then s.prepare j true else if x.startPending then s.prepare j false else s.setJob j { x with state := 1 }

/-- What an uncorrectable error, or a freeze of the spill area, does to a job (R276, R277): every pass without a report is
abandoned, the older first, and the job is placed again, with `resv` reserved and the spill area on `pcs`. With none the chunks
cannot be reserved: the placement fails under R267 and the job is UNPLACED (DEDUCED, log 124). -/
def State.degradeJob (s : State) (j : Nat) (pcs : List Nat) (resv : Option (Sparse Nat)) : State :=
  let x := s.job j
  let s := (s.hwSet F.BEAM_EVENTS_DEGRADED).hwSet F.FLT_CLASS_BEAM_DEGRADED
  let oldOpen := x.oldPhase == .draining || x.oldPhase == .unloading || x.oldPhase == .waitBuf
  let curOpen := 2 ≤ x.state && x.state ≤ 6
  let s := if oldOpen then s.reportGap j else s
  let s := if curOpen then s.reportGap j else s
  let restart := x.restart || x.state == 2 || x.state == 3
  match resv with
  | none => (s.setJob j JobSt.init).jobFault j .noSpace
  | some r =>
    let s := s.setJob j { x with
      beam := none
      degraded := true, restart := restart, oldPhase := .idle
      cur := { x.cur with sweepsIn := [], blurred := some (x.cur.blurred.getD s.time.free) }
      old := { x.old with sweepsIn := [] }
      spillPcs := if x.spilled then pcs else [], resv := r }
    (s.rebaseJob j).nextFree.resumeJob j

/-- A reservation with the chunks of pseudo-channel p moved to the other members of an area that have unreserved chunks, in
their order (R247, R277); none when they lack enough. -/
def State.movedResv (s : State) (resv : Sparse Nat) (p : Nat) (others : List Nat) : Option (Sparse Nat) :=
  let (left, r) := others.foldl (fun (a : Nat × Sparse Nat) q =>
    let n := min a.1 (s.pcFree q)
    (a.1 - n, sparseSet (fun _ => 0) a.2 q (sparseGet (fun _ => 0) a.2 q + n)))
    (sparseGet (fun _ => 0) resv p, sparseSet (fun _ => 0) resv p 0)
  if left = 0 then some r else none

/-- An ACC_START (R264). -/
def State.accStart (s : State) (j : Nat) : State :=
  let x := s.job j
  match x.state with
  | 0 => let (ok, s) := s.placeJob j (s.jobDesc j); if ok then s.prepare j false else s
  | 1 => s.prepare j false
  | 4 | 5 | 6 => s.setJob j { x with startPending := true }
  | _ => s.jobFault j .ignored

/-- An ACC_STOP (R264). -/
def State.accStop (s : State) (j : Nat) : State :=
  let x := s.job j
  match x.state with
  | 2 => (s.setJob j { x with cur := s.endPass x.cur }).unloadCur j
  | 3 => s.setJob j { x with state := 4, cur := s.endPass x.cur }
  | 7 => s.setJob j JobSt.init
  | _ => s.jobFault j .ignored

/-- An ACC_FOLD (R264, R266). -/
def State.accFold (s : State) (j : Nat) : State :=
  let x := s.job j
  if x.state ≠ 3 then s.jobFault j .ignored
  else if (s.descOf j).double ∧ x.oldPhase ≠ .idle then s.jobFault j .foldBusy
  else if x.freeBufs = 0 then s.jobFault j .foldNoBuf
  else if !(s.descOf j).double then s.setJob j { x with state := 4, startPending := true, cur := s.endPass x.cur }
  else s.setJob j { x with
    old := s.endPass x.cur, oldPhase := .draining, nextPass := x.nextPass + 1
    cur := { BeamPass.init with no := x.nextPass, startTs := s.tsc } }

/-- An ACC action. -/
def State.accAct (s : State) (j : Nat) (a : AccAct) : State :=
  match a with
  | .start => s.accStart j
  | .stop => s.accStop j
  | .fold => s.accFold j

/-- Whether an event is an ACC action. -/
def JobEvent.isAct (e : JobEvent) : Bool := match e with
  | .act _ => true
  | _ => false

/-- Whether an ACC action of the present clock has named a job. -/
def State.acted (s : State) (j : Nat) : Bool := s.beam.pre.any (fun p => p.1 == j && p.2.2.any JobEvent.isAct)

/-- A placement by the host, unless the job is placed or an action of the clock has named it (R267, R268). -/
def State.placeHost (s : State) (j : Nat) (d : JobDesc) : State :=
  if (s.job j).state = 0 ∧ !s.acted j then (s.placeJob j d).2 else s

/-- Takes back what is still to be counted for a job. -/
def State.dropTally (s : State) (j : Nat) : State :=
  { s with beam := { s.beam with tally := s.beam.tally.filter (fun p => p.1 != j) } }

/-- Takes back the placements that the host made in this clock, before an action (R268). -/
def State.undoPlaced (s : State) : State :=
  s.beam.placed.foldl (fun s p => if s.acted p.1 then s else (s.setJob p.1 JobSt.init).dropTally p.1) s

/-- Makes the host's placements of this clock again, behind the actions. -/
def State.redoPlaced (s : State) : State := s.beam.placed.foldl (fun s p => s.placeHost p.1 p.2) s

/-- Keeps what orders a job in the present clock. -/
def State.setDay (s : State) (j : Nat) (x : JobSt) (evs : List JobEvent) : State :=
  { s with beam := { s.beam with pre := s.beam.pre.filter (fun p => p.1 != j) ++ [(j, x, evs)] } }

/-- The events of the clock act in turn on the job as it stood before them (R92, R261). -/
def State.replayJob (s : State) (j : Nat) : State :=
  let (x, evs) := s.jobDay j
  evs.foldl (fun s e => match e with
    | .act a => s.accAct j a
    | .opened c q => s.setJob j ((s.job j).opens (s.descOf j).limit c q)
    | .waits _ => s) ((s.setJob j x).dropTally j)

/-- An ACC action under R92 and R268: of those of a clock the last acts, in its order among the OPENs, ahead of the host's placements;
a RELEASE of the clock is refused. -/
def State.accAction (s : State) (j : Nat) (a : AccAct) : State :=
  let s := s.undoPlaced
  let (x, evs) := s.jobDay j
  ((s.setDay j x (evs.filter (fun e => !e.isAct) ++ [.act a])).replayJob j).redoPlaced

/-- The job that a context feeds (R260). -/
def State.fedJob (s : State) (c : Nat) : Option Nat :=
  if s.bit (F.CTX_CTL_JOB_EN c) then some (s.getF (F.CTX_CTL_JOB c)) else none

/-- Changes what orders the job that context c feeds. -/
def State.editDay (s : State) (c : Nat) (f : List JobEvent → List JobEvent) : State :=
  match s.fedJob c with
  | none => s
  | some j =>
    let (x, evs) := s.jobDay j
    (s.setDay j x (f evs)).replayJob j

/-- A segment of a feeding context opens, in the place of an OPEN that waited (R92, R261). -/
def State.sweepOpens (s : State) (c cseq : Nat) : State :=
  s.editDay c (fun evs =>
    if evs.contains (.waits c) then evs.map (fun e => if e = .waits c then .opened c cseq else e) else evs ++ [.opened c cseq])

/-- An OPEN of a feeding context waits for space. -/
def State.sweepWaits (s : State) (c : Nat) : State := s.editDay c (fun evs => evs ++ [.waits c])

/-- It does not open. -/
def State.sweepGone (s : State) (c : Nat) : State := s.editDay c (fun evs => evs.filter (· != .waits c))

/-- A CLOSE of the clock takes an OPEN back. -/
def State.sweepUndone (s : State) (c cseq : Nat) : State := s.editDay c (fun evs => evs.filter (· != .opened c cseq))

/-- The end of a fabric clock for jobs: a FOLD refused for want of a buffer is made where the clock's retirements freed one, and what
actions and placements are counted for is counted (R264 to R268). -/
def State.accSettle (s : State) : State :=
  let s := (s.beam.tally.filter (fun p => p.2 == .foldNoBuf)).foldl (fun s p => s.replayJob p.1) s
  s.beam.tally.foldl (fun s p => s.countFault p.2) { s with beam := { s.beam with tally := [], pre := [] } }

/-- What JOBj.STATE shows (R263, R278). -/
def State.jobStateWord (s : State) (j : Nat) : Word :=
  let x := s.job j
  let busy := x.state == 5 || x.oldPhase == .unloading || x.oldPhase == .clearing || x.state == 2
  BitVec.ofNat 32 (x.beam.getD 0 * 2 ^ 16 + 2 ^ 12 * b2n x.spilled + 2 ^ 11 * b2n x.startPending + 2 ^ 10 * b2n busy +
    2 ^ 9 * b2n x.degraded + x.state)

/-- Whether a tile of 64 columns of a spilled raster lies in the streaming half of the beam (R269); which ones do is open. -/
def State.tileHeld (s : State) (t : Nat) : Bool := (Config.freeWord (s.time.free + 2 ^ 64 * (2 * t + 1))).getLsbD 0

/-- Whether the beam of a job holds column x of its raster (R269, R270): the lowest columns, up to 3 MiB, are pinned. -/
def State.columnHeld (s : State) (j x : Nat) : Bool :=
  !(s.job j).spilled || decide (x < pinnedColumns (s.descOf j)) || s.tileHeld (x / 64)

/-- Whether a cell of the working raster is resident (R269, R274). -/
def State.cellResident (s : State) (j k : Nat) : Bool :=
  let d := s.descOf j
  (s.job j).beam.isSome && d.kind != 4 && decide (k < d.cells) && s.columnHeld j (k % d.width)

/-- The raster in the beam: what the sweeps in progress have added, which SEGMENT_CLOSE brings, is open (R261). -/
def State.workingPass (s : State) (j : Nat) : BeamPass :=
  let p := (s.job j).cur
  let recs := p.sweepsIn.filterMap (fun q => s.seg.recs.find? (fun r => r.ctx == q.1 && r.cseq == q.2))
  let sweeps := (List.zip (List.range recs.length) recs).map (fun q => s.looseSweep (s.descOf j) q.2 (s.time.free + 1 + 2 ^ 128 * q.1))
  { p with loose := sweeps.filter (fun w => w.n != 0) ++ p.loose }

end Sys2Proof.Machine
end

