-- ==== Sys2Proof/Machine/LoomOps.lean ====
section
/-! DEFINITION. What the Loom's actions do to contexts, segments and markers, and the events it sees
(spec/03_axis_and_loom.md R82 to R104, spec/07_trigger.md R192 to R196, spec/09_segments_and_placement.md R226 to R247). -/

namespace Sys2Proof.Machine

/-- Counts a trigger report at the live contexts in holdoff that name its source (R22, R194). -/
def State.tallyHoldoff (s : State) (src : Nat) (instant : Instant) (mult : Nat) : State :=
  s.lives.foldl (fun s q =>
    if q.2.holdoff && s.ctxUnit q.1 == 2 && (s.getF (F.CTX_TRIG_MASK_MASK q.1)).testBit src then
      s.setLive q.1 (some { q.2 with seen := q.2.seen ++ [((instant : Int), mult)] })
    else s) s

/-- A trigger source reports an event (R85, R187). -/
def State.reportTrig (s : State) (src : Nat) (instant : Instant) (mult : Nat) : State :=
  (s.reportEvent (.trig src instant mult)).tallyHoldoff src instant mult

/-! ## Arming -/

/-- The stage order of a profile, from a lane that has it. -/
def State.profileKinds (s : State) (profile : Nat) : Option (List Nat) :=
  ((List.range 64).find? (fun l => s.getF (F.LANE_BIND_PROFILE l) == profile)).map (fun l => (s.lane l).kinds)

/-- Whether the delivery queue of a context refuses an ARM of it (R314): not enabled, or without buffers for one segment. -/
def State.queueUnfit (s : State) (c : Nat) : Bool :=
  let q := s.getF (F.CTX_STORE_DQ c)
  s.bit (F.CTX_STORE_HOST_EN c) && !(s.queueEnabled q &&
    s.queueHolds q (s.headerBytes + s.footprint c + 64 * s.queuePlanes q (fmtWidth (s.ctxFmt c))))

/-- The checks of R228, R260, R314 and R341 that need no lane; a ring that does not hold one segment fails with any lane. -/
def State.ctxUnfit (s : State) (c : Nat) : Bool :=
  let len := s.ctxLen c
  let f := s.footprint c
  s.getF (F.CTX_STORE_FMT c) == 3 || decide (len < 1024) || decide (len < s.ctxPre c) ||
  decide (s.fieldAt (Reg.CTX_QUOTA c) 0 25 * 2048 < f) ||
  (s.bit (F.CTX_STORE_STREAM_EN c) &&
    (!s.bit F.DEV_CAPS_STREAM || decide (s.fieldAt (Reg.CTX_STREAM_QUOTA c) 0 25 * 2048 < f + 64))) ||
  (s.bit F.DRAFT_STATUS_COMPAT_ACTIVE && decide (2 ^ 32 ≤ len)) ||
  (s.bit (F.CTX_CTL_JOB_EN c) && s.getF (F.BEAM_JOB_CFG_KIND (s.getF (F.CTX_CTL_JOB c))) == 0) ||
  s.queueUnfit c

/-- The checks that refuse an ARM as INVALID_CTX on a lane of a stage order: those of R228 that the lane decides, and those of
R220 on the parameter set. -/
def State.ctxInvalid (s : State) (c : Nat) (kinds : List Nat) : Bool :=
  let p := s.paramSet (ctxBase c)
  s.ctxUnfit c || (kinds.getLast? == some 5 && (s.ctxLen c % 2 == 1 || s.ctxPre c % 2 == 1)) ||
  decide (s.fieldAt (Reg.CTX_QUOTA c) 0 25 * 2048 < s.footprint c + s.holdWindow c (s.ctxRates c p kinds).1) ||
  s.checkSet p kinds != 0

/-- The reservation an ARM needs on a stripe set: ceil(QUOTA / W) in each member, or what retained records hold there, and
what they hold elsewhere (R246). -/
def State.armResv (s : State) (c : Nat) (set : List Nat) : Sparse Nat :=
  let share := ceilDiv (s.fieldAt (Reg.CTX_QUOTA c) 0 25) set.length
  (List.range 64).foldl (fun m p =>
    sparseSet (fun _ => 0) m p (if set.contains p then max share (s.retainedIn c p) else s.retainedIn c p)) []

/-- Check 4 of R95: the quota, the write budgets and the stream budget (R129, R246, R341). Answers whether it passes, and
the state with the sticky bits of the budgets that refuse. -/
def State.checkQuota (s : State) (c : Nat) (set : List Nat) (rate w16 strm : Rat) : Bool × State :=
  let resv := s.armResv c set
  let old := (s.keepOf c).resv
  let fits := !set.isEmpty && set.all (fun p =>
    decide (sparseGet (fun _ => 0) resv p ≤ s.pcFree p + sparseGet (fun _ => 0) old p))
  let space := decide (s.ringUsed c ≤ s.fieldAt (Reg.CTX_QUOTA c) 0 25 * 2048)
  let (r, w, t) := s.commitments
  let (rl, wl) := s.rateLimits
  let bw := decide (r + rate ≤ rl) && decide (w + w16 ≤ wl)
  let st := decide (t + strm ≤ 245000000000) || strm == 0
  let s := if bw then s else s.hwSet F.CONV_EVENTS_BW_REFUSED
  let s := if st then s else s.hwSet F.STRM_EVENTS_BW_REFUSED
  (fits && space && bw && st, s)

/-- When a context that an ARM makes live, or keeps live, is released: in the next clock where a stop is in progress (R33). -/
def State.stopRelease (s : State) : Option Nat := if s.loom.stopping then some (s.time.clk + 1) else none

/-- An ARM of a context that is not live: the cause of its failure, 0 for none (R95). -/
def State.armFresh (s : State) (c : Nat) : Nat × State :=
  if !s.bit (F.CTX_CTL_VALID c) then (2, s)
  else if !(match s.ctxChannel c with
    | some n => s.channelExists n
    | none => false) then (3, s)
  else
    let profile := s.getF (F.CTX_CTL_LANE_PROFILE c)
    match s.profileKinds profile with
    | none => (if s.ctxUnfit c then 2 else 1, s)
    | some kinds =>
      if s.ctxInvalid c kinds then (2, s)
      else
        match s.findLane profile with
        | none => (1, s)
        | some l =>
          let (out, rate, w16, strm) := s.ctxRates c (s.paramSet (ctxBase c)) kinds
          let set := s.leastLoaded (s.stripeWidth rate)
          let (ok, s) := s.checkQuota c set rate w16 strm
          if !ok then (4, s)
          else
            let s := s.setKeep c { s.keepOf c with resv := s.armResv c set, stripe := set, rot := 0, short := 0 }
            let s := s.setLive c (some {
              lane := l, armed := true, release := s.stopRelease, rate := rate, w16 := w16, strm := strm, outRate := out
              holdoff := false, h0 := none, h0At := 0, p0 := 0, seen := [], segCseq := 0, segHanded := none })
            (0, s.bindLane l c out)

/-- An ARM action (R95): the cause of its failure, 0 for none. A live disarmed context is armed again. DESIGN CHOICE (log 140): what
a DISARM of the same clock has done besides disarming (R24, R92) stays done: the gap that ends a run of refusals, and the waiting
lane sets discarded. The context then has no holdoff (R193). -/
def State.arm (s : State) (c : Nat) : Nat × State :=
  match s.liveOf c with
  | none => s.armFresh c
  | some x =>
    if x.armed then (0, s)
    else
      let due := if (s.openRec c).isSome then none else s.stopRelease
      (0, s.setLive c (some { x with armed := true, release := due, holdoff := false, h0 := none, seen := [] }))

/-- Whether the failure of an ARM for a cause lies in what the engines of a pair do not share: lanes, space and budgets, and the
host's queues (R394, R396; log 157). -/
def State.armLocal (s : State) (c cause : Nat) : Bool :=
  cause == 1 || cause == 4 || (cause == 2 && s.bit (F.CTX_CTL_VALID c) && s.queueUnfit c)

/-- A failed ARM of a tread (R96). -/
def State.armFailed (s : State) (c cause tread : Nat) : State :=
  let s := (s.rclAdd Reg.LOOM_ARM_FAIL_COUNT 1).hwSet F.LOOM_EVENTS_ARM_FAIL
  s.setReg Reg.LOOM_ARM_FAIL_LAST (BitVec.ofNat 32 (c + 2 ^ 12 * cause + 2 ^ 16 * tread))

/-- The markers of context c made in the present clock, in sequence order. -/
def State.marksNow (s : State) (c : Nat) : List Record :=
  (s.recsOf c).filter (fun r => r.kind == .marker && r.openedIn == s.time.clk)

/-- The newest record of context c takes sequence number n, ahead of the records that hold n and the numbers after it. -/
def State.putAt (s : State) (c n : Nat) : State :=
  match (s.recsOf c).getLast? with
  | none => s
  | some g =>
    let move (q : Nat) : Nat := if q = g.cseq then n else if n ≤ q && q < g.cseq then q + 1 else q
    let shift (r : Record) : Record := if r.ctx == c then { r with cseq := move r.cseq } else r
    let key (k : Nat × Nat) : Nat × Nat := if k.1 = c then (c, move k.2) else k
    let pass (p : BeamPass) : BeamPass := { p with sweepsIn := p.sweepsIn.map key }
    let job (x : JobSt) : JobSt := { x with cur := pass x.cur, old := pass x.old }
    let event (e : JobEvent) : JobEvent := match e with
      | .opened d q => .opened d (key (d, q)).2
      | e => e
    let without := s.seg.recs.filter (fun r => !(r.ctx == c && r.cseq == g.cseq))
    let before := without.takeWhile (fun r => !(r.ctx == c && r.cseq == n))
    { s with
      seg := { s.seg with
        recs := before ++ [{ g with cseq := n }] ++ (without.drop before.length).map shift
        live := s.seg.live.map (fun p => if p.1 = c then (c, p.2.map (fun x => { x with segCseq := move x.segCseq })) else p)
        undo := s.seg.undo.map (fun u => if u.ctx = c then { u with cseq := move u.cseq } else u) }
      beam := { s.beam with
        jobs := s.beam.jobs.map (fun p => (p.1, job p.2))
        pre := s.beam.pre.map (fun p => (p.1, job p.2.1, p.2.2.map event)) }
      loom := { s.loom with issuesNow := s.loom.issuesNow.map (fun p =>
        if p.1 == c && p.2.accepted then (p.1, { p.2 with cseq := move p.2.cseq }) else p) } }

/-- Puts the newest record of a context before the markers of its context made in this clock, all but the first k (R244). -/
def State.beforeMarkers (s : State) (c k : Nat) : State :=
  match (s.marksNow c).drop k with
  | [] => s
  | m :: _ => s.putAt c m.cseq

/-- Announces a run of refused triggers, ahead of the markers of the clock (R241, R244). -/
def State.announce (s : State) (c : Nat) : State :=
  if (s.keepOf c).run.isSome then (s.announceRun c).beforeMarkers c 0 else s

/-- A DISARM ends a run of refusals (R241): at the end of the clock, where an OPEN of it may still join the run. -/
def State.endRun (s : State) (c : Nat) : State :=
  if s.seg.waiting.any (fun w => w.ctx == c) then
    { s with seg := { s.seg with waiting := s.seg.waiting.map (fun w => if w.ctx = c then { w with ended := true } else w) } }
  else s.announce c

/-- A DISARM action (R25, R98, R241). -/
def State.disarm (s : State) (c : Nat) : State :=
  match s.liveOf c with
  | none => s
  | some x =>
    let s := (s.endRun c).dropSets x.lane
    let due := if (s.openRec c).isSome then x.release else some (s.time.clk + 1)
    s.setLive c (some { x with armed := false, release := due })

/-- An action without effect on a context that is not live (R99). -/
def State.notLive (s : State) : State := (s.rclAdd Reg.LOOM_NOT_LIVE_COUNT 1).hwSet F.LOOM_EVENTS_NOT_LIVE

/-! ## Opening and closing -/

/-- Whether the position has lain at least v (2^-48 unit) from p in some clock of n0 to n1 (R194): the position moves
linearly between the parts of its track. -/
def State.axisFar (s : State) (n0 n1 p v : Int) : Bool :=
  let far (n : Int) : Bool := decide (v ≤ (s.axisAt n - p).natAbs)
  let inSpan (n : Int) : Bool := decide (n0 ≤ n) && decide (n ≤ n1)
  decide (n0 ≤ n1) && (far n0 || far n1 ||
    (!s.axisIsTime && s.axis.track.any (fun k => (inSpan k.clk && far k.clk) || (inSpan (k.clk - 1) && far (k.clk - 1)))))

/-- The instant of the report at which the counted events reach v (R194). -/
def reachedAt (h0 : Int) (v : Nat) : Nat → List (Int × Nat) → Option Int
  | _, [] => none
  | n, (t, m) :: l =>
    if t ≤ h0 then reachedAt h0 v n l
    else if v ≤ n + m then some t else reachedAt h0 v (n + m) l

/-- Whether the holdoff of a live context has expired for an OPEN with trigger instant t (R194). -/
def State.holdoffOver (s : State) (c : Nat) (x : LiveCtx) (t : Instant) : Bool :=
  if !x.holdoff then true
  else
    let v := s.ctxHoldoff c
    if (s.ctxUnit c = 0 ∧ v = 0) ∨ (s.ctxUnit c = 2 ∧ v / 2 ^ 16 = 0) then true
    else
    match s.ctxUnit c, x.h0 with
    | 3, _ => (match x.segHanded with
      | some n => decide (n < s.time.clk)
      | none => false)
    | _, none => false
    | 0, some h => decide (h + v * 2 ^ 16 ≤ t)
    | 1, some _ => s.axisFar (-(-x.h0At / 2 ^ 32)) (s.time.clk - 1) x.p0 (v * 2 ^ 32)
    | _, some h =>
      match reachedAt h (v / 2 ^ 16) 0 x.seen with
      | some r => decide (r < t)
      | none => false

/-- The reports of context c's masked sources of the last clocks whose instants lie after t, oldest first (R22, R194): those
made before the OPEN at t count too. -/
def State.reportsAfter (s : State) (c : Nat) (t : Instant) : List (Int × Nat) :=
  s.loom.events.reverse.filterMap (fun e => match e.2 with
    | .trig src i m =>
      if (s.getF (F.CTX_TRIG_MASK_MASK c)).testBit src && decide (t < i) then some ((i : Int), m) else none
    | _ => none)

/-- A holdoff found expired stays so until the next accepted OPEN (R194). -/
def State.expireHoldoff (s : State) (c : Nat) (t : Instant) : State :=
  match s.liveOf c with
  | some x => if x.holdoff && s.holdoffOver c x t then s.setLive c (some { x with holdoff := false }) else s
  | none => s

/-- Whether an opening with trigger instant t fits in the last five clocks (R196), beside openings `held`. -/
def State.openingFits (s : State) (held : List Instant) (t : Instant) : Bool :=
  let recent := (s.loom.openings.filter (fun o => s.time.clk < o.1 + 5)) ++ held.map (fun i => (s.time.clk, i))
  recent.contains (s.time.clk, t) || decide (recent.eraseDups.length < 2)

/-- An OPEN that the Loom counts as refused (R94). -/
def State.openRefused (s : State) : State := (s.rclAdd Reg.LOOM_OPEN_REFUSED 1).hwSet F.LOOM_EVENTS_OPEN_REFUSED

/-- A refusal for want of ring space or of a slot: it joins a run (R241, R243). -/
def State.refuseSpace (s : State) (c : Nat) (cause : GapCause) (iss : IssueTime) : State :=
  let s := s.openRefused.rclAdd Reg.SEG_RING_FULL_COUNT 1
  let s := (s.hwSet (if cause == .tableFull then F.SEG_EVENTS_TABLE_FULL else F.SEG_EVENTS_RING_FULL)).hwSet
    F.FLT_CLASS_CAPACITY
  let k := s.keepOf c
  s.setKeep c { k with run := some (match k.run with
    | some r => { r with count := r.count + 1 }
    | none => { cause := cause, ts := iss.instant, src := iss.source, axisPos := s.axisHeader iss.instant, count := 1 }) }

/-- Bytes of a context's ring that records may use (R228, R247). -/
def State.ringRest (s : State) (c : Nat) (x : LiveCtx) : Nat :=
  (s.fieldAt (Reg.CTX_QUOTA c) 0 25 - (s.keepOf c).short) * 2048 - s.holdWindow c x.outRate

/-- Takes the oldest records of a ring until f bytes are free (R242): their space at once, while their fate is settled at the end
of the clock, when what became VISIBLE or was acknowledged in it is known (R244). -/
def State.overwrite (s : State) (c rest f : Nat) : Nat → State
  | 0 => s
  | fuel + 1 =>
    if s.ringUsed c + f ≤ rest then s
    else
      match (s.recsOf c).find? (fun r => r.bytes != 0) with
      | none => s
      | some r =>
        let s := (s.mapRecs (fun q => q.ctx == c && q.cseq == r.cseq) (fun q => { q with bytes := 0 })).gcChunks c
        let s : State := { s with seg := { s.seg with taking := s.seg.taking ++ [(c, r.cseq)] } }
        s.overwrite c rest f fuel

/-- What becomes of the segments that OPENs of the clock overwrote (R242, R244): one VISIBLE at every consumer loses its data, any
other is an OVERWRITTEN gap where it is not. -/
def State.settleTaken (s : State) : State :=
  let s' : State := { s with seg := { s.seg with taking := [] } }
  s.seg.taking.foldl (fun s k =>
    match s.seg.recs.find? (fun r => r.ctx == k.1 && r.cseq == k.2) with
    | none => s
    | some r =>
      if r.spent then s.mapRecs (fun q => q.ctx == k.1 && q.cseq == k.2) (fun q => { q with data := [] })
      else (((s.gapRecord r .overwritten true true).rclAdd Reg.SEG_OVERWRITE_GAPS 1).hwSet
        F.SEG_EVENTS_OVERWRITE_GAP).hwSet F.FLT_CLASS_CAPACITY) s'

/-- Opens a segment of a live context with room for it (R93, R193, R229). `cseq` is the sequence number that a SHADOW takes
from its ACTIVE (R395). -/
def State.acceptOpen (s : State) (c : Nat) (x : LiveCtx) (iss : IssueTime) (cseq : Option Nat) : State :=
  let s := s.announce c
  let s := match cseq with
    | some n => s.setKeep c { s.keepOf c with next := n }
    | none => s
  let fresh := !s.loom.openings.contains (s.time.clk, iss.instant)
  let seen := s.reportsAfter c iss.instant
  let undo : OpenUndo := { ctx := c, clk := s.time.clk, recs := s.recsOf c, keep := s.keepOf c, live := x,
                           instant := iss.instant, cseq := (s.keepOf c).next }
  let f := s.footprint c
  let rest := s.ringRest c x
  let s := if s.getF (F.CTX_STORE_RING c) = 1 then s.overwrite c rest f (s.recsOf c).length else s
  let r := { s.blankRecord c .segment with
    ts := iss.instant, src := iss.source, flags := if iss.late then 4 else 0, axisPos := s.axisHeader iss.instant,
    len := s.ctxLen c, pre := s.ctxPre c, bytes := f, job := none }
  let s := s.addRecord r
  let s := s.setKeep c { s.keepOf c with ringPos := r.start + f }
  let y : LiveCtx := { x with holdoff := true, h0 := none, seen := seen, segCseq := r.cseq, segHanded := none }
  let s := s.setLive c (some (if s.bit (F.CTX_HOLDOFF_HI_FROM_END c) then y else s.withH0 y iss.instant))
  let s : State := { s with
    loom := { s.loom with openings := if fresh then (s.time.clk, iss.instant) :: s.loom.openings else s.loom.openings }
    seg := { s.seg with undo := undo :: s.seg.undo } }
  let s := s.sweepOpens c r.cseq
  if s.cur == .armed then
    ({ s with seg := { s.seg with before := some (s.reg Reg.DEV_STATE, s.time.entered) } } : State).enter .acquiring 0x0A
  else s

/-- Whether a segment is open that a CLOSE of the present clock has not ended (R92, R94). -/
def State.stillOpen (s : State) (c : Nat) : Bool :=
  (s.recsOf c).any (fun r => r.kind == .segment && r.state == .opened && r.cut != some (((s.tsc + 1) * 2 ^ 32 : Nat) : Int))

/-- What an OPEN meets (R94, R195, R196, R241, R243): whether it is refused, must see whether an OPEN before it has the opening,
lacks a slot, lacks ring space, or opens. -/
inductive OpenFate where
  | refused | noOpening | noSlot | noSpace | opens
deriving DecidableEq, Repr

/-- The fate of an OPEN that the context accepts (R196, R241, R243); `held` are openings of OPENs that still wait for room. -/
def State.openPlace (s : State) (c : Nat) (x : LiveCtx) (iss : IssueTime) (held : List Instant) : OpenFate :=
  if !s.openingFits [] iss.instant then .refused
  else if !s.openingFits held iss.instant then .noOpening
  else if s.tableFree < (if (s.keepOf c).run.isSome then 2 else 1) then .noSlot
  else
    let used := if s.getF (F.CTX_STORE_RING c) = 1 then 0 else s.ringUsed c
    if s.ringRest c x < used + s.footprint c then .noSpace else .opens

/-- The fate of an OPEN of a live context. -/
def State.openFate (s : State) (c : Nat) (x : LiveCtx) (iss : IssueTime) : OpenFate :=
  let early := match (s.keepOf c).lastEnd with
    | some e => decide ((iss.instant : Int) < e + 2 * 2 ^ 32)
    | none => false
  if !x.armed || s.stillOpen c || early || !s.holdoffOver c x iss.instant then .refused
  else s.openPlace c x iss (s.seg.waiting.map (fun w => w.iss.instant))

/-- An OPEN that lacks a slot or ring space waits for the retirements of its clock (R244). -/
def State.waitOpen (s : State) (c : Nat) (iss : IssueTime) : State :=
  let log := if s.isProtectedActive then some s.loom.issuesNow.length else none
  ({ s with seg := { s.seg with waiting := s.seg.waiting ++ [⟨c, iss, (s.marksNow c).length, log, false⟩] } } : State).sweepWaits c

/-- An OPEN action (R93, R94, R193 to R196, R241 to R243). Answers whether it is accepted. -/
def State.openSeg (s : State) (c : Nat) (iss : IssueTime) : Bool × State :=
  let s := s.expireHoldoff c iss.instant
  match s.liveOf c with
  | none => (false, s.openRefused)
  | some x =>
    match s.openFate c x iss with
    | .refused => (false, s.openRefused)
    | .opens => (true, s.acceptOpen c x iss none)
    | _ => (false, s.waitOpen c iss)

/-- An OPEN that waited for room is refused for want of it; its run ends with a DISARM after it (R241, R243). -/
def State.settleRefused (s : State) (w : WaitOpen) (cause : GapCause) : State :=
  let s := (s.sweepGone w.ctx).refuseSpace w.ctx cause w.iss
  if w.ended then s.announce w.ctx else s

/-- An OPEN that waited is accepted at the end of its clock where that clock's retirements made room, ahead of the markers issued
after it, and refused otherwise (R196, R241, R243, R244). A DISARM after it does not refuse it. -/
def State.settleOpen (s : State) (w : WaitOpen) : State :=
  match s.liveOf w.ctx with
  | none => s.settleRefused w .ringFull
  | some x =>
    if s.stillOpen w.ctx then (s.sweepGone w.ctx).openRefused else
    match s.openPlace w.ctx x w.iss [] with
    | .refused | .noOpening =>
      let s := (s.sweepGone w.ctx).openRefused
      if w.ended then s.announce w.ctx else s
    | .noSlot => s.settleRefused w .tableFull
    | .noSpace => s.settleRefused w .ringFull
    | .opens =>
      let s := (s.acceptOpen w.ctx x w.iss none).beforeMarkers w.ctx w.marks
      let n := ((s.openRec w.ctx).map (·.cseq)).getD 0
      match w.log with
      | some i => { s with loom := { s.loom with
          issuesNow := s.loom.issuesNow.modify i (fun p => (p.1, { p.2 with accepted := true, cseq := n })) } }
      | none => s

/-- The end of a fabric clock for OPENs (R242, R244). -/
def State.opensSettle (s : State) : State :=
  (s.seg.waiting.foldl State.settleOpen { s with seg := { s.seg with waiting := [] } }).settleTaken

/-- An OPEN that a CLOSE of its clock takes back (R92): no segment, no sequence number, no opening unless another context has
its segment in it, no overwriting, no holdoff, and DEV.STATE as before where no segment is open. What disarmed the context, or
stopped the Loom, since then stands (R25, R33). DESIGN CHOICE (log 108): a gap that the OPEN announced stays. -/
def State.undoOpen (s : State) (u : OpenUndo) : State :=
  let restore (r : Record) : Record :=
    match u.recs.find? (fun q => q.cseq == r.cseq) with
    | some q => { r with bytes := q.bytes }
    | none => { r with cseq := r.cseq - 1 }
  let undo := s.seg.undo.filter (fun v => v.ctx != u.ctx)
  let openings := if undo.any (fun v => v.instant == u.instant) then s.loom.openings
    else s.loom.openings.filter (· != (u.clk, u.instant))
  let s : State := { s with
    seg := { s.seg with
      recs := (s.seg.recs.filter (fun r =>
        r.ctx != u.ctx || r.kind != .segment || u.recs.any (fun q => q.cseq == r.cseq))).map (fun r =>
          if r.ctx == u.ctx then restore r else r)
      undo := undo
      taking := s.seg.taking.filter (fun k => k.1 != u.ctx) }
    loom := { s.loom with openings := openings } }
  let s := s.setKeep u.ctx { u.keep with next := (s.keepOf u.ctx).next - 1 }
  let s := match s.liveOf u.ctx with
    | some x => s.setLive u.ctx (some { x with
        holdoff := u.live.holdoff, h0 := u.live.h0, h0At := u.live.h0At, p0 := u.live.p0, seen := u.live.seen
        segCseq := u.live.segCseq, segHanded := u.live.segHanded
        release := if x.armed && !s.loom.stopping then x.release else some (s.time.clk + 1) })
    | none => s
  let s := (s.sweepUndone u.ctx u.cseq).serveMarkers
  match s.seg.before with
  | some (w, e) =>
    if s.cur == .acquiring && !s.anyOpen then
      { s.setReg Reg.DEV_STATE w with time := { s.time with entered := e }, seg := { s.seg with before := none } }
    else s
  | none => s.leaveAcquiring

/-- The nominal instant of the last sample that a cut at `cut` leaves (R195, R230): the programmed last sample, where the cut comes
later. -/
def State.cutEnd (s : State) (r' : Record) (cut : Int) : Int :=
  let x := s.lane r'.lane
  let spc : Rat := s.samplesPerClock
  let stop : Rat := (cut : Rat) * spc / 2 ^ 32
  if freeRate x.eff x.kinds then
    let x := if x.onAxis then (s.gridAt x 0).1 else x
    let cum := max 1 (ratioOf x.eff (x.kinds.takeWhile (· != 4)))
    let outs := x.looseOutputs ((stop + laneDelay x.eff x.kinds).ceil + 64 * cum)
    match ((s.heldOf r' outs).2.takeWhile (fun y => decide (y.at' < stop))).getLast? with
    | some y => s.clockOf y.at'
    | none => cut
  else
    let (r, o) := uniformGrid x.eff x.kinds
    if r = 0 then cut
    else
      let k : Int := min (s.lastNamed r') (((stop - o) / r).ceil - 1)
      (((k : Rat) * r + o) * 2 ^ 32 / spc).floor

/-- A CLOSE action (R92, R99, R230); it takes back an OPEN of its clock. A segment that a CLOSE of an earlier clock has ended still
ends there. -/
def State.closeSeg (s : State) (c : Nat) : State :=
  if s.seg.waiting.any (fun w => w.ctx == c) then
    let ended := s.seg.waiting.any (fun w => w.ctx == c && w.ended)
    let s := ({ s with seg := { s.seg with waiting := s.seg.waiting.filter (fun w => w.ctx != c) } } : State).sweepGone c
    if ended then s.announce c else s
  else if !s.isLive c || !s.stillOpen c then s.notLive
  else
    match s.seg.undo.find? (fun u => u.ctx == c && u.clk == s.time.clk) with
    | some u => s.undoOpen u
    | none =>
      match (s.recsOf c).find? (fun r => r.kind == .segment && r.state == .opened && r.cut.isNone) with
      | none => s
      | some r =>
        let cut : Int := ((s.tsc + 1) * 2 ^ 32 : Nat)
        let s := s.mapRecs (fun q => q.ctx == c && q.cseq == r.cseq) (fun q => { q with cut := some cut })
        let last := s.cutEnd r cut
        (s.setKeep c { s.keepOf c with lastEnd := some last }).holdoffFrom c r.cseq last

/-! ## Markers, lanes, flags -/

/-- Whether a context that is not live may make a marker (R99). -/
def State.markerAllowed (s : State) (c : Nat) : Bool :=
  s.bit (F.CTX_CTL_VALID c) &&
  (!s.bit (F.CTX_STORE_HOST_EN c) || s.queueEnabled (s.getF (F.CTX_STORE_DQ c))) &&
  (!s.bit (F.CTX_STORE_STREAM_EN c) || s.bit F.DEV_CAPS_STREAM)

/-- A MARKER action (R99, R243, R457). Answers whether a record is created. -/
def State.makeMarker (s : State) (c code : Nat) (iss : IssueTime) : Bool × State :=
  if !s.isLive c && !s.markerAllowed c then (false, s.notLive)
  else (true, s.addMarker { s.blankRecord c .marker with
    ts := iss.instant, src := iss.source, axisPos := s.axisHeader iss.instant, flags := if iss.late then 4 else 0,
    trigFrac := code % 4096 })

/-- Sets LANE_CHANGED in the open segment of a context (R220, R223). -/
def State.laneChanged (s : State) (c : Nat) : State :=
  s.mapRecs (fun r => r.ctx == c && r.kind == .segment && r.state == .opened) (fun r => { r with flags := r.flags ||| 0x80 })

/-- A LANE_SWAP action (R99, R219 to R221). -/
def State.laneSwap (s : State) (c : Nat) : State :=
  match s.liveOf c with
  | none => s.notLive
  | some x =>
    let (took, s) := s.handover x.lane (s.openRec c).isSome x.outRate
    if took then s.laneChanged c else s

/-- A COEF_SWAP action on stage 0 FIR or 1 RESAMP (R92, R99, R223, R458). -/
def State.coefAction (s : State) (c stage sel : Nat) : State :=
  match s.liveOf c with
  | none => s.notLive
  | some x =>
    if sel = 3 || !(s.lane x.lane).kinds.contains (if stage = 0 then 3 else 4) then s.hwSet F.LOOM_EVENTS_BAD_ACTION
    else s.coefSwap x.lane stage sel

/-- The COEF_SWAP actions of the clock change the banks of lane l (R92, R221 to R223); a segment open then carries LANE_CHANGED. -/
def State.swapsSettle (s : State) (l : Nat) : State :=
  let x := s.lane l
  match x.swaps, x.ctx with
  | [], _ => s
  | _, none => s.setLane l { x with swaps := [] }
  | _, some c => (x.swaps.foldl (fun s p => s.takeBank l p.1 p.2) (s.setLane l { x with swaps := [] })).laneChanged c

/-- The lanes at the end of a fabric clock, when its commands are done. -/
def State.lanesTick (s : State) : State :=
  let s := (s.lanes.map (·.1)).foldl (fun s l => (s.swapsSettle l).gridClock l) s
  (s.lanes.filter (fun p => !p.2.wrote.isEmpty)).foldl (fun s p => s.setLane p.1 { s.lane p.1 with wrote := [] }) s

/-- A FLAG action (R88, R92). -/
def State.flagAction (s : State) (f : Nat) (v : Bool) : State :=
  let s := s.setBit (bitFld Reg.LOOM_FLAGS f) v
  let s : State := { s with loom := { s.loom with flagActed := s.loom.flagActed ||| BitVec.ofNat 32 (2 ^ f) } }
  if s.loom.flagHost.isSome then s.hwSet F.LOOM_EVENTS_FLAG_COLLIDE else s

/-- A host write of LOOM.FLAGS: bits that an action of the clock named keep the action's value (R88). -/
def State.flagsWrite (s : State) (v : Word) : State :=
  let old := s.reg Reg.LOOM_FLAGS
  let acted := s.loom.flagActed
  let s := s.setReg Reg.LOOM_FLAGS ((v &&& ~~~acted) ||| (old &&& acted))
  let s : State := { s with loom := { s.loom with flagHost := some old } }
  if acted = 0 then s else s.hwSet F.LOOM_EVENTS_FLAG_COLLIDE

/-- A host ring of doorbells (R86). -/
def State.ring (s : State) (v : Word) : State :=
  let pend := s.reg Reg.LOOM_DOORBELL_PEND
  ({ s with loom := { s.loom with rung := s.loom.rung ||| v, fresh := s.loom.fresh ||| (v &&& ~~~pend) } } : State).setReg
    Reg.LOOM_DOORBELL_PEND (pend ||| v)

/-! ## Table banks -/

/-- The tread that a window offset names (R82): its index and the word in it. -/
def State.windowAt (s : State) (off : Nat) : Nat × Nat := (s.getF F.LOOM_WIN_PAGE * 2048 + off / 4, off % 4)

/-- What a word of the tread window reads (R82). -/
def State.windowRead (s : State) (off : Nat) : Word :=
  let (i, w) := s.windowAt off
  ((sparseGet (fun _ => 0) (s.bank (s.bit F.LOOM_WIN_VIEW)) i) >>> (32 * w)).truncate 32

/-- A tread with word w replaced. -/
def withWord (t : BitVec 128) (w : Nat) (v : Word) : BitVec 128 :=
  (t &&& ~~~((0xFFFFFFFF : BitVec 128) <<< (32 * w))) ||| (v.zeroExtend 128 <<< (32 * w))

/-- A host write into the tread window (R82, R100). -/
def State.windowWrite (s : State) (off : Nat) (v : Word) : State :=
  if s.bit F.LOOM_WIN_VIEW then s.hwSet F.LOOM_EVENTS_FRONT_WRITE
  else if s.loom.swap.isSome then s.hwSet F.LOOM_EVENTS_BACK_LOCKED
  else
    let (i, w) := s.windowAt off
    let b := s.bank false
    let old := sparseGet (fun _ => 0) b i
    let s : State := if s.meetsOld && !s.loom.frontWas.any (fun p => p.1 == i) then
        { s with loom := { s.loom with frontWas := (i, old) :: s.loom.frontWas } } else s
    let b := sparseSet (fun _ => 0) b i (withWord old w v)
    { s with loom := if s.bit F.LOOM_STATUS_FRONT_PHYS then { s.loom with bank0 := b } else { s.loom with bank1 := b } }

/-- A write of LOOM.SWAP (R101, R103). DEDUCED (log 106): with both REQ and CANCEL the pending request is withdrawn first, and
the new one is then accepted. DESIGN CHOICE (log 139): a write without REQ stores CTX, RESTART and BOUNDARY, while a pending request
keeps those of its own write. -/
def State.swapWrite (s : State) (v : Word) : State :=
  let s := if v.getLsbD 1 then s.swapCancel else s
  if !v.getLsbD 0 then s.storeReg Reg.LOOM_SWAP v
  else if s.loom.swap.isSome || fieldOf v 2 2 == 3 then s.hwSet F.LOOM_EVENTS_SWAP_REFUSED
  else
    let s := (s.storeReg Reg.LOOM_SWAP v).setBit F.LOOM_STATUS_SWAP_PENDING true
    let q : SwapReq := ⟨fieldOf v 2 2, v.getLsbD 4, fieldOf v 8 10, s.time.clk, false⟩
    { s with loom := { s.loom with swap := some q } }

end Sys2Proof.Machine
end

