-- ==== Sys2Proof/Machine/Beam.lean ====
section
/-! DEFINITION. The commands of the cloth beams (spec/10_cloth_beams.md R252 to R278). -/

namespace Sys2Proof.Machine

/-- A write of 1 to CTRL.PLACE (R267, R268). -/
def State.hostPlace (s : State) (j : Nat) : State :=
  let d := s.jobDesc j
  if (s.job j).state = 0 then
    { s.placeHost j d with beam := { (s.placeHost j d).beam with placed := s.beam.placed ++ [(j, d)] } }
  else s

/-- A write of 1 to CTRL.RELEASE: accepted in PLACED, unless an action of the clock named the job (R267, R268). -/
def State.hostRelease (s : State) (j : Nat) : State :=
  let x := s.job j
  if x.state = 1 ∧ !s.acted j then
    let s := s.setJob j JobSt.init
    { s with beam := { s.beam with freed := (j, x) :: s.beam.freed } }
  else s

/-- A write of JOBj.CTRL (R278). -/
def State.jobCtrl (s : State) (j : Nat) (v : Word) : State :=
  let s := if v.getLsbD 1 then s.hostRelease j else s
  if v.getLsbD 0 then s.hostPlace j else s

/-- PLACE (R267). -/
def execPlace (j : Fin 256) (s : State) : Result :=
  .next (s.hostWrite (Reg.BEAM_JOB_CTRL j) 1 (fun s => s.jobCtrl j 1))

/-- RELEASE_JOB (R267). -/
def execReleaseJob (j : Fin 256) (s : State) : Result :=
  .next (s.hostWrite (Reg.BEAM_JOB_CTRL j) 2 (fun s => s.jobCtrl j 2))

/-- A host write to a word of a job's descriptor (R252). -/
def State.descWrite (s : State) (j word : Nat) (v : Word) : State :=
  if (s.job j).state = 0 then s.storeReg (Reg.BEAM_JOB_CFG j + 4 * word) v else s.hwSet F.FLT_HOST_JOB_BUSY

/-- JOB_DESCRIPTOR_WRITE (R252). -/
def execJobDescriptorWrite (j : Fin 256) (word : Fin 13) (v : Word) (s : State) : Result :=
  .next (s.hostWrite (Reg.BEAM_JOB_CFG j + 4 * word.val) v (fun s => s.descWrite j word v))

/-- PREPARE_DONE: PREPARE has lasted its clocks, and RUNNING begins (R265); or the other raster of a DOUBLE job is cleared
(R266). -/
def execPrepareDone (j : Fin 256) (s : State) : Result :=
  let x := s.job j
  .next (
    let s := s.rebaseJob j
    if x.oldPhase == .clearing then s.setJob j { x with oldPhase := .idle }
    else if x.state = 2 then s.setJob j { x with state := 3, cur := { x.cur with startTs := s.tsc } }
    else s)

/-- DRAIN_DONE: the last sweep in progress is accumulated (R264, R266). -/
def execDrainDone (j : Fin 256) (s : State) : Result :=
  let x := s.job j
  .next (
    let s := s.rebaseJob j
    if x.oldPhase == .draining && x.old.sweepsIn.isEmpty then s.unloadOld j
    else if x.state = 4 ∧ x.cur.sweepsIn.isEmpty then s.unloadCur j
    else s)

/-- UNLOAD_DONE: the report marker is made; the older pass comes first (R266, R271). -/
def execUnloadDone (j : Fin 256) (s : State) : Result :=
  let x := s.job j
  .next (
    let s := s.rebaseJob j
    if x.oldPhase == .unloading then
      let s := s.report j x.old
      s.setJob j { s.job j with oldPhase := .clearing }
    else if x.state = 5 then (s.report j x.cur).afterUnload j
    else s)

/-- RESULT_BUFFER_FREE: a waiting unload begins (R273). -/
def execResultBufferFree (j : Fin 256) (s : State) : Result :=
  let x := s.job j
  .next (
    let s := s.rebaseJob j
    if x.freeBufs = 0 then s
    else if x.oldPhase == .waitBuf then s.setJob j { x with oldPhase := .unloading }
    else if x.state = 6 then s.setJob j { x with state := 5 }
    else s)

/-- BEAM_FREE: a beam of the pool of a job in WAIT_BEAM has freed, and the job is placed again (R276). -/
def execBeamFree (j : Fin 256) (s : State) : Result :=
  let x := s.job j
  .next (if x.state = 7 ∧ (s.freeBeam (s.descOf j).pool).isSome then (s.rebaseJob j).resumeJob j else s)

/-- The error of a beam that leaves service, and the job that holds it (R276). -/
def State.beamFails (s : State) (b : Fin 16) (word : Fin 786432) : State :=
  let s := s.setBit (F.BEAM_BEAM_STATUS_IN_SERVICE b) false
  match s.beamJob b with
  | none => s
  | some j =>
    let s := (s.hwSet F.BEAM_EVENTS_UNCORR).makeRecord 8 1
      ([BitVec.ofNat 8 b.val, BitVec.ofNat 8 j] ++ leBytes 4 word.val)
    s.degradeJob j (s.job j).spillPcs (some (s.job j).resv)

/-- BEAM_UNCORR: an uncorrectable error at a word of a beam (R276). It is handled on the jobs as they stood before the ACC actions and
OPENs of the clock, which then act on what it leaves (R268). -/
def execBeamUncorr (b : Fin 16) (word : Fin 786432) (s : State) : Result :=
  .next (
    if !s.beamInService b then s
    else
      let s := s.rclAdd (Reg.BEAM_UE_COUNT b) 1
      let day := s.beam.pre
      let s := day.foldl (fun s p => (s.setJob p.1 p.2.1).dropTally p.1) s.undoPlaced
      let s := s.beamFails b word
      (day.foldl (fun s p => (s.setDay p.1 (s.job p.1) p.2.2).replayJob p.1) s).redoPlaced)

/-- BEAM_CORRECTED (R275). -/
def execBeamCorrected (b : Fin 16) (s : State) : Result :=
  .next (if s.beamInService b then s.rclAdd (Reg.BEAM_CE_COUNT b) 1 else s)

/-- PEEK_SEL (R274). -/
def execPeekSel (v : Word) (s : State) : Result :=
  .next (s.hostWrite Reg.BEAM_PEEK_SEL v (fun s => s.storeReg Reg.BEAM_PEEK_SEL v))

/-- A read of PEEK0: its value, with PEEK1 to PEEK3 latched for the reads that follow (R274). -/
def State.peek (s : State) : Word × State :=
  let sel := s.reg Reg.BEAM_PEEK_SEL
  let j := fieldOf sel 24 8
  let k := fieldOf sel 0 24
  let latch (s : State) (bs : List Byte) : State :=
    [1, 2, 3].foldl (fun s i => s.latch (Reg.BEAM_PEEK i) (BitVec.ofNat 32 (fieldLe bs (4 * i) 4))) s
  if s.cellResident j k then
    let bs := (s.workingPass j).cellBytes (s.descOf j) k
    (BitVec.ofNat 32 (fieldLe bs 0 4), (latch s bs).nextFree.nextFree)
  else (0, ((latch s []).hwSet F.BEAM_EVENTS_PEEK_MISS).nextFree.nextFree)

end Sys2Proof.Machine
end

