-- ==== Sys2Proof/Machine/Conv.lean ====
section
/-! DEFINITION. The converter reference (spec/04_converter_banks.md R123 to R126). -/

namespace Sys2Proof.Machine

/-- A change of reference written in an earlier clock takes effect: SEL_IN_EFFECT changes and SETTLED clears (R124). -/
def State.refTakes (s : State) : State :=
  match s.conv.refPending with
  | none => s
  | some sel =>
    let s := (s.setF F.CONV_REF_STATUS_SEL_IN_EFFECT sel).setBit F.CONV_REF_STATUS_SETTLED false
    { s with conv := { s.conv with refPending := none } }

/-- Whether VREF_EXT lies in its range (R132). -/
def State.extNow (s : State) (b : Bool) : State :=
  ({ s with board := { s.board with levels := { s.board.levels with ext := b } } } : State).setBit
    F.CONV_REF_STATUS_EXT_IN_RANGE b

/-- A write of CONV.REF_CTRL.SEL (R123, R124, R126); `extInRange` is whether VREF_EXT lies in its range. -/
def State.refWrite (s : State) (sel : Nat) (extInRange : Bool) : State :=
  let s := s.extNow extInRange
  if sel = 3 ∨ (sel = 1 ∧ !extInRange) ∨ s.time.setNow.contains (occKey F.CONV_EVENTS_EXT_FAULT) then
    s.hwSet F.CONV_EVENTS_REF_WRITE_LOST
  else
    let before := s.conv.refNow.getD (s.getF F.CONV_REF_CTRL_SEL)
    let s := s.setF F.CONV_REF_CTRL_SEL sel
    { s with conv := { s.conv with
        refNow := some before
        refPending := if sel = s.getF F.CONV_REF_STATUS_SEL_IN_EFFECT then none else some sel } }

/-- REF_SEL_WRITE (R124). -/
def execRefSelWrite (v : Word) (extInRange : Bool) (s : State) : Result :=
  .next (s.hostWrite Reg.CONV_REF_CTRL v (fun s => s.refWrite (fieldOf v 0 2) extInRange))

/-- REF_SETTLED: 20,000 BYP_OSC cycles after the last change (R124, R125). `extInRange` is whether VREF_EXT then lies in its
range (log 116). -/
def execRefSettled (s : State) (extInRange : Bool := true) : Result :=
  .next (if s.cur == .selftest || s.operational then
    (s.setBit F.CONV_REF_STATUS_SETTLED true).extNow extInRange else s)

/-- The fall-back from EXTERNAL (R126): a host write of the same clock is lost, whatever value it wrote. -/
def State.extFall (s : State) : State :=
  let s := match s.conv.refNow with
    | some b => (s.setF F.CONV_REF_CTRL_SEL b).hwSet F.CONV_EVENTS_REF_WRITE_LOST
    | none => s
  let s := ((s.setF F.CONV_REF_STATUS_SEL_IN_EFFECT 0).setBit F.CONV_REF_STATUS_SETTLED false).extNow false
  let s := s.hwSet F.CONV_EVENTS_EXT_FAULT
  ({ s with conv := { s.conv with refPending := none, refNow := none } } : State).makeRecord 5 1 []

/-- EXT_FAULT: VREF_EXT out of range for 1 us while EXTERNAL is in effect (R126). -/
def execExtFault (s : State) : Result :=
  .next (if s.operational && s.getF F.CONV_REF_STATUS_SEL_IN_EFFECT == 1 then s.extFall else s)

end Sys2Proof.Machine
end

