-- ==== Sys2Proof/Machine/Seg.lean ====
section
/-! DEFINITION. The closing of segments, and the lifecycle of records up to their hand-over
(spec/09_segments_and_placement.md R229 to R236, spec/08_decimation_lanes.md R217). -/

namespace Sys2Proof.Machine

/-- The bank and slice that take the sample of a channel with an absolute index (R112). -/
def State.sliceOf (s : State) (chan a : Nat) : Nat × Nat :=
  let n := a % s.samplesPerClock
  match s.getF F.CONV_MODE_BANKS_PER_CH with
  | 2 => (chan + n % 2, n / 2 % 64)
  | 4 => (n % 4, n / 4 % 64)
  | _ => (chan, n % 64)

/-- The coefficients that correct a sample (R116, R119). -/
def State.coefOf (s : State) (chan a : Nat) : Coef :=
  let (b, k) := s.sliceOf chan a
  s.coefAtWord (a / s.samplesPerClock) b k

/-- The corrected samples of a channel from its slice results, the first with absolute index `first` (R116 to R118): five
results before and four behind are neighbours only. -/
def State.correctRun (s : State) (chan first : Nat) (raw : List Int) : List LaneSample :=
  let cs := correctAll (fun i => s.coefOf chan (first + i)) raw
  (List.zip (List.range cs.length) cs).map (fun q =>
    let a := first + 5 + q.1
    { idx := a, at' := a, newest := a, w := 4 * q.2.1, ovr := q.2.2, sat := false, skip := false, clamp := false })

/-- What a segment stores: its samples, the pre-trigger length stored, TRIG_FRAC, and whether the lane's output that the
context received begins after the first sample that the OPEN named (R97, R217, R230). None where the results given do not hold
all that the segment needs. `outs` are the lane's outputs from the results, `whole` whether they begin with the first the
context received. -/
def State.cutOut (s : State) (r : Record) (outs : List LaneSample) (whole : Bool) :
    Option (List LaneSample × Nat × Nat × Bool) :=
  let t := s.inSamples r.ts
  let before := outs.takeWhile (fun x => x.at' < t)
  match outs.drop before.length with
  | [] => none
  | trig :: _ =>
    let pre := min r.pre before.length
    if pre < r.pre ∧ !whole then none
    else
      let run := (outs.drop (before.length - pre)).take r.len
      let kept := match r.cut with
        | some c => run.takeWhile (fun x => s.clockOf x.at' < c)
        | none => run
      if kept.length = run.length ∧ run.length < r.len then none
      else
        let x := s.lane r.lane
        let gap := if freeRate x.eff x.kinds then spacing before outs trig else (uniformGrid x.eff x.kinds).1
        let frac := fracAt gap (trig.at' - t)
        let short := decide (pre < r.pre) || (before.isEmpty && decide (gap ≤ trig.at' - t))
        if short ∧ !whole then none else some (kept, pre, frac, short)

/-- The flags a closed segment's samples give its header (R237). -/
def State.spanFlags (s : State) (r : Record) (kept : List LaneSample) (short : Bool) : Nat :=
  let t0 := s.modelTime r.ts
  let lo : Int := match kept with
    | x :: _ => s.clockOf x.at' - s.tscOff * 2 ^ 32
    | [] => t0
  let hi : Int := match kept.getLast? with
    | some x => s.clockOf x.at' - s.tscOff * 2 ^ 32
    | none => t0
  r.flags ||| s.timeFlags lo hi ||| flagBit 4 (kept.any (·.ovr)) ||| flagBit 6 (kept.any (·.sat)) |||
    flagBit 8 (kept.any (·.skip)) ||| flagBit 9 (kept.any (·.clamp)) ||| flagBit 10 short |||
    flagBit 12 (decide (kept.length < r.len))

/-- A stored sample as a beam takes it (R254). -/
def State.sweepSample (s : State) (i : Nat) (x : LaneSample) : SweepSample :=
  let t := s.clockOf x.at' - s.tscOff * 2 ^ 32
  { i := i, w := x.w,
    axis := if s.axisStAt (t / 2 ^ 32) = 2 then none else some ((s.axisAtTime t : Rat) / 2 ^ 48) }

/-- The segment of record r closes with the samples it keeps (R195, R229, R230, R236). -/
def State.finishSegment (s : State) (r : Record) (kept : List LaneSample) (pre frac : Nat) (short : Bool) : State :=
  let x := s.lane r.lane
  let lost := r.spent && (r.host.gap.isSome || r.stream.gap.isSome)
  let data := if lost then [] else packSamples r.fmt (kept.map (·.w))
  let bytes := round64 data.length
  let r' : Record := { r with
    state := .closing, samples := kept.length, pretrig := pre, trigFrac := frac
    delay := delayFixed x.eff x.kinds, flags := s.spanFlags r kept short, bytes := bytes, data := data }
  let last : Int := match kept.getLast? with
    | some y => s.clockOf y.at'
    | none => (r.cut.getD 0)
  let k := s.keepOf r.ctx
  let s := s.mapRecs (fun q => q.ctx == r.ctx && q.cseq == r.cseq) (fun _ => r')
  let s := s.setKeep r.ctx { k with
    lastEnd := some last, ringPos := if k.ringPos = r.start + r.bytes then r.start + bytes else k.ringPos }
  let s := (s.placeChunks r.ctx r.start (r.start + bytes)).refreshResv r.ctx
  let s := s.offerRing ((s.ctxChannel r.ctx).getD 0) true data r.ctx r.start (r.start + bytes)
  let s := s.holdoffFrom r.ctx r.cseq last
  let out := match s.liveOf r.ctx with
    | some y => y.outRate
    | none => 0
  let qs := (List.zip (List.range kept.length) kept).map (fun q => s.sweepSample q.1 q.2)
  let s := s.accumulate r.ctx r.cseq pre frac out qs
  let s := if (s.keepOf r.ctx).expired && s.recHeld r' then s.gapRecord r' .freezeTimeout true true else s
  s.afterClose r.ctx

/-- SEGMENT_CLOSE: the last sample of context c's segment reaches the segment writer (R230). `raw` are the slice results of
its channel from absolute index `first` on, which the converters took. -/
def execSegmentClose (c : Fin 1024) (first : Nat) (raw : List (BitVec 10)) (s : State) : Result :=
  match s.openRec c with
  | none => .next s
  | some r =>
    let chan := (s.ctxChannel c).getD 0
    let x := s.lane r.lane
    let samples := s.correctRun chan first (raw.map (·.toInt))
    let outs := laneOutputs x samples
    let start := match x.eras.getLast? with
      | some e => e.start
      | none => 0
    match s.cutOut r outs (decide (first + 5 ≤ start)) with
    | none => .fault (.illFormed "SEGMENT_CLOSE")
    | some (kept, pre, frac, short) =>
      .next (s.finishSegment r kept pre frac short)

/-- The next record of a context to become READY (R229). -/
def State.nextReady (s : State) (c : Nat) : Option Record :=
  match (s.recsOf c).find? (fun r => r.state == .opened || r.state == .closing) with
  | some r => if r.state == .closing then some r else none
  | none => none

/-- RECORD_READY: every write of the context's next record is acknowledged (R229, R231); writes to a frozen pseudo-channel
are not (R247). `copied` tells that a copy of shared samples delayed it. -/
def execRecordReady (c : Fin 1024) (copied : Bool) (s : State) : Result :=
  .next (match s.nextReady c with
    | some r =>
      if s.recHeld r then s
      else
        let s := if copied && r.kind == .segment then s.hwSet F.SEG_EVENTS_COPY_WAIT else s
        let s := s.offerSlot ((s.ctxChannel r.ctx).getD 0) true (s.header r false) r
        s.mapRecs (fun q => q.ctx == r.ctx && q.cseq == r.cseq) (fun q => { q with state := .ready, readyIn := s.time.clk })
    | none => s)

/-- RECORD_HANDED: the placement engine hands the context's READY head, when it is the next (R233, R234). -/
def execRecordHanded (c : Fin 1024) (s : State) : Result :=
  .next (match s.readyHead c with
    | some r => if s.delivers && s.nextToHand c r then s.handRecord r else s
    | none => s)

/-- A write of SEG.CTX_CLEAR (R232). -/
def State.ctxClear (s : State) (v : Word) : State :=
  let c := fieldOf v 0 10
  if !v.getLsbD 31 then s
  else if s.isLive c || !(s.recsOf c).isEmpty then s.hwSet F.SEG_EVENTS_CLEAR_REFUSED
  else s.setKeep c { s.keepOf c with next := 0 }

/-- CTX_CLEAR (R232). -/
def execCtxClear (v : Word) (s : State) : Result :=
  .next (s.hostWrite Reg.SEG_CTX_CLEAR v (fun s => s.ctxClear v))

end Sys2Proof.Machine
end

