-- ==== Sys2Proof/Machine/Flt.lean ====
section
/-! DEFINITION. Fatal faults, the freeze timer and the fault registers (spec/17_faults_and_ordering.md R411 to R430). -/

namespace Sys2Proof.Machine

/-- The lowest GSEQ handed and not VISIBLE at a consumer; `next` when there is none (R419). -/
def State.firstUnseen (s : State) (toStream : Bool) (next : Nat) : Nat :=
  s.seg.recs.foldl (fun a r =>
    let d := if toStream then r.stream else r.host
    match d.gseq with
    | some g => if r.state == .handed && d.wanted && !d.visible then min a g else a
    | none => a) next

/-- The state that the engine left in the present clock, or is in (R29). -/
def State.leftNow (s : State) : Nat := if s.rankNow < 7 then s.getF F.DEV_STATE_PREV else s.cur.code

/-- The payload of a FATAL record (R419). -/
def State.fatalPayload (s : State) (cause detail : Nat) : List Byte :=
  let h := s.get64 Reg.SEG_GSEQ_HOST_LO
  let t := s.get64 Reg.SEG_GSEQ_STREAM_LO
  leBytes 1 cause ++ leBytes 1 s.leftNow ++ leBytes 2 detail ++ [0, 0, 0, 0] ++ leBytes 6 (s.firstUnseen false h) ++
    leBytes 6 h ++ leBytes 6 (s.firstUnseen true t) ++ leBytes 6 t

/-- FLT.FATAL and FLT.FATAL_TSC (R418). -/
def State.noteFatal (s : State) (cause detail : Nat) : State :=
  (((s.setBit F.FLT_FATAL_SEEN true).setF F.FLT_FATAL_CAUSE cause).setF F.FLT_FATAL_DETAIL detail).set64
    Reg.FLT_FATAL_TSC_LO s.tsc

/-- Whether the engine entered SAFE_TALK by a fatal fault in the present clock. -/
def State.fatalNow (s : State) : Bool :=
  s.cur == .safeTalk && s.time.setNow.contains (occKey F.FLT_CLASS_FATAL)

/-- A fatal fault (R35, R417, R418, R419), where the clock found the engine in RESET to ACQUIRING; of two in one clock FLT.FATAL records the lower code, and
a reset of the same clock leaves the state as it made it; a transition of lower rank gives way. -/
def State.fatal (s : State) (cause detail : Nat) : State :=
  if s.fatalNow then
    if cause < s.getF F.FLT_FATAL_CAUSE then (s.noteFatal cause detail).setF F.TEST_SAFE_CODE_DETAIL cause else s
  else
    match s.cur with
    | .off | .aonUp => s
    | _ =>
      if s.leftNow = EngState.safeTalk.code then s else
      let s := (s.noteFatal cause detail).hwSet F.FLT_CLASS_FATAL
      let s := s.makeRecord 9 1 (s.fatalPayload cause detail)
      if s.rankNow < 4 then s else s.enterSafeTalk 0x08 3 cause

/-- FATAL (R418). -/
def execFatal (cause : Fin 32) (detail : BitVec 16) (s : State) : Result :=
  .next (s.fatal cause.val detail.toNat)

/-- The reading of 105 degC, and of 115 degC, in 1/64 degC (R416). -/
def warnTemp : Int := 105 * 64
def hotTemp : Int := 115 * 64

/-- THERM_READING: the highest of the eight diodes, every 1 ms (R416). -/
def execThermReading (reading : BitVec 16) (diode : Fin 8) (s : State) : Result :=
  .next (
    if s.cur == .off then s
    else
      let s := s.setReg Reg.FLT_THERM (BitVec.ofNat 32 (reading.toNat * 65536 + diode.val))
      let s := if warnTemp ≤ reading.toInt then s.hwSet F.FLT_CLASS_TEMP_WARN else s
      let n := if hotTemp ≤ reading.toInt then s.board.hotReadings + 1 else 0
      let s : State := { s with board := { s.board with hotReadings := n } }
      if 3 ≤ n then s.fatal 1 diode.val else s)

/-- OVERVOLTAGE (R417): a rail above 110 % of nominal for 1 ms. -/
def execOvervoltage (rail : Rail) (s : State) : Result := .next (s.fatal 5 rail.step)

/-- CTRL_SRAM_UE (R417): the memory instance that failed. -/
def execCtrlSramUe (inst : BitVec 16) (s : State) : Result := .next (s.fatal 2 inst.toNat)

/-- FABRIC_CLOCK (R417): the fabric's bypass clock stops or strays. -/
def execFabricClock (s : State) : Result :=
  .next (if s.onBypass then s.fatal 3 0 else s)

/-- Makes gaps of the records of a list, in sequence order. -/
def State.gapAll (s : State) (l : List Record) (cause : GapCause) : State :=
  l.foldl (fun s r => s.gapRecord r cause true true) s

/-- FREEZE_TIMEOUT: context c's GAP_AFTER timer expires (R426, R427). -/
def execFreezeTimeout (c : Fin 1024) (s : State) : Result :=
  .next (
    let k := s.keepOf c
    if k.timer.isNone then s
    else
      let held := (s.recsOf c).filter (fun r => s.recHeld r && r.state != .opened)
      let s := (s.gapAll held .freezeTimeout).hwSet F.FLT_CLASS_FREEZE_TIMEOUT
      (s.setKeep c { s.keepOf c with timer := none, expired := true }).judgeHeld c)

/-- OCC_SEL (R420). -/
def execOccSel (v : Word) (s : State) : Result :=
  .next (s.hostWrite Reg.FLT_OCC_SEL v (fun s => s.storeReg Reg.FLT_OCC_SEL v))

end Sys2Proof.Machine
end

