-- ==== Sys2Proof/Machine/Deliver.lean ====
section
/-! DEFINITION. The bytes that a record delivers: its reshuffled data and its completion record
(spec/12_host_port_and_delivery.md R317 to R320, spec/13_stream_port.md R335). -/

namespace Sys2Proof.Machine

/-- The stored sample fields of a record's data. -/
def storedFields (fmt n : Nat) (bs : List Byte) : List Nat :=
  let v := leNat bs
  (List.range n).map (fun i => v / 2 ^ (fmtWidth fmt * i) % 2 ^ fmtWidth fmt)

/-- A plane: fields of w bits packed and padded to a multiple of 64 bytes (R320). -/
def plane (w : Nat) (fields : List Nat) : List Byte :=
  leBytes (round64 (ceilDiv (fields.length * w) 8)) (packBits w fields)

/-- The 16-bit word that UNPACK makes of a stored field (R320). -/
def unpackWord (fmt field : Nat) : Nat :=
  let w := fmtWidth fmt
  let align := fmt / 4 % 2
  let coding := fmt / 8 % 2
  if w = 16 then field
  else
    let twos := if coding = 1 then (field + 2 ^ (w - 1)) % 2 ^ w else field
    let big : Int := ofBitsInt w twos * 2 ^ (16 - w)
    let b := toBitsInt 16 (if align = 1 then big / 4 else big)
    if coding = 1 then (b + 2 ^ 15) % 2 ^ 16 else b

/-- Every n-th field of a list, from the j-th on. -/
def strided (l : List Nat) (j n : Nat) : List Nat :=
  ((List.zip (List.range l.length) l).filter (fun q => q.1 % n == j)).map (·.2)

/-- The data of a SEGMENT record as a queue's reshuffle mode writes it (R320). -/
def reshuffle (mode streams fmt : Nat) (data : List Byte) (samples : Nat) : List Byte :=
  let f := storedFields fmt samples data
  match mode with
  | 1 => (List.range streams).flatMap (fun j => plane (fmtWidth fmt) (strided f j streams))
  | 2 => plane 16 (f.map (unpackWord fmt))
  | 3 => plane 16 ((strided f 0 2).map (unpackWord fmt)) ++ plane 16 ((strided f 1 2).map (unpackWord fmt))
  | 4 => (List.range (fmtWidth fmt)).flatMap (fun b => plane 1 (f.map (fun v => v / 2 ^ (fmtWidth fmt - 1 - b) % 2)))
  | _ => data

/-- The KIND of a record at a consumer: 1 SEGMENT, 2 GAP, 3 MARKER (R236, R318). -/
def Record.kindAt (r : Record) (d : Delivery) : Nat :=
  if r.kind == .gap || d.gap.isSome then 2 else if r.kind == .marker then 3 else 1

/-- The reshuffle that a queue applies to a record (R320). -/
def State.reshuffleOf (s : State) (q : Nat) (r : Record) : Nat :=
  let m := s.getF (F.DMA_DQ_CFG_RESHUFFLE q)
  if r.kindAt r.host = 1 ∧ m ≤ 4 then m else 0

/-- The bytes of a record in its host buffers (R317). -/
def State.hostBytes (s : State) (q : Nat) (r : Record) : List Byte :=
  let streams := max 1 (s.getF (F.DMA_DQ_CFG_STREAMS q)) + 1
  s.header r false ++ reshuffle (s.reshuffleOf q r) streams r.fmt (r.dataFor false) r.samples

/-- What a completion record says besides the record itself (R318). -/
structure CompletionInfo where
  phase : Bool
  reshuffle : Nat
  bufs : Nat
  bytes : Nat
  freeIndex : Nat
  tag : Nat
deriving DecidableEq, Repr

/-- A completion record: 64 bytes (R318); the stream's is the same with its own GSEQ (R335). -/
def State.completionBytes (s : State) (r : Record) (toStream : Bool) (x : CompletionInfo) : List Byte :=
  let d := if toStream then r.stream else r.host
  let hdr := s.header r toStream
  let cause := match d.gap with
    | some g => g.code
    | none => r.cause
  let kind := r.kindAt d
  let ph := b2n x.phase
  let flags := r.flags + (if toStream && r.stream.spilled then 2 ^ 13 else 0) + (if d.again then 2 ^ 11 else 0)
  let ctl := ph * 2 ^ 31 + b2n d.again * 2 ^ 30 + r.ctx * 2 ^ 20 + cause * 2 ^ 8 + x.reshuffle * 2 ^ 4 + kind
  let samples := if d.gap.isSome then 0 else r.samples
  let aux := if kind = 3 then r.trigFrac % 4096 else samples
  leBytes 4 ctl ++ leBytes 4 (x.bufs % 2 ^ 24) ++ leBytes 8 (d.gseq.getD 0) ++ leBytes 6 r.cseq ++
    sliceBytes hdr (hdr.length - 2) 2 ++ leBytes 8 x.bytes ++ leBytes 8 (r.ts / 2 ^ 32) ++ leBytes 4 r.ts ++
    leBytes 4 flags ++ leBytes 4 x.freeIndex ++ leBytes 4 x.tag ++ leBytes 4 aux ++ [0, 0, 0, BitVec.ofNat 8 (ph * 128)]

/-- The record that a consumer holds under a GSEQ. -/
def State.recAt (s : State) (toStream : Bool) (g : Nat) : Option Record :=
  s.seg.recs.find? (fun r => r.state == .handed && (if toStream then r.stream.gseq else r.host.gseq) == some g)

/-- The record with a context and CSEQ. -/
def State.recKey (s : State) (key : Nat × Nat) : Option Record :=
  s.seg.recs.find? (fun r => r.ctx == key.1 && r.cseq == key.2)

/-- A record becomes VISIBLE at a consumer (R229): in REPLAYED, one sent again after a takeover (R402). -/
def State.makeVisible (s : State) (r : Record) (toStream : Bool) : State :=
  let s := s.mapRecs (fun q => q.ctx == r.ctx && q.cseq == r.cseq) (fun q =>
    if toStream then { q with stream := { q.stream with visible := true } }
    else { q with host := { q.host with visible := true } })
  let s := if (if toStream then r.stream.again else r.host.again) then s.rclAdd Reg.PAIR_REPLAYED 1 else s
  (s.judgeHeld r.ctx).retire r.ctx

/-- A consumer acknowledges a record (R235); a protected ACTIVE forwards it in an ACK cell (R398). -/
def State.ackRecord (s : State) (r : Record) (toStream : Bool) : State :=
  let s := s.mapRecs (fun q => q.ctx == r.ctx && q.cseq == r.cseq) (fun q =>
    if toStream then { q with stream := { q.stream with acked := true } }
    else { q with host := { q.host with acked := true } })
  let s := if s.isProtectedActive then s.sendCell (.ack (if toStream then .stream else .host) r.ctx r.cseq r.cseq) else s
  s.retire r.ctx

end Sys2Proof.Machine
end

