-- ==== Sys2Proof/Machine/Dma.lean ====
section
/-! DEFINITION. DMA channels, delivery queues, completion records, bus errors and halts
(spec/12_host_port_and_delivery.md R304 to R331). -/

namespace Sys2Proof.Machine

def State.queue (s : State) (q : Nat) : QueueSt := sparseGet (fun _ => QueueSt.init) s.dma.queues q

def State.setQueue (s : State) (q : Nat) (x : QueueSt) : State :=
  { s with dma := { s.dma with queues := sparseSet (fun _ => QueueSt.init) s.dma.queues q x } }

def State.chan (s : State) (n : Nat) : ChanSt := sparseGet (fun _ => ChanSt.init) s.dma.chans n

def State.setChan (s : State) (n : Nat) (x : ChanSt) : State :=
  { s with dma := { s.dma with chans := sparseSet (fun _ => ChanSt.init) s.dma.chans n x } }

/-- Sets an EVENTS bit of a queue, and DMA.EVENTS that reports it (R331). -/
def State.queueEvent (s : State) (f : Fld) : State := (s.hwSet f).hwSet F.DMA_EVENTS_QUEUE

/-- The kind of a channel: 0 OFF, 1 DELIVERY, 2 PACED, 3 PREFETCH (R307). -/
def State.chanKind (s : State) (n : Nat) : Nat := if n < 4 then 3 else s.getF (F.DMA_CH_CFG_KIND n)

/-- HALTED or STOPPED, as latched in STATUS.STATE. -/
def State.chanHeld (s : State) (n : Nat) : Bool := 3 ≤ s.getF (F.DMA_CH_STATUS_STATE n)

/-- The enabled queues that name a channel. -/
def State.chanQueues (s : State) (n : Nat) : List Nat :=
  (List.range 64).filter (fun q => s.queueEnabled q && s.getF (F.DMA_DQ_CFG_CHAN q) == n)

/-- A channel's state: 0 OFF, 1 IDLE, 2 ACTIVE, 3 HALTED, 4 STOPPED (R331). A PREFETCH channel is OFF while no queue that it serves
is enabled, as at reset (log 149). -/
def State.chanState (s : State) (n : Nat) : Nat :=
  if s.chanHeld n then s.getF (F.DMA_CH_STATUS_STATE n)
  else
    match s.chanKind n with
    | 0 => 0
    | 1 => if (s.chanQueues n).any (fun q => (s.queue q).cur.isSome) then 2 else 1
    | 2 => if (s.chan n).paced.any (·.started) then 2 else 1
    | _ => if (List.range 64).any (fun q => q % 4 == n && s.queueEnabled q) then 1 else 0

/-- The validity of a queue's geometry (R312, R331). -/
def State.geometryOk (s : State) (q : Nat) (v : Word) : Bool :=
  let small (n : Nat) : Bool := decide (1 ≤ n ∧ n ≤ 5)
  !small (fieldOf v 8 4) && !small (fieldOf v 12 4) && fieldOf (s.reg (Reg.DMA_DQ_FREE_BASE_LO q)) 0 12 == 0 &&
    fieldOf (s.reg (Reg.DMA_DQ_COMP_BASE_LO q)) 0 12 == 0 && s.chanKind (fieldOf v 24 5) == 1

/-- Whether a live context names a queue in STORE.DQ, or a context naming it retains a record (R313). -/
def State.queueNamed (s : State) (q : Nat) : Bool :=
  let names (c : Nat) : Bool := s.getF (F.CTX_STORE_DQ c) == q
  s.lives.any (fun p => names p.1) || s.seg.recs.any (fun r => names r.ctx)

/-- A queue starts: indices zero, no descriptors, pass 0 (R313). -/
def State.startQueue (s : State) (q : Nat) : State :=
  (s.setRegs [(Reg.DMA_DQ_FREE_PROD q, 0), (Reg.DMA_DQ_FREE_CONS q, 0), (Reg.DMA_DQ_COMP_PROD q, 0),
    (Reg.DMA_DQ_COMP_CONS q, 0)]).setQueue q QueueSt.init

/-- A write of DQq.CFG (R312, R313). While EN is 1 a write that changes another field is refused; a refused write, also one of an
enable, changes nothing. -/
def State.queueCfg (s : State) (q : Nat) (v : Word) : State :=
  let v := v &&& maskAt (Reg.DMA_DQ_CFG q)
  let old := s.reg (Reg.DMA_DQ_CFG q)
  let refuse := s.queueEvent (F.DMA_DQ_EVENTS_CFG_REFUSED q)
  if old.getLsbD 31 then
    if (v ^^^ old) &&& 0x7FFFFFFF ≠ 0 then refuse
    else if v.getLsbD 31 then s
    else if s.queueNamed q then refuse
    else s.setReg (Reg.DMA_DQ_CFG q) v
  else if !v.getLsbD 31 then s.setReg (Reg.DMA_DQ_CFG q) v
  else if s.geometryOk q v then (s.setReg (Reg.DMA_DQ_CFG q) v).startQueue q
  else refuse

/-- DQ_ENABLE: a write of DQq.CFG with EN 1 (R313). -/
def execDqEnable (q : Fin 64) (v : Word) (s : State) : Result :=
  .next (s.hostWrite (Reg.DMA_DQ_CFG q) (v ||| 0x80000000) (fun s => s.queueCfg q (v ||| 0x80000000)))

/-- DQ_DISABLE: a write of DQq.CFG with EN 0 (R313). -/
def execDqDisable (q : Fin 64) (v : Word) (s : State) : Result :=
  .next (s.hostWrite (Reg.DMA_DQ_CFG q) (v &&& 0x7FFFFFFF) (fun s => s.queueCfg q (v &&& 0x7FFFFFFF)))

/-- A write of DQq.FREE_PROD (R315); a prefetch of this clock uses the old value (R330). -/
def State.freeProd (s : State) (q : Nat) (v : Word) : State :=
  if s.freeEntries q < (v - s.reg (Reg.DMA_DQ_FREE_CONS q)).toNat then s.queueEvent (F.DMA_DQ_EVENTS_FREE_OVERRUN q)
  else
    let x := s.queue q
    let old := match x.prodOld with
      | some (n, o) => if n = s.time.clk then o else (s.reg (Reg.DMA_DQ_FREE_PROD q)).toNat
      | none => (s.reg (Reg.DMA_DQ_FREE_PROD q)).toNat
    (s.setReg (Reg.DMA_DQ_FREE_PROD q) v).setQueue q { x with prodOld := some (s.time.clk, old) }

/-- FREE_PROD (R315). -/
def execFreeProd (q : Fin 64) (v : Word) (s : State) : Result :=
  .next (s.hostWrite (Reg.DMA_DQ_FREE_PROD q) v (fun s => s.freeProd q v))

/-- Acknowledges the first n records of a queue that await it (R321). -/
def State.ackFirst (q : Nat) : Nat → State → State
  | 0, s => s
  | n + 1, s =>
    let x := s.queue q
    match x.unacked with
    | [] => s
    | k :: t =>
      let s := s.setQueue q { x with unacked := t }
      State.ackFirst q n (match s.recKey k with
        | some r => s.ackRecord r false
        | none => s)

/-- A write of DQq.COMP_CONS (R321); the test for a full ring sees it from the next clock (R330). -/
def State.compCons (s : State) (q : Nat) (v : Word) : State :=
  let cons := s.reg (Reg.DMA_DQ_COMP_CONS q)
  if (s.reg (Reg.DMA_DQ_COMP_PROD q) - cons).toNat < (v - cons).toNat then
    s.queueEvent (F.DMA_DQ_EVENTS_CONS_OVERRUN q)
  else
    let x := s.queue q
    let old := match x.consOld with
      | some (n, o) => if n = s.time.clk then o else cons.toNat
      | none => cons.toNat
    let s := (s.setReg (Reg.DMA_DQ_COMP_CONS q) v).setQueue q { x with consOld := some (s.time.clk, old) }
    State.ackFirst q (v - cons).toNat s

/-- COMP_CONS (R321). -/
def execCompCons (q : Fin 64) (v : Word) (s : State) : Result :=
  .next (s.hostWrite (Reg.DMA_DQ_COMP_CONS q) v (fun s => s.compCons q v))

/-- Entries of a completion ring (R312). -/
def State.compEntries (s : State) (q : Nat) : Nat := 2 ^ ringLog (s.getF (F.DMA_DQ_CFG_COMP_LOG2 q))

/-- Whether a completion ring is full, as DQq.STATUS shows it (R322). -/
def State.compFull (s : State) (q : Nat) : Bool :=
  decide (s.compEntries q ≤ (s.reg (Reg.DMA_DQ_COMP_PROD q) - s.reg (Reg.DMA_DQ_COMP_CONS q)).toNat)

/-- Whether the engine may write a completion record: the test uses COMP_CONS before a write of this clock (R322, R330). -/
def State.compRoom (s : State) (q : Nat) : Bool :=
  let cons := match (s.queue q).consOld with
    | some (n, o) => if n = s.time.clk then BitVec.ofNat 32 o else s.reg (Reg.DMA_DQ_COMP_CONS q)
    | none => s.reg (Reg.DMA_DQ_COMP_CONS q)
  decide ((s.reg (Reg.DMA_DQ_COMP_PROD q) - cons).toNat < s.compEntries q)

/-- The PHASE of the next completion record: 1 in even passes (R318). -/
def State.compPhase (s : State) (q : Nat) : Bool :=
  (s.reg (Reg.DMA_DQ_COMP_PROD q)).toNat / s.compEntries q % 2 == 0

/-- The bit of AER's uncorrectable error status that a requester sets at a failing request: Completion Timeout 14, Poisoned TLP 12,
Malformed TLP 18 (R304, log 148). -/
def aerBit (cause : Nat) : Word :=
  match cause with
  | 3 => 0x00004000 | 4 => 0x00001000 | 5 => 0x00040000 | _ => 0

/-- Latches a failing request in a channel (R326), and in AER (R304). -/
def State.latchBusError (s : State) (ch : Nat) (addr : BitVec 64) (write : Bool) (cause : Nat) : State :=
  let s : State := { s with board := { s.board with aer := s.board.aer ||| aerBit cause } }
  let s := s.setRegs [(Reg.DMA_CH_ERR_ADDR_LO ch, addr.truncate 32), (Reg.DMA_CH_ERR_ADDR_HI ch, (addr >>> 32).truncate 32)]
  (s.setBit (F.DMA_CH_STATUS_DIR ch) write).setF (F.DMA_CH_STATUS_CAUSE ch) cause

/-- A bus error on a PREFETCH channel stops all 32 channels (R327); a second one is latched in its channel. -/
def State.stopAll (s : State) (ch : Nat) (addr : BitVec 64) (write : Bool) (cause : Nat) : State :=
  let s := s.latchBusError ch addr write cause
  if s.bit F.DMA_STATUS_ALL_STOP then s
  else
    let s := (List.range 32).foldl (fun s n => s.setF (F.DMA_CH_STATUS_STATE n) 4) s
    let s := (s.setBit F.DMA_STATUS_ALL_STOP true).setF F.DMA_STATUS_STOP_CHANNEL ch
    (s.hwSet F.DMA_EVENTS_ALL_STOP).hwSet F.FLT_CLASS_DMA_ALL_STOP

/-- A bus error on any channel (R326, R327): an ordinary channel halts; in an all-stop its error is latched (R330). -/
def State.busError (s : State) (ch : Nat) (addr : BitVec 64) (write : Bool) (cause : Nat) : State :=
  if ch < 4 then s.stopAll ch addr write cause
  else
    match s.chanState ch with
    | 0 | 3 => s
    | 4 => s.latchBusError ch addr write cause
    | _ =>
      let s := (s.latchBusError ch addr write cause).setF (F.DMA_CH_STATUS_STATE ch) 3
      (s.hwSet F.DMA_EVENTS_HALT).hwSet F.FLT_CLASS_DMA_HALT

/-- BUS_ERROR (R325, R326). -/
def execBusError (ch : Fin 32) (addr : BitVec 64) (write : Bool) (cause : Fin 16) (s : State) : Result :=
  .next (s.busError ch addr write cause)

/-- ALL_STOP (R327). -/
def execAllStop (ch : Fin 4) (addr : BitVec 64) (cause : Fin 16) (s : State) : Result :=
  .next (s.stopAll ch addr false cause)

/-- FREE_PROD as a prefetch of this clock sees it (R330). -/
def State.prodSeen (s : State) (q : Nat) : Word :=
  match (s.queue q).prodOld with
  | some (n, o) => if n = s.time.clk then BitVec.ofNat 32 o else s.reg (Reg.DMA_DQ_FREE_PROD q)
  | none => s.reg (Reg.DMA_DQ_FREE_PROD q)

/-- Descriptors a prefetch may read now: up to 16 ahead of FREE_CONS (R316). -/
def State.prefetchRoom (s : State) (q : Nat) : Nat :=
  let ahead := (s.queue q).ahead.length
  min (16 - ahead) ((s.prodSeen q - s.reg (Reg.DMA_DQ_FREE_CONS q)).toNat - ahead)

/-- The host address of a queue's free-ring entry. -/
def State.freeEntryAddr (s : State) (q i : Nat) : BitVec 64 :=
  BitVec.ofNat 64 (s.get64 (Reg.DMA_DQ_FREE_BASE_LO q) + 16 * (i % s.freeEntries q))

/-- Takes up descriptors in ring order until one is bad (R315). -/
def State.takeDescs (s : State) (q : Nat) : List (BitVec 64 × Word) → State
  | [] => s
  | (a, t) :: l =>
    let x := s.queue q
    if a &&& 0x3F ≠ 0 then
      s.stopAll (q % 4) (s.freeEntryAddr q ((s.reg (Reg.DMA_DQ_FREE_CONS q)).toNat + x.ahead.length)) false 6
    else (s.setQueue q { x with ahead := x.ahead ++ [(a.toNat, t)] }).takeDescs q l

/-- The record that a queue moves: the one in transfer, else the earliest HANDED one (R319). -/
def State.queueRecord (s : State) (q : Nat) : Option Record :=
  match (s.queue q).cur with
  | some k => s.recKey k
  | none =>
    s.seg.recs.foldl (fun a r =>
      if r.state == .handed && r.host.wanted && !r.host.visible && r.dq == q then
        match a with
        | some b => if r.host.gseq.getD 0 < b.host.gseq.getD 0 then some r else a
        | none => some r
      else a) none

/-- The queue with its transfer as it stands for record r: begun anew for another record, and from the first buffer again
once the record became a gap (R330, R426). -/
def QueueSt.facing (x : QueueSt) (r : Record) : QueueSt :=
  if x.cur != some (r.ctx, r.cseq) then
    { x with cur := some (r.ctx, r.cseq), taken := [], sent := 0, asGap := r.host.gap.isSome, flush := none }
  else if r.host.gap.isSome && !x.asGap then
    { x with taken := x.taken.take 1, back := x.taken.drop 1 ++ x.back, sent := 0, asGap := true, flush := none }
  else x

/-- The buffer that takes the next byte: one already taken, else the next in ring order (R316). -/
def State.nextBuffer (s : State) (q : Nat) (x : QueueSt) : Option Taken :=
  match x.taken[x.sent / s.bufBytes q]? with
  | some b => some b
  | none =>
    match x.back, x.ahead with
    | b :: _, _ => some b
    | [], (a, t) :: _ => some { index := (s.reg (Reg.DMA_DQ_FREE_CONS q)).toNat, addr := a, tag := t }
    | [], [] => none

/-- The length of the next burst (R308): BURST, ended by the record, the buffer or a 4 KiB boundary of host address. -/
def State.burstLen (s : State) (ch total sent len addr : Nat) : Nat :=
  min (min (2 ^ min 6 (s.getF (F.DMA_CH_CFG_BURST ch)) * 64) (total - sent)) (min len (4096 - addr % 4096))

/-- Whether a burst of a record's bytes would read a frozen pseudo-channel (R424): the chunks it covers when the data is
written as stored, else any chunk of the record. -/
def State.burstFrozen (s : State) (q : Nat) (r : Record) (sent n : Nat) : Bool :=
  if r.host.gap.isSome then false
  else if s.reshuffleOf q r != 0 || r.job.isSome || r.replay then s.recHeld r
  else
    let h := s.headerBytes
    let lo := r.start + (sent - h)
    let hi := r.start + (sent + n - h)
    let chunks := if hi ≤ lo then [] else (List.range ((hi - 1) / 2048 - lo / 2048 + 1)).map (· + lo / 2048)
    chunks.any (fun i => match sparseGet (fun _ => none) (s.keepOf r.ctx).chunks i with
      | some p => s.pcFrozen p
      | none => false) ||
      (decide (sent < h) && (match r.slot with
        | some i => s.pcFrozen (i % 64)
        | none => false))

/-- The next burst of a queue on its channel, as its record, buffer and length. -/
def State.nextBurst (s : State) (ch q : Nat) : Option (Record × Taken × Nat) :=
  match s.queueRecord q with
  | none => none
  | some r =>
    let x := (s.queue q).facing r
    let total := (s.hostBytes q r).length
    if total ≤ x.sent then none
    else
      match s.nextBuffer q x with
      | none => none
      | some b =>
        let off := x.sent % s.bufBytes q
        let n := s.burstLen ch total x.sent (s.bufBytes q - off) (b.addr + off)
        if s.burstFrozen q r x.sent n then none else some (r, b, n)

/-- Whether a queue has data to move and no buffer to take (R316). -/
def State.wantsBuffer (s : State) (q : Nat) : Bool :=
  match s.queueRecord q with
  | none => false
  | some r =>
    let x := (s.queue q).facing r
    decide (x.sent < (s.hostBytes q r).length) && (s.nextBuffer q x).isNone

/-- STARVED, and the count of the times a queue began to wait (R316). -/
def State.judgeStarved (s : State) (q : Nat) : State :=
  let want := s.delivers && s.queueEnabled q && s.wantsBuffer q
  let x := s.queue q
  let s := if want && !x.starved then s.rclAdd (Reg.DMA_DQ_STARVED_COUNT q) 1 else s
  s.setQueue q { x with starved := want }

/-- Whether a channel's limiter lets it start (R310). -/
def State.limiterOpen (s : State) (ch : Nat) : Bool := decide ((s.chan ch).notBefore ≤ (s.time.clk : Rat))

/-- The raw rate of the negotiated link, in bytes per second (R306). -/
def State.linkRate (s : State) : Rat :=
  let gt : Rat := match s.getF F.DMA_LINK_RATE with
    | 1 => 5 / 2
    | 2 => 5
    | 3 => 8
    | 4 => 16
    | 5 => 32
    | _ => 0
  s.getF F.DMA_LINK_WIDTH * gt * 1000000000 * 128 / 130 / 8

/-- The limiter after a burst of b bytes (R310). -/
def State.limit (s : State) (ch b : Nat) : State :=
  let rate := s.getF (F.DMA_CH_CFG_RATE ch)
  if rate = 0 ∨ s.linkRate = 0 then s
  else
    let t : Rat := (b : Rat) * 256 / (rate * s.linkRate) * s.clockRate
    s.setChan ch { s.chan ch with notBefore := s.time.clk + t }

/-- The queue that a DELIVERY channel serves next: the earliest GSEQ among those that can move (R319). -/
def State.readyQueue (s : State) (ch : Nat) : Option Nat :=
  (s.chanQueues ch).foldl (fun (a : Option (Nat × Nat)) q =>
    match s.nextBurst ch q with
    | none => a
    | some (r, _, _) =>
      let g := r.host.gseq.getD 0
      match a with
      | some (h, _) => if g < h then some (g, q) else a
      | none => some (g, q)) none |>.map (·.2)

/-- The queues whose PREFETCH channel may read descriptors now (R307, R316). -/
def State.prefetchQueues (s : State) (ch : Nat) : List Nat :=
  (List.range 64).filter (fun q => q % 4 == ch && s.queueEnabled q && decide (0 < s.prefetchRoom q))

/-- Whether the requests of the next burst of a DELIVERY channel may be made: during a change of memory point they wait in the
pending queues of the shuttles, once each, until those are full (R292, R297). -/
def State.mayAsk (s : State) (ch : Nat) : Bool :=
  !s.bit F.MEM_STATUS_CHANGING || ((s.chan ch).asked.isNone &&
    (List.range 2).all (fun st => decide (requestCount ((s.shuttle st).queue 6) < 16)))

/-- Whether a channel is ready for a host-bound, or an engine-bound, burst (R309). -/
def State.chanReady (s : State) (toHost : Bool) (ch : Nat) : Bool :=
  !s.chanHeld ch && s.limiterOpen ch &&
    (if toHost then s.chanKind ch == 1 && s.delivers && (s.readyQueue ch).isSome && s.mayAsk ch
     else (s.chanKind ch == 2 && (!(s.chan ch).paced.isEmpty || (s.chan ch).gone.isSome)) ||
       (s.chanKind ch == 3 && !(s.prefetchQueues ch).isEmpty))

/-- The channel an arbiter takes: highest PRIO, rotating within it from one past its last winner (R309). -/
def State.arbPick (s : State) (toHost : Bool) : Option Nat :=
  let cand := (List.range 32).filter (s.chanReady toHost)
  let top := cand.foldl (fun a n => max a (s.getF (F.DMA_CH_CFG_PRIO n))) 0
  let ptr := sparseGet (fun _ => 0) (if toHost then s.dma.ptrHost else s.dma.ptrEngine) top
  (cand.filter (fun n => s.getF (F.DMA_CH_CFG_PRIO n) == top)).foldl (fun (a : Option Nat) n =>
    match a with
    | none => some n
    | some b => if (n + 32 - ptr) % 32 < (b + 32 - ptr) % 32 then some n else a) none

/-- A burst of a channel starts: the arbiter's pointer, BURSTS and the limiter. -/
def State.burstStarted (s : State) (toHost : Bool) (ch b : Nat) : State :=
  let prio := s.getF (F.DMA_CH_CFG_PRIO ch)
  let next := (ch + 1) % 32
  let s : State := { s with dma :=
    if toHost then { s.dma with ptrHost := sparseSet (fun _ => 0) s.dma.ptrHost prio next }
    else { s.dma with ptrEngine := sparseSet (fun _ => 0) s.dma.ptrEngine prio next } }
  (s.rclAdd (Reg.DMA_CH_BURSTS ch) 1).limit ch b

/-- Max Payload Size, in bytes (R304). -/
def State.maxPayload (s : State) : Nat := 128 * 2 ^ s.board.pcie.mps.val

/-- Max Read Request Size, in bytes (R304). -/
def State.maxReadRequest (s : State) : Nat := 128 * 2 ^ s.board.pcie.mrrs.val

/-- The parts of n bytes, of at most `most` bytes each, as offset and length. -/
def splitBy (most n : Nat) : List (Nat × Nat) :=
  (List.range (ceilDiv n most)).map (fun i => (most * i, min most (n - most * i)))

/-- Write TLPs of a burst toward the host (R308). -/
def State.sendWrites (s : State) (addr : Nat) (bytes : List Byte) (relaxed : Bool) : State :=
  (splitBy s.maxPayload bytes.length).foldl (fun s q => s.send (.hostWrite (addr + q.1) (sliceBytes bytes q.1 q.2) relaxed)) s

/-- Read requests of a burst from the host (R308). -/
def State.sendReads (s : State) (addr n : Nat) : State :=
  (splitBy s.maxReadRequest n).foldl (fun s q => s.send (.hostRead (addr + q.1) q.2)) s

/-- The shuttle's requests for a burst of a record's bytes: its slot when the burst holds header bytes, and the chunks (R296). -/
def State.offerBurst (s : State) (r : Record) (sent n : Nat) : State :=
  let h := s.headerBytes
  let s := if sent < h then s.offerSlot 6 false [] r else s
  if r.host.gap.isSome then s else s.offerRead 6 r (sent - h) (sent + n - h)

/-- The next burst of a DELIVERY channel toward host memory (R308, R316, R317). During a change of memory point only its requests
are made; the data follow when grants resume (R292). -/
def State.deliverBurst (s : State) (ch : Nat) : State :=
  match s.readyQueue ch with
  | none => s
  | some q =>
    match s.nextBurst ch q with
    | none => s
    | some (r, b, n) =>
      let x := (s.queue q).facing r
      if s.bit F.MEM_STATUS_CHANGING then
        (s.offerBurst r x.sent n).setChan ch { s.chan ch with asked := some (q, x.sent) }
      else
        let fresh := (x.taken[x.sent / s.bufBytes q]?).isNone
        let fromRing := fresh && x.back.isEmpty
        let addr := b.addr + x.sent % s.bufBytes q
        let last := x.sent + n == (s.hostBytes q r).length
        let ro := s.bit (F.DMA_DQ_CFG_RO q)
        let x' : QueueSt := { x with
          taken := if fresh then x.taken ++ [b] else x.taken
          back := if fresh then x.back.drop 1 else x.back
          ahead := if fromRing then x.ahead.drop 1 else x.ahead
          sent := x.sent + n
          flush := if ro && last then some addr else none }
        let bytes := sliceBytes (s.hostBytes q r) x.sent n
        let s := if fromRing then s.setReg (Reg.DMA_DQ_FREE_CONS q) (s.reg (Reg.DMA_DQ_FREE_CONS q) + 1) else s
        let s := if (s.chan ch).asked = some (q, x.sent) then s else s.offerBurst r x.sent n
        let s := (s.setQueue q x').setChan ch { s.chan ch with last := some (q, x.sent), asked := none }
        let s := s.sendWrites addr bytes (ro && s.board.pcie.relaxed)
        let s := if ro && last then s.send (.hostRead addr 0) else s
        (s.burstStarted true ch n).judgeStarved q

/-- The next burst of a PACED channel from host memory: a line of an overlay (R307, R355). `data` is what host memory
returns; none when it is shorter than the burst. -/
def State.pacedBurst (s : State) (ch : Nat) (data : List Byte) : Option State :=
  let x := s.chan ch
  match x.gone, x.paced with
  | some p, _ =>
    let n := s.burstLen ch p.left 0 p.left p.addr
    some ((((s.setChan ch { x with gone := none }).sendReads p.addr n).rclAdd (Reg.DMA_CH_WITHDRAWN ch) 1).burstStarted
      false ch n)
  | none, [] => some s
  | none, p :: t =>
    let n := s.burstLen ch p.left 0 p.left p.addr
    if data.length < n then none
    else
      let p' : PacedReq := { p with addr := p.addr + n, left := p.left - n, got := p.got ++ data.take n, started := true }
      let s := (s.setChan ch { x with
        paced := if p'.left = 0 then t else p' :: t, burstAt := some s.time.clk, lastPaced := some p }).sendReads p.addr n
      let s : State := if p'.left = 0 then
        { s with disp := { s.disp with lines := s.disp.lines ++ [(p.layer, p.line, p'.got)] } } else s
      some (s.burstStarted false ch n)

/-- Descriptors in the next burst of a PREFETCH channel for queue q (R308, R316): BURST, ended by the room, a 4 KiB boundary and
the end of the ring. -/
def State.prefetchCount (s : State) (ch q : Nat) : Nat :=
  let i := (s.reg (Reg.DMA_DQ_FREE_CONS q)).toNat + (s.queue q).ahead.length
  let room := min (s.prefetchRoom q) (s.freeEntries q - i % s.freeEntries q)
  s.burstLen ch (16 * room) 0 (16 * room) (s.freeEntryAddr q i).toNat / 16

/-- A burst of the PREFETCH channel of queue q: it reads `descs`, which host memory holds at the next entries (R308, R316). -/
def State.prefetchBurst (s : State) (q : Nat) (descs : List (BitVec 64 × Word)) : State :=
  let ch := q % 4
  let i := (s.reg (Reg.DMA_DQ_FREE_CONS q)).toNat + (s.queue q).ahead.length
  let l := descs.take (s.prefetchCount ch q)
  (((s.sendReads (s.freeEntryAddr q i).toNat (16 * l.length)).burstStarted false ch (16 * l.length)).takeDescs q l)

/-- Free-ring entries as host memory holds them: ADDR and TAG, 16 bytes each (R315). -/
def descsOf (data : List Byte) : List (BitVec 64 × Word) :=
  (List.range (data.length / 16)).map (fun i => (BitVec.ofNat 64 (fieldLe data (16 * i) 8), BitVec.ofNat 32 (fieldLe data (16 * i + 8) 4)))

/-- The queue that a PREFETCH channel serves next; no rule names it, so it is a free value of those it may serve (log 50). -/
def State.prefetchQueue (s : State) (ch : Nat) : Option Nat :=
  let l := s.prefetchQueues ch
  l[Config.pickOf l % max 1 l.length]?

/-- Whether bursts may start at all (R305, R328). -/
def State.burstsOpen (s : State) : Bool := s.operational && !s.board.d3hot && !s.bit F.DMA_STATUS_RESETTING

/-- DESCRIPTOR_PREFETCH: the arbiter of engine-bound bursts starts one of queue q's PREFETCH channel (R309, R315, R316). `descs` are
what host memory holds at the next entries (ADDR, TAG). -/
def execDescriptorPrefetch (q : Fin 64) (descs : List (BitVec 64 × Word)) (s : State) : Result :=
  .next (
    if s.burstsOpen && !descs.isEmpty && s.arbPick false == some (q.val % 4) && (s.prefetchQueues (q % 4)).contains q.val then
      s.prefetchBurst q descs
    else s)

/-- DMA_BURST_START (R308 to R310): the arbiter of host-bound, or of engine-bound, bursts starts the next one. `data` is what host
memory returns to an engine-bound one. -/
def execDmaBurstStart (toHost : Bool) (data : List Byte) (s : State) : Result :=
  if !s.burstsOpen then .next s
  else
    match s.arbPick toHost with
    | none => .next s
    | some ch =>
      if toHost then .next (s.deliverBurst ch)
      else if ch < 4 then
        match s.prefetchQueue ch with
        | some q => if data.length < 16 then .fault (.illFormed "DMA_BURST_START") else .next (s.prefetchBurst q (descsOf data))
        | none => .next s
      else
        match s.pacedBurst ch data with
        | some s => .next s
        | none => .fault (.illFormed "DMA_BURST_START")

/-- A queue raises its vector (R324). -/
def State.raiseQueue (s : State) (q : Nat) : State :=
  let s := s.setQueue q { s.queue q with coal := 0 }
  s.raiseVector (s.getF ⟨Reg.DMA_DQ_VECTOR q, 0, 6⟩)

/-- Counts a record that became visible, and raises the vector at COUNT (R324). -/
def State.coalesce (s : State) (q : Nat) : State :=
  let n := (s.queue q).coal + 1
  let s := s.setQueue q { s.queue q with coal := n }
  if max 1 (s.getF (F.DMA_DQ_COAL_COUNT q)) ≤ n then s.raiseQueue q else s

/-- Whether the completion record of a queue's record may be written (R319, R322, R327, R397). -/
def State.mayComplete (s : State) (q : Nat) (r : Record) : Bool :=
  s.delivers && s.queueEnabled q && !s.board.d3hot && !s.bit F.DMA_STATUS_ALL_STOP && !s.bit F.DMA_STATUS_RESETTING &&
    !s.chanHeld (s.getF (F.DMA_DQ_CFG_CHAN q)) && s.compRoom q && (!s.isProtectedActive || r.host.mirrored) &&
    (s.queue q).cur == some (r.ctx, r.cseq) && ((s.queue q).facing r).sent == (s.hostBytes q r).length &&
    !((s.queue q).facing r).taken.isEmpty

/-- The completion record is written, and the record is VISIBLE (R318, R319). -/
def State.complete (s : State) (q : Nat) (r : Record) : State :=
  let x := s.queue q
  let first := x.taken.headD { index := 0, addr := 0, tag := 0 }
  let info : CompletionInfo := { phase := s.compPhase q, reshuffle := s.reshuffleOf q r, bufs := x.taken.length,
                                 bytes := x.sent, freeIndex := first.index, tag := first.tag.toNat }
  let slot := (s.reg (Reg.DMA_DQ_COMP_PROD q)).toNat % s.compEntries q
  let s := s.send (.hostWrite (s.get64 (Reg.DMA_DQ_COMP_BASE_LO q) + 64 * slot) (s.completionBytes r false info) false)
  let s := s.setReg (Reg.DMA_DQ_COMP_PROD q) (s.reg (Reg.DMA_DQ_COMP_PROD q) + 1)
  let s := s.setQueue q { x with cur := none, taken := [], sent := 0, asGap := false, flush := none,
                                 unacked := x.unacked ++ [(r.ctx, r.cseq)] }
  (s.makeVisible r false).coalesce q

/-- COMPLETION_RECORD_WRITE: after the record's data and, with RO 1, the completion of the flush read, which `flushed` tells
(R319). -/
def execCompletionRecordWrite (q : Fin 64) (s : State) (flushed : Bool := false) : Result :=
  .next (match s.queueRecord q with
    | some r => if s.mayComplete q r && (flushed || (s.queue q).flush.isNone) then s.complete q r else s
    | none => s)

/-- COAL_TIME_EXPIRY (R324). -/
def execCoalTimeExpiry (q : Fin 64) (s : State) : Result :=
  .next (if (s.queue q).coal != 0 && s.getF (F.DMA_DQ_COAL_TIME q) != 0 then s.raiseQueue q else s)

/-- Bytes of an overlay pixel by FMT (R353). -/
def overlayBytes (fmt : Nat) : Nat :=
  match fmt with
  | 0 => 2 | 1 => 3 | _ => 4

/-- A DISP shadow in effect (R356). -/
def State.dispEff (s : State) (off : Nat) : Word := sparseGet resetValue s.disp.eff off

/-- PACED_REQUEST: overlay layer PERIPH asks channel n for line `line` of its buffer (R307, R355), once in a frame and at most eight
ahead of scan; `scan` tells the line of the layer that is being scanned. -/
def execPacedRequest (n : Fin 32) (line : Nat) (s : State) (scan : Option Nat := none) : Result :=
  .next (
    let l := s.getF (F.DMA_CH_CFG_PERIPH n)
    let x := s.chan n
    let w := fieldOf (s.dispEff (Reg.DISP_LAYER_SIZE l)) 0 13
    let h := fieldOf (s.dispEff (Reg.DISP_LAYER_SIZE l)) 16 13
    if s.operational && s.chanKind n == 2 && (l == 1 || l == 2) && s.bit (F.DISP_LAYER_STATUS_ENABLED l) &&
        decide (line < h) && decide (x.paced.length < 8) && !(x.paced.any (fun p => p.line == line)) &&
        !(s.disp.lines.any (fun p => p.1 == l && p.2.1 == line)) && scan.all (fun a => decide (line ≤ a + 8)) then
      let base := (s.dispEff (Reg.DISP_LAYER_ADDR_LO l)).toNat + 2 ^ 32 * (s.dispEff (Reg.DISP_LAYER_ADDR_HI l)).toNat
      let addr := base + line * fieldOf (s.dispEff (Reg.DISP_LAYER_STRIDE l)) 0 20
      let left := w * overlayBytes (fieldOf (s.dispEff (Reg.DISP_LAYER_CFG l)) 0 2)
      let req : PacedReq := { layer := l, line := line, addr := addr, left := left, got := [], started := false }
      (s.setChan n { x with paced := x.paced ++ [req] }).setBit (F.DISP_LAYER_STATUS_FETCH_IDLE l) false
    else s)

/-- PACED_WITHDRAW: the oldest request of channel n is withdrawn (R329, R330): dropped, or counted once its burst started, which
it still may in this clock. -/
def execPacedWithdraw (n : Fin 32) (s : State) : Result :=
  .next (
    let x := s.chan n
    match x.paced with
    | p :: t =>
      let s := s.setChan n { x with paced := t, gone := if p.started then x.gone else some p }
      if p.started then s.rclAdd (Reg.DMA_CH_WITHDRAWN n) 1 else s
    | [] => if x.burstAt = some s.time.clk then s.rclAdd (Reg.DMA_CH_WITHDRAWN n) 1 else s)

/-- A PACED request goes back before its last burst, or with `whole` to its first byte (R326). -/
def State.pacedBack (s : State) (ch : Nat) (whole : Bool) : State :=
  let x := s.chan ch
  match x.lastPaced with
  | none => s
  | some p =>
    let q : PacedReq := if whole then
      { p with addr := p.addr - p.got.length, left := p.left + p.got.length, got := [] } else p
    let rest := match x.paced with
      | h :: t => if h.layer = p.layer ∧ h.line = p.line then t else h :: t
      | [] => []
    let s := s.setChan ch { x with paced := q :: rest, lastPaced := none }
    { s with disp := { s.disp with lines := s.disp.lines.filter (fun l => !(l.1 == p.layer && l.2.1 == p.line)) } }

/-- A flush read that failed is sent again (R319, R325, R326). -/
def State.flushAgain (s : State) (ch : Nat) : State :=
  let failed := s.get64 (Reg.DMA_CH_ERR_ADDR_LO ch)
  (s.chanQueues ch).foldl (fun s q => if (s.queue q).flush = some failed then s.send (.hostRead failed 0) else s) s

/-- RESUME: the failing burst, or flush read, again (R326). -/
def State.resumeChan (s : State) (ch : Nat) : State :=
  if s.getF (F.DMA_CH_STATUS_STATE ch) != 3 then s
  else if s.chanKind ch == 2 then (s.setF (F.DMA_CH_STATUS_STATE ch) 0).pacedBack ch false
  else
    let write := s.bit (F.DMA_CH_STATUS_DIR ch)
    let s := s.setF (F.DMA_CH_STATUS_STATE ch) 0
    if !write then s.flushAgain ch
    else
      match (s.chan ch).last with
      | some (q, n) =>
        if (s.queue q).cur.isSome then s.setQueue q { s.queue q with sent := min n (s.queue q).sent, flush := none } else s
      | none => s

/-- RESTART: the current record again from its first byte, into the same buffers (R326). -/
def State.restartChan (s : State) (ch : Nat) : State :=
  if s.getF (F.DMA_CH_STATUS_STATE ch) != 3 then s
  else if s.chanKind ch == 2 then (s.setF (F.DMA_CH_STATUS_STATE ch) 0).pacedBack ch true
  else
    let s := s.setF (F.DMA_CH_STATUS_STATE ch) 0
    match (s.chan ch).last with
    | some (q, _) => if (s.queue q).cur.isSome then s.setQueue q { s.queue q with sent := 0, flush := none } else s
    | none => s

/-- A write of CHn.CTRL (R326): it acts at the end of the clock, behind an all-stop of that clock (R330). -/
def State.chanCtrl (s : State) (ch : Nat) (v : Word) : State :=
  { s with dma := { s.dma with ctrlReq := s.dma.ctrlReq ++ [(ch, v)] } }

/-- What a write of CHn.CTRL does (R326); RESTART prevails when both bits are set. -/
def State.chanCtrlActs (s : State) (ch : Nat) (v : Word) : State :=
  if v.getLsbD 1 then s.restartChan ch else if v.getLsbD 0 then s.resumeChan ch else s

/-- RESUME (R326). -/
def execResume (ch : Fin 32) (s : State) : Result :=
  .next (s.hostWrite (Reg.DMA_CH_CTRL ch) 1 (fun s => s.chanCtrl ch 1))

/-- RESTART (R326). -/
def execRestart (ch : Fin 32) (s : State) : Result :=
  .next (s.hostWrite (Reg.DMA_CH_CTRL ch) 2 (fun s => s.chanCtrl ch 2))

/-- A write of 1 to DMA.CTRL.RESET (R328): it is judged at the end of the clock, behind the bus errors of the clock (R330). -/
def State.dmaCtrl (s : State) (v : Word) : State :=
  if v.getLsbD 0 then { s with dma := { s.dma with resetReq := true } } else s

/-- The end of a fabric clock for DMA (R330): RESUME and RESTART of it act unless it stopped all channels, a RESET written in it is
judged (R328), and what was withdrawn in it is gone. -/
def State.dmaSettle (s : State) : State :=
  let req := s.dma.resetReq
  let ctrl := s.dma.ctrlReq
  let s : State := { s with dma := { s.dma with
    resetReq := false
    ctrlReq := []
    chans := (s.dma.chans.map (·.1)).foldl (fun m n =>
      sparseSet (fun _ => ChanSt.init) m n { sparseGet (fun _ => ChanSt.init) m n with gone := none }) s.dma.chans } }
  let s := if s.bit F.DMA_STATUS_ALL_STOP then s else ctrl.foldl (fun s c => s.chanCtrlActs c.1 c.2) s
  if !req then s
  else if s.bit F.DMA_STATUS_ALL_STOP || (List.range 32).all (fun n => s.chanState n != 2 && s.chanState n != 4) then
    s.setBit F.DMA_STATUS_RESETTING true
  else s.hwSet F.DMA_EVENTS_RESET_REFUSED

/-- DMA_RESET (R328). -/
def execDmaReset (s : State) : Result :=
  .next (s.hostWrite Reg.DMA_CTRL 1 (fun s => s.dmaCtrl 1))

/-- DMA_RESET_DONE: every issued request has ended (R328): descriptors are discarded, channels return to IDLE, and each
queue writes its record again from the first byte into the buffers it had taken. -/
def execDmaResetDone (s : State) : Result :=
  .next (
    if !s.bit F.DMA_STATUS_RESETTING then s
    else
      let s := (s.setBit F.DMA_STATUS_RESETTING false).setBit F.DMA_STATUS_ALL_STOP false
      let s := (List.range 32).foldl (fun s n => s.setF (F.DMA_CH_STATUS_STATE n) 0) s
      (List.range 64).foldl (fun s q => s.setQueue q { s.queue q with ahead := [], sent := 0, flush := none }) s)

/-- A write of DMA.CHn.CFG (R311). -/
def State.chanCfg (s : State) (ch : Nat) (v : Word) : State :=
  let v := v &&& maskAt (Reg.DMA_CH_CFG ch)
  if ch < 4 then s.setReg (Reg.DMA_CH_CFG ch) (v &&& 0x3FFFFFFC ||| 3)
  else
    let v := if fieldOf v 0 2 = 3 then v &&& 0xFFFFFFFC else v
    if (v ^^^ s.reg (Reg.DMA_CH_CFG ch)) &&& 0x3F000003 = 0 then s.setReg (Reg.DMA_CH_CFG ch) v
    else if s.chanState ch < 2 && (s.chanQueues ch).isEmpty && (s.chan ch).paced.isEmpty then s.setReg (Reg.DMA_CH_CFG ch) v
    else s.hwSet F.DMA_EVENTS_CH_CFG_REFUSED

/-- DMA_CH_CFG_WRITE (R311). -/
def execDmaChCfgWrite (ch : Fin 32) (v : Word) (s : State) : Result :=
  .next (s.hostWrite (Reg.DMA_CH_CFG ch) v (fun s => s.chanCfg ch v))

/-- D3HOT_ENTRY (R305). -/
def execD3hotEntry (s : State) : Result :=
  .next (if s.board.pcieUp then { s with board := { s.board with d3hot := true } } else s)

/-- D0_RETURN (R305): bursts may start again, and messages held back are sent. -/
def execD0Return (s : State) : Result :=
  .next (
    if s.board.d3hot then
      (List.range 64).foldl State.releaseVector { s with board := { s.board with d3hot := false } }
    else s)

/-- What DMA does in one fabric clock: STARVED is judged. -/
def State.dmaTick (s : State) : State :=
  ((List.range 64).filter s.queueEnabled).foldl State.judgeStarved s

end Sys2Proof.Machine
end

