-- ==== Sys2Proof/Machine/Disp.lean ====
section
/-! DEFINITION. Display composition and scan-out (spec/14_display_scanout.md R347 to R360). -/

namespace Sys2Proof.Machine

/-- The state codes of DISP.STATUS.STATE (R360). -/
def dispOff : Nat := 0
def dispWaitHpd : Nat := 1
def dispTraining : Nat := 2
def dispBlank : Nat := 3
def dispActive : Nat := 4
def dispTrainFail : Nat := 5

/-- Whether the compositor exists and runs (R29, R40). -/
def State.dispRuns (s : State) : Bool := s.operational && s.bit F.DEV_CAPS_DISPLAY

/-- A word of the timing in force: H_TIMING0, H_TIMING1, V_TIMING0, V_TIMING1, PIXCLK. -/
def State.timingWord (s : State) (i : Nat) : Word := s.disp.timing.getD i 0

/-- H_ACTIVE and V_ACTIVE in force. -/
def State.hActive (s : State) : Nat := fieldOf (s.timingWord 0) 0 13
def State.vActive (s : State) : Nat := fieldOf (s.timingWord 2) 0 13

/-- Whether frames are sent: the link is trained, a mode is in force and PPLL.0 runs at it (R348, R351). -/
def State.sendsFrames (s : State) : Bool :=
  s.dispRuns && (s.getF F.DISP_STATUS_STATE == dispBlank || s.getF F.DISP_STATUS_STATE == dispActive) &&
    s.hActive != 0 && !s.disp.relock

/-- Every RWS register of DISP (R360). -/
def dispShadows : List Nat :=
  Reg.DISP_BACKGROUND ::
    ((List.range 4).flatMap (fun n => [Reg.DISP_LAYER_CFG n, Reg.DISP_LAYER_POS n, Reg.DISP_LAYER_SIZE n,
      Reg.DISP_LAYER_ADDR_LO n, Reg.DISP_LAYER_ADDR_HI n, Reg.DISP_LAYER_STRIDE n, Reg.DISP_LAYER_KEY n]) ++
    (List.range 8).flatMap (fun k => [Reg.DISP_CRC_POS k, Reg.DISP_CRC_SIZE k, Reg.DISP_CRC_EXPECT k, Reg.DISP_CRC_CFG k]))

/-- A field of a shadow in effect. -/
def State.effF (s : State) (off lo w : Nat) : Nat := fieldOf (s.dispEff off) lo w

/-- The address in effect of an overlay. -/
def State.overlayAddr (s : State) (n : Nat) : Nat :=
  (s.dispEff (Reg.DISP_LAYER_ADDR_LO n)).toNat + 2 ^ 32 * (s.dispEff (Reg.DISP_LAYER_ADDR_HI n)).toNat

/-- A write of an RWS register of DISP: what a blank of the same clock still sees is kept (R356). -/
def State.dispShadow (s : State) (off : Nat) (v : Word) : State :=
  let old := s.reg off
  let s : State := if s.disp.wrote.any (fun p => p.1 == off) then s
    else { s with disp := { s.disp with wrote := (off, old) :: s.disp.wrote } }
  s.storeReg off v

/-- The levels of DISP_VDD_EN and DISP_BL_EN (R349): those of PANEL, low in SAFE_TALK (R369, R445) and while the display does not
run. -/
def State.panelPins (s : State) : Bool × Bool :=
  (s.dispRuns && s.bit F.DISP_PANEL_VDD_EN, s.dispRuns && s.bit F.DISP_PANEL_BL_EN)

/-! ### The link -/

/-- The requests of an overlay are withdrawn: each whose burst has started is counted (R329); the burst of the oldest may still
start in this clock (R330). -/
def State.withdrawLayer (s : State) (l : Nat) : State :=
  let chans := (List.range 32).filter (fun n => s.chanKind n == 2 && s.getF (F.DMA_CH_CFG_PERIPH n) == l)
  chans.foldl (fun s n =>
    let x := s.chan n
    let begun := (x.paced.filter (·.started)).length
    let gone := match x.paced with
      | p :: _ => if p.started then x.gone else some p
      | [] => x.gone
    (s.setChan n { x with paced := [], gone := gone }).rclAdd (Reg.DMA_CH_WITHDRAWN n) begun) s

/-- The output stops (R348, R357): requests are withdrawn, no buffer is in use, no layer is in effect. -/
def State.stopOutput (s : State) : State :=
  let s := (s.withdrawLayer 1).withdrawLayer 2
  let s := (List.range 4).foldl (fun s n => s.setBit (F.DISP_LAYER_STATUS_ENABLED n) false) s
  let s := (s.setBit (F.DISP_LAYER_STATUS_FETCH_IDLE 1) true).setBit (F.DISP_LAYER_STATUS_FETCH_IDLE 2) true
  { s with disp := { s.disp with displaced := [], lines := [], relock := false, timingBlack := false } }

/-- A write of DISP.CTRL (R348, R360). -/
def State.dispCtrl (s : State) (v : Word) : State :=
  let v := v &&& maskAt Reg.DISP_CTRL
  let old := s.reg Reg.DISP_CTRL
  if old.getLsbD 31 then
    let s := if (v ^^^ old) &&& 0x7FFFFFFF ≠ 0 then s.hwSet F.FLT_HOST_DISP_BUSY else s
    if v.getLsbD 31 then s
    else ((s.setBit F.DISP_CTRL_EN false).setF F.DISP_STATUS_STATE dispOff).stopOutput
  else if !v.getLsbD 31 then s.setReg Reg.DISP_CTRL v
  else if fieldOf v 16 2 = 3 ∨ 3 < fieldOf v 8 3 then s.setReg Reg.DISP_CTRL (v &&& 0x7FFFFFFF)
  else
    (s.setReg Reg.DISP_CTRL v).setF F.DISP_STATUS_STATE
      (if s.bit F.DISP_STATUS_HPD then dispTraining else dispWaitHpd)

/-- DISP_EN: a write of DISP.CTRL with EN 1 (R348). -/
def execDispEn (v : Word) (s : State) : Result :=
  .next (s.hostWrite Reg.DISP_CTRL (v ||| 0x80000000) (fun s => s.dispCtrl (v ||| 0x80000000)))

/-- DISP_STOP: a write of DISP.CTRL with EN 0 and its other fields as they are (R348). -/
def execDispStop (s : State) : Result :=
  let v := s.reg Reg.DISP_CTRL &&& 0x7FFFFFFF
  .next (s.hostWrite Reg.DISP_CTRL v (fun s => s.dispCtrl v))

/-- HPD_ASSERT (R348). -/
def execHpdAssert (s : State) : Result :=
  .next (
    if !s.dispRuns then s
    else
      let s := s.setBit F.DISP_STATUS_HPD true
      if s.getF F.DISP_STATUS_STATE = dispWaitHpd then s.setF F.DISP_STATUS_STATE dispTraining else s)

/-- HPD_LOST: HPD has been deasserted for 2 ms (R348). -/
def execHpdLost (s : State) : Result :=
  .next (
    if !s.dispRuns then s
    else
      let s := s.setBit F.DISP_STATUS_HPD false
      if s.getF F.DISP_STATUS_STATE = dispOff then s
      else ((s.hwSet F.DISP_EVENTS_HPD_LOST).setF F.DISP_STATUS_STATE dispWaitHpd).stopOutput)

/-- HPD_IRQ (R348). -/
def execHpdIrq (s : State) : Result :=
  .next (if s.dispRuns then s.hwSet F.DISP_EVENTS_HPD_IRQ else s)

/-! ### Timing -/

/-- Lanes and lane rate in kb/s by CTRL; none for values that refuse EN (R360). -/
def State.linkKbps (s : State) : Nat :=
  let lanes := match s.getF F.DISP_CTRL_LANES with
    | 0 => 1
    | 1 => 2
    | 2 => 4
    | _ => 0
  let rate := match s.getF F.DISP_CTRL_RATE with
    | 0 => 1620000
    | 1 => 2700000
    | 2 => 5400000
    | 3 => 8100000
    | _ => 0
  lanes * rate

/-- The timing set that GO names. -/
def State.timingSet (s : State) : List Word :=
  [s.reg Reg.DISP_H_TIMING0, s.reg Reg.DISP_H_TIMING1, s.reg Reg.DISP_V_TIMING0, s.reg Reg.DISP_V_TIMING1,
   s.reg Reg.DISP_PIXCLK]

/-- Whether a timing set keeps every rule of R350. -/
def State.timingOk (s : State) (t : List Word) : Bool :=
  let h0 := t.getD 0 0
  let h1 := t.getD 1 0
  let v0 := t.getD 2 0
  let v1 := t.getD 3 0
  let pix := fieldOf (t.getD 4 0) 0 20
  let bpc := if s.bit F.DISP_CTRL_BPC6 then 6 else 8
  decide (320 ≤ fieldOf h0 0 13 ∧ fieldOf h0 0 13 ≤ 3840 ∧ 200 ≤ fieldOf v0 0 13 ∧ fieldOf v0 0 13 ≤ 2160) &&
    decide (1 ≤ fieldOf h0 16 13 ∧ 1 ≤ fieldOf h1 16 13 ∧ 1 ≤ fieldOf h1 0 13) &&
    decide (1 ≤ fieldOf v0 16 13 ∧ 1 ≤ fieldOf v1 16 13 ∧ 1 ≤ fieldOf v1 0 13) &&
    decide (25000 ≤ pix ∧ pix ≤ 600000) && decide (pix * 3 * bpc * 100 ≤ 78 * s.linkKbps)

/-- The pending mode takes effect with no picture on the link: PPLL.0 relocks where its clock changes or it does not
run (R161, R169), and a black frame follows (R348, R351). -/
def State.takeTiming (s : State) (report : Bool) : State :=
  let old := s.timingWord 4
  let t := s.disp.pendTiming.getD s.disp.timing
  let lock := t.getD 4 0 != old || (s.pllState .ppll != pllLocked && s.pllState .ppll != pllHoldover)
  let s : State := { s with disp := { s.disp with
    timing := t, pendTiming := none, relock := lock, timingBlack := report && s.disp.pendTiming.isSome } }
  let s := s.setF F.DISP_STATUS_STATE dispBlank
  if lock then s.setPll .ppll pllSearch else s

/-- A write of 1 to TIMING_COMMIT.GO (R350). In BLANK with no mode in force there is no frame to wait for. -/
def State.timingCommit (s : State) : State :=
  if !s.timingOk s.timingSet then s.hwSet F.DISP_EVENTS_TIMING_REFUSED
  else
    let fresh := s.disp.pendTiming.isNone
    let s : State := { s with disp := { s.disp with
      pendTiming := some s.timingSet
      wrote := if fresh then (Reg.DISP_TIMING_COMMIT, 0) :: s.disp.wrote else s.disp.wrote } }
    if s.getF F.DISP_STATUS_STATE = dispBlank ∧ s.hActive = 0 then s.takeTiming true else s

/-- TIMING_COMMIT (R350). -/
def execTimingCommit (s : State) : Result :=
  .next (s.hostWrite Reg.DISP_TIMING_COMMIT 1 State.timingCommit)

/-- TRAINING_DONE (R348): a black frame at the committed timing, or TRAIN_FAIL. -/
def execTrainingDone (ok : Bool) (s : State) : Result :=
  .next (
    if !s.dispRuns || s.getF F.DISP_STATUS_STATE != dispTraining then s
    else if !ok then (s.setF F.DISP_STATUS_STATE dispTrainFail).hwSet F.DISP_EVENTS_TRAIN_FAIL
    else if s.disp.pendTiming.isNone && s.hActive == 0 then s.setF F.DISP_STATUS_STATE dispBlank
    else s.takeTiming true)

/-- PIXCLK_RELOCKED (R351); without the reference the relock waits (R169). -/
def execPixclkRelocked (s : State) : Result :=
  .next (
    if s.dispRuns && s.disp.relock && s.bit F.CLK_STATUS_REF_PRESENT then
      let s := s.setPll .ppll pllLocked
      { s with disp := { s.disp with relock := false } }
    else s)

/-! ### Composition -/

/-- A colour: red, green, blue. -/
abbrev Rgb := Nat × Nat × Nat

/-- RGB 8-8-8 of a word. -/
def rgbOf (v : Word) : Rgb := (fieldOf v 16 8, fieldOf v 8 8, fieldOf v 0 8)

/-- One channel blended (R352). -/
def blend (a s d : Nat) : Nat := (a * s + (255 - a) * d + 127) / 255

/-- A pixel of a layer over what lies beneath it (R352). -/
def overPixel (layerAlpha : Nat) (p : Nat × Rgb) (d : Rgb) : Rgb :=
  let a := (p.1 * layerAlpha + 127) / 255
  (blend a p.2.1 d.1, blend a p.2.2.1 d.2.1, blend a p.2.2.2 d.2.2)

/-- A value of w bits widened to 8 bits by repeating its upper bits (R353). -/
def widen8 (w v : Nat) : Nat := v * 2 ^ (8 - w) + v / 2 ^ (2 * w - 8)

/-- An overlay pixel: alpha and colour (R353). -/
def overlayPixel (fmt : Nat) (bs : List Byte) : Nat × Rgb :=
  let v := BitVec.ofNat 32 (leNat bs)
  match fmt with
  | 0 => (255, widen8 5 (fieldOf v 11 5), widen8 6 (fieldOf v 5 6), widen8 5 (fieldOf v 0 5))
  | 1 => (255, rgbOf v)
  | _ => (fieldOf v 24 8, rgbOf v)

/-- A layer's position: signed for the cursor (R355). -/
def State.layerAt (s : State) (n : Nat) : Int × Int :=
  let v := s.dispEff (Reg.DISP_LAYER_POS n)
  if n = 3 then (ofBitsInt 13 (fieldOf v 0 13), ofBitsInt 13 (fieldOf v 16 13)) else (fieldOf v 0 13, fieldOf v 16 13)

/-- A layer's size on the screen in pixels. -/
def State.layerSize (s : State) (n : Nat) : Nat × Nat :=
  let w := s.effF (Reg.DISP_LAYER_SIZE n) 0 13
  let h := s.effF (Reg.DISP_LAYER_SIZE n) 16 13
  match n with
  | 0 => (w * (s.effF (Reg.DISP_LAYER_CFG 0) 4 2 + 1), h * (s.effF (Reg.DISP_LAYER_CFG 0) 6 2 + 1))
  | 3 => (64, 64)
  | _ => (w, h)

/-- Whether a layer is in effect. -/
def State.layerOn (s : State) (n : Nat) : Bool := s.bit (F.DISP_LAYER_STATUS_ENABLED n)

/-- The job of the waveform layer. -/
def State.waveJob (s : State) : Nat := s.effF (Reg.DISP_LAYER_CFG 0) 8 8

/-- Whether the waveform layer is void: its job is not HIST or EYE, or holds no beam (R354). -/
def State.waveVoid (s : State) : Bool :=
  let k := (s.descOf s.waveJob).kind
  !(k == 2 || k == 3) || (s.job s.waveJob).beam.isNone

/-- Whether column x of the waveform job is read from its spill area (R270). -/
def State.waveSpilled (s : State) (x : Nat) : Bool := !s.columnHeld s.waveJob x

/-- A bin as the compositor reads it (R270). A column in the beam, and a tile that the pass has used, as it left the beam, show the
pass; another tile what the spill area keeps of the passes before, where it keeps anything (log 54). -/
def State.waveBin (s : State) (x y : Nat) : Nat :=
  let j := s.job s.waveJob
  let d := s.descOf s.waveJob
  let p := s.workingPass s.waveJob
  let k := y * d.width + x
  let free (i : Nat) := Config.freeWord (s.time.free + 2 ^ 64 * i)
  if p.blurred.isSome || d.width ≤ x || d.height ≤ y then (free (2 * k)).toNat
  else if !s.waveSpilled x || (p.tilesUsed d).contains (x / 64) then (p.cell d k).1.toNat
  else if j.leftTiles.contains (x / 64) then (sparseGet (fun _ => emptyCell d.kind) j.left k).1.toNat
  else (free (2 * k)).toNat

/-- The LUT index of a bin (R354). -/
def lutIndex (log : Bool) (v : Nat) : Nat :=
  if !log then min 255 v else if v = 0 then 0 else min 255 (1 + Nat.log2 (v ^ 16))

/-- The waveform pixel at column c and row r of the layer (R354); a bin that has not arrived shows LUT entry 0. -/
def State.wavePixel (s : State) (late : FrameLate) (c r : Nat) : Nat × Rgb :=
  let cfg := s.dispEff (Reg.DISP_LAYER_CFG 0)
  let srcX := s.effF (Reg.DISP_LAYER_ADDR_LO 0) 0 12
  let srcY := s.effF (Reg.DISP_LAYER_ADDR_LO 0) 16 11
  let x := srcX + c / (fieldOf cfg 4 2 + 1)
  let y := srcY + s.effF (Reg.DISP_LAYER_SIZE 0) 16 13 - 1 - r / (fieldOf cfg 6 2 + 1)
  let i := if late.columns.any (fun p => p.1 == x && decide (r / (fieldOf cfg 6 2 + 1) < p.2)) && s.waveSpilled x then 0
    else lutIndex (cfg.getLsbD 3) (s.waveBin x y / 2 ^ s.effF (Reg.DISP_LAYER_ADDR_HI 0) 8 5)
  let e := sparseGet (fun _ => 0) s.disp.lut i
  (fieldOf e 24 8, rgbOf e)

/-- Pixels of an overlay line that had arrived when it was scanned (R355). -/
def State.lineArrived (s : State) (late : FrameLate) (n l : Nat) : Nat :=
  let bytes := match s.disp.lines.find? (fun p => p.1 == n && p.2.1 == l) with
    | some p => p.2.2
    | none => []
  let got := bytes.length / overlayBytes (s.effF (Reg.DISP_LAYER_CFG n) 0 2)
  match late.lines.find? (fun p => p.1 == (n == 2) && p.2.1 == l) with
  | some p => min p.2.2 got
  | none => got

/-- The overlay pixel at column c of line l; none where it is transparent (R353, R355). -/
def State.overlayPixelAt (s : State) (late : FrameLate) (n c l : Nat) : Option (Nat × Rgb) :=
  let cfg := s.dispEff (Reg.DISP_LAYER_CFG n)
  let fmt := fieldOf cfg 0 2
  let bytes := match s.disp.lines.find? (fun p => p.1 == n && p.2.1 == l) with
    | some p => p.2.2
    | none => []
  if s.lineArrived late n l ≤ c then none
  else
    let p := overlayPixel fmt (sliceBytes bytes (c * overlayBytes fmt) (overlayBytes fmt))
    if cfg.getLsbD 2 && fmt < 2 && p.2 == rgbOf (s.dispEff (Reg.DISP_LAYER_KEY n)) then none else some p

/-- What layer n shows at a screen position; none where it is transparent (R352). -/
def State.layerPixel (s : State) (late : FrameLate) (n : Nat) (x y : Nat) : Option (Nat × Rgb) :=
  let at' := s.layerAt n
  let size := s.layerSize n
  let c : Int := (x : Int) - at'.1
  let r : Int := (y : Int) - at'.2
  if !s.layerOn n || c < 0 || r < 0 || (size.1 : Int) ≤ c || (size.2 : Int) ≤ r then none
  else
    match n with
    | 0 => if s.waveVoid then none else some (s.wavePixel late c.toNat r.toNat)
    | 3 =>
      let v := s.reg (Reg.DISP_CURSOR (4096 * s.effF (Reg.DISP_LAYER_CFG 3) 2 1 + 64 * r.toNat + c.toNat))
      some (fieldOf v 24 8, rgbOf v)
    | _ => s.overlayPixelAt late n c.toNat r.toNat

/-- The composed pixel at a screen position (R352). -/
def State.pixel (s : State) (late : FrameLate) (x y : Nat) : Rgb :=
  (List.range 4).foldl (fun d n =>
    match s.layerPixel late n x y with
    | some p => overPixel (s.effF (Reg.DISP_LAYER_CFG n) 16 8) p d
    | none => d) (rgbOf (s.dispEff Reg.DISP_BACKGROUND))

/-- The three bytes of an output pixel (R352, R359). -/
def State.pixelBytes (s : State) (late : FrameLate) (x y : Nat) : List Byte :=
  let p := s.pixel late x y
  let f (n : Nat) : Byte := BitVec.ofNat 8 (if s.bit F.DISP_CTRL_BPC6 then n / 4 else n)
  [f p.1, f p.2.1, f p.2.2]

/-! ### CRC rectangles -/

/-- Whether a rectangle with EN set lies wholly inside the active area (R359). -/
def State.rectInside (s : State) (k : Nat) : Bool :=
  decide (s.effF (Reg.DISP_CRC_POS k) 0 13 + s.effF (Reg.DISP_CRC_SIZE k) 0 13 ≤ s.hActive ∧
    s.effF (Reg.DISP_CRC_POS k) 16 13 + s.effF (Reg.DISP_CRC_SIZE k) 16 13 ≤ s.vActive)

def State.rectOn (s : State) (k : Nat) : Bool := s.effF (Reg.DISP_CRC_CFG k) 0 1 == 1

/-- The CRC of a rectangle of the frame (R359). -/
def State.rectCrc (s : State) (late : FrameLate) (k : Nat) : Word :=
  let x := s.effF (Reg.DISP_CRC_POS k) 0 13
  let y := s.effF (Reg.DISP_CRC_POS k) 16 13
  crc32 ((List.range (s.effF (Reg.DISP_CRC_SIZE k) 16 13)).flatMap (fun r =>
    (List.range (s.effF (Reg.DISP_CRC_SIZE k) 0 13)).flatMap (fun c => s.pixelBytes late (x + c) (y + r))))

/-- Whether the cursor overlapped a rectangle in the frame (R359). -/
def State.rectUnderCursor (s : State) (k : Nat) : Bool :=
  let at' := s.layerAt 3
  let x : Int := s.effF (Reg.DISP_CRC_POS k) 0 13
  let y : Int := s.effF (Reg.DISP_CRC_POS k) 16 13
  s.layerOn 3 && decide (at'.1 < x + s.effF (Reg.DISP_CRC_SIZE k) 0 13 ∧ x < at'.1 + 64 ∧
    at'.2 < y + s.effF (Reg.DISP_CRC_SIZE k) 16 13 ∧ y < at'.2 + 64)

/-- Rectangle k of the picture just ended is compared, or skipped (R359). -/
def State.compareRect (late : FrameLate) (s : State) (k : Nat) : State :=
  if !s.rectOn k || !s.rectInside k then s
  else if s.rectUnderCursor k then s.rclAdd (Reg.DISP_CRC_SKIPPED k) 1
  else
    let crc := s.rectCrc late k
    let s := s.setReg (Reg.DISP_CRC_RESULT k) crc
    if crc = s.dispEff (Reg.DISP_CRC_EXPECT k) then s.setBit (bitFld Reg.DISP_CRC_STATUS k) false
    else
      ((s.rclAdd (Reg.DISP_CRC_MISMATCH k) 1).setBit (bitFld Reg.DISP_CRC_STATUS k) true).hwSet
        F.DISP_EVENTS_CRC_MISMATCH

/-! ### The vertical blank -/

/-- Counts underruns of one layer (R354, R355). -/
def State.underrun (s : State) (n count : Nat) : State :=
  if count = 0 then s else (s.rclAdd (Reg.DISP_LAYER_UNDERRUN n) count).hwSet F.DISP_EVENTS_UNDERRUN

/-- Overlay lines scanned in the frame that were not whole (R355). -/
def State.shortLines (s : State) (late : FrameLate) (n : Nat) : Nat :=
  let size := s.layerSize n
  let y := (s.layerAt n).2.toNat
  if !s.layerOn n || s.hActive ≤ (s.layerAt n).1.toNat then 0
  else ((List.range (min size.2 (s.vActive - y))).filter (fun l => s.lineArrived late n l < size.1)).length

/-- Pixels of a span of n source pixels, each shown `scale` wide from a place on, that reach into the active area. -/
def shownOf (at' active scale n : Nat) : Nat := min n (ceilDiv (active - at') scale)

/-- Bins of the waveform layer that had not arrived when they were scanned (R354). -/
def State.lateBins (s : State) (late : FrameLate) : Nat :=
  let cfg := s.dispEff (Reg.DISP_LAYER_CFG 0)
  let srcX := s.effF (Reg.DISP_LAYER_ADDR_LO 0) 0 12
  let cols := shownOf (s.layerAt 0).1.toNat s.hActive (fieldOf cfg 4 2 + 1) (s.effF (Reg.DISP_LAYER_SIZE 0) 0 13)
  let rows := shownOf (s.layerAt 0).2.toNat s.vActive (fieldOf cfg 6 2 + 1) (s.effF (Reg.DISP_LAYER_SIZE 0) 16 13)
  if !s.layerOn 0 || s.waveVoid then 0
  else (List.range cols).foldl (fun n c =>
    match late.columns.find? (fun p => p.1 == srcX + c) with
    | some p => if s.waveSpilled (srcX + c) then n + min p.2 rows else n
    | none => n) 0

/-- The requests for the columns of the waveform layer that the frame read from the spill area (R270, R296). -/
def State.fetchWave (s : State) : State :=
  let srcX := s.effF (Reg.DISP_LAYER_ADDR_LO 0) 0 12
  if !s.layerOn 0 || s.waveVoid then s
  else
    ((List.range (s.effF (Reg.DISP_LAYER_SIZE 0) 0 13)).filter (fun c => s.waveSpilled (srcX + c))).foldl (fun s c =>
      s.offerSpill 8 s.waveJob (srcX + c) (srcX + c + 1)) s

/-- What the end of the frame in progress records (R351, R354, R355, R359, R360). -/
def State.endFrame (s : State) (late : FrameLate) : State :=
  let s := s.setReg Reg.DISP_FRAME_COUNT (s.reg Reg.DISP_FRAME_COUNT + 1)
  if s.getF F.DISP_STATUS_STATE = dispBlank then
    let s := s.rclAdd Reg.DISP_CRC_VOID 1
    let s := if s.disp.timingBlack then s.hwSet F.DISP_EVENTS_TIMING_DONE else s
    let s : State := { s with disp := { s.disp with timingBlack := false } }
    s.setF F.DISP_STATUS_STATE dispActive
  else
    let s := ((s.underrun 0 (s.lateBins late)).underrun 1 (s.shortLines late 1)).underrun 2 (s.shortLines late 2)
    let s := (if s.layerOn 0 && s.waveVoid then s.hwSet F.DISP_EVENTS_WAVE_VOID else s).fetchWave
    ((List.range 8).foldl (State.compareRect late) s).nextFree

/-- A buffer displaced at the last blank, which `was` holds, is handed back (R357). DESIGN CHOICE (log 125): RELEASED sets also at
a blank at which the next new ADDR takes effect. -/
def State.handBack (s : State) (was : State) (n : Nat) : State :=
  match sparseGet (fun _ => none) was.disp.displaced n with
  | none => s
  | some a =>
    ((s.setBit (F.DISP_LAYER_STATUS_RELEASED n) true).set64 (Reg.DISP_LAYER_REL_ADDR_LO n) a).hwSet F.DISP_EVENTS_RELEASE

/-- Whether a layer's set in effect keeps R353 and R354 and has a size. -/
def State.layerValid (s : State) (n : Nat) : Bool :=
  let w := s.effF (Reg.DISP_LAYER_SIZE n) 0 13
  let h := s.effF (Reg.DISP_LAYER_SIZE n) 16 13
  match n with
  | 3 => true
  | 0 =>
    let d := s.descOf s.waveJob
    decide (1 ≤ w ∧ 1 ≤ h) && (s.waveVoid ||
      decide (s.effF (Reg.DISP_LAYER_ADDR_LO 0) 0 12 + w ≤ d.width ∧ s.effF (Reg.DISP_LAYER_ADDR_LO 0) 16 11 + h ≤ d.height))
  | _ =>
    let fmt := s.effF (Reg.DISP_LAYER_CFG n) 0 2
    let stride := s.effF (Reg.DISP_LAYER_STRIDE n) 0 20
    decide (1 ≤ w ∧ 1 ≤ h ∧ fmt ≠ 3 ∧ s.overlayAddr n % 64 = 0 ∧ stride % 64 = 0 ∧ w * overlayBytes fmt ≤ stride)

/-- Every shadow takes effect but those written in this clock, and the LUT after a LUT_COMMIT (R354, R356). -/
def State.takeShadows (s : State) : State :=
  let value (off : Nat) : Word := match s.disp.wrote.find? (fun p => p.1 == off) with
    | some p => p.2
    | none => s.reg off
  let eff := dispShadows.foldl (fun m off => sparseSet resetValue m off (value off)) s.disp.eff
  let go := s.disp.wrote.find? (fun p => p.1 == Reg.DISP_LUT_COMMIT)
  let now := s.disp.lutPending && go.all (fun p => p.2 != 0)
  let lut := if now then
      (List.range 256).foldl (fun m i => sparseSet (fun _ => 0) m i (s.reg (Reg.DISP_LUT i))) []
    else s.disp.lut
  { s with disp := { s.disp with eff := eff, lut := lut, lutPending := s.disp.lutPending && (!now || go.isSome) } }

/-- Layer n under the set that has taken effect: validated, and the buffer of an overlay displaced by a new ADDR or by its
end (R356, R357). -/
def State.layerTakes (s : State) (was : State) (n : Nat) : State :=
  let en := (s.dispEff (Reg.DISP_LAYER_CFG n)).getLsbD 31
  let ok := s.layerValid n
  let s := if en && !ok then s.hwSet F.DISP_EVENTS_LAYER_BAD else s
  let s := s.setBit (F.DISP_LAYER_STATUS_ENABLED n) (en && ok)
  if n = 1 ∨ n = 2 then
    let fresh := s.overlayAddr n != was.overlayAddr n
    let s := if fresh then s.setBit (F.DISP_LAYER_STATUS_RELEASED n) false else s
    if was.layerOn n && (fresh || !(en && ok)) then
      { s with disp := { s.disp with displaced := sparseSet (fun _ => none) s.disp.displaced n (some (was.overlayAddr n)) } }
    else s
  else s

/-- VERTICAL_BLANK: the frame in progress ends, and the next one's shadows, timing, LUT and buffers take effect
(R351, R354 to R359). -/
def State.verticalBlank (s : State) (late : FrameLate) : State :=
  let s := s.endFrame late
  let s := (s.withdrawLayer 1).withdrawLayer 2
  let locked := s.bit F.DISP_LOCK_LOCK
  let was := s
  let s := if locked then s else s.takeShadows
  let due := s.disp.pendTiming.isSome && !was.disp.wrote.any (fun p => p.1 == Reg.DISP_TIMING_COMMIT)
  let s := if !locked && due then s.takeTiming true else s
  let s : State := { s with disp := { s.disp with displaced := [] } }
  let s := (List.range 4).foldl (fun s n => s.layerTakes was n) s
  let s := (s.handBack was 1).handBack was 2
  let s := if (List.range 8).any (fun k => s.rectOn k && !s.rectInside k) then s.hwSet F.DISP_EVENTS_RECT_BAD else s
  { s with disp := { s.disp with lines := [] } }

/-- VERTICAL_BLANK. -/
def execVerticalBlank (late : FrameLate) (s : State) : Result :=
  .next (if s.sendsFrames then s.verticalBlank late else s)

/-! ### AUX, LUT and cursor -/

/-- A write of AUX_CMD (R349): one transaction at a time; commands above 3 are ignored. -/
def State.auxStart (s : State) (v : Word) : State :=
  if !v.getLsbD 31 || 3 < fieldOf v 28 3 || s.bit F.DISP_AUX_STATUS_BUSY then s
  else
    let data := (List.range 4).flatMap (fun i => leBytes 4 (s.reg (Reg.DISP_AUX_DATA i)).toNat)
    let n := fieldOf v 24 4 + 1
    let s := (s.setBit F.DISP_AUX_STATUS_BUSY true).send
      (.aux (leBytes 4 v.toNat ++ (if fieldOf v 28 1 = 0 then data.take n else [])))
    { s with disp := { s.disp with auxCmd := some v } }

/-- AUX_CMD (R349). -/
def execAuxCmd (v : Word) (s : State) : Result :=
  .next (s.hostWrite Reg.DISP_AUX_CMD v (fun s => s.auxStart v))

/-- AUX_DONE: the sink's reply and, for a read, its bytes (R349, R360). -/
def execAuxDone (result : Fin 4) (data : List Byte) (s : State) : Result :=
  .next (
    match s.disp.auxCmd with
    | none => s
    | some v =>
      let s : State := { s with disp := { s.disp with auxCmd := none } }
      let s := (s.setBit F.DISP_AUX_STATUS_BUSY false).setF F.DISP_AUX_STATUS_RESULT result
      if fieldOf v 28 1 = 1 ∧ result.val = 0 then
        let old := (List.range 4).flatMap (fun i => leBytes 4 (s.reg (Reg.DISP_AUX_DATA i)).toNat)
        let got := data.take (fieldOf v 24 4 + 1)
        let all := got ++ old.drop got.length
        s.setRegs ((List.range 4).map (fun i => (Reg.DISP_AUX_DATA i, BitVec.ofNat 32 (fieldLe all (4 * i) 4))))
      else s)

/-- A write of 1 to LUT_COMMIT.GO (R354): it waits for a blank after its clock, where one of an earlier clock does not (R356). -/
def State.lutCommit (s : State) : State :=
  if s.disp.wrote.any (fun p => p.1 == Reg.DISP_LUT_COMMIT) then s
  else { s with disp := { s.disp with
    lutPending := true, wrote := (Reg.DISP_LUT_COMMIT, if s.disp.lutPending then 1 else 0) :: s.disp.wrote } }

/-- LUT_COMMIT (R354). -/
def execLutCommit (s : State) : Result := .next (s.hostWrite Reg.DISP_LUT_COMMIT 1 State.lutCommit)

/-- A write to word i of the cursor pages, page 1 from 4,096 on (R355). -/
def State.cursorWrite (s : State) (i : Nat) (v : Word) : State :=
  if i / 4096 = s.effF (Reg.DISP_LAYER_CFG 3) 2 1 then s.hwSet F.DISP_EVENTS_CURSOR_BUSY
  else s.setReg (Reg.DISP_CURSOR i) v

/-- CURSOR_PAGE_WRITE (R355). -/
def execCursorPageWrite (page : Bool) (i : Fin 4096) (v : Word) (s : State) : Result :=
  .next (s.hostWrite (Reg.DISP_CURSOR (4096 * b2n page + i)) v (fun s => s.cursorWrite (4096 * b2n page + i) v))

end Sys2Proof.Machine
end

