-- ==== Sys2Proof/Machine/Draft.lean ====
section
/-! DEFINITION. Loading, staging, checking and burning (spec/02_draft_image.md R53 to R62). -/

namespace Sys2Proof.Machine

/-- What a load or a check compares an image with. -/
def State.verifier (s : State) : Verifier :=
  { compat := s.bit F.DEV_CTRL_COMPAT, step := s.board.fuses.step, serial := s.board.fuses.serial,
    keyHash := s.board.fuses.keyHash, signedOnly := s.board.fuses.signedOnly }

/-- The image in the staging buffer: its header, and as many bytes as IMAGE_LEN names (R57). -/
def State.stagedImage (s : State) : List Byte :=
  let get (i : Nat) : Byte := sparseGet (fun _ => 0) s.draft.staging i
  let head := (List.range 64).map get
  let n := if imageLen head ≤ maxImage then max 64 (imageLen head) else 64
  (List.range n).map get

/-- Whether the header of an image was readable (R53): none of the first three checks of R48 refused it. -/
def headerRead (reason : Nat) : Bool := reason == 0 || decide (4 ≤ reason)

/-- The LOAD record of R53. DESIGN CHOICE (log 110): the digest is the one the engine computes, also for an image that check 8
refuses; zero where the header gives no length an image can have, since it then bounds no bytes to digest. -/
def State.loadRecord (s : State) (staging : Bool) (img : List Byte) (reason : Nat) : State :=
  let serial := if headerRead reason then fieldLe img 0x18 4 else 0
  let digest := if headerRead reason && decide (imageLen img ≤ maxImage) then (imageDigest img).take 8
    else List.replicate 8 0
  s.makeRecord 3 1 (leBytes 1 (b2n staging) ++ leBytes 4 serial ++ digest ++ leBytes 1 reason)

/-- A refused image (R48, R53): SAFE_TALK, and no structure in force. -/
def State.refuseImage (s : State) (staging : Bool) (img : List Byte) (reason sect : Nat) : State :=
  let s := ((s.setF F.DRAFT_STATUS_REFUSE_REASON reason).setF F.DRAFT_STATUS_FAIL_SECTION sect).setBit
    F.DRAFT_STATUS_SOURCE_USED staging
  let s := ((s.setBit F.DRAFT_STATUS_SIGNED false).setBit F.DRAFT_STATUS_SIG_UNCHECKED false).setReg Reg.DRAFT_IMG_SERIAL 0
  let s := (s.setBit F.DRAFT_STATUS_CAL_SERIAL_MISMATCH false).setBit F.DRAFT_STATUS_NO_FACTORY_CAL false
  let s := s.setRegs ((List.range 8).map (fun i => (Reg.DRAFT_DIGEST i, 0)))
  ((s.hwSet F.FLT_DRAFT_REFUSED).loadRecord staging img reason).enterSafeTalk 0x07 2 reason

/-- The registers of DRAFT after an accepted load (R45, R50, R60). -/
def State.draftRegs (s : State) (staging : Bool) (img : List Byte) : State :=
  let v := s.verifier
  let digest := imageDigest img
  let cal := imageSection img 0xB
  let foreign := match cal with
    | some b => fieldLe b 0 8 != v.serial.toNat
    | none => false
  let s := (((s.setBit F.DRAFT_STATUS_LOADED true).setF F.DRAFT_STATUS_REFUSE_REASON 0).setF
    F.DRAFT_STATUS_FAIL_SECTION 0).setBit F.DRAFT_STATUS_SOURCE_USED staging
  let s := ((s.setF F.DRAFT_STATUS_FORMAT (imageFormat img)).setBit F.DRAFT_STATUS_SIGNED (signatureChecked v img)).setBit
    F.DRAFT_STATUS_SIG_UNCHECKED (imageSigned img && !signatureChecked v img)
  let s := (s.setBit F.DRAFT_STATUS_CAL_SERIAL_MISMATCH foreign).setBit F.DRAFT_STATUS_NO_FACTORY_CAL
    (cal.isNone || foreign)
  (s.setReg Reg.DRAFT_IMG_SERIAL (BitVec.ofNat 32 (fieldLe img 0x18 4))).setRegs
    ((List.range 8).map (fun i => (Reg.DRAFT_DIGEST i, BitVec.ofNat 32 (fieldLe digest (4 * i) 4))))

/-- The registers that report the structure in force (spec/18_register_map.md R434, R115, R158, R380, R386). -/
def State.structureRegs (s : State) (img : List Byte) : State :=
  let (stream, disp, tenon) := imagePorts img
  let mode := fieldLe ((imageSection img 1).getD []) 0 1
  let chans := fieldLe ((imageSection img 1).getD []) 1 1
  let snap := match imageSection img 7 with
    | some b => fieldLe b 0 1
    | none => 1
  let rate := if imageSclk img then 0 else imageRate img
  let caps := b2n stream + 2 * b2n disp + 4 * b2n tenon + 8 * b2n (imageSclk img) + 16 * mode +
    256 * b2n (imagePaired img) + 512 * snap
  let s := s.setRegs [(Reg.DEV_CAPS, BitVec.ofNat 32 caps),
    (Reg.CONV_MODE, BitVec.ofNat 32 (2 ^ mode * 256 + chans * 16 + mode)),
    (Reg.CLK_RATE, BitVec.ofNat 32 rate), (Reg.CLK_EPOCH_RATE, BitVec.ofNat 32 rate),
    (Reg.PAIR_MIRROR_QUOTA, BitVec.ofNat 32 (match imageSection img 8 with
      | some b => fieldLe b 4 4
      | none => 0))]
  (s.setBit F.CLK_STATUS_SCLK_MODE (imageSclk img)).setF F.BBX_STATUS_MODE snap

/-- The treads of a bank in a TREADLE section (R44, spec/03_axis_and_loom.md R82). -/
def sectionBank (b : List Byte) (base : Nat) : Sparse (BitVec 128) :=
  (List.range 4096).filterMap (fun i =>
    let t := BitVec.ofNat 128 (fieldLe b (base + 16 * i) 16)
    if t = 0 then none else some (i, t))

/-- The initial context store (R44). -/
def State.loadContexts (s : State) (b : List Byte) : State :=
  (List.range (min 1024 (b.length / 256))).foldl (fun s c =>
    ((List.range 64).foldl (fun s w =>
      let off := ctxBase c + 4 * w
      s.setReg off (BitVec.ofNat 32 (fieldLe b (256 * c + 4 * w) 4) &&& maskAt off)) s).dropNative c) s

/-- The factory tables of this unit; an unreadable or absent section leaves neutral correction (R44, R45). -/
def factoryCoefs (v : Verifier) (img : List Byte) : Sparse Coef :=
  match imageSection img 0xB with
  | none => []
  | some b =>
    if fieldLe b 0 8 ≠ v.serial.toNat then []
    else ((Config.factoryTables (b.drop 8)).getD []).foldl (fun m e =>
      sparseSet (fun _ => Coef.neutral) m e.1
        ({ Coef.neutral with offset := e.2.1, gain := e.2.2.1, taps := e.2.2.2.2 }.withD e.2.2.2.1 0)) []

/-- The structure and the initial contents of an accepted image (R39, R41, R44). With SCLK_IN the slice rate before its first
measurement is a free value in the range of R157 (log 114). -/
def State.applyImage (s : State) (img : List Byte) : State :=
  let s := s.structureRegs img
  let lanes := (imageSection img 2).getD []
  let s := (List.range 64).foldl (fun s l =>
    (s.setF (F.LANE_BIND_PROFILE l) (laneProfile lanes l)).setLane l { s.lane l with kinds := laneKinds lanes l }) s
  let pools := (imageSection img 3).getD []
  let s := (List.range 16).foldl (fun s b => s.setBit (F.BEAM_BEAM_STATUS_IN_SERVICE b) (pools.getD b 0xFF != 0xFF)) s
  let s := match imageSection img 0xA with
    | some b => s.loadContexts b
    | none => s
  let treads := (imageSection img 9).getD []
  let masks := (imageMasks img).map (BitVec.ofNat 16)
  let takeover := match imageSection img 8 with
    | some b => fieldLe b 1 1 == 1
    | none => false
  let s : State := { s with
    draft := { s.draft with image := img }
    beam := { s.beam with pools := pools }
    loom := { s.loom with bank0 := sectionBank treads 0, bank1 := sectionBank treads 65536 }
    cal := { s.cal with coefs := factoryCoefs s.verifier img, log := [], coming := [] }
    clk := { s.clk with
      masks := masks, sclkMode := imageSclk img, want := if imageSclk img then 0 else BitVec.ofNat 32 (imageRate img)
      rate := if imageSclk img then 20000 + (Config.freeWord s.time.free).toNat % 5001 else imageRate img }
    pair := { s.pair with takeover := takeover } }
  let s := if imageSclk img then s.nextFree else s
  let s := if masks.getD 3 0 = 0 then s else s.setPll .ppll (if s.board.ref == .noRef then pllBypass else pllSearch)
  [Pll.spll, .fpll, .mpll, .lpll].foldl (fun s p => s.setGate p (s.bit (F.CLK_PLL_STATUS_GATED p.idx))) s

/-- Sections of unknown type that are skipped (R52). -/
def skippedSections (img : List Byte) : Bool := (imageSections img).any (fun x => !knownType x.type)

/-- What the read of the flash issues on QSPI (R55): Reset Enable, Reset, the header, and IMAGE_LEN bytes where the header was
readable. -/
def State.readFlash (s : State) (img : List Byte) (reason : Nat) : State :=
  let s := ((s.send (.qspi 0x66 0 0)).send (.qspi 0x99 0 0)).send (.qspi 0x6B 0 64)
  if headerRead reason then s.send (.qspi 0x6B 0 (imageLen img)) else s

/-- Whether the engine drives the QSPI pins; at all other times they are high-impedance (R55). -/
def State.qspiDriven (s : State) : Bool := s.cur == .reset && !s.board.perst && s.board.load == some .flash

/-- FLASH_LOAD_DONE: the image in the image store is verified, and applied whole or refused (R48, R53). `image` is what
the flash holds; a load from staging takes the staging buffer (R57). One that ends in the clock of an entry to RESET is the load
that this entry has abandoned (R59). -/
def execFlashLoadDone (image : List Byte) (s : State) : Result :=
  .next (
    match s.board.load with
    | none => s
    | some src =>
      if s.cur != .reset || s.board.perst || decide (s.rankNow < 7) then s
      else
        let staging := src == .staging
        let img := if staging then s.stagedImage else image
        let (reason, sec) := verifyImage s.verifier img
        let s := if staging then s else s.readFlash img reason
        let s : State := { s with board := { s.board with load := none } }
        if reason ≠ 0 then s.refuseImage staging img reason sec
        else
          let s := (s.applyImage img).draftRegs staging img
          let s := if skippedSections img then s.hwSet F.FLT_DRAFT_SECTION_SKIPPED else s
          s.loadRecord staging img 0)

/-- Whether draft actions are accepted (R36, R56, R58). -/
def State.draftOpen (s : State) : Bool := s.cur == .idle || s.cur == .safeTalk

/-- Whether the engine left IDLE for ARMED in the present clock by a write of RUN, over which a reload prevails (R35). -/
def State.ranNow (s : State) : Bool :=
  s.cur == .armed && s.getF F.DEV_STATE_ENTRY_CAUSE == 9 && s.rankNow == 6

/-- Whether the engine entered RESET by a draft reload in the present clock. -/
def State.reloadedNow (s : State) : Bool :=
  s.cur == .reset && s.getF F.DEV_STATE_ENTRY_CAUSE == 4 && s.rankNow == 6

/-- The state in which the present clock found the engine. -/
def State.wasIn (s : State) : EngState := if s.rankNow < 7 then EngState.ofCode (s.getF F.DEV_STATE_PREV) else s.cur

/-- Whether a transition of higher rank than a reload was made in the present clock (R35). -/
def State.outranked (s : State) : Bool := decide (s.rankNow < 6)

/-- What a reload request meets: it counts (true), or is refused as in R36. -/
def State.reloadCounts (s : State) : Bool :=
  if s.outranked then s.wasIn == .idle || s.wasIn == .safeTalk else s.reloadedNow || s.draftOpen || s.ranNow

/-- An accepted reload (R36, R59): a check in progress is abandoned. DESIGN CHOICE (log 111): CHECK_STATUS.SECTION then keeps the
value of the check before. The strap and REF_IN are sampled as on every entry to RESET (R156, R443); `pins` none: they are as the
engine last saw them. -/
def State.draftReload (s : State) (src : LoadFrom) (pins : Option (Straps × RefClass)) : State :=
  let s := if s.ranNow then s.setF F.DEV_STATE_CUR EngState.idle.code else s
  let s := if s.draft.checking then
      (((s.setBit F.DRAFT_CHECK_STATUS_BUSY false).setF F.DRAFT_CHECK_STATUS_REASON 0xFF).setBit
        F.DRAFT_CHECK_STATUS_PASS false).hwSet F.DRAFT_CHECK_STATUS_DONE
    else s
  let (straps, ref) := pins.getD (s.board.straps, s.board.refIn)
  s.enterReset 4 false straps ref src

/-- A reload request that counts: it gives way to a transition of higher rank of its clock (R35), joins a reload of its clock
(R59), and is carried out otherwise. -/
def State.takeReload (s : State) (src : LoadFrom) (pins : Option (Straps × RefClass)) : State :=
  if s.outranked || s.reloadedNow then s else s.draftReload src pins

/-- A write of DRAFT.CTRL (R58, R59). -/
def State.draftCtrl (s : State) (v : Word) (pins : Option (Straps × RefClass)) : State :=
  let s := s.setBit F.DRAFT_CTRL_SOURCE (v.getLsbD 0)
  if v.getLsbD 1 then
    if s.reloadCounts then s.takeReload (if v.getLsbD 0 then .staging else .flash) pins
    else s.hwSet F.FLT_HOST_DRAFT_BUSY
  else if v.getLsbD 2 then
    if !s.draftOpen then s.hwSet F.FLT_HOST_DRAFT_BUSY
    else if s.draft.checking then s
    else ({ s with draft := { s.draft with checking := true } } : State).setBit F.DRAFT_CHECK_STATUS_BUSY true
  else s

/-- RELOAD: a write of DRAFT.CTRL with RELOAD (R36). `pins` is what RESET then samples. -/
def execReload (source : Bool) (s : State) (pins : Option (Straps × RefClass) := none) : Result :=
  .next (s.hostWrite Reg.DRAFT_CTRL (BitVec.ofNat 32 (2 + b2n source)) (fun s =>
    s.draftCtrl (BitVec.ofNat 32 (2 + b2n source)) pins))

/-- CHECK: a write of DRAFT.CTRL with CHECK and SOURCE as it reads (R58). -/
def execCheck (s : State) : Result :=
  let v := BitVec.ofNat 32 (4 + s.getF F.DRAFT_CTRL_SOURCE)
  .next (s.hostWrite Reg.DRAFT_CTRL v (fun s => s.draftCtrl v none))

/-- CHECK_DONE: the result is posted (R58, R60). -/
def execCheckDone (s : State) : Result :=
  .next (
    if !s.draft.checking then s
    else
      let (reason, sec) := verifyImage s.verifier s.stagedImage
      let s : State := { s with draft := { s.draft with checking := false } }
      let s := ((s.setBit F.DRAFT_CHECK_STATUS_BUSY false).setF F.DRAFT_CHECK_STATUS_REASON reason).setF
        F.DRAFT_CHECK_STATUS_SECTION sec
      (s.setBit F.DRAFT_CHECK_STATUS_PASS (reason == 0)).hwSet F.DRAFT_CHECK_STATUS_DONE)

/-- A write of DRAFT.STAGE_ADDR (R56). -/
def State.stageAddr (s : State) (v : Word) : State :=
  if s.draftOpen then s.setReg Reg.DRAFT_STAGE_ADDR (BitVec.ofNat 32 (min v.toNat maxImage / 4 * 4))
  else s.hwSet F.FLT_HOST_DRAFT_BUSY

/-- STAGE_ADDR (R56). -/
def execStageAddr (v : Word) (s : State) : Result :=
  .next (s.hostWrite Reg.DRAFT_STAGE_ADDR v (fun s => s.stageAddr v))

/-- A write of DRAFT.STAGE_DATA (R56, R59). -/
def State.stageData (s : State) (v : Word) : State :=
  let a := (s.reg Reg.DRAFT_STAGE_ADDR).toNat
  if !s.draftOpen || s.draft.checking then s.hwSet F.FLT_HOST_DRAFT_BUSY
  else if maxImage ≤ a then s.hwSet F.FLT_HOST_STAGE_OVERRUN
  else
    let buf := (List.range 4).foldl (fun m i =>
      sparseSet (fun _ => 0) m (a + i) (BitVec.ofNat 8 (fieldOf v (8 * i) 8))) s.draft.staging
    ({ s with draft := { s.draft with staging := buf } } : State).setReg Reg.DRAFT_STAGE_ADDR (BitVec.ofNat 32 (a + 4))

/-- STAGE_DATA (R56). -/
def execStageData (v : Word) (s : State) : Result :=
  .next (s.hostWrite Reg.DRAFT_STAGE_DATA v (fun s => s.stageData v))

/-- A write of DRAFT.FUSE_CTRL (R60, R61). -/
def State.fuseCtrl (s : State) (v : Word) : State :=
  let s := s.w1cClear Reg.DRAFT_FUSE_CTRL (v &&& 0x20)
  let key := v.getLsbD 0
  let so := v.getLsbD 1
  let programmed := s.bit F.DRAFT_FUSE_CTRL_KEY_PROGRAMMED
  if !(key || so) || fieldOf v 8 8 ≠ 0xA5 then s
  else if s.cur != .idle || s.bit F.DRAFT_FUSE_CTRL_BUSY || (key && programmed) || (so && !key && !programmed) then
    s.hwSet F.DRAFT_FUSE_CTRL_BURN_ERROR
  else
    ({ s with draft := { s.draft with burn := some { key := key, signedOnly := so } } } : State).setBit
      F.DRAFT_FUSE_CTRL_BUSY true

/-- BURN_KEY: a write of FUSE_CTRL with BURN_KEY (R61). -/
def execBurnKey (v : Word) (s : State) : Result :=
  .next (s.hostWrite Reg.DRAFT_FUSE_CTRL (v ||| 1) (fun s => s.fuseCtrl (v ||| 1)))

/-- BURN_SIGNED_ONLY: a write of FUSE_CTRL with BURN_SIGNED_ONLY (R61). -/
def execBurnSignedOnly (v : Word) (s : State) : Result :=
  .next (s.hostWrite Reg.DRAFT_FUSE_CTRL (v ||| 2) (fun s => s.fuseCtrl (v ||| 2)))

/-- Eight words as one 256-bit value, word 0 lowest. -/
def wordsValue (l : List Word) : Nat := (List.range 8).foldl (fun a i => a + (l.getD i 0).toNat * 2 ^ (32 * i)) 0

/-- BURN_DONE: what the fuses read back as (R61); a burnt fuse stays burnt. SIGNED_ONLY is burnt only over a key that matched and
is not blank. -/
def execBurnDone (keyRead : List Word) (soRead : Bool) (s : State) : Result :=
  .next (
    match s.draft.burn with
    | none => s
    | some b =>
      let read := wordsValue keyRead
      let keyOk := !b.key || read == s.draft.fuseStage.toNat
      let f := s.board.fuses
      let keyHash := if b.key then f.keyHash ||| BitVec.ofNat 256 read else f.keyHash
      let doSo := b.signedOnly && keyOk && keyHash != 0
      let f : Fuses := { f with
        keyHash := keyHash
        signedOnly := f.signedOnly || (doSo && soRead) }
      let s : State := { s with board := { s.board with fuses := f }, draft := { s.draft with burn := none } }
      let s := s.setRegs ((List.range 8).map (fun i => (Reg.DRAFT_KEY_HASH i, (f.keyHash >>> (32 * i)).truncate 32)))
      let s := ((s.setBit F.DRAFT_FUSE_CTRL_KEY_PROGRAMMED (f.keyHash != 0)).setBit F.DRAFT_FUSE_CTRL_SIGNED_ONLY
        f.signedOnly).setBit F.DRAFT_STATUS_SIGNED_ONLY f.signedOnly
      let s := s.setBit F.DRAFT_FUSE_CTRL_BUSY false
      if !keyOk || (b.signedOnly && !f.signedOnly) then s.hwSet F.DRAFT_FUSE_CTRL_BURN_ERROR else s)

/-- A write of DEV.CTRL (R62, R435). -/
def State.compatWrite (s : State) (v : Word) : State :=
  if v.getLsbD 0 == s.bit F.DEV_CTRL_COMPAT then s
  else if s.cur == .idle then s.setBit F.DEV_CTRL_COMPAT (v.getLsbD 0)
  else if s.reloadedNow && s.wasIn == .idle then
    ((s.setBit F.DEV_CTRL_COMPAT (v.getLsbD 0)).setBit F.DRAFT_STATUS_COMPAT_ACTIVE (v.getLsbD 0)).setBit
      F.AXIS_STATUS_FORCED_TIME (v.getLsbD 0)
  else s.hwSet F.FLT_HOST_COMPAT_BUSY

/-- COMPAT_WRITE (R62). -/
def execCompatWrite (v : Word) (s : State) : Result :=
  .next (s.hostWrite Reg.DEV_CTRL v (fun s => s.compatWrite v))

end Sys2Proof.Machine
end

