-- ==== Sys2Proof/Machine/Train.lean ====
section
/-! DEFINITION. HBM training: working runs, lane repair and timing sets (spec/11_memory_and_shuttle.md R286 to R288). -/

namespace Sys2Proof.Machine

/-- The runs of passing settings among n settings, as first and last setting. -/
def passRuns (n : Nat) (pass : Nat → Bool) : List (Nat × Nat) :=
  ((List.range (n + 1)).foldl (fun (a : List (Nat × Nat) × Option Nat) i =>
    if decide (i < n) && pass i then (a.1, some (a.2.getD i))
    else match a.2 with
      | some f => (a.1 ++ [(f, i - 1)], none)
      | none => a) ([], none)).1

/-- Steps that a run spans. -/
def runWidth (r : Nat × Nat) : Nat := r.2 + 1 - r.1

/-- The longest run of passing settings; among equally long ones the controller's pick. -/
def longestRun (n : Nat) (pass : Nat → Bool) : Option (Nat × Nat) :=
  let runs := passRuns n pass
  let w := runs.foldl (fun a r => max a (runWidth r)) 0
  match runs.filter (fun r => runWidth r == w) with
  | [] => none
  | [r] => some r
  | l => l[Config.pickOf (l.map (·.1)) % l.length]?

/-- The lanes of a byte-lane group: 0 to 3 data, 4 the ECC lanes (R286). -/
def groupLanes (g : Nat) : List Nat :=
  if g < 4 then (List.range 8).map (fun i => 8 * g + i) else [32, 33, 34, 35]

/-- The lanes that the two spares replace. -/
structure LaneMap where
  spare0 : Option Nat
  spare1 : Option Nat
deriving DecidableEq, Repr

/-- The physical lane that carries a lane: 36 and 37 are the spares. A lane that moved on from spare 0 is on spare 1. -/
def LaneMap.phys (m : LaneMap) (l : Nat) : Nat :=
  if m.spare1 = some l then 37 else if m.spare0 = some l then 36 else l

/-- The settings at which every lane of a group passes, one lane left out. -/
def groupPass (sweep : List (BitVec 128)) (m : LaneMap) (g : Nat) (skip : Option Nat) (i : Nat) : Bool :=
  (groupLanes g).all (fun l => skip == some l || (sweep.getD (m.phys l) 0).getLsbD i)

/-- The working settings of a group: a run of at least 16 steps (R286). -/
def workingRun (sweep : List (BitVec 128)) (m : LaneMap) (g : Nat) (skip : Option Nat) : Option (Nat × Nat) :=
  match longestRun 128 (groupPass sweep m g skip) with
  | some r => if 16 ≤ runWidth r then some r else none
  | none => none

/-- Whether a group works in both directions. -/
def sweepWorks (x : PcSweep) (m : LaneMap) (g : Nat) (skip : Option Nat) : Bool :=
  (workingRun x.read m g skip).isSome && (workingRun x.write m g skip).isSome

/-- Remaps a lane to the next unused spare. -/
def LaneMap.repair (m : LaneMap) (l : Nat) : Option LaneMap :=
  if m.spare0.isNone then some { m with spare0 := some l }
  else if m.spare1.isNone then some { m with spare1 := some l }
  else none

/-- The lanes of a group whose single exclusion yields a working run (R287): in both directions where one lane does, else in a
direction that has none. -/
def mendingLanes (x : PcSweep) (m : LaneMap) (g : Nat) : List Nat :=
  match (groupLanes g).filter (fun l => sweepWorks x m g (some l)) with
  | [] =>
    let sweep := if (workingRun x.read m g none).isNone then x.read else x.write
    (groupLanes g).filter (fun l => (workingRun sweep m g (some l)).isSome)
  | l => l

/-- Repairs one group while it has no working setting and a single lane's exclusion helps (R287): whether it works in the end, and
the lane map that it leaves. -/
def repairGroup (x : PcSweep) (g : Nat) : Nat → LaneMap → Bool × LaneMap
  | 0, m => (sweepWorks x m g none, m)
  | fuel + 1, m =>
    if sweepWorks x m g none then (true, m)
    else
      match mendingLanes x m g with
      | [] => (false, m)
      | l =>
        match m.repair (l.getD (Config.pickOf l % l.length) 0) with
        | some m' => repairGroup x g fuel m'
        | none => (false, m)

/-- The centre of a run (R286). -/
def runCentre (r : Nat × Nat) : Nat := (r.1 + r.2) / 2

/-- The timing of a pseudo-channel at one rate; none when a group has no working setting, with the group. -/
def sweepTiming (x : PcSweep) (m : LaneMap) : Sum PcTiming Nat :=
  match (List.range 5).find? (fun g => !sweepWorks x m g none) with
  | some g => Sum.inr g
  | none =>
    let run (l : List (BitVec 128)) (g : Nat) := (workingRun l m g none).getD (0, 0)
    let rd := (List.range 5).map (run x.read)
    let wr := (List.range 5).map (run x.write)
    Sum.inl { rd := rd.map runCentre, wr := wr.map runCentre, narrow := (rd ++ wr).foldl (fun a r => min a (runWidth r)) 128 }

/-- The outcome of training a pseudo-channel: its timing sets, or the step and group of its retirement. -/
inductive Trained where
  | ok (sets : List PcTiming)
  | retire (step group : Nat)
deriving DecidableEq, Repr

/-- Repairs the groups in turn, the first that cannot be repaired retiring the pseudo-channel: the lane map, and that group. -/
def repairAll (x : PcSweep) : LaneMap × Option Nat :=
  (List.range 5).foldl (fun (a : LaneMap × Option Nat) g =>
    match a.2 with
    | some _ => a
    | none =>
      let r := repairGroup x g 2 a.1
      (r.2, if r.1 then none else some g)) ({ spare0 := none, spare1 := none }, none)

/-- Training steps 4 to 8 of one pseudo-channel from its sweeps at the three rates (R286, R287): its lane map, and its outcome. -/
def trainPc (sweeps : List PcSweep) : LaneMap × Trained :=
  let at' (i : Nat) := sweeps.getD i { read := [], write := [] }
  match repairAll (at' 0) with
  | (m, some g) => (m, .retire 7 g)
  | (m, none) =>
    match sweepTiming (at' 0) m, sweepTiming (at' 1) m, sweepTiming (at' 2) m with
    | Sum.inl a, Sum.inl b, Sum.inl c => (m, .ok [a, b, c])
    | Sum.inr g, _, _ => (m, .retire 7 g)
    | _, Sum.inr g, _ => (m, .retire 8 g)
    | _, _, Sum.inr g => (m, .retire 8 g)

/-- The word of four group centres. -/
def centreWord (l : List Nat) : Word :=
  BitVec.ofNat 32 ((List.range 4).foldl (fun a g => a + l.getD g 0 % 256 * 256 ^ g) 0)

/-- The lane map register (R302). -/
def LaneMap.word (m : LaneMap) : Word :=
  BitVec.ofNat 32 ((b2n m.spare0.isSome + b2n m.spare1.isSome) * 65536 + m.spare1.getD 0x3F * 256 + m.spare0.getD 0x3F)

/-- The lane map that the register holds. -/
def LaneMap.ofWord (v : Word) : LaneMap :=
  let n := fieldOf v 16 2
  { spare0 := if 1 ≤ n then some (fieldOf v 0 6) else none, spare1 := if 2 ≤ n then some (fieldOf v 8 6) else none }

/-- Shows a timing in the centre and eye registers of a pseudo-channel (R302). -/
def State.showTiming (s : State) (p : Nat) (t : PcTiming) : State :=
  s.setRegs [(Reg.MEM_PC_RD_CENTRE p, centreWord t.rd), (Reg.MEM_PC_WR_CENTRE p, centreWord t.wr),
    (Reg.MEM_PC_EYE_MIN p, BitVec.ofNat 32 (t.rd.getD 4 0 % 256 * 65536 + t.wr.getD 4 0 % 256 * 256 + t.narrow % 256))]

/-- The timing of a pseudo-channel at the point in effect. -/
def State.timingNow (s : State) (p : Nat) : PcTiming :=
  (sparseGet (fun _ => []) s.mem.timing p).getD (s.getF F.MEM_STATUS_POINT_IN_EFFECT) { rd := [], wr := [], narrow := 0 }

/-- Changes the timing of a pseudo-channel at the point in effect. -/
def State.setTiming (s : State) (p : Nat) (t : PcTiming) : State :=
  let l := (sparseGet (fun _ => []) s.mem.timing p).set (s.getF F.MEM_STATUS_POINT_IN_EFFECT) t
  ({ s with mem := { s.mem with timing := sparseSet (fun _ => []) s.mem.timing p l } } : State).showTiming p t

end Sys2Proof.Machine
end

