-- ==== Sys2Proof/Machine/Mem.lean ====
section
/-! DEFINITION. The HBM controller: freezes, release, retirement, frequency points, tracking and the debug window
(spec/11_memory_and_shuttle.md R279 to R302, spec/17_faults_and_ordering.md R424 to R429). -/

namespace Sys2Proof.Machine

/-- A pseudo-channel is retired (R287, R290): it leaves service, with the RETIRE record. -/
def State.retireState (s : State) (p step group : Nat) : State :=
  let s := ((s.setF (F.MEM_PC_STATE_STATE p) 4).hwSet F.MEM_EVENTS_RETIRE).hwSet F.FLT_CLASS_HBM_RETIRE
  (s.setPool p []).makeRecord 7 1 [BitVec.ofNat 8 p, BitVec.ofNat 8 step, BitVec.ofNat 8 group]

/-- Pseudo-channels retired. -/
def State.retiredCount (s : State) : Nat := ((List.range 64).filter (fun p => s.pcState p == 4)).length

/-- HBM_TRAINING_DONE: steps 1 to 8 for both stacks (R286, R287). -/
def execHbmTrainingDone (results : Training) (s : State) : Result :=
  .next (
    if s.cur != .reset || s.board.perst || s.board.trained then s
    else
      let s := (List.range 64).foldl (fun s p =>
        let x := trainPc (results.getD p [])
        let s := s.setReg (Reg.MEM_PC_LANEMAP p) x.1.word
        match x.2 with
        | .retire step group => s.retireState p step group
        | .ok sets =>
          let s : State := { s with mem := { s.mem with timing := sparseSet (fun _ => []) s.mem.timing p sets } }
          (s.setF (F.MEM_PC_STATE_STATE p) 1).showTiming p (s.timingNow p)) s
      { s with board := { s.board with trained := true }
               mem := { s.mem with blocks := [], era := s.mem.era + 1 } })

/-- The address word of an error (R302). -/
def hbmAddrWord (e : HbmError) : Word :=
  BitVec.ofNat 32 (e.bank % 64 * 2 ^ 24 + e.row % 2 ^ 14 * 2 ^ 10 + e.col % 32 * 2 ^ 5)

/-- The information word of an error with `queued` transactions in the pool (R302). -/
def hbmInfoWord (e : HbmError) (queued : Nat) : Word :=
  BitVec.ofNat 32 (e.cause % 16 * 2 ^ 28 + e.requester % 16 * 2 ^ 24 + e.syndrome.toNat * 2 ^ 16 + min 255 queued * 2 ^ 8)

/-- Latches an error in the registers of a pseudo-channel (R289, R290). -/
def State.latchError (s : State) (p : Nat) (e : HbmError) : State :=
  s.setRegs [(Reg.MEM_PC_ERR_ADDR p, hbmAddrWord e), (Reg.MEM_PC_ERR_INFO p, hbmInfoWord e (s.pool p).length),
    (Reg.MEM_PC_ERR_DATA_LO p, e.raw.truncate 32), (Reg.MEM_PC_ERR_DATA_HI p, (e.raw >>> 32).truncate 32)]

/-- Whether a record has a chunk or its slot in a pseudo-channel. -/
def State.recIn (s : State) (r : Record) (p : Nat) : Bool :=
  (s.recPcs r).contains p || (match r.slot with
    | some i => i % 64 == p
    | none => false)

/-- Whether a record is still to become VISIBLE, or a gap, at some consumer. -/
def Record.unseen (r : Record) : Bool :=
  (r.host.wanted && !r.host.visible && r.host.gap.isNone) || (r.stream.wanted && !r.stream.visible && r.stream.gap.isNone)

/-- The records held in a pseudo-channel (R247, R428), oldest first. -/
def State.heldIn (s : State) (p : Nat) : List Record :=
  s.seg.recs.filter (fun r => s.recIn r p && (r.unseen || (!r.host.wanted && !r.stream.wanted && r.state != .handed)))

/-- Chunks moved to one member: as many as it has unreserved. -/
def State.moveTo (s : State) (c q left : Nat) : Nat × State :=
  let n := min left (s.pcFree q)
  let k := s.keepOf c
  (left - n, s.setKeep c { k with resv := sparseSet (fun _ => 0) k.resv q (sparseGet (fun _ => 0) k.resv q + n) })

/-- Context c loses a member of its stripe set: the member's unused reservation moves to the other members, and what they
lack shortens the quota (R247). -/
def State.loseMember (s : State) (p c : Nat) : State :=
  let k := s.keepOf c
  if !k.stripe.contains p then s
  else
    let used := s.retainedIn c p
    let left := sparseGet (fun _ => 0) k.resv p - used
    let others := k.stripe.filter (· != p)
    let turn := if k.stripe.length = 0 then 0 else k.rot % k.stripe.length
    let before := ((k.stripe.take turn).filter (· != p)).length
    let s := s.setKeep c { k with stripe := others, rot := before, resv := sparseSet (fun _ => 0) k.resv p used }
    let (short, s) := others.foldl (fun (a : Nat × State) q => a.2.moveTo c q a.1) (left, s)
    if short = 0 then s
    else
      let s := (s.setKeep c { s.keepOf c with short := (s.keepOf c).short + short }).hwSet F.SEG_EVENTS_RESERVE_SHORT
      s.mapRecs (fun r => r.ctx == c && r.kind == .segment && r.state == .opened)
        (fun r => { r with flags := r.flags ||| 2 ^ 14 })

/-- The jobs that a freeze of a pseudo-channel touches (R277): those with spill area there start again; result buffers not
yet in a report move. -/
def State.freezeJobs (s : State) (p : Nat) : State :=
  (s.beam.jobs.map (·.1)).foldl (fun s j =>
    let x := s.job j
    let bufs := x.bufPcs.filter (· != p)
    let spill := x.spillPcs.filter (· != p)
    let moved := s.movedResv x.resv p bufs
    let s := if x.bufPcs.contains p then s.editJob j (fun x => { x with bufPcs := bufs }) else s
    if x.spilled && x.spillPcs.contains p then s.degradeJob j spill moved
    else if x.bufPcs.contains p then s.editJob j (fun y => { y with resv := moved.getD (sparseSet (fun _ => 0) x.resv p 0) })
    else s) s

/-- Ends a change of point before its self-refresh, or one that waits (R293). The freeze report of an error comes before a GO of the
same clock, which is refused (R295). -/
def State.abortChange (s : State) (freeze : Bool) : State :=
  let sameClock (n : Nat) : Bool := freeze && n == s.time.clk
  let report (s : State) (same : Bool) : State :=
    if same then s.hwSet F.MEM_EVENTS_FREQ_REFUSED else s.hwSet F.MEM_EVENTS_FREQ_ABORTED
  match s.mem.change, s.mem.deferred with
  | some c, _ =>
    if s.time.clk < c.start + 1251 then
      let s := report (s.setBit F.MEM_STATUS_CHANGING false) (sameClock c.goAt)
      { s with mem := { s.mem with change := none } }
    else s
  | none, some (_, go) =>
    let s := report (s.setBit F.MEM_STATUS_DEFERRED false) (sameClock go)
    { s with mem := { s.mem with deferred := none } }
  | none, none => s

/-- The chunks that open segments had placed when a freeze was reported. -/
def State.placeIssued (s : State) (issued : List (Nat × Nat)) : State :=
  issued.foldl (fun s q =>
    match s.openRec q.1 with
    | some r => s.placeChunks r.ctx r.start (min (r.start + r.bytes) ((r.start / 2048 + q.2) * 2048))
    | none => s) s

/-- The freeze of a pseudo-channel (R247, R277, R289, R293, R424). -/
def State.freeze (s : State) (p : Nat) (e : HbmError) (issued : List (Nat × Nat)) : State :=
  let s := ((s.placeIssued issued).setF (F.MEM_PC_STATE_STATE p) 2).latchError p e
  let s := ((s.rclAdd (Reg.MEM_PC_UE_COUNT p) 1).hwSet F.MEM_EVENTS_FREEZE).hwSet F.FLT_CLASS_HBM_FREEZE
  let s : State := { s with mem := { s.mem with reread := sparseSet (fun _ => []) s.mem.reread p [] } }
  let s := s.makeRecord 7 3 ([BitVec.ofNat 8 p, BitVec.ofNat 8 e.cause, BitVec.ofNat 8 e.requester] ++
    leBytes 4 (hbmAddrWord e).toNat)
  let s := (s.seg.keep.map (·.1)).foldl (fun s c => s.loseMember p c) s
  ((s.freezeJobs p).abortChange true).judgeAll

/-- What a pseudo-channel's return to service or retirement frees (R427). -/
def State.freeRegion (s : State) (p : Nat) : State :=
  let s : State := { s with seg := { s.seg with deadSlots := s.seg.deadSlots.filter (fun i => i % 64 != p) } }
  ((s.seg.keep.map (·.1)).foldl State.gcChunks s).serveMarkers

/-- The retirement of a frozen pseudo-channel (R290, R417): held records become HBM_RETIRED gaps; too many retirements are
fatal. -/
def State.retirePc (s : State) (p step group : Nat) : State :=
  let held := s.heldIn p
  let s := s.retireState p step group
  let s := ((s.gapAll held .hbmRetired).freeRegion p).judgeAll
  if 8 < s.retiredCount && s.operational then s.fatal 4 0 else s

/-- A write of PCp_CTRL to a frozen pseudo-channel (R290). A retirement is made at the end of the clock, after the expiries of
FREEZE_TIMEOUT in it (R429); RELEASE with it, or a write behind it, changes nothing more. -/
def State.frozenCtrl (s : State) (p : Nat) (v : Word) : State :=
  if s.mem.retireReq.contains p then s
  else if v.getLsbD 1 then { s with mem := { s.mem with retireReq := s.mem.retireReq ++ [p] } }
  else if v.getLsbD 0 then
    let s := s.setF (F.MEM_PC_STATE_STATE p) 3
    { s with mem := { s.mem with released := sparseSet (fun _ => none) s.mem.released p (some s.time.clk) } }
  else s

/-- A write of PCp_CTRL (R290). One to a pseudo-channel that is not frozen waits for the end of the clock, since an error in that
clock comes before it (R295). -/
def State.pcCtrl (s : State) (p : Nat) (v : Word) : State :=
  if s.pcState p == 2 then s.frozenCtrl p v
  else { s with mem := { s.mem with ctrlReq := s.mem.ctrlReq ++ [(p, v)] } }

/-- The writes of PCp_CTRL that waited act on a pseudo-channel that froze in their clock (R295). -/
def State.lateCtrl (s : State) (p : Nat) : State :=
  let mine := s.mem.ctrlReq.filter (fun q => q.1 == p)
  let s : State := { s with mem := { s.mem with ctrlReq := s.mem.ctrlReq.filter (fun q => q.1 != p) } }
  mine.foldl (fun s q => if s.pcState p == 2 then s.frozenCtrl p q.2 else s.pcCtrl p q.2) s

/-- Those at a pseudo-channel that did not freeze are ignored (R290). -/
def State.ctrlSettle (s : State) : State :=
  let l := s.mem.ctrlReq
  let s : State := { s with mem := { s.mem with ctrlReq := [] } }
  l.foldl (fun s _ => s.hwSet F.MEM_EVENTS_CTRL_IGNORED) s

/-- HBM_FREEZE: an uncorrectable or command error (R285, R289). In a pseudo-channel already frozen, or released in this very
clock (R295), the new cause is latched; an uncorrectable error in SELFTEST retires (R286 step 9). `issued` tells the ring chunks of
open segments that were written or queued. -/
def execHbmFreeze (p : Fin 64) (err : HbmError) (issued : List (Nat × Nat)) (s : State) : Result :=
  .next (
    if s.cur == .selftest && err.cause == 1 && s.pcState p == 1 then s.retireState p 9 0
    else if !(s.operational || s.cur == .selftest) then s
    else
      match s.pcState p with
      | 1 => (s.freeze p err issued).lateCtrl p
      | 2 => s.latchError p err
      | 3 =>
        if sparseGet (fun _ => none) s.mem.released p = some s.time.clk then s.latchError p err
        else (s.freeze p err issued).lateCtrl p
      | _ => s)

/-- HBM_CORRECTED (R285). -/
def execHbmCorrected (p : Fin 64) (s : State) : Result :=
  .next (if (s.operational || s.cur == .selftest) && (s.pcState p == 1 || s.pcState p == 3) then
    (s.rclAdd (Reg.MEM_PC_CE_COUNT p) 1).rclAdd Reg.MEM_CE_TOTAL 1 else s)

/-- RELEASE (R290). -/
def execRelease (p : Fin 64) (s : State) : Result :=
  .next (s.hostWrite (Reg.MEM_PC_CTRL p) 1 (fun s => s.pcCtrl p 1))

/-- RETIRE (R290). -/
def execRetire (p : Fin 64) (s : State) : Result :=
  .next (s.hostWrite (Reg.MEM_PC_CTRL p) 2 (fun s => s.pcCtrl p 2))

/-- Whether the freeze followed a command error (R285). -/
def State.commandFreeze (s : State) (p : Nat) : Bool := s.getF (F.MEM_PC_ERR_INFO_CAUSE p) != 1

/-- A RELEASE ends, steps 4 to 6 having run at the point in effect (R290): a group without a working setting retires the
pseudo-channel; otherwise it returns to service with its queued transactions, and after a command error its held records become
gaps. -/
def State.releaseEnds (s : State) (p : Nat) (sweep : PcSweep) : State :=
  match sweepTiming sweep (LaneMap.ofWord (s.reg (Reg.MEM_PC_LANEMAP p))) with
  | .inr g => s.retirePc p 6 g
  | .inl t =>
    let held := s.heldIn p
    let s := (s.setTiming p t).setF (F.MEM_PC_STATE_STATE p) 1
    let s : State := { s with mem := { s.mem with
      reread := sparseSet (fun _ => []) s.mem.reread p (if s.commandFreeze p then [] else held.map (fun r => (r.ctx, r.cseq))) } }
    let s := if s.commandFreeze p then s.gapAll held .hbmUnreadable else s
    (s.freeRegion p).judgeAll

/-- RELEASE_DONE: the sweeps of steps 4 to 6 are done (R290). -/
def execReleaseDone (p : Fin 64) (sweep : PcSweep) (s : State) : Result :=
  .next (if s.pcState p != 3 then s
    else { s with mem := { s.mem with doneReq := s.mem.doneReq ++ [(p.val, sweep)] } })

/-- The freezes that end in a clock, after the expiries of FREEZE_TIMEOUT in it (R429). -/
def State.freezesEnd (s : State) : State :=
  let s := s.ctrlSettle
  let retire := s.mem.retireReq
  let done := s.mem.doneReq
  let s : State := { s with mem := { s.mem with retireReq := [], doneReq := [] } }
  let s := retire.foldl (fun s p => s.retirePc p 0 0) s
  done.foldl (fun s q => if s.pcState q.1 == 3 then s.releaseEnds q.1 q.2 else s) s

/-- HBM_UNREADABLE: a re-read of a record that was held at the freeze fails (R290), which aborts a change that has not begun its
self-refresh (R293). -/
def execHbmUnreadable (p : Fin 64) (c : Fin 1024) (cseq : Nat) (err : HbmError) (s : State) : Result :=
  .next (
    let l := sparseGet (fun _ => []) s.mem.reread p
    if s.pcState p != 1 || !l.contains (c.val, cseq) then s
    else
      let s := (s.latchError p err).rclAdd (Reg.MEM_PC_UE_COUNT p) 1
      let s : State := { s with mem := { s.mem with
        reread := sparseSet (fun _ => []) s.mem.reread p (l.filter (· != (c.val, cseq))) } }
      let s := if s.mem.change.isSome then s.abortChange false else s
      match (s.recsOf c).find? (fun r => r.cseq == cseq) with
      | some r => s.gapRecord r .hbmUnreadable true true
      | none => s)

/-- A change of frequency point begins (R292). -/
def State.startChange (s : State) (point goAt : Nat) : State :=
  let s := (s.setBit F.MEM_STATUS_CHANGING true).setBit F.MEM_STATUS_DEFERRED false
  { s with mem := { s.mem with change := some { point := point, start := s.time.clk, goAt := goAt, opened := false }, deferred := none } }

/-- A request that waits for a tracking pass (R293). -/
def State.deferChange (s : State) (point goAt : Nat) : State :=
  let s := (s.setBit F.MEM_STATUS_DEFERRED true).hwSet F.MEM_EVENTS_FREQ_DEFERRED
  { s with mem := { s.mem with change := none, deferred := some (point, goAt) } }

/-- Whether a GO is accepted (R291). POINT 3 names no point and is refused. -/
def State.freqOpen (s : State) : Bool :=
  s.lives.isEmpty && (List.range 64).all (fun p => !s.pcFrozen p) && s.mem.change.isNone && s.mem.deferred.isNone &&
    s.getF F.MEM_FREQ_POINT != 3

/-- A write of MEM.FREQ (R291, R293). -/
def State.freqWrite (s : State) (v : Word) : State :=
  let s := s.setF F.MEM_FREQ_POINT (fieldOf v 0 2)
  if !v.getLsbD 31 then s
  else if !s.freqOpen then s.hwSet F.MEM_EVENTS_FREQ_REFUSED
  else if s.mem.track.isSome then s.deferChange (fieldOf v 0 2) s.time.clk
  else s.startChange (fieldOf v 0 2) s.time.clk

/-- FREQ_GO (R291). -/
def execFreqGo (v : Word) (s : State) : Result :=
  .next (s.hostWrite Reg.MEM_FREQ v (fun s => s.freqWrite v))

/-- The centre of a group after a tracking re-sweep over 8 steps to either side (R288), moved by at most 4 steps, and
whether the run is narrower than 16 steps. -/
def trackCentre (old : Nat) (map : BitVec 17) : Nat × Bool :=
  match longestRun 17 (fun i => map.getLsbD i) with
  | none => (old, true)
  | some r => ((clampInt 0 127 ((old : Int) + clampInt (-4) 4 ((runCentre r : Int) - 8))).toNat, decide (runWidth r < 16))

/-- The re-sweep of one pseudo-channel in service (R288). -/
def State.resweep (s : State) (p : Nat) (maps : List (BitVec 17)) : State :=
  if !s.pcInService p then s
  else
    let t := s.timingNow p
    let got := (List.zip (List.range 5) t.rd).map (fun q => trackCentre q.2 (maps.getD q.1 0))
    let s := s.setTiming p { t with rd := got.map (·.1) }
    if got.any (·.2) then (s.hwSet F.MEM_EVENTS_TRACK_WARN).makeRecord 7 2 [] else s

/-- The first n re-sweeps of a pass are done, those before them included. -/
def State.resweepTo (s : State) (t : TrackPass) (n : Nat) : State :=
  let s := ((t.turn.take n).drop t.done).foldl (fun s p => s.resweep p (t.maps.getD p [])) s
  { s with mem := { s.mem with track := some { t with done := max t.done n } } }

/-- The tracking pass in progress ends (R288): its last re-sweeps are done. -/
def State.endTracking (s : State) : State :=
  let s := match s.mem.track with
    | some t => s.resweepTo t t.turn.length
    | none => s
  let s := s.setBit F.MEM_STATUS_TRAINING false
  { s with mem := { s.mem with track := none } }

/-- A tracking pass in one fabric clock: the re-sweeps that end before it are done, and with the last clock the pass ends. -/
def State.trackTick (s : State) : State :=
  match s.mem.track with
  | some t =>
    if t.start + t.clocks ≤ s.time.clk then s.endTracking
    else s.resweepTo t ((s.time.clk - t.start) * t.turn.length / max 1 t.clocks)
  | none => s

/-- FREQ_DEFERRED_START: the clock after the pass completes (R293). -/
def execFreqDeferredStart (s : State) : Result :=
  .next (match s.mem.deferred with
    | some (point, go) => s.endTracking.startChange point go
    | none => s)

/-- Whether the MPLL's outputs run: it is in no phase of a relock. -/
def State.mpllRuns (s : State) : Bool :=
  !(s.pllState .mpll == pllSearch || s.pllState .mpll == pllLocking || s.pllState .mpll == pllSettle)

/-- The read centres of a re-centre at the point now in effect (R292); a group without a working run keeps its centre. -/
def State.recentre (s : State) (p : Nat) (sweep : List (BitVec 128)) : State :=
  if s.pcState p != 1 then s
  else
    let m := LaneMap.ofWord (s.reg (Reg.MEM_PC_LANEMAP p))
    let t := s.timingNow p
    s.setTiming p { t with rd := (List.zip (List.range 5) t.rd).map (fun q =>
      match workingRun sweep m q.1 none with
      | some r => runCentre r
      | none => q.2) }

/-- The memory clocks open at the new point (R292): the shadow timing set of the point is loaded, and self-refresh ends. -/
def State.memClocksOpen (s : State) (c : FreqChange) : State :=
  if c.opened then s
  else
    let s := s.setF F.MEM_STATUS_POINT_IN_EFFECT c.point
    let s : State := { s with mem := { s.mem with change := some { c with opened := true } } }
    (List.range 64).foldl (fun s p =>
      (s.setBit (F.MEM_PC_STATE_SELF_REFRESH p) false).showTiming p (s.timingNow p)) s

/-- FREQ_DONE: grants resume at the new point (R292), once the MPLL runs. -/
def execFreqDone (sweeps : List (List (BitVec 128))) (s : State) : Result :=
  .next (match s.mem.change with
    | none => s
    | some c =>
      if !s.mpllRuns then s
      else
        let s := s.memClocksOpen c
        let s := (s.setBit F.MEM_STATUS_CHANGING false).hwSet F.MEM_EVENTS_FREQ_DONE
        let s : State := { s with mem := { s.mem with change := none } }
        (List.range 64).foldl (fun s p => s.recentre p (sweeps.getD p [])) s)

/-- Self-refresh entry and the MPLL's reload, 1,251 clocks after the start of a change, by when what was in flight is complete; the
memory clocks open in the clock in which the MPLL runs again (R292). -/
def State.changeTick (s : State) : State :=
  match s.mem.change with
  | some c =>
    if s.time.clk = c.start + 626 then ((List.range 64).filter s.pcInService).foldl State.drainPool s
    else if s.time.clk = c.start + 1251 then
      let s := (List.range 64).foldl (fun s p =>
        if s.pcState p == 0 || s.pcState p == 4 then s else s.setBit (F.MEM_PC_STATE_SELF_REFRESH p) true) s
      (s.setF (F.CLK_PLL_STATUS_ENTRY 2) c.point).setPll .mpll pllLocking
    else if c.start + 1251 < s.time.clk && s.mpllRuns then s.memClocksOpen c
    else s
  | none => s

/-- TRACK_PASS: a pass begins in which every pseudo-channel in service re-sweeps in turn (R288); one at a time. `maps` are the
settings that will pass, by pseudo-channel and group; the pass lasts `clocks` fabric clocks. A GO of its first clock is deferred
(R295). -/
def execTrackPass (maps : List (List (BitVec 17))) (clocks : Nat) (s : State) : Result :=
  .next (
    let begun : Option FreqChange := s.mem.change
    let same := match begun with
      | some c => c.start == s.time.clk
      | none => false
    if !s.operational || s.mem.track.isSome || s.getF ⟨Reg.MEM_TRACK_PERIOD, 0, 16⟩ == 0 || (begun.isSome && !same) then s
    else
      let s := match begun with
        | some c => (s.setBit F.MEM_STATUS_CHANGING false).deferChange c.point c.goAt
        | none => s
      let s := s.setBit F.MEM_STATUS_TRAINING true
      let t : TrackPass :=
        { start := s.time.clk, clocks := clocks, maps := maps, turn := (List.range 64).filter s.pcInService, done := 0 }
      { s with mem := { s.mem with track := some t } })

/-- What the memory system does in one fabric clock. -/
def State.memTick (s : State) : State :=
  s.trackTick.changeTick.poolsTick.shuttleTick

/-- The pseudo-channel that a BAR2 address names (R294). -/
def State.bar2Pc (s : State) (addr : Nat) : Nat :=
  let g := s.getF ⟨Reg.MEM_DBG_BASE, 0, 4⟩ * 2 ^ 32 + addr
  32 * (g / 25769803776) + g % 25769803776 / 805306368

/-- The local byte address that a BAR2 address names in its pseudo-channel (R294). -/
def State.bar2Local (s : State) (addr : Nat) : Nat :=
  (s.getF ⟨Reg.MEM_DBG_BASE, 0, 4⟩ * 2 ^ 32 + addr) % 805306368

/-- BAR2_READ (R294): all-ones above the stacks; void, with DBG_VOID, in a frozen, retired or changing pseudo-channel; else the
word that the stack holds there, read through the host-window requester. -/
def execBar2Read (addr : BitVec 32) (s : State) : Result :=
  .next (
    if !s.hostReaches then s
    else if 12 ≤ s.getF ⟨Reg.MEM_DBG_BASE, 0, 4⟩ then s.send (.bar2Data addr.toNat 0xFFFFFFFF)
    else
      let p := s.bar2Pc addr.toNat
      if s.pcState p == 2 || s.pcState p == 4 || s.bit F.MEM_STATUS_CHANGING then
        (s.hwSet F.MEM_EVENTS_DBG_VOID).send (.bar2Data addr.toNat 0xFFFFFFFF)
      else
        let a := s.bar2Local addr.toNat
        (s.send (.bar2Data addr.toNat (s.hbmWordAt p a))).offer 11
          { pc := p, write := false, addr := a / 64 * 64, bytes := 64, data := [] })

/-- BAR2_WRITE (R294). -/
def execBar2Write (s : State) : Result :=
  .next (if s.hostReaches then s.hwSet F.FLT_HOST_BAR2_WRITE else s)

end Sys2Proof.Machine
end

