-- ==== Sys2Proof/Machine/Power.lean ====
section
/-! DEFINITION. Power, resets and self-test (spec/01_engine_architecture.md R31 to R36,
spec/15_startup_and_black_box.md R361 to R371). -/

namespace Sys2Proof.Machine

/-! ### Power -/

/-- The values that the control page holds at an entry to AON_UP, and the count one further (R364). A cold entry resumes the operating
time (R365) and the states of the copies. A page that cannot be read leaves the count and the time open, and its copies are
tested as FAILED ones (DESIGN CHOICE, log 151). -/
def State.readPage (s : State) (cold : Bool) (page : Option Page) : State :=
  let (pcc, hours, secs, a, b) := match page with
    | some p => (p.pcc, BitVec.ofNat 32 p.hours, p.secs, p.stateA, p.stateB)
    | none => ((Config.freeWord s.time.free).toNat, Config.freeWord (s.time.free + 1),
        (Config.freeWord (s.time.free + 2)).toNat % 3600, 1, 1)
  let s := s.setReg Reg.BBX_PCC (BitVec.ofNat 32 (satTo (2 ^ 32 - 1) (pcc + 1)))
  let s := if cold then
      (((s.setReg Reg.BBX_HOURS hours).setReg Reg.BBX_SECS (BitVec.ofNat 32 secs)).setF F.BBX_STATUS_COPY_A a).setF
        F.BBX_STATUS_COPY_B b
    else s
  ((s.nextFree).nextFree).nextFree

/-- Whether a copy was FAILED when power was lost. -/
def State.copyFailed (s : State) : Bool := !s.copyInService false || !s.copyInService true

/-- RSEQ after a power-up: the number that follows the highest committed one, 2^32 further on when numbers may have been
used that no copy shows (R375). -/
def State.resumeRseq (s : State) (skip : Bool) : State :=
  s.set64 Reg.BBX_NEXT_LO (s.bbx.nextCommitted + (if skip then 2 ^ 32 else 0))

/-- The POWER_UP record (R373, R377). -/
def State.powerUpRecord (s : State) (outcome : Nat) : State :=
  s.pushRecord (s.newRecord 1 1 (if outcome = 1 then 2#8 else 0#8)
    (leBytes 4 (s.reg Reg.BBX_PCC).toNat ++ leBytes 6 s.nextRseq ++ leBytes 1 outcome))

/-- The black box at an entry to AON_UP: the page, the journals, RSEQ, the tests of FAILED copies, the POWER_UP record and the HOLE of
skipped numbers (R32, R364, R365, R375, R377, R379). -/
def State.aonRecords (s : State) (cold : Bool) (bad : Bool × Bool) (passA passB : Bool) : State :=
  let s : State := { s with bbx := s.bbx.damage bad.1 bad.2 }
  let page := s.bbx.page
  let s := (s.readPage cold page).savePage
  let skip := cold && (s.copyFailed || page.isNone)
  let (outcome, s) := s.examineJournals (page.bind (·.journalA)) (page.bind (·.journalB))
  let s := s.retry passA passB
  if cold then
    let first := s.bbx.nextCommitted
    let s := ((s.resumeRseq skip).set64 Reg.BBX_OLDEST_LO s.bbx.oldest).powerUpRecord outcome
    if skip then s.holeRecord first (first + 2 ^ 32 - 1) 2 else s
  else s.powerUpRecord outcome

/-- AON_VALID (R31, R32). `pageRead` tells whether the control page can be read, `bad` which of its copies are damaged, `passA` and
`passB` whether a FAILED copy passes its test. -/
def execAonValid (i2cAddr : BitVec 3) (pageRead passA passB : Bool) (s : State) (bad : Bool × Bool := (false, false)) :
    Result :=
  .next (
    if s.cur != .off then s
    else (s.enterAonUp 0x0F i2cAddr).aonRecords true (bad.1 || !pageRead, bad.2 || !pageRead) passA passB)

/-- A journal of the control page is written (R376). -/
def State.putJournal (s : State) (b : Bool) (r : BbxRecord) (whole : Bool) : State :=
  let j : Option Journal := some { entry := r, whole := whole }
  { s with bbx := s.bbx.editPage (fun p => if b then { p with journalB := j } else { p with journalA := j }) }

/-- A commit that the loss of VDD_AON finds under way (R363, R376, R377): what it leaves in the journals. -/
def State.cutCommit (s : State) (cut : CommitCut) : State :=
  match s.bbx.ring with
  | [] => s
  | (r, _) :: _ =>
    if s.bbxLost || s.snapBlocks then s
    else
      let inA := if s.copyInService false then { s with bbx := s.bbx.setCopy false (bbxSlot r.rseq) (some r) } else s
      match cut with
      | .noCommit => s
      | .finished => s.commitHead true true
      | .journalAPart => s.putJournal false r false
      | .journalAWhole => s.putJournal false r true
      | .copyADone => inA
      | .journalBPart => inA.putJournal true r false
      | .journalBWhole => inA.putJournal true r true

/-- VDD_AON is lost: OFF (R31). -/
def State.aonLost (s : State) (cut : CommitCut) : State := if s.cur == .off then s else (s.cutCommit cut).enterOff

/-- AON_LOSS (R31, R363). -/
def execAonLoss (cut : CommitCut) (s : State) : Result := .next (s.aonLost cut)

/-- The RAIL_LOSS record (R373). -/
def State.railRecord (s : State) (step left : Nat) : State := s.makeRecord 1 2 [BitVec.ofNat 8 step, BitVec.ofNat 8 left]

/-- A second rail lost in the clock of the first: the record names the lowest step (R35). -/
def State.lowerRail (s : State) (step : Nat) : State :=
  let fix (r : BbxRecord) : BbxRecord :=
    { r with payload := leBytes 1 (min step (fieldLe r.payload 0 1)) ++ r.payload.drop 1 }
  { s with bbx := { s.bbx with ring := s.bbx.ring.map (fun p =>
      if p.1.source == 1 && p.1.code == 2 && p.2 == s.time.clk then (fix p.1, p.2) else p) } }

/-- RAIL_LOSS (R31, R363): the first loss enters AON_UP; the loss of VDD_AON is AON_LOSS. The record names the state that DEV.STATE
shows as left (R35); `bad` tells which copies of the control page are damaged. -/
def execRailLoss (rail : Rail) (i2cAddr : BitVec 3) (passA passB : Bool) (s : State) (bad : Bool × Bool := (false, false)) :
    Result :=
  .next (
    if rail = .vddAon then s.aonLost .noCommit
    else
      match s.cur with
      | .off => s
      | .aonUp => if s.rankNow = 2 then s.lowerRail rail.step else s
      | _ =>
        let t := s.enterAonUp 0x10 i2cAddr
        (t.railRecord rail.step (t.getF F.DEV_STATE_PREV)).aonRecords false bad passA passB)

/-- SEQ_VIOLATION (R362). -/
def execSeqViolation (rail before : Rail) (s : State) : Result :=
  .next (
    if s.cur != .aonUp then s
    else
      let s := s.makeRecord 1 3 [BitVec.ofNat 8 rail.step, BitVec.ofNat 8 before.step]
      { s with board := { s.board with seqViolation := some (s.board.seqViolation.getD (rail, before)) } })

/-- RAIL_SEQUENCE_COMPLETE (R31, R362). -/
def execRailSequenceComplete (straps : Straps) (ref : RefClass) (s : State) : Result :=
  .next (if s.cur != .aonUp then s else s.enterReset 1 true straps ref .flash)

/-! ### Resets -/

/-- Whether a reset can be taken (R31). -/
def State.resettable (s : State) : Bool := s.cur != .off && s.cur != .aonUp

/-- The cause of a reset of this clock becomes PERST (R35, R455). -/
def State.nowPerst (s : State) : State :=
  let fix (r : BbxRecord) : BbxRecord := { r with payload := r.payload.take 2 ++ [2] }
  let s : State := { s with bbx := { s.bbx with ring := s.bbx.ring.map (fun p =>
    if p.1.source == 2 && p.1.code == 1 && p.2 == s.time.clk then (fix p.1, p.2) else p) } }
  s.setF F.DEV_STATE_ENTRY_CAUSE 2

/-- A PERST_N or maintenance-port reset: one in a clock (R31, R35, R54). -/
def State.resetBy (s : State) (cause : Nat) (straps : Straps) (ref : RefClass) : State :=
  if !s.resettable then s
  else if s.rankNow = 3 then (if cause = 2 then s.nowPerst else s)
  else s.enterReset cause true straps ref .flash

/-- PERST_ASSERT (R54): PERST_N also takes the PCIe link down. -/
def execPerstAssert (straps : Straps) (ref : RefClass) (s : State) : Result :=
  let s : State := { s with board := { s.board with perst := true, pcieUp := false, pcie := PcieConfig.init, aer := 0, d3hot := false } }
  .next (s.resetBy 2 straps ref)

/-- PERST_RELEASE (R54): the load and the training begin. -/
def execPerstRelease (s : State) : Result :=
  .next { s with board := { s.board with perst := false } }

/-- LOADED: RESET ends (R31). TEST holds its values until now (R384). -/
def execLoaded (s : State) : Result :=
  .next (
    if s.cur != .reset || s.board.perst || s.board.load.isSome || !s.bit F.DRAFT_STATUS_LOADED || !s.board.trained ||
        !s.pllsSettled then s
    else
      let s := (s.enter .selftest 0x0E).setF F.DEV_STATE_SELFTEST_FAIL 0
      s.setRegs ([(Reg.TEST_RESULT, 0), (Reg.TEST_DURATION, 0)] ++
        (List.range 10).map (fun i => (Reg.TEST_DETAIL i, 0))))

/-! ### Self-test -/

/-- What each item of self-test found: its code and its DETAIL when it failed (R366). -/
def State.selftestFails (s : State) (r : SelftestResults) : List (Nat × Nat) :=
  let item (code : Nat) (d : Option Word) : List (Nat × Nat) := match d with
    | some w => [(code, w.toNat)]
    | none => []
  let pll := s.pllFails ||| r.pllLost.toNat
  let power : Option Word := match s.board.seqViolation with
    | some (early, late) => some (BitVec.ofNat 32 (early.step + 16 * late.step))
    | none => r.railOut.map (fun x => BitVec.ofNat 32 x.step)
  item 1 r.draft ++ item 2 r.fuse ++
    (if s.bbxLost then [(3, s.getF F.BBX_STATUS_COPY_A + 4 * s.getF F.BBX_STATUS_COPY_B)] else []) ++
    (if pll = 0 then [] else [(4, pll)]) ++ item 5 r.mbist ++
    (if 8 < s.retiredCount then [(6, s.retiredCount)] else []) ++ item 7 r.converter ++ item 8 r.serdes ++ item 9 power

/-- Step 9 of training retires pseudo-channels (R286, R287). -/
def State.selftestRetire (s : State) (r : SelftestResults) : State :=
  r.hbmRetire.foldl (fun s p => if s.pcState p == 4 then s else s.retireState p 9 0) s

/-- The registers of TEST and the RESULT record (R366, R373, R384). -/
def State.postResult (s : State) (fails : List (Nat × Nat)) (ms : BitVec 12) : State :=
  let word := fails.foldl (fun a f => a ||| 2 ^ f.1) (2 ^ 31)
  let s := s.setRegs ([(Reg.TEST_RESULT, BitVec.ofNat 32 word), (Reg.TEST_DURATION, ms.zeroExtend 32)] ++
    fails.map (fun f => (Reg.TEST_DETAIL (f.1 - 1), BitVec.ofNat 32 f.2)))
  let first := fails.headD (0, 0)
  (s.setF F.DEV_STATE_SELFTEST_FAIL first.1).makeRecord 0x0D 1
    (leBytes 4 word ++ leBytes 4 ms.toNat ++ leBytes 4 first.2)

/-- The role on entry to IDLE from SELFTEST (spec/16_pair_and_array.md R388, R389); `fenced` is PAIR_FENCED_N asserted. -/
def State.takeRole (s : State) (fenced : Bool) : State :=
  let s : State := { s with board := { s.board with fenced := fenced } }
  let role :=
    if !s.bit F.DEV_CAPS_PAIRED then 0
    else if fenced then 4
    else if s.bit F.PAIR_STATUS_PEER_HEARD && s.getF F.PAIR_STATUS_PEER_ROLE == 1 then 3
    else if s.board.straps.pairRole then 1
    else 3
  s.setF F.PAIR_STATUS_ROLE role

/-- The last item has ended (R31, R367): IDLE when every item passes, else SAFE_TALK. -/
def State.selftestEnds (s : State) (results : SelftestResults) (fenced : Bool) : State :=
  let s := s.selftestRetire results
  let fails := s.selftestFails results
  let s := s.postResult fails results.ms
  match fails with
  | [] => (((((s.enter .idle 5).takeRole fenced).loadCoefShadow).startWindow 0).startWindow 1).entryRecord
  | (code, _) :: _ => s.enterSafeTalk 6 1 code

/-- 3 s have elapsed before every item ended (R366): bit i of `unfinished` names item i + 1. -/
def State.selftestTimesOut (s : State) (unfinished : BitVec 10) (results : SelftestResults) : State :=
  let s := s.selftestRetire results
  let fails := (s.selftestFails results).filter (fun f => !unfinished.getLsbD (f.1 - 1)) ++ [(10, 2 * unfinished.toNat)]
  (s.postResult fails results.ms).enterSafeTalk 6 1 (fails.headD (10, 0)).1

/-- How self-test ends is judged at the end of the clock: a time-out in it prevails over the last item's end (R367), and a reset
or a loss of power has abandoned it (R368). -/
def State.selftestSettle (s : State) : State :=
  let t : State := { s with board := { s.board with verdict := none } }
  match s.board.verdict with
  | none => s
  | some (r, fenced, late) =>
    if s.cur != .selftest then t
    else match late with
      | some u => t.selftestTimesOut u r
      | none => t.selftestEnds r fenced

/-- SELFTEST_DONE (R367). -/
def execSelftestDone (results : SelftestResults) (fenced : Bool) (s : State) : Result :=
  .next (
    if s.cur != .selftest || s.board.verdict.isSome then s
    else { s with board := { s.board with verdict := some (results, fenced, none) } })

/-- SELFTEST_TIMEOUT (R366, R367). -/
def execSelftestTimeout (unfinished : BitVec 10) (results : SelftestResults) (s : State) : Result :=
  .next (
    if s.cur != .selftest then s
    else { s with board := { s.board with verdict := some (results, false, some unfinished) } })

end Sys2Proof.Machine
end

