-- ==== Sys2Proof/Machine/I2c.lean ====
section
/-! DEFINITION. The maintenance port (spec/19_package_and_electrical.md R453 to R455). -/

namespace Sys2Proof.Machine

/-- Whether the port answers (R453). -/
def State.portUp (s : State) : Bool := s.cur != .off

/-- Byte i of a register. -/
def State.regByte (s : State) (off i : Nat) : Byte := BitVec.ofNat 8 (fieldOf (s.reg off) (8 * i) 8)

/-- Byte i of a number. -/
def numByte (n i : Nat) : Byte := BitVec.ofNat 8 (n / 256 ^ i)

/-- The byte at a register address of the port (R454). -/
def State.portByte (s : State) (a : Nat) : Byte :=
  let at' (base off : Nat) : Byte := s.regByte (off + 4 * ((a - base) / 4)) ((a - base) % 4)
  if a < 0x04 then at' 0 Reg.DEV_ID
  else if a < 0x06 then at' 4 Reg.DEV_STEP
  else if a < 0x0A then at' 6 Reg.DEV_STATE
  else if a < 0x0C then at' 0x0A Reg.TEST_SAFE_CODE
  else if a < 0x10 then at' 0x0C Reg.TEST_RESULT
  else if a < 0x14 then at' 0x10 Reg.BBX_PCC
  else if a < 0x18 then at' 0x14 Reg.BBX_HOURS
  else if a < 0x1A then at' 0x18 Reg.BBX_SECS
  else if a < 0x20 then 0
  else if a < 0x26 then at' 0x20 Reg.BBX_NEXT_LO
  else if a < 0x2C then at' 0x26 Reg.BBX_OLDEST_LO
  else if a < 0x30 then 0
  else if a < 0x36 then numByte s.i2c.readSel.toNat (a - 0x30)
  else if a < 0x38 then 0
  else if a < 0x3E then numByte s.i2c.snapFrom.toNat (a - 0x38)
  else if a < 0x44 then numByte s.i2c.snapTo.toNat (a - 0x3E)
  else if a = 0x44 then BitVec.ofNat 8 (128 * b2n s.i2c.loading.isSome + 64 * b2n s.i2c.outOfSnap + 32 * b2n s.i2c.snapRefused)
  else if a < 0x50 then 0
  else if a < 0x90 then s.i2c.buffer.getD (a - 0x50) 0
  else if a = 0x90 then s.i2c.result
  else 0

/-- A 48-bit value with byte i replaced. -/
def withByte48 (v : BitVec 48) (i : Nat) (b : Byte) : BitVec 48 :=
  (v &&& ~~~(0xFF#48 <<< (8 * i))) ||| (b.zeroExtend 48 <<< (8 * i))

/-- The port's SNAP_LATCH (R380, R454), judged after the commits of the clock (R383). -/
def State.portLatch (s : State) : State :=
  if s.snapshotMode then { s with i2c := { s.i2c with latchReq := some (s.i2c.snapFrom.toNat, s.i2c.snapTo.toNat) } } else s

/-- The port's SNAP_RELEASE. -/
def State.portRelease (s : State) : State := { s with i2c := { s.i2c with snap := none, latchReq := none } }

/-- The load that a write of byte 0x35 starts (R380, R454): BUSY, and the buffer as before, until the end of the clock. -/
def State.portLoad (s : State) : State :=
  match s.loadedBytes s.i2c.readSel.toNat s.i2c.snap with
  | some b => { s with i2c := { s.i2c with loading := some (sliceBytes b 0 64) } }
  | none => { s with i2c := { s.i2c with loading := some (List.replicate 64 0), outOfSnap := true } }

/-- The port's reload command: always from flash (R54, R59, R455). -/
def State.portReload (s : State) (pins : Option (Straps × RefClass)) : State :=
  let done (s : State) (n : Byte) : State := { s with i2c := { s.i2c with result := n } }
  if s.reloadCounts then
    let s := s.takeReload .flash pins
    done (if s.reloadedNow then { s with board := { s.board with load := some .flash } } else s) 1
  else done (s.hwSet F.FLT_HOST_DRAFT_BUSY) 2

/-- The port's reset command (R31, R455). -/
def State.portReset (s : State) (straps : Straps) (ref : RefClass) : State :=
  let ok := s.resettable
  let s := s.resetBy 3 straps ref
  { s with i2c := { s.i2c with result := if ok then 1 else 2 } }

/-- A data byte written at an address (R454). -/
def State.portWrite (straps : Straps) (ref : RefClass) (s : State) (a : Nat) (b : Byte) : State :=
  if 0x30 ≤ a ∧ a < 0x36 then
    let s : State := { s with i2c := { s.i2c with readSel := withByte48 s.i2c.readSel (a - 0x30) b } }
    if a = 0x35 then s.portLoad else s
  else if 0x38 ≤ a ∧ a < 0x3E then
    { s with i2c := { s.i2c with snapFrom := withByte48 s.i2c.snapFrom (a - 0x38) b } }
  else if 0x3E ≤ a ∧ a < 0x44 then
    { s with i2c := { s.i2c with snapTo := withByte48 s.i2c.snapTo (a - 0x3E) b } }
  else if a = 0x44 then
    let s := if b.getLsbD 1 then s.portRelease else s
    if b.getLsbD 0 then s.portLatch else s
  else if a = 0x90 then
    if b = 0xD1#8 then s.portReload (some (straps, ref)) else if b = 0xA5#8 then s.portReset straps ref else s
  else s

/-- The data bytes of a write transaction, the address rising after each. -/
def State.portWrites (straps : Straps) (ref : RefClass) : List Byte → State → State
  | [], s => s
  | b :: t, s =>
    let s := s.portWrite straps ref s.i2c.ptr.toNat b
    State.portWrites straps ref t { s with i2c := { s.i2c with ptr := s.i2c.ptr + 1 } }

/-- I2C_WRITE: a write transaction (R454). `straps` and `ref` are what a reset or reload command samples. -/
def execI2cWrite (addr : Byte) (bytes : List Byte) (straps : Straps) (ref : RefClass) (s : State) : Result :=
  .next (
    if !s.portUp then s
    else State.portWrites straps ref bytes { s with i2c := { s.i2c with ptr := addr } })

/-- The bytes of a read transaction; OUT_OF_SNAP and SNAP_REFUSED clear when they are read (R454). -/
def State.portReads : Nat → List Byte → State → List Byte × State
  | 0, l, s => (l, s)
  | n + 1, l, s =>
    let a := s.i2c.ptr.toNat
    let b := s.portByte a
    let x : I2cSt := if a = 0x44 then { s.i2c with outOfSnap := false, snapRefused := false } else s.i2c
    State.portReads n (l ++ [b]) { s with i2c := { x with ptr := x.ptr + 1 } }

/-- I2C_READ: a read transaction of n bytes (R454). -/
def execI2cRead (n : Nat) (s : State) : Result :=
  .next (
    if !s.portUp then s
    else
      let (l, s) := State.portReads n [] s
      s.send (.i2cData l))

/-- I2C_DRAFT_RELOAD (R455). `pins` is what RESET then samples. -/
def execI2cDraftReload (s : State) (pins : Option (Straps × RefClass) := none) : Result :=
  .next (if s.portUp then s.portReload pins else s)

/-- I2C_RESET (R455). -/
def execI2cReset (straps : Straps) (ref : RefClass) (s : State) : Result :=
  .next (if s.portUp then s.portReset straps ref else s)

/-- I2C_SNAP_LATCH (R454). -/
def execI2cSnapLatch (s : State) : Result := .next (if s.portUp then s.portLatch else s)

/-- I2C_SNAP_RELEASE (R454). -/
def execI2cSnapRelease (s : State) : Result := .next (if s.portUp then s.portRelease else s)

/-- I2C_READ_SEL_LOAD: a write of byte 0x35 (R454). -/
def execI2cReadSelLoad (b : Byte) (s : State) : Result :=
  .next (
    if !s.portUp then s
    else ({ s with i2c := { s.i2c with readSel := withByte48 s.i2c.readSel 5 b } } : State).portLoad)

end Sys2Proof.Machine
end

