-- ==== Sys2Proof/Machine/Trig.lean ====
section
/-! DEFINITION. Trigger units, AUX_TRIG and TRIG_OUT (spec/07_trigger.md R175 to R191, R198, R199). A word's passage
through the fixed pipeline is one command (log 14). -/

namespace Sys2Proof.Machine

/-- A trigger unit. -/
def State.unit (s : State) (k : Nat) : TrigUnit := sparseGet (fun _ => TrigUnit.init) s.trig.units k

def State.setUnit (s : State) (k : Nat) (u : TrigUnit) : State :=
  { s with trig := { s.trig with units := sparseSet (fun _ => TrigUnit.init) s.trig.units k u } }

/-- Word i of the set in effect: CFG, LEVEL, HYST, T_MIN, T_MAX, HOLDOFF, PAT_CARE, PAT_VALUE, SEQ, SEQ_COUNT. -/
def TrigUnit.word (u : TrigUnit) (i : Nat) : Word := u.set.getD i 0

def TrigUnit.type (u : TrigUnit) : Nat := fieldOf (u.word 0) 28 4
def TrigUnit.chan (u : TrigUnit) : Nat := fieldOf (u.word 0) 26 2
/-- SLOPE: 3 behaves as 0 (R181). -/
def TrigUnit.slope (u : TrigUnit) : Nat := if fieldOf (u.word 0) 24 2 = 3 then 0 else fieldOf (u.word 0) 24 2
def TrigUnit.cond (u : TrigUnit) : Nat := fieldOf (u.word 0) 22 2
/-- SUB: 3 behaves as 0 except under PATTERN (R181). -/
def TrigUnit.sub (u : TrigUnit) : Nat :=
  if fieldOf (u.word 0) 20 2 = 3 ∧ u.type ≠ 7 then 0 else fieldOf (u.word 0) 20 2
def TrigUnit.levelA (u : TrigUnit) : Int := ofBitsInt 14 (fieldOf (u.word 1) 0 14)
def TrigUnit.levelB (u : TrigUnit) : Int := ofBitsInt 14 (fieldOf (u.word 1) 16 14)
def TrigUnit.hyst (u : TrigUnit) : Int := fieldOf (u.word 2) 0 12

/-- Samples of a channel per fabric clock: 256 x banks per channel (R111). -/
def State.perClock (s : State) : Nat := 256 * s.banksPerCh

/-- 1/1024 sample in units of 2^-32 fabric clock (R188). -/
def State.subSample (s : State) : Nat := 2 ^ 32 / (1024 * s.perClock)

/-- A time of the set in units of 2^-32 fabric clock, by TSCALE (R182). -/
def TrigUnit.time (u : TrigUnit) (i sub : Nat) : Int :=
  if (u.word 0).getLsbD 19 then (u.word i).toNat * 2 ^ 32 else (u.word i).toNat * sub

/-- Whether a duration meets COND (R182). -/
def TrigUnit.meets (u : TrigUnit) (sub : Nat) (d : Int) : Bool :=
  let lo := u.time 3 sub
  let hi := u.time 4 sub
  match u.cond with
  | 0 => decide (d < lo)
  | 1 => decide (hi < d)
  | 2 => decide (lo ≤ d ∧ d ≤ hi)
  | _ => decide (d < lo ∨ hi < d)

/-- A source unit that a sequence cannot take: OFF, PATTERN, SEQUENCE or STATE (R185). -/
def noEvents (t : Nat) : Bool := t == 0 || t == 7 || t == 8 || t == 9 || 10 ≤ t

/-- BAD_CFG (R185) of unit k's set, `typeOf` being the types of the units. -/
def badCfg (typeOf : Nat → Nat) (k : Nat) (u : TrigUnit) : Bool :=
  let srcs := [fieldOf (u.word 8) 0 5, fieldOf (u.word 8) 8 5] ++
    (if (u.word 8).getLsbD 24 then [fieldOf (u.word 8) 16 5] else [])
  match u.type with
  | 2 | 4 | 5 => decide (u.levelA ≤ u.levelB)
  | 7 => fieldOf (u.word 6) 0 17 == 0
  | 8 => srcs.any (fun i => 16 < i || i == k || (i < 16 && noEvents (typeOf i)))
  | t => decide (10 ≤ t)

/-- A unit meets a set; a change of TYPE, CHANNEL or SUB starts it afresh (R177). The holdoff after its last event stays
(R186). -/
def TrigUnit.meet (u : TrigUnit) (set : List Word) (bad : Bool) : TrigUnit :=
  let new := { u with set := set, bad := bad }
  if u.type != new.type || u.chan != new.chan || fieldOf (u.word 0) 20 2 != fieldOf (new.word 0) 20 2 then
    { TrigUnit.init with set := set, bad := bad, lastKept := u.lastKept }
  else new

/-- The sets that govern the word sampled in fabric clock `clock`, which enters the unit 20 clocks later: those of an
earlier APPLY (R176, R177). -/
def TrigUnit.meetSets (clock : Nat) : List (Nat × List Word × Bool) → TrigUnit → TrigUnit
  | [], u => { u with applied := [] }
  | (n, set, bad) :: rest, u =>
    if n < clock + 20 then TrigUnit.meetSets clock rest (u.meet set bad) else { u with applied := (n, set, bad) :: rest }

/-- The unit under the last set applied, whether or not a word has met it yet (R177). -/
def TrigUnit.latest (u : TrigUnit) : TrigUnit := u.applied.foldl (fun u p => u.meet p.2.1 p.2.2) u

/-- CHANNEL does not exist in the mode in force (R178). -/
def State.chAbsent (s : State) (u : TrigUnit) : Bool := !(s.getF F.CONV_MODE_CHANNELS).testBit u.chan

/-- Whether a unit's set lets it work (R178, R181, R185). -/
def State.works (s : State) (u : TrigUnit) : Bool :=
  u.type != 0 && decide (u.type < 10) && !u.bad && !s.chAbsent u

/-- Whether the set that unit k's last word met lets it work. -/
def State.unitWorks (s : State) (k : Nat) : Bool := s.works (s.unit k)

/-- What UNITk.STATUS and TRIG.STATUS show of a unit (R201): the last set applied, with the states under it (log 119). -/
def State.showUnit (s : State) (k : Nat) : State :=
  let u := (s.unit k).latest
  let w := s.works u
  let st := b2n (w && u.a.state) + 2 * b2n (w && u.b.state) + 4 * b2n (w && u.seqA.isSome) +
    16 * b2n (s.chAbsent u) + 32 * b2n u.bad
  (s.setReg (Reg.TRIG_UNIT_STATUS k) (BitVec.ofNat 32 st)).setBit (bitFld Reg.TRIG_STATUS k) (w && u.type != 9)

/-- The shadow set of unit k. -/
def State.shadowUnit (s : State) (k : Nat) : List Word :=
  (List.range 10).map (fun i => s.reg (Reg.TRIG_UNIT_CFG k + 4 * i))

/-- The set of unit k after an APPLY of the units that v names (R177). -/
def State.setAfter (s : State) (v : Word) (k : Nat) : List Word :=
  if v.getLsbD k then s.shadowUnit k else (s.unit k).latest.set

/-- What an APPLY does to unit k, `sets` being the sets of all units after it (R177, R178, R185). A unit it names takes its set,
and BAD_CFG or not with it; a unit it does not name enters BAD_CFG when a source of its sequence becomes one it cannot take.
Words in the pipeline, sampled up to 104 clocks before, finish under the sets before. -/
def State.applyUnit (s : State) (v : Word) (sets : Nat → List Word) (k : Nat) : State :=
  let old := (s.unit k).latest
  let new : TrigUnit := { TrigUnit.init with set := sets k }
  let now := badCfg (fun i => TrigUnit.type { TrigUnit.init with set := sets i }) k new
  let bad := now || (!v.getLsbD k && old.bad)
  if v.getLsbD k || bad != old.bad then
    let u := TrigUnit.meetSets (s.tsc - 104) (s.unit k).applied (s.unit k)
    let s := s.setUnit k { u with applied := u.applied ++ [(s.tsc, sets k, bad)] }
    let s := if bad then s.hwSet F.TRIG_EVENTS_BAD_CFG else s
    let s := if v.getLsbD k && s.chAbsent new then s.hwSet F.TRIG_EVENTS_CH_ABSENT else s
    s.showUnit k
  else s

/-- The AUX_TRIG set that governs edges at the ball in a fabric clock: that of the last APPLY before it (R177). -/
def AuxSt.setAt (x : AuxSt) (clock : Int) : List Word :=
  match x.sets.find? (fun p => decide ((p.1 : Int) < clock)) with
  | some p => p.2
  | none => []

/-- The set that AUX_TRIG took last. -/
def AuxSt.latest (x : AuxSt) : List Word := (x.sets.head?.map (·.2)).getD []

/-- Copies the AUX_TRIG shadow set into effect for the edges of later clocks (R177). -/
def State.applyAux (s : State) : State :=
  let set := [s.reg Reg.TRIG_AUX_CFG, s.reg Reg.TRIG_AUX_OFFSET, s.reg Reg.TRIG_AUX_HOLDOFF]
  let s : State := { s with trig := { s.trig with aux := { s.trig.aux with sets := (s.tsc, set) :: s.trig.aux.sets } } }
  s.setBit (bitFld Reg.TRIG_STATUS 16) ((set.getD 0 0).getLsbD 0)

/-- A write of TRIG.APPLY (R177): the sets it copies are judged together. -/
def State.applyWrite (s : State) (v : Word) : State :=
  let s1 := (List.range 16).foldl (fun t k => t.applyUnit v (s.setAfter v) k) s
  if v.getLsbD 16 then s1.applyAux else s1

/-- APPLY (R177). -/
def execApply (v : Word) (s : State) : Result := .next (s.hostWrite Reg.TRIG_APPLY v (fun s => s.applyWrite v))

/-- A detection of a comparator (R179): its instant, whether it is A's, whether it rises. -/
structure Crossing where
  at' : Int
  isA : Bool
  rising : Bool
deriving DecidableEq, Repr

/-- One sample at a comparator: the new comparator and the direction detected (R179). -/
def Comparator.sample (c : Comparator) (level hyst w : Int) : Comparator × Option Bool :=
  if c.armRise && decide (level ≤ w) then
    ({ state := true, armRise := false, armFall := c.armFall || decide (level + hyst ≤ w) }, some true)
  else if c.armFall && decide (w < level) then
    ({ state := false, armFall := false, armRise := decide (w ≤ level - hyst) }, some false)
  else
    ({ c with armRise := c.armRise || (decide (w ≤ level - hyst) && decide (w < level)),
              armFall := c.armFall || decide (level + hyst ≤ w) }, none)

/-- The sample m between which and its predecessor the crossing of a detection at sample n lies (R180): the latest at or before
n where the samples cross the level in its direction. n itself where the samples at hand show none. -/
def crossAt (all : List Int) (lvl : Int) (rising : Bool) (n : Nat) : Nat :=
  let crosses (m : Nat) : Bool :=
    let p := all.getD (m - 1) 0
    let w := all.getD m 0
    if rising then decide (p < lvl) && decide (lvl ≤ w) else decide (lvl ≤ p) && decide (w < lvl)
  match ((List.range n).reverse.map (· + 1)).find? crosses with
  | some m => m
  | none => n

/-- Samples m - 8 to m + 7 (R180). -/
def kernelWindow (all : List Int) (m : Nat) : List Int :=
  List.replicate (8 - m) (all.headD 0) ++ (all.drop (m - 8)).take (16 - (8 - m))

/-- The detections of one word: `all` holds the samples before the word, the word and the samples after it, `first` counts
those before. The crossing lies between samples m - 1 and m, where the reconstruction meets the level (R180). Levels are
codes, samples are on the scale W = 4 c (R117). -/
def detect (start : Int) (sub : Nat) (lvlA lvlB hyst : Int) (all : List Int) (first : Nat) :
    Nat → Nat → Comparator → Comparator → List Crossing × Comparator × Comparator
  | 0, _, a, b => ([], a, b)
  | len + 1, n, a, b =>
    let w := all.getD (first + n) 0
    let inst (lvl : Int) (rising : Bool) : Int :=
      let m := crossAt all (4 * lvl) rising (first + n)
      start + ((m : Int) - first - 1) * (1024 * sub) + (Config.crossing (kernelWindow all m) (4 * lvl)).val * sub
    let (a', da) := a.sample (4 * lvlA) (4 * hyst) w
    let (b', db) := b.sample (4 * lvlB) (4 * hyst) w
    let xs := (match da with | some r => [⟨inst lvlA r, true, r⟩] | none => []) ++
      (match db with | some r => [⟨inst lvlB r, false, r⟩] | none => [])
    let (rest, a2, b2) := detect start sub lvlA lvlB hyst all first len (n + 1) a' b'
    (xs ++ rest, a2, b2)

/-- Puts a crossing in the order of instants. -/
def insertCrossing (x : Crossing) : List Crossing → List Crossing
  | [] => [x]
  | y :: t => if y.at' ≤ x.at' then y :: insertCrossing x t else x :: y :: t

def sortCrossings (l : List Crossing) : List Crossing := l.foldl (fun a x => insertCrossing x a) []

/-- A slope of 0 rising, 1 falling, 2 either names a direction. -/
def slopeTakes (slope : Nat) (rising : Bool) : Bool := slope == 2 || (slope == 0) == rising

/-- One crossing under the type's rule (R181): the unit, with states A and B as they follow, and the event instants. -/
def TrigUnit.onCrossing (u : TrigUnit) (sub : Nat) (x : Crossing) : TrigUnit × List Int :=
  let inBand (u : TrigUnit) : Bool := !u.a.state && u.b.state
  let u' : TrigUnit := if x.isA then { u with a := { u.a with state := x.rising } }
    else { u with b := { u.b with state := x.rising } }
  let done (start : Option Int) (test : Bool) : List Int :=
    match start with
    | some t => if !test || u.meets sub (x.at' - t) then [x.at'] else []
    | none => []
  match u.type with
  | 1 => (u', if x.isA && slopeTakes u.slope x.rising then [x.at'] else [])
  | 2 =>
    let enter := !inBand u && inBand u'
    let exit := inBand u && !inBand u'
    (u', if (enter && u.sub != 1) || (exit && u.sub != 0) then [x.at'] else [])
  | 3 =>
    if !x.isA then (u', [])
    else if x.rising then
      ({ u' with posStart := some x.at', negStart := none }, if u.slope = 0 then [] else done u.negStart true)
    else ({ u' with negStart := some x.at', posStart := none }, if u.slope = 1 then [] else done u.posStart true)
  | 4 =>
    match x.isA, x.rising with
    | false, true => ({ u' with posStart := some x.at' }, [])
    | true, true => ({ u' with posStart := none, negStart := none },
        if u.slope = 0 then [] else done u.negStart (u.sub == 1))
    | true, false => ({ u' with negStart := some x.at' }, [])
    | false, false => ({ u' with posStart := none, negStart := none },
        if u.slope = 1 then [] else done u.posStart (u.sub == 1))
  | 5 =>
    match x.isA, x.rising with
    | false, true => ({ u' with posStart := some x.at' }, [])
    | true, true => ({ u' with posStart := none }, if u.slope = 1 then [] else done u.posStart true)
    | true, false => ({ u' with negStart := some x.at' }, [])
    | false, false => ({ u' with negStart := none }, if u.slope = 0 then [] else done u.negStart true)
  | _ => (u', [])

/-- TIMEOUT (R181): the event of the last change when it falls no later than `upTo`. -/
def TrigUnit.timeout (u : TrigUnit) (sub : Nat) (upTo : Int) : TrigUnit × List Int :=
  match u.change with
  | some c =>
    let due := c + u.time 4 sub
    if !u.timedOut && decide (due ≤ upTo) then
      ({ u with timedOut := true }, if u.slope == 2 || (u.slope == 0) == u.a.state then [due] else [])
    else (u, [])
  | none => (u, [])

/-- The crossings of a word under the type's rule, TIMEOUT included: up to the instant of the word's last sample, since a
later crossing is found with the next word. -/
def TrigUnit.runCrossings (sub : Nat) (stop : Int) : List Crossing → TrigUnit → TrigUnit × List Int
  | [], u => if u.type = 6 then u.timeout sub stop else (u, [])
  | x :: xs, u =>
    let (u1, e1) := if u.type = 6 && x.isA then u.timeout sub x.at' else (u, [])
    let (u2, e2) := u1.onCrossing sub x
    let u3 := if x.isA then { u2 with change := some x.at', timedOut := false } else u2
    let (u4, e4) := TrigUnit.runCrossings sub stop xs u3
    (u4, e1 ++ e2 ++ e4)

/-- The unit holdoff (R186), 0 meaning none: the events kept, the number discarded, the last event kept. -/
def unitHoldoff (hold : Int) : List Int → Option Int → List Int × Nat × Option Int
  | [], last => ([], 0, last)
  | t :: ts, last =>
    let inside := match last with
      | some k => decide (0 < hold) && decide (t < k + hold)
      | none => false
    if inside then
      let (kept, n, l) := unitHoldoff hold ts last
      (kept, n + 1, l)
    else
      let (kept, n, l) := unitHoldoff hold ts (some t)
      (t :: kept, n, l)

/-- A change of the state vector of R183. -/
structure BitChange where
  at' : Int
  bit : Nat
  val : Bool
deriving DecidableEq, Repr

def insertChange (x : BitChange) : List BitChange → List BitChange
  | [] => [x]
  | y :: t => if y.at' ≤ x.at' then y :: insertChange x t else x :: y :: t

/-- Whether AUX_TRIG's level is asserted in the sense of AUX_CFG.EDGE, while EN is set (R183, R190). -/
def auxAsserted (cfg : Word) (level : Bool) : Bool := cfg.getLsbD 0 && level != cfg.getLsbD 1

/-- The pin's level after its filter at an instant. -/
def AuxSt.levelAt (x : AuxSt) (t : Int) : Bool :=
  match x.changes.reverse.find? (fun c => decide (c.1 ≤ t)), x.changes with
  | some c, _ => c.2
  | none, c :: _ => !c.2
  | none, [] => x.level

/-- The state vector of R183 at instant `lo`, and its changes up to `hi`, from the bus for the word sampled in `clock`. -/
def State.vectorOf (s : State) (clock : Nat) (lo hi : Int) : Nat × List BitChange :=
  let one (acc : Nat × List BitChange) (i : Nat) : Nat × List BitChange :=
    let u := s.unit i
    let (st, ch) := if !s.unitWorks i then (false, [])
      else if u.bus.clock = clock then (u.bus.startA, u.bus.changes) else (u.a.state, [])
    (acc.1 + (if st then 2 ^ i else 0), ch.foldl (fun l c => insertChange ⟨c.1, i, c.2⟩ l) acc.2)
  let acc := (List.range 16).foldl one (0, [])
  let aux := s.trig.aux
  let cfg := (aux.setAt clock).getD 0 0
  let now := aux.changes.filter (fun c => decide (lo < c.1) && decide (c.1 ≤ hi))
  (acc.1 + (if auxAsserted cfg (aux.levelAt lo) then 2 ^ 16 else 0),
   now.foldl (fun l c => insertChange ⟨c.1, 16, auxAsserted cfg c.2⟩ l) acc.2)

/-- Sets bit i of a number. -/
def putBit (n i : Nat) (v : Bool) : Nat := if v == n.testBit i then n else if v then n + 2 ^ i else n - 2 ^ i

/-- Whether the vector meets a pattern, leaving out the bits of `skip`. -/
def TrigUnit.patternTrue (u : TrigUnit) (vec skip : Nat) : Bool :=
  ((vec ^^^ fieldOf (u.word 7) 0 17) &&& fieldOf (u.word 6) 0 17) &&& (0x1FFFF - skip) == 0

/-- The pattern is judged at an instant with the vector that then stands (R183): the unit, and the events. `rises` are the rising
crossings of the unit's own comparator A. -/
def TrigUnit.judge (own sub : Nat) (rises : List Int) (at' : Int) (vec : Nat) (u : TrigUnit) : TrigUnit × List Int :=
  let was := u.pattern
  let isT := u.patternTrue vec 0
  let (held, e1) := match u.heldFrom with
    | some t => if t + u.time 3 sub ≤ at' then (none, if u.sub = 3 then [t + u.time 3 sub] else []) else (some t, [])
    | none => (none, [])
  let held := if isT && !was then some at' else if isT then held else none
  let e2 := match u.sub with
    | 0 => if isT && !was then [at'] else []
    | 1 => if !isT && was then [at'] else []
    | 2 => if rises.contains at' && u.patternTrue vec (2 ^ own) then [at'] else []
    | _ => []
  ({ u with pattern := isT, heldFrom := held }, e1 ++ e2)

/-- PATTERN (R183): each group of changes with one instant takes effect together; a HELD interval that ends by `stop` gives its
event. -/
def TrigUnit.runPattern (own sub : Nat) (stop : Int) :
    List BitChange → Nat → TrigUnit → List Int → TrigUnit × List Int
  | [], vec, u, _ =>
    let u := { u with vec := some vec }
    match u.heldFrom with
    | some t =>
      if u.sub = 3 ∧ t + u.time 3 sub ≤ stop then ({ u with heldFrom := none }, [t + u.time 3 sub]) else (u, [])
    | none => (u, [])
  | c :: cs, vec, u, rises =>
    let vec := putBit vec c.bit c.val
    let more := match cs with
      | d :: _ => d.at' == c.at'
      | [] => false
    if more then TrigUnit.runPattern own sub stop cs vec u rises
    else
      let (u, e) := u.judge own sub rises c.at' vec
      let (u', e') := TrigUnit.runPattern own sub stop cs vec u rises
      (u', e ++ e')

/-- A word under PATTERN, from the instant `lo` of the last sample before it to that of its own last sample, `stop`, whose changes wait
for those that the next word finds at the same instant. A unit that starts afresh takes the pattern as it finds it, with no event
(log 120); what else differs from the end of the word before (a new set, a unit applied OFF) is judged at `lo`. -/
def TrigUnit.wordPattern (own sub : Nat) (lo stop : Int) (changes : List BitChange) (vec : Nat) (u : TrigUnit)
    (rises : List Int) : TrigUnit × List Int :=
  let early := changes.filter (fun c => decide (c.at' < lo))
  let now := changes.filter (fun c => c.at' == lo)
  let rest := changes.filter (fun c => decide (lo < c.at') && decide (c.at' < stop))
  let full := (early ++ now).foldl (fun v c => putBit v c.bit c.val) vec
  match u.vec with
  | none => TrigUnit.runPattern own sub stop rest full { u with pattern := u.patternTrue full 0, heldFrom := none } rises
  | some v =>
    let (u, e0) := TrigUnit.runPattern own sub lo early v u rises
    let (u, e1) := u.judge own sub rises lo full
    let (u', e2) := TrigUnit.runPattern own sub stop rest full u rises
    (u', e0 ++ e1 ++ e2)

/-- A source event of a sequence, ranked as R184 orders identical instants: 0 RST, 2 A, 3 B. -/
structure SeqEvent where
  at' : Int
  rank : Nat
deriving DecidableEq, Repr

def insertSeq (x : SeqEvent) : List SeqEvent → List SeqEvent
  | [] => [x]
  | y :: t => if y.at' < x.at' ∨ (y.at' = x.at' ∧ y.rank ≤ x.rank) then y :: insertSeq x t else x :: y :: t

/-- SEQUENCE (R184): the events of a word in the order of their instants. -/
def TrigUnit.runSequence (sub : Nat) : List SeqEvent → TrigUnit → TrigUnit × List Int
  | [], u => (u, [])
  | x :: xs, u =>
    let tMin := u.time 3 sub
    let tMax := u.time 4 sub
    -- the end of the T_MAX interval comes before A and B of its instant, and after RST
    let expired := match u.seqA with
      | some t => tMax != 0 && (decide (t + tMax < x.at') || (decide (t + tMax = x.at') && x.rank != 0))
      | none => false
    let u := if expired then { u with seqA := none, seqCount := 0 } else u
    let (u, e) : TrigUnit × List Int := match x.rank, u.seqA with
      | 0, _ => ({ u with seqA := none, seqCount := 0 }, [])
      | 2, none => ({ u with seqA := some x.at', seqCount := 0 }, [])
      | 2, some _ => if u.sub = 1 then ({ u with seqA := some x.at', seqCount := 0 }, []) else (u, [])
      | _, none => (u, [])
      | _, some t =>
        if x.at' < t + tMin then (u, [])
        else if max 1 (fieldOf (u.word 9) 0 24) ≤ u.seqCount + 1 then ({ u with seqA := none, seqCount := 0 }, [x.at'])
        else ({ u with seqCount := u.seqCount + 1 }, [])
    let (u', e') := TrigUnit.runSequence sub xs u
    (u', e ++ e')

/-- The events a source left on the bus for a word, AUX_TRIG's with instants after `lo` and up to `hi`. -/
def State.busEvents (s : State) (clock : Nat) (lo hi : Int) (src : Nat) : List Int :=
  if src = 16 then s.trig.aux.events.filter (fun t => decide (lo < t) && decide (t ≤ hi))
  else if (s.unit src).bus.clock = clock then (s.unit src).bus.events else []

/-- The events of a sequence's sources for a word. -/
def State.seqEvents (s : State) (clock : Nat) (lo hi : Int) (u : TrigUnit) : List SeqEvent :=
  let take (acc : List SeqEvent) (src rank : Nat) : List SeqEvent :=
    (s.busEvents clock lo hi src).foldl (fun l t => insertSeq ⟨t, rank⟩ l) acc
  let acc := if (u.word 8).getLsbD 24 then take [] (fieldOf (u.word 8) 16 5) 0 else []
  take (take acc (fieldOf (u.word 8) 0 5) 2) (fieldOf (u.word 8) 8 5) 3

/-- The instants of the last sample before the word sampled in `clock` and of its own last sample: what happens in between
belongs to the word. -/
def State.wordFrom (s : State) (clock : Nat) : Int := (clock : Int) * 2 ^ 32 - 1024 * s.subSample
def State.wordTo (s : State) (clock : Nat) : Int := s.wordFrom clock + 2 ^ 32

/-- Events of unit k after its holdoff go on the bus, the discarded ones are counted (R186). -/
def State.keepEvents (s : State) (k : Nat) (u : TrigUnit) (ev : List Int) : State :=
  let hold : Int := fieldOf (u.word 5) 0 24 * (1024 * s.subSample)
  let (kept, held, last) := unitHoldoff hold ev u.lastKept
  let s := s.setUnit k { u with lastKept := last, bus := { u.bus with events := kept } }
  if held = 0 then s else s.rclAdd (Reg.TRIG_UNIT_HELD k) held

/-- Comparators, interpolator and qualifier (clocks 21 to 68 of R176): the unit as it follows and the qualified events of an
EDGE to TIMEOUT unit, with what the bus then shows of the unit. -/
def State.qualify (s : State) (k clock : Nat) (w : ChanWord) : TrigUnit × List Int :=
  let u := s.unit k
  let sub := s.subSample
  let all := w.before ++ w.word ++ w.ahead
  let (xs, a2, b2) := detect (clock * 2 ^ 32) sub u.levelA u.levelB u.hyst all w.before.length w.word.length 0 u.a u.b
  let xs := sortCrossings xs
  let chgs := (xs.filter (·.isA)).map (fun x => (x.at', x.rising))
  let (u1, ev) := TrigUnit.runCrossings sub (s.wordTo clock) xs u
  ({ u1 with a := a2, b := b2, bus := { clock := clock, events := [], startA := u.a.state, changes := chgs } }, ev)

/-- Clocks 21 to 72 of R176 for unit k: an idle unit, or one whose channel's word is not given, leaves nothing on the bus. -/
def State.senseWord (s : State) (k clock : Nat) (words : List ChanWord) : State :=
  match s.unitWorks k, words.find? (fun w => w.chan.val == (s.unit k).chan) with
  | true, some w =>
    let (u, ev) := s.qualify k clock w
    s.keepEvents k u ev
  | _, _ =>
    let u := s.unit k
    s.setUnit k { u with bus := { clock := clock, events := [], startA := u.a.state, changes := [] } }

/-- Clocks 73 to 92 of R176 for a PATTERN or SEQUENCE unit k, from the bus on which all units stand. -/
def State.judgeWord (s : State) (k clock : Nat) : State :=
  let u := s.unit k
  let lo := s.wordFrom clock
  let hi := s.wordTo clock
  if !s.unitWorks k then s
  else if u.type = 7 then
    let (vec, changes) := s.vectorOf clock lo hi
    let rises := u.rose ++ (u.bus.changes.filter (·.2)).map (·.1)
    let (u1, ev) := u.wordPattern k s.subSample lo hi changes vec rises
    s.keepEvents k { u1 with rose := rises.filter (· == hi) } ev
  else if u.type = 8 then
    let evs := u.late.foldl (fun l e => insertSeq ⟨e.1, e.2⟩ l) (s.seqEvents clock lo hi u)
    let (u1, ev) := TrigUnit.runSequence s.subSample (evs.filter (fun e => decide (e.at' < hi))) u
    s.keepEvents k { u1 with late := (evs.filter (fun e => decide (hi ≤ e.at'))).map (fun e => (e.at', e.rank)) } ev
  else s

/-- The instant as a 96-bit timestamp; instants before time zero are taken as zero. -/
def toInstant (t : Int) : Instant := t.toNat

/-- A report of unit k to the Loom (R186, R187, R188, R194): COUNT adds MULT, 1 to 1,024. -/
def State.reportUnit (s : State) (k : Nat) (kept : List Int) : State :=
  match kept with
  | [] => s
  | t :: _ =>
    let i := toInstant t
    let mult := min 1024 kept.length
    let s := (s.rclAdd (Reg.TRIG_UNIT_COUNT k) mult).hwSet (F.TRIG_EVENTS_EVT k)
    let s := (s.setReg (Reg.TRIG_UNIT_LAST_FRAC k) (BitVec.ofNat 32 i)).set64 (Reg.TRIG_UNIT_LAST_LO k) (i / 2 ^ 32)
    s.reportTrig k i mult

/-- Clocks 93 to 104 of R176 for unit k. -/
def State.selectWord (s : State) (k : Nat) : State :=
  let u := s.unit k
  (s.reportUnit k (if s.unitWorks k && u.type != 9 then u.bus.events else [])).showUnit k

/-- What a word met on its way: EVENTS.OVR of existing channels (R118), EVENTS.SAT of bound lanes (R204). -/
def State.wordMarks (s : State) (ovr : BitVec 4) (sat : BitVec 64) : State :=
  let s := (bitsSet 4 (ovr.toNat &&& s.getF F.CONV_MODE_CHANNELS)).foldl (fun s c => s.hwSet (F.CONV_EVENTS_OVR c)) s
  (bitsSet 64 sat.toNat).foldl (fun s l => if s.bit (F.LANE_BIND_LIVE l) then s.hwSet (F.LANE_EVENTS_SAT l) else s) s

/-- TRIGGER_REPORT: the word sampled in fabric clock `clock` passes through all 16 units, stage by stage, and each reports its
earliest event (R175, R176, R187). `ovr` names the channels with an over-range sample in the word (R118), `sat` the lanes whose
output for it saturated (R204). -/
def execTriggerReport (clock : Nat) (words : List ChanWord) (ovr : BitVec 4) (sat : BitVec 64) (s : State) : Result :=
  .next (
    if s.operational then
      let units := List.range 16
      let s := units.foldl (fun s k => s.setUnit k (TrigUnit.meetSets clock (s.unit k).applied (s.unit k))) s
      let s := units.foldl (fun s k => s.senseWord k clock words) s
      let s := units.foldl (fun s k => s.judgeWord k clock) s
      (units.foldl State.selectWord s).wordMarks ovr sat
    else s)

/-- SEQUENCE_T_MAX_EXPIRY: no report by tA + T_MAX (R184). -/
def execSequenceTMaxExpiry (k : Fin 16) (s : State) : Result :=
  .next (
    let u := s.unit k
    if s.operational && u.type == 8 && u.seqA.isSome && u.word 4 != 0 then
      (s.setUnit k { u with seqA := none, seqCount := 0 }).showUnit k
    else s)

/-- The clocks for which a level must hold, AUX_CFG.FILTER; 61 to 63 behave as 60 (R190). -/
def auxFilter (cfg : Word) : Nat := min 60 (fieldOf cfg 2 6)

/-- AUX_TRIG's filtered level changes, at a reported instant. -/
def AuxSt.changeTo (x : AuxSt) (inst : Int) (level : Bool) : AuxSt :=
  { x with level := level, changes := x.changes ++ [(inst, level)] }

/-- An AUX_TRIG event at a reported instant is kept (R186, R190, R191). -/
def State.reportAux (s : State) (inst : Int) : State :=
  let aux := s.trig.aux
  let s : State := { s with trig := { s.trig with aux := { aux with lastKept := some inst, events := aux.events ++ [inst] } } }
  let i := toInstant inst
  let s := (s.rclAdd Reg.TRIG_AUX_COUNT 1).hwSet (F.TRIG_EVENTS_EVT 16)
  let s := (s.setReg Reg.TRIG_AUX_LAST_FRAC (BitVec.ofNat 32 i)).set64 Reg.TRIG_AUX_LAST_LO (i / 2 ^ 32)
  s.reportTrig 16 i 1

/-- AUX_TRIG_EDGE at ball instant `t`, after which the level held for `hold` fabric clocks (R190, R191): a pulse shorter than the
filter is discarded; the selected edge is reported with the offset subtracted, unless the AUX holdoff discards it. -/
def execAuxTrigEdge (rising : Bool) (t : Instant) (hold : Nat) (s : State) : Result :=
  .next (
    let aux := s.trig.aux
    let set := aux.setAt ((t : Nat) / 2 ^ 32 : Nat)
    let cfg := set.getD 0 0
    let inst : Int := ((t : Nat) / 2 ^ 16 * 2 ^ 16 : Nat) - (set.getD 1 0).toInt * 2 ^ 16
    if rising == aux.level then s
    else if !s.operational || !cfg.getLsbD 0 then { s with trig := { s.trig with aux := aux.changeTo inst rising } }
    else if hold < auxFilter cfg then s.hwSet F.TRIG_EVENTS_AUX_GLITCH
    else
      let s : State := { s with trig := { s.trig with aux := aux.changeTo inst rising } }
      let off : Int := fieldOf (set.getD 2 0) 0 24 * 2 ^ 32
      let inside := match aux.lastKept with
        | some l => decide (0 < off) && decide (inst < l + off)
        | none => false
      if !auxAsserted cfg rising || inside then s else s.reportAux inst)

/-- The level that a TRIG_OUT pin is driven to; none where the engine does not drive it: high impedance in OFF and AON_UP
(R199). -/
def State.trigPin (s : State) (p : Fin 4) : Option Bool :=
  if s.cur == .off || s.cur == .aonUp then none else some ((s.getF F.TRIG_OUT_STATUS_PINS).testBit p)

/-- The electrical levels that follow the logical ones (R199), low in a role that does not deliver (R388). -/
def State.drivePins (s : State) : State :=
  let lv := s.getF F.TRIG_OUT_STATUS_LEVELS
  let en := s.getF F.TRIG_OUT_CFG_EN
  let inv := s.getF F.TRIG_OUT_CFG_INVERT
  s.setF F.TRIG_OUT_STATUS_PINS (if s.operational && s.delivers then en &&& (lv ^^^ inv) else 0)

/-- A pin that a write of OUT_CFG disables goes low at once; one it enables follows its pulse from the next clock on (R199). -/
def State.cutPins (s : State) : State :=
  s.setF F.TRIG_OUT_STATUS_PINS (s.getF F.TRIG_OUT_STATUS_PINS &&& s.getF F.TRIG_OUT_CFG_EN)

/-- The pulse of a pin. -/
def State.pulse (s : State) (p : Nat) : Option (Nat × Nat) := sparseGet (fun _ => none) s.trig.pulses p

def State.setPulse (s : State) (p : Nat) (x : Option (Nat × Nat)) : State :=
  { s with trig := { s.trig with pulses := sparseSet (fun _ => none) s.trig.pulses p x } }

/-- One more pulse in the count of pin p, which saturates at 255; what the present clock adds stays for the next read (R10). -/
def State.countPulse (s : State) (p : Nat) : State :=
  let f : Fld := ⟨Reg.TRIG_OUT_COUNT, 8 * p, 8⟩
  let (old, n) := (s.addedNow Reg.TRIG_OUT_COUNT).getD ((s.reg Reg.TRIG_OUT_COUNT).toNat, 0)
  { s.setF f (min 255 (s.getF f + 1)) with time := { s.time with
    addNow := (Reg.TRIG_OUT_COUNT, old, n + 2 ^ (8 * p)) :: s.time.addNow.filter (fun q => q.1 != Reg.TRIG_OUT_COUNT) } }

/-- A TRIG_OUT action of width w (R198, R199). -/
def State.trigOut (s : State) (p w : Nat) : State :=
  let s := if (s.getF F.TRIG_OUT_CFG_EN).testBit p then s else s.hwSet F.TRIG_EVENTS_OUT_DISABLED
  let s := s.countPulse p
  let rise := s.time.clk + 2
  let first := match s.pulse p with
    | some (r, _) => r
    | none => rise
  s.setPulse p (some (first, rise + w - first))

/-- TRIG_OUT (R198): width 1 to 256 fabric clocks. -/
def execTrigOut (p : Fin 4) (w : Fin 256) (s : State) : Result :=
  .next (if s.loomIssues then s.trigOut p (w + 1) else s)

/-- The levels of the pins at the end of a fabric clock (R198): a pulse whose rise clock has ended is high. -/
def State.pinsTick (s : State) : State :=
  let lv := (List.range 4).foldl (fun a p => match s.pulse p with
    | some (r, _) => if r < s.time.clk then putBit a p true else a
    | none => a) (s.getF F.TRIG_OUT_STATUS_LEVELS)
  (s.setF F.TRIG_OUT_STATUS_LEVELS lv).drivePins

/-- TRIG_OUT_PULSE_END: the width has elapsed (R198). -/
def execTrigOutPulseEnd (p : Fin 4) (s : State) : Result :=
  .next (match s.pulse p with
    | some (r, w) =>
      if r + w ≤ s.time.clk then
        ((s.setPulse p none).setF F.TRIG_OUT_STATUS_LEVELS (putBit (s.getF F.TRIG_OUT_STATUS_LEVELS) p false)).drivePins
      else s
    | none => s)

end Sys2Proof.Machine
end

