-- ==== Sys2Proof/Machine/Loom.lean ====
section
/-! DEFINITION. The Loom: evaluation of treads, the commands of its actions, its host writes, and what it does in a fabric
clock (spec/03_axis_and_loom.md R82 to R105, spec/01_engine_architecture.md R33, spec/16_pair_and_array.md R395). A match in
clock m and the issue of its actions in clock m + 1 (R91) are one evaluation, made in clock m + 1 (log 20). -/

namespace Sys2Proof.Machine

/-- Whether the Loom evaluates in the present clock: not during a REALIGN gate (R171). DESIGN CHOICE (log 138): STATUS.RUNNING
(R105) keeps reading 1 there. -/
def State.loomRuns (s : State) : Bool :=
  s.loomIssues && (s.clk.realign == none || s.clk.realign == some .decided)

/-- How far the sources a Loom sees lie behind: 96 clocks on a following SHADOW, and after its takeover until the next stop
(R395, R396, R403). -/
def State.loomLag (s : State) : Nat := if s.isShadow || s.bit F.PAIR_STATUS_LOOM_DELAYED then 96 else 0

/-- The clock whose reports an evaluation sees, in the model's count. -/
def State.clockSeen (s : State) : Int := (s.time.clk : Int) - 2 - s.loomLag

/-- What was reported in the clock seen (R85). -/
def State.eventsSeen (s : State) : List LoomEvent :=
  (s.loom.events.filter (fun e => (e.1 : Int) == s.clockSeen)).map (·.2)

/-- A match: when, from which source, whether late, and with which MULT. -/
structure Match where
  iss : IssueTime
  mult : Nat
deriving DecidableEq, Repr

/-- A match at the start of the clock that matches (R93). -/
def State.plainMatch (s : State) : Match := ⟨⟨(s.tsc - 1 - s.loomLag) * 2 ^ 32, 0xFF, false⟩, 1⟩

/-- The start of the clock seen (R93). -/
def State.seenStart (s : State) : Instant := (s.tsc - 2 - s.loomLag) * 2 ^ 32

/-- The masked trigger reports seen: source, instant, MULT. -/
def State.reportsSeen (s : State) (mask : Nat) : List (Nat × Instant × Nat) :=
  s.eventsSeen.filterMap (fun e => match e with
    | .trig k t m => if mask.testBit k then some (k, t, m) else none
    | _ => none)

/-- The earliest report; a tie goes to the lower source (R93). -/
def firstReport : List (Nat × Instant × Nat) → Option (Nat × Instant × Nat)
  | [] => none
  | x :: l => match firstReport l with
    | none => some x
    | some y => if x.2.1 < y.2.1 ∨ (x.2.1 = y.2.1 ∧ x.1 ≤ y.1) then some x else some y

/-- Puts a report among others in the order of their instants; a tie goes to the lower source (R93). -/
def insertReport (x : Nat × Instant × Nat) : List (Nat × Instant × Nat) → List (Nat × Instant × Nat)
  | [] => [x]
  | y :: l => if x.2.1 < y.2.1 ∨ (x.2.1 = y.2.1 ∧ x.1 ≤ y.1) then x :: y :: l else y :: insertReport x l

/-- The report in which a count that stands at `a` reaches n (R93, R187). -/
def nthReport (n : Nat) : Nat → List (Nat × Instant × Nat) → Option (Nat × Instant × Nat)
  | _, [] => none
  | a, x :: l => if n ≤ a + x.2.2 then some x else nthReport n (a + x.2.2) l

/-- The match of a report. -/
def matchOf (x : Nat × Instant × Nat) : Match := ⟨⟨x.2.1, x.1, false⟩, x.2.2⟩

/-- AXIS_REACHED on compare k (R78, R84, R93). DESIGN CHOICE (log 109): the position compared is the estimator's, in 2^-48
unit. -/
def State.reached (s : State) (k : Nat) (down : Bool) : Option Match :=
  let n := s.clockSeen
  let c := s.cmpSeen k * 2 ^ 32
  let meets (p : Int) : Bool := if down then decide (p ≤ c) else decide (c ≤ p)
  let p := s.axisAt n
  let q := s.axisAt (n - 1)
  let late : Match := ⟨⟨s.seenStart, 0xFF, true⟩, 1⟩
  let knot := s.axisKnot n
  let jumped := !s.axisIsTime && (knot.clk : Int) == n && knot.jump
  let from' := q + s.axisRateAt (n - 1)
  let against := jumped && (if knot.down then decide (from' < p) else decide (p < from'))
  if !meets p then none
  else if jumped then (if against && !meets q then none else some late)
  else if meets q || p == q then some late
  else some ⟨⟨((n - 1 + s.tscOff) * 2 ^ 32 + (c - q) * 2 ^ 32 / (p - q)).toNat, 0xFF, false⟩, 1⟩

/-- AXIS_EVENT: the earliest instant among the masked events seen; the start of the clock of the report for one that no
edge causes (R93). -/
def State.axisSeen (s : State) (mask : Nat) : Option Match :=
  let ts := s.eventsSeen.filterMap (fun e => match e with
    | .axis b t => if b < 6 && mask.testBit b then some (t.getD s.seenStart) else none
    | _ => none)
  match ts with
  | [] => none
  | t :: l => some ⟨⟨l.foldl min t, 0xFF, false⟩, 1⟩

/-- Whether doorbell d is seen pending (R85, R86): not one that became pending in this clock or the one before, nor one that
a match of this clock took. -/
def State.bellSeen (s : State) (d : Nat) : Bool :=
  (s.reg Reg.LOOM_DOORBELL_PEND).getLsbD d && !s.loom.fresh.getLsbD d && !s.loom.freshPrev.getLsbD d &&
    !s.loom.taken.getLsbD d

/-- The condition of a tread in an evaluation of a cursor (R84, R93), with the cursor's count of masked events. -/
def State.condition (s : State) (t : Tread) (x : CursorSt) : Option Match × Nat :=
  let mask := t.carg % 2 ^ 17
  let seen := s.reportsSeen mask
  match t.cond with
  | 1 => (some s.plainMatch, x.tally)
  | 2 => ((firstReport seen).map matchOf, x.tally)
  | 3 =>
    let n := t.carg / 2 ^ 17 % 2 ^ 24
    let tally := seen.foldl (fun a r => a + r.2.2) x.tally
    if n = 0 then (some s.plainMatch, x.tally)
    else if n ≤ tally then (match nthReport n x.tally (seen.foldr insertReport []) with
      | some r => some (matchOf r)
      | none => some s.plainMatch, tally)
    else (none, tally)
  | 4 => (s.reached (t.carg % 16) (t.carg.testBit 4), x.tally)
  | 5 => (s.axisSeen (t.carg % 64), x.tally)
  | 6 => (if t.carg ≤ s.time.clk - x.arrival then some s.plainMatch else none, x.tally)
  | 7 => (if s.bellSeen (t.carg % 32) then some s.plainMatch else none, x.tally)
  | 8 => (if s.eventsSeen.contains (.tenon (t.carg % 16)) && decide (t.carg % 16 < 6) then some s.plainMatch else none,
      x.tally)
  | _ => (none, x.tally)

/-- What a match does besides its actions: a late match counts (R93), a doorbell clears unless it is rung (R86). -/
def State.noteMatch (s : State) (t : Tread) (m : Match) : State :=
  let s := if m.iss.late then (s.rclAdd Reg.LOOM_LATE_COUNT 1).hwSet F.LOOM_EVENTS_LATE_FIRE else s
  if t.cond = 7 then
    let d := t.carg % 32
    let s : State := { s with loom := { s.loom with taken := s.loom.taken ||| BitVec.ofNat 32 (2 ^ d) } }
    if s.loom.rung.getLsbD d || s.loom.rungPrev.getLsbD d then s else s.setBit (bitFld Reg.LOOM_DOORBELL_PEND d) false
  else s

/-- What a protected ACTIVE tells of an OPEN or MARKER of context c that it issued (R391). -/
def State.logIssue (s : State) (c tread : Nat) (accepted : Bool) (cseq : Nat) (m : Match) : State :=
  if s.isProtectedActive then
    let i : MatchIssue := ⟨s.tsc - 1, ⟨tread % 4096, by omega⟩, accepted, cseq, m.iss.instant, m.mult⟩
    { s with loom := { s.loom with issuesNow := s.loom.issuesNow ++ [(c, i)] } }
  else s

/-- A SHADOW goes on with its own sources from the ACTIVE's clock m (R396). -/
def State.localLoom (s : State) (m : Nat) : State :=
  if s.bit F.PAIR_STATUS_LOCAL_LOOM then s
  else ({ s with pair := { s.pair with localFrom := some m } } : State).setBit F.PAIR_STATUS_LOCAL_LOOM true

/-- Whether a segment that the ACTIVE opened finds a slot and ring space here (R396). -/
def State.canPlace (s : State) (c : Nat) (x : LiveCtx) : Bool :=
  let used := if s.getF (F.CTX_STORE_RING c) = 1 then 0 else s.ringUsed c
  decide (0 < s.tableFree) && decide (used + s.footprint c ≤ s.ringRest c x)

/-- An OPEN that the ACTIVE refused is refused here (R395): for want of ring space or a slot, with its run of refusals, unless the
context refuses it here for another reason. DESIGN CHOICE (log 156): where nothing is wanting here, the run's cause is RING_FULL, since
a MATCH cell names none. -/
def State.followRefused (s : State) (c : Nat) (iss : IssueTime) : State :=
  match s.liveOf c with
  | none => s.openRefused
  | some x =>
    match s.openFate c x iss with
    | .refused | .noOpening => s.openRefused
    | .noSlot => s.refuseSpace c .tableFull iss
    | _ => s.refuseSpace c .ringFull iss

/-- An OPEN of a tread; on a following SHADOW with the accepted bit and CSEQ of the ACTIVE (R395, R396). -/
def State.openAction (s : State) (c tread : Nat) (m : Match) (forced : Option MatchIssue) : State :=
  match forced with
  | none =>
    let n := (s.keepOf c).next
    let (ok, s) := s.openSeg c m.iss
    s.logIssue c tread ok (if ok then (s.keepOf c).next - 1 else n) m
  | some f =>
    let s := s.expireHoldoff c m.iss.instant
    if !f.accepted then s.followRefused c m.iss
    else
      match s.liveOf c with
      | some x => if s.canPlace c x then s.acceptOpen c x m.iss (some f.cseq) else s.localLoom f.clock
      | none => s.localLoom f.clock

/-- A MARKER of a tread; on a following SHADOW with the outcome and CSEQ of the ACTIVE (R395, R396). -/
def State.markerAction (s : State) (c code tread : Nat) (m : Match) (forced : Option MatchIssue) : State :=
  match forced with
  | none =>
    let n := (s.keepOf c).next
    let (ok, s) := s.makeMarker c code m.iss
    s.logIssue c tread ok n m
  | some f =>
    if !f.accepted then s.notLive
    else
      let (ok, t) := (s.setKeep c { s.keepOf c with next := f.cseq }).makeMarker c code m.iss
      if ok then t else s.localLoom f.clock

/-- Whether the Loom follows an ACTIVE's MATCH cells (R395, R396). -/
def State.follows (s : State) : Bool := s.isShadow && !s.bit F.PAIR_STATUS_LOCAL_LOOM

/-- One action of a tread (R87): whether it was an ARM that failed, and the state after it. -/
def State.action (s : State) (kind arg tread : Nat) (m : Match) (forced : Option MatchIssue) : Bool × State :=
  let c := arg % 1024
  let j := arg % 256
  match kind with
  | 0 => (false, s)
  | 1 =>
    let (cause, s) := s.arm c
    if cause = 0 then (false, s)
    else
      let t := s.armFailed c cause tread
      (true, if s.follows && s.armLocal c cause then t.localLoom (s.tsc - 97) else t)
  | 2 => (false, s.disarm c)
  | 3 => (false, s.openAction c tread m forced)
  | 4 => (false, s.closeSeg c)
  | 5 => (false, s.laneSwap c)
  | 6 => (false, s.coefAction c (arg / 1024 % 2) (arg / 2048 % 4))
  | 7 => (false, s.accAction j .start)
  | 8 => (false, s.accAction j .stop)
  | 9 => (false, s.accAction j .fold)
  | 10 => (false, s.trigOut (arg % 4) (arg / 4 % 256 + 1))
  | 11 => (false, s.markerAction c (arg / 1024 % 4096) tread m forced)
  | 12 => (false, s.flagAction (arg % 32) (arg.testBit 5))
  | 13 => (false, s.raiseVector (arg % 64))
  | 14 => (false, s.cmpAction (arg % 16) (arg / 16 % 4))
  | _ => (false, s.hwSet F.LOOM_EVENTS_BAD_ACTION)

/-- Cursor k stays on its tread; on a NEVER tread it halts there (R89), and a reserved condition is NEVER (R84). -/
def State.stay (s : State) (k tally : Nat) (never : Bool) : State :=
  let s := (s.setBit (F.LOOM_CURSOR_WAITING k) true).setBit (bitFld Reg.LOOM_STATUS (4 + k)) true
  let s := if never then s.setBit (F.LOOM_CURSOR_HALTED k) true else s
  s.setCursor k { s.cursor k with tally := tally, next := s.time.clk + 1 }

/-- The tread an evaluation of cursor k meets: those of the clock of an exchange use the old FRONT, as it stood before host writes
of that clock (R102). -/
def State.treadAt (s : State) (i : Nat) : Tread :=
  if !s.meetsOld then treadOf (sparseGet (fun _ => 0) (s.bank true) i)
  else
    match s.loom.frontWas.find? (fun p => p.1 == i) with
    | some p => treadOf p.2
    | none => treadOf (sparseGet (fun _ => 0) (s.bank false) i)

/-- The issues a SHADOW's tread takes in turn: those of actions A and B that open or mark. -/
def forcedFor (forced : Option (List MatchIssue)) (kind : Nat) : Option MatchIssue × Option (List MatchIssue) :=
  match forced with
  | some (f :: l) => if kind = 3 ∨ kind = 11 then (some f, some l) else (none, some (f :: l))
  | some [] => (none, some [])
  | none => (none, none)

/-- A tread that is met: its actions in order, and the move by NEXT, or to FAIL (R89, R92, R96). -/
def State.met (s : State) (k i : Nat) (t : Tread) (m : Match) (forced : Option (List MatchIssue)) : State :=
  let s := s.noteMatch t m
  let (fa, rest) := forcedFor forced t.aKind
  let (failA, s) := s.action t.aKind t.aArg i m fa
  let (fb, _) := forcedFor rest t.bKind
  let (failB, s) := s.action t.bKind t.bArg i m fb
  let s := s.arrive k (if failA || failB then t.fail else if t.next % 2 = 1 then t.target else i + 1)
  { s with loom := { s.loom with metNow := s.loom.metNow ||| BitVec.ofNat 4 (2 ^ k) } }

/-- A tread that is not met (R89). DESIGN CHOICE (log 129): a cursor that stays on a NEVER tread halts there under WAIT_JUMP as
under WAIT. -/
def State.unmet (s : State) (k i : Nat) (t : Tread) (tally : Nat) : State :=
  if t.next < 2 then s.arrive k (i + 1) else s.stay k tally (t.cond == 0 || decide (8 < t.cond))

/-- One evaluation of cursor k. What it judges is what the clock before holds: compares and positions without the actions of
the present clock, so that the evaluations of a clock may act in turn (R92). -/
def State.evaluate (s : State) (k : Nat) : State :=
  let i := s.getF (F.LOOM_CURSOR_TREAD k)
  let t := s.treadAt i
  match s.condition t (s.cursor k) with
  | (some m, _) => s.met k i t m none
  | (none, tally) => s.unmet k i t tally

/-- Whether cursor k has an evaluation to make in the present clock: the match is that of the clock before, in which its enable
still counts where it was cleared (R90). -/
def State.due (s : State) (k : Nat) : Bool := s.loom.enPrev.testBit k && (s.cursor k).next ≤ s.time.clk

/-- TREAD_MATCH: the evaluation of cursor k in the present clock (R90 to R93). -/
def execTreadMatch (k : Fin 4) (s : State) : Result :=
  .next (if s.loomRuns && !s.follows && s.due k then s.evaluate k else s)

/-- The cursors due, in the order in which their treads issue (R92). -/
def State.dueOrder (s : State) : List Nat :=
  let ins (k : Nat) (l : List Nat) : List Nat :=
    let key (k : Nat) : Nat := s.getF (F.LOOM_CURSOR_TREAD k) * 4 + k
    l.takeWhile (fun q => key q ≤ key k) ++ k :: l.dropWhile (fun q => key q ≤ key k)
  ((List.range 4).filter s.due).foldl (fun l k => ins k l) []

/-- The Loom's own evaluations of a fabric clock. -/
def State.loomTick (s : State) : State :=
  let s := s.finishSwap
  if s.loomRuns && !s.follows then s.dueOrder.foldl State.evaluate s else s

/-- Enables set or cleared in the clock before, while the Loom ran (R90): a cursor halts, or goes to its ENTRY and is evaluated
there in this clock. The Loom runs in the clock of the write that stops it (R33). -/
def State.enablesTick (s : State) : State :=
  let runs := s.bit F.LOOM_STATUS_RUNNING
  if !runs && s.loom.stopAt != some (s.time.clk - 1) then s
  else (List.range 4).foldl (fun s k =>
    if s.loom.enNow.testBit k && !s.loom.enPrev.testBit k then
      (if runs then s.arrive k (s.fieldAt (Reg.LOOM_ENTRY k) 0 12) else s)
    else if s.loom.enPrev.testBit k && !s.loom.enNow.testBit k then
      ((s.setBit (F.LOOM_CURSOR_HALTED k) true).setBit (F.LOOM_CURSOR_WAITING k) false).setBit
        (bitFld Reg.LOOM_STATUS (4 + k)) false
    else s) s

/-- The stop is complete: no context is live, the last was released in a clock before this one, and the treads matched in the
clock of the stop have issued (R33, R35). -/
def State.stopDone (s : State) : State :=
  if s.loom.stopping && s.running && s.lives.isEmpty && s.loom.stopAt.all (· < s.time.clk) &&
      s.lanes.all (fun p => p.2.freeFrom ≤ s.time.clk) then s.loomAtRest.enter .idle 0x0C
  else s

/-! ## Commands of actions -/

/-- An action of the Loom: it happens while the Loom issues. -/
def State.issue (s : State) (k : State → State) : Result := .next (if s.loomIssues then k s else s)

/-- NOP, or a reserved kind (R87). -/
def execNop (kind : BitVec 5) (s : State) : Result :=
  s.issue (fun s => if kind = 0 then s else s.hwSet F.LOOM_EVENTS_BAD_ACTION)

/-- ARM c of a tread (R95, R96). -/
def execArm (c : Fin 1024) (tread : Fin 4096) (s : State) : Result :=
  s.issue (fun s =>
    let (cause, s) := s.arm c
    if cause = 0 then s else s.armFailed c cause tread)

/-- DISARM c (R98). -/
def execDisarm (c : Fin 1024) (s : State) : Result := s.issue (fun s => s.disarm c)

/-- OPEN c (R93, R94). -/
def execOpenSegment (c : Fin 1024) (iss : IssueTime) (s : State) : Result := s.issue (fun s => (s.openSeg c iss).2)

/-- CLOSE c (R230). -/
def execClose (c : Fin 1024) (s : State) : Result := s.issue (fun s => s.closeSeg c)

/-- LANE_SWAP c (R221). -/
def execLaneSwap (c : Fin 1024) (s : State) : Result := s.issue (fun s => s.laneSwap c)

/-- COEF_SWAP c (R223, R458). -/
def execCoefSwap (c : Fin 1024) (stage : Bool) (sel : Fin 4) (s : State) : Result :=
  s.issue (fun s => s.coefAction c (b2n stage) sel)

/-- ACC_START j (R264). -/
def execAccStart (j : Fin 256) (s : State) : Result := s.issue (fun s => s.accAction j .start)

/-- ACC_STOP j (R264). -/
def execAccStop (j : Fin 256) (s : State) : Result := s.issue (fun s => s.accAction j .stop)

/-- ACC_FOLD j (R266). -/
def execAccFold (j : Fin 256) (s : State) : Result := s.issue (fun s => s.accAction j .fold)

/-- MARKER c (R457). -/
def execMarker (c : Fin 1024) (code : BitVec 12) (iss : IssueTime) (s : State) : Result :=
  s.issue (fun s => (s.makeMarker c code.toNat iss).2)

/-- FLAG f (R88). -/
def execFlag (f : Fin 32) (v : Bool) (s : State) : Result := s.issue (fun s => s.flagAction f v)

/-- IRQ (R87, R324). -/
def execIrq (v : Fin 64) (s : State) : Result := s.issue (fun s => s.raiseVector v)

/-! ## Host writes -/

/-- The Loom starts (R90, R104), with the enables as the write leaves them. -/
def State.startLoom (s : State) : State :=
  let s : State := { s with loom := { s.loom with enNow := s.getF F.LOOM_CTRL_CURSOR_EN } }
  let s := ((s.setBit F.LOOM_CTRL_RUN true).setBit F.LOOM_STATUS_RUNNING true).enter .armed 0x09
  (List.range 4).foldl (fun s k =>
    if (s.getF F.LOOM_CTRL_CURSOR_EN).testBit k then
      let s := (s.arrive k (s.fieldAt (Reg.LOOM_ENTRY k) 0 12)).setBit (F.LOOM_CURSOR_HALTED k) false
      s.setCursor k { arrival := s.time.clk + 2, tally := 0, next := s.time.clk + 2 }
    else s) s

/-- A write of CURSOR_EN: it counts from the next clock (R90). -/
def State.cursorEnables (s : State) (en : Nat) : State := s.setF F.LOOM_CTRL_CURSOR_EN en

/-- A write of LOOM.CTRL (R33, R90, R104, R389); a start gives way to a transition of higher rank in its clock (R35). -/
def State.loomCtrl (s : State) (v : Word) : State :=
  let role := s.getF F.PAIR_STATUS_ROLE
  if v.getLsbD 0 && (role == 3 || role == 4) then s.hwSet F.FLT_HOST_PAIR_ROLE
  else
    let s := s.cursorEnables (fieldOf v 4 4)
    if v.getLsbD 0 then (if s.cur == .idle && decide (6 ≤ s.rankNow) then s.startLoom else s)
    else if s.running && !s.loom.stopping then s.stopLoom else s

/-- RUN: a write of 1 to LOOM.CTRL.RUN (R104). -/
def execRun (en : BitVec 4) (s : State) : Result :=
  .next (s.hostWrite Reg.LOOM_CTRL (BitVec.ofNat 32 (en.toNat * 16 + 1)) (fun s =>
    s.loomCtrl (BitVec.ofNat 32 (en.toNat * 16 + 1))))

/-- STOP: a write of 0 to LOOM.CTRL.RUN (R33). -/
def execStop (en : BitVec 4) (s : State) : Result :=
  .next (s.hostWrite Reg.LOOM_CTRL (BitVec.ofNat 32 (en.toNat * 16)) (fun s =>
    s.loomCtrl (BitVec.ofNat 32 (en.toNat * 16))))

/-- STOP_COMPLETE (R33). -/
def execStopComplete (s : State) : Result := .next s.stopDone

/-- CURSOR_EN: a write that leaves RUN as it reads (R90). -/
def execCursorEn (en : BitVec 4) (s : State) : Result :=
  let v := BitVec.ofNat 32 (en.toNat * 16 + s.getF F.LOOM_CTRL_RUN)
  .next (s.hostWrite Reg.LOOM_CTRL v (fun s => s.cursorEnables en.toNat))

/-- DOORBELL (R86). -/
def execDoorbell (v : Word) (s : State) : Result :=
  .next (s.hostWrite Reg.LOOM_DOORBELL v (fun s => s.ring v))

/-- SWAP_REQ: a write of LOOM.SWAP with REQ (R101). -/
def execSwapReq (v : Word) (s : State) : Result :=
  .next (s.hostWrite Reg.LOOM_SWAP (v ||| 1) (fun s => s.swapWrite (v ||| 1)))

/-- SWAP_CANCEL: a write of LOOM.SWAP with CANCEL alone (R103). -/
def execSwapCancel (s : State) : Result :=
  let v := (s.reg Reg.LOOM_SWAP &&& 0xFFFFFFFC) ||| 2
  .next (s.hostWrite Reg.LOOM_SWAP v (fun s => s.swapWrite v))

/-- SWAP_DONE: the boundary is reached (R101, R102). -/
def execSwapDone (s : State) : Result := .next s.swapDue

/-- TREAD_WINDOW_WRITE: word `off` of the window (R82, R100). -/
def execTreadWindowWrite (off : Fin 8192) (v : Word) (s : State) : Result :=
  .next (s.hostWrite (0x38000 + 4 * off.val) v (fun s => s.windowWrite off v))

/-- A host write into a context's window (R27, R197, R227). -/
def State.ctxWrite (s : State) (c word : Nat) (v : Word) : State :=
  let off := ctxBase c + 4 * word
  if s.isLive c then s.hwSet F.FLT_HOST_CTX_LIVE_WRITE
  else
    (s.storeReg off v).dropNative c

/-- CTX_WINDOW_WRITE (R27). -/
def execCtxWindowWrite (c : Fin 1024) (word : Fin 64) (v : Word) (s : State) : Result :=
  .next (s.hostWrite (ctxBase c + 4 * word.val) v (fun s => s.ctxWrite c word v))

end Sys2Proof.Machine
end

