-- ==== Sys2Proof/Machine/Strm.lean ====
section
/-! DEFINITION. The stream port and bolt frames (spec/13_stream_port.md R332 to R346). -/

namespace Sys2Proof.Machine

/-! ### Lanes and FEC -/

/-- A product in GF(2^10) under x^10 + x^3 + 1, the field of the code that R333 names (log 150). -/
def gfMul (a b : Nat) : Nat :=
  (List.range 10).foldl (fun r i =>
    let r2 := if 512 ≤ r then (2 * r) ^^^ 0x409 else 2 * r
    if b.testBit (9 - i) then r2 ^^^ a else r2) 0

/-- The code's generator polynomial below x^30, the highest power first: its roots are the first 30 powers of 2 (log 150). -/
def rsGenerator : List Nat :=
  ((List.range 30).foldl (fun (a : List Nat × Nat) _ =>
    (List.zipWith (fun x y => x ^^^ gfMul y a.2) (a.1 ++ [0]) (0 :: a.1), gfMul a.2 2)) ([1], 1)).1.drop 1

/-- The 30 parity symbols of a message (R333). -/
def rsParity (msg : List Nat) : List Nat :=
  msg.foldl (fun p m =>
    let f := m ^^^ p.headD 0
    List.zipWith (fun x g => x ^^^ gfMul f g) (p.drop 1 ++ [0]) rsGenerator) (List.replicate 30 0)

/-- A codeword of RS(544,514): 514 symbols of the stream, then the parity (R333). -/
def rsCodeword (msg : List Nat) : List Nat := msg ++ rsParity msg

/-- The lane that carries symbol i of codeword n: symbols go to the lanes in ascending order, one at a time (R333). -/
def symbolLane (n i : Nat) : Nat := (544 * n + i) % 20

/-- Whether each lane carries its alignment block of 320 bits before codeword n (R333). -/
def alignBefore (n : Nat) : Bool := n != 0 && n % 20480 == 0

/-! ### Frames -/

/-- The bytes of a bolt frame: header, padded payload, trailer (R334). -/
def Bolt.bytes (b : Bolt) : List Byte :=
  let h := leBytes 2 0xB017 ++ leBytes 1 b.kind ++ leBytes 1 b.flags ++ leBytes 2 b.payload.length ++ leBytes 2 b.source ++
    leBytes 4 b.fseq ++ leBytes 4 b.offset ++ leBytes 8 b.gseq ++ leBytes 6 b.cseq
  let head := h ++ leBytes 2 (crc16 h).toNat
  let body := head ++ sliceBytes b.payload 0 (round64 b.payload.length)
  body ++ leBytes 4 (crc32 body).toNat ++ List.replicate 28 0

/-- Credit units of a frame with a payload of n bytes (R334). -/
def boltUnits (n : Nat) : Nat := 1 + ceilDiv n 64

/-- The record bytes that a stream record's DATA frames carry (R335). -/
def State.streamBytes (s : State) (r : Record) : List Byte := s.header r true ++ r.dataFor true

/-- DATA frames of a record; a gap has none (R335). -/
def State.dataFrames (s : State) (r : Record) : Nat :=
  if r.stream.gap.isSome || r.kind == .gap then 0 else ceilDiv (s.streamBytes r).length 4096

/-- The stream completion record (R335). -/
def State.streamCompletion (s : State) (r : Record) : List Byte :=
  s.completionBytes r true { phase := false, reshuffle := 0, bufs := s.dataFrames r, bytes := (s.streamBytes r).length,
                             freeIndex := 0, tag := 0 }

/-- Where the FSEQ of a record began, and its frames that were sent. -/
def State.frameStart (s : State) (g : Nat) : Option (Nat × List Bolt) := (s.strm.starts.find? (fun p => p.1 == g)).map (·.2)

/-- The frames of a record that were sent before the last HELLO. -/
def State.sentBefore (s : State) (g : Nat) : List Bolt :=
  match s.strm.held.find? (fun p => p.1 == g) with
  | some p => p.2
  | none => []

/-- Frame k of a record that is sent for the first time since the last HELLO, with an FSEQ (R334, R335): the GAP frame of a gap, a
DATA frame, or the END frame. One of a record that is VISIBLE has the content with which it was sent (R340). -/
def State.freshBolt (s : State) (r : Record) (k fseq : Nat) : Bolt :=
  let n := s.dataFrames r
  let g := r.stream.gseq.getD 0
  let source := s.headerId * 2048 + r.ctx
  match if r.stream.visible then (s.sentBefore g)[k]? else none with
  | some b => { b with fseq := fseq, flags := b.flags % 4 }
  | none =>
    if n = 0 then
      { kind := 3, flags := 3, source := source, fseq := fseq, offset := 0, gseq := g, cseq := r.cseq,
        payload := s.header r true ++ s.streamCompletion r }
    else if k < n then
      { kind := 1, flags := b2n (k == 0) + 2 * b2n (k + 1 == n), source := source, fseq := fseq, offset := k,
        gseq := g, cseq := r.cseq,
        payload := sliceBytes (s.streamBytes r) (4096 * k) (min 4096 ((s.streamBytes r).length - 4096 * k)) }
    else
      { kind := 2, flags := 0, source := source, fseq := fseq, offset := n, gseq := g, cseq := r.cseq,
        payload := s.streamCompletion r }

/-- Frame k of a record: one that was sent is sent again as it was, with RESENT (R339). -/
def State.boltOf (s : State) (r : Record) (k : Nat) : Bolt :=
  match s.frameStart (r.stream.gseq.getD 0) with
  | some (f, l) =>
    match l[k]? with
    | some b => { b with flags := b.flags % 4 + 4 }
    | none => s.freshBolt r k ((f + k) % 2 ^ 32)
  | none => s.freshBolt r k (s.reg Reg.STRM_FSEQ_NEXT).toNat

/-- Whether a frame of a record ends it: END, or GAP. -/
def State.lastFrame (s : State) (r : Record) (k : Nat) : Bool := (s.boltOf r k).kind != 1

/-- LIMIT as a frame start of this clock sees it (R345). -/
def State.limitSeen (s : State) : Word :=
  match s.strm.limitOld with
  | some (n, o) => if n = s.time.clk then BitVec.ofNat 32 o else s.reg Reg.STRM_LIMIT
  | none => s.reg Reg.STRM_LIMIT

/-- Whether credit covers a frame (R337). -/
def State.creditFor (s : State) (limit : Word) (b : Bolt) : Bool :=
  decide (boltUnits b.payload.length ≤ (limit - s.reg Reg.STRM_SENT).toNat)

/-- Whether DATA frame k of a record would read a frozen pseudo-channel (R424). -/
def State.frameFrozen (s : State) (r : Record) (k : Nat) : Bool :=
  if s.lastFrame r k then false
  else if r.job.isSome || r.replay then s.recHeld r
  else
    let lo := r.start + (4096 * k - 64)
    let hi := r.start + (min (4096 * (k + 1)) (s.streamBytes r).length - 64)
    let chunks := if hi ≤ lo then [] else (List.range ((hi - 1) / 2048 - lo / 2048 + 1)).map (· + lo / 2048)
    chunks.any (fun i => match sparseGet (fun _ => none) (s.keepOf r.ctx).chunks i with
      | some p => s.pcFrozen p
      | none => false) ||
      (k == 0 && (match r.slot with
        | some i => s.pcFrozen (i % 64)
        | none => false))

/-- The next frame, when the port may send one but for credit (R336, R397, R424): its record and index. -/
def State.nextFrame (s : State) : Option (Record × Nat) :=
  if s.getF F.STRM_STATUS_STATE != 3 || !s.delivers || s.strm.flying then none
  else
    match s.recAt true s.strm.gseq with
    | none => none
    | some r =>
      let k := s.strm.frame
      if s.frameFrozen r k || s.strm.excess.contains (r.ctx, r.cseq) then none
      else if s.lastFrame r k && s.isProtectedActive && !r.stream.mirrored then none
      else some (r, k)

/-- The port is no longer STALLED once the next frame has credit (R342). -/
def State.judgeStall (s : State) : State :=
  match s.nextFrame with
  | some (r, k) => if s.creditFor (s.reg Reg.STRM_LIMIT) (s.boltOf r k) then s.setBit F.STRM_STATUS_STALLED false else s
  | none => s

/-- Notes that frame k of the record with GSEQ g was sent. -/
def StrmSt.note (x : StrmSt) (g k : Nat) (b : Bolt) : StrmSt :=
  match x.starts.find? (fun p => p.1 == g) with
  | some _ => { x with starts := x.starts.map (fun p => if p.1 == g && p.2.2.length == k then (g, p.2.1, p.2.2 ++ [b]) else p) }
  | none => { x with starts := x.starts ++ [(g, b.fseq, [b])] }

/-- The shuttle's requests for frame k of a record: its slot for its first frame, and the bytes of a DATA frame (R296, R336). -/
def State.offerFrame (s : State) (r : Record) (k : Nat) : State :=
  let s1 := if k = 0 then s.offerSlot 9 false [] r else s
  if s.lastFrame r k then s1 else s1.offerRead 9 r (4096 * k - 64) (min (4096 * (k + 1)) (s.streamBytes r).length - 64)

/-- STREAM_FRAME_START: the next frame starts when credit covers it (R334 to R337). One that reads the store waits for the end of a
change of memory point, its requests in the pending queues until those are full (R292). -/
def execStreamFrameStart (s : State) : Result :=
  .next (match s.nextFrame with
    | none => s
    | some (r, k) =>
      let b := s.boltOf r k
      let g := r.stream.gseq.getD 0
      if !s.creditFor s.limitSeen b then s
      else if s.bit F.MEM_STATUS_CHANGING && (k == 0 || !s.lastFrame r k) then
        if s.strm.asked.isSome || (List.range 2).any (fun st => decide (16 ≤ requestCount ((s.shuttle st).queue 9))) then s
        else
          let s1 := s.offerFrame r k
          { s1 with strm := { s1.strm with asked := some (g, k) } }
      else
        let units := boltUnits b.payload.length
        let s1 := s.send (.boltFrame b.bytes)
        let s1 := s1.setReg Reg.STRM_SENT (s.reg Reg.STRM_SENT + BitVec.ofNat 32 units)
        let s1 := s1.setReg Reg.STRM_FSEQ_NEXT (BitVec.ofNat 32 (b.fseq + 1))
        let s1 := if 4 ≤ b.flags || decide (k < (s.sentBefore g).length) then s1.rclAdd Reg.STRM_RESENT 1 else s1
        let s1 := s1.setBit F.STRM_STATUS_STALLED false
        let x := s1.strm.note g k b
        let x : StrmSt := if s.lastFrame r k then { x with flying := true } else { x with frame := k + 1 }
        let s1 : State := { s1 with strm := { x with asked := none } }
        if s.strm.asked = some (g, k) then s1 else s1.offerFrame r k)

/-- STREAM_FRAME_SENT: the last symbol of an END or GAP frame is sent, and the record is VISIBLE at STREAM (R336). Behind the END
frame of a record that was overwritten meanwhile its GAP frame follows (R345). -/
def execStreamFrameSent (s : State) : Result :=
  .next (
    if !s.strm.flying then s
    else
      let g := s.strm.gseq
      let gapped := match s.recAt true g with
        | some r => r.stream.gap.isSome && !r.stream.visible && (s.boltOf r s.strm.frame).kind == 2
        | none => false
      if gapped && s.strm.resend.isNone then
        { s with strm := { s.strm with flying := false, frame := s.strm.frame + 1 } }
      else
        let g' := match s.strm.resend with
          | some n => n
          | none => max (g + 1) (s.get64 Reg.STRM_ACKED_LO)
        let s : State := { s with strm := { s.strm with
          flying := false, gseq := g', frame := 0, resend := none
          visible := if gapped then s.strm.visible else max s.strm.visible (g + 1) } }
        let s := match s.frameStart g' with
          | some (f, _) => s.setReg Reg.STRM_FSEQ_NEXT (BitVec.ofNat 32 f)
          | none => s
        match s.recAt true g with
        | some r => if r.stream.visible || gapped then s else s.makeVisible r true
        | none => s)

/-! ### Control frames -/

/-- A control frame of the consumer (R334): CREDIT 8 with LIMIT in FSEQ, ACK 9 with GSEQ, RESEND 0xA with the FSEQ expected, HELLO
0xB with GSEQ and LIMIT in OFFSET; its bytes are those of a frame without payload. -/
def ctlBolt (kind fseq offset gseq : Nat) : Bolt :=
  { kind := kind, flags := 0, source := 0, fseq := fseq, offset := offset, gseq := gseq, cseq := 0, payload := [] }

/-- A control frame as its bytes tell it; none with a bad MAGIC, HCRC or CRC (R334, R338). -/
def ctlOf (b : List Byte) : Option Bolt :=
  if b.length = 64 ∧ fieldLe b 0 2 = 0xB017 ∧ (crc16 (b.take 30)).toNat = fieldLe b 30 2 ∧
      (crc32 (b.take 32)).toNat = fieldLe b 32 4 then
    some (ctlBolt (fieldLe b 2 1) (fieldLe b 8 4) (fieldLe b 12 4) (fieldLe b 16 8))
  else none

/-- The control frame that arrives where the consumer sent b. -/
def receivedCtl (f : CtlFrame) (b : Bolt) : Option Bolt :=
  if f.errors.all (· == 0) then some b
  else ctlOf (List.zipWith (fun x y => x ^^^ y) b.bytes (f.errors ++ List.replicate 64 0))

/-- The FSEQ of the first frame of the record with GSEQ g, which follows records already sent. -/
def State.fseqOf (s : State) (g : Nat) : Word :=
  match s.frameStart g, s.frameStart (g - 1) with
  | some (f, _), _ => BitVec.ofNat 32 f
  | none, some (f, l) => BitVec.ofNat 32 (f + l.length)
  | none, none => s.reg Reg.STRM_FSEQ_NEXT

/-- A transmission that a RESEND took back goes on at record g, once the records before it are acknowledged (R339). -/
def State.skipTo (s : State) (g : Nat) : State :=
  let x := s.strm
  let s : State := { s with strm := { x with resend := x.resend.filter (fun n => decide (g ≤ n)) } }
  if g ≤ x.gseq then s
  else
    let s := s.setReg Reg.STRM_FSEQ_NEXT (s.fseqOf g)
    if x.flying then s else { s with strm := { s.strm with gseq := g, frame := 0 } }

/-- Every record with a STREAM GSEQ below g is acknowledged (R235, R338). -/
def State.ackStream (s : State) (g : Nat) : State :=
  let s := (s.skipTo g).set64 Reg.STRM_ACKED_LO g
  let s : State := { s with strm := { s.strm with
    starts := s.strm.starts.filter (fun p => decide (g ≤ p.1)), held := s.strm.held.filter (fun p => decide (g ≤ p.1)) } }
  (s.seg.recs.filter (fun r => r.stream.wanted && !r.stream.acked && (match r.stream.gseq with
    | some h => decide (h < g)
    | none => false))).foldl (fun s r => s.ackRecord r true) s

/-- A CREDIT acts (R337, R344). -/
def State.creditActs (s : State) (limit : Word) : State :=
  if s.getF F.STRM_STATUS_STATE != 3 then s
  else if 2 ^ 31 ≤ (limit - s.reg Reg.STRM_LIMIT).toNat then s.hwSet F.STRM_EVENTS_CTL_IGNORED
  else
    let old := match s.strm.limitOld with
      | some (n, o) => if n = s.time.clk then o else (s.reg Reg.STRM_LIMIT).toNat
      | none => (s.reg Reg.STRM_LIMIT).toNat
    let s := s.setReg Reg.STRM_LIMIT limit
    let s : State := { s with strm := { s.strm with limitOld := some (s.time.clk, old) } }
    s.judgeStall

/-- An ACK acts (R338). -/
def State.ackActs (s : State) (g : Nat) : State :=
  if s.getF F.STRM_STATUS_STATE != 3 then s
  else if g ≤ s.get64 Reg.STRM_ACKED_LO ∨ s.strm.visible < g then s.hwSet F.STRM_EVENTS_CTL_IGNORED
  else s.ackStream g

/-- A RESEND (R339): it acts at the end of the clock, in which a loss of the link prevails over it (R345). -/
def State.resendActs (s : State) (fseq : Nat) : State :=
  if s.getF F.STRM_STATUS_STATE != 3 then s
  else { s with strm := { s.strm with resendReq := s.strm.resendReq ++ [fseq] } }

/-- The transmission goes back to the first frame of the record that holds frame `fseq`, after the frame in flight (R339). -/
def State.resendFrom (s : State) (fseq : Nat) : State :=
  match s.strm.starts.find? (fun p => decide ((BitVec.ofNat 32 fseq - BitVec.ofNat 32 p.2.1).toNat < p.2.2.length)) with
  | none => s
  | some (g, f, _) =>
    let s := s.hwSet F.STRM_EVENTS_RESEND
    if s.strm.flying then { s with strm := { s.strm with resend := some g } }
    else
      let s := s.setReg Reg.STRM_FSEQ_NEXT (BitVec.ofNat 32 f)
      { s with strm := { s.strm with gseq := g, frame := 0 } }

/-- The end of a fabric clock for the stream port (R345). -/
def State.strmSettle (s : State) : State :=
  let l := s.strm.resendReq
  let s : State := { s with strm := { s.strm with resendReq := [] } }
  if s.getF F.STRM_STATUS_STATE != 3 then s else l.foldl State.resendFrom s

/-- The frames sent of records not yet acknowledged, as they stand at a HELLO. -/
def StrmSt.allSent (x : StrmSt) : List (Nat × List Bolt) :=
  let old (g : Nat) : List Bolt := match x.held.find? (fun p => p.1 == g) with
    | some p => p.2
    | none => []
  x.starts.map (fun p => (p.1, if (old p.1).length ≤ p.2.2.length then p.2.2 else old p.1)) ++
    x.held.filter (fun p => !(x.starts.any (fun q => q.1 == p.1)))

/-- A HELLO acts after a loss of the link (R340). -/
def State.helloActs (s : State) (g : Nat) (limit : Word) : State :=
  if s.getF F.STRM_STATUS_STATE != 2 || decide (g < s.get64 Reg.STRM_ACKED_LO) || decide (s.strm.visible < g) then s
  else
    let s := s.ackStream g
    let s := (s.setReg Reg.STRM_LIMIT limit).setReg Reg.STRM_SENT 0
    let s := ((s.setF F.STRM_STATUS_STATE 3).setBit F.STRM_STATUS_STALLED false).hwSet F.STRM_EVENTS_LINK_UP
    { s with strm := { s.strm with
      gseq := g, frame := 0, flying := false, starts := [], held := s.strm.allSent, resend := none, limitOld := none } }

/-- What a control frame does that arrived with good CRCs, by its KIND (R334). -/
def State.ctlActs (s : State) (b : Bolt) : State :=
  match b.kind with
  | 0x8 => s.creditActs (BitVec.ofNat 32 b.fseq)
  | 0x9 => s.ackActs b.gseq
  | 0xA => s.resendActs b.fseq
  | 0xB => s.helloActs b.gseq (BitVec.ofNat 32 b.offset)
  | _ => s

/-- A control frame arrives on an aligned return lane (R333, R338): one with a bad CRC is discarded and counted. -/
def State.control (s : State) (f : CtlFrame) (b : Bolt) : State :=
  if s.getF F.STRM_STATUS_STATE < 2 then s
  else
    let s := if f.corrected = 0 then s else s.rclAdd Reg.STRM_FEC_CORR f.corrected
    match receivedCtl f b with
    | some b => s.ctlActs b
    | none => s.rclAdd Reg.STRM_CTL_BAD 1

/-- CREDIT (R337, R344). -/
def execCredit (frame : CtlFrame) (limit : Word) (s : State) : Result :=
  .next (s.control frame (ctlBolt 0x8 limit.toNat 0 0))

/-- ACK (R338). -/
def execAck (frame : CtlFrame) (g : BitVec 64) (s : State) : Result :=
  .next (s.control frame (ctlBolt 0x9 0 0 g.toNat))

/-- RESEND (R339). -/
def execResend (frame : CtlFrame) (fseq : Word) (s : State) : Result :=
  .next (s.control frame (ctlBolt 0xA fseq.toNat 0 0))

/-- HELLO after a loss of the link (R340). -/
def execHello (frame : CtlFrame) (g : BitVec 64) (limit : Word) (s : State) : Result :=
  .next (s.control frame (ctlBolt 0xB 0 limit.toNat g.toNat))

/-- The port becomes STALLED (R340, R342). -/
def State.becomeStalled (s : State) : State :=
  if s.bit F.STRM_STATUS_STALLED then s
  else ((s.setBit F.STRM_STATUS_STALLED true).hwSet F.STRM_EVENTS_STALL).hwSet F.FLT_CLASS_STREAM_STALL

/-- The link goes down (R340, R345): the port stops at the next frame boundary. -/
def State.streamDown (s : State) (state : Nat) : State :=
  let s := (s.setF F.STRM_STATUS_STATE state).hwSet F.STRM_EVENTS_LINK_DOWN
  ({ s with strm := { s.strm with resend := none } } : State).becomeStalled

/-- STREAM_LINK_DOWN (R340). -/
def execStreamLinkDown (s : State) : Result :=
  .next (if 2 ≤ s.getF F.STRM_STATUS_STATE then s.streamDown 1 else s)

/-- STREAM_RETRAINED (R340). -/
def execStreamRetrained (s : State) : Result :=
  .next (if s.getF F.STRM_STATUS_STATE == 1 && s.bit F.STRM_CTRL_EN then s.setF F.STRM_STATUS_STATE 2 else s)

/-- STALL: a frame has waited for credit for STALL_TIME (R342). -/
def execStall (s : State) : Result :=
  .next (match s.nextFrame with
    | some (r, k) => if s.creditFor (s.reg Reg.STRM_LIMIT) (s.boltOf r k) then s else s.becomeStalled
    | none => s)

/-- RX_FEC_UNCORRECTABLE (R333): the control frames it touches do not arrive. -/
def execRxFecUncorrectable (s : State) : Result :=
  .next (if 2 ≤ s.getF F.STRM_STATUS_STATE then s.rclAdd Reg.STRM_FEC_UNCORR 1 else s)

/-- A write of STRM.CTRL: EN starts the link's training, and clearing it takes the link down (R340); while the link is down the port
is STALLED (R342). -/
def State.strmCtrl (s : State) (v : Word) : State :=
  let was := s.bit F.STRM_CTRL_EN
  let s := s.storeReg Reg.STRM_CTRL v
  let now := s.bit F.STRM_CTRL_EN
  if was && !now then s.streamDown 0
  else if !was && now then (s.setF F.STRM_STATUS_STATE 1).becomeStalled
  else s

end Sys2Proof.Machine
end

