-- ==== Sys2Proof/Machine/Pair.lean ====
section
/-! DEFINITION. The pair: cells, formation, heartbeats, fencing, takeover, the mirror and the cross-copy of black-box records
(spec/16_pair_and_array.md R386 to R410). -/

namespace Sys2Proof.Machine

/-! ### Cells -/

/-- Changes what the engine holds of its pair. -/
def State.withPair (s : State) (f : PairSt → PairSt) : State := { s with pair := f s.pair }

/-- The CELL_SEQ numbers missing when `seq` arrives and `e` was expected, fewer than 2^31. -/
def cellGap (e seq : Nat) : List Nat := (List.range ((seq + 2 ^ 32 - e) % 2 ^ 32)).map (fun i => (e + i) % 2 ^ 32)

/-- A WRITE that a SHADOW missed (R391, R396). -/
def State.missedWrite (s : State) (w : Option Nat) : State :=
  match w with
  | some n => if s.isShadow then s.localLoom n else s
  | none => s

/-- A received cell (R391): one with a bad CRC is discarded and counted; one that skips CELL_SEQ numbers makes the receiver
ask for them; one that came before is ignored. -/
def State.cellIn (s : State) (h : CellHead) (k : State → State) : State :=
  if !s.bit F.PAIR_STATUS_LINK_UP then s
  else if !h.good then s.rclAdd Reg.PAIR_CELL_BAD 1
  else
    match s.pair.expect with
    | none => k (s.withPair (fun x => { x with expect := some ((h.seq + 1) % 2 ^ 32) }))
    | some e =>
      if h.seq = e then k (s.withPair (fun x => { x with expect := some ((e + 1) % 2 ^ 32) }))
      else if (h.seq + 2 ^ 32 - e) % 2 ^ 32 < 2 ^ 31 then
        let s := (s.withPair (fun x => { x with expect := some ((h.seq + 1) % 2 ^ 32)
                                                missing := x.missing ++ cellGap e h.seq })).sendCell (.resend e)
        k (s.missedWrite h.lostWrite)
      else if s.pair.missing.contains h.seq then
        k (s.withPair (fun x => { x with missing := x.missing.filter (fun n => n != h.seq) }))
      else s

/-- The PAIR record of a code, with the roles before and now (R406). -/
def State.pairRecord (s : State) (code before : Nat) (rest : List Byte) : State :=
  s.makeRecord 0x0A code ([BitVec.ofNat 8 before, BitVec.ofNat 8 (s.getF F.PAIR_STATUS_ROLE)] ++ rest)

/-- Reports a TENON event to the Loom (R409). -/
def State.tenonEvent (s : State) (code : Nat) : State := s.reportEvent (.tenon code)

/-- What the engine says of itself in a HEARTBEAT (R391). -/
def State.ownBeat (s : State) : Heartbeat :=
  { role := s.getF F.PAIR_STATUS_ROLE, prot := s.bit F.PAIR_STATUS_PROTECTED, dropped := s.pair.dropped,
    state := s.cur.code
    arrayIdSeen := match s.pair.hello with
      | some p => p.arrayId
      | none => 0 }

/-- HEARTBEAT_SEND (R391). -/
def execHeartbeatSend (s : State) : Result :=
  .next (if s.bit F.PAIR_STATUS_LINK_UP then s.sendCell (.heartbeat s.ownBeat) else s)

/-! ### Formation -/

/-- The numbers that the configuration digest covers (R392): the context store, each table bank, the
applied sets of the trigger units and of AUX_TRIG, AXIS but its status, the lanes' sets and coefficients, the beam job
descriptors and polygons. -/
def State.configItems (s : State) : List (List Int) :=
  let regsIn (lo hi : Nat) : List Int :=
    (s.regs.filter (fun p => decide (lo ≤ p.1) && decide (p.1 < hi) && (accessAt p.1 == .rw))).flatMap (fun p =>
      [(p.1 : Int), (p.2.toNat : Int)])
  let bank (b : Sparse (BitVec 128)) : List Int := b.flatMap (fun p => [(p.1 : Int), (p.2.toNat : Int)])
  let words (l : List Word) : List Int := l.map (fun w => (w.toNat : Int))
  let lane (p : Nat × LaneSt) : List Int :=
    (p.1 : Int) :: (List.range 15).map (fun i => ((s.reg (laneBase p.1 + 0x40 + 4 * i)).toNat : Int)) ++
      (p.2.coefs.length : Int) :: p.2.coefs.flatMap (fun c => [(c.1 : Int), c.2.toInt])
  [regsIn 0x40000 0x80000, bank s.loom.bank0, bank s.loom.bank1,
   s.trig.units.flatMap (fun p => (p.1 : Int) :: words p.2.latest.set) ++ words s.trig.aux.latest,
   regsIn 0x20000 0x30000, s.lanes.flatMap lane, regsIn 0xF4000 0x100000]

/-- The configuration digest (R392). -/
def State.configDigest (s : State) : List Byte := sha256 (Config.configBytes s.configItems)

/-- DRAFT.DIGEST as bytes. -/
def State.draftDigest (s : State) : List Byte :=
  (List.range 8).flatMap (fun i => leBytes 4 (s.reg (Reg.DRAFT_DIGEST i)).toNat)

/-- The HELLO of this engine (R391). -/
def State.ownHello (s : State) : PairHello :=
  { arrayId := s.board.straps.arrayId, strap := s.board.straps.pairRole, paired := s.bit F.DEV_CAPS_PAIRED,
    takeover := s.pair.takeover, draftDigest := s.draftDigest, cfgDigest := s.configDigest }

/-- Sends the HELLO. -/
def State.sendHello (s : State) : State := s.sendCell (.hello s.ownHello)

/-- This engine's part of check 6 (R392). A FENCED engine leaves its role through RESET only (R400), and fails it (DESIGN CHOICE,
log 158). -/
def State.formReady (s : State) : Bool :=
  s.cur == .idle && s.getF F.PAIR_STATUS_ROLE != 4 && s.lives.isEmpty && (List.range 64).all (fun p => s.pcState p != 2)

/-- The phase error of a measurement, fs (R393): the measured lead less PAIR.PHASE_COMP. -/
def State.phaseErr (s : State) (lead : Int) : Int := lead - 10 * ofBitsInt 16 (s.reg Reg.PAIR_PHASE_COMP).toNat

/-- A measurement of the SHADOW (R393): PHASE_ERR, the new target of CLK.PAIR_TRIM, and the alarm. -/
def State.measurePhase (s : State) (lead : Int) : State :=
  let err := s.phaseErr lead
  let s := s.setReg Reg.PAIR_PHASE_ERR (BitVec.ofNat 32 (toBitsInt 16 (clampInt (-32768) 32767 err)))
  let s := s.retrim (toBitsInt 16 (clampInt (-32767) 32767 (s.trimTarget + roundOpen ((err : Rat) / 10))))
  if 50 < err.natAbs then s.hwSet F.PAIR_EVENTS_PHASE_ALARM else s

/-- The first check of R392 that fails; 0 when all pass. The engine of the low strap, which measures, finds the phases aligned where
its last error is at most 50 fs. -/
def State.formCause (s : State) (q : FormReq) : Nat :=
  match s.pair.hello with
  | none => 1
  | some p =>
    if !s.bit F.PAIR_STATUS_LINK_UP then 1
    else if !(s.bit F.DEV_CAPS_PAIRED && p.paired && p.takeover == s.pair.takeover) then 2
    else if s.board.straps.arrayId ^^^ p.arrayId != 1 then 3
    else if p.draftDigest != s.draftDigest then 4
    else if p.cfgDigest != s.configDigest then 5
    else if !(s.formReady && q.peerReady) then 6
    else if p.strap == s.board.straps.pairRole then 7
    else if !q.tscEqual then 8
    else if !q.phaseOk || (!s.board.straps.pairRole && decide (50 < (s.phaseErr q.lead).natAbs)) then 9
    else 0

/-- The mirror area of a SHADOW (R392): the quota spread over the pseudo-channels in service. -/
def State.mirrorResv (s : State) : Sparse Nat :=
  let pcs := s.pcsInService
  let share := ceilDiv (s.reg Reg.PAIR_MIRROR_QUOTA).toNat pcs.length
  pcs.foldl (fun m p => sparseSet (fun _ => 0) m p (min share (s.pcFree p))) []

/-- The records that wait at a consumer when the pair forms, handed over before: their mirror traffic begins (R397). -/
def State.mirrorBacklog (s : State) : State :=
  (s.seg.recs.filter (fun r => r.state == .handed && (r.waitingAt false || r.waitingAt true))).foldl State.mirrorOut s

/-- The pair is formed on this engine (R392). -/
def State.formPair (s : State) : State :=
  let before := s.getF F.PAIR_STATUS_ROLE
  let active := s.board.straps.pairRole
  let resv := if active then [] else s.mirrorResv
  let s := s.withPair (fun x => { x with
    beat := x.beat.map (fun b => { b with prot := false }), missed := 0, lostAt := none
    dropped := false, building := none, cells := [], writes := [], mirror := [], resv := resv
    nextHost := none, nextStream := none, localFrom := none, rot := 0, asked := none, settled := true, fencing := false })
  let s := (s.setF F.PAIR_STATUS_ROLE (if active then 1 else 2)).setBit F.PAIR_STATUS_PROTECTED true
  let s := (s.hwSet F.PAIR_EVENTS_FORMED).tenonEvent 2
  (s.pairRecord 1 before ([0, 0, 0, 0, 0, 0] ++ leBytes 4 (s.reg Reg.PAIR_MIRROR_QUOTA).toNat)).mirrorBacklog

/-- Formation is refused (R392). -/
def State.formRefused (s : State) (cause : Nat) : State :=
  let s := ((s.setF F.PAIR_FORM_REFUSE_CAUSE cause).hwSet F.PAIR_EVENTS_FORM_REFUSED).withPair (fun x => { x with
    asked := none, settled := true })
  s.pairRecord 2 (s.getF F.PAIR_STATUS_ROLE) [BitVec.ofNat 8 cause]

/-- A formation is to be judged at the end of the clock, in which a DISSOLVE goes before it (R408). -/
def State.tryForm (s : State) (q : FormReq) : State :=
  s.withPair (fun x => { x with formReq := some q, asked := none, settled := false })

/-- A formation asked for on this engine (R392): it greets the peer and waits for the peer's HELLO; without a link it is judged at
once. -/
def State.askForm (s : State) (q : FormReq) : State :=
  let t := s.sendHello.sendCell (.form .request)
  if s.bit F.PAIR_STATUS_LINK_UP then
    t.withPair (fun x => { x with asked := some q, hello := none, settled := false })
  else t.tryForm q

/-- What becomes of a formation to be judged in the clock (R392, R393, R408): nothing on a formed engine, beside a DISSOLVE, or where
the peer accepts toward a FENCED engine (R400); else what the checks make of it. The engine of the low strap has measured the phase. -/
def State.formSettle (s : State) : State := match s.pair.formReq with
  | none => s
  | some q =>
    let s := s.withPair (fun x => { x with formReq := none })
    let measured (s : State) : State := if s.board.straps.pairRole then s else s.measurePhase q.lead
    if s.bit F.PAIR_STATUS_PROTECTED || s.pair.dissolvedAt == some s.time.clk then s
    else if q.accepted then (if s.getF F.PAIR_STATUS_ROLE = 4 then s else (measured s).formPair)
    else
      let cause := s.formCause q
      if cause = 0 then ((measured s).sendCell (.form .accept)).formPair
      else ((if cause = 9 then measured s else s).sendCell (.form (.refuse cause))).formRefused cause

/-- FORM: a write of 1 to PAIR.CTRL.FORM (R392). `lead` is the last measurement of the phase (R393), fs. -/
def execForm (peerReady tscEqual phaseOk : Bool) (s : State) (lead : Int := 0) : Result :=
  .next (s.hostWrite Reg.PAIR_CTRL 1 (fun s =>
    if s.bit F.PAIR_STATUS_PROTECTED then s else s.askForm ⟨false, peerReady, tscEqual, phaseOk, lead⟩))

/-- FORM_CELL: a request is judged as one of this engine's own; an acceptance forms the pair; a refusal is recorded, unless this
engine has judged the request itself (R391, R392, R408). -/
def execFormCell (h : CellHead) (m : FormMsg) (peerReady tscEqual phaseOk : Bool) (s : State) (lead : Int := 0) : Result :=
  .next (s.cellIn h (fun s =>
    match m with
    | .request => s.sendHello.tryForm ⟨false, peerReady, tscEqual, phaseOk, lead⟩
    | .accept => s.tryForm ⟨true, peerReady, tscEqual, phaseOk, lead⟩
    | .refuse cause => if s.bit F.PAIR_STATUS_PROTECTED || s.pair.settled then s else s.formRefused cause))

/-- PAIR_HELLO_CELL (R391, R392): it completes the exchange for which a formation waits. -/
def execPairHelloCell (h : CellHead) (p : PairHello) (s : State) : Result :=
  .next (s.cellIn h (fun s =>
    let s := s.withPair (fun x => { x with hello := some p })
    match s.pair.asked with
    | some q => s.tryForm q
    | none => s))

/-- The pair ends on this engine: PROTECTED clears and what the pair held is released. -/
def State.endPair (s : State) : State :=
  let s := ((s.setBit F.PAIR_STATUS_PROTECTED false).setBit F.PAIR_STATUS_LOCAL_LOOM false).setBit
    F.PAIR_STATUS_MIRROR_FULL false
  s.withPair (fun x => { x with
    lostAt := none, building := none, cells := [], writes := [], mirror := [], resv := [], localFrom := none
    fencing := false, ackAt := none })

/-- The Loom stops under R33, where it runs. -/
def State.stopIfRunning (s : State) : State := if s.running && !s.loom.stopping then s.stopLoom else s

/-- A SHADOW becomes WAITING: no ACTIVE directs it, so its Loom stops (R33, R389, R396). -/
def State.toWaiting (s : State) : State := (s.endPair.setF F.PAIR_STATUS_ROLE 3).stopIfRunning

/-- A write of 1 to PAIR.CTRL.DISSOLVE (R392): in IDLE it ends the pair. -/
def State.dissolve (s : State) : State :=
  if s.cur != .idle then s
  else
    let s := s.withPair (fun x => { x with dissolvedAt := some s.time.clk })
    if !s.bit F.PAIR_STATUS_PROTECTED then s
    else if s.isShadow then s.toWaiting.drivePins
    else s.endPair

/-- DISSOLVE (R392). -/
def execDissolve (s : State) : Result := .next (s.hostWrite Reg.PAIR_CTRL 2 (fun s => s.dissolve))

/-- A write of PAIR.CTRL that carries no outcome of the exchange with the peer: the outcomes are free values. -/
def State.pairCtrl (s : State) (v : Word) : State :=
  if v.getLsbD 1 then s.dissolve
  else if v.getLsbD 0 && !s.bit F.PAIR_STATUS_PROTECTED then
    let w := Config.freeWord s.time.free
    s.nextFree.askForm ⟨false, w.getLsbD 0, w.getLsbD 1, w.getLsbD 2, (w.toNat / 8 % 65536 : Nat)⟩
  else s

/-! ### Heartbeats -/

/-- A follow failure (R396): the SHADOW waits, stops, and tells the ACTIVE. -/
def State.followFail (s : State) : State :=
  let m := s.pair.localFrom.getD 0
  let s := ((s.toWaiting.hwSet F.PAIR_EVENTS_FOLLOW_FAIL).tenonEvent 4).pairRecord 7 2 ([0, 0, 0, 0, 0, 0] ++ leBytes 8 m)
  s.sendCell (.heartbeat s.ownBeat)

/-- What a heartbeat of the peer does to a formed pair: a follow failure of this SHADOW is declared (R396); a SHADOW whose
peer dropped the pair waits (R404); a pair that the peer has left ends, outside IDLE because the peer failed to follow. -/
def State.judgeBeat (s : State) (old : Option Heartbeat) (p : Heartbeat) : State :=
  let left := match old with
    | some b => b.prot && !p.prot
    | none => false
  if s.isShadow then
    if s.pair.fencing then s
    else if p.dropped || left then s.toWaiting.drivePins
    else if s.bit F.PAIR_STATUS_LOCAL_LOOM then s.followFail.drivePins
    else s
  else if s.isProtectedActive && left then (if s.cur == .idle then s.endPair else s.endPair.tenonEvent 4)
  else s

/-- HEARTBEAT (R391). -/
def execHeartbeat (h : CellHead) (p : Heartbeat) (s : State) : Result :=
  .next (s.cellIn h (fun s =>
    let old := s.pair.beat
    let s := if s.bit F.PAIR_STATUS_PEER_HEARD then s else (s.setBit F.PAIR_STATUS_PEER_HEARD true).tenonEvent 0
    let s := s.setF F.PAIR_STATUS_PEER_ROLE p.role
    let s := s.withPair (fun x => { x with
      beat := some p, beatTsc := h.tsc, missed := 0, heardAt := some s.time.clk })
    s.judgeBeat old p))

/-- EVENTS.PEER_LOST, the TENON event and the fault class (R401, R404, R409, R415). -/
def State.lostPeer (s : State) : State :=
  ((s.hwSet F.PAIR_EVENTS_PEER_LOST).hwSet F.FLT_CLASS_PEER_LOST).tenonEvent 1

/-- The third consecutive miss (R401, R404). -/
def State.peerSilent (s : State) : State :=
  let s := s.setBit F.PAIR_STATUS_PEER_HEARD false
  let lost : List Byte := [0, 0, 0, 0, 0, 0] ++ leBytes 8 s.pair.beatTsc
  if s.isShadow then
    if s.pair.fencing then s
    else if s.pair.takeover then
      (((s.withPair (fun x => { x with fencing := true })).setBit F.PAIR_STATUS_FENCE_OUT true).hwSet F.PAIR_EVENTS_FENCE_ASSERTED).pairRecord 4 2 []
    else ((s.toWaiting.drivePins).lostPeer).pairRecord 3 2 lost
  else if s.isProtectedActive && s.pair.lostAt.isNone then
    let s := s.lostPeer.pairRecord 3 1 lost
    s.withPair (fun x => { x with lostAt := some s.time.clk })
  else s

/-- HEARTBEAT_MISSED: 1.1 us pass without a heartbeat (R391). -/
def execHeartbeatMissed (s : State) : Result :=
  .next (if s.bit F.DEV_CAPS_TENON then s.withPair (fun x => { x with missNow := true }) else s)

/-- The miss of a clock counts unless a heartbeat arrived in it (R391, R408). -/
def State.missSettle (s : State) : State :=
  if !s.pair.missNow then s
  else
    let s := s.withPair (fun x => { x with missNow := false })
    if s.pair.heardAt == some s.time.clk then s
    else
      let n := s.pair.missed + 1
      let s := (s.rclAdd Reg.PAIR_HB_MISSED 1).withPair (fun x => { x with missed := min 3 n })
      if n = 3 then s.peerSilent else s

/-- DROPPED: 20 us after the loss of the peer the ACTIVE drops the pair, unless it was fenced (R404). -/
def execDropped (s : State) : Result :=
  .next (
    if s.pair.lostAt.isNone || !s.isProtectedActive then s
    else
      let s := s.endPair.withPair (fun x => { x with dropped := true })
      ((s.hwSet F.PAIR_EVENTS_DROPPED).tenonEvent 5).pairRecord 8 1 [])

/-! ### Following -/

/-- MATCH (R391, R395): the SHADOW keeps the cell until its clock m + 96. -/
def execMatchCell (h : CellHead) (m : MatchCell) (s : State) : Result :=
  .next (s.cellIn h (fun s =>
    if s.isShadow then s.withPair (fun x => { x with cells := x.cells ++ [m] }) else s))

/-- The MATCH cell that covers an ACTIVE's clock. -/
def State.cellFor (s : State) (m : Nat) : Option MatchCell :=
  s.pair.cells.find? (fun c => decide (c.first ≤ m) && decide (m < c.first + 16))

/-- The ACTIVE's clock that a SHADOW reproduces in the present evaluations (R395): a match of clock m is issued in m + 1. -/
def State.followClock (s : State) : Nat := s.tsc - 97

/-- MATCH_LATE: no intact MATCH cell covers clock m by clock m + 96 (R396). -/
def execMatchLate (s : State) : Result :=
  .next (
    if s.follows && s.loomRuns && (s.cellFor (s.tsc - 96)).isNone then s.localLoom (s.tsc - 96) else s)

/-- WRITE (R394): the SHADOW keeps a forwarded write until 96 clocks after the ACTIVE's, at whose end it applies one that came in it; a
lost one, or one that comes later, has the effect of R396. -/
def execWrite (h : CellHead) (tsc off : Nat) (v : Word) (s : State) : Result :=
  let lost (s : State) : State := if s.isShadow then s.localLoom tsc else s
  let t := s.cellIn h (fun s =>
    if !s.isShadow then s
    else if tsc + 96 < s.tsc then lost s
    else s.withPair (fun x => { x with writes := x.writes ++ [(tsc + 96, off, v)] }))
  .next (if s.bit F.PAIR_STATUS_LINK_UP && !h.good then lost t else t)

/-- The evaluation of cursor k of a following SHADOW for the ACTIVE's clock m (R395): the met bit decides, and what was
issued is taken from the cell. -/
def State.followCursor (s : State) (m : Nat) (cell : MatchCell) (k : Nat) : State :=
  let i := s.getF (F.LOOM_CURSOR_TREAD k)
  let t := s.treadAt i
  let own := s.condition t (s.cursor k)
  if ((cell.met.getD (m - cell.first) 0).getLsbD k) then
    let issues := cell.issues.filter (fun f => decide (f.clock = m) && decide (f.tread.val = i))
    let base := own.1.getD s.plainMatch
    let x : Match := match issues with
      | f :: _ => { base with iss := { base.iss with instant := f.instant }, mult := f.mult }
      | [] => base
    s.met k i t x (some issues)
  else s.unmet k i t own.2

/-- A following SHADOW's evaluations of a fabric clock (R395, R396). -/
def State.followTick (s : State) : State :=
  let m := s.followClock
  match s.cellFor m with
  | none => s.dueOrder.foldl State.evaluate (s.localLoom m)
  | some cell =>
    let t := s.dueOrder.foldl (fun s k => s.followCursor m cell k) s
    let treads := s.dueOrder.map (fun k => s.getF (F.LOOM_CURSOR_TREAD k))
    let unmatched := cell.issues.any (fun f => decide (f.clock = m) && !treads.contains f.tread.val)
    let t := if unmatched then t.localLoom m else t
    t.withPair (fun x => { x with cells := x.cells.filter (fun c => decide (m < c.first + 15)) })

/-- What a protected ACTIVE reports of a fabric clock: 16 clocks make a MATCH cell (R391). -/
def State.matchTick (s : State) : State :=
  if !s.isProtectedActive then s
  else
    let m := s.tsc - 1
    let c := (s.pair.building).getD { first := m, met := [], issues := [] }
    let c : MatchCell := { c with met := c.met ++ [s.loom.metNow], issues := c.issues ++ s.loom.issuesNow.map (·.2) }
    if 16 ≤ c.met.length then (s.withPair (fun x => { x with building := none })).sendCell (.matchC c)
    else s.withPair (fun x => { x with building := some c })

/-! ### The mirror -/

/-- A consumer header as R236 or R240 lays it out, taken apart. -/
structure HeaderView where
  kind : Nat
  fmt : Nat
  lane : Nat
  flags : Nat
  src : Nat
  cause : Nat
  ts : Nat
  samples : Nat
  pretrig : Nat
  trigFrac : Nat
  axisPos : Int
  delay : Nat
deriving DecidableEq, Repr

/-- The fields of a header; 32 bytes under predecessor behaviour (R240), else 64 (R236). -/
def headerView (h : List Byte) : HeaderView :=
  let w := fieldLe h 0 4
  let common (flags src cause ts samples pretrig frac : Nat) (axisPos : Int) (delay : Nat) : HeaderView :=
    { kind := w % 16, fmt := w / 16 % 16, lane := w / 2 ^ 26, flags := flags, src := src, cause := cause, ts := ts
      samples := samples, pretrig := pretrig, trigFrac := frac, axisPos := axisPos, delay := delay }
  if h.length = 32 then
    common (fieldLe h 4 2) (fieldLe h 6 1) (fieldLe h 7 1) (fieldLe h 16 8 * 2 ^ 32 + fieldLe h 12 4) (fieldLe h 24 4) 0
      (fieldLe h 28 2) 0 0
  else
    common (fieldLe h 4 4) (fieldLe h 14 1) (fieldLe h 15 1) (fieldLe h 24 8 * 2 ^ 32 + fieldLe h 32 4) (fieldLe h 36 5)
      (fieldLe h 41 5) (fieldLe h 46 2) (ofBitsInt 64 (fieldLe h 48 8)) (fieldLe h 56 6)

/-- Bytes of stored data that a header announces: a segment's samples, a report's result (R122, R271, R272). -/
def State.dataExpected (s : State) (h : List Byte) : Nat :=
  let v := headerView h
  if v.kind = 1 then dataBytes v.fmt v.samples
  else if v.kind = 3 ∧ 0xF00 ≤ v.trigFrac % 4096 then (s.descOf (v.trigFrac % 256)).resultBytes
  else 0

/-- The header a mirrored record has for a consumer, with its GSEQ. -/
def Mirror.at (m : Mirror) (toStream : Bool) : Option (Nat × List Byte) := if toStream then m.stream else m.host

/-- Whether a mirrored record is held whole for a consumer (R397). -/
def State.heldWhole (s : State) (m : Mirror) (toStream : Bool) : Bool :=
  match m.at toStream with
  | some (_, h) => decide (s.dataExpected h ≤ m.data.length)
  | none => false

/-- Chunks of 2 KiB a mirrored record takes, its headers among its bytes. -/
def Mirror.chunks (m : Mirror) : Nat := ceilDiv (64 * (b2n m.host.isSome + b2n m.stream.isSome) + m.data.length) 2048

/-- Whether a mirrored record has its place in the mirror area. -/
def Mirror.placed (m : Mirror) : Bool := m.toldHost || m.toldStream || !m.pcs.isEmpty

/-- Chunks held in the mirror area: of records confirmed to the ACTIVE. -/
def State.mirrorUsed (s : State) : Nat := s.pair.mirror.foldl (fun a m => if m.placed then a + m.chunks else a) 0

/-- What the tenon mirror requester writes when a record is confirmed for a consumer (R296, R397): the data with the header behind it,
or, where the record has its place, the header alone (log 154). -/
def State.mirrorWrite (s : State) (m : Mirror) (toStream : Bool) (pcs : List Nat) : State :=
  let h := ((m.at toStream).map (·.2)).getD []
  let bytes := if m.placed then h else m.data ++ h
  let lo := if m.placed then m.data.length + 64 else 0
  s.offerArea 10 true bytes lo (lo + bytes.length) (placeOver 1 (m.ctx * 2 ^ 48 + m.cseq) pcs)

/-- Changes the mirrored record with a context and CSEQ. -/
def State.mapMirror (s : State) (c cseq : Nat) (f : Mirror → Mirror) : State :=
  s.withPair (fun x => { x with mirror := x.mirror.map (fun m => if m.ctx == c && m.cseq == cseq then f m else m) })

/-- The mirrored record with a context and CSEQ, made if there is none. -/
def State.touchMirror (s : State) (c cseq : Nat) : State :=
  if s.pair.mirror.any (fun m => m.ctx == c && m.cseq == cseq) then s
  else
    let m : Mirror :=
      { ctx := c, cseq := cseq, host := none, stream := none, data := [], toldHost := false, toldStream := false
        ackHost := false, ackStream := false, pcs := [] }
    s.withPair (fun x => { x with mirror := x.mirror ++ [m] })

/-- The pseudo-channels that take a mirrored record's chunks, in rotation over the mirror area. -/
def State.mirrorPcs (s : State) (n : Nat) : List Nat :=
  let set := s.pair.resv.map (·.1)
  (List.range n).filterMap (fun i => set[(s.pair.rot + i) % max 1 set.length]?)

/-- Confirms a record to the ACTIVE for one consumer, where it is held whole and the mirror area and its pseudo-channels take
it (R397, R398). -/
def State.confirm (s : State) (m : Mirror) (toStream : Bool) : State :=
  let told := if toStream then m.toldStream else m.toldHost
  if told || !s.heldWhole m toStream then s
  else
    let placed := m.placed
    let pcs := if placed then m.pcs else s.mirrorPcs m.chunks
    if !placed && decide ((s.reg Reg.PAIR_MIRROR_QUOTA).toNat < s.mirrorUsed + m.chunks) then
      s.setBit F.PAIR_STATUS_MIRROR_FULL true
    else if pcs.any s.pcFrozen then s
    else
      let g := ((m.at toStream).map (·.1)).getD 0
      let s := s.mapMirror m.ctx m.cseq (fun q =>
        if toStream then { q with toldStream := true, pcs := pcs } else { q with toldHost := true, pcs := pcs })
      let s := s.withPair (fun x => { x with
        rot := if placed then x.rot else x.rot + m.chunks
        nextHost := if toStream then x.nextHost else some (max (x.nextHost.getD 0) (g + 1))
        nextStream := if toStream then some (max (x.nextStream.getD 0) (g + 1)) else x.nextStream })
      (s.mirrorWrite m toStream pcs).sendCell (.mirrored (if toStream then .stream else .host) g)

/-- Confirms every record that can be confirmed. -/
def State.confirmAll (s : State) : State :=
  let s := s.setBit F.PAIR_STATUS_MIRROR_FULL false
  s.pair.mirror.foldl (fun s m =>
    let now (s : State) : Mirror := (s.pair.mirror.find? (fun q => q.ctx == m.ctx && q.cseq == m.cseq)).getD m
    let s := s.confirm (now s) false
    s.confirm (now s) true) s

/-- HAND (R397): the SHADOW stores a consumer's header, and confirms one that takes the place of another anew. -/
def execHand (h : CellHead) (k : Consumer) (c : Fin 1024) (cseq gseq : Nat) (header : List Byte) (s : State) : Result :=
  .next (s.cellIn h (fun s =>
    if !s.isShadow then s
    else
      ((s.touchMirror c cseq).mapMirror c cseq (fun m =>
        if k = .stream then { m with stream := some (gseq, header), toldStream := m.toldStream && m.stream == some (gseq, header) }
        else { m with host := some (gseq, header), toldHost := m.toldHost && m.host == some (gseq, header) })).confirmAll))

/-- DATA (R397): the SHADOW stores data of a record at its offset. -/
def execData (h : CellHead) (c : Fin 1024) (cseq off : Nat) (bytes : List Byte) (s : State) : Result :=
  .next (s.cellIn h (fun s =>
    if !s.isShadow then s
    else
      ((s.touchMirror c cseq).mapMirror c cseq (fun m =>
        if m.data.length < off then m
        else { m with data := m.data.take off ++ bytes ++ m.data.drop (off + bytes.length) })).confirmAll))

/-- MIRRORED (R397): the ACTIVE may make the record VISIBLE; ignored once the pair is dropped (R408). -/
def execMirrored (h : CellHead) (k : Consumer) (gseq : Nat) (s : State) : Result :=
  .next (s.cellIn h (fun s =>
    if !s.isProtectedActive then s
    else if k = .stream then
      s.mapRecs (fun r => r.state == .handed && r.stream.gseq == some gseq) (fun r =>
        { r with stream := { r.stream with mirrored := true } })
    else
      s.mapRecs (fun r => r.state == .handed && r.host.gseq == some gseq) (fun r =>
        { r with host := { r.host with mirrored := true } })))

/-- Removes records that the peer has delivered, freeing what they hold; a SEGMENT holdoff counts them as handed over (R194). -/
def State.dropRecords (s : State) (sel : Record → Bool) : State :=
  let gone := s.seg.recs.filter sel
  let s : State := { s with seg := { s.seg with recs := s.seg.recs.filter (fun r => !sel r) } }
  gone.foldl (fun s r => (((s.noteHanded r).freeBuffer r).gcChunks r.ctx).serveMarkers) s

/-- The own records of a SHADOW, or of one that has taken over, whose every consumer has acknowledged the peer's copy retire once
they are READY (R398, R402). -/
def State.retireShadow (s : State) : State :=
  s.dropRecords (fun r => r.state == .ready && (r.host.wanted || r.stream.wanted) &&
    (!r.host.wanted || r.host.acked) && (!r.stream.wanted || r.stream.acked))

/-- PAIR_ACK_CELL (R398). -/
def execPairAckCell (h : CellHead) (k : Consumer) (c : Fin 1024) (first last : Nat) (s : State) : Result :=
  .next (s.cellIn h (fun s =>
    if !s.isShadow then s
    else
      let hit (ctx cseq : Nat) : Bool := ctx == c.val && decide (first ≤ cseq) && decide (cseq ≤ last)
      let s := s.withPair (fun x => { x with
        mirror := (x.mirror.map (fun m =>
          if hit m.ctx m.cseq then (if k = .stream then { m with ackStream := true } else { m with ackHost := true })
          else m)).filter (fun m => !((m.host.isNone || m.ackHost) && (m.stream.isNone || m.ackStream) &&
            (m.ackHost || m.ackStream))) })
      let s := s.mapRecs (fun r => hit r.ctx r.cseq && r.state != .handed) (fun r =>
        if k = .stream then { r with stream := { r.stream with acked := true } }
        else { r with host := { r.host with acked := true } })
      s.retireShadow.confirmAll))

/-- TENON_RESEND: HAND, DATA, ACK and BBX cells from a CELL_SEQ on are sent again (R391). -/
def execTenonResend (h : CellHead) (first : Nat) (s : State) : Result :=
  .next (s.cellIn h (fun s =>
    let again := s.pair.sent.filter (fun p => decide ((p.1 + 2 ^ 32 - first) % 2 ^ 32 < 2 ^ 31))
    again.foldl (fun s p => s.emitCell p.1 p.2) s))

/-! ### Fencing and takeover -/

/-- PAIR_FENCED_N_ASSERT (R400): delivery is gated, TRIG_OUT falls and the engine becomes FENCED. -/
def execPairFencedNAssert (s : State) : Result :=
  let s : State := { s with board := { s.board with fenced := true } }
  .next (
    if !s.bit F.DEV_CAPS_PAIRED || !s.operational || s.getF F.PAIR_STATUS_ROLE == 4 then s
    else
      let before := s.getF F.PAIR_STATUS_ROLE
      let s := (s.endPair.setF F.PAIR_STATUS_ROLE 4).stopIfRunning.drivePins
      ((s.hwSet F.PAIR_EVENTS_FENCED).hwSet F.FLT_CLASS_FENCED).pairRecord 6 before [])

/-- The cause that a gap's code names (R238). -/
def GapCause.ofCode (n : Nat) : GapCause :=
  match n with
  | 1 => .overwritten | 2 => .ringFull | 3 => .tableFull | 4 => .clkBypass | 5 => .clkRealign | 6 => .hbmRetired
  | 7 => .hbmUnreadable | 8 => .freezeTimeout | 9 => .streamDropped | _ => .beamDegraded

/-- How a mirrored record stands at a consumer when it is delivered again; `base` is whether the record itself is a gap. -/
def Mirror.delivery (m : Mirror) (toStream base : Bool) (cause : Nat) : Delivery :=
  match m.at toStream with
  | none => Delivery.new false
  | some (g, h) =>
    let v := headerView h
    let gap := if v.kind = 2 ∧ (!base ∨ v.cause ≠ cause) then some (GapCause.ofCode v.cause) else none
    let acked := if toStream then m.ackStream else m.ackHost
    { wanted := true, gseq := some g, gap := gap, visible := acked, acked := acked,
      spilled := toStream && v.flags.testBit 13, mirrored := true, hand := false, again := true }

/-- The record that a mirrored one is delivered again as (R402). -/
def State.replayRecord (s : State) (m : Mirror) : Record :=
  let views := ([m.host, m.stream].filterMap id).map (fun p => headerView p.2)
  let v := (views.find? (fun v => v.kind != 2)).getD (views.headD (headerView []))
  let flags := v.flags % 2 ^ 11 + (if v.flags.testBit 12 then 2 ^ 12 else 0) + v.flags / 2 ^ 14 * 2 ^ 14
  let report := v.kind == 3 && decide (0xF00 ≤ v.trigFrac % 4096)
  let kind : RecKind := if v.kind = 2 then .gap else if v.kind = 3 then .marker else .segment
  let data := if report then m.data else if v.kind = 1 then m.data.take (dataBytes v.fmt v.samples) else []
  { s.blankRecord m.ctx .segment with
    cseq := m.cseq, kind := kind, state := .handed, lane := v.lane, fmt := v.fmt, src := v.src, cause := v.cause,
    ts := v.ts, samples := v.samples, pretrig := v.pretrig, trigFrac := v.trigFrac, axisPos := v.axisPos,
    delay := v.delay, flags := flags, start := 0, reportPcs := m.pcs, job := none, data := data,
    host := m.delivery false (v.kind == 2) v.cause, stream := m.delivery true (v.kind == 2) v.cause, replay := true }

/-- Whether a record was mirrored for a consumer: MIRRORED has confirmed it (R397). -/
def Mirror.told (m : Mirror) (toStream : Bool) : Bool := if toStream then m.toldStream else m.toldHost

/-- Whether a mirrored record is still to be acknowledged at a consumer (R402). -/
def Mirror.owed (m : Mirror) (toStream : Bool) : Bool := m.told toStream && !(if toStream then m.ackStream else m.ackHost)

/-- Whether an own record still wants a consumer for which its mirrored copy was not confirmed. -/
def Mirror.lacks (m : Mirror) (own : Option Record) (toStream : Bool) : Bool :=
  match own with
  | some r => let d := if toStream then r.stream else r.host
    d.wanted && !d.acked && !m.told toStream
  | none => false

/-- A record's deliveries after a takeover (R402): from the mirror where it was mirrored; at a consumer where it was not, as one of this
engine's own records with the next GSEQ of that consumer. Answers the numbers that follow. -/
def State.mergeRecord (s : State) (m : Mirror) (own : Option Record) (next : Nat × Nat) : Record × (Nat × Nat) :=
  let kept : Mirror := { m with host := if m.toldHost then m.host else none, stream := if m.toldStream then m.stream else none }
  let r := s.replayRecord kept
  let fresh (g : Nat) : Delivery := { Delivery.new true with gseq := some g }
  let (r, h) := if m.lacks own false then ({ r with host := fresh next.1 }, next.1 + 1) else (r, next.1)
  if m.lacks own true then ({ r with stream := fresh next.2 }, h, next.2 + 1) else (r, h, next.2)

/-- The SHADOW becomes ACTIVE (R401 to R403): mirrored records are sent again in GSEQ order, its own copies of them retire,
and its own later records take the numbers after the last mirrored one. -/
def State.takeOver (s : State) : State :=
  let local' := s.bit F.PAIR_STATUS_LOCAL_LOOM
  let own (m : Mirror) : Option Record := s.seg.recs.find? (fun r => r.ctx == m.ctx && r.cseq == m.cseq)
  let told := s.pair.mirror.filter (fun m => m.toldHost || m.toldStream)
  let keep := told.filter (fun m => m.owed false || m.owed true || m.lacks (own m) false || m.lacks (own m) true)
  let nextHost := s.pair.nextHost.getD (s.get64 Reg.SEG_GSEQ_HOST_LO)
  let nextStream := s.pair.nextStream.getD (s.get64 Reg.SEG_GSEQ_STREAM_LO)
  let firstOf (toStream : Bool) (last : Nat) : Nat :=
    keep.foldl (fun a m => if m.owed toStream then min a ((m.at toStream).map (·.1) |>.getD a) else a) last
  let firstHost := firstOf false nextHost
  let firstStream := firstOf true nextStream
  let (again, next) := keep.foldl (fun (a : List Record × (Nat × Nat)) m =>
    let (r, n) := s.mergeRecord m (own m) a.2
    (a.1 ++ [r], n)) ([], nextHost, nextStream)
  let s := s.dropRecords (fun r => told.any (fun m => m.ctx == r.ctx && m.cseq == r.cseq))
  let s := s.mapRecs (fun r => r.state != .handed) (fun r => { r with
    host := { r.host with wanted := r.host.wanted && !r.host.acked }
    stream := { r.stream with wanted := r.stream.wanted && !r.stream.acked } })
  let resv := s.pair.resv
  let s := s.endPair.withPair (fun x => { x with resv := if again.isEmpty then [] else resv })
  let s : State := { s with seg := { s.seg with recs := again ++ s.seg.recs } }
  let s := (s.set64 Reg.SEG_GSEQ_HOST_LO next.1).set64 Reg.SEG_GSEQ_STREAM_LO next.2
  let s : State := { s with strm := { s.strm with gseq := firstStream, frame := 0, flying := false, visible := nextStream } }
  let s := (s.setF F.PAIR_STATUS_ROLE 1).setBit F.PAIR_STATUS_LOOM_DELAYED (local' && s.running)
  let s := (s.set64 Reg.PAIR_TAKEOVER_TSC_LO s.tsc).drivePins
  (((s.hwSet F.PAIR_EVENTS_TAKEOVER).hwSet F.FLT_CLASS_TAKEOVER).tenonEvent 3).pairRecord 5 2
    ([0, 0, 0, 0, 0, 0] ++ leBytes 8 firstHost ++ leBytes 8 nextHost)

/-- PAIR_FENCE_ACK (R401): a SHADOW that fences takes over in the next fabric clock. -/
def execPairFenceAck (s : State) : Result :=
  let s : State := { s with board := { s.board with fenceAck := true } }
  .next (if s.isShadow && s.pair.fencing && s.pair.ackAt.isNone
    then s.withPair (fun x => { x with ackAt := some s.time.clk }) else s)

/-- The takeover clock, the one after PAIR_FENCE_ACK was seen: the cells of the clock apply first (R401, R408). -/
def State.takeoverSettle (s : State) : State := match s.pair.ackAt with
  | none => s
  | some n =>
    if n < s.time.clk then
      let s := s.withPair (fun x => { x with ackAt := none })
      if s.isShadow then s.takeOver else s
    else s

/-- The pair at the end of a clock (R408). -/
def State.pairSettle (s : State) : State := s.missSettle.takeoverSettle.formSettle

/-! ### Phase, link and black-box copies -/

/-- PHASE_MEASURE: the ACTIVE's edge follows the SHADOW's own by `lead` femtoseconds on average (R393). -/
def execPhaseMeasure (lead : Int) (s : State) : Result := .next (if s.isShadow then s.measurePhase lead else s)

/-- TENON_LINK_UP (R390, R392): the engines greet each other. -/
def execTenonLinkUp (s : State) : Result :=
  .next (
    if !s.bit F.DEV_CAPS_TENON || !(s.cur == .selftest || s.operational) || s.bit F.PAIR_STATUS_LINK_UP then s
    else
      let s := (s.setBit F.PAIR_STATUS_LINK_UP true).withPair (fun x => { x with expect := none, missing := [] })
      s.sendHello)

/-- TENON_LINK_DOWN (R405): a formation that waits for the peer's HELLO fails its first check (R392). -/
def execTenonLinkDown (s : State) : Result :=
  let t := (s.setBit F.PAIR_STATUS_LINK_UP false).withPair (fun x => { x with hello := none, expect := none, missing := [] })
  .next (match s.pair.asked with
    | some q => t.tryForm q
    | none => t)

/-- The record that a peer's becomes here (R405). -/
def peerRecord (b : List Byte) : BbxRecord :=
  { rseq := 0, secs := fieldLe b 6 2, pcc := fieldLe b 8 4, hours := fieldLe b 12 4, source := BitVec.ofNat 8 (fieldLe b 16 1),
    rflags := BitVec.ofNat 8 (fieldLe b 17 1), code := BitVec.ofNat 16 (fieldLe b 18 2),
    origin := BitVec.ofNat 8 (fieldLe b 20 1) ||| 0x80#8, tsc := BitVec.ofNat 64 (fieldLe b 0 6),
    payload := sliceBytes b 30 32 }

/-- BBX (R405): a record of the peer is stored as one of this engine's own, with ORIGIN.PEER. -/
def execBbx (h : CellHead) (record : List Byte) (s : State) : Result :=
  .next (s.cellIn h (fun s => if s.bit F.DEV_CAPS_PAIRED then s.pushRecord (peerRecord record) else s))

end Sys2Proof.Machine
end

