-- ==== Sys2Proof/Machine/HostRead.lean ====
section
/-! DEFINITION. What a host read of BAR0 returns: registers whose content is computed from the engine's state, the latching
of partners (spec/03_axis_and_loom.md R81) and the clearing reads (spec/00_scope.md R8, R10). -/

namespace Sys2Proof.Machine

/-- The low or the high 32 bits of a quantity. -/
def half (hi : Bool) (n : Nat) : Word := BitVec.ofNat 32 (if hi then n / 2 ^ 32 else n)

/-- The low or the high 32 bits of a signed 64-bit quantity. -/
def intHalf (hi : Bool) (n : Int) : Word := half hi (toBitsInt 64 n)

/-- A rate in millions, rounded up (R128). -/
def millions (r : Rat) : Nat := (r / 1000000).ceil.toNat

/-- A word of one-bit answers for the numbers from `base` on. -/
def maskOf (base : Nat) (f : Nat → Bool) : Word :=
  BitVec.ofNat 32 ((List.range 32).foldl (fun a i => a + b2n (f (base + i)) * 2 ^ i) 0)

/-- Words of AXIS that report the position in effect and the estimator's rate (R67, R81). -/
def State.viewAxis (s : State) (off : Nat) (raw : Word) : Word :=
  if off = Reg.AXIS_POS_LO ∨ off = Reg.AXIS_POS_HI then intHalf (off = Reg.AXIS_POS_HI) (s.axisReported s.time.clk)
  else if off = Reg.AXIS_RATE_LO ∨ off = Reg.AXIS_RATE_HI then
    intHalf (off = Reg.AXIS_RATE_HI) (if s.axisIsTime then 2 ^ 48 else s.axis.rate)
  else if off = Reg.AXIS_CFG ∧ s.bit F.DRAFT_STATUS_COMPAT_ACTIVE then raw &&& 0xFFFFFFFC
  else raw

/-- Words of LOOM: the live contexts and the tread window (R82, R104). -/
def State.viewLoom (s : State) (off : Nat) (raw : Word) : Word :=
  if off = Reg.LOOM_STATUS then insertField raw 16 7 s.lives.length
  else if 0x38000 ≤ off ∧ off % 4 = 0 then s.windowRead ((off - 0x38000) / 4)
  else raw

/-- Words of CTX: what the predecessor lacks reads zero (R436). -/
def State.viewCtx (s : State) (off : Nat) (raw : Word) : Word :=
  if !s.bit F.DRAFT_STATUS_COMPAT_ACTIVE then raw
  else
    let c := (off - 0x40000) / 0x100
    if off = Reg.CTX_HOLDOFF_HI c then insertField raw 28 2 0
    else if off = Reg.CTX_STORE c then insertField raw (F.CTX_STORE_STREAM_EN c).lo 1 0
    else if off = Reg.CTX_STREAM_QUOTA c then 0
    else raw

/-- Words of CONV: the commitments (R128). -/
def State.viewConv (s : State) (off : Nat) (raw : Word) : Word :=
  if off = Reg.CONV_BW_COMMIT then BitVec.ofNat 32 (millions s.commitments.1)
  else if off = Reg.CONV_W16_COMMIT then BitVec.ofNat 32 (millions s.commitments.2.1)
  else raw

/-- Words of CAL: the monitor queue (R144, R146). -/
def State.viewCal (s : State) (off : Nat) (raw : Word) : Word :=
  if off = Reg.CAL_MON_PEEK ∨ off = Reg.CAL_MON_POP then s.monOldest
  else if off = Reg.CAL_MON_COUNT then BitVec.ofNat 32 s.cal.queue.length
  else raw

/-- Words of CLK: an output that the structure leaves out reads zero (R40). -/
def State.viewClk (s : State) (off : Nat) (raw : Word) : Word :=
  let o := off - 0xA0200
  if off < 0xA0200 ∨ 0xA0340 ≤ off then raw
  else
    let p := o / 0x40
    if (s.clk.masks.getD p 0).getLsbD (o % 0x40 / 4) then raw else 0

/-- The newest input that output n of a stage on a uniform grid uses (R205, R208 to R215), PEAK and ENVELOPE a whole interval. -/
def newestInput (p : LaneSet) (kind : Nat) (n : Int) : Int :=
  match kind with
  | 1 => n
  | 4 => if p.rsDen = 0 then n else n * p.rsNum / p.rsDen
  | 5 | 6 => (n + 1) * stageRatio p kind - 1
  | _ => n * stageRatio p kind

/-- Whether a lane withholds its outputs (R206): it has not given the first. -/
def State.warming (s : State) (l : Nat) : Bool :=
  let x := s.lane l
  x.ctx.isSome && (
    if freeRate x.eff x.kinds then (x.looseOutputs s.takenNow).isEmpty
    else decide (s.takenNow ≤ x.kinds.reverse.foldl (fun n k => newestInput x.eff k n) (s.firstGiven l)))

/-- Words of a lane: its warm-up and the coefficient window (R217, R224, R225). -/
def State.viewLane (s : State) (off : Nat) (raw : Word) : Word :=
  let l := (off - 0xC0000) / 0x800
  let o := (off - 0xC0000) % 0x800
  if 0x400 ≤ o ∧ o % 4 = 0 then s.coefRead l ((o - 0x400) / 4)
  else if o = 4 then insertField raw 4 1 (b2n (s.warming l))
  else raw

/-- Words of SEG: placement and the contexts' records (R245, R249). -/
def State.viewSeg (s : State) (off : Nat) (raw : Word) : Word :=
  if off = Reg.SEG_STATUS then BitVec.ofNat 32 (if s.board.trained then s.pcsInService.length else 64)
  else if off = Reg.SEG_TABLE_FREE then BitVec.ofNat 32 (if s.board.trained then s.tableFree else tableSlots)
  else if off = Reg.SEG_FREE_CHUNKS then BitVec.ofNat 32 ((List.range 64).foldl (fun a p => a + s.pcFree p) 0)
  else if off = Reg.SEG_RESERVED_CHUNKS then BitVec.ofNat 32 ((List.range 64).foldl (fun a p => a + s.pcReserved p) 0)
  else if (off = Reg.SEG_GSEQ_STREAM_LO ∨ off = Reg.SEG_GSEQ_STREAM_HI) ∧ s.bit F.DRAFT_STATUS_COMPAT_ACTIVE then 0
  else if Reg.SEG_PC_LOAD 0 ≤ off ∧ off < Reg.SEG_PC_LOAD 64 then
    let p := (off - Reg.SEG_PC_LOAD 0) / 4
    BitVec.ofNat 32 (b2n (s.pcInService p) * 2 ^ 31 + b2n (s.pcFrozen p) * 2 ^ 30 + millions (s.pcLoad p) % 2 ^ 20)
  else if Reg.SEG_CSTAT_NEXT_LO 0 ≤ off ∧ off < Reg.SEG_CSTAT_NEXT_LO 1024 then
    let c := (off - Reg.SEG_CSTAT_NEXT_LO 0) / 16
    let k := s.keepOf c
    match (off - Reg.SEG_CSTAT_NEXT_LO 0) % 16 with
    | 0 => half false k.next
    | 4 => BitVec.ofNat 32 (b2n (s.isLive c) * 2 ^ 31 + b2n (!k.resv.isEmpty) * 2 ^ 30 + b2n k.run.isSome * 2 ^ 29 +
        b2n (k.heldHost || k.heldStream) * 2 ^ 28 + k.stripe.length * 2 ^ 16 + k.next / 2 ^ 32 % 2 ^ 16)
    | 8 => BitVec.ofNat 32 (((s.recsOf c).flatMap s.chunksHeld).eraseDups.length)
    | 12 => BitVec.ofNat 32 (s.recsOf c).length
    | _ => raw
  else raw

/-- The low halves of up to eight bytes, the first lowest: BEAM.POOL_LO and _HI hold eight beams each (R278). DESIGN CHOICE
(log 122): eight pools of 8 bits do not fit a register of 32. -/
def nibbles (l : List Byte) : Word := BitVec.ofNat 32 (l.foldr (fun b a => b.toNat % 16 + 16 * a) 0)

/-- Words of BEAM: beams, pools and jobs (R263, R278). -/
def State.viewBeam (s : State) (off : Nat) (raw : Word) : Word :=
  if off = Reg.BEAM_STATUS then maskOf 0 (fun i => if i < 16 then s.beamInService i else (s.beamJob (i - 16)).isSome)
  else if off = Reg.BEAM_POOL_LO then nibbles (s.beam.pools.take 8)
  else if off = Reg.BEAM_POOL_HI then nibbles ((s.beam.pools.drop 8).take 8)
  else if Reg.BEAM_BEAM_STATUS 0 ≤ off ∧ off < Reg.BEAM_BEAM_STATUS 16 ∧ off % 16 = 0 then
    let b := (off - Reg.BEAM_BEAM_STATUS 0) / 16
    match s.beamJob b with
    | some j => BitVec.ofNat 32 (b2n (s.beamInService b) * 2 ^ 31 + 2 ^ 30 + j * 2 ^ 16)
    | none => BitVec.ofNat 32 (b2n (s.beamInService b) * 2 ^ 31)
  else if 0xF4000 ≤ off ∧ off < 0xF8000 then
    let j := (off - 0xF4000) / 0x40
    if off = Reg.BEAM_JOB_STATE j then s.jobStateWord j
    else if off = Reg.BEAM_JOB_SWEEPS j then BitVec.ofNat 32 ((s.job j).cur.sweeps % 2 ^ 25)
    else raw
  else raw

/-- The pseudo-channel that MEM.QWIN names, and the transaction of its pool. -/
def State.queueEntry (s : State) : Nat × Option PoolEntry :=
  let sel := s.reg Reg.MEM_QWIN_SEL
  (fieldOf sel 16 6, (s.pool (fieldOf sel 16 6))[fieldOf sel 0 5]?)

/-- Words of MEM: the pseudo-channels and the queue window (R289, R302). A chunk index numbers the 2 KiB of the pseudo-channels in
order, 393,216 to each (log 147). -/
def State.viewMem (s : State) (off : Nat) (raw : Word) : Word :=
  if off = Reg.MEM_STATUS then
    insertField (insertField raw 8 7 s.pcsInService.length) 16 7 ((List.range 64).filter (fun p => s.pcState p == 2)).length
  else if off = Reg.MEM_RETIRED_LO ∨ off = Reg.MEM_RETIRED_HI then
    maskOf (if off = Reg.MEM_RETIRED_HI then 32 else 0) (fun p => s.pcState p == 4)
  else if off = Reg.MEM_FROZEN_LO ∨ off = Reg.MEM_FROZEN_HI then
    maskOf (if off = Reg.MEM_FROZEN_HI then 32 else 0) (fun p => s.pcState p == 2)
  else if off = Reg.MEM_QWIN0 then
    match s.queueEntry with
    | (p, some e) =>
      let (col, bank, row) := s.placeIn p e.addr
      BitVec.ofNat 32 (2 ^ 31 + b2n e.write * 2 ^ 30 + bank % 64 * 2 ^ 24 + row % 2 ^ 14 * 2 ^ 10 + col % 32 * 32)
    | _ => 0
  else if off = Reg.MEM_QWIN1 then
    match s.queueEntry with
    | (_, some e) => BitVec.ofNat 32 (e.requester % 16 * 2 ^ 24 + e.order % 2 ^ 16)
    | _ => 0
  else if off = Reg.MEM_QWIN2 then
    match s.queueEntry with
    | (p, some e) => BitVec.ofNat 32 (p * 393216 + e.addr / 2048)
    | _ => 0
  else if 0x100100 ≤ off ∧ off < 0x101100 then
    let p := (off - 0x100100) / 0x40
    if off = Reg.MEM_PC_OUTSTANDING p then BitVec.ofNat 32 (s.pool p).length
    else if off = Reg.MEM_PC_STATE p then insertField raw 8 1 (b2n (s.inOrder p none (s.pool p)))
    else raw
  else raw

/-- Words of ARB: the requesters' state (R299, R303). -/
def State.viewArb (s : State) (off : Nat) (raw : Word) : Word :=
  let st := (off - 0x110000) / 0x1000
  let o := (off - 0x110000) % 0x1000
  if st < 2 ∧ 0x80 ≤ o ∧ o < 0xB0 then
    let r := (o - 0x80) / 4
    let x := s.shuttle st
    BitVec.ofNat 32 (b2n (s.arbMasked st r) * 2 ^ 16 +
      min 16 (requestCount (x.queue r)) * 2 ^ 8 + sparseGet (fun _ => 0) x.wait r % 256)
  else raw

/-- Words of DMA: channels and queues (R322, R326, R331). -/
def State.viewDma (s : State) (off : Nat) (raw : Word) : Word :=
  if off = Reg.DMA_HALTED then maskOf 0 s.chanHeld
  else if 0x120400 ≤ off ∧ off < 0x120C00 ∧ off % 0x40 = 8 then
    insertField raw 0 3 (s.chanState ((off - 0x120400) / 0x40))
  else if 0x121000 ≤ off ∧ off < 0x122000 ∧ off % 0x40 = 0x30 then
    let q := (off - 0x121000) / 0x40
    BitVec.ofNat 32 (b2n (s.compFull q) * 4 + b2n (s.queue q).starved * 2 +
      b2n (s.queueEnabled q && s.compPhase q))
  else raw

/-- The bytes waiting at the stream port, all contexts (R342). -/
def State.streamBacklog (s : State) : Nat :=
  s.seg.recs.foldl (fun a r =>
    if r.state == .handed && r.kind != .gap && r.waitingAt true && r.stream.gap.isNone then a + 64 + r.data.length else a) 0

/-- Words of STRM (R341, R346). -/
def State.viewStrm (s : State) (off : Nat) (raw : Word) : Word :=
  if off = Reg.STRM_COMMIT then BitVec.ofNat 32 (millions s.commitments.2.2)
  else if off = Reg.STRM_BACKLOG then BitVec.ofNat 32 (satTo (2 ^ 32 - 1) (ceilDiv s.streamBacklog 64))
  else raw

/-- Words of DISP: PENDING of a layer reads 1 while its shadow differs from what is in effect (R356, R362). -/
def State.viewDisp (s : State) (off : Nat) (raw : Word) : Word :=
  if Reg.DISP_LAYER_STATUS 0 ≤ off ∧ off < 0x140200 ∧ off % 0x40 = 0x1C then
    let n := (off - 0x140100) / 0x40
    insertField raw 1 1 (b2n ((List.range 7).any (fun i =>
      s.reg (Reg.DISP_LAYER_CFG n + 4 * i) != s.dispEff (Reg.DISP_LAYER_CFG n + 4 * i))))
  else raw

/-- Words of PAIR: the fence pins and the mirror area (R397, R410). -/
def State.viewPair (s : State) (off : Nat) (raw : Word) : Word :=
  if off = Reg.PAIR_ID then insertField (insertField raw 18 1 (b2n s.board.fenceAck)) 17 1 (b2n (!s.board.fenced))
  else if off = Reg.PAIR_MIRROR_USED then BitVec.ofNat 32 s.mirrorUsed
  else raw

/-- Words of FLT: the summary and the contexts held (R424, R430). -/
def State.viewFlt (s : State) (off : Nat) (raw : Word) : Word :=
  if off = Reg.FLT_SUMMARY then
    BitVec.ofNat 32 (b2n (s.bit F.FLT_FATAL_SEEN) * 16 + b2n (s.reg Reg.FLT_BBX != 0) * 8 +
      b2n (s.reg Reg.FLT_DRAFT != 0) * 4 + b2n (s.reg Reg.FLT_HOST != 0) * 2 + b2n (s.reg Reg.FLT_CLASS != 0))
  else if off = Reg.FLT_HELD then
    BitVec.ofNat 32 (s.seg.keep.filter (fun q => q.2.heldHost || q.2.heldStream)).length
  else raw

/-- Whether a commit is in progress (R376, R385; DEDUCED, log 153): a record waits, no latched range holds it back, and a copy is
in service. -/
def State.committing (s : State) : Bool := !s.bbx.ring.isEmpty && !s.snapBlocks && !s.bbxLost

/-- BBX.PENDING, of a ring of 1,024 records, and STATUS.COMMITTING (R376, R385). -/
def State.viewBbx (s : State) (off : Nat) (raw : Word) : Word :=
  if off = Reg.BBX_PENDING then BitVec.ofNat 32 (min 1024 s.bbx.ring.length)
  else if off = Reg.BBX_STATUS then insertField raw 0 1 (b2n s.committing)
  else raw

/-- What a register shows, without any effect of the read. -/
def State.readValue (s : State) (off : Nat) : Word :=
  let raw := if accessAt off == .wo then 0 else s.reg off
  match off / 0x10000 with
  | 2 => s.viewAxis off raw
  | 3 => s.viewLoom off raw
  | 4 | 5 | 6 | 7 => s.viewCtx off raw
  | 8 => s.viewConv off raw
  | 9 => s.viewCal off raw
  | 0xA => s.viewClk off raw
  | 0xC | 0xD => s.viewLane off raw
  | 0xE => s.viewSeg off raw
  | 0xF => s.viewBeam off raw
  | 0x10 => s.viewMem off raw
  | 0x11 => s.viewArb off raw
  | 0x12 => s.viewDma off raw
  | 0x13 => s.viewStrm off raw
  | 0x14 => s.viewDisp off raw
  | 0x15 => s.viewPair off raw
  | 0x16 => s.viewFlt off raw
  | 0x17 => s.viewBbx off raw
  | _ => raw

/-- The partners that a read of a register latches: HI of a pair (R81), LO and HI of a fraction (R183, R225). -/
def latchPartners (off : Nat) : List Nat :=
  let b := off / 0x10000
  if off == Reg.DEV_SERIAL_LO ||
      (b == 2 && 0x20028 ≤ off && off % 8 == 0 && (off ≤ 0x20048 || (0x20100 ≤ off && off < 0x20280))) ||
      off == Reg.CLK_TSC_LO || off == Reg.CLK_TSC_LOAD_LO || off == Reg.CLK_BUILD_OUT_LO || off == Reg.CLK_EPOCH_TSC_LO ||
      off == Reg.SEG_GSEQ_HOST_LO || off == Reg.SEG_GSEQ_STREAM_LO || (b == 0xE && 0xE4000 ≤ off && off % 16 == 0) ||
      (b == 0x12 && 0x120400 ≤ off && off < 0x120C00 && off % 0x40 == 0xC) ||
      (b == 0x12 && 0x121000 ≤ off && off < 0x122000 && (off % 0x40 == 8 || off % 0x40 == 0x10)) ||
      off == Reg.STRM_ACKED_LO || off == Reg.PAIR_TAKEOVER_TSC_LO || off == Reg.FLT_FATAL_TSC_LO ||
      off == Reg.BBX_NEXT_LO || off == Reg.BBX_OLDEST_LO || off == Reg.BBX_SNAP_FROM_LO || off == Reg.BBX_SNAP_TO_LO ||
      off == Reg.BBX_READ_SEL_LO || off == Reg.BBX_ANNOT_WALL_LO ||
      (b == 0xC || b == 0xD) && off % 0x800 == 0x14 ||
      (b == 0x14 && 0x140100 ≤ off && off < 0x140200 && (off % 0x40 == 0xC || off % 0x40 == 0x20)) then [off + 4]
  else if off == Reg.TRIG_AUX_LAST_FRAC || (b == 0xB && 0xB0100 ≤ off && off < 0xB0500 && off % 0x40 == 0x34) ||
      ((b == 0xC || b == 0xD) && off % 0x800 == 0x24) then [off + 4, off + 8]
  else []

/-- A read of one occurrence counter: its count without an occurrence of the present clock, which stays (R10, R420). -/
def State.occTakeOne (s : State) (key : Nat) : Nat × State :=
  match s.time.occNow.find? (fun p => p.1 == key) with
  | some (_, old) =>
    (old, { s with occ := sparseSet (fun _ => 0) s.occ key 1
                   time := { s.time with occNow := (key, 0) :: s.time.occNow.filter (fun p => p.1 != key) } })
  | none => ((sparseGet (fun _ => 0) s.occ key).toNat, { s with occ := sparseSet (fun _ => 0) s.occ key 0 })

/-- A read of one of FLT.OCC0 to OCC7: the occurrence counters of four bits of the register that OCC_SEL names, which clear
(R420). -/
def State.occTake (s : State) (k : Nat) : Word × State :=
  let base := s.getF ⟨Reg.FLT_OCC_SEL, 0, 24⟩
  if accessAt base != .w1c then (0, s)
  else
    let (v, s) := (List.range 4).foldl (fun (a : Nat × State) i =>
      let (n, s) := a.2.occTakeOne (base * 32 + 4 * k + i)
      (a.1 + n * 256 ^ i, s)) (0, s)
    (BitVec.ofNat 32 v, s)

/-- A read of a register that meets it: what it returns, and its effects (R10, R81, R146, R274, R420). -/
def State.takeRead (s : State) (off : Nat) : Word × State :=
  if off = Reg.CAL_MON_POP then (s.monOldest, s.monTake)
  else if off = Reg.BEAM_PEEK 0 then s.peek
  else if Reg.FLT_OCC 0 ≤ off ∧ off < Reg.FLT_OCC 8 ∧ off % 4 = 0 then s.occTake ((off - Reg.FLT_OCC 0) / 4)
  else if accessAt off == .rcl then s.rclTake off
  else if Reg.BEAM_PEEK 1 ≤ off ∧ off ≤ Reg.BEAM_PEEK 3 then ((optAt s.latched off).getD 0, s)
  else
    match optAt s.latched off with
    | some v => (v, { s with latched := sparseSet (fun _ => none) s.latched off none })
    | none => (s.readValue off, (latchPartners off).foldl (fun t p => t.latch p (s.readValue p)) s)

/-- A host read: no answer where none reaches the engine, zero from a closed or an absent block, else what the register
returns (R8, R30, R40). -/
def State.hostRead (s : State) (off : Nat) : State :=
  if !s.hostReaches then s
  else if !s.readOpen off then s.send (.readData off 0)
  else
    let (v, s) := s.takeRead off
    s.send (.readData off v)

/-- A host read of 32 bits with any byte enables, which returns the whole register, or of 64 bits, which is two of 32 bits,
the lower address first (R8). -/
def State.hostReadOf (s : State) (off : Nat) : ReadSize → State
  | .enables _ => s.hostRead off
  | .wide => (s.hostRead off).hostRead (off + 4)

end Sys2Proof.Machine
end

