-- ==== Sys2Proof/Machine/Lane.lean ====
section
/-! DEFINITION. Host writes to the lanes, and deferred hand-overs (spec/08_decimation_lanes.md R218 to R224). -/

namespace Sys2Proof.Machine

/-- Whether the context of a lane has a segment open, and its committed output rate. -/
def State.laneUse (s : State) (l : Nat) : Bool × Rat :=
  match (s.lane l).ctx with
  | none => (false, 0)
  | some c => ((s.openRec c).isSome, match s.liveOf c with
    | some x => x.outRate
    | none => 0)

/-- A write of SEAL (R218, R219, R221): it is kept for the next hand-over where one has happened in this clock. -/
def State.seal (s : State) (l : Nat) : State :=
  let x := s.lane l
  if x.ctx.isNone then s.hwSet (F.LANE_EVENTS_NOT_LIVE l)
  else
    let s := if x.swapped = some s.time.clk then s.hwSet (F.LANE_SHADOW_BUSY_COLLIDED l) else s
    let pre := match x.sealedPre with
      | some (n, p) => if n = s.time.clk then some (n, p) else some (s.time.clk, x.sealed)
      | none => some (s.time.clk, x.sealed)
    let pre := if x.swapped = some s.time.clk then none else pre
    (s.setLane l { x with sealed := some (s.paramSet (laneBase l)), sealedPre := pre }).showLane l

/-- A write of NOW: it seals, and hands over as a LANE_SWAP of this clock (R219, R221). DESIGN CHOICE (log 121): after a LANE_SWAP
of the clock, which is its hand-over, what NOW seals waits for the next. -/
def State.sealNow (s : State) (l : Nat) : State :=
  let x := s.lane l
  if x.ctx.isNone then s.hwSet (F.LANE_EVENTS_NOT_LIVE l)
  else if x.swapped = some s.time.clk then s.seal l
  else
    let s := s.setLane l { x with sealed := some (s.paramSet (laneBase l)), sealedPre := none, shadowAt := none }
    let (segOpen, rate) := s.laneUse l
    let (took, s) := s.handover l segOpen rate
    match took, x.ctx with
    | true, some c => s.laneChanged c
    | _, _ => s

/-- A write of LANE.SEAL (R225). -/
def State.sealWrite (s : State) (l : Nat) (v : Word) : State :=
  if v.getLsbD 1 then s.sealNow l else if v.getLsbD 0 then s.seal l else s

/-- SEAL (R219). -/
def execSeal (l : Fin 64) (s : State) : Result :=
  .next (s.hostWrite (Reg.LANE_SEAL l) 1 (fun s => s.sealWrite l 1))

/-- SEAL_NOW (R219). -/
def execSealNow (l : Fin 64) (s : State) : Result :=
  .next (s.hostWrite (Reg.LANE_SEAL l) 2 (fun s => s.sealWrite l 2))

/-- Whether the context of a lane is released in the present clock, which discards the lane's waiting sets (R222). -/
def State.laneLeaves (s : State) (l : Nat) : Bool :=
  match (s.lane l).ctx with
  | none => false
  | some c => (s.liveOf c).any (fun x => x.release.any (· ≤ s.time.clk))

/-- A deferred hand-over of a lane whose segment has closed (R220); its boundary is the word sampled 19 clocks before the closing
clock, which lies `back` clocks before this one. -/
def State.deferredDue (s : State) (l back : Nat) : State :=
  match (s.lane l).deferred with
  | some p => if (s.laneUse l).1 || s.laneLeaves l then s else s.takeSet l back p
  | none => s

/-- DEFERRED_HANDOVER in the closing clock, as one issued by the Loom in it (R220). -/
def execDeferredHandover (l : Fin 64) (s : State) : Result := .next (s.deferredDue l 19)

/-- COEF_WINDOW_WRITE: word i of the coefficient window (R224). -/
def execCoefWindowWrite (l : Fin 64) (i : Fin 256) (v : Word) (s : State) : Result :=
  .next (s.hostWrite (laneBase l + 0x400 + 4 * i.val) v (fun s => s.coefWrite l i v))

/-- A host write to a word of a lane's parameter shadow (R218, R221): a lane that is not live discards it; fields of absent
stages ignore it, which is counted (R40), and reserved words ignore it (R9). -/
def State.shadowWrite (s : State) (l word : Nat) (v : Word) : State :=
  let x := s.lane l
  let o := 0x40 + 4 * word
  let own := (x.kinds.flatMap stageWords).contains o
  let s := if !own && allWords.contains o then s.hwSet F.FLT_HOST_STRUCT_ABSENT else s
  if x.ctx.isNone then s.hwSet (F.LANE_EVENTS_NOT_LIVE l)
  else if !allWords.contains o then s
  else
    let s := if x.swapped = some s.time.clk then s.hwSet (F.LANE_SHADOW_BUSY_COLLIDED l) else s
    let s := if own then s.storeReg (laneBase l + o) v else s
    s.setLane l { s.lane l with shadowAt := some s.time.clk }

/-- LANE_PARAM_WRITE (R218). -/
def execLaneParamWrite (l : Fin 64) (word : Fin 48) (v : Word) (s : State) : Result :=
  .next (s.hostWrite (laneBase l + 0x40 + 4 * word.val) v (fun s => s.shadowWrite l word v))

end Sys2Proof.Machine
end

