-- ==== Sys2Proof/Machine/HostWrite.lean ====
section
/-! DEFINITION. What a host write of 32 bits does to the register it meets, by block. The rows of the table that name one
register call the same operations (spec/00_scope.md R8 to R10, spec/03_axis_and_loom.md R81, R394 for the writes that a
paired SHADOW repeats). -/

namespace Sys2Proof.Machine

/-- A write of a LO register whose pair is held until HI (R81): `hi` acts on the pair so formed. -/
def State.pairWrite (s : State) (lo off : Nat) (v : Word) (act : State → Nat → State) : State :=
  if off = lo then s.holdLo lo (v &&& maskAt lo)
  else
    let (l, s) := s.takeHeld lo
    act s (l.toNat + 2 ^ 32 * (v &&& maskAt (lo + 4)).toNat)

/-- A plain pair: both words take effect at HI (R81). -/
def State.pairStore (s : State) (lo off : Nat) (v : Word) : State := s.pairWrite lo off v (fun s n => s.set64 lo n)

/-- DEV (R62, R434). -/
def State.writeDev (s : State) (off : Nat) (v : Word) : State :=
  if off = Reg.DEV_CTRL then s.compatWrite v else s.storeReg off v

/-- DRAFT (R36, R54 to R61). -/
def State.writeDraft (s : State) (off : Nat) (v : Word) : State :=
  if off = Reg.DRAFT_CTRL then s.draftCtrl v none
  else if off = Reg.DRAFT_STAGE_ADDR then s.stageAddr v
  else if off = Reg.DRAFT_STAGE_DATA then s.stageData v
  else if off = Reg.DRAFT_FUSE_CTRL then s.fuseCtrl v
  else if Reg.DRAFT_FUSE_STAGE 0 ≤ off ∧ off < Reg.DRAFT_FUSE_STAGE 8 ∧ off % 4 = 0 then
    let i := (off - Reg.DRAFT_FUSE_STAGE 0) / 4
    let keep : BitVec 256 := s.draft.fuseStage &&& ~~~((0xFFFFFFFF : BitVec 256) <<< (32 * i))
    { s with draft := { s.draft with fuseStage := keep ||| (v.zeroExtend 256 <<< (32 * i)) } }
  else s.storeReg off v

/-- AXIS (R69, R81, R88). -/
def State.writeAxis (s : State) (off : Nat) (v : Word) : State :=
  if off = Reg.AXIS_CFG then s.axisCfg v
  else if 0x20100 ≤ off ∧ off < 0x20280 ∧ off % 4 = 0 then
    let lo := off / 8 * 8
    if off < 0x20180 then s.pairWrite lo off v (fun s n => s.cmpHostWrite ((lo - 0x20100) / 8) n)
    else s.pairWrite lo off v (fun s n => ((s.axisKeep lo).axisKeep (lo + 4)).set64 lo n)
  else (s.axisKeep off).storeReg off v

/-- LOOM (R82, R86, R90, R100 to R104). -/
def State.writeLoom (s : State) (off : Nat) (v : Word) : State :=
  if off = Reg.LOOM_CTRL then s.loomCtrl v
  else if off = Reg.LOOM_SWAP then s.swapWrite v
  else if off = Reg.LOOM_DOORBELL then s.ring v
  else if off = Reg.LOOM_FLAGS then s.flagsWrite v
  else if 0x38000 ≤ off ∧ off % 4 = 0 then s.windowWrite ((off - 0x38000) / 4) v
  else s.storeReg off v

/-- CAL (R137, R144 to R153). -/
def State.writeCal (s : State) (off : Nat) (v : Word) : State :=
  if off = Reg.CAL_CTRL then s.calCtrl v
  else if off = Reg.CAL_INJ then (if v.getLsbD 31 then s.inject (fieldOf v 8 2) (fieldOf v 0 5) else s)
  else if off = Reg.CAL_SEL then (s.storeReg Reg.CAL_SEL v).loadCoefShadow
  else if off = Reg.CAL_COEF_COMMIT then (if v.getLsbD 0 then s.coefCommit else s)
  else s.storeReg off v

/-- The PLL of a number. -/
def pllAt (p : Nat) : Pll :=
  match p with
  | 0 => .spll | 1 => .fpll | 2 => .mpll | 3 => .ppll | _ => .lpll

/-- CLK (R159 to R174). -/
def State.writeClk (s : State) (off : Nat) (v : Word) : State :=
  if off = Reg.CLK_RATE then s.rateWrite v
  else if off = Reg.CLK_SYNC then s.syncWrite v
  else if off = Reg.CLK_HOLD then
    let s := s.storeReg off v
    if s.onBypass then s.useBypass else s
  else if off = Reg.CLK_PAIR_TRIM then s.trimWrite v
  else if off = Reg.CLK_TSC_LOAD_LO ∨ off = Reg.CLK_TSC_LOAD_HI then s.pairStore Reg.CLK_TSC_LOAD_LO off v
  else if 0xA0200 ≤ off ∧ off < 0xA0340 ∧ off % 4 = 0 ∧ (off - 0xA0200) % 0x40 / 4 < 16 then
    s.outWrite (pllAt ((off - 0xA0200) / 0x40)) ((off - 0xA0200) % 0x40 / 4) v
  else s.storeReg off v

/-- TRIG (R177, R198). -/
def State.writeTrig (s : State) (off : Nat) (v : Word) : State :=
  if off = Reg.TRIG_APPLY then s.applyWrite v
  else if off = Reg.TRIG_OUT_CFG then (s.storeReg off v).cutPins
  else s.storeReg off v

/-- A lane's window (R218, R222, R224). -/
def State.writeLane (s : State) (off : Nat) (v : Word) : State :=
  let l := (off - 0xC0000) / 0x800
  let o := (off - 0xC0000) % 0x800
  if o = 0x10 then s.sealWrite l v
  else if 0x400 ≤ o ∧ o % 4 = 0 then s.coefWrite l ((o - 0x400) / 4) v
  else if 0x40 ≤ o ∧ o < 0x100 ∧ o % 4 = 0 then s.shadowWrite l ((o - 0x40) / 4) v
  else s.storeReg off v

/-- BEAM (R252, R267, R274). -/
def State.writeBeam (s : State) (off : Nat) (v : Word) : State :=
  if 0xF4000 ≤ off ∧ off < 0xF8000 ∧ off % 4 = 0 then
    let j := (off - 0xF4000) / 0x40
    let w := (off - 0xF4000) % 0x40 / 4
    if w < 13 then s.descWrite j w v
    else if w = 13 then s.jobCtrl j v
    else s
  else s.storeReg off v

/-- MEM (R290, R291). -/
def State.writeMem (s : State) (off : Nat) (v : Word) : State :=
  if off = Reg.MEM_FREQ then s.freqWrite v
  else if 0x100100 ≤ off ∧ off < 0x101100 ∧ off % 0x40 = 4 then s.pcCtrl ((off - 0x100100) / 0x40) v
  else s.storeReg off v

/-- A write that only a disabled queue accepts (R313). -/
def State.queueOnlyOff (s : State) (q : Nat) (k : State → State) : State :=
  if s.queueEnabled q then s.queueEvent (F.DMA_DQ_EVENTS_CFG_REFUSED q) else k s

/-- DMA (R311 to R328). -/
def State.writeDma (s : State) (off : Nat) (v : Word) : State :=
  if off = Reg.DMA_CTRL then s.dmaCtrl v
  else if 0x120400 ≤ off ∧ off < 0x120C00 then
    let n := (off - 0x120400) / 0x40
    if off % 0x40 = 0 then s.chanCfg n v else if off % 0x40 = 4 then s.chanCtrl n v else s
  else if 0x121000 ≤ off ∧ off < 0x122000 then
    let q := (off - 0x121000) / 0x40
    match off % 0x40 with
    | 0 => s.queueCfg q v
    | 0x04 => s.queueOnlyOff q (fun s => s.storeReg off v)
    | 0x08 | 0x0C => s.queueOnlyOff q (fun s => s.pairStore (Reg.DMA_DQ_FREE_BASE_LO q) off v)
    | 0x10 | 0x14 => s.queueOnlyOff q (fun s => s.pairStore (Reg.DMA_DQ_COMP_BASE_LO q) off v)
    | 0x18 => s.freeProd q v
    | 0x24 => s.compCons q v
    | _ => s.storeReg off v
  else if 0x128000 ≤ off ∧ off < 0x128400 ∧ off % 16 = 12 then (s.storeReg off v).releaseVector ((off - 0x128000) / 16)
  else s.storeReg off v

/-- DISP (R348 to R362). -/
def State.writeDisp (s : State) (off : Nat) (v : Word) : State :=
  if off = Reg.DISP_CTRL then s.dispCtrl v
  else if off = Reg.DISP_TIMING_COMMIT then (if v.getLsbD 0 then s.timingCommit else s)
  else if off = Reg.DISP_AUX_CMD then s.auxStart v
  else if off = Reg.DISP_LUT_COMMIT then (if v.getLsbD 0 then s.lutCommit else s)
  else if 0x141000 ≤ off ∧ off < 0x149000 ∧ off % 4 = 0 then s.cursorWrite ((off - 0x141000) / 4) v
  else if 0x140100 ≤ off ∧ off < 0x140200 ∧ (off % 0x40 = 0xC ∨ off % 0x40 = 0x10) then
    let lo := off / 0x40 * 0x40 + 0xC
    s.pairWrite lo off v (fun s n => (s.dispShadow lo (half false n)).dispShadow (lo + 4) (half true n))
  else if accessAt off == .rws then s.dispShadow off v
  else s.storeReg off v

/-- BBX (R380 to R383). -/
def State.writeBbx (s : State) (off : Nat) (v : Word) : State :=
  if off = Reg.BBX_CTRL then s.bbxCtrl v
  else if off = Reg.BBX_READ_SEL_HI then s.readSelLoad v
  else if off = Reg.BBX_READ_SEL_LO then s.holdLo off v
  else if off = Reg.BBX_SNAP_FROM_LO ∨ off = Reg.BBX_SNAP_FROM_HI then s.pairStore Reg.BBX_SNAP_FROM_LO off v
  else if off = Reg.BBX_SNAP_TO_LO ∨ off = Reg.BBX_SNAP_TO_HI then s.pairStore Reg.BBX_SNAP_TO_LO off v
  else if off = Reg.BBX_ANNOT_WALL_LO ∨ off = Reg.BBX_ANNOT_WALL_HI then s.pairStore Reg.BBX_ANNOT_WALL_LO off v
  else if off = Reg.BBX_ANNOT_CTRL then s.annotate v
  else if Reg.BBX_ERASE_RESP 0 ≤ off ∧ off < Reg.BBX_ERASE_RESP 4 ∧ off % 4 = 0 then
    let i := (off - Reg.BBX_ERASE_RESP 0) / 4
    let keep : BitVec 128 := s.bbx.eraseResp &&& ~~~((0xFFFFFFFF : BitVec 128) <<< (32 * i))
    { s with bbx := { s.bbx with eraseResp := keep ||| (v.zeroExtend 128 <<< (32 * i)) } }
  else if off = Reg.BBX_ERASE_CTRL then s.eraseCtrl v
  else s.storeReg off v

/-- What a write of a register does once the write reaches it. -/
def State.writeReg (s : State) (off : Nat) (v : Word) : State :=
  if accessAt off == .w1c && off != Reg.DRAFT_FUSE_CTRL then s.w1cClear off v
  else
    match off / 0x10000 with
    | 0 => s.writeDev off v
    | 1 => s.writeDraft off v
    | 2 => s.writeAxis off v
    | 3 => s.writeLoom off v
    | 4 | 5 | 6 | 7 => if off % 4 = 0 then s.ctxWrite ((off - 0x40000) / 0x100) ((off - 0x40000) % 0x100 / 4) v else s
    | 8 => if off = Reg.CONV_REF_CTRL then s.refWrite (fieldOf v 0 2) (s.bit F.CONV_REF_STATUS_EXT_IN_RANGE) else s
    | 9 => s.writeCal off v
    | 0xA => s.writeClk off v
    | 0xB => s.writeTrig off v
    | 0xC | 0xD => s.writeLane off v
    | 0xE => if off = Reg.SEG_CTX_CLEAR then s.ctxClear v else s
    | 0xF => s.writeBeam off v
    | 0x10 => s.writeMem off v
    | 0x11 => s.storeReg off v
    | 0x12 => s.writeDma off v
    | 0x13 => if off = Reg.STRM_CTRL then s.strmCtrl v else s
    | 0x14 => s.writeDisp off v
    | 0x15 => if off = Reg.PAIR_CTRL then s.pairCtrl v else s.storeReg off v
    | 0x16 => s.storeReg off v
    | 0x17 => s.writeBbx off v
    | _ => s

end Sys2Proof.Machine
end

