-- ==== Sys2Proof/Machine/Host.lean ====
section
/-! DEFINITION. Host accesses that no row of their own names, and the link that carries them (spec/00_scope.md R8, R10,
spec/03_axis_and_loom.md R81, spec/01_engine_architecture.md R30). -/

namespace Sys2Proof.Machine

/-- A write of 32 bits: with a byte enable clear it is discarded and counted; any other meets its register (R8, R30, R40). -/
def State.writeWord (s : State) (off : Nat) (v : Word) (be : BitVec 4) : State :=
  if !s.hostReaches then s
  else if be ≠ 15 then s.hwSet F.FLT_HOST_PARTIAL_WRITE
  else s.hostWrite off v (fun s => s.writeReg off v)

/-- REGISTER_WRITE: a write of 32 bits, or one of 64 bits, whose high half `high` goes to the next register, after the low
half (R8). `levels` tells how the pins stand that the write may depend on (log 116). -/
def execRegisterWrite (off : Nat) (v : Word) (be : BitVec 4) (s : State)
    (high : Option (Word × BitVec 4) := none) (levels : Option Levels := none) : Result :=
  .next (
    let s := s.levelsNow levels
    match high with
    | none => s.writeWord off v be
    | some (w, be') => (s.writeWord off v be).writeWord (off + 4) w be')

/-- PAIRED_WRITE: a write of the LO or the HI register of a pair (R81). -/
def execPairedWrite (off : Nat) (v : Word) (s : State) : Result :=
  .next (s.hostWrite off v (fun s => s.writeReg off v))

/-- W1C_WRITE (R10). -/
def execW1cWrite (off : Nat) (v : Word) (s : State) : Result :=
  .next (if accessAt off == .w1c then s.hostWrite off v (fun s => s.w1cClear off v) else s)

/-- LATCHING_READ: a host read of any register; one of a LO or FRAC register latches its partners (R81). `levels` tells how the
pins stand that a register shows (log 116). -/
def execLatchingRead (off : Nat) (s : State) (size : ReadSize := .enables 15) (levels : Option Levels := none) : Result :=
  .next ((s.levelsNow levels).hostReadOf off size)

/-- RCL_READ (R10). -/
def execRclRead (off : Nat) (s : State) (size : ReadSize := .enables 15) : Result :=
  .next (if accessAt off == .rcl then s.hostReadOf off size else s)

/-- MON_POP: the oldest entry is returned and removed; a 64-bit read reads MON_PEEK and then MON_POP (R8, R146). -/
def execMonPop (s : State) (size : ReadSize := .enables 15) : Result :=
  .next (
    match size with
    | .enables _ => s.hostRead Reg.CAL_MON_POP
    | .wide => (s.hostRead Reg.CAL_MON_PEEK).hostRead Reg.CAL_MON_POP)

/-- PEEK0_READ (R8, R274). -/
def execPeek0Read (s : State) (size : ReadSize := .enables 15) : Result := .next (s.hostReadOf (Reg.BEAM_PEEK 0) size)

/-- A word of the standard header of the configuration space (R304): the identity, the types of the base address registers, and
Interrupt Pin. The revision is 16 x the letter's index + the digit of DEV.STEP. -/
def State.configWord (s : State) (off : Nat) : Word :=
  let step := s.reg Reg.DEV_STEP
  let revision := 16 * (fieldOf step 8 8 - 65) + (fieldOf step 0 8 - 48)
  match off with
  | 0x00 => 0x64041F6A
  | 0x08 => 0x11800000 ||| BitVec.ofNat 32 (revision % 256)
  | 0x10 => 0x00000004
  | 0x18 => 0x0000000C
  | 0x2C => s.board.fuses.subsys
  | _ => 0

/-- Tags that the engine uses as requester (R304): 10-bit tags when enabled, and up to 512 non-posted requests outstanding. -/
def State.maxNonPosted (s : State) : Nat := if s.board.pcie.tags10 then 512 else 256

/-- PCIE_LINK_UP: the link has trained in RESET, or again after a loss of it; its width and rate show in DMA.LINK
(R30, R304). `cfg` is what the host sets in the configuration space. -/
def execPcieLinkUp (width : Fin 17) (rate : Fin 6) (s : State) (cfg : PcieConfig := PcieConfig.init) : Result :=
  .next (
    if s.cur == .off || s.cur == .aonUp || s.board.perst then s
    else
      let s : State := { s with board := { s.board with pcieUp := true, pcie := cfg } }
      (s.setF F.DMA_LINK_WIDTH width).setF F.DMA_LINK_RATE rate)

end Sys2Proof.Machine
end

