-- ==== Sys2Proof/Machine/Dispatch.lean ====
section
/-! DEFINITION. One arm for each command: a direct call of its meaning. -/

namespace Sys2Proof.Machine

/-- The effect of a command on everything but the queue. -/
def exec (i : Instr) (s : State) : Host.Outcome State Fault Refusal :=
  match i with
  | .aonValid i2cAddr pageRead passA passB bad => Sys2Proof.Machine.execAonValid i2cAddr pageRead passA passB s bad
  | .railLoss rail i2cAddr passA passB bad => Sys2Proof.Machine.execRailLoss rail i2cAddr passA passB s bad
  | .aonLoss cut => Sys2Proof.Machine.execAonLoss cut s
  | .seqViolation rail before => Sys2Proof.Machine.execSeqViolation rail before s
  | .railSequenceComplete straps ref => Sys2Proof.Machine.execRailSequenceComplete straps ref s
  | .perstAssert straps ref => Sys2Proof.Machine.execPerstAssert straps ref s
  | .perstRelease => Sys2Proof.Machine.execPerstRelease s
  | .flashLoadDone image => Sys2Proof.Machine.execFlashLoadDone image s
  | .hbmTrainingDone results => Sys2Proof.Machine.execHbmTrainingDone results s
  | .loaded => Sys2Proof.Machine.execLoaded s
  | .selftestDone results fenced => Sys2Proof.Machine.execSelftestDone results fenced s
  | .selftestTimeout unfinished results => Sys2Proof.Machine.execSelftestTimeout unfinished results s
  | .reload source pins => Sys2Proof.Machine.execReload source s pins
  | .check => Sys2Proof.Machine.execCheck s
  | .checkDone => Sys2Proof.Machine.execCheckDone s
  | .stageData v => Sys2Proof.Machine.execStageData v s
  | .stageAddr v => Sys2Proof.Machine.execStageAddr v s
  | .burnKey v => Sys2Proof.Machine.execBurnKey v s
  | .burnSignedOnly v => Sys2Proof.Machine.execBurnSignedOnly v s
  | .burnDone keyRead soRead => Sys2Proof.Machine.execBurnDone keyRead soRead s
  | .compatWrite v => Sys2Proof.Machine.execCompatWrite v s
  | .run en => Sys2Proof.Machine.execRun en s
  | .stop en => Sys2Proof.Machine.execStop en s
  | .stopComplete => Sys2Proof.Machine.execStopComplete s
  | .cursorEn en => Sys2Proof.Machine.execCursorEn en s
  | .treadMatch k => Sys2Proof.Machine.execTreadMatch k s
  | .nop kind => Sys2Proof.Machine.execNop kind s
  | .arm c tread => Sys2Proof.Machine.execArm c tread s
  | .disarm c => Sys2Proof.Machine.execDisarm c s
  | .openSegment c iss => Sys2Proof.Machine.execOpenSegment c iss s
  | .close c => Sys2Proof.Machine.execClose c s
  | .laneSwap c => Sys2Proof.Machine.execLaneSwap c s
  | .coefSwap c stage sel => Sys2Proof.Machine.execCoefSwap c stage sel s
  | .accStart j => Sys2Proof.Machine.execAccStart j s
  | .accStop j => Sys2Proof.Machine.execAccStop j s
  | .accFold j => Sys2Proof.Machine.execAccFold j s
  | .trigOut p w => Sys2Proof.Machine.execTrigOut p w s
  | .trigOutPulseEnd p => Sys2Proof.Machine.execTrigOutPulseEnd p s
  | .marker c code iss => Sys2Proof.Machine.execMarker c code iss s
  | .flag f v => Sys2Proof.Machine.execFlag f v s
  | .irq v => Sys2Proof.Machine.execIrq v s
  | .axisCmp k mode => Sys2Proof.Machine.execAxisCmp k mode s
  | .doorbell v => Sys2Proof.Machine.execDoorbell v s
  | .swapReq v => Sys2Proof.Machine.execSwapReq v s
  | .swapCancel => Sys2Proof.Machine.execSwapCancel s
  | .swapDone => Sys2Proof.Machine.execSwapDone s
  | .treadWindowWrite off v => Sys2Proof.Machine.execTreadWindowWrite off v s
  | .ctxWindowWrite c word v => Sys2Proof.Machine.execCtxWindowWrite c word v s
  | .axisCfgWrite v => Sys2Proof.Machine.execAxisCfgWrite v s
  | .axisQuadEdge a b t hold => Sys2Proof.Machine.execAxisQuadEdge a b t s hold
  | .axisRefEdge t hold => Sys2Proof.Machine.execAxisRefEdge t s hold
  | .axisIndexEdge t hold => Sys2Proof.Machine.execAxisIndexEdge t s hold
  | .enterCoast => Sys2Proof.Machine.execEnterCoast s
  | .enterStalled => Sys2Proof.Machine.execEnterStalled s
  | .pairedWrite off v => Sys2Proof.Machine.execPairedWrite off v s
  | .latchingRead off size levels => Sys2Proof.Machine.execLatchingRead off s size levels
  | .rclRead off size => Sys2Proof.Machine.execRclRead off s size
  | .w1cWrite off v => Sys2Proof.Machine.execW1cWrite off v s
  | .registerWrite off v be high levels => Sys2Proof.Machine.execRegisterWrite off v be s high levels
  | .refSelWrite v extInRange => Sys2Proof.Machine.execRefSelWrite v extInRange s
  | .refSettled extInRange => Sys2Proof.Machine.execRefSettled s extInRange
  | .extFault => Sys2Proof.Machine.execExtFault s
  | .calCtrlWrite v => Sys2Proof.Machine.execCalCtrlWrite v s
  | .calStart => Sys2Proof.Machine.execCalStart s
  | .sweepPeriodExpiry => Sys2Proof.Machine.execSweepPeriodExpiry s
  | .captureStart b => Sys2Proof.Machine.execCaptureStart b s
  | .captureEnd b est => Sys2Proof.Machine.execCaptureEnd b est s
  | .visitEnd b terms => Sys2Proof.Machine.execVisitEnd b terms s
  | .inj v => Sys2Proof.Machine.execInj v s
  | .injRunning b => Sys2Proof.Machine.execInjRunning b s
  | .injDone b reading => Sys2Proof.Machine.execInjDone b reading s
  | .monPop size => Sys2Proof.Machine.execMonPop s size
  | .calSel v => Sys2Proof.Machine.execCalSel v s
  | .coefCommit => Sys2Proof.Machine.execCoefCommit s
  | .clkRateGo v levels => Sys2Proof.Machine.execClkRateGo v s levels
  | .entryStale => Sys2Proof.Machine.execEntryStale s
  | .pllLockDeclared p counts band temp => Sys2Proof.Machine.execPllLockDeclared p counts band temp s
  | .pllOutputsOpen p cycles sclkRate => Sys2Proof.Machine.execPllOutputsOpen p cycles s sclkRate
  | .pllLockTimeout p => Sys2Proof.Machine.execPllLockTimeout p s
  | .unlock p counts => Sys2Proof.Machine.execUnlock p s counts
  | .refLost byp => Sys2Proof.Machine.execRefLost s byp
  | .refReturn j byp ref lane => Sys2Proof.Machine.execRefReturn j s byp ref lane
  | .realignRestart refEdges => Sys2Proof.Machine.execRealignRestart refEdges s
  | .holdExpired byp => Sys2Proof.Machine.execHoldExpired s byp
  | .sclkLost byp => Sys2Proof.Machine.execSclkLost s byp
  | .syncInEdge phase => Sys2Proof.Machine.execSyncInEdge phase s
  | .pairTrimWrite v => Sys2Proof.Machine.execPairTrimWrite v s
  | .clkOutEnWrite p o v => Sys2Proof.Machine.execClkOutEnWrite p o v s
  | .apply v => Sys2Proof.Machine.execApply v s
  | .triggerReport clock words ovr sat => Sys2Proof.Machine.execTriggerReport clock words ovr sat s
  | .auxTrigEdge rising t hold => Sys2Proof.Machine.execAuxTrigEdge rising t hold s
  | .seal l => Sys2Proof.Machine.execSeal l s
  | .sealNow l => Sys2Proof.Machine.execSealNow l s
  | .deferredHandover l => Sys2Proof.Machine.execDeferredHandover l s
  | .coefWindowWrite l ix v => Sys2Proof.Machine.execCoefWindowWrite l ix v s
  | .laneParamWrite l word v => Sys2Proof.Machine.execLaneParamWrite l word v s
  | .segmentClose c first raw => Sys2Proof.Machine.execSegmentClose c first raw s
  | .recordReady c copied => Sys2Proof.Machine.execRecordReady c copied s
  | .recordHanded c => Sys2Proof.Machine.execRecordHanded c s
  | .ctxClear v => Sys2Proof.Machine.execCtxClear v s
  | .place j => Sys2Proof.Machine.execPlace j s
  | .releaseJob j => Sys2Proof.Machine.execReleaseJob j s
  | .jobDescriptorWrite j word v => Sys2Proof.Machine.execJobDescriptorWrite j word v s
  | .prepareDone j => Sys2Proof.Machine.execPrepareDone j s
  | .drainDone j => Sys2Proof.Machine.execDrainDone j s
  | .unloadDone j => Sys2Proof.Machine.execUnloadDone j s
  | .resultBufferFree j => Sys2Proof.Machine.execResultBufferFree j s
  | .beamFree j => Sys2Proof.Machine.execBeamFree j s
  | .beamUncorr b word => Sys2Proof.Machine.execBeamUncorr b word s
  | .beamCorrected b => Sys2Proof.Machine.execBeamCorrected b s
  | .peekSel v => Sys2Proof.Machine.execPeekSel v s
  | .peek0Read size => Sys2Proof.Machine.execPeek0Read s size
  | .hbmFreeze p err issued => Sys2Proof.Machine.execHbmFreeze p err issued s
  | .hbmCorrected p => Sys2Proof.Machine.execHbmCorrected p s
  | .release p => Sys2Proof.Machine.execRelease p s
  | .releaseDone p sweep => Sys2Proof.Machine.execReleaseDone p sweep s
  | .hbmUnreadable p c cseq err => Sys2Proof.Machine.execHbmUnreadable p c cseq err s
  | .retire p => Sys2Proof.Machine.execRetire p s
  | .freqGo v => Sys2Proof.Machine.execFreqGo v s
  | .freqDeferredStart => Sys2Proof.Machine.execFreqDeferredStart s
  | .freqDone sweeps => Sys2Proof.Machine.execFreqDone sweeps s
  | .trackPass maps clocks => Sys2Proof.Machine.execTrackPass maps clocks s
  | .bar2Read addr => Sys2Proof.Machine.execBar2Read addr s
  | .bar2Write => Sys2Proof.Machine.execBar2Write s
  | .quotaWindowEnd stack => Sys2Proof.Machine.execQuotaWindowEnd stack s
  | .dqEnable q v => Sys2Proof.Machine.execDqEnable q v s
  | .dqDisable q v => Sys2Proof.Machine.execDqDisable q v s
  | .freeProd q v => Sys2Proof.Machine.execFreeProd q v s
  | .compCons q v => Sys2Proof.Machine.execCompCons q v s
  | .descriptorPrefetch q descs => Sys2Proof.Machine.execDescriptorPrefetch q descs s
  | .dmaBurstStart toHost data => Sys2Proof.Machine.execDmaBurstStart toHost data s
  | .completionRecordWrite q flushed => Sys2Proof.Machine.execCompletionRecordWrite q s flushed
  | .coalTimeExpiry q => Sys2Proof.Machine.execCoalTimeExpiry q s
  | .pacedRequest n line scan => Sys2Proof.Machine.execPacedRequest n line s scan
  | .pacedWithdraw n => Sys2Proof.Machine.execPacedWithdraw n s
  | .busError ch addr write cause => Sys2Proof.Machine.execBusError ch addr write cause s
  | .allStop ch addr cause => Sys2Proof.Machine.execAllStop ch addr cause s
  | .resume ch => Sys2Proof.Machine.execResume ch s
  | .restart ch => Sys2Proof.Machine.execRestart ch s
  | .dmaReset => Sys2Proof.Machine.execDmaReset s
  | .dmaResetDone => Sys2Proof.Machine.execDmaResetDone s
  | .dmaChCfgWrite ch v => Sys2Proof.Machine.execDmaChCfgWrite ch v s
  | .d3hotEntry => Sys2Proof.Machine.execD3hotEntry s
  | .d0Return => Sys2Proof.Machine.execD0Return s
  | .streamFrameStart => Sys2Proof.Machine.execStreamFrameStart s
  | .streamFrameSent => Sys2Proof.Machine.execStreamFrameSent s
  | .credit frame limit => Sys2Proof.Machine.execCredit frame limit s
  | .ack frame g => Sys2Proof.Machine.execAck frame g s
  | .resend frame fseq => Sys2Proof.Machine.execResend frame fseq s
  | .hello frame g limit => Sys2Proof.Machine.execHello frame g limit s
  | .streamLinkDown => Sys2Proof.Machine.execStreamLinkDown s
  | .stall => Sys2Proof.Machine.execStall s
  | .rxFecUncorrectable => Sys2Proof.Machine.execRxFecUncorrectable s
  | .dispEn v => Sys2Proof.Machine.execDispEn v s
  | .dispStop => Sys2Proof.Machine.execDispStop s
  | .hpdAssert => Sys2Proof.Machine.execHpdAssert s
  | .hpdLost => Sys2Proof.Machine.execHpdLost s
  | .hpdIrq => Sys2Proof.Machine.execHpdIrq s
  | .trainingDone ok => Sys2Proof.Machine.execTrainingDone ok s
  | .timingCommit => Sys2Proof.Machine.execTimingCommit s
  | .verticalBlank late => Sys2Proof.Machine.execVerticalBlank late s
  | .pixclkRelocked => Sys2Proof.Machine.execPixclkRelocked s
  | .auxCmd v => Sys2Proof.Machine.execAuxCmd v s
  | .auxDone result data => Sys2Proof.Machine.execAuxDone result data s
  | .lutCommit => Sys2Proof.Machine.execLutCommit s
  | .cursorPageWrite page ix v => Sys2Proof.Machine.execCursorPageWrite page ix v s
  | .recordMade source code payload => Sys2Proof.Machine.execRecordMade source code payload s
  | .recordCommitted okA okB => Sys2Proof.Machine.execRecordCommitted okA okB s
  | .retry passA passB => Sys2Proof.Machine.execRetry passA passB s
  | .snapLatch => Sys2Proof.Machine.execSnapLatch s
  | .snapRelease => Sys2Proof.Machine.execSnapRelease s
  | .readSelLoad v => Sys2Proof.Machine.execReadSelLoad v s
  | .annot v => Sys2Proof.Machine.execAnnot v s
  | .eraseReq v => Sys2Proof.Machine.execEraseReq v s
  | .eraseGo v => Sys2Proof.Machine.execEraseGo v s
  | .challengeExpiry => Sys2Proof.Machine.execChallengeExpiry s
  | .timeSave n => Sys2Proof.Machine.execTimeSave s n
  | .i2cWrite addr bytes straps ref => Sys2Proof.Machine.execI2cWrite addr bytes straps ref s
  | .i2cRead n => Sys2Proof.Machine.execI2cRead n s
  | .i2cDraftReload pins => Sys2Proof.Machine.execI2cDraftReload s pins
  | .i2cReset straps ref => Sys2Proof.Machine.execI2cReset straps ref s
  | .i2cSnapLatch => Sys2Proof.Machine.execI2cSnapLatch s
  | .i2cSnapRelease => Sys2Proof.Machine.execI2cSnapRelease s
  | .i2cReadSelLoad b => Sys2Proof.Machine.execI2cReadSelLoad b s
  | .form peerReady tscEqual phaseOk lead => Sys2Proof.Machine.execForm peerReady tscEqual phaseOk s lead
  | .dissolve => Sys2Proof.Machine.execDissolve s
  | .heartbeatSend => Sys2Proof.Machine.execHeartbeatSend s
  | .heartbeat h p => Sys2Proof.Machine.execHeartbeat h p s
  | .heartbeatMissed => Sys2Proof.Machine.execHeartbeatMissed s
  | .pairHelloCell h p => Sys2Proof.Machine.execPairHelloCell h p s
  | .formCell h m peerReady tscEqual phaseOk lead => Sys2Proof.Machine.execFormCell h m peerReady tscEqual phaseOk s lead
  | .matchCell h m => Sys2Proof.Machine.execMatchCell h m s
  | .matchLate => Sys2Proof.Machine.execMatchLate s
  | .write h tsc off v => Sys2Proof.Machine.execWrite h tsc off v s
  | .hand h k c cseq gseq header => Sys2Proof.Machine.execHand h k c cseq gseq header s
  | .data h c cseq off bytes => Sys2Proof.Machine.execData h c cseq off bytes s
  | .mirrored h k gseq => Sys2Proof.Machine.execMirrored h k gseq s
  | .pairAckCell h k c first last => Sys2Proof.Machine.execPairAckCell h k c first last s
  | .bbx h record => Sys2Proof.Machine.execBbx h record s
  | .tenonResend h first => Sys2Proof.Machine.execTenonResend h first s
  | .pairFencedNAssert => Sys2Proof.Machine.execPairFencedNAssert s
  | .pairFenceAck => Sys2Proof.Machine.execPairFenceAck s
  | .dropped => Sys2Proof.Machine.execDropped s
  | .phaseMeasure lead => Sys2Proof.Machine.execPhaseMeasure lead s
  | .thermReading reading diode => Sys2Proof.Machine.execThermReading reading diode s
  | .overvoltage rail => Sys2Proof.Machine.execOvervoltage rail s
  | .ctrlSramUe inst => Sys2Proof.Machine.execCtrlSramUe inst s
  | .fabricClock => Sys2Proof.Machine.execFabricClock s
  | .fatal cause detail => Sys2Proof.Machine.execFatal cause detail s
  | .freezeTimeout c => Sys2Proof.Machine.execFreezeTimeout c s
  | .occSel v => Sys2Proof.Machine.execOccSel v s
  | .streamRetrained => Sys2Proof.Machine.execStreamRetrained s
  | .pcieLinkUp width rate cfg => Sys2Proof.Machine.execPcieLinkUp width rate s cfg
  | .tenonLinkUp => Sys2Proof.Machine.execTenonLinkUp s
  | .tenonLinkDown => Sys2Proof.Machine.execTenonLinkDown s
  | .sequenceTMaxExpiry k => Sys2Proof.Machine.execSequenceTMaxExpiry k s

end Sys2Proof.Machine
end

