-- ==== Sys2Proof/Machine/Tick.lean ====
section
/-! DEFINITION. One fabric clock: what the engine does whatever is commanded. A step with no command waiting is the next
fabric clock (log 5). -/

namespace Sys2Proof.Machine

/-- Extends a list of spans of fabric clocks, newest first: one opens while a condition holds and closes when it ends. -/
def spanTick (on : Bool) (clk : Nat) : List (Nat × Option Nat) → List (Nat × Option Nat)
  | [] => if on then [(clk, none)] else []
  | (a, none) :: l => if on then (a, none) :: l else (a, some clk) :: l
  | (a, some b) :: l => if on then (clk, none) :: (a, some b) :: l else (a, some b) :: l

/-- The marks of what a fabric clock has touched begin anew with each clock. -/
def State.newClock (s : State) : State :=
  let clk := s.time.clk + 1
  { s with
    time := { s.time with clk := clk, setNow := [], occNow := [], addNow := [] }
    cal := { s.cal with pushedNow := 0 }
    conv := { s.conv with refNow := none }
    bbx := { s.bbx with erased := none, was := [] }
    loom := { s.loom with
      events := s.loom.events.filter (fun e => decide (clk ≤ e.1 + 512))
      openings := s.loom.openings.filter (fun o => decide (clk < o.1 + 5))
      swapGone := s.loom.swapGone.filter (fun p => decide (clk ≤ p.1 + 1))
      cmpActed := [], cmpHost := [], cmpPrev := s.loom.cmpHost.filter (fun p => !s.loom.cmpActed.any (fun q => q.1 == p.1)),
      enNow := s.getF F.LOOM_CTRL_CURSOR_EN, enPrev := s.loom.enNow, flagActed := 0, flagHost := none, rung := 0, rungPrev := s.loom.rung,
      fresh := 0, freshPrev := s.loom.fresh, taken := 0, metNow := 0, issuesNow := [] }
    axis := { s.axis with wrote := [] }
    seg := { s.seg with undo := [], before := none }
    beam := { s.beam with pre := [], freed := [], placed := [] }
    disp := { s.disp with wrote := [] } }

/-- The spans in which the reference was unsettled (R125) and the SPLL held over (R169). -/
def State.spansTick (s : State) : State :=
  { s with
    conv := { s.conv with unsettled := spanTick (!s.bit F.CONV_REF_STATUS_SETTLED) s.time.clk s.conv.unsettled }
    clk := { s.clk with held := spanTick (s.pllState .spll == pllHoldover) s.time.clk s.clk.held } }

/-- Hand-overs that waited for a segment to close (R220), but for contexts whose release the clock still decides (R222). -/
def State.deferredTick (s : State) : State :=
  ((s.lanes.filter (fun p => p.2.deferred.isSome)).map (·.1)).foldl (fun s l => s.deferredDue l 20) s

/-- The host writes that a paired SHADOW repeats 96 clocks after the ACTIVE, after the evaluations of the clock as there (R394,
R395). -/
def State.writesTick (s : State) : State :=
  let due := s.pair.writes.filter (fun w => decide (w.1 ≤ s.tsc))
  let s := s.withPair (fun x => { x with writes := x.writes.filter (fun w => !decide (w.1 ≤ s.tsc)) })
  due.foldl (fun s w => s.writeReg w.2.1 w.2.2) s

/-- The evaluations of the clock: a following SHADOW takes the matches of its ACTIVE (R395), every other Loom its own. -/
def State.evaluationsTick (s : State) : State :=
  if s.follows && s.loomRuns then s.finishSwap.followTick else s.loomTick

/-- What a SHADOW keeps up with in a fabric clock (R397, R398, R402). -/
def State.shadowTick (s : State) : State := if s.isShadow then s.retireShadow.confirmAll else s.retireShadow

/-- What the Loom does in a fabric clock: withdrawn requests that come too late, the evaluations, enables, the end of a stop,
releases, exchanges. DESIGN CHOICE (log 143): the evaluations come before the releases, so an ARM issued in the clock in which a
context stops being live finds it live and cancels the release (R25). -/
def State.loomClock (s : State) : State :=
  (s.cancelLate (s.time.clk - 1)).evaluationsTick.enablesTick.stopDone.releasesDue.swapDue

/-- The end of a fabric clock: the forwarded writes that came in it for it (R394), and what its commands together decide. -/
def State.clockEnds (s : State) : State :=
  s.writesTick.freezesEnd.selftestSettle.opensSettle.accSettle.dmaSettle.strmSettle.overSettle.expireHold.matchTick.monSettle.lanesTick.pairSettle.bbxSettle

/-- The beginning of a fabric clock, before its commands. -/
def State.clockBegins (s : State) : State :=
  let s := s.clkTick.calTick.refTakes.spansTick.pinsTick.axisTick.marksShow.deferredTick
  s.loomClock.deferredTick.memTick.dmaTick.shadowTick.writesTick

/-- One fabric clock: the end of the clock before, and the beginning of the next. -/
def State.tick (s : State) : State := ({ s with out := [] } : State).clockEnds.newClock.clockBegins

end Sys2Proof.Machine
end

