-- ==== Sys2Proof/WellFormed.lean ====
section
/-! DEFINITION. Which commands can exist: the operands that their types leave wider than the medium that carries them. -/

namespace Sys2Proof

/-- A BAR0 register offset: a multiple of 4 below 64 MiB (spec/00_scope.md R7, spec/12_host_port_and_delivery.md R304). -/
def offsetOk (off : Nat) : Bool := off % 4 == 0 && decide (off < 0x4000000)

/-- A read of 64 bits begins at a multiple of 8 (R8). -/
def readOk (off : Nat) : ReadSize → Bool
  | .enables _ => offsetOk off
  | .wide => offsetOk off && off % 8 == 0

/-- A source that an OPEN or MARKER names (spec/03_axis_and_loom.md R93): units 0 to 15, AUX_TRIG, or none. -/
def IssueTime.wf (i : IssueTime) : Bool := decide (i.source ≤ 16) || i.source == 0xFF

/-- An estimate has eight tap corrections (spec/05_selvedge_calibration.md R137). -/
def VisitEst.wf (e : VisitEst) : Bool := e.taps.length == 8

/-- The sweeps of one pseudo-channel: 38 lanes (spec/11_memory_and_shuttle.md R286). -/
def PcSweep.wf (x : PcSweep) : Bool := x.read.length == 38 && x.write.length == 38

/-- A place in a pseudo-channel: 48 banks of 16,384 rows of 32 columns (R280). -/
def hbmPlaceOk (bank row col : Nat) : Bool := decide (bank < 48) && decide (row < 16384) && decide (col < 32)

/-- A controller error: its cause, requester and address (R285, R302). -/
def HbmError.wf (e : HbmError) : Bool :=
  decide (1 ≤ e.cause ∧ e.cause ≤ 3) && decide (e.requester < 12) && hbmPlaceOk e.bank e.row e.col

/-- A received heartbeat: role and state codes (spec/16_pair_and_array.md R388, R391). -/
def Heartbeat.wf (h : Heartbeat) : Bool := decide (h.role ≤ 4) && decide (h.state < 8)

/-- A received HELLO: two SHA-256 digests (R391). -/
def PairHello.wf (h : PairHello) : Bool := h.draftDigest.length == 32 && h.cfgDigest.length == 32

/-- A received MATCH cell: 16 clocks (R391). -/
def MatchCell.wf (m : MatchCell) : Bool := m.met.length == 16

/-- A cell's head: CELL_SEQ has 32 bits and the TSC 64 (R391). -/
def CellHead.wf (h : CellHead) : Bool := decide (h.seq < 2 ^ 32) && decide (h.tsc < 2 ^ 64) && h.lostWrite.all (fun n => decide (n < 2 ^ 64))

/-- Whether a command can exist. A tracking pass of 64 re-sweeps of at most 2 us each lasts at most 80,000 fabric clocks (R288). -/
def Instr.wf : Instr → Bool
  | .flashLoadDone image => decide (image.length ≤ 8 * 2 ^ 20)
  | .hbmTrainingDone results => results.length == 64 && results.all (fun l => l.length == 3 && l.all PcSweep.wf)
  | .burnDone keyRead _ => decide (keyRead.length ≤ 8)
  | .openSegment _ iss => iss.wf
  | .marker _ _ iss => iss.wf
  | .pairedWrite off _ => offsetOk off
  | .latchingRead off size _ => readOk off size
  | .rclRead off size => readOk off size
  | .w1cWrite off _ => offsetOk off
  | .registerWrite off _ _ high _ => offsetOk off && (high.isNone || off % 8 == 0)
  | .captureEnd _ est => est.wf
  | .hbmFreeze _ err _ => err.wf
  | .releaseDone _ sweep => sweep.wf
  | .hbmUnreadable _ _ _ err => err.wf
  | .busError _ _ _ cause => decide (1 ≤ cause.val ∧ cause.val ≤ 6)
  | .allStop _ _ cause => decide (1 ≤ cause.val ∧ cause.val ≤ 6)
  | .auxDone _ bytes => decide (bytes.length ≤ 16)
  | .recordMade _ _ payload => decide (payload.length ≤ 32)
  | .heartbeat h p => h.wf && p.wf
  | .pairHelloCell h p => h.wf && p.wf
  | .formCell h _ _ _ _ _ => h.wf
  | .matchCell h m => h.wf && m.wf
  | .write h tsc off _ => h.wf && decide (tsc < 2 ^ 64) && offsetOk off
  | .hand h _ _ _ _ header => h.wf && (header.length == 32 || header.length == 64)
  | .data h _ _ _ bytes => h.wf && decide (bytes.length ≤ 1024)
  | .mirrored h _ _ => h.wf
  | .pairAckCell h _ _ first last => h.wf && decide (first ≤ last)
  | .bbx h record => h.wf && record.length == 64
  | .trackPass _ clocks => decide (clocks ≤ 80000)
  | .tenonResend h _ => h.wf
  | .aonValid .. | .railLoss .. | .aonLoss .. | .seqViolation .. | .railSequenceComplete .. | .perstAssert ..
  | .perstRelease .. | .loaded .. | .selftestDone .. | .selftestTimeout .. | .reload .. | .check ..
  | .checkDone .. | .stageData .. | .stageAddr .. | .burnKey .. | .burnSignedOnly .. | .compatWrite .. | .run ..
  | .stop .. | .stopComplete .. | .cursorEn .. | .treadMatch .. | .nop .. | .arm .. | .disarm .. | .close ..
  | .laneSwap .. | .coefSwap .. | .accStart .. | .accStop .. | .accFold .. | .trigOut .. | .trigOutPulseEnd ..
  | .flag .. | .irq .. | .axisCmp .. | .doorbell .. | .swapReq .. | .swapCancel .. | .swapDone ..
  | .treadWindowWrite .. | .ctxWindowWrite .. | .axisCfgWrite .. | .axisQuadEdge .. | .axisRefEdge ..
  | .axisIndexEdge .. | .enterCoast .. | .enterStalled .. | .refSelWrite .. | .refSettled .. | .extFault ..
  | .calCtrlWrite .. | .calStart .. | .sweepPeriodExpiry .. | .captureStart .. | .visitEnd .. | .inj ..
  | .injRunning .. | .injDone .. | .monPop .. | .calSel .. | .coefCommit .. | .clkRateGo .. | .entryStale ..
  | .pllLockDeclared .. | .pllOutputsOpen .. | .pllLockTimeout .. | .unlock .. | .refLost .. | .refReturn ..
  | .realignRestart .. | .holdExpired .. | .sclkLost .. | .syncInEdge .. | .pairTrimWrite .. | .clkOutEnWrite ..
  | .apply .. | .triggerReport .. | .auxTrigEdge .. | .seal .. | .sealNow .. | .deferredHandover ..
  | .coefWindowWrite .. | .laneParamWrite .. | .segmentClose .. | .recordReady .. | .recordHanded ..
  | .ctxClear .. | .place .. | .releaseJob .. | .jobDescriptorWrite .. | .prepareDone .. | .drainDone ..
  | .unloadDone .. | .resultBufferFree .. | .beamFree .. | .beamUncorr .. | .beamCorrected .. | .peekSel ..
  | .peek0Read .. | .hbmCorrected .. | .release .. | .retire .. | .freqGo .. | .freqDeferredStart ..
  | .freqDone .. | .bar2Read .. | .bar2Write .. | .quotaWindowEnd .. | .dqEnable ..
  | .dqDisable .. | .freeProd .. | .compCons .. | .descriptorPrefetch .. | .dmaBurstStart ..
  | .completionRecordWrite .. | .coalTimeExpiry .. | .pacedRequest .. | .pacedWithdraw .. | .resume .. | .restart .. | .dmaReset .. | .dmaResetDone .. | .dmaChCfgWrite .. | .d3hotEntry ..
  | .d0Return .. | .streamFrameStart .. | .streamFrameSent .. | .credit .. | .ack .. | .resend .. | .hello ..
  | .streamLinkDown .. | .stall .. | .rxFecUncorrectable .. | .dispEn .. | .dispStop .. | .hpdAssert ..
  | .hpdLost .. | .hpdIrq .. | .trainingDone .. | .timingCommit .. | .verticalBlank .. | .pixclkRelocked ..
  | .auxCmd .. | .lutCommit .. | .cursorPageWrite .. | .recordCommitted .. | .retry .. | .snapLatch ..
  | .snapRelease .. | .readSelLoad .. | .annot .. | .eraseReq .. | .eraseGo .. | .challengeExpiry ..
  | .timeSave .. | .i2cWrite .. | .i2cRead .. | .i2cDraftReload .. | .i2cReset .. | .i2cSnapLatch ..
  | .i2cSnapRelease .. | .i2cReadSelLoad .. | .form .. | .dissolve .. | .heartbeatSend .. | .heartbeatMissed ..
  | .matchLate .. | .pairFencedNAssert .. | .pairFenceAck .. | .dropped .. | .phaseMeasure .. | .thermReading ..
  | .overvoltage .. | .ctrlSramUe .. | .fabricClock .. | .fatal .. | .freezeTimeout .. | .occSel ..
  | .streamRetrained .. | .pcieLinkUp .. | .tenonLinkUp .. | .tenonLinkDown .. | .sequenceTMaxExpiry .. => true

end Sys2Proof
end

