-- ==== Sys2Proof/Safety.lean ====
section
/-! DEFINITION. What claims about whole runs speak of: the canonical form of the register file, the well-formedness of the
queue, and the order of the fuse array, in which a burnt fuse never unburns. -/

namespace Sys2Proof.Machine

/-- The register file lists registers by rising offset, and none that holds its reset value. -/
def State.Canon (s : State) : Prop := sparseWf resetValue s.regs = true

/-- Every waiting command can exist. -/
def State.QueueWf (s : State) : Prop := ∀ c ∈ s.pending, c.wf = true

/-- The fuse array g can follow the fuse array f: identity fuses are the same, a burnt fuse of the key hash and SIGNED_ONLY
stays burnt, and erase fuses only run out (spec/02_draft_image.md R61, spec/15_startup_and_black_box.md R382). -/
def Fuses.Le (f g : Fuses) : Prop :=
  g.step = f.step ∧ g.serial = f.serial ∧ g.subsys = f.subsys ∧ g.eraseKey = f.eraseKey ∧
    f.keyHash &&& g.keyHash = f.keyHash ∧ (f.signedOnly = true → g.signedOnly = true) ∧ g.erasesLeft ≤ f.erasesLeft

/-! ### Frames -/

/-- t has every register of s but those at the offsets listed. -/
def State.SameRegsBut (s t : State) (l : List Nat) : Prop := ∀ o, o ∉ l → t.reg o = s.reg o

/-- t differs from s in registers alone. -/
abbrev State.RestSame (s t : State) : Prop := { t with regs := s.regs } = s

/-- t differs from s in registers, in the marks of W1C bits and RCL counters set, and in what is sent. -/
abbrev State.RestSameButMarks (s t : State) : Prop :=
  { t with regs := s.regs, occ := s.occ, time := s.time, out := s.out } = s

/-- The pending-bit registers of the MSI-X vectors (R324). -/
def pbaRegs : List Nat := [0x129000, 0x129004]

/-- A host write at an offset meets its register: the link carries it, and the block is open, present and not the follower's
(R30, R40, R394), and no reset of the clock prevails over it (R433). A protected ACTIVE forwards it as well. -/
def State.takesWrite (s : State) (off : Nat) : Bool :=
  s.hostReaches && !s.resetsNow off && !(s.closedState && !alwaysOpen (off / 0x10000)) && !s.blockAbsent (off / 0x10000) &&
    !(forwardedBlock (off / 0x10000) && s.isShadow) && decide (off / 0x10000 ≤ 0x18)

end Sys2Proof.Machine
end

