-- ==== Sys2Proof/Certificates/Slice0/Obligations.lean ====
section
/-! DEFINITION. The statements for the provers. -/

open Sys2Proof Sys2Proof.Machine

/-- A step with the command c at the front of the queue answers what c answers on the same state with the rest of
the queue waiting. -/
def Obligations.StepRunsFront : Prop :=
  ∀ (s : State) (c : Instr) (rest : List Instr),
    s.pending = c :: rest → step s = exec c { s with pending := rest }

/-- With an empty queue a step is one fabric clock of the block, which is the model's choice (log 5): it always
completes, the queue stays empty, and the fabric clock goes on by exactly one. -/
def Obligations.IdleStepIsOneClock : Prop :=
  ∀ s : State, s.pending = [] →
    ∃ t, step s = .next t ∧ t = s.tick ∧ t.pending = [] ∧ t.time.clk = s.time.clk + 1

/-- After reset every register of BAR0 holds the reset value of the register map, the engine is in RESET with the
flash load owed, no command waits, and the invariants of the register file and of the queue hold. That the machine
starts in RESET after power-up is the model's choice (log 4). -/
def Obligations.ResetState : Prop :=
  (∀ off : Nat, State.reset.reg off = resetValue off) ∧ State.reset.reg Reg.DEV_ID = 0x53486404#32 ∧
    State.reset.cur = .reset ∧ State.reset.board.load = some .flash ∧ State.reset.pending = [] ∧
    State.reset.Canon ∧ State.reset.QueueWf

/-- Whatever command runs, and at every fabric clock, a register file in canonical form (offsets rising, no register
listed at its reset value) stays in canonical form, so that equal registers are equal data. -/
def Obligations.StepKeepsRegisterFile : Prop :=
  ∀ s t : State, s.Canon → step s = .next t → t.Canon

/-- A step that answers a next state leaves the rest of the queue in its order and adds nothing to it; the fabric
clock goes on by one when the queue was empty and stands still otherwise. -/
def Obligations.StepTakesOneCommand : Prop :=
  ∀ s t : State, step s = .next t →
    t.pending = s.pending.tail ∧ t.time.clk = s.time.clk + (if s.pending = [] then 1 else 0)

/-- Over every step, whatever the command, the identity fuses stay as they are, every burnt bit of the key hash
stays burnt, SIGNED_ONLY once burnt stays burnt, and the number of unburnt erase fuses never rises. -/
def Obligations.FusesOnlyBurn : Prop :=
  ∀ s t : State, step s = .next t → Fuses.Le s.board.fuses t.board.fuses

/-- When every waiting command is well formed, every command that waits after a step is well formed. -/
def Obligations.QueueStaysWellFormed : Prop :=
  ∀ s t : State, s.QueueWf → step s = .next t → t.QueueWf

/-- No command is refused in any state, and every command answers a next state in every state but three: a record of
more than 32 payload bytes, the end of an open segment with raw samples from which its stored run cannot be cut, and
an engine-bound burst with fewer bytes than the burst that the engine asked for. -/
def Obligations.NothingRefused : Prop :=
  ∀ (s : State) (c : Instr),
    (∀ r, exec c s ≠ .refused r) ∧
    ((∀ a b p, c = .recordMade a b p → p.length ≤ 32) →
     (∀ x n raw r, c = .segmentClose x n raw → s.openRec x = some r →
       s.cutOut r (laneOutputs (s.lane r.lane) (s.correctRun ((s.ctxChannel x).getD 0) n (raw.map (·.toInt))))
         (decide (n + 5 ≤ (((s.lane r.lane).eras.getLast?).map (·.start)).getD 0)) ≠ none) →
     (∀ data ch p l, c = .dmaBurstStart false data → s.burstsOpen = true → s.arbPick false = some ch → 4 ≤ ch →
       (s.chan ch).gone = none → (s.chan ch).paced = p :: l → s.burstLen ch p.left 0 p.left p.addr ≤ data.length) →
     (∀ data ch, c = .dmaBurstStart false data → s.burstsOpen = true → s.arbPick false = some ch → ch < 4 →
       16 ≤ data.length) →
     ∃ t, exec c s = .next t)

/-- A write that no link carries has no effect, nor has one toward a register whose domain resets in the same clock.
A write of 64 bits is two of 32 bits, the lower address first, and one that tells how the pins stand meets the
engine with them. A write with a byte enable clear, a write toward a block that is closed in the state of the
engine, one toward a block that the structure leaves out, and one toward a forwarded block of a paired SHADOW are
each discarded and set their own bit of FLT.HOST; a write above the last block has no effect; no register but
FLT.HOST and the pending bits of the vectors changes. A write that passes meets its register; DEV.SCRATCH takes all
32 bits, and a register of ARB its writable bits alone. -/
def Obligations.HostWriteGates : Prop :=
  (∀ (s : State) (off : Nat) (v : Word) (be : BitVec 4), s.hostReaches = false →
    ∃ t, exec (.registerWrite off v be none) s = .next t ∧ t = s) ∧
  (∀ (s : State) (off : Nat) (v w : Word) (be be' : BitVec 4),
    exec (.registerWrite off v be (some (w, be'))) s = (match exec (.registerWrite off v be none) s with
        | .next u => exec (.registerWrite (off + 4) w be' none) u
        | o => o)) ∧
  (∀ (s : State) (off : Nat) (v : Word) (be : BitVec 4) (high : Option (Word × BitVec 4)) (l : Option Levels),
    exec (.registerWrite off v be high l) s = exec (.registerWrite off v be high) (s.levelsNow l)) ∧
  (∀ (s : State) (off : Nat) (v : Word), s.hostReaches = true → s.resetsNow off = true →
    ∃ t, exec (.registerWrite off v 15 none) s = .next t ∧ t = s) ∧
  (∀ (s : State) (off : Nat) (v : Word) (be : BitVec 4), s.hostReaches = true → be ≠ 15 →
    ∃ t, exec (.registerWrite off v be none) s = .next t ∧ t.bit F.FLT_HOST_PARTIAL_WRITE = true ∧
      s.SameRegsBut t (Reg.FLT_HOST :: pbaRegs) ∧ s.RestSameButMarks t) ∧
  (∀ (s : State) (off : Nat) (v : Word), s.hostReaches = true → s.resetsNow off = false → s.closedState = true →
    alwaysOpen (off / 0x10000) = false → off / 0x10000 ≤ 0x18 →
    ∃ t, exec (.registerWrite off v 15 none) s = .next t ∧ t.bit F.FLT_HOST_BLOCK_CLOSED = true ∧
      s.SameRegsBut t (Reg.FLT_HOST :: pbaRegs) ∧ s.RestSameButMarks t) ∧
  (∀ (s : State) (off : Nat) (v : Word), s.hostReaches = true → s.resetsNow off = false → s.closedState = false →
    s.blockAbsent (off / 0x10000) = true → off / 0x10000 ≤ 0x18 →
    ∃ t, exec (.registerWrite off v 15 none) s = .next t ∧ t.bit F.FLT_HOST_STRUCT_ABSENT = true ∧
      s.SameRegsBut t (Reg.FLT_HOST :: pbaRegs) ∧ s.RestSameButMarks t) ∧
  (∀ (s : State) (off : Nat) (v : Word), 0x18 < off / 0x10000 →
    ∃ t, exec (.registerWrite off v 15 none) s = .next t ∧ t = s) ∧
  (∀ (s : State) (off : Nat) (v : Word), s.hostReaches = true → s.resetsNow off = false → s.closedState = false →
    forwardedBlock (off / 0x10000) = true → s.isShadow = true →
    ∃ t, exec (.registerWrite off v 15 none) s = .next t ∧ t.bit F.FLT_HOST_SHADOW_WRITE = true ∧
      s.SameRegsBut t (Reg.FLT_HOST :: pbaRegs) ∧ s.RestSameButMarks t) ∧
  (∀ (s : State) (v : Word), s.takesWrite Reg.DEV_SCRATCH = true →
    ∃ t, exec (.registerWrite Reg.DEV_SCRATCH v 15 none) s = .next t ∧ t = s.setReg Reg.DEV_SCRATCH v) ∧
  (∀ (s : State) (off : Nat) (v : Word), s.takesWrite off = true → off / 0x10000 = 0x11 → accessAt off ≠ .w1c →
    ∃ t, exec (.registerWrite off v 15 none) s = .next t ∧
      t.reg off = (s.reg off &&& ~~~maskAt off) ||| (v &&& maskAt off) ∧ s.SameRegsBut t [off] ∧ s.RestSame t)

/-- A read of the LO register of a 64-bit counter returns it and latches HI; the next read of HI returns the word
latched, and the latch is used up. A read of 64 bits is two of 32 bits, the lower address first; a read with any
byte enables is of the whole register. A read of an RCL counter returns what was counted before the present clock
and leaves what was counted in it, a saturated counter too. A write of the LO register of a pair is held and changes
no register until the write of HI brings both words into effect. A host write of ones to a W1C register clears each
bit it names that hardware does not set in the same clock, leaves every other bit of the register and every other
register, and a bit that hardware sets in the same clock stays 1. The hardware setting of a bit counts one
occurrence, once in a clock, up to 255. -/
def Obligations.HostReads : Prop :=
  (∀ (s : State) (lo : Nat) (be : BitVec 4), s.hostReaches = true →
    lo ∈ [Reg.CLK_TSC_LO, Reg.DEV_SERIAL_LO, Reg.BBX_NEXT_LO, Reg.FLT_FATAL_TSC_LO] → s.readOpen lo = true →
    optAt s.latched lo = none →
    ∃ t, exec (.latchingRead lo (.enables be)) s = .next t ∧ t.out = s.out ++ [.readData lo (s.reg lo)] ∧
      optAt t.latched (lo + 4) = some (s.reg (lo + 4)) ∧ t.regs = s.regs) ∧
  (∀ (s : State) (lo : Nat) (v : Word) (be : BitVec 4), s.hostReaches = true →
    lo ∈ [Reg.CLK_TSC_LO, Reg.DEV_SERIAL_LO, Reg.BBX_NEXT_LO, Reg.FLT_FATAL_TSC_LO] → s.readOpen (lo + 4) = true →
    optAt s.latched (lo + 4) = some v →
    ∃ t, exec (.latchingRead (lo + 4) (.enables be)) s = .next t ∧ t.out = s.out ++ [.readData (lo + 4) v] ∧
      optAt t.latched (lo + 4) = none ∧ t.regs = s.regs) ∧
  (∀ (s : State) (off : Nat),
    exec (.latchingRead off .wide) s = (match exec (.latchingRead off (.enables 15)) s with
        | .next u => exec (.latchingRead (off + 4) (.enables 15)) u
        | o => o)) ∧
  (∀ (s : State) (off : Nat) (size : ReadSize) (l : Option Levels),
    exec (.latchingRead off size l) s = exec (.latchingRead off size) (s.levelsNow l)) ∧
  (∀ (s : State) (off : Nat) (be : BitVec 4), s.hostReaches = true → accessAt off = .rcl → off ≠ Reg.CAL_MON_POP →
    off < Reg.FLT_OCC 0 ∨ Reg.FLT_OCC 8 ≤ off → s.readOpen off = true → s.addedNow off = none →
    ∃ t, exec (.rclRead off (.enables be)) s = .next t ∧ t.out = s.out ++ [.readData off (s.reg off)] ∧ t.reg off = 0 ∧
      s.SameRegsBut t [off]) ∧
  (∀ (s : State) (off old n : Nat) (be : BitVec 4), s.hostReaches = true → accessAt off = .rcl → off ≠ Reg.CAL_MON_POP →
    off < Reg.FLT_OCC 0 ∨ Reg.FLT_OCC 8 ≤ off → s.readOpen off = true → s.addedNow off = some (old, n) →
    ∃ t, exec (.rclRead off (.enables be)) s = .next t ∧ t.out = s.out ++ [.readData off (BitVec.ofNat 32 old)] ∧
      t.reg off = BitVec.ofNat 32 (min n 4294967295) ∧ s.SameRegsBut t [off]) ∧
  (∀ (s : State) (lo : Nat) (v : Word),
    lo ∈ [Reg.BBX_SNAP_FROM_LO, Reg.BBX_SNAP_TO_LO, Reg.BBX_ANNOT_WALL_LO, Reg.CLK_TSC_LOAD_LO] →
    s.takesWrite lo = true →
    ∃ t, exec (.pairedWrite lo v) s = .next t ∧ t.regs = s.regs ∧ optAt t.held lo = some (v &&& maskAt lo)) ∧
  (∀ (s : State) (lo : Nat) (v l : Word),
    lo ∈ [Reg.BBX_SNAP_FROM_LO, Reg.BBX_SNAP_TO_LO, Reg.BBX_ANNOT_WALL_LO, Reg.CLK_TSC_LOAD_LO] →
    s.takesWrite (lo + 4) = true → optAt s.held lo = some l →
    ∃ t, exec (.pairedWrite (lo + 4) v) s = .next t ∧ t.reg lo = l ∧ t.reg (lo + 4) = v &&& maskAt (lo + 4) ∧
      optAt t.held lo = none ∧ s.SameRegsBut t [lo, lo + 4]) ∧
  (∀ (s : State) (off : Nat) (v : Word), accessAt off = .w1c → off ≠ Reg.DRAFT_FUSE_CTRL → s.takesWrite off = true →
    ∃ t, exec (.w1cWrite off v) s = .next t ∧
      (∀ i : Fin 32, (t.reg off).getLsbD i = ((s.reg off).getLsbD i && !(v.getLsbD i && (maskAt off).getLsbD i && !s.time.setNow.contains (off * 32 + i)))) ∧
      s.SameRegsBut t [off]) ∧
  (∀ (s : State) (off bit : Nat), bit < 32 → flagVector off = none →
    (s.hwSet (bitFld off bit)).bit (bitFld off bit) = true ∧ s.SameRegsBut (s.hwSet (bitFld off bit)) [off] ∧
      (sparseGet (fun _ => 0) (s.hwSet (bitFld off bit)).occ (off * 32 + bit)).toNat =
        (if s.time.setNow.contains (off * 32 + bit) then (sparseGet (fun _ => 0) s.occ (off * 32 + bit)).toNat
         else min 255 ((sparseGet (fun _ => 0) s.occ (off * 32 + bit)).toNat + 1))) ∧
  (∀ (s : State) (v : Word), s.takesWrite Reg.FLT_OCC_SEL = true →
    ∃ t, exec (.occSel v) s = .next t ∧
      t.reg Reg.FLT_OCC_SEL = (s.reg Reg.FLT_OCC_SEL &&& ~~~maskAt Reg.FLT_OCC_SEL) ||| (v &&& maskAt Reg.FLT_OCC_SEL) ∧
      s.SameRegsBut t [Reg.FLT_OCC_SEL] ∧ s.RestSame t)

/-- A vector that is raised sends the message of its table entry when it is unmasked and the function is not in
D3hot; otherwise its pending bit is set and nothing is sent. The return to D0 sends what is pending and unmasked. A
bit of FLT.HOST that hardware sets raises the FLT vector. -/
def Obligations.VectorsRaised : Prop :=
  (∀ (s : State) (v : Fin 64), s.bit (F.DMA_MSIX_MASK v) = false → s.board.d3hot = false →
    s.raiseVector v = s.send (.msix v (s.msixAddr v) (s.reg (Reg.DMA_MSIX_DATA v)))) ∧
  (∀ (s : State) (v : Fin 64), s.bit (F.DMA_MSIX_MASK v) = true ∨ s.board.d3hot = true →
    (s.raiseVector v).bit (F.DMA_PBA_BIT v) = true ∧ (s.raiseVector v).out = s.out ∧
      s.SameRegsBut (s.raiseVector v) [0x129000 + 4 * (v / 32)]) ∧
  (∀ (s : State), s.board.pcieUp = true →
    ∃ t, exec (.d3hotEntry) s = .next t ∧ t = { s with board := { s.board with d3hot := true } }) ∧
  (∀ (s : State) (v : Fin 64), s.board.d3hot = true →
    ∃ t, exec (.d0Return) s = .next t ∧ t.board = { s.board with d3hot := false } ∧
      t.bit (F.DMA_PBA_BIT v) = (s.bit (F.DMA_PBA_BIT v) && s.bit (F.DMA_MSIX_MASK v)) ∧
      t.out = s.out ++ ((List.range 64).filter (fun n => s.bit (F.DMA_PBA_BIT n) && !s.bit (F.DMA_MSIX_MASK n))).map (fun n => .msix n (s.msixAddr n) (s.reg (Reg.DMA_MSIX_DATA n))) ∧
      s.SameRegsBut t pbaRegs) ∧
  (∀ (s : State) (i : Fin 32),
    s.hwSet (bitFld Reg.FLT_HOST i) = ((s.countOcc (bitFld Reg.FLT_HOST i)).setF (bitFld Reg.FLT_HOST i) 1).raiseVector
        (s.getF F.DMA_VEC_MAP_FLT))

/-- The rise of VDD_AON in OFF, and the loss of a rail in any state of full power, enter AON_UP with their cause;
the staging buffer is then empty and the fuses stay. The loss of VDD_AON enters OFF, and the volatile ring is gone.
A rail out of order in AON_UP is kept for self-test, the first one only. -/
def Obligations.PowerEvents : Prop :=
  (∀ (s : State) (a : BitVec 3) (pg pa pb : Bool) (bad : Bool × Bool), s.cur = .off →
    ∃ t, exec (.aonValid a pg pa pb bad) s = .next t ∧ t.cur = .aonUp ∧ t.getF F.DEV_STATE_ENTRY_CAUSE = 0x0F ∧
      t.board.i2cAddr = a ∧ t.draft.staging = [] ∧ t.board.fuses = s.board.fuses) ∧
  (∀ (s : State) (rail : Rail) (a : BitVec 3) (pa pb : Bool) (bad : Bool × Bool), rail ≠ .vddAon → s.cur ≠ .off →
    s.cur ≠ .aonUp →
    ∃ t, exec (.railLoss rail a pa pb bad) s = .next t ∧ t.cur = .aonUp ∧ t.getF F.DEV_STATE_ENTRY_CAUSE = 0x10 ∧
      t.board.i2cAddr = a ∧ t.draft.staging = [] ∧ t.board.fuses = s.board.fuses) ∧
  (∀ (s : State) (cut : CommitCut), s.cur ≠ .off →
    ∃ t, exec (.aonLoss cut) s = .next t ∧ t.cur = .off ∧ t.draft.staging = [] ∧ t.bbx.ring = [] ∧
      t.board.pcieUp = false ∧ t.board.fuses = s.board.fuses) ∧
  (∀ (s : State) (rail before : Rail), s.cur = .aonUp →
    ∃ t, exec (.seqViolation rail before) s = .next t ∧ t.cur = .aonUp ∧
      t.board = { s.board with seqViolation := some (s.board.seqViolation.getD (rail, before)) } ∧ t.draft = s.draft)

/-- The completed rail sequence, PERST_N, the reset command of the maintenance port and a draft reload that no
transition of higher rank of its clock overrides each enter RESET with their own cause; a load is owed, training is
to be done, no image is in force and DEV.CAPS reads zero. The first three sample the straps and load from flash; a
reload samples the erase strap alone, keeps the staging buffer and loads from the source it names. When two resets
meet in one clock one of them results, and the cause is PERST_N where it was one of them. The release of PERST_N
only lets the load begin. -/
def Obligations.Resets : Prop :=
  (∀ (s : State) (straps : Straps) (ref : RefClass), s.cur = .aonUp →
    ∃ t, exec (.railSequenceComplete straps ref) s = .next t ∧ t.cur = .reset ∧ t.getF F.DEV_STATE_ENTRY_CAUSE = 1 ∧
      t.board.load = some .flash ∧ t.board.trained = false ∧ t.board.straps = straps ∧ t.draft.image = [] ∧
      t.reg Reg.DEV_CAPS = 0) ∧
  (∀ (s : State) (straps : Straps) (ref : RefClass), s.cur ≠ .off → s.cur ≠ .aonUp → s.rankNow ≠ 3 →
    ∃ t, exec (.perstAssert straps ref) s = .next t ∧ t.cur = .reset ∧ t.getF F.DEV_STATE_ENTRY_CAUSE = 2 ∧
      t.board.perst = true ∧ t.board.pcieUp = false ∧ t.board.load = some .flash ∧ t.board.trained = false ∧
      t.board.straps = straps ∧ t.draft.image = [] ∧ t.reg Reg.DEV_CAPS = 0) ∧
  (∀ (s : State) (straps : Straps) (ref : RefClass), s.cur ≠ .off → s.cur ≠ .aonUp → s.rankNow ≠ 3 →
    ∃ t, exec (.i2cReset straps ref) s = .next t ∧ t.cur = .reset ∧ t.getF F.DEV_STATE_ENTRY_CAUSE = 3 ∧
      t.board.load = some .flash ∧ t.board.straps = straps ∧ t.draft.image = [] ∧ t.i2c.result = 1 ∧
      t.reg Reg.DEV_CAPS = 0) ∧
  (∀ (s : State) (straps : Straps) (ref : RefClass), s.cur = .reset → s.rankNow = 3 →
    (∃ t, exec (.perstAssert straps ref) s = .next t ∧ t.cur = .reset ∧ t.getF F.DEV_STATE_ENTRY_CAUSE = 2 ∧ t.board = { s.board with perst := true, pcieUp := false, d3hot := false }) ∧
      (∃ t, exec (.i2cReset straps ref) s = .next t ∧ t.cur = .reset ∧ t.getF F.DEV_STATE_ENTRY_CAUSE = s.getF F.DEV_STATE_ENTRY_CAUSE ∧ t.board = s.board ∧ t.i2c.result = 1)) ∧
  (∀ (s : State) (src : Bool) (pins : Option (Straps × RefClass)), s.takesWrite Reg.DRAFT_CTRL = true →
    s.cur = .idle ∨ s.cur = .safeTalk → 6 ≤ s.rankNow →
    ∃ t, exec (.reload src pins) s = .next t ∧ t.cur = .reset ∧ t.getF F.DEV_STATE_ENTRY_CAUSE = 4 ∧
      t.board.load = some (if src then .staging else .flash) ∧
      (∀ p, pins = some p → t.board.straps = { s.board.straps with eraseEn := p.1.eraseEn } ∧ t.board.ref = p.2) ∧
      t.board.trained = false ∧ t.draft.image = [] ∧ t.draft.staging = s.draft.staging ∧ t.reg Reg.DEV_CAPS = 0) ∧
  (∀ (s : State) (pins : Option (Straps × RefClass)), s.cur = .idle ∨ s.cur = .safeTalk → 6 ≤ s.rankNow →
    ∃ t, exec (.i2cDraftReload pins) s = .next t ∧
      (∀ p, pins = some p → t.board.straps = { s.board.straps with eraseEn := p.1.eraseEn } ∧ t.board.ref = p.2) ∧
      t.cur = .reset ∧ t.getF F.DEV_STATE_ENTRY_CAUSE = 4 ∧ t.board.load = some .flash ∧ t.draft.image = [] ∧
      t.draft.staging = s.draft.staging ∧ t.i2c.result = 1) ∧
  (∀ (s : State),
    ∃ t, exec (.perstRelease) s = .next t ∧ t = { s with board := { s.board with perst := false } })

/-- A load that RESET owes, from flash or from the staging buffer, ends in one of two ways. An image that verifies
is in force afterwards, LOADED is set and REFUSE_REASON reads zero. Any other image does not come into force: the
engine is in SAFE_TALK for an image refused, with the reason in DRAFT.STATUS and in TEST.SAFE_CODE, and FLT.DRAFT
tells of it. Either way one LOAD record names the source, the image's serial number where its header could be read,
eight bytes of the digest that the engine computes (the model's choice, log 110) and the reason. A load that RESET
does not owe, or while PERST_N is low, has no effect, nor has one that would end in the clock in which another entry
was made: it is the load that the entry abandoned. -/
def Obligations.LoadVerdict : Prop :=
  (∀ (s : State) (image img : List Byte) (src : LoadFrom), s.cur = .reset → s.board.load = some src →
    s.board.perst = false → 7 ≤ s.rankNow → img = (if src = .staging then s.stagedImage else image) →
    ∃ t, exec (.flashLoadDone image) s = .next t ∧ t.board.load = none ∧
      t.cur = (if (verifyImage s.verifier img).1 = 0 then .reset else .safeTalk) ∧
      t.draft.image = (if (verifyImage s.verifier img).1 = 0 then img else s.draft.image) ∧
      t.draft.staging = s.draft.staging ∧
      t.bit F.DRAFT_STATUS_LOADED = (s.bit F.DRAFT_STATUS_LOADED || (verifyImage s.verifier img).1 == 0) ∧
      t.bit F.DRAFT_STATUS_SOURCE_USED = decide (src = .staging) ∧
      t.getF F.DRAFT_STATUS_REFUSE_REASON = (verifyImage s.verifier img).1 % 256 ∧
      t.getF F.DRAFT_STATUS_FAIL_SECTION = (if (verifyImage s.verifier img).1 = 0 then 0 else (verifyImage s.verifier img).2 % 64) ∧
      t.reg Reg.DRAFT_IMG_SERIAL = (if (verifyImage s.verifier img).1 = 0 then BitVec.ofNat 32 (fieldLe img 0x18 4) else 0) ∧
      ((verifyImage s.verifier img).1 ≠ 0 → t.bit F.FLT_DRAFT_REFUSED = true ∧ t.getF F.TEST_SAFE_CODE_CLASS = 2 ∧ t.getF F.TEST_SAFE_CODE_DETAIL = (verifyImage s.verifier img).1 % 32)) ∧
  (∀ (s : State) (image : List Byte), s.cur = .reset → s.board.load = some .flash → s.board.perst = false →
    7 ≤ s.rankNow → s.bbx.erased = none → s.bbxLost = false →
    ∃ t, exec (.flashLoadDone image) s = .next t ∧
      (t.bbx.ring.filter (fun q => q.1.source == 3 && q.2 == s.time.clk)).map (fun q => (q.1.code, q.1.payload)) = (s.bbx.ring.filter (fun q => q.1.source == 3 && q.2 == s.time.clk)).map (fun q => (q.1.code, q.1.payload)) ++ [(1, [0] ++ leBytes 4 (if headerRead (verifyImage s.verifier image).1 then fieldLe image 0x18 4 else 0) ++ (if headerRead (verifyImage s.verifier image).1 && decide (imageLen image ≤ maxImage) then (imageDigest image).take 8 else List.replicate 8 0) ++ leBytes 1 (verifyImage s.verifier image).1)]) ∧
  (∀ (s : State) (image : List Byte), s.cur ≠ .reset ∨ s.board.load = none ∨ s.board.perst = true ∨ s.rankNow < 7 →
    ∃ t, exec (.flashLoadDone image) s = .next t ∧ t = s)

/-- HBM training leaves each pseudo-channel in service or retired as its sweeps tell. LOADED takes RESET to SELFTEST
once the load, the training and the PLLs are done, and clears what TEST shows. The end of self-test is judged at the
end of its fabric clock: IDLE when no item failed, else SAFE_TALK; a time-out in the same clock prevails and ends in
SAFE_TALK, and a reset or a loss of power has abandoned the self-test. -/
def Obligations.ResetEnds : Prop :=
  (∀ (s : State) (results : Training), s.cur = .reset → s.board.perst = false → s.board.trained = false →
    ∃ t, exec (.hbmTrainingDone results) s = .next t ∧ t.cur = .reset ∧ t.board = { s.board with trained := true } ∧
      (∀ p : Fin 64, t.pcState p = (match trainPc (results.getD p []) with | (_, .retire _ _) => 4 | (_, .ok _) => 1))) ∧
  (∀ (s : State), s.cur = .reset → s.board.perst = false → s.board.load = none → s.board.trained = true →
    s.bit F.DRAFT_STATUS_LOADED = true → s.pllsSettled = true →
    ∃ t, exec (.loaded) s = .next t ∧ t.cur = .selftest ∧ t.getF F.DEV_STATE_ENTRY_CAUSE = 0x0E ∧
      t.getF F.DEV_STATE_SELFTEST_FAIL = 0 ∧ t.reg Reg.TEST_RESULT = 0 ∧ t.reg Reg.TEST_DURATION = 0) ∧
  (∀ (s : State) (r : SelftestResults) (fenced : Bool), s.cur = .selftest → s.board.verdict = none →
    (s.selftestRetire r).selftestFails r = [] →
    ∃ t, exec (.selftestDone r fenced) s = .next t ∧ t.board = { s.board with verdict := some (r, fenced, none) } ∧
      t.cur = .selftest ∧ t.selftestSettle.cur = .idle ∧ t.selftestSettle.getF F.DEV_STATE_ENTRY_CAUSE = 5 ∧
      t.selftestSettle.getF F.DEV_STATE_SELFTEST_FAIL = 0 ∧ t.selftestSettle.reg Reg.TEST_RESULT = 0x80000000#32 ∧
      t.selftestSettle.reg Reg.TEST_DURATION = r.ms.zeroExtend 32) ∧
  (∀ (s : State) (r : SelftestResults) (fenced : Bool) (code : Nat) (detail : Nat) (l : List (Nat × Nat)),
    s.cur = .selftest → s.board.verdict = none → (s.selftestRetire r).selftestFails r = (code, detail) :: l →
    ∃ t, exec (.selftestDone r fenced) s = .next t ∧ t.board = { s.board with verdict := some (r, fenced, none) } ∧
      t.selftestSettle.cur = .safeTalk ∧ t.selftestSettle.getF F.DEV_STATE_ENTRY_CAUSE = 6 ∧
      t.selftestSettle.getF F.DEV_STATE_SELFTEST_FAIL = code % 256 ∧
      t.selftestSettle.getF F.TEST_SAFE_CODE_CLASS = 1 ∧ t.selftestSettle.getF F.TEST_SAFE_CODE_DETAIL = code % 32) ∧
  (∀ (s : State) (u : BitVec 10) (r : SelftestResults), s.cur = .selftest →
    ∃ t, exec (.selftestTimeout u r) s = .next t ∧ t.board = { s.board with verdict := some (r, false, some u) } ∧
      t.selftestSettle.cur = .safeTalk ∧ t.selftestSettle.getF F.DEV_STATE_ENTRY_CAUSE = 6 ∧
      t.selftestSettle.getF F.TEST_SAFE_CODE_CLASS = 1 ∧
      t.selftestSettle.reg (Reg.TEST_DETAIL 9) = BitVec.ofNat 32 (2 * u.toNat) ∧
      t.selftestSettle.reg Reg.TEST_DURATION = r.ms.zeroExtend 32) ∧
  (∀ (s : State) (u : BitVec 10) (r : SelftestResults) (fenced : Bool), s.cur ≠ .selftest →
    exec (.selftestDone r fenced) s = .next s ∧ exec (.selftestTimeout u r) s = .next s ∧ s.selftestSettle = { s with board := { s.board with verdict := none } })

/-- In IDLE and SAFE_TALK a write of STAGE_DATA stores its four bytes at STAGE_ADDR and moves the address on by
four, unless the buffer is full, which sets STAGE_OVERRUN; a write of STAGE_ADDR sets the address; CHECK verifies
the staged image without applying it, and reports the reason and the section. COMPAT is written in IDLE; in any
other state a write that would change it only sets COMPAT_BUSY, unless it is the clock of a reload from IDLE. A
write of FUSE_CTRL with the unlock code and BURN_KEY on a unit whose key is not programmed, or with BURN_SIGNED_ONLY
on a unit whose key is programmed, begins a burn in IDLE and sets BUSY. When the burn ends the key hash has the bits
that read back, SIGNED_ONLY is burnt only if it was asked for and the key reads back as staged and is not blank,
BUSY is clear, and a burn that does not read back as asked sets BURN_ERROR, as does a burn asked for outside IDLE or
during another. -/
def Obligations.StagingAndFuses : Prop :=
  (∀ (s : State) (v : Word), s.takesWrite Reg.DRAFT_STAGE_DATA = true → s.cur = .idle ∨ s.cur = .safeTalk →
    s.draft.checking = false → (s.reg Reg.DRAFT_STAGE_ADDR).toNat < 4194304 →
    ∃ t, exec (.stageData v) s = .next t ∧ t.reg Reg.DRAFT_STAGE_ADDR = s.reg Reg.DRAFT_STAGE_ADDR + 4 ∧
      (∀ i : Fin 4, sparseGet (fun _ => 0) t.draft.staging ((s.reg Reg.DRAFT_STAGE_ADDR).toNat + i) = BitVec.ofNat 8 (fieldOf v (8 * i) 8)) ∧
      s.SameRegsBut t [Reg.DRAFT_STAGE_ADDR]) ∧
  (∀ (s : State) (v : Word), s.takesWrite Reg.DRAFT_STAGE_DATA = true → s.cur = .idle ∨ s.cur = .safeTalk →
    s.draft.checking = false → 4194304 ≤ (s.reg Reg.DRAFT_STAGE_ADDR).toNat →
    ∃ t, exec (.stageData v) s = .next t ∧ t.bit F.FLT_HOST_STAGE_OVERRUN = true ∧ t.draft = s.draft ∧
      t.reg Reg.DRAFT_STAGE_ADDR = s.reg Reg.DRAFT_STAGE_ADDR) ∧
  (∀ (s : State) (v : Word), s.takesWrite Reg.DRAFT_STAGE_ADDR = true → s.cur = .idle ∨ s.cur = .safeTalk →
    ∃ t, exec (.stageAddr v) s = .next t ∧
      t = s.setReg Reg.DRAFT_STAGE_ADDR (BitVec.ofNat 32 (min v.toNat 4194304 / 4 * 4))) ∧
  (∀ (s : State), s.takesWrite Reg.DRAFT_CTRL = true → s.cur = .idle ∨ s.cur = .safeTalk → s.draft.checking = false →
    ∃ t, exec (.check) s = .next t ∧ t.draft = { s.draft with checking := true } ∧
      t.bit F.DRAFT_CHECK_STATUS_BUSY = true ∧ t.getF F.DRAFT_CTRL_SOURCE = s.getF F.DRAFT_CTRL_SOURCE ∧ t.cur = s.cur) ∧
  (∀ (s : State), s.draft.checking = true →
    ∃ t, exec (.checkDone) s = .next t ∧ t.draft = { s.draft with checking := false } ∧
      t.bit F.DRAFT_CHECK_STATUS_DONE = true ∧ t.bit F.DRAFT_CHECK_STATUS_BUSY = false ∧
      t.bit F.DRAFT_CHECK_STATUS_PASS = ((verifyImage s.verifier s.stagedImage).1 == 0) ∧
      t.getF F.DRAFT_CHECK_STATUS_REASON = (verifyImage s.verifier s.stagedImage).1 % 256 ∧
      t.getF F.DRAFT_CHECK_STATUS_SECTION = (verifyImage s.verifier s.stagedImage).2 % 64 ∧
      s.SameRegsBut t [Reg.DRAFT_CHECK_STATUS]) ∧
  (∀ (s : State) (v : Word), s.takesWrite Reg.DEV_CTRL = true → s.cur = .idle →
    ∃ t, exec (.compatWrite v) s = .next t ∧ t.bit F.DEV_CTRL_COMPAT = v.getLsbD 0 ∧ s.SameRegsBut t [Reg.DEV_CTRL] ∧
      s.RestSame t) ∧
  (∀ (s : State) (v : Word), s.takesWrite Reg.DEV_CTRL = true → s.cur ≠ .idle → s.reloadedNow = false →
    v.getLsbD 0 ≠ s.bit F.DEV_CTRL_COMPAT →
    ∃ t, exec (.compatWrite v) s = .next t ∧ t.bit F.FLT_HOST_COMPAT_BUSY = true ∧
      s.SameRegsBut t (Reg.FLT_HOST :: pbaRegs)) ∧
  (∀ (s : State) (v : Word), s.takesWrite Reg.DRAFT_FUSE_CTRL = true → s.cur = .idle → fieldOf v 8 8 = 0xA5 →
    s.bit F.DRAFT_FUSE_CTRL_BUSY = false → s.bit F.DRAFT_FUSE_CTRL_KEY_PROGRAMMED = false →
    ∃ t, exec (.burnKey v) s = .next t ∧
      t.draft = { s.draft with burn := some { key := true, signedOnly := v.getLsbD 1 } } ∧
      t.bit F.DRAFT_FUSE_CTRL_BUSY = true ∧ t.board = s.board ∧ s.SameRegsBut t [Reg.DRAFT_FUSE_CTRL]) ∧
  (∀ (s : State) (v : Word), s.takesWrite Reg.DRAFT_FUSE_CTRL = true → s.cur = .idle → fieldOf v 8 8 = 0xA5 →
    v.getLsbD 0 = false → s.bit F.DRAFT_FUSE_CTRL_BUSY = false → s.bit F.DRAFT_FUSE_CTRL_KEY_PROGRAMMED = true →
    ∃ t, exec (.burnSignedOnly v) s = .next t ∧
      t.draft = { s.draft with burn := some { key := false, signedOnly := true } } ∧
      t.bit F.DRAFT_FUSE_CTRL_BUSY = true ∧ t.board = s.board ∧ s.SameRegsBut t [Reg.DRAFT_FUSE_CTRL]) ∧
  (∀ (s : State) (b : Burn) (keyRead : List Word) (so : Bool), s.draft.burn = some b →
    ∃ t, exec (.burnDone keyRead so) s = .next t ∧ t.draft = { s.draft with burn := none } ∧
      t.board.fuses.keyHash = (if b.key then s.board.fuses.keyHash ||| BitVec.ofNat 256 (wordsValue keyRead) else s.board.fuses.keyHash) ∧
      t.board.fuses.signedOnly = (s.board.fuses.signedOnly || (b.signedOnly && (!b.key || wordsValue keyRead == s.draft.fuseStage.toNat) && t.board.fuses.keyHash != 0 && so)) ∧
      (b.key = true → wordsValue keyRead ≠ s.draft.fuseStage.toNat → t.bit F.DRAFT_FUSE_CTRL_BURN_ERROR = true) ∧
      (b.signedOnly = true → t.board.fuses.signedOnly = false → t.bit F.DRAFT_FUSE_CTRL_BURN_ERROR = true) ∧
      t.bit F.DRAFT_FUSE_CTRL_BUSY = false ∧ t.bit F.DRAFT_FUSE_CTRL_KEY_PROGRAMMED = (t.board.fuses.keyHash != 0) ∧
      t.bit F.DRAFT_STATUS_SIGNED_ONLY = t.board.fuses.signedOnly) ∧
  (∀ (s : State) (v : Word), s.takesWrite Reg.DRAFT_FUSE_CTRL = true → fieldOf v 8 8 = 0xA5 →
    s.cur ≠ .idle ∨ s.bit F.DRAFT_FUSE_CTRL_BUSY = true →
    (∃ t, exec (.burnKey v) s = .next t ∧ t.draft = s.draft ∧ t.board = s.board ∧ t.bit F.DRAFT_FUSE_CTRL_BURN_ERROR = true) ∧
      (∃ t, exec (.burnSignedOnly v) s = .next t ∧ t.draft = s.draft ∧ t.board = s.board ∧ t.bit F.DRAFT_FUSE_CTRL_BURN_ERROR = true))

/-- A write of RUN in IDLE that no transition of higher rank of its clock overrides enters ARMED, and every enabled
cursor arrives at the tread of its ENTRY register, to evaluate it two clocks later. A write of 0 to RUN stops the
Loom: RUNNING clears, STOPPING sets, and the release of a context without an open segment falls due in the next
clock. When no context is live a stop is complete and the engine enters IDLE. A write of CURSOR_EN counts from the
next clock: in it a cursor newly enabled goes to its ENTRY, while the Loom runs, and one no longer enabled halts
after the evaluation of the clock of the write. A ring of doorbells makes them pending. -/
def Obligations.LoomControl : Prop :=
  (∀ (s : State) (en : BitVec 4), s.takesWrite Reg.LOOM_CTRL = true → s.getF F.PAIR_STATUS_ROLE ≠ 3 →
    s.getF F.PAIR_STATUS_ROLE ≠ 4 → s.cur = .idle → 6 ≤ s.rankNow →
    ∃ t, exec (.run en) s = .next t ∧ t.cur = .armed ∧ t.getF F.DEV_STATE_ENTRY_CAUSE = 9 ∧ t.bit F.LOOM_CTRL_RUN = true ∧
      t.bit F.LOOM_STATUS_RUNNING = true ∧ t.getF F.LOOM_CTRL_CURSOR_EN = en.toNat ∧
      (∀ k : Fin 4, en.getLsbD k = true → t.getF (F.LOOM_CURSOR_TREAD k) = s.fieldAt (Reg.LOOM_ENTRY k) 0 12 ∧ (t.cursor k).next = s.time.clk + 2)) ∧
  (∀ (s : State) (en : BitVec 4), s.takesWrite Reg.LOOM_CTRL = true → s.running = true → s.loom.stopping = false →
    ∃ t, exec (.stop en) s = .next t ∧ t.bit F.LOOM_CTRL_RUN = false ∧ t.bit F.LOOM_STATUS_RUNNING = false ∧
      t.bit F.LOOM_STATUS_STOPPING = true ∧ t.getF F.LOOM_CTRL_CURSOR_EN = en.toNat ∧
      t.loom.stopAt = some s.time.clk ∧ t.cur = s.cur ∧ t.lives.map (·.1) = s.lives.map (·.1) ∧
      (∀ p ∈ t.lives, t.openRec p.1 = none → p.2.release = some (s.time.clk + 1))) ∧
  (∀ (s : State), s.loom.stopping = true → s.running = true → s.lives = [] →
    ∃ t, exec (.stopComplete) s = .next t ∧ t.cur = .idle ∧ t.getF F.DEV_STATE_ENTRY_CAUSE = 0x0C ∧
      t.bit F.LOOM_STATUS_STOPPING = false ∧ t.loom.stopping = false) ∧
  (∀ (s : State) (en : BitVec 4), s.takesWrite Reg.LOOM_CTRL = true → s.bit F.LOOM_STATUS_RUNNING = true →
    ∃ t, exec (.cursorEn en) s = .next t ∧ t.getF F.LOOM_CTRL_CURSOR_EN = en.toNat ∧ s.SameRegsBut t [Reg.LOOM_CTRL] ∧
      t.loom = s.loom ∧ t.newClock.loom.enNow = en.toNat ∧ t.newClock.loom.enPrev = s.loom.enNow) ∧
  (∀ (s : State) (k : Fin 4) (t : State), s.bit F.LOOM_STATUS_RUNNING = true → s.loom.enNow.testBit k = true →
    s.loom.enPrev.testBit k = false → (s.getF F.LOOM_CTRL_CURSOR_EN).testBit k = true → t = s.enablesTick →
    t.getF (F.LOOM_CURSOR_TREAD k) = s.fieldAt (Reg.LOOM_ENTRY k) 0 12 ∧ t.bit (F.LOOM_CURSOR_HALTED k) = false ∧
    (t.cursor k).next = s.time.clk + 1 ∧ t.cur = s.cur) ∧
  (∀ (s : State) (k : Fin 4) (t : State), s.bit F.LOOM_STATUS_RUNNING = true → s.loom.enNow.testBit k = false →
    s.loom.enPrev.testBit k = true → t = s.enablesTick →
    t.bit (F.LOOM_CURSOR_HALTED k) = true ∧ t.bit (F.LOOM_CURSOR_WAITING k) = false ∧
    t.getF (F.LOOM_CURSOR_TREAD k) = s.getF (F.LOOM_CURSOR_TREAD k) ∧ t.cur = s.cur) ∧
  (∀ (s : State) (v : Word), s.takesWrite Reg.LOOM_DOORBELL = true →
    ∃ t, exec (.doorbell v) s = .next t ∧ t.reg Reg.LOOM_DOORBELL_PEND = s.reg Reg.LOOM_DOORBELL_PEND ||| v ∧
      s.SameRegsBut t [Reg.LOOM_DOORBELL_PEND])

/-- A cursor that is due on a tread whose condition is always met, with two NOPs, moves to the tread that NEXT names
and evaluates it in the next clock. On a tread that is never met it halts there, waiting, when NEXT tells it to
stay, and moves on by one when NEXT tells it to skip. No register but the cursor's and LOOM.STATUS changes. -/
def Obligations.TreadEvaluation : Prop :=
  (∀ (s : State) (k : Fin 4) (i : Nat), s.loomRuns = true → s.follows = false → s.due k = true →
    i = s.getF (F.LOOM_CURSOR_TREAD k) → (s.treadAt i).cond = 1 → (s.treadAt i).aKind = 0 → (s.treadAt i).bKind = 0 →
    ∃ t, exec (.treadMatch k) s = .next t ∧
      t.getF (F.LOOM_CURSOR_TREAD k) = (if (s.treadAt i).next % 2 = 1 then (s.treadAt i).target else i + 1) % 4096 ∧
      (t.cursor k).next = s.time.clk + 1 ∧ s.SameRegsBut t [Reg.LOOM_CURSOR k, Reg.LOOM_STATUS]) ∧
  (∀ (s : State) (k : Fin 4) (i : Nat), s.loomRuns = true → s.follows = false → s.due k = true →
    i = s.getF (F.LOOM_CURSOR_TREAD k) → (s.treadAt i).cond = 0 →
    ∃ t, exec (.treadMatch k) s = .next t ∧
      t.getF (F.LOOM_CURSOR_TREAD k) = (if (s.treadAt i).next < 2 then (i + 1) % 4096 else i) ∧
      t.bit (F.LOOM_CURSOR_WAITING k) = decide (2 ≤ (s.treadAt i).next) ∧
      t.bit (F.LOOM_CURSOR_HALTED k) = (if 2 ≤ (s.treadAt i).next then true else s.bit (F.LOOM_CURSOR_HALTED k) && !(s.getF F.LOOM_CTRL_CURSOR_EN).testBit k) ∧
      (t.cursor k).next = s.time.clk + 1 ∧ s.SameRegsBut t [Reg.LOOM_CURSOR k, Reg.LOOM_STATUS])

/-- An ARM that no check of R95 refuses makes its context live and armed. An ARM that a check refuses leaves the
live contexts as they are, is counted, sets ARM_FAIL and reports the context, the cause and the tread. A DISARM of a
live context leaves it live and disarmed. -/
def Obligations.ArmAndDisarm : Prop :=
  (∀ (s : State) (c : Fin 1024) (tread : Fin 4096), s.loomIssues = true → (s.arm c).1 = 0 →
    ∃ t, exec (.arm c tread) s = .next t ∧ t.isLive c = true ∧ (t.liveOf c).map (·.armed) = some true ∧
      t.reg Reg.LOOM_ARM_FAIL_COUNT = s.reg Reg.LOOM_ARM_FAIL_COUNT) ∧
  (∀ (s : State) (c : Fin 1024) (tread : Fin 4096), s.loomIssues = true → (s.arm c).1 ≠ 0 →
    ∃ t, exec (.arm c tread) s = .next t ∧ t.seg.live = s.seg.live ∧ t.bit F.LOOM_EVENTS_ARM_FAIL = true ∧
      t.reg Reg.LOOM_ARM_FAIL_COUNT = BitVec.ofNat 32 (min (2 ^ 32 - 1) ((s.reg Reg.LOOM_ARM_FAIL_COUNT).toNat + 1)) ∧
      t.reg Reg.LOOM_ARM_FAIL_LAST = BitVec.ofNat 32 (c + 2 ^ 12 * (s.arm c).1 + 2 ^ 16 * tread)) ∧
  (∀ (s : State) (c : Fin 1024) (x : LiveCtx), s.loomIssues = true → s.liveOf c = some x →
    ∃ t, exec (.disarm c) s = .next t ∧ t.isLive c = true ∧ (t.liveOf c).map (·.armed) = some false)

/-- An OPEN of a live armed context with no segment open, past its re-arm time and its holdoff, with a slot and ring
space, opens one segment record with the context's next sequence number and the instant of the match, and takes
ARMED to ACQUIRING. An OPEN of a context that is not live has no effect but to be counted in OPEN_REFUSED. A CLOSE
of an open segment of an earlier clock cuts it. A MARKER of a live context adds one marker record with its code. -/
def Obligations.SegmentsOpenAndClose : Prop :=
  (∀ (s : State) (c : Fin 1024) (iss : IssueTime) (x : LiveCtx), s.loomIssues = true → s.liveOf c = some x →
    x.armed = true → s.stillOpen c = false → (∀ e ∈ (s.keepOf c).lastEnd, e + 2 * 2 ^ 32 ≤ (iss.instant : Int)) →
    s.holdoffOver c x iss.instant = true → s.openingFits [] iss.instant = true → 2 ≤ s.tableFree →
    s.ringUsed c + s.footprint c ≤ s.ringRest c x →
    ∃ t, exec (.openSegment c iss) s = .next t ∧
      t.seg.recs.any (fun r => r.ctx == c && r.cseq == ((s.announce c).keepOf c).next && r.kind == .segment && r.state == .opened && r.ts == iss.instant && r.src == iss.source) = true ∧
      t.cur = (if s.cur = .armed then .acquiring else s.cur) ∧
      (t.liveOf c).map (·.segCseq) = some ((s.announce c).keepOf c).next) ∧
  (∀ (s : State) (c : Fin 1024) (iss : IssueTime), s.loomIssues = true → s.liveOf c = none →
    ∃ t, exec (.openSegment c iss) s = .next t ∧ t.seg = s.seg ∧
      t.reg Reg.LOOM_OPEN_REFUSED = BitVec.ofNat 32 (min (2 ^ 32 - 1) ((s.reg Reg.LOOM_OPEN_REFUSED).toNat + 1)) ∧
      t.bit F.LOOM_EVENTS_OPEN_REFUSED = true ∧ s.SameRegsBut t [Reg.LOOM_OPEN_REFUSED, Reg.LOOM_EVENTS]) ∧
  (∀ (s : State) (c : Fin 1024), s.loomIssues = true → s.isLive c = true → s.stillOpen c = true → s.seg.undo = [] →
    ∃ t, exec (.close c) s = .next t ∧
      (∀ r ∈ t.seg.recs, r.ctx = c → r.kind = .segment → r.state = .opened → r.cut = some (((s.tsc + 1) * 2 ^ 32 : Nat) : Int)) ∧
      t.seg.recs.map (·.cseq) = s.seg.recs.map (·.cseq) ∧ t.regs = s.regs) ∧
  (∀ (s : State) (c : Fin 1024) (code : BitVec 12) (iss : IssueTime), s.loomIssues = true → s.isLive c = true →
    ∃ t, exec (.marker c code iss) s = .next t ∧
      t.seg.recs.any (fun r => r.ctx == c && r.cseq == (s.keepOf c).next && r.kind == .marker && r.ts == iss.instant && r.trigFrac == code.toNat) = true ∧
      t.seg.recs.length = s.seg.recs.length + 1) ∧
  (∀ (s : State) (c : Fin 1024), s.loomIssues = true → s.isLive c = false →
    ∃ t, exec (.close c) s = .next t ∧ t.seg = s.seg ∧ t.bit F.LOOM_EVENTS_NOT_LIVE = true ∧
      t.reg Reg.LOOM_NOT_LIVE_COUNT = BitVec.ofNat 32 (min (2 ^ 32 - 1) ((s.reg Reg.LOOM_NOT_LIVE_COUNT).toNat + 1)))

/-- A NOP changes nothing, and a reserved kind only sets BAD_ACTION. A FLAG action gives its flag the value it names
and leaves the other flags. An IRQ action raises its vector. -/
def Obligations.FlagsAndVectorsOfTreads : Prop :=
  (∀ (s : State), s.loomIssues = true →
    ∃ t, exec (.nop 0) s = .next t ∧ t = s) ∧
  (∀ (s : State) (kind : BitVec 5), s.loomIssues = true → kind ≠ 0 →
    ∃ t, exec (.nop kind) s = .next t ∧ t.bit F.LOOM_EVENTS_BAD_ACTION = true ∧ s.SameRegsBut t [Reg.LOOM_EVENTS] ∧
      s.RestSameButMarks t) ∧
  (∀ (s : State) (f : Fin 32) (v : Bool), s.loomIssues = true →
    ∃ t, exec (.flag f v) s = .next t ∧
      (∀ i : Fin 32, (t.reg Reg.LOOM_FLAGS).getLsbD i = (if i = f then v else (s.reg Reg.LOOM_FLAGS).getLsbD i)) ∧
      s.SameRegsBut t [Reg.LOOM_FLAGS, Reg.LOOM_EVENTS]) ∧
  (∀ (s : State) (v : Fin 64), s.loomIssues = true → s.bit (F.DMA_MSIX_MASK v) = false → s.board.d3hot = false →
    ∃ t, exec (.irq v) s = .next t ∧ t.out = s.out ++ [.msix v (s.msixAddr v) (s.reg (Reg.DMA_MSIX_DATA v))] ∧
      t.regs = s.regs) ∧
  (∀ (s : State) (v : Fin 64), s.loomIssues = true → s.bit (F.DMA_MSIX_MASK v) = true →
    ∃ t, exec (.irq v) s = .next t ∧ t.bit (F.DMA_PBA_BIT v) = true ∧ t.out = s.out ∧ s.SameRegsBut t pbaRegs)

/-- A write into the tread window with VIEW on BACK and no swap pending replaces one word of one tread of BACK; with
VIEW on FRONT it is discarded and sets FRONT_WRITE; to BACK while a swap is pending it is discarded and sets
BACK_LOCKED. The occurrence counters of FLT count both flags, once in a fabric clock. -/
def Obligations.TreadWindowWrites : Prop :=
  (∀ (s : State) (off : Fin 8192) (v : Word), s.takesWrite (0x38000 + 4 * off) = true → s.bit F.LOOM_WIN_VIEW = false →
    s.loom.swap = none →
    ∃ t, exec (.treadWindowWrite off v) s = .next t ∧
      sparseGet (fun _ => 0) (t.bank false) (s.windowAt off).1 = withWord (sparseGet (fun _ => 0) (s.bank false) (s.windowAt off).1) (s.windowAt off).2 v ∧
      t.bank true = s.bank true ∧ t.regs = s.regs) ∧
  (∀ (s : State) (off : Fin 8192) (v : Word), s.takesWrite (0x38000 + 4 * off) = true → s.bit F.LOOM_WIN_VIEW = true →
    ∃ t, exec (.treadWindowWrite off v) s = .next t ∧ t.bit F.LOOM_EVENTS_FRONT_WRITE = true ∧
      (s.time.setNow.contains (occKey F.LOOM_EVENTS_FRONT_WRITE) = false → (sparseGet (fun _ => 0) t.occ (occKey F.LOOM_EVENTS_FRONT_WRITE)).toNat = min 255 ((sparseGet (fun _ => 0) s.occ (occKey F.LOOM_EVENTS_FRONT_WRITE)).toNat + 1)) ∧
      t.loom = s.loom ∧ s.SameRegsBut t [Reg.LOOM_EVENTS]) ∧
  (∀ (s : State) (off : Fin 8192) (v : Word), s.takesWrite (0x38000 + 4 * off) = true → s.bit F.LOOM_WIN_VIEW = false →
    s.loom.swap.isSome = true →
    ∃ t, exec (.treadWindowWrite off v) s = .next t ∧ t.bit F.LOOM_EVENTS_BACK_LOCKED = true ∧
      (s.time.setNow.contains (occKey F.LOOM_EVENTS_BACK_LOCKED) = false → (sparseGet (fun _ => 0) t.occ (occKey F.LOOM_EVENTS_BACK_LOCKED)).toNat = min 255 ((sparseGet (fun _ => 0) s.occ (occKey F.LOOM_EVENTS_BACK_LOCKED)).toNat + 1)) ∧
      t.loom = s.loom ∧ s.SameRegsBut t [Reg.LOOM_EVENTS])

/-- A swap request stays pending until its boundary, where the banks exchange and SWAP_DONE sets; a cancel withdraws
it. A write into the window of a context that is not live stores its writable bits, and one of a live context is
discarded and sets CTX_LIVE_WRITE. -/
def Obligations.TableWrites : Prop :=
  (∀ (s : State) (v : Word), s.takesWrite Reg.LOOM_SWAP = true → s.loom.swap = none → v.getLsbD 1 = false →
    fieldOf v 2 2 ≠ 3 →
    ∃ t, exec (.swapReq v) s = .next t ∧
      t.loom.swap = some ⟨fieldOf v 2 2, v.getLsbD 4, fieldOf v 8 10, s.time.clk, false⟩ ∧
      t.bit F.LOOM_STATUS_SWAP_PENDING = true ∧ t.bit F.LOOM_STATUS_FRONT_PHYS = s.bit F.LOOM_STATUS_FRONT_PHYS ∧
      s.SameRegsBut t [Reg.LOOM_SWAP, Reg.LOOM_STATUS]) ∧
  (∀ (s : State) (q : SwapReq), s.takesWrite Reg.LOOM_SWAP = true → s.loom.swap = some q →
    s.atBoundary q s.time.clk = false →
    ∃ t, exec (.swapCancel) s = .next t ∧ t.loom.swap = none ∧ t.bit F.LOOM_STATUS_SWAP_PENDING = false ∧
      t.bit F.LOOM_STATUS_FRONT_PHYS = s.bit F.LOOM_STATUS_FRONT_PHYS ∧ t.loom.swapGone = some (s.time.clk, q)) ∧
  (∀ (s : State) (q : SwapReq), s.loom.swap = some q → s.loom.swapAt = none → s.atBoundary q s.time.clk = true →
    ∃ t, exec (.swapDone) s = .next t ∧ t.loom.swap = none ∧ t.bank true = s.bank false ∧ t.bank false = s.bank true ∧
      t.bit F.LOOM_EVENTS_SWAP_DONE = true ∧ t.bit F.LOOM_STATUS_SWAP_PENDING = false ∧
      s.SameRegsBut t [Reg.LOOM_STATUS, Reg.LOOM_EVENTS]) ∧
  (∀ (s : State) (c : Fin 1024) (word : Fin 64) (v : Word), s.takesWrite (ctxBase c + 4 * word) = true →
    s.isLive c = false → s.bit F.DRAFT_STATUS_COMPAT_ACTIVE = false →
    ∃ t, exec (.ctxWindowWrite c word v) s = .next t ∧
      t.reg (ctxBase c + 4 * word) = (s.reg (ctxBase c + 4 * word) &&& ~~~maskAt (ctxBase c + 4 * word)) ||| (v &&& maskAt (ctxBase c + 4 * word)) ∧
      s.SameRegsBut t [ctxBase c + 4 * word]) ∧
  (∀ (s : State) (c : Fin 1024) (word : Fin 64) (v : Word), s.takesWrite (ctxBase c + 4 * word) = true →
    s.isLive c = true →
    ∃ t, exec (.ctxWindowWrite c word v) s = .next t ∧ t.bit F.FLT_HOST_CTX_LIVE_WRITE = true ∧
      s.SameRegsBut t (Reg.FLT_HOST :: pbaRegs))

/-- A write of AXIS.CFG in IDLE stores its fields; a change of source starts the estimator afresh, in STALLED for an
external source. A write in ARMED or ACQUIRING is discarded and sets AXIS_BUSY. On the time axis the position is the
TSC in whole units and the estimator is in TRACK, where that the clock of the axis is the TSC is the model's reading
(DEDUCED, log 27). COAST keeps the position and the rate, STALLED freezes the position and drops the rate. An index
edge latches the position at its instant. -/
def Obligations.AxisSource : Prop :=
  (∀ (s : State) (v : Word), s.takesWrite Reg.AXIS_CFG = true → s.cur = .idle → fieldOf v 0 2 ≠ 3 →
    s.bit F.DRAFT_STATUS_COMPAT_ACTIVE = false →
    ∃ t, exec (.axisCfgWrite v) s = .next t ∧
      t.reg Reg.AXIS_CFG = (s.reg Reg.AXIS_CFG &&& ~~~maskAt Reg.AXIS_CFG) ||| (v &&& maskAt Reg.AXIS_CFG) ∧
      s.SameRegsBut t [Reg.AXIS_CFG, Reg.AXIS_STATUS] ∧ (fieldOf v 0 2 = s.getF F.AXIS_CFG_SOURCE → t.axis = s.axis) ∧
      (fieldOf v 0 2 ≠ s.getF F.AXIS_CFG_SOURCE → fieldOf v 0 2 ≠ 0 → t.axisStAt t.time.clk = 2 ∧ t.axisAt t.time.clk = 0 ∧ t.bit F.AXIS_STATUS_NEVER_LOCKED = true ∧ t.axis.rate = 0)) ∧
  (∀ (s : State) (v : Word), s.takesWrite Reg.AXIS_CFG = true → s.running = true →
    ∃ t, exec (.axisCfgWrite v) s = .next t ∧ t.bit F.FLT_HOST_AXIS_BUSY = true ∧ t.axis = s.axis ∧
      s.SameRegsBut t (Reg.FLT_HOST :: pbaRegs)) ∧
  (∀ (s : State), s.getF F.AXIS_CFG_SOURCE = 0 ∨ s.bit F.DRAFT_STATUS_COMPAT_ACTIVE = true →
    s.axisAt s.time.clk = (s.tsc : Int) * axisUnit ∧ s.axisReported s.time.clk = (s.tsc : Int) * 2 ^ 16 ∧
      ∀ n, s.axisStAt n = 0) ∧
  (∀ (s : State), s.operational = true → s.axisIsTime = false → s.axisStAt s.time.clk = 0 → s.axis.rate ≠ 0 →
    ∃ t, exec (.enterCoast) s = .next t ∧ t.axisStAt t.time.clk = 1 ∧ t.axisAt t.time.clk = s.axisAt s.time.clk ∧
      t.axisRateAt t.time.clk = s.axis.rate ∧ t.axis.slew = 0 ∧ t.bit F.AXIS_STATUS_SLEWING = false ∧
      t.getF F.AXIS_STATUS_STATE = 1 ∧ t.bit F.FLT_CLASS_AXIS_COAST = true ∧
      s.SameRegsBut t (Reg.AXIS_STATUS :: Reg.AXIS_EVENTS :: Reg.FLT_CLASS :: pbaRegs)) ∧
  (∀ (s : State), s.operational = true → s.axisIsTime = false → s.axisStAt s.time.clk ≠ 2 →
    ∃ t, exec (.enterStalled) s = .next t ∧ t.axisStAt t.time.clk = 2 ∧ t.axisAt t.time.clk = s.axisAt s.time.clk ∧
      t.axisRateAt t.time.clk = 0 ∧ t.axis.rate = 0 ∧ t.getF F.AXIS_STATUS_STATE = 2 ∧
      t.bit F.FLT_CLASS_AXIS_STALL = true ∧
      s.SameRegsBut t (Reg.AXIS_STATUS :: Reg.AXIS_EVENTS :: Reg.FLT_CLASS :: pbaRegs)) ∧
  (∀ (s : State) (e : Instant) (hold : Nat), s.operational = true → s.getF F.AXIS_CFG_INDEX_MODE = 1 →
    s.getF F.AXIS_CFG_FILTER ≤ hold →
    ∃ t, exec (.axisIndexEdge e hold) s = .next t ∧
      t.get64 Reg.AXIS_Z_LATCH_LO = toBitsInt 64 (s.axisHeader (edgeStamp e)) ∧ t.bit F.AXIS_EVENTS_INDEX = true ∧
      t.loom.events = (s.time.clk, .axis 4 (some (edgeStamp e))) :: s.loom.events ∧ t.axis = s.axis ∧
      s.SameRegsBut t [Reg.AXIS_Z_LATCH_LO, Reg.AXIS_Z_LATCH_HI, Reg.AXIS_EVENTS])

/-- An edge counts when its level holds for the clocks of FILTER, and its instant is a whole number of sixty-fourths
of a clock. An edge of AXIS_REF and a counted step of the quadrature inputs each give the estimator the true
position that R73 assigns, at the instant of the edge. The first edge after the choice of source sets the position
to it and enters TRACK. An edge that the tracking loop corrects never moves the position against the direction of
motion. An error above the threshold with the policy STEP sets the position to the true one and reports where it
came from. When both quadrature inputs change together the count stays and QUAD_ERR sets. -/
def Obligations.AxisEdges : Prop :=
  (∀ (s : State) (e : Instant) (hold : Nat), s.operational = true → s.getF F.AXIS_CFG_FILTER ≤ hold →
    s.getF F.AXIS_CFG_SOURCE = 2 → s.bit F.DRAFT_STATUS_COMPAT_ACTIVE = false →
    ∃ t, exec (.axisRefEdge e hold) s = .next t ∧ t.axis.lastEdge = some (s.modelTime (edgeStamp e)) ∧
      t.axis.lastTrue = s.refTrue (edgeStamp e) (s.getF F.AXIS_CFG_REF_DIV + 1) ∧ t.axisStAt t.time.clk = 0 ∧
      t.axis.count = s.axis.count ∧
      (s.bit F.AXIS_STATUS_NEVER_LOCKED = true → t.axisAt t.time.clk = t.axis.lastTrue ∧ t.bit F.AXIS_STATUS_NEVER_LOCKED = false)) ∧
  (∀ (s : State) (e : Instant) (hold : Nat), s.operational = true → s.getF F.AXIS_CFG_FILTER ≤ hold →
    s.getF F.AXIS_CFG_SOURCE = 2 → s.bit F.DRAFT_STATUS_COMPAT_ACTIVE = false →
    s.bit F.AXIS_STATUS_NEVER_LOCKED = false → s.axisStAt s.time.clk ≠ 2 → s.axis.rate ≠ 0 →
    (s.refTrue (edgeStamp e) (s.getF F.AXIS_CFG_REF_DIV + 1) - s.axisAtTime (s.modelTime (edgeStamp e))).natAbs ≤ (s.axisReg Reg.AXIS_PHASE_THRESH).toNat * 2 ^ 32 →
    ∃ t, exec (.axisRefEdge e hold) s = .next t ∧
      (s.bit F.AXIS_STATUS_DOWN = false → s.axisAt (s.time.clk - 1) ≤ t.axisAt t.time.clk) ∧
      (s.bit F.AXIS_STATUS_DOWN = true → t.axisAt t.time.clk ≤ s.axisAt (s.time.clk - 1)) ∧
      t.bit F.AXIS_EVENTS_PHASE_ALARM = s.bit F.AXIS_EVENTS_PHASE_ALARM) ∧
  (∀ (s : State) (e : Instant) (hold : Nat), s.operational = true → s.getF F.AXIS_CFG_FILTER ≤ hold →
    s.getF F.AXIS_CFG_SOURCE = 2 → s.bit F.DRAFT_STATUS_COMPAT_ACTIVE = false →
    s.bit F.AXIS_STATUS_NEVER_LOCKED = false → s.axisField Reg.AXIS_POLICY 0 1 = 0 →
    (s.axisReg Reg.AXIS_PHASE_THRESH).toNat * 2 ^ 32 < (s.refTrue (edgeStamp e) (s.getF F.AXIS_CFG_REF_DIV + 1) - s.axisAtTime (s.modelTime (edgeStamp e))).natAbs →
    ∃ t, exec (.axisRefEdge e hold) s = .next t ∧
      t.axisAt t.time.clk = s.refTrue (edgeStamp e) (s.getF F.AXIS_CFG_REF_DIV + 1) ∧
      t.get64 Reg.AXIS_STEP_TO_LO = toBitsInt 64 (t.axisReported t.time.clk) ∧
      t.get64 Reg.AXIS_STEP_FROM_LO = toBitsInt 64 (s.axisReported (s.time.clk - 1)) ∧
      t.bit F.AXIS_EVENTS_STEP = true ∧ t.bit F.AXIS_EVENTS_PHASE_ALARM = true) ∧
  (∀ (s : State) (a b : Bool) (e : Instant) (hold : Nat) (d : Int), s.operational = true →
    s.getF F.AXIS_CFG_FILTER ≤ hold → s.getF F.AXIS_CFG_SOURCE = 1 → s.bit F.DRAFT_STATUS_COMPAT_ACTIVE = false →
    s.bit F.AXIS_CFG_DIR_INVERT = false → quadStep s.axis.a s.axis.b a b = some d → d ≠ 0 →
    ∃ t, exec (.axisQuadEdge a b e hold) s = .next t ∧ t.axis.count = s.axis.count + d ∧ t.axis.a = a ∧ t.axis.b = b ∧
      t.axis.lastTrue = (s.axis.count + d) * axisUnit / (max 1 (s.axisField Reg.AXIS_SCALE 0 25) : Nat) ∧
      t.axis.lastEdge = some (s.modelTime (edgeStamp e)) ∧ t.bit F.AXIS_STATUS_DOWN = decide (d < 0) ∧
      (s.bit F.AXIS_STATUS_NEVER_LOCKED = false → d ≠ s.axisDir → t.axis.rate = 0 ∧ t.bit F.AXIS_EVENTS_REVERSAL = true)) ∧
  (
    quadStep false false true false = some 1 ∧ quadStep true false true true = some 1 ∧ quadStep true true false true = some 1 ∧
      quadStep false true false false = some 1 ∧ (∀ a b c d : Bool, quadStep a b c d = some 1 ↔ quadStep c d a b = some (-1)) ∧
      (∀ a b c d : Bool, quadStep a b c d = none ↔ (a ≠ c ∧ b ≠ d))) ∧
  (∀ (s : State) (e : Instant) (hold : Nat), s.operational = true → s.getF F.AXIS_CFG_FILTER ≤ hold →
    s.getF F.AXIS_CFG_SOURCE = 1 → s.bit F.DRAFT_STATUS_COMPAT_ACTIVE = false →
    ∃ t, exec (.axisQuadEdge (!s.axis.a) (!s.axis.b) e hold) s = .next t ∧ t.bit F.AXIS_EVENTS_QUAD_ERR = true ∧
      t.axis.count = s.axis.count ∧ t.axis.track = s.axis.track ∧ s.SameRegsBut t [Reg.AXIS_EVENTS]) ∧
  (∀ (s : State) (a b : Bool) (e : Instant) (hold : Nat), hold < s.getF F.AXIS_CFG_FILTER →
    exec (.axisQuadEdge a b e hold) s = .next s ∧ exec (.axisRefEdge e hold) s = .next s ∧ exec (.axisIndexEdge e hold) s = .next s)

/-- An AXIS_CMP action adds the step to the compare, loads the load register, sets the compare a step beyond the
position, or to the next multiple of the step above it, and changes no other register. Of two actions on one compare
in a clock the second acts on the value before both. A host write that meets an action of its clock is lost and sets
CMP_COLLIDE. -/
def Obligations.AxisCompares : Prop :=
  (∀ (s : State) (k : Fin 16) (mode : Fin 4), s.loomIssues = true → s.loom.cmpActed = [] → s.loom.cmpHost = [] →
    s.axisReg64 (Reg.AXIS_CMP_STEP_LO k) ≠ 0 →
    ∃ t, exec (.axisCmp k mode) s = .next t ∧
      t.get64 (Reg.AXIS_CMP_LO k) = (if mode = 0 then (s.get64 (Reg.AXIS_CMP_LO k) + s.axisReg64 (Reg.AXIS_CMP_STEP_LO k)) % 2 ^ 64 else if mode = 1 then s.axisReg64 (Reg.AXIS_CMP_LOAD_LO k) else if mode = 2 then toBitsInt 64 (s.axisReported s.time.clk + ofBitsInt 64 (s.axisReg64 (Reg.AXIS_CMP_STEP_LO k))) else toBitsInt 64 ((s.axisReported s.time.clk / (ofBitsInt 64 (s.axisReg64 (Reg.AXIS_CMP_STEP_LO k))).natAbs + 1) * (ofBitsInt 64 (s.axisReg64 (Reg.AXIS_CMP_STEP_LO k))).natAbs)) ∧
      t.loom.cmpActed = [(k.val, s.get64 (Reg.AXIS_CMP_LO k))] ∧
      s.SameRegsBut t [Reg.AXIS_CMP_LO k, Reg.AXIS_CMP_HI k]) ∧
  (∀ (s : State) (k : Fin 16) (old : Nat), s.loomIssues = true → s.loom.cmpActed = [(k.val, old)] → s.loom.cmpHost = [] →
    ∃ t, exec (.axisCmp k 0) s = .next t ∧
      t.get64 (Reg.AXIS_CMP_LO k) = (old + s.axisReg64 (Reg.AXIS_CMP_STEP_LO k)) % 2 ^ 64 ∧
      s.SameRegsBut t [Reg.AXIS_CMP_LO k, Reg.AXIS_CMP_HI k]) ∧
  (∀ (s : State) (k : Fin 16) (v : Word) (old : Nat), s.takesWrite (Reg.AXIS_CMP_HI k) = true →
    s.loom.cmpActed = [(k.val, old)] →
    ∃ t, exec (.pairedWrite (Reg.AXIS_CMP_HI k) v) s = .next t ∧ t.bit F.AXIS_EVENTS_CMP_COLLIDE = true ∧
      t.get64 (Reg.AXIS_CMP_LO k) = s.get64 (Reg.AXIS_CMP_LO k) ∧ s.SameRegsBut t [Reg.AXIS_EVENTS])

/-- A write of REF_CTRL.SEL changes SEL at once and the reference in effect from the next clock on, which clears
SETTLED when it is another one; the reserved code, and EXTERNAL while VREF_EXT is out of range, leave SEL and set
REF_WRITE_LOST. The settle count sets SETTLED. A fault of EXTERNAL falls back to INTERNAL, clears SETTLED, sets
EXT_FAULT and makes a record. -/
def Obligations.ConverterReference : Prop :=
  (∀ (s : State) (v : Word) (x : Bool), s.takesWrite Reg.CONV_REF_CTRL = true → fieldOf v 0 2 ≠ 3 →
    (fieldOf v 0 2 = 1 → x = true) → s.time.setNow.contains (occKey F.CONV_EVENTS_EXT_FAULT) = false →
    ∃ t, exec (.refSelWrite v x) s = .next t ∧ t.getF F.CONV_REF_CTRL_SEL = fieldOf v 0 2 ∧
      t.getF F.CONV_REF_STATUS_SEL_IN_EFFECT = s.getF F.CONV_REF_STATUS_SEL_IN_EFFECT ∧
      t.refTakes.getF F.CONV_REF_STATUS_SEL_IN_EFFECT = fieldOf v 0 2 ∧
      (fieldOf v 0 2 ≠ s.getF F.CONV_REF_STATUS_SEL_IN_EFFECT → t.refTakes.bit F.CONV_REF_STATUS_SETTLED = false) ∧
      t.bit F.CONV_REF_STATUS_EXT_IN_RANGE = x ∧ s.SameRegsBut t [Reg.CONV_REF_CTRL, Reg.CONV_REF_STATUS]) ∧
  (∀ (s : State) (v : Word) (x : Bool), s.takesWrite Reg.CONV_REF_CTRL = true →
    fieldOf v 0 2 = 3 ∨ (fieldOf v 0 2 = 1 ∧ x = false) →
    ∃ t, exec (.refSelWrite v x) s = .next t ∧ t.getF F.CONV_REF_CTRL_SEL = s.getF F.CONV_REF_CTRL_SEL ∧ t.conv = s.conv ∧
      t.bit F.CONV_EVENTS_REF_WRITE_LOST = true ∧ s.SameRegsBut t [Reg.CONV_REF_STATUS, Reg.CONV_EVENTS]) ∧
  (∀ (s : State) (x : Bool), s.operational = true →
    ∃ t, exec (.refSettled x) s = .next t ∧
      t.regs = ((s.setBit F.CONV_REF_STATUS_SETTLED true).setBit F.CONV_REF_STATUS_EXT_IN_RANGE x).regs ∧
      t.conv = s.conv ∧ t.board = { s.board with levels := { s.board.levels with ext := x } }) ∧
  (∀ (s : State), s.operational = true → s.getF F.CONV_REF_STATUS_SEL_IN_EFFECT = 1 →
    ∃ t, exec (.extFault) s = .next t ∧ t.getF F.CONV_REF_STATUS_SEL_IN_EFFECT = 0 ∧
      t.bit F.CONV_REF_STATUS_SETTLED = false ∧ t.bit F.CONV_REF_STATUS_EXT_IN_RANGE = false ∧
      t.bit F.CONV_EVENTS_EXT_FAULT = true ∧ t.conv.refPending = none ∧
      t.bbx.ring.any (fun p => p.1.source == 5 && p.1.code == 1 && p.2 == s.time.clk) = true ∧ t.cur = s.cur)

/-- A write of CAL.CTRL is stored, and MODE, BANK_EN and FOCUS count from the next clock. MODE OFF then ends the
calibration of every bank and leaves the coefficients; PERIODIC starts the self visit of an enabled bank, while the
slice clocks run. START in SINGLE starts a sweep of every enabled bank, is ignored while one is in progress, and
waits for the next clock in another MODE. The end of the period starts the channels that wait and marks those that
are late. A capture begins, or waits for an injected conversion; its end brings the visit to UPDATE. -/
def Obligations.CalibrationSweeps : Prop :=
  (∀ (s : State) (v : Word), s.takesWrite Reg.CAL_CTRL = true → v.getLsbD 14 = false →
    ∃ t, exec (.calCtrlWrite v) s = .next t ∧
      t.reg Reg.CAL_CTRL = (s.reg Reg.CAL_CTRL &&& ~~~maskAt Reg.CAL_CTRL) ||| (v &&& maskAt Reg.CAL_CTRL) ∧
      s.SameRegsBut t [Reg.CAL_CTRL] ∧ t.cal = s.cal) ∧
  (∀ (s : State) (b : Fin 4) (t : State), s.operational = true → calModeOf s.cal.ctrl ≠ 0 →
    calModeOf (s.reg Reg.CAL_CTRL) = 0 → t = s.ctrlTakes →
    (t.calBank b).phase = .off ∧ (t.calBank b).inj = (s.calBank b).inj ∧ (t.calBank b).est = none ∧
    t.getF F.CAL_STATUS_SWEEPING = 0 ∧ t.getF F.CAL_STATUS_CONVERGED = s.getF F.CAL_STATUS_CONVERGED ∧
    t.cal.coefs = s.cal.coefs ∧ ((s.calBank b).visiting = true → t.bit F.CAL_EVENTS_ABORTED = true)) ∧
  (∀ (s : State) (b : Fin 4) (t : State), s.operational = true → s.slicesRun = true → calModeOf s.cal.ctrl = 0 →
    calModeOf (s.reg Reg.CAL_CTRL) = 1 → (s.reg Reg.CAL_CTRL).getLsbD b = true → t = s.ctrlTakes →
    (t.calBank b).phase = .self ∧ (t.calBank b).slice = 64 ∧ t.bit (bitFld Reg.CAL_STATUS b) = true ∧
    t.cal.coefs = s.cal.coefs) ∧
  (∀ (s : State), s.takesWrite Reg.CAL_CTRL = true → s.calMode = 2 → s.getF F.CAL_STATUS_SWEEPING = 0 →
    s.slicesRun = true → (∀ b : Fin 4, (s.calBank b).busy = false) →
    ∃ t, exec (.calStart) s = .next t ∧ t.getF F.CAL_STATUS_SWEEPING = fieldOf s.cal.ctrl 0 4 ∧
      (∀ b : Fin 4, s.bankEn b = true → (t.calBank b).phase = .self ∧ (t.calBank b).slice = 64) ∧
      (∀ b : Fin 4, s.bankEn b = false → t.calBank b = s.calBank b) ∧
      s.SameRegsBut t [Reg.CAL_STATUS, Reg.CAL_INJ_STATUS]) ∧
  (∀ (s : State), s.takesWrite Reg.CAL_CTRL = true → s.calMode = 2 → s.getF F.CAL_STATUS_SWEEPING ≠ 0 →
    ∃ t, exec (.calStart) s = .next t ∧ t = s) ∧
  (∀ (s : State), s.takesWrite Reg.CAL_CTRL = true → s.calMode ≠ 2 →
    ∃ t, exec (.calStart) s = .next t ∧ t = { s with cal := { s.cal with startReq := true } }) ∧
  (∀ (s : State), s.operational = true → s.calMode = 1 → s.slicesRun = true →
    ∃ t, exec (.sweepPeriodExpiry) s = .next t ∧
      (∀ b : Fin 4, s.bankEn b = true → (s.chanGroup b).any (fun i => s.bankEn i && (s.calBank i).busy) = true → t.calBank b = { s.calBank b with due := true }) ∧
      (∀ b : Fin 4, s.bankEn b = true → (s.chanGroup b).any (fun i => s.bankEn i && (s.calBank i).busy) = false → (t.calBank b).phase = .self ∧ (t.calBank b).slice = 64) ∧
      (∀ b : Fin 4, s.bankEn b = false → t.calBank b = s.calBank b)) ∧
  (∀ (s : State) (b : Fin 4), (s.calBank b).phase = .settle → (s.calBank b).capturing = false →
    (s.calBank b).ended = false →
    ∃ t, exec (.captureStart b) s = .next t ∧
      ((s.calBank b).inj = none → (t.calBank b).capturing = true ∧ ((s.calBank b).slice ≠ 64 → t.getF (F.CAL_PHASE b) = 4)) ∧
      ((s.calBank b).inj ≠ none → (t.calBank b).capturing = false ∧ (t.calBank b).capWait = true) ∧
      t.cal.coefs = s.cal.coefs ∧ s.SameRegsBut t [Reg.CAL_STATUS, Reg.CAL_INJ_STATUS]) ∧
  (∀ (s : State) (b : Fin 4) (est : VisitEst), (s.calBank b).capturing = true → (s.calBank b).est = none →
    ∃ t, exec (.captureEnd b est) s = .next t ∧ (t.calBank b).est = some est ∧
      ((s.calBank b).slice ≠ 64 → (t.calBank b).phase = .update) ∧ t.cal.coefs = s.cal.coefs)

/-- The end of a visit moves the coefficients of the visited slice by the residuals times 2^-MU, clamped (the
rounding to the coefficient's unit is a free choice between the two neighbours, log 10), and moves none when every
block was over range; they take effect with the next clock, in which the next visit of the sweep begins. The visit
of slice 63 ends the sweep: it is counted, SWEEP_DONE sets, and CONVERGED tells whether the sweep met both
conditions of R143. -/
def Obligations.CalibrationVisits : Prop :=
  (∀ (s : State) (b : Fin 4) (terms : List Int) (e : VisitEst), (s.calBank b).est = some e → s.calMode ≠ 3 →
    (s.calBank b).slice ≠ 63 →
    ∃ t, exec (.visitEnd b terms) s = .next t ∧ (t.calBank b).ended = true ∧ (t.calBank b).slice = (s.calBank b).slice ∧
      t.cal.coefs = s.cal.coefs ∧ (calBlocks (s.calBank b).loop ≤ e.overBlocks → t.cal.coming = s.cal.coming) ∧
      (e.overBlocks < calBlocks (s.calBank b).loop → t.cal.coming.dropLast = s.cal.coming ∧ (t.cal.coming.getLast?).map (fun q => (q.1, q.2.offset)) = some (65 * b.val + (s.calBank b).slice, clampInt (-32768) 32767 (moveCoef (s.coef b (s.calBank b).slice).offset e.offset (calMu (s.calBank b).loop)))) ∧
      (e.overBlocks < calBlocks (s.calBank b).loop → fieldOf (s.calBank b).loop 16 16 ≤ e.rmsDiff → (t.cal.coming.getLast?).map (fun q => q.2.gain) = some (clampInt 0x18000 0x28000 (moveCoef (s.coef b (s.calBank b).slice).gain ((e.gain : Rat) / 8) (calMu (s.calBank b).loop))))) ∧
  (∀ (s : State) (b : Fin 4) (t : State), (s.calBank b).ended = true → s.calMode ≠ 3 → (s.calBank b).slice ≠ 63 →
    t = s.visitFollows b →
    (t.calBank b).slice = (if (s.calBank b).slice = 64 then 0 else (s.calBank b).slice + 1) ∧
    ((s.calBank b).slice ≤ 64 → (t.calBank b).phase = .settle) ∧ (t.calBank b).loop = s.reg Reg.CAL_LOOP ∧
    (t.calBank b).ended = false) ∧
  (∀ (s : State) (k : Nat) (c : Coef) (t : State), s.cal.coming = [(k, c)] → t = s.coefsTake →
    sparseGet (fun _ => Coef.neutral) t.cal.coefs k = c ∧
    (∀ j : Fin 260, j.val ≠ k → sparseGet (fun _ => Coef.neutral) t.cal.coefs j = sparseGet (fun _ => Coef.neutral) s.cal.coefs j) ∧
    t.regs = s.regs) ∧
  (∀ (s : State) (b : Fin 4) (terms : List Int) (e : VisitEst), (s.calBank b).est = some e → s.calMode ≠ 3 →
    (s.calBank b).slice = 63 →
    ∃ t, exec (.visitEnd b terms) s = .next t ∧ (t.calBank b).ended = true ∧ t.bit F.CAL_EVENTS_SWEEP_DONE = true ∧
      t.getF ⟨Reg.CAL_SWEEP_COUNT, 8 * b, 8⟩ = (s.getF ⟨Reg.CAL_SWEEP_COUNT, 8 * b, 8⟩ + 1) % 256 ∧
      t.bit (bitFld Reg.CAL_STATUS (4 + b)) = ((t.calBank b).clean && decide (sweepSkew (t.calBank b).skewSq ≤ 64 * 64)) ∧
      (e.overBlocks ≠ 0 → t.bit (bitFld Reg.CAL_STATUS (4 + b)) = false)) ∧
  (∀ (s : State) (b : Fin 4) (t : State), (s.calBank b).ended = true → s.calMode ≠ 3 → (s.calBank b).slice = 63 →
    t = s.visitFollows b →
    (t.calBank b).phase = .gap ∧ t.bit (bitFld Reg.CAL_STATUS b) = false)

/-- A request for an injected conversion is accepted and PENDING, or dropped with its outcome code and counted. It
then runs, and its end queues one MONITOR entry and begins the capture that waited. A read of MON_POP returns and
removes the oldest entry that stood in the queue at the start of the clock, and returns EMPTY when there was none;
the room it makes goes to an entry of its clock that met the queue full. A read of 64 bits reads MON_PEEK and then
MON_POP. -/
def Obligations.MonitorQueue : Prop :=
  (∀ (s : State) (v : Word), s.takesWrite Reg.CAL_INJ = true → v.getLsbD 31 = true →
    (s.calBank (fieldOf v 8 2)).capturingNow = false ∨ (s.calBank (fieldOf v 8 2)).capAt = some s.time.clk →
    (s.calBank (fieldOf v 8 2)).inj = none → fieldOf v 0 5 < 22 →
    ∃ t, exec (.inj v) s = .next t ∧ (t.calBank (fieldOf v 8 2)).inj = some (fieldOf v 0 5, false) ∧
      t.getF (F.CAL_INJ_OUTCOME (fieldOf v 8 2)) = 1 ∧
      ((s.calBank (fieldOf v 8 2)).capAt = some s.time.clk → (t.calBank (fieldOf v 8 2)).capturing = false ∧ (t.calBank (fieldOf v 8 2)).capWait = true) ∧
      t.getF (F.CAL_PHASE (fieldOf v 8 2)) = 6 ∧ s.SameRegsBut t [Reg.CAL_STATUS, Reg.CAL_INJ_STATUS]) ∧
  (∀ (s : State) (v : Word), s.takesWrite Reg.CAL_INJ = true → v.getLsbD 31 = true →
    (s.calBank (fieldOf v 8 2)).capAt ≠ some s.time.clk →
    (s.calBank (fieldOf v 8 2)).capturingNow = true ∨ (s.calBank (fieldOf v 8 2)).inj ≠ none ∨ 22 ≤ fieldOf v 0 5 →
    ∃ t, exec (.inj v) s = .next t ∧ t.cal = s.cal ∧
      t.getF (F.CAL_INJ_OUTCOME (fieldOf v 8 2)) = (if (s.calBank (fieldOf v 8 2)).capturingNow = true ∨ (s.calBank (fieldOf v 8 2)).inj ≠ none then 2 else 3) ∧
      t.reg Reg.CAL_INJ_DROPPED = BitVec.ofNat 32 (min (2 ^ 32 - 1) ((s.reg Reg.CAL_INJ_DROPPED).toNat + 1)) ∧
      t.bit F.CAL_EVENTS_INJ_DROP = true ∧ s.SameRegsBut t [Reg.CAL_INJ_STATUS, Reg.CAL_INJ_DROPPED, Reg.CAL_EVENTS]) ∧
  (∀ (s : State) (b : Fin 4) (n : Nat), (s.calBank b).inj = some (n, false) →
    ∃ t, exec (.injRunning b) s = .next t ∧ (t.calBank b).inj = some (n, true) ∧ t.getF (F.CAL_PHASE b) = 7 ∧
      s.SameRegsBut t [Reg.CAL_STATUS, Reg.CAL_INJ_STATUS]) ∧
  (∀ (s : State) (b : Fin 4) (n : Nat) (reading : BitVec 16), (s.calBank b).inj = some (n, true) →
    s.cal.queue.length < 256 →
    ∃ t, exec (.injDone b reading) s = .next t ∧ t.cal.queue = s.cal.queue ++ [monWord b n 4 reading.toNat] ∧
      (t.calBank b).inj = none ∧
      ((s.calBank b).capWait = true → (t.calBank b).capturing = true ∧ (t.calBank b).capWait = false) ∧
      s.SameRegsBut t [Reg.CAL_STATUS, Reg.CAL_INJ_STATUS]) ∧
  (∀ (s : State) (w : Word) (rest : List Word) (be : BitVec 4), s.hostReaches = true →
    s.readOpen Reg.CAL_MON_POP = true → s.cal.queue = w :: rest → s.cal.pushedNow ≤ rest.length →
    ∃ t, exec (.monPop (.enables be)) s = .next t ∧ t.out = s.out ++ [.readData Reg.CAL_MON_POP w] ∧
      t.cal.queue = rest ++ s.cal.excess.take 1 ∧ t.cal.excess = s.cal.excess.drop 1 ∧ t.regs = s.regs) ∧
  (∀ (s : State) (be : BitVec 4), s.hostReaches = true → s.readOpen Reg.CAL_MON_POP = true →
    s.cal.queue.length ≤ s.cal.pushedNow →
    ∃ t, exec (.monPop (.enables be)) s = .next t ∧ t = s.send (.readData Reg.CAL_MON_POP 0x00700000)) ∧
  (∀ (s : State),
    exec (.monPop .wide) s = (match exec (.latchingRead Reg.CAL_MON_PEEK (.enables 15)) s with
        | .next u => exec (.monPop (.enables 15)) u
        | o => o))

/-- A write of CAL.SEL loads the shadow registers with the coefficients in effect of the slice it selects. A commit
puts the shadow set into effect, from the next clock on, for the selected slice of a bank that takes no part in
calibration, and changes no other slice; for a bank that takes part it only sets COEF_BUSY. -/
def Obligations.CoefficientShadows : Prop :=
  (∀ (s : State) (v : Word), s.takesWrite Reg.CAL_SEL = true → fieldOf v 0 7 < 64 →
    ∃ t, exec (.calSel v) s = .next t ∧ t.getF F.CAL_SEL_BANK = fieldOf v 8 2 ∧ t.getF F.CAL_SEL_SLICE = fieldOf v 0 7 ∧
      t.reg Reg.CAL_COEF_OFFSET = BitVec.ofNat 32 (toBitsInt 16 (s.coef (fieldOf v 8 2) (fieldOf v 0 7)).offset) ∧
      t.reg Reg.CAL_COEF_GAIN = BitVec.ofNat 32 (toBitsInt 18 (s.coef (fieldOf v 8 2) (fieldOf v 0 7)).gain) ∧
      t.reg Reg.CAL_COEF_TRIM = BitVec.ofNat 32 (toBitsInt 12 (s.coef (fieldOf v 8 2) (fieldOf v 0 7)).trim) ∧
      (∀ i : Fin 8, t.reg (Reg.CAL_COEF_H i) = BitVec.ofNat 32 (toBitsInt 18 ((s.coef (fieldOf v 8 2) (fieldOf v 0 7)).taps.getD i 0))) ∧
      t.cal = s.cal) ∧
  (∀ (s : State), s.takesWrite Reg.CAL_COEF_COMMIT = true → s.bankEn (s.getF F.CAL_SEL_BANK) = false →
    s.getF F.CAL_SEL_SLICE < 64 →
    ∃ t, exec (.coefCommit) s = .next t ∧
      t.cal = { s.cal with coming := s.cal.coming ++ [(65 * s.getF F.CAL_SEL_BANK + s.getF F.CAL_SEL_SLICE, s.shadowCoef)] } ∧
      t.regs = s.regs) ∧
  (∀ (s : State), s.takesWrite Reg.CAL_COEF_COMMIT = true → s.bankEn (s.getF F.CAL_SEL_BANK) = true →
    ∃ t, exec (.coefCommit) s = .next t ∧ t.cal = s.cal ∧ t.bit F.CAL_EVENTS_COEF_BUSY = true ∧
      s.SameRegsBut t [Reg.CAL_EVENTS])

/-- A GO in IDLE with the SPLL locked stores the rate, and the next clock begins the relock, by the band table or by
a search; a loss of the reference in the same clock prevails, and the GO is discarded and sets CLK_BUSY. A GO in
another state, and any rate out of range, is discarded whole and sets CLK_BUSY. A band that does not lock gives way
to a search; a search that locks fills the table entry; lock is declared when LOCK.PASSES comparisons agree; after
the settle count of LOCK.SETTLE x 64 cycles the outputs open, and the opening of the SPLL sets HOP_DONE and, at a
new rate, latches TSC and rate. No lock in RESET leads to BYPASS. -/
def Obligations.SliceRate : Prop :=
  (∀ (s : State) (v : Word), s.takesWrite Reg.CLK_RATE = true → s.clk.sclkMode = false → rateOk v = true →
    v.getLsbD 31 = true → s.cur = .idle → s.pllState .spll = pllLocked → s.clk.go = none →
    ∃ t, exec (.clkRateGo v) s = .next t ∧
      t.getF F.CLK_RATE_RATE = fieldOf v 0 15 ∧ t.getF F.CLK_RATE_ENTRY = fieldOf v 16 4 ∧
      t.clk.go = some (s.reg Reg.CLK_RATE, t.reg Reg.CLK_RATE) ∧ s.SameRegsBut t [Reg.CLK_RATE] ∧
      t.startGo.pllState .spll = (if v.getLsbD 20 = true ∧ s.bit (F.CLK_BAND_VALID 0 (fieldOf v 16 4)) = true ∧ s.getF (F.CLK_BAND_RATE 0 (fieldOf v 16 4)) = fieldOf v 0 15 then pllLocking else pllSearch) ∧
      t.startGo.pllState .fpll = (if v.getLsbD 20 = true ∧ s.bit (F.CLK_BAND_VALID 1 (fieldOf v 16 4)) = true ∧ s.getF (F.CLK_BAND_RATE 1 (fieldOf v 16 4)) = fieldOf v 0 15 then pllLocking else pllSearch) ∧
      (t.startGo.pllState .spll = pllLocking → t.startGo.getF (F.CLK_PLL_STATUS_BAND 0) = s.getF (F.CLK_BAND_BAND 0 (fieldOf v 16 4))) ∧
      t.startGo.clk.want = t.reg Reg.CLK_RATE ∧ t.startGo.bit (F.CLK_PLL_STATUS_GATED 0) = true) ∧
  (∀ (s : State) (v : Word), s.takesWrite Reg.CLK_RATE = true →
    s.clk.sclkMode = true ∨ rateOk v = false ∨ (v.getLsbD 31 = true ∧ (s.cur ≠ .idle ∨ s.pllState .spll ≠ pllLocked)) →
    ∃ t, exec (.clkRateGo v) s = .next t ∧ t.bit F.FLT_HOST_CLK_BUSY = true ∧ t.clk = s.clk ∧
      s.SameRegsBut t (Reg.FLT_HOST :: pbaRegs)) ∧
  (∀ (s : State) (old v : Word) (byp : Bool), s.clk.go = some (old, v) → s.pllState .spll = pllLocked →
    s.clk.sclkMode = false →
    ∃ t, exec (.refLost byp) s = .next t ∧
      t.reg Reg.CLK_RATE = (if s.reg Reg.CLK_RATE = v then old else s.reg Reg.CLK_RATE) ∧
      t.bit F.FLT_HOST_CLK_BUSY = true ∧ t.clk.go = none ∧ t.pllState .spll = pllHoldover) ∧
  (∀ (s : State), s.clk.relock = some .go ∨ s.clk.relock = some .back →
    s.pllState .spll = pllLocking ∨ s.pllState .fpll = pllLocking →
    ∃ t, exec (.entryStale) s = .next t ∧
      t.pllState .spll = (if s.pllState .spll = pllLocking then pllSearch else s.pllState .spll) ∧
      t.pllState .fpll = (if s.pllState .fpll = pllLocking then pllSearch else s.pllState .fpll) ∧ t.clk = s.clk ∧
      t.bit F.CLK_EVENTS_ENTRY_STALE = true ∧
      s.SameRegsBut t (Reg.CLK_PLL_STATUS 0 :: Reg.CLK_PLL_STATUS 1 :: Reg.CLK_EVENTS :: (List.range 6).map (Reg.CLK_OUT 0) ++ (List.range 6).map (Reg.CLK_OUT 1))) ∧
  (∀ (s : State) (p : Pll) (counts : List Nat) (band : Byte) (temp : BitVec 7),
    s.pllState p = pllSearch ∨ s.pllState p = pllLocking → s.refHere p = true → s.hasTarget p = true →
    s.lockPasses p counts = true →
    ∃ t, exec (.pllLockDeclared p counts band temp) s = .next t ∧ t.pllState p = pllSettle ∧
      (s.pllState p = pllSearch ∨ (p ≠ .spll ∧ p ≠ .fpll) → t.getF (F.CLK_PLL_STATUS_BAND p.idx) = band.toNat) ∧
      (s.pllState p = pllLocking → p = .spll ∨ p = .fpll → t.getF (F.CLK_PLL_STATUS_BAND p.idx) = s.getF (F.CLK_PLL_STATUS_BAND p.idx)) ∧
      t.bit (F.CLK_PLL_STATUS_GATED p.idx) = true ∧
      (s.pllState p = pllSearch → p = .spll ∨ p = .fpll → s.clk.relock ≠ some .start → s.clk.sclkMode = false → t.reg (Reg.CLK_BAND p.idx s.wantEntry) = BitVec.ofNat 32 (2 ^ 31 + temp.toNat * 2 ^ 24 + band.toNat * 2 ^ 16 + s.wantRate)) ∧
      t.cur = s.cur) ∧
  (∀ (s : State) (p : Pll) (counts : List Nat) (band : Byte) (temp : BitVec 7),
    s.refHere p = false ∨ s.lockPasses p counts = false →
    ∃ t, exec (.pllLockDeclared p counts band temp) s = .next t ∧ s.SameRegsBut t [Reg.CLK_PLL_MEAS p.idx] ∧ s.RestSame t) ∧
  (∀ (s : State) (p : Pll) (n : Nat), p ≠ .spll ∨ s.clk.sclkMode = false →
    s.lockPasses p (List.replicate (max 1 (s.getF F.CLK_LOCK_PASSES)) n) = s.comparisonPasses p n) ∧
  (∀ (s : State) (cycles : Nat) (sclk : BitVec 15), s.pllState .spll = pllSettle → s.bit F.DRAFT_STATUS_LOADED = true →
    s.refHere .spll = true → s.clk.realign = none → s.clk.sclkMode = false →
    64 * max 1 (s.getF F.CLK_LOCK_SETTLE) ≤ cycles →
    ∃ t, exec (.pllOutputsOpen .spll cycles sclk) s = .next t ∧ t.pllState .spll = pllLocked ∧
      t.getF F.CLK_STATUS_RATE_IN_EFFECT = s.wantRate ∧ t.clk.rate = s.wantRate ∧
      (s.pllState .fpll = pllLocked → s.clk.relock = some .go → t.bit F.CLK_EVENTS_HOP_DONE = true ∧ t.clk.relock = none) ∧
      (s.pllState .fpll ≠ pllLocked → t.clk.relock = s.clk.relock ∧ t.bit F.CLK_EVENTS_HOP_DONE = s.bit F.CLK_EVENTS_HOP_DONE) ∧
      t.clk.originTsc = s.tsc ∧
      (s.wantRate ≠ s.clk.rate → t.get64 Reg.CLK_EPOCH_TSC_LO = s.tsc ∧ t.reg Reg.CLK_EPOCH_RATE = BitVec.ofNat 32 s.wantRate) ∧
      (s.wantRate ≠ s.clk.rate → t.bbx.ring.any (fun q => q.1.source == 4 && q.1.code == 1 && q.2 == s.time.clk) = true) ∧
      (s.wantRate = s.clk.rate → t.get64 Reg.CLK_EPOCH_TSC_LO = s.get64 Reg.CLK_EPOCH_TSC_LO)) ∧
  (∀ (s : State) (p : Pll) (cycles : Nat) (sclk : BitVec 15), s.pllState p = pllSettle → p ≠ .spll →
    (p = .fpll → s.bit F.DRAFT_STATUS_LOADED = true) → s.refHere p = true →
    64 * max 1 (s.getF F.CLK_LOCK_SETTLE) ≤ cycles →
    ∃ t, exec (.pllOutputsOpen p cycles sclk) s = .next t ∧ t.pllState p = pllLocked ∧
      t.bit (F.CLK_PLL_STATUS_GATED p.idx) = false ∧
      (∀ o : Fin 6, s.outExists p o = true → t.bit (F.CLK_OUT_EN_EFFECT p.idx o) = s.bit (F.CLK_OUT_EN p.idx o)) ∧
      (p = .fpll → t.clk.tscRuns = true) ∧
      (p = .fpll → s.pllState .spll = pllLocked → s.clk.relock = some .go → t.bit F.CLK_EVENTS_HOP_DONE = true ∧ t.clk.relock = none)) ∧
  (∀ (s : State) (p : Pll) (cycles : Nat) (sclk : BitVec 15),
    s.pllState p ≠ pllSettle ∨ cycles < 64 * max 1 (s.getF F.CLK_LOCK_SETTLE) →
    exec (.pllOutputsOpen p cycles sclk) s = .next s) ∧
  (∀ (s : State) (p : Pll) (cycles : Nat) (sclk : BitVec 15), s.refHere p = false →
    exec (.pllOutputsOpen p cycles sclk) s = .next s) ∧
  (∀ (s : State) (p : Pll), s.cur = .reset → s.hasTarget p = true →
    s.pllState p = pllSearch ∨ s.pllState p = pllLocking →
    ∃ t, exec (.pllLockTimeout p) s = .next t ∧ t.pllState p = pllBypass ∧ t.bit (F.CLK_PLL_STATUS_GATED p.idx) = false ∧
      (p = .fpll → t.clk.tscRuns = true) ∧
      s.SameRegsBut t (Reg.CLK_PLL_STATUS p.idx :: (List.range 6).map (Reg.CLK_OUT p.idx)))

/-- An unlock and a loss of the reference put the locked PLLs into HOLDOVER; with SCLK_IN the SPLL and FPLL are not
on that reference and go on. A return within the threshold re-engages the loop; a larger phase error is held as an
offset under BUILD_OUT and starts a realignment under REALIGN. The coincident edge restarts the dividers with the
count that the reference gives. A holdover that expires in a clock in which the reference does not return, and a
lost SCLK_IN, put the sampling clock into bypass: the Loom stops, live contexts are released and the engine enters
IDLE. A loss of the reference abandons a relock to the same effect. -/
def Obligations.Holdover : Prop :=
  (∀ (s : State) (p : Pll) (counts : List Nat) (a b : Nat), s.pllState p = pllLocked → s.refHere p = true →
    p ≠ .spll ∨ s.clk.sclkMode = false → counts.reverse.take 2 = [b, a] → s.comparisonPasses p a = false →
    s.comparisonPasses p b = false →
    ∃ t, exec (.unlock p counts) s = .next t ∧ t.pllState p = pllHoldover ∧
      t.bit (F.CLK_PLL_STATUS_GATED p.idx) = s.bit (F.CLK_PLL_STATUS_GATED p.idx) ∧
      t.bit F.CLK_EVENTS_REF_LOST = true ∧ t.bit F.FLT_CLASS_CLK_HOLDOVER = true ∧
      s.SameRegsBut t (Reg.CLK_PLL_STATUS p.idx :: Reg.CLK_PLL_STATUS 1 :: Reg.CLK_PLL_MEAS p.idx :: Reg.CLK_EVENTS :: Reg.FLT_CLASS :: pbaRegs)) ∧
  (∀ (s : State) (p : Pll) (counts : List Nat) (b : Nat), p ≠ .spll ∨ s.clk.sclkMode = false → counts.getLast? = some b →
    s.comparisonPasses p b = true →
    ∃ t, exec (.unlock p counts) s = .next t ∧ s.SameRegsBut t [Reg.CLK_PLL_MEAS p.idx] ∧ s.RestSame t) ∧
  (∀ (s : State) (byp : Bool), s.pllState .spll = pllLocked → s.pllState .fpll = pllLocked →
    s.pllState .mpll = pllLocked → s.clk.go = none → s.clk.sclkMode = false →
    ∃ t, exec (.refLost byp) s = .next t ∧
      t.pllState .spll = pllHoldover ∧ t.pllState .fpll = pllHoldover ∧ t.pllState .mpll = pllHoldover ∧
      t.bit F.CLK_STATUS_REF_PRESENT = false ∧
      t.bit F.CLK_EVENTS_REF_LOST = true ∧ t.bit F.FLT_CLASS_CLK_HOLDOVER = true ∧ t.cur = s.cur ∧ t.clk = s.clk) ∧
  (∀ (s : State) (byp : Bool), s.pllState .mpll = pllLocked → s.clk.go = none → s.clk.sclkMode = true →
    ∃ t, exec (.refLost byp) s = .next t ∧
      t.pllState .spll = s.pllState .spll ∧ t.pllState .fpll = s.pllState .fpll ∧ t.pllState .mpll = pllHoldover ∧
      t.bit F.CLK_STATUS_REF_PRESENT = false ∧ t.cur = s.cur) ∧
  (∀ (s : State) (byp : Bool), s.clk.sclkMode = false → s.cur = .armed ∨ s.cur = .acquiring → s.relocking = true →
    ∃ t, exec (.refLost byp) s = .next t ∧ t.pllState .spll = pllBypass ∧ t.pllState .fpll = pllBypass ∧
      t.bit (F.CLK_PLL_STATUS_GATED 0) = true ∧ t.cur = .idle ∧ t.getF F.DEV_STATE_ENTRY_CAUSE = 0x0D ∧
      t.bit F.FLT_CLASS_CLK_BYPASS = true ∧ t.bit F.LOOM_STATUS_RUNNING = false ∧ (∀ c : Fin 1024, t.isLive c = false)) ∧
  (∀ (s : State) (j : Int) (byp : Bool) (ref : Option RefClass), s.pllState .spll = pllHoldover → s.clk.realign = none →
    j.natAbs ≤ s.getF F.CLK_HOLD_JUMP_THRESH * 10000 →
    ∃ t, exec (.refReturn j byp ref) s = .next t ∧ t.pllState .spll = pllLocked ∧ t.pllState .fpll = pllLocked ∧
      t.bit F.CLK_STATUS_REF_PRESENT = true ∧ t.bit F.CLK_EVENTS_REF_RETURN = true ∧
      t.get64 Reg.CLK_BUILD_OUT_LO = s.get64 Reg.CLK_BUILD_OUT_LO ∧
      t.clk = { s.clk with expired := false, ens := t.clk.ens }) ∧
  (∀ (s : State) (j : Int) (byp : Bool) (ref : Option RefClass), s.pllState .spll = pllHoldover → s.clk.realign = none →
    s.getF F.CLK_HOLD_JUMP_THRESH * 10000 < j.natAbs →
    ∃ t, exec (.refReturn j byp ref) s = .next t ∧ t.bit F.CLK_EVENTS_PHASE_JUMP = true ∧
      (s.bit F.CLK_HOLD_POLICY = false → t.pllState .spll = pllLocked ∧ t.get64 Reg.CLK_BUILD_OUT_LO = toBitsInt 64 (ofBitsInt 64 (s.get64 Reg.CLK_BUILD_OUT_LO) + j) ∧ t.clk = { s.clk with expired := false, ens := t.clk.ens }) ∧
      (s.bit F.CLK_HOLD_POLICY = false → t.bbx.ring.any (fun q => q.1.source == 4 && q.1.code == 2 && q.2 == s.time.clk && q.1.payload == leBytes 8 (toBitsInt 64 j) ++ leBytes 8 0) = true) ∧
      (s.bit F.CLK_HOLD_POLICY = true → t.clk.realign = some .decided ∧ t.clk.jump = j ∧ t.get64 Reg.CLK_BUILD_OUT_LO = s.get64 Reg.CLK_BUILD_OUT_LO)) ∧
  (∀ (s : State) (j : Int) (byp : Bool) (ref : Option RefClass),
    ∃ t, exec (.refReturn j byp ref true) s = .next t ∧
      t.pllState .lpll = (if s.pllState .lpll = pllHoldover then pllLocked else s.pllState .lpll) ∧
      t.pllState .spll = s.pllState .spll ∧ t.board = s.board ∧ t.bit F.CLK_STATUS_REF_PRESENT = s.bit F.CLK_STATUS_REF_PRESENT) ∧
  (∀ (s : State) (v : Word) (l : Levels),
    exec (.clkRateGo v (some l)) s = exec (.clkRateGo v) (s.levelsNow (some l)) ∧
      (s.levelsNow (some l)).bit F.CONV_REF_STATUS_EXT_IN_RANGE = l.ext ∧ (s.levelsNow (some l)).bit F.CLK_STATUS_BYP_CLK_PRESENT = l.byp) ∧
  (∀ (s : State) (n : Nat), s.clk.realign = some .gated → s.board.ref.hz ≠ 0 → n * s.fabricHz % s.board.ref.hz = 0 →
    ∃ t, exec (.realignRestart n) s = .next t ∧ t.tsc = (s.clk.originTsc + n * s.fabricHz / s.board.ref.hz) % 2 ^ 64 ∧
      t.pllState .spll = pllSettle ∧ t.pllState .fpll = pllSettle ∧ t.clk.realign = some .settling ∧
      t.clk.step = (s.clk.originTsc + n * s.fabricHz / s.board.ref.hz : Nat) - (s.tsc : Int) ∧
      s.SameRegsBut t (Reg.CLK_TSC_LO :: Reg.CLK_TSC_HI :: Reg.CLK_PLL_STATUS 0 :: Reg.CLK_PLL_STATUS 1 :: (List.range 6).map (Reg.CLK_OUT 0) ++ (List.range 6).map (Reg.CLK_OUT 1))) ∧
  (∀ (s : State) (byp : Bool), s.pllState .spll = pllHoldover → s.clk.realign = none → s.clk.sclkMode = false →
    s.running = true →
    ∃ t, exec (.holdExpired byp) s = .next t ∧ t.pllState .spll = pllHoldover ∧ t.expireHold.cur = .idle ∧
      t.expireHold.getF F.DEV_STATE_ENTRY_CAUSE = 0x0D ∧
      t.expireHold.pllState .spll = pllBypass ∧ t.expireHold.pllState .fpll = pllBypass ∧
      t.expireHold.getF F.CLK_STATUS_RATE_IN_EFFECT = 0 ∧
      t.expireHold.bit F.CLK_EVENTS_HOLD_EXPIRED = true ∧ t.expireHold.bit F.FLT_CLASS_CLK_BYPASS = true ∧
      t.expireHold.bit F.LOOM_STATUS_RUNNING = false ∧ (∀ c : Fin 1024, t.expireHold.isLive c = false)) ∧
  (∀ (s : State) (byp : Bool), s.pllState .spll ≠ pllHoldover ∧ s.pllState .fpll ≠ pllHoldover →
    ∃ t, exec (.holdExpired byp) s = .next t ∧ t = s) ∧
  (∀ (s : State) (byp : Bool), s.clk.sclkMode = true → s.pllState .spll ≠ pllBypass → s.pllState .spll ≠ pllOff →
    s.cur = .idle →
    ∃ t, exec (.sclkLost byp) s = .next t ∧ t.pllState .spll = pllBypass ∧ t.pllState .fpll = pllBypass ∧ t.cur = .idle ∧
      t.bit F.FLT_CLASS_CLK_BYPASS = true ∧ t.clk.tscRuns = true) ∧
  (∀ (s : State) (byp : Bool), s.clk.sclkMode = true → s.pllState .spll ≠ pllBypass → s.pllState .spll ≠ pllOff →
    s.cur = .armed ∨ s.cur = .acquiring →
    ∃ t, exec (.sclkLost byp) s = .next t ∧ t.pllState .spll = pllBypass ∧ t.pllState .fpll = pllBypass ∧ t.cur = .idle ∧
      t.getF F.DEV_STATE_ENTRY_CAUSE = 0x0D ∧ t.bit F.FLT_CLASS_CLK_BYPASS = true ∧
      t.bit F.LOOM_STATUS_RUNNING = false ∧ (∀ c : Fin 1024, t.isLive c = false))

/-- Under ARM a SYNC_IN edge restarts the dividers: TSC takes TSC_LOAD, BUILD_OUT clears, MODE becomes CHECK and
SYNC_DONE sets. Under CHECK a difference of phase is reported and nothing is corrected. An edge without the
reference or without lock is ignored and flagged. ARM is accepted in IDLE alone. PAIR_TRIM sets the target of the
slew, which moves by at most four steps in a fabric clock. A write of an output that the structure leaves out is
discarded and sets STRUCT_ABSENT, one of a word that names no output has no effect, and one of a slice clock outside
IDLE CLK_BUSY; any other in IDLE sets EN, and the outputs of a PLL that is locked and not gated follow their EN. -/
def Obligations.SyncAndOutputs : Prop :=
  (∀ (s : State) (phase : Int), s.getF F.CLK_SYNC_MODE = 1 → s.bit F.CLK_STATUS_REF_PRESENT = true →
    s.pllState .spll = pllLocked →
    ∃ t, exec (.syncInEdge phase) s = .next t ∧ t.tsc = s.get64 Reg.CLK_TSC_LOAD_LO ∧
      t.clk.originTsc = s.get64 Reg.CLK_TSC_LOAD_LO ∧ t.get64 Reg.CLK_BUILD_OUT_LO = 0 ∧ t.getF F.CLK_SYNC_MODE = 2 ∧
      t.bit F.CLK_EVENTS_SYNC_DONE = true ∧
      (∀ b : Fin 4, calTakes s.cal.ctrl b = true → s.calMode ≠ 3 → (t.calBank b).phase = .gap) ∧
      t.cal.coefs = s.cal.coefs) ∧
  (∀ (s : State) (phase : Int), s.getF F.CLK_SYNC_MODE = 2 → s.bit F.CLK_STATUS_REF_PRESENT = true →
    s.pllState .spll = pllLocked → phase ≠ 0 →
    ∃ t, exec (.syncInEdge phase) s = .next t ∧ t.reg Reg.CLK_SYNC_OFFSET = BitVec.ofInt 32 phase ∧
      t.bit F.CLK_EVENTS_SYNC_SLIP = true ∧ s.SameRegsBut t [Reg.CLK_SYNC_OFFSET, Reg.CLK_EVENTS]) ∧
  (∀ (s : State) (phase : Int), s.getF F.CLK_SYNC_MODE = 1 ∨ s.getF F.CLK_SYNC_MODE = 2 →
    s.bit F.CLK_STATUS_REF_PRESENT = false ∨ s.pllState .spll ≠ pllLocked →
    ∃ t, exec (.syncInEdge phase) s = .next t ∧ t.bit F.CLK_EVENTS_SYNC_IGNORED = true ∧ s.SameRegsBut t [Reg.CLK_EVENTS]) ∧
  (∀ (s : State) (v : Word), s.takesWrite Reg.CLK_SYNC = true → s.cur ≠ .idle → fieldOf v 0 2 = 1 →
    ∃ t, exec (.registerWrite Reg.CLK_SYNC v 15 none) s = .next t ∧ t.bit F.FLT_HOST_CLK_BUSY = true ∧
      s.SameRegsBut t (Reg.FLT_HOST :: pbaRegs)) ∧
  (∀ (s : State) (v : Word), s.takesWrite Reg.CLK_PAIR_TRIM = true → s.isShadow = false →
    ∃ t, exec (.pairTrimWrite v) s = .next t ∧ t.getF ⟨Reg.CLK_PAIR_TRIM, 0, 16⟩ = fieldOf v 0 16 ∧
      t.clk.trimNow = s.clk.trimNow ∧
      t.bit F.CLK_STATUS_PAIR_SLEWING = (ofBitsInt 16 (fieldOf v 0 16) != s.clk.trimNow) ∧
      (t.slewTrim.clk.trimNow - s.clk.trimNow).natAbs ≤ 4 ∧ s.SameRegsBut t [Reg.CLK_PAIR_TRIM, Reg.CLK_STATUS]) ∧
  (∀ (s : State) (p : Pll) (o : Fin 16) (v : Word), s.takesWrite (Reg.CLK_OUT p.idx o) = true → o.val < outCount p →
    s.outExists p o = false →
    ∃ t, exec (.clkOutEnWrite p o v) s = .next t ∧ t.bit F.FLT_HOST_STRUCT_ABSENT = true ∧
      s.SameRegsBut t (Reg.FLT_HOST :: pbaRegs)) ∧
  (∀ (s : State) (p : Pll) (o : Fin 16) (v : Word), s.takesWrite (Reg.CLK_OUT p.idx o) = true →
    s.isProtectedActive = false → outCount p ≤ o →
    ∃ t, exec (.clkOutEnWrite p o v) s = .next t ∧ t = s) ∧
  (∀ (s : State) (p : Pll) (o : Fin 16) (v : Word), s.takesWrite (Reg.CLK_OUT p.idx o) = true → o.val < outCount p →
    s.outExists p o = true → p = .fpll ∨ (p = .spll ∧ o.val < 4) → s.cur ≠ .idle →
    ∃ t, exec (.clkOutEnWrite p o v) s = .next t ∧ t.bit F.FLT_HOST_CLK_BUSY = true ∧
      s.SameRegsBut t (Reg.FLT_HOST :: pbaRegs)) ∧
  (∀ (s : State) (p : Pll) (o : Fin 16) (v : Word), s.takesWrite (Reg.CLK_OUT p.idx o) = true → o.val < outCount p →
    s.outExists p o = true → s.cur = .idle →
    ∃ t, exec (.clkOutEnWrite p o v) s = .next t ∧ t.bit (F.CLK_OUT_EN p.idx o) = v.getLsbD 31 ∧
      t.bit (F.CLK_OUT_EN_EFFECT p.idx o) = (if s.pllState p = pllLocked then !s.bit (F.CLK_PLL_STATUS_GATED p.idx) && v.getLsbD 31 else s.bit (F.CLK_OUT_EN_EFFECT p.idx o)) ∧
      (¬(p = .spll ∧ o.val = 4) → t.getF ⟨Reg.CLK_OUT p.idx o, 0, 28⟩ = s.getF ⟨Reg.CLK_OUT p.idx o, 0, 28⟩) ∧
      s.SameRegsBut t ((List.range 6).map (Reg.CLK_OUT p.idx)) ∧
      (s.pllState p ≠ pllLocked → s.SameRegsBut t [Reg.CLK_OUT p.idx o]))

/-- An APPLY copies the shadow set of each unit it names, to govern every word that enters the unit from the next
clock on, and the AUX_TRIG set when bit 16 is set; the set of no other unit changes. A word that entered before
finishes under the set before. A set that changes TYPE, CHANNEL or SUB starts the unit afresh, and one that does not
keeps the unit's state. A reserved TYPE sets BAD_CFG; the sets that an APPLY leaves are judged together, and a
sequence whose source becomes one it cannot take is bad from then on. -/
def Obligations.TriggerSets : Prop :=
  (∀ (s : State) (v : Word), s.takesWrite Reg.TRIG_APPLY = true →
    ∃ t, exec (.apply v) s = .next t ∧ (∀ k : Fin 16, v.getLsbD k = true → (t.unit k).latest.set = s.shadowUnit k) ∧
      (∀ k : Fin 16, v.getLsbD k = false → (t.unit k).latest.set = (s.unit k).latest.set) ∧
      (∀ k : Fin 16, v.getLsbD k = false → badCfg (fun i => TrigUnit.type { TrigUnit.init with set := s.setAfter v i }) k { TrigUnit.init with set := (s.unit k).latest.set } = false → t.unit k = s.unit k) ∧
      (∀ k : Fin 16, badCfg (fun i => TrigUnit.type { TrigUnit.init with set := s.setAfter v i }) k { TrigUnit.init with set := s.setAfter v k } = true → (t.unit k).latest.bad = true) ∧
      (v.getLsbD 16 = true → t.trig.aux.sets = (s.tsc, [s.reg Reg.TRIG_AUX_CFG, s.reg Reg.TRIG_AUX_OFFSET, s.reg Reg.TRIG_AUX_HOLDOFF]) :: s.trig.aux.sets ∧ t.bit (bitFld Reg.TRIG_STATUS 16) = (s.reg Reg.TRIG_AUX_CFG).getLsbD 0) ∧
      (v.getLsbD 16 = false → t.trig.aux = s.trig.aux) ∧
      (∀ k : Fin 16, v.getLsbD k = true → 10 ≤ fieldOf (s.reg (Reg.TRIG_UNIT_CFG k)) 28 4 → t.bit F.TRIG_EVENTS_BAD_CFG = true ∧ t.bit (F.TRIG_UNIT_STATUS_BAD_CFG k) = true ∧ t.bit (bitFld Reg.TRIG_STATUS k) = false)) ∧
  (∀ (u : TrigUnit) (n clock : Nat) (w : List Word) (b : Bool), u.applied = [(n, w, b)] → clock + 20 ≤ n →
    TrigUnit.meetSets clock u.applied u = u) ∧
  (∀ (u : TrigUnit) (n clock : Nat) (w : List Word) (b : Bool), u.applied = [(n, w, b)] → n < clock + 20 →
    (TrigUnit.meetSets clock u.applied u).set = w ∧ (TrigUnit.meetSets clock u.applied u).bad = b ∧
      (fieldOf (w.getD 0 0) 20 12 = fieldOf (u.word 0) 20 12 → TrigUnit.meetSets clock u.applied u = { u with set := w, bad := b, applied := [] }) ∧
      (fieldOf (w.getD 0 0) 28 4 ≠ fieldOf (u.word 0) 28 4 → (TrigUnit.meetSets clock u.applied u).a = Comparator.init ∧
        (TrigUnit.meetSets clock u.applied u).b = Comparator.init ∧ (TrigUnit.meetSets clock u.applied u).seqA = none ∧
        (TrigUnit.meetSets clock u.applied u).lastKept = u.lastKept))

/-- A comparator armed for rising detects at the first sample at or above its level and not before, and is then not
armed for rising; one armed for falling detects at the first sample below its level; it is armed for rising only by
a sample at or below the level less the hysteresis and below the level. The four conditions compare a duration as
R182 says. The unit holdoff keeps the first event and discards what falls within the holdoff after an event kept,
and every event is kept or counted as discarded. -/
def Obligations.Comparators : Prop :=
  (∀ (c : Comparator) (level hyst w : Int), c.armRise = true → 0 ≤ hyst →
    (level ≤ w → (c.sample level hyst w).2 = some true ∧ (c.sample level hyst w).1.state = true ∧ (c.sample level hyst w).1.armRise = false) ∧
      (w < level → c.armFall = false → (c.sample level hyst w).2 = none ∧ (c.sample level hyst w).1.state = c.state ∧ (c.sample level hyst w).1.armRise = true)) ∧
  (∀ (c : Comparator) (level hyst w : Int), c.armRise = false → 0 ≤ hyst →
    ((c.sample level hyst w).2 = some false ↔ (c.armFall = true ∧ w < level)) ∧
      ((c.sample level hyst w).1.armRise = true ↔ (w ≤ level - hyst ∧ w < level)) ∧ (c.sample level hyst w).2 ≠ some true) ∧
  (∀ (u : TrigUnit) (sub : Nat) (d : Int),
    (u.cond = 0 → (u.meets sub d = true ↔ d < u.time 3 sub)) ∧ (u.cond = 1 → (u.meets sub d = true ↔ u.time 4 sub < d)) ∧
      (u.cond = 2 → (u.meets sub d = true ↔ (u.time 3 sub ≤ d ∧ d ≤ u.time 4 sub))) ∧
      (u.cond = 3 → (u.meets sub d = true ↔ (d < u.time 3 sub ∨ u.time 4 sub < d)))) ∧
  (∀ (hold : Int) (l : List Int) (last : Option Int),
    (unitHoldoff hold l last).1.length + (unitHoldoff hold l last).2.1 = l.length ∧
      (hold ≤ 0 → (unitHoldoff hold l last).1 = l) ∧ (0 < hold → (unitHoldoff hold l last).1.Pairwise (fun a b => a + hold ≤ b)))

/-- A word gives at most one report of each unit that works: its earliest event kept, with the number kept as MULT,
at most 1,024, which the counter adds and LAST holds; a word without an event reports nothing, nor does a STATE unit
or one that its set does not let work. Its over-range samples and saturated outputs set OVR of an existing channel
and SAT of a bound lane. An asserted AUX_TRIG edge outside its holdoff is reported at its ball instant less the
offset, a pulse shorter than the filter only sets AUX_GLITCH. The end of T_MAX returns a sequence to WAIT_A. A
TRIG_OUT action starts a pulse that rises at the end of the second clock after it and lasts its width; on a running
pulse it moves the end. Actions are counted on each pin, on a disabled pin too, where they set OUT_DISABLED. The end
of the width lowers the logical level and the pin. -/
def Obligations.TriggerReports : Prop :=
  (∀ (s : State) (k : Fin 16) (clock : Nat) (words : List ChanWord) (w : ChanWord), s.operational = true →
    (∀ j : Fin 16, (s.unit j).applied = [] ∧ (j ≠ k → s.unitWorks j = false)) → s.unitWorks k = true →
    (s.unit k).type < 7 → fieldOf ((s.unit k).word 5) 0 24 = 0 →
    words.find? (fun x => x.chan.val == (s.unit k).chan) = some w → (s.qualify k clock w).2 ≠ [] →
    ∃ t, exec (.triggerReport clock words 0 0) s = .next t ∧
      t.loom.events = (s.time.clk, .trig k ((s.qualify k clock w).2.headD 0).toNat (min 1024 (s.qualify k clock w).2.length)) :: s.loom.events ∧
      (s.addedNow (Reg.TRIG_UNIT_COUNT k) = none → t.reg (Reg.TRIG_UNIT_COUNT k) = BitVec.ofNat 32 (min (2 ^ 32 - 1) ((s.reg (Reg.TRIG_UNIT_COUNT k)).toNat + min 1024 (s.qualify k clock w).2.length))) ∧
      t.reg (Reg.TRIG_UNIT_LAST_FRAC k) = BitVec.ofNat 32 ((s.qualify k clock w).2.headD 0).toNat ∧
      t.get64 (Reg.TRIG_UNIT_LAST_LO k) = ((s.qualify k clock w).2.headD 0).toNat / 2 ^ 32 % 2 ^ 64 ∧
      t.bit (F.TRIG_EVENTS_EVT k) = true ∧
      s.SameRegsBut t (Reg.TRIG_UNIT_COUNT k :: Reg.TRIG_UNIT_LAST_FRAC k :: Reg.TRIG_UNIT_LAST_LO k :: Reg.TRIG_UNIT_LAST_HI k :: Reg.TRIG_EVENTS :: Reg.TRIG_STATUS :: (List.range 16).map Reg.TRIG_UNIT_STATUS)) ∧
  (∀ (s : State) (clock : Nat) (words : List ChanWord) (ovr : BitVec 4) (sat : BitVec 64), s.operational = true →
    (∀ j : Fin 16, (s.unit j).applied = [] ∧ s.unitWorks j = false) →
    ∃ t, exec (.triggerReport clock words ovr sat) s = .next t ∧ t.loom = s.loom ∧
      (∀ c : Fin 4, (ovr &&& BitVec.ofNat 4 (s.getF F.CONV_MODE_CHANNELS)).getLsbD c = true → t.bit (F.CONV_EVENTS_OVR c) = true) ∧
      (∀ l : Fin 64, sat.getLsbD l = true → s.bit (F.LANE_BIND_LIVE l) = true → t.bit (F.LANE_EVENTS_SAT l) = true) ∧
      s.SameRegsBut t (Reg.CONV_EVENTS :: Reg.TRIG_STATUS :: (List.range 16).map Reg.TRIG_UNIT_STATUS ++ (List.range 64).map Reg.LANE_EVENTS)) ∧
  (∀ (s : State) (k : Fin 16) (clock : Nat) (t : State), s.unitWorks k = true → (s.unit k).type = 8 →
    fieldOf ((s.unit k).word 5) 0 24 = 0 → t = s.judgeWord k clock →
    (t.unit k).bus.events = (TrigUnit.runSequence s.subSample (s.seqEvents clock (s.wordFrom clock) (s.wordTo clock) (s.unit k)) (s.unit k)).2 ∧
    (∀ j : Fin 16, j ≠ k → t.unit j = s.unit j) ∧ t.regs = s.regs) ∧
  (∀ (s : State) (k : Fin 16) (t : State), (s.unit k).bus.events = [] ∨ (s.unit k).type = 9 ∨ s.unitWorks k = false →
    t = s.selectWord k →
    t.loom = s.loom ∧ s.SameRegsBut t [Reg.TRIG_UNIT_STATUS k, Reg.TRIG_STATUS]) ∧
  (∀ (s : State) (k : Fin 16), s.operational = true → (s.unit k).type = 8 → (s.unit k).seqA.isSome = true →
    (s.unit k).word 4 ≠ 0 →
    ∃ t, exec (.sequenceTMaxExpiry k) s = .next t ∧ t.unit k = { s.unit k with seqA := none, seqCount := 0 } ∧
      t.getF (F.TRIG_UNIT_STATUS_SEQ_STATE k) = 0 ∧ s.SameRegsBut t [Reg.TRIG_UNIT_STATUS k, Reg.TRIG_STATUS]) ∧
  (∀ (s : State) (rising : Bool) (e : Instant) (hold : Nat) (set : List Word) (i : Int), s.operational = true →
    set = s.trig.aux.setAt ((e : Nat) / 2 ^ 32 : Nat) → (set.getD 0 0).getLsbD 0 = true → rising = !s.trig.aux.level →
    rising = !(set.getD 0 0).getLsbD 1 → min 60 (fieldOf (set.getD 0 0) 2 6) ≤ hold →
    i = ((e : Nat) / 2 ^ 16 * 2 ^ 16 : Nat) - (set.getD 1 0).toInt * 2 ^ 16 →
    (fieldOf (set.getD 2 0) 0 24 = 0 ∨ ∀ l ∈ s.trig.aux.lastKept, l + fieldOf (set.getD 2 0) 0 24 * 2 ^ 32 ≤ i) →
    ∃ t, exec (.auxTrigEdge rising e hold) s = .next t ∧
      t.loom.events = (s.time.clk, .trig 16 i.toNat 1) :: s.loom.events ∧
      (s.addedNow Reg.TRIG_AUX_COUNT = none → t.reg Reg.TRIG_AUX_COUNT = BitVec.ofNat 32 (min (2 ^ 32 - 1) ((s.reg Reg.TRIG_AUX_COUNT).toNat + 1))) ∧
      t.reg Reg.TRIG_AUX_LAST_FRAC = BitVec.ofNat 32 i.toNat ∧ t.trig.aux.level = rising ∧
      t.trig.aux.events = s.trig.aux.events ++ [i] ∧ t.bit (F.TRIG_EVENTS_EVT 16) = true) ∧
  (∀ (s : State) (rising : Bool) (e : Instant) (hold : Nat), s.operational = true → rising = !s.trig.aux.level →
    ((s.trig.aux.setAt ((e : Nat) / 2 ^ 32 : Nat)).getD 0 0).getLsbD 0 = true →
    hold < min 60 (fieldOf ((s.trig.aux.setAt ((e : Nat) / 2 ^ 32 : Nat)).getD 0 0) 2 6) →
    ∃ t, exec (.auxTrigEdge rising e hold) s = .next t ∧ t.bit F.TRIG_EVENTS_AUX_GLITCH = true ∧
      t.trig = s.trig ∧ t.loom = s.loom ∧ s.SameRegsBut t [Reg.TRIG_EVENTS]) ∧
  (∀ (s : State) (p : Fin 4) (w : Fin 256), s.loomIssues = true → s.pulse p = none →
    ∃ t, exec (.trigOut p w) s = .next t ∧ t.pulse p = some (s.time.clk + 2, w.val + 1) ∧
      t.getF ⟨Reg.TRIG_OUT_COUNT, 8 * p, 8⟩ = min 255 (s.getF ⟨Reg.TRIG_OUT_COUNT, 8 * p, 8⟩ + 1) ∧
      ((s.getF F.TRIG_OUT_CFG_EN).testBit p = false → t.bit F.TRIG_EVENTS_OUT_DISABLED = true) ∧
      ((s.getF F.TRIG_OUT_CFG_EN).testBit p = true → s.SameRegsBut t [Reg.TRIG_OUT_COUNT]) ∧
      (∀ q : Fin 4, q ≠ p → t.pulse q = s.pulse q) ∧ t.getF F.TRIG_OUT_STATUS_LEVELS = s.getF F.TRIG_OUT_STATUS_LEVELS) ∧
  (∀ (s : State) (p : Fin 4) (w : Fin 256) (r n : Nat), s.loomIssues = true → s.pulse p = some (r, n) →
    r ≤ s.time.clk + 2 →
    ∃ t, exec (.trigOut p w) s = .next t ∧ t.pulse p = some (r, s.time.clk + 2 + (w + 1) - r) ∧
      t.getF F.TRIG_OUT_STATUS_LEVELS = s.getF F.TRIG_OUT_STATUS_LEVELS) ∧
  (∀ (s : State) (p : Fin 4) (r n : Nat), s.pulse p = some (r, n) → r + n ≤ s.time.clk →
    ∃ t, exec (.trigOutPulseEnd p) s = .next t ∧ t.pulse p = none ∧ (t.getF F.TRIG_OUT_STATUS_LEVELS).testBit p = false ∧
      ((s.getF F.TRIG_OUT_CFG_INVERT).testBit p = false → (t.getF F.TRIG_OUT_STATUS_PINS).testBit p = false) ∧
      s.SameRegsBut t [Reg.TRIG_OUT_STATUS]) ∧
  (∀ (s : State) (p : Fin 4) (r n : Nat), s.pulse p = some (r, n) → r < s.time.clk →
    (s.pinsTick.getF F.TRIG_OUT_STATUS_LEVELS).testBit p = true)

/-- A host write of a parameter of a live lane changes the shadow alone, when a stage of the lane owns it, and sets
STRUCT_ABSENT when only an absent stage does; of a lane that is not live it is discarded and sets NOT_LIVE. SEAL
copies the shadow into the sealed set. A hand-over puts the sealed set into effect at the word sampled 19 clocks
before when it passes the checks and no segment is open, discards a set that fails with its cause, and defers one
that restarts a stage while a segment is open; without a sealed set it does nothing. A deferred set takes effect
once the segment has closed. The next clock records the boundary word, counts the hand-overs and sets HANDOVER_DONE. -/
def Obligations.LaneSets : Prop :=
  (∀ (s : State) (l : Fin 64) (word : Fin 48) (v : Word), s.takesWrite (laneBase l + 0x40 + 4 * word.val) = true →
    (s.lane l).ctx = none →
    ∃ t, exec (.laneParamWrite l word v) s = .next t ∧ t.bit (F.LANE_EVENTS_NOT_LIVE l) = true ∧
      (word.val < 15 → ((s.lane l).kinds.flatMap stageWords).contains (0x40 + 4 * word.val) = false → t.bit F.FLT_HOST_STRUCT_ABSENT = true) ∧
      (((s.lane l).kinds.flatMap stageWords).contains (0x40 + 4 * word.val) = true → t.bit F.FLT_HOST_STRUCT_ABSENT = s.bit F.FLT_HOST_STRUCT_ABSENT) ∧
      t.lanes = s.lanes ∧ s.SameRegsBut t (Reg.LANE_EVENTS l :: Reg.FLT_HOST :: pbaRegs)) ∧
  (∀ (s : State) (l : Fin 64) (word : Fin 48) (v : Word) (o : Nat), o = laneBase l + 0x40 + 4 * word.val →
    s.takesWrite o = true → (s.lane l).ctx ≠ none → (s.lane l).swapped ≠ some s.time.clk →
    ∃ t, exec (.laneParamWrite l word v) s = .next t ∧
      t.reg o = (if ((s.lane l).kinds.flatMap stageWords).contains (0x40 + 4 * word.val) then (s.reg o &&& ~~~maskAt o) ||| (v &&& maskAt o) else s.reg o) ∧
      (word.val < 15 → ((s.lane l).kinds.flatMap stageWords).contains (0x40 + 4 * word.val) = false → t.bit F.FLT_HOST_STRUCT_ABSENT = true) ∧
      s.SameRegsBut t (o :: Reg.FLT_HOST :: pbaRegs) ∧
      (t.lane l).eff = (s.lane l).eff ∧ (t.lane l).sealed = (s.lane l).sealed ∧ (t.lane l).deferred = (s.lane l).deferred) ∧
  (∀ (s : State) (l : Fin 64), s.takesWrite (Reg.LANE_SEAL l) = true → (s.lane l).ctx ≠ none →
    (s.lane l).swapped ≠ some s.time.clk →
    ∃ t, exec (.seal l) s = .next t ∧ (t.lane l).sealed = some (s.paramSet (laneBase l)) ∧
      (t.lane l).eff = (s.lane l).eff ∧ t.bit (F.LANE_STATUS_SEALED l) = true) ∧
  (∀ (s : State) (l : Fin 64) (p : LaneSet), s.takesWrite (Reg.LANE_SEAL l) = true → (s.lane l).ctx ≠ none →
    (s.lane l).swapped ≠ some s.time.clk → p = s.paramSet (laneBase l) → s.checkSet p (s.lane l).kinds = 0 →
    laneRate p (s.lane l).kinds s.chanRate ≤ (s.laneUse l).2 → (s.laneUse l).1 = false →
    ∃ t, exec (.sealNow l) s = .next t ∧ (t.lane l).eff = p ∧ (t.lane l).sealed = none ∧
      (t.lane l).mark = some (s.tsc - 19, match (s.lane l).mark with | some q => q.2 + 1 | none => 1)) ∧
  (∀ (s : State) (c : Fin 1024) (x : LiveCtx) (p : LaneSet) (cause : Nat), s.loomIssues = true → s.liveOf c = some x →
    x.lane < 64 → (s.lane x.lane).sealed = some p → (s.lane x.lane).sealedPre = none →
    (s.lane x.lane).swapped ≠ some s.time.clk →
    cause = (if s.checkSet p (s.lane x.lane).kinds = 0 ∧ x.outRate < laneRate p (s.lane x.lane).kinds s.chanRate then 4 else s.checkSet p (s.lane x.lane).kinds) →
    ∃ t, exec (.laneSwap c) s = .next t ∧ (t.lane x.lane).sealed = none ∧
      (cause ≠ 0 → (t.lane x.lane).eff = (s.lane x.lane).eff ∧ t.getF (F.LANE_STATUS_LAST_REFUSE x.lane) = cause ∧ t.bit (F.LANE_EVENTS_BAD_SET x.lane) = true) ∧
      (cause = 0 → (s.openRec c).isSome = false → (t.lane x.lane).eff = p ∧ (t.lane x.lane).mark.map (·.1) = some (s.tsc - 19)) ∧
      (cause = 0 → (s.openRec c).isSome = true → (s.lane x.lane).soft p = false → (t.lane x.lane).eff = (s.lane x.lane).eff ∧ (t.lane x.lane).deferred = some p ∧ t.bit (F.LANE_STATUS_DEFERRED x.lane) = true)) ∧
  (∀ (s : State) (c : Fin 1024) (x : LiveCtx), s.loomIssues = true → s.liveOf c = some x →
    (s.lane x.lane).sealed = none → (s.lane x.lane).sealedPre = none → (s.lane x.lane).swapped ≠ some s.time.clk →
    ∃ t, exec (.laneSwap c) s = .next t ∧ t.bit (F.LANE_EVENTS_EMPTY_HANDOVER x.lane) = true ∧
      (t.lane x.lane).eff = (s.lane x.lane).eff) ∧
  (∀ (s : State) (l : Fin 64) (p : LaneSet), (s.lane l).deferred = some p → (s.laneUse l).1 = false →
    ∃ t, exec (.deferredHandover l) s = .next t ∧ (t.lane l).eff = p ∧ (t.lane l).deferred = none ∧
      (t.lane l).mark.map (·.1) = some (s.tsc - 19) ∧ t.bit (F.LANE_STATUS_DEFERRED l) = false) ∧
  (∀ (s : State) (l : Fin 64) (x : LaneSt) (word n : Nat) (t : State), s.lanes = [(l.val, x)] → x.mark = some (word, n) →
    word < 2 ^ 64 → t = s.marksShow →
    t.get64 (Reg.LANE_SWAP_LO l) = word ∧ t.bit (F.LANE_EVENTS_HANDOVER_DONE l) = true ∧
    (s.addedNow (Reg.LANE_HANDOVERS l) = none → t.reg (Reg.LANE_HANDOVERS l) = BitVec.ofNat 32 (min (2 ^ 32 - 1) ((s.reg (Reg.LANE_HANDOVERS l)).toNat + n))) ∧
    (t.lane l).mark = none ∧ (t.lane l).eff = (s.lane l).eff ∧
    s.SameRegsBut t [Reg.LANE_SWAP_FRAC l, Reg.LANE_SWAP_LO l, Reg.LANE_SWAP_HI l, Reg.LANE_HANDOVERS l, Reg.LANE_EVENTS l])

/-- A write into the coefficient window of an absent stage sets STRUCT_ABSENT and changes nothing else. One of a
present stage stores bits 17 to 0 of one coefficient, which read back with the sign extended, and no other
coefficient changes; one into a bank in effect on a live lane is discarded and sets COEF_IN_USE. A COEF_SWAP selects
or toggles the bank in effect of its stage at the word sampled 19 clocks before; selecting the bank in effect
changes nothing. -/
def Obligations.CoefficientBanks : Prop :=
  (∀ (s : State) (l : Fin 64) (i : Fin 256) (v : Word), s.takesWrite (laneBase l + 0x400 + 4 * i.val) = true →
    (s.lane l).hasCoefs (s.getF (F.LANE_COEF_PAGE_STAGE l)) = false →
    ∃ t, exec (.coefWindowWrite l i v) s = .next t ∧ t.bit F.FLT_HOST_STRUCT_ABSENT = true ∧ t.coefRead l i = 0 ∧
      t.lanes = s.lanes ∧ s.SameRegsBut t (Reg.FLT_HOST :: pbaRegs)) ∧
  (∀ (s : State) (l : Fin 64) (i : Fin 256) (v : Word), s.takesWrite (laneBase l + 0x400 + 4 * i.val) = true →
    (s.lane l).hasCoefs (s.getF (F.LANE_COEF_PAGE_STAGE l)) = true → s.bit (F.LANE_COEF_PAGE_BCAST l) = false →
    s.getF (F.LANE_COEF_PAGE_STAGE l) = 1 ∨ 256 * s.getF (F.LANE_COEF_PAGE_PAGE l) + i.val < 128 →
    (s.lane l).ctx = none ∨ (if s.getF (F.LANE_COEF_PAGE_STAGE l) = 0 then (s.lane l).firBank else (s.lane l).rsBank) ≠ s.bit (F.LANE_COEF_PAGE_BANK l) →
    ∃ t, exec (.coefWindowWrite l i v) s = .next t ∧ t.coefRead l i = (v.truncate 18).signExtend 32 ∧
      (∀ j : Fin 256, j ≠ i → t.coefRead l j = s.coefRead l j) ∧ (∀ m : Fin 64, m ≠ l → t.lane m = s.lane m) ∧
      t.regs = s.regs) ∧
  (∀ (s : State) (l : Fin 64) (i : Fin 256) (v : Word), s.takesWrite (laneBase l + 0x400 + 4 * i.val) = true →
    (s.lane l).hasCoefs (s.getF (F.LANE_COEF_PAGE_STAGE l)) = true → s.getF (F.LANE_COEF_PAGE_STAGE l) = 0 →
    128 ≤ 256 * s.getF (F.LANE_COEF_PAGE_PAGE l) + i.val →
    ∃ t, exec (.coefWindowWrite l i v) s = .next t ∧ t.coefRead l i = 0 ∧ t.lanes = s.lanes ∧ t.regs = s.regs) ∧
  (∀ (s : State) (l : Fin 64) (i : Fin 256) (v : Word), s.takesWrite (laneBase l + 0x400 + 4 * i.val) = true →
    (s.lane l).hasCoefs (s.getF (F.LANE_COEF_PAGE_STAGE l)) = true → s.bit (F.LANE_COEF_PAGE_BCAST l) = true →
    s.getF (F.LANE_COEF_PAGE_STAGE l) = 1 →
    ∃ t, exec (.coefWindowWrite l i v) s = .next t ∧
      (∀ m : Fin 64, s.getF (F.LANE_BIND_PROFILE m) = s.getF (F.LANE_BIND_PROFILE l) → ((s.lane m).ctx = none ∨ (s.lane m).rsBank ≠ s.bit (F.LANE_COEF_PAGE_BANK l)) → sparseGet (fun _ => 0) (t.lane m).coefs (2 ^ 14 + 2 ^ 13 * s.getF (F.LANE_COEF_PAGE_BANK l) + 256 * s.getF (F.LANE_COEF_PAGE_PAGE l) + i.val) = v.truncate 18) ∧
      (∀ m : Fin 64, (s.getF (F.LANE_BIND_PROFILE m) ≠ s.getF (F.LANE_BIND_PROFILE l) ∨ ((s.lane m).ctx ≠ none ∧ (s.lane m).rsBank = s.bit (F.LANE_COEF_PAGE_BANK l))) → t.lane m = s.lane m) ∧
      ((s.lane l).ctx ≠ none → (s.lane l).rsBank = s.bit (F.LANE_COEF_PAGE_BANK l) → t.bit (F.LANE_EVENTS_COEF_IN_USE l) = true) ∧
      (((s.lane l).ctx = none ∨ (s.lane l).rsBank ≠ s.bit (F.LANE_COEF_PAGE_BANK l)) → t.bit (F.LANE_EVENTS_COEF_IN_USE l) = s.bit (F.LANE_EVENTS_COEF_IN_USE l)) ∧
      s.SameRegsBut t [Reg.LANE_EVENTS l]) ∧
  (∀ (s : State) (l : Fin 64) (i : Fin 256) (v : Word), s.takesWrite (laneBase l + 0x400 + 4 * i.val) = true →
    (s.lane l).hasCoefs (s.getF (F.LANE_COEF_PAGE_STAGE l)) = true → s.bit (F.LANE_COEF_PAGE_BCAST l) = false →
    s.getF (F.LANE_COEF_PAGE_STAGE l) = 1 ∨ 256 * s.getF (F.LANE_COEF_PAGE_PAGE l) + i.val < 128 →
    (s.lane l).ctx ≠ none →
    (if s.getF (F.LANE_COEF_PAGE_STAGE l) = 0 then (s.lane l).firBank else (s.lane l).rsBank) = s.bit (F.LANE_COEF_PAGE_BANK l) →
    ∃ t, exec (.coefWindowWrite l i v) s = .next t ∧ t.bit (F.LANE_EVENTS_COEF_IN_USE l) = true ∧ t.lanes = s.lanes ∧
      s.SameRegsBut t [Reg.LANE_EVENTS l]) ∧
  (∀ (s : State) (c : Fin 1024) (stage : Bool) (sel : Fin 4) (x : LiveCtx), s.loomIssues = true → s.liveOf c = some x →
    sel ≠ 3 → (s.lane x.lane).kinds.contains (if stage then 4 else 3) = true →
    ∃ t, exec (.coefSwap c stage sel) s = .next t ∧
      (t.lane x.lane).swaps = (s.lane x.lane).swaps.filter (fun p => p.1 != (if stage then 1 else 0)) ++ (if sel ≠ 0 ∧ (if stage then (s.lane x.lane).rsBank else (s.lane x.lane).firBank) = decide (sel = 2) then [] else [(if stage then 1 else 0, if sel = 1 then false else if sel = 2 then true else if stage then !(s.lane x.lane).rsBank else !(s.lane x.lane).firBank)]) ∧
      (t.lane x.lane).firBank = (s.lane x.lane).firBank ∧ (t.lane x.lane).rsBank = (s.lane x.lane).rsBank ∧
      (t.lane x.lane).coefs = (s.lane x.lane).coefs ∧ t.regs = s.regs) ∧
  (∀ (s : State) (l : Fin 64) (c : Nat) (new : Bool) (t : State), (s.lane l).ctx = some c →
    (s.lane l).swaps = [(0, new)] → (s.lane l).wrote = [] → t = s.swapsSettle l →
    (t.lane l).firBank = new ∧ (t.lane l).rsBank = (s.lane l).rsBank ∧ (t.lane l).mark.map (·.1) = some (s.tsc - 19) ∧
    (t.lane l).coefs = (s.lane l).coefs ∧ (t.lane l).swaps = [])

/-- A COEF_SWAP of a live context that names a stage its lane lacks, or whose selection is 3, has no effect but to
set LOOM.EVENTS.BAD_ACTION, exactly as a reserved kind does. When the context is not live the action is counted as
R99 says, and BAD_ACTION does not change. -/
def Obligations.CoefSwapRefusals : Prop :=
  (∀ (s : State) (c : Fin 1024) (stage : Bool) (sel : Fin 4) (x : LiveCtx), s.loomIssues = true → s.liveOf c = some x →
    sel = 3 ∨ (s.lane x.lane).kinds.contains (if stage then 4 else 3) = false →
    ∃ t, exec (.coefSwap c stage sel) s = .next t ∧ t.bit F.LOOM_EVENTS_BAD_ACTION = true ∧
      s.SameRegsBut t [Reg.LOOM_EVENTS] ∧ s.RestSameButMarks t ∧ t = s.hwSet F.LOOM_EVENTS_BAD_ACTION) ∧
  (∀ (s : State) (c : Fin 1024) (stage : Bool) (sel : Fin 4), s.loomIssues = true → s.liveOf c = none →
    ∃ t, exec (.coefSwap c stage sel) s = .next t ∧
      t.reg Reg.LOOM_NOT_LIVE_COUNT = BitVec.ofNat 32 (min (2 ^ 32 - 1) ((s.reg Reg.LOOM_NOT_LIVE_COUNT).toNat + 1)) ∧
      t.bit F.LOOM_EVENTS_NOT_LIVE = true ∧ t.bit F.LOOM_EVENTS_BAD_ACTION = s.bit F.LOOM_EVENTS_BAD_ACTION ∧
      s.SameRegsBut t [Reg.LOOM_NOT_LIVE_COUNT, Reg.LOOM_EVENTS] ∧ s.RestSameButMarks t) ∧
  (∀ (s : State) (kind : BitVec 5), s.loomIssues = true → kind ≠ 0 →
    ∃ t, exec (.nop kind) s = .next t ∧ t = s.hwSet F.LOOM_EVENTS_BAD_ACTION)

/-- The last sample of an open segment closes it with the samples it stores. The next record of a context becomes
READY when no frozen pseudo-channel holds it, and waits while one does. The record that is the next to be handed
takes the next global sequence of each consumer its context names, which then rises by one; a record that names no
consumer is gone. CTX_CLEAR restarts the sequence of a context that is not live and holds no record, and is refused
for any other. -/
def Obligations.RecordLifecycle : Prop :=
  (∀ (s : State) (c : Fin 1024) (first : Nat) (raw : List (BitVec 10)) (r : Record) (kept : List LaneSample) (pre frac : Nat) (short : Bool),
    s.openRec c = some r →
    s.cutOut r (laneOutputs (s.lane r.lane) (s.correctRun ((s.ctxChannel c).getD 0) first (raw.map (·.toInt)))) (decide (first + 5 ≤ (((s.lane r.lane).eras.getLast?).map (·.start)).getD 0)) = some (kept, pre, frac, short) →
    ∃ t, exec (.segmentClose c first raw) s = .next t ∧
      t.seg.recs.any (fun q => q.ctx == c && q.cseq == r.cseq && q.kind == .segment && q.state == .closing && q.samples == kept.length && q.pretrig == pre && q.trigFrac == frac) = true ∧
      (t.keepOf c).lastEnd = some (match kept.getLast? with | some y => s.clockOf y.at' | none => r.cut.getD 0)) ∧
  (∀ (s : State) (c : Fin 1024) (first : Nat) (raw : List (BitVec 10)), s.openRec c = none →
    ∃ t, exec (.segmentClose c first raw) s = .next t ∧ t = s) ∧
  (∀ (s : State) (c : Fin 1024) (copied : Bool) (r : Record), s.nextReady c = some r → s.recHeld r = false →
    ∃ t, exec (.recordReady c copied) s = .next t ∧
      (∀ q ∈ t.seg.recs, q.ctx = c → q.cseq = r.cseq → q.state = .ready ∧ q.readyIn = s.time.clk) ∧
      t.seg.recs.filter (fun q => q.ctx != c.val || q.cseq != r.cseq) = s.seg.recs.filter (fun q => q.ctx != c.val || q.cseq != r.cseq) ∧
      t.seg.recs.map (fun q => (q.ctx, q.cseq, q.data)) = s.seg.recs.map (fun q => (q.ctx, q.cseq, q.data)) ∧
      ((copied = true ∧ r.kind = .segment) → t.bit F.SEG_EVENTS_COPY_WAIT = true) ∧ s.SameRegsBut t [Reg.SEG_EVENTS]) ∧
  (∀ (s : State) (c : Fin 1024) (copied : Bool) (r : Record), s.nextReady c = some r → s.recHeld r = true →
    ∃ t, exec (.recordReady c copied) s = .next t ∧ t = s) ∧
  (∀ (s : State) (c : Fin 1024) (r : Record), s.delivers = true → s.readyHead c = some r → s.nextToHand c r = true →
    (∀ q ∈ s.seg.recs, q.ctx = r.ctx → q.cseq = r.cseq → q = r) → r.host.wanted = true → r.host.acked = false →
    ∃ t, exec (.recordHanded c) s = .next t ∧
      t.seg.recs.any (fun q => q.ctx == c && q.cseq == r.cseq && q.state == .handed && q.host.gseq == some (s.get64 Reg.SEG_GSEQ_HOST_LO)) = true ∧
      t.get64 Reg.SEG_GSEQ_HOST_LO = (s.get64 Reg.SEG_GSEQ_HOST_LO + 1) % 2 ^ 64 ∧
      (r.stream.wanted = false → t.get64 Reg.SEG_GSEQ_STREAM_LO = s.get64 Reg.SEG_GSEQ_STREAM_LO)) ∧
  (∀ (s : State) (c : Fin 1024) (r : Record), s.delivers = true → s.readyHead c = some r → s.nextToHand c r = true →
    (s.recsOf c).head? = some r → r.host.wanted = false → r.stream.wanted = false →
    ∃ t, exec (.recordHanded c) s = .next t ∧ (∀ q ∈ t.seg.recs, q.ctx = c → q.cseq ≠ r.cseq) ∧
      t.get64 Reg.SEG_GSEQ_HOST_LO = s.get64 Reg.SEG_GSEQ_HOST_LO) ∧
  (∀ (s : State) (v : Word), s.takesWrite Reg.SEG_CTX_CLEAR = true → v.getLsbD 31 = true →
    s.isLive (fieldOf v 0 10) = false → s.recsOf (fieldOf v 0 10) = [] →
    ∃ t, exec (.ctxClear v) s = .next t ∧ (t.keepOf (fieldOf v 0 10)).next = 0 ∧
      (∀ c : Fin 1024, c.val ≠ fieldOf v 0 10 → t.keepOf c = s.keepOf c) ∧ t.seg.recs = s.seg.recs ∧ t.regs = s.regs) ∧
  (∀ (s : State) (v : Word), s.takesWrite Reg.SEG_CTX_CLEAR = true → v.getLsbD 31 = true →
    s.isLive (fieldOf v 0 10) = true ∨ s.recsOf (fieldOf v 0 10) ≠ [] →
    ∃ t, exec (.ctxClear v) s = .next t ∧ t.seg = s.seg ∧ t.bit F.SEG_EVENTS_CLEAR_REFUSED = true ∧
      s.SameRegsBut t [Reg.SEG_EVENTS])

/-- A write of a descriptor changes the word written of an UNPLACED job alone, and is discarded for any other,
setting JOB_BUSY. PLACE gives an UNPLACED job the lowest free beam of its pool and the reservation it needs; a
descriptor outside the limits sets BAD_JOB, no free beam NO_BEAM, and no chunks NO_SPACE, each counted in PLACE_FAIL
at the end of the clock with the job left UNPLACED. RELEASE in PLACED frees the job, and in any other state does
nothing. An ACC_START of an UNPLACED job places it and enters PREPARE. -/
def Obligations.JobPlacement : Prop :=
  (∀ (s : State) (j : Fin 256) (w : Fin 13) (v : Word) (o : Nat), o = Reg.BEAM_JOB_CFG j + 4 * w.val →
    s.takesWrite o = true → (s.job j).state = 0 →
    ∃ t, exec (.jobDescriptorWrite j w v) s = .next t ∧ t.reg o = (s.reg o &&& ~~~maskAt o) ||| (v &&& maskAt o) ∧
      s.SameRegsBut t [o] ∧ t.beam = s.beam) ∧
  (∀ (s : State) (j : Fin 256) (w : Fin 13) (v : Word), s.takesWrite (Reg.BEAM_JOB_CFG j + 4 * w.val) = true →
    (s.job j).state ≠ 0 →
    ∃ t, exec (.jobDescriptorWrite j w v) s = .next t ∧ t.bit F.FLT_HOST_JOB_BUSY = true ∧
      s.SameRegsBut t (Reg.FLT_HOST :: pbaRegs) ∧ t.beam = s.beam) ∧
  (∀ (s : State) (j : Fin 256) (b : Nat) (d : JobDesc) (pcs : List Nat), s.takesWrite (Reg.BEAM_JOB_CTRL j) = true →
    s.beam.pre.any (fun p => p.1 == j.val) = false → (s.job j).state = 0 → d = s.jobDesc j → s.badJob d = false →
    s.freeBeam d.pool = some b → pcs = s.leastLoaded 16 → pcs ≠ [] → s.resvFits (d.reservation pcs pcs) = true →
    ∃ t, exec (.place j) s = .next t ∧
      (t.job j).state = 1 ∧ (t.job j).beam = some b ∧ (t.job j).desc = some d ∧ (t.job j).resv = d.reservation pcs pcs ∧
      (t.job j).bufs = List.replicate d.bufs none ∧ (t.job j).nextPass = 0 ∧ (t.job j).spilled = d.spills ∧
      (∀ i : Fin 256, i ≠ j → t.job i = s.job i) ∧ t.regs = s.regs) ∧
  (∀ (s : State) (j : Fin 256) (d : JobDesc), s.takesWrite (Reg.BEAM_JOB_CTRL j) = true →
    s.beam.pre.any (fun p => p.1 == j.val) = false → s.beam.tally = [] → (s.job j).state = 0 → d = s.jobDesc j →
    d.kind = 0 ∨ 6 ≤ d.kind ∨ d.xMode = 3 ∨ (d.kind ≠ 3 ∧ d.kind ≠ 4 ∧ d.xMode ≠ 0) ∨ (d.kind = 3 ∧ d.xMode = 0) ∨ d.width = 0 ∨ (d.kind ≠ 1 ∧ d.kind ≠ 5 ∧ (4096 < d.width ∨ d.height = 0 ∨ 2048 < d.height)) ∨ (d.kind = 4 ∧ 1024 < d.height) ∨ d.xDiv = 0 ∨ 65536 < d.xDiv ∨ (d.kind = 1 ∧ 256 < d.xDiv) ∨ (d.xMode = 1 ∧ d.ui < 2 ^ 32) ∨ ((d.double = true ∨ d.kind = 3 ∨ d.kind = 4) ∧ d.limitCells < d.cells) →
    ∃ t, exec (.place j) s = .next t ∧ t.regs = s.regs ∧ t.beam.jobs = s.beam.jobs ∧
      t.accSettle.bit F.BEAM_EVENTS_BAD_JOB = true ∧
      t.accSettle.reg Reg.BEAM_PLACE_FAIL = BitVec.ofNat 32 (min (2 ^ 32 - 1) ((s.reg Reg.BEAM_PLACE_FAIL).toNat + 1)) ∧
      s.SameRegsBut t.accSettle [Reg.BEAM_EVENTS, Reg.BEAM_PLACE_FAIL] ∧ t.accSettle.beam.jobs = s.beam.jobs) ∧
  (∀ (s : State) (j : Fin 256) (d : JobDesc), s.takesWrite (Reg.BEAM_JOB_CTRL j) = true →
    s.beam.pre.any (fun p => p.1 == j.val) = false → s.beam.tally = [] → (s.job j).state = 0 → d = s.jobDesc j →
    s.badJob d = false →
    s.freeBeam d.pool = none ∨ s.resvFits (d.reservation (s.leastLoaded 16) (s.leastLoaded 16)) = false →
    ∃ t, exec (.place j) s = .next t ∧ t.regs = s.regs ∧ t.beam.jobs = s.beam.jobs ∧
      (s.freeBeam d.pool = none → t.accSettle.bit F.BEAM_EVENTS_NO_BEAM = true) ∧
      (s.freeBeam d.pool ≠ none → t.accSettle.bit F.BEAM_EVENTS_NO_SPACE = true) ∧
      t.accSettle.reg Reg.BEAM_PLACE_FAIL = BitVec.ofNat 32 (min (2 ^ 32 - 1) ((s.reg Reg.BEAM_PLACE_FAIL).toNat + 1)) ∧
      s.SameRegsBut t.accSettle [Reg.BEAM_EVENTS, Reg.BEAM_PLACE_FAIL] ∧ t.accSettle.beam.jobs = s.beam.jobs) ∧
  (∀ (s : State) (j : Fin 256), s.takesWrite (Reg.BEAM_JOB_CTRL j) = true → (s.job j).state = 1 →
    s.beam.pre.any (fun p => p.1 == j.val) = false →
    ∃ t, exec (.releaseJob j) s = .next t ∧ t.job j = JobSt.init ∧ (∀ i : Fin 256, i ≠ j → t.job i = s.job i) ∧
      t.regs = s.regs) ∧
  (∀ (s : State) (j : Fin 256), s.takesWrite (Reg.BEAM_JOB_CTRL j) = true → (s.job j).state ≠ 1 →
    ∃ t, exec (.releaseJob j) s = .next t ∧ t.regs = s.regs ∧ t.beam = s.beam) ∧
  (∀ (s : State) (j : Fin 256) (b : Nat) (d : JobDesc), s.loomIssues = true →
    s.beam.pre = [] ∧ s.beam.freed = [] ∧ s.beam.placed = [] → (s.job j).state = 0 → d = s.jobDesc j →
    s.badJob d = false → s.freeBeam d.pool = some b → s.leastLoaded 16 ≠ [] →
    s.resvFits (d.reservation (s.leastLoaded 16) (s.leastLoaded 16)) = true →
    ∃ t, exec (.accStart j) s = .next t ∧
      (t.job j).state = 2 ∧ (t.job j).beam = some b ∧ (t.job j).desc = some d ∧ (t.job j).nextPass = 1 ∧
      (t.job j).cur = BeamPass.init ∧ (t.job j).masks = (List.range 8).map s.polygon ∧ t.regs = s.regs)

/-- An ACC action takes a job through its states: START in PLACED begins PREPARE with the next pass, and in
DRAINING, UNLOADING or WAIT_BUF is kept for after the unload; STOP of RUNNING ends the pass in DRAINING, and of
WAIT_BEAM leaves UNPLACED; what the table marks ignored changes no job and is counted at the end of the clock. A
FOLD that finds no free result buffer then, or whose other raster is busy, is refused and counted and the pass
continues; else a DOUBLE job goes on in the other raster, and any other drains with START_PENDING. PREPARE ends in
RUNNING with empty counts; a drained pass unloads, or waits for a buffer; the end of the unload makes the report
marker; a freed buffer starts a waiting unload. -/
def Obligations.BeamPasses : Prop :=
  (∀ (s : State) (j : Fin 256), s.loomIssues = true → s.beam.pre = [] ∧ s.beam.freed = [] ∧ s.beam.placed = [] →
    (s.job j).state = 1 ∨ (4 ≤ (s.job j).state ∧ (s.job j).state ≤ 6) →
    ∃ t, exec (.accStart j) s = .next t ∧
      ((s.job j).state = 1 → (t.job j).state = 2 ∧ (t.job j).startPending = false ∧ (t.job j).cur = { BeamPass.init with no := (s.job j).nextPass } ∧ (t.job j).nextPass = (s.job j).nextPass + 1) ∧
      ((s.job j).state ≠ 1 → t.job j = { s.job j with startPending := true }) ∧
      (∀ i : Fin 256, i ≠ j → t.job i = s.job i) ∧ t.regs = s.regs) ∧
  (∀ (s : State) (j : Fin 256), s.loomIssues = true → s.beam.pre = [] ∧ s.beam.freed = [] ∧ s.beam.placed = [] →
    s.beam.tally = [] → (s.job j).state = 2 ∨ (s.job j).state = 3 ∨ 7 ≤ (s.job j).state →
    ∃ t, exec (.accStart j) s = .next t ∧ t.job j = s.job j ∧ t.regs = s.regs ∧
      t.accSettle.reg Reg.BEAM_ACTION_IGNORED = BitVec.ofNat 32 (min (2 ^ 32 - 1) ((s.reg Reg.BEAM_ACTION_IGNORED).toNat + 1)) ∧
      s.SameRegsBut t.accSettle [Reg.BEAM_ACTION_IGNORED]) ∧
  (∀ (s : State) (j : Fin 256), s.loomIssues = true → s.beam.pre = [] ∧ s.beam.freed = [] ∧ s.beam.placed = [] →
    (s.job j).state = 3 ∨ (s.job j).state = 7 →
    ∃ t, exec (.accStop j) s = .next t ∧
      ((s.job j).state = 3 → t.job j = { s.job j with state := 4, cur := { (s.job j).cur with endTs := s.tsc, endAxis := s.axisReported s.time.clk } }) ∧
      ((s.job j).state = 7 → t.job j = JobSt.init) ∧ t.regs = s.regs) ∧
  (∀ (s : State) (j : Fin 256), s.loomIssues = true → s.beam.pre = [] ∧ s.beam.freed = [] ∧ s.beam.placed = [] →
    (s.job j).state = 2 → (s.descOf j).report = true →
    ∃ t, exec (.accStop j) s = .next t ∧ (t.job j).state = (if (s.job j).freeBufs = 0 then 6 else 5) ∧
      (t.job j).cur.sweeps = (s.job j).cur.sweeps ∧ (t.job j).cur.endTs = s.tsc ∧ t.regs = s.regs) ∧
  (∀ (s : State) (j : Fin 256) (stop : Bool), s.loomIssues = true →
    s.beam.pre = [] ∧ s.beam.freed = [] ∧ s.beam.placed = [] → s.beam.tally = [] →
    (s.job j).state ≤ 1 ∨ (4 ≤ (s.job j).state ∧ (s.job j).state ≤ 6) →
    ∃ t, exec ((if stop then .accStop j else .accFold j)) s = .next t ∧ t.job j = s.job j ∧ t.regs = s.regs ∧
      t.accSettle.reg Reg.BEAM_ACTION_IGNORED = BitVec.ofNat 32 (min (2 ^ 32 - 1) ((s.reg Reg.BEAM_ACTION_IGNORED).toNat + 1)) ∧
      s.SameRegsBut t.accSettle [Reg.BEAM_ACTION_IGNORED]) ∧
  (∀ (s : State) (j : Fin 256) (x : JobSt), s.loomIssues = true →
    s.beam.pre = [] ∧ s.beam.freed = [] ∧ s.beam.placed = [] → x = s.job j → x.state = 3 → x.freeBufs ≠ 0 →
    (s.descOf j).double = false ∨ x.oldPhase = .idle →
    ∃ t, exec (.accFold j) s = .next t ∧
      ((s.descOf j).double = false → t.job j = { x with state := 4, startPending := true, cur := { x.cur with endTs := s.tsc, endAxis := s.axisReported s.time.clk } }) ∧
      ((s.descOf j).double = true → t.job j = { x with oldPhase := .draining, nextPass := x.nextPass + 1, old := { x.cur with endTs := s.tsc, endAxis := s.axisReported s.time.clk }, cur := { BeamPass.init with no := x.nextPass, startTs := s.tsc } }) ∧
      t.regs = s.regs) ∧
  (∀ (s : State) (j : Fin 256), s.loomIssues = true → s.beam.pre = [] ∧ s.beam.freed = [] ∧ s.beam.placed = [] →
    s.beam.tally = [] → (s.job j).state = 3 →
    (s.job j).freeBufs = 0 ∨ ((s.descOf j).double = true ∧ (s.job j).oldPhase ≠ .idle) →
    ∃ t, exec (.accFold j) s = .next t ∧ t.job j = s.job j ∧ t.regs = s.regs ∧ t.accSettle.job j = s.job j ∧
      t.accSettle.bit F.BEAM_EVENTS_FOLD_REFUSED = true ∧
      t.accSettle.reg Reg.BEAM_FOLD_REFUSED = BitVec.ofNat 32 (min (2 ^ 32 - 1) ((s.reg Reg.BEAM_FOLD_REFUSED).toNat + 1)) ∧
      s.SameRegsBut t.accSettle [Reg.BEAM_EVENTS, Reg.BEAM_FOLD_REFUSED]) ∧
  (∀ (s : State) (j : Fin 256), (s.job j).oldPhase ≠ .clearing → (s.job j).state = 2 →
    ∃ t, exec (.prepareDone j) s = .next t ∧
      t.job j = { s.job j with state := 3, cur := { (s.job j).cur with startTs := s.tsc } } ∧ t.regs = s.regs) ∧
  (∀ (s : State) (j : Fin 256), (s.job j).oldPhase = .clearing →
    ∃ t, exec (.prepareDone j) s = .next t ∧ t.job j = { s.job j with oldPhase := .idle } ∧ t.regs = s.regs) ∧
  (∀ (s : State) (j : Fin 256), (s.job j).oldPhase = .idle → (s.job j).state = 4 → (s.job j).cur.sweepsIn = [] →
    ∃ t, exec (.drainDone j) s = .next t ∧
      ((s.descOf j).report = true → t.job j = { s.job j with state := if (s.job j).freeBufs = 0 then 6 else 5 }) ∧
      ((s.descOf j).report = false → (s.job j).startPending = false → t.job j = { s.job j with state := 1 }) ∧
      ((s.descOf j).report = false → (s.job j).startPending = true → (t.job j).state = 2 ∧ (t.job j).startPending = false ∧ (t.job j).cur = { BeamPass.init with no := (s.job j).nextPass }) ∧
      t.regs = s.regs) ∧
  (∀ (s : State) (j : Fin 256) (d : JobDesc), (s.job j).oldPhase = .idle → (s.job j).state = 5 →
    (s.job j).startPending = false → d = s.descOf j → d.ctx < 1024 →
    ∃ t, exec (.unloadDone j) s = .next t ∧ (t.job j).state = 1 ∧
      t.seg.recs.any (fun r => r.kind == .marker && r.ctx == d.ctx && r.cseq == (s.keepOf d.ctx).next && r.ts == (s.job j).cur.endTs * 2 ^ 32 && r.axisPos == (s.job j).cur.endAxis && r.trigFrac == 0xF00 + j.val && r.data == (s.job j).cur.result d j ((s.job j).beam.getD 0)) = true ∧
      (t.keepOf d.ctx).next = (s.keepOf d.ctx).next + 1) ∧
  (∀ (s : State) (j : Fin 256), (s.job j).freeBufs ≠ 0 →
    (s.job j).oldPhase = .waitBuf ∨ ((s.job j).oldPhase = .idle ∧ (s.job j).state = 6) →
    ∃ t, exec (.resultBufferFree j) s = .next t ∧
      t.job j = (if (s.job j).oldPhase = .waitBuf then { s.job j with oldPhase := .unloading } else { s.job j with state := 5 }) ∧
      t.regs = s.regs) ∧
  (∀ (s : State) (j : Fin 256), (s.job j).freeBufs = 0 →
    ∃ t, exec (.resultBufferFree j) s = .next t ∧ t = s)

/-- A corrected error of a beam in service is counted and changes nothing else. An uncorrectable error takes the
beam out of service; one in a beam with no job does nothing more than count, and one in a beam that runs a job
places the job on a free beam of its pool, or leaves it in WAIT_BEAM when none is free. A freed beam ends WAIT_BEAM.
PEEK0 reads the cell selected of the working raster, and zero with PEEK_MISS when no beam holds it. A read of PEEK0
of 64 bits reads PEEK0 and then PEEK1. -/
def Obligations.BeamFaultsAndPeek : Prop :=
  (∀ (s : State) (b : Fin 16), s.beamInService b = true →
    ∃ t, exec (.beamCorrected b) s = .next t ∧
      t.reg (Reg.BEAM_CE_COUNT b) = BitVec.ofNat 32 (min (2 ^ 32 - 1) ((s.reg (Reg.BEAM_CE_COUNT b)).toNat + 1)) ∧
      s.SameRegsBut t [Reg.BEAM_CE_COUNT b] ∧ s.RestSameButMarks t) ∧
  (∀ (s : State) (b : Fin 16) (w : Fin 786432), s.beamInService b = true → s.beamJob b = none →
    ∃ t, exec (.beamUncorr b w) s = .next t ∧ t.beamInService b = false ∧
      (∀ i : Fin 16, i ≠ b → t.beamInService i = s.beamInService i) ∧
      t.reg (Reg.BEAM_UE_COUNT b) = BitVec.ofNat 32 (min (2 ^ 32 - 1) ((s.reg (Reg.BEAM_UE_COUNT b)).toNat + 1)) ∧
      s.SameRegsBut t [Reg.BEAM_UE_COUNT b, Reg.BEAM_BEAM_STATUS b] ∧ t.beam = s.beam) ∧
  (∀ (s : State) (b : Fin 16) (w : Fin 786432) (j : Fin 256) (e : Nat), s.beamInService b = true →
    s.beamJob b = some j.val → s.beam.pre = [] → (s.job j).state = 1 →
    (s.job j).restart = false ∧ (s.job j).startPending = false ∧ (s.job j).oldPhase = .idle →
    e < 16 ∧ e ≠ b.val ∧ s.beamInService e = true ∧ s.beamJob e = none ∧ (s.beam.pools.getD e 0xFF).toNat = (s.descOf j).pool →
    (∀ i : Fin 16, i.val < e → i ≠ b → s.beamInService i = false ∨ s.beamJob i ≠ none ∨ (s.beam.pools.getD i 0xFF).toNat ≠ (s.descOf j).pool) →
    (s.beam.jobs.filter (fun p => p.1 == j.val)).length = 1 →
    ∃ t, exec (.beamUncorr b w) s = .next t ∧ (t.job j).beam = some e ∧ (t.job j).state = 1 ∧ (t.job j).degraded = true ∧
      t.bit F.BEAM_EVENTS_UNCORR = true ∧ t.bit F.BEAM_EVENTS_DEGRADED = true ∧ t.beamInService b = false) ∧
  (∀ (s : State) (b : Fin 16) (w : Fin 786432) (j : Fin 256), s.beamInService b = true → s.beamJob b = some j.val →
    s.beam.pre = [] → (s.job j).state = 1 → (s.job j).oldPhase = .idle →
    (∀ i : Fin 16, i ≠ b → s.beamInService i = false ∨ s.beamJob i ≠ none ∨ (s.beam.pools.getD i 0xFF).toNat ≠ (s.descOf j).pool) →
    ∃ t, exec (.beamUncorr b w) s = .next t ∧ (t.job j).beam = none ∧ (t.job j).state = 7 ∧ (t.job j).degraded = true) ∧
  (∀ (s : State) (j : Fin 256) (b : Nat), (s.job j).state = 7 → s.freeBeam (s.descOf j).pool = some b →
    ∃ t, exec (.beamFree j) s = .next t ∧ (t.job j).beam = some b ∧
      (t.job j).state = (if (s.job j).restart || (s.job j).startPending then 2 else 1) ∧
      ((s.job j).restart = true → (t.job j).cur.restarted = true) ∧ t.regs = s.regs) ∧
  (∀ (s : State) (v : Word), s.takesWrite Reg.BEAM_PEEK_SEL = true →
    ∃ t, exec (.peekSel v) s = .next t ∧ t.reg Reg.BEAM_PEEK_SEL = v ∧ s.SameRegsBut t [Reg.BEAM_PEEK_SEL]) ∧
  (∀ (s : State) (j : Fin 256) (k : Nat) (x : JobSt) (be : BitVec 4), s.hostReaches = true →
    s.readOpen (Reg.BEAM_PEEK 0) = true → s.reg Reg.BEAM_PEEK_SEL = BitVec.ofNat 32 (j.val * 2 ^ 24 + k) →
    x = s.job j → k < (s.descOf j).cells → k < 2 ^ 24 →
    (∀ w ∈ (s.workingPass j).loose, k % max 1 (s.descOf j).width < w.lo ∨ w.hi ≤ k % max 1 (s.descOf j).width) →
    x.beam ≠ none ∧ x.spilled = false ∧ (s.workingPass j).blurred = none →
    (s.descOf j).kind = 2 ∨ (s.descOf j).kind = 3 →
    ∃ t, exec (.peek0Read (.enables be)) s = .next t ∧
      t.out = s.out ++ [.readData (Reg.BEAM_PEEK 0) (BitVec.ofNat 32 (toBitsInt 32 (sparseGet (fun _ => (0, 0)) (s.workingPass j).cells k).1))] ∧
      t.regs = s.regs ∧ t.beam = s.beam) ∧
  (∀ (s : State) (be : BitVec 4), s.hostReaches = true → s.readOpen (Reg.BEAM_PEEK 0) = true →
    (s.job (s.getF ⟨Reg.BEAM_PEEK_SEL, 24, 8⟩)).beam = none →
    ∃ t, exec (.peek0Read (.enables be)) s = .next t ∧ t.out = s.out ++ [.readData (Reg.BEAM_PEEK 0) 0] ∧
      t.bit F.BEAM_EVENTS_PEEK_MISS = true ∧ s.SameRegsBut t [Reg.BEAM_EVENTS] ∧ t.beam = s.beam) ∧
  (∀ (s : State),
    exec (.peek0Read .wide) s = (match exec (.peek0Read (.enables 15)) s with
        | .next u => exec (.latchingRead (Reg.BEAM_PEEK 1) (.enables 15)) u
        | o => o))

/-- A corrected error is counted and changes nothing else. An uncorrectable or command error freezes a
pseudo-channel in service with its cause latched, its record made and FLT told, and no other pseudo-channel changes
state; one in a frozen pseudo-channel latches the new cause. RELEASE and RETIRE act on a frozen pseudo-channel, one
that froze in the very clock of the write included, and set CTRL_IGNORED for any other at the end of the clock. In
SELFTEST an uncorrectable error retires. A retirement is made at the end of its clock; so ends a release: one whose
settings work returns the pseudo-channel to service, and one that finds a group without a working setting retires
it. A failing re-read of a record held at the freeze counts and latches the error, makes the record an
HBM_UNREADABLE gap where it was not VISIBLE, and keeps the pseudo-channel in service. Where the clauses name no
records, contexts and jobs, they hold of a memory without them. -/
def Obligations.HbmFreezes : Prop :=
  (∀ (s : State) (p : Fin 64), s.operational = true ∨ s.cur = .selftest → s.pcState p = 1 ∨ s.pcState p = 3 →
    ∃ t, exec (.hbmCorrected p) s = .next t ∧
      t.reg (Reg.MEM_PC_CE_COUNT p) = BitVec.ofNat 32 (min (2 ^ 32 - 1) ((s.reg (Reg.MEM_PC_CE_COUNT p)).toNat + 1)) ∧
      t.reg Reg.MEM_CE_TOTAL = BitVec.ofNat 32 (min (2 ^ 32 - 1) ((s.reg Reg.MEM_CE_TOTAL).toNat + 1)) ∧
      s.SameRegsBut t [Reg.MEM_PC_CE_COUNT p, Reg.MEM_CE_TOTAL] ∧ s.RestSameButMarks t) ∧
  (∀ (s : State) (p : Fin 64) (e : HbmError), s.operational = true → s.pcState p = 1 →
    s.seg.keep = [] ∧ s.seg.recs = [] ∧ s.beam.jobs = [] →
    s.mem.change = none ∧ s.mem.deferred = none ∧ s.mem.ctrlReq = [] →
    ∃ t, exec (.hbmFreeze p e []) s = .next t ∧ t.pcState p = 2 ∧ (∀ q : Fin 64, q ≠ p → t.pcState q = s.pcState q) ∧
      t.reg (Reg.MEM_PC_ERR_ADDR p) = hbmAddrWord e ∧ t.reg (Reg.MEM_PC_ERR_INFO p) = hbmInfoWord e (s.pool p).length ∧ t.reg (Reg.MEM_PC_ERR_DATA_LO p) = e.raw.truncate 32 ∧ t.reg (Reg.MEM_PC_ERR_DATA_HI p) = (e.raw >>> 32).truncate 32 ∧
      t.pool p = s.pool p ∧
      t.reg (Reg.MEM_PC_UE_COUNT p) = BitVec.ofNat 32 (min (2 ^ 32 - 1) ((s.reg (Reg.MEM_PC_UE_COUNT p)).toNat + 1)) ∧
      t.bit F.MEM_EVENTS_FREEZE = true ∧ t.bit F.FLT_CLASS_HBM_FREEZE = true ∧
      t.bbx.ring.any (fun q => q.1.source == 7 && q.1.code == 3 && q.2 == s.time.clk && q.1.payload == [BitVec.ofNat 8 p.val, BitVec.ofNat 8 e.cause, BitVec.ofNat 8 e.requester] ++ leBytes 4 (hbmAddrWord e).toNat) = true) ∧
  (∀ (s : State) (p : Fin 64) (e : HbmError) (issued : List (Nat × Nat)), s.operational = true →
    s.pcState p = 2 ∨ (s.pcState p = 3 ∧ sparseGet (fun _ => none) s.mem.released p = some s.time.clk) →
    ∃ t, exec (.hbmFreeze p e issued) s = .next t ∧
      t.reg (Reg.MEM_PC_ERR_ADDR p) = hbmAddrWord e ∧ t.reg (Reg.MEM_PC_ERR_INFO p) = hbmInfoWord e (s.pool p).length ∧ t.reg (Reg.MEM_PC_ERR_DATA_LO p) = e.raw.truncate 32 ∧ t.reg (Reg.MEM_PC_ERR_DATA_HI p) = (e.raw >>> 32).truncate 32 ∧
      s.SameRegsBut t [Reg.MEM_PC_ERR_ADDR p, Reg.MEM_PC_ERR_INFO p, Reg.MEM_PC_ERR_DATA_LO p, Reg.MEM_PC_ERR_DATA_HI p] ∧
      s.RestSame t) ∧
  (∀ (s : State) (p : Fin 64) (c : Fin 1024) (k : CtxKeep) (e : HbmError), s.operational = true → s.pcState p = 1 →
    s.seg.keep = [(c.val, k)] ∧ s.seg.recs = [] ∧ s.beam.jobs = [] → k.stripe.contains p.val = true →
    ∃ t, exec (.hbmFreeze p e []) s = .next t ∧ (t.keepOf c).stripe = k.stripe.filter (· != p.val)) ∧
  (∀ (s : State) (p : Fin 64) (e : HbmError), s.operational = true → s.pcState p = 1 →
    s.seg.keep = [] ∧ s.seg.recs = [] ∧ s.beam.jobs = [] → s.mem.change = none ∧ s.mem.deferred = none →
    s.mem.ctrlReq = [(p.val, 1)] ∧ s.mem.retireReq = [] →
    ∃ t, exec (.hbmFreeze p e []) s = .next t ∧ t.pcState p = 3 ∧ t.mem.ctrlReq = [] ∧
      t.bit F.MEM_EVENTS_CTRL_IGNORED = s.bit F.MEM_EVENTS_CTRL_IGNORED) ∧
  (∀ (s : State) (p : Fin 64) (e : HbmError) (issued : List (Nat × Nat)), s.cur = .selftest → s.pcState p = 1 →
    e.cause = 1 →
    ∃ t, exec (.hbmFreeze p e issued) s = .next t ∧ t.pcState p = 4 ∧ (∀ q : Fin 64, q ≠ p → t.pcState q = s.pcState q) ∧
      t.bit F.MEM_EVENTS_RETIRE = true ∧ t.bit F.FLT_CLASS_HBM_RETIRE = true ∧ t.cur = s.cur ∧ t.seg = s.seg) ∧
  (∀ (s : State) (p : Fin 64), s.takesWrite (Reg.MEM_PC_CTRL p) = true → s.pcState p ≠ 2 →
    s.mem.retireReq = [] ∧ s.mem.doneReq = [] →
    ∃ t, exec ((if s.pcState p = 1 then .release p else .retire p)) s = .next t ∧ t.regs = s.regs ∧ t.seg = s.seg ∧
      t.freezesEnd.bit F.MEM_EVENTS_CTRL_IGNORED = true ∧ s.SameRegsBut t.freezesEnd [Reg.MEM_EVENTS]) ∧
  (∀ (s : State) (p : Fin 64), s.takesWrite (Reg.MEM_PC_CTRL p) = true → s.pcState p = 2 →
    s.mem.retireReq.contains p.val = false →
    ∃ t, exec (.release p) s = .next t ∧ t.pcState p = 3 ∧ s.SameRegsBut t [Reg.MEM_PC_STATE p] ∧ t.seg = s.seg) ∧
  (∀ (s : State) (p : Fin 64), s.takesWrite (Reg.MEM_PC_CTRL p) = true → s.pcState p = 2 →
    s.mem.retireReq = [] ∧ s.mem.doneReq = [] ∧ s.mem.ctrlReq = [] → s.seg = SegSt.init → s.retiredCount < 8 →
    ∃ t, exec (.retire p) s = .next t ∧ t.regs = s.regs ∧ t.freezesEnd.pcState p = 4 ∧
      (∀ q : Fin 64, q ≠ p → t.freezesEnd.pcState q = s.pcState q) ∧
      t.freezesEnd.bit F.MEM_EVENTS_RETIRE = true ∧ t.freezesEnd.bit F.FLT_CLASS_HBM_RETIRE = true ∧
      t.freezesEnd.bbx.ring.any (fun q => q.1.source == 7 && q.1.code == 1 && q.2 == s.time.clk && q.1.payload == [BitVec.ofNat 8 p.val, 0, 0]) = true ∧
      t.freezesEnd.cur = s.cur) ∧
  (∀ (s : State) (p : Fin 64) (x : PcSweep) (tm : PcTiming), s.pcState p = 3 →
    sweepTiming x (LaneMap.ofWord (s.reg (Reg.MEM_PC_LANEMAP p))) = .inl tm →
    s.mem.retireReq = [] ∧ s.mem.doneReq = [] ∧ s.mem.ctrlReq = [] → s.seg = SegSt.init →
    ∃ t, exec (.releaseDone p x) s = .next t ∧ t.regs = s.regs ∧ t.freezesEnd.pcState p = 1 ∧
      (∀ q : Fin 64, q ≠ p → t.freezesEnd.pcState q = s.pcState q) ∧
      t.freezesEnd.reg (Reg.MEM_PC_RD_CENTRE p) = centreWord tm.rd ∧ t.freezesEnd.reg (Reg.MEM_PC_WR_CENTRE p) = centreWord tm.wr ∧
      t.freezesEnd.pool p = s.pool p) ∧
  (∀ (s : State) (p : Fin 64) (x : PcSweep) (g : Nat), s.pcState p = 3 →
    sweepTiming x (LaneMap.ofWord (s.reg (Reg.MEM_PC_LANEMAP p))) = .inr g →
    s.mem.retireReq = [] ∧ s.mem.doneReq = [] ∧ s.mem.ctrlReq = [] → s.seg = SegSt.init → s.retiredCount < 8 →
    ∃ t, exec (.releaseDone p x) s = .next t ∧ t.regs = s.regs ∧ t.freezesEnd.pcState p = 4 ∧
      t.freezesEnd.bbx.ring.any (fun q => q.1.source == 7 && q.1.code == 1 && q.1.payload == [BitVec.ofNat 8 p.val, 6, BitVec.ofNat 8 g]) = true) ∧
  (∀ (s : State) (p : Fin 64) (c : Fin 1024) (cseq : Nat) (e : HbmError) (r : Record), s.pcState p = 1 →
    (sparseGet (fun _ => []) s.mem.reread p).contains (c.val, cseq) = true → s.seg.recs = [r] →
    r.ctx = c.val ∧ r.cseq = cseq ∧ r.state = .ready →
    r.host.wanted = true ∧ r.host.visible = false ∧ r.host.gap = none ∧ r.stream.wanted = false →
    ∃ t, exec (.hbmUnreadable p c cseq e) s = .next t ∧
      t.seg.recs.any (fun q => q.ctx == c && q.cseq == cseq && q.host.gap == some .hbmUnreadable) = true ∧
      t.pcState p = 1 ∧
      t.reg (Reg.MEM_PC_UE_COUNT p) = BitVec.ofNat 32 (min (2 ^ 32 - 1) ((s.reg (Reg.MEM_PC_UE_COUNT p)).toNat + 1)) ∧
      t.reg (Reg.MEM_PC_ERR_ADDR p) = hbmAddrWord e ∧
      (sparseGet (fun _ => []) t.mem.reread p).contains (c.val, cseq) = false)

/-- A GO is accepted when no context is live, no pseudo-channel is frozen or releasing and no change is deferred or
in progress, and is refused otherwise; during a tracking pass it is deferred, and begins after it. A pass that has
lasted its clocks ends, and changes no timing of a pseudo-channel out of service. FREQ_DONE puts the new point into
effect. A tracking pass moves each read centre by at most four steps and toward the middle of the run found. BAR2
writes are discarded and set the fault; reads above the stacks give all-ones, and reads of a frozen or retired
pseudo-channel or during a change set DBG_VOID; every other read gives the word that the stack holds, and a write
transaction of 64 bytes that completes leaves its words there. QUOTA_WINDOW_END completes whenever the rounds of a
window are made: the next window begins with the WINDOW then set, masking nobody. POINT 3 is refused by choice (log
33). -/
def Obligations.FrequencyTrackingWindow : Prop :=
  (∀ (s : State) (v : Word), s.takesWrite Reg.MEM_FREQ = true → v.getLsbD 31 = true → fieldOf v 0 2 ≠ 3 →
    s.lives = [] ∧ s.mem.change = none ∧ s.mem.deferred = none ∧ s.mem.track = none →
    (∀ p : Fin 64, s.pcState p ≠ 2 ∧ s.pcState p ≠ 3) →
    ∃ t, exec (.freqGo v) s = .next t ∧ t.bit F.MEM_STATUS_CHANGING = true ∧
      t.mem.change = some ⟨fieldOf v 0 2, s.time.clk, s.time.clk, false⟩ ∧ t.getF F.MEM_FREQ_POINT = fieldOf v 0 2 ∧
      t.getF F.MEM_STATUS_POINT_IN_EFFECT = s.getF F.MEM_STATUS_POINT_IN_EFFECT ∧
      s.SameRegsBut t [Reg.MEM_FREQ, Reg.MEM_STATUS]) ∧
  (∀ (s : State) (v : Word), s.takesWrite Reg.MEM_FREQ = true → v.getLsbD 31 = true →
    s.lives ≠ [] ∨ s.mem.change ≠ none ∨ s.mem.deferred ≠ none ∨ (∃ p : Fin 64, s.pcState p = 2 ∨ s.pcState p = 3) ∨ fieldOf v 0 2 = 3 →
    ∃ t, exec (.freqGo v) s = .next t ∧ t.bit F.MEM_EVENTS_FREQ_REFUSED = true ∧
      s.SameRegsBut t [Reg.MEM_FREQ, Reg.MEM_EVENTS] ∧ t.mem = s.mem) ∧
  (∀ (s : State) (v : Word) (n : TrackPass), s.takesWrite Reg.MEM_FREQ = true → v.getLsbD 31 = true → fieldOf v 0 2 ≠ 3 →
    s.lives = [] ∧ s.mem.change = none ∧ s.mem.deferred = none ∧ s.mem.track = some n →
    (∀ p : Fin 64, s.pcState p ≠ 2 ∧ s.pcState p ≠ 3) →
    ∃ t, exec (.freqGo v) s = .next t ∧ t.bit F.MEM_STATUS_DEFERRED = true ∧ t.bit F.MEM_EVENTS_FREQ_DEFERRED = true ∧
      t.mem.deferred = some (fieldOf v 0 2, s.time.clk) ∧ t.mem.change = none) ∧
  (∀ (s : State) (point go : Nat), s.mem.deferred = some (point, go) →
    s.mem.track.all (fun p => decide (p.turn.length ≤ p.done)) = true →
    ∃ t, exec (.freqDeferredStart) s = .next t ∧
      t.bit F.MEM_STATUS_DEFERRED = false ∧ t.bit F.MEM_STATUS_CHANGING = true ∧
      t.mem.change = some ⟨point, s.time.clk, go, false⟩ ∧ t.mem.deferred = none ∧ t.mem.track = none ∧
      s.SameRegsBut t [Reg.MEM_STATUS]) ∧
  (∀ (s : State) (c : FreqChange) (sweeps : List (List (BitVec 128))), s.mem.change = some c → c.point < 4 →
    s.mpllRuns = true →
    c.opened = false ∨ (s.getF F.MEM_STATUS_POINT_IN_EFFECT = c.point ∧ ∀ p : Fin 64, s.bit (F.MEM_PC_STATE_SELF_REFRESH p) = false) →
    ∃ t, exec (.freqDone sweeps) s = .next t ∧
      t.getF F.MEM_STATUS_POINT_IN_EFFECT = c.point ∧ t.bit F.MEM_STATUS_CHANGING = false ∧
      t.bit F.MEM_EVENTS_FREQ_DONE = true ∧ t.mem.change = none ∧
      (∀ p : Fin 64, t.pcState p = s.pcState p ∧ t.bit (F.MEM_PC_STATE_SELF_REFRESH p) = false)) ∧
  (∀ (s : State) (maps : List (List (BitVec 17))) (n : Nat), s.operational = true →
    s.getF ⟨Reg.MEM_TRACK_PERIOD, 0, 16⟩ ≠ 0 → s.mem.change = none ∧ s.mem.track = none →
    ∃ t, exec (.trackPass maps n) s = .next t ∧
      t.mem.track = some ⟨s.time.clk, n, maps, (List.range 64).filter s.pcInService, 0⟩ ∧ t.bit F.MEM_STATUS_TRAINING = true ∧
      (∀ p : Fin 64, t.pcState p = s.pcState p)) ∧
  (∀ (s : State) (p : TrackPass) (t : State), s.mem.track = some p → p.start + p.clocks ≤ s.time.clk → t = s.trackTick →
    t.mem.track = none ∧ t.bit F.MEM_STATUS_TRAINING = false ∧
    (∀ q : Fin 64, s.pcInService q = false → t.timingNow q = s.timingNow q)) ∧
  (∀ (old : Nat) (map : BitVec 17), old ≤ 127 →
    ((trackCentre old map).1 ≤ 127 ∧ (trackCentre old map).1 ≤ old + 4 ∧ old ≤ (trackCentre old map).1 + 4) ∧
      (map = BitVec.allOnes 17 → trackCentre old map = (old, false)) ∧ (map = 0 → trackCentre old map = (old, true))) ∧
  (∀ (s : State), s.hostReaches = true →
    ∃ t, exec (.bar2Write) s = .next t ∧ t.bit F.FLT_HOST_BAR2_WRITE = true ∧ s.SameRegsBut t (Reg.FLT_HOST :: pbaRegs) ∧
      t.mem = s.mem) ∧
  (∀ (s : State) (a : BitVec 32), s.hostReaches = true → 12 ≤ s.getF ⟨Reg.MEM_DBG_BASE, 0, 4⟩ →
    ∃ t, exec (.bar2Read a) s = .next t ∧ t.out = s.out ++ [.bar2Data a.toNat 0xFFFFFFFF] ∧ t.regs = s.regs) ∧
  (∀ (s : State) (a : BitVec 32) (g p : Nat), s.hostReaches = true → s.getF ⟨Reg.MEM_DBG_BASE, 0, 4⟩ < 12 →
    g = s.getF ⟨Reg.MEM_DBG_BASE, 0, 4⟩ * 2 ^ 32 + a.toNat →
    p = 32 * (g / 25769803776) + g % 25769803776 / 805306368 →
    s.pcState p = 2 ∨ s.pcState p = 4 ∨ s.bit F.MEM_STATUS_CHANGING = true →
    ∃ t, exec (.bar2Read a) s = .next t ∧ t.out = s.out ++ [.bar2Data a.toNat 0xFFFFFFFF] ∧
      t.bit F.MEM_EVENTS_DBG_VOID = true ∧ s.SameRegsBut t [Reg.MEM_EVENTS]) ∧
  (∀ (s : State) (a : BitVec 32), s.hostReaches = true → s.getF ⟨Reg.MEM_DBG_BASE, 0, 4⟩ < 12 →
    s.pcState (s.bar2Pc a.toNat) = 1 → s.bit F.MEM_STATUS_CHANGING = false →
    ∃ t, exec (.bar2Read a) s = .next t ∧
      t.out = s.out ++ [.bar2Data a.toNat (s.hbmWordAt (s.bar2Pc a.toNat) (s.bar2Local a.toNat))] ∧
      t.regs = s.regs ∧ t.mem = s.mem) ∧
  (∀ (s : State) (p : Fin 64) (e : PoolEntry) (w : Fin 16) (t : State), s.pool p = [e] →
    e.write = true ∧ e.addr % 64 = 0 ∧ e.data.length = 64 → t = s.transactionDone p 0 →
    t.pool p = [] ∧ t.hbmWordAt p (e.addr + 4 * w) = BitVec.ofNat 32 (leNat (sliceBytes e.data (4 * w) 4)) ∧
    (∀ q : Fin 64, q ≠ p → t.pool q = s.pool q)) ∧
  (∀ (s : State) (st : Fin 2), s.operational = true → s.windowOver st = true →
    ∃ t, exec (.quotaWindowEnd st) s = .next t ∧
      (t.shuttle st).round = 0 ∧ (t.shuttle st).len = max 1 (fieldOf (s.reg (Reg.ARB_WINDOW st)) 0 16) ∧
      (∀ r : Fin 12, t.arbMasked st r = false) ∧ t.regs = s.regs ∧ t.mem = s.mem)

/-- A round makes at most four grants, each to another pseudo-channel and another requester, every one to a
requester that offers; whenever a requester that offers has waited its LIMIT, a forced requester is granted,
whatever the priorities; among offering requesters none of which is forced, the first grant goes to one of the
highest priority. A requester that is granted waits anew, one that offers and is not granted waits one round more up
to 255, and every other wait counter stays. A window lasts as many rounds as WINDOW said at its start;
QUOTA_WINDOW_END completes: after the last round of a window it begins the next, masking nobody and changing no
queue or wait counter, and before that it changes nothing. -/
def Obligations.ShuttleRounds : Prop :=
  (∀ (s : State) (st : Nat) (offers : List (Nat × Nat)) (g : List (Nat × Nat × Bool)),
    offers = (List.range 12).filterMap (fun r => (s.arbOffer st r).map (fun p => (r, p))) →
    g = ((List.range 4).foldl (fun a _ => s.arbSlot st offers a) ⟨[], (s.shuttle st).ptr, (s.shuttle st).forcedPtr⟩).grants →
    g.length ≤ 4 ∧ (g.map (·.2.1)).Nodup ∧ (g.map (·.1)).Nodup ∧
      (∀ x ∈ g, s.arbOffer st x.1 = some x.2.1 ∧ (x.2.2 = true ↔ s.arbLimit st x.1 ≤ sparseGet (fun _ => 0) (s.shuttle st).wait x.1)) ∧
      ((∃ r < 12, s.arbOffer st r ≠ none ∧ s.arbLimit st r ≤ sparseGet (fun _ => 0) (s.shuttle st).wait r) → ∃ x, g.head? = some x ∧ x.2.2 = true) ∧
      (offers ≠ [] → g ≠ []) ∧
      (∀ x, g.head? = some x → x.2.2 = false → ∀ q ∈ offers, s.getF (F.ARB_RQ_PRIO st q.1) ≤ s.getF (F.ARB_RQ_PRIO st x.1))) ∧
  (∀ (s : State) (st : Fin 2) (r : Fin 12) (t : State), s.arbOffer st r ≠ none → t = s.arbSlots st →
    (sparseGet (fun _ => 0) (t.shuttle st).wait r = 0 ∨ sparseGet (fun _ => 0) (t.shuttle st).wait r = min 255 (sparseGet (fun _ => 0) (s.shuttle st).wait r + 1))) ∧
  (∀ (s : State) (st : Fin 2) (r : Fin 12) (t : State), s.arbOffer st r = none → t = s.arbSlots st →
    sparseGet (fun _ => 0) (t.shuttle st).wait r = sparseGet (fun _ => 0) (s.shuttle st).wait r ∧
    (t.shuttle st).queue r = (s.shuttle st).queue r) ∧
  (∀ (s : State) (st : Fin 2) (t : State), t = s.arbRound st →
    (s.windowOver st = true → (t.shuttle st).round = 1 ∧ (t.shuttle st).len = max 1 (fieldOf (s.reg (Reg.ARB_WINDOW st)) 0 16)) ∧
    (s.windowOver st = false → (t.shuttle st).round = (s.shuttle st).round + 1 ∧ (t.shuttle st).len = (s.shuttle st).len)) ∧
  (∀ (s : State) (st : Fin 2), s.operational = true → s.windowOver st = true →
    ∃ t, exec (.quotaWindowEnd st) s = .next t ∧
      (t.shuttle st).round = 0 ∧ (t.shuttle st).len = max 1 (fieldOf (s.reg (Reg.ARB_WINDOW st)) 0 16) ∧
      (∀ r : Fin 12, t.arbMasked st r = false) ∧
      (t.shuttle st).wait = (s.shuttle st).wait ∧ (t.shuttle st).queues = (s.shuttle st).queues ∧
      (∀ q : Fin 2, q ≠ st → t.shuttle q = s.shuttle q) ∧ t.regs = s.regs) ∧
  (∀ (s : State) (st : Fin 2), s.operational = false ∨ s.windowOver st = false →
    ∃ t, exec (.quotaWindowEnd st) s = .next t ∧ t = s)

/-- An enable with a valid geometry sets CFG and zeroes the four ring indices and the descriptors; one without
changes nothing and sets CFG_REFUSED. EN is cleared while no live context and no retained record names the queue,
and refused otherwise. FREE_PROD and COMP_CONS move up to their bounds, and a write beyond them is discarded and
sets its overrun. COMP_CONS acknowledges the records before it. A prefetch that the arbiter of engine-bound bursts
takes reads the next entries of the free ring in read requests of at most MRRS bytes, at most 16 descriptors ahead
of FREE_CONS and never beyond FREE_PROD; one it does not take changes nothing; and a misaligned buffer stops all
channels. -/
def Obligations.DeliveryQueues : Prop :=
  (∀ (s : State) (q : Fin 64) (v : Word), s.takesWrite (Reg.DMA_DQ_CFG q) = true →
    (s.reg (Reg.DMA_DQ_CFG q)).getLsbD 31 = false →
    s.geometryOk q ((v ||| 0x80000000) &&& maskAt (Reg.DMA_DQ_CFG q)) = true →
    ∃ t, exec (.dqEnable q v) s = .next t ∧ t.reg (Reg.DMA_DQ_CFG q) = (v ||| 0x80000000) &&& maskAt (Reg.DMA_DQ_CFG q) ∧
      t.reg (Reg.DMA_DQ_FREE_PROD q) = 0 ∧ t.reg (Reg.DMA_DQ_FREE_CONS q) = 0 ∧ t.reg (Reg.DMA_DQ_COMP_PROD q) = 0 ∧ t.reg (Reg.DMA_DQ_COMP_CONS q) = 0 ∧
      (t.queue q).ahead = [] ∧ (t.queue q).cur = none ∧
      s.SameRegsBut t [Reg.DMA_DQ_CFG q, Reg.DMA_DQ_FREE_PROD q, Reg.DMA_DQ_FREE_CONS q, Reg.DMA_DQ_COMP_PROD q, Reg.DMA_DQ_COMP_CONS q] ∧
      (∀ i : Fin 64, i ≠ q → t.queue i = s.queue i)) ∧
  (∀ (s : State) (q : Fin 64) (v : Word), s.takesWrite (Reg.DMA_DQ_CFG q) = true →
    (s.reg (Reg.DMA_DQ_CFG q)).getLsbD 31 = false →
    (1 ≤ fieldOf v 8 4 ∧ fieldOf v 8 4 ≤ 5) ∨ (1 ≤ fieldOf v 12 4 ∧ fieldOf v 12 4 ≤ 5) ∨ fieldOf (s.reg (Reg.DMA_DQ_FREE_BASE_LO q)) 0 12 ≠ 0 ∨ fieldOf (s.reg (Reg.DMA_DQ_COMP_BASE_LO q)) 0 12 ≠ 0 ∨ s.chanKind (fieldOf v 24 5) ≠ 1 →
    ∃ t, exec (.dqEnable q v) s = .next t ∧
      t.bit (F.DMA_DQ_EVENTS_CFG_REFUSED q) = true ∧ t.bit F.DMA_EVENTS_QUEUE = true ∧
      s.SameRegsBut t (Reg.DMA_DQ_EVENTS q :: Reg.DMA_EVENTS :: pbaRegs) ∧ t.dma = s.dma) ∧
  (∀ (s : State) (q : Fin 64) (v : Word), s.takesWrite (Reg.DMA_DQ_CFG q) = true →
    (s.reg (Reg.DMA_DQ_CFG q)).getLsbD 31 = true →
    (v ^^^ s.reg (Reg.DMA_DQ_CFG q)) &&& maskAt (Reg.DMA_DQ_CFG q) &&& 0x7FFFFFFF = 0 →
    s.reg (Reg.DMA_DQ_CFG q) &&& ~~~maskAt (Reg.DMA_DQ_CFG q) = 0 →
    ∃ t, exec (.dqDisable q v) s = .next t ∧
      (s.queueNamed q = false → (t.reg (Reg.DMA_DQ_CFG q)).getLsbD 31 = false ∧ s.SameRegsBut t [Reg.DMA_DQ_CFG q]) ∧
      (s.queueNamed q = true → t.bit (F.DMA_DQ_EVENTS_CFG_REFUSED q) = true ∧ t.reg (Reg.DMA_DQ_CFG q) = s.reg (Reg.DMA_DQ_CFG q)) ∧
      t.dma = s.dma) ∧
  (∀ (s : State) (q : Fin 64) (v : Word), s.takesWrite (Reg.DMA_DQ_FREE_PROD q) = true →
    ∃ t, exec (.freeProd q v) s = .next t ∧
      ((v - s.reg (Reg.DMA_DQ_FREE_CONS q)).toNat ≤ s.freeEntries q → t.reg (Reg.DMA_DQ_FREE_PROD q) = v ∧ s.SameRegsBut t [Reg.DMA_DQ_FREE_PROD q]) ∧
      (s.freeEntries q < (v - s.reg (Reg.DMA_DQ_FREE_CONS q)).toNat → t.bit (F.DMA_DQ_EVENTS_FREE_OVERRUN q) = true ∧ t.dma = s.dma ∧ s.SameRegsBut t (Reg.DMA_DQ_EVENTS q :: Reg.DMA_EVENTS :: pbaRegs))) ∧
  (∀ (s : State) (q : Fin 64) (v : Word) (cons prod : Word), s.takesWrite (Reg.DMA_DQ_COMP_CONS q) = true →
    cons = s.reg (Reg.DMA_DQ_COMP_CONS q) → prod = s.reg (Reg.DMA_DQ_COMP_PROD q) →
    (prod - cons).toNat < (v - cons).toNat →
    ∃ t, exec (.compCons q v) s = .next t ∧ t.bit (F.DMA_DQ_EVENTS_CONS_OVERRUN q) = true ∧
      t.dma = s.dma ∧ t.seg = s.seg ∧ s.SameRegsBut t (Reg.DMA_DQ_EVENTS q :: Reg.DMA_EVENTS :: pbaRegs)) ∧
  (∀ (s : State) (q : Fin 64) (v : Word) (k : Nat × Nat) (r : Record), s.takesWrite (Reg.DMA_DQ_COMP_CONS q) = true →
    v = s.reg (Reg.DMA_DQ_COMP_CONS q) + 1 → s.reg (Reg.DMA_DQ_COMP_PROD q) ≠ s.reg (Reg.DMA_DQ_COMP_CONS q) →
    (s.queue q).unacked = [k] → s.seg.recs = [r] ∧ (r.ctx, r.cseq) = k →
    r.state = .handed ∧ r.host.visible = true ∧ r.stream.wanted = false →
    ∃ t, exec (.compCons q v) s = .next t ∧ t.reg (Reg.DMA_DQ_COMP_CONS q) = v ∧ (t.queue q).unacked = [] ∧
      (∀ x ∈ t.seg.recs, (x.ctx, x.cseq) = k → x.host.acked = true)) ∧
  (∀ (s : State) (q : Fin 64) (v : Word), s.takesWrite (Reg.DMA_DQ_COMP_CONS q) = true →
    v = s.reg (Reg.DMA_DQ_COMP_CONS q) →
    ∃ t, exec (.compCons q v) s = .next t ∧ t.regs = s.regs ∧ t.seg = s.seg) ∧
  (∀ (s : State) (q : Fin 64) (descs : List (BitVec 64 × Word)) (n i : Nat), s.burstsOpen = true →
    s.arbPick false = some (q % 4) → (s.prefetchQueues (q % 4)).contains q.val = true →
    descs ≠ [] ∧ descs.all (fun d => d.1 &&& 0x3F == 0) = true → n = (descs.take (s.prefetchCount (q % 4) q)).length →
    i = (s.reg (Reg.DMA_DQ_FREE_CONS q)).toNat + (s.queue q).ahead.length →
    ∃ t, exec (.descriptorPrefetch q descs) s = .next t ∧
      (t.queue q).ahead = (s.queue q).ahead ++ (descs.take n).map (fun d => (d.1.toNat, d.2)) ∧
      t.out = s.out ++ (splitBy s.maxReadRequest (16 * n)).map (fun p => .hostRead ((s.freeEntryAddr q i).toNat + p.1) p.2) ∧
      ((s.queue q).ahead.length ≤ 16 → (t.queue q).ahead.length ≤ 16) ∧
      ((s.queue q).prodOld = none → (s.queue q).ahead.length ≤ (s.reg (Reg.DMA_DQ_FREE_PROD q) - s.reg (Reg.DMA_DQ_FREE_CONS q)).toNat → (t.queue q).ahead.length ≤ (s.reg (Reg.DMA_DQ_FREE_PROD q) - s.reg (Reg.DMA_DQ_FREE_CONS q)).toNat) ∧
      s.SameRegsBut t [Reg.DMA_CH_BURSTS (q % 4)]) ∧
  (∀ (s : State) (q : Fin 64) (a : BitVec 64) (w : Word), s.burstsOpen = true → s.arbPick false = some (q % 4) →
    (s.prefetchQueues (q % 4)).contains q.val = true → 0 < s.prefetchCount (q % 4) q → a &&& 0x3F ≠ 0 →
    s.bit F.DMA_STATUS_ALL_STOP = false →
    ∃ t, exec (.descriptorPrefetch q [(a, w)]) s = .next t ∧
      t.bit F.DMA_STATUS_ALL_STOP = true ∧ t.getF F.DMA_STATUS_STOP_CHANNEL = q % 4 ∧ t.getF (F.DMA_CH_STATUS_CAUSE (q % 4)) = 6 ∧
      (t.queue q).ahead = (s.queue q).ahead) ∧
  (∀ (s : State) (q : Fin 64) (descs : List (BitVec 64 × Word)),
    s.burstsOpen = false ∨ descs = [] ∨ s.arbPick false ≠ some (q % 4) ∨ (s.prefetchQueues (q % 4)).contains q.val = false →
    ∃ t, exec (.descriptorPrefetch q descs) s = .next t ∧ t = s)

/-- An arbiter takes a ready channel of the highest priority whenever one is ready. A host-bound burst writes the
next bytes of its record at the place they belong in the buffer, is never empty, stays within the burst length and a
4 KiB page of host address, and takes a buffer when it enters one; it leaves in writes of at most MPS bytes; with RO
it is sent relaxed where Device Control allows, and a read behind the last burst flushes it, for whose completion
the completion record waits. During a change of memory point only its requests are made. A burst of a PREFETCH
channel reads descriptors of a queue it serves. An engine-bound burst reads for the oldest request of a PACED
channel, and for one withdrawn in this clock it reads and counts WITHDRAWN; fewer bytes than the burst needs cannot
occur, and stop the model. A completion record is 64 bytes, is written at its slot after the whole record, advances
COMP_PROD and makes the record VISIBLE. A queue whose time limit passes with records counted raises its vector and
counts anew. -/
def Obligations.DeliveryBursts : Prop :=
  (∀ (s : State) (toHost : Bool),
    ((s.arbPick toHost).isSome = (List.range 32).any (fun n => s.chanReady toHost n)) ∧
      (∀ ch, s.arbPick toHost = some ch → ch < 32 ∧ s.chanReady toHost ch = true ∧ ∀ n < 32, s.chanReady toHost n = true → s.getF (F.DMA_CH_CFG_PRIO n) ≤ s.getF (F.DMA_CH_CFG_PRIO ch))) ∧
  (∀ (s : State) (data : List Byte) (ch q : Nat) (r : Record) (b : Taken) (n : Nat) (x : QueueSt), s.burstsOpen = true →
    s.arbPick true = some ch → s.readyQueue ch = some q → s.nextBurst ch q = some (r, b, n) →
    x = (s.queue q).facing r → s.bit F.MEM_STATUS_CHANGING = false →
    ∃ t, exec (.dmaBurstStart true data) s = .next t ∧
      t.out = s.out ++ (splitBy s.maxPayload n).map (fun p => .hostWrite (b.addr + x.sent % s.bufBytes q + p.1) (sliceBytes (sliceBytes (s.hostBytes q r) x.sent n) p.1 p.2) (s.bit (F.DMA_DQ_CFG_RO q) && s.board.pcie.relaxed)) ++ (if s.bit (F.DMA_DQ_CFG_RO q) = true ∧ x.sent + n = (s.hostBytes q r).length then [.hostRead (b.addr + x.sent % s.bufBytes q) 0] else []) ∧
      n ≤ 64 * 2 ^ min 6 (s.getF (F.DMA_CH_CFG_BURST ch)) ∧
      0 < n ∧ x.sent + n ≤ (s.hostBytes q r).length ∧ n ≤ 4096 ∧ (b.addr + x.sent % s.bufBytes q) % 4096 + n ≤ 4096 ∧ x.sent % s.bufBytes q + n ≤ s.bufBytes q ∧
      (t.queue q).sent = x.sent + n ∧ (t.queue q).cur = some (r.ctx, r.cseq) ∧
      (x.back = [] → t.reg (Reg.DMA_DQ_FREE_CONS q) = s.reg (Reg.DMA_DQ_FREE_CONS q) + (if x.taken.length ≤ x.sent / s.bufBytes q then 1 else 0)) ∧
      t.reg (Reg.DMA_CH_BURSTS ch) = BitVec.ofNat 32 (min (2 ^ 32 - 1) ((s.reg (Reg.DMA_CH_BURSTS ch)).toNat + 1)) ∧
      t.seg = s.seg) ∧
  (∀ (s : State) (data : List Byte) (ch q : Nat) (r : Record) (b : Taken) (n : Nat), s.burstsOpen = true →
    s.arbPick true = some ch → s.readyQueue ch = some q → s.nextBurst ch q = some (r, b, n) →
    s.bit F.MEM_STATUS_CHANGING = true →
    ∃ t, exec (.dmaBurstStart true data) s = .next t ∧
      t.out = s.out ∧ t.regs = s.regs ∧ t.seg = s.seg ∧ t.dma.queues = s.dma.queues ∧
      (t.chan ch).asked = some (q, ((s.queue q).facing r).sent)) ∧
  (∀ (s : State) (data : List Byte) (ch q n : Nat), s.burstsOpen = true → s.arbPick false = some ch → ch < 4 →
    s.prefetchQueues ch = [q] → (descsOf data).all (fun d => d.1 &&& 0x3F == 0) = true →
    n = ((descsOf data).take (s.prefetchCount ch q)).length → 16 ≤ data.length →
    ∃ t, exec (.dmaBurstStart false data) s = .next t ∧
      (t.queue q).ahead = (s.queue q).ahead ++ ((descsOf data).take n).map (fun d => (d.1.toNat, d.2)) ∧
      s.SameRegsBut t [Reg.DMA_CH_BURSTS ch]) ∧
  (∀ (s : State) (data : List Byte) (ch : Nat), s.burstsOpen = true → s.arbPick false = some ch → ch < 4 →
    data.length < 16 →
    exec (.dmaBurstStart false data) s = .fault (.illFormed "DMA_BURST_START")) ∧
  (∀ (s : State) (data : List Byte) (ch : Nat) (p : PacedReq) (l : List PacedReq) (n : Nat), s.burstsOpen = true →
    s.arbPick false = some ch → 4 ≤ ch → (s.chan ch).paced = p :: l ∧ (s.chan ch).gone = none →
    n = s.burstLen ch p.left 0 p.left p.addr → n ≤ data.length →
    ∃ t, exec (.dmaBurstStart false data) s = .next t ∧
      (p.left ≤ n → (t.chan ch).paced = l ∧ t.disp.lines = s.disp.lines ++ [(p.layer, p.line, p.got ++ data.take n)]) ∧
      (n < p.left → (t.chan ch).paced = { p with addr := p.addr + n, left := p.left - n, got := p.got ++ data.take n, started := true } :: l ∧ t.disp = s.disp) ∧
      t.out = s.out ++ (splitBy s.maxReadRequest n).map (fun i => .hostRead (p.addr + i.1) i.2) ∧ t.seg = s.seg) ∧
  (∀ (s : State) (data : List Byte) (ch : Nat) (p : PacedReq) (l : List PacedReq), s.burstsOpen = true →
    s.arbPick false = some ch → 4 ≤ ch → (s.chan ch).paced = p :: l ∧ (s.chan ch).gone = none →
    data.length < s.burstLen ch p.left 0 p.left p.addr →
    exec (.dmaBurstStart false data) s = .fault (.illFormed "DMA_BURST_START")) ∧
  (∀ (s : State) (data : List Byte) (ch : Nat) (p : PacedReq) (n : Nat), s.burstsOpen = true →
    s.arbPick false = some ch → 4 ≤ ch → (s.chan ch).gone = some p → n = s.burstLen ch p.left 0 p.left p.addr →
    ∃ t, exec (.dmaBurstStart false data) s = .next t ∧
      t.out = s.out ++ (splitBy s.maxReadRequest n).map (fun i => .hostRead (p.addr + i.1) i.2) ∧
      (t.chan ch).gone = none ∧ (t.chan ch).paced = (s.chan ch).paced ∧
      t.reg (Reg.DMA_CH_WITHDRAWN ch) = BitVec.ofNat 32 (min (2 ^ 32 - 1) ((s.reg (Reg.DMA_CH_WITHDRAWN ch)).toNat + 1)) ∧
      t.disp = s.disp ∧ t.seg = s.seg) ∧
  (∀ (s : State) (toHost : Bool) (data : List Byte), s.arbPick toHost = none ∨ s.burstsOpen = false →
    ∃ t, exec (.dmaBurstStart toHost data) s = .next t ∧ t = s) ∧
  (∀ (s : State) (q : Fin 64) (flushed : Bool), (s.queue q).flush ≠ none ∧ flushed = false →
    ∃ t, exec (.completionRecordWrite q flushed) s = .next t ∧ t = s) ∧
  (∀ (s : State) (q : Fin 64) (r : Record) (i : CompletionInfo) (flushed : Bool), s.queueRecord q = some r →
    flushed = true ∨ (s.queue q).flush = none → s.mayComplete q r = true →
    i = { phase := (s.reg (Reg.DMA_DQ_COMP_PROD q)).toNat / s.compEntries q % 2 == 0, reshuffle := s.reshuffleOf q r, bufs := (s.queue q).taken.length, bytes := (s.queue q).sent, freeIndex := ((s.queue q).taken.headD ⟨0, 0, 0⟩).index, tag := ((s.queue q).taken.headD ⟨0, 0, 0⟩).tag.toNat } →
    ∃ t, exec (.completionRecordWrite q flushed) s = .next t ∧
      t.out.take (s.out.length + 1) = s.out ++ [.hostWrite (s.get64 (Reg.DMA_DQ_COMP_BASE_LO q) + 64 * ((s.reg (Reg.DMA_DQ_COMP_PROD q)).toNat % s.compEntries q)) (s.completionBytes r false i) false] ∧
      (s.completionBytes r false i).length = 64 ∧
      t.reg (Reg.DMA_DQ_COMP_PROD q) = s.reg (Reg.DMA_DQ_COMP_PROD q) + 1 ∧
      (t.queue q).cur = none ∧ (t.queue q).unacked = (s.queue q).unacked ++ [(r.ctx, r.cseq)] ∧
      (∀ x ∈ t.seg.recs, x.ctx = r.ctx → x.cseq = r.cseq → x.host.visible = true)) ∧
  (∀ (s : State) (q : Fin 64), (s.queue q).coal ≠ 0 ∧ s.getF (F.DMA_DQ_COAL_TIME q) ≠ 0 →
    s.bit (F.DMA_MSIX_MASK (s.getF ⟨Reg.DMA_DQ_VECTOR q, 0, 6⟩)) = false ∧ s.board.d3hot = false →
    ∃ t, exec (.coalTimeExpiry q) s = .next t ∧
      t.out.length = s.out.length + 1 ∧ (match t.out.getLast? with | some (.msix v _ _) => v == s.getF ⟨Reg.DMA_DQ_VECTOR q, 0, 6⟩ | _ => false) = true ∧
      (t.queue q).coal = 0 ∧ t.regs = s.regs) ∧
  (∀ (s : State) (q : Fin 64), (s.queue q).coal ≠ 0 ∧ s.getF (F.DMA_DQ_COAL_TIME q) ≠ 0 →
    s.bit (F.DMA_MSIX_MASK (s.getF ⟨Reg.DMA_DQ_VECTOR q, 0, 6⟩)) = true ∨ s.board.d3hot = true →
    ∃ t, exec (.coalTimeExpiry q) s = .next t ∧ t.bit (F.DMA_PBA_BIT (s.getF ⟨Reg.DMA_DQ_VECTOR q, 0, 6⟩)) = true ∧
      (t.queue q).coal = 0 ∧ t.out = s.out ∧ s.SameRegsBut t pbaRegs)

/-- The engine writes into a completion-ring slot only while (COMP_PROD − COMP_CONS) mod 2^32 is below the ring's
entries. While the ring is full, COMPLETION_RECORD_WRITE changes nothing, so the queue's records wait in HANDED, and
a read of DQq.STATUS shows COMP_FULL; while it is not full, COMP_FULL reads 0. A COMP_CONS written in the same clock
is left out, since R330 gives it effect from the next. -/
def Obligations.FullCompletionRing : Prop :=
  (∀ (s : State) (q : Fin 64) (flushed : Bool), (s.queue q).consOld.map (·.1) ≠ some s.time.clk →
    s.compEntries q ≤ (s.reg (Reg.DMA_DQ_COMP_PROD q) - s.reg (Reg.DMA_DQ_COMP_CONS q)).toNat →
    ∃ t, exec (.completionRecordWrite q flushed) s = .next t ∧ t = s) ∧
  (∀ (s : State) (q : Fin 64), s.hostReaches = true → s.readOpen (Reg.DMA_DQ_STATUS q) = true →
    s.getF (F.DMA_DQ_CFG_COMP_LOG2 q) = 0 ∨ 6 ≤ s.getF (F.DMA_DQ_CFG_COMP_LOG2 q) →
    ∃ t, exec (.latchingRead (Reg.DMA_DQ_STATUS q) (.enables 0xF)) s = .next t ∧
      (match t.out.getLast? with | some (.readData o v) => o == Reg.DMA_DQ_STATUS q && v.getLsbD 2 == decide (2 ^ (if s.getF (F.DMA_DQ_CFG_COMP_LOG2 q) = 0 then 16 else s.getF (F.DMA_DQ_CFG_COMP_LOG2 q)) ≤ (s.reg (Reg.DMA_DQ_COMP_PROD q) - s.reg (Reg.DMA_DQ_COMP_CONS q)).toNat) | _ => false) = true ∧
      t.regs = s.regs ∧ t.out.length = s.out.length + 1)

/-- A bus error on a channel of 4 to 31 latches its address, direction and cause and halts that channel alone; one
on a PREFETCH channel stops every channel and names it. RESUME and RESTART act on a HALTED channel at the end of
their clock, and do nothing to a STOPPED one, also one of an all-stop in that clock; RESUME repeats the failing
burst or flush read, RESTART begins the record again. RESET is judged at the end of its clock: accepted in an
all-stop or with no channel active, and refused otherwise; its end clears ALL_STOP, discards descriptors and starts
each queue's record again in the buffers it had taken. A change of KIND or PERIPH is accepted on a quiet channel
alone; other fields change at once. -/
def Obligations.ChannelsAndBusErrors : Prop :=
  (∀ (s : State) (ch : Fin 32) (a : BitVec 64) (w : Bool) (cause : Fin 16), 4 ≤ ch.val →
    s.chanState ch = 1 ∨ s.chanState ch = 2 →
    ∃ t, exec (.busError ch a w cause) s = .next t ∧
      t.getF (F.DMA_CH_STATUS_STATE ch) = 3 ∧ t.bit (F.DMA_CH_STATUS_DIR ch) = w ∧ t.getF (F.DMA_CH_STATUS_CAUSE ch) = cause.val ∧
      t.get64 (Reg.DMA_CH_ERR_ADDR_LO ch) = a.toNat ∧
      t.bit F.DMA_EVENTS_HALT = true ∧ t.bit F.FLT_CLASS_DMA_HALT = true ∧
      (∀ n : Fin 32, n ≠ ch → t.getF (F.DMA_CH_STATUS_STATE n) = s.getF (F.DMA_CH_STATUS_STATE n)) ∧
      s.SameRegsBut t (Reg.DMA_CH_STATUS ch :: Reg.DMA_CH_ERR_ADDR_LO ch :: Reg.DMA_CH_ERR_ADDR_HI ch :: Reg.DMA_EVENTS :: Reg.FLT_CLASS :: pbaRegs) ∧
      t.dma = s.dma ∧ t.seg = s.seg ∧ t.board = { s.board with aer := s.board.aer ||| aerBit cause }) ∧
  (∀ (s : State) (ch : Fin 4) (a : BitVec 64) (cause : Fin 16), s.bit F.DMA_STATUS_ALL_STOP = false →
    ∃ t, exec (.allStop ch a cause) s = .next t ∧
      t.bit F.DMA_STATUS_ALL_STOP = true ∧ t.getF F.DMA_STATUS_STOP_CHANNEL = ch.val ∧
      (∀ n : Fin 32, t.getF (F.DMA_CH_STATUS_STATE n) = 4) ∧
      t.bit F.DMA_EVENTS_ALL_STOP = true ∧ t.bit F.FLT_CLASS_DMA_ALL_STOP = true ∧
      t.getF (F.DMA_CH_STATUS_CAUSE ch) = cause.val ∧ t.get64 (Reg.DMA_CH_ERR_ADDR_LO ch) = a.toNat ∧
      t.dma = s.dma ∧ t.seg = s.seg) ∧
  (∀ (s : State) (ch : Fin 32) (q n : Nat), s.takesWrite (Reg.DMA_CH_CTRL ch) = true →
    s.getF (F.DMA_CH_STATUS_STATE ch) = 3 → s.bit (F.DMA_CH_STATUS_DIR ch) = true → s.chanKind ch ≠ 2 →
    (s.chan ch).last = some (q, n) → (s.queue q).cur ≠ none → n ≤ (s.queue q).sent →
    s.dma.ctrlReq = [] ∧ s.dma.resetReq = false ∧ s.bit F.DMA_STATUS_ALL_STOP = false →
    ∃ t, exec (.resume ch) s = .next t ∧ t.dmaSettle.chanHeld ch = false ∧
      t.dmaSettle.queue q = { s.queue q with sent := n, flush := none } ∧
      s.SameRegsBut t.dmaSettle [Reg.DMA_CH_STATUS ch]) ∧
  (∀ (s : State) (ch : Fin 32) (q a : Nat), s.takesWrite (Reg.DMA_CH_CTRL ch) = true →
    s.getF (F.DMA_CH_STATUS_STATE ch) = 3 → s.bit (F.DMA_CH_STATUS_DIR ch) = false → s.chanKind ch ≠ 2 →
    s.chanQueues ch = [q] → (s.queue q).flush = some a ∧ s.get64 (Reg.DMA_CH_ERR_ADDR_LO ch) = a →
    s.dma.ctrlReq = [] ∧ s.dma.resetReq = false ∧ s.bit F.DMA_STATUS_ALL_STOP = false →
    ∃ t, exec (.resume ch) s = .next t ∧ t.dmaSettle.out = s.out ++ [.hostRead a 0] ∧
      t.dmaSettle.chanHeld ch = false ∧ t.dmaSettle.queue q = s.queue q) ∧
  (∀ (s : State) (ch : Fin 32) (q n : Nat), s.takesWrite (Reg.DMA_CH_CTRL ch) = true →
    s.getF (F.DMA_CH_STATUS_STATE ch) = 3 → s.chanKind ch ≠ 2 → (s.chan ch).last = some (q, n) →
    (s.queue q).cur ≠ none → s.dma.ctrlReq = [] ∧ s.dma.resetReq = false ∧ s.bit F.DMA_STATUS_ALL_STOP = false →
    ∃ t, exec (.restart ch) s = .next t ∧ t.dmaSettle.chanHeld ch = false ∧
      t.dmaSettle.queue q = { s.queue q with sent := 0, flush := none } ∧
      s.SameRegsBut t.dmaSettle [Reg.DMA_CH_STATUS ch]) ∧
  (∀ (s : State) (ch : Fin 32) (again : Bool), s.takesWrite (Reg.DMA_CH_CTRL ch) = true →
    s.getF (F.DMA_CH_STATUS_STATE ch) ≠ 3 → s.dma.ctrlReq = [] ∧ s.dma.resetReq = false →
    ∃ t, exec ((if again then .restart ch else .resume ch)) s = .next t ∧ t.regs = s.regs ∧ t.seg = s.seg ∧
      t.dmaSettle.regs = s.regs ∧ t.dmaSettle.dma.queues = s.dma.queues) ∧
  (∀ (s : State) (t : State), s.bit F.DMA_STATUS_ALL_STOP = true ∧ s.dma.resetReq = false → t = s.dmaSettle →
    t.regs = s.regs ∧ t.seg = s.seg ∧ t.dma.queues = s.dma.queues ∧ t.dma.ctrlReq = []) ∧
  (∀ (s : State), s.takesWrite Reg.DMA_CTRL = true →
    ∃ t, exec (.dmaReset) s = .next t ∧ t.dma = { s.dma with resetReq := true } ∧ t.regs = s.regs) ∧
  (∀ (s : State) (t : State), s.dma.resetReq = true ∧ s.dma.ctrlReq = [] → t = s.dmaSettle →
    (s.bit F.DMA_STATUS_ALL_STOP = true ∨ (∀ n : Fin 32, s.chanState n ≠ 2 ∧ s.chanState n ≠ 4) → t.bit F.DMA_STATUS_RESETTING = true ∧ s.SameRegsBut t [Reg.DMA_STATUS]) ∧
    (s.bit F.DMA_STATUS_ALL_STOP = false → (∃ n : Fin 32, s.chanState n = 2) → t.bit F.DMA_EVENTS_RESET_REFUSED = true ∧ s.SameRegsBut t (Reg.DMA_EVENTS :: pbaRegs)) ∧
    t.dma.resetReq = false ∧ t.dma.queues = s.dma.queues) ∧
  (∀ (s : State), s.bit F.DMA_STATUS_RESETTING = true →
    ∃ t, exec (.dmaResetDone) s = .next t ∧ t.bit F.DMA_STATUS_RESETTING = false ∧ t.bit F.DMA_STATUS_ALL_STOP = false ∧
      (∀ n : Fin 32, t.chanHeld n = false) ∧
      (∀ q : Fin 64, t.queue q = { s.queue q with ahead := [], sent := 0, flush := none }) ∧
      (∀ q : Fin 64, t.reg (Reg.DMA_DQ_COMP_CONS q) = s.reg (Reg.DMA_DQ_COMP_CONS q) ∧ t.reg (Reg.DMA_DQ_FREE_PROD q) = s.reg (Reg.DMA_DQ_FREE_PROD q)) ∧
      t.seg = s.seg) ∧
  (∀ (s : State) (ch : Fin 32) (v : Word), s.takesWrite (Reg.DMA_CH_CFG ch) = true → 4 ≤ ch.val →
    (v ^^^ s.reg (Reg.DMA_CH_CFG ch)) &&& 0x3F000003 = 0 → v &&& maskAt (Reg.DMA_CH_CFG ch) = v → fieldOf v 0 2 ≠ 3 →
    ∃ t, exec (.dmaChCfgWrite ch v) s = .next t ∧ t.reg (Reg.DMA_CH_CFG ch) = v ∧ s.SameRegsBut t [Reg.DMA_CH_CFG ch]) ∧
  (∀ (s : State) (ch : Fin 32) (v : Word), s.takesWrite (Reg.DMA_CH_CFG ch) = true → 4 ≤ ch.val →
    (v ^^^ s.reg (Reg.DMA_CH_CFG ch)) &&& 0x3F000003 ≠ 0 → v &&& maskAt (Reg.DMA_CH_CFG ch) = v → fieldOf v 0 2 ≠ 3 →
    ∃ t, exec (.dmaChCfgWrite ch v) s = .next t ∧
      (s.chanState ch < 2 ∧ s.chanQueues ch = [] ∧ (s.chan ch).paced = [] → t.reg (Reg.DMA_CH_CFG ch) = v ∧ s.SameRegsBut t [Reg.DMA_CH_CFG ch]) ∧
      (¬(s.chanState ch < 2 ∧ s.chanQueues ch = [] ∧ (s.chan ch).paced = []) → t.bit F.DMA_EVENTS_CH_CFG_REFUSED = true ∧ s.SameRegsBut t (Reg.DMA_EVENTS :: pbaRegs))) ∧
  (∀ (s : State) (n : Fin 32) (line : Nat) (scan : Option Nat) (l : Nat), s.operational = true ∧ s.chanKind n = 2 →
    l = s.getF (F.DMA_CH_CFG_PERIPH n) → l = 1 ∨ l = 2 → s.bit (F.DISP_LAYER_STATUS_ENABLED l) = true →
    line < fieldOf (s.dispEff (Reg.DISP_LAYER_SIZE l)) 16 13 → (s.chan n).paced = [] →
    s.disp.lines.any (fun p => p.1 == l && p.2.1 == line) = false → scan.all (fun a => decide (line ≤ a + 8)) = true →
    ∃ t, exec (.pacedRequest n line scan) s = .next t ∧
      (t.chan n).paced.map (fun p => (p.layer, p.line, p.started)) = [(l, line, false)] ∧
      (t.chan n).paced.map (·.addr) = [(s.dispEff (Reg.DISP_LAYER_ADDR_LO l)).toNat + 2 ^ 32 * (s.dispEff (Reg.DISP_LAYER_ADDR_HI l)).toNat + line * fieldOf (s.dispEff (Reg.DISP_LAYER_STRIDE l)) 0 20] ∧
      t.bit (F.DISP_LAYER_STATUS_FETCH_IDLE l) = false ∧ s.SameRegsBut t [Reg.DISP_LAYER_STATUS l])

/-- A PACED request withdrawn before its burst starts leaves the channel's list and has no other effect: the channel
keeps it to the end of the clock only, since R330 lets its burst start in that clock. One withdrawn after its burst
has started keeps what the burst moved, which completed with the burst's own command, and counts in CHn.WITHDRAWN. -/
def Obligations.PacedWithdrawals : Prop :=
  (∀ (s : State) (n : Fin 32) (p : PacedReq) (l : List PacedReq), (s.chan n).paced = p :: l →
    ∃ t, exec (.pacedWithdraw n) s = .next t ∧ (t.chan n).paced = l ∧
      (p.started = false → t = s.setChan n { s.chan n with paced := l, gone := some p }) ∧
      (p.started = true → t.reg (Reg.DMA_CH_WITHDRAWN n) = BitVec.ofNat 32 (min (2 ^ 32 - 1) ((s.reg (Reg.DMA_CH_WITHDRAWN n)).toNat + 1)) ∧ s.SameRegsBut t [Reg.DMA_CH_WITHDRAWN n]) ∧
      t.disp = s.disp ∧ t.seg = s.seg ∧ t.out = s.out) ∧
  (∀ (s : State) (t : State), s.dma.resetReq = false ∧ s.dma.ctrlReq = [] → t = s.dmaSettle →
    (∀ n : Fin 32, t.chan n = { s.chan n with gone := none }) ∧
    t.regs = s.regs ∧ t.disp = s.disp ∧ t.seg = s.seg ∧ t.out = s.out)

/-- A frame starts only when LIMIT, as the clock found it, minus SENT covers its units; it is exactly that many
64-byte units long, and SENT moves on by them. Without that credit nothing happens. A frame that reads the store
waits while the memory changes its point. A frame that has started completes whatever the credit, and behind the END
of a record that was overwritten meanwhile its GAP frame is next. CREDIT moves LIMIT forward by less than 2^31; any
other is ignored and sets CTL_IGNORED. -/
def Obligations.StreamCredit : Prop :=
  (∀ (s : State) (r : Record) (k : Nat) (b : Bolt), s.nextFrame = some (r, k) → b = s.boltOf r k →
    boltUnits b.payload.length ≤ (s.limitSeen - s.reg Reg.STRM_SENT).toNat →
    s.bit F.MEM_STATUS_CHANGING = false ∨ (k ≠ 0 ∧ s.lastFrame r k = true) →
    ∃ t, exec (.streamFrameStart) s = .next t ∧
      t.out = s.out ++ [.boltFrame b.bytes] ∧ b.bytes.length = 64 * boltUnits b.payload.length ∧
      t.reg Reg.STRM_SENT = s.reg Reg.STRM_SENT + BitVec.ofNat 32 (boltUnits b.payload.length) ∧ t.reg Reg.STRM_FSEQ_NEXT = BitVec.ofNat 32 (b.fseq + 1) ∧
      t.bit F.STRM_STATUS_STALLED = false ∧
      (if s.lastFrame r k then t.strm.flying = true ∧ t.strm.frame = s.strm.frame else t.strm.flying = s.strm.flying ∧ t.strm.frame = k + 1) ∧
      s.SameRegsBut t [Reg.STRM_SENT, Reg.STRM_FSEQ_NEXT, Reg.STRM_STATUS, Reg.STRM_RESENT] ∧ t.seg = s.seg) ∧
  (∀ (s : State) (r : Record) (k : Nat), s.nextFrame = some (r, k) →
    (s.limitSeen - s.reg Reg.STRM_SENT).toNat < boltUnits (s.boltOf r k).payload.length →
    ∃ t, exec (.streamFrameStart) s = .next t ∧ t = s) ∧
  (∀ (s : State) (r : Record), s.strm.flying = true ∧ s.strm.resend = none →
    r.stream.gap = none ∨ (s.boltOf r s.strm.frame).kind ≠ 2 → s.recAt true s.strm.gseq = some r →
    r.stream.visible = false →
    ∃ t, exec (.streamFrameSent) s = .next t ∧
      t.strm.flying = false ∧ t.strm.frame = 0 ∧ t.strm.gseq = max (s.strm.gseq + 1) (s.get64 Reg.STRM_ACKED_LO) ∧
      s.strm.gseq + 1 ≤ t.strm.visible ∧ (∀ x ∈ t.seg.recs, x.ctx = r.ctx → x.cseq = r.cseq → x.stream.visible = true)) ∧
  (∀ (s : State) (r : Record), s.strm.flying = true ∧ s.strm.resend = none → s.recAt true s.strm.gseq = some r →
    r.stream.visible = false ∧ r.stream.gap.isSome = true ∧ (s.boltOf r s.strm.frame).kind = 2 →
    ∃ t, exec (.streamFrameSent) s = .next t ∧
      t.strm.flying = false ∧ t.strm.gseq = s.strm.gseq ∧ t.strm.frame = s.strm.frame + 1 ∧
      t.seg = s.seg ∧ t.regs = s.regs) ∧
  (∀ (s : State) (r : Record) (k : Nat), s.nextFrame = some (r, k) →
    s.bit F.MEM_STATUS_CHANGING = true ∧ (k = 0 ∨ s.lastFrame r k = false) →
    ∃ t, exec (.streamFrameStart) s = .next t ∧ t.out = s.out ∧ t.regs = s.regs ∧ t.seg = s.seg ∧
      t.strm.frame = s.strm.frame ∧ t.strm.flying = s.strm.flying) ∧
  (∀ (s : State) (f : CtlFrame) (limit : Word), s.getF F.STRM_STATUS_STATE = 3 →
    f.errors.all (· == 0) = true ∧ f.corrected = 0 →
    ∃ t, exec (.credit f limit) s = .next t ∧
      ((limit - s.reg Reg.STRM_LIMIT).toNat < 2 ^ 31 → t.reg Reg.STRM_LIMIT = limit ∧ s.SameRegsBut t [Reg.STRM_LIMIT, Reg.STRM_STATUS]) ∧
      (2 ^ 31 ≤ (limit - s.reg Reg.STRM_LIMIT).toNat → t.bit F.STRM_EVENTS_CTL_IGNORED = true ∧ s.SameRegsBut t [Reg.STRM_EVENTS]) ∧
      t.out = s.out ∧ t.seg = s.seg)

/-- ACK moves the acknowledgement point forward within what is VISIBLE; any other sets CTL_IGNORED. A bad control
frame is counted and discarded. RESEND of a frame sent and not acknowledged goes back, at the end of its clock, to
the first frame of its record; a link lost by then leaves it without effect. A control frame reads back from its
bytes. HELLO within its bounds brings the link up at record g with SENT zero, and any other changes nothing. A link
that goes down is STALLED and retrains. An uncorrectable codeword of the return lane is counted. -/
def Obligations.StreamPort : Prop :=
  (∀ (s : State) (f : CtlFrame) (k : Fin 4) (x : Word) (g : BitVec 64), 2 ≤ s.getF F.STRM_STATUS_STATE →
    f.corrected = 0 →
    receivedCtl f ([ctlBolt 0x8 x.toNat 0 0, ctlBolt 0x9 0 0 g.toNat, ctlBolt 0xA x.toNat 0 0, ctlBolt 0xB 0 x.toNat g.toNat].getD k.val (ctlBolt 0x8 x.toNat 0 0)) = none →
    ∃ t, exec (([Instr.credit f x, Instr.ack f g, Instr.resend f x, Instr.hello f g x].getD k.val (Instr.credit f x))) s = .next t ∧
      t.reg Reg.STRM_CTL_BAD = BitVec.ofNat 32 (min (2 ^ 32 - 1) ((s.reg Reg.STRM_CTL_BAD).toNat + 1)) ∧
      s.SameRegsBut t [Reg.STRM_CTL_BAD] ∧ s.RestSameButMarks t) ∧
  (∀ (s : State) (f : CtlFrame) (g : BitVec 64) (r : Record), s.getF F.STRM_STATUS_STATE = 3 →
    f.errors.all (· == 0) = true ∧ f.corrected = 0 → s.get64 Reg.STRM_ACKED_LO < g.toNat ∧ g.toNat ≤ s.strm.visible →
    s.seg.recs = [r] →
    r.state = .handed ∧ r.stream.wanted = true ∧ r.host.wanted = true ∧ r.host.acked = false ∧ r.stream.gseq = some (g.toNat - 1) →
    ∃ t, exec (.ack f g) s = .next t ∧ t.get64 Reg.STRM_ACKED_LO = g.toNat ∧
      t.seg.recs.map (fun x => (x.cseq, x.stream.acked)) = [(r.cseq, true)] ∧
      (g.toNat ≤ s.strm.gseq → t.strm.gseq = s.strm.gseq ∧ t.reg Reg.STRM_FSEQ_NEXT = s.reg Reg.STRM_FSEQ_NEXT) ∧
      (s.strm.gseq < g.toNat → s.strm.flying = false → t.strm.gseq = g.toNat ∧ t.strm.frame = 0)) ∧
  (∀ (s : State) (f : CtlFrame) (g : BitVec 64), s.getF F.STRM_STATUS_STATE = 3 →
    f.errors.all (· == 0) = true ∧ f.corrected = 0 → g.toNat ≤ s.get64 Reg.STRM_ACKED_LO ∨ s.strm.visible < g.toNat →
    ∃ t, exec (.ack f g) s = .next t ∧ t.bit F.STRM_EVENTS_CTL_IGNORED = true ∧ s.SameRegsBut t [Reg.STRM_EVENTS] ∧
      t.strm = s.strm ∧ t.seg = s.seg) ∧
  (∀ (s : State) (f : CtlFrame) (n : Word) (g fs : Nat) (l : List Bolt), s.getF F.STRM_STATUS_STATE = 3 →
    f.errors.all (· == 0) = true ∧ f.corrected = 0 → s.strm.starts = [(g, fs, l)] ∧ s.strm.resendReq = [] →
    ∃ t, exec (.resend f n) s = .next t ∧ t.regs = s.regs ∧ t.seg = s.seg ∧
      ((n - BitVec.ofNat 32 fs).toNat < l.length → t.strmSettle.bit F.STRM_EVENTS_RESEND = true ∧ (if s.strm.flying then t.strmSettle.strm = { s.strm with resend := some g } else t.strmSettle.strm = { s.strm with gseq := g, frame := 0 } ∧ t.strmSettle.reg Reg.STRM_FSEQ_NEXT = BitVec.ofNat 32 fs)) ∧
      (l.length ≤ (n - BitVec.ofNat 32 fs).toNat → t.strmSettle = s)) ∧
  (∀ (s : State) (t : State), s.getF F.STRM_STATUS_STATE ≠ 3 → t = s.strmSettle →
    t.regs = s.regs ∧ t.seg = s.seg ∧ t.strm = { s.strm with resendReq := [] }) ∧
  (∀ (kind fseq offset gseq : Nat), kind < 256 ∧ fseq < 2 ^ 32 ∧ offset < 2 ^ 32 ∧ gseq < 2 ^ 64 →
    ctlOf (ctlBolt kind fseq offset gseq).bytes = some (ctlBolt kind fseq offset gseq)) ∧
  (∀ (s : State) (f : CtlFrame) (g : BitVec 64) (limit : Word), s.getF F.STRM_STATUS_STATE = 2 →
    f.errors.all (· == 0) = true ∧ f.corrected = 0 → s.get64 Reg.STRM_ACKED_LO ≤ g.toNat ∧ g.toNat ≤ s.strm.visible →
    ∃ t, exec (.hello f g limit) s = .next t ∧
      t.getF F.STRM_STATUS_STATE = 3 ∧ t.bit F.STRM_STATUS_STALLED = false ∧ t.bit F.STRM_EVENTS_LINK_UP = true ∧
      t.reg Reg.STRM_SENT = 0 ∧ t.reg Reg.STRM_LIMIT = limit ∧ t.get64 Reg.STRM_ACKED_LO = g.toNat ∧
      t.strm.gseq = g.toNat ∧ t.strm.frame = 0 ∧ t.strm.flying = false) ∧
  (∀ (s : State) (f : CtlFrame) (g : BitVec 64) (limit : Word), s.getF F.STRM_STATUS_STATE = 2 →
    f.errors.all (· == 0) = true ∧ f.corrected = 0 → g.toNat < s.get64 Reg.STRM_ACKED_LO ∨ s.strm.visible < g.toNat →
    ∃ t, exec (.hello f g limit) s = .next t ∧ t = s) ∧
  (∀ (s : State), 2 ≤ s.getF F.STRM_STATUS_STATE →
    ∃ t, exec (.streamLinkDown) s = .next t ∧
      t.getF F.STRM_STATUS_STATE = 1 ∧ t.bit F.STRM_STATUS_STALLED = true ∧ t.bit F.STRM_EVENTS_LINK_DOWN = true ∧
      (s.bit F.STRM_STATUS_STALLED = false → t.bit F.STRM_EVENTS_STALL = true ∧ t.bit F.FLT_CLASS_STREAM_STALL = true) ∧
      s.SameRegsBut t (Reg.STRM_STATUS :: Reg.STRM_EVENTS :: Reg.FLT_CLASS :: pbaRegs) ∧ t.seg = s.seg) ∧
  (∀ (s : State), s.getF F.STRM_STATUS_STATE = 1 ∧ s.bit F.STRM_CTRL_EN = true →
    ∃ t, exec (.streamRetrained) s = .next t ∧ t.getF F.STRM_STATUS_STATE = 2 ∧ s.SameRegsBut t [Reg.STRM_STATUS] ∧
      s.RestSame t) ∧
  (∀ (s : State) (r : Record) (k : Nat), s.nextFrame = some (r, k) →
    (s.reg Reg.STRM_LIMIT - s.reg Reg.STRM_SENT).toNat < boltUnits (s.boltOf r k).payload.length →
    s.bit F.STRM_STATUS_STALLED = false →
    ∃ t, exec (.stall) s = .next t ∧
      t.bit F.STRM_STATUS_STALLED = true ∧ t.bit F.STRM_EVENTS_STALL = true ∧ t.bit F.FLT_CLASS_STREAM_STALL = true ∧
      t.getF F.STRM_STATUS_STATE = s.getF F.STRM_STATUS_STATE ∧
      s.SameRegsBut t (Reg.STRM_STATUS :: Reg.STRM_EVENTS :: Reg.FLT_CLASS :: pbaRegs)) ∧
  (∀ (s : State), 2 ≤ s.getF F.STRM_STATUS_STATE →
    ∃ t, exec (.rxFecUncorrectable) s = .next t ∧
      t.reg Reg.STRM_FEC_UNCORR = BitVec.ofNat 32 (min (2 ^ 32 - 1) ((s.reg Reg.STRM_FEC_UNCORR).toNat + 1)) ∧
      s.SameRegsBut t [Reg.STRM_FEC_UNCORR] ∧ s.RestSameButMarks t)

/-- EN starts the link: it trains when HPD is high and waits for HPD otherwise; LANES 3 and RATE above 3 refuse EN,
and fields other than EN are discarded while EN is 1. Training ends in a black frame or in TRAIN_FAIL. Loss of HPD
stops the output, and its return trains again; an HPD pulse only sets its event. A timing set that breaks a rule of
R350 is refused, and one that keeps them all is pending. One AUX transaction runs at a time and ends with the sink's
result. A write of the cursor page in effect is discarded and sets CURSOR_BUSY. A vertical blank completes with
whatever display data were late: while frames are sent it counts the frame, and a shadow written in an earlier clock
takes effect unless LOCK is 1; while none is sent it changes nothing. -/
def Obligations.DisplayLink : Prop :=
  (∀ (s : State) (v : Word), s.takesWrite Reg.DISP_CTRL = true → s.bit F.DISP_CTRL_EN = false →
    fieldOf v 16 2 ≠ 3 ∧ fieldOf v 8 3 ≤ 3 →
    ∃ t, exec (.dispEn v) s = .next t ∧ t.reg Reg.DISP_CTRL = (v ||| 0x80000000) &&& maskAt Reg.DISP_CTRL ∧
      t.getF F.DISP_STATUS_STATE = (if s.bit F.DISP_STATUS_HPD then 2 else 1) ∧
      s.SameRegsBut t [Reg.DISP_CTRL, Reg.DISP_STATUS] ∧ t.disp = s.disp) ∧
  (∀ (s : State) (v : Word), s.takesWrite Reg.DISP_CTRL = true → s.bit F.DISP_CTRL_EN = false →
    fieldOf v 16 2 = 3 ∨ 3 < fieldOf v 8 3 →
    ∃ t, exec (.dispEn v) s = .next t ∧
      t.bit F.DISP_CTRL_EN = false ∧ t.getF F.DISP_STATUS_STATE = s.getF F.DISP_STATUS_STATE ∧
      s.SameRegsBut t [Reg.DISP_CTRL]) ∧
  (∀ (s : State) (v : Word), s.takesWrite Reg.DISP_CTRL = true → s.bit F.DISP_CTRL_EN = true →
    ∃ t, exec (.dispEn v) s = .next t ∧ t.reg Reg.DISP_CTRL = s.reg Reg.DISP_CTRL ∧
      ((v ^^^ s.reg Reg.DISP_CTRL) &&& maskAt Reg.DISP_CTRL &&& 0x7FFFFFFF = 0 → s.reg Reg.DISP_CTRL &&& ~~~maskAt Reg.DISP_CTRL = 0 → t.regs = s.regs) ∧
      ((v ^^^ s.reg Reg.DISP_CTRL) &&& maskAt Reg.DISP_CTRL &&& 0x7FFFFFFF ≠ 0 → s.reg Reg.DISP_CTRL &&& ~~~maskAt Reg.DISP_CTRL = 0 → t.bit F.FLT_HOST_DISP_BUSY = true ∧ s.SameRegsBut t (Reg.FLT_HOST :: pbaRegs))) ∧
  (∀ (s : State), s.takesWrite Reg.DISP_CTRL = true → s.bit F.DISP_CTRL_EN = true →
    s.reg Reg.DISP_CTRL &&& ~~~maskAt Reg.DISP_CTRL = 0 →
    ∃ t, exec (.dispStop) s = .next t ∧ t.bit F.DISP_CTRL_EN = false ∧ t.getF F.DISP_STATUS_STATE = 0 ∧
      (∀ n : Fin 4, t.layerOn n = false) ∧ t.disp.displaced = [] ∧ t.disp.lines = []) ∧
  (∀ (s : State), s.dispRuns = true →
    ∃ t, exec (.hpdAssert) s = .next t ∧ t.bit F.DISP_STATUS_HPD = true ∧
      t.getF F.DISP_STATUS_STATE = (if s.getF F.DISP_STATUS_STATE = 1 then 2 else s.getF F.DISP_STATUS_STATE) ∧
      s.SameRegsBut t [Reg.DISP_STATUS]) ∧
  (∀ (s : State), s.dispRuns = true → s.getF F.DISP_STATUS_STATE ≠ 0 →
    ∃ t, exec (.hpdLost) s = .next t ∧
      t.bit F.DISP_STATUS_HPD = false ∧ t.getF F.DISP_STATUS_STATE = 1 ∧ t.bit F.DISP_EVENTS_HPD_LOST = true ∧
      (∀ n : Fin 4, t.layerOn n = false) ∧ t.bit F.DISP_CTRL_EN = s.bit F.DISP_CTRL_EN) ∧
  (∀ (s : State), s.dispRuns = true →
    ∃ t, exec (.hpdIrq) s = .next t ∧ t.bit F.DISP_EVENTS_HPD_IRQ = true ∧ s.SameRegsBut t (Reg.DISP_EVENTS :: pbaRegs) ∧
      t.disp = s.disp) ∧
  (∀ (s : State) (ok : Bool), s.dispRuns = true → s.getF F.DISP_STATUS_STATE = 2 →
    ∃ t, exec (.trainingDone ok) s = .next t ∧ (ok = true → t.getF F.DISP_STATUS_STATE = 3) ∧
      (ok = true → (∀ p, s.disp.pendTiming = some p → t.disp.timing = p ∧ t.disp.pendTiming = none)) ∧
      (ok = false → t.getF F.DISP_STATUS_STATE = 5 ∧ t.bit F.DISP_EVENTS_TRAIN_FAIL = true ∧ t.disp = s.disp)) ∧
  (∀ (s : State), s.takesWrite Reg.DISP_TIMING_COMMIT = true → s.timingOk s.timingSet = true →
    s.getF F.DISP_STATUS_STATE ≠ 3 ∨ s.hActive ≠ 0 →
    ∃ t, exec (.timingCommit) s = .next t ∧
      t.disp = { s.disp with pendTiming := some s.timingSet, wrote := if s.disp.pendTiming = none then (Reg.DISP_TIMING_COMMIT, 0) :: s.disp.wrote else s.disp.wrote } ∧
      t.regs = s.regs) ∧
  (∀ (s : State) (pix bpc : Nat), s.takesWrite Reg.DISP_TIMING_COMMIT = true → pix = s.getF ⟨Reg.DISP_PIXCLK, 0, 20⟩ →
    bpc = (if s.bit F.DISP_CTRL_BPC6 then 6 else 8) →
    s.getF ⟨Reg.DISP_H_TIMING0, 0, 13⟩ < 320 ∨ 3840 < s.getF ⟨Reg.DISP_H_TIMING0, 0, 13⟩ ∨ s.getF ⟨Reg.DISP_V_TIMING0, 0, 13⟩ < 200 ∨ 2160 < s.getF ⟨Reg.DISP_V_TIMING0, 0, 13⟩ ∨ s.getF ⟨Reg.DISP_H_TIMING0, 16, 13⟩ = 0 ∨ s.getF ⟨Reg.DISP_H_TIMING1, 16, 13⟩ = 0 ∨ s.getF ⟨Reg.DISP_H_TIMING1, 0, 13⟩ = 0 ∨ s.getF ⟨Reg.DISP_V_TIMING0, 16, 13⟩ = 0 ∨ s.getF ⟨Reg.DISP_V_TIMING1, 16, 13⟩ = 0 ∨ s.getF ⟨Reg.DISP_V_TIMING1, 0, 13⟩ = 0 ∨ pix < 25000 ∨ 600000 < pix ∨ 78 * s.linkKbps < pix * 3 * bpc * 100 →
    ∃ t, exec (.timingCommit) s = .next t ∧ t.bit F.DISP_EVENTS_TIMING_REFUSED = true ∧ t.disp = s.disp ∧
      s.SameRegsBut t (Reg.DISP_EVENTS :: pbaRegs)) ∧
  (∀ (s : State), s.dispRuns = true ∧ s.disp.relock = true ∧ s.bit F.CLK_STATUS_REF_PRESENT = true →
    ∃ t, exec (.pixclkRelocked) s = .next t ∧ t.disp = { s.disp with relock := false } ∧ t.pllState .ppll = pllLocked) ∧
  (∀ (s : State) (v : Word), s.takesWrite Reg.DISP_AUX_CMD = true → v.getLsbD 31 = true ∧ fieldOf v 28 3 ≤ 3 →
    ∃ t, exec (.auxCmd v) s = .next t ∧
      (s.bit F.DISP_AUX_STATUS_BUSY = true → t.regs = s.regs ∧ t.disp = s.disp ∧ t.out.length = s.out.length) ∧
      (s.bit F.DISP_AUX_STATUS_BUSY = false → t.bit F.DISP_AUX_STATUS_BUSY = true ∧ t.disp.auxCmd = some v ∧ s.SameRegsBut t [Reg.DISP_AUX_STATUS])) ∧
  (∀ (s : State) (r : Fin 4) (data : List Byte) (v : Word), s.disp.auxCmd = some v →
    ∃ t, exec (.auxDone r data) s = .next t ∧
      t.bit F.DISP_AUX_STATUS_BUSY = false ∧ t.getF F.DISP_AUX_STATUS_RESULT = r.val ∧ t.disp.auxCmd = none ∧
      ((fieldOf v 28 1 = 0 ∨ r ≠ 0) → s.SameRegsBut t [Reg.DISP_AUX_STATUS]) ∧
      (fieldOf v 28 1 = 1 → r = 0 → data.length = 1 → fieldOf v 24 4 = 0 → t.reg (Reg.DISP_AUX_DATA 0) = (s.reg (Reg.DISP_AUX_DATA 0) &&& 0xFFFFFF00) ||| (data.headD 0).zeroExtend 32 ∧ t.reg (Reg.DISP_AUX_DATA 3) = s.reg (Reg.DISP_AUX_DATA 3))) ∧
  (∀ (s : State), s.takesWrite Reg.DISP_LUT_COMMIT = true →
    ∃ t, exec (.lutCommit) s = .next t ∧
      t.disp = (if s.disp.wrote.any (fun p => p.1 == Reg.DISP_LUT_COMMIT) then s.disp else { s.disp with lutPending := true, wrote := (Reg.DISP_LUT_COMMIT, if s.disp.lutPending then 1 else 0) :: s.disp.wrote }) ∧
      t.regs = s.regs) ∧
  (∀ (s : State) (page : Bool) (i : Fin 4096) (v : Word), s.takesWrite (Reg.DISP_CURSOR (4096 * page.toNat + i)) = true →
    ∃ t, exec (.cursorPageWrite page i v) s = .next t ∧
      (s.effF (Reg.DISP_LAYER_CFG 3) 2 1 = page.toNat → t.bit F.DISP_EVENTS_CURSOR_BUSY = true ∧ s.SameRegsBut t (Reg.DISP_EVENTS :: pbaRegs)) ∧
      (s.effF (Reg.DISP_LAYER_CFG 3) 2 1 ≠ page.toNat → t.reg (Reg.DISP_CURSOR (4096 * page.toNat + i)) = v ∧ s.SameRegsBut t [Reg.DISP_CURSOR (4096 * page.toNat + i)])) ∧
  (∀ (s : State) (late : FrameLate) (o : Nat), s.sendsFrames = true → dispShadows.contains o = true →
    s.disp.wrote.all (fun p => p.1 != o) = true →
    ∃ t, exec (.verticalBlank late) s = .next t ∧ t.reg Reg.DISP_FRAME_COUNT = s.reg Reg.DISP_FRAME_COUNT + 1 ∧
      t.dispEff o = (if s.bit F.DISP_LOCK_LOCK then s.dispEff o else s.reg o)) ∧
  (∀ (s : State) (late : FrameLate), s.sendsFrames = false →
    ∃ t, exec (.verticalBlank late) s = .next t ∧ t = s)

/-- At a blank every shadow takes effect that was not written in its clock, and none while LOCK is 1. A black frame
is counted in CRC_VOID, compares nothing and gives way to pictures; a pending timing brings another. The buffer
displaced at the blank before is handed back (at a blank that also brings a new address RELEASED stays set by
choice, log 125), a new address with none to hand back clears RELEASED, and it displaces the one in effect. A
rectangle compared writes its CRC, and sets or clears its bit as the CRC differs from EXPECT. Blending keeps each
channel within 0 to 255, takes the layer at full alpha and what lies beneath at none; the logarithmic index is
exact. -/
def Obligations.DisplayFrames : Prop :=
  (∀ (s : State) (late : FrameLate), s.sendsFrames = true →
    ∃ t, exec (.verticalBlank late) s = .next t ∧ t.reg Reg.DISP_FRAME_COUNT = s.reg Reg.DISP_FRAME_COUNT + 1 ∧
      (s.bit F.DISP_LOCK_LOCK = true → ∀ o ∈ dispShadows, t.dispEff o = s.dispEff o) ∧
      (s.bit F.DISP_LOCK_LOCK = false → ∀ o ∈ dispShadows, s.disp.wrote.all (fun p => p.1 != o) = true → t.dispEff o = s.reg o) ∧
      (s.bit F.DISP_LOCK_LOCK = false → ∀ o ∈ dispShadows, ∀ p, s.disp.wrote.find? (fun p => p.1 == o) = some p → t.dispEff o = p.2)) ∧
  (∀ (s : State) (late : FrameLate), s.sendsFrames = true → s.getF F.DISP_STATUS_STATE = 3 →
    ∃ t, exec (.verticalBlank late) s = .next t ∧
      t.reg Reg.DISP_CRC_VOID = BitVec.ofNat 32 (min (2 ^ 32 - 1) ((s.reg Reg.DISP_CRC_VOID).toNat + 1)) ∧
      (s.disp.timingBlack = true → t.bit F.DISP_EVENTS_TIMING_DONE = true) ∧
      (s.disp.pendTiming = none → t.getF F.DISP_STATUS_STATE = 4) ∧
      (s.bit F.DISP_LOCK_LOCK = false → s.disp.pendTiming ≠ none → s.disp.wrote.all (fun p => p.1 != Reg.DISP_TIMING_COMMIT) = true → t.getF F.DISP_STATUS_STATE = 3 ∧ some t.disp.timing = s.disp.pendTiming ∧ t.disp.pendTiming = none) ∧
      (∀ k : Fin 8, t.reg (Reg.DISP_CRC_RESULT k) = s.reg (Reg.DISP_CRC_RESULT k) ∧ t.reg (Reg.DISP_CRC_MISMATCH k) = s.reg (Reg.DISP_CRC_MISMATCH k))) ∧
  (∀ (s : State) (late : FrameLate) (n : Fin 4) (a : Nat), s.sendsFrames = true → n = 1 ∨ n = 2 →
    sparseGet (fun _ => none) s.disp.displaced n = some a → a < 2 ^ 64 →
    ∃ t, exec (.verticalBlank late) s = .next t ∧
      t.get64 (Reg.DISP_LAYER_REL_ADDR_LO n) = a ∧ t.bit F.DISP_EVENTS_RELEASE = true ∧
      t.bit (F.DISP_LAYER_STATUS_RELEASED n) = true) ∧
  (∀ (s : State) (late : FrameLate) (n : Fin 4), s.sendsFrames = true → n = 1 ∨ n = 2 →
    sparseGet (fun _ => none) s.disp.displaced n = none →
    ∃ t, exec (.verticalBlank late) s = .next t ∧
      (t.overlayAddr n ≠ s.overlayAddr n → t.bit (F.DISP_LAYER_STATUS_RELEASED n) = false) ∧
      (t.overlayAddr n = s.overlayAddr n → t.bit (F.DISP_LAYER_STATUS_RELEASED n) = s.bit (F.DISP_LAYER_STATUS_RELEASED n)) ∧
      t.get64 (Reg.DISP_LAYER_REL_ADDR_LO n) = s.get64 (Reg.DISP_LAYER_REL_ADDR_LO n)) ∧
  (∀ (s : State) (late : FrameLate) (n : Fin 4), s.sendsFrames = true → n = 1 ∨ n = 2 → s.layerOn n = true →
    s.disp.pendTiming = none →
    ∃ t, exec (.verticalBlank late) s = .next t ∧
      (t.overlayAddr n ≠ s.overlayAddr n ∨ t.layerOn n = false → sparseGet (fun _ => none) t.disp.displaced n = some (s.overlayAddr n)) ∧
      (t.layerOn n = true → t.overlayAddr n = s.overlayAddr n → sparseGet (fun _ => none) t.disp.displaced n = none)) ∧
  (∀ (s : State) (late : FrameLate) (k : Fin 8), s.rectOn k = true ∧ s.rectInside k = true →
    (s.rectUnderCursor k = true → (State.compareRect late s k).reg (Reg.DISP_CRC_SKIPPED k) = BitVec.ofNat 32 (min (2 ^ 32 - 1) ((s.reg (Reg.DISP_CRC_SKIPPED k)).toNat + 1)) ∧ s.SameRegsBut (State.compareRect late s k) [Reg.DISP_CRC_SKIPPED k]) ∧
      (s.rectUnderCursor k = false → (State.compareRect late s k).reg (Reg.DISP_CRC_RESULT k) = s.rectCrc late k ∧ (State.compareRect late s k).bit (bitFld Reg.DISP_CRC_STATUS k) = decide (s.rectCrc late k ≠ s.dispEff (Reg.DISP_CRC_EXPECT k))) ∧
      (s.rectUnderCursor k = false → s.rectCrc late k ≠ s.dispEff (Reg.DISP_CRC_EXPECT k) → (State.compareRect late s k).bit F.DISP_EVENTS_CRC_MISMATCH = true ∧
        (State.compareRect late s k).reg (Reg.DISP_CRC_MISMATCH k) = BitVec.ofNat 32 (min (2 ^ 32 - 1) ((s.reg (Reg.DISP_CRC_MISMATCH k)).toNat + 1)))) ∧
  (∀ (a x d : Nat), a ≤ 255 ∧ x ≤ 255 ∧ d ≤ 255 →
    blend a x d ≤ 255 ∧ blend 255 x d = x ∧ blend 0 x d = d ∧ (x = d → blend a x d = d)) ∧
  (∀ (v : Nat), 0 < v →
    lutIndex false v = min 255 v ∧ lutIndex true 0 = 0 ∧ 1 ≤ lutIndex true v ∧ lutIndex true v ≤ 255 ∧
      (lutIndex true v < 255 → 2 ^ (lutIndex true v - 1) ≤ v ^ 16 ∧ v ^ 16 < 2 ^ lutIndex true v))

/-- A record made takes the next RSEQ and waits behind the records before it; a payload above 32 bytes cannot occur.
A commit stores the oldest record in its slot of each copy in service and nothing else; a copy whose write fails is
FAILED and the other still takes the record. RETRY puts a FAILED copy to the test, and the end of the clock returns
it if it passes. In SNAPSHOT mode a latch is judged at the end of the clock, behind its commits: one of a held range
is taken, any other refused; and a load outside the range reads zero; in LIVE mode every load is served. An
annotation is refused behind more than 512 records, and one lower than the wall clock before is marked. A challenge
is posted only in IDLE and SAFE_TALK, ends with one GO or its expiry, and the right answer clears both copies and
burns one fuse. Operating time rises by the seconds that pass, and the control page is saved each time 60 s have
passed since the last save. A page is read from copy A, or from copy B where the CRC of copy A fails. -/
def Obligations.BlackBox : Prop :=
  (∀ (s : State) (src : Byte) (code : BitVec 16) (p : List Byte) (r : BbxRecord), s.cur ≠ .off → p.length ≤ 32 →
    s.bbxLost = false → s.nextRseq + 1 < 2 ^ 64 → s.bbx.ring.all (fun q => q.2 != s.time.clk) = true →
    r = s.newRecord src.toNat code.toNat 0 p →
    ∃ t, exec (.recordMade src code p) s = .next t ∧ t.bbx.ring = s.bbx.ring ++ [(r, s.time.clk)] ∧
      t.nextRseq = s.nextRseq + 1 ∧ r.rseq = s.nextRseq ∧ r.source = src ∧ r.code = code ∧ r.bytes.length = 64 ∧
      t.bbx.copyA = s.bbx.copyA ∧ t.bbx.copyB = s.bbx.copyB) ∧
  (∀ (s : State) (src : Byte) (code : BitVec 16) (p : List Byte), 32 < p.length →
    exec (.recordMade src code p) s = .fault (.illFormed "RECORD_MADE")) ∧
  (∀ (s : State) (okA okB : Bool) (r : BbxRecord) (c : Nat), s.cur ≠ .off → s.bbx.ring = [(r, c)] ∧ c < s.time.clk →
    s.snapBlocks = false → s.copyInService false = true ∧ s.copyInService true = true → okA = true ∨ okB = true →
    ∃ t, exec (.recordCommitted okA okB) s = .next t ∧
      (okA = true → t.bbx.copyAt false (bbxSlot r.rseq) = some r ∧ t.copyInService false = true) ∧
      (okB = true → t.bbx.copyAt true (bbxSlot r.rseq) = some r ∧ t.copyInService true = true) ∧
      (okA = false → t.bbx.copyA = s.bbx.copyA ∧ t.getF F.BBX_STATUS_COPY_A = 1 ∧ t.bit F.BBX_EVENTS_COMMIT_FAIL = true ∧ t.bit F.FLT_BBX_COPY_FAIL = true) ∧
      (okA = true → okB = true → t.bbx.ring = []) ∧
      (∀ i : Fin 256, i.val ≠ bbxSlot r.rseq → t.bbx.copyAt false i = s.bbx.copyAt false i ∧ t.bbx.copyAt true i = s.bbx.copyAt true i)) ∧
  (∀ (s : State) (a b : Bool), s.takesWrite Reg.BBX_CTRL = true →
    ∃ t, exec (.retry a b) s = .next t ∧ t.getF F.BBX_STATUS_COPY_A = (if s.getF F.BBX_STATUS_COPY_A = 0 then 0 else 2) ∧
      t.getF F.BBX_STATUS_COPY_B = (if s.getF F.BBX_STATUS_COPY_B = 0 then 0 else 2) ∧
      t.bbx.retryReq = some (a, b) ∧ t.bbx.copyA = s.bbx.copyA ∧ t.bbx.copyB = s.bbx.copyB ∧ t.bbx.ring = s.bbx.ring) ∧
  (∀ (s : State) (a b : Bool) (t : State), s.bbx.retryReq = some (a, b) → s.bbxLost = false → t = s.retestCopies →
    t.getF F.BBX_STATUS_COPY_A = (if s.getF F.BBX_STATUS_COPY_A = 0 then 0 else if a then 0 else 1) ∧
    t.getF F.BBX_STATUS_COPY_B = (if s.getF F.BBX_STATUS_COPY_B = 0 then 0 else if b then 0 else 1) ∧
    t.bbx.retryReq = none ∧ t.bbx.copyA = s.bbx.copyA ∧ t.bbx.copyB = s.bbx.copyB ∧ t.bbx.ring = s.bbx.ring) ∧
  (∀ (s : State) (f l : Nat), s.takesWrite Reg.BBX_CTRL = true → s.snapshotMode = true →
    f = s.get64 Reg.BBX_SNAP_FROM_LO % 2 ^ 48 → l = s.get64 Reg.BBX_SNAP_TO_LO % 2 ^ 48 →
    ∃ t, exec (.snapLatch) s = .next t ∧ t.bbx = { s.bbx with latchReq := some (f, l) } ∧ t.regs = s.regs) ∧
  (∀ (s : State) (f l : Nat) (t : State), s.bbx.latchReq = some (f, l) → f ≤ l → t = s.latchHost →
    (l < f + 16384 → (List.range (l + 1 - f)).all (fun i => (s.findRecord (f + i)).isSome) = true → t.bbx = { s.bbx with latchReq := none, snap := some (f, l) } ∧ t.bit F.BBX_STATUS_SNAP_ACTIVE = true ∧ s.SameRegsBut t [Reg.BBX_STATUS]) ∧
    (f + 16384 ≤ l ∨ s.findRecord f = none ∨ s.findRecord l = none → t.bbx = { s.bbx with latchReq := none } ∧ t.bit F.BBX_EVENTS_SNAP_REFUSED = true ∧ s.SameRegsBut t (Reg.BBX_EVENTS :: pbaRegs))) ∧
  (∀ (s : State), s.takesWrite Reg.BBX_CTRL = true →
    ∃ t, exec (.snapRelease) s = .next t ∧ t.bbx = { s.bbx with snap := none, latchReq := none } ∧
      t.bit F.BBX_STATUS_SNAP_ACTIVE = false ∧ s.SameRegsBut t [Reg.BBX_STATUS] ∧ t.i2c = s.i2c) ∧
  (∀ (s : State) (v : Word) (n : Nat) (b : List Byte), s.takesWrite Reg.BBX_READ_SEL_HI = true → s.snapshotMode = false →
    n = (s.takeHeld Reg.BBX_READ_SEL_LO).1.toNat + 2 ^ 32 * fieldOf v 0 16 →
    b = (match s.recordIn s.bbx.copyBefore n with | some r => r.bytes | none => []) →
    s.reg Reg.BBX_READ_SEL_HI &&& ~~~maskAt Reg.BBX_READ_SEL_HI = 0 →
    ∃ t, exec (.readSelLoad v) s = .next t ∧
      (∀ i : Fin 16, t.reg (Reg.BBX_READ i) = BitVec.ofNat 32 (fieldLe b (4 * i) 4)) ∧ t.bbx = s.bbx ∧
      s.SameRegsBut t (Reg.BBX_READ_SEL_LO :: Reg.BBX_READ_SEL_HI :: (List.range 16).map Reg.BBX_READ)) ∧
  (∀ (s : State) (v : Word) (n : Nat), s.takesWrite Reg.BBX_READ_SEL_HI = true → s.snapshotMode = true →
    n = (s.takeHeld Reg.BBX_READ_SEL_LO).1.toNat + 2 ^ 32 * fieldOf v 0 16 →
    s.bbx.snap = none ∨ s.bbx.snap = some (n + 1, n + 1) →
    s.reg Reg.BBX_READ_SEL_HI &&& ~~~maskAt Reg.BBX_READ_SEL_HI = 0 →
    ∃ t, exec (.readSelLoad v) s = .next t ∧ (∀ i : Fin 16, t.reg (Reg.BBX_READ i) = 0) ∧
      t.bit F.BBX_EVENTS_OUT_OF_SNAP = true) ∧
  (∀ (s : State) (v : Word), s.takesWrite Reg.BBX_ANNOT_CTRL = true → v.getLsbD 31 = true → 512 < s.bbx.ring.length →
    ∃ t, exec (.annot v) s = .next t ∧ t.bit F.BBX_EVENTS_ANNOT_REFUSED = true ∧ t.bbx = s.bbx ∧
      s.SameRegsBut t (Reg.BBX_EVENTS :: pbaRegs)) ∧
  (∀ (s : State) (v : Word) (back : Bool), s.takesWrite Reg.BBX_ANNOT_CTRL = true → v.getLsbD 31 = true →
    s.bbx.ring = [] → s.bbxLost = false →
    back = (match s.bbx.lastWall with | some w => decide (s.get64 Reg.BBX_ANNOT_WALL_LO < w.toNat) | none => false) →
    ∃ t, exec (.annot v) s = .next t ∧
      (v.getLsbD 0 = true → t.bbx.ring.map (fun q => (q.1.source, q.1.code, q.1.rflags, q.1.payload)) = [(0x0C, 2, 0, (List.range 8).flatMap (fun i => leBytes 4 (s.reg (Reg.BBX_ANNOT_NOTE i)).toNat))]) ∧
      (v.getLsbD 0 = false → t.bbx.ring.map (fun q => (q.1.source, q.1.code, q.1.rflags, q.1.payload.take 8)) = [(0x0C, 1, if back then 1 else 0, leBytes 8 (s.get64 Reg.BBX_ANNOT_WALL_LO))]) ∧
      (v.getLsbD 0 = false → back = true → t.bit F.BBX_EVENTS_STEPPED_BACK = true) ∧
      t.bbx.copyA = s.bbx.copyA ∧ t.bbx.copyB = s.bbx.copyB) ∧
  (∀ (s : State) (v : Word), s.takesWrite Reg.BBX_ERASE_CTRL = true → fieldOf v 24 8 = 0x5A → v.getLsbD 1 = false →
    ∃ t, exec (.eraseReq v) s = .next t ∧
      (s.cur = .idle ∨ s.cur = .safeTalk → t.bit F.BBX_ERASE_CTRL_CHAL_VALID = true ∧ t.bbx.chal.isSome = true ∧ (t.bbx.copyA = s.bbx.copyA ∧ t.bbx.copyB = s.bbx.copyB)) ∧
      (s.cur = .idle ∨ s.cur = .safeTalk → t.bbx.chal = some ((t.reg (Reg.BBX_ERASE_CHAL 3)) ++ (t.reg (Reg.BBX_ERASE_CHAL 2)) ++ (t.reg (Reg.BBX_ERASE_CHAL 1)) ++ (t.reg (Reg.BBX_ERASE_CHAL 0)))) ∧
      (s.cur ≠ .idle → s.cur ≠ .safeTalk → t.bbx = s.bbx ∧ t.bit F.BBX_EVENTS_ERASE_REFUSED = true)) ∧
  (∀ (s : State) (v : Word), s.takesWrite Reg.BBX_ERASE_CTRL = true → fieldOf v 24 8 = 0x5A → v.getLsbD 0 = false →
    ∃ t, exec (.eraseGo v) s = .next t ∧
      (s.eraseAllowed = true → s.copyInService false = true → t.bbx.copyA = [] ∧ t.bbx.copyB = [] ∧ t.bbx.ring.map (fun q => (q.1.rseq, q.1.source, q.1.code)) = [(0, 0x0B, 3)] ∧ t.nextRseq = 1) ∧
      (s.eraseAllowed = true → t.board.fuses = { s.board.fuses with erasesLeft := s.board.fuses.erasesLeft - 1 }) ∧
      (s.eraseAllowed = false → t.bit F.BBX_EVENTS_ERASE_REFUSED = true ∧ t.bbx = { s.bbx with chal := none } ∧ t.board = s.board) ∧
      t.bbx.chal = none ∧ t.bit F.BBX_ERASE_CTRL_CHAL_VALID = false ∧
      t.reg Reg.BBX_PCC = s.reg Reg.BBX_PCC ∧ t.reg Reg.BBX_HOURS = s.reg Reg.BBX_HOURS) ∧
  (∀ (s : State) (v : Word), s.takesWrite Reg.BBX_ERASE_CTRL = true → fieldOf v 24 8 ≠ 0x5A →
    ∃ t, exec ((if v.getLsbD 0 then .eraseReq v else .eraseGo v)) s = .next t ∧ t.regs = s.regs ∧ t.bbx = s.bbx) ∧
  (∀ (s : State), s.bbx.chal ≠ none →
    ∃ t, exec (.challengeExpiry) s = .next t ∧ t.bbx = { s.bbx with chal := none } ∧
      t.bit F.BBX_ERASE_CTRL_CHAL_VALID = false ∧ s.SameRegsBut t [Reg.BBX_ERASE_CTRL]) ∧
  (∀ (s : State) (n now : Nat), s.cur ≠ .off → now = (s.reg Reg.BBX_HOURS).toNat * 3600 + (s.reg Reg.BBX_SECS).toNat →
    (s.reg Reg.BBX_SECS).toNat < 3600 → s.bbx.unsaved < 60 → now + n < 2 ^ 32 * 3600 →
    ∃ t, exec (.timeSave n) s = .next t ∧
      (t.reg Reg.BBX_HOURS).toNat * 3600 + (t.reg Reg.BBX_SECS).toNat = now + n ∧ (t.reg Reg.BBX_SECS).toNat < 3600 ∧
      t.bbx.unsaved = (s.bbx.unsaved + n) % 60 ∧ (s.bbx.unsaved + n < 60 → t.bbx.page = s.bbx.page) ∧
      (60 ≤ s.bbx.unsaved + n → t.bbx.page.isSome = true ∧ (∀ p, t.bbx.page = some p → p.hours * 3600 + p.secs + t.bbx.unsaved = now + n ∧ p.pcc = (s.reg Reg.BBX_PCC).toNat)) ∧
      s.SameRegsBut t [Reg.BBX_HOURS, Reg.BBX_SECS]) ∧
  (∀ (x : BbxSt) (p : Page) (a b : Bool),
    (x.putPage p).page = some p.sealed ∧ p.sealed.good = true ∧
      ((a && b) = false → ((x.putPage p).damage a b).page = some p.sealed) ∧ ((x.putPage p).damage true true).page = none)

/-- A write transaction of several bytes is one of its first byte and then one of the rest at the next address; a
byte stored leaves the port's address one further, and bytes at addresses the table does not name change nothing
else. A read returns the bytes from the address last written and clears OUT_OF_SNAP and SNAP_REFUSED when it reads
them. The port latches, releases and loads through its own range, selector and buffer, and the host's stay as they
are: a latch is judged and a load done at the end of the clock. In OFF it does not answer. -/
def Obligations.MaintenancePort : Prop :=
  (∀ (s : State) (a b : Byte) (x : Straps) (ref : RefClass), s.cur ≠ .off →
    (0x38 ≤ a.toNat ∧ a.toNat < 0x44) ∨ a.toNat < 0x30 ∨ (0x45 ≤ a.toNat ∧ a.toNat ≠ 0x90) →
    ∃ t, exec (.i2cWrite a [b] x ref) s = .next t ∧ t.i2c.ptr = a + 1 ∧
      (0x38 ≤ a.toNat ∧ a.toNat < 0x3E → t.i2c.snapFrom.toNat / 256 ^ (a.toNat - 0x38) % 256 = b.toNat ∧ ∀ i : Fin 6, i.val ≠ a.toNat - 0x38 → t.i2c.snapFrom.toNat / 256 ^ i.val % 256 = s.i2c.snapFrom.toNat / 256 ^ i.val % 256) ∧
      (a.toNat < 0x30 ∨ 0x45 ≤ a.toNat → t.i2c = { s.i2c with ptr := a + 1 }) ∧ t.regs = s.regs ∧ t.bbx = s.bbx) ∧
  (∀ (s : State) (a b : Byte) (l : List Byte) (x : Straps) (ref : RefClass), l ≠ [] →
    exec (.i2cWrite a (b :: l) x ref) s = (match exec (.i2cWrite a [b] x ref) s with
        | .next u => exec (.i2cWrite (a + 1) l x ref) u
        | o => o)) ∧
  (∀ (s : State) (n : Nat), s.cur ≠ .off →
    ∃ t, exec (.i2cRead n) s = .next t ∧
      (match t.out.getLast? with | some (.i2cData l) => l.length == n && decide (0 < n → l.head? = some (s.portByte s.i2c.ptr.toNat)) | _ => false) = true ∧
      t.out.length = s.out.length + 1 ∧ t.i2c.ptr = s.i2c.ptr + BitVec.ofNat 8 n ∧
      (n = 1 → s.i2c.ptr = 0x44 → t.i2c.outOfSnap = false ∧ t.i2c.snapRefused = false) ∧
      t.regs = s.regs ∧ t.bbx = s.bbx) ∧
  (∀ (s : State), s.cur ≠ .off → s.snapshotMode = true →
    ∃ t, exec (.i2cSnapLatch) s = .next t ∧
      t.i2c = { s.i2c with latchReq := some (s.i2c.snapFrom.toNat, s.i2c.snapTo.toNat) } ∧
      t.regs = s.regs ∧ t.bbx = s.bbx) ∧
  (∀ (s : State) (f l : Nat) (t : State), s.i2c.latchReq = some (f, l) → t = s.latchPort →
    (s.rangeOk f l = true → t.i2c = { s.i2c with latchReq := none, snap := some (f, l) }) ∧
    (l < f ∨ f + 16384 ≤ l ∨ s.findRecord l = none → t.i2c = { s.i2c with latchReq := none, snapRefused := true }) ∧
    t.regs = s.regs ∧ t.bbx = s.bbx) ∧
  (∀ (s : State), s.cur ≠ .off →
    ∃ t, exec (.i2cSnapRelease) s = .next t ∧ t.i2c = { s.i2c with snap := none, latchReq := none } ∧
      t.regs = s.regs ∧ t.bbx = s.bbx) ∧
  (∀ (s : State) (b : Byte) (r : BbxRecord), s.cur ≠ .off → s.snapshotMode = false → s.i2c.readSel < 2 ^ 40 →
    s.recordIn s.bbx.copyBefore (b.toNat * 2 ^ 40 + s.i2c.readSel.toNat) = some r →
    ∃ t, exec (.i2cReadSelLoad b) s = .next t ∧
      t.i2c.buffer = s.i2c.buffer ∧ t.i2c.loading = some (sliceBytes r.bytes 0 64) ∧ t.i2c.outOfSnap = s.i2c.outOfSnap ∧
      t.i2c.readSel.toNat = b.toNat * 2 ^ 40 + s.i2c.readSel.toNat ∧ t.regs = s.regs ∧ t.bbx = s.bbx) ∧
  (∀ (s : State) (b : List Byte) (t : State), s.i2c.loading = some b → t = s.loadPort →
    t.i2c = { s.i2c with buffer := b, loading := none } ∧ t.regs = s.regs ∧ t.bbx = s.bbx) ∧
  (∀ (s : State) (b : Byte) (n : Nat) (x : Straps) (ref : RefClass), s.cur = .off →
    ∃ t, exec (([Instr.i2cWrite b [b] x ref, Instr.i2cRead n, Instr.i2cSnapLatch, Instr.i2cSnapRelease, Instr.i2cReadSelLoad b, Instr.i2cDraftReload, Instr.i2cReset x ref].getD n (.i2cRead n))) s = .next t ∧
      t = s)

/-- A cell with a bad CRC is discarded and counted; without a link none arrives; one that skips numbers asks for the
missing ones (the model's reading of RESEND), and a WRITE missed so makes a SHADOW's Loom local. FORM greets the
peer and waits for its HELLO, or for the loss of the link; a formation so asked for, or asked for by the peer, is
judged at the end of its clock by the nine checks: a failing one is recorded and the role stays, none failing makes
the engine of the high strap ACTIVE and the other SHADOW, and beside a DISSOLVE, on a formed engine or on a FENCED
one whose peer accepts nothing comes of it. DISSOLVE acts in IDLE alone. A heartbeat clears the misses and prevails
over a miss of its clock; the third miss makes a SHADOW fence or wait and an ACTIVE report its peer lost. The mirror
holds what HAND and DATA bring and is purged by ACK. A fenced engine is FENCED; a SHADOW that fences takes over only
in the clock after the acknowledgement, and then delivers again what was mirrored and not acknowledged. The phase
error is reported, and alarms beyond 50 fs. -/
def Obligations.PairProtocol : Prop :=
  (∀ (s : State) (h : CellHead) (p : Heartbeat) (g : PairHello) (m : MatchCell) (c : Fin 1024) (n : Nat) (cell : Instr),
    cell = ([Instr.heartbeat h p, .pairHelloCell h g, .formCell h .accept true true true, .matchCell h m, .hand h .host c 0 0 [], .data h c 0 0 [1], .mirrored h .host 0, .pairAckCell h .host c 0 9, .bbx h [1], .tenonResend h 0].getD n (.write h 0 0 0)) →
    s.bit F.PAIR_STATUS_LINK_UP = false →
    ∃ t, exec (cell) s = .next t ∧ t = s) ∧
  (∀ (s : State) (h : CellHead) (p : Heartbeat) (g : PairHello) (m : MatchCell) (c : Fin 1024) (n : Nat) (cell : Instr),
    cell = ([Instr.heartbeat h p, .pairHelloCell h g, .formCell h .accept true true true, .matchCell h m, .hand h .host c 0 0 [], .data h c 0 0 [1], .mirrored h .host 0, .pairAckCell h .host c 0 9, .bbx h [1]].getD n (.tenonResend h 0)) →
    s.bit F.PAIR_STATUS_LINK_UP = true → h.good = false →
    ∃ t, exec (cell) s = .next t ∧
      (t.reg Reg.PAIR_CELL_BAD).toNat = min (2 ^ 32 - 1) ((s.reg Reg.PAIR_CELL_BAD).toNat + 1) ∧
      s.SameRegsBut t [Reg.PAIR_CELL_BAD] ∧ t.pair = s.pair ∧ t.out = s.out ∧ t.bbx = s.bbx) ∧
  (∀ (s : State) (h : CellHead) (g : PairHello) (e k : Nat), s.bit F.PAIR_STATUS_LINK_UP = true → h.good = true →
    s.pair.expect = some e ∧ e < 2 ^ 32 ∧ k < 2 ^ 31 ∧ h.seq = (e + k) % 2 ^ 32 → h.lostWrite = none →
    ∃ t, exec (.pairHelloCell h g) s = .next t ∧
      t.pair.hello = some g ∧ t.pair.formReq = (match s.pair.asked with | some q => some q | none => s.pair.formReq) ∧
      t.pair.expect = some ((h.seq + 1) % 2 ^ 32) ∧ t.pair.missing.length = s.pair.missing.length + k ∧
      t.out = s.out ++ (if k = 0 then [] else [.cell s.pair.cellSeq (.resend e) (cellBytes (.resend e) s.pair.cellSeq s.tsc)]) ∧
      t.regs = s.regs) ∧
  (∀ (s : State) (h : CellHead) (g : PairHello) (e k n : Nat), s.bit F.PAIR_STATUS_LINK_UP = true →
    h.good = true ∧ s.isShadow = true →
    s.pair.expect = some e ∧ e < 2 ^ 32 ∧ 0 < k ∧ k < 2 ^ 31 ∧ h.seq = (e + k) % 2 ^ 32 → h.lostWrite = some n →
    ∃ t, exec (.pairHelloCell h g) s = .next t ∧ t.bit F.PAIR_STATUS_LOCAL_LOOM = true ∧
      (s.bit F.PAIR_STATUS_LOCAL_LOOM = false → t.pair.localFrom = some n) ∧ s.SameRegsBut t [Reg.PAIR_STATUS]) ∧
  (∀ (s : State),
    ∃ t, exec (.heartbeatSend) s = .next t ∧
      t.out = s.out ++ (if s.bit F.PAIR_STATUS_LINK_UP then [.cell s.pair.cellSeq (.heartbeat s.ownBeat) (cellBytes (.heartbeat s.ownBeat) s.pair.cellSeq s.tsc)] else []) ∧
      t.regs = s.regs) ∧
  (∀ (s : State) (h : CellHead) (p : Heartbeat), s.bit F.PAIR_STATUS_LINK_UP = true →
    h.good = true ∧ s.pair.expect = some h.seq → s.bit F.PAIR_STATUS_PROTECTED = false →
    ∃ t, exec (.heartbeat h p) s = .next t ∧
      t.bit F.PAIR_STATUS_PEER_HEARD = true ∧ t.getF F.PAIR_STATUS_PEER_ROLE = p.role % 8 ∧
      t.pair.missed = 0 ∧ t.pair.beat = some p ∧ t.getF F.PAIR_STATUS_ROLE = s.getF F.PAIR_STATUS_ROLE ∧
      s.SameRegsBut t [Reg.PAIR_STATUS]) ∧
  (∀ (s : State) (h : CellHead) (p : Heartbeat), s.bit F.PAIR_STATUS_LINK_UP = true →
    h.good = true ∧ s.pair.expect = some h.seq → s.isShadow = true →
    ∃ t, exec (.heartbeat h p) s = .next t ∧ (s.pair.fencing = true → t.isShadow = true ∧ t.pair.fencing = true) ∧
      (s.pair.fencing = false → p.dropped = true → t.getF F.PAIR_STATUS_ROLE = 3 ∧ t.bit F.PAIR_STATUS_PROTECTED = false ∧ t.pair.mirror = []) ∧
      (s.pair.fencing = false → p.dropped = false → p.prot = true → s.bit F.PAIR_STATUS_LOCAL_LOOM = true → t.getF F.PAIR_STATUS_ROLE = 3 ∧ t.bit F.PAIR_EVENTS_FOLLOW_FAIL = true ∧ (s.running = true → t.loom.stopping = true)) ∧
      (p.dropped = false → p.prot = true → s.bit F.PAIR_STATUS_LOCAL_LOOM = false → t.isShadow = true ∧ s.SameRegsBut t [Reg.PAIR_STATUS])) ∧
  (∀ (s : State),
    ∃ t, exec (.heartbeatMissed) s = .next t ∧
      (s.bit F.DEV_CAPS_TENON = true → t.pair = { s.pair with missNow := true } ∧ t.regs = s.regs ∧ t.out = s.out) ∧
      (s.bit F.DEV_CAPS_TENON = false → t = s)) ∧
  (∀ (s : State) (t : State), s.pair.missNow = true → s.pair.heardAt ≠ some s.time.clk → s.pair.missed ≠ 2 →
    t = s.missSettle →
    t.pair.missed = min 3 (s.pair.missed + 1) ∧
    (t.reg Reg.PAIR_HB_MISSED).toNat = min (2 ^ 32 - 1) ((s.reg Reg.PAIR_HB_MISSED).toNat + 1) ∧
    s.SameRegsBut t [Reg.PAIR_HB_MISSED]) ∧
  (∀ (s : State) (t : State), s.pair.missNow = true → s.pair.heardAt = some s.time.clk → t = s.missSettle →
    t.pair = { s.pair with missNow := false } ∧ t.regs = s.regs ∧ t.out = s.out) ∧
  (∀ (s : State) (t : State), s.pair.missNow = true → s.pair.heardAt ≠ some s.time.clk → s.pair.missed = 2 →
    s.pair.fencing = false ∧ s.pair.lostAt = none → t = s.missSettle →
    t.bit F.PAIR_STATUS_PEER_HEARD = false ∧ t.pair.missed = 3 ∧
    (s.isShadow = true → s.pair.takeover = true → t.bit F.PAIR_STATUS_FENCE_OUT = true ∧ t.bit F.PAIR_EVENTS_FENCE_ASSERTED = true ∧ t.isShadow = true ∧ t.pair.fencing = true) ∧
    (s.isShadow = true → s.pair.takeover = false → t.getF F.PAIR_STATUS_ROLE = 3 ∧ t.bit F.PAIR_STATUS_PROTECTED = false ∧ t.bit F.PAIR_EVENTS_PEER_LOST = true ∧ t.bit F.PAIR_STATUS_FENCE_OUT = s.bit F.PAIR_STATUS_FENCE_OUT) ∧
    (s.isProtectedActive = true → t.isProtectedActive = true ∧ t.bit F.PAIR_EVENTS_PEER_LOST = true ∧ t.bit F.FLT_CLASS_PEER_LOST = true ∧ t.pair.lostAt = some s.time.clk)) ∧
  (∀ (s : State), s.isProtectedActive = true →
    ∃ t, exec (.dropped) s = .next t ∧ (s.pair.lostAt = none → t = s) ∧
      (s.pair.lostAt ≠ none → t.bit F.PAIR_STATUS_PROTECTED = false ∧ t.getF F.PAIR_STATUS_ROLE = 1 ∧ t.pair.dropped = true ∧ t.bit F.PAIR_EVENTS_DROPPED = true)) ∧
  (∀ (s : State) (q : FormReq) (n : Nat) (t : State), s.pair.formReq = some q ∧ q.accepted = false →
    s.bit F.PAIR_STATUS_PROTECTED = false → s.pair.dissolvedAt ≠ some s.time.clk → n = s.formCause q → n ≠ 0 →
    t = s.formSettle →
    t.getF F.PAIR_FORM_REFUSE_CAUSE = n ∧ t.bit F.PAIR_EVENTS_FORM_REFUSED = true ∧
    t.getF F.PAIR_STATUS_ROLE = s.getF F.PAIR_STATUS_ROLE ∧ t.bit F.PAIR_STATUS_PROTECTED = false ∧
    (s.pair.hello = none → n = 1)) ∧
  (∀ (s : State) (a b c : Bool) (lead : Int), s.takesWrite Reg.PAIR_CTRL = true →
    ∃ t, exec (.form a b c lead) s = .next t ∧ (s.bit F.PAIR_STATUS_PROTECTED = true → t.pair = s.pair ∧ t.out = s.out) ∧
      (s.bit F.PAIR_STATUS_PROTECTED = false → s.bit F.PAIR_STATUS_LINK_UP = true → t.pair.asked = some ⟨false, a, b, c, lead⟩ ∧ t.pair.hello = none ∧ t.pair.formReq = s.pair.formReq ∧ t.out = s.out ++ [.cell s.pair.cellSeq (.hello s.ownHello) (cellBytes (.hello s.ownHello) s.pair.cellSeq s.tsc), .cell ((s.pair.cellSeq + 1) % 2 ^ 32) (.form .request) (cellBytes (.form .request) ((s.pair.cellSeq + 1) % 2 ^ 32) s.tsc)]) ∧
      (s.bit F.PAIR_STATUS_PROTECTED = false → s.bit F.PAIR_STATUS_LINK_UP = false → t.pair.formReq = some ⟨false, a, b, c, lead⟩ ∧ t.pair.asked = none ∧ t.out = s.out) ∧
      t.regs = s.regs) ∧
  (∀ (s : State) (q : FormReq) (t : State), s.pair.formReq = some q →
    s.bit F.PAIR_STATUS_PROTECTED = true ∨ s.pair.dissolvedAt = some s.time.clk ∨ (q.accepted = true ∧ s.getF F.PAIR_STATUS_ROLE = 4) →
    t = s.formSettle →
    t.pair = { s.pair with formReq := none } ∧ t.regs = s.regs ∧ t.out = s.out) ∧
  (∀ (s : State) (q : FormReq) (t : State), s.pair.formReq = some q ∧ q.accepted = true →
    s.bit F.PAIR_STATUS_PROTECTED = false → s.pair.dissolvedAt ≠ some s.time.clk → s.getF F.PAIR_STATUS_ROLE ≠ 4 →
    t = s.formSettle →
    t.bit F.PAIR_STATUS_PROTECTED = true ∧ t.bit F.PAIR_EVENTS_FORMED = true ∧
    t.getF F.PAIR_STATUS_ROLE = (if s.board.straps.pairRole then 1 else 2) ∧ t.pair.missed = 0 ∧ t.pair.mirror = []) ∧
  (∀ (s : State) (q : FormReq) (t : State), s.pair.formReq = some q ∧ q.accepted = false →
    s.bit F.PAIR_STATUS_PROTECTED = false → s.pair.dissolvedAt ≠ some s.time.clk → s.formCause q = 0 →
    t = s.formSettle →
    t.bit F.PAIR_STATUS_PROTECTED = true ∧ t.bit F.PAIR_EVENTS_FORMED = true ∧
    t.getF F.PAIR_STATUS_ROLE = (if s.board.straps.pairRole then 1 else 2) ∧ t.pair.missed = 0 ∧ t.pair.mirror = []) ∧
  (∀ (s : State) (h : CellHead) (m : FormMsg) (a b c : Bool) (lead : Int), s.bit F.PAIR_STATUS_LINK_UP = true →
    h.good = true ∧ s.pair.expect = some h.seq →
    ∃ t, exec (.formCell h m a b c lead) s = .next t ∧
      (m = .accept → t.pair.formReq = some ⟨true, a, b, c, lead⟩ ∧ t.regs = s.regs) ∧
      (m = .refuse 5 → s.pair.settled = true → t.regs = s.regs) ∧
      (s.bit F.PAIR_STATUS_PROTECTED = false → m = .refuse 5 → s.pair.settled = false → t.getF F.PAIR_FORM_REFUSE_CAUSE = 5 ∧ t.bit F.PAIR_STATUS_PROTECTED = false ∧ t.getF F.PAIR_STATUS_ROLE = s.getF F.PAIR_STATUS_ROLE) ∧
      (m = .request → t.pair.formReq = some ⟨false, a, b, c, lead⟩ ∧ t.out.length = s.out.length + 1 ∧ t.regs = s.regs)) ∧
  (∀ (s : State), s.takesWrite Reg.PAIR_CTRL = true →
    ∃ t, exec (.dissolve) s = .next t ∧ (s.cur ≠ .idle → t = s) ∧
      (s.cur = .idle → t.bit F.PAIR_STATUS_PROTECTED = false ∧ (s.bit F.PAIR_STATUS_PROTECTED = true → t.pair.mirror = [] ∧ t.pair.resv = [])) ∧
      (s.cur = .idle → t.getF F.PAIR_STATUS_ROLE = (if s.isShadow then 3 else s.getF F.PAIR_STATUS_ROLE))) ∧
  (∀ (s : State) (h : CellHead) (m : MatchCell), s.bit F.PAIR_STATUS_LINK_UP = true →
    h.good = true ∧ s.pair.expect = some h.seq →
    ∃ t, exec (.matchCell h m) s = .next t ∧ t.pair.cells = (if s.isShadow then s.pair.cells ++ [m] else s.pair.cells) ∧
      t.regs = s.regs) ∧
  (∀ (s : State), s.isShadow = true ∧ s.loomRuns = true → s.bit F.PAIR_STATUS_LOCAL_LOOM = false →
    ∃ t, exec (.matchLate) s = .next t ∧
      (s.cellFor (s.tsc - 96) = none → t.bit F.PAIR_STATUS_LOCAL_LOOM = true ∧ t.pair.localFrom = some (s.tsc - 96)) ∧
      (s.cellFor (s.tsc - 96) ≠ none → t = s) ∧ s.SameRegsBut t [Reg.PAIR_STATUS]) ∧
  (∀ (s : State) (h : CellHead) (n off : Nat) (v : Word), s.bit F.PAIR_STATUS_LINK_UP = true → s.isShadow = true →
    ∃ t, exec (.write h n off v) s = .next t ∧ (h.good = false → t.bit F.PAIR_STATUS_LOCAL_LOOM = true) ∧
      (h.good = true → s.pair.expect = some h.seq → s.tsc ≤ n + 96 → t.pair.writes = s.pair.writes ++ [(n + 96, off, v)] ∧ t.regs = s.regs) ∧
      (h.good = true → s.pair.expect = some h.seq → n + 96 < s.tsc → t.bit F.PAIR_STATUS_LOCAL_LOOM = true ∧ t.pair.writes = s.pair.writes)) ∧
  (∀ (s : State) (h : CellHead) (c : Fin 1024) (cseq gseq : Nat) (hdr : List Byte), s.bit F.PAIR_STATUS_LINK_UP = true →
    h.good = true ∧ s.pair.expect = some h.seq → s.isShadow = true → s.pair.mirror = [] →
    hdr.length = 64 ∧ (headerView hdr).kind = 2 →
    s.pair.resv = [(0, (s.reg Reg.PAIR_MIRROR_QUOTA).toNat)] ∧ s.reg Reg.PAIR_MIRROR_QUOTA ≠ 0 ∧ s.pcFrozen 0 = false →
    ∃ t, exec (.hand h .host c cseq gseq hdr) s = .next t ∧
      t.pair.mirror.map (fun m => (m.ctx, m.cseq, m.toldHost)) = [(c.val, cseq, true)] ∧
      t.pair.mirror.map (fun m => m.host) = [some (gseq, hdr)] ∧
      t.out = s.out ++ [.cell s.pair.cellSeq (.mirrored .host gseq) (cellBytes (.mirrored .host gseq) s.pair.cellSeq s.tsc)] ∧
      t.seg = s.seg) ∧
  (∀ (s : State) (h : CellHead) (c : Fin 1024) (m : Mirror) (bytes : List Byte), s.bit F.PAIR_STATUS_LINK_UP = true →
    h.good = true ∧ s.pair.expect = some h.seq → s.isShadow = true → s.pair.mirror = [m] ∧ m.ctx = c.val →
    ∃ t, exec (.data h c m.cseq m.data.length bytes) s = .next t ∧
      t.pair.mirror.map (fun q => q.data) = [m.data ++ bytes] ∧ t.seg = s.seg) ∧
  (∀ (s : State) (h : CellHead) (k : Consumer) (g : Nat) (r : Record), s.bit F.PAIR_STATUS_LINK_UP = true →
    h.good = true ∧ s.pair.expect = some h.seq → s.seg.recs = [r] ∧ r.state = .handed →
    ∃ t, exec (.mirrored h k g) s = .next t ∧ (s.isProtectedActive = false → t.seg = s.seg) ∧
      (s.isProtectedActive = true → k = .host → r.host.gseq = some g → t.seg.recs = [{ r with host := { r.host with mirrored := true } }]) ∧
      (s.isProtectedActive = true → k = .stream → r.stream.gseq = some g → t.seg.recs = [{ r with stream := { r.stream with mirrored := true } }]) ∧
      t.regs = s.regs) ∧
  (∀ (s : State) (h : CellHead) (c : Fin 1024) (first last : Nat) (m : Mirror), s.bit F.PAIR_STATUS_LINK_UP = true →
    h.good = true ∧ s.pair.expect = some h.seq → s.isShadow = true → s.seg.recs = [] →
    s.pair.mirror = [m] ∧ m.ctx = c.val ∧ m.stream = none → first ≤ m.cseq ∧ m.cseq ≤ last →
    ∃ t, exec (.pairAckCell h .host c first last) s = .next t ∧ t.pair.mirror = [] ∧
      t.bit F.PAIR_STATUS_MIRROR_FULL = false ∧ s.SameRegsBut t [Reg.PAIR_STATUS]) ∧
  (∀ (s : State) (h : CellHead) (r : BbxRecord), s.bit F.PAIR_STATUS_LINK_UP = true ∧ s.bit F.DEV_CAPS_PAIRED = true →
    h.good = true ∧ s.pair.expect = some h.seq → s.bbxLost = false → s.bbx.ring = [] →
    s.nextRseq + 1 < 2 ^ 64 ∧ r.rseq < 2 ^ 48 ∧ r.payload.length ≤ 32 →
    ∃ t, exec (.bbx h r.bytes) s = .next t ∧
      t.bbx.ring.map (fun q => (q.1.rseq, q.1.origin, q.1.tsc.toNat)) = [(s.nextRseq, r.origin ||| 0x80, r.rseq)] ∧
      t.bbx.ring.map (fun q => sliceBytes q.1.bytes 6 14) = [sliceBytes r.bytes 6 14] ∧
      t.bbx.ring.map (fun q => sliceBytes q.1.bytes 30 32) = [sliceBytes r.bytes 30 32] ∧ t.nextRseq = s.nextRseq + 1) ∧
  (∀ (s : State) (h : CellHead) (first : Nat), s.bit F.PAIR_STATUS_LINK_UP = true →
    h.good = true ∧ s.pair.expect = some h.seq →
    ∃ t, exec (.tenonResend h first) s = .next t ∧
      t.out = s.out ++ (s.pair.sent.filter (fun p => decide ((p.1 + 2 ^ 32 - first) % 2 ^ 32 < 2 ^ 31))).map (fun p => .cell p.1 p.2 (cellBytes p.2 p.1 s.tsc)) ∧
      t.regs = s.regs ∧ t.pair.sent = s.pair.sent) ∧
  (∀ (s : State),
    ∃ t, exec (.pairFencedNAssert) s = .next t ∧ t.board = { s.board with fenced := true } ∧
      (s.bit F.DEV_CAPS_PAIRED = true → s.operational = true → s.getF F.PAIR_STATUS_ROLE ≠ 4 → t.getF F.PAIR_STATUS_ROLE = 4 ∧ t.bit F.PAIR_STATUS_PROTECTED = false ∧ t.bit F.PAIR_EVENTS_FENCED = true ∧ t.bit F.FLT_CLASS_FENCED = true ∧ t.getF F.TRIG_OUT_STATUS_PINS = 0 ∧ t.delivers = false) ∧
      (s.bit F.DEV_CAPS_PAIRED = true → s.running = true → s.getF F.PAIR_STATUS_ROLE ≠ 4 → t.loom.stopping = true) ∧
      (s.bit F.DEV_CAPS_PAIRED = false → t.regs = s.regs)) ∧
  (∀ (s : State),
    ∃ t, exec (.pairFenceAck) s = .next t ∧ t.board = { s.board with fenceAck := true } ∧
      (s.isShadow = false ∨ s.pair.fencing = false → t = { s with board := { s.board with fenceAck := true } }) ∧
      (s.isShadow = true → s.pair.fencing = true → t.pair = { s.pair with ackAt := s.pair.ackAt.or (some s.time.clk) }) ∧
      t.regs = s.regs) ∧
  (∀ (s : State) (n : Nat) (t : State), s.pair.ackAt = some n ∧ n < s.time.clk → t = s.takeoverSettle →
    t.pair.ackAt = none ∧
    (s.isShadow = true → t.getF F.PAIR_STATUS_ROLE = 1 ∧ t.bit F.PAIR_STATUS_PROTECTED = false ∧ t.bit F.PAIR_EVENTS_TAKEOVER = true ∧ t.bit F.FLT_CLASS_TAKEOVER = true ∧ t.get64 Reg.PAIR_TAKEOVER_TSC_LO = s.tsc % 2 ^ 64) ∧
    (s.isShadow = true → s.seg.recs = [] → s.pair.mirror = [] → t.seg.recs = [] ∧ t.get64 Reg.SEG_GSEQ_HOST_LO = s.pair.nextHost.getD (s.get64 Reg.SEG_GSEQ_HOST_LO) % 2 ^ 64) ∧
    (s.isShadow = false → t.regs = s.regs)) ∧
  (∀ (s : State) (n g : Nat) (m : Mirror) (hdr : List Byte) (t : State), s.pair.ackAt = some n ∧ n < s.time.clk →
    s.isShadow = true ∧ s.seg.recs = [] →
    s.pair.mirror = [m] ∧ m.host = some (g, hdr) ∧ m.toldHost = true ∧ m.ackHost = false ∧ m.toldStream = false →
    t = s.takeoverSettle →
    t.seg.recs.map (fun r => (r.ctx, r.cseq, r.host.gseq, r.host.again, r.host.visible, r.stream.wanted)) = [(m.ctx, m.cseq, some g, true, false, false)]) ∧
  (∀ (s : State) (n : Nat) (t : State), s.pair.ackAt = some n ∧ s.time.clk ≤ n → t = s.takeoverSettle →
    t = s) ∧
  (∀ (s : State) (lead err : Int), err = lead - 10 * ofBitsInt 16 (s.reg Reg.PAIR_PHASE_COMP).toNat →
    ∃ t, exec (.phaseMeasure lead) s = .next t ∧ (s.isShadow = false → t = s) ∧
      (s.isShadow = true → -32768 ≤ err → err ≤ 32767 → ofBitsInt 16 (t.reg Reg.PAIR_PHASE_ERR).toNat = err) ∧
      (s.isShadow = true → 50 < err.natAbs → t.bit F.PAIR_EVENTS_PHASE_ALARM = true ∧ t.isShadow = true) ∧
      (s.isShadow = true → err.natAbs ≤ 50 → s.SameRegsBut t [Reg.PAIR_PHASE_ERR, Reg.CLK_PAIR_TRIM, Reg.CLK_STATUS])) ∧
  (∀ (s : State),
    ∃ t, exec (.tenonLinkUp) s = .next t ∧
      (s.bit F.DEV_CAPS_TENON = true → (s.cur = .selftest ∨ s.operational = true) → s.bit F.PAIR_STATUS_LINK_UP = false → t.bit F.PAIR_STATUS_LINK_UP = true ∧ t.out.length = s.out.length + 1 ∧ t.pair.expect = none ∧ s.SameRegsBut t [Reg.PAIR_STATUS]) ∧
      (s.bit F.PAIR_STATUS_LINK_UP = true → t = s)) ∧
  (∀ (s : State),
    ∃ t, exec (.tenonLinkDown) s = .next t ∧
      t.bit F.PAIR_STATUS_LINK_UP = false ∧ t.pair.hello = none ∧ t.pair.mirror = s.pair.mirror ∧
      t.pair.formReq = (match s.pair.asked with | some q => some q | none => s.pair.formReq) ∧
      s.SameRegsBut t [Reg.PAIR_STATUS])

/-- A reading shows in FLT.THERM, warns from 105 degrees on, and the third in a row from 115 degrees on is the fatal
fault OVERTEMP; a cooler one starts the count again. A fatal fault in IDLE, ARMED or ACQUIRING records its cause,
detail and TSC, makes the FATAL record with the state left, and enters SAFE_TALK; in OFF and AON_UP it does nothing.
The fabric clock's fault needs the bypass clock. At the expiry of a freeze timer the held record becomes a
FREEZE_TIMEOUT gap with its GSEQ. A trained link shows its width and rate. -/
def Obligations.FaultEvents : Prop :=
  (∀ (s : State) (v : BitVec 16) (d : Fin 8), s.cur ≠ .off → v.toInt < 7360 ∨ s.board.hotReadings < 2 →
    ∃ t, exec (.thermReading v d) s = .next t ∧ t.reg Reg.FLT_THERM = BitVec.ofNat 32 (v.toNat * 65536 + d.val) ∧
      t.board.hotReadings = (if 7360 ≤ v.toInt then s.board.hotReadings + 1 else 0) ∧
      (6720 ≤ v.toInt → t.bit F.FLT_CLASS_TEMP_WARN = true) ∧ (v.toInt < 6720 → s.SameRegsBut t [Reg.FLT_THERM]) ∧
      t.cur = s.cur) ∧
  (∀ (s : State) (v : BitVec 16) (d : Fin 8), s.cur = .idle ∨ s.cur = .armed ∨ s.cur = .acquiring → 7 ≤ s.rankNow →
    7360 ≤ v.toInt ∧ s.board.hotReadings = 2 →
    ∃ t, exec (.thermReading v d) s = .next t ∧ t.cur = .safeTalk ∧
      t.getF F.FLT_FATAL_CAUSE = 1 ∧ t.getF F.FLT_FATAL_DETAIL = d.val ∧ t.bit F.FLT_FATAL_SEEN = true) ∧
  (∀ (s : State) (cause : Fin 32) (detail : BitVec 16), s.cur = .idle ∨ s.cur = .armed ∨ s.cur = .acquiring →
    7 ≤ s.rankNow → s.bbxLost = false → s.bbx.ring = [] →
    ∃ t, exec (.fatal cause detail) s = .next t ∧
      t.cur = .safeTalk ∧ t.getF F.DEV_STATE_ENTRY_CAUSE = 8 ∧ t.delivers = false ∧
      t.bit F.FLT_FATAL_SEEN = true ∧ t.getF F.FLT_FATAL_CAUSE = cause.val ∧ t.getF F.FLT_FATAL_DETAIL = detail.toNat ∧
      t.get64 Reg.FLT_FATAL_TSC_LO = s.tsc % 2 ^ 64 ∧ t.bit F.FLT_CLASS_FATAL = true ∧
      t.bbx.ring.any (fun q => q.1.source == 9 && q.1.code == 1 && q.1.payload.take 4 == leBytes 1 cause.val ++ leBytes 1 s.cur.code ++ leBytes 2 detail.toNat) = true) ∧
  (∀ (s : State) (rail : Rail) (inst : BitVec 16) (cause : Fin 32) (n : Nat), s.cur = .off ∨ s.cur = .aonUp →
    ∃ t, exec (([Instr.overvoltage rail, .ctrlSramUe inst].getD n (.fatal cause inst))) s = .next t ∧ t = s) ∧
  (∀ (s : State) (rail : Rail) (inst : BitVec 16) (n : Nat), s.cur = .idle ∨ s.cur = .armed ∨ s.cur = .acquiring →
    7 ≤ s.rankNow →
    ∃ t, exec ((if n = 0 then .overvoltage rail else .ctrlSramUe inst)) s = .next t ∧
      t.cur = .safeTalk ∧ t.bit F.FLT_CLASS_FATAL = true ∧
      (n = 0 → t.getF F.FLT_FATAL_CAUSE = 5 ∧ t.getF F.FLT_FATAL_DETAIL = rail.step) ∧
      (n ≠ 0 → t.getF F.FLT_FATAL_CAUSE = 2 ∧ t.getF F.FLT_FATAL_DETAIL = inst.toNat)) ∧
  (∀ (s : State), s.cur = .idle ∨ s.cur = .armed ∨ s.cur = .acquiring → 7 ≤ s.rankNow →
    ∃ t, exec (.fabricClock) s = .next t ∧ (s.onBypass = false → t = s) ∧
      (s.onBypass = true → t.cur = .safeTalk ∧ t.getF F.FLT_FATAL_CAUSE = 3 ∧ t.getF F.FLT_FATAL_DETAIL = 0)) ∧
  (∀ (s : State) (c : Fin 1024), (s.keepOf c).timer = none →
    ∃ t, exec (.freezeTimeout c) s = .next t ∧ t = s) ∧
  (∀ (s : State) (c : Fin 1024) (r : Record), (s.keepOf c).timer ≠ none → s.seg.recs = [r] ∧ r.ctx = c.val →
    r.state = .handed ∧ s.recHeld r = true →
    r.host.wanted = true ∧ r.host.visible = false ∧ r.host.gap = none ∧ r.stream.wanted = false ∧ r.stream.gap = none →
    ∃ t, exec (.freezeTimeout c) s = .next t ∧ t.seg.recs.map (fun q => (q.ctx, q.cseq)) = [(r.ctx, r.cseq)] ∧
      t.seg.recs.all (fun q => q.host.gap == some .freezeTimeout && q.host.gseq == r.host.gseq && q.state == .handed) = true ∧
      (t.reg (Reg.FLT_GAP 7)).toNat = min (2 ^ 32 - 1) ((s.reg (Reg.FLT_GAP 7)).toNat + 1) ∧
      t.bit F.FLT_CLASS_FREEZE_TIMEOUT = true ∧ (t.keepOf c).timer = none) ∧
  (∀ (s : State) (w : Fin 17) (r : Fin 6) (cfg : PcieConfig), s.cur ≠ .off ∧ s.cur ≠ .aonUp ∧ s.board.perst = false →
    ∃ t, exec (.pcieLinkUp w r cfg) s = .next t ∧ t.board = { s.board with pcieUp := true, pcie := cfg } ∧
      t.getF F.DMA_LINK_WIDTH = w.val ∧ t.getF F.DMA_LINK_RATE = r.val ∧ s.SameRegsBut t [Reg.DMA_LINK]) ∧
  (∀ (s : State) (w : Fin 17) (r : Fin 6) (cfg : PcieConfig), s.board.perst = true →
    ∃ t, exec (.pcieLinkUp w r cfg) s = .next t ∧ t = s)
end

