-- ==== Sys2Proof/Laws/Bits.lean ====
section
/-! SUPPORT. Laws of word fields: a field reads back what was inserted, and a disjoint field is left alone. -/

namespace Sys2Proof.Laws

open Sys2Proof.Machine

theorem fieldOf_testBit (v : Word) (lo w i : Nat) :
    (fieldOf v lo w).testBit i = (decide (i < w) && v.getLsbD (lo + i)) := by
  simp [fieldOf, Nat.testBit_mod_two_pow, BitVec.getLsbD]

theorem fieldMask_getLsbD (lo w i : Nat) (h : lo + w ≤ 32) :
    (fieldMask lo w).getLsbD i = (decide (lo ≤ i) && decide (i < lo + w)) := by
  by_cases h1 : i < 32
  · by_cases h2 : lo ≤ i
    · have : ((2 ^ w - 1 : Nat).testBit (i - lo)) = decide (i - lo < w) := by
        simpa using Nat.testBit_two_pow_sub_one w (i - lo)
      have h3 : i - lo < 32 := by omega
      simp only [fieldMask, BitVec.getLsbD_shiftLeft, BitVec.getLsbD_ofNat, this, h1, h2, h3, decide_true, Bool.true_and]
      have : ¬ i < lo := by omega
      simp only [this, decide_false, Bool.not_false, Bool.true_and]
      congr 1
      apply propext; omega
    · have : i < lo := by omega
      simp [fieldMask, this, h2]
  · have h2 : ¬ i < lo + w := by omega
    simp [h2, BitVec.getLsbD_of_ge _ _ (by omega : 32 ≤ i)]

theorem insertField_getLsbD (v : Word) (lo w n i : Nat) (h : lo + w ≤ 32) :
    (insertField v lo w n).getLsbD i =
      if lo ≤ i ∧ i < lo + w then n.testBit (i - lo) else v.getLsbD i := by
  by_cases h1 : i < 32
  · simp only [insertField, BitVec.getLsbD_or, BitVec.getLsbD_and, BitVec.getLsbD_not, fieldMask_getLsbD _ _ _ h, h1,
      decide_true, Bool.true_and, BitVec.getLsbD_shiftLeft, BitVec.getLsbD_ofNat, Nat.testBit_mod_two_pow]
    by_cases h2 : lo ≤ i <;> by_cases h3 : i < lo + w
    · have h4 : ¬ i < lo := by omega
      have h5 : i - lo < 32 := by omega
      have h6 : i - lo < w := by omega
      simp [h2, h3, h4, h5, h6]
    · have h6 : ¬ i - lo < w := by omega
      simp [h2, h3, h6]
    · have h4 : i < lo := by omega
      simp [h2, h4]
    · have h4 : i < lo := by omega
      simp [h2, h4]
  · have h3 : ¬ (lo ≤ i ∧ i < lo + w) := by omega
    rw [if_neg h3]
    simp [BitVec.getLsbD_of_ge _ _ (by omega : 32 ≤ i)]

/-- A field reads back the value inserted, reduced to its width. -/
theorem fieldOf_insertField_same (v : Word) (lo w n : Nat) (h : lo + w ≤ 32) :
    fieldOf (insertField v lo w n) lo w = n % 2 ^ w := by
  apply Nat.eq_of_testBit_eq
  intro i
  rw [fieldOf_testBit, insertField_getLsbD _ _ _ _ _ h, Nat.testBit_mod_two_pow]
  by_cases hi : i < w
  · simp [hi]
  · simp [hi]

/-- A field disjoint from the one inserted is unchanged. -/
theorem fieldOf_insertField_other (v : Word) (lo w lo' w' n : Nat) (h : lo + w ≤ 32)
    (hd : lo' + w' ≤ lo ∨ lo + w ≤ lo') : fieldOf (insertField v lo w n) lo' w' = fieldOf v lo' w' := by
  apply Nat.eq_of_testBit_eq
  intro i
  rw [fieldOf_testBit, fieldOf_testBit, insertField_getLsbD _ _ _ _ _ h]
  by_cases hi : i < w'
  · have : ¬ (lo ≤ lo' + i ∧ lo' + i < lo + w) := by omega
    rw [if_neg this]
  · simp [hi]

end Sys2Proof.Laws
end

