-- ==== Sys2Proof/Laws/Sparse.lean ====
section
/-! SUPPORT. Laws of sparse tables: reading back what was set, leaving the rest, and keeping the canonical form. -/

namespace Sys2Proof.Laws

open Sys2Proof.Machine

variable {α : Type}

theorem sparseFind_put_same (m : Sparse α) (k : Nat) (v : α) : sparseFind (sparsePut m k v) k = some v := by
  induction m with
  | nil => simp [sparsePut, sparseFind]
  | cons p t ih =>
    obtain ⟨j, u⟩ := p
    simp only [sparsePut]
    split
    · simp [sparseFind]
    · split
      · simp [sparseFind]
      · rename_i h; simp [sparseFind, h, ih]

theorem sparseFind_put_other (m : Sparse α) {k k' : Nat} (v : α) (h : k' ≠ k) :
    sparseFind (sparsePut m k v) k' = sparseFind m k' := by
  induction m with
  | nil => simp [sparsePut, sparseFind, Ne.symm h]
  | cons p t ih =>
    obtain ⟨j, u⟩ := p
    simp only [sparsePut]
    split
    · simp [sparseFind, Ne.symm h]
    · split
      · rename_i hj; subst hj; simp [sparseFind, Ne.symm h]
      · simp only [sparseFind]; split <;> simp_all

theorem sparseFind_del_same (m : Sparse α) (k : Nat) : sparseFind (sparseDel m k) k = none := by
  induction m with
  | nil => rfl
  | cons p t ih =>
    obtain ⟨j, u⟩ := p
    simp only [sparseDel]
    split
    · exact ih
    · rename_i h; simp [sparseFind, h, ih]

theorem sparseFind_del_other (m : Sparse α) {k k' : Nat} (h : k' ≠ k) :
    sparseFind (sparseDel m k) k' = sparseFind m k' := by
  induction m with
  | nil => rfl
  | cons p t ih =>
    obtain ⟨j, u⟩ := p
    simp only [sparseDel]
    split
    · rename_i hj; subst hj; simp [sparseFind, Ne.symm h, ih]
    · simp only [sparseFind]; split <;> simp_all

variable [DecidableEq α]

@[simp] theorem sparseGet_set_same (d : Nat → α) (m : Sparse α) (k : Nat) (v : α) :
    sparseGet d (sparseSet d m k v) k = v := by
  unfold sparseSet
  split
  · rename_i h; simp [sparseGet, sparseFind_del_same, h]
  · simp [sparseGet, sparseFind_put_same]

theorem sparseGet_set_other (d : Nat → α) (m : Sparse α) {k k' : Nat} (v : α) (h : k' ≠ k) :
    sparseGet d (sparseSet d m k v) k' = sparseGet d m k' := by
  unfold sparseSet
  split
  · simp [sparseGet, sparseFind_del_other _ h]
  · simp [sparseGet, sparseFind_put_other _ _ h]

/-- Reading after a set: the value set at its key, what stood there elsewhere. -/
theorem sparseGet_set (d : Nat → α) (m : Sparse α) (k k' : Nat) (v : α) :
    sparseGet d (sparseSet d m k v) k' = if k' = k then v else sparseGet d m k' := by
  split
  · rename_i h; subst h; simp
  · rename_i h; exact sparseGet_set_other d m v h

omit [DecidableEq α] in
@[simp] theorem sparseGet_nil (d : Nat → α) (k : Nat) : sparseGet d [] k = d k := rfl

theorem sparseWfFrom_mono (d : Nat → α) {lo : Option Nat} {j : Nat} {m : Sparse α} (h : sparseWfFrom d (some j) m = true)
    (hlo : ∀ l ∈ lo, l ≤ j) : sparseWfFrom d lo m = true := by
  cases m with
  | nil => cases lo <;> rfl
  | cons p t =>
    obtain ⟨i, u⟩ := p
    cases lo with
    | none => simp_all [sparseWfFrom]
    | some l =>
      have := hlo l rfl
      simp only [sparseWfFrom, Bool.and_eq_true, decide_eq_true_eq] at h ⊢
      exact ⟨⟨by omega, h.1.2⟩, h.2⟩

theorem sparseWfFrom_put (d : Nat → α) (k : Nat) (v : α) (hv : v ≠ d k) (m : Sparse α) (lo : Option Nat)
    (hlo : ∀ l ∈ lo, l < k) (h : sparseWfFrom d lo m = true) : sparseWfFrom d lo (sparsePut m k v) = true := by
  induction m generalizing lo with
  | nil => cases lo <;> simp_all [sparsePut, sparseWfFrom]
  | cons p t ih =>
    obtain ⟨j, u⟩ := p
    simp only [sparsePut]
    split
    · rename_i hkj
      cases lo <;> simp_all [sparseWfFrom]
    · split
      · rename_i h1 h2; subst h2
        cases lo <;> simp_all [sparseWfFrom]
      · rename_i h1 h2
        have hjk : j < k := by omega
        cases lo with
        | none =>
          simp only [sparseWfFrom, Bool.and_eq_true] at h ⊢
          exact ⟨h.1, ih (some j) (by simpa using hjk) h.2⟩
        | some l =>
          simp only [sparseWfFrom, Bool.and_eq_true] at h ⊢
          exact ⟨h.1, ih (some j) (by simpa using hjk) h.2⟩

theorem sparseWfFrom_del (d : Nat → α) (k : Nat) (m : Sparse α) (lo : Option Nat)
    (h : sparseWfFrom d lo m = true) : sparseWfFrom d lo (sparseDel m k) = true := by
  induction m generalizing lo with
  | nil => cases lo <;> rfl
  | cons p t ih =>
    obtain ⟨j, u⟩ := p
    simp only [sparseDel]
    split
    · cases lo with
      | none =>
        simp only [sparseWfFrom, Bool.and_eq_true] at h
        exact ih none (sparseWfFrom_mono d h.2 (by simp))
      | some l =>
        simp only [sparseWfFrom, Bool.and_eq_true, decide_eq_true_eq] at h
        exact ih (some l) (sparseWfFrom_mono d h.2 (by intro x hx; cases hx; exact Nat.le_of_lt h.1.1))
    · cases lo <;> simp only [sparseWfFrom, Bool.and_eq_true] at h ⊢ <;> exact ⟨h.1, ih _ h.2⟩

/-- Setting keeps the canonical form. -/
theorem sparseWf_set (d : Nat → α) (m : Sparse α) (k : Nat) (v : α) (h : sparseWf d m = true) :
    sparseWf d (sparseSet d m k v) = true := by
  unfold sparseSet sparseWf at *
  split
  · exact sparseWfFrom_del d k m none h
  · rename_i hv; exact sparseWfFrom_put d k v hv m none (by simp) h

theorem sparseWfFrom_filter (d : Nat → α) (f : Nat × α → Bool) (m : Sparse α) (lo : Option Nat)
    (h : sparseWfFrom d lo m = true) : sparseWfFrom d lo (m.filter f) = true := by
  induction m generalizing lo with
  | nil => cases lo <;> rfl
  | cons p t ih =>
    obtain ⟨j, u⟩ := p
    simp only [List.filter]
    split
    · cases lo <;> simp only [sparseWfFrom, Bool.and_eq_true] at h ⊢ <;> exact ⟨h.1, ih _ h.2⟩
    · cases lo with
      | none =>
        simp only [sparseWfFrom, Bool.and_eq_true] at h
        exact ih none (sparseWfFrom_mono d h.2 (by simp))
      | some l =>
        simp only [sparseWfFrom, Bool.and_eq_true, decide_eq_true_eq] at h
        exact ih (some l) (sparseWfFrom_mono d h.2 (by intro x hx; cases hx; exact Nat.le_of_lt h.1.1))

/-- Dropping entries keeps the canonical form. -/
theorem sparseWf_filter (d : Nat → α) (f : Nat × α → Bool) (m : Sparse α) (h : sparseWf d m = true) :
    sparseWf d (m.filter f) = true := sparseWfFrom_filter d f m none h

end Sys2Proof.Laws
end

