-- ==== Sys2Proof/Laws/Keeps.lean ====
section
/-! SUPPORT. The relation that every command keeps: the rest of the queue, the fabric clock, the canonical form of the
register file, and every burnt fuse. The files KeepsX.lean prove it of each operation of Machine/X.lean. -/

namespace Sys2Proof.Machine

theorem Fuses.Le.refl (f : Fuses) : Fuses.Le f f := by simp [Fuses.Le]

theorem Fuses.Le.trans {f g k : Fuses} (a : Fuses.Le f g) (b : Fuses.Le g k) : Fuses.Le f k := by
  obtain ⟨a1, a2, a3, a4, a5, a6, a7⟩ := a
  obtain ⟨b1, b2, b3, b4, b5, b6, b7⟩ := b
  refine ⟨b1.trans a1, b2.trans a2, b3.trans a3, b4.trans a4, ?_, fun h => b6 (a6 h), b7.trans a7⟩
  rw [← a5, BitVec.and_assoc, b5]

/-- What a state s keeps of a state r that came before it. -/
structure Keeps (r s : State) : Prop where
  queue : s.pending = r.pending
  clock : s.time.clk = r.time.clk
  canon : r.Canon → s.Canon
  fuses : Fuses.Le r.board.fuses s.board.fuses

theorem Keeps.refl (s : State) : Keeps s s := ⟨rfl, rfl, id, Fuses.Le.refl _⟩

theorem Keeps.trans {r s t : State} (a : Keeps r s) (b : Keeps s t) : Keeps r t :=
  ⟨b.queue.trans a.queue, b.clock.trans a.clock, fun c => b.canon (a.canon c), a.fuses.trans b.fuses⟩

/-- Every next state of an outcome keeps r. -/
@[irreducible] def KeepsOut (r : State) (o : Host.Outcome State Fault Refusal) : Prop := ∀ t, o = .next t → Keeps r t

theorem keepsOut_next {r t : State} (h : Keeps r t) : KeepsOut r (.next t) := by
  unfold KeepsOut
  intro u e
  cases e
  exact h

theorem keepsOut_fault {r : State} (f : Fault) : KeepsOut r (.fault f) := by
  unfold KeepsOut
  intro u e
  cases e

theorem Keeps.of {r s t : State} (h : Keeps r s) (e1 : t.regs = s.regs) (e2 : t.pending = s.pending)
    (e3 : t.time.clk = s.time.clk) (e4 : t.board.fuses = s.board.fuses) : Keeps r t :=
  ⟨e2.trans h.queue, e3.trans h.clock,
    fun c => by have := h.canon c; unfold State.Canon at *; rw [e1]; exact this, e4 ▸ h.fuses⟩

/-- An update that leaves registers, queue, clock and fuses alone. -/
theorem keeps_mk {r s : State} (h : Keeps r s) {regs held latched occ time out board draft bbx i2c pair conv cal clk trig axis loom lanes seg beam mem
    shuttles dma strm disp pending}
    (e1 : regs = s.regs) (e2 : pending = s.pending) (e3 : time.clk = s.time.clk) (e4 : board.fuses = s.board.fuses) :
    Keeps r (State.mk regs held latched occ time out board draft bbx i2c pair conv cal clk trig axis loom lanes seg beam mem
    shuttles dma strm disp pending) :=
  Keeps.of h e1 e2 e3 e4

/-- An update that leaves registers, queue and clock alone and may burn fuses. -/
theorem Keeps.burn {r s : State} (h : Keeps r s) {regs held latched occ time out board draft bbx i2c pair conv cal clk trig axis loom lanes seg beam mem
    shuttles dma strm disp pending}
    (e1 : regs = s.regs) (e2 : pending = s.pending) (e3 : time.clk = s.time.clk)
    (e4 : Fuses.Le s.board.fuses board.fuses) :
    Keeps r (State.mk regs held latched occ time out board draft bbx i2c pair conv cal clk trig axis loom lanes seg beam mem
    shuttles dma strm disp pending) :=
  ⟨e2.trans h.queue, e3.trans h.clock,
    fun c => by have := h.canon c; unfold State.Canon at *; simp only [e1]; exact this, h.fuses.trans e4⟩

theorem keeps_foldl2 {r : State} {α β : Type} {f : α × State → β → α × State} {l : List β} {a : α × State}
    (h : Keeps r a.2) (hf : ∀ t b, Keeps r t.2 → Keeps r (f t b).2) : Keeps r (l.foldl f a).2 := by
  induction l generalizing a with
  | nil => exact h
  | cons b l ih => exact ih (hf _ _ h)

theorem keeps_ite {r : State} {c : Prop} [Decidable c] {a b : State} (ha : Keeps r a) (hb : Keeps r b) :
    Keeps r (if c then a else b) := by split <;> assumption

theorem keeps_ite2 {r : State} {α : Type} {c : Prop} [Decidable c] {a b : α × State} (ha : Keeps r a.2)
    (hb : Keeps r b.2) : Keeps r (if c then a else b).2 := by split <;> assumption

theorem keepsOut_ite {r : State} {c : Prop} [Decidable c] {a b : Host.Outcome State Fault Refusal} (ha : KeepsOut r a)
    (hb : KeepsOut r b) : KeepsOut r (if c then a else b) := by split <;> assumption

theorem keeps_foldl {r : State} {α : Type} {f : State → α → State} {l : List α} {s : State} (h : Keeps r s)
    (hf : ∀ t a, Keeps r t → Keeps r (f t a)) : Keeps r (l.foldl f s) := by
  induction l generalizing s with
  | nil => exact h
  | cons a l ih => exact ih (hf _ _ h)

theorem snd_eq {α β : Type} {p : α × β} {a : α} {b : β} (h : p = (a, b)) : b = p.2 := by rw [h]

end Sys2Proof.Machine
end

