-- ==== Sys2Proof/Laws/State.lean ====
section
/-! SUPPORT. One lemma per field of State and per update of it: an update leaves the other fields as they are. -/

namespace Sys2Proof.Machine

/-- What each step of a fold leaves as it is, the fold leaves as it is. -/
theorem foldl_same {α β γ : Type} (p : α → γ) (g : α → β → α) (h : ∀ a b, p (g a b) = p a) (l : List β) (a : α) :
    p (l.foldl g a) = p a := by
  induction l generalizing a with
  | nil => rfl
  | cons b l ih => exact (ih _).trans (h a b)

@[simp] theorem State.setReg_held (s : State) (o : Nat) (v : Word) : (s.setReg o v).held = s.held := rfl
@[simp] theorem State.setReg_latched (s : State) (o : Nat) (v : Word) : (s.setReg o v).latched = s.latched := rfl
@[simp] theorem State.setReg_occ (s : State) (o : Nat) (v : Word) : (s.setReg o v).occ = s.occ := rfl
@[simp] theorem State.setReg_time (s : State) (o : Nat) (v : Word) : (s.setReg o v).time = s.time := rfl
@[simp] theorem State.setReg_out (s : State) (o : Nat) (v : Word) : (s.setReg o v).out = s.out := rfl
@[simp] theorem State.setReg_board (s : State) (o : Nat) (v : Word) : (s.setReg o v).board = s.board := rfl
@[simp] theorem State.setReg_draft (s : State) (o : Nat) (v : Word) : (s.setReg o v).draft = s.draft := rfl
@[simp] theorem State.setReg_bbx (s : State) (o : Nat) (v : Word) : (s.setReg o v).bbx = s.bbx := rfl
@[simp] theorem State.setReg_i2c (s : State) (o : Nat) (v : Word) : (s.setReg o v).i2c = s.i2c := rfl
@[simp] theorem State.setReg_pair (s : State) (o : Nat) (v : Word) : (s.setReg o v).pair = s.pair := rfl
@[simp] theorem State.setReg_conv (s : State) (o : Nat) (v : Word) : (s.setReg o v).conv = s.conv := rfl
@[simp] theorem State.setReg_cal (s : State) (o : Nat) (v : Word) : (s.setReg o v).cal = s.cal := rfl
@[simp] theorem State.setReg_clk (s : State) (o : Nat) (v : Word) : (s.setReg o v).clk = s.clk := rfl
@[simp] theorem State.setReg_trig (s : State) (o : Nat) (v : Word) : (s.setReg o v).trig = s.trig := rfl
@[simp] theorem State.setReg_axis (s : State) (o : Nat) (v : Word) : (s.setReg o v).axis = s.axis := rfl
@[simp] theorem State.setReg_loom (s : State) (o : Nat) (v : Word) : (s.setReg o v).loom = s.loom := rfl
@[simp] theorem State.setReg_lanes (s : State) (o : Nat) (v : Word) : (s.setReg o v).lanes = s.lanes := rfl
@[simp] theorem State.setReg_seg (s : State) (o : Nat) (v : Word) : (s.setReg o v).seg = s.seg := rfl
@[simp] theorem State.setReg_beam (s : State) (o : Nat) (v : Word) : (s.setReg o v).beam = s.beam := rfl
@[simp] theorem State.setReg_mem (s : State) (o : Nat) (v : Word) : (s.setReg o v).mem = s.mem := rfl
@[simp] theorem State.setReg_shuttles (s : State) (o : Nat) (v : Word) : (s.setReg o v).shuttles = s.shuttles := rfl
@[simp] theorem State.setReg_dma (s : State) (o : Nat) (v : Word) : (s.setReg o v).dma = s.dma := rfl
@[simp] theorem State.setReg_strm (s : State) (o : Nat) (v : Word) : (s.setReg o v).strm = s.strm := rfl
@[simp] theorem State.setReg_disp (s : State) (o : Nat) (v : Word) : (s.setReg o v).disp = s.disp := rfl
@[simp] theorem State.setReg_pending (s : State) (o : Nat) (v : Word) : (s.setReg o v).pending = s.pending := rfl

@[simp] theorem State.setF_held (s : State) (f : Fld) (n : Nat) : (s.setF f n).held = s.held := rfl
@[simp] theorem State.setF_latched (s : State) (f : Fld) (n : Nat) : (s.setF f n).latched = s.latched := rfl
@[simp] theorem State.setF_occ (s : State) (f : Fld) (n : Nat) : (s.setF f n).occ = s.occ := rfl
@[simp] theorem State.setF_time (s : State) (f : Fld) (n : Nat) : (s.setF f n).time = s.time := rfl
@[simp] theorem State.setF_out (s : State) (f : Fld) (n : Nat) : (s.setF f n).out = s.out := rfl
@[simp] theorem State.setF_board (s : State) (f : Fld) (n : Nat) : (s.setF f n).board = s.board := rfl
@[simp] theorem State.setF_draft (s : State) (f : Fld) (n : Nat) : (s.setF f n).draft = s.draft := rfl
@[simp] theorem State.setF_bbx (s : State) (f : Fld) (n : Nat) : (s.setF f n).bbx = s.bbx := rfl
@[simp] theorem State.setF_i2c (s : State) (f : Fld) (n : Nat) : (s.setF f n).i2c = s.i2c := rfl
@[simp] theorem State.setF_pair (s : State) (f : Fld) (n : Nat) : (s.setF f n).pair = s.pair := rfl
@[simp] theorem State.setF_conv (s : State) (f : Fld) (n : Nat) : (s.setF f n).conv = s.conv := rfl
@[simp] theorem State.setF_cal (s : State) (f : Fld) (n : Nat) : (s.setF f n).cal = s.cal := rfl
@[simp] theorem State.setF_clk (s : State) (f : Fld) (n : Nat) : (s.setF f n).clk = s.clk := rfl
@[simp] theorem State.setF_trig (s : State) (f : Fld) (n : Nat) : (s.setF f n).trig = s.trig := rfl
@[simp] theorem State.setF_axis (s : State) (f : Fld) (n : Nat) : (s.setF f n).axis = s.axis := rfl
@[simp] theorem State.setF_loom (s : State) (f : Fld) (n : Nat) : (s.setF f n).loom = s.loom := rfl
@[simp] theorem State.setF_lanes (s : State) (f : Fld) (n : Nat) : (s.setF f n).lanes = s.lanes := rfl
@[simp] theorem State.setF_seg (s : State) (f : Fld) (n : Nat) : (s.setF f n).seg = s.seg := rfl
@[simp] theorem State.setF_beam (s : State) (f : Fld) (n : Nat) : (s.setF f n).beam = s.beam := rfl
@[simp] theorem State.setF_mem (s : State) (f : Fld) (n : Nat) : (s.setF f n).mem = s.mem := rfl
@[simp] theorem State.setF_shuttles (s : State) (f : Fld) (n : Nat) : (s.setF f n).shuttles = s.shuttles := rfl
@[simp] theorem State.setF_dma (s : State) (f : Fld) (n : Nat) : (s.setF f n).dma = s.dma := rfl
@[simp] theorem State.setF_strm (s : State) (f : Fld) (n : Nat) : (s.setF f n).strm = s.strm := rfl
@[simp] theorem State.setF_disp (s : State) (f : Fld) (n : Nat) : (s.setF f n).disp = s.disp := rfl
@[simp] theorem State.setF_pending (s : State) (f : Fld) (n : Nat) : (s.setF f n).pending = s.pending := rfl

@[simp] theorem State.setBit_held (s : State) (f : Fld) (b : Bool) : (s.setBit f b).held = s.held := rfl
@[simp] theorem State.setBit_latched (s : State) (f : Fld) (b : Bool) : (s.setBit f b).latched = s.latched := rfl
@[simp] theorem State.setBit_occ (s : State) (f : Fld) (b : Bool) : (s.setBit f b).occ = s.occ := rfl
@[simp] theorem State.setBit_time (s : State) (f : Fld) (b : Bool) : (s.setBit f b).time = s.time := rfl
@[simp] theorem State.setBit_out (s : State) (f : Fld) (b : Bool) : (s.setBit f b).out = s.out := rfl
@[simp] theorem State.setBit_board (s : State) (f : Fld) (b : Bool) : (s.setBit f b).board = s.board := rfl
@[simp] theorem State.setBit_draft (s : State) (f : Fld) (b : Bool) : (s.setBit f b).draft = s.draft := rfl
@[simp] theorem State.setBit_bbx (s : State) (f : Fld) (b : Bool) : (s.setBit f b).bbx = s.bbx := rfl
@[simp] theorem State.setBit_i2c (s : State) (f : Fld) (b : Bool) : (s.setBit f b).i2c = s.i2c := rfl
@[simp] theorem State.setBit_pair (s : State) (f : Fld) (b : Bool) : (s.setBit f b).pair = s.pair := rfl
@[simp] theorem State.setBit_conv (s : State) (f : Fld) (b : Bool) : (s.setBit f b).conv = s.conv := rfl
@[simp] theorem State.setBit_cal (s : State) (f : Fld) (b : Bool) : (s.setBit f b).cal = s.cal := rfl
@[simp] theorem State.setBit_clk (s : State) (f : Fld) (b : Bool) : (s.setBit f b).clk = s.clk := rfl
@[simp] theorem State.setBit_trig (s : State) (f : Fld) (b : Bool) : (s.setBit f b).trig = s.trig := rfl
@[simp] theorem State.setBit_axis (s : State) (f : Fld) (b : Bool) : (s.setBit f b).axis = s.axis := rfl
@[simp] theorem State.setBit_loom (s : State) (f : Fld) (b : Bool) : (s.setBit f b).loom = s.loom := rfl
@[simp] theorem State.setBit_lanes (s : State) (f : Fld) (b : Bool) : (s.setBit f b).lanes = s.lanes := rfl
@[simp] theorem State.setBit_seg (s : State) (f : Fld) (b : Bool) : (s.setBit f b).seg = s.seg := rfl
@[simp] theorem State.setBit_beam (s : State) (f : Fld) (b : Bool) : (s.setBit f b).beam = s.beam := rfl
@[simp] theorem State.setBit_mem (s : State) (f : Fld) (b : Bool) : (s.setBit f b).mem = s.mem := rfl
@[simp] theorem State.setBit_shuttles (s : State) (f : Fld) (b : Bool) : (s.setBit f b).shuttles = s.shuttles := rfl
@[simp] theorem State.setBit_dma (s : State) (f : Fld) (b : Bool) : (s.setBit f b).dma = s.dma := rfl
@[simp] theorem State.setBit_strm (s : State) (f : Fld) (b : Bool) : (s.setBit f b).strm = s.strm := rfl
@[simp] theorem State.setBit_disp (s : State) (f : Fld) (b : Bool) : (s.setBit f b).disp = s.disp := rfl
@[simp] theorem State.setBit_pending (s : State) (f : Fld) (b : Bool) : (s.setBit f b).pending = s.pending := rfl

@[simp] theorem State.set64_held (s : State) (o n : Nat) : (s.set64 o n).held = s.held := rfl
@[simp] theorem State.set64_latched (s : State) (o n : Nat) : (s.set64 o n).latched = s.latched := rfl
@[simp] theorem State.set64_occ (s : State) (o n : Nat) : (s.set64 o n).occ = s.occ := rfl
@[simp] theorem State.set64_time (s : State) (o n : Nat) : (s.set64 o n).time = s.time := rfl
@[simp] theorem State.set64_out (s : State) (o n : Nat) : (s.set64 o n).out = s.out := rfl
@[simp] theorem State.set64_board (s : State) (o n : Nat) : (s.set64 o n).board = s.board := rfl
@[simp] theorem State.set64_draft (s : State) (o n : Nat) : (s.set64 o n).draft = s.draft := rfl
@[simp] theorem State.set64_bbx (s : State) (o n : Nat) : (s.set64 o n).bbx = s.bbx := rfl
@[simp] theorem State.set64_i2c (s : State) (o n : Nat) : (s.set64 o n).i2c = s.i2c := rfl
@[simp] theorem State.set64_pair (s : State) (o n : Nat) : (s.set64 o n).pair = s.pair := rfl
@[simp] theorem State.set64_conv (s : State) (o n : Nat) : (s.set64 o n).conv = s.conv := rfl
@[simp] theorem State.set64_cal (s : State) (o n : Nat) : (s.set64 o n).cal = s.cal := rfl
@[simp] theorem State.set64_clk (s : State) (o n : Nat) : (s.set64 o n).clk = s.clk := rfl
@[simp] theorem State.set64_trig (s : State) (o n : Nat) : (s.set64 o n).trig = s.trig := rfl
@[simp] theorem State.set64_axis (s : State) (o n : Nat) : (s.set64 o n).axis = s.axis := rfl
@[simp] theorem State.set64_loom (s : State) (o n : Nat) : (s.set64 o n).loom = s.loom := rfl
@[simp] theorem State.set64_lanes (s : State) (o n : Nat) : (s.set64 o n).lanes = s.lanes := rfl
@[simp] theorem State.set64_seg (s : State) (o n : Nat) : (s.set64 o n).seg = s.seg := rfl
@[simp] theorem State.set64_beam (s : State) (o n : Nat) : (s.set64 o n).beam = s.beam := rfl
@[simp] theorem State.set64_mem (s : State) (o n : Nat) : (s.set64 o n).mem = s.mem := rfl
@[simp] theorem State.set64_shuttles (s : State) (o n : Nat) : (s.set64 o n).shuttles = s.shuttles := rfl
@[simp] theorem State.set64_dma (s : State) (o n : Nat) : (s.set64 o n).dma = s.dma := rfl
@[simp] theorem State.set64_strm (s : State) (o n : Nat) : (s.set64 o n).strm = s.strm := rfl
@[simp] theorem State.set64_disp (s : State) (o n : Nat) : (s.set64 o n).disp = s.disp := rfl
@[simp] theorem State.set64_pending (s : State) (o n : Nat) : (s.set64 o n).pending = s.pending := rfl

@[simp] theorem State.storeReg_held (s : State) (o : Nat) (v : Word) : (s.storeReg o v).held = s.held := rfl
@[simp] theorem State.storeReg_latched (s : State) (o : Nat) (v : Word) : (s.storeReg o v).latched = s.latched := rfl
@[simp] theorem State.storeReg_occ (s : State) (o : Nat) (v : Word) : (s.storeReg o v).occ = s.occ := rfl
@[simp] theorem State.storeReg_time (s : State) (o : Nat) (v : Word) : (s.storeReg o v).time = s.time := rfl
@[simp] theorem State.storeReg_out (s : State) (o : Nat) (v : Word) : (s.storeReg o v).out = s.out := rfl
@[simp] theorem State.storeReg_board (s : State) (o : Nat) (v : Word) : (s.storeReg o v).board = s.board := rfl
@[simp] theorem State.storeReg_draft (s : State) (o : Nat) (v : Word) : (s.storeReg o v).draft = s.draft := rfl
@[simp] theorem State.storeReg_bbx (s : State) (o : Nat) (v : Word) : (s.storeReg o v).bbx = s.bbx := rfl
@[simp] theorem State.storeReg_i2c (s : State) (o : Nat) (v : Word) : (s.storeReg o v).i2c = s.i2c := rfl
@[simp] theorem State.storeReg_pair (s : State) (o : Nat) (v : Word) : (s.storeReg o v).pair = s.pair := rfl
@[simp] theorem State.storeReg_conv (s : State) (o : Nat) (v : Word) : (s.storeReg o v).conv = s.conv := rfl
@[simp] theorem State.storeReg_cal (s : State) (o : Nat) (v : Word) : (s.storeReg o v).cal = s.cal := rfl
@[simp] theorem State.storeReg_clk (s : State) (o : Nat) (v : Word) : (s.storeReg o v).clk = s.clk := rfl
@[simp] theorem State.storeReg_trig (s : State) (o : Nat) (v : Word) : (s.storeReg o v).trig = s.trig := rfl
@[simp] theorem State.storeReg_axis (s : State) (o : Nat) (v : Word) : (s.storeReg o v).axis = s.axis := rfl
@[simp] theorem State.storeReg_loom (s : State) (o : Nat) (v : Word) : (s.storeReg o v).loom = s.loom := rfl
@[simp] theorem State.storeReg_lanes (s : State) (o : Nat) (v : Word) : (s.storeReg o v).lanes = s.lanes := rfl
@[simp] theorem State.storeReg_seg (s : State) (o : Nat) (v : Word) : (s.storeReg o v).seg = s.seg := rfl
@[simp] theorem State.storeReg_beam (s : State) (o : Nat) (v : Word) : (s.storeReg o v).beam = s.beam := rfl
@[simp] theorem State.storeReg_mem (s : State) (o : Nat) (v : Word) : (s.storeReg o v).mem = s.mem := rfl
@[simp] theorem State.storeReg_shuttles (s : State) (o : Nat) (v : Word) : (s.storeReg o v).shuttles = s.shuttles := rfl
@[simp] theorem State.storeReg_dma (s : State) (o : Nat) (v : Word) : (s.storeReg o v).dma = s.dma := rfl
@[simp] theorem State.storeReg_strm (s : State) (o : Nat) (v : Word) : (s.storeReg o v).strm = s.strm := rfl
@[simp] theorem State.storeReg_disp (s : State) (o : Nat) (v : Word) : (s.storeReg o v).disp = s.disp := rfl
@[simp] theorem State.storeReg_pending (s : State) (o : Nat) (v : Word) : (s.storeReg o v).pending = s.pending := rfl

@[simp] theorem State.send_regs (s : State) (o : Output) : (s.send o).regs = s.regs := rfl
@[simp] theorem State.send_held (s : State) (o : Output) : (s.send o).held = s.held := rfl
@[simp] theorem State.send_latched (s : State) (o : Output) : (s.send o).latched = s.latched := rfl
@[simp] theorem State.send_occ (s : State) (o : Output) : (s.send o).occ = s.occ := rfl
@[simp] theorem State.send_time (s : State) (o : Output) : (s.send o).time = s.time := rfl
@[simp] theorem State.send_board (s : State) (o : Output) : (s.send o).board = s.board := rfl
@[simp] theorem State.send_draft (s : State) (o : Output) : (s.send o).draft = s.draft := rfl
@[simp] theorem State.send_bbx (s : State) (o : Output) : (s.send o).bbx = s.bbx := rfl
@[simp] theorem State.send_i2c (s : State) (o : Output) : (s.send o).i2c = s.i2c := rfl
@[simp] theorem State.send_pair (s : State) (o : Output) : (s.send o).pair = s.pair := rfl
@[simp] theorem State.send_conv (s : State) (o : Output) : (s.send o).conv = s.conv := rfl
@[simp] theorem State.send_cal (s : State) (o : Output) : (s.send o).cal = s.cal := rfl
@[simp] theorem State.send_clk (s : State) (o : Output) : (s.send o).clk = s.clk := rfl
@[simp] theorem State.send_trig (s : State) (o : Output) : (s.send o).trig = s.trig := rfl
@[simp] theorem State.send_axis (s : State) (o : Output) : (s.send o).axis = s.axis := rfl
@[simp] theorem State.send_loom (s : State) (o : Output) : (s.send o).loom = s.loom := rfl
@[simp] theorem State.send_lanes (s : State) (o : Output) : (s.send o).lanes = s.lanes := rfl
@[simp] theorem State.send_seg (s : State) (o : Output) : (s.send o).seg = s.seg := rfl
@[simp] theorem State.send_beam (s : State) (o : Output) : (s.send o).beam = s.beam := rfl
@[simp] theorem State.send_mem (s : State) (o : Output) : (s.send o).mem = s.mem := rfl
@[simp] theorem State.send_shuttles (s : State) (o : Output) : (s.send o).shuttles = s.shuttles := rfl
@[simp] theorem State.send_dma (s : State) (o : Output) : (s.send o).dma = s.dma := rfl
@[simp] theorem State.send_strm (s : State) (o : Output) : (s.send o).strm = s.strm := rfl
@[simp] theorem State.send_disp (s : State) (o : Output) : (s.send o).disp = s.disp := rfl
@[simp] theorem State.send_pending (s : State) (o : Output) : (s.send o).pending = s.pending := rfl

@[simp] theorem State.nextFree_regs (s : State) : (s.nextFree).regs = s.regs := rfl
@[simp] theorem State.nextFree_held (s : State) : (s.nextFree).held = s.held := rfl
@[simp] theorem State.nextFree_latched (s : State) : (s.nextFree).latched = s.latched := rfl
@[simp] theorem State.nextFree_occ (s : State) : (s.nextFree).occ = s.occ := rfl
@[simp] theorem State.nextFree_out (s : State) : (s.nextFree).out = s.out := rfl
@[simp] theorem State.nextFree_board (s : State) : (s.nextFree).board = s.board := rfl
@[simp] theorem State.nextFree_draft (s : State) : (s.nextFree).draft = s.draft := rfl
@[simp] theorem State.nextFree_bbx (s : State) : (s.nextFree).bbx = s.bbx := rfl
@[simp] theorem State.nextFree_i2c (s : State) : (s.nextFree).i2c = s.i2c := rfl
@[simp] theorem State.nextFree_pair (s : State) : (s.nextFree).pair = s.pair := rfl
@[simp] theorem State.nextFree_conv (s : State) : (s.nextFree).conv = s.conv := rfl
@[simp] theorem State.nextFree_cal (s : State) : (s.nextFree).cal = s.cal := rfl
@[simp] theorem State.nextFree_clk (s : State) : (s.nextFree).clk = s.clk := rfl
@[simp] theorem State.nextFree_trig (s : State) : (s.nextFree).trig = s.trig := rfl
@[simp] theorem State.nextFree_axis (s : State) : (s.nextFree).axis = s.axis := rfl
@[simp] theorem State.nextFree_loom (s : State) : (s.nextFree).loom = s.loom := rfl
@[simp] theorem State.nextFree_lanes (s : State) : (s.nextFree).lanes = s.lanes := rfl
@[simp] theorem State.nextFree_seg (s : State) : (s.nextFree).seg = s.seg := rfl
@[simp] theorem State.nextFree_beam (s : State) : (s.nextFree).beam = s.beam := rfl
@[simp] theorem State.nextFree_mem (s : State) : (s.nextFree).mem = s.mem := rfl
@[simp] theorem State.nextFree_shuttles (s : State) : (s.nextFree).shuttles = s.shuttles := rfl
@[simp] theorem State.nextFree_dma (s : State) : (s.nextFree).dma = s.dma := rfl
@[simp] theorem State.nextFree_strm (s : State) : (s.nextFree).strm = s.strm := rfl
@[simp] theorem State.nextFree_disp (s : State) : (s.nextFree).disp = s.disp := rfl
@[simp] theorem State.nextFree_pending (s : State) : (s.nextFree).pending = s.pending := rfl

@[simp] theorem State.holdLo_regs (s : State) (o : Nat) (v : Word) : (s.holdLo o v).regs = s.regs := rfl
@[simp] theorem State.holdLo_latched (s : State) (o : Nat) (v : Word) : (s.holdLo o v).latched = s.latched := rfl
@[simp] theorem State.holdLo_occ (s : State) (o : Nat) (v : Word) : (s.holdLo o v).occ = s.occ := rfl
@[simp] theorem State.holdLo_time (s : State) (o : Nat) (v : Word) : (s.holdLo o v).time = s.time := rfl
@[simp] theorem State.holdLo_out (s : State) (o : Nat) (v : Word) : (s.holdLo o v).out = s.out := rfl
@[simp] theorem State.holdLo_board (s : State) (o : Nat) (v : Word) : (s.holdLo o v).board = s.board := rfl
@[simp] theorem State.holdLo_draft (s : State) (o : Nat) (v : Word) : (s.holdLo o v).draft = s.draft := rfl
@[simp] theorem State.holdLo_bbx (s : State) (o : Nat) (v : Word) : (s.holdLo o v).bbx = s.bbx := rfl
@[simp] theorem State.holdLo_i2c (s : State) (o : Nat) (v : Word) : (s.holdLo o v).i2c = s.i2c := rfl
@[simp] theorem State.holdLo_pair (s : State) (o : Nat) (v : Word) : (s.holdLo o v).pair = s.pair := rfl
@[simp] theorem State.holdLo_conv (s : State) (o : Nat) (v : Word) : (s.holdLo o v).conv = s.conv := rfl
@[simp] theorem State.holdLo_cal (s : State) (o : Nat) (v : Word) : (s.holdLo o v).cal = s.cal := rfl
@[simp] theorem State.holdLo_clk (s : State) (o : Nat) (v : Word) : (s.holdLo o v).clk = s.clk := rfl
@[simp] theorem State.holdLo_trig (s : State) (o : Nat) (v : Word) : (s.holdLo o v).trig = s.trig := rfl
@[simp] theorem State.holdLo_axis (s : State) (o : Nat) (v : Word) : (s.holdLo o v).axis = s.axis := rfl
@[simp] theorem State.holdLo_loom (s : State) (o : Nat) (v : Word) : (s.holdLo o v).loom = s.loom := rfl
@[simp] theorem State.holdLo_lanes (s : State) (o : Nat) (v : Word) : (s.holdLo o v).lanes = s.lanes := rfl
@[simp] theorem State.holdLo_seg (s : State) (o : Nat) (v : Word) : (s.holdLo o v).seg = s.seg := rfl
@[simp] theorem State.holdLo_beam (s : State) (o : Nat) (v : Word) : (s.holdLo o v).beam = s.beam := rfl
@[simp] theorem State.holdLo_mem (s : State) (o : Nat) (v : Word) : (s.holdLo o v).mem = s.mem := rfl
@[simp] theorem State.holdLo_shuttles (s : State) (o : Nat) (v : Word) : (s.holdLo o v).shuttles = s.shuttles := rfl
@[simp] theorem State.holdLo_dma (s : State) (o : Nat) (v : Word) : (s.holdLo o v).dma = s.dma := rfl
@[simp] theorem State.holdLo_strm (s : State) (o : Nat) (v : Word) : (s.holdLo o v).strm = s.strm := rfl
@[simp] theorem State.holdLo_disp (s : State) (o : Nat) (v : Word) : (s.holdLo o v).disp = s.disp := rfl
@[simp] theorem State.holdLo_pending (s : State) (o : Nat) (v : Word) : (s.holdLo o v).pending = s.pending := rfl

@[simp] theorem State.latch_regs (s : State) (o : Nat) (v : Word) : (s.latch o v).regs = s.regs := rfl
@[simp] theorem State.latch_held (s : State) (o : Nat) (v : Word) : (s.latch o v).held = s.held := rfl
@[simp] theorem State.latch_occ (s : State) (o : Nat) (v : Word) : (s.latch o v).occ = s.occ := rfl
@[simp] theorem State.latch_time (s : State) (o : Nat) (v : Word) : (s.latch o v).time = s.time := rfl
@[simp] theorem State.latch_out (s : State) (o : Nat) (v : Word) : (s.latch o v).out = s.out := rfl
@[simp] theorem State.latch_board (s : State) (o : Nat) (v : Word) : (s.latch o v).board = s.board := rfl
@[simp] theorem State.latch_draft (s : State) (o : Nat) (v : Word) : (s.latch o v).draft = s.draft := rfl
@[simp] theorem State.latch_bbx (s : State) (o : Nat) (v : Word) : (s.latch o v).bbx = s.bbx := rfl
@[simp] theorem State.latch_i2c (s : State) (o : Nat) (v : Word) : (s.latch o v).i2c = s.i2c := rfl
@[simp] theorem State.latch_pair (s : State) (o : Nat) (v : Word) : (s.latch o v).pair = s.pair := rfl
@[simp] theorem State.latch_conv (s : State) (o : Nat) (v : Word) : (s.latch o v).conv = s.conv := rfl
@[simp] theorem State.latch_cal (s : State) (o : Nat) (v : Word) : (s.latch o v).cal = s.cal := rfl
@[simp] theorem State.latch_clk (s : State) (o : Nat) (v : Word) : (s.latch o v).clk = s.clk := rfl
@[simp] theorem State.latch_trig (s : State) (o : Nat) (v : Word) : (s.latch o v).trig = s.trig := rfl
@[simp] theorem State.latch_axis (s : State) (o : Nat) (v : Word) : (s.latch o v).axis = s.axis := rfl
@[simp] theorem State.latch_loom (s : State) (o : Nat) (v : Word) : (s.latch o v).loom = s.loom := rfl
@[simp] theorem State.latch_lanes (s : State) (o : Nat) (v : Word) : (s.latch o v).lanes = s.lanes := rfl
@[simp] theorem State.latch_seg (s : State) (o : Nat) (v : Word) : (s.latch o v).seg = s.seg := rfl
@[simp] theorem State.latch_beam (s : State) (o : Nat) (v : Word) : (s.latch o v).beam = s.beam := rfl
@[simp] theorem State.latch_mem (s : State) (o : Nat) (v : Word) : (s.latch o v).mem = s.mem := rfl
@[simp] theorem State.latch_shuttles (s : State) (o : Nat) (v : Word) : (s.latch o v).shuttles = s.shuttles := rfl
@[simp] theorem State.latch_dma (s : State) (o : Nat) (v : Word) : (s.latch o v).dma = s.dma := rfl
@[simp] theorem State.latch_strm (s : State) (o : Nat) (v : Word) : (s.latch o v).strm = s.strm := rfl
@[simp] theorem State.latch_disp (s : State) (o : Nat) (v : Word) : (s.latch o v).disp = s.disp := rfl
@[simp] theorem State.latch_pending (s : State) (o : Nat) (v : Word) : (s.latch o v).pending = s.pending := rfl

@[simp] theorem State.rclPut_held (s : State) (o a n : Nat) : (s.rclPut o a n).held = s.held := rfl
@[simp] theorem State.rclPut_latched (s : State) (o a n : Nat) : (s.rclPut o a n).latched = s.latched := rfl
@[simp] theorem State.rclPut_occ (s : State) (o a n : Nat) : (s.rclPut o a n).occ = s.occ := rfl
@[simp] theorem State.rclPut_out (s : State) (o a n : Nat) : (s.rclPut o a n).out = s.out := rfl
@[simp] theorem State.rclPut_board (s : State) (o a n : Nat) : (s.rclPut o a n).board = s.board := rfl
@[simp] theorem State.rclPut_draft (s : State) (o a n : Nat) : (s.rclPut o a n).draft = s.draft := rfl
@[simp] theorem State.rclPut_bbx (s : State) (o a n : Nat) : (s.rclPut o a n).bbx = s.bbx := rfl
@[simp] theorem State.rclPut_i2c (s : State) (o a n : Nat) : (s.rclPut o a n).i2c = s.i2c := rfl
@[simp] theorem State.rclPut_pair (s : State) (o a n : Nat) : (s.rclPut o a n).pair = s.pair := rfl
@[simp] theorem State.rclPut_conv (s : State) (o a n : Nat) : (s.rclPut o a n).conv = s.conv := rfl
@[simp] theorem State.rclPut_cal (s : State) (o a n : Nat) : (s.rclPut o a n).cal = s.cal := rfl
@[simp] theorem State.rclPut_clk (s : State) (o a n : Nat) : (s.rclPut o a n).clk = s.clk := rfl
@[simp] theorem State.rclPut_trig (s : State) (o a n : Nat) : (s.rclPut o a n).trig = s.trig := rfl
@[simp] theorem State.rclPut_axis (s : State) (o a n : Nat) : (s.rclPut o a n).axis = s.axis := rfl
@[simp] theorem State.rclPut_loom (s : State) (o a n : Nat) : (s.rclPut o a n).loom = s.loom := rfl
@[simp] theorem State.rclPut_lanes (s : State) (o a n : Nat) : (s.rclPut o a n).lanes = s.lanes := rfl
@[simp] theorem State.rclPut_seg (s : State) (o a n : Nat) : (s.rclPut o a n).seg = s.seg := rfl
@[simp] theorem State.rclPut_beam (s : State) (o a n : Nat) : (s.rclPut o a n).beam = s.beam := rfl
@[simp] theorem State.rclPut_mem (s : State) (o a n : Nat) : (s.rclPut o a n).mem = s.mem := rfl
@[simp] theorem State.rclPut_shuttles (s : State) (o a n : Nat) : (s.rclPut o a n).shuttles = s.shuttles := rfl
@[simp] theorem State.rclPut_dma (s : State) (o a n : Nat) : (s.rclPut o a n).dma = s.dma := rfl
@[simp] theorem State.rclPut_strm (s : State) (o a n : Nat) : (s.rclPut o a n).strm = s.strm := rfl
@[simp] theorem State.rclPut_disp (s : State) (o a n : Nat) : (s.rclPut o a n).disp = s.disp := rfl
@[simp] theorem State.rclPut_pending (s : State) (o a n : Nat) : (s.rclPut o a n).pending = s.pending := rfl

@[simp] theorem State.sendCell_regs (s : State) (c : Cell) : (s.sendCell c).regs = s.regs := rfl
@[simp] theorem State.sendCell_held (s : State) (c : Cell) : (s.sendCell c).held = s.held := rfl
@[simp] theorem State.sendCell_latched (s : State) (c : Cell) : (s.sendCell c).latched = s.latched := rfl
@[simp] theorem State.sendCell_occ (s : State) (c : Cell) : (s.sendCell c).occ = s.occ := rfl
@[simp] theorem State.sendCell_time (s : State) (c : Cell) : (s.sendCell c).time = s.time := rfl
@[simp] theorem State.sendCell_board (s : State) (c : Cell) : (s.sendCell c).board = s.board := rfl
@[simp] theorem State.sendCell_draft (s : State) (c : Cell) : (s.sendCell c).draft = s.draft := rfl
@[simp] theorem State.sendCell_bbx (s : State) (c : Cell) : (s.sendCell c).bbx = s.bbx := rfl
@[simp] theorem State.sendCell_i2c (s : State) (c : Cell) : (s.sendCell c).i2c = s.i2c := rfl
@[simp] theorem State.sendCell_conv (s : State) (c : Cell) : (s.sendCell c).conv = s.conv := rfl
@[simp] theorem State.sendCell_cal (s : State) (c : Cell) : (s.sendCell c).cal = s.cal := rfl
@[simp] theorem State.sendCell_clk (s : State) (c : Cell) : (s.sendCell c).clk = s.clk := rfl
@[simp] theorem State.sendCell_trig (s : State) (c : Cell) : (s.sendCell c).trig = s.trig := rfl
@[simp] theorem State.sendCell_axis (s : State) (c : Cell) : (s.sendCell c).axis = s.axis := rfl
@[simp] theorem State.sendCell_loom (s : State) (c : Cell) : (s.sendCell c).loom = s.loom := rfl
@[simp] theorem State.sendCell_lanes (s : State) (c : Cell) : (s.sendCell c).lanes = s.lanes := rfl
@[simp] theorem State.sendCell_seg (s : State) (c : Cell) : (s.sendCell c).seg = s.seg := rfl
@[simp] theorem State.sendCell_beam (s : State) (c : Cell) : (s.sendCell c).beam = s.beam := rfl
@[simp] theorem State.sendCell_mem (s : State) (c : Cell) : (s.sendCell c).mem = s.mem := rfl
@[simp] theorem State.sendCell_shuttles (s : State) (c : Cell) : (s.sendCell c).shuttles = s.shuttles := rfl
@[simp] theorem State.sendCell_dma (s : State) (c : Cell) : (s.sendCell c).dma = s.dma := rfl
@[simp] theorem State.sendCell_strm (s : State) (c : Cell) : (s.sendCell c).strm = s.strm := rfl
@[simp] theorem State.sendCell_disp (s : State) (c : Cell) : (s.sendCell c).disp = s.disp := rfl
@[simp] theorem State.sendCell_pending (s : State) (c : Cell) : (s.sendCell c).pending = s.pending := rfl

@[simp] theorem State.withPair_regs (s : State) (f : PairSt → PairSt) : (s.withPair f).regs = s.regs := rfl
@[simp] theorem State.withPair_held (s : State) (f : PairSt → PairSt) : (s.withPair f).held = s.held := rfl
@[simp] theorem State.withPair_latched (s : State) (f : PairSt → PairSt) : (s.withPair f).latched = s.latched := rfl
@[simp] theorem State.withPair_occ (s : State) (f : PairSt → PairSt) : (s.withPair f).occ = s.occ := rfl
@[simp] theorem State.withPair_time (s : State) (f : PairSt → PairSt) : (s.withPair f).time = s.time := rfl
@[simp] theorem State.withPair_out (s : State) (f : PairSt → PairSt) : (s.withPair f).out = s.out := rfl
@[simp] theorem State.withPair_board (s : State) (f : PairSt → PairSt) : (s.withPair f).board = s.board := rfl
@[simp] theorem State.withPair_draft (s : State) (f : PairSt → PairSt) : (s.withPair f).draft = s.draft := rfl
@[simp] theorem State.withPair_bbx (s : State) (f : PairSt → PairSt) : (s.withPair f).bbx = s.bbx := rfl
@[simp] theorem State.withPair_i2c (s : State) (f : PairSt → PairSt) : (s.withPair f).i2c = s.i2c := rfl
@[simp] theorem State.withPair_conv (s : State) (f : PairSt → PairSt) : (s.withPair f).conv = s.conv := rfl
@[simp] theorem State.withPair_cal (s : State) (f : PairSt → PairSt) : (s.withPair f).cal = s.cal := rfl
@[simp] theorem State.withPair_clk (s : State) (f : PairSt → PairSt) : (s.withPair f).clk = s.clk := rfl
@[simp] theorem State.withPair_trig (s : State) (f : PairSt → PairSt) : (s.withPair f).trig = s.trig := rfl
@[simp] theorem State.withPair_axis (s : State) (f : PairSt → PairSt) : (s.withPair f).axis = s.axis := rfl
@[simp] theorem State.withPair_loom (s : State) (f : PairSt → PairSt) : (s.withPair f).loom = s.loom := rfl
@[simp] theorem State.withPair_lanes (s : State) (f : PairSt → PairSt) : (s.withPair f).lanes = s.lanes := rfl
@[simp] theorem State.withPair_seg (s : State) (f : PairSt → PairSt) : (s.withPair f).seg = s.seg := rfl
@[simp] theorem State.withPair_beam (s : State) (f : PairSt → PairSt) : (s.withPair f).beam = s.beam := rfl
@[simp] theorem State.withPair_mem (s : State) (f : PairSt → PairSt) : (s.withPair f).mem = s.mem := rfl
@[simp] theorem State.withPair_shuttles (s : State) (f : PairSt → PairSt) : (s.withPair f).shuttles = s.shuttles := rfl
@[simp] theorem State.withPair_dma (s : State) (f : PairSt → PairSt) : (s.withPair f).dma = s.dma := rfl
@[simp] theorem State.withPair_strm (s : State) (f : PairSt → PairSt) : (s.withPair f).strm = s.strm := rfl
@[simp] theorem State.withPair_disp (s : State) (f : PairSt → PairSt) : (s.withPair f).disp = s.disp := rfl
@[simp] theorem State.withPair_pending (s : State) (f : PairSt → PairSt) : (s.withPair f).pending = s.pending := rfl

@[simp] theorem State.setLane_regs (s : State) (l : Nat) (x : LaneSt) : (s.setLane l x).regs = s.regs := rfl
@[simp] theorem State.setLane_held (s : State) (l : Nat) (x : LaneSt) : (s.setLane l x).held = s.held := rfl
@[simp] theorem State.setLane_latched (s : State) (l : Nat) (x : LaneSt) : (s.setLane l x).latched = s.latched := rfl
@[simp] theorem State.setLane_occ (s : State) (l : Nat) (x : LaneSt) : (s.setLane l x).occ = s.occ := rfl
@[simp] theorem State.setLane_time (s : State) (l : Nat) (x : LaneSt) : (s.setLane l x).time = s.time := rfl
@[simp] theorem State.setLane_out (s : State) (l : Nat) (x : LaneSt) : (s.setLane l x).out = s.out := rfl
@[simp] theorem State.setLane_board (s : State) (l : Nat) (x : LaneSt) : (s.setLane l x).board = s.board := rfl
@[simp] theorem State.setLane_draft (s : State) (l : Nat) (x : LaneSt) : (s.setLane l x).draft = s.draft := rfl
@[simp] theorem State.setLane_bbx (s : State) (l : Nat) (x : LaneSt) : (s.setLane l x).bbx = s.bbx := rfl
@[simp] theorem State.setLane_i2c (s : State) (l : Nat) (x : LaneSt) : (s.setLane l x).i2c = s.i2c := rfl
@[simp] theorem State.setLane_pair (s : State) (l : Nat) (x : LaneSt) : (s.setLane l x).pair = s.pair := rfl
@[simp] theorem State.setLane_conv (s : State) (l : Nat) (x : LaneSt) : (s.setLane l x).conv = s.conv := rfl
@[simp] theorem State.setLane_cal (s : State) (l : Nat) (x : LaneSt) : (s.setLane l x).cal = s.cal := rfl
@[simp] theorem State.setLane_clk (s : State) (l : Nat) (x : LaneSt) : (s.setLane l x).clk = s.clk := rfl
@[simp] theorem State.setLane_trig (s : State) (l : Nat) (x : LaneSt) : (s.setLane l x).trig = s.trig := rfl
@[simp] theorem State.setLane_axis (s : State) (l : Nat) (x : LaneSt) : (s.setLane l x).axis = s.axis := rfl
@[simp] theorem State.setLane_loom (s : State) (l : Nat) (x : LaneSt) : (s.setLane l x).loom = s.loom := rfl
@[simp] theorem State.setLane_seg (s : State) (l : Nat) (x : LaneSt) : (s.setLane l x).seg = s.seg := rfl
@[simp] theorem State.setLane_beam (s : State) (l : Nat) (x : LaneSt) : (s.setLane l x).beam = s.beam := rfl
@[simp] theorem State.setLane_mem (s : State) (l : Nat) (x : LaneSt) : (s.setLane l x).mem = s.mem := rfl
@[simp] theorem State.setLane_shuttles (s : State) (l : Nat) (x : LaneSt) : (s.setLane l x).shuttles = s.shuttles := rfl
@[simp] theorem State.setLane_dma (s : State) (l : Nat) (x : LaneSt) : (s.setLane l x).dma = s.dma := rfl
@[simp] theorem State.setLane_strm (s : State) (l : Nat) (x : LaneSt) : (s.setLane l x).strm = s.strm := rfl
@[simp] theorem State.setLane_disp (s : State) (l : Nat) (x : LaneSt) : (s.setLane l x).disp = s.disp := rfl
@[simp] theorem State.setLane_pending (s : State) (l : Nat) (x : LaneSt) : (s.setLane l x).pending = s.pending := rfl

@[simp] theorem State.setQueue_regs (s : State) (q : Nat) (x : QueueSt) : (s.setQueue q x).regs = s.regs := rfl
@[simp] theorem State.setQueue_held (s : State) (q : Nat) (x : QueueSt) : (s.setQueue q x).held = s.held := rfl
@[simp] theorem State.setQueue_latched (s : State) (q : Nat) (x : QueueSt) : (s.setQueue q x).latched = s.latched := rfl
@[simp] theorem State.setQueue_occ (s : State) (q : Nat) (x : QueueSt) : (s.setQueue q x).occ = s.occ := rfl
@[simp] theorem State.setQueue_time (s : State) (q : Nat) (x : QueueSt) : (s.setQueue q x).time = s.time := rfl
@[simp] theorem State.setQueue_out (s : State) (q : Nat) (x : QueueSt) : (s.setQueue q x).out = s.out := rfl
@[simp] theorem State.setQueue_board (s : State) (q : Nat) (x : QueueSt) : (s.setQueue q x).board = s.board := rfl
@[simp] theorem State.setQueue_draft (s : State) (q : Nat) (x : QueueSt) : (s.setQueue q x).draft = s.draft := rfl
@[simp] theorem State.setQueue_bbx (s : State) (q : Nat) (x : QueueSt) : (s.setQueue q x).bbx = s.bbx := rfl
@[simp] theorem State.setQueue_i2c (s : State) (q : Nat) (x : QueueSt) : (s.setQueue q x).i2c = s.i2c := rfl
@[simp] theorem State.setQueue_pair (s : State) (q : Nat) (x : QueueSt) : (s.setQueue q x).pair = s.pair := rfl
@[simp] theorem State.setQueue_conv (s : State) (q : Nat) (x : QueueSt) : (s.setQueue q x).conv = s.conv := rfl
@[simp] theorem State.setQueue_cal (s : State) (q : Nat) (x : QueueSt) : (s.setQueue q x).cal = s.cal := rfl
@[simp] theorem State.setQueue_clk (s : State) (q : Nat) (x : QueueSt) : (s.setQueue q x).clk = s.clk := rfl
@[simp] theorem State.setQueue_trig (s : State) (q : Nat) (x : QueueSt) : (s.setQueue q x).trig = s.trig := rfl
@[simp] theorem State.setQueue_axis (s : State) (q : Nat) (x : QueueSt) : (s.setQueue q x).axis = s.axis := rfl
@[simp] theorem State.setQueue_loom (s : State) (q : Nat) (x : QueueSt) : (s.setQueue q x).loom = s.loom := rfl
@[simp] theorem State.setQueue_lanes (s : State) (q : Nat) (x : QueueSt) : (s.setQueue q x).lanes = s.lanes := rfl
@[simp] theorem State.setQueue_seg (s : State) (q : Nat) (x : QueueSt) : (s.setQueue q x).seg = s.seg := rfl
@[simp] theorem State.setQueue_beam (s : State) (q : Nat) (x : QueueSt) : (s.setQueue q x).beam = s.beam := rfl
@[simp] theorem State.setQueue_mem (s : State) (q : Nat) (x : QueueSt) : (s.setQueue q x).mem = s.mem := rfl
@[simp] theorem State.setQueue_shuttles (s : State) (q : Nat) (x : QueueSt) : (s.setQueue q x).shuttles = s.shuttles := rfl
@[simp] theorem State.setQueue_strm (s : State) (q : Nat) (x : QueueSt) : (s.setQueue q x).strm = s.strm := rfl
@[simp] theorem State.setQueue_disp (s : State) (q : Nat) (x : QueueSt) : (s.setQueue q x).disp = s.disp := rfl
@[simp] theorem State.setQueue_pending (s : State) (q : Nat) (x : QueueSt) : (s.setQueue q x).pending = s.pending := rfl

@[simp] theorem State.setChan_regs (s : State) (n : Nat) (x : ChanSt) : (s.setChan n x).regs = s.regs := rfl
@[simp] theorem State.setChan_held (s : State) (n : Nat) (x : ChanSt) : (s.setChan n x).held = s.held := rfl
@[simp] theorem State.setChan_latched (s : State) (n : Nat) (x : ChanSt) : (s.setChan n x).latched = s.latched := rfl
@[simp] theorem State.setChan_occ (s : State) (n : Nat) (x : ChanSt) : (s.setChan n x).occ = s.occ := rfl
@[simp] theorem State.setChan_time (s : State) (n : Nat) (x : ChanSt) : (s.setChan n x).time = s.time := rfl
@[simp] theorem State.setChan_out (s : State) (n : Nat) (x : ChanSt) : (s.setChan n x).out = s.out := rfl
@[simp] theorem State.setChan_board (s : State) (n : Nat) (x : ChanSt) : (s.setChan n x).board = s.board := rfl
@[simp] theorem State.setChan_draft (s : State) (n : Nat) (x : ChanSt) : (s.setChan n x).draft = s.draft := rfl
@[simp] theorem State.setChan_bbx (s : State) (n : Nat) (x : ChanSt) : (s.setChan n x).bbx = s.bbx := rfl
@[simp] theorem State.setChan_i2c (s : State) (n : Nat) (x : ChanSt) : (s.setChan n x).i2c = s.i2c := rfl
@[simp] theorem State.setChan_pair (s : State) (n : Nat) (x : ChanSt) : (s.setChan n x).pair = s.pair := rfl
@[simp] theorem State.setChan_conv (s : State) (n : Nat) (x : ChanSt) : (s.setChan n x).conv = s.conv := rfl
@[simp] theorem State.setChan_cal (s : State) (n : Nat) (x : ChanSt) : (s.setChan n x).cal = s.cal := rfl
@[simp] theorem State.setChan_clk (s : State) (n : Nat) (x : ChanSt) : (s.setChan n x).clk = s.clk := rfl
@[simp] theorem State.setChan_trig (s : State) (n : Nat) (x : ChanSt) : (s.setChan n x).trig = s.trig := rfl
@[simp] theorem State.setChan_axis (s : State) (n : Nat) (x : ChanSt) : (s.setChan n x).axis = s.axis := rfl
@[simp] theorem State.setChan_loom (s : State) (n : Nat) (x : ChanSt) : (s.setChan n x).loom = s.loom := rfl
@[simp] theorem State.setChan_lanes (s : State) (n : Nat) (x : ChanSt) : (s.setChan n x).lanes = s.lanes := rfl
@[simp] theorem State.setChan_seg (s : State) (n : Nat) (x : ChanSt) : (s.setChan n x).seg = s.seg := rfl
@[simp] theorem State.setChan_beam (s : State) (n : Nat) (x : ChanSt) : (s.setChan n x).beam = s.beam := rfl
@[simp] theorem State.setChan_mem (s : State) (n : Nat) (x : ChanSt) : (s.setChan n x).mem = s.mem := rfl
@[simp] theorem State.setChan_shuttles (s : State) (n : Nat) (x : ChanSt) : (s.setChan n x).shuttles = s.shuttles := rfl
@[simp] theorem State.setChan_strm (s : State) (n : Nat) (x : ChanSt) : (s.setChan n x).strm = s.strm := rfl
@[simp] theorem State.setChan_disp (s : State) (n : Nat) (x : ChanSt) : (s.setChan n x).disp = s.disp := rfl
@[simp] theorem State.setChan_pending (s : State) (n : Nat) (x : ChanSt) : (s.setChan n x).pending = s.pending := rfl

@[simp] theorem State.setKeep_regs (s : State) (c : Nat) (x : CtxKeep) : (s.setKeep c x).regs = s.regs := rfl
@[simp] theorem State.setKeep_held (s : State) (c : Nat) (x : CtxKeep) : (s.setKeep c x).held = s.held := rfl
@[simp] theorem State.setKeep_latched (s : State) (c : Nat) (x : CtxKeep) : (s.setKeep c x).latched = s.latched := rfl
@[simp] theorem State.setKeep_occ (s : State) (c : Nat) (x : CtxKeep) : (s.setKeep c x).occ = s.occ := rfl
@[simp] theorem State.setKeep_time (s : State) (c : Nat) (x : CtxKeep) : (s.setKeep c x).time = s.time := rfl
@[simp] theorem State.setKeep_out (s : State) (c : Nat) (x : CtxKeep) : (s.setKeep c x).out = s.out := rfl
@[simp] theorem State.setKeep_board (s : State) (c : Nat) (x : CtxKeep) : (s.setKeep c x).board = s.board := rfl
@[simp] theorem State.setKeep_draft (s : State) (c : Nat) (x : CtxKeep) : (s.setKeep c x).draft = s.draft := rfl
@[simp] theorem State.setKeep_bbx (s : State) (c : Nat) (x : CtxKeep) : (s.setKeep c x).bbx = s.bbx := rfl
@[simp] theorem State.setKeep_i2c (s : State) (c : Nat) (x : CtxKeep) : (s.setKeep c x).i2c = s.i2c := rfl
@[simp] theorem State.setKeep_pair (s : State) (c : Nat) (x : CtxKeep) : (s.setKeep c x).pair = s.pair := rfl
@[simp] theorem State.setKeep_conv (s : State) (c : Nat) (x : CtxKeep) : (s.setKeep c x).conv = s.conv := rfl
@[simp] theorem State.setKeep_cal (s : State) (c : Nat) (x : CtxKeep) : (s.setKeep c x).cal = s.cal := rfl
@[simp] theorem State.setKeep_clk (s : State) (c : Nat) (x : CtxKeep) : (s.setKeep c x).clk = s.clk := rfl
@[simp] theorem State.setKeep_trig (s : State) (c : Nat) (x : CtxKeep) : (s.setKeep c x).trig = s.trig := rfl
@[simp] theorem State.setKeep_axis (s : State) (c : Nat) (x : CtxKeep) : (s.setKeep c x).axis = s.axis := rfl
@[simp] theorem State.setKeep_loom (s : State) (c : Nat) (x : CtxKeep) : (s.setKeep c x).loom = s.loom := rfl
@[simp] theorem State.setKeep_lanes (s : State) (c : Nat) (x : CtxKeep) : (s.setKeep c x).lanes = s.lanes := rfl
@[simp] theorem State.setKeep_beam (s : State) (c : Nat) (x : CtxKeep) : (s.setKeep c x).beam = s.beam := rfl
@[simp] theorem State.setKeep_mem (s : State) (c : Nat) (x : CtxKeep) : (s.setKeep c x).mem = s.mem := rfl
@[simp] theorem State.setKeep_shuttles (s : State) (c : Nat) (x : CtxKeep) : (s.setKeep c x).shuttles = s.shuttles := rfl
@[simp] theorem State.setKeep_dma (s : State) (c : Nat) (x : CtxKeep) : (s.setKeep c x).dma = s.dma := rfl
@[simp] theorem State.setKeep_strm (s : State) (c : Nat) (x : CtxKeep) : (s.setKeep c x).strm = s.strm := rfl
@[simp] theorem State.setKeep_disp (s : State) (c : Nat) (x : CtxKeep) : (s.setKeep c x).disp = s.disp := rfl
@[simp] theorem State.setKeep_pending (s : State) (c : Nat) (x : CtxKeep) : (s.setKeep c x).pending = s.pending := rfl

@[simp] theorem State.setLive_regs (s : State) (c : Nat) (x : Option LiveCtx) : (s.setLive c x).regs = s.regs := rfl
@[simp] theorem State.setLive_held (s : State) (c : Nat) (x : Option LiveCtx) : (s.setLive c x).held = s.held := rfl
@[simp] theorem State.setLive_latched (s : State) (c : Nat) (x : Option LiveCtx) : (s.setLive c x).latched = s.latched := rfl
@[simp] theorem State.setLive_occ (s : State) (c : Nat) (x : Option LiveCtx) : (s.setLive c x).occ = s.occ := rfl
@[simp] theorem State.setLive_time (s : State) (c : Nat) (x : Option LiveCtx) : (s.setLive c x).time = s.time := rfl
@[simp] theorem State.setLive_out (s : State) (c : Nat) (x : Option LiveCtx) : (s.setLive c x).out = s.out := rfl
@[simp] theorem State.setLive_board (s : State) (c : Nat) (x : Option LiveCtx) : (s.setLive c x).board = s.board := rfl
@[simp] theorem State.setLive_draft (s : State) (c : Nat) (x : Option LiveCtx) : (s.setLive c x).draft = s.draft := rfl
@[simp] theorem State.setLive_bbx (s : State) (c : Nat) (x : Option LiveCtx) : (s.setLive c x).bbx = s.bbx := rfl
@[simp] theorem State.setLive_i2c (s : State) (c : Nat) (x : Option LiveCtx) : (s.setLive c x).i2c = s.i2c := rfl
@[simp] theorem State.setLive_pair (s : State) (c : Nat) (x : Option LiveCtx) : (s.setLive c x).pair = s.pair := rfl
@[simp] theorem State.setLive_conv (s : State) (c : Nat) (x : Option LiveCtx) : (s.setLive c x).conv = s.conv := rfl
@[simp] theorem State.setLive_cal (s : State) (c : Nat) (x : Option LiveCtx) : (s.setLive c x).cal = s.cal := rfl
@[simp] theorem State.setLive_clk (s : State) (c : Nat) (x : Option LiveCtx) : (s.setLive c x).clk = s.clk := rfl
@[simp] theorem State.setLive_trig (s : State) (c : Nat) (x : Option LiveCtx) : (s.setLive c x).trig = s.trig := rfl
@[simp] theorem State.setLive_axis (s : State) (c : Nat) (x : Option LiveCtx) : (s.setLive c x).axis = s.axis := rfl
@[simp] theorem State.setLive_loom (s : State) (c : Nat) (x : Option LiveCtx) : (s.setLive c x).loom = s.loom := rfl
@[simp] theorem State.setLive_lanes (s : State) (c : Nat) (x : Option LiveCtx) : (s.setLive c x).lanes = s.lanes := rfl
@[simp] theorem State.setLive_beam (s : State) (c : Nat) (x : Option LiveCtx) : (s.setLive c x).beam = s.beam := rfl
@[simp] theorem State.setLive_mem (s : State) (c : Nat) (x : Option LiveCtx) : (s.setLive c x).mem = s.mem := rfl
@[simp] theorem State.setLive_shuttles (s : State) (c : Nat) (x : Option LiveCtx) : (s.setLive c x).shuttles = s.shuttles := rfl
@[simp] theorem State.setLive_dma (s : State) (c : Nat) (x : Option LiveCtx) : (s.setLive c x).dma = s.dma := rfl
@[simp] theorem State.setLive_strm (s : State) (c : Nat) (x : Option LiveCtx) : (s.setLive c x).strm = s.strm := rfl
@[simp] theorem State.setLive_disp (s : State) (c : Nat) (x : Option LiveCtx) : (s.setLive c x).disp = s.disp := rfl
@[simp] theorem State.setLive_pending (s : State) (c : Nat) (x : Option LiveCtx) : (s.setLive c x).pending = s.pending := rfl

@[simp] theorem State.setJob_regs (s : State) (j : Nat) (x : JobSt) : (s.setJob j x).regs = s.regs := rfl
@[simp] theorem State.setJob_held (s : State) (j : Nat) (x : JobSt) : (s.setJob j x).held = s.held := rfl
@[simp] theorem State.setJob_latched (s : State) (j : Nat) (x : JobSt) : (s.setJob j x).latched = s.latched := rfl
@[simp] theorem State.setJob_occ (s : State) (j : Nat) (x : JobSt) : (s.setJob j x).occ = s.occ := rfl
@[simp] theorem State.setJob_time (s : State) (j : Nat) (x : JobSt) : (s.setJob j x).time = s.time := rfl
@[simp] theorem State.setJob_out (s : State) (j : Nat) (x : JobSt) : (s.setJob j x).out = s.out := rfl
@[simp] theorem State.setJob_board (s : State) (j : Nat) (x : JobSt) : (s.setJob j x).board = s.board := rfl
@[simp] theorem State.setJob_draft (s : State) (j : Nat) (x : JobSt) : (s.setJob j x).draft = s.draft := rfl
@[simp] theorem State.setJob_bbx (s : State) (j : Nat) (x : JobSt) : (s.setJob j x).bbx = s.bbx := rfl
@[simp] theorem State.setJob_i2c (s : State) (j : Nat) (x : JobSt) : (s.setJob j x).i2c = s.i2c := rfl
@[simp] theorem State.setJob_pair (s : State) (j : Nat) (x : JobSt) : (s.setJob j x).pair = s.pair := rfl
@[simp] theorem State.setJob_conv (s : State) (j : Nat) (x : JobSt) : (s.setJob j x).conv = s.conv := rfl
@[simp] theorem State.setJob_cal (s : State) (j : Nat) (x : JobSt) : (s.setJob j x).cal = s.cal := rfl
@[simp] theorem State.setJob_clk (s : State) (j : Nat) (x : JobSt) : (s.setJob j x).clk = s.clk := rfl
@[simp] theorem State.setJob_trig (s : State) (j : Nat) (x : JobSt) : (s.setJob j x).trig = s.trig := rfl
@[simp] theorem State.setJob_axis (s : State) (j : Nat) (x : JobSt) : (s.setJob j x).axis = s.axis := rfl
@[simp] theorem State.setJob_loom (s : State) (j : Nat) (x : JobSt) : (s.setJob j x).loom = s.loom := rfl
@[simp] theorem State.setJob_lanes (s : State) (j : Nat) (x : JobSt) : (s.setJob j x).lanes = s.lanes := rfl
@[simp] theorem State.setJob_seg (s : State) (j : Nat) (x : JobSt) : (s.setJob j x).seg = s.seg := rfl
@[simp] theorem State.setJob_mem (s : State) (j : Nat) (x : JobSt) : (s.setJob j x).mem = s.mem := rfl
@[simp] theorem State.setJob_shuttles (s : State) (j : Nat) (x : JobSt) : (s.setJob j x).shuttles = s.shuttles := rfl
@[simp] theorem State.setJob_dma (s : State) (j : Nat) (x : JobSt) : (s.setJob j x).dma = s.dma := rfl
@[simp] theorem State.setJob_strm (s : State) (j : Nat) (x : JobSt) : (s.setJob j x).strm = s.strm := rfl
@[simp] theorem State.setJob_disp (s : State) (j : Nat) (x : JobSt) : (s.setJob j x).disp = s.disp := rfl
@[simp] theorem State.setJob_pending (s : State) (j : Nat) (x : JobSt) : (s.setJob j x).pending = s.pending := rfl

@[simp] theorem State.setUnit_regs (s : State) (k : Nat) (u : TrigUnit) : (s.setUnit k u).regs = s.regs := rfl
@[simp] theorem State.setUnit_held (s : State) (k : Nat) (u : TrigUnit) : (s.setUnit k u).held = s.held := rfl
@[simp] theorem State.setUnit_latched (s : State) (k : Nat) (u : TrigUnit) : (s.setUnit k u).latched = s.latched := rfl
@[simp] theorem State.setUnit_occ (s : State) (k : Nat) (u : TrigUnit) : (s.setUnit k u).occ = s.occ := rfl
@[simp] theorem State.setUnit_time (s : State) (k : Nat) (u : TrigUnit) : (s.setUnit k u).time = s.time := rfl
@[simp] theorem State.setUnit_out (s : State) (k : Nat) (u : TrigUnit) : (s.setUnit k u).out = s.out := rfl
@[simp] theorem State.setUnit_board (s : State) (k : Nat) (u : TrigUnit) : (s.setUnit k u).board = s.board := rfl
@[simp] theorem State.setUnit_draft (s : State) (k : Nat) (u : TrigUnit) : (s.setUnit k u).draft = s.draft := rfl
@[simp] theorem State.setUnit_bbx (s : State) (k : Nat) (u : TrigUnit) : (s.setUnit k u).bbx = s.bbx := rfl
@[simp] theorem State.setUnit_i2c (s : State) (k : Nat) (u : TrigUnit) : (s.setUnit k u).i2c = s.i2c := rfl
@[simp] theorem State.setUnit_pair (s : State) (k : Nat) (u : TrigUnit) : (s.setUnit k u).pair = s.pair := rfl
@[simp] theorem State.setUnit_conv (s : State) (k : Nat) (u : TrigUnit) : (s.setUnit k u).conv = s.conv := rfl
@[simp] theorem State.setUnit_cal (s : State) (k : Nat) (u : TrigUnit) : (s.setUnit k u).cal = s.cal := rfl
@[simp] theorem State.setUnit_clk (s : State) (k : Nat) (u : TrigUnit) : (s.setUnit k u).clk = s.clk := rfl
@[simp] theorem State.setUnit_axis (s : State) (k : Nat) (u : TrigUnit) : (s.setUnit k u).axis = s.axis := rfl
@[simp] theorem State.setUnit_loom (s : State) (k : Nat) (u : TrigUnit) : (s.setUnit k u).loom = s.loom := rfl
@[simp] theorem State.setUnit_lanes (s : State) (k : Nat) (u : TrigUnit) : (s.setUnit k u).lanes = s.lanes := rfl
@[simp] theorem State.setUnit_seg (s : State) (k : Nat) (u : TrigUnit) : (s.setUnit k u).seg = s.seg := rfl
@[simp] theorem State.setUnit_beam (s : State) (k : Nat) (u : TrigUnit) : (s.setUnit k u).beam = s.beam := rfl
@[simp] theorem State.setUnit_mem (s : State) (k : Nat) (u : TrigUnit) : (s.setUnit k u).mem = s.mem := rfl
@[simp] theorem State.setUnit_shuttles (s : State) (k : Nat) (u : TrigUnit) : (s.setUnit k u).shuttles = s.shuttles := rfl
@[simp] theorem State.setUnit_dma (s : State) (k : Nat) (u : TrigUnit) : (s.setUnit k u).dma = s.dma := rfl
@[simp] theorem State.setUnit_strm (s : State) (k : Nat) (u : TrigUnit) : (s.setUnit k u).strm = s.strm := rfl
@[simp] theorem State.setUnit_disp (s : State) (k : Nat) (u : TrigUnit) : (s.setUnit k u).disp = s.disp := rfl
@[simp] theorem State.setUnit_pending (s : State) (k : Nat) (u : TrigUnit) : (s.setUnit k u).pending = s.pending := rfl

@[simp] theorem State.setPulse_regs (s : State) (p : Nat) (x : Option (Nat × Nat)) : (s.setPulse p x).regs = s.regs := rfl
@[simp] theorem State.setPulse_held (s : State) (p : Nat) (x : Option (Nat × Nat)) : (s.setPulse p x).held = s.held := rfl
@[simp] theorem State.setPulse_latched (s : State) (p : Nat) (x : Option (Nat × Nat)) : (s.setPulse p x).latched = s.latched := rfl
@[simp] theorem State.setPulse_occ (s : State) (p : Nat) (x : Option (Nat × Nat)) : (s.setPulse p x).occ = s.occ := rfl
@[simp] theorem State.setPulse_time (s : State) (p : Nat) (x : Option (Nat × Nat)) : (s.setPulse p x).time = s.time := rfl
@[simp] theorem State.setPulse_out (s : State) (p : Nat) (x : Option (Nat × Nat)) : (s.setPulse p x).out = s.out := rfl
@[simp] theorem State.setPulse_board (s : State) (p : Nat) (x : Option (Nat × Nat)) : (s.setPulse p x).board = s.board := rfl
@[simp] theorem State.setPulse_draft (s : State) (p : Nat) (x : Option (Nat × Nat)) : (s.setPulse p x).draft = s.draft := rfl
@[simp] theorem State.setPulse_bbx (s : State) (p : Nat) (x : Option (Nat × Nat)) : (s.setPulse p x).bbx = s.bbx := rfl
@[simp] theorem State.setPulse_i2c (s : State) (p : Nat) (x : Option (Nat × Nat)) : (s.setPulse p x).i2c = s.i2c := rfl
@[simp] theorem State.setPulse_pair (s : State) (p : Nat) (x : Option (Nat × Nat)) : (s.setPulse p x).pair = s.pair := rfl
@[simp] theorem State.setPulse_conv (s : State) (p : Nat) (x : Option (Nat × Nat)) : (s.setPulse p x).conv = s.conv := rfl
@[simp] theorem State.setPulse_cal (s : State) (p : Nat) (x : Option (Nat × Nat)) : (s.setPulse p x).cal = s.cal := rfl
@[simp] theorem State.setPulse_clk (s : State) (p : Nat) (x : Option (Nat × Nat)) : (s.setPulse p x).clk = s.clk := rfl
@[simp] theorem State.setPulse_axis (s : State) (p : Nat) (x : Option (Nat × Nat)) : (s.setPulse p x).axis = s.axis := rfl
@[simp] theorem State.setPulse_loom (s : State) (p : Nat) (x : Option (Nat × Nat)) : (s.setPulse p x).loom = s.loom := rfl
@[simp] theorem State.setPulse_lanes (s : State) (p : Nat) (x : Option (Nat × Nat)) : (s.setPulse p x).lanes = s.lanes := rfl
@[simp] theorem State.setPulse_seg (s : State) (p : Nat) (x : Option (Nat × Nat)) : (s.setPulse p x).seg = s.seg := rfl
@[simp] theorem State.setPulse_beam (s : State) (p : Nat) (x : Option (Nat × Nat)) : (s.setPulse p x).beam = s.beam := rfl
@[simp] theorem State.setPulse_mem (s : State) (p : Nat) (x : Option (Nat × Nat)) : (s.setPulse p x).mem = s.mem := rfl
@[simp] theorem State.setPulse_shuttles (s : State) (p : Nat) (x : Option (Nat × Nat)) : (s.setPulse p x).shuttles = s.shuttles := rfl
@[simp] theorem State.setPulse_dma (s : State) (p : Nat) (x : Option (Nat × Nat)) : (s.setPulse p x).dma = s.dma := rfl
@[simp] theorem State.setPulse_strm (s : State) (p : Nat) (x : Option (Nat × Nat)) : (s.setPulse p x).strm = s.strm := rfl
@[simp] theorem State.setPulse_disp (s : State) (p : Nat) (x : Option (Nat × Nat)) : (s.setPulse p x).disp = s.disp := rfl
@[simp] theorem State.setPulse_pending (s : State) (p : Nat) (x : Option (Nat × Nat)) : (s.setPulse p x).pending = s.pending := rfl

@[simp] theorem State.setCursor_regs (s : State) (k : Nat) (x : CursorSt) : (s.setCursor k x).regs = s.regs := rfl
@[simp] theorem State.setCursor_held (s : State) (k : Nat) (x : CursorSt) : (s.setCursor k x).held = s.held := rfl
@[simp] theorem State.setCursor_latched (s : State) (k : Nat) (x : CursorSt) : (s.setCursor k x).latched = s.latched := rfl
@[simp] theorem State.setCursor_occ (s : State) (k : Nat) (x : CursorSt) : (s.setCursor k x).occ = s.occ := rfl
@[simp] theorem State.setCursor_time (s : State) (k : Nat) (x : CursorSt) : (s.setCursor k x).time = s.time := rfl
@[simp] theorem State.setCursor_out (s : State) (k : Nat) (x : CursorSt) : (s.setCursor k x).out = s.out := rfl
@[simp] theorem State.setCursor_board (s : State) (k : Nat) (x : CursorSt) : (s.setCursor k x).board = s.board := rfl
@[simp] theorem State.setCursor_draft (s : State) (k : Nat) (x : CursorSt) : (s.setCursor k x).draft = s.draft := rfl
@[simp] theorem State.setCursor_bbx (s : State) (k : Nat) (x : CursorSt) : (s.setCursor k x).bbx = s.bbx := rfl
@[simp] theorem State.setCursor_i2c (s : State) (k : Nat) (x : CursorSt) : (s.setCursor k x).i2c = s.i2c := rfl
@[simp] theorem State.setCursor_pair (s : State) (k : Nat) (x : CursorSt) : (s.setCursor k x).pair = s.pair := rfl
@[simp] theorem State.setCursor_conv (s : State) (k : Nat) (x : CursorSt) : (s.setCursor k x).conv = s.conv := rfl
@[simp] theorem State.setCursor_cal (s : State) (k : Nat) (x : CursorSt) : (s.setCursor k x).cal = s.cal := rfl
@[simp] theorem State.setCursor_clk (s : State) (k : Nat) (x : CursorSt) : (s.setCursor k x).clk = s.clk := rfl
@[simp] theorem State.setCursor_trig (s : State) (k : Nat) (x : CursorSt) : (s.setCursor k x).trig = s.trig := rfl
@[simp] theorem State.setCursor_axis (s : State) (k : Nat) (x : CursorSt) : (s.setCursor k x).axis = s.axis := rfl
@[simp] theorem State.setCursor_lanes (s : State) (k : Nat) (x : CursorSt) : (s.setCursor k x).lanes = s.lanes := rfl
@[simp] theorem State.setCursor_seg (s : State) (k : Nat) (x : CursorSt) : (s.setCursor k x).seg = s.seg := rfl
@[simp] theorem State.setCursor_beam (s : State) (k : Nat) (x : CursorSt) : (s.setCursor k x).beam = s.beam := rfl
@[simp] theorem State.setCursor_mem (s : State) (k : Nat) (x : CursorSt) : (s.setCursor k x).mem = s.mem := rfl
@[simp] theorem State.setCursor_shuttles (s : State) (k : Nat) (x : CursorSt) : (s.setCursor k x).shuttles = s.shuttles := rfl
@[simp] theorem State.setCursor_dma (s : State) (k : Nat) (x : CursorSt) : (s.setCursor k x).dma = s.dma := rfl
@[simp] theorem State.setCursor_strm (s : State) (k : Nat) (x : CursorSt) : (s.setCursor k x).strm = s.strm := rfl
@[simp] theorem State.setCursor_disp (s : State) (k : Nat) (x : CursorSt) : (s.setCursor k x).disp = s.disp := rfl
@[simp] theorem State.setCursor_pending (s : State) (k : Nat) (x : CursorSt) : (s.setCursor k x).pending = s.pending := rfl

@[simp] theorem State.setShuttle_regs (s : State) (n : Nat) (x : Shuttle) : (s.setShuttle n x).regs = s.regs := rfl
@[simp] theorem State.setShuttle_held (s : State) (n : Nat) (x : Shuttle) : (s.setShuttle n x).held = s.held := rfl
@[simp] theorem State.setShuttle_latched (s : State) (n : Nat) (x : Shuttle) : (s.setShuttle n x).latched = s.latched := rfl
@[simp] theorem State.setShuttle_occ (s : State) (n : Nat) (x : Shuttle) : (s.setShuttle n x).occ = s.occ := rfl
@[simp] theorem State.setShuttle_time (s : State) (n : Nat) (x : Shuttle) : (s.setShuttle n x).time = s.time := rfl
@[simp] theorem State.setShuttle_out (s : State) (n : Nat) (x : Shuttle) : (s.setShuttle n x).out = s.out := rfl
@[simp] theorem State.setShuttle_board (s : State) (n : Nat) (x : Shuttle) : (s.setShuttle n x).board = s.board := rfl
@[simp] theorem State.setShuttle_draft (s : State) (n : Nat) (x : Shuttle) : (s.setShuttle n x).draft = s.draft := rfl
@[simp] theorem State.setShuttle_bbx (s : State) (n : Nat) (x : Shuttle) : (s.setShuttle n x).bbx = s.bbx := rfl
@[simp] theorem State.setShuttle_i2c (s : State) (n : Nat) (x : Shuttle) : (s.setShuttle n x).i2c = s.i2c := rfl
@[simp] theorem State.setShuttle_pair (s : State) (n : Nat) (x : Shuttle) : (s.setShuttle n x).pair = s.pair := rfl
@[simp] theorem State.setShuttle_conv (s : State) (n : Nat) (x : Shuttle) : (s.setShuttle n x).conv = s.conv := rfl
@[simp] theorem State.setShuttle_cal (s : State) (n : Nat) (x : Shuttle) : (s.setShuttle n x).cal = s.cal := rfl
@[simp] theorem State.setShuttle_clk (s : State) (n : Nat) (x : Shuttle) : (s.setShuttle n x).clk = s.clk := rfl
@[simp] theorem State.setShuttle_trig (s : State) (n : Nat) (x : Shuttle) : (s.setShuttle n x).trig = s.trig := rfl
@[simp] theorem State.setShuttle_axis (s : State) (n : Nat) (x : Shuttle) : (s.setShuttle n x).axis = s.axis := rfl
@[simp] theorem State.setShuttle_loom (s : State) (n : Nat) (x : Shuttle) : (s.setShuttle n x).loom = s.loom := rfl
@[simp] theorem State.setShuttle_lanes (s : State) (n : Nat) (x : Shuttle) : (s.setShuttle n x).lanes = s.lanes := rfl
@[simp] theorem State.setShuttle_seg (s : State) (n : Nat) (x : Shuttle) : (s.setShuttle n x).seg = s.seg := rfl
@[simp] theorem State.setShuttle_beam (s : State) (n : Nat) (x : Shuttle) : (s.setShuttle n x).beam = s.beam := rfl
@[simp] theorem State.setShuttle_mem (s : State) (n : Nat) (x : Shuttle) : (s.setShuttle n x).mem = s.mem := rfl
@[simp] theorem State.setShuttle_dma (s : State) (n : Nat) (x : Shuttle) : (s.setShuttle n x).dma = s.dma := rfl
@[simp] theorem State.setShuttle_strm (s : State) (n : Nat) (x : Shuttle) : (s.setShuttle n x).strm = s.strm := rfl
@[simp] theorem State.setShuttle_disp (s : State) (n : Nat) (x : Shuttle) : (s.setShuttle n x).disp = s.disp := rfl
@[simp] theorem State.setShuttle_pending (s : State) (n : Nat) (x : Shuttle) : (s.setShuttle n x).pending = s.pending := rfl

@[simp] theorem State.setCalBank_held (s : State) (b : Nat) (x : CalBank) : (s.setCalBank b x).held = s.held := rfl
@[simp] theorem State.setCalBank_latched (s : State) (b : Nat) (x : CalBank) : (s.setCalBank b x).latched = s.latched := rfl
@[simp] theorem State.setCalBank_occ (s : State) (b : Nat) (x : CalBank) : (s.setCalBank b x).occ = s.occ := rfl
@[simp] theorem State.setCalBank_time (s : State) (b : Nat) (x : CalBank) : (s.setCalBank b x).time = s.time := rfl
@[simp] theorem State.setCalBank_out (s : State) (b : Nat) (x : CalBank) : (s.setCalBank b x).out = s.out := rfl
@[simp] theorem State.setCalBank_board (s : State) (b : Nat) (x : CalBank) : (s.setCalBank b x).board = s.board := rfl
@[simp] theorem State.setCalBank_draft (s : State) (b : Nat) (x : CalBank) : (s.setCalBank b x).draft = s.draft := rfl
@[simp] theorem State.setCalBank_bbx (s : State) (b : Nat) (x : CalBank) : (s.setCalBank b x).bbx = s.bbx := rfl
@[simp] theorem State.setCalBank_i2c (s : State) (b : Nat) (x : CalBank) : (s.setCalBank b x).i2c = s.i2c := rfl
@[simp] theorem State.setCalBank_pair (s : State) (b : Nat) (x : CalBank) : (s.setCalBank b x).pair = s.pair := rfl
@[simp] theorem State.setCalBank_conv (s : State) (b : Nat) (x : CalBank) : (s.setCalBank b x).conv = s.conv := rfl
@[simp] theorem State.setCalBank_clk (s : State) (b : Nat) (x : CalBank) : (s.setCalBank b x).clk = s.clk := rfl
@[simp] theorem State.setCalBank_trig (s : State) (b : Nat) (x : CalBank) : (s.setCalBank b x).trig = s.trig := rfl
@[simp] theorem State.setCalBank_axis (s : State) (b : Nat) (x : CalBank) : (s.setCalBank b x).axis = s.axis := rfl
@[simp] theorem State.setCalBank_loom (s : State) (b : Nat) (x : CalBank) : (s.setCalBank b x).loom = s.loom := rfl
@[simp] theorem State.setCalBank_lanes (s : State) (b : Nat) (x : CalBank) : (s.setCalBank b x).lanes = s.lanes := rfl
@[simp] theorem State.setCalBank_seg (s : State) (b : Nat) (x : CalBank) : (s.setCalBank b x).seg = s.seg := rfl
@[simp] theorem State.setCalBank_beam (s : State) (b : Nat) (x : CalBank) : (s.setCalBank b x).beam = s.beam := rfl
@[simp] theorem State.setCalBank_mem (s : State) (b : Nat) (x : CalBank) : (s.setCalBank b x).mem = s.mem := rfl
@[simp] theorem State.setCalBank_shuttles (s : State) (b : Nat) (x : CalBank) : (s.setCalBank b x).shuttles = s.shuttles := rfl
@[simp] theorem State.setCalBank_dma (s : State) (b : Nat) (x : CalBank) : (s.setCalBank b x).dma = s.dma := rfl
@[simp] theorem State.setCalBank_strm (s : State) (b : Nat) (x : CalBank) : (s.setCalBank b x).strm = s.strm := rfl
@[simp] theorem State.setCalBank_disp (s : State) (b : Nat) (x : CalBank) : (s.setCalBank b x).disp = s.disp := rfl
@[simp] theorem State.setCalBank_pending (s : State) (b : Nat) (x : CalBank) : (s.setCalBank b x).pending = s.pending := rfl

@[simp] theorem State.setCoef_regs (s : State) (b n : Nat) (c : Coef) : (s.setCoef b n c).regs = s.regs := rfl
@[simp] theorem State.setCoef_held (s : State) (b n : Nat) (c : Coef) : (s.setCoef b n c).held = s.held := rfl
@[simp] theorem State.setCoef_latched (s : State) (b n : Nat) (c : Coef) : (s.setCoef b n c).latched = s.latched := rfl
@[simp] theorem State.setCoef_occ (s : State) (b n : Nat) (c : Coef) : (s.setCoef b n c).occ = s.occ := rfl
@[simp] theorem State.setCoef_time (s : State) (b n : Nat) (c : Coef) : (s.setCoef b n c).time = s.time := rfl
@[simp] theorem State.setCoef_out (s : State) (b n : Nat) (c : Coef) : (s.setCoef b n c).out = s.out := rfl
@[simp] theorem State.setCoef_board (s : State) (b n : Nat) (c : Coef) : (s.setCoef b n c).board = s.board := rfl
@[simp] theorem State.setCoef_draft (s : State) (b n : Nat) (c : Coef) : (s.setCoef b n c).draft = s.draft := rfl
@[simp] theorem State.setCoef_bbx (s : State) (b n : Nat) (c : Coef) : (s.setCoef b n c).bbx = s.bbx := rfl
@[simp] theorem State.setCoef_i2c (s : State) (b n : Nat) (c : Coef) : (s.setCoef b n c).i2c = s.i2c := rfl
@[simp] theorem State.setCoef_pair (s : State) (b n : Nat) (c : Coef) : (s.setCoef b n c).pair = s.pair := rfl
@[simp] theorem State.setCoef_conv (s : State) (b n : Nat) (c : Coef) : (s.setCoef b n c).conv = s.conv := rfl
@[simp] theorem State.setCoef_clk (s : State) (b n : Nat) (c : Coef) : (s.setCoef b n c).clk = s.clk := rfl
@[simp] theorem State.setCoef_trig (s : State) (b n : Nat) (c : Coef) : (s.setCoef b n c).trig = s.trig := rfl
@[simp] theorem State.setCoef_axis (s : State) (b n : Nat) (c : Coef) : (s.setCoef b n c).axis = s.axis := rfl
@[simp] theorem State.setCoef_loom (s : State) (b n : Nat) (c : Coef) : (s.setCoef b n c).loom = s.loom := rfl
@[simp] theorem State.setCoef_lanes (s : State) (b n : Nat) (c : Coef) : (s.setCoef b n c).lanes = s.lanes := rfl
@[simp] theorem State.setCoef_seg (s : State) (b n : Nat) (c : Coef) : (s.setCoef b n c).seg = s.seg := rfl
@[simp] theorem State.setCoef_beam (s : State) (b n : Nat) (c : Coef) : (s.setCoef b n c).beam = s.beam := rfl
@[simp] theorem State.setCoef_mem (s : State) (b n : Nat) (c : Coef) : (s.setCoef b n c).mem = s.mem := rfl
@[simp] theorem State.setCoef_shuttles (s : State) (b n : Nat) (c : Coef) : (s.setCoef b n c).shuttles = s.shuttles := rfl
@[simp] theorem State.setCoef_dma (s : State) (b n : Nat) (c : Coef) : (s.setCoef b n c).dma = s.dma := rfl
@[simp] theorem State.setCoef_strm (s : State) (b n : Nat) (c : Coef) : (s.setCoef b n c).strm = s.strm := rfl
@[simp] theorem State.setCoef_disp (s : State) (b n : Nat) (c : Coef) : (s.setCoef b n c).disp = s.disp := rfl
@[simp] theorem State.setCoef_pending (s : State) (b n : Nat) (c : Coef) : (s.setCoef b n c).pending = s.pending := rfl

@[simp] theorem State.setGate_held (s : State) (p : Pll) (g : Bool) : (s.setGate p g).held = s.held := by
  unfold State.setGate
  exact (foldl_same (fun s : State => s.held) _ (fun s o => by split <;> rfl) _ _).trans rfl
@[simp] theorem State.setGate_latched (s : State) (p : Pll) (g : Bool) : (s.setGate p g).latched = s.latched := by
  unfold State.setGate
  exact (foldl_same (fun s : State => s.latched) _ (fun s o => by split <;> rfl) _ _).trans rfl
@[simp] theorem State.setGate_occ (s : State) (p : Pll) (g : Bool) : (s.setGate p g).occ = s.occ := by
  unfold State.setGate
  exact (foldl_same (fun s : State => s.occ) _ (fun s o => by split <;> rfl) _ _).trans rfl
@[simp] theorem State.setGate_time (s : State) (p : Pll) (g : Bool) : (s.setGate p g).time = s.time := by
  unfold State.setGate
  exact (foldl_same (fun s : State => s.time) _ (fun s o => by split <;> rfl) _ _).trans rfl
@[simp] theorem State.setGate_out (s : State) (p : Pll) (g : Bool) : (s.setGate p g).out = s.out := by
  unfold State.setGate
  exact (foldl_same (fun s : State => s.out) _ (fun s o => by split <;> rfl) _ _).trans rfl
@[simp] theorem State.setGate_board (s : State) (p : Pll) (g : Bool) : (s.setGate p g).board = s.board := by
  unfold State.setGate
  exact (foldl_same (fun s : State => s.board) _ (fun s o => by split <;> rfl) _ _).trans rfl
@[simp] theorem State.setGate_draft (s : State) (p : Pll) (g : Bool) : (s.setGate p g).draft = s.draft := by
  unfold State.setGate
  exact (foldl_same (fun s : State => s.draft) _ (fun s o => by split <;> rfl) _ _).trans rfl
@[simp] theorem State.setGate_bbx (s : State) (p : Pll) (g : Bool) : (s.setGate p g).bbx = s.bbx := by
  unfold State.setGate
  exact (foldl_same (fun s : State => s.bbx) _ (fun s o => by split <;> rfl) _ _).trans rfl
@[simp] theorem State.setGate_i2c (s : State) (p : Pll) (g : Bool) : (s.setGate p g).i2c = s.i2c := by
  unfold State.setGate
  exact (foldl_same (fun s : State => s.i2c) _ (fun s o => by split <;> rfl) _ _).trans rfl
@[simp] theorem State.setGate_pair (s : State) (p : Pll) (g : Bool) : (s.setGate p g).pair = s.pair := by
  unfold State.setGate
  exact (foldl_same (fun s : State => s.pair) _ (fun s o => by split <;> rfl) _ _).trans rfl
@[simp] theorem State.setGate_conv (s : State) (p : Pll) (g : Bool) : (s.setGate p g).conv = s.conv := by
  unfold State.setGate
  exact (foldl_same (fun s : State => s.conv) _ (fun s o => by split <;> rfl) _ _).trans rfl
@[simp] theorem State.setGate_cal (s : State) (p : Pll) (g : Bool) : (s.setGate p g).cal = s.cal := by
  unfold State.setGate
  exact (foldl_same (fun s : State => s.cal) _ (fun s o => by split <;> rfl) _ _).trans rfl
@[simp] theorem State.setGate_clk (s : State) (p : Pll) (g : Bool) : (s.setGate p g).clk = s.clk := by
  unfold State.setGate
  exact (foldl_same (fun s : State => s.clk) _ (fun s o => by split <;> rfl) _ _).trans rfl
@[simp] theorem State.setGate_trig (s : State) (p : Pll) (g : Bool) : (s.setGate p g).trig = s.trig := by
  unfold State.setGate
  exact (foldl_same (fun s : State => s.trig) _ (fun s o => by split <;> rfl) _ _).trans rfl
@[simp] theorem State.setGate_axis (s : State) (p : Pll) (g : Bool) : (s.setGate p g).axis = s.axis := by
  unfold State.setGate
  exact (foldl_same (fun s : State => s.axis) _ (fun s o => by split <;> rfl) _ _).trans rfl
@[simp] theorem State.setGate_loom (s : State) (p : Pll) (g : Bool) : (s.setGate p g).loom = s.loom := by
  unfold State.setGate
  exact (foldl_same (fun s : State => s.loom) _ (fun s o => by split <;> rfl) _ _).trans rfl
@[simp] theorem State.setGate_lanes (s : State) (p : Pll) (g : Bool) : (s.setGate p g).lanes = s.lanes := by
  unfold State.setGate
  exact (foldl_same (fun s : State => s.lanes) _ (fun s o => by split <;> rfl) _ _).trans rfl
@[simp] theorem State.setGate_seg (s : State) (p : Pll) (g : Bool) : (s.setGate p g).seg = s.seg := by
  unfold State.setGate
  exact (foldl_same (fun s : State => s.seg) _ (fun s o => by split <;> rfl) _ _).trans rfl
@[simp] theorem State.setGate_beam (s : State) (p : Pll) (g : Bool) : (s.setGate p g).beam = s.beam := by
  unfold State.setGate
  exact (foldl_same (fun s : State => s.beam) _ (fun s o => by split <;> rfl) _ _).trans rfl
@[simp] theorem State.setGate_mem (s : State) (p : Pll) (g : Bool) : (s.setGate p g).mem = s.mem := by
  unfold State.setGate
  exact (foldl_same (fun s : State => s.mem) _ (fun s o => by split <;> rfl) _ _).trans rfl
@[simp] theorem State.setGate_shuttles (s : State) (p : Pll) (g : Bool) : (s.setGate p g).shuttles = s.shuttles := by
  unfold State.setGate
  exact (foldl_same (fun s : State => s.shuttles) _ (fun s o => by split <;> rfl) _ _).trans rfl
@[simp] theorem State.setGate_dma (s : State) (p : Pll) (g : Bool) : (s.setGate p g).dma = s.dma := by
  unfold State.setGate
  exact (foldl_same (fun s : State => s.dma) _ (fun s o => by split <;> rfl) _ _).trans rfl
@[simp] theorem State.setGate_strm (s : State) (p : Pll) (g : Bool) : (s.setGate p g).strm = s.strm := by
  unfold State.setGate
  exact (foldl_same (fun s : State => s.strm) _ (fun s o => by split <;> rfl) _ _).trans rfl
@[simp] theorem State.setGate_disp (s : State) (p : Pll) (g : Bool) : (s.setGate p g).disp = s.disp := by
  unfold State.setGate
  exact (foldl_same (fun s : State => s.disp) _ (fun s o => by split <;> rfl) _ _).trans rfl
@[simp] theorem State.setGate_pending (s : State) (p : Pll) (g : Bool) : (s.setGate p g).pending = s.pending := by
  unfold State.setGate
  exact (foldl_same (fun s : State => s.pending) _ (fun s o => by split <;> rfl) _ _).trans rfl

@[simp] theorem State.takeEn_regs (s : State) (p : Pll) : (s.takeEn p).regs = s.regs := rfl
@[simp] theorem State.takeEn_held (s : State) (p : Pll) : (s.takeEn p).held = s.held := rfl
@[simp] theorem State.takeEn_latched (s : State) (p : Pll) : (s.takeEn p).latched = s.latched := rfl
@[simp] theorem State.takeEn_occ (s : State) (p : Pll) : (s.takeEn p).occ = s.occ := rfl
@[simp] theorem State.takeEn_time (s : State) (p : Pll) : (s.takeEn p).time = s.time := rfl
@[simp] theorem State.takeEn_out (s : State) (p : Pll) : (s.takeEn p).out = s.out := rfl
@[simp] theorem State.takeEn_board (s : State) (p : Pll) : (s.takeEn p).board = s.board := rfl
@[simp] theorem State.takeEn_draft (s : State) (p : Pll) : (s.takeEn p).draft = s.draft := rfl
@[simp] theorem State.takeEn_bbx (s : State) (p : Pll) : (s.takeEn p).bbx = s.bbx := rfl
@[simp] theorem State.takeEn_i2c (s : State) (p : Pll) : (s.takeEn p).i2c = s.i2c := rfl
@[simp] theorem State.takeEn_pair (s : State) (p : Pll) : (s.takeEn p).pair = s.pair := rfl
@[simp] theorem State.takeEn_conv (s : State) (p : Pll) : (s.takeEn p).conv = s.conv := rfl
@[simp] theorem State.takeEn_cal (s : State) (p : Pll) : (s.takeEn p).cal = s.cal := rfl
@[simp] theorem State.takeEn_trig (s : State) (p : Pll) : (s.takeEn p).trig = s.trig := rfl
@[simp] theorem State.takeEn_axis (s : State) (p : Pll) : (s.takeEn p).axis = s.axis := rfl
@[simp] theorem State.takeEn_loom (s : State) (p : Pll) : (s.takeEn p).loom = s.loom := rfl
@[simp] theorem State.takeEn_lanes (s : State) (p : Pll) : (s.takeEn p).lanes = s.lanes := rfl
@[simp] theorem State.takeEn_seg (s : State) (p : Pll) : (s.takeEn p).seg = s.seg := rfl
@[simp] theorem State.takeEn_beam (s : State) (p : Pll) : (s.takeEn p).beam = s.beam := rfl
@[simp] theorem State.takeEn_mem (s : State) (p : Pll) : (s.takeEn p).mem = s.mem := rfl
@[simp] theorem State.takeEn_shuttles (s : State) (p : Pll) : (s.takeEn p).shuttles = s.shuttles := rfl
@[simp] theorem State.takeEn_dma (s : State) (p : Pll) : (s.takeEn p).dma = s.dma := rfl
@[simp] theorem State.takeEn_strm (s : State) (p : Pll) : (s.takeEn p).strm = s.strm := rfl
@[simp] theorem State.takeEn_disp (s : State) (p : Pll) : (s.takeEn p).disp = s.disp := rfl
@[simp] theorem State.takeEn_pending (s : State) (p : Pll) : (s.takeEn p).pending = s.pending := rfl

@[simp] theorem State.setPll_held (s : State) (p : Pll) (n : Nat) : (s.setPll p n).held = s.held := by
  unfold State.setPll
  dsimp only
  split <;> split <;> simp
@[simp] theorem State.setPll_latched (s : State) (p : Pll) (n : Nat) : (s.setPll p n).latched = s.latched := by
  unfold State.setPll
  dsimp only
  split <;> split <;> simp
@[simp] theorem State.setPll_occ (s : State) (p : Pll) (n : Nat) : (s.setPll p n).occ = s.occ := by
  unfold State.setPll
  dsimp only
  split <;> split <;> simp
@[simp] theorem State.setPll_time (s : State) (p : Pll) (n : Nat) : (s.setPll p n).time = s.time := by
  unfold State.setPll
  dsimp only
  split <;> split <;> simp
@[simp] theorem State.setPll_out (s : State) (p : Pll) (n : Nat) : (s.setPll p n).out = s.out := by
  unfold State.setPll
  dsimp only
  split <;> split <;> simp
@[simp] theorem State.setPll_board (s : State) (p : Pll) (n : Nat) : (s.setPll p n).board = s.board := by
  unfold State.setPll
  dsimp only
  split <;> split <;> simp
@[simp] theorem State.setPll_draft (s : State) (p : Pll) (n : Nat) : (s.setPll p n).draft = s.draft := by
  unfold State.setPll
  dsimp only
  split <;> split <;> simp
@[simp] theorem State.setPll_bbx (s : State) (p : Pll) (n : Nat) : (s.setPll p n).bbx = s.bbx := by
  unfold State.setPll
  dsimp only
  split <;> split <;> simp
@[simp] theorem State.setPll_i2c (s : State) (p : Pll) (n : Nat) : (s.setPll p n).i2c = s.i2c := by
  unfold State.setPll
  dsimp only
  split <;> split <;> simp
@[simp] theorem State.setPll_pair (s : State) (p : Pll) (n : Nat) : (s.setPll p n).pair = s.pair := by
  unfold State.setPll
  dsimp only
  split <;> split <;> simp
@[simp] theorem State.setPll_conv (s : State) (p : Pll) (n : Nat) : (s.setPll p n).conv = s.conv := by
  unfold State.setPll
  dsimp only
  split <;> split <;> simp
@[simp] theorem State.setPll_cal (s : State) (p : Pll) (n : Nat) : (s.setPll p n).cal = s.cal := by
  unfold State.setPll
  dsimp only
  split <;> split <;> simp
@[simp] theorem State.setPll_trig (s : State) (p : Pll) (n : Nat) : (s.setPll p n).trig = s.trig := by
  unfold State.setPll
  dsimp only
  split <;> split <;> simp
@[simp] theorem State.setPll_axis (s : State) (p : Pll) (n : Nat) : (s.setPll p n).axis = s.axis := by
  unfold State.setPll
  dsimp only
  split <;> split <;> simp
@[simp] theorem State.setPll_loom (s : State) (p : Pll) (n : Nat) : (s.setPll p n).loom = s.loom := by
  unfold State.setPll
  dsimp only
  split <;> split <;> simp
@[simp] theorem State.setPll_lanes (s : State) (p : Pll) (n : Nat) : (s.setPll p n).lanes = s.lanes := by
  unfold State.setPll
  dsimp only
  split <;> split <;> simp
@[simp] theorem State.setPll_seg (s : State) (p : Pll) (n : Nat) : (s.setPll p n).seg = s.seg := by
  unfold State.setPll
  dsimp only
  split <;> split <;> simp
@[simp] theorem State.setPll_beam (s : State) (p : Pll) (n : Nat) : (s.setPll p n).beam = s.beam := by
  unfold State.setPll
  dsimp only
  split <;> split <;> simp
@[simp] theorem State.setPll_mem (s : State) (p : Pll) (n : Nat) : (s.setPll p n).mem = s.mem := by
  unfold State.setPll
  dsimp only
  split <;> split <;> simp
@[simp] theorem State.setPll_shuttles (s : State) (p : Pll) (n : Nat) : (s.setPll p n).shuttles = s.shuttles := by
  unfold State.setPll
  dsimp only
  split <;> split <;> simp
@[simp] theorem State.setPll_dma (s : State) (p : Pll) (n : Nat) : (s.setPll p n).dma = s.dma := by
  unfold State.setPll
  dsimp only
  split <;> split <;> simp
@[simp] theorem State.setPll_strm (s : State) (p : Pll) (n : Nat) : (s.setPll p n).strm = s.strm := by
  unfold State.setPll
  dsimp only
  split <;> split <;> simp
@[simp] theorem State.setPll_disp (s : State) (p : Pll) (n : Nat) : (s.setPll p n).disp = s.disp := by
  unfold State.setPll
  dsimp only
  split <;> split <;> simp
@[simp] theorem State.setPll_pending (s : State) (p : Pll) (n : Nat) : (s.setPll p n).pending = s.pending := by
  unfold State.setPll
  dsimp only
  split <;> split <;> simp

@[simp] theorem State.rclAdd_held (s : State) (o n : Nat) : (s.rclAdd o n).held = s.held := by
  unfold State.rclAdd
  split <;> rfl
@[simp] theorem State.rclAdd_latched (s : State) (o n : Nat) : (s.rclAdd o n).latched = s.latched := by
  unfold State.rclAdd
  split <;> rfl
@[simp] theorem State.rclAdd_occ (s : State) (o n : Nat) : (s.rclAdd o n).occ = s.occ := by
  unfold State.rclAdd
  split <;> rfl
@[simp] theorem State.rclAdd_out (s : State) (o n : Nat) : (s.rclAdd o n).out = s.out := by
  unfold State.rclAdd
  split <;> rfl
@[simp] theorem State.rclAdd_board (s : State) (o n : Nat) : (s.rclAdd o n).board = s.board := by
  unfold State.rclAdd
  split <;> rfl
@[simp] theorem State.rclAdd_draft (s : State) (o n : Nat) : (s.rclAdd o n).draft = s.draft := by
  unfold State.rclAdd
  split <;> rfl
@[simp] theorem State.rclAdd_bbx (s : State) (o n : Nat) : (s.rclAdd o n).bbx = s.bbx := by
  unfold State.rclAdd
  split <;> rfl
@[simp] theorem State.rclAdd_i2c (s : State) (o n : Nat) : (s.rclAdd o n).i2c = s.i2c := by
  unfold State.rclAdd
  split <;> rfl
@[simp] theorem State.rclAdd_pair (s : State) (o n : Nat) : (s.rclAdd o n).pair = s.pair := by
  unfold State.rclAdd
  split <;> rfl
@[simp] theorem State.rclAdd_conv (s : State) (o n : Nat) : (s.rclAdd o n).conv = s.conv := by
  unfold State.rclAdd
  split <;> rfl
@[simp] theorem State.rclAdd_cal (s : State) (o n : Nat) : (s.rclAdd o n).cal = s.cal := by
  unfold State.rclAdd
  split <;> rfl
@[simp] theorem State.rclAdd_clk (s : State) (o n : Nat) : (s.rclAdd o n).clk = s.clk := by
  unfold State.rclAdd
  split <;> rfl
@[simp] theorem State.rclAdd_trig (s : State) (o n : Nat) : (s.rclAdd o n).trig = s.trig := by
  unfold State.rclAdd
  split <;> rfl
@[simp] theorem State.rclAdd_axis (s : State) (o n : Nat) : (s.rclAdd o n).axis = s.axis := by
  unfold State.rclAdd
  split <;> rfl
@[simp] theorem State.rclAdd_loom (s : State) (o n : Nat) : (s.rclAdd o n).loom = s.loom := by
  unfold State.rclAdd
  split <;> rfl
@[simp] theorem State.rclAdd_lanes (s : State) (o n : Nat) : (s.rclAdd o n).lanes = s.lanes := by
  unfold State.rclAdd
  split <;> rfl
@[simp] theorem State.rclAdd_seg (s : State) (o n : Nat) : (s.rclAdd o n).seg = s.seg := by
  unfold State.rclAdd
  split <;> rfl
@[simp] theorem State.rclAdd_beam (s : State) (o n : Nat) : (s.rclAdd o n).beam = s.beam := by
  unfold State.rclAdd
  split <;> rfl
@[simp] theorem State.rclAdd_mem (s : State) (o n : Nat) : (s.rclAdd o n).mem = s.mem := by
  unfold State.rclAdd
  split <;> rfl
@[simp] theorem State.rclAdd_shuttles (s : State) (o n : Nat) : (s.rclAdd o n).shuttles = s.shuttles := by
  unfold State.rclAdd
  split <;> rfl
@[simp] theorem State.rclAdd_dma (s : State) (o n : Nat) : (s.rclAdd o n).dma = s.dma := by
  unfold State.rclAdd
  split <;> rfl
@[simp] theorem State.rclAdd_strm (s : State) (o n : Nat) : (s.rclAdd o n).strm = s.strm := by
  unfold State.rclAdd
  split <;> rfl
@[simp] theorem State.rclAdd_disp (s : State) (o n : Nat) : (s.rclAdd o n).disp = s.disp := by
  unfold State.rclAdd
  split <;> rfl
@[simp] theorem State.rclAdd_pending (s : State) (o n : Nat) : (s.rclAdd o n).pending = s.pending := by
  unfold State.rclAdd
  split <;> rfl

@[simp] theorem State.setRegs_held (s : State) (l : List (Nat × Word)) : (s.setRegs l).held = s.held := by
  unfold State.setRegs
  induction l generalizing s with
  | nil => rfl
  | cons a l ih => exact (ih _).trans rfl
@[simp] theorem State.setRegs_latched (s : State) (l : List (Nat × Word)) : (s.setRegs l).latched = s.latched := by
  unfold State.setRegs
  induction l generalizing s with
  | nil => rfl
  | cons a l ih => exact (ih _).trans rfl
@[simp] theorem State.setRegs_occ (s : State) (l : List (Nat × Word)) : (s.setRegs l).occ = s.occ := by
  unfold State.setRegs
  induction l generalizing s with
  | nil => rfl
  | cons a l ih => exact (ih _).trans rfl
@[simp] theorem State.setRegs_time (s : State) (l : List (Nat × Word)) : (s.setRegs l).time = s.time := by
  unfold State.setRegs
  induction l generalizing s with
  | nil => rfl
  | cons a l ih => exact (ih _).trans rfl
@[simp] theorem State.setRegs_out (s : State) (l : List (Nat × Word)) : (s.setRegs l).out = s.out := by
  unfold State.setRegs
  induction l generalizing s with
  | nil => rfl
  | cons a l ih => exact (ih _).trans rfl
@[simp] theorem State.setRegs_board (s : State) (l : List (Nat × Word)) : (s.setRegs l).board = s.board := by
  unfold State.setRegs
  induction l generalizing s with
  | nil => rfl
  | cons a l ih => exact (ih _).trans rfl
@[simp] theorem State.setRegs_draft (s : State) (l : List (Nat × Word)) : (s.setRegs l).draft = s.draft := by
  unfold State.setRegs
  induction l generalizing s with
  | nil => rfl
  | cons a l ih => exact (ih _).trans rfl
@[simp] theorem State.setRegs_bbx (s : State) (l : List (Nat × Word)) : (s.setRegs l).bbx = s.bbx := by
  unfold State.setRegs
  induction l generalizing s with
  | nil => rfl
  | cons a l ih => exact (ih _).trans rfl
@[simp] theorem State.setRegs_i2c (s : State) (l : List (Nat × Word)) : (s.setRegs l).i2c = s.i2c := by
  unfold State.setRegs
  induction l generalizing s with
  | nil => rfl
  | cons a l ih => exact (ih _).trans rfl
@[simp] theorem State.setRegs_pair (s : State) (l : List (Nat × Word)) : (s.setRegs l).pair = s.pair := by
  unfold State.setRegs
  induction l generalizing s with
  | nil => rfl
  | cons a l ih => exact (ih _).trans rfl
@[simp] theorem State.setRegs_conv (s : State) (l : List (Nat × Word)) : (s.setRegs l).conv = s.conv := by
  unfold State.setRegs
  induction l generalizing s with
  | nil => rfl
  | cons a l ih => exact (ih _).trans rfl
@[simp] theorem State.setRegs_cal (s : State) (l : List (Nat × Word)) : (s.setRegs l).cal = s.cal := by
  unfold State.setRegs
  induction l generalizing s with
  | nil => rfl
  | cons a l ih => exact (ih _).trans rfl
@[simp] theorem State.setRegs_clk (s : State) (l : List (Nat × Word)) : (s.setRegs l).clk = s.clk := by
  unfold State.setRegs
  induction l generalizing s with
  | nil => rfl
  | cons a l ih => exact (ih _).trans rfl
@[simp] theorem State.setRegs_trig (s : State) (l : List (Nat × Word)) : (s.setRegs l).trig = s.trig := by
  unfold State.setRegs
  induction l generalizing s with
  | nil => rfl
  | cons a l ih => exact (ih _).trans rfl
@[simp] theorem State.setRegs_axis (s : State) (l : List (Nat × Word)) : (s.setRegs l).axis = s.axis := by
  unfold State.setRegs
  induction l generalizing s with
  | nil => rfl
  | cons a l ih => exact (ih _).trans rfl
@[simp] theorem State.setRegs_loom (s : State) (l : List (Nat × Word)) : (s.setRegs l).loom = s.loom := by
  unfold State.setRegs
  induction l generalizing s with
  | nil => rfl
  | cons a l ih => exact (ih _).trans rfl
@[simp] theorem State.setRegs_lanes (s : State) (l : List (Nat × Word)) : (s.setRegs l).lanes = s.lanes := by
  unfold State.setRegs
  induction l generalizing s with
  | nil => rfl
  | cons a l ih => exact (ih _).trans rfl
@[simp] theorem State.setRegs_seg (s : State) (l : List (Nat × Word)) : (s.setRegs l).seg = s.seg := by
  unfold State.setRegs
  induction l generalizing s with
  | nil => rfl
  | cons a l ih => exact (ih _).trans rfl
@[simp] theorem State.setRegs_beam (s : State) (l : List (Nat × Word)) : (s.setRegs l).beam = s.beam := by
  unfold State.setRegs
  induction l generalizing s with
  | nil => rfl
  | cons a l ih => exact (ih _).trans rfl
@[simp] theorem State.setRegs_mem (s : State) (l : List (Nat × Word)) : (s.setRegs l).mem = s.mem := by
  unfold State.setRegs
  induction l generalizing s with
  | nil => rfl
  | cons a l ih => exact (ih _).trans rfl
@[simp] theorem State.setRegs_shuttles (s : State) (l : List (Nat × Word)) : (s.setRegs l).shuttles = s.shuttles := by
  unfold State.setRegs
  induction l generalizing s with
  | nil => rfl
  | cons a l ih => exact (ih _).trans rfl
@[simp] theorem State.setRegs_dma (s : State) (l : List (Nat × Word)) : (s.setRegs l).dma = s.dma := by
  unfold State.setRegs
  induction l generalizing s with
  | nil => rfl
  | cons a l ih => exact (ih _).trans rfl
@[simp] theorem State.setRegs_strm (s : State) (l : List (Nat × Word)) : (s.setRegs l).strm = s.strm := by
  unfold State.setRegs
  induction l generalizing s with
  | nil => rfl
  | cons a l ih => exact (ih _).trans rfl
@[simp] theorem State.setRegs_disp (s : State) (l : List (Nat × Word)) : (s.setRegs l).disp = s.disp := by
  unfold State.setRegs
  induction l generalizing s with
  | nil => rfl
  | cons a l ih => exact (ih _).trans rfl
@[simp] theorem State.setRegs_pending (s : State) (l : List (Nat × Word)) : (s.setRegs l).pending = s.pending := by
  unfold State.setRegs
  induction l generalizing s with
  | nil => rfl
  | cons a l ih => exact (ih _).trans rfl

@[simp] theorem State.countOcc_regs (s : State) (f : Fld) : (s.countOcc f).regs = s.regs := by
  unfold State.countOcc
  split <;> rfl
@[simp] theorem State.countOcc_held (s : State) (f : Fld) : (s.countOcc f).held = s.held := by
  unfold State.countOcc
  split <;> rfl
@[simp] theorem State.countOcc_latched (s : State) (f : Fld) : (s.countOcc f).latched = s.latched := by
  unfold State.countOcc
  split <;> rfl
@[simp] theorem State.countOcc_out (s : State) (f : Fld) : (s.countOcc f).out = s.out := by
  unfold State.countOcc
  split <;> rfl
@[simp] theorem State.countOcc_board (s : State) (f : Fld) : (s.countOcc f).board = s.board := by
  unfold State.countOcc
  split <;> rfl
@[simp] theorem State.countOcc_draft (s : State) (f : Fld) : (s.countOcc f).draft = s.draft := by
  unfold State.countOcc
  split <;> rfl
@[simp] theorem State.countOcc_bbx (s : State) (f : Fld) : (s.countOcc f).bbx = s.bbx := by
  unfold State.countOcc
  split <;> rfl
@[simp] theorem State.countOcc_i2c (s : State) (f : Fld) : (s.countOcc f).i2c = s.i2c := by
  unfold State.countOcc
  split <;> rfl
@[simp] theorem State.countOcc_pair (s : State) (f : Fld) : (s.countOcc f).pair = s.pair := by
  unfold State.countOcc
  split <;> rfl
@[simp] theorem State.countOcc_conv (s : State) (f : Fld) : (s.countOcc f).conv = s.conv := by
  unfold State.countOcc
  split <;> rfl
@[simp] theorem State.countOcc_cal (s : State) (f : Fld) : (s.countOcc f).cal = s.cal := by
  unfold State.countOcc
  split <;> rfl
@[simp] theorem State.countOcc_clk (s : State) (f : Fld) : (s.countOcc f).clk = s.clk := by
  unfold State.countOcc
  split <;> rfl
@[simp] theorem State.countOcc_trig (s : State) (f : Fld) : (s.countOcc f).trig = s.trig := by
  unfold State.countOcc
  split <;> rfl
@[simp] theorem State.countOcc_axis (s : State) (f : Fld) : (s.countOcc f).axis = s.axis := by
  unfold State.countOcc
  split <;> rfl
@[simp] theorem State.countOcc_loom (s : State) (f : Fld) : (s.countOcc f).loom = s.loom := by
  unfold State.countOcc
  split <;> rfl
@[simp] theorem State.countOcc_lanes (s : State) (f : Fld) : (s.countOcc f).lanes = s.lanes := by
  unfold State.countOcc
  split <;> rfl
@[simp] theorem State.countOcc_seg (s : State) (f : Fld) : (s.countOcc f).seg = s.seg := by
  unfold State.countOcc
  split <;> rfl
@[simp] theorem State.countOcc_beam (s : State) (f : Fld) : (s.countOcc f).beam = s.beam := by
  unfold State.countOcc
  split <;> rfl
@[simp] theorem State.countOcc_mem (s : State) (f : Fld) : (s.countOcc f).mem = s.mem := by
  unfold State.countOcc
  split <;> rfl
@[simp] theorem State.countOcc_shuttles (s : State) (f : Fld) : (s.countOcc f).shuttles = s.shuttles := by
  unfold State.countOcc
  split <;> rfl
@[simp] theorem State.countOcc_dma (s : State) (f : Fld) : (s.countOcc f).dma = s.dma := by
  unfold State.countOcc
  split <;> rfl
@[simp] theorem State.countOcc_strm (s : State) (f : Fld) : (s.countOcc f).strm = s.strm := by
  unfold State.countOcc
  split <;> rfl
@[simp] theorem State.countOcc_disp (s : State) (f : Fld) : (s.countOcc f).disp = s.disp := by
  unfold State.countOcc
  split <;> rfl
@[simp] theorem State.countOcc_pending (s : State) (f : Fld) : (s.countOcc f).pending = s.pending := by
  unfold State.countOcc
  split <;> rfl

@[simp] theorem State.raiseVector_held (s : State) (v : Nat) : (s.raiseVector v).held = s.held := by
  unfold State.raiseVector
  split <;> rfl
@[simp] theorem State.raiseVector_latched (s : State) (v : Nat) : (s.raiseVector v).latched = s.latched := by
  unfold State.raiseVector
  split <;> rfl
@[simp] theorem State.raiseVector_occ (s : State) (v : Nat) : (s.raiseVector v).occ = s.occ := by
  unfold State.raiseVector
  split <;> rfl
@[simp] theorem State.raiseVector_time (s : State) (v : Nat) : (s.raiseVector v).time = s.time := by
  unfold State.raiseVector
  split <;> rfl
@[simp] theorem State.raiseVector_board (s : State) (v : Nat) : (s.raiseVector v).board = s.board := by
  unfold State.raiseVector
  split <;> rfl
@[simp] theorem State.raiseVector_draft (s : State) (v : Nat) : (s.raiseVector v).draft = s.draft := by
  unfold State.raiseVector
  split <;> rfl
@[simp] theorem State.raiseVector_bbx (s : State) (v : Nat) : (s.raiseVector v).bbx = s.bbx := by
  unfold State.raiseVector
  split <;> rfl
@[simp] theorem State.raiseVector_i2c (s : State) (v : Nat) : (s.raiseVector v).i2c = s.i2c := by
  unfold State.raiseVector
  split <;> rfl
@[simp] theorem State.raiseVector_pair (s : State) (v : Nat) : (s.raiseVector v).pair = s.pair := by
  unfold State.raiseVector
  split <;> rfl
@[simp] theorem State.raiseVector_conv (s : State) (v : Nat) : (s.raiseVector v).conv = s.conv := by
  unfold State.raiseVector
  split <;> rfl
@[simp] theorem State.raiseVector_cal (s : State) (v : Nat) : (s.raiseVector v).cal = s.cal := by
  unfold State.raiseVector
  split <;> rfl
@[simp] theorem State.raiseVector_clk (s : State) (v : Nat) : (s.raiseVector v).clk = s.clk := by
  unfold State.raiseVector
  split <;> rfl
@[simp] theorem State.raiseVector_trig (s : State) (v : Nat) : (s.raiseVector v).trig = s.trig := by
  unfold State.raiseVector
  split <;> rfl
@[simp] theorem State.raiseVector_axis (s : State) (v : Nat) : (s.raiseVector v).axis = s.axis := by
  unfold State.raiseVector
  split <;> rfl
@[simp] theorem State.raiseVector_loom (s : State) (v : Nat) : (s.raiseVector v).loom = s.loom := by
  unfold State.raiseVector
  split <;> rfl
@[simp] theorem State.raiseVector_lanes (s : State) (v : Nat) : (s.raiseVector v).lanes = s.lanes := by
  unfold State.raiseVector
  split <;> rfl
@[simp] theorem State.raiseVector_seg (s : State) (v : Nat) : (s.raiseVector v).seg = s.seg := by
  unfold State.raiseVector
  split <;> rfl
@[simp] theorem State.raiseVector_beam (s : State) (v : Nat) : (s.raiseVector v).beam = s.beam := by
  unfold State.raiseVector
  split <;> rfl
@[simp] theorem State.raiseVector_mem (s : State) (v : Nat) : (s.raiseVector v).mem = s.mem := by
  unfold State.raiseVector
  split <;> rfl
@[simp] theorem State.raiseVector_shuttles (s : State) (v : Nat) : (s.raiseVector v).shuttles = s.shuttles := by
  unfold State.raiseVector
  split <;> rfl
@[simp] theorem State.raiseVector_dma (s : State) (v : Nat) : (s.raiseVector v).dma = s.dma := by
  unfold State.raiseVector
  split <;> rfl
@[simp] theorem State.raiseVector_strm (s : State) (v : Nat) : (s.raiseVector v).strm = s.strm := by
  unfold State.raiseVector
  split <;> rfl
@[simp] theorem State.raiseVector_disp (s : State) (v : Nat) : (s.raiseVector v).disp = s.disp := by
  unfold State.raiseVector
  split <;> rfl
@[simp] theorem State.raiseVector_pending (s : State) (v : Nat) : (s.raiseVector v).pending = s.pending := by
  unfold State.raiseVector
  split <;> rfl

@[simp] theorem State.releaseVector_held (s : State) (v : Nat) : (s.releaseVector v).held = s.held := by
  unfold State.releaseVector
  split <;> rfl
@[simp] theorem State.releaseVector_latched (s : State) (v : Nat) : (s.releaseVector v).latched = s.latched := by
  unfold State.releaseVector
  split <;> rfl
@[simp] theorem State.releaseVector_occ (s : State) (v : Nat) : (s.releaseVector v).occ = s.occ := by
  unfold State.releaseVector
  split <;> rfl
@[simp] theorem State.releaseVector_time (s : State) (v : Nat) : (s.releaseVector v).time = s.time := by
  unfold State.releaseVector
  split <;> rfl
@[simp] theorem State.releaseVector_board (s : State) (v : Nat) : (s.releaseVector v).board = s.board := by
  unfold State.releaseVector
  split <;> rfl
@[simp] theorem State.releaseVector_draft (s : State) (v : Nat) : (s.releaseVector v).draft = s.draft := by
  unfold State.releaseVector
  split <;> rfl
@[simp] theorem State.releaseVector_bbx (s : State) (v : Nat) : (s.releaseVector v).bbx = s.bbx := by
  unfold State.releaseVector
  split <;> rfl
@[simp] theorem State.releaseVector_i2c (s : State) (v : Nat) : (s.releaseVector v).i2c = s.i2c := by
  unfold State.releaseVector
  split <;> rfl
@[simp] theorem State.releaseVector_pair (s : State) (v : Nat) : (s.releaseVector v).pair = s.pair := by
  unfold State.releaseVector
  split <;> rfl
@[simp] theorem State.releaseVector_conv (s : State) (v : Nat) : (s.releaseVector v).conv = s.conv := by
  unfold State.releaseVector
  split <;> rfl
@[simp] theorem State.releaseVector_cal (s : State) (v : Nat) : (s.releaseVector v).cal = s.cal := by
  unfold State.releaseVector
  split <;> rfl
@[simp] theorem State.releaseVector_clk (s : State) (v : Nat) : (s.releaseVector v).clk = s.clk := by
  unfold State.releaseVector
  split <;> rfl
@[simp] theorem State.releaseVector_trig (s : State) (v : Nat) : (s.releaseVector v).trig = s.trig := by
  unfold State.releaseVector
  split <;> rfl
@[simp] theorem State.releaseVector_axis (s : State) (v : Nat) : (s.releaseVector v).axis = s.axis := by
  unfold State.releaseVector
  split <;> rfl
@[simp] theorem State.releaseVector_loom (s : State) (v : Nat) : (s.releaseVector v).loom = s.loom := by
  unfold State.releaseVector
  split <;> rfl
@[simp] theorem State.releaseVector_lanes (s : State) (v : Nat) : (s.releaseVector v).lanes = s.lanes := by
  unfold State.releaseVector
  split <;> rfl
@[simp] theorem State.releaseVector_seg (s : State) (v : Nat) : (s.releaseVector v).seg = s.seg := by
  unfold State.releaseVector
  split <;> rfl
@[simp] theorem State.releaseVector_beam (s : State) (v : Nat) : (s.releaseVector v).beam = s.beam := by
  unfold State.releaseVector
  split <;> rfl
@[simp] theorem State.releaseVector_mem (s : State) (v : Nat) : (s.releaseVector v).mem = s.mem := by
  unfold State.releaseVector
  split <;> rfl
@[simp] theorem State.releaseVector_shuttles (s : State) (v : Nat) : (s.releaseVector v).shuttles = s.shuttles := by
  unfold State.releaseVector
  split <;> rfl
@[simp] theorem State.releaseVector_dma (s : State) (v : Nat) : (s.releaseVector v).dma = s.dma := by
  unfold State.releaseVector
  split <;> rfl
@[simp] theorem State.releaseVector_strm (s : State) (v : Nat) : (s.releaseVector v).strm = s.strm := by
  unfold State.releaseVector
  split <;> rfl
@[simp] theorem State.releaseVector_disp (s : State) (v : Nat) : (s.releaseVector v).disp = s.disp := by
  unfold State.releaseVector
  split <;> rfl
@[simp] theorem State.releaseVector_pending (s : State) (v : Nat) : (s.releaseVector v).pending = s.pending := by
  unfold State.releaseVector
  split <;> rfl

@[simp] theorem State.hwSet_held (s : State) (f : Fld) : (s.hwSet f).held = s.held := by
  unfold State.hwSet
  dsimp only
  split <;> simp
@[simp] theorem State.hwSet_latched (s : State) (f : Fld) : (s.hwSet f).latched = s.latched := by
  unfold State.hwSet
  dsimp only
  split <;> simp
@[simp] theorem State.hwSet_board (s : State) (f : Fld) : (s.hwSet f).board = s.board := by
  unfold State.hwSet
  dsimp only
  split <;> simp
@[simp] theorem State.hwSet_draft (s : State) (f : Fld) : (s.hwSet f).draft = s.draft := by
  unfold State.hwSet
  dsimp only
  split <;> simp
@[simp] theorem State.hwSet_bbx (s : State) (f : Fld) : (s.hwSet f).bbx = s.bbx := by
  unfold State.hwSet
  dsimp only
  split <;> simp
@[simp] theorem State.hwSet_i2c (s : State) (f : Fld) : (s.hwSet f).i2c = s.i2c := by
  unfold State.hwSet
  dsimp only
  split <;> simp
@[simp] theorem State.hwSet_pair (s : State) (f : Fld) : (s.hwSet f).pair = s.pair := by
  unfold State.hwSet
  dsimp only
  split <;> simp
@[simp] theorem State.hwSet_conv (s : State) (f : Fld) : (s.hwSet f).conv = s.conv := by
  unfold State.hwSet
  dsimp only
  split <;> simp
@[simp] theorem State.hwSet_cal (s : State) (f : Fld) : (s.hwSet f).cal = s.cal := by
  unfold State.hwSet
  dsimp only
  split <;> simp
@[simp] theorem State.hwSet_clk (s : State) (f : Fld) : (s.hwSet f).clk = s.clk := by
  unfold State.hwSet
  dsimp only
  split <;> simp
@[simp] theorem State.hwSet_trig (s : State) (f : Fld) : (s.hwSet f).trig = s.trig := by
  unfold State.hwSet
  dsimp only
  split <;> simp
@[simp] theorem State.hwSet_axis (s : State) (f : Fld) : (s.hwSet f).axis = s.axis := by
  unfold State.hwSet
  dsimp only
  split <;> simp
@[simp] theorem State.hwSet_loom (s : State) (f : Fld) : (s.hwSet f).loom = s.loom := by
  unfold State.hwSet
  dsimp only
  split <;> simp
@[simp] theorem State.hwSet_lanes (s : State) (f : Fld) : (s.hwSet f).lanes = s.lanes := by
  unfold State.hwSet
  dsimp only
  split <;> simp
@[simp] theorem State.hwSet_seg (s : State) (f : Fld) : (s.hwSet f).seg = s.seg := by
  unfold State.hwSet
  dsimp only
  split <;> simp
@[simp] theorem State.hwSet_beam (s : State) (f : Fld) : (s.hwSet f).beam = s.beam := by
  unfold State.hwSet
  dsimp only
  split <;> simp
@[simp] theorem State.hwSet_mem (s : State) (f : Fld) : (s.hwSet f).mem = s.mem := by
  unfold State.hwSet
  dsimp only
  split <;> simp
@[simp] theorem State.hwSet_shuttles (s : State) (f : Fld) : (s.hwSet f).shuttles = s.shuttles := by
  unfold State.hwSet
  dsimp only
  split <;> simp
@[simp] theorem State.hwSet_dma (s : State) (f : Fld) : (s.hwSet f).dma = s.dma := by
  unfold State.hwSet
  dsimp only
  split <;> simp
@[simp] theorem State.hwSet_strm (s : State) (f : Fld) : (s.hwSet f).strm = s.strm := by
  unfold State.hwSet
  dsimp only
  split <;> simp
@[simp] theorem State.hwSet_disp (s : State) (f : Fld) : (s.hwSet f).disp = s.disp := by
  unfold State.hwSet
  dsimp only
  split <;> simp
@[simp] theorem State.hwSet_pending (s : State) (f : Fld) : (s.hwSet f).pending = s.pending := by
  unfold State.hwSet
  dsimp only
  split <;> simp

@[simp] theorem State.dropEntry_held (s : State) : (s.dropEntry).held = s.held := by
  unfold State.dropEntry
  split <;> rfl
@[simp] theorem State.dropEntry_latched (s : State) : (s.dropEntry).latched = s.latched := by
  unfold State.dropEntry
  split <;> rfl
@[simp] theorem State.dropEntry_occ (s : State) : (s.dropEntry).occ = s.occ := by
  unfold State.dropEntry
  split <;> rfl
@[simp] theorem State.dropEntry_time (s : State) : (s.dropEntry).time = s.time := by
  unfold State.dropEntry
  split <;> rfl
@[simp] theorem State.dropEntry_out (s : State) : (s.dropEntry).out = s.out := by
  unfold State.dropEntry
  split <;> rfl
@[simp] theorem State.dropEntry_board (s : State) : (s.dropEntry).board = s.board := by
  unfold State.dropEntry
  split <;> rfl
@[simp] theorem State.dropEntry_draft (s : State) : (s.dropEntry).draft = s.draft := by
  unfold State.dropEntry
  split <;> rfl
@[simp] theorem State.dropEntry_i2c (s : State) : (s.dropEntry).i2c = s.i2c := by
  unfold State.dropEntry
  split <;> rfl
@[simp] theorem State.dropEntry_pair (s : State) : (s.dropEntry).pair = s.pair := by
  unfold State.dropEntry
  split <;> rfl
@[simp] theorem State.dropEntry_conv (s : State) : (s.dropEntry).conv = s.conv := by
  unfold State.dropEntry
  split <;> rfl
@[simp] theorem State.dropEntry_cal (s : State) : (s.dropEntry).cal = s.cal := by
  unfold State.dropEntry
  split <;> rfl
@[simp] theorem State.dropEntry_clk (s : State) : (s.dropEntry).clk = s.clk := by
  unfold State.dropEntry
  split <;> rfl
@[simp] theorem State.dropEntry_trig (s : State) : (s.dropEntry).trig = s.trig := by
  unfold State.dropEntry
  split <;> rfl
@[simp] theorem State.dropEntry_axis (s : State) : (s.dropEntry).axis = s.axis := by
  unfold State.dropEntry
  split <;> rfl
@[simp] theorem State.dropEntry_loom (s : State) : (s.dropEntry).loom = s.loom := by
  unfold State.dropEntry
  split <;> rfl
@[simp] theorem State.dropEntry_lanes (s : State) : (s.dropEntry).lanes = s.lanes := by
  unfold State.dropEntry
  split <;> rfl
@[simp] theorem State.dropEntry_seg (s : State) : (s.dropEntry).seg = s.seg := by
  unfold State.dropEntry
  split <;> rfl
@[simp] theorem State.dropEntry_beam (s : State) : (s.dropEntry).beam = s.beam := by
  unfold State.dropEntry
  split <;> rfl
@[simp] theorem State.dropEntry_mem (s : State) : (s.dropEntry).mem = s.mem := by
  unfold State.dropEntry
  split <;> rfl
@[simp] theorem State.dropEntry_shuttles (s : State) : (s.dropEntry).shuttles = s.shuttles := by
  unfold State.dropEntry
  split <;> rfl
@[simp] theorem State.dropEntry_dma (s : State) : (s.dropEntry).dma = s.dma := by
  unfold State.dropEntry
  split <;> rfl
@[simp] theorem State.dropEntry_strm (s : State) : (s.dropEntry).strm = s.strm := by
  unfold State.dropEntry
  split <;> rfl
@[simp] theorem State.dropEntry_disp (s : State) : (s.dropEntry).disp = s.disp := by
  unfold State.dropEntry
  split <;> rfl
@[simp] theorem State.dropEntry_pending (s : State) : (s.dropEntry).pending = s.pending := by
  unfold State.dropEntry
  split <;> rfl

@[simp] theorem State.enter_held (s : State) (d : EngState) (c : Nat) : (s.enter d c).held = s.held := by
  unfold State.enter
  dsimp only
  split <;> split <;> simp
@[simp] theorem State.enter_latched (s : State) (d : EngState) (c : Nat) : (s.enter d c).latched = s.latched := by
  unfold State.enter
  dsimp only
  split <;> split <;> simp
@[simp] theorem State.enter_occ (s : State) (d : EngState) (c : Nat) : (s.enter d c).occ = s.occ := by
  unfold State.enter
  dsimp only
  split <;> split <;> simp
@[simp] theorem State.enter_out (s : State) (d : EngState) (c : Nat) : (s.enter d c).out = s.out := by
  unfold State.enter
  dsimp only
  split <;> split <;> simp
@[simp] theorem State.enter_board (s : State) (d : EngState) (c : Nat) : (s.enter d c).board = s.board := by
  unfold State.enter
  dsimp only
  split <;> split <;> simp
@[simp] theorem State.enter_draft (s : State) (d : EngState) (c : Nat) : (s.enter d c).draft = s.draft := by
  unfold State.enter
  dsimp only
  split <;> split <;> simp
@[simp] theorem State.enter_i2c (s : State) (d : EngState) (c : Nat) : (s.enter d c).i2c = s.i2c := by
  unfold State.enter
  dsimp only
  split <;> split <;> simp
@[simp] theorem State.enter_pair (s : State) (d : EngState) (c : Nat) : (s.enter d c).pair = s.pair := by
  unfold State.enter
  dsimp only
  split <;> split <;> simp
@[simp] theorem State.enter_conv (s : State) (d : EngState) (c : Nat) : (s.enter d c).conv = s.conv := by
  unfold State.enter
  dsimp only
  split <;> split <;> simp
@[simp] theorem State.enter_cal (s : State) (d : EngState) (c : Nat) : (s.enter d c).cal = s.cal := by
  unfold State.enter
  dsimp only
  split <;> split <;> simp
@[simp] theorem State.enter_clk (s : State) (d : EngState) (c : Nat) : (s.enter d c).clk = s.clk := by
  unfold State.enter
  dsimp only
  split <;> split <;> simp
@[simp] theorem State.enter_trig (s : State) (d : EngState) (c : Nat) : (s.enter d c).trig = s.trig := by
  unfold State.enter
  dsimp only
  split <;> split <;> simp
@[simp] theorem State.enter_axis (s : State) (d : EngState) (c : Nat) : (s.enter d c).axis = s.axis := by
  unfold State.enter
  dsimp only
  split <;> split <;> simp
@[simp] theorem State.enter_loom (s : State) (d : EngState) (c : Nat) : (s.enter d c).loom = s.loom := by
  unfold State.enter
  dsimp only
  split <;> split <;> simp
@[simp] theorem State.enter_lanes (s : State) (d : EngState) (c : Nat) : (s.enter d c).lanes = s.lanes := by
  unfold State.enter
  dsimp only
  split <;> split <;> simp
@[simp] theorem State.enter_seg (s : State) (d : EngState) (c : Nat) : (s.enter d c).seg = s.seg := by
  unfold State.enter
  dsimp only
  split <;> split <;> simp
@[simp] theorem State.enter_beam (s : State) (d : EngState) (c : Nat) : (s.enter d c).beam = s.beam := by
  unfold State.enter
  dsimp only
  split <;> split <;> simp
@[simp] theorem State.enter_mem (s : State) (d : EngState) (c : Nat) : (s.enter d c).mem = s.mem := by
  unfold State.enter
  dsimp only
  split <;> split <;> simp
@[simp] theorem State.enter_shuttles (s : State) (d : EngState) (c : Nat) : (s.enter d c).shuttles = s.shuttles := by
  unfold State.enter
  dsimp only
  split <;> split <;> simp
@[simp] theorem State.enter_dma (s : State) (d : EngState) (c : Nat) : (s.enter d c).dma = s.dma := by
  unfold State.enter
  dsimp only
  split <;> split <;> simp
@[simp] theorem State.enter_strm (s : State) (d : EngState) (c : Nat) : (s.enter d c).strm = s.strm := by
  unfold State.enter
  dsimp only
  split <;> split <;> simp
@[simp] theorem State.enter_disp (s : State) (d : EngState) (c : Nat) : (s.enter d c).disp = s.disp := by
  unfold State.enter
  dsimp only
  split <;> split <;> simp
@[simp] theorem State.enter_pending (s : State) (d : EngState) (c : Nat) : (s.enter d c).pending = s.pending := by
  unfold State.enter
  dsimp only
  split <;> split <;> simp

end Sys2Proof.Machine
end

