-- ==== Sys2Proof/Laws/Ops.lean ====
section
/-! SUPPORT. What the named operations over registers do: each reads back what it wrote and leaves every other register,
and every other field of the same register, as it was. -/

namespace Sys2Proof.Machine

open Sys2Proof.Laws

@[simp] theorem State.reg_setReg_same (s : State) (o : Nat) (v : Word) : (s.setReg o v).reg o = v := by
  simp [State.reg, State.setReg]

theorem State.reg_setReg (s : State) (o o' : Nat) (v : Word) :
    (s.setReg o v).reg o' = if o' = o then v else s.reg o' := by
  simp [State.reg, State.setReg, sparseGet_set]

theorem State.reg_setReg_other (s : State) {o o' : Nat} (v : Word) (h : o' ≠ o) : (s.setReg o v).reg o' = s.reg o' := by
  rw [State.reg_setReg, if_neg h]

/-- Registers read through the register file alone. -/
theorem State.reg_congr {s t : State} (h : s.regs = t.regs) (o : Nat) : s.reg o = t.reg o := by
  simp only [State.reg, h]

theorem State.getF_congr {s t : State} (h : s.regs = t.regs) (f : Fld) : s.getF f = t.getF f := by
  simp only [State.getF, State.reg_congr h]

theorem State.reg_setF (s : State) (f : Fld) (n o : Nat) :
    (s.setF f n).reg o = if o = f.off then insertField (s.reg f.off) f.lo f.w n else s.reg o := by
  simp only [State.setF, State.reg_setReg]

theorem State.reg_setF_other (s : State) (f : Fld) (n : Nat) {o : Nat} (h : o ≠ f.off) : (s.setF f n).reg o = s.reg o := by
  rw [State.reg_setF, if_neg h]

/-- A field reads back what was set, reduced to its width. -/
theorem State.getF_setF_same (s : State) (f : Fld) (n : Nat) (h : f.lo + f.w ≤ 32) :
    (s.setF f n).getF f = n % 2 ^ f.w := by
  simp only [State.getF, State.reg_setF, if_pos]
  exact fieldOf_insertField_same _ _ _ _ h

/-- A field of another register, or beside the field set, stays. -/
theorem State.getF_setF_other (s : State) (f g : Fld) (n : Nat) (hf : f.lo + f.w ≤ 32)
    (h : g.off ≠ f.off ∨ g.lo + g.w ≤ f.lo ∨ f.lo + f.w ≤ g.lo) : (s.setF f n).getF g = s.getF g := by
  simp only [State.getF, State.reg_setF]
  split
  · rename_i e
    rw [e]
    rcases h with h | h
    · exact absurd e h
    · exact fieldOf_insertField_other _ _ _ _ _ _ hf h
  · rfl

theorem State.getF_setReg_other (s : State) (g : Fld) {o : Nat} (v : Word) (h : g.off ≠ o) :
    (s.setReg o v).getF g = s.getF g := by
  simp only [State.getF, State.reg_setReg_other s v h]

theorem State.bit_setBit_same (s : State) (f : Fld) (b : Bool) (h : f.lo + f.w ≤ 32) (hw : f.w = 1) :
    (s.setBit f b).bit f = b := by
  simp only [State.bit, State.setBit, State.getF_setF_same s f _ h, hw]
  cases b <;> rfl

theorem State.bit_setF_other (s : State) (f g : Fld) (n : Nat) (hf : f.lo + f.w ≤ 32)
    (h : g.off ≠ f.off ∨ g.lo + g.w ≤ f.lo ∨ f.lo + f.w ≤ g.lo) : (s.setF f n).bit g = s.bit g := by
  simp only [State.bit, State.getF_setF_other s f g n hf h]

theorem State.bit_setBit_other (s : State) (f g : Fld) (b : Bool) (hf : f.lo + f.w ≤ 32)
    (h : g.off ≠ f.off ∨ g.lo + g.w ≤ f.lo ∨ f.lo + f.w ≤ g.lo) : (s.setBit f b).bit g = s.bit g :=
  State.bit_setF_other s f g _ hf h

/-- A LO, HI pair reads back the quantity set, reduced to 64 bits. -/
theorem State.get64_set64_same (s : State) (o n : Nat) : (s.set64 o n).get64 o = n % 2 ^ 64 := by
  simp only [State.get64, State.set64, State.reg_setReg, if_pos]
  rw [if_neg (by omega)]
  simp only [BitVec.toNat_ofNat]
  omega

theorem State.reg_set64_other (s : State) (o n : Nat) {p : Nat} (h : p ≠ o) (h' : p ≠ o + 4) :
    (s.set64 o n).reg p = s.reg p := by
  simp only [State.set64, State.reg_setReg, if_neg h, if_neg h']

/-- A vector that is raised touches at most its pending bit (R324). -/
theorem State.reg_raiseVector_other (s : State) (v : Nat) {o : Nat} (h : o ≠ (F.DMA_PBA_BIT v).off) :
    (s.raiseVector v).reg o = s.reg o := by
  unfold State.raiseVector
  split
  · exact State.reg_setF_other _ _ _ h
  · rfl

/-- Counting an occurrence touches no register. -/
@[simp] theorem State.reg_countOcc (s : State) (f : Fld) (o : Nat) : (s.countOcc f).reg o = s.reg o :=
  State.reg_congr (by simp) o

/-- Hardware setting a W1C bit: the bit reads 1, its register's other bits and every other register stay, but for the
pending bits of the MSI-X vectors (R10, R421, R324). -/
theorem State.reg_hwSet (s : State) (f : Fld) (o : Nat) (h : ∀ v, o ≠ (F.DMA_PBA_BIT v).off) :
    (s.hwSet f).reg o = if o = f.off then insertField (s.reg f.off) f.lo f.w 1 else s.reg o := by
  unfold State.hwSet
  dsimp only
  split
  · rw [State.reg_raiseVector_other _ _ (h _), State.reg_setF]
    simp
  · rw [State.reg_setF]
    simp

/-- Adding to an RCL register leaves every other register (R10). -/
theorem State.reg_rclAdd_other (s : State) (n : Nat) {o p : Nat} (h : p ≠ o) : (s.rclAdd o n).reg p = s.reg p := by
  unfold State.rclAdd
  split <;> exact State.reg_setReg_other _ _ h

/-- The first addition of a clock to an RCL register adds to what it shows (R10). -/
theorem State.reg_rclAdd (s : State) (o n p : Nat) (h : s.addedNow o = none) :
    (s.rclAdd o n).reg p = if p = o then BitVec.ofNat 32 (satTo (2 ^ 32 - 1) ((s.reg o).toNat + n)) else s.reg p := by
  unfold State.rclAdd
  rw [h]
  exact State.reg_setReg s o p _

end Sys2Proof.Machine
end

