-- ==== Sys2Proof/Laws/Leaves.lean ====
section
/-! SUPPORT. The relation that a state leaves the registers of a set of offsets as an earlier state had them, and how the
shared operations keep it. -/

namespace Sys2Proof.Machine

/-- s has the registers of r at every offset of P. -/
structure Leaves (P : Nat → Prop) (r s : State) : Prop where
  reg : ∀ o, P o → s.reg o = r.reg o

variable {P : Nat → Prop} {r s : State}

theorem Leaves.refl (s : State) : Leaves P s s := ⟨fun _ _ => rfl⟩

theorem Leaves.trans {t : State} (a : Leaves P r s) (b : Leaves P s t) : Leaves P r t :=
  ⟨fun o h => (b.reg o h).trans (a.reg o h)⟩

theorem Leaves.getF (h : Leaves P r s) (f : Fld) (hf : P f.off) : s.getF f = r.getF f := by
  simp only [State.getF, h.reg _ hf]

theorem Leaves.bit (h : Leaves P r s) (f : Fld) (hf : P f.off) : s.bit f = r.bit f := by
  simp only [State.bit, h.getF f hf]

/-- An update that leaves the register file alone. -/
theorem Leaves.of_regs {t : State} (h : Leaves P r s) (e : t.regs = s.regs) : Leaves P r t :=
  ⟨fun o ho => (State.reg_congr e o).trans (h.reg o ho)⟩

theorem Leaves.setReg (h : Leaves P r s) {o : Nat} (v : Word) (ho : ¬ P o) : Leaves P r (s.setReg o v) :=
  ⟨fun p hp => (State.reg_setReg_other _ _ (by rintro rfl; exact ho hp)).trans (h.reg p hp)⟩

theorem Leaves.setF (h : Leaves P r s) {f : Fld} (n : Nat) (ho : ¬ P f.off) : Leaves P r (s.setF f n) := h.setReg _ ho

theorem Leaves.setBit (h : Leaves P r s) {f : Fld} (b : Bool) (ho : ¬ P f.off) : Leaves P r (s.setBit f b) := h.setReg _ ho

theorem Leaves.set64 (h : Leaves P r s) {o : Nat} (n : Nat) (ho : ¬ P o) (ho' : ¬ P (o + 4)) :
    Leaves P r (s.set64 o n) := (h.setReg _ ho).setReg _ ho'

theorem Leaves.rclAdd (h : Leaves P r s) {o : Nat} (n : Nat) (ho : ¬ P o) : Leaves P r (s.rclAdd o n) := by
  unfold State.rclAdd
  split <;> exact (h.setReg _ ho).of_regs rfl

theorem Leaves.setRegs (h : Leaves P r s) (l : List (Nat × Word)) (hl : ∀ p ∈ l, ¬ P p.1) : Leaves P r (s.setRegs l) := by
  unfold State.setRegs
  induction l generalizing s with
  | nil => exact h
  | cons a l ih => exact ih (h.setReg _ (hl a (by simp))) fun p hp => hl p (by simp [hp])

theorem Leaves.raiseVector (h : Leaves P r s) (v : Nat) (hv : ¬ P (F.DMA_PBA_BIT v).off) : Leaves P r (s.raiseVector v) := by
  unfold State.raiseVector
  split
  · exact h.setBit _ hv
  · exact h.of_regs rfl

/-- Hardware setting a W1C bit touches its register and the pending bits of the vectors (R10, R324, R421). -/
theorem Leaves.hwSet (h : Leaves P r s) {f : Fld} (ho : ¬ P f.off) (hv : ∀ v, ¬ P (F.DMA_PBA_BIT v).off) :
    Leaves P r (s.hwSet f) := by
  have k : Leaves P r ((s.countOcc f).setF f 1) := (h.of_regs (State.countOcc_regs s f)).setF _ ho
  unfold State.hwSet
  dsimp only
  split
  · exact k.raiseVector _ (hv _)
  · exact k

theorem Leaves.hwSet_plain (h : Leaves P r s) {f : Fld} (ho : ¬ P f.off) (hv : flagVector f.off = none) :
    Leaves P r (s.hwSet f) := by
  have k : Leaves P r ((s.countOcc f).setF f 1) := (h.of_regs (State.countOcc_regs s f)).setF _ ho
  unfold State.hwSet
  simp only [hv]
  exact k

theorem Leaves.ite {c : Prop} [Decidable c] {a b : State} (ha : Leaves P r a) (hb : Leaves P r b) :
    Leaves P r (if c then a else b) := by split <;> assumption

theorem Leaves.foldl {α : Type} {f : State → α → State} (h : Leaves P r s) (l : List α)
    (hf : ∀ t a, a ∈ l → Leaves P r t → Leaves P r (f t a)) : Leaves P r (l.foldl f s) := by
  induction l generalizing s with
  | nil => exact h
  | cons a l ih => exact ih (hf _ _ (by simp) h) fun t b hb => hf t b (by simp [hb])

end Sys2Proof.Machine
end

