-- ==== Sys2Proof/Laws/Records.lean ====
section
/-! SUPPORT. What making a black-box record can change: the box, the maintenance port's latched range, the pair's cells, and
registers of the BBX block alone (R372 to R380); and what a change of engine state can change (R31). -/

namespace Sys2Proof.Machine

variable {P : Nat → Prop} {r s : State}

theorem Leaves.ringRoom (h : Leaves P r s) (ho : ¬ P Reg.BBX_LOST_COUNT) : Leaves P r s.ringRoom := by
  unfold State.ringRoom
  exact Leaves.ite h ((h.rclAdd 1 ho).of_regs rfl)

theorem Leaves.crossCopy (h : Leaves P r s) (x : BbxRecord) : Leaves P r (s.crossCopy x) := by
  unfold State.crossCopy
  exact Leaves.ite (h.of_regs rfl) h

theorem Leaves.breakSnap (h : Leaves P r s) (ho : ∀ o, P o → o / 0x10000 ≠ 0x17) : Leaves P r s.breakSnap := by
  have n : ∀ o, o / 0x10000 = 0x17 → ¬ P o := fun o e p => ho o p e
  unfold State.breakSnap
  exact Leaves.of_regs ((Leaves.ite (h.setBit _ (n _ rfl)) h).hwSet_plain (n _ rfl) rfl) rfl

/-- A record leaves every register outside the BBX block. -/
theorem Leaves.pushRecord (h : Leaves P r s) (x : BbxRecord) (ho : ∀ o, P o → o / 0x10000 ≠ 0x17) :
    Leaves P r (s.pushRecord x) := by
  have n : ∀ o, o / 0x10000 = 0x17 → ¬ P o := fun o e p => ho o p e
  have k : ∀ u : State, Leaves P r u → ∀ b m, Leaves P r ({ u.set64 Reg.BBX_NEXT_LO m with bbx := b } : State) :=
    fun u hu b m => (hu.set64 m (n _ rfl) (n _ rfl)).of_regs rfl
  have m : ∀ (c : Bool) (x : BbxRecord), Leaves P r (if c = true then s.ringRoom.crossCopy x else s) :=
    fun c x => Leaves.ite ((h.ringRoom (n _ rfl)).crossCopy x) h
  unfold State.pushRecord
  split
  · refine Leaves.of_regs h ?_
    unfold State.crossCopy
    split <;> rfl
  · exact k _ (m _ _) _ _

theorem Leaves.makeRecord (h : Leaves P r s) (a c : Nat) (p : List Byte) (ho : ∀ o, P o → o / 0x10000 ≠ 0x17) :
    Leaves P r (s.makeRecord a c p) := h.pushRecord _ ho

theorem Leaves.entryRecord (h : Leaves P r s) (ho : ∀ o, P o → o / 0x10000 ≠ 0x17) : Leaves P r s.entryRecord :=
  h.makeRecord _ _ _ ho

/-- The engine state is read from DEV.STATE alone. -/
theorem State.cur_congr {s t : State} (h : s.reg 8 = t.reg 8) : s.cur = t.cur := by
  simp only [State.cur, State.getF]
  rw [show F.DEV_STATE_CUR.off = 8 from rfl, h]

/-- After a transition the engine is in its destination, for its cause (R31). -/
theorem State.cur_enter (s : State) (d : EngState) (c : Nat) :
    (s.enter d c).cur = d ∧ (s.enter d c).getF F.DEV_STATE_ENTRY_CAUSE = c % 2 ^ F.DEV_STATE_ENTRY_CAUSE.w := by
  have k : ∀ u : State, ((u.setF F.DEV_STATE_ENTRY_CAUSE c).setF F.DEV_STATE_CUR d.code).cur = d ∧
      ((u.setF F.DEV_STATE_ENTRY_CAUSE c).setF F.DEV_STATE_CUR d.code).getF F.DEV_STATE_ENTRY_CAUSE =
        c % 2 ^ F.DEV_STATE_ENTRY_CAUSE.w := by
    intro u
    refine ⟨?_, ?_⟩
    · simp only [State.cur]
      rw [State.getF_setF_same _ _ _ (by decide)]
      cases d <;> rfl
    · rw [State.getF_setF_other _ _ _ _ (by decide) (by decide), State.getF_setF_same _ _ _ (by decide)]
  have w : ∀ (u : State) (x : TimeSt) (b : Bool),
      let v : State := { (u.setF F.DEV_STATE_ENTRY_CAUSE c).setF F.DEV_STATE_CUR d.code with time := x }
      (if b = true then v else v.setReg Reg.TEST_SAFE_CODE 0).cur = d ∧
        (if b = true then v else v.setReg Reg.TEST_SAFE_CODE 0).getF F.DEV_STATE_ENTRY_CAUSE =
          c % 2 ^ F.DEV_STATE_ENTRY_CAUSE.w := by
    intro u x b
    have e : ∀ z : State, z.reg 8 = ((u.setF F.DEV_STATE_ENTRY_CAUSE c).setF F.DEV_STATE_CUR d.code).reg 8 →
        z.cur = d ∧ z.getF F.DEV_STATE_ENTRY_CAUSE = c % 2 ^ F.DEV_STATE_ENTRY_CAUSE.w := by
      intro z hz
      refine ⟨(State.cur_congr hz).trans (k u).1, Eq.trans ?_ (k u).2⟩
      simp only [State.getF]
      rw [show F.DEV_STATE_ENTRY_CAUSE.off = 8 from rfl, hz]
    cases b
    · exact e _ (State.reg_setReg_other _ _ (by decide))
    · exact e _ rfl
  exact w _ _ _

end Sys2Proof.Machine
end

