-- ==== Sys2Proof/Laws/DevState.lean ====
section
/-! SUPPORT. The operations that leave DEV.STATE alone: after an entry to a state, its consequences leave the engine in it. -/

set_option linter.all false

namespace Sys2Proof.Machine

/-- The offset of DEV.STATE. -/
def DevState (o : Nat) : Prop := o = 8

theorem devState_ne {o : Nat} (h : o ≠ 8) : ¬ DevState o := h

theorem devState_pba (v : Nat) : ¬ DevState (F.DMA_PBA_BIT v).off := by
  show ¬ (0x129000 + 4 * (v / 32) = 8)
  omega

theorem devState_bbx : ∀ o, DevState o → o / 0x10000 ≠ 0x17 := by
  rintro _ rfl
  decide

theorem devState_list {l : List (Nat × Word)} (h : ∀ p ∈ l, p.1 ≠ 8) : ∀ p ∈ l, ¬ DevState p.1 := h

theorem leaves_mk {P : Nat → Prop} {r s : State} (h : Leaves P r s) {regs held latched occ time out board draft bbx i2c pair conv cal clk trig
    axis loom lanes seg beam mem shuttles dma strm disp pending} (e : regs = s.regs) :
    Leaves P r (State.mk regs held latched occ time out board draft bbx i2c pair conv cal clk trig axis loom lanes seg beam mem
    shuttles dma strm disp pending) := h.of_regs e

theorem leaves_ite2 {P : Nat → Prop} {r : State} {α : Type} {c : Prop} [Decidable c] {a b : α × State}
    (ha : Leaves P r a.2) (hb : Leaves P r b.2) : Leaves P r (if c then a else b).2 := by split <;> assumption

theorem State.nextFree_devState {r s : State} (h : Leaves DevState r s) :
    Leaves DevState r (State.nextFree s) := by
  unfold State.nextFree
  repeat' first
    | with_reducible assumption
    | exact devState_ne (by simp only [bitFld]; decide)
    | exact devState_bbx
    | exact devState_pba _
    | exact devState_ne (by decide)
    | exact devState_ne (by simp only []; omega)
    | exact devState_ne (by split <;> decide)
    | exact devState_list (by decide)
    | (refine devState_list ?_; simp; done)
    | (refine devState_list ?_; simp []; done)
    | (refine devState_list ?_; simp []; intros; omega)
    | intro _
    | with_reducible apply Leaves.pushRecord
    | with_reducible apply Leaves.makeRecord
    | with_reducible apply Leaves.entryRecord
    | with_reducible apply Leaves.hwSet
    | with_reducible apply Leaves.setF
    | with_reducible apply Leaves.setBit
    | with_reducible apply Leaves.set64
    | with_reducible apply Leaves.setReg
    | with_reducible apply Leaves.rclAdd
    | with_reducible apply Leaves.setRegs
    | with_reducible apply Leaves.ite
    | with_reducible apply Leaves.foldl
    | (fail_if_no_progress with_reducible refine leaves_mk ?_ rfl)
    | dsimp only
    | (split <;> (try (rename_i heq; obtain rfl := snd_eq heq)))

theorem State.emitCell_devState {r s : State} (h : Leaves DevState r s) (cseq : Nat) (c : Cell) :
    Leaves DevState r (State.emitCell s cseq c) := by
  unfold State.emitCell
  repeat' first
    | with_reducible assumption
    | exact devState_ne (by simp only [bitFld]; decide)
    | exact devState_bbx
    | exact devState_pba _
    | exact devState_ne (by decide)
    | exact devState_ne (by simp only []; omega)
    | exact devState_ne (by split <;> decide)
    | exact devState_list (by decide)
    | (refine devState_list ?_; simp; done)
    | (refine devState_list ?_; simp []; done)
    | (refine devState_list ?_; simp []; intros; omega)
    | intro _
    | with_reducible apply Leaves.pushRecord
    | with_reducible apply Leaves.makeRecord
    | with_reducible apply Leaves.entryRecord
    | with_reducible apply Leaves.hwSet
    | with_reducible apply Leaves.setF
    | with_reducible apply Leaves.setBit
    | with_reducible apply Leaves.set64
    | with_reducible apply Leaves.setReg
    | with_reducible apply Leaves.rclAdd
    | with_reducible apply Leaves.setRegs
    | with_reducible apply Leaves.ite
    | with_reducible apply Leaves.foldl
    | (fail_if_no_progress with_reducible refine leaves_mk ?_ rfl)
    | dsimp only
    | (split <;> (try (rename_i heq; obtain rfl := snd_eq heq)))

theorem State.sendCell_devState {r s : State} (h : Leaves DevState r s) (c : Cell) :
    Leaves DevState r (State.sendCell s c) := by
  unfold State.sendCell
  repeat' first
    | with_reducible assumption
    | exact devState_ne (by simp only [bitFld]; decide)
    | exact devState_bbx
    | exact devState_pba _
    | exact devState_ne (by decide)
    | exact devState_ne (by simp only [F.PAIR_STATUS_LINK_UP, Reg.PAIR_STATUS]; omega)
    | exact devState_ne (by split <;> decide)
    | exact devState_list (by decide)
    | (refine devState_list ?_; simp; done)
    | (refine devState_list ?_; simp [F.PAIR_STATUS_LINK_UP, Reg.PAIR_STATUS]; done)
    | (refine devState_list ?_; simp [F.PAIR_STATUS_LINK_UP, Reg.PAIR_STATUS]; intros; omega)
    | intro _
    | with_reducible apply State.emitCell_devState
    | with_reducible apply Leaves.pushRecord
    | with_reducible apply Leaves.makeRecord
    | with_reducible apply Leaves.entryRecord
    | with_reducible apply Leaves.hwSet
    | with_reducible apply Leaves.setF
    | with_reducible apply Leaves.setBit
    | with_reducible apply Leaves.set64
    | with_reducible apply Leaves.setReg
    | with_reducible apply Leaves.rclAdd
    | with_reducible apply Leaves.setRegs
    | with_reducible apply Leaves.ite
    | with_reducible apply Leaves.foldl
    | (fail_if_no_progress with_reducible refine leaves_mk ?_ rfl)
    | dsimp only
    | (split <;> (try (rename_i heq; obtain rfl := snd_eq heq)))

theorem State.crossCopy_devState {r₀ s : State} (h : Leaves DevState r₀ s) (r : BbxRecord) :
    Leaves DevState r₀ (State.crossCopy s r) := by
  unfold State.crossCopy
  repeat' first
    | with_reducible assumption
    | exact devState_ne (by simp only [bitFld]; decide)
    | exact devState_bbx
    | exact devState_pba _
    | exact devState_ne (by decide)
    | exact devState_ne (by simp only [F.DEV_CAPS_PAIRED, F.PAIR_STATUS_LINK_UP, Reg.DEV_CAPS, Reg.PAIR_STATUS]; omega)
    | exact devState_ne (by split <;> decide)
    | exact devState_list (by decide)
    | (refine devState_list ?_; simp; done)
    | (refine devState_list ?_; simp [F.DEV_CAPS_PAIRED, F.PAIR_STATUS_LINK_UP, Reg.DEV_CAPS, Reg.PAIR_STATUS]; done)
    | (refine devState_list ?_; simp [F.DEV_CAPS_PAIRED, F.PAIR_STATUS_LINK_UP, Reg.DEV_CAPS, Reg.PAIR_STATUS]; intros; omega)
    | intro _
    | with_reducible apply State.sendCell_devState
    | with_reducible apply Leaves.pushRecord
    | with_reducible apply Leaves.makeRecord
    | with_reducible apply Leaves.entryRecord
    | with_reducible apply Leaves.hwSet
    | with_reducible apply Leaves.setF
    | with_reducible apply Leaves.setBit
    | with_reducible apply Leaves.set64
    | with_reducible apply Leaves.setReg
    | with_reducible apply Leaves.rclAdd
    | with_reducible apply Leaves.setRegs
    | with_reducible apply Leaves.ite
    | with_reducible apply Leaves.foldl
    | (fail_if_no_progress with_reducible refine leaves_mk ?_ rfl)
    | dsimp only
    | (split <;> (try (rename_i heq; obtain rfl := snd_eq heq)))

theorem State.setCalBank_devState {r s : State} (h : Leaves DevState r s) (b : Nat) (x : CalBank) :
    Leaves DevState r (State.setCalBank s b x) := by
  unfold State.setCalBank
  repeat' first
    | with_reducible assumption
    | exact devState_ne (by simp only [bitFld]; decide)
    | exact devState_bbx
    | exact devState_pba _
    | exact devState_ne (by decide)
    | exact devState_ne (by simp only [F.CAL_PHASE, Reg.CAL_INJ_STATUS, Reg.CAL_STATUS, bitFld]; omega)
    | exact devState_ne (by split <;> decide)
    | exact devState_list (by decide)
    | (refine devState_list ?_; simp; done)
    | (refine devState_list ?_; simp [F.CAL_PHASE, Reg.CAL_INJ_STATUS, Reg.CAL_STATUS, bitFld]; done)
    | (refine devState_list ?_; simp [F.CAL_PHASE, Reg.CAL_INJ_STATUS, Reg.CAL_STATUS, bitFld]; intros; omega)
    | intro _
    | with_reducible apply Leaves.pushRecord
    | with_reducible apply Leaves.makeRecord
    | with_reducible apply Leaves.entryRecord
    | with_reducible apply Leaves.hwSet
    | with_reducible apply Leaves.setF
    | with_reducible apply Leaves.setBit
    | with_reducible apply Leaves.set64
    | with_reducible apply Leaves.setReg
    | with_reducible apply Leaves.rclAdd
    | with_reducible apply Leaves.setRegs
    | with_reducible apply Leaves.ite
    | with_reducible apply Leaves.foldl
    | (fail_if_no_progress with_reducible refine leaves_mk ?_ rfl)
    | dsimp only
    | (split <;> (try (rename_i heq; obtain rfl := snd_eq heq)))

theorem State.loadCoefShadow_devState {r s : State} (h : Leaves DevState r s) :
    Leaves DevState r (State.loadCoefShadow s) := by
  unfold State.loadCoefShadow
  repeat' first
    | with_reducible assumption
    | exact devState_ne (by simp only [bitFld]; decide)
    | exact devState_bbx
    | exact devState_pba _
    | exact devState_ne (by decide)
    | exact devState_ne (by simp only [F.CAL_SEL_BANK, F.CAL_SEL_SLICE, Reg.CAL_COEF_DELAY, Reg.CAL_COEF_GAIN, Reg.CAL_COEF_H, Reg.CAL_COEF_OFFSET, Reg.CAL_COEF_TRIM, Reg.CAL_SEL]; omega)
    | exact devState_ne (by split <;> decide)
    | exact devState_list (by decide)
    | (refine devState_list ?_; simp; done)
    | (refine devState_list ?_; simp [F.CAL_SEL_BANK, F.CAL_SEL_SLICE, Reg.CAL_COEF_DELAY, Reg.CAL_COEF_GAIN, Reg.CAL_COEF_H, Reg.CAL_COEF_OFFSET, Reg.CAL_COEF_TRIM, Reg.CAL_SEL]; done)
    | (refine devState_list ?_; simp [F.CAL_SEL_BANK, F.CAL_SEL_SLICE, Reg.CAL_COEF_DELAY, Reg.CAL_COEF_GAIN, Reg.CAL_COEF_H, Reg.CAL_COEF_OFFSET, Reg.CAL_COEF_TRIM, Reg.CAL_SEL]; intros; omega)
    | intro _
    | with_reducible apply Leaves.pushRecord
    | with_reducible apply Leaves.makeRecord
    | with_reducible apply Leaves.entryRecord
    | with_reducible apply Leaves.hwSet
    | with_reducible apply Leaves.setF
    | with_reducible apply Leaves.setBit
    | with_reducible apply Leaves.set64
    | with_reducible apply Leaves.setReg
    | with_reducible apply Leaves.rclAdd
    | with_reducible apply Leaves.setRegs
    | with_reducible apply Leaves.ite
    | with_reducible apply Leaves.foldl
    | (fail_if_no_progress with_reducible refine leaves_mk ?_ rfl)
    | dsimp only
    | (split <;> (try (rename_i heq; obtain rfl := snd_eq heq)))

theorem State.calHalt_devState {r s : State} (h : Leaves DevState r s) :
    Leaves DevState r (State.calHalt s) := by
  unfold State.calHalt
  repeat' first
    | with_reducible assumption
    | exact devState_ne (by simp only [bitFld]; decide)
    | exact devState_bbx
    | exact devState_pba _
    | exact devState_ne (by decide)
    | exact devState_ne (by simp only [Reg.CAL_STATUS, bitFld]; omega)
    | exact devState_ne (by split <;> decide)
    | exact devState_list (by decide)
    | (refine devState_list ?_; simp; done)
    | (refine devState_list ?_; simp [Reg.CAL_STATUS, bitFld]; done)
    | (refine devState_list ?_; simp [Reg.CAL_STATUS, bitFld]; intros; omega)
    | intro _
    | with_reducible apply State.setCalBank_devState
    | with_reducible apply Leaves.pushRecord
    | with_reducible apply Leaves.makeRecord
    | with_reducible apply Leaves.entryRecord
    | with_reducible apply Leaves.hwSet
    | with_reducible apply Leaves.setF
    | with_reducible apply Leaves.setBit
    | with_reducible apply Leaves.set64
    | with_reducible apply Leaves.setReg
    | with_reducible apply Leaves.rclAdd
    | with_reducible apply Leaves.setRegs
    | with_reducible apply Leaves.ite
    | with_reducible apply Leaves.foldl
    | (fail_if_no_progress with_reducible refine leaves_mk ?_ rfl)
    | dsimp only
    | (split <;> (try (rename_i heq; obtain rfl := snd_eq heq)))

theorem State.setPool_devState {r s : State} (h : Leaves DevState r s) (p : Nat) (l : List PoolEntry) :
    Leaves DevState r (State.setPool s p l) := by
  unfold State.setPool
  repeat' first
    | with_reducible assumption
    | exact devState_ne (by simp only [bitFld]; decide)
    | exact devState_bbx
    | exact devState_pba _
    | exact devState_ne (by decide)
    | exact devState_ne (by simp only []; omega)
    | exact devState_ne (by split <;> decide)
    | exact devState_list (by decide)
    | (refine devState_list ?_; simp; done)
    | (refine devState_list ?_; simp []; done)
    | (refine devState_list ?_; simp []; intros; omega)
    | intro _
    | with_reducible apply Leaves.pushRecord
    | with_reducible apply Leaves.makeRecord
    | with_reducible apply Leaves.entryRecord
    | with_reducible apply Leaves.hwSet
    | with_reducible apply Leaves.setF
    | with_reducible apply Leaves.setBit
    | with_reducible apply Leaves.set64
    | with_reducible apply Leaves.setReg
    | with_reducible apply Leaves.rclAdd
    | with_reducible apply Leaves.setRegs
    | with_reducible apply Leaves.ite
    | with_reducible apply Leaves.foldl
    | (fail_if_no_progress with_reducible refine leaves_mk ?_ rfl)
    | dsimp only
    | (split <;> (try (rename_i heq; obtain rfl := snd_eq heq)))

theorem State.setGate_devState {r s : State} (h : Leaves DevState r s) (p : Pll) (gated : Bool) :
    Leaves DevState r (State.setGate s p gated) := by
  unfold State.setGate
  repeat' first
    | with_reducible assumption
    | exact devState_ne (by simp only [bitFld]; decide)
    | exact devState_bbx
    | exact devState_pba _
    | exact devState_ne (by decide)
    | exact devState_ne (by simp only [F.CLK_OUT_EN_EFFECT, F.CLK_PLL_STATUS_GATED, Reg.CLK_OUT, Reg.CLK_PLL_STATUS]; omega)
    | exact devState_ne (by split <;> decide)
    | exact devState_list (by decide)
    | (refine devState_list ?_; simp; done)
    | (refine devState_list ?_; simp [F.CLK_OUT_EN_EFFECT, F.CLK_PLL_STATUS_GATED, Reg.CLK_OUT, Reg.CLK_PLL_STATUS]; done)
    | (refine devState_list ?_; simp [F.CLK_OUT_EN_EFFECT, F.CLK_PLL_STATUS_GATED, Reg.CLK_OUT, Reg.CLK_PLL_STATUS]; intros; omega)
    | intro _
    | with_reducible apply Leaves.pushRecord
    | with_reducible apply Leaves.makeRecord
    | with_reducible apply Leaves.entryRecord
    | with_reducible apply Leaves.hwSet
    | with_reducible apply Leaves.setF
    | with_reducible apply Leaves.setBit
    | with_reducible apply Leaves.set64
    | with_reducible apply Leaves.setReg
    | with_reducible apply Leaves.rclAdd
    | with_reducible apply Leaves.setRegs
    | with_reducible apply Leaves.ite
    | with_reducible apply Leaves.foldl
    | (fail_if_no_progress with_reducible refine leaves_mk ?_ rfl)
    | dsimp only
    | (split <;> (try (rename_i heq; obtain rfl := snd_eq heq)))

theorem State.takeEn_devState {r s : State} (h : Leaves DevState r s) (p : Pll) :
    Leaves DevState r (State.takeEn s p) := by
  unfold State.takeEn
  repeat' first
    | with_reducible assumption
    | exact devState_ne (by simp only [bitFld]; decide)
    | exact devState_bbx
    | exact devState_pba _
    | exact devState_ne (by decide)
    | exact devState_ne (by simp only [F.CLK_OUT_EN, Reg.CLK_OUT]; omega)
    | exact devState_ne (by split <;> decide)
    | exact devState_list (by decide)
    | (refine devState_list ?_; simp; done)
    | (refine devState_list ?_; simp [F.CLK_OUT_EN, Reg.CLK_OUT]; done)
    | (refine devState_list ?_; simp [F.CLK_OUT_EN, Reg.CLK_OUT]; intros; omega)
    | intro _
    | with_reducible apply Leaves.pushRecord
    | with_reducible apply Leaves.makeRecord
    | with_reducible apply Leaves.entryRecord
    | with_reducible apply Leaves.hwSet
    | with_reducible apply Leaves.setF
    | with_reducible apply Leaves.setBit
    | with_reducible apply Leaves.set64
    | with_reducible apply Leaves.setReg
    | with_reducible apply Leaves.rclAdd
    | with_reducible apply Leaves.setRegs
    | with_reducible apply Leaves.ite
    | with_reducible apply Leaves.foldl
    | (fail_if_no_progress with_reducible refine leaves_mk ?_ rfl)
    | dsimp only
    | (split <;> (try (rename_i heq; obtain rfl := snd_eq heq)))

theorem State.setPll_devState {r s : State} (h : Leaves DevState r s) (p : Pll) (st : Nat) :
    Leaves DevState r (State.setPll s p st) := by
  unfold State.setPll
  repeat' first
    | with_reducible assumption
    | exact devState_ne (by simp only [bitFld]; decide)
    | exact devState_bbx
    | exact devState_pba _
    | exact devState_ne (by decide)
    | exact devState_ne (by simp only [F.CLK_PLL_STATUS_STATE, Reg.CLK_PLL_STATUS]; omega)
    | exact devState_ne (by split <;> decide)
    | exact devState_list (by decide)
    | (refine devState_list ?_; simp; done)
    | (refine devState_list ?_; simp [F.CLK_PLL_STATUS_STATE, Reg.CLK_PLL_STATUS]; done)
    | (refine devState_list ?_; simp [F.CLK_PLL_STATUS_STATE, Reg.CLK_PLL_STATUS]; intros; omega)
    | intro _
    | with_reducible apply State.setGate_devState
    | with_reducible apply State.takeEn_devState
    | with_reducible apply Leaves.pushRecord
    | with_reducible apply Leaves.makeRecord
    | with_reducible apply Leaves.entryRecord
    | with_reducible apply Leaves.hwSet
    | with_reducible apply Leaves.setF
    | with_reducible apply Leaves.setBit
    | with_reducible apply Leaves.set64
    | with_reducible apply Leaves.setReg
    | with_reducible apply Leaves.rclAdd
    | with_reducible apply Leaves.setRegs
    | with_reducible apply Leaves.ite
    | with_reducible apply Leaves.foldl
    | (fail_if_no_progress with_reducible refine leaves_mk ?_ rfl)
    | dsimp only
    | (split <;> (try (rename_i heq; obtain rfl := snd_eq heq)))

theorem State.startPlls_devState {r s : State} (h : Leaves DevState r s) :
    Leaves DevState r (State.startPlls s) := by
  unfold State.startPlls
  repeat' first
    | with_reducible assumption
    | exact devState_ne (by simp only [bitFld]; decide)
    | exact devState_bbx
    | exact devState_pba _
    | exact devState_ne (by decide)
    | exact devState_ne (by simp only [F.CLK_STATUS_BYP_CLK_PRESENT, F.CLK_STATUS_REF_FREQ, F.CLK_STATUS_REF_PRESENT, F.CONV_REF_STATUS_EXT_IN_RANGE, Reg.CLK_STATUS, Reg.CONV_REF_STATUS]; omega)
    | exact devState_ne (by split <;> decide)
    | exact devState_list (by decide)
    | (refine devState_list ?_; simp; done)
    | (refine devState_list ?_; simp [F.CLK_STATUS_BYP_CLK_PRESENT, F.CLK_STATUS_REF_FREQ, F.CLK_STATUS_REF_PRESENT, F.CONV_REF_STATUS_EXT_IN_RANGE, Reg.CLK_STATUS, Reg.CONV_REF_STATUS]; done)
    | (refine devState_list ?_; simp [F.CLK_STATUS_BYP_CLK_PRESENT, F.CLK_STATUS_REF_FREQ, F.CLK_STATUS_REF_PRESENT, F.CONV_REF_STATUS_EXT_IN_RANGE, Reg.CLK_STATUS, Reg.CONV_REF_STATUS]; intros; omega)
    | intro _
    | with_reducible apply State.setPll_devState
    | with_reducible apply Leaves.pushRecord
    | with_reducible apply Leaves.makeRecord
    | with_reducible apply Leaves.entryRecord
    | with_reducible apply Leaves.hwSet
    | with_reducible apply Leaves.setF
    | with_reducible apply Leaves.setBit
    | with_reducible apply Leaves.set64
    | with_reducible apply Leaves.setReg
    | with_reducible apply Leaves.rclAdd
    | with_reducible apply Leaves.setRegs
    | with_reducible apply Leaves.ite
    | with_reducible apply Leaves.foldl
    | (fail_if_no_progress with_reducible refine leaves_mk ?_ rfl)
    | dsimp only
    | (split <;> (try (rename_i heq; obtain rfl := snd_eq heq)))

theorem State.judgeLost_devState {r s : State} (h : Leaves DevState r s) :
    Leaves DevState r (State.judgeLost s) := by
  unfold State.judgeLost
  repeat' first
    | with_reducible assumption
    | exact devState_ne (by simp only [bitFld]; decide)
    | exact devState_bbx
    | exact devState_pba _
    | exact devState_ne (by decide)
    | exact devState_ne (by simp only [F.BBX_EVENTS_LOST, F.BBX_STATUS_LOST, F.FLT_BBX_LOST, Reg.BBX_EVENTS, Reg.BBX_STATUS, Reg.FLT_BBX]; omega)
    | exact devState_ne (by split <;> decide)
    | exact devState_list (by decide)
    | (refine devState_list ?_; simp; done)
    | (refine devState_list ?_; simp [F.BBX_EVENTS_LOST, F.BBX_STATUS_LOST, F.FLT_BBX_LOST, Reg.BBX_EVENTS, Reg.BBX_STATUS, Reg.FLT_BBX]; done)
    | (refine devState_list ?_; simp [F.BBX_EVENTS_LOST, F.BBX_STATUS_LOST, F.FLT_BBX_LOST, Reg.BBX_EVENTS, Reg.BBX_STATUS, Reg.FLT_BBX]; intros; omega)
    | intro _
    | with_reducible apply Leaves.pushRecord
    | with_reducible apply Leaves.makeRecord
    | with_reducible apply Leaves.entryRecord
    | with_reducible apply Leaves.hwSet
    | with_reducible apply Leaves.setF
    | with_reducible apply Leaves.setBit
    | with_reducible apply Leaves.set64
    | with_reducible apply Leaves.setReg
    | with_reducible apply Leaves.rclAdd
    | with_reducible apply Leaves.setRegs
    | with_reducible apply Leaves.ite
    | with_reducible apply Leaves.foldl
    | (fail_if_no_progress with_reducible refine leaves_mk ?_ rfl)
    | dsimp only
    | (split <;> (try (rename_i heq; obtain rfl := snd_eq heq)))

theorem State.setCopyState_devState {r s : State} (h : Leaves DevState r s) (b : Bool) (n : Nat) :
    Leaves DevState r (State.setCopyState s b n) := by
  unfold State.setCopyState
  repeat' first
    | with_reducible assumption
    | exact devState_ne (by simp only [bitFld]; decide)
    | exact devState_bbx
    | exact devState_pba _
    | exact devState_ne (by decide)
    | exact devState_ne (by simp only [F.BBX_STATUS_COPY_A, F.BBX_STATUS_COPY_B, Reg.BBX_STATUS]; omega)
    | exact devState_ne (by split <;> decide)
    | exact devState_list (by decide)
    | (refine devState_list ?_; simp; done)
    | (refine devState_list ?_; simp [F.BBX_STATUS_COPY_A, F.BBX_STATUS_COPY_B, Reg.BBX_STATUS]; done)
    | (refine devState_list ?_; simp [F.BBX_STATUS_COPY_A, F.BBX_STATUS_COPY_B, Reg.BBX_STATUS]; intros; omega)
    | intro _
    | with_reducible apply State.judgeLost_devState
    | with_reducible apply Leaves.pushRecord
    | with_reducible apply Leaves.makeRecord
    | with_reducible apply Leaves.entryRecord
    | with_reducible apply Leaves.hwSet
    | with_reducible apply Leaves.setF
    | with_reducible apply Leaves.setBit
    | with_reducible apply Leaves.set64
    | with_reducible apply Leaves.setReg
    | with_reducible apply Leaves.rclAdd
    | with_reducible apply Leaves.setRegs
    | with_reducible apply Leaves.ite
    | with_reducible apply Leaves.foldl
    | (fail_if_no_progress with_reducible refine leaves_mk ?_ rfl)
    | dsimp only
    | (split <;> (try (rename_i heq; obtain rfl := snd_eq heq)))

theorem State.failCopy_devState {r₀ s : State} (h : Leaves DevState r₀ s) (b : Bool) (r : BbxRecord) :
    Leaves DevState r₀ (State.failCopy s b r) := by
  unfold State.failCopy
  repeat' first
    | with_reducible assumption
    | exact devState_ne (by simp only [bitFld]; decide)
    | exact devState_bbx
    | exact devState_pba _
    | exact devState_ne (by decide)
    | exact devState_ne (by simp only [F.BBX_EVENTS_COMMIT_FAIL, F.FLT_BBX_COPY_FAIL, Reg.BBX_EVENTS, Reg.FLT_BBX]; omega)
    | exact devState_ne (by split <;> decide)
    | exact devState_list (by decide)
    | (refine devState_list ?_; simp; done)
    | (refine devState_list ?_; simp [F.BBX_EVENTS_COMMIT_FAIL, F.FLT_BBX_COPY_FAIL, Reg.BBX_EVENTS, Reg.FLT_BBX]; done)
    | (refine devState_list ?_; simp [F.BBX_EVENTS_COMMIT_FAIL, F.FLT_BBX_COPY_FAIL, Reg.BBX_EVENTS, Reg.FLT_BBX]; intros; omega)
    | intro _
    | with_reducible apply State.setCopyState_devState
    | with_reducible apply Leaves.pushRecord
    | with_reducible apply Leaves.makeRecord
    | with_reducible apply Leaves.entryRecord
    | with_reducible apply Leaves.hwSet
    | with_reducible apply Leaves.setF
    | with_reducible apply Leaves.setBit
    | with_reducible apply Leaves.set64
    | with_reducible apply Leaves.setReg
    | with_reducible apply Leaves.rclAdd
    | with_reducible apply Leaves.setRegs
    | with_reducible apply Leaves.ite
    | with_reducible apply Leaves.foldl
    | (fail_if_no_progress with_reducible refine leaves_mk ?_ rfl)
    | dsimp only
    | (split <;> (try (rename_i heq; obtain rfl := snd_eq heq)))

theorem State.commitTo_devState {r₀ s : State} (h : Leaves DevState r₀ s) (b : Bool) (ok : Bool) (r : BbxRecord) :
    Leaves DevState r₀ (State.commitTo s b ok r) := by
  unfold State.commitTo
  repeat' first
    | with_reducible assumption
    | exact devState_ne (by simp only [bitFld]; decide)
    | exact devState_bbx
    | exact devState_pba _
    | exact devState_ne (by decide)
    | exact devState_ne (by simp only []; omega)
    | exact devState_ne (by split <;> decide)
    | exact devState_list (by decide)
    | (refine devState_list ?_; simp; done)
    | (refine devState_list ?_; simp []; done)
    | (refine devState_list ?_; simp []; intros; omega)
    | intro _
    | with_reducible apply State.failCopy_devState
    | with_reducible apply Leaves.pushRecord
    | with_reducible apply Leaves.makeRecord
    | with_reducible apply Leaves.entryRecord
    | with_reducible apply Leaves.hwSet
    | with_reducible apply Leaves.setF
    | with_reducible apply Leaves.setBit
    | with_reducible apply Leaves.set64
    | with_reducible apply Leaves.setReg
    | with_reducible apply Leaves.rclAdd
    | with_reducible apply Leaves.setRegs
    | with_reducible apply Leaves.ite
    | with_reducible apply Leaves.foldl
    | (fail_if_no_progress with_reducible refine leaves_mk ?_ rfl)
    | dsimp only
    | (split <;> (try (rename_i heq; obtain rfl := snd_eq heq)))

theorem State.afterCommit_devState {r₀ s : State} (h : Leaves DevState r₀ s) (r : BbxRecord) :
    Leaves DevState r₀ (State.afterCommit s r) := by
  unfold State.afterCommit
  repeat' first
    | with_reducible assumption
    | exact devState_ne (by simp only [bitFld]; decide)
    | exact devState_bbx
    | exact devState_pba _
    | exact devState_ne (by decide)
    | exact devState_ne (by simp only [Reg.BBX_OLDEST_LO]; omega)
    | exact devState_ne (by split <;> decide)
    | exact devState_list (by decide)
    | (refine devState_list ?_; simp; done)
    | (refine devState_list ?_; simp [Reg.BBX_OLDEST_LO]; done)
    | (refine devState_list ?_; simp [Reg.BBX_OLDEST_LO]; intros; omega)
    | intro _
    | with_reducible apply State.crossCopy_devState
    | with_reducible apply Leaves.pushRecord
    | with_reducible apply Leaves.makeRecord
    | with_reducible apply Leaves.entryRecord
    | with_reducible apply Leaves.hwSet
    | with_reducible apply Leaves.setF
    | with_reducible apply Leaves.setBit
    | with_reducible apply Leaves.set64
    | with_reducible apply Leaves.setReg
    | with_reducible apply Leaves.rclAdd
    | with_reducible apply Leaves.setRegs
    | with_reducible apply Leaves.ite
    | with_reducible apply Leaves.foldl
    | (fail_if_no_progress with_reducible refine leaves_mk ?_ rfl)
    | dsimp only
    | (split <;> (try (rename_i heq; obtain rfl := snd_eq heq)))

theorem State.commitHead_devState {r s : State} (h : Leaves DevState r s) (okA : Bool) (okB : Bool) :
    Leaves DevState r (State.commitHead s okA okB) := by
  unfold State.commitHead
  repeat' first
    | with_reducible assumption
    | exact devState_ne (by simp only [bitFld]; decide)
    | exact devState_bbx
    | exact devState_pba _
    | exact devState_ne (by decide)
    | exact devState_ne (by simp only []; omega)
    | exact devState_ne (by split <;> decide)
    | exact devState_list (by decide)
    | (refine devState_list ?_; simp; done)
    | (refine devState_list ?_; simp []; done)
    | (refine devState_list ?_; simp []; intros; omega)
    | intro _
    | with_reducible apply State.commitTo_devState
    | with_reducible apply State.afterCommit_devState
    | with_reducible apply State.ring_devState
    | with_reducible apply Leaves.pushRecord
    | with_reducible apply Leaves.makeRecord
    | with_reducible apply Leaves.entryRecord
    | with_reducible apply Leaves.hwSet
    | with_reducible apply Leaves.setF
    | with_reducible apply Leaves.setBit
    | with_reducible apply Leaves.set64
    | with_reducible apply Leaves.setReg
    | with_reducible apply Leaves.rclAdd
    | with_reducible apply Leaves.setRegs
    | with_reducible apply Leaves.ite
    | with_reducible apply Leaves.foldl
    | (fail_if_no_progress with_reducible refine leaves_mk ?_ rfl)
    | dsimp only
    | (split <;> (try (rename_i heq; obtain rfl := snd_eq heq)))

theorem commitAll_devState {r s : State} (h : Leaves DevState r s) (n : Nat) : Leaves DevState r (commitAll n s) := by
  induction n generalizing s with
  | zero => exact h
  | succ n ih => exact ih (State.commitHead_devState h _ _)

theorem State.holeRecord_devState {r s : State} (h : Leaves DevState r s) (first : Nat) (last : Nat) (cause : Nat) :
    Leaves DevState r (State.holeRecord s first last cause) := by
  unfold State.holeRecord
  repeat' first
    | with_reducible assumption
    | exact devState_ne (by simp only [bitFld]; decide)
    | exact devState_bbx
    | exact devState_pba _
    | exact devState_ne (by decide)
    | exact devState_ne (by simp only []; omega)
    | exact devState_ne (by split <;> decide)
    | exact devState_list (by decide)
    | (refine devState_list ?_; simp; done)
    | (refine devState_list ?_; simp []; done)
    | (refine devState_list ?_; simp []; intros; omega)
    | intro _
    | with_reducible apply Leaves.pushRecord
    | with_reducible apply Leaves.makeRecord
    | with_reducible apply Leaves.entryRecord
    | with_reducible apply Leaves.hwSet
    | with_reducible apply Leaves.setF
    | with_reducible apply Leaves.setBit
    | with_reducible apply Leaves.set64
    | with_reducible apply Leaves.setReg
    | with_reducible apply Leaves.rclAdd
    | with_reducible apply Leaves.setRegs
    | with_reducible apply Leaves.ite
    | with_reducible apply Leaves.foldl
    | (fail_if_no_progress with_reducible refine leaves_mk ?_ rfl)
    | dsimp only
    | (split <;> (try (rename_i heq; obtain rfl := snd_eq heq)))

theorem State.savePage_devState {r s : State} (h : Leaves DevState r s) :
    Leaves DevState r (State.savePage s) := by
  unfold State.savePage
  repeat' first
    | with_reducible assumption
    | exact devState_ne (by simp only [bitFld]; decide)
    | exact devState_bbx
    | exact devState_pba _
    | exact devState_ne (by decide)
    | exact devState_ne (by simp only [Reg.BBX_HOURS, Reg.BBX_PCC, Reg.BBX_SECS]; omega)
    | exact devState_ne (by split <;> decide)
    | exact devState_list (by decide)
    | (refine devState_list ?_; simp; done)
    | (refine devState_list ?_; simp [Reg.BBX_HOURS, Reg.BBX_PCC, Reg.BBX_SECS]; done)
    | (refine devState_list ?_; simp [Reg.BBX_HOURS, Reg.BBX_PCC, Reg.BBX_SECS]; intros; omega)
    | intro _
    | with_reducible apply Leaves.pushRecord
    | with_reducible apply Leaves.makeRecord
    | with_reducible apply Leaves.entryRecord
    | with_reducible apply Leaves.hwSet
    | with_reducible apply Leaves.setF
    | with_reducible apply Leaves.setBit
    | with_reducible apply Leaves.set64
    | with_reducible apply Leaves.setReg
    | with_reducible apply Leaves.rclAdd
    | with_reducible apply Leaves.setRegs
    | with_reducible apply Leaves.ite
    | with_reducible apply Leaves.foldl
    | (fail_if_no_progress with_reducible refine leaves_mk ?_ rfl)
    | dsimp only
    | (split <;> (try (rename_i heq; obtain rfl := snd_eq heq)))

theorem State.retry_devState {r s : State} (h : Leaves DevState r s) (passA : Bool) (passB : Bool) :
    Leaves DevState r (State.retry s passA passB) := by
  unfold State.retry
  repeat' first
    | with_reducible assumption
    | exact devState_ne (by simp only [bitFld]; decide)
    | exact devState_bbx
    | exact devState_pba _
    | exact devState_ne (by decide)
    | exact devState_ne (by simp only []; omega)
    | exact devState_ne (by split <;> decide)
    | exact devState_list (by decide)
    | (refine devState_list ?_; simp; done)
    | (refine devState_list ?_; simp []; done)
    | (refine devState_list ?_; simp []; intros; omega)
    | intro _
    | with_reducible apply State.setCopyState_devState
    | with_reducible apply Leaves.pushRecord
    | with_reducible apply Leaves.makeRecord
    | with_reducible apply Leaves.entryRecord
    | with_reducible apply Leaves.hwSet
    | with_reducible apply Leaves.setF
    | with_reducible apply Leaves.setBit
    | with_reducible apply Leaves.set64
    | with_reducible apply Leaves.setReg
    | with_reducible apply Leaves.rclAdd
    | with_reducible apply Leaves.setRegs
    | with_reducible apply Leaves.ite
    | with_reducible apply Leaves.foldl
    | (fail_if_no_progress with_reducible refine leaves_mk ?_ rfl)
    | dsimp only
    | (split <;> (try (rename_i heq; obtain rfl := snd_eq heq)))

theorem State.replay_devState {r₀ s : State} (h : Leaves DevState r₀ s) (r : BbxRecord) :
    Leaves DevState r₀ (State.replay s r) := by
  unfold State.replay
  repeat' first
    | with_reducible assumption
    | exact devState_ne (by simp only [bitFld]; decide)
    | exact devState_bbx
    | exact devState_pba _
    | exact devState_ne (by decide)
    | exact devState_ne (by simp only [F.BBX_EVENTS_JOURNAL_REPLAYED, Reg.BBX_EVENTS]; omega)
    | exact devState_ne (by split <;> decide)
    | exact devState_list (by decide)
    | (refine devState_list ?_; simp; done)
    | (refine devState_list ?_; simp [F.BBX_EVENTS_JOURNAL_REPLAYED, Reg.BBX_EVENTS]; done)
    | (refine devState_list ?_; simp [F.BBX_EVENTS_JOURNAL_REPLAYED, Reg.BBX_EVENTS]; intros; omega)
    | intro _
    | with_reducible apply State.commitTo_devState
    | with_reducible apply State.afterCommit_devState
    | with_reducible apply Leaves.pushRecord
    | with_reducible apply Leaves.makeRecord
    | with_reducible apply Leaves.entryRecord
    | with_reducible apply Leaves.hwSet
    | with_reducible apply Leaves.setF
    | with_reducible apply Leaves.setBit
    | with_reducible apply Leaves.set64
    | with_reducible apply Leaves.setReg
    | with_reducible apply Leaves.rclAdd
    | with_reducible apply Leaves.setRegs
    | with_reducible apply Leaves.ite
    | with_reducible apply Leaves.foldl
    | (fail_if_no_progress with_reducible refine leaves_mk ?_ rfl)
    | dsimp only
    | (split <;> (try (rename_i heq; obtain rfl := snd_eq heq)))

theorem State.clearJournals_devState {r s : State} (h : Leaves DevState r s) :
    Leaves DevState r (State.clearJournals s) := by
  unfold State.clearJournals
  repeat' first
    | with_reducible assumption
    | exact devState_ne (by simp only [bitFld]; decide)
    | exact devState_bbx
    | exact devState_pba _
    | exact devState_ne (by decide)
    | exact devState_ne (by simp only []; omega)
    | exact devState_ne (by split <;> decide)
    | exact devState_list (by decide)
    | (refine devState_list ?_; simp; done)
    | (refine devState_list ?_; simp []; done)
    | (refine devState_list ?_; simp []; intros; omega)
    | intro _
    | with_reducible apply Leaves.pushRecord
    | with_reducible apply Leaves.makeRecord
    | with_reducible apply Leaves.entryRecord
    | with_reducible apply Leaves.hwSet
    | with_reducible apply Leaves.setF
    | with_reducible apply Leaves.setBit
    | with_reducible apply Leaves.set64
    | with_reducible apply Leaves.setReg
    | with_reducible apply Leaves.rclAdd
    | with_reducible apply Leaves.setRegs
    | with_reducible apply Leaves.ite
    | with_reducible apply Leaves.foldl
    | (fail_if_no_progress with_reducible refine leaves_mk ?_ rfl)
    | dsimp only
    | (split <;> (try (rename_i heq; obtain rfl := snd_eq heq)))

theorem State.examineJournals_devState {r s : State} (h : Leaves DevState r s) (a : Option Journal) (b : Option Journal) :
    Leaves DevState r (State.examineJournals s a b).2 := by
  unfold State.examineJournals
  repeat' first
    | with_reducible assumption
    | exact devState_ne (by simp only [bitFld]; decide)
    | exact devState_bbx
    | exact devState_pba _
    | exact devState_ne (by decide)
    | exact devState_ne (by simp only []; omega)
    | exact devState_ne (by split <;> decide)
    | exact devState_list (by decide)
    | (refine devState_list ?_; simp; done)
    | (refine devState_list ?_; simp []; done)
    | (refine devState_list ?_; simp []; intros; omega)
    | intro _
    | with_reducible apply State.replay_devState
    | with_reducible apply State.clearJournals_devState
    | with_reducible apply Leaves.pushRecord
    | with_reducible apply Leaves.makeRecord
    | with_reducible apply Leaves.entryRecord
    | with_reducible apply Leaves.hwSet
    | with_reducible apply Leaves.setF
    | with_reducible apply Leaves.setBit
    | with_reducible apply Leaves.set64
    | with_reducible apply Leaves.setReg
    | with_reducible apply Leaves.rclAdd
    | with_reducible apply Leaves.setRegs
    | with_reducible apply Leaves.ite
    | with_reducible apply Leaves.foldl
    | (fail_if_no_progress with_reducible refine leaves_mk ?_ rfl)
    | with_reducible apply leaves_ite2
    | dsimp only
    | (split <;> (try (rename_i heq; obtain rfl := snd_eq heq)))

theorem State.sampleBoard_devState {r s : State} (h : Leaves DevState r s) (full : Bool) (straps : Straps) (ref : RefClass) :
    Leaves DevState r (State.sampleBoard s full straps ref) := by
  unfold State.sampleBoard
  repeat' first
    | with_reducible assumption
    | exact devState_ne (by simp only [bitFld]; decide)
    | exact devState_bbx
    | exact devState_pba _
    | exact devState_ne (by decide)
    | exact devState_ne (by simp only [F.AXIS_STATUS_FORCED_TIME, F.BBX_ERASE_CTRL_ERASES_LEFT, F.BBX_ERASE_CTRL_FULL_SET, F.BBX_ERASE_CTRL_STRAP, F.DEV_CTRL_COMPAT, F.DRAFT_FUSE_CTRL_KEY_PROGRAMMED, F.DRAFT_FUSE_CTRL_SIGNED_ONLY, F.DRAFT_STATUS_COMPAT_ACTIVE, F.DRAFT_STATUS_SIGNED_ONLY, F.PAIR_ID_ARRAY_ID, F.PAIR_ID_PAIR_ROLE, Reg.AXIS_STATUS, Reg.BBX_ERASE_CTRL, Reg.DEV_CTRL, Reg.DEV_SERIAL_HI, Reg.DEV_SERIAL_LO, Reg.DEV_STEP, Reg.DEV_SUBSYS, Reg.DRAFT_FUSE_CTRL, Reg.DRAFT_KEY_HASH, Reg.DRAFT_STATUS, Reg.PAIR_ID]; omega)
    | exact devState_ne (by split <;> decide)
    | exact devState_list (by decide)
    | (refine devState_list ?_; simp; done)
    | (refine devState_list ?_; simp [F.AXIS_STATUS_FORCED_TIME, F.BBX_ERASE_CTRL_ERASES_LEFT, F.BBX_ERASE_CTRL_FULL_SET, F.BBX_ERASE_CTRL_STRAP, F.DEV_CTRL_COMPAT, F.DRAFT_FUSE_CTRL_KEY_PROGRAMMED, F.DRAFT_FUSE_CTRL_SIGNED_ONLY, F.DRAFT_STATUS_COMPAT_ACTIVE, F.DRAFT_STATUS_SIGNED_ONLY, F.PAIR_ID_ARRAY_ID, F.PAIR_ID_PAIR_ROLE, Reg.AXIS_STATUS, Reg.BBX_ERASE_CTRL, Reg.DEV_CTRL, Reg.DEV_SERIAL_HI, Reg.DEV_SERIAL_LO, Reg.DEV_STEP, Reg.DEV_SUBSYS, Reg.DRAFT_FUSE_CTRL, Reg.DRAFT_KEY_HASH, Reg.DRAFT_STATUS, Reg.PAIR_ID]; done)
    | (refine devState_list ?_; simp [F.AXIS_STATUS_FORCED_TIME, F.BBX_ERASE_CTRL_ERASES_LEFT, F.BBX_ERASE_CTRL_FULL_SET, F.BBX_ERASE_CTRL_STRAP, F.DEV_CTRL_COMPAT, F.DRAFT_FUSE_CTRL_KEY_PROGRAMMED, F.DRAFT_FUSE_CTRL_SIGNED_ONLY, F.DRAFT_STATUS_COMPAT_ACTIVE, F.DRAFT_STATUS_SIGNED_ONLY, F.PAIR_ID_ARRAY_ID, F.PAIR_ID_PAIR_ROLE, Reg.AXIS_STATUS, Reg.BBX_ERASE_CTRL, Reg.DEV_CTRL, Reg.DEV_SERIAL_HI, Reg.DEV_SERIAL_LO, Reg.DEV_STEP, Reg.DEV_SUBSYS, Reg.DRAFT_FUSE_CTRL, Reg.DRAFT_KEY_HASH, Reg.DRAFT_STATUS, Reg.PAIR_ID]; intros; omega)
    | intro _
    | with_reducible apply Leaves.pushRecord
    | with_reducible apply Leaves.makeRecord
    | with_reducible apply Leaves.entryRecord
    | with_reducible apply Leaves.hwSet
    | with_reducible apply Leaves.setF
    | with_reducible apply Leaves.setBit
    | with_reducible apply Leaves.set64
    | with_reducible apply Leaves.setReg
    | with_reducible apply Leaves.rclAdd
    | with_reducible apply Leaves.setRegs
    | with_reducible apply Leaves.ite
    | with_reducible apply Leaves.foldl
    | (fail_if_no_progress with_reducible refine leaves_mk ?_ rfl)
    | dsimp only
    | (split <;> (try (rename_i heq; obtain rfl := snd_eq heq)))

theorem State.quiesce_devState {r s : State} (h : Leaves DevState r s) :
    Leaves DevState r (State.quiesce s) := by
  unfold State.quiesce
  repeat' first
    | with_reducible assumption
    | exact devState_ne (by simp only [bitFld]; decide)
    | exact devState_bbx
    | exact devState_pba _
    | exact devState_ne (by decide)
    | exact devState_ne (by simp only [F.CLK_STATUS_RATE_IN_EFFECT, F.DISP_STATUS_STATE, F.LOOM_CTRL_RUN, F.LOOM_STATUS_RUNNING, F.LOOM_STATUS_STOPPING, F.MEM_PC_STATE_SELF_REFRESH, F.PAIR_STATUS_LINK_UP, F.PAIR_STATUS_PEER_HEARD, F.PAIR_STATUS_PROTECTED, F.STRM_STATUS_STATE, Reg.CLK_STATUS, Reg.DISP_PANEL, Reg.DISP_STATUS, Reg.LOOM_CTRL, Reg.LOOM_STATUS, Reg.MEM_PC_STATE, Reg.PAIR_STATUS, Reg.STRM_STATUS, Reg.TRIG_OUT_STATUS, Reg.TRIG_STATUS, Reg.TRIG_UNIT_STATUS]; omega)
    | exact devState_ne (by split <;> decide)
    | exact devState_list (by decide)
    | (refine devState_list ?_; simp; done)
    | (refine devState_list ?_; simp [F.CLK_STATUS_RATE_IN_EFFECT, F.DISP_STATUS_STATE, F.LOOM_CTRL_RUN, F.LOOM_STATUS_RUNNING, F.LOOM_STATUS_STOPPING, F.MEM_PC_STATE_SELF_REFRESH, F.PAIR_STATUS_LINK_UP, F.PAIR_STATUS_PEER_HEARD, F.PAIR_STATUS_PROTECTED, F.STRM_STATUS_STATE, Reg.CLK_STATUS, Reg.DISP_PANEL, Reg.DISP_STATUS, Reg.LOOM_CTRL, Reg.LOOM_STATUS, Reg.MEM_PC_STATE, Reg.PAIR_STATUS, Reg.STRM_STATUS, Reg.TRIG_OUT_STATUS, Reg.TRIG_STATUS, Reg.TRIG_UNIT_STATUS]; done)
    | (refine devState_list ?_; simp [F.CLK_STATUS_RATE_IN_EFFECT, F.DISP_STATUS_STATE, F.LOOM_CTRL_RUN, F.LOOM_STATUS_RUNNING, F.LOOM_STATUS_STOPPING, F.MEM_PC_STATE_SELF_REFRESH, F.PAIR_STATUS_LINK_UP, F.PAIR_STATUS_PEER_HEARD, F.PAIR_STATUS_PROTECTED, F.STRM_STATUS_STATE, Reg.CLK_STATUS, Reg.DISP_PANEL, Reg.DISP_STATUS, Reg.LOOM_CTRL, Reg.LOOM_STATUS, Reg.MEM_PC_STATE, Reg.PAIR_STATUS, Reg.STRM_STATUS, Reg.TRIG_OUT_STATUS, Reg.TRIG_STATUS, Reg.TRIG_UNIT_STATUS]; intros; omega)
    | intro _
    | with_reducible apply State.calHalt_devState
    | with_reducible apply State.setPll_devState
    | with_reducible apply Leaves.pushRecord
    | with_reducible apply Leaves.makeRecord
    | with_reducible apply Leaves.entryRecord
    | with_reducible apply Leaves.hwSet
    | with_reducible apply Leaves.setF
    | with_reducible apply Leaves.setBit
    | with_reducible apply Leaves.set64
    | with_reducible apply Leaves.setReg
    | with_reducible apply Leaves.rclAdd
    | with_reducible apply Leaves.setRegs
    | with_reducible apply Leaves.ite
    | with_reducible apply Leaves.foldl
    | (fail_if_no_progress with_reducible refine leaves_mk ?_ rfl)
    | dsimp only
    | (split <;> (try (rename_i heq; obtain rfl := snd_eq heq)))

theorem State.ring_devState {r s : State} (h : Leaves DevState r s) (v : Word) :
    Leaves DevState r (State.ring s v) := by
  unfold State.ring
  repeat' first
    | with_reducible assumption
    | exact devState_ne (by simp only [bitFld]; decide)
    | exact devState_bbx
    | exact devState_pba _
    | exact devState_ne (by decide)
    | exact devState_ne (by simp only [Reg.LOOM_DOORBELL_PEND]; omega)
    | exact devState_ne (by split <;> decide)
    | exact devState_list (by decide)
    | (refine devState_list ?_; simp; done)
    | (refine devState_list ?_; simp [Reg.LOOM_DOORBELL_PEND]; done)
    | (refine devState_list ?_; simp [Reg.LOOM_DOORBELL_PEND]; intros; omega)
    | intro _
    | with_reducible apply Leaves.pushRecord
    | with_reducible apply Leaves.makeRecord
    | with_reducible apply Leaves.entryRecord
    | with_reducible apply Leaves.hwSet
    | with_reducible apply Leaves.setF
    | with_reducible apply Leaves.setBit
    | with_reducible apply Leaves.set64
    | with_reducible apply Leaves.setReg
    | with_reducible apply Leaves.rclAdd
    | with_reducible apply Leaves.setRegs
    | with_reducible apply Leaves.ite
    | with_reducible apply Leaves.foldl
    | (fail_if_no_progress with_reducible refine leaves_mk ?_ rfl)
    | dsimp only
    | (split <;> (try (rename_i heq; obtain rfl := snd_eq heq)))

theorem State.retireState_devState {r s : State} (h : Leaves DevState r s) (p : Nat) (step : Nat) (group : Nat) :
    Leaves DevState r (State.retireState s p step group) := by
  unfold State.retireState
  repeat' first
    | with_reducible assumption
    | exact devState_ne (by simp only [bitFld]; decide)
    | exact devState_bbx
    | exact devState_pba _
    | exact devState_ne (by decide)
    | exact devState_ne (by simp only [F.FLT_CLASS_HBM_RETIRE, F.MEM_EVENTS_RETIRE, F.MEM_PC_STATE_STATE, Reg.FLT_CLASS, Reg.MEM_EVENTS, Reg.MEM_PC_STATE]; omega)
    | exact devState_ne (by split <;> decide)
    | exact devState_list (by decide)
    | (refine devState_list ?_; simp; done)
    | (refine devState_list ?_; simp [F.FLT_CLASS_HBM_RETIRE, F.MEM_EVENTS_RETIRE, F.MEM_PC_STATE_STATE, Reg.FLT_CLASS, Reg.MEM_EVENTS, Reg.MEM_PC_STATE]; done)
    | (refine devState_list ?_; simp [F.FLT_CLASS_HBM_RETIRE, F.MEM_EVENTS_RETIRE, F.MEM_PC_STATE_STATE, Reg.FLT_CLASS, Reg.MEM_EVENTS, Reg.MEM_PC_STATE]; intros; omega)
    | intro _
    | with_reducible apply State.setPool_devState
    | with_reducible apply Leaves.pushRecord
    | with_reducible apply Leaves.makeRecord
    | with_reducible apply Leaves.entryRecord
    | with_reducible apply Leaves.hwSet
    | with_reducible apply Leaves.setF
    | with_reducible apply Leaves.setBit
    | with_reducible apply Leaves.set64
    | with_reducible apply Leaves.setReg
    | with_reducible apply Leaves.rclAdd
    | with_reducible apply Leaves.setRegs
    | with_reducible apply Leaves.ite
    | with_reducible apply Leaves.foldl
    | (fail_if_no_progress with_reducible refine leaves_mk ?_ rfl)
    | dsimp only
    | (split <;> (try (rename_i heq; obtain rfl := snd_eq heq)))

theorem State.readPage_devState {r s : State} (h : Leaves DevState r s) (cold : Bool) (page : Option Page) :
    Leaves DevState r (State.readPage s cold page) := by
  unfold State.readPage
  repeat' first
    | with_reducible assumption
    | exact devState_ne (by simp only [bitFld]; decide)
    | exact devState_bbx
    | exact devState_pba _
    | exact devState_ne (by decide)
    | exact devState_ne (by simp only [F.BBX_STATUS_COPY_A, F.BBX_STATUS_COPY_B, Reg.BBX_HOURS, Reg.BBX_PCC, Reg.BBX_SECS, Reg.BBX_STATUS]; omega)
    | exact devState_ne (by split <;> decide)
    | exact devState_list (by decide)
    | (refine devState_list ?_; simp; done)
    | (refine devState_list ?_; simp [F.BBX_STATUS_COPY_A, F.BBX_STATUS_COPY_B, Reg.BBX_HOURS, Reg.BBX_PCC, Reg.BBX_SECS, Reg.BBX_STATUS]; done)
    | (refine devState_list ?_; simp [F.BBX_STATUS_COPY_A, F.BBX_STATUS_COPY_B, Reg.BBX_HOURS, Reg.BBX_PCC, Reg.BBX_SECS, Reg.BBX_STATUS]; intros; omega)
    | intro _
    | with_reducible apply State.nextFree_devState
    | with_reducible apply Leaves.pushRecord
    | with_reducible apply Leaves.makeRecord
    | with_reducible apply Leaves.entryRecord
    | with_reducible apply Leaves.hwSet
    | with_reducible apply Leaves.setF
    | with_reducible apply Leaves.setBit
    | with_reducible apply Leaves.set64
    | with_reducible apply Leaves.setReg
    | with_reducible apply Leaves.rclAdd
    | with_reducible apply Leaves.setRegs
    | with_reducible apply Leaves.ite
    | with_reducible apply Leaves.foldl
    | (fail_if_no_progress with_reducible refine leaves_mk ?_ rfl)
    | dsimp only
    | (split <;> (try (rename_i heq; obtain rfl := snd_eq heq)))

theorem State.resumeRseq_devState {r s : State} (h : Leaves DevState r s) (skip : Bool) :
    Leaves DevState r (State.resumeRseq s skip) := by
  unfold State.resumeRseq
  repeat' first
    | with_reducible assumption
    | exact devState_ne (by simp only [bitFld]; decide)
    | exact devState_bbx
    | exact devState_pba _
    | exact devState_ne (by decide)
    | exact devState_ne (by simp only [Reg.BBX_NEXT_LO]; omega)
    | exact devState_ne (by split <;> decide)
    | exact devState_list (by decide)
    | (refine devState_list ?_; simp; done)
    | (refine devState_list ?_; simp [Reg.BBX_NEXT_LO]; done)
    | (refine devState_list ?_; simp [Reg.BBX_NEXT_LO]; intros; omega)
    | intro _
    | with_reducible apply Leaves.pushRecord
    | with_reducible apply Leaves.makeRecord
    | with_reducible apply Leaves.entryRecord
    | with_reducible apply Leaves.hwSet
    | with_reducible apply Leaves.setF
    | with_reducible apply Leaves.setBit
    | with_reducible apply Leaves.set64
    | with_reducible apply Leaves.setReg
    | with_reducible apply Leaves.rclAdd
    | with_reducible apply Leaves.setRegs
    | with_reducible apply Leaves.ite
    | with_reducible apply Leaves.foldl
    | (fail_if_no_progress with_reducible refine leaves_mk ?_ rfl)
    | dsimp only
    | (split <;> (try (rename_i heq; obtain rfl := snd_eq heq)))

theorem State.powerUpRecord_devState {r s : State} (h : Leaves DevState r s) (outcome : Nat) :
    Leaves DevState r (State.powerUpRecord s outcome) := by
  unfold State.powerUpRecord
  repeat' first
    | with_reducible assumption
    | exact devState_ne (by simp only [bitFld]; decide)
    | exact devState_bbx
    | exact devState_pba _
    | exact devState_ne (by decide)
    | exact devState_ne (by simp only [Reg.BBX_PCC]; omega)
    | exact devState_ne (by split <;> decide)
    | exact devState_list (by decide)
    | (refine devState_list ?_; simp; done)
    | (refine devState_list ?_; simp [Reg.BBX_PCC]; done)
    | (refine devState_list ?_; simp [Reg.BBX_PCC]; intros; omega)
    | intro _
    | with_reducible apply Leaves.pushRecord
    | with_reducible apply Leaves.makeRecord
    | with_reducible apply Leaves.entryRecord
    | with_reducible apply Leaves.hwSet
    | with_reducible apply Leaves.setF
    | with_reducible apply Leaves.setBit
    | with_reducible apply Leaves.set64
    | with_reducible apply Leaves.setReg
    | with_reducible apply Leaves.rclAdd
    | with_reducible apply Leaves.setRegs
    | with_reducible apply Leaves.ite
    | with_reducible apply Leaves.foldl
    | (fail_if_no_progress with_reducible refine leaves_mk ?_ rfl)
    | dsimp only
    | (split <;> (try (rename_i heq; obtain rfl := snd_eq heq)))

theorem State.aonRecords_devState {r s : State} (h : Leaves DevState r s) (cold : Bool) (bad : Bool × Bool) (passA : Bool) (passB : Bool) :
    Leaves DevState r (State.aonRecords s cold bad passA passB) := by
  unfold State.aonRecords
  repeat' first
    | with_reducible assumption
    | exact devState_ne (by simp only [bitFld]; decide)
    | exact devState_bbx
    | exact devState_pba _
    | exact devState_ne (by decide)
    | exact devState_ne (by simp only [Reg.BBX_OLDEST_LO]; omega)
    | exact devState_ne (by split <;> decide)
    | exact devState_list (by decide)
    | (refine devState_list ?_; simp; done)
    | (refine devState_list ?_; simp [Reg.BBX_OLDEST_LO]; done)
    | (refine devState_list ?_; simp [Reg.BBX_OLDEST_LO]; intros; omega)
    | intro _
    | with_reducible apply State.holeRecord_devState
    | with_reducible apply State.savePage_devState
    | with_reducible apply State.retry_devState
    | with_reducible apply State.examineJournals_devState
    | with_reducible apply State.readPage_devState
    | with_reducible apply State.resumeRseq_devState
    | with_reducible apply State.powerUpRecord_devState
    | with_reducible apply Leaves.pushRecord
    | with_reducible apply Leaves.makeRecord
    | with_reducible apply Leaves.entryRecord
    | with_reducible apply Leaves.hwSet
    | with_reducible apply Leaves.setF
    | with_reducible apply Leaves.setBit
    | with_reducible apply Leaves.set64
    | with_reducible apply Leaves.setReg
    | with_reducible apply Leaves.rclAdd
    | with_reducible apply Leaves.setRegs
    | with_reducible apply Leaves.ite
    | with_reducible apply Leaves.foldl
    | (fail_if_no_progress with_reducible refine leaves_mk ?_ rfl)
    | dsimp only
    | (split <;> (try (rename_i heq; obtain rfl := snd_eq heq)))

theorem State.railRecord_devState {r s : State} (h : Leaves DevState r s) (step : Nat) (left : Nat) :
    Leaves DevState r (State.railRecord s step left) := by
  unfold State.railRecord
  repeat' first
    | with_reducible assumption
    | exact devState_ne (by simp only [bitFld]; decide)
    | exact devState_bbx
    | exact devState_pba _
    | exact devState_ne (by decide)
    | exact devState_ne (by simp only []; omega)
    | exact devState_ne (by split <;> decide)
    | exact devState_list (by decide)
    | (refine devState_list ?_; simp; done)
    | (refine devState_list ?_; simp []; done)
    | (refine devState_list ?_; simp []; intros; omega)
    | intro _
    | with_reducible apply Leaves.pushRecord
    | with_reducible apply Leaves.makeRecord
    | with_reducible apply Leaves.entryRecord
    | with_reducible apply Leaves.hwSet
    | with_reducible apply Leaves.setF
    | with_reducible apply Leaves.setBit
    | with_reducible apply Leaves.set64
    | with_reducible apply Leaves.setReg
    | with_reducible apply Leaves.rclAdd
    | with_reducible apply Leaves.setRegs
    | with_reducible apply Leaves.ite
    | with_reducible apply Leaves.foldl
    | (fail_if_no_progress with_reducible refine leaves_mk ?_ rfl)
    | dsimp only
    | (split <;> (try (rename_i heq; obtain rfl := snd_eq heq)))

theorem State.selftestRetire_devState {r₀ s : State} (h : Leaves DevState r₀ s) (r : SelftestResults) :
    Leaves DevState r₀ (State.selftestRetire s r) := by
  unfold State.selftestRetire
  repeat' first
    | with_reducible assumption
    | exact devState_ne (by simp only [bitFld]; decide)
    | exact devState_bbx
    | exact devState_pba _
    | exact devState_ne (by decide)
    | exact devState_ne (by simp only []; omega)
    | exact devState_ne (by split <;> decide)
    | exact devState_list (by decide)
    | (refine devState_list ?_; simp; done)
    | (refine devState_list ?_; simp []; done)
    | (refine devState_list ?_; simp []; intros; omega)
    | intro _
    | with_reducible apply State.retireState_devState
    | with_reducible apply Leaves.pushRecord
    | with_reducible apply Leaves.makeRecord
    | with_reducible apply Leaves.entryRecord
    | with_reducible apply Leaves.hwSet
    | with_reducible apply Leaves.setF
    | with_reducible apply Leaves.setBit
    | with_reducible apply Leaves.set64
    | with_reducible apply Leaves.setReg
    | with_reducible apply Leaves.rclAdd
    | with_reducible apply Leaves.setRegs
    | with_reducible apply Leaves.ite
    | with_reducible apply Leaves.foldl
    | (fail_if_no_progress with_reducible refine leaves_mk ?_ rfl)
    | dsimp only
    | (split <;> (try (rename_i heq; obtain rfl := snd_eq heq)))

theorem State.takeRole_devState {r s : State} (h : Leaves DevState r s) (fenced : Bool) :
    Leaves DevState r (State.takeRole s fenced) := by
  unfold State.takeRole
  repeat' first
    | with_reducible assumption
    | exact devState_ne (by simp only [bitFld]; decide)
    | exact devState_bbx
    | exact devState_pba _
    | exact devState_ne (by decide)
    | exact devState_ne (by simp only [F.DEV_CAPS_PAIRED, F.PAIR_STATUS_PEER_HEARD, F.PAIR_STATUS_PEER_ROLE, F.PAIR_STATUS_ROLE, Reg.DEV_CAPS, Reg.PAIR_STATUS]; omega)
    | exact devState_ne (by split <;> decide)
    | exact devState_list (by decide)
    | (refine devState_list ?_; simp; done)
    | (refine devState_list ?_; simp [F.DEV_CAPS_PAIRED, F.PAIR_STATUS_PEER_HEARD, F.PAIR_STATUS_PEER_ROLE, F.PAIR_STATUS_ROLE, Reg.DEV_CAPS, Reg.PAIR_STATUS]; done)
    | (refine devState_list ?_; simp [F.DEV_CAPS_PAIRED, F.PAIR_STATUS_PEER_HEARD, F.PAIR_STATUS_PEER_ROLE, F.PAIR_STATUS_ROLE, Reg.DEV_CAPS, Reg.PAIR_STATUS]; intros; omega)
    | intro _
    | with_reducible apply Leaves.pushRecord
    | with_reducible apply Leaves.makeRecord
    | with_reducible apply Leaves.entryRecord
    | with_reducible apply Leaves.hwSet
    | with_reducible apply Leaves.setF
    | with_reducible apply Leaves.setBit
    | with_reducible apply Leaves.set64
    | with_reducible apply Leaves.setReg
    | with_reducible apply Leaves.rclAdd
    | with_reducible apply Leaves.setRegs
    | with_reducible apply Leaves.ite
    | with_reducible apply Leaves.foldl
    | (fail_if_no_progress with_reducible refine leaves_mk ?_ rfl)
    | dsimp only
    | (split <;> (try (rename_i heq; obtain rfl := snd_eq heq)))

end Sys2Proof.Machine
end

