-- ==== Sys2Proof/Laws/KeepsOps.lean ====
section
/-! SUPPORT. What every operation of Machine/Ops.lean keeps: the queue, the fabric clock, the canonical form of the register
file and every burnt fuse. -/

set_option linter.all false

namespace Sys2Proof.Machine

theorem State.setReg_keeps {r s : State} (h : Keeps r s) (off : Nat) (v : Word) : Keeps r (s.setReg off v) :=
  ⟨h.queue, h.clock, fun c => Sys2Proof.Laws.sparseWf_set _ _ _ _ (h.canon c), h.fuses⟩

theorem State.setF_keeps {r s : State} (h : Keeps r s) (f : Fld) (n : Nat) :
    Keeps r (State.setF s f n) := by
  unfold State.setF
  repeat' first
    | with_reducible assumption
    | intro _
    | with_reducible apply State.setReg_keeps
    | with_reducible apply keeps_ite
    | with_reducible apply keeps_foldl
    | (fail_if_no_progress with_reducible refine keeps_mk ?_ rfl rfl rfl rfl)
    | dsimp only
    | (split <;> (try (rename_i heq; obtain rfl := snd_eq heq)))

theorem State.setBit_keeps {r s : State} (h : Keeps r s) (f : Fld) (b : Bool) :
    Keeps r (State.setBit s f b) := by
  unfold State.setBit
  repeat' first
    | with_reducible assumption
    | intro _
    | with_reducible apply State.setF_keeps
    | with_reducible apply keeps_ite
    | with_reducible apply keeps_foldl
    | (fail_if_no_progress with_reducible refine keeps_mk ?_ rfl rfl rfl rfl)
    | dsimp only
    | (split <;> (try (rename_i heq; obtain rfl := snd_eq heq)))

theorem State.set64_keeps {r s : State} (h : Keeps r s) (lo : Nat) (n : Nat) :
    Keeps r (State.set64 s lo n) := by
  unfold State.set64
  repeat' first
    | with_reducible assumption
    | intro _
    | with_reducible apply State.setReg_keeps
    | with_reducible apply keeps_ite
    | with_reducible apply keeps_foldl
    | (fail_if_no_progress with_reducible refine keeps_mk ?_ rfl rfl rfl rfl)
    | dsimp only
    | (split <;> (try (rename_i heq; obtain rfl := snd_eq heq)))

theorem State.setRegs_keeps {r s : State} (h : Keeps r s) (l : List (Nat × Word)) :
    Keeps r (State.setRegs s l) := by
  unfold State.setRegs
  repeat' first
    | with_reducible assumption
    | intro _
    | with_reducible apply State.setReg_keeps
    | with_reducible apply keeps_ite
    | with_reducible apply keeps_foldl
    | (fail_if_no_progress with_reducible refine keeps_mk ?_ rfl rfl rfl rfl)
    | dsimp only
    | (split <;> (try (rename_i heq; obtain rfl := snd_eq heq)))

theorem State.send_keeps {r s : State} (h : Keeps r s) (o : Output) :
    Keeps r (State.send s o) := by
  unfold State.send
  repeat' first
    | with_reducible assumption
    | intro _
    | with_reducible apply keeps_ite
    | with_reducible apply keeps_foldl
    | (fail_if_no_progress with_reducible refine keeps_mk ?_ rfl rfl rfl rfl)
    | dsimp only
    | (split <;> (try (rename_i heq; obtain rfl := snd_eq heq)))

theorem State.nextFree_keeps {r s : State} (h : Keeps r s) :
    Keeps r (State.nextFree s) := by
  unfold State.nextFree
  repeat' first
    | with_reducible assumption
    | intro _
    | with_reducible apply keeps_ite
    | with_reducible apply keeps_foldl
    | (fail_if_no_progress with_reducible refine keeps_mk ?_ rfl rfl rfl rfl)
    | dsimp only
    | (split <;> (try (rename_i heq; obtain rfl := snd_eq heq)))

theorem State.dropEntry_keeps {r s : State} (h : Keeps r s) :
    Keeps r (State.dropEntry s) := by
  unfold State.dropEntry
  repeat' first
    | with_reducible assumption
    | intro _
    | with_reducible apply State.set64_keeps
    | with_reducible apply State.ring_keeps
    | with_reducible apply keeps_ite
    | with_reducible apply keeps_foldl
    | (fail_if_no_progress with_reducible refine keeps_mk ?_ rfl rfl rfl rfl)
    | dsimp only
    | (split <;> (try (rename_i heq; obtain rfl := snd_eq heq)))

theorem State.enter_keeps {r s : State} (h : Keeps r s) (dst : EngState) (cause : Nat) :
    Keeps r (State.enter s dst cause) := by
  unfold State.enter
  repeat' first
    | with_reducible assumption
    | intro _
    | with_reducible apply State.setReg_keeps
    | with_reducible apply State.setF_keeps
    | with_reducible apply State.dropEntry_keeps
    | with_reducible apply keeps_ite
    | with_reducible apply keeps_foldl
    | (fail_if_no_progress with_reducible refine keeps_mk ?_ rfl rfl rfl rfl)
    | dsimp only
    | (split <;> (try (rename_i heq; obtain rfl := snd_eq heq)))

theorem State.emitCell_keeps {r s : State} (h : Keeps r s) (cseq : Nat) (c : Cell) :
    Keeps r (State.emitCell s cseq c) := by
  unfold State.emitCell
  repeat' first
    | with_reducible assumption
    | intro _
    | with_reducible apply keeps_ite
    | with_reducible apply keeps_foldl
    | (fail_if_no_progress with_reducible refine keeps_mk ?_ rfl rfl rfl rfl)
    | dsimp only
    | (split <;> (try (rename_i heq; obtain rfl := snd_eq heq)))

theorem State.sendCell_keeps {r s : State} (h : Keeps r s) (c : Cell) :
    Keeps r (State.sendCell s c) := by
  unfold State.sendCell
  repeat' first
    | with_reducible assumption
    | intro _
    | with_reducible apply State.emitCell_keeps
    | with_reducible apply keeps_ite
    | with_reducible apply keeps_foldl
    | (fail_if_no_progress with_reducible refine keeps_mk ?_ rfl rfl rfl rfl)
    | dsimp only
    | (split <;> (try (rename_i heq; obtain rfl := snd_eq heq)))

end Sys2Proof.Machine
end

