-- ==== Sys2Proof/Laws/KeepsFlags.lean ====
section
/-! SUPPORT. What every operation of Machine/Flags.lean keeps: the queue, the fabric clock, the canonical form of the register
file and every burnt fuse. -/

set_option linter.all false

namespace Sys2Proof.Machine

theorem State.raiseVector_keeps {r s : State} (h : Keeps r s) (v : Nat) :
    Keeps r (State.raiseVector s v) := by
  unfold State.raiseVector
  repeat' first
    | with_reducible assumption
    | intro _
    | with_reducible apply State.setBit_keeps
    | with_reducible apply State.send_keeps
    | with_reducible apply keeps_ite
    | with_reducible apply keeps_foldl
    | (fail_if_no_progress with_reducible refine keeps_mk ?_ rfl rfl rfl rfl)
    | dsimp only
    | (split <;> (try (rename_i heq; obtain rfl := snd_eq heq)))

theorem State.releaseVector_keeps {r s : State} (h : Keeps r s) (v : Nat) :
    Keeps r (State.releaseVector s v) := by
  unfold State.releaseVector
  repeat' first
    | with_reducible assumption
    | intro _
    | with_reducible apply State.setBit_keeps
    | with_reducible apply State.send_keeps
    | with_reducible apply keeps_ite
    | with_reducible apply keeps_foldl
    | (fail_if_no_progress with_reducible refine keeps_mk ?_ rfl rfl rfl rfl)
    | dsimp only
    | (split <;> (try (rename_i heq; obtain rfl := snd_eq heq)))

theorem State.countOcc_keeps {r s : State} (h : Keeps r s) (f : Fld) :
    Keeps r (State.countOcc s f) := by
  unfold State.countOcc
  repeat' first
    | with_reducible assumption
    | intro _
    | with_reducible apply keeps_ite
    | with_reducible apply keeps_foldl
    | (fail_if_no_progress with_reducible refine keeps_mk ?_ rfl rfl rfl rfl)
    | dsimp only
    | (split <;> (try (rename_i heq; obtain rfl := snd_eq heq)))

theorem State.hwSet_keeps {r s : State} (h : Keeps r s) (f : Fld) :
    Keeps r (State.hwSet s f) := by
  unfold State.hwSet
  repeat' first
    | with_reducible assumption
    | intro _
    | with_reducible apply State.setF_keeps
    | with_reducible apply State.raiseVector_keeps
    | with_reducible apply State.countOcc_keeps
    | with_reducible apply keeps_ite
    | with_reducible apply keeps_foldl
    | (fail_if_no_progress with_reducible refine keeps_mk ?_ rfl rfl rfl rfl)
    | dsimp only
    | (split <;> (try (rename_i heq; obtain rfl := snd_eq heq)))

theorem State.rclPut_keeps {r s : State} (h : Keeps r s) (off : Nat) (old : Nat) (n : Nat) :
    Keeps r (State.rclPut s off old n) := by
  unfold State.rclPut
  repeat' first
    | with_reducible assumption
    | intro _
    | with_reducible apply State.setReg_keeps
    | with_reducible apply keeps_ite
    | with_reducible apply keeps_foldl
    | (fail_if_no_progress with_reducible refine keeps_mk ?_ rfl rfl rfl rfl)
    | dsimp only
    | (split <;> (try (rename_i heq; obtain rfl := snd_eq heq)))

theorem State.rclAdd_keeps {r s : State} (h : Keeps r s) (off : Nat) (n : Nat) :
    Keeps r (State.rclAdd s off n) := by
  unfold State.rclAdd
  repeat' first
    | with_reducible assumption
    | intro _
    | with_reducible apply State.rclPut_keeps
    | with_reducible apply keeps_ite
    | with_reducible apply keeps_foldl
    | (fail_if_no_progress with_reducible refine keeps_mk ?_ rfl rfl rfl rfl)
    | dsimp only
    | (split <;> (try (rename_i heq; obtain rfl := snd_eq heq)))

theorem State.rclTake_keeps {r s : State} (h : Keeps r s) (off : Nat) :
    Keeps r (State.rclTake s off).2 := by
  unfold State.rclTake
  repeat' first
    | with_reducible assumption
    | intro _
    | with_reducible apply State.setReg_keeps
    | with_reducible apply State.rclPut_keeps
    | with_reducible apply keeps_ite
    | with_reducible apply keeps_foldl
    | (fail_if_no_progress with_reducible refine keeps_mk ?_ rfl rfl rfl rfl)
    | with_reducible apply keeps_ite2
    | dsimp only
    | (split <;> (try (rename_i heq; obtain rfl := snd_eq heq)))

theorem State.w1cClear_keeps {r s : State} (h : Keeps r s) (off : Nat) (v : Word) :
    Keeps r (State.w1cClear s off v) := by
  unfold State.w1cClear
  repeat' first
    | with_reducible assumption
    | intro _
    | with_reducible apply State.setF_keeps
    | with_reducible apply keeps_ite
    | with_reducible apply keeps_foldl
    | (fail_if_no_progress with_reducible refine keeps_mk ?_ rfl rfl rfl rfl)
    | dsimp only
    | (split <;> (try (rename_i heq; obtain rfl := snd_eq heq)))

end Sys2Proof.Machine
end

