-- ==== Sys2Proof/Laws/KeepsRecords.lean ====
section
/-! SUPPORT. What every operation of Machine/Records.lean keeps: the queue, the fabric clock, the canonical form of the register
file and every burnt fuse. -/

set_option linter.all false

namespace Sys2Proof.Machine

theorem State.breakSnap_keeps {r s : State} (h : Keeps r s) :
    Keeps r (State.breakSnap s) := by
  unfold State.breakSnap
  repeat' first
    | with_reducible assumption
    | intro _
    | with_reducible apply State.setBit_keeps
    | with_reducible apply State.hwSet_keeps
    | with_reducible apply keeps_ite
    | with_reducible apply keeps_foldl
    | (fail_if_no_progress with_reducible refine keeps_mk ?_ rfl rfl rfl rfl)
    | dsimp only
    | (split <;> (try (rename_i heq; obtain rfl := snd_eq heq)))

theorem State.ringRoom_keeps {r s : State} (h : Keeps r s) :
    Keeps r (State.ringRoom s) := by
  unfold State.ringRoom
  repeat' first
    | with_reducible assumption
    | intro _
    | with_reducible apply State.rclAdd_keeps
    | with_reducible apply State.ring_keeps
    | with_reducible apply keeps_ite
    | with_reducible apply keeps_foldl
    | (fail_if_no_progress with_reducible refine keeps_mk ?_ rfl rfl rfl rfl)
    | dsimp only
    | (split <;> (try (rename_i heq; obtain rfl := snd_eq heq)))

theorem State.crossCopy_keeps {r₀ s : State} (h : Keeps r₀ s) (r : BbxRecord) :
    Keeps r₀ (State.crossCopy s r) := by
  unfold State.crossCopy
  repeat' first
    | with_reducible assumption
    | intro _
    | with_reducible apply State.sendCell_keeps
    | with_reducible apply keeps_ite
    | with_reducible apply keeps_foldl
    | (fail_if_no_progress with_reducible refine keeps_mk ?_ rfl rfl rfl rfl)
    | dsimp only
    | (split <;> (try (rename_i heq; obtain rfl := snd_eq heq)))

theorem State.pushRecord_keeps {r₀ s : State} (h : Keeps r₀ s) (r : BbxRecord) :
    Keeps r₀ (State.pushRecord s r) := by
  unfold State.pushRecord
  repeat' first
    | with_reducible assumption
    | intro _
    | with_reducible apply State.set64_keeps
    | with_reducible apply State.ringRoom_keeps
    | with_reducible apply State.crossCopy_keeps
    | with_reducible apply State.ring_keeps
    | with_reducible apply keeps_ite
    | with_reducible apply keeps_foldl
    | (fail_if_no_progress with_reducible refine keeps_mk ?_ rfl rfl rfl rfl)
    | dsimp only
    | (split <;> (try (rename_i heq; obtain rfl := snd_eq heq)))

theorem State.makeRecord_keeps {r s : State} (h : Keeps r s) (src : Nat) (code : Nat) (payload : List Byte) :
    Keeps r (State.makeRecord s src code payload) := by
  unfold State.makeRecord
  repeat' first
    | with_reducible assumption
    | intro _
    | with_reducible apply State.pushRecord_keeps
    | with_reducible apply keeps_ite
    | with_reducible apply keeps_foldl
    | (fail_if_no_progress with_reducible refine keeps_mk ?_ rfl rfl rfl rfl)
    | dsimp only
    | (split <;> (try (rename_i heq; obtain rfl := snd_eq heq)))

theorem State.entryRecord_keeps {r s : State} (h : Keeps r s) :
    Keeps r (State.entryRecord s) := by
  unfold State.entryRecord
  repeat' first
    | with_reducible assumption
    | intro _
    | with_reducible apply State.makeRecord_keeps
    | with_reducible apply keeps_ite
    | with_reducible apply keeps_foldl
    | (fail_if_no_progress with_reducible refine keeps_mk ?_ rfl rfl rfl rfl)
    | dsimp only
    | (split <;> (try (rename_i heq; obtain rfl := snd_eq heq)))

end Sys2Proof.Machine
end

