-- ==== Sys2Proof/Laws/KeepsAccess.lean ====
section
/-! SUPPORT. What every operation of Machine/Access.lean keeps: the queue, the fabric clock, the canonical form of the register
file and every burnt fuse. -/

set_option linter.all false

namespace Sys2Proof.Machine

theorem State.hostWrite_keeps {r s : State} (h : Keeps r s) (off : Nat) (v : Word) (k : State → State) (hk : ∀ t, Keeps r t → Keeps r (k t)) :
    Keeps r (State.hostWrite s off v k) := by
  unfold State.hostWrite
  repeat' first
    | with_reducible assumption
    | intro _
    | with_reducible apply hk
    | with_reducible apply State.sendCell_keeps
    | with_reducible apply State.hwSet_keeps
    | with_reducible apply keeps_ite
    | with_reducible apply keeps_foldl
    | (fail_if_no_progress with_reducible refine keeps_mk ?_ rfl rfl rfl rfl)
    | dsimp only
    | (split <;> (try (rename_i heq; obtain rfl := snd_eq heq)))

theorem State.storeReg_keeps {r s : State} (h : Keeps r s) (off : Nat) (v : Word) :
    Keeps r (State.storeReg s off v) := by
  unfold State.storeReg
  repeat' first
    | with_reducible assumption
    | intro _
    | with_reducible apply State.setReg_keeps
    | with_reducible apply keeps_ite
    | with_reducible apply keeps_foldl
    | (fail_if_no_progress with_reducible refine keeps_mk ?_ rfl rfl rfl rfl)
    | dsimp only
    | (split <;> (try (rename_i heq; obtain rfl := snd_eq heq)))

theorem State.holdLo_keeps {r s : State} (h : Keeps r s) (off : Nat) (v : Word) :
    Keeps r (State.holdLo s off v) := by
  unfold State.holdLo
  repeat' first
    | with_reducible assumption
    | intro _
    | with_reducible apply keeps_ite
    | with_reducible apply keeps_foldl
    | (fail_if_no_progress with_reducible refine keeps_mk ?_ rfl rfl rfl rfl)
    | dsimp only
    | (split <;> (try (rename_i heq; obtain rfl := snd_eq heq)))

theorem State.takeHeld_keeps {r s : State} (h : Keeps r s) (off : Nat) :
    Keeps r (State.takeHeld s off).2 := by
  unfold State.takeHeld
  repeat' first
    | with_reducible assumption
    | intro _
    | with_reducible apply keeps_ite
    | with_reducible apply keeps_foldl
    | (fail_if_no_progress with_reducible refine keeps_mk ?_ rfl rfl rfl rfl)
    | with_reducible apply keeps_ite2
    | dsimp only
    | (split <;> (try (rename_i heq; obtain rfl := snd_eq heq)))

theorem State.latch_keeps {r s : State} (h : Keeps r s) (off : Nat) (v : Word) :
    Keeps r (State.latch s off v) := by
  unfold State.latch
  repeat' first
    | with_reducible assumption
    | intro _
    | with_reducible apply keeps_ite
    | with_reducible apply keeps_foldl
    | (fail_if_no_progress with_reducible refine keeps_mk ?_ rfl rfl rfl rfl)
    | dsimp only
    | (split <;> (try (rename_i heq; obtain rfl := snd_eq heq)))

end Sys2Proof.Machine
end

