-- ==== Sys2Proof/Laws/KeepsOperands.lean ====
section
/-! SUPPORT. What every operation of Machine/Operands.lean keeps: the queue, the fabric clock, the canonical form of the register
file and every burnt fuse. -/

set_option linter.all false

namespace Sys2Proof.Machine

theorem State.dropNative_keeps {r s : State} (h : Keeps r s) (c : Nat) :
    Keeps r (State.dropNative s c) := by
  unfold State.dropNative
  repeat' first
    | with_reducible assumption
    | intro _
    | with_reducible apply State.setReg_keeps
    | with_reducible apply State.setF_keeps
    | with_reducible apply State.setBit_keeps
    | with_reducible apply keeps_ite
    | with_reducible apply keeps_foldl
    | (fail_if_no_progress with_reducible refine keeps_mk ?_ rfl rfl rfl rfl)
    | dsimp only
    | (split <;> (try (rename_i heq; obtain rfl := snd_eq heq)))

end Sys2Proof.Machine
end

