-- ==== Sys2Proof/Laws/KeepsAxisOps.lean ====
section
/-! SUPPORT. What every operation of Machine/AxisOps.lean keeps: the queue, the fabric clock, the canonical form of the register
file and every burnt fuse. -/

set_option linter.all false

namespace Sys2Proof.Machine

theorem State.axisKnotNow_keeps {r s : State} (h : Keeps r s) (pos : Int) (rate : Int) (st : Nat) (jump : Bool) :
    Keeps r (State.axisKnotNow s pos rate st jump) := by
  unfold State.axisKnotNow
  repeat' first
    | with_reducible assumption
    | intro _
    | with_reducible apply State.setF_keeps
    | with_reducible apply keeps_ite
    | with_reducible apply keeps_foldl
    | (fail_if_no_progress with_reducible refine keeps_mk ?_ rfl rfl rfl rfl)
    | dsimp only
    | (split <;> (try (rename_i heq; obtain rfl := snd_eq heq)))

theorem State.reportEvent_keeps {r s : State} (h : Keeps r s) (e : LoomEvent) :
    Keeps r (State.reportEvent s e) := by
  unfold State.reportEvent
  repeat' first
    | with_reducible assumption
    | intro _
    | with_reducible apply keeps_ite
    | with_reducible apply keeps_foldl
    | (fail_if_no_progress with_reducible refine keeps_mk ?_ rfl rfl rfl rfl)
    | dsimp only
    | (split <;> (try (rename_i heq; obtain rfl := snd_eq heq)))

theorem State.axisEvent_keeps {r s : State} (h : Keeps r s) (bit : Nat) (t : Option Instant) :
    Keeps r (State.axisEvent s bit t) := by
  unfold State.axisEvent
  repeat' first
    | with_reducible assumption
    | intro _
    | with_reducible apply State.hwSet_keeps
    | with_reducible apply State.reportEvent_keeps
    | with_reducible apply keeps_ite
    | with_reducible apply keeps_foldl
    | (fail_if_no_progress with_reducible refine keeps_mk ?_ rfl rfl rfl rfl)
    | dsimp only
    | (split <;> (try (rename_i heq; obtain rfl := snd_eq heq)))

theorem State.axisKeep_keeps {r s : State} (h : Keeps r s) (off : Nat) :
    Keeps r (State.axisKeep s off) := by
  unfold State.axisKeep
  repeat' first
    | with_reducible assumption
    | intro _
    | with_reducible apply keeps_ite
    | with_reducible apply keeps_foldl
    | (fail_if_no_progress with_reducible refine keeps_mk ?_ rfl rfl rfl rfl)
    | dsimp only
    | (split <;> (try (rename_i heq; obtain rfl := snd_eq heq)))

theorem State.axisRestart_keeps {r s : State} (h : Keeps r s) :
    Keeps r (State.axisRestart s) := by
  unfold State.axisRestart
  repeat' first
    | with_reducible assumption
    | intro _
    | with_reducible apply State.setF_keeps
    | with_reducible apply State.setBit_keeps
    | with_reducible apply State.axisKnotNow_keeps
    | with_reducible apply keeps_ite
    | with_reducible apply keeps_foldl
    | (fail_if_no_progress with_reducible refine keeps_mk ?_ rfl rfl rfl rfl)
    | dsimp only
    | (split <;> (try (rename_i heq; obtain rfl := snd_eq heq)))

theorem State.axisTick_keeps {r s : State} (h : Keeps r s) :
    Keeps r (State.axisTick s) := by
  unfold State.axisTick
  repeat' first
    | with_reducible assumption
    | intro _
    | with_reducible apply State.setBit_keeps
    | with_reducible apply State.axisKnotNow_keeps
    | with_reducible apply keeps_ite
    | with_reducible apply keeps_foldl
    | (fail_if_no_progress with_reducible refine keeps_mk ?_ rfl rfl rfl rfl)
    | dsimp only
    | (split <;> (try (rename_i heq; obtain rfl := snd_eq heq)))

end Sys2Proof.Machine
end

