-- ==== Sys2Proof/Laws/KeepsAxis.lean ====
section
/-! SUPPORT. What every operation of Machine/Axis.lean keeps: the queue, the fabric clock, the canonical form of the register
file and every burnt fuse. -/

set_option linter.all false

namespace Sys2Proof.Machine

theorem State.axisCfg_keeps {r s : State} (h : Keeps r s) (v : Word) :
    Keeps r (State.axisCfg s v) := by
  unfold State.axisCfg
  repeat' first
    | with_reducible assumption
    | intro _
    | with_reducible apply State.hwSet_keeps
    | with_reducible apply State.storeReg_keeps
    | with_reducible apply State.axisRestart_keeps
    | with_reducible apply keeps_ite
    | with_reducible apply keeps_foldl
    | (fail_if_no_progress with_reducible refine keeps_mk ?_ rfl rfl rfl rfl)
    | dsimp only
    | (split <;> (try (rename_i heq; obtain rfl := snd_eq heq)))

theorem execAxisCfgWrite_keeps {r s : State} (h : Keeps r s) (v : Word) :
    KeepsOut r (execAxisCfgWrite v s) := by
  unfold execAxisCfgWrite
  repeat' first
    | with_reducible assumption
    | intro _
    | with_reducible apply State.hostWrite_keeps
    | with_reducible apply State.axisCfg_keeps
    | with_reducible apply keeps_ite
    | with_reducible apply keeps_foldl
    | (fail_if_no_progress with_reducible refine keeps_mk ?_ rfl rfl rfl rfl)
    | with_reducible apply keepsOut_next
    | with_reducible apply keepsOut_fault
    | with_reducible apply keepsOut_ite
    | dsimp only
    | (split <;> (try (rename_i heq; obtain rfl := snd_eq heq)))

theorem State.axisStep_keeps {r s : State} (h : Keeps r s) (pos : Int) (rate : Int) (t : Instant) :
    Keeps r (State.axisStep s pos rate t) := by
  unfold State.axisStep
  repeat' first
    | with_reducible assumption
    | intro _
    | with_reducible apply State.set64_keeps
    | with_reducible apply State.makeRecord_keeps
    | with_reducible apply State.axisKnotNow_keeps
    | with_reducible apply State.axisEvent_keeps
    | with_reducible apply keeps_ite
    | with_reducible apply keeps_foldl
    | (fail_if_no_progress with_reducible refine keeps_mk ?_ rfl rfl rfl rfl)
    | dsimp only
    | (split <;> (try (rename_i heq; obtain rfl := snd_eq heq)))

theorem State.axisEdge_keeps {r s : State} (h : Keeps r s) (t : Instant) (truePos : Int) (fresh : Bool) :
    Keeps r (State.axisEdge s t truePos fresh) := by
  unfold State.axisEdge
  repeat' first
    | with_reducible assumption
    | intro _
    | with_reducible apply State.setBit_keeps
    | with_reducible apply State.hwSet_keeps
    | with_reducible apply State.axisKnotNow_keeps
    | with_reducible apply State.axisEvent_keeps
    | with_reducible apply State.axisStep_keeps
    | with_reducible apply keeps_ite
    | with_reducible apply keeps_foldl
    | (fail_if_no_progress with_reducible refine keeps_mk ?_ rfl rfl rfl rfl)
    | dsimp only
    | (split <;> (try (rename_i heq; obtain rfl := snd_eq heq)))

theorem State.axisReverse_keeps {r s : State} (h : Keeps r s) (t : Instant) :
    Keeps r (State.axisReverse s t) := by
  unfold State.axisReverse
  repeat' first
    | with_reducible assumption
    | intro _
    | with_reducible apply State.setBit_keeps
    | with_reducible apply State.axisKnotNow_keeps
    | with_reducible apply State.axisEvent_keeps
    | with_reducible apply keeps_ite
    | with_reducible apply keeps_foldl
    | (fail_if_no_progress with_reducible refine keeps_mk ?_ rfl rfl rfl rfl)
    | dsimp only
    | (split <;> (try (rename_i heq; obtain rfl := snd_eq heq)))

theorem State.quadCount_keeps {r s : State} (h : Keeps r s) (d : Int) (t : Instant) :
    Keeps r (State.quadCount s d t) := by
  unfold State.quadCount
  repeat' first
    | with_reducible assumption
    | intro _
    | with_reducible apply State.setBit_keeps
    | with_reducible apply State.axisEdge_keeps
    | with_reducible apply State.axisReverse_keeps
    | with_reducible apply keeps_ite
    | with_reducible apply keeps_foldl
    | (fail_if_no_progress with_reducible refine keeps_mk ?_ rfl rfl rfl rfl)
    | dsimp only
    | (split <;> (try (rename_i heq; obtain rfl := snd_eq heq)))

theorem execAxisQuadEdge_keeps {r s : State} (h : Keeps r s) (a : Bool) (b : Bool) (t : Instant) (hold : Nat := 64) :
    KeepsOut r (execAxisQuadEdge a b t s hold) := by
  unfold execAxisQuadEdge
  repeat' first
    | with_reducible assumption
    | intro _
    | with_reducible apply State.hwSet_keeps
    | with_reducible apply State.quadCount_keeps
    | with_reducible apply keeps_ite
    | with_reducible apply keeps_foldl
    | (fail_if_no_progress with_reducible refine keeps_mk ?_ rfl rfl rfl rfl)
    | with_reducible apply keepsOut_next
    | with_reducible apply keepsOut_fault
    | with_reducible apply keepsOut_ite
    | dsimp only
    | (split <;> (try (rename_i heq; obtain rfl := snd_eq heq)))

theorem execAxisRefEdge_keeps {r s : State} (h : Keeps r s) (t : Instant) (hold : Nat := 64) :
    KeepsOut r (execAxisRefEdge t s hold) := by
  unfold execAxisRefEdge
  repeat' first
    | with_reducible assumption
    | intro _
    | with_reducible apply State.axisEdge_keeps
    | with_reducible apply keeps_ite
    | with_reducible apply keeps_foldl
    | (fail_if_no_progress with_reducible refine keeps_mk ?_ rfl rfl rfl rfl)
    | with_reducible apply keepsOut_next
    | with_reducible apply keepsOut_fault
    | with_reducible apply keepsOut_ite
    | dsimp only
    | (split <;> (try (rename_i heq; obtain rfl := snd_eq heq)))

theorem execAxisIndexEdge_keeps {r s : State} (h : Keeps r s) (t : Instant) (hold : Nat := 64) :
    KeepsOut r (execAxisIndexEdge t s hold) := by
  unfold execAxisIndexEdge
  repeat' first
    | with_reducible assumption
    | intro _
    | with_reducible apply State.set64_keeps
    | with_reducible apply State.axisEvent_keeps
    | with_reducible apply State.axisEdge_keeps
    | with_reducible apply keeps_ite
    | with_reducible apply keeps_foldl
    | (fail_if_no_progress with_reducible refine keeps_mk ?_ rfl rfl rfl rfl)
    | with_reducible apply keepsOut_next
    | with_reducible apply keepsOut_fault
    | with_reducible apply keepsOut_ite
    | dsimp only
    | (split <;> (try (rename_i heq; obtain rfl := snd_eq heq)))

theorem execEnterCoast_keeps {r s : State} (h : Keeps r s) :
    KeepsOut r (execEnterCoast s) := by
  unfold execEnterCoast
  repeat' first
    | with_reducible assumption
    | intro _
    | with_reducible apply State.setBit_keeps
    | with_reducible apply State.hwSet_keeps
    | with_reducible apply State.axisKnotNow_keeps
    | with_reducible apply State.axisEvent_keeps
    | with_reducible apply keeps_ite
    | with_reducible apply keeps_foldl
    | (fail_if_no_progress with_reducible refine keeps_mk ?_ rfl rfl rfl rfl)
    | with_reducible apply keepsOut_next
    | with_reducible apply keepsOut_fault
    | with_reducible apply keepsOut_ite
    | dsimp only
    | (split <;> (try (rename_i heq; obtain rfl := snd_eq heq)))

theorem execEnterStalled_keeps {r s : State} (h : Keeps r s) :
    KeepsOut r (execEnterStalled s) := by
  unfold execEnterStalled
  repeat' first
    | with_reducible assumption
    | intro _
    | with_reducible apply State.setBit_keeps
    | with_reducible apply State.hwSet_keeps
    | with_reducible apply State.axisKnotNow_keeps
    | with_reducible apply State.axisEvent_keeps
    | with_reducible apply keeps_ite
    | with_reducible apply keeps_foldl
    | (fail_if_no_progress with_reducible refine keeps_mk ?_ rfl rfl rfl rfl)
    | with_reducible apply keepsOut_next
    | with_reducible apply keepsOut_fault
    | with_reducible apply keepsOut_ite
    | dsimp only
    | (split <;> (try (rename_i heq; obtain rfl := snd_eq heq)))

theorem State.cmpAction_keeps {r s : State} (h : Keeps r s) (k : Nat) (mode : Nat) :
    Keeps r (State.cmpAction s k mode) := by
  unfold State.cmpAction
  repeat' first
    | with_reducible assumption
    | intro _
    | with_reducible apply State.set64_keeps
    | with_reducible apply State.hwSet_keeps
    | with_reducible apply keeps_ite
    | with_reducible apply keeps_foldl
    | (fail_if_no_progress with_reducible refine keeps_mk ?_ rfl rfl rfl rfl)
    | dsimp only
    | (split <;> (try (rename_i heq; obtain rfl := snd_eq heq)))

theorem State.cmpHostWrite_keeps {r s : State} (h : Keeps r s) (k : Nat) (v : Nat) :
    Keeps r (State.cmpHostWrite s k v) := by
  unfold State.cmpHostWrite
  repeat' first
    | with_reducible assumption
    | intro _
    | with_reducible apply State.set64_keeps
    | with_reducible apply State.hwSet_keeps
    | with_reducible apply keeps_ite
    | with_reducible apply keeps_foldl
    | (fail_if_no_progress with_reducible refine keeps_mk ?_ rfl rfl rfl rfl)
    | dsimp only
    | (split <;> (try (rename_i heq; obtain rfl := snd_eq heq)))

theorem execAxisCmp_keeps {r s : State} (h : Keeps r s) (k : Fin 16) (mode : Fin 4) :
    KeepsOut r (execAxisCmp k mode s) := by
  unfold execAxisCmp
  repeat' first
    | with_reducible assumption
    | intro _
    | with_reducible apply State.cmpAction_keeps
    | with_reducible apply keeps_ite
    | with_reducible apply keeps_foldl
    | (fail_if_no_progress with_reducible refine keeps_mk ?_ rfl rfl rfl rfl)
    | with_reducible apply keepsOut_next
    | with_reducible apply keepsOut_fault
    | with_reducible apply keepsOut_ite
    | dsimp only
    | (split <;> (try (rename_i heq; obtain rfl := snd_eq heq)))

end Sys2Proof.Machine
end

