-- ==== Sys2Proof/Laws/KeepsCal.lean ====
section
/-! SUPPORT. What every operation of Machine/Cal.lean keeps: the queue, the fabric clock, the canonical form of the register
file and every burnt fuse. -/

set_option linter.all false

namespace Sys2Proof.Machine

theorem State.setCalBank_keeps {r s : State} (h : Keeps r s) (b : Nat) (x : CalBank) :
    Keeps r (State.setCalBank s b x) := by
  unfold State.setCalBank
  repeat' first
    | with_reducible assumption
    | intro _
    | with_reducible apply State.setF_keeps
    | with_reducible apply State.setBit_keeps
    | with_reducible apply keeps_ite
    | with_reducible apply keeps_foldl
    | (fail_if_no_progress with_reducible refine keeps_mk ?_ rfl rfl rfl rfl)
    | dsimp only
    | (split <;> (try (rename_i heq; obtain rfl := snd_eq heq)))

theorem State.putCoef_keeps {r s : State} (h : Keeps r s) (key : Nat) (c : Coef) :
    Keeps r (State.putCoef s key c) := by
  unfold State.putCoef
  repeat' first
    | with_reducible assumption
    | intro _
    | with_reducible apply keeps_ite
    | with_reducible apply keeps_foldl
    | (fail_if_no_progress with_reducible refine keeps_mk ?_ rfl rfl rfl rfl)
    | dsimp only
    | (split <;> (try (rename_i heq; obtain rfl := snd_eq heq)))

theorem State.setCoef_keeps {r s : State} (h : Keeps r s) (b : Nat) (slice : Nat) (c : Coef) :
    Keeps r (State.setCoef s b slice c) := by
  unfold State.setCoef
  repeat' first
    | with_reducible assumption
    | intro _
    | with_reducible apply keeps_ite
    | with_reducible apply keeps_foldl
    | (fail_if_no_progress with_reducible refine keeps_mk ?_ rfl rfl rfl rfl)
    | dsimp only
    | (split <;> (try (rename_i heq; obtain rfl := snd_eq heq)))

theorem State.coefsTake_keeps {r s : State} (h : Keeps r s) :
    Keeps r (State.coefsTake s) := by
  unfold State.coefsTake
  repeat' first
    | with_reducible assumption
    | intro _
    | with_reducible apply State.putCoef_keeps
    | with_reducible apply keeps_ite
    | with_reducible apply keeps_foldl
    | (fail_if_no_progress with_reducible refine keeps_mk ?_ rfl rfl rfl rfl)
    | dsimp only
    | (split <;> (try (rename_i heq; obtain rfl := snd_eq heq)))

theorem State.pushMon_keeps {r s : State} (h : Keeps r s) (bank : Nat) (slice : Nat) (kind : Nat) (value : Nat) :
    Keeps r (State.pushMon s bank slice kind value) := by
  unfold State.pushMon
  repeat' first
    | with_reducible assumption
    | intro _
    | with_reducible apply keeps_ite
    | with_reducible apply keeps_foldl
    | (fail_if_no_progress with_reducible refine keeps_mk ?_ rfl rfl rfl rfl)
    | dsimp only
    | (split <;> (try (rename_i heq; obtain rfl := snd_eq heq)))

theorem State.monSettle_keeps {r s : State} (h : Keeps r s) :
    Keeps r (State.monSettle s) := by
  unfold State.monSettle
  repeat' first
    | with_reducible assumption
    | intro _
    | with_reducible apply State.hwSet_keeps
    | with_reducible apply State.rclAdd_keeps
    | with_reducible apply keeps_ite
    | with_reducible apply keeps_foldl
    | (fail_if_no_progress with_reducible refine keeps_mk ?_ rfl rfl rfl rfl)
    | dsimp only
    | (split <;> (try (rename_i heq; obtain rfl := snd_eq heq)))

theorem State.monTake_keeps {r s : State} (h : Keeps r s) :
    Keeps r (State.monTake s) := by
  unfold State.monTake
  repeat' first
    | with_reducible assumption
    | intro _
    | with_reducible apply keeps_ite
    | with_reducible apply keeps_foldl
    | (fail_if_no_progress with_reducible refine keeps_mk ?_ rfl rfl rfl rfl)
    | dsimp only
    | (split <;> (try (rename_i heq; obtain rfl := snd_eq heq)))

theorem State.startVisit_keeps {r s : State} (h : Keeps r s) (b : Nat) (slice : Nat) :
    Keeps r (State.startVisit s b slice) := by
  unfold State.startVisit
  repeat' first
    | with_reducible assumption
    | intro _
    | with_reducible apply State.setCalBank_keeps
    | with_reducible apply keeps_ite
    | with_reducible apply keeps_foldl
    | (fail_if_no_progress with_reducible refine keeps_mk ?_ rfl rfl rfl rfl)
    | dsimp only
    | (split <;> (try (rename_i heq; obtain rfl := snd_eq heq)))

theorem State.startSweep_keeps {r s : State} (h : Keeps r s) (b : Nat) :
    Keeps r (State.startSweep s b) := by
  unfold State.startSweep
  repeat' first
    | with_reducible assumption
    | intro _
    | with_reducible apply State.setBit_keeps
    | with_reducible apply State.setCalBank_keeps
    | with_reducible apply State.startVisit_keeps
    | with_reducible apply keeps_ite
    | with_reducible apply keeps_foldl
    | (fail_if_no_progress with_reducible refine keeps_mk ?_ rfl rfl rfl rfl)
    | dsimp only
    | (split <;> (try (rename_i heq; obtain rfl := snd_eq heq)))

theorem State.idleBank_keeps {r s : State} (h : Keeps r s) (b : Nat) (phase : CalPhase) :
    Keeps r (State.idleBank s b phase) := by
  unfold State.idleBank
  repeat' first
    | with_reducible assumption
    | intro _
    | with_reducible apply State.setBit_keeps
    | with_reducible apply State.setCalBank_keeps
    | with_reducible apply keeps_ite
    | with_reducible apply keeps_foldl
    | (fail_if_no_progress with_reducible refine keeps_mk ?_ rfl rfl rfl rfl)
    | dsimp only
    | (split <;> (try (rename_i heq; obtain rfl := snd_eq heq)))

theorem State.abortVisit_keeps {r s : State} (h : Keeps r s) (b : Nat) :
    Keeps r (State.abortVisit s b) := by
  unfold State.abortVisit
  repeat' first
    | with_reducible assumption
    | intro _
    | with_reducible apply State.hwSet_keeps
    | with_reducible apply State.setCalBank_keeps
    | with_reducible apply State.pushMon_keeps
    | with_reducible apply keeps_ite
    | with_reducible apply keeps_foldl
    | (fail_if_no_progress with_reducible refine keeps_mk ?_ rfl rfl rfl rfl)
    | dsimp only
    | (split <;> (try (rename_i heq; obtain rfl := snd_eq heq)))

theorem State.startGroup_keeps {r s : State} (h : Keeps r s) (lead : Nat) :
    Keeps r (State.startGroup s lead) := by
  unfold State.startGroup
  repeat' first
    | with_reducible assumption
    | intro _
    | with_reducible apply State.startSweep_keeps
    | with_reducible apply keeps_ite
    | with_reducible apply keeps_foldl
    | (fail_if_no_progress with_reducible refine keeps_mk ?_ rfl rfl rfl rfl)
    | dsimp only
    | (split <;> (try (rename_i heq; obtain rfl := snd_eq heq)))

theorem State.calRetarget_keeps {r s : State} (h : Keeps r s) (old : Word) (b : Nat) :
    Keeps r (State.calRetarget s old b) := by
  unfold State.calRetarget
  repeat' first
    | with_reducible assumption
    | intro _
    | with_reducible apply State.startVisit_keeps
    | with_reducible apply State.startSweep_keeps
    | with_reducible apply State.idleBank_keeps
    | with_reducible apply State.abortVisit_keeps
    | with_reducible apply keeps_ite
    | with_reducible apply keeps_foldl
    | (fail_if_no_progress with_reducible refine keeps_mk ?_ rfl rfl rfl rfl)
    | dsimp only
    | (split <;> (try (rename_i heq; obtain rfl := snd_eq heq)))

theorem State.ctrlTakes_keeps {r s : State} (h : Keeps r s) :
    Keeps r (State.ctrlTakes s) := by
  unfold State.ctrlTakes
  repeat' first
    | with_reducible assumption
    | intro _
    | with_reducible apply State.startGroup_keeps
    | with_reducible apply State.calRetarget_keeps
    | with_reducible apply keeps_ite
    | with_reducible apply keeps_foldl
    | (fail_if_no_progress with_reducible refine keeps_mk ?_ rfl rfl rfl rfl)
    | dsimp only
    | (split <;> (try (rename_i heq; obtain rfl := snd_eq heq)))

theorem State.visitFollows_keeps {r s : State} (h : Keeps r s) (b : Nat) :
    Keeps r (State.visitFollows s b) := by
  unfold State.visitFollows
  repeat' first
    | with_reducible assumption
    | intro _
    | with_reducible apply State.startVisit_keeps
    | with_reducible apply State.idleBank_keeps
    | with_reducible apply keeps_ite
    | with_reducible apply keeps_foldl
    | (fail_if_no_progress with_reducible refine keeps_mk ?_ rfl rfl rfl rfl)
    | dsimp only
    | (split <;> (try (rename_i heq; obtain rfl := snd_eq heq)))

theorem State.singleSweep_keeps {r s : State} (h : Keeps r s) :
    Keeps r (State.singleSweep s) := by
  unfold State.singleSweep
  repeat' first
    | with_reducible assumption
    | intro _
    | with_reducible apply State.startGroup_keeps
    | with_reducible apply keeps_ite
    | with_reducible apply keeps_foldl
    | (fail_if_no_progress with_reducible refine keeps_mk ?_ rfl rfl rfl rfl)
    | dsimp only
    | (split <;> (try (rename_i heq; obtain rfl := snd_eq heq)))

theorem State.calTick_keeps {r s : State} (h : Keeps r s) :
    Keeps r (State.calTick s) := by
  unfold State.calTick
  repeat' first
    | with_reducible assumption
    | intro _
    | with_reducible apply State.coefsTake_keeps
    | with_reducible apply State.startGroup_keeps
    | with_reducible apply State.ctrlTakes_keeps
    | with_reducible apply State.visitFollows_keeps
    | with_reducible apply State.singleSweep_keeps
    | with_reducible apply keeps_ite
    | with_reducible apply keeps_foldl
    | (fail_if_no_progress with_reducible refine keeps_mk ?_ rfl rfl rfl rfl)
    | dsimp only
    | (split <;> (try (rename_i heq; obtain rfl := snd_eq heq)))

theorem State.calStartSweep_keeps {r s : State} (h : Keeps r s) :
    Keeps r (State.calStartSweep s) := by
  unfold State.calStartSweep
  repeat' first
    | with_reducible assumption
    | intro _
    | with_reducible apply State.singleSweep_keeps
    | with_reducible apply keeps_ite
    | with_reducible apply keeps_foldl
    | (fail_if_no_progress with_reducible refine keeps_mk ?_ rfl rfl rfl rfl)
    | dsimp only
    | (split <;> (try (rename_i heq; obtain rfl := snd_eq heq)))

theorem State.calCtrl_keeps {r s : State} (h : Keeps r s) (v : Word) :
    Keeps r (State.calCtrl s v) := by
  unfold State.calCtrl
  repeat' first
    | with_reducible assumption
    | intro _
    | with_reducible apply State.storeReg_keeps
    | with_reducible apply State.calStartSweep_keeps
    | with_reducible apply keeps_ite
    | with_reducible apply keeps_foldl
    | (fail_if_no_progress with_reducible refine keeps_mk ?_ rfl rfl rfl rfl)
    | dsimp only
    | (split <;> (try (rename_i heq; obtain rfl := snd_eq heq)))

theorem execCalCtrlWrite_keeps {r s : State} (h : Keeps r s) (v : Word) :
    KeepsOut r (execCalCtrlWrite v s) := by
  unfold execCalCtrlWrite
  repeat' first
    | with_reducible assumption
    | intro _
    | with_reducible apply State.hostWrite_keeps
    | with_reducible apply State.calCtrl_keeps
    | with_reducible apply keeps_ite
    | with_reducible apply keeps_foldl
    | (fail_if_no_progress with_reducible refine keeps_mk ?_ rfl rfl rfl rfl)
    | with_reducible apply keepsOut_next
    | with_reducible apply keepsOut_fault
    | with_reducible apply keepsOut_ite
    | dsimp only
    | (split <;> (try (rename_i heq; obtain rfl := snd_eq heq)))

theorem execCalStart_keeps {r s : State} (h : Keeps r s) :
    KeepsOut r (execCalStart s) := by
  unfold execCalStart
  repeat' first
    | with_reducible assumption
    | intro _
    | with_reducible apply State.hostWrite_keeps
    | with_reducible apply State.calStartSweep_keeps
    | with_reducible apply keeps_ite
    | with_reducible apply keeps_foldl
    | (fail_if_no_progress with_reducible refine keeps_mk ?_ rfl rfl rfl rfl)
    | with_reducible apply keepsOut_next
    | with_reducible apply keepsOut_fault
    | with_reducible apply keepsOut_ite
    | dsimp only
    | (split <;> (try (rename_i heq; obtain rfl := snd_eq heq)))

theorem execSweepPeriodExpiry_keeps {r s : State} (h : Keeps r s) :
    KeepsOut r (execSweepPeriodExpiry s) := by
  unfold execSweepPeriodExpiry
  repeat' first
    | with_reducible assumption
    | intro _
    | with_reducible apply State.setCalBank_keeps
    | with_reducible apply State.startGroup_keeps
    | with_reducible apply keeps_ite
    | with_reducible apply keeps_foldl
    | (fail_if_no_progress with_reducible refine keeps_mk ?_ rfl rfl rfl rfl)
    | with_reducible apply keepsOut_next
    | with_reducible apply keepsOut_fault
    | with_reducible apply keepsOut_ite
    | dsimp only
    | (split <;> (try (rename_i heq; obtain rfl := snd_eq heq)))

theorem State.beginCapture_keeps {r s : State} (h : Keeps r s) (b : Nat) :
    Keeps r (State.beginCapture s b) := by
  unfold State.beginCapture
  repeat' first
    | with_reducible assumption
    | intro _
    | with_reducible apply State.setCalBank_keeps
    | with_reducible apply keeps_ite
    | with_reducible apply keeps_foldl
    | (fail_if_no_progress with_reducible refine keeps_mk ?_ rfl rfl rfl rfl)
    | dsimp only
    | (split <;> (try (rename_i heq; obtain rfl := snd_eq heq)))

theorem execCaptureStart_keeps {r s : State} (h : Keeps r s) (b : Fin 4) :
    KeepsOut r (execCaptureStart b s) := by
  unfold execCaptureStart
  repeat' first
    | with_reducible assumption
    | intro _
    | with_reducible apply State.setCalBank_keeps
    | with_reducible apply State.beginCapture_keeps
    | with_reducible apply keeps_ite
    | with_reducible apply keeps_foldl
    | (fail_if_no_progress with_reducible refine keeps_mk ?_ rfl rfl rfl rfl)
    | with_reducible apply keepsOut_next
    | with_reducible apply keepsOut_fault
    | with_reducible apply keepsOut_ite
    | dsimp only
    | (split <;> (try (rename_i heq; obtain rfl := snd_eq heq)))

theorem execCaptureEnd_keeps {r s : State} (h : Keeps r s) (b : Fin 4) (est : VisitEst) :
    KeepsOut r (execCaptureEnd b est s) := by
  unfold execCaptureEnd
  repeat' first
    | with_reducible assumption
    | intro _
    | with_reducible apply State.setCalBank_keeps
    | with_reducible apply keeps_ite
    | with_reducible apply keeps_foldl
    | (fail_if_no_progress with_reducible refine keeps_mk ?_ rfl rfl rfl rfl)
    | with_reducible apply keepsOut_next
    | with_reducible apply keepsOut_fault
    | with_reducible apply keepsOut_ite
    | dsimp only
    | (split <;> (try (rename_i heq; obtain rfl := snd_eq heq)))

theorem State.applyVisit_keeps {r s : State} (h : Keeps r s) (b : Nat) (e : VisitEst) :
    Keeps r (State.applyVisit s b e) := by
  unfold State.applyVisit
  repeat' first
    | with_reducible assumption
    | intro _
    | with_reducible apply State.hwSet_keeps
    | with_reducible apply State.setCalBank_keeps
    | with_reducible apply State.setCoef_keeps
    | with_reducible apply State.pushMon_keeps
    | with_reducible apply State.limit_keeps
    | with_reducible apply keeps_ite
    | with_reducible apply keeps_foldl
    | (fail_if_no_progress with_reducible refine keeps_mk ?_ rfl rfl rfl rfl)
    | dsimp only
    | (split <;> (try (rename_i heq; obtain rfl := snd_eq heq)))

theorem State.foldTerms_keeps {r s : State} (h : Keeps r s) (b : Nat) (terms : List Int) :
    Keeps r (State.foldTerms s b terms) := by
  unfold State.foldTerms
  repeat' first
    | with_reducible assumption
    | intro _
    | with_reducible apply State.setCalBank_keeps
    | with_reducible apply State.pushMon_keeps
    | with_reducible apply keeps_ite
    | with_reducible apply keeps_foldl
    | (fail_if_no_progress with_reducible refine keeps_mk ?_ rfl rfl rfl rfl)
    | dsimp only
    | (split <;> (try (rename_i heq; obtain rfl := snd_eq heq)))

theorem State.endSweep_keeps {r s : State} (h : Keeps r s) (b : Nat) (terms : List Int) :
    Keeps r (State.endSweep s b terms) := by
  unfold State.endSweep
  repeat' first
    | with_reducible assumption
    | intro _
    | with_reducible apply State.setF_keeps
    | with_reducible apply State.setBit_keeps
    | with_reducible apply State.hwSet_keeps
    | with_reducible apply State.setCalBank_keeps
    | with_reducible apply State.pushMon_keeps
    | with_reducible apply State.foldTerms_keeps
    | with_reducible apply keeps_ite
    | with_reducible apply keeps_foldl
    | (fail_if_no_progress with_reducible refine keeps_mk ?_ rfl rfl rfl rfl)
    | dsimp only
    | (split <;> (try (rename_i heq; obtain rfl := snd_eq heq)))

theorem execVisitEnd_keeps {r s : State} (h : Keeps r s) (b : Fin 4) (terms : List Int) :
    KeepsOut r (execVisitEnd b terms s) := by
  unfold execVisitEnd
  repeat' first
    | with_reducible assumption
    | intro _
    | with_reducible apply State.setCalBank_keeps
    | with_reducible apply State.applyVisit_keeps
    | with_reducible apply State.endSweep_keeps
    | with_reducible apply keeps_ite
    | with_reducible apply keeps_foldl
    | (fail_if_no_progress with_reducible refine keeps_mk ?_ rfl rfl rfl rfl)
    | with_reducible apply keepsOut_next
    | with_reducible apply keepsOut_fault
    | with_reducible apply keepsOut_ite
    | dsimp only
    | (split <;> (try (rename_i heq; obtain rfl := snd_eq heq)))

theorem State.inject_keeps {r s : State} (h : Keeps r s) (b : Nat) (source : Nat) :
    Keeps r (State.inject s b source) := by
  unfold State.inject
  repeat' first
    | with_reducible assumption
    | intro _
    | with_reducible apply State.setF_keeps
    | with_reducible apply State.hwSet_keeps
    | with_reducible apply State.rclAdd_keeps
    | with_reducible apply State.setCalBank_keeps
    | with_reducible apply keeps_ite
    | with_reducible apply keeps_foldl
    | (fail_if_no_progress with_reducible refine keeps_mk ?_ rfl rfl rfl rfl)
    | dsimp only
    | (split <;> (try (rename_i heq; obtain rfl := snd_eq heq)))

theorem execInj_keeps {r s : State} (h : Keeps r s) (v : Word) :
    KeepsOut r (execInj v s) := by
  unfold execInj
  repeat' first
    | with_reducible assumption
    | intro _
    | with_reducible apply State.hostWrite_keeps
    | with_reducible apply State.inject_keeps
    | with_reducible apply keeps_ite
    | with_reducible apply keeps_foldl
    | (fail_if_no_progress with_reducible refine keeps_mk ?_ rfl rfl rfl rfl)
    | with_reducible apply keepsOut_next
    | with_reducible apply keepsOut_fault
    | with_reducible apply keepsOut_ite
    | dsimp only
    | (split <;> (try (rename_i heq; obtain rfl := snd_eq heq)))

theorem execInjRunning_keeps {r s : State} (h : Keeps r s) (b : Fin 4) :
    KeepsOut r (execInjRunning b s) := by
  unfold execInjRunning
  repeat' first
    | with_reducible assumption
    | intro _
    | with_reducible apply State.setCalBank_keeps
    | with_reducible apply keeps_ite
    | with_reducible apply keeps_foldl
    | (fail_if_no_progress with_reducible refine keeps_mk ?_ rfl rfl rfl rfl)
    | with_reducible apply keepsOut_next
    | with_reducible apply keepsOut_fault
    | with_reducible apply keepsOut_ite
    | dsimp only
    | (split <;> (try (rename_i heq; obtain rfl := snd_eq heq)))

theorem execInjDone_keeps {r s : State} (h : Keeps r s) (b : Fin 4) (reading : BitVec 16) :
    KeepsOut r (execInjDone b reading s) := by
  unfold execInjDone
  repeat' first
    | with_reducible assumption
    | intro _
    | with_reducible apply State.setCalBank_keeps
    | with_reducible apply State.pushMon_keeps
    | with_reducible apply State.beginCapture_keeps
    | with_reducible apply keeps_ite
    | with_reducible apply keeps_foldl
    | (fail_if_no_progress with_reducible refine keeps_mk ?_ rfl rfl rfl rfl)
    | with_reducible apply keepsOut_next
    | with_reducible apply keepsOut_fault
    | with_reducible apply keepsOut_ite
    | dsimp only
    | (split <;> (try (rename_i heq; obtain rfl := snd_eq heq)))

theorem State.loadCoefShadow_keeps {r s : State} (h : Keeps r s) :
    Keeps r (State.loadCoefShadow s) := by
  unfold State.loadCoefShadow
  repeat' first
    | with_reducible assumption
    | intro _
    | with_reducible apply State.setRegs_keeps
    | with_reducible apply keeps_ite
    | with_reducible apply keeps_foldl
    | (fail_if_no_progress with_reducible refine keeps_mk ?_ rfl rfl rfl rfl)
    | dsimp only
    | (split <;> (try (rename_i heq; obtain rfl := snd_eq heq)))

theorem execCalSel_keeps {r s : State} (h : Keeps r s) (v : Word) :
    KeepsOut r (execCalSel v s) := by
  unfold execCalSel
  repeat' first
    | with_reducible assumption
    | intro _
    | with_reducible apply State.hostWrite_keeps
    | with_reducible apply State.storeReg_keeps
    | with_reducible apply State.loadCoefShadow_keeps
    | with_reducible apply keeps_ite
    | with_reducible apply keeps_foldl
    | (fail_if_no_progress with_reducible refine keeps_mk ?_ rfl rfl rfl rfl)
    | with_reducible apply keepsOut_next
    | with_reducible apply keepsOut_fault
    | with_reducible apply keepsOut_ite
    | dsimp only
    | (split <;> (try (rename_i heq; obtain rfl := snd_eq heq)))

theorem State.coefCommit_keeps {r s : State} (h : Keeps r s) :
    Keeps r (State.coefCommit s) := by
  unfold State.coefCommit
  repeat' first
    | with_reducible assumption
    | intro _
    | with_reducible apply State.hwSet_keeps
    | with_reducible apply State.setCoef_keeps
    | with_reducible apply keeps_ite
    | with_reducible apply keeps_foldl
    | (fail_if_no_progress with_reducible refine keeps_mk ?_ rfl rfl rfl rfl)
    | dsimp only
    | (split <;> (try (rename_i heq; obtain rfl := snd_eq heq)))

theorem execCoefCommit_keeps {r s : State} (h : Keeps r s) :
    KeepsOut r (execCoefCommit s) := by
  unfold execCoefCommit
  repeat' first
    | with_reducible assumption
    | intro _
    | with_reducible apply State.hostWrite_keeps
    | with_reducible apply State.coefCommit_keeps
    | with_reducible apply keeps_ite
    | with_reducible apply keeps_foldl
    | (fail_if_no_progress with_reducible refine keeps_mk ?_ rfl rfl rfl rfl)
    | with_reducible apply keepsOut_next
    | with_reducible apply keepsOut_fault
    | with_reducible apply keepsOut_ite
    | dsimp only
    | (split <;> (try (rename_i heq; obtain rfl := snd_eq heq)))

theorem State.calRelock_keeps {r s : State} (h : Keeps r s) :
    Keeps r (State.calRelock s) := by
  unfold State.calRelock
  repeat' first
    | with_reducible assumption
    | intro _
    | with_reducible apply State.setBit_keeps
    | with_reducible apply State.hwSet_keeps
    | with_reducible apply State.setCalBank_keeps
    | with_reducible apply State.idleBank_keeps
    | with_reducible apply State.abortVisit_keeps
    | with_reducible apply keeps_ite
    | with_reducible apply keeps_foldl
    | (fail_if_no_progress with_reducible refine keeps_mk ?_ rfl rfl rfl rfl)
    | dsimp only
    | (split <;> (try (rename_i heq; obtain rfl := snd_eq heq)))

theorem State.calResume_keeps {r s : State} (h : Keeps r s) :
    Keeps r (State.calResume s) := by
  unfold State.calResume
  repeat' first
    | with_reducible assumption
    | intro _
    | with_reducible apply State.setCalBank_keeps
    | with_reducible apply State.startSweep_keeps
    | with_reducible apply keeps_ite
    | with_reducible apply keeps_foldl
    | (fail_if_no_progress with_reducible refine keeps_mk ?_ rfl rfl rfl rfl)
    | dsimp only
    | (split <;> (try (rename_i heq; obtain rfl := snd_eq heq)))

theorem State.calRestart_keeps {r s : State} (h : Keeps r s) :
    Keeps r (State.calRestart s) := by
  unfold State.calRestart
  repeat' first
    | with_reducible assumption
    | intro _
    | with_reducible apply State.idleBank_keeps
    | with_reducible apply State.abortVisit_keeps
    | with_reducible apply State.calResume_keeps
    | with_reducible apply keeps_ite
    | with_reducible apply keeps_foldl
    | (fail_if_no_progress with_reducible refine keeps_mk ?_ rfl rfl rfl rfl)
    | dsimp only
    | (split <;> (try (rename_i heq; obtain rfl := snd_eq heq)))

theorem State.calReopen_keeps {r s : State} (h : Keeps r s) :
    Keeps r (State.calReopen s) := by
  unfold State.calReopen
  repeat' first
    | with_reducible assumption
    | intro _
    | with_reducible apply State.putCoef_keeps
    | with_reducible apply State.calResume_keeps
    | with_reducible apply keeps_ite
    | with_reducible apply keeps_foldl
    | (fail_if_no_progress with_reducible refine keeps_mk ?_ rfl rfl rfl rfl)
    | dsimp only
    | (split <;> (try (rename_i heq; obtain rfl := snd_eq heq)))

theorem State.calHalt_keeps {r s : State} (h : Keeps r s) :
    Keeps r (State.calHalt s) := by
  unfold State.calHalt
  repeat' first
    | with_reducible assumption
    | intro _
    | with_reducible apply State.setBit_keeps
    | with_reducible apply State.setCalBank_keeps
    | with_reducible apply keeps_ite
    | with_reducible apply keeps_foldl
    | (fail_if_no_progress with_reducible refine keeps_mk ?_ rfl rfl rfl rfl)
    | dsimp only
    | (split <;> (try (rename_i heq; obtain rfl := snd_eq heq)))

end Sys2Proof.Machine
end

