-- ==== Sys2Proof/Laws/KeepsLaneOps.lean ====
section
/-! SUPPORT. What every operation of Machine/LaneOps.lean keeps: the queue, the fabric clock, the canonical form of the register
file and every burnt fuse. -/

set_option linter.all false

namespace Sys2Proof.Machine

theorem State.setLane_keeps {r s : State} (h : Keeps r s) (l : Nat) (x : LaneSt) :
    Keeps r (State.setLane s l x) := by
  unfold State.setLane
  repeat' first
    | with_reducible assumption
    | intro _
    | with_reducible apply keeps_ite
    | with_reducible apply keeps_foldl
    | (fail_if_no_progress with_reducible refine keeps_mk ?_ rfl rfl rfl rfl)
    | dsimp only
    | (split <;> (try (rename_i heq; obtain rfl := snd_eq heq)))

theorem State.showLane_keeps {r s : State} (h : Keeps r s) (l : Nat) :
    Keeps r (State.showLane s l) := by
  unfold State.showLane
  repeat' first
    | with_reducible assumption
    | intro _
    | with_reducible apply State.setBit_keeps
    | with_reducible apply State.set64_keeps
    | with_reducible apply keeps_ite
    | with_reducible apply keeps_foldl
    | (fail_if_no_progress with_reducible refine keeps_mk ?_ rfl rfl rfl rfl)
    | dsimp only
    | (split <;> (try (rename_i heq; obtain rfl := snd_eq heq)))

theorem State.gridClock_keeps {r s : State} (h : Keeps r s) (l : Nat) :
    Keeps r (State.gridClock s l) := by
  unfold State.gridClock
  repeat' first
    | with_reducible assumption
    | intro _
    | with_reducible apply State.setBit_keeps
    | with_reducible apply State.hwSet_keeps
    | with_reducible apply State.rclAdd_keeps
    | with_reducible apply State.setLane_keeps
    | with_reducible apply keeps_ite
    | with_reducible apply keeps_foldl
    | (fail_if_no_progress with_reducible refine keeps_mk ?_ rfl rfl rfl rfl)
    | dsimp only
    | (split <;> (try (rename_i heq; obtain rfl := snd_eq heq)))

theorem State.bindLane_keeps {r s : State} (h : Keeps r s) (l : Nat) (c : Nat) (outRate : Rat) :
    Keeps r (State.bindLane s l c outRate) := by
  unfold State.bindLane
  repeat' first
    | with_reducible assumption
    | intro _
    | with_reducible apply State.setReg_keeps
    | with_reducible apply State.setF_keeps
    | with_reducible apply State.setBit_keeps
    | with_reducible apply State.nextFree_keeps
    | with_reducible apply State.setLane_keeps
    | with_reducible apply State.showLane_keeps
    | with_reducible apply keeps_ite
    | with_reducible apply keeps_foldl
    | (fail_if_no_progress with_reducible refine keeps_mk ?_ rfl rfl rfl rfl)
    | dsimp only
    | (split <;> (try (rename_i heq; obtain rfl := snd_eq heq)))

theorem State.freeLane_keeps {r s : State} (h : Keeps r s) (l : Nat) :
    Keeps r (State.freeLane s l) := by
  unfold State.freeLane
  repeat' first
    | with_reducible assumption
    | intro _
    | with_reducible apply State.setReg_keeps
    | with_reducible apply State.setBit_keeps
    | with_reducible apply State.setLane_keeps
    | with_reducible apply State.showLane_keeps
    | with_reducible apply keeps_ite
    | with_reducible apply keeps_foldl
    | (fail_if_no_progress with_reducible refine keeps_mk ?_ rfl rfl rfl rfl)
    | dsimp only
    | (split <;> (try (rename_i heq; obtain rfl := snd_eq heq)))

theorem State.dropSets_keeps {r s : State} (h : Keeps r s) (l : Nat) :
    Keeps r (State.dropSets s l) := by
  unfold State.dropSets
  repeat' first
    | with_reducible assumption
    | intro _
    | with_reducible apply State.setLane_keeps
    | with_reducible apply State.showLane_keeps
    | with_reducible apply keeps_ite
    | with_reducible apply keeps_foldl
    | (fail_if_no_progress with_reducible refine keeps_mk ?_ rfl rfl rfl rfl)
    | dsimp only
    | (split <;> (try (rename_i heq; obtain rfl := snd_eq heq)))

theorem State.showBoundary_keeps {r s : State} (h : Keeps r s) (l : Nat) (word : Nat) (n : Nat) :
    Keeps r (State.showBoundary s l word n) := by
  unfold State.showBoundary
  repeat' first
    | with_reducible assumption
    | intro _
    | with_reducible apply State.setReg_keeps
    | with_reducible apply State.set64_keeps
    | with_reducible apply State.hwSet_keeps
    | with_reducible apply State.rclAdd_keeps
    | with_reducible apply keeps_ite
    | with_reducible apply keeps_foldl
    | (fail_if_no_progress with_reducible refine keeps_mk ?_ rfl rfl rfl rfl)
    | dsimp only
    | (split <;> (try (rename_i heq; obtain rfl := snd_eq heq)))

theorem State.markBoundary_keeps {r s : State} (h : Keeps r s) (l : Nat) (back : Nat) :
    Keeps r (State.markBoundary s l back) := by
  unfold State.markBoundary
  repeat' first
    | with_reducible assumption
    | intro _
    | with_reducible apply State.setLane_keeps
    | with_reducible apply State.showBoundary_keeps
    | with_reducible apply keeps_ite
    | with_reducible apply keeps_foldl
    | (fail_if_no_progress with_reducible refine keeps_mk ?_ rfl rfl rfl rfl)
    | dsimp only
    | (split <;> (try (rename_i heq; obtain rfl := snd_eq heq)))

theorem State.marksShow_keeps {r s : State} (h : Keeps r s) :
    Keeps r (State.marksShow s) := by
  unfold State.marksShow
  repeat' first
    | with_reducible assumption
    | intro _
    | with_reducible apply State.setLane_keeps
    | with_reducible apply State.showBoundary_keeps
    | with_reducible apply keeps_ite
    | with_reducible apply keeps_foldl
    | (fail_if_no_progress with_reducible refine keeps_mk ?_ rfl rfl rfl rfl)
    | dsimp only
    | (split <;> (try (rename_i heq; obtain rfl := snd_eq heq)))

theorem State.takeSet_keeps {r s : State} (h : Keeps r s) (l : Nat) (back : Nat) (p : LaneSet) :
    Keeps r (State.takeSet s l back p) := by
  unfold State.takeSet
  repeat' first
    | with_reducible assumption
    | intro _
    | with_reducible apply State.setLane_keeps
    | with_reducible apply State.showLane_keeps
    | with_reducible apply State.markBoundary_keeps
    | with_reducible apply keeps_ite
    | with_reducible apply keeps_foldl
    | (fail_if_no_progress with_reducible refine keeps_mk ?_ rfl rfl rfl rfl)
    | dsimp only
    | (split <;> (try (rename_i heq; obtain rfl := snd_eq heq)))

theorem State.refuseSet_keeps {r s : State} (h : Keeps r s) (l : Nat) (cause : Nat) :
    Keeps r (State.refuseSet s l cause) := by
  unfold State.refuseSet
  repeat' first
    | with_reducible assumption
    | intro _
    | with_reducible apply State.setF_keeps
    | with_reducible apply State.hwSet_keeps
    | with_reducible apply State.showLane_keeps
    | with_reducible apply keeps_ite
    | with_reducible apply keeps_foldl
    | (fail_if_no_progress with_reducible refine keeps_mk ?_ rfl rfl rfl rfl)
    | dsimp only
    | (split <;> (try (rename_i heq; obtain rfl := snd_eq heq)))

theorem State.handSet_keeps {r s : State} (h : Keeps r s) (l : Nat) (back : Nat) (p : LaneSet) (segOpen : Bool) (committed : Rat) :
    Keeps r (State.handSet s l back p segOpen committed).2 := by
  unfold State.handSet
  repeat' first
    | with_reducible assumption
    | intro _
    | with_reducible apply State.setLane_keeps
    | with_reducible apply State.showLane_keeps
    | with_reducible apply State.takeSet_keeps
    | with_reducible apply State.refuseSet_keeps
    | with_reducible apply keeps_ite
    | with_reducible apply keeps_foldl
    | (fail_if_no_progress with_reducible refine keeps_mk ?_ rfl rfl rfl rfl)
    | with_reducible apply keeps_ite2
    | dsimp only
    | (split <;> (try (rename_i heq; obtain rfl := snd_eq heq)))

theorem State.handover_keeps {r s : State} (h : Keeps r s) (l : Nat) (segOpen : Bool) (committed : Rat) :
    Keeps r (State.handover s l segOpen committed).2 := by
  unfold State.handover
  repeat' first
    | with_reducible assumption
    | intro _
    | with_reducible apply State.hwSet_keeps
    | with_reducible apply State.setLane_keeps
    | with_reducible apply State.showLane_keeps
    | with_reducible apply State.handSet_keeps
    | with_reducible apply keeps_ite
    | with_reducible apply keeps_foldl
    | (fail_if_no_progress with_reducible refine keeps_mk ?_ rfl rfl rfl rfl)
    | with_reducible apply keeps_ite2
    | dsimp only
    | (split <;> (try (rename_i heq; obtain rfl := snd_eq heq)))

theorem State.undoCoefs_keeps {r s : State} (h : Keeps r s) (l : Nat) (stage : Nat) (b : Bool) :
    Keeps r (State.undoCoefs s l stage b) := by
  unfold State.undoCoefs
  repeat' first
    | with_reducible assumption
    | intro _
    | with_reducible apply State.hwSet_keeps
    | with_reducible apply State.setLane_keeps
    | with_reducible apply keeps_ite
    | with_reducible apply keeps_foldl
    | (fail_if_no_progress with_reducible refine keeps_mk ?_ rfl rfl rfl rfl)
    | dsimp only
    | (split <;> (try (rename_i heq; obtain rfl := snd_eq heq)))

theorem State.coefSwap_keeps {r s : State} (h : Keeps r s) (l : Nat) (stage : Nat) (sel : Nat) :
    Keeps r (State.coefSwap s l stage sel) := by
  unfold State.coefSwap
  repeat' first
    | with_reducible assumption
    | intro _
    | with_reducible apply State.setLane_keeps
    | with_reducible apply keeps_ite
    | with_reducible apply keeps_foldl
    | (fail_if_no_progress with_reducible refine keeps_mk ?_ rfl rfl rfl rfl)
    | dsimp only
    | (split <;> (try (rename_i heq; obtain rfl := snd_eq heq)))

theorem State.takeBank_keeps {r s : State} (h : Keeps r s) (l : Nat) (stage : Nat) (new : Bool) :
    Keeps r (State.takeBank s l stage new) := by
  unfold State.takeBank
  repeat' first
    | with_reducible assumption
    | intro _
    | with_reducible apply State.setLane_keeps
    | with_reducible apply State.showLane_keeps
    | with_reducible apply State.markBoundary_keeps
    | with_reducible apply State.undoCoefs_keeps
    | with_reducible apply keeps_ite
    | with_reducible apply keeps_foldl
    | (fail_if_no_progress with_reducible refine keeps_mk ?_ rfl rfl rfl rfl)
    | dsimp only
    | (split <;> (try (rename_i heq; obtain rfl := snd_eq heq)))

theorem State.coefWrite_keeps {r s : State} (h : Keeps r s) (l : Nat) (i : Nat) (v : Word) :
    Keeps r (State.coefWrite s l i v) := by
  unfold State.coefWrite
  repeat' first
    | with_reducible assumption
    | intro _
    | with_reducible apply State.hwSet_keeps
    | with_reducible apply State.setLane_keeps
    | with_reducible apply keeps_ite
    | with_reducible apply keeps_foldl
    | (fail_if_no_progress with_reducible refine keeps_mk ?_ rfl rfl rfl rfl)
    | dsimp only
    | (split <;> (try (rename_i heq; obtain rfl := snd_eq heq)))

end Sys2Proof.Machine
end

