-- ==== Sys2Proof/Laws/KeepsPlace.lean ====
section
/-! SUPPORT. What every operation of Machine/Place.lean keeps: the queue, the fabric clock, the canonical form of the register
file and every burnt fuse. -/

set_option linter.all false

namespace Sys2Proof.Machine

theorem State.setKeep_keeps {r s : State} (h : Keeps r s) (c : Nat) (k : CtxKeep) :
    Keeps r (State.setKeep s c k) := by
  unfold State.setKeep
  repeat' first
    | with_reducible assumption
    | intro _
    | with_reducible apply keeps_ite
    | with_reducible apply keeps_foldl
    | (fail_if_no_progress with_reducible refine keeps_mk ?_ rfl rfl rfl rfl)
    | dsimp only
    | (split <;> (try (rename_i heq; obtain rfl := snd_eq heq)))

theorem State.setLive_keeps {r s : State} (h : Keeps r s) (c : Nat) (x : Option LiveCtx) :
    Keeps r (State.setLive s c x) := by
  unfold State.setLive
  repeat' first
    | with_reducible assumption
    | intro _
    | with_reducible apply keeps_ite
    | with_reducible apply keeps_foldl
    | (fail_if_no_progress with_reducible refine keeps_mk ?_ rfl rfl rfl rfl)
    | dsimp only
    | (split <;> (try (rename_i heq; obtain rfl := snd_eq heq)))

theorem State.mapRecs_keeps {r s : State} (h : Keeps r s) (sel : Record → Bool) (f : Record → Record) :
    Keeps r (State.mapRecs s sel f) := by
  unfold State.mapRecs
  repeat' first
    | with_reducible assumption
    | intro _
    | with_reducible apply keeps_ite
    | with_reducible apply keeps_foldl
    | (fail_if_no_progress with_reducible refine keeps_mk ?_ rfl rfl rfl rfl)
    | dsimp only
    | (split <;> (try (rename_i heq; obtain rfl := snd_eq heq)))

theorem State.placeChunks_keeps {r s : State} (h : Keeps r s) (c : Nat) (start : Nat) (stop : Nat) :
    Keeps r (State.placeChunks s c start stop) := by
  unfold State.placeChunks
  repeat' first
    | with_reducible assumption
    | intro _
    | with_reducible apply State.setKeep_keeps
    | with_reducible apply keeps_ite
    | with_reducible apply keeps_foldl
    | (fail_if_no_progress with_reducible refine keeps_mk ?_ rfl rfl rfl rfl)
    | dsimp only
    | (split <;> (try (rename_i heq; obtain rfl := snd_eq heq)))

theorem State.refreshResv_keeps {r s : State} (h : Keeps r s) (c : Nat) :
    Keeps r (State.refreshResv s c) := by
  unfold State.refreshResv
  repeat' first
    | with_reducible assumption
    | intro _
    | with_reducible apply State.setKeep_keeps
    | with_reducible apply keeps_ite
    | with_reducible apply keeps_foldl
    | (fail_if_no_progress with_reducible refine keeps_mk ?_ rfl rfl rfl rfl)
    | dsimp only
    | (split <;> (try (rename_i heq; obtain rfl := snd_eq heq)))

theorem State.gcChunks_keeps {r s : State} (h : Keeps r s) (c : Nat) :
    Keeps r (State.gcChunks s c) := by
  unfold State.gcChunks
  repeat' first
    | with_reducible assumption
    | intro _
    | with_reducible apply State.setKeep_keeps
    | with_reducible apply State.refreshResv_keeps
    | with_reducible apply keeps_ite
    | with_reducible apply keeps_foldl
    | (fail_if_no_progress with_reducible refine keeps_mk ?_ rfl rfl rfl rfl)
    | dsimp only
    | (split <;> (try (rename_i heq; obtain rfl := snd_eq heq)))

end Sys2Proof.Machine
end

