-- ==== Sys2Proof/Laws/KeepsShuttle.lean ====
section
/-! SUPPORT. What every operation of Machine/Shuttle.lean keeps: the queue, the fabric clock, the canonical form of the register
file and every burnt fuse. -/

set_option linter.all false

namespace Sys2Proof.Machine

theorem State.setPool_keeps {r s : State} (h : Keeps r s) (p : Nat) (l : List PoolEntry) :
    Keeps r (State.setPool s p l) := by
  unfold State.setPool
  repeat' first
    | with_reducible assumption
    | intro _
    | with_reducible apply keeps_ite
    | with_reducible apply keeps_foldl
    | (fail_if_no_progress with_reducible refine keeps_mk ?_ rfl rfl rfl rfl)
    | dsimp only
    | (split <;> (try (rename_i heq; obtain rfl := snd_eq heq)))

theorem State.transactionDone_keeps {r s : State} (h : Keeps r s) (p : Nat) (i : Nat) :
    Keeps r (State.transactionDone s p i) := by
  unfold State.transactionDone
  repeat' first
    | with_reducible assumption
    | intro _
    | with_reducible apply State.setPool_keeps
    | with_reducible apply keeps_ite
    | with_reducible apply keeps_foldl
    | (fail_if_no_progress with_reducible refine keeps_mk ?_ rfl rfl rfl rfl)
    | dsimp only
    | (split <;> (try (rename_i heq; obtain rfl := snd_eq heq)))

theorem State.nextTransaction_keeps {r s : State} (h : Keeps r s) (p : Nat) :
    Keeps r (State.nextTransaction s p) := by
  unfold State.nextTransaction
  repeat' first
    | with_reducible assumption
    | intro _
    | with_reducible apply State.transactionDone_keeps
    | with_reducible apply keeps_ite
    | with_reducible apply keeps_foldl
    | (fail_if_no_progress with_reducible refine keeps_mk ?_ rfl rfl rfl rfl)
    | dsimp only
    | (split <;> (try (rename_i heq; obtain rfl := snd_eq heq)))

theorem State.servePool_keeps {r s : State} (h : Keeps r s) (p : Nat) :
    Keeps r (State.servePool s p) := by
  unfold State.servePool
  repeat' first
    | with_reducible assumption
    | intro _
    | with_reducible apply State.nextTransaction_keeps
    | with_reducible apply keeps_ite
    | with_reducible apply keeps_foldl
    | (fail_if_no_progress with_reducible refine keeps_mk ?_ rfl rfl rfl rfl)
    | dsimp only
    | (split <;> (try (rename_i heq; obtain rfl := snd_eq heq)))

theorem State.drainPool_keeps {r s : State} (h : Keeps r s) (p : Nat) :
    Keeps r (State.drainPool s p) := by
  unfold State.drainPool
  repeat' first
    | with_reducible assumption
    | intro _
    | with_reducible apply State.nextTransaction_keeps
    | with_reducible apply keeps_ite
    | with_reducible apply keeps_foldl
    | (fail_if_no_progress with_reducible refine keeps_mk ?_ rfl rfl rfl rfl)
    | dsimp only
    | (split <;> (try (rename_i heq; obtain rfl := snd_eq heq)))

theorem State.poolsTick_keeps {r s : State} (h : Keeps r s) :
    Keeps r (State.poolsTick s) := by
  unfold State.poolsTick
  repeat' first
    | with_reducible assumption
    | intro _
    | with_reducible apply State.servePool_keeps
    | with_reducible apply keeps_ite
    | with_reducible apply keeps_foldl
    | (fail_if_no_progress with_reducible refine keeps_mk ?_ rfl rfl rfl rfl)
    | dsimp only
    | (split <;> (try (rename_i heq; obtain rfl := snd_eq heq)))

theorem State.setShuttle_keeps {r s : State} (h : Keeps r s) (st : Nat) (x : Shuttle) :
    Keeps r (State.setShuttle s st x) := by
  unfold State.setShuttle
  repeat' first
    | with_reducible assumption
    | intro _
    | with_reducible apply keeps_ite
    | with_reducible apply keeps_foldl
    | (fail_if_no_progress with_reducible refine keeps_mk ?_ rfl rfl rfl rfl)
    | dsimp only
    | (split <;> (try (rename_i heq; obtain rfl := snd_eq heq)))

theorem State.offer_keeps {r₀ s : State} (h : Keeps r₀ s) (r : Nat) (q : MemReq) :
    Keeps r₀ (State.offer s r q) := by
  unfold State.offer
  repeat' first
    | with_reducible assumption
    | intro _
    | with_reducible apply State.setShuttle_keeps
    | with_reducible apply keeps_ite
    | with_reducible apply keeps_foldl
    | (fail_if_no_progress with_reducible refine keeps_mk ?_ rfl rfl rfl rfl)
    | dsimp only
    | (split <;> (try (rename_i heq; obtain rfl := snd_eq heq)))

theorem State.offerArea_keeps {r₀ s : State} (h : Keeps r₀ s) (r : Nat) (write : Bool) (data : List Byte) (lo : Nat) (hi : Nat) (place : Nat → Option (Nat × Nat)) :
    Keeps r₀ (State.offerArea s r write data lo hi place) := by
  unfold State.offerArea
  repeat' first
    | with_reducible assumption
    | intro _
    | with_reducible apply State.offer_keeps
    | with_reducible apply keeps_ite
    | with_reducible apply keeps_foldl
    | (fail_if_no_progress with_reducible refine keeps_mk ?_ rfl rfl rfl rfl)
    | dsimp only
    | (split <;> (try (rename_i heq; obtain rfl := snd_eq heq)))

theorem State.offerRing_keeps {r₀ s : State} (h : Keeps r₀ s) (r : Nat) (write : Bool) (data : List Byte) (c : Nat) (start : Nat) (stop : Nat) :
    Keeps r₀ (State.offerRing s r write data c start stop) := by
  unfold State.offerRing
  repeat' first
    | with_reducible assumption
    | intro _
    | with_reducible apply State.offerArea_keeps
    | with_reducible apply keeps_ite
    | with_reducible apply keeps_foldl
    | (fail_if_no_progress with_reducible refine keeps_mk ?_ rfl rfl rfl rfl)
    | dsimp only
    | (split <;> (try (rename_i heq; obtain rfl := snd_eq heq)))

theorem State.offerRead_keeps {r₀ s : State} (h : Keeps r₀ s) (req : Nat) (r : Record) (lo : Nat) (hi : Nat) :
    Keeps r₀ (State.offerRead s req r lo hi) := by
  unfold State.offerRead
  repeat' first
    | with_reducible assumption
    | intro _
    | with_reducible apply State.offerArea_keeps
    | with_reducible apply State.offerRing_keeps
    | with_reducible apply State.replay_keeps
    | with_reducible apply keeps_ite
    | with_reducible apply keeps_foldl
    | (fail_if_no_progress with_reducible refine keeps_mk ?_ rfl rfl rfl rfl)
    | dsimp only
    | (split <;> (try (rename_i heq; obtain rfl := snd_eq heq)))

theorem State.offerSlot_keeps {r₀ s : State} (h : Keeps r₀ s) (req : Nat) (write : Bool) (data : List Byte) (r : Record) :
    Keeps r₀ (State.offerSlot s req write data r) := by
  unfold State.offerSlot
  repeat' first
    | with_reducible assumption
    | intro _
    | with_reducible apply State.offer_keeps
    | with_reducible apply keeps_ite
    | with_reducible apply keeps_foldl
    | (fail_if_no_progress with_reducible refine keeps_mk ?_ rfl rfl rfl rfl)
    | dsimp only
    | (split <;> (try (rename_i heq; obtain rfl := snd_eq heq)))

theorem State.enterPool_keeps {r₀ s : State} (h : Keeps r₀ s) (r : Nat) (q : MemReq) :
    Keeps r₀ (State.enterPool s r q) := by
  unfold State.enterPool
  repeat' first
    | with_reducible assumption
    | intro _
    | with_reducible apply State.setPool_keeps
    | with_reducible apply keeps_ite
    | with_reducible apply keeps_foldl
    | (fail_if_no_progress with_reducible refine keeps_mk ?_ rfl rfl rfl rfl)
    | dsimp only
    | (split <;> (try (rename_i heq; obtain rfl := snd_eq heq)))

theorem State.noteMasked_keeps {r s : State} (h : Keeps r s) (st : Nat) :
    Keeps r (State.noteMasked s st) := by
  unfold State.noteMasked
  repeat' first
    | with_reducible assumption
    | intro _
    | with_reducible apply State.hwSet_keeps
    | with_reducible apply State.setShuttle_keeps
    | with_reducible apply keeps_ite
    | with_reducible apply keeps_foldl
    | (fail_if_no_progress with_reducible refine keeps_mk ?_ rfl rfl rfl rfl)
    | dsimp only
    | (split <;> (try (rename_i heq; obtain rfl := snd_eq heq)))

theorem State.arbGrant_keeps {r s : State} (h : Keeps r s) (st : Nat) (g : Nat × Nat × Bool) :
    Keeps r (State.arbGrant s st g) := by
  unfold State.arbGrant
  repeat' first
    | with_reducible assumption
    | intro _
    | with_reducible apply State.hwSet_keeps
    | with_reducible apply State.rclAdd_keeps
    | with_reducible apply State.setShuttle_keeps
    | with_reducible apply State.enterPool_keeps
    | with_reducible apply keeps_ite
    | with_reducible apply keeps_foldl
    | (fail_if_no_progress with_reducible refine keeps_mk ?_ rfl rfl rfl rfl)
    | dsimp only
    | (split <;> (try (rename_i heq; obtain rfl := snd_eq heq)))

theorem State.startWindow_keeps {r s : State} (h : Keeps r s) (st : Nat) :
    Keeps r (State.startWindow s st) := by
  unfold State.startWindow
  repeat' first
    | with_reducible assumption
    | intro _
    | with_reducible apply State.setShuttle_keeps
    | with_reducible apply keeps_ite
    | with_reducible apply keeps_foldl
    | (fail_if_no_progress with_reducible refine keeps_mk ?_ rfl rfl rfl rfl)
    | dsimp only
    | (split <;> (try (rename_i heq; obtain rfl := snd_eq heq)))

theorem State.arbSlots_keeps {r s : State} (h : Keeps r s) (st : Nat) :
    Keeps r (State.arbSlots s st) := by
  unfold State.arbSlots
  repeat' first
    | with_reducible assumption
    | intro _
    | with_reducible apply State.setShuttle_keeps
    | with_reducible apply State.arbGrant_keeps
    | with_reducible apply keeps_ite
    | with_reducible apply keeps_foldl
    | (fail_if_no_progress with_reducible refine keeps_mk ?_ rfl rfl rfl rfl)
    | dsimp only
    | (split <;> (try (rename_i heq; obtain rfl := snd_eq heq)))

theorem State.arbRound_keeps {r s : State} (h : Keeps r s) (st : Nat) :
    Keeps r (State.arbRound s st) := by
  unfold State.arbRound
  repeat' first
    | with_reducible assumption
    | intro _
    | with_reducible apply State.noteMasked_keeps
    | with_reducible apply State.startWindow_keeps
    | with_reducible apply State.arbSlots_keeps
    | with_reducible apply keeps_ite
    | with_reducible apply keeps_foldl
    | (fail_if_no_progress with_reducible refine keeps_mk ?_ rfl rfl rfl rfl)
    | dsimp only
    | (split <;> (try (rename_i heq; obtain rfl := snd_eq heq)))

theorem State.shuttleTick_keeps {r s : State} (h : Keeps r s) :
    Keeps r (State.shuttleTick s) := by
  unfold State.shuttleTick
  repeat' first
    | with_reducible assumption
    | intro _
    | with_reducible apply State.arbRound_keeps
    | with_reducible apply keeps_ite
    | with_reducible apply keeps_foldl
    | (fail_if_no_progress with_reducible refine keeps_mk ?_ rfl rfl rfl rfl)
    | dsimp only
    | (split <;> (try (rename_i heq; obtain rfl := snd_eq heq)))

theorem execQuotaWindowEnd_keeps {r s : State} (h : Keeps r s) (stack : Fin 2) :
    KeepsOut r (execQuotaWindowEnd stack s) := by
  unfold execQuotaWindowEnd
  repeat' first
    | with_reducible assumption
    | intro _
    | with_reducible apply State.startWindow_keeps
    | with_reducible apply keeps_ite
    | with_reducible apply keeps_foldl
    | (fail_if_no_progress with_reducible refine keeps_mk ?_ rfl rfl rfl rfl)
    | with_reducible apply keepsOut_next
    | with_reducible apply keepsOut_fault
    | with_reducible apply keepsOut_ite
    | dsimp only
    | (split <;> (try (rename_i heq; obtain rfl := snd_eq heq)))

end Sys2Proof.Machine
end

