-- ==== Sys2Proof/Laws/KeepsSwap.lean ====
section
/-! SUPPORT. What every operation of Machine/Swap.lean keeps: the queue, the fabric clock, the canonical form of the register
file and every burnt fuse. -/

set_option linter.all false

namespace Sys2Proof.Machine

theorem State.setCursor_keeps {r s : State} (h : Keeps r s) (k : Nat) (x : CursorSt) :
    Keeps r (State.setCursor s k x) := by
  unfold State.setCursor
  repeat' first
    | with_reducible assumption
    | intro _
    | with_reducible apply keeps_ite
    | with_reducible apply keeps_foldl
    | (fail_if_no_progress with_reducible refine keeps_mk ?_ rfl rfl rfl rfl)
    | dsimp only
    | (split <;> (try (rename_i heq; obtain rfl := snd_eq heq)))

theorem State.arrive_keeps {r s : State} (h : Keeps r s) (k : Nat) (tread : Nat) :
    Keeps r (State.arrive s k tread) := by
  unfold State.arrive
  repeat' first
    | with_reducible assumption
    | intro _
    | with_reducible apply State.setF_keeps
    | with_reducible apply State.setBit_keeps
    | with_reducible apply State.setCursor_keeps
    | with_reducible apply keeps_ite
    | with_reducible apply keeps_foldl
    | (fail_if_no_progress with_reducible refine keeps_mk ?_ rfl rfl rfl rfl)
    | dsimp only
    | (split <;> (try (rename_i heq; obtain rfl := snd_eq heq)))

theorem State.arriveAll_keeps {r s : State} (h : Keeps r s) (restart : Bool) (n : Nat) :
    Keeps r (State.arriveAll s restart n) := by
  unfold State.arriveAll
  repeat' first
    | with_reducible assumption
    | intro _
    | with_reducible apply State.setCursor_keeps
    | with_reducible apply State.arrive_keeps
    | with_reducible apply keeps_ite
    | with_reducible apply keeps_foldl
    | (fail_if_no_progress with_reducible refine keeps_mk ?_ rfl rfl rfl rfl)
    | dsimp only
    | (split <;> (try (rename_i heq; obtain rfl := snd_eq heq)))

theorem State.finishSwap_keeps {r s : State} (h : Keeps r s) :
    Keeps r (State.finishSwap s) := by
  unfold State.finishSwap
  repeat' first
    | with_reducible assumption
    | intro _
    | with_reducible apply State.arriveAll_keeps
    | with_reducible apply keeps_ite
    | with_reducible apply keeps_foldl
    | (fail_if_no_progress with_reducible refine keeps_mk ?_ rfl rfl rfl rfl)
    | dsimp only
    | (split <;> (try (rename_i heq; obtain rfl := snd_eq heq)))

theorem State.exchange_keeps {r s : State} (h : Keeps r s) (q : SwapReq) (b : Nat) :
    Keeps r (State.exchange s q b) := by
  unfold State.exchange
  repeat' first
    | with_reducible assumption
    | intro _
    | with_reducible apply State.setBit_keeps
    | with_reducible apply State.hwSet_keeps
    | with_reducible apply State.arriveAll_keeps
    | with_reducible apply keeps_ite
    | with_reducible apply keeps_foldl
    | (fail_if_no_progress with_reducible refine keeps_mk ?_ rfl rfl rfl rfl)
    | dsimp only
    | (split <;> (try (rename_i heq; obtain rfl := snd_eq heq)))

theorem State.endSwap_keeps {r s : State} (h : Keeps r s) :
    Keeps r (State.endSwap s) := by
  unfold State.endSwap
  repeat' first
    | with_reducible assumption
    | intro _
    | with_reducible apply State.setBit_keeps
    | with_reducible apply keeps_ite
    | with_reducible apply keeps_foldl
    | (fail_if_no_progress with_reducible refine keeps_mk ?_ rfl rfl rfl rfl)
    | dsimp only
    | (split <;> (try (rename_i heq; obtain rfl := snd_eq heq)))

theorem State.swapDue_keeps {r s : State} (h : Keeps r s) :
    Keeps r (State.swapDue s) := by
  unfold State.swapDue
  repeat' first
    | with_reducible assumption
    | intro _
    | with_reducible apply State.exchange_keeps
    | with_reducible apply State.endSwap_keeps
    | with_reducible apply keeps_ite
    | with_reducible apply keeps_foldl
    | (fail_if_no_progress with_reducible refine keeps_mk ?_ rfl rfl rfl rfl)
    | dsimp only
    | (split <;> (try (rename_i heq; obtain rfl := snd_eq heq)))

theorem State.cancelLate_keeps {r s : State} (h : Keeps r s) (n : Nat) :
    Keeps r (State.cancelLate s n) := by
  unfold State.cancelLate
  repeat' first
    | with_reducible assumption
    | intro _
    | with_reducible apply State.hwSet_keeps
    | with_reducible apply State.exchange_keeps
    | with_reducible apply keeps_ite
    | with_reducible apply keeps_foldl
    | (fail_if_no_progress with_reducible refine keeps_mk ?_ rfl rfl rfl rfl)
    | dsimp only
    | (split <;> (try (rename_i heq; obtain rfl := snd_eq heq)))

theorem State.swapCancel_keeps {r s : State} (h : Keeps r s) :
    Keeps r (State.swapCancel s) := by
  unfold State.swapCancel
  repeat' first
    | with_reducible assumption
    | intro _
    | with_reducible apply State.hwSet_keeps
    | with_reducible apply State.exchange_keeps
    | with_reducible apply State.endSwap_keeps
    | with_reducible apply keeps_ite
    | with_reducible apply keeps_foldl
    | (fail_if_no_progress with_reducible refine keeps_mk ?_ rfl rfl rfl rfl)
    | dsimp only
    | (split <;> (try (rename_i heq; obtain rfl := snd_eq heq)))

theorem State.swapClosed_keeps {r s : State} (h : Keeps r s) (c : Nat) :
    Keeps r (State.swapClosed s c) := by
  unfold State.swapClosed
  repeat' first
    | with_reducible assumption
    | intro _
    | with_reducible apply State.swapDue_keeps
    | with_reducible apply State.cancelLate_keeps
    | with_reducible apply keeps_ite
    | with_reducible apply keeps_foldl
    | (fail_if_no_progress with_reducible refine keeps_mk ?_ rfl rfl rfl rfl)
    | dsimp only
    | (split <;> (try (rename_i heq; obtain rfl := snd_eq heq)))

end Sys2Proof.Machine
end

