-- ==== Sys2Proof/Laws/KeepsSegOps.lean ====
section
/-! SUPPORT. What every operation of Machine/SegOps.lean keeps: the queue, the fabric clock, the canonical form of the register
file and every burnt fuse. -/

set_option linter.all false

namespace Sys2Proof.Machine

theorem State.addRecord_keeps {r₀ s : State} (h : Keeps r₀ s) (r : Record) :
    Keeps r₀ (State.addRecord s r) := by
  unfold State.addRecord
  repeat' first
    | with_reducible assumption
    | intro _
    | with_reducible apply State.nextFree_keeps
    | with_reducible apply State.setKeep_keeps
    | with_reducible apply keeps_ite
    | with_reducible apply keeps_foldl
    | (fail_if_no_progress with_reducible refine keeps_mk ?_ rfl rfl rfl rfl)
    | dsimp only
    | (split <;> (try (rename_i heq; obtain rfl := snd_eq heq)))

theorem State.serveMarkers_keeps {r s : State} (h : Keeps r s) :
    Keeps r (State.serveMarkers s) := by
  unfold State.serveMarkers
  repeat' first
    | with_reducible assumption
    | intro _
    | with_reducible apply State.nextFree_keeps
    | with_reducible apply State.mapRecs_keeps
    | with_reducible apply keeps_ite
    | with_reducible apply keeps_foldl
    | (fail_if_no_progress with_reducible refine keeps_mk ?_ rfl rfl rfl rfl)
    | dsimp only
    | (split <;> (try (rename_i heq; obtain rfl := snd_eq heq)))

theorem State.addGap_keeps {r₀ s : State} (h : Keeps r₀ s) (r : Record) (cause : GapCause) :
    Keeps r₀ (State.addGap s r cause) := by
  unfold State.addGap
  repeat' first
    | with_reducible assumption
    | intro _
    | with_reducible apply State.rclAdd_keeps
    | with_reducible apply State.addRecord_keeps
    | with_reducible apply keeps_ite
    | with_reducible apply keeps_foldl
    | (fail_if_no_progress with_reducible refine keeps_mk ?_ rfl rfl rfl rfl)
    | dsimp only
    | (split <;> (try (rename_i heq; obtain rfl := snd_eq heq)))

theorem State.addMarker_keeps {r₀ s : State} (h : Keeps r₀ s) (r : Record) :
    Keeps r₀ (State.addMarker s r) := by
  unfold State.addMarker
  repeat' first
    | with_reducible assumption
    | intro _
    | with_reducible apply State.hwSet_keeps
    | with_reducible apply State.rclAdd_keeps
    | with_reducible apply State.addRecord_keeps
    | with_reducible apply keeps_ite
    | with_reducible apply keeps_foldl
    | (fail_if_no_progress with_reducible refine keeps_mk ?_ rfl rfl rfl rfl)
    | dsimp only
    | (split <;> (try (rename_i heq; obtain rfl := snd_eq heq)))

theorem State.announceRun_keeps {r s : State} (h : Keeps r s) (c : Nat) :
    Keeps r (State.announceRun s c) := by
  unfold State.announceRun
  repeat' first
    | with_reducible assumption
    | intro _
    | with_reducible apply State.setKeep_keeps
    | with_reducible apply State.addGap_keeps
    | with_reducible apply keeps_ite
    | with_reducible apply keeps_foldl
    | (fail_if_no_progress with_reducible refine keeps_mk ?_ rfl rfl rfl rfl)
    | dsimp only
    | (split <;> (try (rename_i heq; obtain rfl := snd_eq heq)))

theorem State.freeSlotOf_keeps {r₀ s : State} (h : Keeps r₀ s) (r : Record) :
    Keeps r₀ (State.freeSlotOf s r) := by
  unfold State.freeSlotOf
  repeat' first
    | with_reducible assumption
    | intro _
    | with_reducible apply State.mapRecs_keeps
    | with_reducible apply State.serveMarkers_keeps
    | with_reducible apply keeps_ite
    | with_reducible apply keeps_foldl
    | (fail_if_no_progress with_reducible refine keeps_mk ?_ rfl rfl rfl rfl)
    | dsimp only
    | (split <;> (try (rename_i heq; obtain rfl := snd_eq heq)))

theorem State.sendHand_keeps {r₀ s : State} (h : Keeps r₀ s) (r : Record) (toStream : Bool) :
    Keeps r₀ (State.sendHand s r toStream) := by
  unfold State.sendHand
  repeat' first
    | with_reducible assumption
    | intro _
    | with_reducible apply State.sendCell_keeps
    | with_reducible apply keeps_ite
    | with_reducible apply keeps_foldl
    | (fail_if_no_progress with_reducible refine keeps_mk ?_ rfl rfl rfl rfl)
    | dsimp only
    | (split <;> (try (rename_i heq; obtain rfl := snd_eq heq)))

theorem State.handAgain_keeps {r s : State} (h : Keeps r s) (old : Record) (new : Record) :
    Keeps r (State.handAgain s old new) := by
  unfold State.handAgain
  repeat' first
    | with_reducible assumption
    | intro _
    | with_reducible apply State.sendHand_keeps
    | with_reducible apply keeps_ite
    | with_reducible apply keeps_foldl
    | (fail_if_no_progress with_reducible refine keeps_mk ?_ rfl rfl rfl rfl)
    | dsimp only
    | (split <;> (try (rename_i heq; obtain rfl := snd_eq heq)))

theorem State.judgeHeld_keeps {r s : State} (h : Keeps r s) (c : Nat) :
    Keeps r (State.judgeHeld s c) := by
  unfold State.judgeHeld
  repeat' first
    | with_reducible assumption
    | intro _
    | with_reducible apply State.hwSet_keeps
    | with_reducible apply State.setKeep_keeps
    | with_reducible apply keeps_ite
    | with_reducible apply keeps_foldl
    | (fail_if_no_progress with_reducible refine keeps_mk ?_ rfl rfl rfl rfl)
    | dsimp only
    | (split <;> (try (rename_i heq; obtain rfl := snd_eq heq)))

theorem State.judgeAll_keeps {r s : State} (h : Keeps r s) :
    Keeps r (State.judgeAll s) := by
  unfold State.judgeAll
  repeat' first
    | with_reducible assumption
    | intro _
    | with_reducible apply State.judgeHeld_keeps
    | with_reducible apply keeps_ite
    | with_reducible apply keeps_foldl
    | (fail_if_no_progress with_reducible refine keeps_mk ?_ rfl rfl rfl rfl)
    | dsimp only
    | (split <;> (try (rename_i heq; obtain rfl := snd_eq heq)))

theorem State.gapRecord_keeps {r₀ s : State} (h : Keeps r₀ s) (r : Record) (cause : GapCause) (atHost : Bool) (atStream : Bool) :
    Keeps r₀ (State.gapRecord s r cause atHost atStream) := by
  unfold State.gapRecord
  repeat' first
    | with_reducible assumption
    | intro _
    | with_reducible apply State.rclAdd_keeps
    | with_reducible apply State.mapRecs_keeps
    | with_reducible apply State.gcChunks_keeps
    | with_reducible apply State.freeSlotOf_keeps
    | with_reducible apply State.handAgain_keeps
    | with_reducible apply State.judgeHeld_keeps
    | with_reducible apply keeps_ite
    | with_reducible apply keeps_foldl
    | (fail_if_no_progress with_reducible refine keeps_mk ?_ rfl rfl rfl rfl)
    | dsimp only
    | (split <;> (try (rename_i heq; obtain rfl := snd_eq heq)))

theorem State.editJob_keeps {r s : State} (h : Keeps r s) (j : Nat) (f : JobSt → JobSt) :
    Keeps r (State.editJob s j f) := by
  unfold State.editJob
  repeat' first
    | with_reducible assumption
    | intro _
    | with_reducible apply keeps_ite
    | with_reducible apply keeps_foldl
    | (fail_if_no_progress with_reducible refine keeps_mk ?_ rfl rfl rfl rfl)
    | dsimp only
    | (split <;> (try (rename_i heq; obtain rfl := snd_eq heq)))

theorem State.freeBuffer_keeps {r₀ s : State} (h : Keeps r₀ s) (r : Record) :
    Keeps r₀ (State.freeBuffer s r) := by
  unfold State.freeBuffer
  repeat' first
    | with_reducible assumption
    | intro _
    | with_reducible apply State.editJob_keeps
    | with_reducible apply keeps_ite
    | with_reducible apply keeps_foldl
    | (fail_if_no_progress with_reducible refine keeps_mk ?_ rfl rfl rfl rfl)
    | dsimp only
    | (split <;> (try (rename_i heq; obtain rfl := snd_eq heq)))

theorem State.retireFrom_keeps {r s : State} (h : Keeps r s) (c n : Nat) : Keeps r (State.retireFrom c n s) := by
  induction n generalizing s with
  | zero => exact h
  | succ n ih =>
    unfold State.retireFrom
    split
    · exact h
    · split
      · refine ih (State.serveMarkers_keeps (State.gcChunks_keeps (State.freeBuffer_keeps (keeps_mk h rfl rfl rfl rfl) _) _))
      · exact h

theorem State.retire_keeps {r s : State} (h : Keeps r s) (c : Nat) :
    Keeps r (State.retire s c) := by
  unfold State.retire
  repeat' first
    | with_reducible assumption
    | intro _
    | with_reducible apply State.retireFrom_keeps
    | with_reducible apply keeps_ite
    | with_reducible apply keeps_foldl
    | (fail_if_no_progress with_reducible refine keeps_mk ?_ rfl rfl rfl rfl)
    | dsimp only
    | (split <;> (try (rename_i heq; obtain rfl := snd_eq heq)))

theorem State.leaveAcquiring_keeps {r s : State} (h : Keeps r s) :
    Keeps r (State.leaveAcquiring s) := by
  unfold State.leaveAcquiring
  repeat' first
    | with_reducible assumption
    | intro _
    | with_reducible apply State.enter_keeps
    | with_reducible apply keeps_ite
    | with_reducible apply keeps_foldl
    | (fail_if_no_progress with_reducible refine keeps_mk ?_ rfl rfl rfl rfl)
    | dsimp only
    | (split <;> (try (rename_i heq; obtain rfl := snd_eq heq)))

theorem State.afterClose_keeps {r s : State} (h : Keeps r s) (c : Nat) :
    Keeps r (State.afterClose s c) := by
  unfold State.afterClose
  repeat' first
    | with_reducible assumption
    | intro _
    | with_reducible apply State.setLive_keeps
    | with_reducible apply State.swapClosed_keeps
    | with_reducible apply State.leaveAcquiring_keeps
    | with_reducible apply keeps_ite
    | with_reducible apply keeps_foldl
    | (fail_if_no_progress with_reducible refine keeps_mk ?_ rfl rfl rfl rfl)
    | dsimp only
    | (split <;> (try (rename_i heq; obtain rfl := snd_eq heq)))

theorem State.passEvents_keeps {r s : State} (h : Keeps r s) (was : BeamPass) (now : BeamPass) :
    Keeps r (State.passEvents s was now) := by
  unfold State.passEvents
  repeat' first
    | with_reducible assumption
    | intro _
    | with_reducible apply State.hwSet_keeps
    | with_reducible apply keeps_ite
    | with_reducible apply keeps_foldl
    | (fail_if_no_progress with_reducible refine keeps_mk ?_ rfl rfl rfl rfl)
    | dsimp only
    | (split <;> (try (rename_i heq; obtain rfl := snd_eq heq)))

theorem State.cutSweep_keeps {r₀ s : State} (h : Keeps r₀ s) (r : Record) :
    Keeps r₀ (State.cutSweep s r) := by
  unfold State.cutSweep
  repeat' first
    | with_reducible assumption
    | intro _
    | with_reducible apply State.nextFree_keeps
    | with_reducible apply State.editJob_keeps
    | with_reducible apply State.passEvents_keeps
    | with_reducible apply keeps_ite
    | with_reducible apply keeps_foldl
    | (fail_if_no_progress with_reducible refine keeps_mk ?_ rfl rfl rfl rfl)
    | dsimp only
    | (split <;> (try (rename_i heq; obtain rfl := snd_eq heq)))

theorem State.holdoffFrom_keeps {r s : State} (h : Keeps r s) (c : Nat) (cseq : Nat) (t : Int) :
    Keeps r (State.holdoffFrom s c cseq t) := by
  unfold State.holdoffFrom
  repeat' first
    | with_reducible assumption
    | intro _
    | with_reducible apply State.setLive_keeps
    | with_reducible apply keeps_ite
    | with_reducible apply keeps_foldl
    | (fail_if_no_progress with_reducible refine keeps_mk ?_ rfl rfl rfl rfl)
    | dsimp only
    | (split <;> (try (rename_i heq; obtain rfl := snd_eq heq)))

theorem State.noteHanded_keeps {r₀ s : State} (h : Keeps r₀ s) (r : Record) :
    Keeps r₀ (State.noteHanded s r) := by
  unfold State.noteHanded
  repeat' first
    | with_reducible assumption
    | intro _
    | with_reducible apply State.setLive_keeps
    | with_reducible apply keeps_ite
    | with_reducible apply keeps_foldl
    | (fail_if_no_progress with_reducible refine keeps_mk ?_ rfl rfl rfl rfl)
    | dsimp only
    | (split <;> (try (rename_i heq; obtain rfl := snd_eq heq)))

theorem State.closeAsGap_keeps {r s : State} (h : Keeps r s) (c : Nat) (cause : GapCause) :
    Keeps r (State.closeAsGap s c cause) := by
  unfold State.closeAsGap
  repeat' first
    | with_reducible assumption
    | intro _
    | with_reducible apply State.nextFree_keeps
    | with_reducible apply State.setKeep_keeps
    | with_reducible apply State.mapRecs_keeps
    | with_reducible apply State.gapRecord_keeps
    | with_reducible apply State.afterClose_keeps
    | with_reducible apply State.cutSweep_keeps
    | with_reducible apply State.holdoffFrom_keeps
    | with_reducible apply keeps_ite
    | with_reducible apply keeps_foldl
    | (fail_if_no_progress with_reducible refine keeps_mk ?_ rfl rfl rfl rfl)
    | dsimp only
    | (split <;> (try (rename_i heq; obtain rfl := snd_eq heq)))

theorem State.closeOpenAsGaps_keeps {r s : State} (h : Keeps r s) (cause : GapCause) :
    Keeps r (State.closeOpenAsGaps s cause) := by
  unfold State.closeOpenAsGaps
  repeat' first
    | with_reducible assumption
    | intro _
    | with_reducible apply State.closeAsGap_keeps
    | with_reducible apply keeps_ite
    | with_reducible apply keeps_foldl
    | (fail_if_no_progress with_reducible refine keeps_mk ?_ rfl rfl rfl rfl)
    | dsimp only
    | (split <;> (try (rename_i heq; obtain rfl := snd_eq heq)))

theorem State.releaseCtx_keeps {r s : State} (h : Keeps r s) (c : Nat) :
    Keeps r (State.releaseCtx s c) := by
  unfold State.releaseCtx
  repeat' first
    | with_reducible assumption
    | intro _
    | with_reducible apply State.freeLane_keeps
    | with_reducible apply State.setLive_keeps
    | with_reducible apply State.refreshResv_keeps
    | with_reducible apply keeps_ite
    | with_reducible apply keeps_foldl
    | (fail_if_no_progress with_reducible refine keeps_mk ?_ rfl rfl rfl rfl)
    | dsimp only
    | (split <;> (try (rename_i heq; obtain rfl := snd_eq heq)))

theorem State.stopLoom_keeps {r s : State} (h : Keeps r s) :
    Keeps r (State.stopLoom s) := by
  unfold State.stopLoom
  repeat' first
    | with_reducible assumption
    | intro _
    | with_reducible apply State.setBit_keeps
    | with_reducible apply State.setLive_keeps
    | with_reducible apply keeps_ite
    | with_reducible apply keeps_foldl
    | (fail_if_no_progress with_reducible refine keeps_mk ?_ rfl rfl rfl rfl)
    | dsimp only
    | (split <;> (try (rename_i heq; obtain rfl := snd_eq heq)))

theorem State.loomAtRest_keeps {r s : State} (h : Keeps r s) :
    Keeps r (State.loomAtRest s) := by
  unfold State.loomAtRest
  repeat' first
    | with_reducible assumption
    | intro _
    | with_reducible apply State.setF_keeps
    | with_reducible apply State.setBit_keeps
    | with_reducible apply keeps_ite
    | with_reducible apply keeps_foldl
    | (fail_if_no_progress with_reducible refine keeps_mk ?_ rfl rfl rfl rfl)
    | dsimp only
    | (split <;> (try (rename_i heq; obtain rfl := snd_eq heq)))

theorem State.bypassAcquisition_keeps {r s : State} (h : Keeps r s) :
    Keeps r (State.bypassAcquisition s) := by
  unfold State.bypassAcquisition
  repeat' first
    | with_reducible assumption
    | intro _
    | with_reducible apply State.enter_keeps
    | with_reducible apply State.closeOpenAsGaps_keeps
    | with_reducible apply State.releaseCtx_keeps
    | with_reducible apply State.stopLoom_keeps
    | with_reducible apply State.loomAtRest_keeps
    | with_reducible apply State.clkBypass_keeps
    | with_reducible apply keeps_ite
    | with_reducible apply keeps_foldl
    | (fail_if_no_progress with_reducible refine keeps_mk ?_ rfl rfl rfl rfl)
    | dsimp only
    | (split <;> (try (rename_i heq; obtain rfl := snd_eq heq)))

theorem State.releasesDue_keeps {r s : State} (h : Keeps r s) :
    Keeps r (State.releasesDue s) := by
  unfold State.releasesDue
  repeat' first
    | with_reducible assumption
    | intro _
    | with_reducible apply State.setLive_keeps
    | with_reducible apply State.releaseCtx_keeps
    | with_reducible apply keeps_ite
    | with_reducible apply keeps_foldl
    | (fail_if_no_progress with_reducible refine keeps_mk ?_ rfl rfl rfl rfl)
    | dsimp only
    | (split <;> (try (rename_i heq; obtain rfl := snd_eq heq)))

theorem State.dropOrSpill_keeps {r₀ s : State} (h : Keeps r₀ s) (r : Record) :
    Keeps r₀ (State.dropOrSpill s r) := by
  unfold State.dropOrSpill
  repeat' first
    | with_reducible assumption
    | intro _
    | with_reducible apply State.hwSet_keeps
    | with_reducible apply State.rclAdd_keeps
    | with_reducible apply State.mapRecs_keeps
    | with_reducible apply State.gapRecord_keeps
    | with_reducible apply keeps_ite
    | with_reducible apply keeps_foldl
    | (fail_if_no_progress with_reducible refine keeps_mk ?_ rfl rfl rfl rfl)
    | dsimp only
    | (split <;> (try (rename_i heq; obtain rfl := snd_eq heq)))

theorem State.handStream_keeps {r₀ s : State} (h : Keeps r₀ s) (r : Record) :
    Keeps r₀ (State.handStream s r) := by
  unfold State.handStream
  repeat' first
    | with_reducible assumption
    | intro _
    | with_reducible apply State.set64_keeps
    | with_reducible apply State.mapRecs_keeps
    | with_reducible apply State.dropOrSpill_keeps
    | with_reducible apply keeps_ite
    | with_reducible apply keeps_foldl
    | (fail_if_no_progress with_reducible refine keeps_mk ?_ rfl rfl rfl rfl)
    | dsimp only
    | (split <;> (try (rename_i heq; obtain rfl := snd_eq heq)))

theorem State.handHost_keeps {r₀ s : State} (h : Keeps r₀ s) (r : Record) :
    Keeps r₀ (State.handHost s r) := by
  unfold State.handHost
  repeat' first
    | with_reducible assumption
    | intro _
    | with_reducible apply State.set64_keeps
    | with_reducible apply State.mapRecs_keeps
    | with_reducible apply keeps_ite
    | with_reducible apply keeps_foldl
    | (fail_if_no_progress with_reducible refine keeps_mk ?_ rfl rfl rfl rfl)
    | dsimp only
    | (split <;> (try (rename_i heq; obtain rfl := snd_eq heq)))

theorem State.sendData_keeps {r s : State} (h : Keeps r s) (ctx cseq : Nat) (bytes : List Byte) (n off : Nat) :
    Keeps r (s.sendData ctx cseq bytes n off) := by
  induction n generalizing s off with
  | zero => exact h
  | succ n ih =>
    unfold State.sendData
    split
    · exact h
    · exact ih (State.sendCell_keeps h _) _

theorem State.mirrorOut_keeps {r₀ s : State} (h : Keeps r₀ s) (r : Record) :
    Keeps r₀ (State.mirrorOut s r) := by
  unfold State.mirrorOut
  repeat' first
    | with_reducible assumption
    | intro _
    | with_reducible apply State.mapRecs_keeps
    | with_reducible apply State.offerRead_keeps
    | with_reducible apply State.offerSlot_keeps
    | with_reducible apply State.sendHand_keeps
    | with_reducible apply State.sendData_keeps
    | with_reducible apply keeps_ite
    | with_reducible apply keeps_foldl
    | (fail_if_no_progress with_reducible refine keeps_mk ?_ rfl rfl rfl rfl)
    | dsimp only
    | (split <;> (try (rename_i heq; obtain rfl := snd_eq heq)))

theorem State.handRecord_keeps {r₀ s : State} (h : Keeps r₀ s) (r : Record) :
    Keeps r₀ (State.handRecord s r) := by
  unfold State.handRecord
  repeat' first
    | with_reducible assumption
    | intro _
    | with_reducible apply State.mapRecs_keeps
    | with_reducible apply State.judgeHeld_keeps
    | with_reducible apply State.retire_keeps
    | with_reducible apply State.noteHanded_keeps
    | with_reducible apply State.handStream_keeps
    | with_reducible apply State.handHost_keeps
    | with_reducible apply State.mirrorOut_keeps
    | with_reducible apply keeps_ite
    | with_reducible apply keeps_foldl
    | (fail_if_no_progress with_reducible refine keeps_mk ?_ rfl rfl rfl rfl)
    | dsimp only
    | (split <;> (try (rename_i heq; obtain rfl := snd_eq heq)))

theorem State.overSettle_keeps {r s : State} (h : Keeps r s) :
    Keeps r (State.overSettle s) := by
  unfold State.overSettle
  repeat' first
    | with_reducible assumption
    | intro _
    | with_reducible apply State.judgeHeld_keeps
    | with_reducible apply State.dropOrSpill_keeps
    | with_reducible apply State.mirrorOut_keeps
    | with_reducible apply keeps_ite
    | with_reducible apply keeps_foldl
    | (fail_if_no_progress with_reducible refine keeps_mk ?_ rfl rfl rfl rfl)
    | dsimp only
    | (split <;> (try (rename_i heq; obtain rfl := snd_eq heq)))

end Sys2Proof.Machine
end

