-- ==== Sys2Proof/Laws/KeepsClk.lean ====
section
/-! SUPPORT. What every operation of Machine/Clk.lean keeps: the queue, the fabric clock, the canonical form of the register
file and every burnt fuse. -/

set_option linter.all false

namespace Sys2Proof.Machine

theorem State.setGate_keeps {r s : State} (h : Keeps r s) (p : Pll) (gated : Bool) :
    Keeps r (State.setGate s p gated) := by
  unfold State.setGate
  repeat' first
    | with_reducible assumption
    | intro _
    | with_reducible apply State.setBit_keeps
    | with_reducible apply keeps_ite
    | with_reducible apply keeps_foldl
    | (fail_if_no_progress with_reducible refine keeps_mk ?_ rfl rfl rfl rfl)
    | dsimp only
    | (split <;> (try (rename_i heq; obtain rfl := snd_eq heq)))

theorem State.takeEn_keeps {r s : State} (h : Keeps r s) (p : Pll) :
    Keeps r (State.takeEn s p) := by
  unfold State.takeEn
  repeat' first
    | with_reducible assumption
    | intro _
    | with_reducible apply keeps_ite
    | with_reducible apply keeps_foldl
    | (fail_if_no_progress with_reducible refine keeps_mk ?_ rfl rfl rfl rfl)
    | dsimp only
    | (split <;> (try (rename_i heq; obtain rfl := snd_eq heq)))

theorem State.setPll_keeps {r s : State} (h : Keeps r s) (p : Pll) (st : Nat) :
    Keeps r (State.setPll s p st) := by
  unfold State.setPll
  repeat' first
    | with_reducible assumption
    | intro _
    | with_reducible apply State.setF_keeps
    | with_reducible apply State.setGate_keeps
    | with_reducible apply State.takeEn_keeps
    | with_reducible apply keeps_ite
    | with_reducible apply keeps_foldl
    | (fail_if_no_progress with_reducible refine keeps_mk ?_ rfl rfl rfl rfl)
    | dsimp only
    | (split <;> (try (rename_i heq; obtain rfl := snd_eq heq)))

theorem State.useBypass_keeps {r s : State} (h : Keeps r s) :
    Keeps r (State.useBypass s) := by
  unfold State.useBypass
  repeat' first
    | with_reducible assumption
    | intro _
    | with_reducible apply State.hwSet_keeps
    | with_reducible apply keeps_ite
    | with_reducible apply keeps_foldl
    | (fail_if_no_progress with_reducible refine keeps_mk ?_ rfl rfl rfl rfl)
    | dsimp only
    | (split <;> (try (rename_i heq; obtain rfl := snd_eq heq)))

theorem State.levelsNow_keeps {r s : State} (h : Keeps r s) (l : Option Levels) :
    Keeps r (State.levelsNow s l) := by
  unfold State.levelsNow
  repeat' first
    | with_reducible assumption
    | intro _
    | with_reducible apply State.setBit_keeps
    | with_reducible apply State.useBypass_keeps
    | with_reducible apply keeps_ite
    | with_reducible apply keeps_foldl
    | (fail_if_no_progress with_reducible refine keeps_mk ?_ rfl rfl rfl rfl)
    | dsimp only
    | (split <;> (try (rename_i heq; obtain rfl := snd_eq heq)))

theorem State.bypClkNow_keeps {r s : State} (h : Keeps r s) (b : Bool) :
    Keeps r (State.bypClkNow s b) := by
  unfold State.bypClkNow
  repeat' first
    | with_reducible assumption
    | intro _
    | with_reducible apply State.levelsNow_keeps
    | with_reducible apply keeps_ite
    | with_reducible apply keeps_foldl
    | (fail_if_no_progress with_reducible refine keeps_mk ?_ rfl rfl rfl rfl)
    | dsimp only
    | (split <;> (try (rename_i heq; obtain rfl := snd_eq heq)))

theorem State.startPlls_keeps {r s : State} (h : Keeps r s) :
    Keeps r (State.startPlls s) := by
  unfold State.startPlls
  repeat' first
    | with_reducible assumption
    | intro _
    | with_reducible apply State.setF_keeps
    | with_reducible apply State.setBit_keeps
    | with_reducible apply State.setPll_keeps
    | with_reducible apply keeps_ite
    | with_reducible apply keeps_foldl
    | (fail_if_no_progress with_reducible refine keeps_mk ?_ rfl rfl rfl rfl)
    | dsimp only
    | (split <;> (try (rename_i heq; obtain rfl := snd_eq heq)))

theorem State.seek_keeps {r s : State} (h : Keeps r s) (p : Pll) :
    Keeps r (State.seek s p) := by
  unfold State.seek
  repeat' first
    | with_reducible assumption
    | intro _
    | with_reducible apply State.setF_keeps
    | with_reducible apply State.setPll_keeps
    | with_reducible apply keeps_ite
    | with_reducible apply keeps_foldl
    | (fail_if_no_progress with_reducible refine keeps_mk ?_ rfl rfl rfl rfl)
    | dsimp only
    | (split <;> (try (rename_i heq; obtain rfl := snd_eq heq)))

theorem State.beginRelock_keeps {r s : State} (h : Keeps r s) (why : Relock) :
    Keeps r (State.beginRelock s why) := by
  unfold State.beginRelock
  repeat' first
    | with_reducible assumption
    | intro _
    | with_reducible apply State.hwSet_keeps
    | with_reducible apply State.calRelock_keeps
    | with_reducible apply State.useBypass_keeps
    | with_reducible apply State.seek_keeps
    | with_reducible apply keeps_ite
    | with_reducible apply keeps_foldl
    | (fail_if_no_progress with_reducible refine keeps_mk ?_ rfl rfl rfl rfl)
    | dsimp only
    | (split <;> (try (rename_i heq; obtain rfl := snd_eq heq)))

theorem State.relockDue_keeps {r s : State} (h : Keeps r s) :
    Keeps r (State.relockDue s) := by
  unfold State.relockDue
  repeat' first
    | with_reducible assumption
    | intro _
    | with_reducible apply State.beginRelock_keeps
    | with_reducible apply keeps_ite
    | with_reducible apply keeps_foldl
    | (fail_if_no_progress with_reducible refine keeps_mk ?_ rfl rfl rfl rfl)
    | dsimp only
    | (split <;> (try (rename_i heq; obtain rfl := snd_eq heq)))

theorem State.rateWrite_keeps {r s : State} (h : Keeps r s) (v : Word) :
    Keeps r (State.rateWrite s v) := by
  unfold State.rateWrite
  repeat' first
    | with_reducible assumption
    | intro _
    | with_reducible apply State.hwSet_keeps
    | with_reducible apply State.storeReg_keeps
    | with_reducible apply keeps_ite
    | with_reducible apply keeps_foldl
    | (fail_if_no_progress with_reducible refine keeps_mk ?_ rfl rfl rfl rfl)
    | dsimp only
    | (split <;> (try (rename_i heq; obtain rfl := snd_eq heq)))

theorem execClkRateGo_keeps {r s : State} (h : Keeps r s) (v : Word) (levels : Option Levels := none) :
    KeepsOut r (execClkRateGo v s levels) := by
  unfold execClkRateGo
  repeat' first
    | with_reducible assumption
    | intro _
    | with_reducible apply State.hostWrite_keeps
    | with_reducible apply State.levelsNow_keeps
    | with_reducible apply State.rateWrite_keeps
    | with_reducible apply keeps_ite
    | with_reducible apply keeps_foldl
    | (fail_if_no_progress with_reducible refine keeps_mk ?_ rfl rfl rfl rfl)
    | with_reducible apply keepsOut_next
    | with_reducible apply keepsOut_fault
    | with_reducible apply keepsOut_ite
    | dsimp only
    | (split <;> (try (rename_i heq; obtain rfl := snd_eq heq)))

theorem State.searchInstead_keeps {r s : State} (h : Keeps r s) (p : Pll) :
    Keeps r (State.searchInstead s p) := by
  unfold State.searchInstead
  repeat' first
    | with_reducible assumption
    | intro _
    | with_reducible apply State.setPll_keeps
    | with_reducible apply keeps_ite
    | with_reducible apply keeps_foldl
    | (fail_if_no_progress with_reducible refine keeps_mk ?_ rfl rfl rfl rfl)
    | dsimp only
    | (split <;> (try (rename_i heq; obtain rfl := snd_eq heq)))

theorem execEntryStale_keeps {r s : State} (h : Keeps r s) :
    KeepsOut r (execEntryStale s) := by
  unfold execEntryStale
  repeat' first
    | with_reducible assumption
    | intro _
    | with_reducible apply State.hwSet_keeps
    | with_reducible apply State.searchInstead_keeps
    | with_reducible apply keeps_ite
    | with_reducible apply keeps_foldl
    | (fail_if_no_progress with_reducible refine keeps_mk ?_ rfl rfl rfl rfl)
    | with_reducible apply keepsOut_next
    | with_reducible apply keepsOut_fault
    | with_reducible apply keepsOut_ite
    | dsimp only
    | (split <;> (try (rename_i heq; obtain rfl := snd_eq heq)))

theorem State.storeBand_keeps {r s : State} (h : Keeps r s) (p : Pll) (band : Byte) (temp : BitVec 7) :
    Keeps r (State.storeBand s p band temp) := by
  unfold State.storeBand
  repeat' first
    | with_reducible assumption
    | intro _
    | with_reducible apply State.setReg_keeps
    | with_reducible apply keeps_ite
    | with_reducible apply keeps_foldl
    | (fail_if_no_progress with_reducible refine keeps_mk ?_ rfl rfl rfl rfl)
    | dsimp only
    | (split <;> (try (rename_i heq; obtain rfl := snd_eq heq)))

theorem State.measure_keeps {r s : State} (h : Keeps r s) (p : Pll) (counts : List Nat) :
    Keeps r (State.measure s p counts) := by
  unfold State.measure
  repeat' first
    | with_reducible assumption
    | intro _
    | with_reducible apply State.setReg_keeps
    | with_reducible apply keeps_ite
    | with_reducible apply keeps_foldl
    | (fail_if_no_progress with_reducible refine keeps_mk ?_ rfl rfl rfl rfl)
    | dsimp only
    | (split <;> (try (rename_i heq; obtain rfl := snd_eq heq)))

theorem State.sclkBack_keeps {r s : State} (h : Keeps r s) (p : Pll) :
    Keeps r (State.sclkBack s p) := by
  unfold State.sclkBack
  repeat' first
    | with_reducible assumption
    | intro _
    | with_reducible apply State.beginRelock_keeps
    | with_reducible apply keeps_ite
    | with_reducible apply keeps_foldl
    | (fail_if_no_progress with_reducible refine keeps_mk ?_ rfl rfl rfl rfl)
    | dsimp only
    | (split <;> (try (rename_i heq; obtain rfl := snd_eq heq)))

theorem execPllLockDeclared_keeps {r s : State} (h : Keeps r s) (p : Pll) (counts : List Nat) (band : Byte) (temp : BitVec 7) :
    KeepsOut r (execPllLockDeclared p counts band temp s) := by
  unfold execPllLockDeclared
  repeat' first
    | with_reducible assumption
    | intro _
    | with_reducible apply State.setF_keeps
    | with_reducible apply State.setPll_keeps
    | with_reducible apply State.storeBand_keeps
    | with_reducible apply State.measure_keeps
    | with_reducible apply State.sclkBack_keeps
    | with_reducible apply keeps_ite
    | with_reducible apply keeps_foldl
    | (fail_if_no_progress with_reducible refine keeps_mk ?_ rfl rfl rfl rfl)
    | with_reducible apply keepsOut_next
    | with_reducible apply keepsOut_fault
    | with_reducible apply keepsOut_ite
    | dsimp only
    | (split <;> (try (rename_i heq; obtain rfl := snd_eq heq)))

theorem State.latchEpoch_keeps {r s : State} (h : Keeps r s) :
    Keeps r (State.latchEpoch s) := by
  unfold State.latchEpoch
  repeat' first
    | with_reducible assumption
    | intro _
    | with_reducible apply State.setReg_keeps
    | with_reducible apply State.set64_keeps
    | with_reducible apply State.makeRecord_keeps
    | with_reducible apply keeps_ite
    | with_reducible apply keeps_foldl
    | (fail_if_no_progress with_reducible refine keeps_mk ?_ rfl rfl rfl rfl)
    | dsimp only
    | (split <;> (try (rename_i heq; obtain rfl := snd_eq heq)))

theorem State.jumpRecord_keeps {r s : State} (h : Keeps r s) (j : Int) (step : Int) :
    Keeps r (State.jumpRecord s j step) := by
  unfold State.jumpRecord
  repeat' first
    | with_reducible assumption
    | intro _
    | with_reducible apply State.makeRecord_keeps
    | with_reducible apply keeps_ite
    | with_reducible apply keeps_foldl
    | (fail_if_no_progress with_reducible refine keeps_mk ?_ rfl rfl rfl rfl)
    | dsimp only
    | (split <;> (try (rename_i heq; obtain rfl := snd_eq heq)))

theorem State.spllOpens_keeps {r s : State} (h : Keeps r s) (sclkRate : BitVec 15) :
    Keeps r (State.spllOpens s sclkRate) := by
  unfold State.spllOpens
  repeat' first
    | with_reducible assumption
    | intro _
    | with_reducible apply State.setF_keeps
    | with_reducible apply State.hwSet_keeps
    | with_reducible apply State.calReopen_keeps
    | with_reducible apply State.latchEpoch_keeps
    | with_reducible apply State.jumpRecord_keeps
    | with_reducible apply keeps_ite
    | with_reducible apply keeps_foldl
    | (fail_if_no_progress with_reducible refine keeps_mk ?_ rfl rfl rfl rfl)
    | dsimp only
    | (split <;> (try (rename_i heq; obtain rfl := snd_eq heq)))

theorem State.hopEnds_keeps {r s : State} (h : Keeps r s) :
    Keeps r (State.hopEnds s) := by
  unfold State.hopEnds
  repeat' first
    | with_reducible assumption
    | intro _
    | with_reducible apply State.hwSet_keeps
    | with_reducible apply keeps_ite
    | with_reducible apply keeps_foldl
    | (fail_if_no_progress with_reducible refine keeps_mk ?_ rfl rfl rfl rfl)
    | dsimp only
    | (split <;> (try (rename_i heq; obtain rfl := snd_eq heq)))

theorem State.fillMpllBands_keeps {r s : State} (h : Keeps r s) :
    Keeps r (State.fillMpllBands s) := by
  unfold State.fillMpllBands
  repeat' first
    | with_reducible assumption
    | intro _
    | with_reducible apply State.setReg_keeps
    | with_reducible apply State.nextFree_keeps
    | with_reducible apply keeps_ite
    | with_reducible apply keeps_foldl
    | (fail_if_no_progress with_reducible refine keeps_mk ?_ rfl rfl rfl rfl)
    | dsimp only
    | (split <;> (try (rename_i heq; obtain rfl := snd_eq heq)))

theorem execPllOutputsOpen_keeps {r s : State} (h : Keeps r s) (p : Pll) (cycles : Nat) (sclkRate : BitVec 15 := 0) :
    KeepsOut r (execPllOutputsOpen p cycles s sclkRate) := by
  unfold execPllOutputsOpen
  repeat' first
    | with_reducible assumption
    | intro _
    | with_reducible apply State.setPll_keeps
    | with_reducible apply State.spllOpens_keeps
    | with_reducible apply State.hopEnds_keeps
    | with_reducible apply State.fillMpllBands_keeps
    | with_reducible apply keeps_ite
    | with_reducible apply keeps_foldl
    | (fail_if_no_progress with_reducible refine keeps_mk ?_ rfl rfl rfl rfl)
    | with_reducible apply keepsOut_next
    | with_reducible apply keepsOut_fault
    | with_reducible apply keepsOut_ite
    | dsimp only
    | (split <;> (try (rename_i heq; obtain rfl := snd_eq heq)))

theorem execPllLockTimeout_keeps {r s : State} (h : Keeps r s) (p : Pll) :
    KeepsOut r (execPllLockTimeout p s) := by
  unfold execPllLockTimeout
  repeat' first
    | with_reducible assumption
    | intro _
    | with_reducible apply State.setPll_keeps
    | with_reducible apply keeps_ite
    | with_reducible apply keeps_foldl
    | (fail_if_no_progress with_reducible refine keeps_mk ?_ rfl rfl rfl rfl)
    | with_reducible apply keepsOut_next
    | with_reducible apply keepsOut_fault
    | with_reducible apply keepsOut_ite
    | dsimp only
    | (split <;> (try (rename_i heq; obtain rfl := snd_eq heq)))

theorem State.toHoldover_keeps {r s : State} (h : Keeps r s) (p : Pll) :
    Keeps r (State.toHoldover s p) := by
  unfold State.toHoldover
  repeat' first
    | with_reducible assumption
    | intro _
    | with_reducible apply State.setPll_keeps
    | with_reducible apply keeps_ite
    | with_reducible apply keeps_foldl
    | (fail_if_no_progress with_reducible refine keeps_mk ?_ rfl rfl rfl rfl)
    | dsimp only
    | (split <;> (try (rename_i heq; obtain rfl := snd_eq heq)))

theorem State.toBypass_keeps {r s : State} (h : Keeps r s) :
    Keeps r (State.toBypass s) := by
  unfold State.toBypass
  repeat' first
    | with_reducible assumption
    | intro _
    | with_reducible apply State.setF_keeps
    | with_reducible apply State.setGate_keeps
    | with_reducible apply State.setPll_keeps
    | with_reducible apply State.useBypass_keeps
    | with_reducible apply State.jumpRecord_keeps
    | with_reducible apply keeps_ite
    | with_reducible apply keeps_foldl
    | (fail_if_no_progress with_reducible refine keeps_mk ?_ rfl rfl rfl rfl)
    | dsimp only
    | (split <;> (try (rename_i heq; obtain rfl := snd_eq heq)))

theorem State.clkBypass_keeps {r s : State} (h : Keeps r s) :
    Keeps r (State.clkBypass s) := by
  unfold State.clkBypass
  repeat' first
    | with_reducible assumption
    | intro _
    | with_reducible apply State.hwSet_keeps
    | with_reducible apply State.makeRecord_keeps
    | with_reducible apply State.bypassAcquisition_keeps
    | with_reducible apply State.toBypass_keeps
    | with_reducible apply keeps_ite
    | with_reducible apply keeps_foldl
    | (fail_if_no_progress with_reducible refine keeps_mk ?_ rfl rfl rfl rfl)
    | dsimp only
    | (split <;> (try (rename_i heq; obtain rfl := snd_eq heq)))

theorem execUnlock_keeps {r s : State} (h : Keeps r s) (p : Pll) (counts : List Nat := []) :
    KeepsOut r (execUnlock p s counts) := by
  unfold execUnlock
  repeat' first
    | with_reducible assumption
    | intro _
    | with_reducible apply State.hwSet_keeps
    | with_reducible apply State.measure_keeps
    | with_reducible apply State.toHoldover_keeps
    | with_reducible apply State.clkBypass_keeps
    | with_reducible apply keeps_ite
    | with_reducible apply keeps_foldl
    | (fail_if_no_progress with_reducible refine keeps_mk ?_ rfl rfl rfl rfl)
    | with_reducible apply keepsOut_next
    | with_reducible apply keepsOut_fault
    | with_reducible apply keepsOut_ite
    | dsimp only
    | (split <;> (try (rename_i heq; obtain rfl := snd_eq heq)))

theorem State.dropGo_keeps {r s : State} (h : Keeps r s) :
    Keeps r (State.dropGo s) := by
  unfold State.dropGo
  repeat' first
    | with_reducible assumption
    | intro _
    | with_reducible apply State.setReg_keeps
    | with_reducible apply State.hwSet_keeps
    | with_reducible apply keeps_ite
    | with_reducible apply keeps_foldl
    | (fail_if_no_progress with_reducible refine keeps_mk ?_ rfl rfl rfl rfl)
    | dsimp only
    | (split <;> (try (rename_i heq; obtain rfl := snd_eq heq)))

theorem State.startGo_keeps {r s : State} (h : Keeps r s) :
    Keeps r (State.startGo s) := by
  unfold State.startGo
  repeat' first
    | with_reducible assumption
    | intro _
    | with_reducible apply State.beginRelock_keeps
    | with_reducible apply keeps_ite
    | with_reducible apply keeps_foldl
    | (fail_if_no_progress with_reducible refine keeps_mk ?_ rfl rfl rfl rfl)
    | dsimp only
    | (split <;> (try (rename_i heq; obtain rfl := snd_eq heq)))

theorem execRefLost_keeps {r s : State} (h : Keeps r s) (byp : Bool := false) :
    KeepsOut r (execRefLost s byp) := by
  unfold execRefLost
  repeat' first
    | with_reducible assumption
    | intro _
    | with_reducible apply State.setBit_keeps
    | with_reducible apply State.hwSet_keeps
    | with_reducible apply State.bypClkNow_keeps
    | with_reducible apply State.toHoldover_keeps
    | with_reducible apply State.clkBypass_keeps
    | with_reducible apply State.dropGo_keeps
    | with_reducible apply keeps_ite
    | with_reducible apply keeps_foldl
    | (fail_if_no_progress with_reducible refine keeps_mk ?_ rfl rfl rfl rfl)
    | with_reducible apply keepsOut_next
    | with_reducible apply keepsOut_fault
    | with_reducible apply keepsOut_ite
    | dsimp only
    | (split <;> (try (rename_i heq; obtain rfl := snd_eq heq)))

theorem State.reengage_keeps {r s : State} (h : Keeps r s) :
    Keeps r (State.reengage s) := by
  unfold State.reengage
  repeat' first
    | with_reducible assumption
    | intro _
    | with_reducible apply State.setPll_keeps
    | with_reducible apply keeps_ite
    | with_reducible apply keeps_foldl
    | (fail_if_no_progress with_reducible refine keeps_mk ?_ rfl rfl rfl rfl)
    | dsimp only
    | (split <;> (try (rename_i heq; obtain rfl := snd_eq heq)))

theorem State.spllReturns_keeps {r s : State} (h : Keeps r s) (j : Int) :
    Keeps r (State.spllReturns s j) := by
  unfold State.spllReturns
  repeat' first
    | with_reducible assumption
    | intro _
    | with_reducible apply State.set64_keeps
    | with_reducible apply State.hwSet_keeps
    | with_reducible apply State.calRelock_keeps
    | with_reducible apply State.jumpRecord_keeps
    | with_reducible apply State.reengage_keeps
    | with_reducible apply keeps_ite
    | with_reducible apply keeps_foldl
    | (fail_if_no_progress with_reducible refine keeps_mk ?_ rfl rfl rfl rfl)
    | dsimp only
    | (split <;> (try (rename_i heq; obtain rfl := snd_eq heq)))

theorem State.pllReturns_keeps {r s : State} (h : Keeps r s) (p : Pll) :
    Keeps r (State.pllReturns s p) := by
  unfold State.pllReturns
  repeat' first
    | with_reducible assumption
    | intro _
    | with_reducible apply State.setPll_keeps
    | with_reducible apply keeps_ite
    | with_reducible apply keeps_foldl
    | (fail_if_no_progress with_reducible refine keeps_mk ?_ rfl rfl rfl rfl)
    | dsimp only
    | (split <;> (try (rename_i heq; obtain rfl := snd_eq heq)))

theorem execRefReturn_keeps {r s : State} (h : Keeps r s) (j : Int) (byp : Bool := false) (ref : Option RefClass := none) (lane : Bool := false) :
    KeepsOut r (execRefReturn j s byp ref lane) := by
  unfold execRefReturn
  repeat' first
    | with_reducible assumption
    | intro _
    | with_reducible apply State.setBit_keeps
    | with_reducible apply State.hwSet_keeps
    | with_reducible apply State.bypClkNow_keeps
    | with_reducible apply State.relockDue_keeps
    | with_reducible apply State.spllReturns_keeps
    | with_reducible apply State.pllReturns_keeps
    | with_reducible apply keeps_ite
    | with_reducible apply keeps_foldl
    | (fail_if_no_progress with_reducible refine keeps_mk ?_ rfl rfl rfl rfl)
    | with_reducible apply keepsOut_next
    | with_reducible apply keepsOut_fault
    | with_reducible apply keepsOut_ite
    | dsimp only
    | (split <;> (try (rename_i heq; obtain rfl := snd_eq heq)))

theorem State.realignHold_keeps {r s : State} (h : Keeps r s) :
    Keeps r (State.realignHold s) := by
  unfold State.realignHold
  repeat' first
    | with_reducible assumption
    | intro _
    | with_reducible apply State.hwSet_keeps
    | with_reducible apply State.closeOpenAsGaps_keeps
    | with_reducible apply keeps_ite
    | with_reducible apply keeps_foldl
    | (fail_if_no_progress with_reducible refine keeps_mk ?_ rfl rfl rfl rfl)
    | dsimp only
    | (split <;> (try (rename_i heq; obtain rfl := snd_eq heq)))

theorem State.realignPlls_keeps {r s : State} (h : Keeps r s) (st : Nat) :
    Keeps r (State.realignPlls s st) := by
  unfold State.realignPlls
  repeat' first
    | with_reducible assumption
    | intro _
    | with_reducible apply State.setF_keeps
    | with_reducible apply State.setBit_keeps
    | with_reducible apply State.setGate_keeps
    | with_reducible apply keeps_ite
    | with_reducible apply keeps_foldl
    | (fail_if_no_progress with_reducible refine keeps_mk ?_ rfl rfl rfl rfl)
    | dsimp only
    | (split <;> (try (rename_i heq; obtain rfl := snd_eq heq)))

theorem State.realignGate_keeps {r s : State} (h : Keeps r s) :
    Keeps r (State.realignGate s) := by
  unfold State.realignGate
  repeat' first
    | with_reducible assumption
    | intro _
    | with_reducible apply State.useBypass_keeps
    | with_reducible apply State.clkBypass_keeps
    | with_reducible apply State.realignPlls_keeps
    | with_reducible apply keeps_ite
    | with_reducible apply keeps_foldl
    | (fail_if_no_progress with_reducible refine keeps_mk ?_ rfl rfl rfl rfl)
    | dsimp only
    | (split <;> (try (rename_i heq; obtain rfl := snd_eq heq)))

theorem State.rebase_keeps {r s : State} (h : Keeps r s) (d : Int) :
    Keeps r (State.rebase s d) := by
  unfold State.rebase
  repeat' first
    | with_reducible assumption
    | intro _
    | with_reducible apply keeps_ite
    | with_reducible apply keeps_foldl
    | (fail_if_no_progress with_reducible refine keeps_mk ?_ rfl rfl rfl rfl)
    | dsimp only
    | (split <;> (try (rename_i heq; obtain rfl := snd_eq heq)))

theorem State.loadTsc_keeps {r s : State} (h : Keeps r s) (n : Nat) :
    Keeps r (State.loadTsc s n) := by
  unfold State.loadTsc
  repeat' first
    | with_reducible assumption
    | intro _
    | with_reducible apply State.set64_keeps
    | with_reducible apply State.rebase_keeps
    | with_reducible apply keeps_ite
    | with_reducible apply keeps_foldl
    | (fail_if_no_progress with_reducible refine keeps_mk ?_ rfl rfl rfl rfl)
    | dsimp only
    | (split <;> (try (rename_i heq; obtain rfl := snd_eq heq)))

theorem execRealignRestart_keeps {r s : State} (h : Keeps r s) (refEdges : Nat) :
    KeepsOut r (execRealignRestart refEdges s) := by
  unfold execRealignRestart
  repeat' first
    | with_reducible assumption
    | intro _
    | with_reducible apply State.realignPlls_keeps
    | with_reducible apply State.loadTsc_keeps
    | with_reducible apply keeps_ite
    | with_reducible apply keeps_foldl
    | (fail_if_no_progress with_reducible refine keeps_mk ?_ rfl rfl rfl rfl)
    | with_reducible apply keepsOut_next
    | with_reducible apply keepsOut_fault
    | with_reducible apply keepsOut_ite
    | dsimp only
    | (split <;> (try (rename_i heq; obtain rfl := snd_eq heq)))

theorem execHoldExpired_keeps {r s : State} (h : Keeps r s) (byp : Bool := false) :
    KeepsOut r (execHoldExpired s byp) := by
  unfold execHoldExpired
  repeat' first
    | with_reducible assumption
    | intro _
    | with_reducible apply State.bypClkNow_keeps
    | with_reducible apply keeps_ite
    | with_reducible apply keeps_foldl
    | (fail_if_no_progress with_reducible refine keeps_mk ?_ rfl rfl rfl rfl)
    | with_reducible apply keepsOut_next
    | with_reducible apply keepsOut_fault
    | with_reducible apply keepsOut_ite
    | dsimp only
    | (split <;> (try (rename_i heq; obtain rfl := snd_eq heq)))

theorem State.expireHold_keeps {r s : State} (h : Keeps r s) :
    Keeps r (State.expireHold s) := by
  unfold State.expireHold
  repeat' first
    | with_reducible assumption
    | intro _
    | with_reducible apply State.hwSet_keeps
    | with_reducible apply State.clkBypass_keeps
    | with_reducible apply keeps_ite
    | with_reducible apply keeps_foldl
    | (fail_if_no_progress with_reducible refine keeps_mk ?_ rfl rfl rfl rfl)
    | dsimp only
    | (split <;> (try (rename_i heq; obtain rfl := snd_eq heq)))

theorem execSclkLost_keeps {r s : State} (h : Keeps r s) (byp : Bool := false) :
    KeepsOut r (execSclkLost s byp) := by
  unfold execSclkLost
  repeat' first
    | with_reducible assumption
    | intro _
    | with_reducible apply State.bypClkNow_keeps
    | with_reducible apply State.clkBypass_keeps
    | with_reducible apply keeps_ite
    | with_reducible apply keeps_foldl
    | (fail_if_no_progress with_reducible refine keeps_mk ?_ rfl rfl rfl rfl)
    | with_reducible apply keepsOut_next
    | with_reducible apply keepsOut_fault
    | with_reducible apply keepsOut_ite
    | dsimp only
    | (split <;> (try (rename_i heq; obtain rfl := snd_eq heq)))

theorem State.syncWrite_keeps {r s : State} (h : Keeps r s) (v : Word) :
    Keeps r (State.syncWrite s v) := by
  unfold State.syncWrite
  repeat' first
    | with_reducible assumption
    | intro _
    | with_reducible apply State.hwSet_keeps
    | with_reducible apply State.storeReg_keeps
    | with_reducible apply keeps_ite
    | with_reducible apply keeps_foldl
    | (fail_if_no_progress with_reducible refine keeps_mk ?_ rfl rfl rfl rfl)
    | dsimp only
    | (split <;> (try (rename_i heq; obtain rfl := snd_eq heq)))

theorem execSyncInEdge_keeps {r s : State} (h : Keeps r s) (phase : Int) :
    KeepsOut r (execSyncInEdge phase s) := by
  unfold execSyncInEdge
  repeat' first
    | with_reducible assumption
    | intro _
    | with_reducible apply State.setReg_keeps
    | with_reducible apply State.setF_keeps
    | with_reducible apply State.set64_keeps
    | with_reducible apply State.hwSet_keeps
    | with_reducible apply State.calRestart_keeps
    | with_reducible apply State.loadTsc_keeps
    | with_reducible apply keeps_ite
    | with_reducible apply keeps_foldl
    | (fail_if_no_progress with_reducible refine keeps_mk ?_ rfl rfl rfl rfl)
    | with_reducible apply keepsOut_next
    | with_reducible apply keepsOut_fault
    | with_reducible apply keepsOut_ite
    | dsimp only
    | (split <;> (try (rename_i heq; obtain rfl := snd_eq heq)))

theorem State.retrim_keeps {r s : State} (h : Keeps r s) (v : Nat) :
    Keeps r (State.retrim s v) := by
  unfold State.retrim
  repeat' first
    | with_reducible assumption
    | intro _
    | with_reducible apply State.setReg_keeps
    | with_reducible apply State.setBit_keeps
    | with_reducible apply keeps_ite
    | with_reducible apply keeps_foldl
    | (fail_if_no_progress with_reducible refine keeps_mk ?_ rfl rfl rfl rfl)
    | dsimp only
    | (split <;> (try (rename_i heq; obtain rfl := snd_eq heq)))

theorem State.trimWrite_keeps {r s : State} (h : Keeps r s) (v : Word) :
    Keeps r (State.trimWrite s v) := by
  unfold State.trimWrite
  repeat' first
    | with_reducible assumption
    | intro _
    | with_reducible apply State.hwSet_keeps
    | with_reducible apply State.retrim_keeps
    | with_reducible apply keeps_ite
    | with_reducible apply keeps_foldl
    | (fail_if_no_progress with_reducible refine keeps_mk ?_ rfl rfl rfl rfl)
    | dsimp only
    | (split <;> (try (rename_i heq; obtain rfl := snd_eq heq)))

theorem execPairTrimWrite_keeps {r s : State} (h : Keeps r s) (v : Word) :
    KeepsOut r (execPairTrimWrite v s) := by
  unfold execPairTrimWrite
  repeat' first
    | with_reducible assumption
    | intro _
    | with_reducible apply State.hostWrite_keeps
    | with_reducible apply State.trimWrite_keeps
    | with_reducible apply keeps_ite
    | with_reducible apply keeps_foldl
    | (fail_if_no_progress with_reducible refine keeps_mk ?_ rfl rfl rfl rfl)
    | with_reducible apply keepsOut_next
    | with_reducible apply keepsOut_fault
    | with_reducible apply keepsOut_ite
    | dsimp only
    | (split <;> (try (rename_i heq; obtain rfl := snd_eq heq)))

theorem State.slewTrim_keeps {r s : State} (h : Keeps r s) :
    Keeps r (State.slewTrim s) := by
  unfold State.slewTrim
  repeat' first
    | with_reducible assumption
    | intro _
    | with_reducible apply State.setBit_keeps
    | with_reducible apply keeps_ite
    | with_reducible apply keeps_foldl
    | (fail_if_no_progress with_reducible refine keeps_mk ?_ rfl rfl rfl rfl)
    | dsimp only
    | (split <;> (try (rename_i heq; obtain rfl := snd_eq heq)))

theorem State.outWrite_keeps {r s : State} (h : Keeps r s) (p : Pll) (o : Nat) (v : Word) :
    Keeps r (State.outWrite s p o v) := by
  unfold State.outWrite
  repeat' first
    | with_reducible assumption
    | intro _
    | with_reducible apply State.setF_keeps
    | with_reducible apply State.setBit_keeps
    | with_reducible apply State.hwSet_keeps
    | with_reducible apply State.setGate_keeps
    | with_reducible apply State.takeEn_keeps
    | with_reducible apply keeps_ite
    | with_reducible apply keeps_foldl
    | (fail_if_no_progress with_reducible refine keeps_mk ?_ rfl rfl rfl rfl)
    | dsimp only
    | (split <;> (try (rename_i heq; obtain rfl := snd_eq heq)))

theorem execClkOutEnWrite_keeps {r s : State} (h : Keeps r s) (p : Pll) (o : Fin 16) (v : Word) :
    KeepsOut r (execClkOutEnWrite p o v s) := by
  unfold execClkOutEnWrite
  repeat' first
    | with_reducible assumption
    | intro _
    | with_reducible apply State.hostWrite_keeps
    | with_reducible apply State.outWrite_keeps
    | with_reducible apply keeps_ite
    | with_reducible apply keeps_foldl
    | (fail_if_no_progress with_reducible refine keeps_mk ?_ rfl rfl rfl rfl)
    | with_reducible apply keepsOut_next
    | with_reducible apply keepsOut_fault
    | with_reducible apply keepsOut_ite
    | dsimp only
    | (split <;> (try (rename_i heq; obtain rfl := snd_eq heq)))

theorem State.countTsc_keeps {r s : State} (h : Keeps r s) :
    Keeps r (State.countTsc s) := by
  unfold State.countTsc
  repeat' first
    | with_reducible assumption
    | intro _
    | with_reducible apply State.set64_keeps
    | with_reducible apply keeps_ite
    | with_reducible apply keeps_foldl
    | (fail_if_no_progress with_reducible refine keeps_mk ?_ rfl rfl rfl rfl)
    | dsimp only
    | (split <;> (try (rename_i heq; obtain rfl := snd_eq heq)))

theorem State.syncPulse_keeps {r s : State} (h : Keeps r s) :
    Keeps r (State.syncPulse s) := by
  unfold State.syncPulse
  repeat' first
    | with_reducible assumption
    | intro _
    | with_reducible apply State.send_keeps
    | with_reducible apply keeps_ite
    | with_reducible apply keeps_foldl
    | (fail_if_no_progress with_reducible refine keeps_mk ?_ rfl rfl rfl rfl)
    | dsimp only
    | (split <;> (try (rename_i heq; obtain rfl := snd_eq heq)))

theorem State.clkTick_keeps {r s : State} (h : Keeps r s) :
    Keeps r (State.clkTick s) := by
  unfold State.clkTick
  repeat' first
    | with_reducible assumption
    | intro _
    | with_reducible apply State.relockDue_keeps
    | with_reducible apply State.startGo_keeps
    | with_reducible apply State.realignHold_keeps
    | with_reducible apply State.realignGate_keeps
    | with_reducible apply State.slewTrim_keeps
    | with_reducible apply State.countTsc_keeps
    | with_reducible apply State.syncPulse_keeps
    | with_reducible apply keeps_ite
    | with_reducible apply keeps_foldl
    | (fail_if_no_progress with_reducible refine keeps_mk ?_ rfl rfl rfl rfl)
    | dsimp only
    | (split <;> (try (rename_i heq; obtain rfl := snd_eq heq)))

end Sys2Proof.Machine
end

