-- ==== Sys2Proof/Laws/KeepsCommit.lean ====
section
/-! SUPPORT. What every operation of Machine/Commit.lean keeps: the queue, the fabric clock, the canonical form of the register
file and every burnt fuse. -/

set_option linter.all false

namespace Sys2Proof.Machine

theorem State.judgeLost_keeps {r s : State} (h : Keeps r s) :
    Keeps r (State.judgeLost s) := by
  unfold State.judgeLost
  repeat' first
    | with_reducible assumption
    | intro _
    | with_reducible apply State.setBit_keeps
    | with_reducible apply State.hwSet_keeps
    | with_reducible apply keeps_ite
    | with_reducible apply keeps_foldl
    | (fail_if_no_progress with_reducible refine keeps_mk ?_ rfl rfl rfl rfl)
    | dsimp only
    | (split <;> (try (rename_i heq; obtain rfl := snd_eq heq)))

theorem State.setCopyState_keeps {r s : State} (h : Keeps r s) (b : Bool) (n : Nat) :
    Keeps r (State.setCopyState s b n) := by
  unfold State.setCopyState
  repeat' first
    | with_reducible assumption
    | intro _
    | with_reducible apply State.setF_keeps
    | with_reducible apply State.judgeLost_keeps
    | with_reducible apply keeps_ite
    | with_reducible apply keeps_foldl
    | (fail_if_no_progress with_reducible refine keeps_mk ?_ rfl rfl rfl rfl)
    | dsimp only
    | (split <;> (try (rename_i heq; obtain rfl := snd_eq heq)))

theorem State.failCopy_keeps {r₀ s : State} (h : Keeps r₀ s) (b : Bool) (r : BbxRecord) :
    Keeps r₀ (State.failCopy s b r) := by
  unfold State.failCopy
  repeat' first
    | with_reducible assumption
    | intro _
    | with_reducible apply State.hwSet_keeps
    | with_reducible apply State.makeRecord_keeps
    | with_reducible apply State.setCopyState_keeps
    | with_reducible apply keeps_ite
    | with_reducible apply keeps_foldl
    | (fail_if_no_progress with_reducible refine keeps_mk ?_ rfl rfl rfl rfl)
    | dsimp only
    | (split <;> (try (rename_i heq; obtain rfl := snd_eq heq)))

theorem State.commitTo_keeps {r₀ s : State} (h : Keeps r₀ s) (b : Bool) (ok : Bool) (r : BbxRecord) :
    Keeps r₀ (State.commitTo s b ok r) := by
  unfold State.commitTo
  repeat' first
    | with_reducible assumption
    | intro _
    | with_reducible apply State.failCopy_keeps
    | with_reducible apply keeps_ite
    | with_reducible apply keeps_foldl
    | (fail_if_no_progress with_reducible refine keeps_mk ?_ rfl rfl rfl rfl)
    | dsimp only
    | (split <;> (try (rename_i heq; obtain rfl := snd_eq heq)))

theorem State.afterCommit_keeps {r₀ s : State} (h : Keeps r₀ s) (r : BbxRecord) :
    Keeps r₀ (State.afterCommit s r) := by
  unfold State.afterCommit
  repeat' first
    | with_reducible assumption
    | intro _
    | with_reducible apply State.set64_keeps
    | with_reducible apply State.crossCopy_keeps
    | with_reducible apply keeps_ite
    | with_reducible apply keeps_foldl
    | (fail_if_no_progress with_reducible refine keeps_mk ?_ rfl rfl rfl rfl)
    | dsimp only
    | (split <;> (try (rename_i heq; obtain rfl := snd_eq heq)))

theorem State.commitHead_keeps {r s : State} (h : Keeps r s) (okA : Bool) (okB : Bool) :
    Keeps r (State.commitHead s okA okB) := by
  unfold State.commitHead
  repeat' first
    | with_reducible assumption
    | intro _
    | with_reducible apply State.commitTo_keeps
    | with_reducible apply State.afterCommit_keeps
    | with_reducible apply State.ring_keeps
    | with_reducible apply keeps_ite
    | with_reducible apply keeps_foldl
    | (fail_if_no_progress with_reducible refine keeps_mk ?_ rfl rfl rfl rfl)
    | dsimp only
    | (split <;> (try (rename_i heq; obtain rfl := snd_eq heq)))

theorem commitAll_keeps {r s : State} (h : Keeps r s) (n : Nat) : Keeps r (commitAll n s) := by
  induction n generalizing s with
  | zero => exact h
  | succ n ih => exact ih (State.commitHead_keeps h _ _)

theorem State.holeRecord_keeps {r s : State} (h : Keeps r s) (first : Nat) (last : Nat) (cause : Nat) :
    Keeps r (State.holeRecord s first last cause) := by
  unfold State.holeRecord
  repeat' first
    | with_reducible assumption
    | intro _
    | with_reducible apply State.makeRecord_keeps
    | with_reducible apply keeps_ite
    | with_reducible apply keeps_foldl
    | (fail_if_no_progress with_reducible refine keeps_mk ?_ rfl rfl rfl rfl)
    | dsimp only
    | (split <;> (try (rename_i heq; obtain rfl := snd_eq heq)))

theorem State.testCopies_keeps {r s : State} (h : Keeps r s) (passA : Bool) (passB : Bool) :
    Keeps r (State.testCopies s passA passB) := by
  unfold State.testCopies
  repeat' first
    | with_reducible assumption
    | intro _
    | with_reducible apply State.hwSet_keeps
    | with_reducible apply State.setCopyState_keeps
    | with_reducible apply commitAll_keeps
    | with_reducible apply State.holeRecord_keeps
    | with_reducible apply State.ring_keeps
    | with_reducible apply keeps_ite
    | with_reducible apply keeps_foldl
    | (fail_if_no_progress with_reducible refine keeps_mk ?_ rfl rfl rfl rfl)
    | dsimp only
    | (split <;> (try (rename_i heq; obtain rfl := snd_eq heq)))

theorem State.savePage_keeps {r s : State} (h : Keeps r s) :
    Keeps r (State.savePage s) := by
  unfold State.savePage
  repeat' first
    | with_reducible assumption
    | intro _
    | with_reducible apply keeps_ite
    | with_reducible apply keeps_foldl
    | (fail_if_no_progress with_reducible refine keeps_mk ?_ rfl rfl rfl rfl)
    | dsimp only
    | (split <;> (try (rename_i heq; obtain rfl := snd_eq heq)))

theorem State.addTime_keeps {r s : State} (h : Keeps r s) (n : Nat) :
    Keeps r (State.addTime s n) := by
  unfold State.addTime
  repeat' first
    | with_reducible assumption
    | intro _
    | with_reducible apply State.setReg_keeps
    | with_reducible apply keeps_ite
    | with_reducible apply keeps_foldl
    | (fail_if_no_progress with_reducible refine keeps_mk ?_ rfl rfl rfl rfl)
    | dsimp only
    | (split <;> (try (rename_i heq; obtain rfl := snd_eq heq)))

theorem State.retry_keeps {r s : State} (h : Keeps r s) (passA : Bool) (passB : Bool) :
    Keeps r (State.retry s passA passB) := by
  unfold State.retry
  repeat' first
    | with_reducible assumption
    | intro _
    | with_reducible apply State.setCopyState_keeps
    | with_reducible apply keeps_ite
    | with_reducible apply keeps_foldl
    | (fail_if_no_progress with_reducible refine keeps_mk ?_ rfl rfl rfl rfl)
    | dsimp only
    | (split <;> (try (rename_i heq; obtain rfl := snd_eq heq)))

theorem State.passTime_keeps {r s : State} (h : Keeps r s) (n : Nat) :
    Keeps r (State.passTime s n) := by
  unfold State.passTime
  repeat' first
    | with_reducible assumption
    | intro _
    | with_reducible apply State.savePage_keeps
    | with_reducible apply State.addTime_keeps
    | with_reducible apply keeps_ite
    | with_reducible apply keeps_foldl
    | (fail_if_no_progress with_reducible refine keeps_mk ?_ rfl rfl rfl rfl)
    | dsimp only
    | (split <;> (try (rename_i heq; obtain rfl := snd_eq heq)))

theorem State.replay_keeps {r₀ s : State} (h : Keeps r₀ s) (r : BbxRecord) :
    Keeps r₀ (State.replay s r) := by
  unfold State.replay
  repeat' first
    | with_reducible assumption
    | intro _
    | with_reducible apply State.hwSet_keeps
    | with_reducible apply State.commitTo_keeps
    | with_reducible apply State.afterCommit_keeps
    | with_reducible apply keeps_ite
    | with_reducible apply keeps_foldl
    | (fail_if_no_progress with_reducible refine keeps_mk ?_ rfl rfl rfl rfl)
    | dsimp only
    | (split <;> (try (rename_i heq; obtain rfl := snd_eq heq)))

theorem State.clearJournals_keeps {r s : State} (h : Keeps r s) :
    Keeps r (State.clearJournals s) := by
  unfold State.clearJournals
  repeat' first
    | with_reducible assumption
    | intro _
    | with_reducible apply keeps_ite
    | with_reducible apply keeps_foldl
    | (fail_if_no_progress with_reducible refine keeps_mk ?_ rfl rfl rfl rfl)
    | dsimp only
    | (split <;> (try (rename_i heq; obtain rfl := snd_eq heq)))

theorem State.examineJournals_keeps {r s : State} (h : Keeps r s) (a : Option Journal) (b : Option Journal) :
    Keeps r (State.examineJournals s a b).2 := by
  unfold State.examineJournals
  repeat' first
    | with_reducible assumption
    | intro _
    | with_reducible apply State.replay_keeps
    | with_reducible apply State.clearJournals_keeps
    | with_reducible apply keeps_ite
    | with_reducible apply keeps_foldl
    | (fail_if_no_progress with_reducible refine keeps_mk ?_ rfl rfl rfl rfl)
    | with_reducible apply keeps_ite2
    | dsimp only
    | (split <;> (try (rename_i heq; obtain rfl := snd_eq heq)))

end Sys2Proof.Machine
end

