-- ==== Sys2Proof/Laws/KeepsReset.lean ====
section
/-! SUPPORT. What every operation of Machine/Reset.lean keeps: the queue, the fabric clock, the canonical form of the register
file and every burnt fuse. -/

set_option linter.all false

namespace Sys2Proof.Machine

theorem State.keepRegs_keeps {r s : State} (h : Keeps r s) (keep : Nat → Bool) : Keeps r (s.keepRegs keep) :=
  ⟨h.queue, h.clock, fun c => Sys2Proof.Laws.sparseWf_filter _ _ _ (h.canon c), h.fuses⟩

theorem State.clearStructure_keeps {r s : State} (h : Keeps r s) :
    Keeps r (State.clearStructure s) := by
  unfold State.clearStructure
  repeat' first
    | with_reducible assumption
    | intro _
    | with_reducible apply keeps_ite
    | with_reducible apply keeps_foldl
    | (fail_if_no_progress with_reducible refine keeps_mk ?_ rfl rfl rfl rfl)
    | dsimp only
    | (split <;> (try (rename_i heq; obtain rfl := snd_eq heq)))

theorem State.sampleBoard_keeps {r s : State} (h : Keeps r s) (full : Bool) (straps : Straps) (ref : RefClass) :
    Keeps r (State.sampleBoard s full straps ref) := by
  unfold State.sampleBoard
  repeat' first
    | with_reducible assumption
    | intro _
    | with_reducible apply State.setF_keeps
    | with_reducible apply State.setBit_keeps
    | with_reducible apply State.setRegs_keeps
    | with_reducible apply keeps_ite
    | with_reducible apply keeps_foldl
    | (fail_if_no_progress with_reducible refine keeps_mk ?_ rfl rfl rfl rfl)
    | dsimp only
    | (split <;> (try (rename_i heq; obtain rfl := snd_eq heq)))

theorem State.enterReset_keeps {r s : State} (h : Keeps r s) (cause : Nat) (full : Bool) (straps : Straps) (ref : RefClass) (load : LoadFrom) :
    Keeps r (State.enterReset s cause full straps ref load) := by
  unfold State.enterReset
  repeat' first
    | with_reducible assumption
    | intro _
    | with_reducible apply State.setReg_keeps
    | with_reducible apply State.setF_keeps
    | with_reducible apply State.setBit_keeps
    | with_reducible apply State.enter_keeps
    | with_reducible apply State.entryRecord_keeps
    | with_reducible apply State.startPlls_keeps
    | with_reducible apply State.keepRegs_keeps
    | with_reducible apply State.clearStructure_keeps
    | with_reducible apply State.sampleBoard_keeps
    | with_reducible apply keeps_ite
    | with_reducible apply keeps_foldl
    | (fail_if_no_progress with_reducible refine keeps_mk ?_ rfl rfl rfl rfl)
    | dsimp only
    | (split <;> (try (rename_i heq; obtain rfl := snd_eq heq)))

theorem State.quiesce_keeps {r s : State} (h : Keeps r s) :
    Keeps r (State.quiesce s) := by
  unfold State.quiesce
  repeat' first
    | with_reducible assumption
    | intro _
    | with_reducible apply State.setReg_keeps
    | with_reducible apply State.setF_keeps
    | with_reducible apply State.setBit_keeps
    | with_reducible apply State.calHalt_keeps
    | with_reducible apply State.setPll_keeps
    | with_reducible apply keeps_ite
    | with_reducible apply keeps_foldl
    | (fail_if_no_progress with_reducible refine keeps_mk ?_ rfl rfl rfl rfl)
    | dsimp only
    | (split <;> (try (rename_i heq; obtain rfl := snd_eq heq)))

theorem State.enterSafeTalk_keeps {r s : State} (h : Keeps r s) (cause : Nat) (cls : Nat) (detail : Nat) :
    Keeps r (State.enterSafeTalk s cause cls detail) := by
  unfold State.enterSafeTalk
  repeat' first
    | with_reducible assumption
    | intro _
    | with_reducible apply State.setF_keeps
    | with_reducible apply State.enter_keeps
    | with_reducible apply State.entryRecord_keeps
    | with_reducible apply State.quiesce_keeps
    | with_reducible apply keeps_ite
    | with_reducible apply keeps_foldl
    | (fail_if_no_progress with_reducible refine keeps_mk ?_ rfl rfl rfl rfl)
    | dsimp only
    | (split <;> (try (rename_i heq; obtain rfl := snd_eq heq)))

theorem State.enterOff_keeps {r s : State} (h : Keeps r s) :
    Keeps r (State.enterOff s) := by
  unfold State.enterOff
  repeat' first
    | with_reducible assumption
    | intro _
    | with_reducible apply State.setReg_keeps
    | with_reducible apply State.keepRegs_keeps
    | with_reducible apply State.clearStructure_keeps
    | with_reducible apply State.ring_keeps
    | with_reducible apply keeps_ite
    | with_reducible apply keeps_foldl
    | (fail_if_no_progress with_reducible refine keeps_mk ?_ rfl rfl rfl rfl)
    | dsimp only
    | (split <;> (try (rename_i heq; obtain rfl := snd_eq heq)))

theorem State.enterAonUp_keeps {r s : State} (h : Keeps r s) (cause : Nat) (i2cAddr : BitVec 3) :
    Keeps r (State.enterAonUp s cause i2cAddr) := by
  unfold State.enterAonUp
  repeat' first
    | with_reducible assumption
    | intro _
    | with_reducible apply State.setBit_keeps
    | with_reducible apply State.enter_keeps
    | with_reducible apply State.keepRegs_keeps
    | with_reducible apply State.clearStructure_keeps
    | with_reducible apply keeps_ite
    | with_reducible apply keeps_foldl
    | (fail_if_no_progress with_reducible refine keeps_mk ?_ rfl rfl rfl rfl)
    | dsimp only
    | (split <;> (try (rename_i heq; obtain rfl := snd_eq heq)))

end Sys2Proof.Machine
end

