-- ==== Sys2Proof/Laws/KeepsBbx.lean ====
section
/-! SUPPORT. What every operation of Machine/Bbx.lean keeps: the queue, the fabric clock, the canonical form of the register
file and every burnt fuse. -/

set_option linter.all false

namespace Sys2Proof.Machine

theorem execRecordMade_keeps {r s : State} (h : Keeps r s) (source : Byte) (code : BitVec 16) (payload : List Byte) :
    KeepsOut r (execRecordMade source code payload s) := by
  unfold execRecordMade
  repeat' first
    | with_reducible assumption
    | intro _
    | with_reducible apply State.makeRecord_keeps
    | with_reducible apply keeps_ite
    | with_reducible apply keeps_foldl
    | (fail_if_no_progress with_reducible refine keeps_mk ?_ rfl rfl rfl rfl)
    | with_reducible apply keepsOut_next
    | with_reducible apply keepsOut_fault
    | with_reducible apply keepsOut_ite
    | dsimp only
    | (split <;> (try (rename_i heq; obtain rfl := snd_eq heq)))

theorem execRecordCommitted_keeps {r s : State} (h : Keeps r s) (okA : Bool) (okB : Bool) :
    KeepsOut r (execRecordCommitted okA okB s) := by
  unfold execRecordCommitted
  repeat' first
    | with_reducible assumption
    | intro _
    | with_reducible apply State.commitHead_keeps
    | with_reducible apply keeps_ite
    | with_reducible apply keeps_foldl
    | (fail_if_no_progress with_reducible refine keeps_mk ?_ rfl rfl rfl rfl)
    | with_reducible apply keepsOut_next
    | with_reducible apply keepsOut_fault
    | with_reducible apply keepsOut_ite
    | dsimp only
    | (split <;> (try (rename_i heq; obtain rfl := snd_eq heq)))

theorem execRetry_keeps {r s : State} (h : Keeps r s) (passA : Bool) (passB : Bool) :
    KeepsOut r (execRetry passA passB s) := by
  unfold execRetry
  repeat' first
    | with_reducible assumption
    | intro _
    | with_reducible apply State.hostWrite_keeps
    | with_reducible apply State.retry_keeps
    | with_reducible apply keeps_ite
    | with_reducible apply keeps_foldl
    | (fail_if_no_progress with_reducible refine keeps_mk ?_ rfl rfl rfl rfl)
    | with_reducible apply keepsOut_next
    | with_reducible apply keepsOut_fault
    | with_reducible apply keepsOut_ite
    | dsimp only
    | (split <;> (try (rename_i heq; obtain rfl := snd_eq heq)))

theorem State.snapLatch_keeps {r s : State} (h : Keeps r s) :
    Keeps r (State.snapLatch s) := by
  unfold State.snapLatch
  repeat' first
    | with_reducible assumption
    | intro _
    | with_reducible apply keeps_ite
    | with_reducible apply keeps_foldl
    | (fail_if_no_progress with_reducible refine keeps_mk ?_ rfl rfl rfl rfl)
    | dsimp only
    | (split <;> (try (rename_i heq; obtain rfl := snd_eq heq)))

theorem State.snapRelease_keeps {r s : State} (h : Keeps r s) :
    Keeps r (State.snapRelease s) := by
  unfold State.snapRelease
  repeat' first
    | with_reducible assumption
    | intro _
    | with_reducible apply State.setBit_keeps
    | with_reducible apply keeps_ite
    | with_reducible apply keeps_foldl
    | (fail_if_no_progress with_reducible refine keeps_mk ?_ rfl rfl rfl rfl)
    | dsimp only
    | (split <;> (try (rename_i heq; obtain rfl := snd_eq heq)))

theorem State.latchHost_keeps {r s : State} (h : Keeps r s) :
    Keeps r (State.latchHost s) := by
  unfold State.latchHost
  repeat' first
    | with_reducible assumption
    | intro _
    | with_reducible apply State.setBit_keeps
    | with_reducible apply State.hwSet_keeps
    | with_reducible apply keeps_ite
    | with_reducible apply keeps_foldl
    | (fail_if_no_progress with_reducible refine keeps_mk ?_ rfl rfl rfl rfl)
    | dsimp only
    | (split <;> (try (rename_i heq; obtain rfl := snd_eq heq)))

theorem State.latchPort_keeps {r s : State} (h : Keeps r s) :
    Keeps r (State.latchPort s) := by
  unfold State.latchPort
  repeat' first
    | with_reducible assumption
    | intro _
    | with_reducible apply keeps_ite
    | with_reducible apply keeps_foldl
    | (fail_if_no_progress with_reducible refine keeps_mk ?_ rfl rfl rfl rfl)
    | dsimp only
    | (split <;> (try (rename_i heq; obtain rfl := snd_eq heq)))

theorem State.retestCopies_keeps {r s : State} (h : Keeps r s) :
    Keeps r (State.retestCopies s) := by
  unfold State.retestCopies
  repeat' first
    | with_reducible assumption
    | intro _
    | with_reducible apply State.testCopies_keeps
    | with_reducible apply keeps_ite
    | with_reducible apply keeps_foldl
    | (fail_if_no_progress with_reducible refine keeps_mk ?_ rfl rfl rfl rfl)
    | dsimp only
    | (split <;> (try (rename_i heq; obtain rfl := snd_eq heq)))

theorem State.loadPort_keeps {r s : State} (h : Keeps r s) :
    Keeps r (State.loadPort s) := by
  unfold State.loadPort
  repeat' first
    | with_reducible assumption
    | intro _
    | with_reducible apply keeps_ite
    | with_reducible apply keeps_foldl
    | (fail_if_no_progress with_reducible refine keeps_mk ?_ rfl rfl rfl rfl)
    | dsimp only
    | (split <;> (try (rename_i heq; obtain rfl := snd_eq heq)))

theorem State.bbxSettle_keeps {r s : State} (h : Keeps r s) :
    Keeps r (State.bbxSettle s) := by
  unfold State.bbxSettle
  repeat' first
    | with_reducible assumption
    | intro _
    | with_reducible apply State.breakSnap_keeps
    | with_reducible apply commitAll_keeps
    | with_reducible apply State.latchHost_keeps
    | with_reducible apply State.latchPort_keeps
    | with_reducible apply State.retestCopies_keeps
    | with_reducible apply State.loadPort_keeps
    | with_reducible apply State.ring_keeps
    | with_reducible apply keeps_ite
    | with_reducible apply keeps_foldl
    | (fail_if_no_progress with_reducible refine keeps_mk ?_ rfl rfl rfl rfl)
    | dsimp only
    | (split <;> (try (rename_i heq; obtain rfl := snd_eq heq)))

theorem State.bbxCtrl_keeps {r s : State} (h : Keeps r s) (v : Word) :
    Keeps r (State.bbxCtrl s v) := by
  unfold State.bbxCtrl
  repeat' first
    | with_reducible assumption
    | intro _
    | with_reducible apply State.nextFree_keeps
    | with_reducible apply State.retry_keeps
    | with_reducible apply State.snapLatch_keeps
    | with_reducible apply State.snapRelease_keeps
    | with_reducible apply keeps_ite
    | with_reducible apply keeps_foldl
    | (fail_if_no_progress with_reducible refine keeps_mk ?_ rfl rfl rfl rfl)
    | dsimp only
    | (split <;> (try (rename_i heq; obtain rfl := snd_eq heq)))

theorem execSnapLatch_keeps {r s : State} (h : Keeps r s) :
    KeepsOut r (execSnapLatch s) := by
  unfold execSnapLatch
  repeat' first
    | with_reducible assumption
    | intro _
    | with_reducible apply State.hostWrite_keeps
    | with_reducible apply State.snapLatch_keeps
    | with_reducible apply keeps_ite
    | with_reducible apply keeps_foldl
    | (fail_if_no_progress with_reducible refine keeps_mk ?_ rfl rfl rfl rfl)
    | with_reducible apply keepsOut_next
    | with_reducible apply keepsOut_fault
    | with_reducible apply keepsOut_ite
    | dsimp only
    | (split <;> (try (rename_i heq; obtain rfl := snd_eq heq)))

theorem execSnapRelease_keeps {r s : State} (h : Keeps r s) :
    KeepsOut r (execSnapRelease s) := by
  unfold execSnapRelease
  repeat' first
    | with_reducible assumption
    | intro _
    | with_reducible apply State.hostWrite_keeps
    | with_reducible apply State.snapRelease_keeps
    | with_reducible apply keeps_ite
    | with_reducible apply keeps_foldl
    | (fail_if_no_progress with_reducible refine keeps_mk ?_ rfl rfl rfl rfl)
    | with_reducible apply keepsOut_next
    | with_reducible apply keepsOut_fault
    | with_reducible apply keepsOut_ite
    | dsimp only
    | (split <;> (try (rename_i heq; obtain rfl := snd_eq heq)))

theorem State.readSelLoad_keeps {r s : State} (h : Keeps r s) (v : Word) :
    Keeps r (State.readSelLoad s v) := by
  unfold State.readSelLoad
  repeat' first
    | with_reducible assumption
    | intro _
    | with_reducible apply State.setReg_keeps
    | with_reducible apply State.setRegs_keeps
    | with_reducible apply State.hwSet_keeps
    | with_reducible apply State.storeReg_keeps
    | with_reducible apply State.takeHeld_keeps
    | with_reducible apply keeps_ite
    | with_reducible apply keeps_foldl
    | (fail_if_no_progress with_reducible refine keeps_mk ?_ rfl rfl rfl rfl)
    | dsimp only
    | (split <;> (try (rename_i heq; obtain rfl := snd_eq heq)))

theorem execReadSelLoad_keeps {r s : State} (h : Keeps r s) (v : Word) :
    KeepsOut r (execReadSelLoad v s) := by
  unfold execReadSelLoad
  repeat' first
    | with_reducible assumption
    | intro _
    | with_reducible apply State.hostWrite_keeps
    | with_reducible apply State.readSelLoad_keeps
    | with_reducible apply keeps_ite
    | with_reducible apply keeps_foldl
    | (fail_if_no_progress with_reducible refine keeps_mk ?_ rfl rfl rfl rfl)
    | with_reducible apply keepsOut_next
    | with_reducible apply keepsOut_fault
    | with_reducible apply keepsOut_ite
    | dsimp only
    | (split <;> (try (rename_i heq; obtain rfl := snd_eq heq)))

theorem State.annotate_keeps {r s : State} (h : Keeps r s) (v : Word) :
    Keeps r (State.annotate s v) := by
  unfold State.annotate
  repeat' first
    | with_reducible assumption
    | intro _
    | with_reducible apply State.hwSet_keeps
    | with_reducible apply State.pushRecord_keeps
    | with_reducible apply State.makeRecord_keeps
    | with_reducible apply State.ring_keeps
    | with_reducible apply keeps_ite
    | with_reducible apply keeps_foldl
    | (fail_if_no_progress with_reducible refine keeps_mk ?_ rfl rfl rfl rfl)
    | dsimp only
    | (split <;> (try (rename_i heq; obtain rfl := snd_eq heq)))

theorem execAnnot_keeps {r s : State} (h : Keeps r s) (v : Word) :
    KeepsOut r (execAnnot v s) := by
  unfold execAnnot
  repeat' first
    | with_reducible assumption
    | intro _
    | with_reducible apply State.hostWrite_keeps
    | with_reducible apply State.annotate_keeps
    | with_reducible apply keeps_ite
    | with_reducible apply keeps_foldl
    | (fail_if_no_progress with_reducible refine keeps_mk ?_ rfl rfl rfl rfl)
    | with_reducible apply keepsOut_next
    | with_reducible apply keepsOut_fault
    | with_reducible apply keepsOut_ite
    | dsimp only
    | (split <;> (try (rename_i heq; obtain rfl := snd_eq heq)))

theorem State.postChallenge_keeps {r s : State} (h : Keeps r s) :
    Keeps r (State.postChallenge s) := by
  unfold State.postChallenge
  repeat' first
    | with_reducible assumption
    | intro _
    | with_reducible apply State.setBit_keeps
    | with_reducible apply State.setRegs_keeps
    | with_reducible apply State.nextFree_keeps
    | with_reducible apply keeps_ite
    | with_reducible apply keeps_foldl
    | (fail_if_no_progress with_reducible refine keeps_mk ?_ rfl rfl rfl rfl)
    | dsimp only
    | (split <;> (try (rename_i heq; obtain rfl := snd_eq heq)))

theorem State.voidChallenge_keeps {r s : State} (h : Keeps r s) :
    Keeps r (State.voidChallenge s) := by
  unfold State.voidChallenge
  repeat' first
    | with_reducible assumption
    | intro _
    | with_reducible apply State.setBit_keeps
    | with_reducible apply keeps_ite
    | with_reducible apply keeps_foldl
    | (fail_if_no_progress with_reducible refine keeps_mk ?_ rfl rfl rfl rfl)
    | dsimp only
    | (split <;> (try (rename_i heq; obtain rfl := snd_eq heq)))

theorem State.erase_keeps {r s : State} (h : Keeps r s) : Keeps r s.erase := by
  unfold State.erase
  dsimp only
  refine keeps_mk (State.makeRecord_keeps (State.setBit_keeps (State.setF_keeps (State.set64_keeps (State.set64_keeps
    (State.setBit_keeps ((commitAll_keeps h _).burn rfl rfl rfl ?_) _ _) _ _) _ _) _ _) _ _) _ _ _) rfl rfl rfl rfl
  simp [Fuses.Le]

theorem State.eraseCtrl_keeps {r s : State} (h : Keeps r s) (v : Word) :
    Keeps r (State.eraseCtrl s v) := by
  unfold State.eraseCtrl
  repeat' first
    | with_reducible assumption
    | intro _
    | with_reducible apply State.hwSet_keeps
    | with_reducible apply State.postChallenge_keeps
    | with_reducible apply State.voidChallenge_keeps
    | with_reducible apply State.erase_keeps
    | with_reducible apply keeps_ite
    | with_reducible apply keeps_foldl
    | (fail_if_no_progress with_reducible refine keeps_mk ?_ rfl rfl rfl rfl)
    | dsimp only
    | (split <;> (try (rename_i heq; obtain rfl := snd_eq heq)))

theorem execEraseReq_keeps {r s : State} (h : Keeps r s) (v : Word) :
    KeepsOut r (execEraseReq v s) := by
  unfold execEraseReq
  repeat' first
    | with_reducible assumption
    | intro _
    | with_reducible apply State.hostWrite_keeps
    | with_reducible apply State.eraseCtrl_keeps
    | with_reducible apply keeps_ite
    | with_reducible apply keeps_foldl
    | (fail_if_no_progress with_reducible refine keeps_mk ?_ rfl rfl rfl rfl)
    | with_reducible apply keepsOut_next
    | with_reducible apply keepsOut_fault
    | with_reducible apply keepsOut_ite
    | dsimp only
    | (split <;> (try (rename_i heq; obtain rfl := snd_eq heq)))

theorem execEraseGo_keeps {r s : State} (h : Keeps r s) (v : Word) :
    KeepsOut r (execEraseGo v s) := by
  unfold execEraseGo
  repeat' first
    | with_reducible assumption
    | intro _
    | with_reducible apply State.hostWrite_keeps
    | with_reducible apply State.eraseCtrl_keeps
    | with_reducible apply keeps_ite
    | with_reducible apply keeps_foldl
    | (fail_if_no_progress with_reducible refine keeps_mk ?_ rfl rfl rfl rfl)
    | with_reducible apply keepsOut_next
    | with_reducible apply keepsOut_fault
    | with_reducible apply keepsOut_ite
    | dsimp only
    | (split <;> (try (rename_i heq; obtain rfl := snd_eq heq)))

theorem execChallengeExpiry_keeps {r s : State} (h : Keeps r s) :
    KeepsOut r (execChallengeExpiry s) := by
  unfold execChallengeExpiry
  repeat' first
    | with_reducible assumption
    | intro _
    | with_reducible apply State.voidChallenge_keeps
    | with_reducible apply keeps_ite
    | with_reducible apply keeps_foldl
    | (fail_if_no_progress with_reducible refine keeps_mk ?_ rfl rfl rfl rfl)
    | with_reducible apply keepsOut_next
    | with_reducible apply keepsOut_fault
    | with_reducible apply keepsOut_ite
    | dsimp only
    | (split <;> (try (rename_i heq; obtain rfl := snd_eq heq)))

theorem execTimeSave_keeps {r s : State} (h : Keeps r s) (n : Nat := 60) :
    KeepsOut r (execTimeSave s n) := by
  unfold execTimeSave
  repeat' first
    | with_reducible assumption
    | intro _
    | with_reducible apply State.passTime_keeps
    | with_reducible apply keeps_ite
    | with_reducible apply keeps_foldl
    | (fail_if_no_progress with_reducible refine keeps_mk ?_ rfl rfl rfl rfl)
    | with_reducible apply keepsOut_next
    | with_reducible apply keepsOut_fault
    | with_reducible apply keepsOut_ite
    | dsimp only
    | (split <;> (try (rename_i heq; obtain rfl := snd_eq heq)))

end Sys2Proof.Machine
end

