-- ==== Sys2Proof/Laws/KeepsBeamOps.lean ====
section
/-! SUPPORT. What every operation of Machine/BeamOps.lean keeps: the queue, the fabric clock, the canonical form of the register
file and every burnt fuse. -/

set_option linter.all false

namespace Sys2Proof.Machine

theorem State.setJob_keeps {r s : State} (h : Keeps r s) (j : Nat) (x : JobSt) :
    Keeps r (State.setJob s j x) := by
  unfold State.setJob
  repeat' first
    | with_reducible assumption
    | intro _
    | with_reducible apply keeps_ite
    | with_reducible apply keeps_foldl
    | (fail_if_no_progress with_reducible refine keeps_mk ?_ rfl rfl rfl rfl)
    | dsimp only
    | (split <;> (try (rename_i heq; obtain rfl := snd_eq heq)))

theorem State.offerSpill_keeps {r s : State} (h : Keeps r s) (req : Nat) (j : Nat) (lo : Nat) (hi : Nat) :
    Keeps r (State.offerSpill s req j lo hi) := by
  unfold State.offerSpill
  repeat' first
    | with_reducible assumption
    | intro _
    | with_reducible apply State.offerArea_keeps
    | with_reducible apply keeps_ite
    | with_reducible apply keeps_foldl
    | (fail_if_no_progress with_reducible refine keeps_mk ?_ rfl rfl rfl rfl)
    | dsimp only
    | (split <;> (try (rename_i heq; obtain rfl := snd_eq heq)))

theorem State.streamTiles_keeps {r s : State} (h : Keeps r s) (j : Nat) (pre : Nat) (trigFrac : Nat) (qs : List SweepSample) :
    Keeps r (State.streamTiles s j pre trigFrac qs) := by
  unfold State.streamTiles
  repeat' first
    | with_reducible assumption
    | intro _
    | with_reducible apply State.offerSpill_keeps
    | with_reducible apply keeps_ite
    | with_reducible apply keeps_foldl
    | (fail_if_no_progress with_reducible refine keeps_mk ?_ rfl rfl rfl rfl)
    | dsimp only
    | (split <;> (try (rename_i heq; obtain rfl := snd_eq heq)))

theorem State.rebaseJob_keeps {r s : State} (h : Keeps r s) (j : Nat) :
    Keeps r (State.rebaseJob s j) := by
  unfold State.rebaseJob
  repeat' first
    | with_reducible assumption
    | intro _
    | with_reducible apply keeps_ite
    | with_reducible apply keeps_foldl
    | (fail_if_no_progress with_reducible refine keeps_mk ?_ rfl rfl rfl rfl)
    | dsimp only
    | (split <;> (try (rename_i heq; obtain rfl := snd_eq heq)))

theorem State.accumulate_keeps {r s : State} (h : Keeps r s) (c : Nat) (cseq : Nat) (pre : Nat) (trigFrac : Nat) (out : Rat) (qs : List SweepSample) :
    Keeps r (State.accumulate s c cseq pre trigFrac out qs) := by
  unfold State.accumulate
  repeat' first
    | with_reducible assumption
    | intro _
    | with_reducible apply State.nextFree_keeps
    | with_reducible apply State.editJob_keeps
    | with_reducible apply State.passEvents_keeps
    | with_reducible apply State.streamTiles_keeps
    | with_reducible apply State.rebaseJob_keeps
    | with_reducible apply keeps_ite
    | with_reducible apply keeps_foldl
    | (fail_if_no_progress with_reducible refine keeps_mk ?_ rfl rfl rfl rfl)
    | dsimp only
    | (split <;> (try (rename_i heq; obtain rfl := snd_eq heq)))

theorem State.jobFault_keeps {r s : State} (h : Keeps r s) (j : Nat) (f : JobFault) :
    Keeps r (State.jobFault s j f) := by
  unfold State.jobFault
  repeat' first
    | with_reducible assumption
    | intro _
    | with_reducible apply keeps_ite
    | with_reducible apply keeps_foldl
    | (fail_if_no_progress with_reducible refine keeps_mk ?_ rfl rfl rfl rfl)
    | dsimp only
    | (split <;> (try (rename_i heq; obtain rfl := snd_eq heq)))

theorem State.countFault_keeps {r s : State} (h : Keeps r s) (f : JobFault) :
    Keeps r (State.countFault s f) := by
  unfold State.countFault
  repeat' first
    | with_reducible assumption
    | intro _
    | with_reducible apply State.hwSet_keeps
    | with_reducible apply State.rclAdd_keeps
    | with_reducible apply keeps_ite
    | with_reducible apply keeps_foldl
    | (fail_if_no_progress with_reducible refine keeps_mk ?_ rfl rfl rfl rfl)
    | dsimp only
    | (split <;> (try (rename_i heq; obtain rfl := snd_eq heq)))

theorem State.placeJob_keeps {r s : State} (h : Keeps r s) (j : Nat) (d : JobDesc) :
    Keeps r (State.placeJob s j d).2 := by
  unfold State.placeJob
  repeat' first
    | with_reducible assumption
    | intro _
    | with_reducible apply State.setJob_keeps
    | with_reducible apply State.jobFault_keeps
    | with_reducible apply keeps_ite
    | with_reducible apply keeps_foldl
    | (fail_if_no_progress with_reducible refine keeps_mk ?_ rfl rfl rfl rfl)
    | with_reducible apply keeps_ite2
    | dsimp only
    | (split <;> (try (rename_i heq; obtain rfl := snd_eq heq)))

theorem State.prepare_keeps {r s : State} (h : Keeps r s) (j : Nat) (restarted : Bool) :
    Keeps r (State.prepare s j restarted) := by
  unfold State.prepare
  repeat' first
    | with_reducible assumption
    | intro _
    | with_reducible apply State.setJob_keeps
    | with_reducible apply keeps_ite
    | with_reducible apply keeps_foldl
    | (fail_if_no_progress with_reducible refine keeps_mk ?_ rfl rfl rfl rfl)
    | dsimp only
    | (split <;> (try (rename_i heq; obtain rfl := snd_eq heq)))

theorem State.afterUnload_keeps {r s : State} (h : Keeps r s) (j : Nat) :
    Keeps r (State.afterUnload s j) := by
  unfold State.afterUnload
  repeat' first
    | with_reducible assumption
    | intro _
    | with_reducible apply State.setJob_keeps
    | with_reducible apply State.prepare_keeps
    | with_reducible apply keeps_ite
    | with_reducible apply keeps_foldl
    | (fail_if_no_progress with_reducible refine keeps_mk ?_ rfl rfl rfl rfl)
    | dsimp only
    | (split <;> (try (rename_i heq; obtain rfl := snd_eq heq)))

theorem State.unloadCur_keeps {r s : State} (h : Keeps r s) (j : Nat) :
    Keeps r (State.unloadCur s j) := by
  unfold State.unloadCur
  repeat' first
    | with_reducible assumption
    | intro _
    | with_reducible apply State.setJob_keeps
    | with_reducible apply State.afterUnload_keeps
    | with_reducible apply State.report_keeps
    | with_reducible apply keeps_ite
    | with_reducible apply keeps_foldl
    | (fail_if_no_progress with_reducible refine keeps_mk ?_ rfl rfl rfl rfl)
    | dsimp only
    | (split <;> (try (rename_i heq; obtain rfl := snd_eq heq)))

theorem State.unloadOld_keeps {r s : State} (h : Keeps r s) (j : Nat) :
    Keeps r (State.unloadOld s j) := by
  unfold State.unloadOld
  repeat' first
    | with_reducible assumption
    | intro _
    | with_reducible apply State.setJob_keeps
    | with_reducible apply State.report_keeps
    | with_reducible apply keeps_ite
    | with_reducible apply keeps_foldl
    | (fail_if_no_progress with_reducible refine keeps_mk ?_ rfl rfl rfl rfl)
    | dsimp only
    | (split <;> (try (rename_i heq; obtain rfl := snd_eq heq)))

theorem State.report_keeps {r s : State} (h : Keeps r s) (j : Nat) (p : BeamPass) :
    Keeps r (State.report s j p) := by
  unfold State.report
  repeat' first
    | with_reducible assumption
    | intro _
    | with_reducible apply State.addMarker_keeps
    | with_reducible apply State.setJob_keeps
    | with_reducible apply keeps_ite
    | with_reducible apply keeps_foldl
    | (fail_if_no_progress with_reducible refine keeps_mk ?_ rfl rfl rfl rfl)
    | dsimp only
    | (split <;> (try (rename_i heq; obtain rfl := snd_eq heq)))

theorem State.reportGap_keeps {r s : State} (h : Keeps r s) (j : Nat) :
    Keeps r (State.reportGap s j) := by
  unfold State.reportGap
  repeat' first
    | with_reducible assumption
    | intro _
    | with_reducible apply State.addGap_keeps
    | with_reducible apply State.report_keeps
    | with_reducible apply keeps_ite
    | with_reducible apply keeps_foldl
    | (fail_if_no_progress with_reducible refine keeps_mk ?_ rfl rfl rfl rfl)
    | dsimp only
    | (split <;> (try (rename_i heq; obtain rfl := snd_eq heq)))

theorem State.resumeJob_keeps {r s : State} (h : Keeps r s) (j : Nat) :
    Keeps r (State.resumeJob s j) := by
  unfold State.resumeJob
  repeat' first
    | with_reducible assumption
    | intro _
    | with_reducible apply State.setJob_keeps
    | with_reducible apply State.jobFault_keeps
    | with_reducible apply State.prepare_keeps
    | with_reducible apply keeps_ite
    | with_reducible apply keeps_foldl
    | (fail_if_no_progress with_reducible refine keeps_mk ?_ rfl rfl rfl rfl)
    | dsimp only
    | (split <;> (try (rename_i heq; obtain rfl := snd_eq heq)))

theorem State.degradeJob_keeps {r s : State} (h : Keeps r s) (j : Nat) (pcs : List Nat) (resv : Option (Sparse Nat)) :
    Keeps r (State.degradeJob s j pcs resv) := by
  unfold State.degradeJob
  repeat' first
    | with_reducible assumption
    | intro _
    | with_reducible apply State.nextFree_keeps
    | with_reducible apply State.hwSet_keeps
    | with_reducible apply State.setJob_keeps
    | with_reducible apply State.rebaseJob_keeps
    | with_reducible apply State.jobFault_keeps
    | with_reducible apply State.reportGap_keeps
    | with_reducible apply State.resumeJob_keeps
    | with_reducible apply keeps_ite
    | with_reducible apply keeps_foldl
    | (fail_if_no_progress with_reducible refine keeps_mk ?_ rfl rfl rfl rfl)
    | dsimp only
    | (split <;> (try (rename_i heq; obtain rfl := snd_eq heq)))

theorem State.accStart_keeps {r s : State} (h : Keeps r s) (j : Nat) :
    Keeps r (State.accStart s j) := by
  unfold State.accStart
  repeat' first
    | with_reducible assumption
    | intro _
    | with_reducible apply State.setJob_keeps
    | with_reducible apply State.jobFault_keeps
    | with_reducible apply State.placeJob_keeps
    | with_reducible apply State.prepare_keeps
    | with_reducible apply keeps_ite
    | with_reducible apply keeps_foldl
    | (fail_if_no_progress with_reducible refine keeps_mk ?_ rfl rfl rfl rfl)
    | dsimp only
    | (split <;> (try (rename_i heq; obtain rfl := snd_eq heq)))

theorem State.accStop_keeps {r s : State} (h : Keeps r s) (j : Nat) :
    Keeps r (State.accStop s j) := by
  unfold State.accStop
  repeat' first
    | with_reducible assumption
    | intro _
    | with_reducible apply State.setJob_keeps
    | with_reducible apply State.jobFault_keeps
    | with_reducible apply State.unloadCur_keeps
    | with_reducible apply keeps_ite
    | with_reducible apply keeps_foldl
    | (fail_if_no_progress with_reducible refine keeps_mk ?_ rfl rfl rfl rfl)
    | dsimp only
    | (split <;> (try (rename_i heq; obtain rfl := snd_eq heq)))

theorem State.accFold_keeps {r s : State} (h : Keeps r s) (j : Nat) :
    Keeps r (State.accFold s j) := by
  unfold State.accFold
  repeat' first
    | with_reducible assumption
    | intro _
    | with_reducible apply State.setJob_keeps
    | with_reducible apply State.jobFault_keeps
    | with_reducible apply keeps_ite
    | with_reducible apply keeps_foldl
    | (fail_if_no_progress with_reducible refine keeps_mk ?_ rfl rfl rfl rfl)
    | dsimp only
    | (split <;> (try (rename_i heq; obtain rfl := snd_eq heq)))

theorem State.accAct_keeps {r s : State} (h : Keeps r s) (j : Nat) (a : AccAct) :
    Keeps r (State.accAct s j a) := by
  unfold State.accAct
  repeat' first
    | with_reducible assumption
    | intro _
    | with_reducible apply State.accStart_keeps
    | with_reducible apply State.accStop_keeps
    | with_reducible apply State.accFold_keeps
    | with_reducible apply keeps_ite
    | with_reducible apply keeps_foldl
    | (fail_if_no_progress with_reducible refine keeps_mk ?_ rfl rfl rfl rfl)
    | dsimp only
    | (split <;> (try (rename_i heq; obtain rfl := snd_eq heq)))

theorem State.placeHost_keeps {r s : State} (h : Keeps r s) (j : Nat) (d : JobDesc) :
    Keeps r (State.placeHost s j d) := by
  unfold State.placeHost
  repeat' first
    | with_reducible assumption
    | intro _
    | with_reducible apply State.placeJob_keeps
    | with_reducible apply keeps_ite
    | with_reducible apply keeps_foldl
    | (fail_if_no_progress with_reducible refine keeps_mk ?_ rfl rfl rfl rfl)
    | dsimp only
    | (split <;> (try (rename_i heq; obtain rfl := snd_eq heq)))

theorem State.dropTally_keeps {r s : State} (h : Keeps r s) (j : Nat) :
    Keeps r (State.dropTally s j) := by
  unfold State.dropTally
  repeat' first
    | with_reducible assumption
    | intro _
    | with_reducible apply keeps_ite
    | with_reducible apply keeps_foldl
    | (fail_if_no_progress with_reducible refine keeps_mk ?_ rfl rfl rfl rfl)
    | dsimp only
    | (split <;> (try (rename_i heq; obtain rfl := snd_eq heq)))

theorem State.undoPlaced_keeps {r s : State} (h : Keeps r s) :
    Keeps r (State.undoPlaced s) := by
  unfold State.undoPlaced
  repeat' first
    | with_reducible assumption
    | intro _
    | with_reducible apply State.setJob_keeps
    | with_reducible apply State.dropTally_keeps
    | with_reducible apply keeps_ite
    | with_reducible apply keeps_foldl
    | (fail_if_no_progress with_reducible refine keeps_mk ?_ rfl rfl rfl rfl)
    | dsimp only
    | (split <;> (try (rename_i heq; obtain rfl := snd_eq heq)))

theorem State.redoPlaced_keeps {r s : State} (h : Keeps r s) :
    Keeps r (State.redoPlaced s) := by
  unfold State.redoPlaced
  repeat' first
    | with_reducible assumption
    | intro _
    | with_reducible apply State.placeHost_keeps
    | with_reducible apply keeps_ite
    | with_reducible apply keeps_foldl
    | (fail_if_no_progress with_reducible refine keeps_mk ?_ rfl rfl rfl rfl)
    | dsimp only
    | (split <;> (try (rename_i heq; obtain rfl := snd_eq heq)))

theorem State.setDay_keeps {r s : State} (h : Keeps r s) (j : Nat) (x : JobSt) (evs : List JobEvent) :
    Keeps r (State.setDay s j x evs) := by
  unfold State.setDay
  repeat' first
    | with_reducible assumption
    | intro _
    | with_reducible apply keeps_ite
    | with_reducible apply keeps_foldl
    | (fail_if_no_progress with_reducible refine keeps_mk ?_ rfl rfl rfl rfl)
    | dsimp only
    | (split <;> (try (rename_i heq; obtain rfl := snd_eq heq)))

theorem State.replayJob_keeps {r s : State} (h : Keeps r s) (j : Nat) :
    Keeps r (State.replayJob s j) := by
  unfold State.replayJob
  repeat' first
    | with_reducible assumption
    | intro _
    | with_reducible apply State.setJob_keeps
    | with_reducible apply State.accAct_keeps
    | with_reducible apply State.dropTally_keeps
    | with_reducible apply State.limit_keeps
    | with_reducible apply keeps_ite
    | with_reducible apply keeps_foldl
    | (fail_if_no_progress with_reducible refine keeps_mk ?_ rfl rfl rfl rfl)
    | dsimp only
    | (split <;> (try (rename_i heq; obtain rfl := snd_eq heq)))

theorem State.accAction_keeps {r s : State} (h : Keeps r s) (j : Nat) (a : AccAct) :
    Keeps r (State.accAction s j a) := by
  unfold State.accAction
  repeat' first
    | with_reducible assumption
    | intro _
    | with_reducible apply State.undoPlaced_keeps
    | with_reducible apply State.redoPlaced_keeps
    | with_reducible apply State.setDay_keeps
    | with_reducible apply State.replayJob_keeps
    | with_reducible apply keeps_ite
    | with_reducible apply keeps_foldl
    | (fail_if_no_progress with_reducible refine keeps_mk ?_ rfl rfl rfl rfl)
    | dsimp only
    | (split <;> (try (rename_i heq; obtain rfl := snd_eq heq)))

theorem State.editDay_keeps {r s : State} (h : Keeps r s) (c : Nat) (f : List JobEvent → List JobEvent) :
    Keeps r (State.editDay s c f) := by
  unfold State.editDay
  repeat' first
    | with_reducible assumption
    | intro _
    | with_reducible apply State.setDay_keeps
    | with_reducible apply State.replayJob_keeps
    | with_reducible apply keeps_ite
    | with_reducible apply keeps_foldl
    | (fail_if_no_progress with_reducible refine keeps_mk ?_ rfl rfl rfl rfl)
    | dsimp only
    | (split <;> (try (rename_i heq; obtain rfl := snd_eq heq)))

theorem State.sweepOpens_keeps {r s : State} (h : Keeps r s) (c : Nat) (cseq : Nat) :
    Keeps r (State.sweepOpens s c cseq) := by
  unfold State.sweepOpens
  repeat' first
    | with_reducible assumption
    | intro _
    | with_reducible apply State.editDay_keeps
    | with_reducible apply keeps_ite
    | with_reducible apply keeps_foldl
    | (fail_if_no_progress with_reducible refine keeps_mk ?_ rfl rfl rfl rfl)
    | dsimp only
    | (split <;> (try (rename_i heq; obtain rfl := snd_eq heq)))

theorem State.sweepWaits_keeps {r s : State} (h : Keeps r s) (c : Nat) :
    Keeps r (State.sweepWaits s c) := by
  unfold State.sweepWaits
  repeat' first
    | with_reducible assumption
    | intro _
    | with_reducible apply State.editDay_keeps
    | with_reducible apply keeps_ite
    | with_reducible apply keeps_foldl
    | (fail_if_no_progress with_reducible refine keeps_mk ?_ rfl rfl rfl rfl)
    | dsimp only
    | (split <;> (try (rename_i heq; obtain rfl := snd_eq heq)))

theorem State.sweepGone_keeps {r s : State} (h : Keeps r s) (c : Nat) :
    Keeps r (State.sweepGone s c) := by
  unfold State.sweepGone
  repeat' first
    | with_reducible assumption
    | intro _
    | with_reducible apply State.editDay_keeps
    | with_reducible apply keeps_ite
    | with_reducible apply keeps_foldl
    | (fail_if_no_progress with_reducible refine keeps_mk ?_ rfl rfl rfl rfl)
    | dsimp only
    | (split <;> (try (rename_i heq; obtain rfl := snd_eq heq)))

theorem State.sweepUndone_keeps {r s : State} (h : Keeps r s) (c : Nat) (cseq : Nat) :
    Keeps r (State.sweepUndone s c cseq) := by
  unfold State.sweepUndone
  repeat' first
    | with_reducible assumption
    | intro _
    | with_reducible apply State.editDay_keeps
    | with_reducible apply keeps_ite
    | with_reducible apply keeps_foldl
    | (fail_if_no_progress with_reducible refine keeps_mk ?_ rfl rfl rfl rfl)
    | dsimp only
    | (split <;> (try (rename_i heq; obtain rfl := snd_eq heq)))

theorem State.accSettle_keeps {r s : State} (h : Keeps r s) :
    Keeps r (State.accSettle s) := by
  unfold State.accSettle
  repeat' first
    | with_reducible assumption
    | intro _
    | with_reducible apply State.countFault_keeps
    | with_reducible apply State.replayJob_keeps
    | with_reducible apply keeps_ite
    | with_reducible apply keeps_foldl
    | (fail_if_no_progress with_reducible refine keeps_mk ?_ rfl rfl rfl rfl)
    | dsimp only
    | (split <;> (try (rename_i heq; obtain rfl := snd_eq heq)))

end Sys2Proof.Machine
end

