-- ==== Sys2Proof/Laws/KeepsLoomOps.lean ====
section
/-! SUPPORT. What every operation of Machine/LoomOps.lean keeps: the queue, the fabric clock, the canonical form of the register
file and every burnt fuse. -/

set_option linter.all false

namespace Sys2Proof.Machine

theorem State.tallyHoldoff_keeps {r s : State} (h : Keeps r s) (src : Nat) (instant : Instant) (mult : Nat) :
    Keeps r (State.tallyHoldoff s src instant mult) := by
  unfold State.tallyHoldoff
  repeat' first
    | with_reducible assumption
    | intro _
    | with_reducible apply State.setLive_keeps
    | with_reducible apply keeps_ite
    | with_reducible apply keeps_foldl
    | (fail_if_no_progress with_reducible refine keeps_mk ?_ rfl rfl rfl rfl)
    | dsimp only
    | (split <;> (try (rename_i heq; obtain rfl := snd_eq heq)))

theorem State.reportTrig_keeps {r s : State} (h : Keeps r s) (src : Nat) (instant : Instant) (mult : Nat) :
    Keeps r (State.reportTrig s src instant mult) := by
  unfold State.reportTrig
  repeat' first
    | with_reducible assumption
    | intro _
    | with_reducible apply State.reportEvent_keeps
    | with_reducible apply State.tallyHoldoff_keeps
    | with_reducible apply keeps_ite
    | with_reducible apply keeps_foldl
    | (fail_if_no_progress with_reducible refine keeps_mk ?_ rfl rfl rfl rfl)
    | dsimp only
    | (split <;> (try (rename_i heq; obtain rfl := snd_eq heq)))

theorem State.checkQuota_keeps {r s : State} (h : Keeps r s) (c : Nat) (set : List Nat) (rate : Rat) (w16 : Rat) (strm : Rat) :
    Keeps r (State.checkQuota s c set rate w16 strm).2 := by
  unfold State.checkQuota
  repeat' first
    | with_reducible assumption
    | intro _
    | with_reducible apply State.hwSet_keeps
    | with_reducible apply keeps_ite
    | with_reducible apply keeps_foldl
    | (fail_if_no_progress with_reducible refine keeps_mk ?_ rfl rfl rfl rfl)
    | with_reducible apply keeps_ite2
    | dsimp only
    | (split <;> (try (rename_i heq; obtain rfl := snd_eq heq)))

theorem State.armFresh_keeps {r s : State} (h : Keeps r s) (c : Nat) :
    Keeps r (State.armFresh s c).2 := by
  unfold State.armFresh
  repeat' first
    | with_reducible assumption
    | intro _
    | with_reducible apply State.bindLane_keeps
    | with_reducible apply State.setKeep_keeps
    | with_reducible apply State.setLive_keeps
    | with_reducible apply State.checkQuota_keeps
    | with_reducible apply keeps_ite
    | with_reducible apply keeps_foldl
    | (fail_if_no_progress with_reducible refine keeps_mk ?_ rfl rfl rfl rfl)
    | with_reducible apply keeps_ite2
    | dsimp only
    | (split <;> (try (rename_i heq; obtain rfl := snd_eq heq)))

theorem State.arm_keeps {r s : State} (h : Keeps r s) (c : Nat) :
    Keeps r (State.arm s c).2 := by
  unfold State.arm
  repeat' first
    | with_reducible assumption
    | intro _
    | with_reducible apply State.setLive_keeps
    | with_reducible apply State.armFresh_keeps
    | with_reducible apply keeps_ite
    | with_reducible apply keeps_foldl
    | (fail_if_no_progress with_reducible refine keeps_mk ?_ rfl rfl rfl rfl)
    | with_reducible apply keeps_ite2
    | dsimp only
    | (split <;> (try (rename_i heq; obtain rfl := snd_eq heq)))

theorem State.armFailed_keeps {r s : State} (h : Keeps r s) (c : Nat) (cause : Nat) (tread : Nat) :
    Keeps r (State.armFailed s c cause tread) := by
  unfold State.armFailed
  repeat' first
    | with_reducible assumption
    | intro _
    | with_reducible apply State.setReg_keeps
    | with_reducible apply State.hwSet_keeps
    | with_reducible apply State.rclAdd_keeps
    | with_reducible apply keeps_ite
    | with_reducible apply keeps_foldl
    | (fail_if_no_progress with_reducible refine keeps_mk ?_ rfl rfl rfl rfl)
    | dsimp only
    | (split <;> (try (rename_i heq; obtain rfl := snd_eq heq)))

theorem State.putAt_keeps {r s : State} (h : Keeps r s) (c : Nat) (n : Nat) :
    Keeps r (State.putAt s c n) := by
  unfold State.putAt
  repeat' first
    | with_reducible assumption
    | intro _
    | with_reducible apply keeps_ite
    | with_reducible apply keeps_foldl
    | (fail_if_no_progress with_reducible refine keeps_mk ?_ rfl rfl rfl rfl)
    | dsimp only
    | (split <;> (try (rename_i heq; obtain rfl := snd_eq heq)))

theorem State.beforeMarkers_keeps {r s : State} (h : Keeps r s) (c : Nat) (k : Nat) :
    Keeps r (State.beforeMarkers s c k) := by
  unfold State.beforeMarkers
  repeat' first
    | with_reducible assumption
    | intro _
    | with_reducible apply State.putAt_keeps
    | with_reducible apply keeps_ite
    | with_reducible apply keeps_foldl
    | (fail_if_no_progress with_reducible refine keeps_mk ?_ rfl rfl rfl rfl)
    | dsimp only
    | (split <;> (try (rename_i heq; obtain rfl := snd_eq heq)))

theorem State.announce_keeps {r s : State} (h : Keeps r s) (c : Nat) :
    Keeps r (State.announce s c) := by
  unfold State.announce
  repeat' first
    | with_reducible assumption
    | intro _
    | with_reducible apply State.announceRun_keeps
    | with_reducible apply State.beforeMarkers_keeps
    | with_reducible apply keeps_ite
    | with_reducible apply keeps_foldl
    | (fail_if_no_progress with_reducible refine keeps_mk ?_ rfl rfl rfl rfl)
    | dsimp only
    | (split <;> (try (rename_i heq; obtain rfl := snd_eq heq)))

theorem State.endRun_keeps {r s : State} (h : Keeps r s) (c : Nat) :
    Keeps r (State.endRun s c) := by
  unfold State.endRun
  repeat' first
    | with_reducible assumption
    | intro _
    | with_reducible apply State.announce_keeps
    | with_reducible apply keeps_ite
    | with_reducible apply keeps_foldl
    | (fail_if_no_progress with_reducible refine keeps_mk ?_ rfl rfl rfl rfl)
    | dsimp only
    | (split <;> (try (rename_i heq; obtain rfl := snd_eq heq)))

theorem State.disarm_keeps {r s : State} (h : Keeps r s) (c : Nat) :
    Keeps r (State.disarm s c) := by
  unfold State.disarm
  repeat' first
    | with_reducible assumption
    | intro _
    | with_reducible apply State.dropSets_keeps
    | with_reducible apply State.setLive_keeps
    | with_reducible apply State.endRun_keeps
    | with_reducible apply keeps_ite
    | with_reducible apply keeps_foldl
    | (fail_if_no_progress with_reducible refine keeps_mk ?_ rfl rfl rfl rfl)
    | dsimp only
    | (split <;> (try (rename_i heq; obtain rfl := snd_eq heq)))

theorem State.notLive_keeps {r s : State} (h : Keeps r s) :
    Keeps r (State.notLive s) := by
  unfold State.notLive
  repeat' first
    | with_reducible assumption
    | intro _
    | with_reducible apply State.hwSet_keeps
    | with_reducible apply State.rclAdd_keeps
    | with_reducible apply keeps_ite
    | with_reducible apply keeps_foldl
    | (fail_if_no_progress with_reducible refine keeps_mk ?_ rfl rfl rfl rfl)
    | dsimp only
    | (split <;> (try (rename_i heq; obtain rfl := snd_eq heq)))

theorem State.expireHoldoff_keeps {r s : State} (h : Keeps r s) (c : Nat) (t : Instant) :
    Keeps r (State.expireHoldoff s c t) := by
  unfold State.expireHoldoff
  repeat' first
    | with_reducible assumption
    | intro _
    | with_reducible apply State.setLive_keeps
    | with_reducible apply keeps_ite
    | with_reducible apply keeps_foldl
    | (fail_if_no_progress with_reducible refine keeps_mk ?_ rfl rfl rfl rfl)
    | dsimp only
    | (split <;> (try (rename_i heq; obtain rfl := snd_eq heq)))

theorem State.openRefused_keeps {r s : State} (h : Keeps r s) :
    Keeps r (State.openRefused s) := by
  unfold State.openRefused
  repeat' first
    | with_reducible assumption
    | intro _
    | with_reducible apply State.hwSet_keeps
    | with_reducible apply State.rclAdd_keeps
    | with_reducible apply keeps_ite
    | with_reducible apply keeps_foldl
    | (fail_if_no_progress with_reducible refine keeps_mk ?_ rfl rfl rfl rfl)
    | dsimp only
    | (split <;> (try (rename_i heq; obtain rfl := snd_eq heq)))

theorem State.refuseSpace_keeps {r s : State} (h : Keeps r s) (c : Nat) (cause : GapCause) (iss : IssueTime) :
    Keeps r (State.refuseSpace s c cause iss) := by
  unfold State.refuseSpace
  repeat' first
    | with_reducible assumption
    | intro _
    | with_reducible apply State.hwSet_keeps
    | with_reducible apply State.rclAdd_keeps
    | with_reducible apply State.setKeep_keeps
    | with_reducible apply State.openRefused_keeps
    | with_reducible apply keeps_ite
    | with_reducible apply keeps_foldl
    | (fail_if_no_progress with_reducible refine keeps_mk ?_ rfl rfl rfl rfl)
    | dsimp only
    | (split <;> (try (rename_i heq; obtain rfl := snd_eq heq)))

theorem State.overwrite_keeps {r s : State} (h : Keeps r s) (c rest f n : Nat) : Keeps r (s.overwrite c rest f n) := by
  induction n generalizing s with
  | zero => exact h
  | succ n ih =>
    unfold State.overwrite
    repeat' first
      | with_reducible assumption
      | with_reducible apply ih
      | with_reducible apply State.gcChunks_keeps
      | with_reducible apply State.mapRecs_keeps
      | with_reducible apply State.hwSet_keeps
      | with_reducible apply State.rclAdd_keeps
      | with_reducible apply State.gapRecord_keeps
      | (fail_if_no_progress with_reducible refine keeps_mk ?_ rfl rfl rfl rfl)
      | split

theorem State.settleTaken_keeps {r s : State} (h : Keeps r s) :
    Keeps r (State.settleTaken s) := by
  unfold State.settleTaken
  repeat' first
    | with_reducible assumption
    | intro _
    | with_reducible apply State.hwSet_keeps
    | with_reducible apply State.rclAdd_keeps
    | with_reducible apply State.mapRecs_keeps
    | with_reducible apply State.gapRecord_keeps
    | with_reducible apply keeps_ite
    | with_reducible apply keeps_foldl
    | (fail_if_no_progress with_reducible refine keeps_mk ?_ rfl rfl rfl rfl)
    | dsimp only
    | (split <;> (try (rename_i heq; obtain rfl := snd_eq heq)))

theorem State.acceptOpen_keeps {r s : State} (h : Keeps r s) (c : Nat) (x : LiveCtx) (iss : IssueTime) (cseq : Option Nat) :
    Keeps r (State.acceptOpen s c x iss cseq) := by
  unfold State.acceptOpen
  repeat' first
    | with_reducible assumption
    | intro _
    | with_reducible apply State.enter_keeps
    | with_reducible apply State.setKeep_keeps
    | with_reducible apply State.setLive_keeps
    | with_reducible apply State.addRecord_keeps
    | with_reducible apply State.sweepOpens_keeps
    | with_reducible apply State.announce_keeps
    | with_reducible apply State.overwrite_keeps
    | with_reducible apply keeps_ite
    | with_reducible apply keeps_foldl
    | (fail_if_no_progress with_reducible refine keeps_mk ?_ rfl rfl rfl rfl)
    | dsimp only
    | (split <;> (try (rename_i heq; obtain rfl := snd_eq heq)))

theorem State.waitOpen_keeps {r s : State} (h : Keeps r s) (c : Nat) (iss : IssueTime) :
    Keeps r (State.waitOpen s c iss) := by
  unfold State.waitOpen
  repeat' first
    | with_reducible assumption
    | intro _
    | with_reducible apply State.sweepWaits_keeps
    | with_reducible apply keeps_ite
    | with_reducible apply keeps_foldl
    | (fail_if_no_progress with_reducible refine keeps_mk ?_ rfl rfl rfl rfl)
    | dsimp only
    | (split <;> (try (rename_i heq; obtain rfl := snd_eq heq)))

theorem State.openSeg_keeps {r s : State} (h : Keeps r s) (c : Nat) (iss : IssueTime) :
    Keeps r (State.openSeg s c iss).2 := by
  unfold State.openSeg
  repeat' first
    | with_reducible assumption
    | intro _
    | with_reducible apply State.expireHoldoff_keeps
    | with_reducible apply State.openRefused_keeps
    | with_reducible apply State.acceptOpen_keeps
    | with_reducible apply State.waitOpen_keeps
    | with_reducible apply keeps_ite
    | with_reducible apply keeps_foldl
    | (fail_if_no_progress with_reducible refine keeps_mk ?_ rfl rfl rfl rfl)
    | with_reducible apply keeps_ite2
    | dsimp only
    | (split <;> (try (rename_i heq; obtain rfl := snd_eq heq)))

theorem State.settleRefused_keeps {r s : State} (h : Keeps r s) (w : WaitOpen) (cause : GapCause) :
    Keeps r (State.settleRefused s w cause) := by
  unfold State.settleRefused
  repeat' first
    | with_reducible assumption
    | intro _
    | with_reducible apply State.sweepGone_keeps
    | with_reducible apply State.announce_keeps
    | with_reducible apply State.refuseSpace_keeps
    | with_reducible apply keeps_ite
    | with_reducible apply keeps_foldl
    | (fail_if_no_progress with_reducible refine keeps_mk ?_ rfl rfl rfl rfl)
    | dsimp only
    | (split <;> (try (rename_i heq; obtain rfl := snd_eq heq)))

theorem State.settleOpen_keeps {r s : State} (h : Keeps r s) (w : WaitOpen) :
    Keeps r (State.settleOpen s w) := by
  unfold State.settleOpen
  repeat' first
    | with_reducible assumption
    | intro _
    | with_reducible apply State.sweepGone_keeps
    | with_reducible apply State.beforeMarkers_keeps
    | with_reducible apply State.announce_keeps
    | with_reducible apply State.openRefused_keeps
    | with_reducible apply State.acceptOpen_keeps
    | with_reducible apply State.settleRefused_keeps
    | with_reducible apply keeps_ite
    | with_reducible apply keeps_foldl
    | (fail_if_no_progress with_reducible refine keeps_mk ?_ rfl rfl rfl rfl)
    | dsimp only
    | (split <;> (try (rename_i heq; obtain rfl := snd_eq heq)))

theorem State.opensSettle_keeps {r s : State} (h : Keeps r s) :
    Keeps r (State.opensSettle s) := by
  unfold State.opensSettle
  repeat' first
    | with_reducible assumption
    | intro _
    | with_reducible apply State.settleTaken_keeps
    | with_reducible apply State.settleOpen_keeps
    | with_reducible apply keeps_ite
    | with_reducible apply keeps_foldl
    | (fail_if_no_progress with_reducible refine keeps_mk ?_ rfl rfl rfl rfl)
    | dsimp only
    | (split <;> (try (rename_i heq; obtain rfl := snd_eq heq)))

theorem State.undoOpen_keeps {r s : State} (h : Keeps r s) (u : OpenUndo) :
    Keeps r (State.undoOpen s u) := by
  unfold State.undoOpen
  repeat' first
    | with_reducible assumption
    | intro _
    | with_reducible apply State.setReg_keeps
    | with_reducible apply State.setKeep_keeps
    | with_reducible apply State.setLive_keeps
    | with_reducible apply State.serveMarkers_keeps
    | with_reducible apply State.leaveAcquiring_keeps
    | with_reducible apply State.sweepUndone_keeps
    | with_reducible apply keeps_ite
    | with_reducible apply keeps_foldl
    | (fail_if_no_progress with_reducible refine keeps_mk ?_ rfl rfl rfl rfl)
    | dsimp only
    | (split <;> (try (rename_i heq; obtain rfl := snd_eq heq)))

theorem State.closeSeg_keeps {r s : State} (h : Keeps r s) (c : Nat) :
    Keeps r (State.closeSeg s c) := by
  unfold State.closeSeg
  repeat' first
    | with_reducible assumption
    | intro _
    | with_reducible apply State.setKeep_keeps
    | with_reducible apply State.mapRecs_keeps
    | with_reducible apply State.holdoffFrom_keeps
    | with_reducible apply State.sweepGone_keeps
    | with_reducible apply State.announce_keeps
    | with_reducible apply State.notLive_keeps
    | with_reducible apply State.undoOpen_keeps
    | with_reducible apply keeps_ite
    | with_reducible apply keeps_foldl
    | (fail_if_no_progress with_reducible refine keeps_mk ?_ rfl rfl rfl rfl)
    | dsimp only
    | (split <;> (try (rename_i heq; obtain rfl := snd_eq heq)))

theorem State.makeMarker_keeps {r s : State} (h : Keeps r s) (c : Nat) (code : Nat) (iss : IssueTime) :
    Keeps r (State.makeMarker s c code iss).2 := by
  unfold State.makeMarker
  repeat' first
    | with_reducible assumption
    | intro _
    | with_reducible apply State.addMarker_keeps
    | with_reducible apply State.notLive_keeps
    | with_reducible apply keeps_ite
    | with_reducible apply keeps_foldl
    | (fail_if_no_progress with_reducible refine keeps_mk ?_ rfl rfl rfl rfl)
    | with_reducible apply keeps_ite2
    | dsimp only
    | (split <;> (try (rename_i heq; obtain rfl := snd_eq heq)))

theorem State.laneChanged_keeps {r s : State} (h : Keeps r s) (c : Nat) :
    Keeps r (State.laneChanged s c) := by
  unfold State.laneChanged
  repeat' first
    | with_reducible assumption
    | intro _
    | with_reducible apply State.mapRecs_keeps
    | with_reducible apply keeps_ite
    | with_reducible apply keeps_foldl
    | (fail_if_no_progress with_reducible refine keeps_mk ?_ rfl rfl rfl rfl)
    | dsimp only
    | (split <;> (try (rename_i heq; obtain rfl := snd_eq heq)))

theorem State.laneSwap_keeps {r s : State} (h : Keeps r s) (c : Nat) :
    Keeps r (State.laneSwap s c) := by
  unfold State.laneSwap
  repeat' first
    | with_reducible assumption
    | intro _
    | with_reducible apply State.handover_keeps
    | with_reducible apply State.notLive_keeps
    | with_reducible apply State.laneChanged_keeps
    | with_reducible apply keeps_ite
    | with_reducible apply keeps_foldl
    | (fail_if_no_progress with_reducible refine keeps_mk ?_ rfl rfl rfl rfl)
    | dsimp only
    | (split <;> (try (rename_i heq; obtain rfl := snd_eq heq)))

theorem State.coefAction_keeps {r s : State} (h : Keeps r s) (c : Nat) (stage : Nat) (sel : Nat) :
    Keeps r (State.coefAction s c stage sel) := by
  unfold State.coefAction
  repeat' first
    | with_reducible assumption
    | intro _
    | with_reducible apply State.hwSet_keeps
    | with_reducible apply State.coefSwap_keeps
    | with_reducible apply State.notLive_keeps
    | with_reducible apply keeps_ite
    | with_reducible apply keeps_foldl
    | (fail_if_no_progress with_reducible refine keeps_mk ?_ rfl rfl rfl rfl)
    | dsimp only
    | (split <;> (try (rename_i heq; obtain rfl := snd_eq heq)))

theorem State.swapsSettle_keeps {r s : State} (h : Keeps r s) (l : Nat) :
    Keeps r (State.swapsSettle s l) := by
  unfold State.swapsSettle
  repeat' first
    | with_reducible assumption
    | intro _
    | with_reducible apply State.setLane_keeps
    | with_reducible apply State.takeBank_keeps
    | with_reducible apply State.laneChanged_keeps
    | with_reducible apply keeps_ite
    | with_reducible apply keeps_foldl
    | (fail_if_no_progress with_reducible refine keeps_mk ?_ rfl rfl rfl rfl)
    | dsimp only
    | (split <;> (try (rename_i heq; obtain rfl := snd_eq heq)))

theorem State.lanesTick_keeps {r s : State} (h : Keeps r s) :
    Keeps r (State.lanesTick s) := by
  unfold State.lanesTick
  repeat' first
    | with_reducible assumption
    | intro _
    | with_reducible apply State.setLane_keeps
    | with_reducible apply State.gridClock_keeps
    | with_reducible apply State.swapsSettle_keeps
    | with_reducible apply keeps_ite
    | with_reducible apply keeps_foldl
    | (fail_if_no_progress with_reducible refine keeps_mk ?_ rfl rfl rfl rfl)
    | dsimp only
    | (split <;> (try (rename_i heq; obtain rfl := snd_eq heq)))

theorem State.flagAction_keeps {r s : State} (h : Keeps r s) (f : Nat) (v : Bool) :
    Keeps r (State.flagAction s f v) := by
  unfold State.flagAction
  repeat' first
    | with_reducible assumption
    | intro _
    | with_reducible apply State.setBit_keeps
    | with_reducible apply State.hwSet_keeps
    | with_reducible apply keeps_ite
    | with_reducible apply keeps_foldl
    | (fail_if_no_progress with_reducible refine keeps_mk ?_ rfl rfl rfl rfl)
    | dsimp only
    | (split <;> (try (rename_i heq; obtain rfl := snd_eq heq)))

theorem State.flagsWrite_keeps {r s : State} (h : Keeps r s) (v : Word) :
    Keeps r (State.flagsWrite s v) := by
  unfold State.flagsWrite
  repeat' first
    | with_reducible assumption
    | intro _
    | with_reducible apply State.setReg_keeps
    | with_reducible apply State.hwSet_keeps
    | with_reducible apply keeps_ite
    | with_reducible apply keeps_foldl
    | (fail_if_no_progress with_reducible refine keeps_mk ?_ rfl rfl rfl rfl)
    | dsimp only
    | (split <;> (try (rename_i heq; obtain rfl := snd_eq heq)))

theorem State.ring_keeps {r s : State} (h : Keeps r s) (v : Word) :
    Keeps r (State.ring s v) := by
  unfold State.ring
  repeat' first
    | with_reducible assumption
    | intro _
    | with_reducible apply State.setReg_keeps
    | with_reducible apply keeps_ite
    | with_reducible apply keeps_foldl
    | (fail_if_no_progress with_reducible refine keeps_mk ?_ rfl rfl rfl rfl)
    | dsimp only
    | (split <;> (try (rename_i heq; obtain rfl := snd_eq heq)))

theorem State.windowWrite_keeps {r s : State} (h : Keeps r s) (off : Nat) (v : Word) :
    Keeps r (State.windowWrite s off v) := by
  unfold State.windowWrite
  repeat' first
    | with_reducible assumption
    | intro _
    | with_reducible apply State.hwSet_keeps
    | with_reducible apply keeps_ite
    | with_reducible apply keeps_foldl
    | (fail_if_no_progress with_reducible refine keeps_mk ?_ rfl rfl rfl rfl)
    | dsimp only
    | (split <;> (try (rename_i heq; obtain rfl := snd_eq heq)))

theorem State.swapWrite_keeps {r s : State} (h : Keeps r s) (v : Word) :
    Keeps r (State.swapWrite s v) := by
  unfold State.swapWrite
  repeat' first
    | with_reducible assumption
    | intro _
    | with_reducible apply State.setBit_keeps
    | with_reducible apply State.hwSet_keeps
    | with_reducible apply State.storeReg_keeps
    | with_reducible apply State.swapCancel_keeps
    | with_reducible apply keeps_ite
    | with_reducible apply keeps_foldl
    | (fail_if_no_progress with_reducible refine keeps_mk ?_ rfl rfl rfl rfl)
    | dsimp only
    | (split <;> (try (rename_i heq; obtain rfl := snd_eq heq)))

end Sys2Proof.Machine
end

