-- ==== Sys2Proof/Laws/KeepsBeam.lean ====
section
/-! SUPPORT. What every operation of Machine/Beam.lean keeps: the queue, the fabric clock, the canonical form of the register
file and every burnt fuse. -/

set_option linter.all false

namespace Sys2Proof.Machine

theorem State.hostPlace_keeps {r s : State} (h : Keeps r s) (j : Nat) :
    Keeps r (State.hostPlace s j) := by
  unfold State.hostPlace
  repeat' first
    | with_reducible assumption
    | intro _
    | with_reducible apply State.placeHost_keeps
    | with_reducible apply keeps_ite
    | with_reducible apply keeps_foldl
    | (fail_if_no_progress with_reducible refine keeps_mk ?_ rfl rfl rfl rfl)
    | dsimp only
    | (split <;> (try (rename_i heq; obtain rfl := snd_eq heq)))

theorem State.hostRelease_keeps {r s : State} (h : Keeps r s) (j : Nat) :
    Keeps r (State.hostRelease s j) := by
  unfold State.hostRelease
  repeat' first
    | with_reducible assumption
    | intro _
    | with_reducible apply State.setJob_keeps
    | with_reducible apply keeps_ite
    | with_reducible apply keeps_foldl
    | (fail_if_no_progress with_reducible refine keeps_mk ?_ rfl rfl rfl rfl)
    | dsimp only
    | (split <;> (try (rename_i heq; obtain rfl := snd_eq heq)))

theorem State.jobCtrl_keeps {r s : State} (h : Keeps r s) (j : Nat) (v : Word) :
    Keeps r (State.jobCtrl s j v) := by
  unfold State.jobCtrl
  repeat' first
    | with_reducible assumption
    | intro _
    | with_reducible apply State.hostPlace_keeps
    | with_reducible apply State.hostRelease_keeps
    | with_reducible apply keeps_ite
    | with_reducible apply keeps_foldl
    | (fail_if_no_progress with_reducible refine keeps_mk ?_ rfl rfl rfl rfl)
    | dsimp only
    | (split <;> (try (rename_i heq; obtain rfl := snd_eq heq)))

theorem execPlace_keeps {r s : State} (h : Keeps r s) (j : Fin 256) :
    KeepsOut r (execPlace j s) := by
  unfold execPlace
  repeat' first
    | with_reducible assumption
    | intro _
    | with_reducible apply State.hostWrite_keeps
    | with_reducible apply State.jobCtrl_keeps
    | with_reducible apply keeps_ite
    | with_reducible apply keeps_foldl
    | (fail_if_no_progress with_reducible refine keeps_mk ?_ rfl rfl rfl rfl)
    | with_reducible apply keepsOut_next
    | with_reducible apply keepsOut_fault
    | with_reducible apply keepsOut_ite
    | dsimp only
    | (split <;> (try (rename_i heq; obtain rfl := snd_eq heq)))

theorem execReleaseJob_keeps {r s : State} (h : Keeps r s) (j : Fin 256) :
    KeepsOut r (execReleaseJob j s) := by
  unfold execReleaseJob
  repeat' first
    | with_reducible assumption
    | intro _
    | with_reducible apply State.hostWrite_keeps
    | with_reducible apply State.jobCtrl_keeps
    | with_reducible apply keeps_ite
    | with_reducible apply keeps_foldl
    | (fail_if_no_progress with_reducible refine keeps_mk ?_ rfl rfl rfl rfl)
    | with_reducible apply keepsOut_next
    | with_reducible apply keepsOut_fault
    | with_reducible apply keepsOut_ite
    | dsimp only
    | (split <;> (try (rename_i heq; obtain rfl := snd_eq heq)))

theorem State.descWrite_keeps {r s : State} (h : Keeps r s) (j : Nat) (word : Nat) (v : Word) :
    Keeps r (State.descWrite s j word v) := by
  unfold State.descWrite
  repeat' first
    | with_reducible assumption
    | intro _
    | with_reducible apply State.hwSet_keeps
    | with_reducible apply State.storeReg_keeps
    | with_reducible apply keeps_ite
    | with_reducible apply keeps_foldl
    | (fail_if_no_progress with_reducible refine keeps_mk ?_ rfl rfl rfl rfl)
    | dsimp only
    | (split <;> (try (rename_i heq; obtain rfl := snd_eq heq)))

theorem execJobDescriptorWrite_keeps {r s : State} (h : Keeps r s) (j : Fin 256) (word : Fin 13) (v : Word) :
    KeepsOut r (execJobDescriptorWrite j word v s) := by
  unfold execJobDescriptorWrite
  repeat' first
    | with_reducible assumption
    | intro _
    | with_reducible apply State.hostWrite_keeps
    | with_reducible apply State.descWrite_keeps
    | with_reducible apply keeps_ite
    | with_reducible apply keeps_foldl
    | (fail_if_no_progress with_reducible refine keeps_mk ?_ rfl rfl rfl rfl)
    | with_reducible apply keepsOut_next
    | with_reducible apply keepsOut_fault
    | with_reducible apply keepsOut_ite
    | dsimp only
    | (split <;> (try (rename_i heq; obtain rfl := snd_eq heq)))

theorem execPrepareDone_keeps {r s : State} (h : Keeps r s) (j : Fin 256) :
    KeepsOut r (execPrepareDone j s) := by
  unfold execPrepareDone
  repeat' first
    | with_reducible assumption
    | intro _
    | with_reducible apply State.setJob_keeps
    | with_reducible apply State.rebaseJob_keeps
    | with_reducible apply keeps_ite
    | with_reducible apply keeps_foldl
    | (fail_if_no_progress with_reducible refine keeps_mk ?_ rfl rfl rfl rfl)
    | with_reducible apply keepsOut_next
    | with_reducible apply keepsOut_fault
    | with_reducible apply keepsOut_ite
    | dsimp only
    | (split <;> (try (rename_i heq; obtain rfl := snd_eq heq)))

theorem execDrainDone_keeps {r s : State} (h : Keeps r s) (j : Fin 256) :
    KeepsOut r (execDrainDone j s) := by
  unfold execDrainDone
  repeat' first
    | with_reducible assumption
    | intro _
    | with_reducible apply State.rebaseJob_keeps
    | with_reducible apply State.unloadCur_keeps
    | with_reducible apply State.unloadOld_keeps
    | with_reducible apply keeps_ite
    | with_reducible apply keeps_foldl
    | (fail_if_no_progress with_reducible refine keeps_mk ?_ rfl rfl rfl rfl)
    | with_reducible apply keepsOut_next
    | with_reducible apply keepsOut_fault
    | with_reducible apply keepsOut_ite
    | dsimp only
    | (split <;> (try (rename_i heq; obtain rfl := snd_eq heq)))

theorem execUnloadDone_keeps {r s : State} (h : Keeps r s) (j : Fin 256) :
    KeepsOut r (execUnloadDone j s) := by
  unfold execUnloadDone
  repeat' first
    | with_reducible assumption
    | intro _
    | with_reducible apply State.setJob_keeps
    | with_reducible apply State.rebaseJob_keeps
    | with_reducible apply State.afterUnload_keeps
    | with_reducible apply State.report_keeps
    | with_reducible apply keeps_ite
    | with_reducible apply keeps_foldl
    | (fail_if_no_progress with_reducible refine keeps_mk ?_ rfl rfl rfl rfl)
    | with_reducible apply keepsOut_next
    | with_reducible apply keepsOut_fault
    | with_reducible apply keepsOut_ite
    | dsimp only
    | (split <;> (try (rename_i heq; obtain rfl := snd_eq heq)))

theorem execResultBufferFree_keeps {r s : State} (h : Keeps r s) (j : Fin 256) :
    KeepsOut r (execResultBufferFree j s) := by
  unfold execResultBufferFree
  repeat' first
    | with_reducible assumption
    | intro _
    | with_reducible apply State.setJob_keeps
    | with_reducible apply State.rebaseJob_keeps
    | with_reducible apply keeps_ite
    | with_reducible apply keeps_foldl
    | (fail_if_no_progress with_reducible refine keeps_mk ?_ rfl rfl rfl rfl)
    | with_reducible apply keepsOut_next
    | with_reducible apply keepsOut_fault
    | with_reducible apply keepsOut_ite
    | dsimp only
    | (split <;> (try (rename_i heq; obtain rfl := snd_eq heq)))

theorem execBeamFree_keeps {r s : State} (h : Keeps r s) (j : Fin 256) :
    KeepsOut r (execBeamFree j s) := by
  unfold execBeamFree
  repeat' first
    | with_reducible assumption
    | intro _
    | with_reducible apply State.rebaseJob_keeps
    | with_reducible apply State.resumeJob_keeps
    | with_reducible apply keeps_ite
    | with_reducible apply keeps_foldl
    | (fail_if_no_progress with_reducible refine keeps_mk ?_ rfl rfl rfl rfl)
    | with_reducible apply keepsOut_next
    | with_reducible apply keepsOut_fault
    | with_reducible apply keepsOut_ite
    | dsimp only
    | (split <;> (try (rename_i heq; obtain rfl := snd_eq heq)))

theorem State.beamFails_keeps {r s : State} (h : Keeps r s) (b : Fin 16) (word : Fin 786432) :
    Keeps r (State.beamFails s b word) := by
  unfold State.beamFails
  repeat' first
    | with_reducible assumption
    | intro _
    | with_reducible apply State.setBit_keeps
    | with_reducible apply State.hwSet_keeps
    | with_reducible apply State.makeRecord_keeps
    | with_reducible apply State.degradeJob_keeps
    | with_reducible apply keeps_ite
    | with_reducible apply keeps_foldl
    | (fail_if_no_progress with_reducible refine keeps_mk ?_ rfl rfl rfl rfl)
    | dsimp only
    | (split <;> (try (rename_i heq; obtain rfl := snd_eq heq)))

theorem execBeamUncorr_keeps {r s : State} (h : Keeps r s) (b : Fin 16) (word : Fin 786432) :
    KeepsOut r (execBeamUncorr b word s) := by
  unfold execBeamUncorr
  repeat' first
    | with_reducible assumption
    | intro _
    | with_reducible apply State.rclAdd_keeps
    | with_reducible apply State.setJob_keeps
    | with_reducible apply State.dropTally_keeps
    | with_reducible apply State.undoPlaced_keeps
    | with_reducible apply State.redoPlaced_keeps
    | with_reducible apply State.setDay_keeps
    | with_reducible apply State.replayJob_keeps
    | with_reducible apply State.beamFails_keeps
    | with_reducible apply keeps_ite
    | with_reducible apply keeps_foldl
    | (fail_if_no_progress with_reducible refine keeps_mk ?_ rfl rfl rfl rfl)
    | with_reducible apply keepsOut_next
    | with_reducible apply keepsOut_fault
    | with_reducible apply keepsOut_ite
    | dsimp only
    | (split <;> (try (rename_i heq; obtain rfl := snd_eq heq)))

theorem execBeamCorrected_keeps {r s : State} (h : Keeps r s) (b : Fin 16) :
    KeepsOut r (execBeamCorrected b s) := by
  unfold execBeamCorrected
  repeat' first
    | with_reducible assumption
    | intro _
    | with_reducible apply State.rclAdd_keeps
    | with_reducible apply keeps_ite
    | with_reducible apply keeps_foldl
    | (fail_if_no_progress with_reducible refine keeps_mk ?_ rfl rfl rfl rfl)
    | with_reducible apply keepsOut_next
    | with_reducible apply keepsOut_fault
    | with_reducible apply keepsOut_ite
    | dsimp only
    | (split <;> (try (rename_i heq; obtain rfl := snd_eq heq)))

theorem execPeekSel_keeps {r s : State} (h : Keeps r s) (v : Word) :
    KeepsOut r (execPeekSel v s) := by
  unfold execPeekSel
  repeat' first
    | with_reducible assumption
    | intro _
    | with_reducible apply State.hostWrite_keeps
    | with_reducible apply State.storeReg_keeps
    | with_reducible apply keeps_ite
    | with_reducible apply keeps_foldl
    | (fail_if_no_progress with_reducible refine keeps_mk ?_ rfl rfl rfl rfl)
    | with_reducible apply keepsOut_next
    | with_reducible apply keepsOut_fault
    | with_reducible apply keepsOut_ite
    | dsimp only
    | (split <;> (try (rename_i heq; obtain rfl := snd_eq heq)))

theorem State.peek_keeps {r s : State} (h : Keeps r s) :
    Keeps r (State.peek s).2 := by
  unfold State.peek
  repeat' first
    | with_reducible assumption
    | intro _
    | with_reducible apply State.nextFree_keeps
    | with_reducible apply State.hwSet_keeps
    | with_reducible apply State.latch_keeps
    | with_reducible apply keeps_ite
    | with_reducible apply keeps_foldl
    | (fail_if_no_progress with_reducible refine keeps_mk ?_ rfl rfl rfl rfl)
    | with_reducible apply keeps_ite2
    | dsimp only
    | (split <;> (try (rename_i heq; obtain rfl := snd_eq heq)))

end Sys2Proof.Machine
end

