-- ==== Sys2Proof/Laws/KeepsSeg.lean ====
section
/-! SUPPORT. What every operation of Machine/Seg.lean keeps: the queue, the fabric clock, the canonical form of the register
file and every burnt fuse. -/

set_option linter.all false

namespace Sys2Proof.Machine

theorem State.finishSegment_keeps {r₀ s : State} (h : Keeps r₀ s) (r : Record) (kept : List LaneSample) (pre : Nat) (frac : Nat) (short : Bool) :
    Keeps r₀ (State.finishSegment s r kept pre frac short) := by
  unfold State.finishSegment
  repeat' first
    | with_reducible assumption
    | intro _
    | with_reducible apply State.setKeep_keeps
    | with_reducible apply State.mapRecs_keeps
    | with_reducible apply State.placeChunks_keeps
    | with_reducible apply State.refreshResv_keeps
    | with_reducible apply State.offerRing_keeps
    | with_reducible apply State.gapRecord_keeps
    | with_reducible apply State.afterClose_keeps
    | with_reducible apply State.holdoffFrom_keeps
    | with_reducible apply State.accumulate_keeps
    | with_reducible apply keeps_ite
    | with_reducible apply keeps_foldl
    | (fail_if_no_progress with_reducible refine keeps_mk ?_ rfl rfl rfl rfl)
    | dsimp only
    | (split <;> (try (rename_i heq; obtain rfl := snd_eq heq)))

theorem execSegmentClose_keeps {r s : State} (h : Keeps r s) (c : Fin 1024) (first : Nat) (raw : List (BitVec 10)) :
    KeepsOut r (execSegmentClose c first raw s) := by
  unfold execSegmentClose
  repeat' first
    | with_reducible assumption
    | intro _
    | with_reducible apply State.finishSegment_keeps
    | with_reducible apply keeps_ite
    | with_reducible apply keeps_foldl
    | (fail_if_no_progress with_reducible refine keeps_mk ?_ rfl rfl rfl rfl)
    | with_reducible apply keepsOut_next
    | with_reducible apply keepsOut_fault
    | with_reducible apply keepsOut_ite
    | dsimp only
    | (split <;> (try (rename_i heq; obtain rfl := snd_eq heq)))

theorem execRecordReady_keeps {r s : State} (h : Keeps r s) (c : Fin 1024) (copied : Bool) :
    KeepsOut r (execRecordReady c copied s) := by
  unfold execRecordReady
  repeat' first
    | with_reducible assumption
    | intro _
    | with_reducible apply State.hwSet_keeps
    | with_reducible apply State.mapRecs_keeps
    | with_reducible apply State.offerSlot_keeps
    | with_reducible apply keeps_ite
    | with_reducible apply keeps_foldl
    | (fail_if_no_progress with_reducible refine keeps_mk ?_ rfl rfl rfl rfl)
    | with_reducible apply keepsOut_next
    | with_reducible apply keepsOut_fault
    | with_reducible apply keepsOut_ite
    | dsimp only
    | (split <;> (try (rename_i heq; obtain rfl := snd_eq heq)))

theorem execRecordHanded_keeps {r s : State} (h : Keeps r s) (c : Fin 1024) :
    KeepsOut r (execRecordHanded c s) := by
  unfold execRecordHanded
  repeat' first
    | with_reducible assumption
    | intro _
    | with_reducible apply State.handRecord_keeps
    | with_reducible apply keeps_ite
    | with_reducible apply keeps_foldl
    | (fail_if_no_progress with_reducible refine keeps_mk ?_ rfl rfl rfl rfl)
    | with_reducible apply keepsOut_next
    | with_reducible apply keepsOut_fault
    | with_reducible apply keepsOut_ite
    | dsimp only
    | (split <;> (try (rename_i heq; obtain rfl := snd_eq heq)))

theorem State.ctxClear_keeps {r s : State} (h : Keeps r s) (v : Word) :
    Keeps r (State.ctxClear s v) := by
  unfold State.ctxClear
  repeat' first
    | with_reducible assumption
    | intro _
    | with_reducible apply State.hwSet_keeps
    | with_reducible apply State.setKeep_keeps
    | with_reducible apply keeps_ite
    | with_reducible apply keeps_foldl
    | (fail_if_no_progress with_reducible refine keeps_mk ?_ rfl rfl rfl rfl)
    | dsimp only
    | (split <;> (try (rename_i heq; obtain rfl := snd_eq heq)))

theorem execCtxClear_keeps {r s : State} (h : Keeps r s) (v : Word) :
    KeepsOut r (execCtxClear v s) := by
  unfold execCtxClear
  repeat' first
    | with_reducible assumption
    | intro _
    | with_reducible apply State.hostWrite_keeps
    | with_reducible apply State.ctxClear_keeps
    | with_reducible apply keeps_ite
    | with_reducible apply keeps_foldl
    | (fail_if_no_progress with_reducible refine keeps_mk ?_ rfl rfl rfl rfl)
    | with_reducible apply keepsOut_next
    | with_reducible apply keepsOut_fault
    | with_reducible apply keepsOut_ite
    | dsimp only
    | (split <;> (try (rename_i heq; obtain rfl := snd_eq heq)))

end Sys2Proof.Machine
end

