-- ==== Sys2Proof/Laws/KeepsFlt.lean ====
section
/-! SUPPORT. What every operation of Machine/Flt.lean keeps: the queue, the fabric clock, the canonical form of the register
file and every burnt fuse. -/

set_option linter.all false

namespace Sys2Proof.Machine

theorem State.noteFatal_keeps {r s : State} (h : Keeps r s) (cause : Nat) (detail : Nat) :
    Keeps r (State.noteFatal s cause detail) := by
  unfold State.noteFatal
  repeat' first
    | with_reducible assumption
    | intro _
    | with_reducible apply State.setF_keeps
    | with_reducible apply State.setBit_keeps
    | with_reducible apply State.set64_keeps
    | with_reducible apply keeps_ite
    | with_reducible apply keeps_foldl
    | (fail_if_no_progress with_reducible refine keeps_mk ?_ rfl rfl rfl rfl)
    | dsimp only
    | (split <;> (try (rename_i heq; obtain rfl := snd_eq heq)))

theorem State.fatal_keeps {r s : State} (h : Keeps r s) (cause : Nat) (detail : Nat) :
    Keeps r (State.fatal s cause detail) := by
  unfold State.fatal
  repeat' first
    | with_reducible assumption
    | intro _
    | with_reducible apply State.setF_keeps
    | with_reducible apply State.hwSet_keeps
    | with_reducible apply State.makeRecord_keeps
    | with_reducible apply State.enterSafeTalk_keeps
    | with_reducible apply State.noteFatal_keeps
    | with_reducible apply keeps_ite
    | with_reducible apply keeps_foldl
    | (fail_if_no_progress with_reducible refine keeps_mk ?_ rfl rfl rfl rfl)
    | dsimp only
    | (split <;> (try (rename_i heq; obtain rfl := snd_eq heq)))

theorem execFatal_keeps {r s : State} (h : Keeps r s) (cause : Fin 32) (detail : BitVec 16) :
    KeepsOut r (execFatal cause detail s) := by
  unfold execFatal
  repeat' first
    | with_reducible assumption
    | intro _
    | with_reducible apply State.fatal_keeps
    | with_reducible apply keeps_ite
    | with_reducible apply keeps_foldl
    | (fail_if_no_progress with_reducible refine keeps_mk ?_ rfl rfl rfl rfl)
    | with_reducible apply keepsOut_next
    | with_reducible apply keepsOut_fault
    | with_reducible apply keepsOut_ite
    | dsimp only
    | (split <;> (try (rename_i heq; obtain rfl := snd_eq heq)))

theorem execThermReading_keeps {r s : State} (h : Keeps r s) (reading : BitVec 16) (diode : Fin 8) :
    KeepsOut r (execThermReading reading diode s) := by
  unfold execThermReading
  repeat' first
    | with_reducible assumption
    | intro _
    | with_reducible apply State.setReg_keeps
    | with_reducible apply State.hwSet_keeps
    | with_reducible apply State.fatal_keeps
    | with_reducible apply keeps_ite
    | with_reducible apply keeps_foldl
    | (fail_if_no_progress with_reducible refine keeps_mk ?_ rfl rfl rfl rfl)
    | with_reducible apply keepsOut_next
    | with_reducible apply keepsOut_fault
    | with_reducible apply keepsOut_ite
    | dsimp only
    | (split <;> (try (rename_i heq; obtain rfl := snd_eq heq)))

theorem execOvervoltage_keeps {r s : State} (h : Keeps r s) (rail : Rail) :
    KeepsOut r (execOvervoltage rail s) := by
  unfold execOvervoltage
  repeat' first
    | with_reducible assumption
    | intro _
    | with_reducible apply State.fatal_keeps
    | with_reducible apply keeps_ite
    | with_reducible apply keeps_foldl
    | (fail_if_no_progress with_reducible refine keeps_mk ?_ rfl rfl rfl rfl)
    | with_reducible apply keepsOut_next
    | with_reducible apply keepsOut_fault
    | with_reducible apply keepsOut_ite
    | dsimp only
    | (split <;> (try (rename_i heq; obtain rfl := snd_eq heq)))

theorem execCtrlSramUe_keeps {r s : State} (h : Keeps r s) (inst : BitVec 16) :
    KeepsOut r (execCtrlSramUe inst s) := by
  unfold execCtrlSramUe
  repeat' first
    | with_reducible assumption
    | intro _
    | with_reducible apply State.fatal_keeps
    | with_reducible apply keeps_ite
    | with_reducible apply keeps_foldl
    | (fail_if_no_progress with_reducible refine keeps_mk ?_ rfl rfl rfl rfl)
    | with_reducible apply keepsOut_next
    | with_reducible apply keepsOut_fault
    | with_reducible apply keepsOut_ite
    | dsimp only
    | (split <;> (try (rename_i heq; obtain rfl := snd_eq heq)))

theorem execFabricClock_keeps {r s : State} (h : Keeps r s) :
    KeepsOut r (execFabricClock s) := by
  unfold execFabricClock
  repeat' first
    | with_reducible assumption
    | intro _
    | with_reducible apply State.fatal_keeps
    | with_reducible apply keeps_ite
    | with_reducible apply keeps_foldl
    | (fail_if_no_progress with_reducible refine keeps_mk ?_ rfl rfl rfl rfl)
    | with_reducible apply keepsOut_next
    | with_reducible apply keepsOut_fault
    | with_reducible apply keepsOut_ite
    | dsimp only
    | (split <;> (try (rename_i heq; obtain rfl := snd_eq heq)))

theorem State.gapAll_keeps {r s : State} (h : Keeps r s) (l : List Record) (cause : GapCause) :
    Keeps r (State.gapAll s l cause) := by
  unfold State.gapAll
  repeat' first
    | with_reducible assumption
    | intro _
    | with_reducible apply State.gapRecord_keeps
    | with_reducible apply keeps_ite
    | with_reducible apply keeps_foldl
    | (fail_if_no_progress with_reducible refine keeps_mk ?_ rfl rfl rfl rfl)
    | dsimp only
    | (split <;> (try (rename_i heq; obtain rfl := snd_eq heq)))

theorem execFreezeTimeout_keeps {r s : State} (h : Keeps r s) (c : Fin 1024) :
    KeepsOut r (execFreezeTimeout c s) := by
  unfold execFreezeTimeout
  repeat' first
    | with_reducible assumption
    | intro _
    | with_reducible apply State.hwSet_keeps
    | with_reducible apply State.setKeep_keeps
    | with_reducible apply State.judgeHeld_keeps
    | with_reducible apply State.gapAll_keeps
    | with_reducible apply keeps_ite
    | with_reducible apply keeps_foldl
    | (fail_if_no_progress with_reducible refine keeps_mk ?_ rfl rfl rfl rfl)
    | with_reducible apply keepsOut_next
    | with_reducible apply keepsOut_fault
    | with_reducible apply keepsOut_ite
    | dsimp only
    | (split <;> (try (rename_i heq; obtain rfl := snd_eq heq)))

theorem execOccSel_keeps {r s : State} (h : Keeps r s) (v : Word) :
    KeepsOut r (execOccSel v s) := by
  unfold execOccSel
  repeat' first
    | with_reducible assumption
    | intro _
    | with_reducible apply State.hostWrite_keeps
    | with_reducible apply State.storeReg_keeps
    | with_reducible apply keeps_ite
    | with_reducible apply keeps_foldl
    | (fail_if_no_progress with_reducible refine keeps_mk ?_ rfl rfl rfl rfl)
    | with_reducible apply keepsOut_next
    | with_reducible apply keepsOut_fault
    | with_reducible apply keepsOut_ite
    | dsimp only
    | (split <;> (try (rename_i heq; obtain rfl := snd_eq heq)))

end Sys2Proof.Machine
end

