-- ==== Sys2Proof/Laws/KeepsDeliver.lean ====
section
/-! SUPPORT. What every operation of Machine/Deliver.lean keeps: the queue, the fabric clock, the canonical form of the register
file and every burnt fuse. -/

set_option linter.all false

namespace Sys2Proof.Machine

theorem State.makeVisible_keeps {r₀ s : State} (h : Keeps r₀ s) (r : Record) (toStream : Bool) :
    Keeps r₀ (State.makeVisible s r toStream) := by
  unfold State.makeVisible
  repeat' first
    | with_reducible assumption
    | intro _
    | with_reducible apply State.rclAdd_keeps
    | with_reducible apply State.mapRecs_keeps
    | with_reducible apply State.judgeHeld_keeps
    | with_reducible apply State.retire_keeps
    | with_reducible apply keeps_ite
    | with_reducible apply keeps_foldl
    | (fail_if_no_progress with_reducible refine keeps_mk ?_ rfl rfl rfl rfl)
    | dsimp only
    | (split <;> (try (rename_i heq; obtain rfl := snd_eq heq)))

theorem State.ackRecord_keeps {r₀ s : State} (h : Keeps r₀ s) (r : Record) (toStream : Bool) :
    Keeps r₀ (State.ackRecord s r toStream) := by
  unfold State.ackRecord
  repeat' first
    | with_reducible assumption
    | intro _
    | with_reducible apply State.sendCell_keeps
    | with_reducible apply State.mapRecs_keeps
    | with_reducible apply State.retire_keeps
    | with_reducible apply keeps_ite
    | with_reducible apply keeps_foldl
    | (fail_if_no_progress with_reducible refine keeps_mk ?_ rfl rfl rfl rfl)
    | dsimp only
    | (split <;> (try (rename_i heq; obtain rfl := snd_eq heq)))

end Sys2Proof.Machine
end

