-- ==== Sys2Proof/Laws/KeepsDma.lean ====
section
/-! SUPPORT. What every operation of Machine/Dma.lean keeps: the queue, the fabric clock, the canonical form of the register
file and every burnt fuse. -/

set_option linter.all false

namespace Sys2Proof.Machine

theorem State.setQueue_keeps {r s : State} (h : Keeps r s) (q : Nat) (x : QueueSt) :
    Keeps r (State.setQueue s q x) := by
  unfold State.setQueue
  repeat' first
    | with_reducible assumption
    | intro _
    | with_reducible apply keeps_ite
    | with_reducible apply keeps_foldl
    | (fail_if_no_progress with_reducible refine keeps_mk ?_ rfl rfl rfl rfl)
    | dsimp only
    | (split <;> (try (rename_i heq; obtain rfl := snd_eq heq)))

theorem State.setChan_keeps {r s : State} (h : Keeps r s) (n : Nat) (x : ChanSt) :
    Keeps r (State.setChan s n x) := by
  unfold State.setChan
  repeat' first
    | with_reducible assumption
    | intro _
    | with_reducible apply keeps_ite
    | with_reducible apply keeps_foldl
    | (fail_if_no_progress with_reducible refine keeps_mk ?_ rfl rfl rfl rfl)
    | dsimp only
    | (split <;> (try (rename_i heq; obtain rfl := snd_eq heq)))

theorem State.queueEvent_keeps {r s : State} (h : Keeps r s) (f : Fld) :
    Keeps r (State.queueEvent s f) := by
  unfold State.queueEvent
  repeat' first
    | with_reducible assumption
    | intro _
    | with_reducible apply State.hwSet_keeps
    | with_reducible apply keeps_ite
    | with_reducible apply keeps_foldl
    | (fail_if_no_progress with_reducible refine keeps_mk ?_ rfl rfl rfl rfl)
    | dsimp only
    | (split <;> (try (rename_i heq; obtain rfl := snd_eq heq)))

theorem State.startQueue_keeps {r s : State} (h : Keeps r s) (q : Nat) :
    Keeps r (State.startQueue s q) := by
  unfold State.startQueue
  repeat' first
    | with_reducible assumption
    | intro _
    | with_reducible apply State.setRegs_keeps
    | with_reducible apply State.setQueue_keeps
    | with_reducible apply keeps_ite
    | with_reducible apply keeps_foldl
    | (fail_if_no_progress with_reducible refine keeps_mk ?_ rfl rfl rfl rfl)
    | dsimp only
    | (split <;> (try (rename_i heq; obtain rfl := snd_eq heq)))

theorem State.queueCfg_keeps {r s : State} (h : Keeps r s) (q : Nat) (v : Word) :
    Keeps r (State.queueCfg s q v) := by
  unfold State.queueCfg
  repeat' first
    | with_reducible assumption
    | intro _
    | with_reducible apply State.setReg_keeps
    | with_reducible apply State.queueEvent_keeps
    | with_reducible apply State.startQueue_keeps
    | with_reducible apply keeps_ite
    | with_reducible apply keeps_foldl
    | (fail_if_no_progress with_reducible refine keeps_mk ?_ rfl rfl rfl rfl)
    | dsimp only
    | (split <;> (try (rename_i heq; obtain rfl := snd_eq heq)))

theorem execDqEnable_keeps {r s : State} (h : Keeps r s) (q : Fin 64) (v : Word) :
    KeepsOut r (execDqEnable q v s) := by
  unfold execDqEnable
  repeat' first
    | with_reducible assumption
    | intro _
    | with_reducible apply State.hostWrite_keeps
    | with_reducible apply State.queueCfg_keeps
    | with_reducible apply keeps_ite
    | with_reducible apply keeps_foldl
    | (fail_if_no_progress with_reducible refine keeps_mk ?_ rfl rfl rfl rfl)
    | with_reducible apply keepsOut_next
    | with_reducible apply keepsOut_fault
    | with_reducible apply keepsOut_ite
    | dsimp only
    | (split <;> (try (rename_i heq; obtain rfl := snd_eq heq)))

theorem execDqDisable_keeps {r s : State} (h : Keeps r s) (q : Fin 64) (v : Word) :
    KeepsOut r (execDqDisable q v s) := by
  unfold execDqDisable
  repeat' first
    | with_reducible assumption
    | intro _
    | with_reducible apply State.hostWrite_keeps
    | with_reducible apply State.queueCfg_keeps
    | with_reducible apply keeps_ite
    | with_reducible apply keeps_foldl
    | (fail_if_no_progress with_reducible refine keeps_mk ?_ rfl rfl rfl rfl)
    | with_reducible apply keepsOut_next
    | with_reducible apply keepsOut_fault
    | with_reducible apply keepsOut_ite
    | dsimp only
    | (split <;> (try (rename_i heq; obtain rfl := snd_eq heq)))

theorem State.freeProd_keeps {r s : State} (h : Keeps r s) (q : Nat) (v : Word) :
    Keeps r (State.freeProd s q v) := by
  unfold State.freeProd
  repeat' first
    | with_reducible assumption
    | intro _
    | with_reducible apply State.setReg_keeps
    | with_reducible apply State.setQueue_keeps
    | with_reducible apply State.queueEvent_keeps
    | with_reducible apply keeps_ite
    | with_reducible apply keeps_foldl
    | (fail_if_no_progress with_reducible refine keeps_mk ?_ rfl rfl rfl rfl)
    | dsimp only
    | (split <;> (try (rename_i heq; obtain rfl := snd_eq heq)))

theorem execFreeProd_keeps {r s : State} (h : Keeps r s) (q : Fin 64) (v : Word) :
    KeepsOut r (execFreeProd q v s) := by
  unfold execFreeProd
  repeat' first
    | with_reducible assumption
    | intro _
    | with_reducible apply State.hostWrite_keeps
    | with_reducible apply State.freeProd_keeps
    | with_reducible apply keeps_ite
    | with_reducible apply keeps_foldl
    | (fail_if_no_progress with_reducible refine keeps_mk ?_ rfl rfl rfl rfl)
    | with_reducible apply keepsOut_next
    | with_reducible apply keepsOut_fault
    | with_reducible apply keepsOut_ite
    | dsimp only
    | (split <;> (try (rename_i heq; obtain rfl := snd_eq heq)))

theorem State.ackFirst_keeps {r s : State} (h : Keeps r s) (q n : Nat) : Keeps r (State.ackFirst q n s) := by
  induction n generalizing s with
  | zero => exact h
  | succ n ih =>
    unfold State.ackFirst
    dsimp only
    split
    · exact h
    · apply ih
      split
      · exact State.ackRecord_keeps (State.setQueue_keeps h _ _) _ _
      · exact State.setQueue_keeps h _ _

theorem State.compCons_keeps {r s : State} (h : Keeps r s) (q : Nat) (v : Word) :
    Keeps r (State.compCons s q v) := by
  unfold State.compCons
  repeat' first
    | with_reducible assumption
    | intro _
    | with_reducible apply State.setReg_keeps
    | with_reducible apply State.setQueue_keeps
    | with_reducible apply State.queueEvent_keeps
    | with_reducible apply State.ackFirst_keeps
    | with_reducible apply keeps_ite
    | with_reducible apply keeps_foldl
    | (fail_if_no_progress with_reducible refine keeps_mk ?_ rfl rfl rfl rfl)
    | dsimp only
    | (split <;> (try (rename_i heq; obtain rfl := snd_eq heq)))

theorem execCompCons_keeps {r s : State} (h : Keeps r s) (q : Fin 64) (v : Word) :
    KeepsOut r (execCompCons q v s) := by
  unfold execCompCons
  repeat' first
    | with_reducible assumption
    | intro _
    | with_reducible apply State.hostWrite_keeps
    | with_reducible apply State.compCons_keeps
    | with_reducible apply keeps_ite
    | with_reducible apply keeps_foldl
    | (fail_if_no_progress with_reducible refine keeps_mk ?_ rfl rfl rfl rfl)
    | with_reducible apply keepsOut_next
    | with_reducible apply keepsOut_fault
    | with_reducible apply keepsOut_ite
    | dsimp only
    | (split <;> (try (rename_i heq; obtain rfl := snd_eq heq)))

theorem State.latchBusError_keeps {r s : State} (h : Keeps r s) (ch : Nat) (addr : BitVec 64) (write : Bool) (cause : Nat) :
    Keeps r (State.latchBusError s ch addr write cause) := by
  unfold State.latchBusError
  repeat' first
    | with_reducible assumption
    | intro _
    | with_reducible apply State.setF_keeps
    | with_reducible apply State.setBit_keeps
    | with_reducible apply State.setRegs_keeps
    | with_reducible apply keeps_ite
    | with_reducible apply keeps_foldl
    | (fail_if_no_progress with_reducible refine keeps_mk ?_ rfl rfl rfl rfl)
    | dsimp only
    | (split <;> (try (rename_i heq; obtain rfl := snd_eq heq)))

theorem State.stopAll_keeps {r s : State} (h : Keeps r s) (ch : Nat) (addr : BitVec 64) (write : Bool) (cause : Nat) :
    Keeps r (State.stopAll s ch addr write cause) := by
  unfold State.stopAll
  repeat' first
    | with_reducible assumption
    | intro _
    | with_reducible apply State.setF_keeps
    | with_reducible apply State.setBit_keeps
    | with_reducible apply State.hwSet_keeps
    | with_reducible apply State.latchBusError_keeps
    | with_reducible apply keeps_ite
    | with_reducible apply keeps_foldl
    | (fail_if_no_progress with_reducible refine keeps_mk ?_ rfl rfl rfl rfl)
    | dsimp only
    | (split <;> (try (rename_i heq; obtain rfl := snd_eq heq)))

theorem State.busError_keeps {r s : State} (h : Keeps r s) (ch : Nat) (addr : BitVec 64) (write : Bool) (cause : Nat) :
    Keeps r (State.busError s ch addr write cause) := by
  unfold State.busError
  repeat' first
    | with_reducible assumption
    | intro _
    | with_reducible apply State.setF_keeps
    | with_reducible apply State.hwSet_keeps
    | with_reducible apply State.latchBusError_keeps
    | with_reducible apply State.stopAll_keeps
    | with_reducible apply keeps_ite
    | with_reducible apply keeps_foldl
    | (fail_if_no_progress with_reducible refine keeps_mk ?_ rfl rfl rfl rfl)
    | dsimp only
    | (split <;> (try (rename_i heq; obtain rfl := snd_eq heq)))

theorem execBusError_keeps {r s : State} (h : Keeps r s) (ch : Fin 32) (addr : BitVec 64) (write : Bool) (cause : Fin 16) :
    KeepsOut r (execBusError ch addr write cause s) := by
  unfold execBusError
  repeat' first
    | with_reducible assumption
    | intro _
    | with_reducible apply State.busError_keeps
    | with_reducible apply keeps_ite
    | with_reducible apply keeps_foldl
    | (fail_if_no_progress with_reducible refine keeps_mk ?_ rfl rfl rfl rfl)
    | with_reducible apply keepsOut_next
    | with_reducible apply keepsOut_fault
    | with_reducible apply keepsOut_ite
    | dsimp only
    | (split <;> (try (rename_i heq; obtain rfl := snd_eq heq)))

theorem execAllStop_keeps {r s : State} (h : Keeps r s) (ch : Fin 4) (addr : BitVec 64) (cause : Fin 16) :
    KeepsOut r (execAllStop ch addr cause s) := by
  unfold execAllStop
  repeat' first
    | with_reducible assumption
    | intro _
    | with_reducible apply State.stopAll_keeps
    | with_reducible apply keeps_ite
    | with_reducible apply keeps_foldl
    | (fail_if_no_progress with_reducible refine keeps_mk ?_ rfl rfl rfl rfl)
    | with_reducible apply keepsOut_next
    | with_reducible apply keepsOut_fault
    | with_reducible apply keepsOut_ite
    | dsimp only
    | (split <;> (try (rename_i heq; obtain rfl := snd_eq heq)))

theorem State.takeDescs_keeps {r s : State} (h : Keeps r s) (q : Nat) (l : List (BitVec 64 × Word)) :
    Keeps r (s.takeDescs q l) := by
  induction l generalizing s with
  | nil => exact h
  | cons a l ih =>
    obtain ⟨a, t⟩ := a
    unfold State.takeDescs
    dsimp only
    split
    · exact State.stopAll_keeps h _ _ _ _
    · exact ih (State.setQueue_keeps h _ _)

theorem State.judgeStarved_keeps {r s : State} (h : Keeps r s) (q : Nat) :
    Keeps r (State.judgeStarved s q) := by
  unfold State.judgeStarved
  repeat' first
    | with_reducible assumption
    | intro _
    | with_reducible apply State.rclAdd_keeps
    | with_reducible apply State.setQueue_keeps
    | with_reducible apply keeps_ite
    | with_reducible apply keeps_foldl
    | (fail_if_no_progress with_reducible refine keeps_mk ?_ rfl rfl rfl rfl)
    | dsimp only
    | (split <;> (try (rename_i heq; obtain rfl := snd_eq heq)))

theorem State.limit_keeps {r s : State} (h : Keeps r s) (ch : Nat) (b : Nat) :
    Keeps r (State.limit s ch b) := by
  unfold State.limit
  repeat' first
    | with_reducible assumption
    | intro _
    | with_reducible apply State.setChan_keeps
    | with_reducible apply keeps_ite
    | with_reducible apply keeps_foldl
    | (fail_if_no_progress with_reducible refine keeps_mk ?_ rfl rfl rfl rfl)
    | dsimp only
    | (split <;> (try (rename_i heq; obtain rfl := snd_eq heq)))

theorem State.burstStarted_keeps {r s : State} (h : Keeps r s) (toHost : Bool) (ch : Nat) (b : Nat) :
    Keeps r (State.burstStarted s toHost ch b) := by
  unfold State.burstStarted
  repeat' first
    | with_reducible assumption
    | intro _
    | with_reducible apply State.rclAdd_keeps
    | with_reducible apply State.limit_keeps
    | with_reducible apply keeps_ite
    | with_reducible apply keeps_foldl
    | (fail_if_no_progress with_reducible refine keeps_mk ?_ rfl rfl rfl rfl)
    | dsimp only
    | (split <;> (try (rename_i heq; obtain rfl := snd_eq heq)))

theorem State.sendWrites_keeps {r s : State} (h : Keeps r s) (addr : Nat) (bytes : List Byte) (relaxed : Bool) :
    Keeps r (State.sendWrites s addr bytes relaxed) := by
  unfold State.sendWrites
  repeat' first
    | with_reducible assumption
    | intro _
    | with_reducible apply State.send_keeps
    | with_reducible apply State.hostWrite_keeps
    | with_reducible apply keeps_ite
    | with_reducible apply keeps_foldl
    | (fail_if_no_progress with_reducible refine keeps_mk ?_ rfl rfl rfl rfl)
    | dsimp only
    | (split <;> (try (rename_i heq; obtain rfl := snd_eq heq)))

theorem State.sendReads_keeps {r s : State} (h : Keeps r s) (addr : Nat) (n : Nat) :
    Keeps r (State.sendReads s addr n) := by
  unfold State.sendReads
  repeat' first
    | with_reducible assumption
    | intro _
    | with_reducible apply State.send_keeps
    | with_reducible apply State.hostRead_keeps
    | with_reducible apply keeps_ite
    | with_reducible apply keeps_foldl
    | (fail_if_no_progress with_reducible refine keeps_mk ?_ rfl rfl rfl rfl)
    | dsimp only
    | (split <;> (try (rename_i heq; obtain rfl := snd_eq heq)))

theorem State.offerBurst_keeps {r₀ s : State} (h : Keeps r₀ s) (r : Record) (sent : Nat) (n : Nat) :
    Keeps r₀ (State.offerBurst s r sent n) := by
  unfold State.offerBurst
  repeat' first
    | with_reducible assumption
    | intro _
    | with_reducible apply State.offerRead_keeps
    | with_reducible apply State.offerSlot_keeps
    | with_reducible apply keeps_ite
    | with_reducible apply keeps_foldl
    | (fail_if_no_progress with_reducible refine keeps_mk ?_ rfl rfl rfl rfl)
    | dsimp only
    | (split <;> (try (rename_i heq; obtain rfl := snd_eq heq)))

theorem State.deliverBurst_keeps {r s : State} (h : Keeps r s) (ch : Nat) :
    Keeps r (State.deliverBurst s ch) := by
  unfold State.deliverBurst
  repeat' first
    | with_reducible assumption
    | intro _
    | with_reducible apply State.setReg_keeps
    | with_reducible apply State.send_keeps
    | with_reducible apply State.setQueue_keeps
    | with_reducible apply State.setChan_keeps
    | with_reducible apply State.judgeStarved_keeps
    | with_reducible apply State.burstStarted_keeps
    | with_reducible apply State.sendWrites_keeps
    | with_reducible apply State.offerBurst_keeps
    | with_reducible apply State.hostRead_keeps
    | with_reducible apply keeps_ite
    | with_reducible apply keeps_foldl
    | (fail_if_no_progress with_reducible refine keeps_mk ?_ rfl rfl rfl rfl)
    | dsimp only
    | (split <;> (try (rename_i heq; obtain rfl := snd_eq heq)))

theorem State.pacedBurst_keeps {r s t : State} (h : Keeps r s) (ch : Nat) (data : List Byte)
    (e : s.pacedBurst ch data = some t) : Keeps r t := by
  unfold State.pacedBurst at e
  dsimp only at e
  split at e
  · cases e
    exact State.burstStarted_keeps (State.rclAdd_keeps (State.sendReads_keeps (State.setChan_keeps h _ _) _ _) _ _) _ _ _
  · cases e; exact h
  · split at e
    · cases e
    · cases e
      apply State.burstStarted_keeps
      split
      · exact keeps_mk (State.sendReads_keeps (State.setChan_keeps h _ _) _ _) rfl rfl rfl rfl
      · exact State.sendReads_keeps (State.setChan_keeps h _ _) _ _

theorem State.prefetchBurst_keeps {r s : State} (h : Keeps r s) (q : Nat) (descs : List (BitVec 64 × Word)) :
    Keeps r (State.prefetchBurst s q descs) := by
  unfold State.prefetchBurst
  repeat' first
    | with_reducible assumption
    | intro _
    | with_reducible apply State.takeDescs_keeps
    | with_reducible apply State.burstStarted_keeps
    | with_reducible apply State.sendReads_keeps
    | with_reducible apply keeps_ite
    | with_reducible apply keeps_foldl
    | (fail_if_no_progress with_reducible refine keeps_mk ?_ rfl rfl rfl rfl)
    | dsimp only
    | (split <;> (try (rename_i heq; obtain rfl := snd_eq heq)))

theorem execDescriptorPrefetch_keeps {r s : State} (h : Keeps r s) (q : Fin 64) (descs : List (BitVec 64 × Word)) :
    KeepsOut r (execDescriptorPrefetch q descs s) := by
  unfold execDescriptorPrefetch
  repeat' first
    | with_reducible assumption
    | intro _
    | with_reducible apply State.prefetchBurst_keeps
    | with_reducible apply keeps_ite
    | with_reducible apply keeps_foldl
    | (fail_if_no_progress with_reducible refine keeps_mk ?_ rfl rfl rfl rfl)
    | with_reducible apply keepsOut_next
    | with_reducible apply keepsOut_fault
    | with_reducible apply keepsOut_ite
    | dsimp only
    | (split <;> (try (rename_i heq; obtain rfl := snd_eq heq)))

theorem execDmaBurstStart_keeps {r s : State} (h : Keeps r s) (toHost : Bool) (data : List Byte) :
    KeepsOut r (execDmaBurstStart toHost data s) := by
  unfold execDmaBurstStart
  split
  · exact keepsOut_next h
  · split
    · exact keepsOut_next h
    · split
      · exact keepsOut_next (State.deliverBurst_keeps h _)
      · split
        · split
          · split
            · exact keepsOut_fault _
            · exact keepsOut_next (State.prefetchBurst_keeps h _ _)
          · exact keepsOut_next h
        · split
          · next e => exact keepsOut_next (State.pacedBurst_keeps h _ _ e)
          · exact keepsOut_fault _

theorem State.raiseQueue_keeps {r s : State} (h : Keeps r s) (q : Nat) :
    Keeps r (State.raiseQueue s q) := by
  unfold State.raiseQueue
  repeat' first
    | with_reducible assumption
    | intro _
    | with_reducible apply State.raiseVector_keeps
    | with_reducible apply State.setQueue_keeps
    | with_reducible apply keeps_ite
    | with_reducible apply keeps_foldl
    | (fail_if_no_progress with_reducible refine keeps_mk ?_ rfl rfl rfl rfl)
    | dsimp only
    | (split <;> (try (rename_i heq; obtain rfl := snd_eq heq)))

theorem State.coalesce_keeps {r s : State} (h : Keeps r s) (q : Nat) :
    Keeps r (State.coalesce s q) := by
  unfold State.coalesce
  repeat' first
    | with_reducible assumption
    | intro _
    | with_reducible apply State.setQueue_keeps
    | with_reducible apply State.raiseQueue_keeps
    | with_reducible apply keeps_ite
    | with_reducible apply keeps_foldl
    | (fail_if_no_progress with_reducible refine keeps_mk ?_ rfl rfl rfl rfl)
    | dsimp only
    | (split <;> (try (rename_i heq; obtain rfl := snd_eq heq)))

theorem State.complete_keeps {r₀ s : State} (h : Keeps r₀ s) (q : Nat) (r : Record) :
    Keeps r₀ (State.complete s q r) := by
  unfold State.complete
  repeat' first
    | with_reducible assumption
    | intro _
    | with_reducible apply State.setReg_keeps
    | with_reducible apply State.send_keeps
    | with_reducible apply State.hostWrite_keeps
    | with_reducible apply State.makeVisible_keeps
    | with_reducible apply State.setQueue_keeps
    | with_reducible apply State.coalesce_keeps
    | with_reducible apply keeps_ite
    | with_reducible apply keeps_foldl
    | (fail_if_no_progress with_reducible refine keeps_mk ?_ rfl rfl rfl rfl)
    | dsimp only
    | (split <;> (try (rename_i heq; obtain rfl := snd_eq heq)))

theorem execCompletionRecordWrite_keeps {r s : State} (h : Keeps r s) (q : Fin 64) (flushed : Bool := false) :
    KeepsOut r (execCompletionRecordWrite q s flushed) := by
  unfold execCompletionRecordWrite
  repeat' first
    | with_reducible assumption
    | intro _
    | with_reducible apply State.complete_keeps
    | with_reducible apply keeps_ite
    | with_reducible apply keeps_foldl
    | (fail_if_no_progress with_reducible refine keeps_mk ?_ rfl rfl rfl rfl)
    | with_reducible apply keepsOut_next
    | with_reducible apply keepsOut_fault
    | with_reducible apply keepsOut_ite
    | dsimp only
    | (split <;> (try (rename_i heq; obtain rfl := snd_eq heq)))

theorem execCoalTimeExpiry_keeps {r s : State} (h : Keeps r s) (q : Fin 64) :
    KeepsOut r (execCoalTimeExpiry q s) := by
  unfold execCoalTimeExpiry
  repeat' first
    | with_reducible assumption
    | intro _
    | with_reducible apply State.raiseQueue_keeps
    | with_reducible apply keeps_ite
    | with_reducible apply keeps_foldl
    | (fail_if_no_progress with_reducible refine keeps_mk ?_ rfl rfl rfl rfl)
    | with_reducible apply keepsOut_next
    | with_reducible apply keepsOut_fault
    | with_reducible apply keepsOut_ite
    | dsimp only
    | (split <;> (try (rename_i heq; obtain rfl := snd_eq heq)))

theorem execPacedRequest_keeps {r s : State} (h : Keeps r s) (n : Fin 32) (line : Nat) (scan : Option Nat := none) :
    KeepsOut r (execPacedRequest n line s scan) := by
  unfold execPacedRequest
  repeat' first
    | with_reducible assumption
    | intro _
    | with_reducible apply State.setBit_keeps
    | with_reducible apply State.setChan_keeps
    | with_reducible apply keeps_ite
    | with_reducible apply keeps_foldl
    | (fail_if_no_progress with_reducible refine keeps_mk ?_ rfl rfl rfl rfl)
    | with_reducible apply keepsOut_next
    | with_reducible apply keepsOut_fault
    | with_reducible apply keepsOut_ite
    | dsimp only
    | (split <;> (try (rename_i heq; obtain rfl := snd_eq heq)))

theorem execPacedWithdraw_keeps {r s : State} (h : Keeps r s) (n : Fin 32) :
    KeepsOut r (execPacedWithdraw n s) := by
  unfold execPacedWithdraw
  repeat' first
    | with_reducible assumption
    | intro _
    | with_reducible apply State.rclAdd_keeps
    | with_reducible apply State.setChan_keeps
    | with_reducible apply keeps_ite
    | with_reducible apply keeps_foldl
    | (fail_if_no_progress with_reducible refine keeps_mk ?_ rfl rfl rfl rfl)
    | with_reducible apply keepsOut_next
    | with_reducible apply keepsOut_fault
    | with_reducible apply keepsOut_ite
    | dsimp only
    | (split <;> (try (rename_i heq; obtain rfl := snd_eq heq)))

theorem State.pacedBack_keeps {r s : State} (h : Keeps r s) (ch : Nat) (whole : Bool) :
    Keeps r (State.pacedBack s ch whole) := by
  unfold State.pacedBack
  repeat' first
    | with_reducible assumption
    | intro _
    | with_reducible apply State.setChan_keeps
    | with_reducible apply keeps_ite
    | with_reducible apply keeps_foldl
    | (fail_if_no_progress with_reducible refine keeps_mk ?_ rfl rfl rfl rfl)
    | dsimp only
    | (split <;> (try (rename_i heq; obtain rfl := snd_eq heq)))

theorem State.flushAgain_keeps {r s : State} (h : Keeps r s) (ch : Nat) :
    Keeps r (State.flushAgain s ch) := by
  unfold State.flushAgain
  repeat' first
    | with_reducible assumption
    | intro _
    | with_reducible apply State.send_keeps
    | with_reducible apply State.hostRead_keeps
    | with_reducible apply keeps_ite
    | with_reducible apply keeps_foldl
    | (fail_if_no_progress with_reducible refine keeps_mk ?_ rfl rfl rfl rfl)
    | dsimp only
    | (split <;> (try (rename_i heq; obtain rfl := snd_eq heq)))

theorem State.resumeChan_keeps {r s : State} (h : Keeps r s) (ch : Nat) :
    Keeps r (State.resumeChan s ch) := by
  unfold State.resumeChan
  repeat' first
    | with_reducible assumption
    | intro _
    | with_reducible apply State.setF_keeps
    | with_reducible apply State.setQueue_keeps
    | with_reducible apply State.pacedBack_keeps
    | with_reducible apply State.flushAgain_keeps
    | with_reducible apply keeps_ite
    | with_reducible apply keeps_foldl
    | (fail_if_no_progress with_reducible refine keeps_mk ?_ rfl rfl rfl rfl)
    | dsimp only
    | (split <;> (try (rename_i heq; obtain rfl := snd_eq heq)))

theorem State.restartChan_keeps {r s : State} (h : Keeps r s) (ch : Nat) :
    Keeps r (State.restartChan s ch) := by
  unfold State.restartChan
  repeat' first
    | with_reducible assumption
    | intro _
    | with_reducible apply State.setF_keeps
    | with_reducible apply State.setQueue_keeps
    | with_reducible apply State.pacedBack_keeps
    | with_reducible apply keeps_ite
    | with_reducible apply keeps_foldl
    | (fail_if_no_progress with_reducible refine keeps_mk ?_ rfl rfl rfl rfl)
    | dsimp only
    | (split <;> (try (rename_i heq; obtain rfl := snd_eq heq)))

theorem State.chanCtrl_keeps {r s : State} (h : Keeps r s) (ch : Nat) (v : Word) :
    Keeps r (State.chanCtrl s ch v) := by
  unfold State.chanCtrl
  repeat' first
    | with_reducible assumption
    | intro _
    | with_reducible apply keeps_ite
    | with_reducible apply keeps_foldl
    | (fail_if_no_progress with_reducible refine keeps_mk ?_ rfl rfl rfl rfl)
    | dsimp only
    | (split <;> (try (rename_i heq; obtain rfl := snd_eq heq)))

theorem State.chanCtrlActs_keeps {r s : State} (h : Keeps r s) (ch : Nat) (v : Word) :
    Keeps r (State.chanCtrlActs s ch v) := by
  unfold State.chanCtrlActs
  repeat' first
    | with_reducible assumption
    | intro _
    | with_reducible apply State.resumeChan_keeps
    | with_reducible apply State.restartChan_keeps
    | with_reducible apply keeps_ite
    | with_reducible apply keeps_foldl
    | (fail_if_no_progress with_reducible refine keeps_mk ?_ rfl rfl rfl rfl)
    | dsimp only
    | (split <;> (try (rename_i heq; obtain rfl := snd_eq heq)))

theorem execResume_keeps {r s : State} (h : Keeps r s) (ch : Fin 32) :
    KeepsOut r (execResume ch s) := by
  unfold execResume
  repeat' first
    | with_reducible assumption
    | intro _
    | with_reducible apply State.hostWrite_keeps
    | with_reducible apply State.chanCtrl_keeps
    | with_reducible apply keeps_ite
    | with_reducible apply keeps_foldl
    | (fail_if_no_progress with_reducible refine keeps_mk ?_ rfl rfl rfl rfl)
    | with_reducible apply keepsOut_next
    | with_reducible apply keepsOut_fault
    | with_reducible apply keepsOut_ite
    | dsimp only
    | (split <;> (try (rename_i heq; obtain rfl := snd_eq heq)))

theorem execRestart_keeps {r s : State} (h : Keeps r s) (ch : Fin 32) :
    KeepsOut r (execRestart ch s) := by
  unfold execRestart
  repeat' first
    | with_reducible assumption
    | intro _
    | with_reducible apply State.hostWrite_keeps
    | with_reducible apply State.chanCtrl_keeps
    | with_reducible apply keeps_ite
    | with_reducible apply keeps_foldl
    | (fail_if_no_progress with_reducible refine keeps_mk ?_ rfl rfl rfl rfl)
    | with_reducible apply keepsOut_next
    | with_reducible apply keepsOut_fault
    | with_reducible apply keepsOut_ite
    | dsimp only
    | (split <;> (try (rename_i heq; obtain rfl := snd_eq heq)))

theorem State.dmaCtrl_keeps {r s : State} (h : Keeps r s) (v : Word) :
    Keeps r (State.dmaCtrl s v) := by
  unfold State.dmaCtrl
  repeat' first
    | with_reducible assumption
    | intro _
    | with_reducible apply keeps_ite
    | with_reducible apply keeps_foldl
    | (fail_if_no_progress with_reducible refine keeps_mk ?_ rfl rfl rfl rfl)
    | dsimp only
    | (split <;> (try (rename_i heq; obtain rfl := snd_eq heq)))

theorem State.dmaSettle_keeps {r s : State} (h : Keeps r s) :
    Keeps r (State.dmaSettle s) := by
  unfold State.dmaSettle
  repeat' first
    | with_reducible assumption
    | intro _
    | with_reducible apply State.setBit_keeps
    | with_reducible apply State.hwSet_keeps
    | with_reducible apply State.chanCtrlActs_keeps
    | with_reducible apply keeps_ite
    | with_reducible apply keeps_foldl
    | (fail_if_no_progress with_reducible refine keeps_mk ?_ rfl rfl rfl rfl)
    | dsimp only
    | (split <;> (try (rename_i heq; obtain rfl := snd_eq heq)))

theorem execDmaReset_keeps {r s : State} (h : Keeps r s) :
    KeepsOut r (execDmaReset s) := by
  unfold execDmaReset
  repeat' first
    | with_reducible assumption
    | intro _
    | with_reducible apply State.hostWrite_keeps
    | with_reducible apply State.dmaCtrl_keeps
    | with_reducible apply keeps_ite
    | with_reducible apply keeps_foldl
    | (fail_if_no_progress with_reducible refine keeps_mk ?_ rfl rfl rfl rfl)
    | with_reducible apply keepsOut_next
    | with_reducible apply keepsOut_fault
    | with_reducible apply keepsOut_ite
    | dsimp only
    | (split <;> (try (rename_i heq; obtain rfl := snd_eq heq)))

theorem execDmaResetDone_keeps {r s : State} (h : Keeps r s) :
    KeepsOut r (execDmaResetDone s) := by
  unfold execDmaResetDone
  repeat' first
    | with_reducible assumption
    | intro _
    | with_reducible apply State.setF_keeps
    | with_reducible apply State.setBit_keeps
    | with_reducible apply State.setQueue_keeps
    | with_reducible apply keeps_ite
    | with_reducible apply keeps_foldl
    | (fail_if_no_progress with_reducible refine keeps_mk ?_ rfl rfl rfl rfl)
    | with_reducible apply keepsOut_next
    | with_reducible apply keepsOut_fault
    | with_reducible apply keepsOut_ite
    | dsimp only
    | (split <;> (try (rename_i heq; obtain rfl := snd_eq heq)))

theorem State.chanCfg_keeps {r s : State} (h : Keeps r s) (ch : Nat) (v : Word) :
    Keeps r (State.chanCfg s ch v) := by
  unfold State.chanCfg
  repeat' first
    | with_reducible assumption
    | intro _
    | with_reducible apply State.setReg_keeps
    | with_reducible apply State.hwSet_keeps
    | with_reducible apply keeps_ite
    | with_reducible apply keeps_foldl
    | (fail_if_no_progress with_reducible refine keeps_mk ?_ rfl rfl rfl rfl)
    | dsimp only
    | (split <;> (try (rename_i heq; obtain rfl := snd_eq heq)))

theorem execDmaChCfgWrite_keeps {r s : State} (h : Keeps r s) (ch : Fin 32) (v : Word) :
    KeepsOut r (execDmaChCfgWrite ch v s) := by
  unfold execDmaChCfgWrite
  repeat' first
    | with_reducible assumption
    | intro _
    | with_reducible apply State.hostWrite_keeps
    | with_reducible apply State.chanCfg_keeps
    | with_reducible apply keeps_ite
    | with_reducible apply keeps_foldl
    | (fail_if_no_progress with_reducible refine keeps_mk ?_ rfl rfl rfl rfl)
    | with_reducible apply keepsOut_next
    | with_reducible apply keepsOut_fault
    | with_reducible apply keepsOut_ite
    | dsimp only
    | (split <;> (try (rename_i heq; obtain rfl := snd_eq heq)))

theorem execD3hotEntry_keeps {r s : State} (h : Keeps r s) :
    KeepsOut r (execD3hotEntry s) := by
  unfold execD3hotEntry
  repeat' first
    | with_reducible assumption
    | intro _
    | with_reducible apply keeps_ite
    | with_reducible apply keeps_foldl
    | (fail_if_no_progress with_reducible refine keeps_mk ?_ rfl rfl rfl rfl)
    | with_reducible apply keepsOut_next
    | with_reducible apply keepsOut_fault
    | with_reducible apply keepsOut_ite
    | dsimp only
    | (split <;> (try (rename_i heq; obtain rfl := snd_eq heq)))

theorem execD0Return_keeps {r s : State} (h : Keeps r s) :
    KeepsOut r (execD0Return s) := by
  unfold execD0Return
  repeat' first
    | with_reducible assumption
    | intro _
    | with_reducible apply State.releaseVector_keeps
    | with_reducible apply keeps_ite
    | with_reducible apply keeps_foldl
    | (fail_if_no_progress with_reducible refine keeps_mk ?_ rfl rfl rfl rfl)
    | with_reducible apply keepsOut_next
    | with_reducible apply keepsOut_fault
    | with_reducible apply keepsOut_ite
    | dsimp only
    | (split <;> (try (rename_i heq; obtain rfl := snd_eq heq)))

theorem State.dmaTick_keeps {r s : State} (h : Keeps r s) :
    Keeps r (State.dmaTick s) := by
  unfold State.dmaTick
  repeat' first
    | with_reducible assumption
    | intro _
    | with_reducible apply State.judgeStarved_keeps
    | with_reducible apply keeps_ite
    | with_reducible apply keeps_foldl
    | (fail_if_no_progress with_reducible refine keeps_mk ?_ rfl rfl rfl rfl)
    | dsimp only
    | (split <;> (try (rename_i heq; obtain rfl := snd_eq heq)))

end Sys2Proof.Machine
end

