-- ==== Sys2Proof/Laws/KeepsDraft.lean ====
section
/-! SUPPORT. What every operation of Machine/Draft.lean keeps: the queue, the fabric clock, the canonical form of the register
file and every burnt fuse. -/

set_option linter.all false

namespace Sys2Proof.Machine

theorem State.loadRecord_keeps {r s : State} (h : Keeps r s) (staging : Bool) (img : List Byte) (reason : Nat) :
    Keeps r (State.loadRecord s staging img reason) := by
  unfold State.loadRecord
  repeat' first
    | with_reducible assumption
    | intro _
    | with_reducible apply State.makeRecord_keeps
    | with_reducible apply keeps_ite
    | with_reducible apply keeps_foldl
    | (fail_if_no_progress with_reducible refine keeps_mk ?_ rfl rfl rfl rfl)
    | dsimp only
    | (split <;> (try (rename_i heq; obtain rfl := snd_eq heq)))

theorem State.refuseImage_keeps {r s : State} (h : Keeps r s) (staging : Bool) (img : List Byte) (reason : Nat) (sect : Nat) :
    Keeps r (State.refuseImage s staging img reason sect) := by
  unfold State.refuseImage
  repeat' first
    | with_reducible assumption
    | intro _
    | with_reducible apply State.setReg_keeps
    | with_reducible apply State.setF_keeps
    | with_reducible apply State.setBit_keeps
    | with_reducible apply State.setRegs_keeps
    | with_reducible apply State.hwSet_keeps
    | with_reducible apply State.enterSafeTalk_keeps
    | with_reducible apply State.loadRecord_keeps
    | with_reducible apply keeps_ite
    | with_reducible apply keeps_foldl
    | (fail_if_no_progress with_reducible refine keeps_mk ?_ rfl rfl rfl rfl)
    | dsimp only
    | (split <;> (try (rename_i heq; obtain rfl := snd_eq heq)))

theorem State.draftRegs_keeps {r s : State} (h : Keeps r s) (staging : Bool) (img : List Byte) :
    Keeps r (State.draftRegs s staging img) := by
  unfold State.draftRegs
  repeat' first
    | with_reducible assumption
    | intro _
    | with_reducible apply State.setReg_keeps
    | with_reducible apply State.setF_keeps
    | with_reducible apply State.setBit_keeps
    | with_reducible apply State.setRegs_keeps
    | with_reducible apply keeps_ite
    | with_reducible apply keeps_foldl
    | (fail_if_no_progress with_reducible refine keeps_mk ?_ rfl rfl rfl rfl)
    | dsimp only
    | (split <;> (try (rename_i heq; obtain rfl := snd_eq heq)))

theorem State.structureRegs_keeps {r s : State} (h : Keeps r s) (img : List Byte) :
    Keeps r (State.structureRegs s img) := by
  unfold State.structureRegs
  repeat' first
    | with_reducible assumption
    | intro _
    | with_reducible apply State.setF_keeps
    | with_reducible apply State.setBit_keeps
    | with_reducible apply State.setRegs_keeps
    | with_reducible apply keeps_ite
    | with_reducible apply keeps_foldl
    | (fail_if_no_progress with_reducible refine keeps_mk ?_ rfl rfl rfl rfl)
    | dsimp only
    | (split <;> (try (rename_i heq; obtain rfl := snd_eq heq)))

theorem State.loadContexts_keeps {r s : State} (h : Keeps r s) (b : List Byte) :
    Keeps r (State.loadContexts s b) := by
  unfold State.loadContexts
  repeat' first
    | with_reducible assumption
    | intro _
    | with_reducible apply State.setReg_keeps
    | with_reducible apply State.dropNative_keeps
    | with_reducible apply keeps_ite
    | with_reducible apply keeps_foldl
    | (fail_if_no_progress with_reducible refine keeps_mk ?_ rfl rfl rfl rfl)
    | dsimp only
    | (split <;> (try (rename_i heq; obtain rfl := snd_eq heq)))

theorem State.applyImage_keeps {r s : State} (h : Keeps r s) (img : List Byte) :
    Keeps r (State.applyImage s img) := by
  unfold State.applyImage
  repeat' first
    | with_reducible assumption
    | intro _
    | with_reducible apply State.setF_keeps
    | with_reducible apply State.setBit_keeps
    | with_reducible apply State.nextFree_keeps
    | with_reducible apply State.setLane_keeps
    | with_reducible apply State.setGate_keeps
    | with_reducible apply State.setPll_keeps
    | with_reducible apply State.structureRegs_keeps
    | with_reducible apply State.loadContexts_keeps
    | with_reducible apply keeps_ite
    | with_reducible apply keeps_foldl
    | (fail_if_no_progress with_reducible refine keeps_mk ?_ rfl rfl rfl rfl)
    | dsimp only
    | (split <;> (try (rename_i heq; obtain rfl := snd_eq heq)))

theorem State.readFlash_keeps {r s : State} (h : Keeps r s) (img : List Byte) (reason : Nat) :
    Keeps r (State.readFlash s img reason) := by
  unfold State.readFlash
  repeat' first
    | with_reducible assumption
    | intro _
    | with_reducible apply State.send_keeps
    | with_reducible apply keeps_ite
    | with_reducible apply keeps_foldl
    | (fail_if_no_progress with_reducible refine keeps_mk ?_ rfl rfl rfl rfl)
    | dsimp only
    | (split <;> (try (rename_i heq; obtain rfl := snd_eq heq)))

theorem execFlashLoadDone_keeps {r s : State} (h : Keeps r s) (image : List Byte) :
    KeepsOut r (execFlashLoadDone image s) := by
  unfold execFlashLoadDone
  repeat' first
    | with_reducible assumption
    | intro _
    | with_reducible apply State.hwSet_keeps
    | with_reducible apply State.loadRecord_keeps
    | with_reducible apply State.refuseImage_keeps
    | with_reducible apply State.draftRegs_keeps
    | with_reducible apply State.applyImage_keeps
    | with_reducible apply State.readFlash_keeps
    | with_reducible apply keeps_ite
    | with_reducible apply keeps_foldl
    | (fail_if_no_progress with_reducible refine keeps_mk ?_ rfl rfl rfl rfl)
    | with_reducible apply keepsOut_next
    | with_reducible apply keepsOut_fault
    | with_reducible apply keepsOut_ite
    | dsimp only
    | (split <;> (try (rename_i heq; obtain rfl := snd_eq heq)))

theorem State.draftReload_keeps {r s : State} (h : Keeps r s) (src : LoadFrom) (pins : Option (Straps × RefClass)) :
    Keeps r (State.draftReload s src pins) := by
  unfold State.draftReload
  repeat' first
    | with_reducible assumption
    | intro _
    | with_reducible apply State.setF_keeps
    | with_reducible apply State.setBit_keeps
    | with_reducible apply State.hwSet_keeps
    | with_reducible apply State.enterReset_keeps
    | with_reducible apply keeps_ite
    | with_reducible apply keeps_foldl
    | (fail_if_no_progress with_reducible refine keeps_mk ?_ rfl rfl rfl rfl)
    | dsimp only
    | (split <;> (try (rename_i heq; obtain rfl := snd_eq heq)))

theorem State.takeReload_keeps {r s : State} (h : Keeps r s) (src : LoadFrom) (pins : Option (Straps × RefClass)) :
    Keeps r (State.takeReload s src pins) := by
  unfold State.takeReload
  repeat' first
    | with_reducible assumption
    | intro _
    | with_reducible apply State.draftReload_keeps
    | with_reducible apply keeps_ite
    | with_reducible apply keeps_foldl
    | (fail_if_no_progress with_reducible refine keeps_mk ?_ rfl rfl rfl rfl)
    | dsimp only
    | (split <;> (try (rename_i heq; obtain rfl := snd_eq heq)))

theorem State.draftCtrl_keeps {r s : State} (h : Keeps r s) (v : Word) (pins : Option (Straps × RefClass)) :
    Keeps r (State.draftCtrl s v pins) := by
  unfold State.draftCtrl
  repeat' first
    | with_reducible assumption
    | intro _
    | with_reducible apply State.setBit_keeps
    | with_reducible apply State.hwSet_keeps
    | with_reducible apply State.takeReload_keeps
    | with_reducible apply keeps_ite
    | with_reducible apply keeps_foldl
    | (fail_if_no_progress with_reducible refine keeps_mk ?_ rfl rfl rfl rfl)
    | dsimp only
    | (split <;> (try (rename_i heq; obtain rfl := snd_eq heq)))

theorem execReload_keeps {r s : State} (h : Keeps r s) (source : Bool) (pins : Option (Straps × RefClass) := none) :
    KeepsOut r (execReload source s pins) := by
  unfold execReload
  repeat' first
    | with_reducible assumption
    | intro _
    | with_reducible apply State.hostWrite_keeps
    | with_reducible apply State.draftCtrl_keeps
    | with_reducible apply keeps_ite
    | with_reducible apply keeps_foldl
    | (fail_if_no_progress with_reducible refine keeps_mk ?_ rfl rfl rfl rfl)
    | with_reducible apply keepsOut_next
    | with_reducible apply keepsOut_fault
    | with_reducible apply keepsOut_ite
    | dsimp only
    | (split <;> (try (rename_i heq; obtain rfl := snd_eq heq)))

theorem execCheck_keeps {r s : State} (h : Keeps r s) :
    KeepsOut r (execCheck s) := by
  unfold execCheck
  repeat' first
    | with_reducible assumption
    | intro _
    | with_reducible apply State.hostWrite_keeps
    | with_reducible apply State.draftCtrl_keeps
    | with_reducible apply keeps_ite
    | with_reducible apply keeps_foldl
    | (fail_if_no_progress with_reducible refine keeps_mk ?_ rfl rfl rfl rfl)
    | with_reducible apply keepsOut_next
    | with_reducible apply keepsOut_fault
    | with_reducible apply keepsOut_ite
    | dsimp only
    | (split <;> (try (rename_i heq; obtain rfl := snd_eq heq)))

theorem execCheckDone_keeps {r s : State} (h : Keeps r s) :
    KeepsOut r (execCheckDone s) := by
  unfold execCheckDone
  repeat' first
    | with_reducible assumption
    | intro _
    | with_reducible apply State.setF_keeps
    | with_reducible apply State.setBit_keeps
    | with_reducible apply State.hwSet_keeps
    | with_reducible apply keeps_ite
    | with_reducible apply keeps_foldl
    | (fail_if_no_progress with_reducible refine keeps_mk ?_ rfl rfl rfl rfl)
    | with_reducible apply keepsOut_next
    | with_reducible apply keepsOut_fault
    | with_reducible apply keepsOut_ite
    | dsimp only
    | (split <;> (try (rename_i heq; obtain rfl := snd_eq heq)))

theorem State.stageAddr_keeps {r s : State} (h : Keeps r s) (v : Word) :
    Keeps r (State.stageAddr s v) := by
  unfold State.stageAddr
  repeat' first
    | with_reducible assumption
    | intro _
    | with_reducible apply State.setReg_keeps
    | with_reducible apply State.hwSet_keeps
    | with_reducible apply keeps_ite
    | with_reducible apply keeps_foldl
    | (fail_if_no_progress with_reducible refine keeps_mk ?_ rfl rfl rfl rfl)
    | dsimp only
    | (split <;> (try (rename_i heq; obtain rfl := snd_eq heq)))

theorem execStageAddr_keeps {r s : State} (h : Keeps r s) (v : Word) :
    KeepsOut r (execStageAddr v s) := by
  unfold execStageAddr
  repeat' first
    | with_reducible assumption
    | intro _
    | with_reducible apply State.hostWrite_keeps
    | with_reducible apply State.stageAddr_keeps
    | with_reducible apply keeps_ite
    | with_reducible apply keeps_foldl
    | (fail_if_no_progress with_reducible refine keeps_mk ?_ rfl rfl rfl rfl)
    | with_reducible apply keepsOut_next
    | with_reducible apply keepsOut_fault
    | with_reducible apply keepsOut_ite
    | dsimp only
    | (split <;> (try (rename_i heq; obtain rfl := snd_eq heq)))

theorem State.stageData_keeps {r s : State} (h : Keeps r s) (v : Word) :
    Keeps r (State.stageData s v) := by
  unfold State.stageData
  repeat' first
    | with_reducible assumption
    | intro _
    | with_reducible apply State.setReg_keeps
    | with_reducible apply State.hwSet_keeps
    | with_reducible apply keeps_ite
    | with_reducible apply keeps_foldl
    | (fail_if_no_progress with_reducible refine keeps_mk ?_ rfl rfl rfl rfl)
    | dsimp only
    | (split <;> (try (rename_i heq; obtain rfl := snd_eq heq)))

theorem execStageData_keeps {r s : State} (h : Keeps r s) (v : Word) :
    KeepsOut r (execStageData v s) := by
  unfold execStageData
  repeat' first
    | with_reducible assumption
    | intro _
    | with_reducible apply State.hostWrite_keeps
    | with_reducible apply State.stageData_keeps
    | with_reducible apply keeps_ite
    | with_reducible apply keeps_foldl
    | (fail_if_no_progress with_reducible refine keeps_mk ?_ rfl rfl rfl rfl)
    | with_reducible apply keepsOut_next
    | with_reducible apply keepsOut_fault
    | with_reducible apply keepsOut_ite
    | dsimp only
    | (split <;> (try (rename_i heq; obtain rfl := snd_eq heq)))

theorem State.fuseCtrl_keeps {r s : State} (h : Keeps r s) (v : Word) :
    Keeps r (State.fuseCtrl s v) := by
  unfold State.fuseCtrl
  repeat' first
    | with_reducible assumption
    | intro _
    | with_reducible apply State.setBit_keeps
    | with_reducible apply State.hwSet_keeps
    | with_reducible apply State.w1cClear_keeps
    | with_reducible apply keeps_ite
    | with_reducible apply keeps_foldl
    | (fail_if_no_progress with_reducible refine keeps_mk ?_ rfl rfl rfl rfl)
    | dsimp only
    | (split <;> (try (rename_i heq; obtain rfl := snd_eq heq)))

theorem execBurnKey_keeps {r s : State} (h : Keeps r s) (v : Word) :
    KeepsOut r (execBurnKey v s) := by
  unfold execBurnKey
  repeat' first
    | with_reducible assumption
    | intro _
    | with_reducible apply State.hostWrite_keeps
    | with_reducible apply State.fuseCtrl_keeps
    | with_reducible apply keeps_ite
    | with_reducible apply keeps_foldl
    | (fail_if_no_progress with_reducible refine keeps_mk ?_ rfl rfl rfl rfl)
    | with_reducible apply keepsOut_next
    | with_reducible apply keepsOut_fault
    | with_reducible apply keepsOut_ite
    | dsimp only
    | (split <;> (try (rename_i heq; obtain rfl := snd_eq heq)))

theorem execBurnSignedOnly_keeps {r s : State} (h : Keeps r s) (v : Word) :
    KeepsOut r (execBurnSignedOnly v s) := by
  unfold execBurnSignedOnly
  repeat' first
    | with_reducible assumption
    | intro _
    | with_reducible apply State.hostWrite_keeps
    | with_reducible apply State.fuseCtrl_keeps
    | with_reducible apply keeps_ite
    | with_reducible apply keeps_foldl
    | (fail_if_no_progress with_reducible refine keeps_mk ?_ rfl rfl rfl rfl)
    | with_reducible apply keepsOut_next
    | with_reducible apply keepsOut_fault
    | with_reducible apply keepsOut_ite
    | dsimp only
    | (split <;> (try (rename_i heq; obtain rfl := snd_eq heq)))

theorem execBurnDone_keeps {r s : State} (h : Keeps r s) (keyRead : List Word) (soRead : Bool) :
    KeepsOut r (execBurnDone keyRead soRead s) := by
  have ab : ∀ a b : BitVec 256, a &&& (a ||| b) = a := by
    intro a b
    ext i
    simp only [BitVec.getElem_and, BitVec.getElem_or]
    cases a[i] <;> rfl
  unfold execBurnDone
  apply keepsOut_next
  split
  · exact h
  · dsimp only
    refine keeps_ite (State.hwSet_keeps ?_ _) ?_ <;>
      refine State.setBit_keeps (State.setBit_keeps (State.setBit_keeps (State.setBit_keeps
        (State.setRegs_keeps (h.burn rfl rfl rfl ?_) _) _ _) _ _) _ _) _ _ <;>
      refine ⟨rfl, rfl, rfl, rfl, ?_, fun e => by simp [e], Nat.le_refl _⟩ <;>
      (dsimp only; split <;> simp [ab])

theorem State.compatWrite_keeps {r s : State} (h : Keeps r s) (v : Word) :
    Keeps r (State.compatWrite s v) := by
  unfold State.compatWrite
  repeat' first
    | with_reducible assumption
    | intro _
    | with_reducible apply State.setBit_keeps
    | with_reducible apply State.hwSet_keeps
    | with_reducible apply keeps_ite
    | with_reducible apply keeps_foldl
    | (fail_if_no_progress with_reducible refine keeps_mk ?_ rfl rfl rfl rfl)
    | dsimp only
    | (split <;> (try (rename_i heq; obtain rfl := snd_eq heq)))

theorem execCompatWrite_keeps {r s : State} (h : Keeps r s) (v : Word) :
    KeepsOut r (execCompatWrite v s) := by
  unfold execCompatWrite
  repeat' first
    | with_reducible assumption
    | intro _
    | with_reducible apply State.hostWrite_keeps
    | with_reducible apply State.compatWrite_keeps
    | with_reducible apply keeps_ite
    | with_reducible apply keeps_foldl
    | (fail_if_no_progress with_reducible refine keeps_mk ?_ rfl rfl rfl rfl)
    | with_reducible apply keepsOut_next
    | with_reducible apply keepsOut_fault
    | with_reducible apply keepsOut_ite
    | dsimp only
    | (split <;> (try (rename_i heq; obtain rfl := snd_eq heq)))

end Sys2Proof.Machine
end

