-- ==== Sys2Proof/Laws/KeepsTrain.lean ====
section
/-! SUPPORT. What every operation of Machine/Train.lean keeps: the queue, the fabric clock, the canonical form of the register
file and every burnt fuse. -/

set_option linter.all false

namespace Sys2Proof.Machine

theorem State.showTiming_keeps {r s : State} (h : Keeps r s) (p : Nat) (t : PcTiming) :
    Keeps r (State.showTiming s p t) := by
  unfold State.showTiming
  repeat' first
    | with_reducible assumption
    | intro _
    | with_reducible apply State.setRegs_keeps
    | with_reducible apply keeps_ite
    | with_reducible apply keeps_foldl
    | (fail_if_no_progress with_reducible refine keeps_mk ?_ rfl rfl rfl rfl)
    | dsimp only
    | (split <;> (try (rename_i heq; obtain rfl := snd_eq heq)))

theorem State.setTiming_keeps {r s : State} (h : Keeps r s) (p : Nat) (t : PcTiming) :
    Keeps r (State.setTiming s p t) := by
  unfold State.setTiming
  repeat' first
    | with_reducible assumption
    | intro _
    | with_reducible apply State.showTiming_keeps
    | with_reducible apply keeps_ite
    | with_reducible apply keeps_foldl
    | (fail_if_no_progress with_reducible refine keeps_mk ?_ rfl rfl rfl rfl)
    | dsimp only
    | (split <;> (try (rename_i heq; obtain rfl := snd_eq heq)))

end Sys2Proof.Machine
end

