-- ==== Sys2Proof/Laws/KeepsMem.lean ====
section
/-! SUPPORT. What every operation of Machine/Mem.lean keeps: the queue, the fabric clock, the canonical form of the register
file and every burnt fuse. -/

set_option linter.all false

namespace Sys2Proof.Machine

theorem State.retireState_keeps {r s : State} (h : Keeps r s) (p : Nat) (step : Nat) (group : Nat) :
    Keeps r (State.retireState s p step group) := by
  unfold State.retireState
  repeat' first
    | with_reducible assumption
    | intro _
    | with_reducible apply State.setF_keeps
    | with_reducible apply State.hwSet_keeps
    | with_reducible apply State.makeRecord_keeps
    | with_reducible apply State.setPool_keeps
    | with_reducible apply keeps_ite
    | with_reducible apply keeps_foldl
    | (fail_if_no_progress with_reducible refine keeps_mk ?_ rfl rfl rfl rfl)
    | dsimp only
    | (split <;> (try (rename_i heq; obtain rfl := snd_eq heq)))

theorem execHbmTrainingDone_keeps {r s : State} (h : Keeps r s) (results : Training) :
    KeepsOut r (execHbmTrainingDone results s) := by
  unfold execHbmTrainingDone
  repeat' first
    | with_reducible assumption
    | intro _
    | with_reducible apply State.setReg_keeps
    | with_reducible apply State.setF_keeps
    | with_reducible apply State.retire_keeps
    | with_reducible apply State.showTiming_keeps
    | with_reducible apply State.retireState_keeps
    | with_reducible apply keeps_ite
    | with_reducible apply keeps_foldl
    | (fail_if_no_progress with_reducible refine keeps_mk ?_ rfl rfl rfl rfl)
    | with_reducible apply keepsOut_next
    | with_reducible apply keepsOut_fault
    | with_reducible apply keepsOut_ite
    | dsimp only
    | (split <;> (try (rename_i heq; obtain rfl := snd_eq heq)))

theorem State.latchError_keeps {r s : State} (h : Keeps r s) (p : Nat) (e : HbmError) :
    Keeps r (State.latchError s p e) := by
  unfold State.latchError
  repeat' first
    | with_reducible assumption
    | intro _
    | with_reducible apply State.setRegs_keeps
    | with_reducible apply keeps_ite
    | with_reducible apply keeps_foldl
    | (fail_if_no_progress with_reducible refine keeps_mk ?_ rfl rfl rfl rfl)
    | dsimp only
    | (split <;> (try (rename_i heq; obtain rfl := snd_eq heq)))

theorem State.moveTo_keeps {r s : State} (h : Keeps r s) (c : Nat) (q : Nat) (left : Nat) :
    Keeps r (State.moveTo s c q left).2 := by
  unfold State.moveTo
  repeat' first
    | with_reducible assumption
    | intro _
    | with_reducible apply State.setKeep_keeps
    | with_reducible apply keeps_ite
    | with_reducible apply keeps_foldl
    | (fail_if_no_progress with_reducible refine keeps_mk ?_ rfl rfl rfl rfl)
    | with_reducible apply keeps_ite2
    | dsimp only
    | (split <;> (try (rename_i heq; obtain rfl := snd_eq heq)))

theorem State.loseMember_keeps {r s : State} (h : Keeps r s) (p c : Nat) : Keeps r (s.loseMember p c) := by
  unfold State.loseMember
  dsimp only
  split
  · exact h
  · have k : ∀ l (n : Nat) (x : CtxKeep), Keeps r (List.foldl (fun (a : Nat × State) q => a.2.moveTo c q a.1)
        (n, s.setKeep c x) l).2 := fun l n x =>
      keeps_foldl2 (State.setKeep_keeps h _ _) fun t q ht => State.moveTo_keeps ht _ _ _
    have fin : ∀ a : Nat × State, Keeps r a.2 → Keeps r (if a.1 = 0 then a.2 else
        ((a.2.setKeep c { a.2.keepOf c with short := (a.2.keepOf c).short + a.1 }).hwSet F.SEG_EVENTS_RESERVE_SHORT).mapRecs
          (fun r => r.ctx == c && r.kind == .segment && r.state == .opened)
          (fun r => { r with flags := r.flags ||| 2 ^ 14 })) := fun a ha =>
      keeps_ite ha (State.mapRecs_keeps (State.hwSet_keeps (State.setKeep_keeps ha _ _) _) _ _)
    split <;> exact fin _ (k _ _ _)

theorem State.freezeJobs_keeps {r s : State} (h : Keeps r s) (p : Nat) :
    Keeps r (State.freezeJobs s p) := by
  unfold State.freezeJobs
  repeat' first
    | with_reducible assumption
    | intro _
    | with_reducible apply State.editJob_keeps
    | with_reducible apply State.degradeJob_keeps
    | with_reducible apply keeps_ite
    | with_reducible apply keeps_foldl
    | (fail_if_no_progress with_reducible refine keeps_mk ?_ rfl rfl rfl rfl)
    | dsimp only
    | (split <;> (try (rename_i heq; obtain rfl := snd_eq heq)))

theorem State.abortChange_keeps {r s : State} (h : Keeps r s) (freeze : Bool) :
    Keeps r (State.abortChange s freeze) := by
  unfold State.abortChange
  repeat' first
    | with_reducible assumption
    | intro _
    | with_reducible apply State.setBit_keeps
    | with_reducible apply State.hwSet_keeps
    | with_reducible apply State.report_keeps
    | with_reducible apply State.freeze_keeps
    | with_reducible apply keeps_ite
    | with_reducible apply keeps_foldl
    | (fail_if_no_progress with_reducible refine keeps_mk ?_ rfl rfl rfl rfl)
    | dsimp only
    | (split <;> (try (rename_i heq; obtain rfl := snd_eq heq)))

theorem State.placeIssued_keeps {r s : State} (h : Keeps r s) (issued : List (Nat × Nat)) :
    Keeps r (State.placeIssued s issued) := by
  unfold State.placeIssued
  repeat' first
    | with_reducible assumption
    | intro _
    | with_reducible apply State.placeChunks_keeps
    | with_reducible apply keeps_ite
    | with_reducible apply keeps_foldl
    | (fail_if_no_progress with_reducible refine keeps_mk ?_ rfl rfl rfl rfl)
    | dsimp only
    | (split <;> (try (rename_i heq; obtain rfl := snd_eq heq)))

theorem State.freeze_keeps {r s : State} (h : Keeps r s) (p : Nat) (e : HbmError) (issued : List (Nat × Nat)) :
    Keeps r (State.freeze s p e issued) := by
  unfold State.freeze
  repeat' first
    | with_reducible assumption
    | intro _
    | with_reducible apply State.setF_keeps
    | with_reducible apply State.hwSet_keeps
    | with_reducible apply State.rclAdd_keeps
    | with_reducible apply State.makeRecord_keeps
    | with_reducible apply State.judgeAll_keeps
    | with_reducible apply State.latchError_keeps
    | with_reducible apply State.loseMember_keeps
    | with_reducible apply State.freezeJobs_keeps
    | with_reducible apply State.abortChange_keeps
    | with_reducible apply State.placeIssued_keeps
    | with_reducible apply keeps_ite
    | with_reducible apply keeps_foldl
    | (fail_if_no_progress with_reducible refine keeps_mk ?_ rfl rfl rfl rfl)
    | dsimp only
    | (split <;> (try (rename_i heq; obtain rfl := snd_eq heq)))

theorem State.freeRegion_keeps {r s : State} (h : Keeps r s) (p : Nat) :
    Keeps r (State.freeRegion s p) := by
  unfold State.freeRegion
  repeat' first
    | with_reducible assumption
    | intro _
    | with_reducible apply State.gcChunks_keeps
    | with_reducible apply State.serveMarkers_keeps
    | with_reducible apply keeps_ite
    | with_reducible apply keeps_foldl
    | (fail_if_no_progress with_reducible refine keeps_mk ?_ rfl rfl rfl rfl)
    | dsimp only
    | (split <;> (try (rename_i heq; obtain rfl := snd_eq heq)))

theorem State.retirePc_keeps {r s : State} (h : Keeps r s) (p : Nat) (step : Nat) (group : Nat) :
    Keeps r (State.retirePc s p step group) := by
  unfold State.retirePc
  repeat' first
    | with_reducible assumption
    | intro _
    | with_reducible apply State.judgeAll_keeps
    | with_reducible apply State.fatal_keeps
    | with_reducible apply State.gapAll_keeps
    | with_reducible apply State.retireState_keeps
    | with_reducible apply State.freeRegion_keeps
    | with_reducible apply keeps_ite
    | with_reducible apply keeps_foldl
    | (fail_if_no_progress with_reducible refine keeps_mk ?_ rfl rfl rfl rfl)
    | dsimp only
    | (split <;> (try (rename_i heq; obtain rfl := snd_eq heq)))

theorem State.frozenCtrl_keeps {r s : State} (h : Keeps r s) (p : Nat) (v : Word) :
    Keeps r (State.frozenCtrl s p v) := by
  unfold State.frozenCtrl
  repeat' first
    | with_reducible assumption
    | intro _
    | with_reducible apply State.setF_keeps
    | with_reducible apply keeps_ite
    | with_reducible apply keeps_foldl
    | (fail_if_no_progress with_reducible refine keeps_mk ?_ rfl rfl rfl rfl)
    | dsimp only
    | (split <;> (try (rename_i heq; obtain rfl := snd_eq heq)))

theorem State.pcCtrl_keeps {r s : State} (h : Keeps r s) (p : Nat) (v : Word) :
    Keeps r (State.pcCtrl s p v) := by
  unfold State.pcCtrl
  repeat' first
    | with_reducible assumption
    | intro _
    | with_reducible apply State.frozenCtrl_keeps
    | with_reducible apply keeps_ite
    | with_reducible apply keeps_foldl
    | (fail_if_no_progress with_reducible refine keeps_mk ?_ rfl rfl rfl rfl)
    | dsimp only
    | (split <;> (try (rename_i heq; obtain rfl := snd_eq heq)))

theorem State.lateCtrl_keeps {r s : State} (h : Keeps r s) (p : Nat) :
    Keeps r (State.lateCtrl s p) := by
  unfold State.lateCtrl
  repeat' first
    | with_reducible assumption
    | intro _
    | with_reducible apply State.frozenCtrl_keeps
    | with_reducible apply State.pcCtrl_keeps
    | with_reducible apply keeps_ite
    | with_reducible apply keeps_foldl
    | (fail_if_no_progress with_reducible refine keeps_mk ?_ rfl rfl rfl rfl)
    | dsimp only
    | (split <;> (try (rename_i heq; obtain rfl := snd_eq heq)))

theorem State.ctrlSettle_keeps {r s : State} (h : Keeps r s) :
    Keeps r (State.ctrlSettle s) := by
  unfold State.ctrlSettle
  repeat' first
    | with_reducible assumption
    | intro _
    | with_reducible apply State.hwSet_keeps
    | with_reducible apply keeps_ite
    | with_reducible apply keeps_foldl
    | (fail_if_no_progress with_reducible refine keeps_mk ?_ rfl rfl rfl rfl)
    | dsimp only
    | (split <;> (try (rename_i heq; obtain rfl := snd_eq heq)))

theorem execHbmFreeze_keeps {r s : State} (h : Keeps r s) (p : Fin 64) (err : HbmError) (issued : List (Nat × Nat)) :
    KeepsOut r (execHbmFreeze p err issued s) := by
  unfold execHbmFreeze
  repeat' first
    | with_reducible assumption
    | intro _
    | with_reducible apply State.retireState_keeps
    | with_reducible apply State.latchError_keeps
    | with_reducible apply State.freeze_keeps
    | with_reducible apply State.lateCtrl_keeps
    | with_reducible apply keeps_ite
    | with_reducible apply keeps_foldl
    | (fail_if_no_progress with_reducible refine keeps_mk ?_ rfl rfl rfl rfl)
    | with_reducible apply keepsOut_next
    | with_reducible apply keepsOut_fault
    | with_reducible apply keepsOut_ite
    | dsimp only
    | (split <;> (try (rename_i heq; obtain rfl := snd_eq heq)))

theorem execHbmCorrected_keeps {r s : State} (h : Keeps r s) (p : Fin 64) :
    KeepsOut r (execHbmCorrected p s) := by
  unfold execHbmCorrected
  repeat' first
    | with_reducible assumption
    | intro _
    | with_reducible apply State.rclAdd_keeps
    | with_reducible apply keeps_ite
    | with_reducible apply keeps_foldl
    | (fail_if_no_progress with_reducible refine keeps_mk ?_ rfl rfl rfl rfl)
    | with_reducible apply keepsOut_next
    | with_reducible apply keepsOut_fault
    | with_reducible apply keepsOut_ite
    | dsimp only
    | (split <;> (try (rename_i heq; obtain rfl := snd_eq heq)))

theorem execRelease_keeps {r s : State} (h : Keeps r s) (p : Fin 64) :
    KeepsOut r (execRelease p s) := by
  unfold execRelease
  repeat' first
    | with_reducible assumption
    | intro _
    | with_reducible apply State.hostWrite_keeps
    | with_reducible apply State.pcCtrl_keeps
    | with_reducible apply keeps_ite
    | with_reducible apply keeps_foldl
    | (fail_if_no_progress with_reducible refine keeps_mk ?_ rfl rfl rfl rfl)
    | with_reducible apply keepsOut_next
    | with_reducible apply keepsOut_fault
    | with_reducible apply keepsOut_ite
    | dsimp only
    | (split <;> (try (rename_i heq; obtain rfl := snd_eq heq)))

theorem execRetire_keeps {r s : State} (h : Keeps r s) (p : Fin 64) :
    KeepsOut r (execRetire p s) := by
  unfold execRetire
  repeat' first
    | with_reducible assumption
    | intro _
    | with_reducible apply State.hostWrite_keeps
    | with_reducible apply State.pcCtrl_keeps
    | with_reducible apply keeps_ite
    | with_reducible apply keeps_foldl
    | (fail_if_no_progress with_reducible refine keeps_mk ?_ rfl rfl rfl rfl)
    | with_reducible apply keepsOut_next
    | with_reducible apply keepsOut_fault
    | with_reducible apply keepsOut_ite
    | dsimp only
    | (split <;> (try (rename_i heq; obtain rfl := snd_eq heq)))

theorem State.releaseEnds_keeps {r s : State} (h : Keeps r s) (p : Nat) (sweep : PcSweep) :
    Keeps r (State.releaseEnds s p sweep) := by
  unfold State.releaseEnds
  repeat' first
    | with_reducible assumption
    | intro _
    | with_reducible apply State.setF_keeps
    | with_reducible apply State.judgeAll_keeps
    | with_reducible apply State.gapAll_keeps
    | with_reducible apply State.setTiming_keeps
    | with_reducible apply State.freeRegion_keeps
    | with_reducible apply State.retirePc_keeps
    | with_reducible apply keeps_ite
    | with_reducible apply keeps_foldl
    | (fail_if_no_progress with_reducible refine keeps_mk ?_ rfl rfl rfl rfl)
    | dsimp only
    | (split <;> (try (rename_i heq; obtain rfl := snd_eq heq)))

theorem execReleaseDone_keeps {r s : State} (h : Keeps r s) (p : Fin 64) (sweep : PcSweep) :
    KeepsOut r (execReleaseDone p sweep s) := by
  unfold execReleaseDone
  repeat' first
    | with_reducible assumption
    | intro _
    | with_reducible apply keeps_ite
    | with_reducible apply keeps_foldl
    | (fail_if_no_progress with_reducible refine keeps_mk ?_ rfl rfl rfl rfl)
    | with_reducible apply keepsOut_next
    | with_reducible apply keepsOut_fault
    | with_reducible apply keepsOut_ite
    | dsimp only
    | (split <;> (try (rename_i heq; obtain rfl := snd_eq heq)))

theorem State.freezesEnd_keeps {r s : State} (h : Keeps r s) :
    Keeps r (State.freezesEnd s) := by
  unfold State.freezesEnd
  repeat' first
    | with_reducible assumption
    | intro _
    | with_reducible apply State.retire_keeps
    | with_reducible apply State.retirePc_keeps
    | with_reducible apply State.ctrlSettle_keeps
    | with_reducible apply State.releaseEnds_keeps
    | with_reducible apply keeps_ite
    | with_reducible apply keeps_foldl
    | (fail_if_no_progress with_reducible refine keeps_mk ?_ rfl rfl rfl rfl)
    | dsimp only
    | (split <;> (try (rename_i heq; obtain rfl := snd_eq heq)))

theorem execHbmUnreadable_keeps {r s : State} (h : Keeps r s) (p : Fin 64) (c : Fin 1024) (cseq : Nat) (err : HbmError) :
    KeepsOut r (execHbmUnreadable p c cseq err s) := by
  unfold execHbmUnreadable
  repeat' first
    | with_reducible assumption
    | intro _
    | with_reducible apply State.rclAdd_keeps
    | with_reducible apply State.gapRecord_keeps
    | with_reducible apply State.latchError_keeps
    | with_reducible apply State.abortChange_keeps
    | with_reducible apply keeps_ite
    | with_reducible apply keeps_foldl
    | (fail_if_no_progress with_reducible refine keeps_mk ?_ rfl rfl rfl rfl)
    | with_reducible apply keepsOut_next
    | with_reducible apply keepsOut_fault
    | with_reducible apply keepsOut_ite
    | dsimp only
    | (split <;> (try (rename_i heq; obtain rfl := snd_eq heq)))

theorem State.startChange_keeps {r s : State} (h : Keeps r s) (point : Nat) (goAt : Nat) :
    Keeps r (State.startChange s point goAt) := by
  unfold State.startChange
  repeat' first
    | with_reducible assumption
    | intro _
    | with_reducible apply State.setBit_keeps
    | with_reducible apply keeps_ite
    | with_reducible apply keeps_foldl
    | (fail_if_no_progress with_reducible refine keeps_mk ?_ rfl rfl rfl rfl)
    | dsimp only
    | (split <;> (try (rename_i heq; obtain rfl := snd_eq heq)))

theorem State.deferChange_keeps {r s : State} (h : Keeps r s) (point : Nat) (goAt : Nat) :
    Keeps r (State.deferChange s point goAt) := by
  unfold State.deferChange
  repeat' first
    | with_reducible assumption
    | intro _
    | with_reducible apply State.setBit_keeps
    | with_reducible apply State.hwSet_keeps
    | with_reducible apply keeps_ite
    | with_reducible apply keeps_foldl
    | (fail_if_no_progress with_reducible refine keeps_mk ?_ rfl rfl rfl rfl)
    | dsimp only
    | (split <;> (try (rename_i heq; obtain rfl := snd_eq heq)))

theorem State.freqWrite_keeps {r s : State} (h : Keeps r s) (v : Word) :
    Keeps r (State.freqWrite s v) := by
  unfold State.freqWrite
  repeat' first
    | with_reducible assumption
    | intro _
    | with_reducible apply State.setF_keeps
    | with_reducible apply State.hwSet_keeps
    | with_reducible apply State.startChange_keeps
    | with_reducible apply State.deferChange_keeps
    | with_reducible apply keeps_ite
    | with_reducible apply keeps_foldl
    | (fail_if_no_progress with_reducible refine keeps_mk ?_ rfl rfl rfl rfl)
    | dsimp only
    | (split <;> (try (rename_i heq; obtain rfl := snd_eq heq)))

theorem execFreqGo_keeps {r s : State} (h : Keeps r s) (v : Word) :
    KeepsOut r (execFreqGo v s) := by
  unfold execFreqGo
  repeat' first
    | with_reducible assumption
    | intro _
    | with_reducible apply State.hostWrite_keeps
    | with_reducible apply State.freqWrite_keeps
    | with_reducible apply keeps_ite
    | with_reducible apply keeps_foldl
    | (fail_if_no_progress with_reducible refine keeps_mk ?_ rfl rfl rfl rfl)
    | with_reducible apply keepsOut_next
    | with_reducible apply keepsOut_fault
    | with_reducible apply keepsOut_ite
    | dsimp only
    | (split <;> (try (rename_i heq; obtain rfl := snd_eq heq)))

theorem State.resweep_keeps {r s : State} (h : Keeps r s) (p : Nat) (maps : List (BitVec 17)) :
    Keeps r (State.resweep s p maps) := by
  unfold State.resweep
  repeat' first
    | with_reducible assumption
    | intro _
    | with_reducible apply State.hwSet_keeps
    | with_reducible apply State.makeRecord_keeps
    | with_reducible apply State.setTiming_keeps
    | with_reducible apply keeps_ite
    | with_reducible apply keeps_foldl
    | (fail_if_no_progress with_reducible refine keeps_mk ?_ rfl rfl rfl rfl)
    | dsimp only
    | (split <;> (try (rename_i heq; obtain rfl := snd_eq heq)))

theorem State.resweepTo_keeps {r s : State} (h : Keeps r s) (t : TrackPass) (n : Nat) :
    Keeps r (State.resweepTo s t n) := by
  unfold State.resweepTo
  repeat' first
    | with_reducible assumption
    | intro _
    | with_reducible apply State.resweep_keeps
    | with_reducible apply keeps_ite
    | with_reducible apply keeps_foldl
    | (fail_if_no_progress with_reducible refine keeps_mk ?_ rfl rfl rfl rfl)
    | dsimp only
    | (split <;> (try (rename_i heq; obtain rfl := snd_eq heq)))

theorem State.endTracking_keeps {r s : State} (h : Keeps r s) :
    Keeps r (State.endTracking s) := by
  unfold State.endTracking
  repeat' first
    | with_reducible assumption
    | intro _
    | with_reducible apply State.setBit_keeps
    | with_reducible apply State.resweepTo_keeps
    | with_reducible apply keeps_ite
    | with_reducible apply keeps_foldl
    | (fail_if_no_progress with_reducible refine keeps_mk ?_ rfl rfl rfl rfl)
    | dsimp only
    | (split <;> (try (rename_i heq; obtain rfl := snd_eq heq)))

theorem State.trackTick_keeps {r s : State} (h : Keeps r s) :
    Keeps r (State.trackTick s) := by
  unfold State.trackTick
  repeat' first
    | with_reducible assumption
    | intro _
    | with_reducible apply State.resweepTo_keeps
    | with_reducible apply State.endTracking_keeps
    | with_reducible apply keeps_ite
    | with_reducible apply keeps_foldl
    | (fail_if_no_progress with_reducible refine keeps_mk ?_ rfl rfl rfl rfl)
    | dsimp only
    | (split <;> (try (rename_i heq; obtain rfl := snd_eq heq)))

theorem execFreqDeferredStart_keeps {r s : State} (h : Keeps r s) :
    KeepsOut r (execFreqDeferredStart s) := by
  unfold execFreqDeferredStart
  repeat' first
    | with_reducible assumption
    | intro _
    | with_reducible apply State.startChange_keeps
    | with_reducible apply State.endTracking_keeps
    | with_reducible apply keeps_ite
    | with_reducible apply keeps_foldl
    | (fail_if_no_progress with_reducible refine keeps_mk ?_ rfl rfl rfl rfl)
    | with_reducible apply keepsOut_next
    | with_reducible apply keepsOut_fault
    | with_reducible apply keepsOut_ite
    | dsimp only
    | (split <;> (try (rename_i heq; obtain rfl := snd_eq heq)))

theorem State.recentre_keeps {r s : State} (h : Keeps r s) (p : Nat) (sweep : List (BitVec 128)) :
    Keeps r (State.recentre s p sweep) := by
  unfold State.recentre
  repeat' first
    | with_reducible assumption
    | intro _
    | with_reducible apply State.setTiming_keeps
    | with_reducible apply keeps_ite
    | with_reducible apply keeps_foldl
    | (fail_if_no_progress with_reducible refine keeps_mk ?_ rfl rfl rfl rfl)
    | dsimp only
    | (split <;> (try (rename_i heq; obtain rfl := snd_eq heq)))

theorem State.memClocksOpen_keeps {r s : State} (h : Keeps r s) (c : FreqChange) :
    Keeps r (State.memClocksOpen s c) := by
  unfold State.memClocksOpen
  repeat' first
    | with_reducible assumption
    | intro _
    | with_reducible apply State.setF_keeps
    | with_reducible apply State.setBit_keeps
    | with_reducible apply State.showTiming_keeps
    | with_reducible apply keeps_ite
    | with_reducible apply keeps_foldl
    | (fail_if_no_progress with_reducible refine keeps_mk ?_ rfl rfl rfl rfl)
    | dsimp only
    | (split <;> (try (rename_i heq; obtain rfl := snd_eq heq)))

theorem execFreqDone_keeps {r s : State} (h : Keeps r s) (sweeps : List (List (BitVec 128))) :
    KeepsOut r (execFreqDone sweeps s) := by
  unfold execFreqDone
  repeat' first
    | with_reducible assumption
    | intro _
    | with_reducible apply State.setBit_keeps
    | with_reducible apply State.hwSet_keeps
    | with_reducible apply State.recentre_keeps
    | with_reducible apply State.memClocksOpen_keeps
    | with_reducible apply keeps_ite
    | with_reducible apply keeps_foldl
    | (fail_if_no_progress with_reducible refine keeps_mk ?_ rfl rfl rfl rfl)
    | with_reducible apply keepsOut_next
    | with_reducible apply keepsOut_fault
    | with_reducible apply keepsOut_ite
    | dsimp only
    | (split <;> (try (rename_i heq; obtain rfl := snd_eq heq)))

theorem State.changeTick_keeps {r s : State} (h : Keeps r s) :
    Keeps r (State.changeTick s) := by
  unfold State.changeTick
  repeat' first
    | with_reducible assumption
    | intro _
    | with_reducible apply State.setF_keeps
    | with_reducible apply State.setBit_keeps
    | with_reducible apply State.drainPool_keeps
    | with_reducible apply State.setPll_keeps
    | with_reducible apply State.memClocksOpen_keeps
    | with_reducible apply keeps_ite
    | with_reducible apply keeps_foldl
    | (fail_if_no_progress with_reducible refine keeps_mk ?_ rfl rfl rfl rfl)
    | dsimp only
    | (split <;> (try (rename_i heq; obtain rfl := snd_eq heq)))

theorem execTrackPass_keeps {r s : State} (h : Keeps r s) (maps : List (List (BitVec 17))) (clocks : Nat) :
    KeepsOut r (execTrackPass maps clocks s) := by
  unfold execTrackPass
  repeat' first
    | with_reducible assumption
    | intro _
    | with_reducible apply State.setBit_keeps
    | with_reducible apply State.deferChange_keeps
    | with_reducible apply keeps_ite
    | with_reducible apply keeps_foldl
    | (fail_if_no_progress with_reducible refine keeps_mk ?_ rfl rfl rfl rfl)
    | with_reducible apply keepsOut_next
    | with_reducible apply keepsOut_fault
    | with_reducible apply keepsOut_ite
    | dsimp only
    | (split <;> (try (rename_i heq; obtain rfl := snd_eq heq)))

theorem State.memTick_keeps {r s : State} (h : Keeps r s) :
    Keeps r (State.memTick s) := by
  unfold State.memTick
  repeat' first
    | with_reducible assumption
    | intro _
    | with_reducible apply State.poolsTick_keeps
    | with_reducible apply State.shuttleTick_keeps
    | with_reducible apply State.trackTick_keeps
    | with_reducible apply State.changeTick_keeps
    | with_reducible apply keeps_ite
    | with_reducible apply keeps_foldl
    | (fail_if_no_progress with_reducible refine keeps_mk ?_ rfl rfl rfl rfl)
    | dsimp only
    | (split <;> (try (rename_i heq; obtain rfl := snd_eq heq)))

theorem execBar2Read_keeps {r s : State} (h : Keeps r s) (addr : BitVec 32) :
    KeepsOut r (execBar2Read addr s) := by
  unfold execBar2Read
  repeat' first
    | with_reducible assumption
    | intro _
    | with_reducible apply State.send_keeps
    | with_reducible apply State.hwSet_keeps
    | with_reducible apply State.offer_keeps
    | with_reducible apply keeps_ite
    | with_reducible apply keeps_foldl
    | (fail_if_no_progress with_reducible refine keeps_mk ?_ rfl rfl rfl rfl)
    | with_reducible apply keepsOut_next
    | with_reducible apply keepsOut_fault
    | with_reducible apply keepsOut_ite
    | dsimp only
    | (split <;> (try (rename_i heq; obtain rfl := snd_eq heq)))

theorem execBar2Write_keeps {r s : State} (h : Keeps r s) :
    KeepsOut r (execBar2Write s) := by
  unfold execBar2Write
  repeat' first
    | with_reducible assumption
    | intro _
    | with_reducible apply State.hwSet_keeps
    | with_reducible apply keeps_ite
    | with_reducible apply keeps_foldl
    | (fail_if_no_progress with_reducible refine keeps_mk ?_ rfl rfl rfl rfl)
    | with_reducible apply keepsOut_next
    | with_reducible apply keepsOut_fault
    | with_reducible apply keepsOut_ite
    | dsimp only
    | (split <;> (try (rename_i heq; obtain rfl := snd_eq heq)))

end Sys2Proof.Machine
end

