-- ==== Sys2Proof/Laws/KeepsPower.lean ====
section
/-! SUPPORT. What every operation of Machine/Power.lean keeps: the queue, the fabric clock, the canonical form of the register
file and every burnt fuse. -/

set_option linter.all false

namespace Sys2Proof.Machine

theorem State.readPage_keeps {r s : State} (h : Keeps r s) (cold : Bool) (page : Option Page) :
    Keeps r (State.readPage s cold page) := by
  unfold State.readPage
  repeat' first
    | with_reducible assumption
    | intro _
    | with_reducible apply State.setReg_keeps
    | with_reducible apply State.setF_keeps
    | with_reducible apply State.nextFree_keeps
    | with_reducible apply keeps_ite
    | with_reducible apply keeps_foldl
    | (fail_if_no_progress with_reducible refine keeps_mk ?_ rfl rfl rfl rfl)
    | dsimp only
    | (split <;> (try (rename_i heq; obtain rfl := snd_eq heq)))

theorem State.resumeRseq_keeps {r s : State} (h : Keeps r s) (skip : Bool) :
    Keeps r (State.resumeRseq s skip) := by
  unfold State.resumeRseq
  repeat' first
    | with_reducible assumption
    | intro _
    | with_reducible apply State.set64_keeps
    | with_reducible apply keeps_ite
    | with_reducible apply keeps_foldl
    | (fail_if_no_progress with_reducible refine keeps_mk ?_ rfl rfl rfl rfl)
    | dsimp only
    | (split <;> (try (rename_i heq; obtain rfl := snd_eq heq)))

theorem State.powerUpRecord_keeps {r s : State} (h : Keeps r s) (outcome : Nat) :
    Keeps r (State.powerUpRecord s outcome) := by
  unfold State.powerUpRecord
  repeat' first
    | with_reducible assumption
    | intro _
    | with_reducible apply State.pushRecord_keeps
    | with_reducible apply keeps_ite
    | with_reducible apply keeps_foldl
    | (fail_if_no_progress with_reducible refine keeps_mk ?_ rfl rfl rfl rfl)
    | dsimp only
    | (split <;> (try (rename_i heq; obtain rfl := snd_eq heq)))

theorem State.aonRecords_keeps {r s : State} (h : Keeps r s) (cold : Bool) (bad : Bool × Bool) (passA : Bool) (passB : Bool) :
    Keeps r (State.aonRecords s cold bad passA passB) := by
  unfold State.aonRecords
  repeat' first
    | with_reducible assumption
    | intro _
    | with_reducible apply State.set64_keeps
    | with_reducible apply State.holeRecord_keeps
    | with_reducible apply State.savePage_keeps
    | with_reducible apply State.retry_keeps
    | with_reducible apply State.examineJournals_keeps
    | with_reducible apply State.readPage_keeps
    | with_reducible apply State.resumeRseq_keeps
    | with_reducible apply State.powerUpRecord_keeps
    | with_reducible apply keeps_ite
    | with_reducible apply keeps_foldl
    | (fail_if_no_progress with_reducible refine keeps_mk ?_ rfl rfl rfl rfl)
    | dsimp only
    | (split <;> (try (rename_i heq; obtain rfl := snd_eq heq)))

theorem execAonValid_keeps {r s : State} (h : Keeps r s) (i2cAddr : BitVec 3) (pageRead : Bool) (passA : Bool) (passB : Bool) (bad : Bool × Bool := (false, false)) :
    KeepsOut r (execAonValid i2cAddr pageRead passA passB s bad) := by
  unfold execAonValid
  repeat' first
    | with_reducible assumption
    | intro _
    | with_reducible apply State.enterAonUp_keeps
    | with_reducible apply State.aonRecords_keeps
    | with_reducible apply keeps_ite
    | with_reducible apply keeps_foldl
    | (fail_if_no_progress with_reducible refine keeps_mk ?_ rfl rfl rfl rfl)
    | with_reducible apply keepsOut_next
    | with_reducible apply keepsOut_fault
    | with_reducible apply keepsOut_ite
    | dsimp only
    | (split <;> (try (rename_i heq; obtain rfl := snd_eq heq)))

theorem State.putJournal_keeps {r₀ s : State} (h : Keeps r₀ s) (b : Bool) (r : BbxRecord) (whole : Bool) :
    Keeps r₀ (State.putJournal s b r whole) := by
  unfold State.putJournal
  repeat' first
    | with_reducible assumption
    | intro _
    | with_reducible apply keeps_ite
    | with_reducible apply keeps_foldl
    | (fail_if_no_progress with_reducible refine keeps_mk ?_ rfl rfl rfl rfl)
    | dsimp only
    | (split <;> (try (rename_i heq; obtain rfl := snd_eq heq)))

theorem State.cutCommit_keeps {r s : State} (h : Keeps r s) (cut : CommitCut) :
    Keeps r (State.cutCommit s cut) := by
  unfold State.cutCommit
  repeat' first
    | with_reducible assumption
    | intro _
    | with_reducible apply State.commitHead_keeps
    | with_reducible apply State.ring_keeps
    | with_reducible apply State.putJournal_keeps
    | with_reducible apply keeps_ite
    | with_reducible apply keeps_foldl
    | (fail_if_no_progress with_reducible refine keeps_mk ?_ rfl rfl rfl rfl)
    | dsimp only
    | (split <;> (try (rename_i heq; obtain rfl := snd_eq heq)))

theorem State.aonLost_keeps {r s : State} (h : Keeps r s) (cut : CommitCut) :
    Keeps r (State.aonLost s cut) := by
  unfold State.aonLost
  repeat' first
    | with_reducible assumption
    | intro _
    | with_reducible apply State.enterOff_keeps
    | with_reducible apply State.cutCommit_keeps
    | with_reducible apply keeps_ite
    | with_reducible apply keeps_foldl
    | (fail_if_no_progress with_reducible refine keeps_mk ?_ rfl rfl rfl rfl)
    | dsimp only
    | (split <;> (try (rename_i heq; obtain rfl := snd_eq heq)))

theorem execAonLoss_keeps {r s : State} (h : Keeps r s) (cut : CommitCut) :
    KeepsOut r (execAonLoss cut s) := by
  unfold execAonLoss
  repeat' first
    | with_reducible assumption
    | intro _
    | with_reducible apply State.aonLost_keeps
    | with_reducible apply keeps_ite
    | with_reducible apply keeps_foldl
    | (fail_if_no_progress with_reducible refine keeps_mk ?_ rfl rfl rfl rfl)
    | with_reducible apply keepsOut_next
    | with_reducible apply keepsOut_fault
    | with_reducible apply keepsOut_ite
    | dsimp only
    | (split <;> (try (rename_i heq; obtain rfl := snd_eq heq)))

theorem State.railRecord_keeps {r s : State} (h : Keeps r s) (step : Nat) (left : Nat) :
    Keeps r (State.railRecord s step left) := by
  unfold State.railRecord
  repeat' first
    | with_reducible assumption
    | intro _
    | with_reducible apply State.makeRecord_keeps
    | with_reducible apply keeps_ite
    | with_reducible apply keeps_foldl
    | (fail_if_no_progress with_reducible refine keeps_mk ?_ rfl rfl rfl rfl)
    | dsimp only
    | (split <;> (try (rename_i heq; obtain rfl := snd_eq heq)))

theorem State.lowerRail_keeps {r s : State} (h : Keeps r s) (step : Nat) :
    Keeps r (State.lowerRail s step) := by
  unfold State.lowerRail
  repeat' first
    | with_reducible assumption
    | intro _
    | with_reducible apply State.ring_keeps
    | with_reducible apply keeps_ite
    | with_reducible apply keeps_foldl
    | (fail_if_no_progress with_reducible refine keeps_mk ?_ rfl rfl rfl rfl)
    | dsimp only
    | (split <;> (try (rename_i heq; obtain rfl := snd_eq heq)))

theorem execRailLoss_keeps {r s : State} (h : Keeps r s) (rail : Rail) (i2cAddr : BitVec 3) (passA : Bool) (passB : Bool) (bad : Bool × Bool := (false, false)) :
    KeepsOut r (execRailLoss rail i2cAddr passA passB s bad) := by
  unfold execRailLoss
  repeat' first
    | with_reducible assumption
    | intro _
    | with_reducible apply State.enterAonUp_keeps
    | with_reducible apply State.aonRecords_keeps
    | with_reducible apply State.aonLost_keeps
    | with_reducible apply State.railRecord_keeps
    | with_reducible apply State.lowerRail_keeps
    | with_reducible apply keeps_ite
    | with_reducible apply keeps_foldl
    | (fail_if_no_progress with_reducible refine keeps_mk ?_ rfl rfl rfl rfl)
    | with_reducible apply keepsOut_next
    | with_reducible apply keepsOut_fault
    | with_reducible apply keepsOut_ite
    | dsimp only
    | (split <;> (try (rename_i heq; obtain rfl := snd_eq heq)))

theorem execSeqViolation_keeps {r s : State} (h : Keeps r s) (rail : Rail) (before : Rail) :
    KeepsOut r (execSeqViolation rail before s) := by
  unfold execSeqViolation
  repeat' first
    | with_reducible assumption
    | intro _
    | with_reducible apply State.makeRecord_keeps
    | with_reducible apply keeps_ite
    | with_reducible apply keeps_foldl
    | (fail_if_no_progress with_reducible refine keeps_mk ?_ rfl rfl rfl rfl)
    | with_reducible apply keepsOut_next
    | with_reducible apply keepsOut_fault
    | with_reducible apply keepsOut_ite
    | dsimp only
    | (split <;> (try (rename_i heq; obtain rfl := snd_eq heq)))

theorem execRailSequenceComplete_keeps {r s : State} (h : Keeps r s) (straps : Straps) (ref : RefClass) :
    KeepsOut r (execRailSequenceComplete straps ref s) := by
  unfold execRailSequenceComplete
  repeat' first
    | with_reducible assumption
    | intro _
    | with_reducible apply State.enterReset_keeps
    | with_reducible apply keeps_ite
    | with_reducible apply keeps_foldl
    | (fail_if_no_progress with_reducible refine keeps_mk ?_ rfl rfl rfl rfl)
    | with_reducible apply keepsOut_next
    | with_reducible apply keepsOut_fault
    | with_reducible apply keepsOut_ite
    | dsimp only
    | (split <;> (try (rename_i heq; obtain rfl := snd_eq heq)))

theorem State.nowPerst_keeps {r s : State} (h : Keeps r s) :
    Keeps r (State.nowPerst s) := by
  unfold State.nowPerst
  repeat' first
    | with_reducible assumption
    | intro _
    | with_reducible apply State.setF_keeps
    | with_reducible apply State.ring_keeps
    | with_reducible apply keeps_ite
    | with_reducible apply keeps_foldl
    | (fail_if_no_progress with_reducible refine keeps_mk ?_ rfl rfl rfl rfl)
    | dsimp only
    | (split <;> (try (rename_i heq; obtain rfl := snd_eq heq)))

theorem State.resetBy_keeps {r s : State} (h : Keeps r s) (cause : Nat) (straps : Straps) (ref : RefClass) :
    Keeps r (State.resetBy s cause straps ref) := by
  unfold State.resetBy
  repeat' first
    | with_reducible assumption
    | intro _
    | with_reducible apply State.enterReset_keeps
    | with_reducible apply State.nowPerst_keeps
    | with_reducible apply keeps_ite
    | with_reducible apply keeps_foldl
    | (fail_if_no_progress with_reducible refine keeps_mk ?_ rfl rfl rfl rfl)
    | dsimp only
    | (split <;> (try (rename_i heq; obtain rfl := snd_eq heq)))

theorem execPerstAssert_keeps {r s : State} (h : Keeps r s) (straps : Straps) (ref : RefClass) :
    KeepsOut r (execPerstAssert straps ref s) := by
  unfold execPerstAssert
  repeat' first
    | with_reducible assumption
    | intro _
    | with_reducible apply State.resetBy_keeps
    | with_reducible apply keeps_ite
    | with_reducible apply keeps_foldl
    | (fail_if_no_progress with_reducible refine keeps_mk ?_ rfl rfl rfl rfl)
    | with_reducible apply keepsOut_next
    | with_reducible apply keepsOut_fault
    | with_reducible apply keepsOut_ite
    | dsimp only
    | (split <;> (try (rename_i heq; obtain rfl := snd_eq heq)))

theorem execPerstRelease_keeps {r s : State} (h : Keeps r s) :
    KeepsOut r (execPerstRelease s) := by
  unfold execPerstRelease
  repeat' first
    | with_reducible assumption
    | intro _
    | with_reducible apply keeps_ite
    | with_reducible apply keeps_foldl
    | (fail_if_no_progress with_reducible refine keeps_mk ?_ rfl rfl rfl rfl)
    | with_reducible apply keepsOut_next
    | with_reducible apply keepsOut_fault
    | with_reducible apply keepsOut_ite
    | dsimp only
    | (split <;> (try (rename_i heq; obtain rfl := snd_eq heq)))

theorem execLoaded_keeps {r s : State} (h : Keeps r s) :
    KeepsOut r (execLoaded s) := by
  unfold execLoaded
  repeat' first
    | with_reducible assumption
    | intro _
    | with_reducible apply State.setF_keeps
    | with_reducible apply State.setRegs_keeps
    | with_reducible apply State.enter_keeps
    | with_reducible apply keeps_ite
    | with_reducible apply keeps_foldl
    | (fail_if_no_progress with_reducible refine keeps_mk ?_ rfl rfl rfl rfl)
    | with_reducible apply keepsOut_next
    | with_reducible apply keepsOut_fault
    | with_reducible apply keepsOut_ite
    | dsimp only
    | (split <;> (try (rename_i heq; obtain rfl := snd_eq heq)))

theorem State.selftestRetire_keeps {r₀ s : State} (h : Keeps r₀ s) (r : SelftestResults) :
    Keeps r₀ (State.selftestRetire s r) := by
  unfold State.selftestRetire
  repeat' first
    | with_reducible assumption
    | intro _
    | with_reducible apply State.retireState_keeps
    | with_reducible apply keeps_ite
    | with_reducible apply keeps_foldl
    | (fail_if_no_progress with_reducible refine keeps_mk ?_ rfl rfl rfl rfl)
    | dsimp only
    | (split <;> (try (rename_i heq; obtain rfl := snd_eq heq)))

theorem State.postResult_keeps {r s : State} (h : Keeps r s) (fails : List (Nat × Nat)) (ms : BitVec 12) :
    Keeps r (State.postResult s fails ms) := by
  unfold State.postResult
  repeat' first
    | with_reducible assumption
    | intro _
    | with_reducible apply State.setF_keeps
    | with_reducible apply State.setRegs_keeps
    | with_reducible apply State.makeRecord_keeps
    | with_reducible apply keeps_ite
    | with_reducible apply keeps_foldl
    | (fail_if_no_progress with_reducible refine keeps_mk ?_ rfl rfl rfl rfl)
    | dsimp only
    | (split <;> (try (rename_i heq; obtain rfl := snd_eq heq)))

theorem State.takeRole_keeps {r s : State} (h : Keeps r s) (fenced : Bool) :
    Keeps r (State.takeRole s fenced) := by
  unfold State.takeRole
  repeat' first
    | with_reducible assumption
    | intro _
    | with_reducible apply State.setF_keeps
    | with_reducible apply keeps_ite
    | with_reducible apply keeps_foldl
    | (fail_if_no_progress with_reducible refine keeps_mk ?_ rfl rfl rfl rfl)
    | dsimp only
    | (split <;> (try (rename_i heq; obtain rfl := snd_eq heq)))

theorem State.selftestEnds_keeps {r s : State} (h : Keeps r s) (results : SelftestResults) (fenced : Bool) :
    Keeps r (State.selftestEnds s results fenced) := by
  unfold State.selftestEnds
  repeat' first
    | with_reducible assumption
    | intro _
    | with_reducible apply State.enter_keeps
    | with_reducible apply State.entryRecord_keeps
    | with_reducible apply State.loadCoefShadow_keeps
    | with_reducible apply State.startWindow_keeps
    | with_reducible apply State.enterSafeTalk_keeps
    | with_reducible apply State.selftestRetire_keeps
    | with_reducible apply State.postResult_keeps
    | with_reducible apply State.takeRole_keeps
    | with_reducible apply keeps_ite
    | with_reducible apply keeps_foldl
    | (fail_if_no_progress with_reducible refine keeps_mk ?_ rfl rfl rfl rfl)
    | dsimp only
    | (split <;> (try (rename_i heq; obtain rfl := snd_eq heq)))

theorem State.selftestTimesOut_keeps {r s : State} (h : Keeps r s) (unfinished : BitVec 10) (results : SelftestResults) :
    Keeps r (State.selftestTimesOut s unfinished results) := by
  unfold State.selftestTimesOut
  repeat' first
    | with_reducible assumption
    | intro _
    | with_reducible apply State.enterSafeTalk_keeps
    | with_reducible apply State.selftestRetire_keeps
    | with_reducible apply State.postResult_keeps
    | with_reducible apply keeps_ite
    | with_reducible apply keeps_foldl
    | (fail_if_no_progress with_reducible refine keeps_mk ?_ rfl rfl rfl rfl)
    | dsimp only
    | (split <;> (try (rename_i heq; obtain rfl := snd_eq heq)))

theorem State.selftestSettle_keeps {r s : State} (h : Keeps r s) :
    Keeps r (State.selftestSettle s) := by
  unfold State.selftestSettle
  repeat' first
    | with_reducible assumption
    | intro _
    | with_reducible apply State.selftestEnds_keeps
    | with_reducible apply State.selftestTimesOut_keeps
    | with_reducible apply keeps_ite
    | with_reducible apply keeps_foldl
    | (fail_if_no_progress with_reducible refine keeps_mk ?_ rfl rfl rfl rfl)
    | dsimp only
    | (split <;> (try (rename_i heq; obtain rfl := snd_eq heq)))

theorem execSelftestDone_keeps {r s : State} (h : Keeps r s) (results : SelftestResults) (fenced : Bool) :
    KeepsOut r (execSelftestDone results fenced s) := by
  unfold execSelftestDone
  repeat' first
    | with_reducible assumption
    | intro _
    | with_reducible apply keeps_ite
    | with_reducible apply keeps_foldl
    | (fail_if_no_progress with_reducible refine keeps_mk ?_ rfl rfl rfl rfl)
    | with_reducible apply keepsOut_next
    | with_reducible apply keepsOut_fault
    | with_reducible apply keepsOut_ite
    | dsimp only
    | (split <;> (try (rename_i heq; obtain rfl := snd_eq heq)))

theorem execSelftestTimeout_keeps {r s : State} (h : Keeps r s) (unfinished : BitVec 10) (results : SelftestResults) :
    KeepsOut r (execSelftestTimeout unfinished results s) := by
  unfold execSelftestTimeout
  repeat' first
    | with_reducible assumption
    | intro _
    | with_reducible apply keeps_ite
    | with_reducible apply keeps_foldl
    | (fail_if_no_progress with_reducible refine keeps_mk ?_ rfl rfl rfl rfl)
    | with_reducible apply keepsOut_next
    | with_reducible apply keepsOut_fault
    | with_reducible apply keepsOut_ite
    | dsimp only
    | (split <;> (try (rename_i heq; obtain rfl := snd_eq heq)))

end Sys2Proof.Machine
end

