-- ==== Sys2Proof/Laws/KeepsI2c.lean ====
section
/-! SUPPORT. What every operation of Machine/I2c.lean keeps: the queue, the fabric clock, the canonical form of the register
file and every burnt fuse. -/

set_option linter.all false

namespace Sys2Proof.Machine

theorem State.portLatch_keeps {r s : State} (h : Keeps r s) :
    Keeps r (State.portLatch s) := by
  unfold State.portLatch
  repeat' first
    | with_reducible assumption
    | intro _
    | with_reducible apply keeps_ite
    | with_reducible apply keeps_foldl
    | (fail_if_no_progress with_reducible refine keeps_mk ?_ rfl rfl rfl rfl)
    | dsimp only
    | (split <;> (try (rename_i heq; obtain rfl := snd_eq heq)))

theorem State.portRelease_keeps {r s : State} (h : Keeps r s) :
    Keeps r (State.portRelease s) := by
  unfold State.portRelease
  repeat' first
    | with_reducible assumption
    | intro _
    | with_reducible apply keeps_ite
    | with_reducible apply keeps_foldl
    | (fail_if_no_progress with_reducible refine keeps_mk ?_ rfl rfl rfl rfl)
    | dsimp only
    | (split <;> (try (rename_i heq; obtain rfl := snd_eq heq)))

theorem State.portLoad_keeps {r s : State} (h : Keeps r s) :
    Keeps r (State.portLoad s) := by
  unfold State.portLoad
  repeat' first
    | with_reducible assumption
    | intro _
    | with_reducible apply keeps_ite
    | with_reducible apply keeps_foldl
    | (fail_if_no_progress with_reducible refine keeps_mk ?_ rfl rfl rfl rfl)
    | dsimp only
    | (split <;> (try (rename_i heq; obtain rfl := snd_eq heq)))

theorem State.portReload_keeps {r s : State} (h : Keeps r s) (pins : Option (Straps × RefClass)) :
    Keeps r (State.portReload s pins) := by
  unfold State.portReload
  repeat' first
    | with_reducible assumption
    | intro _
    | with_reducible apply State.hwSet_keeps
    | with_reducible apply State.takeReload_keeps
    | with_reducible apply keeps_ite
    | with_reducible apply keeps_foldl
    | (fail_if_no_progress with_reducible refine keeps_mk ?_ rfl rfl rfl rfl)
    | dsimp only
    | (split <;> (try (rename_i heq; obtain rfl := snd_eq heq)))

theorem State.portReset_keeps {r s : State} (h : Keeps r s) (straps : Straps) (ref : RefClass) :
    Keeps r (State.portReset s straps ref) := by
  unfold State.portReset
  repeat' first
    | with_reducible assumption
    | intro _
    | with_reducible apply State.resetBy_keeps
    | with_reducible apply keeps_ite
    | with_reducible apply keeps_foldl
    | (fail_if_no_progress with_reducible refine keeps_mk ?_ rfl rfl rfl rfl)
    | dsimp only
    | (split <;> (try (rename_i heq; obtain rfl := snd_eq heq)))

theorem State.portWrite_keeps {r s : State} (h : Keeps r s) (straps : Straps) (ref : RefClass) (a : Nat) (b : Byte) :
    Keeps r (State.portWrite straps ref s a b) := by
  unfold State.portWrite
  repeat' first
    | with_reducible assumption
    | intro _
    | with_reducible apply State.portLatch_keeps
    | with_reducible apply State.portRelease_keeps
    | with_reducible apply State.portLoad_keeps
    | with_reducible apply State.portReload_keeps
    | with_reducible apply State.portReset_keeps
    | with_reducible apply keeps_ite
    | with_reducible apply keeps_foldl
    | (fail_if_no_progress with_reducible refine keeps_mk ?_ rfl rfl rfl rfl)
    | dsimp only
    | (split <;> (try (rename_i heq; obtain rfl := snd_eq heq)))

theorem State.portWrites_keeps {r s : State} (h : Keeps r s) (straps : Straps) (ref : RefClass) (l : List Byte) :
    Keeps r (State.portWrites straps ref l s) := by
  induction l generalizing s with
  | nil => exact h
  | cons b l ih => exact ih (keeps_mk (State.portWrite_keeps h straps ref s.i2c.ptr.toNat b) rfl rfl rfl rfl)

theorem execI2cWrite_keeps {r s : State} (h : Keeps r s) (addr : Byte) (bytes : List Byte) (straps : Straps) (ref : RefClass) :
    KeepsOut r (execI2cWrite addr bytes straps ref s) := by
  unfold execI2cWrite
  repeat' first
    | with_reducible assumption
    | intro _
    | with_reducible apply State.portWrites_keeps
    | with_reducible apply keeps_ite
    | with_reducible apply keeps_foldl
    | (fail_if_no_progress with_reducible refine keeps_mk ?_ rfl rfl rfl rfl)
    | with_reducible apply keepsOut_next
    | with_reducible apply keepsOut_fault
    | with_reducible apply keepsOut_ite
    | dsimp only
    | (split <;> (try (rename_i heq; obtain rfl := snd_eq heq)))

theorem State.portReads_keeps {r s : State} (h : Keeps r s) (n : Nat) (l : List Byte) :
    Keeps r (State.portReads n l s).2 := by
  induction n generalizing s l with
  | zero => exact h
  | succ n ih => exact ih (keeps_mk h rfl rfl rfl rfl) _

theorem execI2cRead_keeps {r s : State} (h : Keeps r s) (n : Nat) :
    KeepsOut r (execI2cRead n s) := by
  unfold execI2cRead
  repeat' first
    | with_reducible assumption
    | intro _
    | with_reducible apply State.send_keeps
    | with_reducible apply State.portReads_keeps
    | with_reducible apply keeps_ite
    | with_reducible apply keeps_foldl
    | (fail_if_no_progress with_reducible refine keeps_mk ?_ rfl rfl rfl rfl)
    | with_reducible apply keepsOut_next
    | with_reducible apply keepsOut_fault
    | with_reducible apply keepsOut_ite
    | dsimp only
    | (split <;> (try (rename_i heq; obtain rfl := snd_eq heq)))

theorem execI2cDraftReload_keeps {r s : State} (h : Keeps r s) (pins : Option (Straps × RefClass) := none) :
    KeepsOut r (execI2cDraftReload s pins) := by
  unfold execI2cDraftReload
  repeat' first
    | with_reducible assumption
    | intro _
    | with_reducible apply State.portReload_keeps
    | with_reducible apply keeps_ite
    | with_reducible apply keeps_foldl
    | (fail_if_no_progress with_reducible refine keeps_mk ?_ rfl rfl rfl rfl)
    | with_reducible apply keepsOut_next
    | with_reducible apply keepsOut_fault
    | with_reducible apply keepsOut_ite
    | dsimp only
    | (split <;> (try (rename_i heq; obtain rfl := snd_eq heq)))

theorem execI2cReset_keeps {r s : State} (h : Keeps r s) (straps : Straps) (ref : RefClass) :
    KeepsOut r (execI2cReset straps ref s) := by
  unfold execI2cReset
  repeat' first
    | with_reducible assumption
    | intro _
    | with_reducible apply State.portReset_keeps
    | with_reducible apply keeps_ite
    | with_reducible apply keeps_foldl
    | (fail_if_no_progress with_reducible refine keeps_mk ?_ rfl rfl rfl rfl)
    | with_reducible apply keepsOut_next
    | with_reducible apply keepsOut_fault
    | with_reducible apply keepsOut_ite
    | dsimp only
    | (split <;> (try (rename_i heq; obtain rfl := snd_eq heq)))

theorem execI2cSnapLatch_keeps {r s : State} (h : Keeps r s) :
    KeepsOut r (execI2cSnapLatch s) := by
  unfold execI2cSnapLatch
  repeat' first
    | with_reducible assumption
    | intro _
    | with_reducible apply State.portLatch_keeps
    | with_reducible apply keeps_ite
    | with_reducible apply keeps_foldl
    | (fail_if_no_progress with_reducible refine keeps_mk ?_ rfl rfl rfl rfl)
    | with_reducible apply keepsOut_next
    | with_reducible apply keepsOut_fault
    | with_reducible apply keepsOut_ite
    | dsimp only
    | (split <;> (try (rename_i heq; obtain rfl := snd_eq heq)))

theorem execI2cSnapRelease_keeps {r s : State} (h : Keeps r s) :
    KeepsOut r (execI2cSnapRelease s) := by
  unfold execI2cSnapRelease
  repeat' first
    | with_reducible assumption
    | intro _
    | with_reducible apply State.portRelease_keeps
    | with_reducible apply keeps_ite
    | with_reducible apply keeps_foldl
    | (fail_if_no_progress with_reducible refine keeps_mk ?_ rfl rfl rfl rfl)
    | with_reducible apply keepsOut_next
    | with_reducible apply keepsOut_fault
    | with_reducible apply keepsOut_ite
    | dsimp only
    | (split <;> (try (rename_i heq; obtain rfl := snd_eq heq)))

theorem execI2cReadSelLoad_keeps {r s : State} (h : Keeps r s) (b : Byte) :
    KeepsOut r (execI2cReadSelLoad b s) := by
  unfold execI2cReadSelLoad
  repeat' first
    | with_reducible assumption
    | intro _
    | with_reducible apply State.portLoad_keeps
    | with_reducible apply keeps_ite
    | with_reducible apply keeps_foldl
    | (fail_if_no_progress with_reducible refine keeps_mk ?_ rfl rfl rfl rfl)
    | with_reducible apply keepsOut_next
    | with_reducible apply keepsOut_fault
    | with_reducible apply keepsOut_ite
    | dsimp only
    | (split <;> (try (rename_i heq; obtain rfl := snd_eq heq)))

end Sys2Proof.Machine
end

