-- ==== Sys2Proof/Laws/KeepsTrig.lean ====
section
/-! SUPPORT. What every operation of Machine/Trig.lean keeps: the queue, the fabric clock, the canonical form of the register
file and every burnt fuse. -/

set_option linter.all false

namespace Sys2Proof.Machine

theorem State.setUnit_keeps {r s : State} (h : Keeps r s) (k : Nat) (u : TrigUnit) :
    Keeps r (State.setUnit s k u) := by
  unfold State.setUnit
  repeat' first
    | with_reducible assumption
    | intro _
    | with_reducible apply keeps_ite
    | with_reducible apply keeps_foldl
    | (fail_if_no_progress with_reducible refine keeps_mk ?_ rfl rfl rfl rfl)
    | dsimp only
    | (split <;> (try (rename_i heq; obtain rfl := snd_eq heq)))

theorem State.showUnit_keeps {r s : State} (h : Keeps r s) (k : Nat) :
    Keeps r (State.showUnit s k) := by
  unfold State.showUnit
  repeat' first
    | with_reducible assumption
    | intro _
    | with_reducible apply State.setReg_keeps
    | with_reducible apply State.setBit_keeps
    | with_reducible apply keeps_ite
    | with_reducible apply keeps_foldl
    | (fail_if_no_progress with_reducible refine keeps_mk ?_ rfl rfl rfl rfl)
    | dsimp only
    | (split <;> (try (rename_i heq; obtain rfl := snd_eq heq)))

theorem State.applyUnit_keeps {r s : State} (h : Keeps r s) (v : Word) (sets : Nat → List Word) (k : Nat) :
    Keeps r (State.applyUnit s v sets k) := by
  unfold State.applyUnit
  repeat' first
    | with_reducible assumption
    | intro _
    | with_reducible apply State.hwSet_keeps
    | with_reducible apply State.setUnit_keeps
    | with_reducible apply State.showUnit_keeps
    | with_reducible apply keeps_ite
    | with_reducible apply keeps_foldl
    | (fail_if_no_progress with_reducible refine keeps_mk ?_ rfl rfl rfl rfl)
    | dsimp only
    | (split <;> (try (rename_i heq; obtain rfl := snd_eq heq)))

theorem State.applyAux_keeps {r s : State} (h : Keeps r s) :
    Keeps r (State.applyAux s) := by
  unfold State.applyAux
  repeat' first
    | with_reducible assumption
    | intro _
    | with_reducible apply State.setBit_keeps
    | with_reducible apply keeps_ite
    | with_reducible apply keeps_foldl
    | (fail_if_no_progress with_reducible refine keeps_mk ?_ rfl rfl rfl rfl)
    | dsimp only
    | (split <;> (try (rename_i heq; obtain rfl := snd_eq heq)))

theorem State.applyWrite_keeps {r s : State} (h : Keeps r s) (v : Word) :
    Keeps r (State.applyWrite s v) := by
  unfold State.applyWrite
  repeat' first
    | with_reducible assumption
    | intro _
    | with_reducible apply State.applyUnit_keeps
    | with_reducible apply State.applyAux_keeps
    | with_reducible apply keeps_ite
    | with_reducible apply keeps_foldl
    | (fail_if_no_progress with_reducible refine keeps_mk ?_ rfl rfl rfl rfl)
    | dsimp only
    | (split <;> (try (rename_i heq; obtain rfl := snd_eq heq)))

theorem execApply_keeps {r s : State} (h : Keeps r s) (v : Word) :
    KeepsOut r (execApply v s) := by
  unfold execApply
  repeat' first
    | with_reducible assumption
    | intro _
    | with_reducible apply State.hostWrite_keeps
    | with_reducible apply State.applyWrite_keeps
    | with_reducible apply keeps_ite
    | with_reducible apply keeps_foldl
    | (fail_if_no_progress with_reducible refine keeps_mk ?_ rfl rfl rfl rfl)
    | with_reducible apply keepsOut_next
    | with_reducible apply keepsOut_fault
    | with_reducible apply keepsOut_ite
    | dsimp only
    | (split <;> (try (rename_i heq; obtain rfl := snd_eq heq)))

theorem State.keepEvents_keeps {r s : State} (h : Keeps r s) (k : Nat) (u : TrigUnit) (ev : List Int) :
    Keeps r (State.keepEvents s k u ev) := by
  unfold State.keepEvents
  repeat' first
    | with_reducible assumption
    | intro _
    | with_reducible apply State.rclAdd_keeps
    | with_reducible apply State.setUnit_keeps
    | with_reducible apply keeps_ite
    | with_reducible apply keeps_foldl
    | (fail_if_no_progress with_reducible refine keeps_mk ?_ rfl rfl rfl rfl)
    | dsimp only
    | (split <;> (try (rename_i heq; obtain rfl := snd_eq heq)))

theorem State.senseWord_keeps {r s : State} (h : Keeps r s) (k : Nat) (clock : Nat) (words : List ChanWord) :
    Keeps r (State.senseWord s k clock words) := by
  unfold State.senseWord
  repeat' first
    | with_reducible assumption
    | intro _
    | with_reducible apply State.setUnit_keeps
    | with_reducible apply State.keepEvents_keeps
    | with_reducible apply keeps_ite
    | with_reducible apply keeps_foldl
    | (fail_if_no_progress with_reducible refine keeps_mk ?_ rfl rfl rfl rfl)
    | dsimp only
    | (split <;> (try (rename_i heq; obtain rfl := snd_eq heq)))

theorem State.judgeWord_keeps {r s : State} (h : Keeps r s) (k : Nat) (clock : Nat) :
    Keeps r (State.judgeWord s k clock) := by
  unfold State.judgeWord
  repeat' first
    | with_reducible assumption
    | intro _
    | with_reducible apply State.keepEvents_keeps
    | with_reducible apply keeps_ite
    | with_reducible apply keeps_foldl
    | (fail_if_no_progress with_reducible refine keeps_mk ?_ rfl rfl rfl rfl)
    | dsimp only
    | (split <;> (try (rename_i heq; obtain rfl := snd_eq heq)))

theorem State.reportUnit_keeps {r s : State} (h : Keeps r s) (k : Nat) (kept : List Int) :
    Keeps r (State.reportUnit s k kept) := by
  unfold State.reportUnit
  repeat' first
    | with_reducible assumption
    | intro _
    | with_reducible apply State.setReg_keeps
    | with_reducible apply State.set64_keeps
    | with_reducible apply State.hwSet_keeps
    | with_reducible apply State.rclAdd_keeps
    | with_reducible apply State.reportTrig_keeps
    | with_reducible apply keeps_ite
    | with_reducible apply keeps_foldl
    | (fail_if_no_progress with_reducible refine keeps_mk ?_ rfl rfl rfl rfl)
    | dsimp only
    | (split <;> (try (rename_i heq; obtain rfl := snd_eq heq)))

theorem State.selectWord_keeps {r s : State} (h : Keeps r s) (k : Nat) :
    Keeps r (State.selectWord s k) := by
  unfold State.selectWord
  repeat' first
    | with_reducible assumption
    | intro _
    | with_reducible apply State.showUnit_keeps
    | with_reducible apply State.reportUnit_keeps
    | with_reducible apply keeps_ite
    | with_reducible apply keeps_foldl
    | (fail_if_no_progress with_reducible refine keeps_mk ?_ rfl rfl rfl rfl)
    | dsimp only
    | (split <;> (try (rename_i heq; obtain rfl := snd_eq heq)))

theorem State.wordMarks_keeps {r s : State} (h : Keeps r s) (ovr : BitVec 4) (sat : BitVec 64) :
    Keeps r (State.wordMarks s ovr sat) := by
  unfold State.wordMarks
  repeat' first
    | with_reducible assumption
    | intro _
    | with_reducible apply State.hwSet_keeps
    | with_reducible apply keeps_ite
    | with_reducible apply keeps_foldl
    | (fail_if_no_progress with_reducible refine keeps_mk ?_ rfl rfl rfl rfl)
    | dsimp only
    | (split <;> (try (rename_i heq; obtain rfl := snd_eq heq)))

theorem execTriggerReport_keeps {r s : State} (h : Keeps r s) (clock : Nat) (words : List ChanWord) (ovr : BitVec 4) (sat : BitVec 64) :
    KeepsOut r (execTriggerReport clock words ovr sat s) := by
  unfold execTriggerReport
  repeat' first
    | with_reducible assumption
    | intro _
    | with_reducible apply State.setUnit_keeps
    | with_reducible apply State.senseWord_keeps
    | with_reducible apply State.judgeWord_keeps
    | with_reducible apply State.selectWord_keeps
    | with_reducible apply State.wordMarks_keeps
    | with_reducible apply keeps_ite
    | with_reducible apply keeps_foldl
    | (fail_if_no_progress with_reducible refine keeps_mk ?_ rfl rfl rfl rfl)
    | with_reducible apply keepsOut_next
    | with_reducible apply keepsOut_fault
    | with_reducible apply keepsOut_ite
    | dsimp only
    | (split <;> (try (rename_i heq; obtain rfl := snd_eq heq)))

theorem execSequenceTMaxExpiry_keeps {r s : State} (h : Keeps r s) (k : Fin 16) :
    KeepsOut r (execSequenceTMaxExpiry k s) := by
  unfold execSequenceTMaxExpiry
  repeat' first
    | with_reducible assumption
    | intro _
    | with_reducible apply State.setUnit_keeps
    | with_reducible apply State.showUnit_keeps
    | with_reducible apply keeps_ite
    | with_reducible apply keeps_foldl
    | (fail_if_no_progress with_reducible refine keeps_mk ?_ rfl rfl rfl rfl)
    | with_reducible apply keepsOut_next
    | with_reducible apply keepsOut_fault
    | with_reducible apply keepsOut_ite
    | dsimp only
    | (split <;> (try (rename_i heq; obtain rfl := snd_eq heq)))

theorem State.reportAux_keeps {r s : State} (h : Keeps r s) (inst : Int) :
    Keeps r (State.reportAux s inst) := by
  unfold State.reportAux
  repeat' first
    | with_reducible assumption
    | intro _
    | with_reducible apply State.setReg_keeps
    | with_reducible apply State.set64_keeps
    | with_reducible apply State.hwSet_keeps
    | with_reducible apply State.rclAdd_keeps
    | with_reducible apply State.reportTrig_keeps
    | with_reducible apply keeps_ite
    | with_reducible apply keeps_foldl
    | (fail_if_no_progress with_reducible refine keeps_mk ?_ rfl rfl rfl rfl)
    | dsimp only
    | (split <;> (try (rename_i heq; obtain rfl := snd_eq heq)))

theorem execAuxTrigEdge_keeps {r s : State} (h : Keeps r s) (rising : Bool) (t : Instant) (hold : Nat) :
    KeepsOut r (execAuxTrigEdge rising t hold s) := by
  unfold execAuxTrigEdge
  repeat' first
    | with_reducible assumption
    | intro _
    | with_reducible apply State.hwSet_keeps
    | with_reducible apply State.reportAux_keeps
    | with_reducible apply keeps_ite
    | with_reducible apply keeps_foldl
    | (fail_if_no_progress with_reducible refine keeps_mk ?_ rfl rfl rfl rfl)
    | with_reducible apply keepsOut_next
    | with_reducible apply keepsOut_fault
    | with_reducible apply keepsOut_ite
    | dsimp only
    | (split <;> (try (rename_i heq; obtain rfl := snd_eq heq)))

theorem State.drivePins_keeps {r s : State} (h : Keeps r s) :
    Keeps r (State.drivePins s) := by
  unfold State.drivePins
  repeat' first
    | with_reducible assumption
    | intro _
    | with_reducible apply State.setF_keeps
    | with_reducible apply keeps_ite
    | with_reducible apply keeps_foldl
    | (fail_if_no_progress with_reducible refine keeps_mk ?_ rfl rfl rfl rfl)
    | dsimp only
    | (split <;> (try (rename_i heq; obtain rfl := snd_eq heq)))

theorem State.cutPins_keeps {r s : State} (h : Keeps r s) :
    Keeps r (State.cutPins s) := by
  unfold State.cutPins
  repeat' first
    | with_reducible assumption
    | intro _
    | with_reducible apply State.setF_keeps
    | with_reducible apply keeps_ite
    | with_reducible apply keeps_foldl
    | (fail_if_no_progress with_reducible refine keeps_mk ?_ rfl rfl rfl rfl)
    | dsimp only
    | (split <;> (try (rename_i heq; obtain rfl := snd_eq heq)))

theorem State.setPulse_keeps {r s : State} (h : Keeps r s) (p : Nat) (x : Option (Nat × Nat)) :
    Keeps r (State.setPulse s p x) := by
  unfold State.setPulse
  repeat' first
    | with_reducible assumption
    | intro _
    | with_reducible apply keeps_ite
    | with_reducible apply keeps_foldl
    | (fail_if_no_progress with_reducible refine keeps_mk ?_ rfl rfl rfl rfl)
    | dsimp only
    | (split <;> (try (rename_i heq; obtain rfl := snd_eq heq)))

theorem State.countPulse_keeps {r s : State} (h : Keeps r s) (p : Nat) :
    Keeps r (State.countPulse s p) := by
  unfold State.countPulse
  repeat' first
    | with_reducible assumption
    | intro _
    | with_reducible apply State.setF_keeps
    | with_reducible apply keeps_ite
    | with_reducible apply keeps_foldl
    | (fail_if_no_progress with_reducible refine keeps_mk ?_ rfl rfl rfl rfl)
    | dsimp only
    | (split <;> (try (rename_i heq; obtain rfl := snd_eq heq)))

theorem State.trigOut_keeps {r s : State} (h : Keeps r s) (p : Nat) (w : Nat) :
    Keeps r (State.trigOut s p w) := by
  unfold State.trigOut
  repeat' first
    | with_reducible assumption
    | intro _
    | with_reducible apply State.hwSet_keeps
    | with_reducible apply State.setPulse_keeps
    | with_reducible apply State.countPulse_keeps
    | with_reducible apply keeps_ite
    | with_reducible apply keeps_foldl
    | (fail_if_no_progress with_reducible refine keeps_mk ?_ rfl rfl rfl rfl)
    | dsimp only
    | (split <;> (try (rename_i heq; obtain rfl := snd_eq heq)))

theorem execTrigOut_keeps {r s : State} (h : Keeps r s) (p : Fin 4) (w : Fin 256) :
    KeepsOut r (execTrigOut p w s) := by
  unfold execTrigOut
  repeat' first
    | with_reducible assumption
    | intro _
    | with_reducible apply State.trigOut_keeps
    | with_reducible apply keeps_ite
    | with_reducible apply keeps_foldl
    | (fail_if_no_progress with_reducible refine keeps_mk ?_ rfl rfl rfl rfl)
    | with_reducible apply keepsOut_next
    | with_reducible apply keepsOut_fault
    | with_reducible apply keepsOut_ite
    | dsimp only
    | (split <;> (try (rename_i heq; obtain rfl := snd_eq heq)))

theorem State.pinsTick_keeps {r s : State} (h : Keeps r s) :
    Keeps r (State.pinsTick s) := by
  unfold State.pinsTick
  repeat' first
    | with_reducible assumption
    | intro _
    | with_reducible apply State.setF_keeps
    | with_reducible apply State.drivePins_keeps
    | with_reducible apply keeps_ite
    | with_reducible apply keeps_foldl
    | (fail_if_no_progress with_reducible refine keeps_mk ?_ rfl rfl rfl rfl)
    | dsimp only
    | (split <;> (try (rename_i heq; obtain rfl := snd_eq heq)))

theorem execTrigOutPulseEnd_keeps {r s : State} (h : Keeps r s) (p : Fin 4) :
    KeepsOut r (execTrigOutPulseEnd p s) := by
  unfold execTrigOutPulseEnd
  repeat' first
    | with_reducible assumption
    | intro _
    | with_reducible apply State.setF_keeps
    | with_reducible apply State.drivePins_keeps
    | with_reducible apply State.setPulse_keeps
    | with_reducible apply keeps_ite
    | with_reducible apply keeps_foldl
    | (fail_if_no_progress with_reducible refine keeps_mk ?_ rfl rfl rfl rfl)
    | with_reducible apply keepsOut_next
    | with_reducible apply keepsOut_fault
    | with_reducible apply keepsOut_ite
    | dsimp only
    | (split <;> (try (rename_i heq; obtain rfl := snd_eq heq)))

end Sys2Proof.Machine
end

