-- ==== Sys2Proof/Laws/KeepsLoom.lean ====
section
/-! SUPPORT. What every operation of Machine/Loom.lean keeps: the queue, the fabric clock, the canonical form of the register
file and every burnt fuse. -/

set_option linter.all false

namespace Sys2Proof.Machine

theorem State.noteMatch_keeps {r s : State} (h : Keeps r s) (t : Tread) (m : Match) :
    Keeps r (State.noteMatch s t m) := by
  unfold State.noteMatch
  repeat' first
    | with_reducible assumption
    | intro _
    | with_reducible apply State.setBit_keeps
    | with_reducible apply State.hwSet_keeps
    | with_reducible apply State.rclAdd_keeps
    | with_reducible apply keeps_ite
    | with_reducible apply keeps_foldl
    | (fail_if_no_progress with_reducible refine keeps_mk ?_ rfl rfl rfl rfl)
    | dsimp only
    | (split <;> (try (rename_i heq; obtain rfl := snd_eq heq)))

theorem State.logIssue_keeps {r s : State} (h : Keeps r s) (c : Nat) (tread : Nat) (accepted : Bool) (cseq : Nat) (m : Match) :
    Keeps r (State.logIssue s c tread accepted cseq m) := by
  unfold State.logIssue
  repeat' first
    | with_reducible assumption
    | intro _
    | with_reducible apply keeps_ite
    | with_reducible apply keeps_foldl
    | (fail_if_no_progress with_reducible refine keeps_mk ?_ rfl rfl rfl rfl)
    | dsimp only
    | (split <;> (try (rename_i heq; obtain rfl := snd_eq heq)))

theorem State.localLoom_keeps {r s : State} (h : Keeps r s) (m : Nat) :
    Keeps r (State.localLoom s m) := by
  unfold State.localLoom
  repeat' first
    | with_reducible assumption
    | intro _
    | with_reducible apply State.setBit_keeps
    | with_reducible apply keeps_ite
    | with_reducible apply keeps_foldl
    | (fail_if_no_progress with_reducible refine keeps_mk ?_ rfl rfl rfl rfl)
    | dsimp only
    | (split <;> (try (rename_i heq; obtain rfl := snd_eq heq)))

theorem State.followRefused_keeps {r s : State} (h : Keeps r s) (c : Nat) (iss : IssueTime) :
    Keeps r (State.followRefused s c iss) := by
  unfold State.followRefused
  repeat' first
    | with_reducible assumption
    | intro _
    | with_reducible apply State.openRefused_keeps
    | with_reducible apply State.refuseSpace_keeps
    | with_reducible apply keeps_ite
    | with_reducible apply keeps_foldl
    | (fail_if_no_progress with_reducible refine keeps_mk ?_ rfl rfl rfl rfl)
    | dsimp only
    | (split <;> (try (rename_i heq; obtain rfl := snd_eq heq)))

theorem State.openAction_keeps {r s : State} (h : Keeps r s) (c : Nat) (tread : Nat) (m : Match) (forced : Option MatchIssue) :
    Keeps r (State.openAction s c tread m forced) := by
  unfold State.openAction
  repeat' first
    | with_reducible assumption
    | intro _
    | with_reducible apply State.expireHoldoff_keeps
    | with_reducible apply State.acceptOpen_keeps
    | with_reducible apply State.openSeg_keeps
    | with_reducible apply State.logIssue_keeps
    | with_reducible apply State.localLoom_keeps
    | with_reducible apply State.followRefused_keeps
    | with_reducible apply keeps_ite
    | with_reducible apply keeps_foldl
    | (fail_if_no_progress with_reducible refine keeps_mk ?_ rfl rfl rfl rfl)
    | dsimp only
    | (split <;> (try (rename_i heq; obtain rfl := snd_eq heq)))

theorem State.markerAction_keeps {r s : State} (h : Keeps r s) (c : Nat) (code : Nat) (tread : Nat) (m : Match) (forced : Option MatchIssue) :
    Keeps r (State.markerAction s c code tread m forced) := by
  unfold State.markerAction
  repeat' first
    | with_reducible assumption
    | intro _
    | with_reducible apply State.setKeep_keeps
    | with_reducible apply State.notLive_keeps
    | with_reducible apply State.makeMarker_keeps
    | with_reducible apply State.logIssue_keeps
    | with_reducible apply State.localLoom_keeps
    | with_reducible apply keeps_ite
    | with_reducible apply keeps_foldl
    | (fail_if_no_progress with_reducible refine keeps_mk ?_ rfl rfl rfl rfl)
    | dsimp only
    | (split <;> (try (rename_i heq; obtain rfl := snd_eq heq)))

theorem State.action_keeps {r s : State} (h : Keeps r s) (kind : Nat) (arg : Nat) (tread : Nat) (m : Match) (forced : Option MatchIssue) :
    Keeps r (State.action s kind arg tread m forced).2 := by
  unfold State.action
  repeat' first
    | with_reducible assumption
    | intro _
    | with_reducible apply State.raiseVector_keeps
    | with_reducible apply State.hwSet_keeps
    | with_reducible apply State.cmpAction_keeps
    | with_reducible apply State.accAction_keeps
    | with_reducible apply State.arm_keeps
    | with_reducible apply State.armFailed_keeps
    | with_reducible apply State.disarm_keeps
    | with_reducible apply State.closeSeg_keeps
    | with_reducible apply State.laneSwap_keeps
    | with_reducible apply State.coefAction_keeps
    | with_reducible apply State.flagAction_keeps
    | with_reducible apply State.trigOut_keeps
    | with_reducible apply State.localLoom_keeps
    | with_reducible apply State.openAction_keeps
    | with_reducible apply State.markerAction_keeps
    | with_reducible apply keeps_ite
    | with_reducible apply keeps_foldl
    | (fail_if_no_progress with_reducible refine keeps_mk ?_ rfl rfl rfl rfl)
    | with_reducible apply keeps_ite2
    | dsimp only
    | (split <;> (try (rename_i heq; obtain rfl := snd_eq heq)))

theorem State.stay_keeps {r s : State} (h : Keeps r s) (k : Nat) (tally : Nat) (never : Bool) :
    Keeps r (State.stay s k tally never) := by
  unfold State.stay
  repeat' first
    | with_reducible assumption
    | intro _
    | with_reducible apply State.setBit_keeps
    | with_reducible apply State.setCursor_keeps
    | with_reducible apply keeps_ite
    | with_reducible apply keeps_foldl
    | (fail_if_no_progress with_reducible refine keeps_mk ?_ rfl rfl rfl rfl)
    | dsimp only
    | (split <;> (try (rename_i heq; obtain rfl := snd_eq heq)))

theorem State.met_keeps {r s : State} (h : Keeps r s) (k : Nat) (i : Nat) (t : Tread) (m : Match) (forced : Option (List MatchIssue)) :
    Keeps r (State.met s k i t m forced) := by
  unfold State.met
  repeat' first
    | with_reducible assumption
    | intro _
    | with_reducible apply State.arrive_keeps
    | with_reducible apply State.noteMatch_keeps
    | with_reducible apply State.action_keeps
    | with_reducible apply keeps_ite
    | with_reducible apply keeps_foldl
    | (fail_if_no_progress with_reducible refine keeps_mk ?_ rfl rfl rfl rfl)
    | dsimp only
    | (split <;> (try (rename_i heq; obtain rfl := snd_eq heq)))

theorem State.unmet_keeps {r s : State} (h : Keeps r s) (k : Nat) (i : Nat) (t : Tread) (tally : Nat) :
    Keeps r (State.unmet s k i t tally) := by
  unfold State.unmet
  repeat' first
    | with_reducible assumption
    | intro _
    | with_reducible apply State.arrive_keeps
    | with_reducible apply State.stay_keeps
    | with_reducible apply keeps_ite
    | with_reducible apply keeps_foldl
    | (fail_if_no_progress with_reducible refine keeps_mk ?_ rfl rfl rfl rfl)
    | dsimp only
    | (split <;> (try (rename_i heq; obtain rfl := snd_eq heq)))

theorem State.evaluate_keeps {r s : State} (h : Keeps r s) (k : Nat) :
    Keeps r (State.evaluate s k) := by
  unfold State.evaluate
  repeat' first
    | with_reducible assumption
    | intro _
    | with_reducible apply State.met_keeps
    | with_reducible apply State.unmet_keeps
    | with_reducible apply keeps_ite
    | with_reducible apply keeps_foldl
    | (fail_if_no_progress with_reducible refine keeps_mk ?_ rfl rfl rfl rfl)
    | dsimp only
    | (split <;> (try (rename_i heq; obtain rfl := snd_eq heq)))

theorem execTreadMatch_keeps {r s : State} (h : Keeps r s) (k : Fin 4) :
    KeepsOut r (execTreadMatch k s) := by
  unfold execTreadMatch
  repeat' first
    | with_reducible assumption
    | intro _
    | with_reducible apply State.evaluate_keeps
    | with_reducible apply keeps_ite
    | with_reducible apply keeps_foldl
    | (fail_if_no_progress with_reducible refine keeps_mk ?_ rfl rfl rfl rfl)
    | with_reducible apply keepsOut_next
    | with_reducible apply keepsOut_fault
    | with_reducible apply keepsOut_ite
    | dsimp only
    | (split <;> (try (rename_i heq; obtain rfl := snd_eq heq)))

theorem State.loomTick_keeps {r s : State} (h : Keeps r s) :
    Keeps r (State.loomTick s) := by
  unfold State.loomTick
  repeat' first
    | with_reducible assumption
    | intro _
    | with_reducible apply State.finishSwap_keeps
    | with_reducible apply State.evaluate_keeps
    | with_reducible apply keeps_ite
    | with_reducible apply keeps_foldl
    | (fail_if_no_progress with_reducible refine keeps_mk ?_ rfl rfl rfl rfl)
    | dsimp only
    | (split <;> (try (rename_i heq; obtain rfl := snd_eq heq)))

theorem State.enablesTick_keeps {r s : State} (h : Keeps r s) :
    Keeps r (State.enablesTick s) := by
  unfold State.enablesTick
  repeat' first
    | with_reducible assumption
    | intro _
    | with_reducible apply State.setBit_keeps
    | with_reducible apply State.arrive_keeps
    | with_reducible apply keeps_ite
    | with_reducible apply keeps_foldl
    | (fail_if_no_progress with_reducible refine keeps_mk ?_ rfl rfl rfl rfl)
    | dsimp only
    | (split <;> (try (rename_i heq; obtain rfl := snd_eq heq)))

theorem State.stopDone_keeps {r s : State} (h : Keeps r s) :
    Keeps r (State.stopDone s) := by
  unfold State.stopDone
  repeat' first
    | with_reducible assumption
    | intro _
    | with_reducible apply State.enter_keeps
    | with_reducible apply State.loomAtRest_keeps
    | with_reducible apply keeps_ite
    | with_reducible apply keeps_foldl
    | (fail_if_no_progress with_reducible refine keeps_mk ?_ rfl rfl rfl rfl)
    | dsimp only
    | (split <;> (try (rename_i heq; obtain rfl := snd_eq heq)))

theorem State.issue_keeps {r s : State} (h : Keeps r s) (k : State → State) (hk : ∀ t, Keeps r t → Keeps r (k t)) :
    KeepsOut r (State.issue s k) := by
  unfold State.issue
  repeat' first
    | with_reducible assumption
    | intro _
    | with_reducible apply hk
    | with_reducible apply keeps_ite
    | with_reducible apply keeps_foldl
    | (fail_if_no_progress with_reducible refine keeps_mk ?_ rfl rfl rfl rfl)
    | with_reducible apply keepsOut_next
    | with_reducible apply keepsOut_fault
    | with_reducible apply keepsOut_ite
    | dsimp only
    | (split <;> (try (rename_i heq; obtain rfl := snd_eq heq)))

theorem execNop_keeps {r s : State} (h : Keeps r s) (kind : BitVec 5) :
    KeepsOut r (execNop kind s) := by
  unfold execNop
  repeat' first
    | with_reducible assumption
    | intro _
    | with_reducible apply State.hwSet_keeps
    | with_reducible apply State.issue_keeps
    | with_reducible apply keeps_ite
    | with_reducible apply keeps_foldl
    | (fail_if_no_progress with_reducible refine keeps_mk ?_ rfl rfl rfl rfl)
    | with_reducible apply keepsOut_next
    | with_reducible apply keepsOut_fault
    | with_reducible apply keepsOut_ite
    | dsimp only
    | (split <;> (try (rename_i heq; obtain rfl := snd_eq heq)))

theorem execArm_keeps {r s : State} (h : Keeps r s) (c : Fin 1024) (tread : Fin 4096) :
    KeepsOut r (execArm c tread s) := by
  unfold execArm
  repeat' first
    | with_reducible assumption
    | intro _
    | with_reducible apply State.arm_keeps
    | with_reducible apply State.armFailed_keeps
    | with_reducible apply State.issue_keeps
    | with_reducible apply keeps_ite
    | with_reducible apply keeps_foldl
    | (fail_if_no_progress with_reducible refine keeps_mk ?_ rfl rfl rfl rfl)
    | with_reducible apply keepsOut_next
    | with_reducible apply keepsOut_fault
    | with_reducible apply keepsOut_ite
    | dsimp only
    | (split <;> (try (rename_i heq; obtain rfl := snd_eq heq)))

theorem execDisarm_keeps {r s : State} (h : Keeps r s) (c : Fin 1024) :
    KeepsOut r (execDisarm c s) := by
  unfold execDisarm
  repeat' first
    | with_reducible assumption
    | intro _
    | with_reducible apply State.disarm_keeps
    | with_reducible apply State.issue_keeps
    | with_reducible apply keeps_ite
    | with_reducible apply keeps_foldl
    | (fail_if_no_progress with_reducible refine keeps_mk ?_ rfl rfl rfl rfl)
    | with_reducible apply keepsOut_next
    | with_reducible apply keepsOut_fault
    | with_reducible apply keepsOut_ite
    | dsimp only
    | (split <;> (try (rename_i heq; obtain rfl := snd_eq heq)))

theorem execOpenSegment_keeps {r s : State} (h : Keeps r s) (c : Fin 1024) (iss : IssueTime) :
    KeepsOut r (execOpenSegment c iss s) := by
  unfold execOpenSegment
  repeat' first
    | with_reducible assumption
    | intro _
    | with_reducible apply State.openSeg_keeps
    | with_reducible apply State.issue_keeps
    | with_reducible apply keeps_ite
    | with_reducible apply keeps_foldl
    | (fail_if_no_progress with_reducible refine keeps_mk ?_ rfl rfl rfl rfl)
    | with_reducible apply keepsOut_next
    | with_reducible apply keepsOut_fault
    | with_reducible apply keepsOut_ite
    | dsimp only
    | (split <;> (try (rename_i heq; obtain rfl := snd_eq heq)))

theorem execClose_keeps {r s : State} (h : Keeps r s) (c : Fin 1024) :
    KeepsOut r (execClose c s) := by
  unfold execClose
  repeat' first
    | with_reducible assumption
    | intro _
    | with_reducible apply State.closeSeg_keeps
    | with_reducible apply State.issue_keeps
    | with_reducible apply keeps_ite
    | with_reducible apply keeps_foldl
    | (fail_if_no_progress with_reducible refine keeps_mk ?_ rfl rfl rfl rfl)
    | with_reducible apply keepsOut_next
    | with_reducible apply keepsOut_fault
    | with_reducible apply keepsOut_ite
    | dsimp only
    | (split <;> (try (rename_i heq; obtain rfl := snd_eq heq)))

theorem execLaneSwap_keeps {r s : State} (h : Keeps r s) (c : Fin 1024) :
    KeepsOut r (execLaneSwap c s) := by
  unfold execLaneSwap
  repeat' first
    | with_reducible assumption
    | intro _
    | with_reducible apply State.laneSwap_keeps
    | with_reducible apply State.issue_keeps
    | with_reducible apply keeps_ite
    | with_reducible apply keeps_foldl
    | (fail_if_no_progress with_reducible refine keeps_mk ?_ rfl rfl rfl rfl)
    | with_reducible apply keepsOut_next
    | with_reducible apply keepsOut_fault
    | with_reducible apply keepsOut_ite
    | dsimp only
    | (split <;> (try (rename_i heq; obtain rfl := snd_eq heq)))

theorem execCoefSwap_keeps {r s : State} (h : Keeps r s) (c : Fin 1024) (stage : Bool) (sel : Fin 4) :
    KeepsOut r (execCoefSwap c stage sel s) := by
  unfold execCoefSwap
  repeat' first
    | with_reducible assumption
    | intro _
    | with_reducible apply State.coefAction_keeps
    | with_reducible apply State.issue_keeps
    | with_reducible apply keeps_ite
    | with_reducible apply keeps_foldl
    | (fail_if_no_progress with_reducible refine keeps_mk ?_ rfl rfl rfl rfl)
    | with_reducible apply keepsOut_next
    | with_reducible apply keepsOut_fault
    | with_reducible apply keepsOut_ite
    | dsimp only
    | (split <;> (try (rename_i heq; obtain rfl := snd_eq heq)))

theorem execAccStart_keeps {r s : State} (h : Keeps r s) (j : Fin 256) :
    KeepsOut r (execAccStart j s) := by
  unfold execAccStart
  repeat' first
    | with_reducible assumption
    | intro _
    | with_reducible apply State.accAction_keeps
    | with_reducible apply State.issue_keeps
    | with_reducible apply keeps_ite
    | with_reducible apply keeps_foldl
    | (fail_if_no_progress with_reducible refine keeps_mk ?_ rfl rfl rfl rfl)
    | with_reducible apply keepsOut_next
    | with_reducible apply keepsOut_fault
    | with_reducible apply keepsOut_ite
    | dsimp only
    | (split <;> (try (rename_i heq; obtain rfl := snd_eq heq)))

theorem execAccStop_keeps {r s : State} (h : Keeps r s) (j : Fin 256) :
    KeepsOut r (execAccStop j s) := by
  unfold execAccStop
  repeat' first
    | with_reducible assumption
    | intro _
    | with_reducible apply State.accAction_keeps
    | with_reducible apply State.issue_keeps
    | with_reducible apply keeps_ite
    | with_reducible apply keeps_foldl
    | (fail_if_no_progress with_reducible refine keeps_mk ?_ rfl rfl rfl rfl)
    | with_reducible apply keepsOut_next
    | with_reducible apply keepsOut_fault
    | with_reducible apply keepsOut_ite
    | dsimp only
    | (split <;> (try (rename_i heq; obtain rfl := snd_eq heq)))

theorem execAccFold_keeps {r s : State} (h : Keeps r s) (j : Fin 256) :
    KeepsOut r (execAccFold j s) := by
  unfold execAccFold
  repeat' first
    | with_reducible assumption
    | intro _
    | with_reducible apply State.accAction_keeps
    | with_reducible apply State.issue_keeps
    | with_reducible apply keeps_ite
    | with_reducible apply keeps_foldl
    | (fail_if_no_progress with_reducible refine keeps_mk ?_ rfl rfl rfl rfl)
    | with_reducible apply keepsOut_next
    | with_reducible apply keepsOut_fault
    | with_reducible apply keepsOut_ite
    | dsimp only
    | (split <;> (try (rename_i heq; obtain rfl := snd_eq heq)))

theorem execMarker_keeps {r s : State} (h : Keeps r s) (c : Fin 1024) (code : BitVec 12) (iss : IssueTime) :
    KeepsOut r (execMarker c code iss s) := by
  unfold execMarker
  repeat' first
    | with_reducible assumption
    | intro _
    | with_reducible apply State.makeMarker_keeps
    | with_reducible apply State.issue_keeps
    | with_reducible apply keeps_ite
    | with_reducible apply keeps_foldl
    | (fail_if_no_progress with_reducible refine keeps_mk ?_ rfl rfl rfl rfl)
    | with_reducible apply keepsOut_next
    | with_reducible apply keepsOut_fault
    | with_reducible apply keepsOut_ite
    | dsimp only
    | (split <;> (try (rename_i heq; obtain rfl := snd_eq heq)))

theorem execFlag_keeps {r s : State} (h : Keeps r s) (f : Fin 32) (v : Bool) :
    KeepsOut r (execFlag f v s) := by
  unfold execFlag
  repeat' first
    | with_reducible assumption
    | intro _
    | with_reducible apply State.flagAction_keeps
    | with_reducible apply State.issue_keeps
    | with_reducible apply keeps_ite
    | with_reducible apply keeps_foldl
    | (fail_if_no_progress with_reducible refine keeps_mk ?_ rfl rfl rfl rfl)
    | with_reducible apply keepsOut_next
    | with_reducible apply keepsOut_fault
    | with_reducible apply keepsOut_ite
    | dsimp only
    | (split <;> (try (rename_i heq; obtain rfl := snd_eq heq)))

theorem execIrq_keeps {r s : State} (h : Keeps r s) (v : Fin 64) :
    KeepsOut r (execIrq v s) := by
  unfold execIrq
  repeat' first
    | with_reducible assumption
    | intro _
    | with_reducible apply State.raiseVector_keeps
    | with_reducible apply State.issue_keeps
    | with_reducible apply keeps_ite
    | with_reducible apply keeps_foldl
    | (fail_if_no_progress with_reducible refine keeps_mk ?_ rfl rfl rfl rfl)
    | with_reducible apply keepsOut_next
    | with_reducible apply keepsOut_fault
    | with_reducible apply keepsOut_ite
    | dsimp only
    | (split <;> (try (rename_i heq; obtain rfl := snd_eq heq)))

theorem State.startLoom_keeps {r s : State} (h : Keeps r s) :
    Keeps r (State.startLoom s) := by
  unfold State.startLoom
  repeat' first
    | with_reducible assumption
    | intro _
    | with_reducible apply State.setBit_keeps
    | with_reducible apply State.enter_keeps
    | with_reducible apply State.setCursor_keeps
    | with_reducible apply State.arrive_keeps
    | with_reducible apply keeps_ite
    | with_reducible apply keeps_foldl
    | (fail_if_no_progress with_reducible refine keeps_mk ?_ rfl rfl rfl rfl)
    | dsimp only
    | (split <;> (try (rename_i heq; obtain rfl := snd_eq heq)))

theorem State.cursorEnables_keeps {r s : State} (h : Keeps r s) (en : Nat) :
    Keeps r (State.cursorEnables s en) := by
  unfold State.cursorEnables
  repeat' first
    | with_reducible assumption
    | intro _
    | with_reducible apply State.setF_keeps
    | with_reducible apply keeps_ite
    | with_reducible apply keeps_foldl
    | (fail_if_no_progress with_reducible refine keeps_mk ?_ rfl rfl rfl rfl)
    | dsimp only
    | (split <;> (try (rename_i heq; obtain rfl := snd_eq heq)))

theorem State.loomCtrl_keeps {r s : State} (h : Keeps r s) (v : Word) :
    Keeps r (State.loomCtrl s v) := by
  unfold State.loomCtrl
  repeat' first
    | with_reducible assumption
    | intro _
    | with_reducible apply State.hwSet_keeps
    | with_reducible apply State.stopLoom_keeps
    | with_reducible apply State.startLoom_keeps
    | with_reducible apply State.cursorEnables_keeps
    | with_reducible apply keeps_ite
    | with_reducible apply keeps_foldl
    | (fail_if_no_progress with_reducible refine keeps_mk ?_ rfl rfl rfl rfl)
    | dsimp only
    | (split <;> (try (rename_i heq; obtain rfl := snd_eq heq)))

theorem execRun_keeps {r s : State} (h : Keeps r s) (en : BitVec 4) :
    KeepsOut r (execRun en s) := by
  unfold execRun
  repeat' first
    | with_reducible assumption
    | intro _
    | with_reducible apply State.hostWrite_keeps
    | with_reducible apply State.loomCtrl_keeps
    | with_reducible apply keeps_ite
    | with_reducible apply keeps_foldl
    | (fail_if_no_progress with_reducible refine keeps_mk ?_ rfl rfl rfl rfl)
    | with_reducible apply keepsOut_next
    | with_reducible apply keepsOut_fault
    | with_reducible apply keepsOut_ite
    | dsimp only
    | (split <;> (try (rename_i heq; obtain rfl := snd_eq heq)))

theorem execStop_keeps {r s : State} (h : Keeps r s) (en : BitVec 4) :
    KeepsOut r (execStop en s) := by
  unfold execStop
  repeat' first
    | with_reducible assumption
    | intro _
    | with_reducible apply State.hostWrite_keeps
    | with_reducible apply State.loomCtrl_keeps
    | with_reducible apply keeps_ite
    | with_reducible apply keeps_foldl
    | (fail_if_no_progress with_reducible refine keeps_mk ?_ rfl rfl rfl rfl)
    | with_reducible apply keepsOut_next
    | with_reducible apply keepsOut_fault
    | with_reducible apply keepsOut_ite
    | dsimp only
    | (split <;> (try (rename_i heq; obtain rfl := snd_eq heq)))

theorem execStopComplete_keeps {r s : State} (h : Keeps r s) :
    KeepsOut r (execStopComplete s) := by
  unfold execStopComplete
  repeat' first
    | with_reducible assumption
    | intro _
    | with_reducible apply State.stopDone_keeps
    | with_reducible apply keeps_ite
    | with_reducible apply keeps_foldl
    | (fail_if_no_progress with_reducible refine keeps_mk ?_ rfl rfl rfl rfl)
    | with_reducible apply keepsOut_next
    | with_reducible apply keepsOut_fault
    | with_reducible apply keepsOut_ite
    | dsimp only
    | (split <;> (try (rename_i heq; obtain rfl := snd_eq heq)))

theorem execCursorEn_keeps {r s : State} (h : Keeps r s) (en : BitVec 4) :
    KeepsOut r (execCursorEn en s) := by
  unfold execCursorEn
  repeat' first
    | with_reducible assumption
    | intro _
    | with_reducible apply State.hostWrite_keeps
    | with_reducible apply State.cursorEnables_keeps
    | with_reducible apply keeps_ite
    | with_reducible apply keeps_foldl
    | (fail_if_no_progress with_reducible refine keeps_mk ?_ rfl rfl rfl rfl)
    | with_reducible apply keepsOut_next
    | with_reducible apply keepsOut_fault
    | with_reducible apply keepsOut_ite
    | dsimp only
    | (split <;> (try (rename_i heq; obtain rfl := snd_eq heq)))

theorem execDoorbell_keeps {r s : State} (h : Keeps r s) (v : Word) :
    KeepsOut r (execDoorbell v s) := by
  unfold execDoorbell
  repeat' first
    | with_reducible assumption
    | intro _
    | with_reducible apply State.hostWrite_keeps
    | with_reducible apply State.ring_keeps
    | with_reducible apply keeps_ite
    | with_reducible apply keeps_foldl
    | (fail_if_no_progress with_reducible refine keeps_mk ?_ rfl rfl rfl rfl)
    | with_reducible apply keepsOut_next
    | with_reducible apply keepsOut_fault
    | with_reducible apply keepsOut_ite
    | dsimp only
    | (split <;> (try (rename_i heq; obtain rfl := snd_eq heq)))

theorem execSwapReq_keeps {r s : State} (h : Keeps r s) (v : Word) :
    KeepsOut r (execSwapReq v s) := by
  unfold execSwapReq
  repeat' first
    | with_reducible assumption
    | intro _
    | with_reducible apply State.hostWrite_keeps
    | with_reducible apply State.swapWrite_keeps
    | with_reducible apply keeps_ite
    | with_reducible apply keeps_foldl
    | (fail_if_no_progress with_reducible refine keeps_mk ?_ rfl rfl rfl rfl)
    | with_reducible apply keepsOut_next
    | with_reducible apply keepsOut_fault
    | with_reducible apply keepsOut_ite
    | dsimp only
    | (split <;> (try (rename_i heq; obtain rfl := snd_eq heq)))

theorem execSwapCancel_keeps {r s : State} (h : Keeps r s) :
    KeepsOut r (execSwapCancel s) := by
  unfold execSwapCancel
  repeat' first
    | with_reducible assumption
    | intro _
    | with_reducible apply State.hostWrite_keeps
    | with_reducible apply State.swapWrite_keeps
    | with_reducible apply keeps_ite
    | with_reducible apply keeps_foldl
    | (fail_if_no_progress with_reducible refine keeps_mk ?_ rfl rfl rfl rfl)
    | with_reducible apply keepsOut_next
    | with_reducible apply keepsOut_fault
    | with_reducible apply keepsOut_ite
    | dsimp only
    | (split <;> (try (rename_i heq; obtain rfl := snd_eq heq)))

theorem execSwapDone_keeps {r s : State} (h : Keeps r s) :
    KeepsOut r (execSwapDone s) := by
  unfold execSwapDone
  repeat' first
    | with_reducible assumption
    | intro _
    | with_reducible apply State.swapDue_keeps
    | with_reducible apply keeps_ite
    | with_reducible apply keeps_foldl
    | (fail_if_no_progress with_reducible refine keeps_mk ?_ rfl rfl rfl rfl)
    | with_reducible apply keepsOut_next
    | with_reducible apply keepsOut_fault
    | with_reducible apply keepsOut_ite
    | dsimp only
    | (split <;> (try (rename_i heq; obtain rfl := snd_eq heq)))

theorem execTreadWindowWrite_keeps {r s : State} (h : Keeps r s) (off : Fin 8192) (v : Word) :
    KeepsOut r (execTreadWindowWrite off v s) := by
  unfold execTreadWindowWrite
  repeat' first
    | with_reducible assumption
    | intro _
    | with_reducible apply State.hostWrite_keeps
    | with_reducible apply State.windowWrite_keeps
    | with_reducible apply keeps_ite
    | with_reducible apply keeps_foldl
    | (fail_if_no_progress with_reducible refine keeps_mk ?_ rfl rfl rfl rfl)
    | with_reducible apply keepsOut_next
    | with_reducible apply keepsOut_fault
    | with_reducible apply keepsOut_ite
    | dsimp only
    | (split <;> (try (rename_i heq; obtain rfl := snd_eq heq)))

theorem State.ctxWrite_keeps {r s : State} (h : Keeps r s) (c : Nat) (word : Nat) (v : Word) :
    Keeps r (State.ctxWrite s c word v) := by
  unfold State.ctxWrite
  repeat' first
    | with_reducible assumption
    | intro _
    | with_reducible apply State.hwSet_keeps
    | with_reducible apply State.storeReg_keeps
    | with_reducible apply State.dropNative_keeps
    | with_reducible apply keeps_ite
    | with_reducible apply keeps_foldl
    | (fail_if_no_progress with_reducible refine keeps_mk ?_ rfl rfl rfl rfl)
    | dsimp only
    | (split <;> (try (rename_i heq; obtain rfl := snd_eq heq)))

theorem execCtxWindowWrite_keeps {r s : State} (h : Keeps r s) (c : Fin 1024) (word : Fin 64) (v : Word) :
    KeepsOut r (execCtxWindowWrite c word v s) := by
  unfold execCtxWindowWrite
  repeat' first
    | with_reducible assumption
    | intro _
    | with_reducible apply State.hostWrite_keeps
    | with_reducible apply State.ctxWrite_keeps
    | with_reducible apply keeps_ite
    | with_reducible apply keeps_foldl
    | (fail_if_no_progress with_reducible refine keeps_mk ?_ rfl rfl rfl rfl)
    | with_reducible apply keepsOut_next
    | with_reducible apply keepsOut_fault
    | with_reducible apply keepsOut_ite
    | dsimp only
    | (split <;> (try (rename_i heq; obtain rfl := snd_eq heq)))

end Sys2Proof.Machine
end

