-- ==== Sys2Proof/Laws/KeepsStrm.lean ====
section
/-! SUPPORT. What every operation of Machine/Strm.lean keeps: the queue, the fabric clock, the canonical form of the register
file and every burnt fuse. -/

set_option linter.all false

namespace Sys2Proof.Machine

theorem State.judgeStall_keeps {r s : State} (h : Keeps r s) :
    Keeps r (State.judgeStall s) := by
  unfold State.judgeStall
  repeat' first
    | with_reducible assumption
    | intro _
    | with_reducible apply State.setBit_keeps
    | with_reducible apply keeps_ite
    | with_reducible apply keeps_foldl
    | (fail_if_no_progress with_reducible refine keeps_mk ?_ rfl rfl rfl rfl)
    | dsimp only
    | (split <;> (try (rename_i heq; obtain rfl := snd_eq heq)))

theorem State.offerFrame_keeps {r₀ s : State} (h : Keeps r₀ s) (r : Record) (k : Nat) :
    Keeps r₀ (State.offerFrame s r k) := by
  unfold State.offerFrame
  repeat' first
    | with_reducible assumption
    | intro _
    | with_reducible apply State.offerRead_keeps
    | with_reducible apply State.offerSlot_keeps
    | with_reducible apply keeps_ite
    | with_reducible apply keeps_foldl
    | (fail_if_no_progress with_reducible refine keeps_mk ?_ rfl rfl rfl rfl)
    | dsimp only
    | (split <;> (try (rename_i heq; obtain rfl := snd_eq heq)))

theorem execStreamFrameStart_keeps {r s : State} (h : Keeps r s) :
    KeepsOut r (execStreamFrameStart s) := by
  unfold execStreamFrameStart
  repeat' first
    | with_reducible assumption
    | intro _
    | with_reducible apply State.setReg_keeps
    | with_reducible apply State.setBit_keeps
    | with_reducible apply State.send_keeps
    | with_reducible apply State.rclAdd_keeps
    | with_reducible apply State.offerFrame_keeps
    | with_reducible apply keeps_ite
    | with_reducible apply keeps_foldl
    | (fail_if_no_progress with_reducible refine keeps_mk ?_ rfl rfl rfl rfl)
    | with_reducible apply keepsOut_next
    | with_reducible apply keepsOut_fault
    | with_reducible apply keepsOut_ite
    | dsimp only
    | (split <;> (try (rename_i heq; obtain rfl := snd_eq heq)))

theorem execStreamFrameSent_keeps {r s : State} (h : Keeps r s) :
    KeepsOut r (execStreamFrameSent s) := by
  unfold execStreamFrameSent
  repeat' first
    | with_reducible assumption
    | intro _
    | with_reducible apply State.setReg_keeps
    | with_reducible apply State.makeVisible_keeps
    | with_reducible apply keeps_ite
    | with_reducible apply keeps_foldl
    | (fail_if_no_progress with_reducible refine keeps_mk ?_ rfl rfl rfl rfl)
    | with_reducible apply keepsOut_next
    | with_reducible apply keepsOut_fault
    | with_reducible apply keepsOut_ite
    | dsimp only
    | (split <;> (try (rename_i heq; obtain rfl := snd_eq heq)))

theorem State.skipTo_keeps {r s : State} (h : Keeps r s) (g : Nat) :
    Keeps r (State.skipTo s g) := by
  unfold State.skipTo
  repeat' first
    | with_reducible assumption
    | intro _
    | with_reducible apply State.setReg_keeps
    | with_reducible apply keeps_ite
    | with_reducible apply keeps_foldl
    | (fail_if_no_progress with_reducible refine keeps_mk ?_ rfl rfl rfl rfl)
    | dsimp only
    | (split <;> (try (rename_i heq; obtain rfl := snd_eq heq)))

theorem State.ackStream_keeps {r s : State} (h : Keeps r s) (g : Nat) :
    Keeps r (State.ackStream s g) := by
  unfold State.ackStream
  repeat' first
    | with_reducible assumption
    | intro _
    | with_reducible apply State.set64_keeps
    | with_reducible apply State.ackRecord_keeps
    | with_reducible apply State.skipTo_keeps
    | with_reducible apply keeps_ite
    | with_reducible apply keeps_foldl
    | (fail_if_no_progress with_reducible refine keeps_mk ?_ rfl rfl rfl rfl)
    | dsimp only
    | (split <;> (try (rename_i heq; obtain rfl := snd_eq heq)))

theorem State.creditActs_keeps {r s : State} (h : Keeps r s) (limit : Word) :
    Keeps r (State.creditActs s limit) := by
  unfold State.creditActs
  repeat' first
    | with_reducible assumption
    | intro _
    | with_reducible apply State.setReg_keeps
    | with_reducible apply State.hwSet_keeps
    | with_reducible apply State.limit_keeps
    | with_reducible apply State.judgeStall_keeps
    | with_reducible apply keeps_ite
    | with_reducible apply keeps_foldl
    | (fail_if_no_progress with_reducible refine keeps_mk ?_ rfl rfl rfl rfl)
    | dsimp only
    | (split <;> (try (rename_i heq; obtain rfl := snd_eq heq)))

theorem State.ackActs_keeps {r s : State} (h : Keeps r s) (g : Nat) :
    Keeps r (State.ackActs s g) := by
  unfold State.ackActs
  repeat' first
    | with_reducible assumption
    | intro _
    | with_reducible apply State.hwSet_keeps
    | with_reducible apply State.ackStream_keeps
    | with_reducible apply keeps_ite
    | with_reducible apply keeps_foldl
    | (fail_if_no_progress with_reducible refine keeps_mk ?_ rfl rfl rfl rfl)
    | dsimp only
    | (split <;> (try (rename_i heq; obtain rfl := snd_eq heq)))

theorem State.resendActs_keeps {r s : State} (h : Keeps r s) (fseq : Nat) :
    Keeps r (State.resendActs s fseq) := by
  unfold State.resendActs
  repeat' first
    | with_reducible assumption
    | intro _
    | with_reducible apply keeps_ite
    | with_reducible apply keeps_foldl
    | (fail_if_no_progress with_reducible refine keeps_mk ?_ rfl rfl rfl rfl)
    | dsimp only
    | (split <;> (try (rename_i heq; obtain rfl := snd_eq heq)))

theorem State.resendFrom_keeps {r s : State} (h : Keeps r s) (fseq : Nat) :
    Keeps r (State.resendFrom s fseq) := by
  unfold State.resendFrom
  repeat' first
    | with_reducible assumption
    | intro _
    | with_reducible apply State.setReg_keeps
    | with_reducible apply State.hwSet_keeps
    | with_reducible apply keeps_ite
    | with_reducible apply keeps_foldl
    | (fail_if_no_progress with_reducible refine keeps_mk ?_ rfl rfl rfl rfl)
    | dsimp only
    | (split <;> (try (rename_i heq; obtain rfl := snd_eq heq)))

theorem State.strmSettle_keeps {r s : State} (h : Keeps r s) :
    Keeps r (State.strmSettle s) := by
  unfold State.strmSettle
  repeat' first
    | with_reducible assumption
    | intro _
    | with_reducible apply State.resendFrom_keeps
    | with_reducible apply keeps_ite
    | with_reducible apply keeps_foldl
    | (fail_if_no_progress with_reducible refine keeps_mk ?_ rfl rfl rfl rfl)
    | dsimp only
    | (split <;> (try (rename_i heq; obtain rfl := snd_eq heq)))

theorem State.helloActs_keeps {r s : State} (h : Keeps r s) (g : Nat) (limit : Word) :
    Keeps r (State.helloActs s g limit) := by
  unfold State.helloActs
  repeat' first
    | with_reducible assumption
    | intro _
    | with_reducible apply State.setReg_keeps
    | with_reducible apply State.setF_keeps
    | with_reducible apply State.setBit_keeps
    | with_reducible apply State.hwSet_keeps
    | with_reducible apply State.limit_keeps
    | with_reducible apply State.ackStream_keeps
    | with_reducible apply keeps_ite
    | with_reducible apply keeps_foldl
    | (fail_if_no_progress with_reducible refine keeps_mk ?_ rfl rfl rfl rfl)
    | dsimp only
    | (split <;> (try (rename_i heq; obtain rfl := snd_eq heq)))

theorem State.ctlActs_keeps {r s : State} (h : Keeps r s) (b : Bolt) :
    Keeps r (State.ctlActs s b) := by
  unfold State.ctlActs
  repeat' first
    | with_reducible assumption
    | intro _
    | with_reducible apply State.creditActs_keeps
    | with_reducible apply State.ackActs_keeps
    | with_reducible apply State.resendActs_keeps
    | with_reducible apply State.helloActs_keeps
    | with_reducible apply keeps_ite
    | with_reducible apply keeps_foldl
    | (fail_if_no_progress with_reducible refine keeps_mk ?_ rfl rfl rfl rfl)
    | dsimp only
    | (split <;> (try (rename_i heq; obtain rfl := snd_eq heq)))

theorem State.control_keeps {r s : State} (h : Keeps r s) (f : CtlFrame) (b : Bolt) :
    Keeps r (State.control s f b) := by
  unfold State.control
  repeat' first
    | with_reducible assumption
    | intro _
    | with_reducible apply State.rclAdd_keeps
    | with_reducible apply State.ctlActs_keeps
    | with_reducible apply keeps_ite
    | with_reducible apply keeps_foldl
    | (fail_if_no_progress with_reducible refine keeps_mk ?_ rfl rfl rfl rfl)
    | dsimp only
    | (split <;> (try (rename_i heq; obtain rfl := snd_eq heq)))

theorem execCredit_keeps {r s : State} (h : Keeps r s) (frame : CtlFrame) (limit : Word) :
    KeepsOut r (execCredit frame limit s) := by
  unfold execCredit
  repeat' first
    | with_reducible assumption
    | intro _
    | with_reducible apply State.limit_keeps
    | with_reducible apply State.control_keeps
    | with_reducible apply keeps_ite
    | with_reducible apply keeps_foldl
    | (fail_if_no_progress with_reducible refine keeps_mk ?_ rfl rfl rfl rfl)
    | with_reducible apply keepsOut_next
    | with_reducible apply keepsOut_fault
    | with_reducible apply keepsOut_ite
    | dsimp only
    | (split <;> (try (rename_i heq; obtain rfl := snd_eq heq)))

theorem execAck_keeps {r s : State} (h : Keeps r s) (frame : CtlFrame) (g : BitVec 64) :
    KeepsOut r (execAck frame g s) := by
  unfold execAck
  repeat' first
    | with_reducible assumption
    | intro _
    | with_reducible apply State.control_keeps
    | with_reducible apply keeps_ite
    | with_reducible apply keeps_foldl
    | (fail_if_no_progress with_reducible refine keeps_mk ?_ rfl rfl rfl rfl)
    | with_reducible apply keepsOut_next
    | with_reducible apply keepsOut_fault
    | with_reducible apply keepsOut_ite
    | dsimp only
    | (split <;> (try (rename_i heq; obtain rfl := snd_eq heq)))

theorem execResend_keeps {r s : State} (h : Keeps r s) (frame : CtlFrame) (fseq : Word) :
    KeepsOut r (execResend frame fseq s) := by
  unfold execResend
  repeat' first
    | with_reducible assumption
    | intro _
    | with_reducible apply State.control_keeps
    | with_reducible apply keeps_ite
    | with_reducible apply keeps_foldl
    | (fail_if_no_progress with_reducible refine keeps_mk ?_ rfl rfl rfl rfl)
    | with_reducible apply keepsOut_next
    | with_reducible apply keepsOut_fault
    | with_reducible apply keepsOut_ite
    | dsimp only
    | (split <;> (try (rename_i heq; obtain rfl := snd_eq heq)))

theorem execHello_keeps {r s : State} (h : Keeps r s) (frame : CtlFrame) (g : BitVec 64) (limit : Word) :
    KeepsOut r (execHello frame g limit s) := by
  unfold execHello
  repeat' first
    | with_reducible assumption
    | intro _
    | with_reducible apply State.limit_keeps
    | with_reducible apply State.control_keeps
    | with_reducible apply keeps_ite
    | with_reducible apply keeps_foldl
    | (fail_if_no_progress with_reducible refine keeps_mk ?_ rfl rfl rfl rfl)
    | with_reducible apply keepsOut_next
    | with_reducible apply keepsOut_fault
    | with_reducible apply keepsOut_ite
    | dsimp only
    | (split <;> (try (rename_i heq; obtain rfl := snd_eq heq)))

theorem State.becomeStalled_keeps {r s : State} (h : Keeps r s) :
    Keeps r (State.becomeStalled s) := by
  unfold State.becomeStalled
  repeat' first
    | with_reducible assumption
    | intro _
    | with_reducible apply State.setBit_keeps
    | with_reducible apply State.hwSet_keeps
    | with_reducible apply keeps_ite
    | with_reducible apply keeps_foldl
    | (fail_if_no_progress with_reducible refine keeps_mk ?_ rfl rfl rfl rfl)
    | dsimp only
    | (split <;> (try (rename_i heq; obtain rfl := snd_eq heq)))

theorem State.streamDown_keeps {r s : State} (h : Keeps r s) (state : Nat) :
    Keeps r (State.streamDown s state) := by
  unfold State.streamDown
  repeat' first
    | with_reducible assumption
    | intro _
    | with_reducible apply State.setF_keeps
    | with_reducible apply State.hwSet_keeps
    | with_reducible apply State.becomeStalled_keeps
    | with_reducible apply keeps_ite
    | with_reducible apply keeps_foldl
    | (fail_if_no_progress with_reducible refine keeps_mk ?_ rfl rfl rfl rfl)
    | dsimp only
    | (split <;> (try (rename_i heq; obtain rfl := snd_eq heq)))

theorem execStreamLinkDown_keeps {r s : State} (h : Keeps r s) :
    KeepsOut r (execStreamLinkDown s) := by
  unfold execStreamLinkDown
  repeat' first
    | with_reducible assumption
    | intro _
    | with_reducible apply State.streamDown_keeps
    | with_reducible apply keeps_ite
    | with_reducible apply keeps_foldl
    | (fail_if_no_progress with_reducible refine keeps_mk ?_ rfl rfl rfl rfl)
    | with_reducible apply keepsOut_next
    | with_reducible apply keepsOut_fault
    | with_reducible apply keepsOut_ite
    | dsimp only
    | (split <;> (try (rename_i heq; obtain rfl := snd_eq heq)))

theorem execStreamRetrained_keeps {r s : State} (h : Keeps r s) :
    KeepsOut r (execStreamRetrained s) := by
  unfold execStreamRetrained
  repeat' first
    | with_reducible assumption
    | intro _
    | with_reducible apply State.setF_keeps
    | with_reducible apply keeps_ite
    | with_reducible apply keeps_foldl
    | (fail_if_no_progress with_reducible refine keeps_mk ?_ rfl rfl rfl rfl)
    | with_reducible apply keepsOut_next
    | with_reducible apply keepsOut_fault
    | with_reducible apply keepsOut_ite
    | dsimp only
    | (split <;> (try (rename_i heq; obtain rfl := snd_eq heq)))

theorem execStall_keeps {r s : State} (h : Keeps r s) :
    KeepsOut r (execStall s) := by
  unfold execStall
  repeat' first
    | with_reducible assumption
    | intro _
    | with_reducible apply State.becomeStalled_keeps
    | with_reducible apply keeps_ite
    | with_reducible apply keeps_foldl
    | (fail_if_no_progress with_reducible refine keeps_mk ?_ rfl rfl rfl rfl)
    | with_reducible apply keepsOut_next
    | with_reducible apply keepsOut_fault
    | with_reducible apply keepsOut_ite
    | dsimp only
    | (split <;> (try (rename_i heq; obtain rfl := snd_eq heq)))

theorem execRxFecUncorrectable_keeps {r s : State} (h : Keeps r s) :
    KeepsOut r (execRxFecUncorrectable s) := by
  unfold execRxFecUncorrectable
  repeat' first
    | with_reducible assumption
    | intro _
    | with_reducible apply State.rclAdd_keeps
    | with_reducible apply keeps_ite
    | with_reducible apply keeps_foldl
    | (fail_if_no_progress with_reducible refine keeps_mk ?_ rfl rfl rfl rfl)
    | with_reducible apply keepsOut_next
    | with_reducible apply keepsOut_fault
    | with_reducible apply keepsOut_ite
    | dsimp only
    | (split <;> (try (rename_i heq; obtain rfl := snd_eq heq)))

theorem State.strmCtrl_keeps {r s : State} (h : Keeps r s) (v : Word) :
    Keeps r (State.strmCtrl s v) := by
  unfold State.strmCtrl
  repeat' first
    | with_reducible assumption
    | intro _
    | with_reducible apply State.setF_keeps
    | with_reducible apply State.storeReg_keeps
    | with_reducible apply State.becomeStalled_keeps
    | with_reducible apply State.streamDown_keeps
    | with_reducible apply keeps_ite
    | with_reducible apply keeps_foldl
    | (fail_if_no_progress with_reducible refine keeps_mk ?_ rfl rfl rfl rfl)
    | dsimp only
    | (split <;> (try (rename_i heq; obtain rfl := snd_eq heq)))

end Sys2Proof.Machine
end

