-- ==== Sys2Proof/Laws/KeepsPair.lean ====
section
/-! SUPPORT. What every operation of Machine/Pair.lean keeps: the queue, the fabric clock, the canonical form of the register
file and every burnt fuse. -/

set_option linter.all false

namespace Sys2Proof.Machine

theorem State.withPair_keeps {r s : State} (h : Keeps r s) (f : PairSt → PairSt) :
    Keeps r (State.withPair s f) := by
  unfold State.withPair
  repeat' first
    | with_reducible assumption
    | intro _
    | with_reducible apply keeps_ite
    | with_reducible apply keeps_foldl
    | (fail_if_no_progress with_reducible refine keeps_mk ?_ rfl rfl rfl rfl)
    | dsimp only
    | (split <;> (try (rename_i heq; obtain rfl := snd_eq heq)))

theorem State.missedWrite_keeps {r s : State} (h : Keeps r s) (w : Option Nat) :
    Keeps r (State.missedWrite s w) := by
  unfold State.missedWrite
  repeat' first
    | with_reducible assumption
    | intro _
    | with_reducible apply State.localLoom_keeps
    | with_reducible apply keeps_ite
    | with_reducible apply keeps_foldl
    | (fail_if_no_progress with_reducible refine keeps_mk ?_ rfl rfl rfl rfl)
    | dsimp only
    | (split <;> (try (rename_i heq; obtain rfl := snd_eq heq)))

theorem State.cellIn_keeps {r s : State} (h : Keeps r s) (h : CellHead) (k : State → State) (hk : ∀ t, Keeps r t → Keeps r (k t)) :
    Keeps r (State.cellIn s h k) := by
  unfold State.cellIn
  repeat' first
    | with_reducible assumption
    | intro _
    | with_reducible apply hk
    | with_reducible apply State.sendCell_keeps
    | with_reducible apply State.rclAdd_keeps
    | with_reducible apply State.withPair_keeps
    | with_reducible apply State.missedWrite_keeps
    | with_reducible apply keeps_ite
    | with_reducible apply keeps_foldl
    | (fail_if_no_progress with_reducible refine keeps_mk ?_ rfl rfl rfl rfl)
    | dsimp only
    | (split <;> (try (rename_i heq; obtain rfl := snd_eq heq)))

theorem State.pairRecord_keeps {r s : State} (h : Keeps r s) (code : Nat) (before : Nat) (rest : List Byte) :
    Keeps r (State.pairRecord s code before rest) := by
  unfold State.pairRecord
  repeat' first
    | with_reducible assumption
    | intro _
    | with_reducible apply State.makeRecord_keeps
    | with_reducible apply keeps_ite
    | with_reducible apply keeps_foldl
    | (fail_if_no_progress with_reducible refine keeps_mk ?_ rfl rfl rfl rfl)
    | dsimp only
    | (split <;> (try (rename_i heq; obtain rfl := snd_eq heq)))

theorem State.tenonEvent_keeps {r s : State} (h : Keeps r s) (code : Nat) :
    Keeps r (State.tenonEvent s code) := by
  unfold State.tenonEvent
  repeat' first
    | with_reducible assumption
    | intro _
    | with_reducible apply State.reportEvent_keeps
    | with_reducible apply keeps_ite
    | with_reducible apply keeps_foldl
    | (fail_if_no_progress with_reducible refine keeps_mk ?_ rfl rfl rfl rfl)
    | dsimp only
    | (split <;> (try (rename_i heq; obtain rfl := snd_eq heq)))

theorem execHeartbeatSend_keeps {r s : State} (h : Keeps r s) :
    KeepsOut r (execHeartbeatSend s) := by
  unfold execHeartbeatSend
  repeat' first
    | with_reducible assumption
    | intro _
    | with_reducible apply State.sendCell_keeps
    | with_reducible apply keeps_ite
    | with_reducible apply keeps_foldl
    | (fail_if_no_progress with_reducible refine keeps_mk ?_ rfl rfl rfl rfl)
    | with_reducible apply keepsOut_next
    | with_reducible apply keepsOut_fault
    | with_reducible apply keepsOut_ite
    | dsimp only
    | (split <;> (try (rename_i heq; obtain rfl := snd_eq heq)))

theorem State.sendHello_keeps {r s : State} (h : Keeps r s) :
    Keeps r (State.sendHello s) := by
  unfold State.sendHello
  repeat' first
    | with_reducible assumption
    | intro _
    | with_reducible apply State.sendCell_keeps
    | with_reducible apply keeps_ite
    | with_reducible apply keeps_foldl
    | (fail_if_no_progress with_reducible refine keeps_mk ?_ rfl rfl rfl rfl)
    | dsimp only
    | (split <;> (try (rename_i heq; obtain rfl := snd_eq heq)))

theorem State.measurePhase_keeps {r s : State} (h : Keeps r s) (lead : Int) :
    Keeps r (State.measurePhase s lead) := by
  unfold State.measurePhase
  repeat' first
    | with_reducible assumption
    | intro _
    | with_reducible apply State.setReg_keeps
    | with_reducible apply State.hwSet_keeps
    | with_reducible apply State.retrim_keeps
    | with_reducible apply keeps_ite
    | with_reducible apply keeps_foldl
    | (fail_if_no_progress with_reducible refine keeps_mk ?_ rfl rfl rfl rfl)
    | dsimp only
    | (split <;> (try (rename_i heq; obtain rfl := snd_eq heq)))

theorem State.mirrorBacklog_keeps {r s : State} (h : Keeps r s) :
    Keeps r (State.mirrorBacklog s) := by
  unfold State.mirrorBacklog
  repeat' first
    | with_reducible assumption
    | intro _
    | with_reducible apply State.mirrorOut_keeps
    | with_reducible apply keeps_ite
    | with_reducible apply keeps_foldl
    | (fail_if_no_progress with_reducible refine keeps_mk ?_ rfl rfl rfl rfl)
    | dsimp only
    | (split <;> (try (rename_i heq; obtain rfl := snd_eq heq)))

theorem State.formPair_keeps {r s : State} (h : Keeps r s) :
    Keeps r (State.formPair s) := by
  unfold State.formPair
  repeat' first
    | with_reducible assumption
    | intro _
    | with_reducible apply State.setF_keeps
    | with_reducible apply State.setBit_keeps
    | with_reducible apply State.hwSet_keeps
    | with_reducible apply State.withPair_keeps
    | with_reducible apply State.pairRecord_keeps
    | with_reducible apply State.tenonEvent_keeps
    | with_reducible apply State.mirrorBacklog_keeps
    | with_reducible apply keeps_ite
    | with_reducible apply keeps_foldl
    | (fail_if_no_progress with_reducible refine keeps_mk ?_ rfl rfl rfl rfl)
    | dsimp only
    | (split <;> (try (rename_i heq; obtain rfl := snd_eq heq)))

theorem State.formRefused_keeps {r s : State} (h : Keeps r s) (cause : Nat) :
    Keeps r (State.formRefused s cause) := by
  unfold State.formRefused
  repeat' first
    | with_reducible assumption
    | intro _
    | with_reducible apply State.setF_keeps
    | with_reducible apply State.hwSet_keeps
    | with_reducible apply State.withPair_keeps
    | with_reducible apply State.pairRecord_keeps
    | with_reducible apply keeps_ite
    | with_reducible apply keeps_foldl
    | (fail_if_no_progress with_reducible refine keeps_mk ?_ rfl rfl rfl rfl)
    | dsimp only
    | (split <;> (try (rename_i heq; obtain rfl := snd_eq heq)))

theorem State.tryForm_keeps {r s : State} (h : Keeps r s) (q : FormReq) :
    Keeps r (State.tryForm s q) := by
  unfold State.tryForm
  repeat' first
    | with_reducible assumption
    | intro _
    | with_reducible apply State.withPair_keeps
    | with_reducible apply keeps_ite
    | with_reducible apply keeps_foldl
    | (fail_if_no_progress with_reducible refine keeps_mk ?_ rfl rfl rfl rfl)
    | dsimp only
    | (split <;> (try (rename_i heq; obtain rfl := snd_eq heq)))

theorem State.askForm_keeps {r s : State} (h : Keeps r s) (q : FormReq) :
    Keeps r (State.askForm s q) := by
  unfold State.askForm
  repeat' first
    | with_reducible assumption
    | intro _
    | with_reducible apply State.sendCell_keeps
    | with_reducible apply State.withPair_keeps
    | with_reducible apply State.sendHello_keeps
    | with_reducible apply State.tryForm_keeps
    | with_reducible apply keeps_ite
    | with_reducible apply keeps_foldl
    | (fail_if_no_progress with_reducible refine keeps_mk ?_ rfl rfl rfl rfl)
    | dsimp only
    | (split <;> (try (rename_i heq; obtain rfl := snd_eq heq)))

theorem State.formSettle_keeps {r s : State} (h : Keeps r s) :
    Keeps r (State.formSettle s) := by
  unfold State.formSettle
  repeat' first
    | with_reducible assumption
    | intro _
    | with_reducible apply State.sendCell_keeps
    | with_reducible apply State.withPair_keeps
    | with_reducible apply State.measurePhase_keeps
    | with_reducible apply State.formPair_keeps
    | with_reducible apply State.formRefused_keeps
    | with_reducible apply keeps_ite
    | with_reducible apply keeps_foldl
    | (fail_if_no_progress with_reducible refine keeps_mk ?_ rfl rfl rfl rfl)
    | dsimp only
    | (split <;> (try (rename_i heq; obtain rfl := snd_eq heq)))

theorem execForm_keeps {r s : State} (h : Keeps r s) (peerReady : Bool) (tscEqual : Bool) (phaseOk : Bool) (lead : Int := 0) :
    KeepsOut r (execForm peerReady tscEqual phaseOk s lead) := by
  unfold execForm
  repeat' first
    | with_reducible assumption
    | intro _
    | with_reducible apply State.hostWrite_keeps
    | with_reducible apply State.askForm_keeps
    | with_reducible apply keeps_ite
    | with_reducible apply keeps_foldl
    | (fail_if_no_progress with_reducible refine keeps_mk ?_ rfl rfl rfl rfl)
    | with_reducible apply keepsOut_next
    | with_reducible apply keepsOut_fault
    | with_reducible apply keepsOut_ite
    | dsimp only
    | (split <;> (try (rename_i heq; obtain rfl := snd_eq heq)))

theorem execFormCell_keeps {r s : State} (h : Keeps r s) (h : CellHead) (m : FormMsg) (peerReady : Bool) (tscEqual : Bool) (phaseOk : Bool) (lead : Int := 0) :
    KeepsOut r (execFormCell h m peerReady tscEqual phaseOk s lead) := by
  unfold execFormCell
  repeat' first
    | with_reducible assumption
    | intro _
    | with_reducible apply State.cellIn_keeps
    | with_reducible apply State.sendHello_keeps
    | with_reducible apply State.formRefused_keeps
    | with_reducible apply State.tryForm_keeps
    | with_reducible apply keeps_ite
    | with_reducible apply keeps_foldl
    | (fail_if_no_progress with_reducible refine keeps_mk ?_ rfl rfl rfl rfl)
    | with_reducible apply keepsOut_next
    | with_reducible apply keepsOut_fault
    | with_reducible apply keepsOut_ite
    | dsimp only
    | (split <;> (try (rename_i heq; obtain rfl := snd_eq heq)))

theorem execPairHelloCell_keeps {r s : State} (h : Keeps r s) (h : CellHead) (p : PairHello) :
    KeepsOut r (execPairHelloCell h p s) := by
  unfold execPairHelloCell
  repeat' first
    | with_reducible assumption
    | intro _
    | with_reducible apply State.withPair_keeps
    | with_reducible apply State.cellIn_keeps
    | with_reducible apply State.tryForm_keeps
    | with_reducible apply keeps_ite
    | with_reducible apply keeps_foldl
    | (fail_if_no_progress with_reducible refine keeps_mk ?_ rfl rfl rfl rfl)
    | with_reducible apply keepsOut_next
    | with_reducible apply keepsOut_fault
    | with_reducible apply keepsOut_ite
    | dsimp only
    | (split <;> (try (rename_i heq; obtain rfl := snd_eq heq)))

theorem State.endPair_keeps {r s : State} (h : Keeps r s) :
    Keeps r (State.endPair s) := by
  unfold State.endPair
  repeat' first
    | with_reducible assumption
    | intro _
    | with_reducible apply State.setBit_keeps
    | with_reducible apply State.withPair_keeps
    | with_reducible apply keeps_ite
    | with_reducible apply keeps_foldl
    | (fail_if_no_progress with_reducible refine keeps_mk ?_ rfl rfl rfl rfl)
    | dsimp only
    | (split <;> (try (rename_i heq; obtain rfl := snd_eq heq)))

theorem State.stopIfRunning_keeps {r s : State} (h : Keeps r s) :
    Keeps r (State.stopIfRunning s) := by
  unfold State.stopIfRunning
  repeat' first
    | with_reducible assumption
    | intro _
    | with_reducible apply State.stopLoom_keeps
    | with_reducible apply keeps_ite
    | with_reducible apply keeps_foldl
    | (fail_if_no_progress with_reducible refine keeps_mk ?_ rfl rfl rfl rfl)
    | dsimp only
    | (split <;> (try (rename_i heq; obtain rfl := snd_eq heq)))

theorem State.toWaiting_keeps {r s : State} (h : Keeps r s) :
    Keeps r (State.toWaiting s) := by
  unfold State.toWaiting
  repeat' first
    | with_reducible assumption
    | intro _
    | with_reducible apply State.setF_keeps
    | with_reducible apply State.endPair_keeps
    | with_reducible apply State.stopIfRunning_keeps
    | with_reducible apply keeps_ite
    | with_reducible apply keeps_foldl
    | (fail_if_no_progress with_reducible refine keeps_mk ?_ rfl rfl rfl rfl)
    | dsimp only
    | (split <;> (try (rename_i heq; obtain rfl := snd_eq heq)))

theorem State.dissolve_keeps {r s : State} (h : Keeps r s) :
    Keeps r (State.dissolve s) := by
  unfold State.dissolve
  repeat' first
    | with_reducible assumption
    | intro _
    | with_reducible apply State.drivePins_keeps
    | with_reducible apply State.withPair_keeps
    | with_reducible apply State.endPair_keeps
    | with_reducible apply State.toWaiting_keeps
    | with_reducible apply keeps_ite
    | with_reducible apply keeps_foldl
    | (fail_if_no_progress with_reducible refine keeps_mk ?_ rfl rfl rfl rfl)
    | dsimp only
    | (split <;> (try (rename_i heq; obtain rfl := snd_eq heq)))

theorem execDissolve_keeps {r s : State} (h : Keeps r s) :
    KeepsOut r (execDissolve s) := by
  unfold execDissolve
  repeat' first
    | with_reducible assumption
    | intro _
    | with_reducible apply State.hostWrite_keeps
    | with_reducible apply State.dissolve_keeps
    | with_reducible apply keeps_ite
    | with_reducible apply keeps_foldl
    | (fail_if_no_progress with_reducible refine keeps_mk ?_ rfl rfl rfl rfl)
    | with_reducible apply keepsOut_next
    | with_reducible apply keepsOut_fault
    | with_reducible apply keepsOut_ite
    | dsimp only
    | (split <;> (try (rename_i heq; obtain rfl := snd_eq heq)))

theorem State.pairCtrl_keeps {r s : State} (h : Keeps r s) (v : Word) :
    Keeps r (State.pairCtrl s v) := by
  unfold State.pairCtrl
  repeat' first
    | with_reducible assumption
    | intro _
    | with_reducible apply State.nextFree_keeps
    | with_reducible apply State.askForm_keeps
    | with_reducible apply State.dissolve_keeps
    | with_reducible apply keeps_ite
    | with_reducible apply keeps_foldl
    | (fail_if_no_progress with_reducible refine keeps_mk ?_ rfl rfl rfl rfl)
    | dsimp only
    | (split <;> (try (rename_i heq; obtain rfl := snd_eq heq)))

theorem State.followFail_keeps {r s : State} (h : Keeps r s) :
    Keeps r (State.followFail s) := by
  unfold State.followFail
  repeat' first
    | with_reducible assumption
    | intro _
    | with_reducible apply State.sendCell_keeps
    | with_reducible apply State.hwSet_keeps
    | with_reducible apply State.pairRecord_keeps
    | with_reducible apply State.tenonEvent_keeps
    | with_reducible apply State.toWaiting_keeps
    | with_reducible apply keeps_ite
    | with_reducible apply keeps_foldl
    | (fail_if_no_progress with_reducible refine keeps_mk ?_ rfl rfl rfl rfl)
    | dsimp only
    | (split <;> (try (rename_i heq; obtain rfl := snd_eq heq)))

theorem State.judgeBeat_keeps {r s : State} (h : Keeps r s) (old : Option Heartbeat) (p : Heartbeat) :
    Keeps r (State.judgeBeat s old p) := by
  unfold State.judgeBeat
  repeat' first
    | with_reducible assumption
    | intro _
    | with_reducible apply State.drivePins_keeps
    | with_reducible apply State.tenonEvent_keeps
    | with_reducible apply State.endPair_keeps
    | with_reducible apply State.toWaiting_keeps
    | with_reducible apply State.followFail_keeps
    | with_reducible apply keeps_ite
    | with_reducible apply keeps_foldl
    | (fail_if_no_progress with_reducible refine keeps_mk ?_ rfl rfl rfl rfl)
    | dsimp only
    | (split <;> (try (rename_i heq; obtain rfl := snd_eq heq)))

theorem execHeartbeat_keeps {r s : State} (h : Keeps r s) (h : CellHead) (p : Heartbeat) :
    KeepsOut r (execHeartbeat h p s) := by
  unfold execHeartbeat
  repeat' first
    | with_reducible assumption
    | intro _
    | with_reducible apply State.setF_keeps
    | with_reducible apply State.setBit_keeps
    | with_reducible apply State.withPair_keeps
    | with_reducible apply State.cellIn_keeps
    | with_reducible apply State.tenonEvent_keeps
    | with_reducible apply State.judgeBeat_keeps
    | with_reducible apply keeps_ite
    | with_reducible apply keeps_foldl
    | (fail_if_no_progress with_reducible refine keeps_mk ?_ rfl rfl rfl rfl)
    | with_reducible apply keepsOut_next
    | with_reducible apply keepsOut_fault
    | with_reducible apply keepsOut_ite
    | dsimp only
    | (split <;> (try (rename_i heq; obtain rfl := snd_eq heq)))

theorem State.lostPeer_keeps {r s : State} (h : Keeps r s) :
    Keeps r (State.lostPeer s) := by
  unfold State.lostPeer
  repeat' first
    | with_reducible assumption
    | intro _
    | with_reducible apply State.hwSet_keeps
    | with_reducible apply State.tenonEvent_keeps
    | with_reducible apply keeps_ite
    | with_reducible apply keeps_foldl
    | (fail_if_no_progress with_reducible refine keeps_mk ?_ rfl rfl rfl rfl)
    | dsimp only
    | (split <;> (try (rename_i heq; obtain rfl := snd_eq heq)))

theorem State.peerSilent_keeps {r s : State} (h : Keeps r s) :
    Keeps r (State.peerSilent s) := by
  unfold State.peerSilent
  repeat' first
    | with_reducible assumption
    | intro _
    | with_reducible apply State.setBit_keeps
    | with_reducible apply State.hwSet_keeps
    | with_reducible apply State.drivePins_keeps
    | with_reducible apply State.withPair_keeps
    | with_reducible apply State.pairRecord_keeps
    | with_reducible apply State.toWaiting_keeps
    | with_reducible apply State.lostPeer_keeps
    | with_reducible apply keeps_ite
    | with_reducible apply keeps_foldl
    | (fail_if_no_progress with_reducible refine keeps_mk ?_ rfl rfl rfl rfl)
    | dsimp only
    | (split <;> (try (rename_i heq; obtain rfl := snd_eq heq)))

theorem execHeartbeatMissed_keeps {r s : State} (h : Keeps r s) :
    KeepsOut r (execHeartbeatMissed s) := by
  unfold execHeartbeatMissed
  repeat' first
    | with_reducible assumption
    | intro _
    | with_reducible apply State.withPair_keeps
    | with_reducible apply keeps_ite
    | with_reducible apply keeps_foldl
    | (fail_if_no_progress with_reducible refine keeps_mk ?_ rfl rfl rfl rfl)
    | with_reducible apply keepsOut_next
    | with_reducible apply keepsOut_fault
    | with_reducible apply keepsOut_ite
    | dsimp only
    | (split <;> (try (rename_i heq; obtain rfl := snd_eq heq)))

theorem State.missSettle_keeps {r s : State} (h : Keeps r s) :
    Keeps r (State.missSettle s) := by
  unfold State.missSettle
  repeat' first
    | with_reducible assumption
    | intro _
    | with_reducible apply State.rclAdd_keeps
    | with_reducible apply State.withPair_keeps
    | with_reducible apply State.peerSilent_keeps
    | with_reducible apply keeps_ite
    | with_reducible apply keeps_foldl
    | (fail_if_no_progress with_reducible refine keeps_mk ?_ rfl rfl rfl rfl)
    | dsimp only
    | (split <;> (try (rename_i heq; obtain rfl := snd_eq heq)))

theorem execDropped_keeps {r s : State} (h : Keeps r s) :
    KeepsOut r (execDropped s) := by
  unfold execDropped
  repeat' first
    | with_reducible assumption
    | intro _
    | with_reducible apply State.hwSet_keeps
    | with_reducible apply State.withPair_keeps
    | with_reducible apply State.pairRecord_keeps
    | with_reducible apply State.tenonEvent_keeps
    | with_reducible apply State.endPair_keeps
    | with_reducible apply keeps_ite
    | with_reducible apply keeps_foldl
    | (fail_if_no_progress with_reducible refine keeps_mk ?_ rfl rfl rfl rfl)
    | with_reducible apply keepsOut_next
    | with_reducible apply keepsOut_fault
    | with_reducible apply keepsOut_ite
    | dsimp only
    | (split <;> (try (rename_i heq; obtain rfl := snd_eq heq)))

theorem execMatchCell_keeps {r s : State} (h : Keeps r s) (h : CellHead) (m : MatchCell) :
    KeepsOut r (execMatchCell h m s) := by
  unfold execMatchCell
  repeat' first
    | with_reducible assumption
    | intro _
    | with_reducible apply State.withPair_keeps
    | with_reducible apply State.cellIn_keeps
    | with_reducible apply keeps_ite
    | with_reducible apply keeps_foldl
    | (fail_if_no_progress with_reducible refine keeps_mk ?_ rfl rfl rfl rfl)
    | with_reducible apply keepsOut_next
    | with_reducible apply keepsOut_fault
    | with_reducible apply keepsOut_ite
    | dsimp only
    | (split <;> (try (rename_i heq; obtain rfl := snd_eq heq)))

theorem execMatchLate_keeps {r s : State} (h : Keeps r s) :
    KeepsOut r (execMatchLate s) := by
  unfold execMatchLate
  repeat' first
    | with_reducible assumption
    | intro _
    | with_reducible apply State.localLoom_keeps
    | with_reducible apply keeps_ite
    | with_reducible apply keeps_foldl
    | (fail_if_no_progress with_reducible refine keeps_mk ?_ rfl rfl rfl rfl)
    | with_reducible apply keepsOut_next
    | with_reducible apply keepsOut_fault
    | with_reducible apply keepsOut_ite
    | dsimp only
    | (split <;> (try (rename_i heq; obtain rfl := snd_eq heq)))

theorem execWrite_keeps {r s : State} (h : Keeps r s) (h : CellHead) (tsc : Nat) (off : Nat) (v : Word) :
    KeepsOut r (execWrite h tsc off v s) := by
  unfold execWrite
  repeat' first
    | with_reducible assumption
    | intro _
    | with_reducible apply State.localLoom_keeps
    | with_reducible apply State.withPair_keeps
    | with_reducible apply State.cellIn_keeps
    | with_reducible apply keeps_ite
    | with_reducible apply keeps_foldl
    | (fail_if_no_progress with_reducible refine keeps_mk ?_ rfl rfl rfl rfl)
    | with_reducible apply keepsOut_next
    | with_reducible apply keepsOut_fault
    | with_reducible apply keepsOut_ite
    | dsimp only
    | (split <;> (try (rename_i heq; obtain rfl := snd_eq heq)))

theorem State.followCursor_keeps {r s : State} (h : Keeps r s) (m : Nat) (cell : MatchCell) (k : Nat) :
    Keeps r (State.followCursor s m cell k) := by
  unfold State.followCursor
  repeat' first
    | with_reducible assumption
    | intro _
    | with_reducible apply State.met_keeps
    | with_reducible apply State.unmet_keeps
    | with_reducible apply keeps_ite
    | with_reducible apply keeps_foldl
    | (fail_if_no_progress with_reducible refine keeps_mk ?_ rfl rfl rfl rfl)
    | dsimp only
    | (split <;> (try (rename_i heq; obtain rfl := snd_eq heq)))

theorem State.followTick_keeps {r s : State} (h : Keeps r s) :
    Keeps r (State.followTick s) := by
  unfold State.followTick
  repeat' first
    | with_reducible assumption
    | intro _
    | with_reducible apply State.localLoom_keeps
    | with_reducible apply State.evaluate_keeps
    | with_reducible apply State.withPair_keeps
    | with_reducible apply State.followCursor_keeps
    | with_reducible apply keeps_ite
    | with_reducible apply keeps_foldl
    | (fail_if_no_progress with_reducible refine keeps_mk ?_ rfl rfl rfl rfl)
    | dsimp only
    | (split <;> (try (rename_i heq; obtain rfl := snd_eq heq)))

theorem State.matchTick_keeps {r s : State} (h : Keeps r s) :
    Keeps r (State.matchTick s) := by
  unfold State.matchTick
  repeat' first
    | with_reducible assumption
    | intro _
    | with_reducible apply State.sendCell_keeps
    | with_reducible apply State.met_keeps
    | with_reducible apply State.withPair_keeps
    | with_reducible apply keeps_ite
    | with_reducible apply keeps_foldl
    | (fail_if_no_progress with_reducible refine keeps_mk ?_ rfl rfl rfl rfl)
    | dsimp only
    | (split <;> (try (rename_i heq; obtain rfl := snd_eq heq)))

theorem State.mirrorWrite_keeps {r s : State} (h : Keeps r s) (m : Mirror) (toStream : Bool) (pcs : List Nat) :
    Keeps r (State.mirrorWrite s m toStream pcs) := by
  unfold State.mirrorWrite
  repeat' first
    | with_reducible assumption
    | intro _
    | with_reducible apply State.offerArea_keeps
    | with_reducible apply keeps_ite
    | with_reducible apply keeps_foldl
    | (fail_if_no_progress with_reducible refine keeps_mk ?_ rfl rfl rfl rfl)
    | dsimp only
    | (split <;> (try (rename_i heq; obtain rfl := snd_eq heq)))

theorem State.mapMirror_keeps {r s : State} (h : Keeps r s) (c : Nat) (cseq : Nat) (f : Mirror → Mirror) :
    Keeps r (State.mapMirror s c cseq f) := by
  unfold State.mapMirror
  repeat' first
    | with_reducible assumption
    | intro _
    | with_reducible apply State.withPair_keeps
    | with_reducible apply keeps_ite
    | with_reducible apply keeps_foldl
    | (fail_if_no_progress with_reducible refine keeps_mk ?_ rfl rfl rfl rfl)
    | dsimp only
    | (split <;> (try (rename_i heq; obtain rfl := snd_eq heq)))

theorem State.touchMirror_keeps {r s : State} (h : Keeps r s) (c : Nat) (cseq : Nat) :
    Keeps r (State.touchMirror s c cseq) := by
  unfold State.touchMirror
  repeat' first
    | with_reducible assumption
    | intro _
    | with_reducible apply State.ackStream_keeps
    | with_reducible apply State.withPair_keeps
    | with_reducible apply keeps_ite
    | with_reducible apply keeps_foldl
    | (fail_if_no_progress with_reducible refine keeps_mk ?_ rfl rfl rfl rfl)
    | dsimp only
    | (split <;> (try (rename_i heq; obtain rfl := snd_eq heq)))

theorem State.confirm_keeps {r s : State} (h : Keeps r s) (m : Mirror) (toStream : Bool) :
    Keeps r (State.confirm s m toStream) := by
  unfold State.confirm
  repeat' first
    | with_reducible assumption
    | intro _
    | with_reducible apply State.setBit_keeps
    | with_reducible apply State.sendCell_keeps
    | with_reducible apply State.withPair_keeps
    | with_reducible apply State.mirrorWrite_keeps
    | with_reducible apply State.mapMirror_keeps
    | with_reducible apply keeps_ite
    | with_reducible apply keeps_foldl
    | (fail_if_no_progress with_reducible refine keeps_mk ?_ rfl rfl rfl rfl)
    | dsimp only
    | (split <;> (try (rename_i heq; obtain rfl := snd_eq heq)))

theorem State.confirmAll_keeps {r s : State} (h : Keeps r s) :
    Keeps r (State.confirmAll s) := by
  unfold State.confirmAll
  repeat' first
    | with_reducible assumption
    | intro _
    | with_reducible apply State.setBit_keeps
    | with_reducible apply State.confirm_keeps
    | with_reducible apply keeps_ite
    | with_reducible apply keeps_foldl
    | (fail_if_no_progress with_reducible refine keeps_mk ?_ rfl rfl rfl rfl)
    | dsimp only
    | (split <;> (try (rename_i heq; obtain rfl := snd_eq heq)))

theorem execHand_keeps {r s : State} (h : Keeps r s) (h : CellHead) (k : Consumer) (c : Fin 1024) (cseq : Nat) (gseq : Nat) (header : List Byte) :
    KeepsOut r (execHand h k c cseq gseq header s) := by
  unfold execHand
  repeat' first
    | with_reducible assumption
    | intro _
    | with_reducible apply State.cellIn_keeps
    | with_reducible apply State.mapMirror_keeps
    | with_reducible apply State.touchMirror_keeps
    | with_reducible apply State.confirmAll_keeps
    | with_reducible apply keeps_ite
    | with_reducible apply keeps_foldl
    | (fail_if_no_progress with_reducible refine keeps_mk ?_ rfl rfl rfl rfl)
    | with_reducible apply keepsOut_next
    | with_reducible apply keepsOut_fault
    | with_reducible apply keepsOut_ite
    | dsimp only
    | (split <;> (try (rename_i heq; obtain rfl := snd_eq heq)))

theorem execData_keeps {r s : State} (h : Keeps r s) (h : CellHead) (c : Fin 1024) (cseq : Nat) (off : Nat) (bytes : List Byte) :
    KeepsOut r (execData h c cseq off bytes s) := by
  unfold execData
  repeat' first
    | with_reducible assumption
    | intro _
    | with_reducible apply State.cellIn_keeps
    | with_reducible apply State.mapMirror_keeps
    | with_reducible apply State.touchMirror_keeps
    | with_reducible apply State.confirmAll_keeps
    | with_reducible apply keeps_ite
    | with_reducible apply keeps_foldl
    | (fail_if_no_progress with_reducible refine keeps_mk ?_ rfl rfl rfl rfl)
    | with_reducible apply keepsOut_next
    | with_reducible apply keepsOut_fault
    | with_reducible apply keepsOut_ite
    | dsimp only
    | (split <;> (try (rename_i heq; obtain rfl := snd_eq heq)))

theorem execMirrored_keeps {r s : State} (h : Keeps r s) (h : CellHead) (k : Consumer) (gseq : Nat) :
    KeepsOut r (execMirrored h k gseq s) := by
  unfold execMirrored
  repeat' first
    | with_reducible assumption
    | intro _
    | with_reducible apply State.mapRecs_keeps
    | with_reducible apply State.cellIn_keeps
    | with_reducible apply keeps_ite
    | with_reducible apply keeps_foldl
    | (fail_if_no_progress with_reducible refine keeps_mk ?_ rfl rfl rfl rfl)
    | with_reducible apply keepsOut_next
    | with_reducible apply keepsOut_fault
    | with_reducible apply keepsOut_ite
    | dsimp only
    | (split <;> (try (rename_i heq; obtain rfl := snd_eq heq)))

theorem State.dropRecords_keeps {r s : State} (h : Keeps r s) (sel : Record → Bool) :
    Keeps r (State.dropRecords s sel) := by
  unfold State.dropRecords
  repeat' first
    | with_reducible assumption
    | intro _
    | with_reducible apply State.gcChunks_keeps
    | with_reducible apply State.serveMarkers_keeps
    | with_reducible apply State.freeBuffer_keeps
    | with_reducible apply State.noteHanded_keeps
    | with_reducible apply keeps_ite
    | with_reducible apply keeps_foldl
    | (fail_if_no_progress with_reducible refine keeps_mk ?_ rfl rfl rfl rfl)
    | dsimp only
    | (split <;> (try (rename_i heq; obtain rfl := snd_eq heq)))

theorem State.retireShadow_keeps {r s : State} (h : Keeps r s) :
    Keeps r (State.retireShadow s) := by
  unfold State.retireShadow
  repeat' first
    | with_reducible assumption
    | intro _
    | with_reducible apply State.dropRecords_keeps
    | with_reducible apply keeps_ite
    | with_reducible apply keeps_foldl
    | (fail_if_no_progress with_reducible refine keeps_mk ?_ rfl rfl rfl rfl)
    | dsimp only
    | (split <;> (try (rename_i heq; obtain rfl := snd_eq heq)))

theorem execPairAckCell_keeps {r s : State} (h : Keeps r s) (h : CellHead) (k : Consumer) (c : Fin 1024) (first : Nat) (last : Nat) :
    KeepsOut r (execPairAckCell h k c first last s) := by
  unfold execPairAckCell
  repeat' first
    | with_reducible assumption
    | intro _
    | with_reducible apply State.mapRecs_keeps
    | with_reducible apply State.ackStream_keeps
    | with_reducible apply State.withPair_keeps
    | with_reducible apply State.cellIn_keeps
    | with_reducible apply State.confirmAll_keeps
    | with_reducible apply State.retireShadow_keeps
    | with_reducible apply keeps_ite
    | with_reducible apply keeps_foldl
    | (fail_if_no_progress with_reducible refine keeps_mk ?_ rfl rfl rfl rfl)
    | with_reducible apply keepsOut_next
    | with_reducible apply keepsOut_fault
    | with_reducible apply keepsOut_ite
    | dsimp only
    | (split <;> (try (rename_i heq; obtain rfl := snd_eq heq)))

theorem execTenonResend_keeps {r s : State} (h : Keeps r s) (h : CellHead) (first : Nat) :
    KeepsOut r (execTenonResend h first s) := by
  unfold execTenonResend
  repeat' first
    | with_reducible assumption
    | intro _
    | with_reducible apply State.emitCell_keeps
    | with_reducible apply State.cellIn_keeps
    | with_reducible apply keeps_ite
    | with_reducible apply keeps_foldl
    | (fail_if_no_progress with_reducible refine keeps_mk ?_ rfl rfl rfl rfl)
    | with_reducible apply keepsOut_next
    | with_reducible apply keepsOut_fault
    | with_reducible apply keepsOut_ite
    | dsimp only
    | (split <;> (try (rename_i heq; obtain rfl := snd_eq heq)))

theorem execPairFencedNAssert_keeps {r s : State} (h : Keeps r s) :
    KeepsOut r (execPairFencedNAssert s) := by
  unfold execPairFencedNAssert
  repeat' first
    | with_reducible assumption
    | intro _
    | with_reducible apply State.setF_keeps
    | with_reducible apply State.hwSet_keeps
    | with_reducible apply State.drivePins_keeps
    | with_reducible apply State.pairRecord_keeps
    | with_reducible apply State.endPair_keeps
    | with_reducible apply State.stopIfRunning_keeps
    | with_reducible apply keeps_ite
    | with_reducible apply keeps_foldl
    | (fail_if_no_progress with_reducible refine keeps_mk ?_ rfl rfl rfl rfl)
    | with_reducible apply keepsOut_next
    | with_reducible apply keepsOut_fault
    | with_reducible apply keepsOut_ite
    | dsimp only
    | (split <;> (try (rename_i heq; obtain rfl := snd_eq heq)))

theorem State.takeOver_keeps {r s : State} (h : Keeps r s) :
    Keeps r (State.takeOver s) := by
  unfold State.takeOver
  repeat' first
    | with_reducible assumption
    | intro _
    | with_reducible apply State.setF_keeps
    | with_reducible apply State.setBit_keeps
    | with_reducible apply State.set64_keeps
    | with_reducible apply State.hwSet_keeps
    | with_reducible apply State.mapRecs_keeps
    | with_reducible apply State.drivePins_keeps
    | with_reducible apply State.withPair_keeps
    | with_reducible apply State.pairRecord_keeps
    | with_reducible apply State.tenonEvent_keeps
    | with_reducible apply State.endPair_keeps
    | with_reducible apply State.dropRecords_keeps
    | with_reducible apply keeps_ite
    | with_reducible apply keeps_foldl
    | (fail_if_no_progress with_reducible refine keeps_mk ?_ rfl rfl rfl rfl)
    | dsimp only
    | (split <;> (try (rename_i heq; obtain rfl := snd_eq heq)))

theorem execPairFenceAck_keeps {r s : State} (h : Keeps r s) :
    KeepsOut r (execPairFenceAck s) := by
  unfold execPairFenceAck
  repeat' first
    | with_reducible assumption
    | intro _
    | with_reducible apply State.withPair_keeps
    | with_reducible apply keeps_ite
    | with_reducible apply keeps_foldl
    | (fail_if_no_progress with_reducible refine keeps_mk ?_ rfl rfl rfl rfl)
    | with_reducible apply keepsOut_next
    | with_reducible apply keepsOut_fault
    | with_reducible apply keepsOut_ite
    | dsimp only
    | (split <;> (try (rename_i heq; obtain rfl := snd_eq heq)))

theorem State.takeoverSettle_keeps {r s : State} (h : Keeps r s) :
    Keeps r (State.takeoverSettle s) := by
  unfold State.takeoverSettle
  repeat' first
    | with_reducible assumption
    | intro _
    | with_reducible apply State.withPair_keeps
    | with_reducible apply State.takeOver_keeps
    | with_reducible apply keeps_ite
    | with_reducible apply keeps_foldl
    | (fail_if_no_progress with_reducible refine keeps_mk ?_ rfl rfl rfl rfl)
    | dsimp only
    | (split <;> (try (rename_i heq; obtain rfl := snd_eq heq)))

theorem State.pairSettle_keeps {r s : State} (h : Keeps r s) :
    Keeps r (State.pairSettle s) := by
  unfold State.pairSettle
  repeat' first
    | with_reducible assumption
    | intro _
    | with_reducible apply State.formSettle_keeps
    | with_reducible apply State.missSettle_keeps
    | with_reducible apply State.takeoverSettle_keeps
    | with_reducible apply keeps_ite
    | with_reducible apply keeps_foldl
    | (fail_if_no_progress with_reducible refine keeps_mk ?_ rfl rfl rfl rfl)
    | dsimp only
    | (split <;> (try (rename_i heq; obtain rfl := snd_eq heq)))

theorem execPhaseMeasure_keeps {r s : State} (h : Keeps r s) (lead : Int) :
    KeepsOut r (execPhaseMeasure lead s) := by
  unfold execPhaseMeasure
  repeat' first
    | with_reducible assumption
    | intro _
    | with_reducible apply State.measurePhase_keeps
    | with_reducible apply keeps_ite
    | with_reducible apply keeps_foldl
    | (fail_if_no_progress with_reducible refine keeps_mk ?_ rfl rfl rfl rfl)
    | with_reducible apply keepsOut_next
    | with_reducible apply keepsOut_fault
    | with_reducible apply keepsOut_ite
    | dsimp only
    | (split <;> (try (rename_i heq; obtain rfl := snd_eq heq)))

theorem execTenonLinkUp_keeps {r s : State} (h : Keeps r s) :
    KeepsOut r (execTenonLinkUp s) := by
  unfold execTenonLinkUp
  repeat' first
    | with_reducible assumption
    | intro _
    | with_reducible apply State.setBit_keeps
    | with_reducible apply State.withPair_keeps
    | with_reducible apply State.sendHello_keeps
    | with_reducible apply keeps_ite
    | with_reducible apply keeps_foldl
    | (fail_if_no_progress with_reducible refine keeps_mk ?_ rfl rfl rfl rfl)
    | with_reducible apply keepsOut_next
    | with_reducible apply keepsOut_fault
    | with_reducible apply keepsOut_ite
    | dsimp only
    | (split <;> (try (rename_i heq; obtain rfl := snd_eq heq)))

theorem execTenonLinkDown_keeps {r s : State} (h : Keeps r s) :
    KeepsOut r (execTenonLinkDown s) := by
  unfold execTenonLinkDown
  repeat' first
    | with_reducible assumption
    | intro _
    | with_reducible apply State.setBit_keeps
    | with_reducible apply State.withPair_keeps
    | with_reducible apply State.tryForm_keeps
    | with_reducible apply keeps_ite
    | with_reducible apply keeps_foldl
    | (fail_if_no_progress with_reducible refine keeps_mk ?_ rfl rfl rfl rfl)
    | with_reducible apply keepsOut_next
    | with_reducible apply keepsOut_fault
    | with_reducible apply keepsOut_ite
    | dsimp only
    | (split <;> (try (rename_i heq; obtain rfl := snd_eq heq)))

theorem execBbx_keeps {r s : State} (h : Keeps r s) (h : CellHead) (record : List Byte) :
    KeepsOut r (execBbx h record s) := by
  unfold execBbx
  repeat' first
    | with_reducible assumption
    | intro _
    | with_reducible apply State.pushRecord_keeps
    | with_reducible apply State.cellIn_keeps
    | with_reducible apply keeps_ite
    | with_reducible apply keeps_foldl
    | (fail_if_no_progress with_reducible refine keeps_mk ?_ rfl rfl rfl rfl)
    | with_reducible apply keepsOut_next
    | with_reducible apply keepsOut_fault
    | with_reducible apply keepsOut_ite
    | dsimp only
    | (split <;> (try (rename_i heq; obtain rfl := snd_eq heq)))

end Sys2Proof.Machine
end

