-- ==== Sys2Proof/Laws/KeepsHostRead.lean ====
section
/-! SUPPORT. What every operation of Machine/HostRead.lean keeps: the queue, the fabric clock, the canonical form of the register
file and every burnt fuse. -/

set_option linter.all false

namespace Sys2Proof.Machine

theorem State.occTakeOne_keeps {r s : State} (h : Keeps r s) (key : Nat) :
    Keeps r (State.occTakeOne s key).2 := by
  unfold State.occTakeOne
  repeat' first
    | with_reducible assumption
    | intro _
    | with_reducible apply keeps_ite
    | with_reducible apply keeps_foldl
    | (fail_if_no_progress with_reducible refine keeps_mk ?_ rfl rfl rfl rfl)
    | with_reducible apply keeps_ite2
    | dsimp only
    | (split <;> (try (rename_i heq; obtain rfl := snd_eq heq)))

theorem State.occTake_keeps {r s : State} (h : Keeps r s) (k : Nat) : Keeps r (s.occTake k).2 := by
  unfold State.occTake
  dsimp only
  split
  · exact h
  · exact keeps_foldl2 (a := (0, s)) h fun t b ht => State.occTakeOne_keeps ht _

theorem State.takeRead_keeps {r s : State} (h : Keeps r s) (off : Nat) :
    Keeps r (State.takeRead s off).2 := by
  unfold State.takeRead
  repeat' first
    | with_reducible assumption
    | intro _
    | with_reducible apply State.rclTake_keeps
    | with_reducible apply State.latch_keeps
    | with_reducible apply State.monTake_keeps
    | with_reducible apply State.peek_keeps
    | with_reducible apply State.occTake_keeps
    | with_reducible apply keeps_ite
    | with_reducible apply keeps_foldl
    | (fail_if_no_progress with_reducible refine keeps_mk ?_ rfl rfl rfl rfl)
    | with_reducible apply keeps_ite2
    | dsimp only
    | (split <;> (try (rename_i heq; obtain rfl := snd_eq heq)))

theorem State.hostRead_keeps {r s : State} (h : Keeps r s) (off : Nat) :
    Keeps r (State.hostRead s off) := by
  unfold State.hostRead
  repeat' first
    | with_reducible assumption
    | intro _
    | with_reducible apply State.send_keeps
    | with_reducible apply State.takeRead_keeps
    | with_reducible apply keeps_ite
    | with_reducible apply keeps_foldl
    | (fail_if_no_progress with_reducible refine keeps_mk ?_ rfl rfl rfl rfl)
    | dsimp only
    | (split <;> (try (rename_i heq; obtain rfl := snd_eq heq)))

theorem State.hostReadOf_keeps {r s : State} (h : Keeps r s) (off : Nat) (size : ReadSize) :
    Keeps r (s.hostReadOf off size) := by
  cases size
  · exact State.hostRead_keeps h _
  · exact State.hostRead_keeps (State.hostRead_keeps h _) _

end Sys2Proof.Machine
end

