-- ==== Sys2Proof/Laws/KeepsLane.lean ====
section
/-! SUPPORT. What every operation of Machine/Lane.lean keeps: the queue, the fabric clock, the canonical form of the register
file and every burnt fuse. -/

set_option linter.all false

namespace Sys2Proof.Machine

theorem State.seal_keeps {r s : State} (h : Keeps r s) (l : Nat) :
    Keeps r (State.seal s l) := by
  unfold State.seal
  repeat' first
    | with_reducible assumption
    | intro _
    | with_reducible apply State.hwSet_keeps
    | with_reducible apply State.setLane_keeps
    | with_reducible apply State.showLane_keeps
    | with_reducible apply keeps_ite
    | with_reducible apply keeps_foldl
    | (fail_if_no_progress with_reducible refine keeps_mk ?_ rfl rfl rfl rfl)
    | dsimp only
    | (split <;> (try (rename_i heq; obtain rfl := snd_eq heq)))

theorem State.sealNow_keeps {r s : State} (h : Keeps r s) (l : Nat) :
    Keeps r (State.sealNow s l) := by
  unfold State.sealNow
  repeat' first
    | with_reducible assumption
    | intro _
    | with_reducible apply State.hwSet_keeps
    | with_reducible apply State.setLane_keeps
    | with_reducible apply State.handover_keeps
    | with_reducible apply State.laneChanged_keeps
    | with_reducible apply State.seal_keeps
    | with_reducible apply keeps_ite
    | with_reducible apply keeps_foldl
    | (fail_if_no_progress with_reducible refine keeps_mk ?_ rfl rfl rfl rfl)
    | dsimp only
    | (split <;> (try (rename_i heq; obtain rfl := snd_eq heq)))

theorem State.sealWrite_keeps {r s : State} (h : Keeps r s) (l : Nat) (v : Word) :
    Keeps r (State.sealWrite s l v) := by
  unfold State.sealWrite
  repeat' first
    | with_reducible assumption
    | intro _
    | with_reducible apply State.seal_keeps
    | with_reducible apply State.sealNow_keeps
    | with_reducible apply keeps_ite
    | with_reducible apply keeps_foldl
    | (fail_if_no_progress with_reducible refine keeps_mk ?_ rfl rfl rfl rfl)
    | dsimp only
    | (split <;> (try (rename_i heq; obtain rfl := snd_eq heq)))

theorem execSeal_keeps {r s : State} (h : Keeps r s) (l : Fin 64) :
    KeepsOut r (execSeal l s) := by
  unfold execSeal
  repeat' first
    | with_reducible assumption
    | intro _
    | with_reducible apply State.hostWrite_keeps
    | with_reducible apply State.sealWrite_keeps
    | with_reducible apply keeps_ite
    | with_reducible apply keeps_foldl
    | (fail_if_no_progress with_reducible refine keeps_mk ?_ rfl rfl rfl rfl)
    | with_reducible apply keepsOut_next
    | with_reducible apply keepsOut_fault
    | with_reducible apply keepsOut_ite
    | dsimp only
    | (split <;> (try (rename_i heq; obtain rfl := snd_eq heq)))

theorem execSealNow_keeps {r s : State} (h : Keeps r s) (l : Fin 64) :
    KeepsOut r (execSealNow l s) := by
  unfold execSealNow
  repeat' first
    | with_reducible assumption
    | intro _
    | with_reducible apply State.hostWrite_keeps
    | with_reducible apply State.sealWrite_keeps
    | with_reducible apply keeps_ite
    | with_reducible apply keeps_foldl
    | (fail_if_no_progress with_reducible refine keeps_mk ?_ rfl rfl rfl rfl)
    | with_reducible apply keepsOut_next
    | with_reducible apply keepsOut_fault
    | with_reducible apply keepsOut_ite
    | dsimp only
    | (split <;> (try (rename_i heq; obtain rfl := snd_eq heq)))

theorem State.deferredDue_keeps {r s : State} (h : Keeps r s) (l : Nat) (back : Nat) :
    Keeps r (State.deferredDue s l back) := by
  unfold State.deferredDue
  repeat' first
    | with_reducible assumption
    | intro _
    | with_reducible apply State.takeSet_keeps
    | with_reducible apply keeps_ite
    | with_reducible apply keeps_foldl
    | (fail_if_no_progress with_reducible refine keeps_mk ?_ rfl rfl rfl rfl)
    | dsimp only
    | (split <;> (try (rename_i heq; obtain rfl := snd_eq heq)))

theorem execDeferredHandover_keeps {r s : State} (h : Keeps r s) (l : Fin 64) :
    KeepsOut r (execDeferredHandover l s) := by
  unfold execDeferredHandover
  repeat' first
    | with_reducible assumption
    | intro _
    | with_reducible apply State.deferredDue_keeps
    | with_reducible apply keeps_ite
    | with_reducible apply keeps_foldl
    | (fail_if_no_progress with_reducible refine keeps_mk ?_ rfl rfl rfl rfl)
    | with_reducible apply keepsOut_next
    | with_reducible apply keepsOut_fault
    | with_reducible apply keepsOut_ite
    | dsimp only
    | (split <;> (try (rename_i heq; obtain rfl := snd_eq heq)))

theorem execCoefWindowWrite_keeps {r s : State} (h : Keeps r s) (l : Fin 64) (i : Fin 256) (v : Word) :
    KeepsOut r (execCoefWindowWrite l i v s) := by
  unfold execCoefWindowWrite
  repeat' first
    | with_reducible assumption
    | intro _
    | with_reducible apply State.hostWrite_keeps
    | with_reducible apply State.coefWrite_keeps
    | with_reducible apply keeps_ite
    | with_reducible apply keeps_foldl
    | (fail_if_no_progress with_reducible refine keeps_mk ?_ rfl rfl rfl rfl)
    | with_reducible apply keepsOut_next
    | with_reducible apply keepsOut_fault
    | with_reducible apply keepsOut_ite
    | dsimp only
    | (split <;> (try (rename_i heq; obtain rfl := snd_eq heq)))

theorem State.shadowWrite_keeps {r s : State} (h : Keeps r s) (l : Nat) (word : Nat) (v : Word) :
    Keeps r (State.shadowWrite s l word v) := by
  unfold State.shadowWrite
  repeat' first
    | with_reducible assumption
    | intro _
    | with_reducible apply State.hwSet_keeps
    | with_reducible apply State.storeReg_keeps
    | with_reducible apply State.setLane_keeps
    | with_reducible apply keeps_ite
    | with_reducible apply keeps_foldl
    | (fail_if_no_progress with_reducible refine keeps_mk ?_ rfl rfl rfl rfl)
    | dsimp only
    | (split <;> (try (rename_i heq; obtain rfl := snd_eq heq)))

theorem execLaneParamWrite_keeps {r s : State} (h : Keeps r s) (l : Fin 64) (word : Fin 48) (v : Word) :
    KeepsOut r (execLaneParamWrite l word v s) := by
  unfold execLaneParamWrite
  repeat' first
    | with_reducible assumption
    | intro _
    | with_reducible apply State.hostWrite_keeps
    | with_reducible apply State.shadowWrite_keeps
    | with_reducible apply keeps_ite
    | with_reducible apply keeps_foldl
    | (fail_if_no_progress with_reducible refine keeps_mk ?_ rfl rfl rfl rfl)
    | with_reducible apply keepsOut_next
    | with_reducible apply keepsOut_fault
    | with_reducible apply keepsOut_ite
    | dsimp only
    | (split <;> (try (rename_i heq; obtain rfl := snd_eq heq)))

end Sys2Proof.Machine
end

