-- ==== Sys2Proof/Laws/KeepsHostWrite.lean ====
section
/-! SUPPORT. What every operation of Machine/HostWrite.lean keeps: the queue, the fabric clock, the canonical form of the register
file and every burnt fuse. -/

set_option linter.all false

namespace Sys2Proof.Machine

theorem State.pairWrite_keeps {r s : State} (h : Keeps r s) (lo : Nat) (off : Nat) (v : Word) (act : State → Nat → State) (hact : ∀ t a, Keeps r t → Keeps r (act t a)) :
    Keeps r (State.pairWrite s lo off v act) := by
  unfold State.pairWrite
  repeat' first
    | with_reducible assumption
    | intro _
    | with_reducible apply hact
    | with_reducible apply State.holdLo_keeps
    | with_reducible apply State.takeHeld_keeps
    | with_reducible apply keeps_ite
    | with_reducible apply keeps_foldl
    | (fail_if_no_progress with_reducible refine keeps_mk ?_ rfl rfl rfl rfl)
    | dsimp only
    | (split <;> (try (rename_i heq; obtain rfl := snd_eq heq)))

theorem State.pairStore_keeps {r s : State} (h : Keeps r s) (lo : Nat) (off : Nat) (v : Word) :
    Keeps r (State.pairStore s lo off v) := by
  unfold State.pairStore
  repeat' first
    | with_reducible assumption
    | intro _
    | with_reducible apply State.set64_keeps
    | with_reducible apply State.pairWrite_keeps
    | with_reducible apply keeps_ite
    | with_reducible apply keeps_foldl
    | (fail_if_no_progress with_reducible refine keeps_mk ?_ rfl rfl rfl rfl)
    | dsimp only
    | (split <;> (try (rename_i heq; obtain rfl := snd_eq heq)))

theorem State.writeDev_keeps {r s : State} (h : Keeps r s) (off : Nat) (v : Word) :
    Keeps r (State.writeDev s off v) := by
  unfold State.writeDev
  repeat' first
    | with_reducible assumption
    | intro _
    | with_reducible apply State.storeReg_keeps
    | with_reducible apply State.compatWrite_keeps
    | with_reducible apply keeps_ite
    | with_reducible apply keeps_foldl
    | (fail_if_no_progress with_reducible refine keeps_mk ?_ rfl rfl rfl rfl)
    | dsimp only
    | (split <;> (try (rename_i heq; obtain rfl := snd_eq heq)))

theorem State.writeDraft_keeps {r s : State} (h : Keeps r s) (off : Nat) (v : Word) :
    Keeps r (State.writeDraft s off v) := by
  unfold State.writeDraft
  repeat' first
    | with_reducible assumption
    | intro _
    | with_reducible apply State.storeReg_keeps
    | with_reducible apply State.draftCtrl_keeps
    | with_reducible apply State.stageAddr_keeps
    | with_reducible apply State.stageData_keeps
    | with_reducible apply State.fuseCtrl_keeps
    | with_reducible apply keeps_ite
    | with_reducible apply keeps_foldl
    | (fail_if_no_progress with_reducible refine keeps_mk ?_ rfl rfl rfl rfl)
    | dsimp only
    | (split <;> (try (rename_i heq; obtain rfl := snd_eq heq)))

theorem State.writeAxis_keeps {r s : State} (h : Keeps r s) (off : Nat) (v : Word) :
    Keeps r (State.writeAxis s off v) := by
  unfold State.writeAxis
  repeat' first
    | with_reducible assumption
    | intro _
    | with_reducible apply State.set64_keeps
    | with_reducible apply State.storeReg_keeps
    | with_reducible apply State.axisKeep_keeps
    | with_reducible apply State.axisCfg_keeps
    | with_reducible apply State.cmpHostWrite_keeps
    | with_reducible apply State.pairWrite_keeps
    | with_reducible apply keeps_ite
    | with_reducible apply keeps_foldl
    | (fail_if_no_progress with_reducible refine keeps_mk ?_ rfl rfl rfl rfl)
    | dsimp only
    | (split <;> (try (rename_i heq; obtain rfl := snd_eq heq)))

theorem State.writeLoom_keeps {r s : State} (h : Keeps r s) (off : Nat) (v : Word) :
    Keeps r (State.writeLoom s off v) := by
  unfold State.writeLoom
  repeat' first
    | with_reducible assumption
    | intro _
    | with_reducible apply State.storeReg_keeps
    | with_reducible apply State.flagsWrite_keeps
    | with_reducible apply State.ring_keeps
    | with_reducible apply State.windowWrite_keeps
    | with_reducible apply State.swapWrite_keeps
    | with_reducible apply State.loomCtrl_keeps
    | with_reducible apply keeps_ite
    | with_reducible apply keeps_foldl
    | (fail_if_no_progress with_reducible refine keeps_mk ?_ rfl rfl rfl rfl)
    | dsimp only
    | (split <;> (try (rename_i heq; obtain rfl := snd_eq heq)))

theorem State.writeCal_keeps {r s : State} (h : Keeps r s) (off : Nat) (v : Word) :
    Keeps r (State.writeCal s off v) := by
  unfold State.writeCal
  repeat' first
    | with_reducible assumption
    | intro _
    | with_reducible apply State.storeReg_keeps
    | with_reducible apply State.calCtrl_keeps
    | with_reducible apply State.inject_keeps
    | with_reducible apply State.loadCoefShadow_keeps
    | with_reducible apply State.coefCommit_keeps
    | with_reducible apply keeps_ite
    | with_reducible apply keeps_foldl
    | (fail_if_no_progress with_reducible refine keeps_mk ?_ rfl rfl rfl rfl)
    | dsimp only
    | (split <;> (try (rename_i heq; obtain rfl := snd_eq heq)))

theorem State.writeClk_keeps {r s : State} (h : Keeps r s) (off : Nat) (v : Word) :
    Keeps r (State.writeClk s off v) := by
  unfold State.writeClk
  repeat' first
    | with_reducible assumption
    | intro _
    | with_reducible apply State.storeReg_keeps
    | with_reducible apply State.useBypass_keeps
    | with_reducible apply State.rateWrite_keeps
    | with_reducible apply State.syncWrite_keeps
    | with_reducible apply State.trimWrite_keeps
    | with_reducible apply State.outWrite_keeps
    | with_reducible apply State.pairStore_keeps
    | with_reducible apply keeps_ite
    | with_reducible apply keeps_foldl
    | (fail_if_no_progress with_reducible refine keeps_mk ?_ rfl rfl rfl rfl)
    | dsimp only
    | (split <;> (try (rename_i heq; obtain rfl := snd_eq heq)))

theorem State.writeTrig_keeps {r s : State} (h : Keeps r s) (off : Nat) (v : Word) :
    Keeps r (State.writeTrig s off v) := by
  unfold State.writeTrig
  repeat' first
    | with_reducible assumption
    | intro _
    | with_reducible apply State.storeReg_keeps
    | with_reducible apply State.applyWrite_keeps
    | with_reducible apply State.cutPins_keeps
    | with_reducible apply keeps_ite
    | with_reducible apply keeps_foldl
    | (fail_if_no_progress with_reducible refine keeps_mk ?_ rfl rfl rfl rfl)
    | dsimp only
    | (split <;> (try (rename_i heq; obtain rfl := snd_eq heq)))

theorem State.writeLane_keeps {r s : State} (h : Keeps r s) (off : Nat) (v : Word) :
    Keeps r (State.writeLane s off v) := by
  unfold State.writeLane
  repeat' first
    | with_reducible assumption
    | intro _
    | with_reducible apply State.storeReg_keeps
    | with_reducible apply State.coefWrite_keeps
    | with_reducible apply State.sealWrite_keeps
    | with_reducible apply State.shadowWrite_keeps
    | with_reducible apply keeps_ite
    | with_reducible apply keeps_foldl
    | (fail_if_no_progress with_reducible refine keeps_mk ?_ rfl rfl rfl rfl)
    | dsimp only
    | (split <;> (try (rename_i heq; obtain rfl := snd_eq heq)))

theorem State.writeBeam_keeps {r s : State} (h : Keeps r s) (off : Nat) (v : Word) :
    Keeps r (State.writeBeam s off v) := by
  unfold State.writeBeam
  repeat' first
    | with_reducible assumption
    | intro _
    | with_reducible apply State.storeReg_keeps
    | with_reducible apply State.jobCtrl_keeps
    | with_reducible apply State.descWrite_keeps
    | with_reducible apply keeps_ite
    | with_reducible apply keeps_foldl
    | (fail_if_no_progress with_reducible refine keeps_mk ?_ rfl rfl rfl rfl)
    | dsimp only
    | (split <;> (try (rename_i heq; obtain rfl := snd_eq heq)))

theorem State.writeMem_keeps {r s : State} (h : Keeps r s) (off : Nat) (v : Word) :
    Keeps r (State.writeMem s off v) := by
  unfold State.writeMem
  repeat' first
    | with_reducible assumption
    | intro _
    | with_reducible apply State.storeReg_keeps
    | with_reducible apply State.pcCtrl_keeps
    | with_reducible apply State.freqWrite_keeps
    | with_reducible apply keeps_ite
    | with_reducible apply keeps_foldl
    | (fail_if_no_progress with_reducible refine keeps_mk ?_ rfl rfl rfl rfl)
    | dsimp only
    | (split <;> (try (rename_i heq; obtain rfl := snd_eq heq)))

theorem State.queueOnlyOff_keeps {r s : State} (h : Keeps r s) (q : Nat) (k : State → State) (hk : ∀ t, Keeps r t → Keeps r (k t)) :
    Keeps r (State.queueOnlyOff s q k) := by
  unfold State.queueOnlyOff
  repeat' first
    | with_reducible assumption
    | intro _
    | with_reducible apply hk
    | with_reducible apply State.queueEvent_keeps
    | with_reducible apply keeps_ite
    | with_reducible apply keeps_foldl
    | (fail_if_no_progress with_reducible refine keeps_mk ?_ rfl rfl rfl rfl)
    | dsimp only
    | (split <;> (try (rename_i heq; obtain rfl := snd_eq heq)))

theorem State.writeDma_keeps {r s : State} (h : Keeps r s) (off : Nat) (v : Word) :
    Keeps r (State.writeDma s off v) := by
  unfold State.writeDma
  repeat' first
    | with_reducible assumption
    | intro _
    | with_reducible apply State.releaseVector_keeps
    | with_reducible apply State.storeReg_keeps
    | with_reducible apply State.queueCfg_keeps
    | with_reducible apply State.freeProd_keeps
    | with_reducible apply State.compCons_keeps
    | with_reducible apply State.chanCtrl_keeps
    | with_reducible apply State.dmaCtrl_keeps
    | with_reducible apply State.chanCfg_keeps
    | with_reducible apply State.pairStore_keeps
    | with_reducible apply State.queueOnlyOff_keeps
    | with_reducible apply keeps_ite
    | with_reducible apply keeps_foldl
    | (fail_if_no_progress with_reducible refine keeps_mk ?_ rfl rfl rfl rfl)
    | dsimp only
    | (split <;> (try (rename_i heq; obtain rfl := snd_eq heq)))

theorem State.writeDisp_keeps {r s : State} (h : Keeps r s) (off : Nat) (v : Word) :
    Keeps r (State.writeDisp s off v) := by
  unfold State.writeDisp
  repeat' first
    | with_reducible assumption
    | intro _
    | with_reducible apply State.storeReg_keeps
    | with_reducible apply State.dispShadow_keeps
    | with_reducible apply State.dispCtrl_keeps
    | with_reducible apply State.timingCommit_keeps
    | with_reducible apply State.auxStart_keeps
    | with_reducible apply State.lutCommit_keeps
    | with_reducible apply State.cursorWrite_keeps
    | with_reducible apply State.pairWrite_keeps
    | with_reducible apply keeps_ite
    | with_reducible apply keeps_foldl
    | (fail_if_no_progress with_reducible refine keeps_mk ?_ rfl rfl rfl rfl)
    | dsimp only
    | (split <;> (try (rename_i heq; obtain rfl := snd_eq heq)))

theorem State.writeBbx_keeps {r s : State} (h : Keeps r s) (off : Nat) (v : Word) :
    Keeps r (State.writeBbx s off v) := by
  unfold State.writeBbx
  repeat' first
    | with_reducible assumption
    | intro _
    | with_reducible apply State.storeReg_keeps
    | with_reducible apply State.holdLo_keeps
    | with_reducible apply State.bbxCtrl_keeps
    | with_reducible apply State.readSelLoad_keeps
    | with_reducible apply State.annotate_keeps
    | with_reducible apply State.eraseCtrl_keeps
    | with_reducible apply State.pairStore_keeps
    | with_reducible apply keeps_ite
    | with_reducible apply keeps_foldl
    | (fail_if_no_progress with_reducible refine keeps_mk ?_ rfl rfl rfl rfl)
    | dsimp only
    | (split <;> (try (rename_i heq; obtain rfl := snd_eq heq)))

theorem State.writeReg_keeps {r s : State} (h : Keeps r s) (off : Nat) (v : Word) :
    Keeps r (State.writeReg s off v) := by
  unfold State.writeReg
  repeat' first
    | with_reducible assumption
    | intro _
    | with_reducible apply State.w1cClear_keeps
    | with_reducible apply State.storeReg_keeps
    | with_reducible apply State.refWrite_keeps
    | with_reducible apply State.ctxClear_keeps
    | with_reducible apply State.strmCtrl_keeps
    | with_reducible apply State.ctxWrite_keeps
    | with_reducible apply State.pairCtrl_keeps
    | with_reducible apply State.writeDev_keeps
    | with_reducible apply State.writeDraft_keeps
    | with_reducible apply State.writeAxis_keeps
    | with_reducible apply State.writeLoom_keeps
    | with_reducible apply State.writeCal_keeps
    | with_reducible apply State.writeClk_keeps
    | with_reducible apply State.writeTrig_keeps
    | with_reducible apply State.writeLane_keeps
    | with_reducible apply State.writeBeam_keeps
    | with_reducible apply State.writeMem_keeps
    | with_reducible apply State.writeDma_keeps
    | with_reducible apply State.writeDisp_keeps
    | with_reducible apply State.writeBbx_keeps
    | with_reducible apply keeps_ite
    | with_reducible apply keeps_foldl
    | (fail_if_no_progress with_reducible refine keeps_mk ?_ rfl rfl rfl rfl)
    | dsimp only
    | (split <;> (try (rename_i heq; obtain rfl := snd_eq heq)))

end Sys2Proof.Machine
end

