-- ==== Sys2Proof/Laws/KeepsHost.lean ====
section
/-! SUPPORT. What every operation of Machine/Host.lean keeps: the queue, the fabric clock, the canonical form of the register
file and every burnt fuse. -/

set_option linter.all false

namespace Sys2Proof.Machine

theorem State.writeWord_keeps {r s : State} (h : Keeps r s) (off : Nat) (v : Word) (be : BitVec 4) :
    Keeps r (State.writeWord s off v be) := by
  unfold State.writeWord
  repeat' first
    | with_reducible assumption
    | intro _
    | with_reducible apply State.hwSet_keeps
    | with_reducible apply State.hostWrite_keeps
    | with_reducible apply State.writeReg_keeps
    | with_reducible apply keeps_ite
    | with_reducible apply keeps_foldl
    | (fail_if_no_progress with_reducible refine keeps_mk ?_ rfl rfl rfl rfl)
    | dsimp only
    | (split <;> (try (rename_i heq; obtain rfl := snd_eq heq)))

theorem execRegisterWrite_keeps {r s : State} (h : Keeps r s) (off : Nat) (v : Word) (be : BitVec 4) (high : Option (Word × BitVec 4) := none) (levels : Option Levels := none) :
    KeepsOut r (execRegisterWrite off v be s high levels) := by
  unfold execRegisterWrite
  repeat' first
    | with_reducible assumption
    | intro _
    | with_reducible apply State.levelsNow_keeps
    | with_reducible apply State.writeWord_keeps
    | with_reducible apply keeps_ite
    | with_reducible apply keeps_foldl
    | (fail_if_no_progress with_reducible refine keeps_mk ?_ rfl rfl rfl rfl)
    | with_reducible apply keepsOut_next
    | with_reducible apply keepsOut_fault
    | with_reducible apply keepsOut_ite
    | dsimp only
    | (split <;> (try (rename_i heq; obtain rfl := snd_eq heq)))

theorem execPairedWrite_keeps {r s : State} (h : Keeps r s) (off : Nat) (v : Word) :
    KeepsOut r (execPairedWrite off v s) := by
  unfold execPairedWrite
  repeat' first
    | with_reducible assumption
    | intro _
    | with_reducible apply State.hostWrite_keeps
    | with_reducible apply State.writeReg_keeps
    | with_reducible apply keeps_ite
    | with_reducible apply keeps_foldl
    | (fail_if_no_progress with_reducible refine keeps_mk ?_ rfl rfl rfl rfl)
    | with_reducible apply keepsOut_next
    | with_reducible apply keepsOut_fault
    | with_reducible apply keepsOut_ite
    | dsimp only
    | (split <;> (try (rename_i heq; obtain rfl := snd_eq heq)))

theorem execW1cWrite_keeps {r s : State} (h : Keeps r s) (off : Nat) (v : Word) :
    KeepsOut r (execW1cWrite off v s) := by
  unfold execW1cWrite
  repeat' first
    | with_reducible assumption
    | intro _
    | with_reducible apply State.w1cClear_keeps
    | with_reducible apply State.hostWrite_keeps
    | with_reducible apply keeps_ite
    | with_reducible apply keeps_foldl
    | (fail_if_no_progress with_reducible refine keeps_mk ?_ rfl rfl rfl rfl)
    | with_reducible apply keepsOut_next
    | with_reducible apply keepsOut_fault
    | with_reducible apply keepsOut_ite
    | dsimp only
    | (split <;> (try (rename_i heq; obtain rfl := snd_eq heq)))

theorem execLatchingRead_keeps {r s : State} (h : Keeps r s) (off : Nat) (size : ReadSize := .enables 15) (levels : Option Levels := none) :
    KeepsOut r (execLatchingRead off s size levels) := by
  unfold execLatchingRead
  repeat' first
    | with_reducible assumption
    | intro _
    | with_reducible apply State.levelsNow_keeps
    | with_reducible apply State.hostReadOf_keeps
    | with_reducible apply keeps_ite
    | with_reducible apply keeps_foldl
    | (fail_if_no_progress with_reducible refine keeps_mk ?_ rfl rfl rfl rfl)
    | with_reducible apply keepsOut_next
    | with_reducible apply keepsOut_fault
    | with_reducible apply keepsOut_ite
    | dsimp only
    | (split <;> (try (rename_i heq; obtain rfl := snd_eq heq)))

theorem execRclRead_keeps {r s : State} (h : Keeps r s) (off : Nat) (size : ReadSize := .enables 15) :
    KeepsOut r (execRclRead off s size) := by
  unfold execRclRead
  repeat' first
    | with_reducible assumption
    | intro _
    | with_reducible apply State.hostReadOf_keeps
    | with_reducible apply keeps_ite
    | with_reducible apply keeps_foldl
    | (fail_if_no_progress with_reducible refine keeps_mk ?_ rfl rfl rfl rfl)
    | with_reducible apply keepsOut_next
    | with_reducible apply keepsOut_fault
    | with_reducible apply keepsOut_ite
    | dsimp only
    | (split <;> (try (rename_i heq; obtain rfl := snd_eq heq)))

theorem execMonPop_keeps {r s : State} (h : Keeps r s) (size : ReadSize := .enables 15) :
    KeepsOut r (execMonPop s size) := by
  unfold execMonPop
  repeat' first
    | with_reducible assumption
    | intro _
    | with_reducible apply State.hostRead_keeps
    | with_reducible apply keeps_ite
    | with_reducible apply keeps_foldl
    | (fail_if_no_progress with_reducible refine keeps_mk ?_ rfl rfl rfl rfl)
    | with_reducible apply keepsOut_next
    | with_reducible apply keepsOut_fault
    | with_reducible apply keepsOut_ite
    | dsimp only
    | (split <;> (try (rename_i heq; obtain rfl := snd_eq heq)))

theorem execPeek0Read_keeps {r s : State} (h : Keeps r s) (size : ReadSize := .enables 15) :
    KeepsOut r (execPeek0Read s size) := by
  unfold execPeek0Read
  repeat' first
    | with_reducible assumption
    | intro _
    | with_reducible apply State.hostReadOf_keeps
    | with_reducible apply keeps_ite
    | with_reducible apply keeps_foldl
    | (fail_if_no_progress with_reducible refine keeps_mk ?_ rfl rfl rfl rfl)
    | with_reducible apply keepsOut_next
    | with_reducible apply keepsOut_fault
    | with_reducible apply keepsOut_ite
    | dsimp only
    | (split <;> (try (rename_i heq; obtain rfl := snd_eq heq)))

theorem execPcieLinkUp_keeps {r s : State} (h : Keeps r s) (width : Fin 17) (rate : Fin 6) (cfg : PcieConfig := PcieConfig.init) :
    KeepsOut r (execPcieLinkUp width rate s cfg) := by
  unfold execPcieLinkUp
  repeat' first
    | with_reducible assumption
    | intro _
    | with_reducible apply State.setF_keeps
    | with_reducible apply keeps_ite
    | with_reducible apply keeps_foldl
    | (fail_if_no_progress with_reducible refine keeps_mk ?_ rfl rfl rfl rfl)
    | with_reducible apply keepsOut_next
    | with_reducible apply keepsOut_fault
    | with_reducible apply keepsOut_ite
    | dsimp only
    | (split <;> (try (rename_i heq; obtain rfl := snd_eq heq)))

end Sys2Proof.Machine
end

