-- ==== Sys2Proof/Laws/KeepsTick.lean ====
section
/-! SUPPORT. What every operation of Machine/Tick.lean keeps: the queue, the fabric clock, the canonical form of the register
file and every burnt fuse. -/

set_option linter.all false

namespace Sys2Proof.Machine

theorem State.spansTick_keeps {r s : State} (h : Keeps r s) :
    Keeps r (State.spansTick s) := by
  unfold State.spansTick
  repeat' first
    | with_reducible assumption
    | intro _
    | with_reducible apply keeps_ite
    | with_reducible apply keeps_foldl
    | (fail_if_no_progress with_reducible refine keeps_mk ?_ rfl rfl rfl rfl)
    | dsimp only
    | (split <;> (try (rename_i heq; obtain rfl := snd_eq heq)))

theorem State.deferredTick_keeps {r s : State} (h : Keeps r s) :
    Keeps r (State.deferredTick s) := by
  unfold State.deferredTick
  repeat' first
    | with_reducible assumption
    | intro _
    | with_reducible apply State.deferredDue_keeps
    | with_reducible apply keeps_ite
    | with_reducible apply keeps_foldl
    | (fail_if_no_progress with_reducible refine keeps_mk ?_ rfl rfl rfl rfl)
    | dsimp only
    | (split <;> (try (rename_i heq; obtain rfl := snd_eq heq)))

theorem State.writesTick_keeps {r s : State} (h : Keeps r s) :
    Keeps r (State.writesTick s) := by
  unfold State.writesTick
  repeat' first
    | with_reducible assumption
    | intro _
    | with_reducible apply State.withPair_keeps
    | with_reducible apply State.writeReg_keeps
    | with_reducible apply keeps_ite
    | with_reducible apply keeps_foldl
    | (fail_if_no_progress with_reducible refine keeps_mk ?_ rfl rfl rfl rfl)
    | dsimp only
    | (split <;> (try (rename_i heq; obtain rfl := snd_eq heq)))

theorem State.evaluationsTick_keeps {r s : State} (h : Keeps r s) :
    Keeps r (State.evaluationsTick s) := by
  unfold State.evaluationsTick
  repeat' first
    | with_reducible assumption
    | intro _
    | with_reducible apply State.finishSwap_keeps
    | with_reducible apply State.loomTick_keeps
    | with_reducible apply State.followTick_keeps
    | with_reducible apply keeps_ite
    | with_reducible apply keeps_foldl
    | (fail_if_no_progress with_reducible refine keeps_mk ?_ rfl rfl rfl rfl)
    | dsimp only
    | (split <;> (try (rename_i heq; obtain rfl := snd_eq heq)))

theorem State.shadowTick_keeps {r s : State} (h : Keeps r s) :
    Keeps r (State.shadowTick s) := by
  unfold State.shadowTick
  repeat' first
    | with_reducible assumption
    | intro _
    | with_reducible apply State.confirmAll_keeps
    | with_reducible apply State.retireShadow_keeps
    | with_reducible apply keeps_ite
    | with_reducible apply keeps_foldl
    | (fail_if_no_progress with_reducible refine keeps_mk ?_ rfl rfl rfl rfl)
    | dsimp only
    | (split <;> (try (rename_i heq; obtain rfl := snd_eq heq)))

theorem State.loomClock_keeps {r s : State} (h : Keeps r s) :
    Keeps r (State.loomClock s) := by
  unfold State.loomClock
  repeat' first
    | with_reducible assumption
    | intro _
    | with_reducible apply State.swapDue_keeps
    | with_reducible apply State.cancelLate_keeps
    | with_reducible apply State.releasesDue_keeps
    | with_reducible apply State.enablesTick_keeps
    | with_reducible apply State.stopDone_keeps
    | with_reducible apply State.evaluationsTick_keeps
    | with_reducible apply keeps_ite
    | with_reducible apply keeps_foldl
    | (fail_if_no_progress with_reducible refine keeps_mk ?_ rfl rfl rfl rfl)
    | dsimp only
    | (split <;> (try (rename_i heq; obtain rfl := snd_eq heq)))

theorem State.clockEnds_keeps {r s : State} (h : Keeps r s) :
    Keeps r (State.clockEnds s) := by
  unfold State.clockEnds
  repeat' first
    | with_reducible assumption
    | intro _
    | with_reducible apply State.monSettle_keeps
    | with_reducible apply State.overSettle_keeps
    | with_reducible apply State.expireHold_keeps
    | with_reducible apply State.bbxSettle_keeps
    | with_reducible apply State.accSettle_keeps
    | with_reducible apply State.opensSettle_keeps
    | with_reducible apply State.lanesTick_keeps
    | with_reducible apply State.dmaSettle_keeps
    | with_reducible apply State.freezesEnd_keeps
    | with_reducible apply State.selftestSettle_keeps
    | with_reducible apply State.strmSettle_keeps
    | with_reducible apply State.matchTick_keeps
    | with_reducible apply State.pairSettle_keeps
    | with_reducible apply State.writesTick_keeps
    | with_reducible apply keeps_ite
    | with_reducible apply keeps_foldl
    | (fail_if_no_progress with_reducible refine keeps_mk ?_ rfl rfl rfl rfl)
    | dsimp only
    | (split <;> (try (rename_i heq; obtain rfl := snd_eq heq)))

theorem State.clockBegins_keeps {r s : State} (h : Keeps r s) :
    Keeps r (State.clockBegins s) := by
  unfold State.clockBegins
  repeat' first
    | with_reducible assumption
    | intro _
    | with_reducible apply State.axisTick_keeps
    | with_reducible apply State.calTick_keeps
    | with_reducible apply State.marksShow_keeps
    | with_reducible apply State.clkTick_keeps
    | with_reducible apply State.refTakes_keeps
    | with_reducible apply State.dmaTick_keeps
    | with_reducible apply State.memTick_keeps
    | with_reducible apply State.pinsTick_keeps
    | with_reducible apply State.spansTick_keeps
    | with_reducible apply State.deferredTick_keeps
    | with_reducible apply State.writesTick_keeps
    | with_reducible apply State.shadowTick_keeps
    | with_reducible apply State.loomClock_keeps
    | with_reducible apply keeps_ite
    | with_reducible apply keeps_foldl
    | (fail_if_no_progress with_reducible refine keeps_mk ?_ rfl rfl rfl rfl)
    | dsimp only
    | (split <;> (try (rename_i heq; obtain rfl := snd_eq heq)))

end Sys2Proof.Machine
end

