-- ==== Sys2Proof/Laws/KeepsStep.lean ====
section
/-! SUPPORT. What every command keeps, and what a fabric clock keeps: the lemmas about exec and tick that the invariants of
the whole machine rest on. -/

set_option linter.all false

namespace Sys2Proof.Machine

/-- Every command keeps the queue, the fabric clock, the canonical register file and the burnt fuses. -/
theorem exec_keeps (i : Instr) (s : State) : KeepsOut s (exec i s) := by
  have h := Keeps.refl s
  unfold exec
  match i with
  | .aonValid x0 x1 x2 x3 x4 => exact execAonValid_keeps h _ _ _ _ _
  | .railLoss x0 x1 x2 x3 x4 => exact execRailLoss_keeps h _ _ _ _ _
  | .aonLoss x0 => exact execAonLoss_keeps h _
  | .seqViolation x0 x1 => exact execSeqViolation_keeps h _ _
  | .railSequenceComplete x0 x1 => exact execRailSequenceComplete_keeps h _ _
  | .perstAssert x0 x1 => exact execPerstAssert_keeps h _ _
  | .perstRelease => exact execPerstRelease_keeps h
  | .flashLoadDone x0 => exact execFlashLoadDone_keeps h _
  | .hbmTrainingDone x0 => exact execHbmTrainingDone_keeps h _
  | .loaded => exact execLoaded_keeps h
  | .selftestDone x0 x1 => exact execSelftestDone_keeps h _ _
  | .selftestTimeout x0 x1 => exact execSelftestTimeout_keeps h _ _
  | .reload x0 x1 => exact execReload_keeps h _ _
  | .check => exact execCheck_keeps h
  | .checkDone => exact execCheckDone_keeps h
  | .stageData x0 => exact execStageData_keeps h _
  | .stageAddr x0 => exact execStageAddr_keeps h _
  | .burnKey x0 => exact execBurnKey_keeps h _
  | .burnSignedOnly x0 => exact execBurnSignedOnly_keeps h _
  | .burnDone x0 x1 => exact execBurnDone_keeps h _ _
  | .compatWrite x0 => exact execCompatWrite_keeps h _
  | .run x0 => exact execRun_keeps h _
  | .stop x0 => exact execStop_keeps h _
  | .stopComplete => exact execStopComplete_keeps h
  | .cursorEn x0 => exact execCursorEn_keeps h _
  | .treadMatch x0 => exact execTreadMatch_keeps h _
  | .nop x0 => exact execNop_keeps h _
  | .arm x0 x1 => exact execArm_keeps h _ _
  | .disarm x0 => exact execDisarm_keeps h _
  | .openSegment x0 x1 => exact execOpenSegment_keeps h _ _
  | .close x0 => exact execClose_keeps h _
  | .laneSwap x0 => exact execLaneSwap_keeps h _
  | .coefSwap x0 x1 x2 => exact execCoefSwap_keeps h _ _ _
  | .accStart x0 => exact execAccStart_keeps h _
  | .accStop x0 => exact execAccStop_keeps h _
  | .accFold x0 => exact execAccFold_keeps h _
  | .trigOut x0 x1 => exact execTrigOut_keeps h _ _
  | .trigOutPulseEnd x0 => exact execTrigOutPulseEnd_keeps h _
  | .marker x0 x1 x2 => exact execMarker_keeps h _ _ _
  | .flag x0 x1 => exact execFlag_keeps h _ _
  | .irq x0 => exact execIrq_keeps h _
  | .axisCmp x0 x1 => exact execAxisCmp_keeps h _ _
  | .doorbell x0 => exact execDoorbell_keeps h _
  | .swapReq x0 => exact execSwapReq_keeps h _
  | .swapCancel => exact execSwapCancel_keeps h
  | .swapDone => exact execSwapDone_keeps h
  | .treadWindowWrite x0 x1 => exact execTreadWindowWrite_keeps h _ _
  | .ctxWindowWrite x0 x1 x2 => exact execCtxWindowWrite_keeps h _ _ _
  | .axisCfgWrite x0 => exact execAxisCfgWrite_keeps h _
  | .axisQuadEdge x0 x1 x2 x3 => exact execAxisQuadEdge_keeps h _ _ _ _
  | .axisRefEdge x0 x1 => exact execAxisRefEdge_keeps h _ _
  | .axisIndexEdge x0 x1 => exact execAxisIndexEdge_keeps h _ _
  | .enterCoast => exact execEnterCoast_keeps h
  | .enterStalled => exact execEnterStalled_keeps h
  | .pairedWrite x0 x1 => exact execPairedWrite_keeps h _ _
  | .latchingRead x0 x1 x2 => exact execLatchingRead_keeps h _ _ _
  | .rclRead x0 x1 => exact execRclRead_keeps h _ _
  | .w1cWrite x0 x1 => exact execW1cWrite_keeps h _ _
  | .registerWrite x0 x1 x2 x3 x4 => exact execRegisterWrite_keeps h _ _ _ _ _
  | .refSelWrite x0 x1 => exact execRefSelWrite_keeps h _ _
  | .refSettled x0 => exact execRefSettled_keeps h _
  | .extFault => exact execExtFault_keeps h
  | .calCtrlWrite x0 => exact execCalCtrlWrite_keeps h _
  | .calStart => exact execCalStart_keeps h
  | .sweepPeriodExpiry => exact execSweepPeriodExpiry_keeps h
  | .captureStart x0 => exact execCaptureStart_keeps h _
  | .captureEnd x0 x1 => exact execCaptureEnd_keeps h _ _
  | .visitEnd x0 x1 => exact execVisitEnd_keeps h _ _
  | .inj x0 => exact execInj_keeps h _
  | .injRunning x0 => exact execInjRunning_keeps h _
  | .injDone x0 x1 => exact execInjDone_keeps h _ _
  | .monPop x0 => exact execMonPop_keeps h _
  | .calSel x0 => exact execCalSel_keeps h _
  | .coefCommit => exact execCoefCommit_keeps h
  | .clkRateGo x0 x1 => exact execClkRateGo_keeps h _ _
  | .entryStale => exact execEntryStale_keeps h
  | .pllLockDeclared x0 x1 x2 x3 => exact execPllLockDeclared_keeps h _ _ _ _
  | .pllOutputsOpen x0 x1 x2 => exact execPllOutputsOpen_keeps h _ _ _
  | .pllLockTimeout x0 => exact execPllLockTimeout_keeps h _
  | .unlock x0 x1 => exact execUnlock_keeps h _ _
  | .refLost x0 => exact execRefLost_keeps h _
  | .refReturn x0 x1 x2 x3 => exact execRefReturn_keeps h _ _ _ _
  | .realignRestart x0 => exact execRealignRestart_keeps h _
  | .holdExpired x0 => exact execHoldExpired_keeps h _
  | .sclkLost x0 => exact execSclkLost_keeps h _
  | .syncInEdge x0 => exact execSyncInEdge_keeps h _
  | .pairTrimWrite x0 => exact execPairTrimWrite_keeps h _
  | .clkOutEnWrite x0 x1 x2 => exact execClkOutEnWrite_keeps h _ _ _
  | .apply x0 => exact execApply_keeps h _
  | .triggerReport x0 x1 x2 x3 => exact execTriggerReport_keeps h _ _ _ _
  | .auxTrigEdge x0 x1 x2 => exact execAuxTrigEdge_keeps h _ _ _
  | .seal x0 => exact execSeal_keeps h _
  | .sealNow x0 => exact execSealNow_keeps h _
  | .deferredHandover x0 => exact execDeferredHandover_keeps h _
  | .coefWindowWrite x0 x1 x2 => exact execCoefWindowWrite_keeps h _ _ _
  | .laneParamWrite x0 x1 x2 => exact execLaneParamWrite_keeps h _ _ _
  | .segmentClose x0 x1 x2 => exact execSegmentClose_keeps h _ _ _
  | .recordReady x0 x1 => exact execRecordReady_keeps h _ _
  | .recordHanded x0 => exact execRecordHanded_keeps h _
  | .ctxClear x0 => exact execCtxClear_keeps h _
  | .place x0 => exact execPlace_keeps h _
  | .releaseJob x0 => exact execReleaseJob_keeps h _
  | .jobDescriptorWrite x0 x1 x2 => exact execJobDescriptorWrite_keeps h _ _ _
  | .prepareDone x0 => exact execPrepareDone_keeps h _
  | .drainDone x0 => exact execDrainDone_keeps h _
  | .unloadDone x0 => exact execUnloadDone_keeps h _
  | .resultBufferFree x0 => exact execResultBufferFree_keeps h _
  | .beamFree x0 => exact execBeamFree_keeps h _
  | .beamUncorr x0 x1 => exact execBeamUncorr_keeps h _ _
  | .beamCorrected x0 => exact execBeamCorrected_keeps h _
  | .peekSel x0 => exact execPeekSel_keeps h _
  | .peek0Read x0 => exact execPeek0Read_keeps h _
  | .hbmFreeze x0 x1 x2 => exact execHbmFreeze_keeps h _ _ _
  | .hbmCorrected x0 => exact execHbmCorrected_keeps h _
  | .release x0 => exact execRelease_keeps h _
  | .releaseDone x0 x1 => exact execReleaseDone_keeps h _ _
  | .hbmUnreadable x0 x1 x2 x3 => exact execHbmUnreadable_keeps h _ _ _ _
  | .retire x0 => exact execRetire_keeps h _
  | .freqGo x0 => exact execFreqGo_keeps h _
  | .freqDeferredStart => exact execFreqDeferredStart_keeps h
  | .freqDone x0 => exact execFreqDone_keeps h _
  | .trackPass x0 x1 => exact execTrackPass_keeps h _ _
  | .bar2Read x0 => exact execBar2Read_keeps h _
  | .bar2Write => exact execBar2Write_keeps h
  | .quotaWindowEnd x0 => exact execQuotaWindowEnd_keeps h _
  | .dqEnable x0 x1 => exact execDqEnable_keeps h _ _
  | .dqDisable x0 x1 => exact execDqDisable_keeps h _ _
  | .freeProd x0 x1 => exact execFreeProd_keeps h _ _
  | .compCons x0 x1 => exact execCompCons_keeps h _ _
  | .descriptorPrefetch x0 x1 => exact execDescriptorPrefetch_keeps h _ _
  | .dmaBurstStart x0 x1 => exact execDmaBurstStart_keeps h _ _
  | .completionRecordWrite x0 x1 => exact execCompletionRecordWrite_keeps h _ _
  | .coalTimeExpiry x0 => exact execCoalTimeExpiry_keeps h _
  | .pacedRequest x0 x1 x2 => exact execPacedRequest_keeps h _ _ _
  | .pacedWithdraw x0 => exact execPacedWithdraw_keeps h _
  | .busError x0 x1 x2 x3 => exact execBusError_keeps h _ _ _ _
  | .allStop x0 x1 x2 => exact execAllStop_keeps h _ _ _
  | .resume x0 => exact execResume_keeps h _
  | .restart x0 => exact execRestart_keeps h _
  | .dmaReset => exact execDmaReset_keeps h
  | .dmaResetDone => exact execDmaResetDone_keeps h
  | .dmaChCfgWrite x0 x1 => exact execDmaChCfgWrite_keeps h _ _
  | .d3hotEntry => exact execD3hotEntry_keeps h
  | .d0Return => exact execD0Return_keeps h
  | .streamFrameStart => exact execStreamFrameStart_keeps h
  | .streamFrameSent => exact execStreamFrameSent_keeps h
  | .credit x0 x1 => exact execCredit_keeps h _ _
  | .ack x0 x1 => exact execAck_keeps h _ _
  | .resend x0 x1 => exact execResend_keeps h _ _
  | .hello x0 x1 x2 => exact execHello_keeps h _ _ _
  | .streamLinkDown => exact execStreamLinkDown_keeps h
  | .stall => exact execStall_keeps h
  | .rxFecUncorrectable => exact execRxFecUncorrectable_keeps h
  | .dispEn x0 => exact execDispEn_keeps h _
  | .dispStop => exact execDispStop_keeps h
  | .hpdAssert => exact execHpdAssert_keeps h
  | .hpdLost => exact execHpdLost_keeps h
  | .hpdIrq => exact execHpdIrq_keeps h
  | .trainingDone x0 => exact execTrainingDone_keeps h _
  | .timingCommit => exact execTimingCommit_keeps h
  | .verticalBlank x0 => exact execVerticalBlank_keeps h _
  | .pixclkRelocked => exact execPixclkRelocked_keeps h
  | .auxCmd x0 => exact execAuxCmd_keeps h _
  | .auxDone x0 x1 => exact execAuxDone_keeps h _ _
  | .lutCommit => exact execLutCommit_keeps h
  | .cursorPageWrite x0 x1 x2 => exact execCursorPageWrite_keeps h _ _ _
  | .recordMade x0 x1 x2 => exact execRecordMade_keeps h _ _ _
  | .recordCommitted x0 x1 => exact execRecordCommitted_keeps h _ _
  | .retry x0 x1 => exact execRetry_keeps h _ _
  | .snapLatch => exact execSnapLatch_keeps h
  | .snapRelease => exact execSnapRelease_keeps h
  | .readSelLoad x0 => exact execReadSelLoad_keeps h _
  | .annot x0 => exact execAnnot_keeps h _
  | .eraseReq x0 => exact execEraseReq_keeps h _
  | .eraseGo x0 => exact execEraseGo_keeps h _
  | .challengeExpiry => exact execChallengeExpiry_keeps h
  | .timeSave x0 => exact execTimeSave_keeps h _
  | .i2cWrite x0 x1 x2 x3 => exact execI2cWrite_keeps h _ _ _ _
  | .i2cRead x0 => exact execI2cRead_keeps h _
  | .i2cDraftReload x0 => exact execI2cDraftReload_keeps h _
  | .i2cReset x0 x1 => exact execI2cReset_keeps h _ _
  | .i2cSnapLatch => exact execI2cSnapLatch_keeps h
  | .i2cSnapRelease => exact execI2cSnapRelease_keeps h
  | .i2cReadSelLoad x0 => exact execI2cReadSelLoad_keeps h _
  | .form x0 x1 x2 x3 => exact execForm_keeps h _ _ _ _
  | .dissolve => exact execDissolve_keeps h
  | .heartbeatSend => exact execHeartbeatSend_keeps h
  | .heartbeat x0 x1 => exact execHeartbeat_keeps h _ _
  | .heartbeatMissed => exact execHeartbeatMissed_keeps h
  | .pairHelloCell x0 x1 => exact execPairHelloCell_keeps h _ _
  | .formCell x0 x1 x2 x3 x4 x5 => exact execFormCell_keeps h _ _ _ _ _ _
  | .matchCell x0 x1 => exact execMatchCell_keeps h _ _
  | .matchLate => exact execMatchLate_keeps h
  | .write x0 x1 x2 x3 => exact execWrite_keeps h _ _ _ _
  | .hand x0 x1 x2 x3 x4 x5 => exact execHand_keeps h _ _ _ _ _ _
  | .data x0 x1 x2 x3 x4 => exact execData_keeps h _ _ _ _ _
  | .mirrored x0 x1 x2 => exact execMirrored_keeps h _ _ _
  | .pairAckCell x0 x1 x2 x3 x4 => exact execPairAckCell_keeps h _ _ _ _ _
  | .bbx x0 x1 => exact execBbx_keeps h _ _
  | .tenonResend x0 x1 => exact execTenonResend_keeps h _ _
  | .pairFencedNAssert => exact execPairFencedNAssert_keeps h
  | .pairFenceAck => exact execPairFenceAck_keeps h
  | .dropped => exact execDropped_keeps h
  | .phaseMeasure x0 => exact execPhaseMeasure_keeps h _
  | .thermReading x0 x1 => exact execThermReading_keeps h _ _
  | .overvoltage x0 => exact execOvervoltage_keeps h _
  | .ctrlSramUe x0 => exact execCtrlSramUe_keeps h _
  | .fabricClock => exact execFabricClock_keeps h
  | .fatal x0 x1 => exact execFatal_keeps h _ _
  | .freezeTimeout x0 => exact execFreezeTimeout_keeps h _
  | .occSel x0 => exact execOccSel_keeps h _
  | .streamRetrained => exact execStreamRetrained_keeps h
  | .pcieLinkUp x0 x1 x2 => exact execPcieLinkUp_keeps h _ _ _
  | .tenonLinkUp => exact execTenonLinkUp_keeps h
  | .tenonLinkDown => exact execTenonLinkDown_keeps h
  | .sequenceTMaxExpiry x0 => exact execSequenceTMaxExpiry_keeps h _

/-- What holds of two parts of a fabric clock holds of the whole. -/
theorem clock_keeps {s u t : State} (a : Keeps s u) (b : Keeps u.newClock t) :
    t.pending = s.pending ∧ t.time.clk = s.time.clk + 1 ∧ (s.Canon → t.Canon) ∧ Fuses.Le s.board.fuses t.board.fuses :=
  ⟨b.queue.trans a.queue, b.clock.trans (congrArg (· + 1) a.clock), fun c => b.canon (a.canon c), a.fuses.trans b.fuses⟩

/-- A fabric clock keeps the queue, the canonical register file and the burnt fuses, and the clock goes on by one. -/
theorem tick_keeps (s : State) :
    s.tick.pending = s.pending ∧ s.tick.time.clk = s.time.clk + 1 ∧ (s.Canon → s.tick.Canon) ∧
      Fuses.Le s.board.fuses s.tick.board.fuses := by
  have a : Keeps s ({ s with out := [] } : State).clockEnds :=
    State.clockEnds_keeps (keeps_mk (Keeps.refl s) rfl rfl rfl rfl)
  exact clock_keeps a (State.clockBegins_keeps (Keeps.refl _))

end Sys2Proof.Machine
end

