-- ==== Sys2Proof/Tests/Slice0.lean ====
section
/-! SUPPORT. Tests of single steps, ill-formed commands, and witnesses for the hypotheses of the statements. -/

namespace Sys2Proof.Tests

open Sys2Proof Sys2Proof.Machine

set_option Elab.async false

/-- A powered engine with its PCIe link up, in RESET. -/
def up : State := { State.reset with board := { State.reset.board with pcieUp := true } }

/-- The engine in a state, with every port of the structure present. -/
def inState (e : EngState) : State := (up.setF F.DEV_STATE_CUR e.code).setReg Reg.DEV_CAPS 7

/-- The engine in IDLE. -/
def idle : State := inState .idle

/-- IDLE with the image in force and REF_IN at 100 MHz. -/
def clkIdle : State :=
  let s := (idle.setBit F.CLK_STATUS_REF_PRESENT true).setBit F.DRAFT_STATUS_LOADED true
  { s with board := { s.board with ref := .ref100 } }

/-- A state in which a word of CAL.CTRL is in effect. -/
def withCtrl (s : State) (v : Word) : State := { s with cal := { s.cal with ctrl := v } }

/-- RESET with everything done that LOADED waits for. -/
def loadedUp : State :=
  let s : State := { up with board := { up.board with load := none, trained := true } }
  [Pll.spll, Pll.fpll, Pll.mpll, Pll.ppll, Pll.lpll].foldl (fun s p => s.setPll p pllLocked)
    (s.setBit F.DRAFT_STATUS_LOADED true)

/-- A self-test in which nothing fails. -/
def passed : SelftestResults :=
  { draft := none, fuse := none, pllLost := 0, mbist := none, hbmRetire := [], converter := none, serdes := none,
    railOut := none, ms := 100 }

/-- ARMED, with the Loom running. -/
def running : State := (inState .armed).setBit F.LOOM_STATUS_RUNNING true

/-- A live armed context on lane 0. -/
def liveCtx : LiveCtx :=
  { lane := 0, armed := true, release := none, rate := 0, w16 := 0, strm := 0, outRate := 0, holdoff := false, h0 := none,
    h0At := 0, p0 := 0, seen := [], segCseq := 0, segHanded := none }

/-- Context 3 live, with 1,024 samples and a ring that holds them. -/
def live : State :=
  (((running.setLive 3 (some liveCtx)).setReg (Reg.CTX_SEG_LEN_LO 3) 1024).setReg (Reg.CTX_QUOTA 3) 0x1000).setReg
    (Reg.MEM_PC_STATE 0) 1

/-- Context 3 ready to be armed: channel 0, lane profile 0, HBM in service. -/
def armable : State :=
  let s := ((running.setReg (Reg.CTX_SEG_LEN_LO 3) 1024).setReg (Reg.CTX_QUOTA 3) 0x1000).setReg (Reg.CTX_CTL 3) 0x80000001
  let s := (s.setReg Reg.CONV_MODE 0x1F0).setReg (Reg.MEM_PC_STATE 0) 1
  { s with board := { s.board with trained := true } }

/-- A segment of context 3 open since an earlier clock. -/
def opened : State :=
  let s := live.acceptOpen 3 liveCtx ⟨2 ^ 40, 0xFF, false⟩ none
  { s with time := { s.time with clk := s.time.clk + 9 }, seg := { s.seg with undo := [] } }

/-- Lane 0 bound to context 3, with a RANK and an FIR stage. -/
def laneUp : State :=
  let p : LaneSet := { LaneSet.zero with rank := 3, firTaps := 3, firDec := 1 }
  let s := (live.setReg (Reg.LANE_RANK 0) 3).setReg (Reg.LANE_FIR_CFG 0) 0x103
  s.setLane 0 { LaneSt.init with kinds := [1, 3], ctx := some 3, eff := p, since := [0, 0] }

/-- A closed marker record of context 3, wanted by the host. -/
def marked : State :=
  let s := running.setBit (F.CTX_STORE_HOST_EN 3) true
  s.addRecord { s.blankRecord 3 .marker with state := .closing }

/-- The same record, READY. -/
def ready : State :=
  let s := marked.mapRecs (fun _ => true) (fun q => { q with state := .ready })
  { s with time := { s.time with clk := 1 } }

/-- A segment of two samples of context 3, open since an earlier clock. -/
def closable : State :=
  let s := (running.setLive 3 (some liveCtx)).setReg (Reg.CTX_SEG_LEN_LO 3) 2
  s.acceptOpen 3 liveCtx ⟨2 ^ 32, 0xFF, false⟩ none

/-- Its record. -/
def closableRec : Record := (closable.openRec 3).getD (closable.blankRecord 3 .gap)

/-- The samples that the segment stores of twelve equal slice results. -/
def closableKept : List LaneSample :=
  match closable.cutOut closableRec (laneOutputs (closable.lane 0) (closable.correctRun 0 251 (List.replicate 12 5))) false with
  | some (k, _) => k
  | none => []


/-- A state with beam 15 in pool 15 and in service, HBM in service, and job 255 an AVG of 16 columns. -/
def withJob (s : State) : State :=
  let s := (s.setReg (Reg.MEM_PC_STATE 0) 1).setBit (F.BEAM_BEAM_STATUS_IN_SERVICE 15) true
  let s := ((s.setReg (Reg.BEAM_JOB_CFG 255) 0x80000F01).setReg (Reg.BEAM_JOB_WIDTH 255) 16).setReg (Reg.BEAM_JOB_X_DIV 255) 1
  { s with board := { s.board with trained := true }, beam := { s.beam with pools := List.replicate 16 15 } }

/-- IDLE, with that beam and job. -/
def placeable : State := withJob idle

/-- Job 7 PLACED on beam 15, with beam 3 free in its pool. -/
def spareBeam : State :=
  (placeable.setJob 7 { JobSt.init with state := 1, beam := some 15, desc := some (placeable.jobDesc 255) }).setBit
    (F.BEAM_BEAM_STATUS_IN_SERVICE 3) true

/-- Every setting passes on every lane. -/
def openSweep : PcSweep := ⟨List.replicate 38 (BitVec.allOnes 128), List.replicate 38 (BitVec.allOnes 128)⟩

/-- A record of context 3 that pseudo-channel 0 held when it froze. -/
def reread : State :=
  let s := ready.setReg (Reg.MEM_PC_STATE 0) 1
  { s with mem := { s.mem with reread := [(0, [(3, 0)])] } }

/-- A tracking pass in progress. -/
def tracking : State := { placeable with mem := { placeable.mem with track := some ⟨0, 99, [], [], 0⟩ } }

/-- Two requests toward stack 0, the host window having waited its LIMIT. -/
def offering : State :=
  let s := ((placeable.setReg (Reg.MEM_PC_STATE 5) 1).offer 0 ⟨0, true, 0, 64, []⟩).offer 11 ⟨5, false, 64, 64, []⟩
  s.setShuttle 0 { s.shuttle 0 with wait := [(11, 255)] }

/-- Every round of the second shuttle's window made. -/
def windowEnd : State := placeable.setShuttle 1 { placeable.shuttle 1 with round := 1024, got := [(3, 7)] }

/-- Queue 0 enabled on DELIVERY channel 8, rings of 64 entries, buffers of 4 KiB. -/
def withQueue (s : State) : State :=
  ((s.setReg (Reg.DMA_CH_CFG 8) 1).setReg (Reg.DMA_DQ_CFG 0) 0x88006600).setReg (Reg.DMA_DQ_BUF_LEN 0) 1

def queueUp : State := withQueue idle

/-- A marker of context 3 HANDED to queue 0, which has one buffer. -/
def queued : State :=
  let s := (withQueue ready).mapRecs (fun _ => true) (fun q =>
    { q with state := .handed, host := { q.host with gseq := some 5 } })
  s.setReg (Reg.DMA_DQ_FREE_PROD 0) 1

/-- Its descriptor prefetched: a buffer that ends 64 bytes into a page. -/
def moving : State := queued.setQueue 0 { QueueSt.init with ahead := [(0x1FC0, 7)] }

/-- Its record written whole. -/
def moved : State := moving.deliverBurst 8

/-- The same record VISIBLE and not acknowledged. -/
def visible : State :=
  ((queued.mapRecs (fun _ => true) (fun q => { q with host := { q.host with visible := true } })).setReg
    (Reg.DMA_DQ_COMP_PROD 0) 1).setQueue 0 { QueueSt.init with unacked := [(3, 0)] }

/-- Channel 8 HALTED in the second burst of a record. -/
def halted : State :=
  let s := queueUp.setReg (Reg.DMA_CH_STATUS 8) 0x10103
  (s.setQueue 0 { QueueSt.init with cur := some (3, 0), sent := 128 }).setChan 8 { ChanSt.init with last := some (0, 64) }

/-- Channel 8 HALTED by the flush read behind its record. -/
def flushing : State :=
  let s := (moved.setReg (Reg.DMA_CH_STATUS 8) 3).setReg (Reg.DMA_CH_ERR_ADDR_LO 8) 0x1FC0
  s.setQueue 0 { s.queue 0 with flush := some 0x1FC0 }

/-- PACED channel 9 with a request of overlay layer 1. -/
def pacing : State :=
  (idle.setReg (Reg.DMA_CH_CFG 9) 0x01000002).setChan 9 { ChanSt.init with paced := [⟨1, 4, 0x1000, 100, [], false⟩] }

/-- PACED channel 9, overlay layer 1 enabled with eight lines of 16 pixels. -/
def overlayUp : State :=
  let s := (idle.setReg (Reg.DMA_CH_CFG 9) 0x01000002).setBit (F.DISP_LAYER_STATUS_ENABLED 1) true
  { s with disp := { s.disp with eff := [(Reg.DISP_LAYER_SIZE 1, 0x00080010)] } }

/-- A marker HANDED to STREAM and to the host, the stream port UP with credit. -/
def streaming : State :=
  let s := ready.mapRecs (fun _ => true) (fun q =>
    { q with state := .handed, host := { q.host with gseq := some 5 }, stream := { q.stream with wanted := true, gseq := some 0 } })
  (s.setReg Reg.STRM_STATUS 3).setReg Reg.STRM_LIMIT 100

/-- An END frame of the first record. -/
def someBolt : Bolt := { kind := 2, flags := 0, source := 0, fseq := 1, offset := 1, gseq := 0, cseq := 0, payload := [] }

/-- The END frame of the first record in flight, with the record overwritten meanwhile. -/
def overtaken : State :=
  let s := streaming.mapRecs (fun _ => true) (fun q => { q with stream := { q.stream with gap := some .overwritten } })
  { s with strm := { s.strm with flying := true, frame := 1, starts := [(0, 0, [someBolt, someBolt])] } }

/-- The same record VISIBLE at STREAM after its two frames. -/
def streamed : State :=
  let s := streaming.mapRecs (fun _ => true) (fun q => { q with stream := { q.stream with visible := true } })
  { s with strm := { s.strm with gseq := 1, starts := [(0, 0, [someBolt, someBolt])], visible := 1 } }

/-- The display port up with HPD low. -/
def display : State := idle

/-- 3840 x 2160 at 60 Hz in the timing registers (spec/14_display_scanout.md R351). -/
def withMode (s : State) : State :=
  s.setRegs [(Reg.DISP_H_TIMING0, 0x00300F00), (Reg.DISP_H_TIMING1, 0x00500020), (Reg.DISP_V_TIMING0, 0x00030870),
    (Reg.DISP_V_TIMING1, 0x00360005), (Reg.DISP_PIXCLK, 533280)]

/-- The link up and sending pictures at that timing. -/
def scanning : State :=
  let s := ((withMode display).setBit F.DISP_CTRL_EN true).setReg Reg.DISP_STATUS 0x104
  { s with disp := { s.disp with timing := s.timingSet } }

/-- Rectangle 7 covers one pixel of the background. -/
def rectangle : State :=
  { scanning with disp := { scanning.disp with eff :=
    [(Reg.DISP_BACKGROUND, 0x112233), (Reg.DISP_CRC_POS 7, 0x086F0EFF), (Reg.DISP_CRC_SIZE 7, 0x00010001), (Reg.DISP_CRC_CFG 7, 1)] } }

/-- IDLE, with one record waiting and none committed. -/
def made : State :=
  let s : State := { idle with bbx := { idle.bbx with ring := [] } }
  let s := (s.set64 Reg.BBX_NEXT_LO 0).makeRecord 2 1 []
  { s with time := { s.time with clk := s.time.clk + 1 } }

/-- The same record committed. -/
def committed : State :=
  let s := made.commitHead true true
  { s with bbx := { s.bbx with was := [] } }

/-- Every condition of an erase met: the strap, a challenge and its answer. -/
def erasable : State :=
  let s := committed.setBit F.BBX_ERASE_CTRL_STRAP true
  let s : State := { s with board := { s.board with fuses := { s.board.fuses with erasesLeft := 16 } } }
  { s with bbx := { s.bbx with chal := some 5, eraseResp := BitVec.ofNat 128 (leNat (s.eraseAnswer 5)) } }

/-- A PAIRED engine in IDLE with the tenon link up and the next cell expected numbered 5. -/
def linked : State :=
  let s := ((inState .idle).setReg Reg.DEV_CAPS 0x107).setBit F.PAIR_STATUS_LINK_UP true
  { s with pair := { s.pair with expect := some 5, takeover := true } }

/-- The ACTIVE of a formed pair. -/
def protActive : State := (linked.setF F.PAIR_STATUS_ROLE 1).setBit F.PAIR_STATUS_PROTECTED true

/-- A SHADOW with a mirror area in pseudo-channel 0. -/
def mirroring (s : State) : State :=
  let s := ((s.setF F.PAIR_STATUS_ROLE 2).setBit F.PAIR_STATUS_PROTECTED true).setReg Reg.PAIR_MIRROR_QUOTA 65536
  let s := s.setReg (Reg.MEM_PC_STATE 0) 1
  { s with pair := { s.pair with resv := [(0, 65536)] } }

def shadowEngine : State := mirroring linked

/-- A SHADOW whose Loom follows. -/
def following : State :=
  (((mirroring linked).setF F.DEV_STATE_CUR EngState.armed.code).setBit F.LOOM_STATUS_RUNNING true).set64 Reg.CLK_TSC_LO 5000

/-- A mirrored record of context 3 whose header has arrived. -/
def someMirror : Mirror :=
  { ctx := 3, cseq := 9, host := some (7, leBytes 4 2 ++ List.replicate 60 0), stream := none, data := [], toldHost := false,
    toldStream := false, ackHost := false, ackStream := false, pcs := [] }

/-- The cell that arrives next. -/
def nextCell : CellHead := ⟨true, 5, 4000, none⟩

/-- A HELLO of the other engine of the pair. -/
def peerHello : PairHello := ⟨1, true, true, true, [], []⟩

/-- A heartbeat of an unpaired engine. -/
def plainBeat : Heartbeat := ⟨3, false, false, 2, 0⟩

/-- A record of a peer. -/
def peerRec : BbxRecord := made.newRecord 10 1 0 [1, 2, 3]

/-- A SHADOW whose fence is under way. -/
def fencingEngine : State := { shadowEngine with pair := { shadowEngine.pair with fencing := true } }

/-- An engine asked to form the pair that finds nothing against it. -/
def formable : State :=
  { linked with pair := { linked.pair with
      formReq := some ⟨false, true, true, true, 0⟩
      hello := some { peerHello with draftDigest := linked.draftDigest, cfgDigest := linked.configDigest } } }

theorem formable_cause : formable.formCause ⟨false, true, true, true, 0⟩ = 0 := by
  have hd : formable.draftDigest = linked.draftDigest := rfl
  have hc : formable.configDigest = linked.configDigest := rfl
  have hl : formable.bit F.PAIR_STATUS_LINK_UP = true := by decide +kernel
  have hp : formable.bit F.DEV_CAPS_PAIRED = true := by decide +kernel
  have hr : formable.formReady = true := by decide +kernel
  have ha : formable.board.straps.arrayId = 0 := by decide +kernel
  have hs : formable.board.straps.pairRole = false := by decide +kernel
  have he : formable.phaseErr 0 = 0 := by decide +kernel
  unfold State.formCause
  simp only [hd, hc, hl, hp, hr, ha, hs, he]
  simp [formable, peerHello, linked]

/-- A marker of context 3 held by pseudo-channel 0, frozen, its timer running. -/
def heldRec : State :=
  let s := ready.mapRecs (fun _ => true) (fun q =>
    { q with state := .handed, reportPcs := [0], host := { q.host with gseq := some 5 } })
  let s := s.setReg (Reg.MEM_PC_STATE 0) 2
  s.setKeep 3 { s.keepOf 3 with timer := some 1 }
/-- The hypotheses of HostWriteGates can be met. -/
theorem witness_HostWriteGates :
    (let s : State := State.reset; (s.hostReaches = false)) ∧
    (let s : State := { up with time := { up.time with entered := some (0, 3) } }; let off : Nat := 0x10024; (s.hostReaches = true) ∧ (s.resetsNow off = true)) ∧
    (let s : State := idle; let be : BitVec 4 := 7; (s.hostReaches = true) ∧ (be ≠ 15)) ∧
    (let s : State := up; let off : Nat := 0x20000; (s.hostReaches = true) ∧ (s.resetsNow off = false) ∧ (s.closedState = true) ∧ (alwaysOpen (off / 0x10000) = false) ∧ (off / 0x10000 ≤ 0x18)) ∧
    (let s : State := idle.setReg Reg.DEV_CAPS 0; let off : Nat := 0x130000; (s.hostReaches = true) ∧ (s.resetsNow off = false) ∧ (s.closedState = false) ∧ (s.blockAbsent (off / 0x10000) = true) ∧ (off / 0x10000 ≤ 0x18)) ∧
    (let off : Nat := 0x190000; (0x18 < off / 0x10000)) ∧
    (let s : State := (idle.setBit F.PAIR_STATUS_PROTECTED true).setF F.PAIR_STATUS_ROLE 2; let off : Nat := 0x20000; (s.hostReaches = true) ∧ (s.resetsNow off = false) ∧ (s.closedState = false) ∧ (forwardedBlock (off / 0x10000) = true) ∧ (s.isShadow = true)) ∧
    (let s : State := idle; (s.takesWrite Reg.DEV_SCRATCH = true)) ∧
    (let s : State := idle; let off : Nat := Reg.ARB_WINDOW 1; (s.takesWrite off = true) ∧ (off / 0x10000 = 0x11) ∧ (accessAt off ≠ .w1c)) := by
  and_intros <;> decide +kernel

/-- The hypotheses of HostReads can be met. -/
theorem witness_HostReads :
    (let s : State := idle; let lo : Nat := Reg.CLK_TSC_LO; (s.hostReaches = true) ∧ (lo ∈ [Reg.CLK_TSC_LO, Reg.DEV_SERIAL_LO, Reg.BBX_NEXT_LO, Reg.FLT_FATAL_TSC_LO]) ∧ (s.readOpen lo = true) ∧ (optAt s.latched lo = none)) ∧
    (let s : State := idle.latch (Reg.CLK_TSC_LO + 4) 7; let lo : Nat := Reg.CLK_TSC_LO; let v : Word := 7; (s.hostReaches = true) ∧ (lo ∈ [Reg.CLK_TSC_LO, Reg.DEV_SERIAL_LO, Reg.BBX_NEXT_LO, Reg.FLT_FATAL_TSC_LO]) ∧ (s.readOpen (lo + 4) = true) ∧ (optAt s.latched (lo + 4) = some v)) ∧
    (let s : State := { idle.rclAdd Reg.LOOM_LATE_COUNT 3 with time := idle.time }; let off : Nat := Reg.LOOM_LATE_COUNT; (s.hostReaches = true) ∧ (accessAt off = .rcl) ∧ (off ≠ Reg.CAL_MON_POP) ∧ (off < Reg.FLT_OCC 0 ∨ Reg.FLT_OCC 8 ≤ off) ∧ (s.readOpen off = true) ∧ (s.addedNow off = none)) ∧
    (let s : State := idle.rclAdd Reg.LOOM_LATE_COUNT 3; let off : Nat := Reg.LOOM_LATE_COUNT; let old : Nat := 0; let n : Nat := 3; (s.hostReaches = true) ∧ (accessAt off = .rcl) ∧ (off ≠ Reg.CAL_MON_POP) ∧ (off < Reg.FLT_OCC 0 ∨ Reg.FLT_OCC 8 ≤ off) ∧ (s.readOpen off = true) ∧ (s.addedNow off = some (old, n))) ∧
    (let s : State := idle; let lo : Nat := Reg.BBX_SNAP_FROM_LO; (lo ∈ [Reg.BBX_SNAP_FROM_LO, Reg.BBX_SNAP_TO_LO, Reg.BBX_ANNOT_WALL_LO, Reg.CLK_TSC_LOAD_LO]) ∧ (s.takesWrite lo = true)) ∧
    (let s : State := idle.holdLo Reg.BBX_SNAP_FROM_LO 9; let lo : Nat := Reg.BBX_SNAP_FROM_LO; let l : Word := 9; (lo ∈ [Reg.BBX_SNAP_FROM_LO, Reg.BBX_SNAP_TO_LO, Reg.BBX_ANNOT_WALL_LO, Reg.CLK_TSC_LOAD_LO]) ∧ (s.takesWrite (lo + 4) = true) ∧ (optAt s.held lo = some l)) ∧
    (let s : State := { (idle.hwSet F.BBX_EVENTS_LOST).hwSet F.BBX_EVENTS_COMMIT_FAIL with time := idle.time }; let off : Nat := Reg.BBX_EVENTS; (accessAt off = .w1c) ∧ (off ≠ Reg.DRAFT_FUSE_CTRL) ∧ (s.takesWrite off = true)) ∧
    (let off : Nat := Reg.BBX_EVENTS; let bit : Nat := 2; (bit < 32) ∧ (flagVector off = none)) ∧
    (let s : State := idle; (s.takesWrite Reg.FLT_OCC_SEL = true)) := by
  and_intros <;> decide +kernel

/-- The hypotheses of VectorsRaised can be met. -/
theorem witness_VectorsRaised :
    (let s : State := idle.setReg (Reg.DMA_MSIX_CTL 3) 0; let v : Fin 64 := 3; (s.bit (F.DMA_MSIX_MASK v) = false) ∧ (s.board.d3hot = false)) ∧
    (let s : State := idle; let v : Fin 64 := 3; (s.bit (F.DMA_MSIX_MASK v) = true ∨ s.board.d3hot = true)) ∧
    (let s : State := idle; (s.board.pcieUp = true)) ∧
    (let s : State := { (idle.setReg (Reg.DMA_MSIX_CTL 3) 0).setReg (Reg.DMA_PBA 0) 0xF with board := { idle.board with d3hot := true } }; (s.board.d3hot = true)) := by
  and_intros <;> decide +kernel

/-- The hypotheses of PowerEvents can be met. -/
theorem witness_PowerEvents :
    (let s : State := inState .off; (s.cur = .off)) ∧
    (let s : State := idle; let rail : Rail := .vddAna; (rail ≠ .vddAon) ∧ (s.cur ≠ .off) ∧ (s.cur ≠ .aonUp)) ∧
    (let s : State := idle.makeRecord 2 1 []; (s.cur ≠ .off)) ∧
    (let s : State := inState .aonUp; (s.cur = .aonUp)) := by
  and_intros <;> decide +kernel

/-- The hypotheses of Resets can be met. -/
theorem witness_Resets :
    (let s : State := inState .aonUp; (s.cur = .aonUp)) ∧
    (let s : State := idle; (s.cur ≠ .off) ∧ (s.cur ≠ .aonUp) ∧ (s.rankNow ≠ 3)) ∧
    (let s : State := idle; (s.cur ≠ .off) ∧ (s.cur ≠ .aonUp) ∧ (s.rankNow ≠ 3)) ∧
    (let s : State := { (up.setF F.DEV_STATE_ENTRY_CAUSE 3) with time := { up.time with entered := some (0, 3) } }; (s.cur = .reset) ∧ (s.rankNow = 3)) ∧
    (let s : State := idle; (s.takesWrite Reg.DRAFT_CTRL = true) ∧ (s.cur = .idle ∨ s.cur = .safeTalk) ∧ (6 ≤ s.rankNow)) ∧
    (let s : State := idle; (s.cur = .idle ∨ s.cur = .safeTalk) ∧ (6 ≤ s.rankNow)) := by
  and_intros <;> decide +kernel

/-- The hypotheses of LoadVerdict can be met. -/
theorem witness_LoadVerdict :
    (let s : State := up; let image : List Byte := []; let img : List Byte := []; let src : LoadFrom := .flash; (s.cur = .reset) ∧ (s.board.load = some src) ∧ (s.board.perst = false) ∧ (7 ≤ s.rankNow) ∧ (img = (if src = .staging then s.stagedImage else image))) ∧
    (let s : State := up; (s.cur = .reset) ∧ (s.board.load = some .flash) ∧ (s.board.perst = false) ∧ (7 ≤ s.rankNow) ∧ (s.bbx.erased = none) ∧ (s.bbxLost = false)) ∧
    (let s : State := idle; (s.cur ≠ .reset ∨ s.board.load = none ∨ s.board.perst = true ∨ s.rankNow < 7)) := by
  and_intros <;> decide +kernel

/-- The hypotheses of ResetEnds can be met. -/
theorem witness_ResetEnds :
    (let s : State := up; (s.cur = .reset) ∧ (s.board.perst = false) ∧ (s.board.trained = false)) ∧
    (let s : State := loadedUp; (s.cur = .reset) ∧ (s.board.perst = false) ∧ (s.board.load = none) ∧ (s.board.trained = true) ∧ (s.bit F.DRAFT_STATUS_LOADED = true) ∧ (s.pllsSettled = true)) ∧
    (let s : State := inState .selftest; let r : SelftestResults := passed; (s.cur = .selftest) ∧ (s.board.verdict = none) ∧ ((s.selftestRetire r).selftestFails r = [])) ∧
    (let s : State := inState .selftest; let r : SelftestResults := { passed with fuse := some 7 }; let code : Nat := 2; let detail : Nat := 7; let l : List (Nat × Nat) := []; (s.cur = .selftest) ∧ (s.board.verdict = none) ∧ ((s.selftestRetire r).selftestFails r = (code, detail) :: l)) ∧
    (let s : State := inState .selftest; (s.cur = .selftest)) ∧
    (let s : State := idle; (s.cur ≠ .selftest)) := by
  and_intros <;> decide +kernel

/-- The hypotheses of StagingAndFuses can be met. -/
theorem witness_StagingAndFuses :
    (let s : State := idle.setReg Reg.DRAFT_STAGE_ADDR 0x100; (s.takesWrite Reg.DRAFT_STAGE_DATA = true) ∧ (s.cur = .idle ∨ s.cur = .safeTalk) ∧ (s.draft.checking = false) ∧ ((s.reg Reg.DRAFT_STAGE_ADDR).toNat < 4194304)) ∧
    (let s : State := idle.setReg Reg.DRAFT_STAGE_ADDR 0x400000; (s.takesWrite Reg.DRAFT_STAGE_DATA = true) ∧ (s.cur = .idle ∨ s.cur = .safeTalk) ∧ (s.draft.checking = false) ∧ (4194304 ≤ (s.reg Reg.DRAFT_STAGE_ADDR).toNat)) ∧
    (let s : State := idle; (s.takesWrite Reg.DRAFT_STAGE_ADDR = true) ∧ (s.cur = .idle ∨ s.cur = .safeTalk)) ∧
    (let s : State := idle; (s.takesWrite Reg.DRAFT_CTRL = true) ∧ (s.cur = .idle ∨ s.cur = .safeTalk) ∧ (s.draft.checking = false)) ∧
    (let s : State := { idle with draft := { idle.draft with checking := true } }; (s.draft.checking = true)) ∧
    (let s : State := idle; (s.takesWrite Reg.DEV_CTRL = true) ∧ (s.cur = .idle)) ∧
    (let s : State := running; let v : Word := 1; (s.takesWrite Reg.DEV_CTRL = true) ∧ (s.cur ≠ .idle) ∧ (s.reloadedNow = false) ∧ (v.getLsbD 0 ≠ s.bit F.DEV_CTRL_COMPAT)) ∧
    (let s : State := idle; let v : Word := 0xA501#32; (s.takesWrite Reg.DRAFT_FUSE_CTRL = true) ∧ (s.cur = .idle) ∧ (fieldOf v 8 8 = 0xA5) ∧ (s.bit F.DRAFT_FUSE_CTRL_BUSY = false) ∧ (s.bit F.DRAFT_FUSE_CTRL_KEY_PROGRAMMED = false)) ∧
    (let s : State := idle.setBit F.DRAFT_FUSE_CTRL_KEY_PROGRAMMED true; let v : Word := 0xA502#32; (s.takesWrite Reg.DRAFT_FUSE_CTRL = true) ∧ (s.cur = .idle) ∧ (fieldOf v 8 8 = 0xA5) ∧ (v.getLsbD 0 = false) ∧ (s.bit F.DRAFT_FUSE_CTRL_BUSY = false) ∧ (s.bit F.DRAFT_FUSE_CTRL_KEY_PROGRAMMED = true)) ∧
    (let s : State := { idle with draft := { idle.draft with burn := some { key := true, signedOnly := true }, fuseStage := 5 } }; let b : Burn := { key := true, signedOnly := true }; (s.draft.burn = some b)) ∧
    (let s : State := running; let v : Word := 0xA500#32; (s.takesWrite Reg.DRAFT_FUSE_CTRL = true) ∧ (fieldOf v 8 8 = 0xA5) ∧ (s.cur ≠ .idle ∨ s.bit F.DRAFT_FUSE_CTRL_BUSY = true)) := by
  and_intros <;> decide +kernel

/-- The hypotheses of LoomControl can be met. -/
theorem witness_LoomControl :
    (let s : State := idle.setReg (Reg.LOOM_ENTRY 1) 0x123; (s.takesWrite Reg.LOOM_CTRL = true) ∧ (s.getF F.PAIR_STATUS_ROLE ≠ 3) ∧ (s.getF F.PAIR_STATUS_ROLE ≠ 4) ∧ (s.cur = .idle) ∧ (6 ≤ s.rankNow)) ∧
    (let s : State := running; (s.takesWrite Reg.LOOM_CTRL = true) ∧ (s.running = true) ∧ (s.loom.stopping = false)) ∧
    (let s : State := { running with loom := { running.loom with stopping := true } }; (s.loom.stopping = true) ∧ (s.running = true) ∧ (s.lives = [])) ∧
    (let s : State := (running.setF F.LOOM_CTRL_CURSOR_EN 6).setReg (Reg.LOOM_ENTRY 0) 0x123; (s.takesWrite Reg.LOOM_CTRL = true) ∧ (s.bit F.LOOM_STATUS_RUNNING = true)) ∧
    (let s : State := (fun (s : State) => ({ s with loom := { s.loom with enNow := 3, enPrev := 6 } } : State)) ((running.setF F.LOOM_CTRL_CURSOR_EN 3).setReg (Reg.LOOM_ENTRY 0) 0x123); let k : Fin 4 := 0; (s.bit F.LOOM_STATUS_RUNNING = true) ∧ (s.loom.enNow.testBit k = true) ∧ (s.loom.enPrev.testBit k = false) ∧ ((s.getF F.LOOM_CTRL_CURSOR_EN).testBit k = true)) ∧
    (let s : State := (fun (s : State) => ({ s with loom := { s.loom with enNow := 3, enPrev := 6 } } : State)) ((running.setF F.LOOM_CTRL_CURSOR_EN 3).setReg (Reg.LOOM_CURSOR 2) 0x1123); let k : Fin 4 := 2; (s.bit F.LOOM_STATUS_RUNNING = true) ∧ (s.loom.enNow.testBit k = false) ∧ (s.loom.enPrev.testBit k = true)) ∧
    (let s : State := idle; (s.takesWrite Reg.LOOM_DOORBELL = true)) := by
  and_intros <;> decide +kernel

/-- The hypotheses of TreadEvaluation can be met. -/
theorem witness_TreadEvaluation :
    (let s : State := { (running.setF F.LOOM_CTRL_CURSOR_EN 15) with loom := { running.loom with enNow := 15, enPrev := 15, bank0 := [(0, 0x10000000000000000000000001555000#128)] } }; let k : Fin 4 := 2; let i : Nat := 0; (s.loomRuns = true) ∧ (s.follows = false) ∧ (s.due k = true) ∧ (i = s.getF (F.LOOM_CURSOR_TREAD k)) ∧ ((s.treadAt i).cond = 1) ∧ ((s.treadAt i).aKind = 0) ∧ ((s.treadAt i).bKind = 0)) ∧
    (let s : State := { (running.setF F.LOOM_CTRL_CURSOR_EN 15) with loom := { running.loom with enNow := 15, enPrev := 15, bank0 := [(0, 0x00000000000000000000000002555000#128)] } }; let k : Fin 4 := 2; let i : Nat := 0; (s.loomRuns = true) ∧ (s.follows = false) ∧ (s.due k = true) ∧ (i = s.getF (F.LOOM_CURSOR_TREAD k)) ∧ ((s.treadAt i).cond = 0)) := by
  and_intros <;> decide +kernel

/-- The hypotheses of ArmAndDisarm can be met. -/
theorem witness_ArmAndDisarm :
    (let s : State := armable; let c : Fin 1024 := 3; (s.loomIssues = true) ∧ ((s.arm c).1 = 0)) ∧
    (let s : State := running; let c : Fin 1024 := 3; (s.loomIssues = true) ∧ ((s.arm c).1 ≠ 0)) ∧
    (let s : State := live; let c : Fin 1024 := 3; let x : LiveCtx := liveCtx; (s.loomIssues = true) ∧ (s.liveOf c = some x)) := by
  and_intros <;> decide +kernel

/-- The hypotheses of SegmentsOpenAndClose can be met. -/
theorem witness_SegmentsOpenAndClose :
    (let s : State := live; let c : Fin 1024 := 3; let iss : IssueTime := ⟨2 ^ 40, 0xFF, false⟩; let x : LiveCtx := liveCtx; (s.loomIssues = true) ∧ (s.liveOf c = some x) ∧ (x.armed = true) ∧ (s.stillOpen c = false) ∧ (∀ e ∈ (s.keepOf c).lastEnd, e + 2 * 2 ^ 32 ≤ (iss.instant : Int)) ∧ (s.holdoffOver c x iss.instant = true) ∧ (s.openingFits [] iss.instant = true) ∧ (2 ≤ s.tableFree) ∧ (s.ringUsed c + s.footprint c ≤ s.ringRest c x)) ∧
    (let s : State := running; let c : Fin 1024 := 3; (s.loomIssues = true) ∧ (s.liveOf c = none)) ∧
    (let s : State := opened; let c : Fin 1024 := 3; (s.loomIssues = true) ∧ (s.isLive c = true) ∧ (s.stillOpen c = true) ∧ (s.seg.undo = [])) ∧
    (let s : State := live; let c : Fin 1024 := 3; (s.loomIssues = true) ∧ (s.isLive c = true)) ∧
    (let s : State := running; let c : Fin 1024 := 3; (s.loomIssues = true) ∧ (s.isLive c = false)) := by
  and_intros <;> decide +kernel

/-- The hypotheses of FlagsAndVectorsOfTreads can be met. -/
theorem witness_FlagsAndVectorsOfTreads :
    (let s : State := running; (s.loomIssues = true)) ∧
    (let s : State := running; let kind : BitVec 5 := 31; (s.loomIssues = true) ∧ (kind ≠ 0)) ∧
    (let s : State := running; (s.loomIssues = true)) ∧
    (let s : State := running.setReg (Reg.DMA_MSIX_CTL 3) 0; let v : Fin 64 := 3; (s.loomIssues = true) ∧ (s.bit (F.DMA_MSIX_MASK v) = false) ∧ (s.board.d3hot = false)) ∧
    (let s : State := running; let v : Fin 64 := 3; (s.loomIssues = true) ∧ (s.bit (F.DMA_MSIX_MASK v) = true)) := by
  and_intros <;> decide +kernel

/-- The hypotheses of TreadWindowWrites can be met. -/
theorem witness_TreadWindowWrites :
    (let s : State := idle; let off : Fin 8192 := 8191; (s.takesWrite (0x38000 + 4 * off) = true) ∧ (s.bit F.LOOM_WIN_VIEW = false) ∧ (s.loom.swap = none)) ∧
    (let s : State := idle.setBit F.LOOM_WIN_VIEW true; let off : Fin 8192 := 8191; (s.takesWrite (0x38000 + 4 * off) = true) ∧ (s.bit F.LOOM_WIN_VIEW = true)) ∧
    (let s : State := { idle with loom := { idle.loom with swap := some ⟨0, false, 0, 0, false⟩ } }; let off : Fin 8192 := 8191; (s.takesWrite (0x38000 + 4 * off) = true) ∧ (s.bit F.LOOM_WIN_VIEW = false) ∧ (s.loom.swap.isSome = true)) := by
  and_intros <;> decide +kernel

/-- The hypotheses of TableWrites can be met. -/
theorem witness_TableWrites :
    (let s : State := idle; let v : Word := 0x314#32; (s.takesWrite Reg.LOOM_SWAP = true) ∧ (s.loom.swap = none) ∧ (v.getLsbD 1 = false) ∧ (fieldOf v 2 2 ≠ 3)) ∧
    (let s : State := { idle with loom := { idle.loom with swap := some ⟨0, false, 0, 0, false⟩ } }; let q : SwapReq := ⟨0, false, 0, 0, false⟩; (s.takesWrite Reg.LOOM_SWAP = true) ∧ (s.loom.swap = some q) ∧ (s.atBoundary q s.time.clk = false)) ∧
    (let s : State := { idle with time := { idle.time with clk := 7 }, loom := { idle.loom with swap := some ⟨0, false, 0, 0, false⟩, bank0 := [(1, 5)] } }; let q : SwapReq := ⟨0, false, 0, 0, false⟩; (s.loom.swap = some q) ∧ (s.loom.swapAt = none) ∧ (s.atBoundary q s.time.clk = true)) ∧
    (let s : State := idle; let c : Fin 1024 := 1023; let word : Fin 64 := 0; (s.takesWrite (ctxBase c + 4 * word) = true) ∧ (s.isLive c = false) ∧ (s.bit F.DRAFT_STATUS_COMPAT_ACTIVE = false)) ∧
    (let s : State := live; let c : Fin 1024 := 3; let word : Fin 64 := 0; (s.takesWrite (ctxBase c + 4 * word) = true) ∧ (s.isLive c = true)) := by
  and_intros <;> decide +kernel

/-- The hypotheses of AxisSource can be met. -/
theorem witness_AxisSource :
    (let s : State := idle; let v : Word := 0xFFFFFFF1#32; (s.takesWrite Reg.AXIS_CFG = true) ∧ (s.cur = .idle) ∧ (fieldOf v 0 2 ≠ 3) ∧ (s.bit F.DRAFT_STATUS_COMPAT_ACTIVE = false)) ∧
    (let s : State := running; (s.takesWrite Reg.AXIS_CFG = true) ∧ (s.running = true)) ∧
    (let s : State := idle; (s.getF F.AXIS_CFG_SOURCE = 0 ∨ s.bit F.DRAFT_STATUS_COMPAT_ACTIVE = true)) ∧
    (let s : State := { (idle.setReg Reg.AXIS_CFG 2) with axis := { AxisSt.init with rate := 2 ^ 47, track := [⟨0, 3, 2 ^ 47 + 2 ^ 39, 0, false, false⟩], slew := 9 } }; (s.operational = true) ∧ (s.axisIsTime = false) ∧ (s.axisStAt s.time.clk = 0) ∧ (s.axis.rate ≠ 0)) ∧
    (let s : State := { (idle.setReg Reg.AXIS_CFG 2) with axis := { AxisSt.init with rate := 2 ^ 47, track := [⟨0, 3, 2 ^ 47, 1, false, false⟩] } }; (s.operational = true) ∧ (s.axisIsTime = false) ∧ (s.axisStAt s.time.clk ≠ 2)) ∧
    (let s : State := (idle.setF F.AXIS_CFG_INDEX_MODE 1).set64 Reg.CLK_TSC_LO 12; let hold : Nat := 0; (s.operational = true) ∧ (s.getF F.AXIS_CFG_INDEX_MODE = 1) ∧ (s.getF F.AXIS_CFG_FILTER ≤ hold)) := by
  and_intros <;> decide +kernel

/-- The hypotheses of AxisEdges can be met. -/
theorem witness_AxisEdges :
    (let s : State := (idle.setReg Reg.AXIS_CFG 2).axisRestart; let hold : Nat := 3; (s.operational = true) ∧ (s.getF F.AXIS_CFG_FILTER ≤ hold) ∧ (s.getF F.AXIS_CFG_SOURCE = 2) ∧ (s.bit F.DRAFT_STATUS_COMPAT_ACTIVE = false)) ∧
    (let s : State := { ((idle.setReg Reg.AXIS_CFG 2).setReg Reg.AXIS_PHASE_THRESH 0xFFFFFFFF) with axis := { AxisSt.init with rate := 2 ^ 46, track := [⟨0, 2 ^ 46, 2 ^ 46, 0, false, false⟩] } }; let e : Instant := 3 * 2 ^ 32; let hold : Nat := 3; (s.operational = true) ∧ (s.getF F.AXIS_CFG_FILTER ≤ hold) ∧ (s.getF F.AXIS_CFG_SOURCE = 2) ∧ (s.bit F.DRAFT_STATUS_COMPAT_ACTIVE = false) ∧ (s.bit F.AXIS_STATUS_NEVER_LOCKED = false) ∧ (s.axisStAt s.time.clk ≠ 2) ∧ (s.axis.rate ≠ 0) ∧ ((s.refTrue (edgeStamp e) (s.getF F.AXIS_CFG_REF_DIV + 1) - s.axisAtTime (s.modelTime (edgeStamp e))).natAbs ≤ (s.axisReg Reg.AXIS_PHASE_THRESH).toNat * 2 ^ 32)) ∧
    (let s : State := { (idle.setReg Reg.AXIS_CFG 2) with axis := { AxisSt.init with rate := 2 ^ 46, track := [⟨0, 2 ^ 46, 2 ^ 46, 0, false, false⟩] } }; let e : Instant := 9 * 2 ^ 32; let hold : Nat := 3; (s.operational = true) ∧ (s.getF F.AXIS_CFG_FILTER ≤ hold) ∧ (s.getF F.AXIS_CFG_SOURCE = 2) ∧ (s.bit F.DRAFT_STATUS_COMPAT_ACTIVE = false) ∧ (s.bit F.AXIS_STATUS_NEVER_LOCKED = false) ∧ (s.axisField Reg.AXIS_POLICY 0 1 = 0) ∧ ((s.axisReg Reg.AXIS_PHASE_THRESH).toNat * 2 ^ 32 < (s.refTrue (edgeStamp e) (s.getF F.AXIS_CFG_REF_DIV + 1) - s.axisAtTime (s.modelTime (edgeStamp e))).natAbs)) ∧
    (let s : State := (idle.setReg Reg.AXIS_CFG 1).axisRestart; let a : Bool := true; let b : Bool := false; let hold : Nat := 3; let d : Int := 1; (s.operational = true) ∧ (s.getF F.AXIS_CFG_FILTER ≤ hold) ∧ (s.getF F.AXIS_CFG_SOURCE = 1) ∧ (s.bit F.DRAFT_STATUS_COMPAT_ACTIVE = false) ∧ (s.bit F.AXIS_CFG_DIR_INVERT = false) ∧ (quadStep s.axis.a s.axis.b a b = some d) ∧ (d ≠ 0)) ∧
    (let s : State := idle.setReg Reg.AXIS_CFG 1; let hold : Nat := 3; (s.operational = true) ∧ (s.getF F.AXIS_CFG_FILTER ≤ hold) ∧ (s.getF F.AXIS_CFG_SOURCE = 1) ∧ (s.bit F.DRAFT_STATUS_COMPAT_ACTIVE = false)) ∧
    (let s : State := idle.setReg Reg.AXIS_CFG 0x40001; let hold : Nat := 0; (hold < s.getF F.AXIS_CFG_FILTER)) := by
  and_intros <;> decide +kernel

/-- The hypotheses of AxisCompares can be met. -/
theorem witness_AxisCompares :
    (let s : State := (running.set64 (Reg.AXIS_CMP_STEP_LO 15) (2 ^ 64 - 1)).set64 (Reg.AXIS_CMP_LO 15) 9; let k : Fin 16 := 15; (s.loomIssues = true) ∧ (s.loom.cmpActed = []) ∧ (s.loom.cmpHost = []) ∧ (s.axisReg64 (Reg.AXIS_CMP_STEP_LO k) ≠ 0)) ∧
    (let s : State := { (running.set64 (Reg.AXIS_CMP_STEP_LO 3) 7) with loom := { running.loom with cmpActed := [(3, 11)] } }; let k : Fin 16 := 3; let old : Nat := 11; (s.loomIssues = true) ∧ (s.loom.cmpActed = [(k.val, old)]) ∧ (s.loom.cmpHost = [])) ∧
    (let s : State := { running with loom := { running.loom with cmpActed := [(3, 11)] } }; let k : Fin 16 := 3; let old : Nat := 11; (s.takesWrite (Reg.AXIS_CMP_HI k) = true) ∧ (s.loom.cmpActed = [(k.val, old)])) := by
  and_intros <;> decide +kernel

/-- The hypotheses of ConverterReference can be met. -/
theorem witness_ConverterReference :
    (let s : State := idle; let v : Word := 1; let x : Bool := true; (s.takesWrite Reg.CONV_REF_CTRL = true) ∧ (fieldOf v 0 2 ≠ 3) ∧ (fieldOf v 0 2 = 1 → x = true) ∧ (s.time.setNow.contains (occKey F.CONV_EVENTS_EXT_FAULT) = false)) ∧
    (let s : State := idle; let v : Word := 1; let x : Bool := false; (s.takesWrite Reg.CONV_REF_CTRL = true) ∧ (fieldOf v 0 2 = 3 ∨ (fieldOf v 0 2 = 1 ∧ x = false))) ∧
    (let s : State := idle; (s.operational = true)) ∧
    (let s : State := idle.setReg Reg.CONV_REF_STATUS 0xB; (s.operational = true) ∧ (s.getF F.CONV_REF_STATUS_SEL_IN_EFFECT = 1)) := by
  and_intros <;> decide +kernel

/-- The hypotheses of CalibrationSweeps can be met. -/
theorem witness_CalibrationSweeps :
    (let s : State := (idle.setReg Reg.CAL_CTRL 0x7F001F).startSweep 1; let v : Word := 0xF; (s.takesWrite Reg.CAL_CTRL = true) ∧ (v.getLsbD 14 = false)) ∧
    (let s : State := withCtrl (((idle.setReg Reg.CAL_CTRL 0xF).startSweep 1).setBit (bitFld Reg.CAL_STATUS 6) true) 0x1F; (s.operational = true) ∧ (calModeOf s.cal.ctrl ≠ 0) ∧ (calModeOf (s.reg Reg.CAL_CTRL) = 0)) ∧
    (let s : State := idle.setReg Reg.CAL_CTRL 0x1A; let b : Fin 4 := 3; (s.operational = true) ∧ (s.slicesRun = true) ∧ (calModeOf s.cal.ctrl = 0) ∧ (calModeOf (s.reg Reg.CAL_CTRL) = 1) ∧ ((s.reg Reg.CAL_CTRL).getLsbD b = true)) ∧
    (let s : State := { idle with cal := { idle.cal with ctrl := 0x25 } }; (s.takesWrite Reg.CAL_CTRL = true) ∧ (s.calMode = 2) ∧ (s.getF F.CAL_STATUS_SWEEPING = 0) ∧ (s.slicesRun = true) ∧ (∀ b : Fin 4, (s.calBank b).busy = false)) ∧
    (let s : State := ({ idle with cal := { idle.cal with ctrl := 0x25 } } : State).startSweep 2; (s.takesWrite Reg.CAL_CTRL = true) ∧ (s.calMode = 2) ∧ (s.getF F.CAL_STATUS_SWEEPING ≠ 0)) ∧
    (let s : State := idle; (s.takesWrite Reg.CAL_CTRL = true) ∧ (s.calMode ≠ 2)) ∧
    (let s : State := ({ idle with cal := { idle.cal with ctrl := 0x17 } } : State).startSweep 2; (s.operational = true) ∧ (s.calMode = 1) ∧ (s.slicesRun = true)) ∧
    (let s : State := idle.startVisit 1 17; let b : Fin 4 := 1; ((s.calBank b).phase = .settle) ∧ ((s.calBank b).capturing = false) ∧ ((s.calBank b).ended = false)) ∧
    (let s : State := (idle.startVisit 1 17).beginCapture 1; let b : Fin 4 := 1; ((s.calBank b).capturing = true) ∧ ((s.calBank b).est = none)) := by
  and_intros <;> decide +kernel

/-- The hypotheses of CalibrationVisits can be met. -/
theorem witness_CalibrationVisits :
    (let s : State := (idle.startVisit 1 17).setCalBank 1 { (idle.startVisit 1 17).calBank 1 with est := some ⟨64, -2, 3, [], 0, 9⟩ }; let b : Fin 4 := 1; let e : VisitEst := ⟨64, -2, 3, [], 0, 9⟩; ((s.calBank b).est = some e) ∧ (s.calMode ≠ 3) ∧ ((s.calBank b).slice ≠ 63)) ∧
    (let s : State := (idle.startVisit 1 17).setCalBank 1 { (idle.startVisit 1 17).calBank 1 with ended := true, phase := .update }; let b : Fin 4 := 1; ((s.calBank b).ended = true) ∧ (s.calMode ≠ 3) ∧ ((s.calBank b).slice ≠ 63)) ∧
    (let s : State := { idle with cal := { idle.cal with coefs := [(4, { Coef.neutral with offset := 3 })], coming := [(9, { Coef.neutral with offset := -5 })] } }; let k : Nat := 9; let c : Coef := { Coef.neutral with offset := -5 }; (s.cal.coming = [(k, c)])) ∧
    (let s : State := (idle.startVisit 1 63).setCalBank 1 { (idle.startVisit 1 63).calBank 1 with est := some ⟨64, -2, 3, [], 0, 9⟩ }; let b : Fin 4 := 1; let e : VisitEst := ⟨64, -2, 3, [], 0, 9⟩; ((s.calBank b).est = some e) ∧ (s.calMode ≠ 3) ∧ ((s.calBank b).slice = 63)) ∧
    (let s : State := (idle.startVisit 1 63).setCalBank 1 { (idle.startVisit 1 63).calBank 1 with ended := true, phase := .update }; let b : Fin 4 := 1; ((s.calBank b).ended = true) ∧ (s.calMode ≠ 3) ∧ ((s.calBank b).slice = 63)) := by
  and_intros <;> decide +kernel

/-- The hypotheses of MonitorQueue can be met. -/
theorem witness_MonitorQueue :
    (let s : State := idle; let v : Word := 0x80000315; (s.takesWrite Reg.CAL_INJ = true) ∧ (v.getLsbD 31 = true) ∧ ((s.calBank (fieldOf v 8 2)).capturingNow = false ∨ (s.calBank (fieldOf v 8 2)).capAt = some s.time.clk) ∧ ((s.calBank (fieldOf v 8 2)).inj = none) ∧ (fieldOf v 0 5 < 22)) ∧
    (let s : State := idle; let v : Word := 0x80000316; (s.takesWrite Reg.CAL_INJ = true) ∧ (v.getLsbD 31 = true) ∧ ((s.calBank (fieldOf v 8 2)).capAt ≠ some s.time.clk) ∧ ((s.calBank (fieldOf v 8 2)).capturingNow = true ∨ (s.calBank (fieldOf v 8 2)).inj ≠ none ∨ 22 ≤ fieldOf v 0 5)) ∧
    (let s : State := idle.inject 3 21; let b : Fin 4 := 3; let n : Nat := 21; ((s.calBank b).inj = some (n, false))) ∧
    (let s : State := (idle.startVisit 3 5).setCalBank 3 { (idle.startVisit 3 5).calBank 3 with inj := some (21, true), capWait := true }; let b : Fin 4 := 3; let n : Nat := 21; ((s.calBank b).inj = some (n, true)) ∧ (s.cal.queue.length < 256)) ∧
    (let s : State := { idle with cal := { idle.cal with queue := [5, 6], pushedNow := 1 } }; let w : Word := 5; let rest : List Word := [6]; (s.hostReaches = true) ∧ (s.readOpen Reg.CAL_MON_POP = true) ∧ (s.cal.queue = w :: rest) ∧ (s.cal.pushedNow ≤ rest.length)) ∧
    (let s : State := { idle with cal := { idle.cal with queue := [6], pushedNow := 1 } }; (s.hostReaches = true) ∧ (s.readOpen Reg.CAL_MON_POP = true) ∧ (s.cal.queue.length ≤ s.cal.pushedNow)) := by
  and_intros <;> decide +kernel

/-- The hypotheses of CoefficientShadows can be met. -/
theorem witness_CoefficientShadows :
    (let s : State := idle; let v : Word := 0x33F; (s.takesWrite Reg.CAL_SEL = true) ∧ (fieldOf v 0 7 < 64)) ∧
    (let s : State := (idle.setReg Reg.CAL_SEL 0x33F).setReg Reg.CAL_COEF_OFFSET 0xFFFF; (s.takesWrite Reg.CAL_COEF_COMMIT = true) ∧ (s.bankEn (s.getF F.CAL_SEL_BANK) = false) ∧ (s.getF F.CAL_SEL_SLICE < 64)) ∧
    (let s : State := { (idle.setReg Reg.CAL_SEL 0x33F) with cal := { idle.cal with ctrl := 8 } }; (s.takesWrite Reg.CAL_COEF_COMMIT = true) ∧ (s.bankEn (s.getF F.CAL_SEL_BANK) = true)) := by
  and_intros <;> decide +kernel

/-- The hypotheses of SliceRate can be met. -/
theorem witness_SliceRate :
    (let s : State := (idle.setPll .spll pllLocked).setPll .fpll pllLocked; let v : Word := 0x80134E20; (s.takesWrite Reg.CLK_RATE = true) ∧ (s.clk.sclkMode = false) ∧ (rateOk v = true) ∧ (v.getLsbD 31 = true) ∧ (s.cur = .idle) ∧ (s.pllState .spll = pllLocked) ∧ (s.clk.go = none)) ∧
    (let s : State := running; let v : Word := 0x80134E20; (s.takesWrite Reg.CLK_RATE = true) ∧ (s.clk.sclkMode = true ∨ rateOk v = false ∨ (v.getLsbD 31 = true ∧ (s.cur ≠ .idle ∨ s.pllState .spll ≠ pllLocked)))) ∧
    (let s : State := State.setReg { (idle.setPll .spll pllLocked) with clk := { idle.clk with go := some (0x61A8, 25000) } } Reg.CLK_RATE 25000; let old : Word := 0x61A8; let v : Word := 25000; (s.clk.go = some (old, v)) ∧ (s.pllState .spll = pllLocked) ∧ (s.clk.sclkMode = false)) ∧
    (let s : State := { (idle.setPll .spll pllLocking) with clk := { idle.clk with relock := some .go } }; (s.clk.relock = some .go ∨ s.clk.relock = some .back) ∧ (s.pllState .spll = pllLocking ∨ s.pllState .fpll = pllLocking)) ∧
    (let s : State := { clkIdle.setPll .spll pllSearch with clk := { idle.clk with relock := some .go, want := 0x134E20 } }; let p : Pll := .spll; let counts : List Nat := List.replicate 8 163840; (s.pllState p = pllSearch ∨ s.pllState p = pllLocking) ∧ (s.refHere p = true) ∧ (s.hasTarget p = true) ∧ (s.lockPasses p counts = true)) ∧
    (let s : State := clkIdle.setPll .fpll pllLocking; let p : Pll := .fpll; let counts : List Nat := [8192, 8193]; (s.refHere p = false ∨ s.lockPasses p counts = false)) ∧
    (let s : State := idle; let p : Pll := .fpll; (p ≠ .spll ∨ s.clk.sclkMode = false)) ∧
    (let s : State := { clkIdle.setPll .spll pllSettle with clk := { idle.clk with relock := some .go, want := 0x134E20 } }; let cycles : Nat := 100000; (s.pllState .spll = pllSettle) ∧ (s.bit F.DRAFT_STATUS_LOADED = true) ∧ (s.refHere .spll = true) ∧ (s.clk.realign = none) ∧ (s.clk.sclkMode = false) ∧ (64 * max 1 (s.getF F.CLK_LOCK_SETTLE) ≤ cycles)) ∧
    (let s : State := clkIdle.setPll .mpll pllSettle; let p : Pll := .mpll; let cycles : Nat := 100000; (s.pllState p = pllSettle) ∧ (p ≠ .spll) ∧ (p = .fpll → s.bit F.DRAFT_STATUS_LOADED = true) ∧ (s.refHere p = true) ∧ (64 * max 1 (s.getF F.CLK_LOCK_SETTLE) ≤ cycles)) ∧
    (let s : State := clkIdle.setPll .mpll pllSettle; let p : Pll := .mpll; let cycles : Nat := 9; (s.pllState p ≠ pllSettle ∨ cycles < 64 * max 1 (s.getF F.CLK_LOCK_SETTLE))) ∧
    (let s : State := (idle.setPll .mpll pllSettle).setBit F.CLK_STATUS_REF_PRESENT false; let p : Pll := .mpll; (s.refHere p = false)) ∧
    (let s : State := (up.setBit F.DRAFT_STATUS_LOADED true).setPll .fpll pllSearch; let p : Pll := .fpll; (s.cur = .reset) ∧ (s.hasTarget p = true) ∧ (s.pllState p = pllSearch ∨ s.pllState p = pllLocking)) := by
  and_intros <;> decide +kernel

/-- The hypotheses of Holdover can be met. -/
theorem witness_Holdover :
    (let s : State := clkIdle.setPll .fpll pllLocked; let p : Pll := .fpll; let counts : List Nat := [8192, 8000, 9000]; let a : Nat := 8000; let b : Nat := 9000; (s.pllState p = pllLocked) ∧ (s.refHere p = true) ∧ (p ≠ .spll ∨ s.clk.sclkMode = false) ∧ (counts.reverse.take 2 = [b, a]) ∧ (s.comparisonPasses p a = false) ∧ (s.comparisonPasses p b = false)) ∧
    (let s : State := clkIdle.setPll .fpll pllLocked; let p : Pll := .fpll; let counts : List Nat := [8000, 9000, 8192]; let b : Nat := 8192; (p ≠ .spll ∨ s.clk.sclkMode = false) ∧ (counts.getLast? = some b) ∧ (s.comparisonPasses p b = true)) ∧
    (let s : State := ((running.setPll .spll pllLocked).setPll .fpll pllLocked).setPll .mpll pllLocked; (s.pllState .spll = pllLocked) ∧ (s.pllState .fpll = pllLocked) ∧ (s.pllState .mpll = pllLocked) ∧ (s.clk.go = none) ∧ (s.clk.sclkMode = false)) ∧
    (let s : State := { (running.setPll .spll pllLocked).setPll .mpll pllLocked with clk := { running.clk with sclkMode := true } }; (s.pllState .mpll = pllLocked) ∧ (s.clk.go = none) ∧ (s.clk.sclkMode = true)) ∧
    (let s : State := live.setPll .spll pllSearch; (s.clk.sclkMode = false) ∧ (s.cur = .armed ∨ s.cur = .acquiring) ∧ (s.relocking = true)) ∧
    (let s : State := (running.setPll .spll pllHoldover).setPll .fpll pllHoldover; let j : Int := -1000000; (s.pllState .spll = pllHoldover) ∧ (s.clk.realign = none) ∧ (j.natAbs ≤ s.getF F.CLK_HOLD_JUMP_THRESH * 10000)) ∧
    (let s : State := (running.setPll .spll pllHoldover).set64 Reg.CLK_BUILD_OUT_LO 5; let j : Int := -1000001; (s.pllState .spll = pllHoldover) ∧ (s.clk.realign = none) ∧ (s.getF F.CLK_HOLD_JUMP_THRESH * 10000 < j.natAbs)) ∧
    (let s : State := { running with clk := { running.clk with realign := some .gated, originTsc := 100 }, board := { running.board with ref := .ref10 } }; let n : Nat := 2; (s.clk.realign = some .gated) ∧ (s.board.ref.hz ≠ 0) ∧ (n * s.fabricHz % s.board.ref.hz = 0)) ∧
    (let s : State := live.setPll .spll pllHoldover; (s.pllState .spll = pllHoldover) ∧ (s.clk.realign = none) ∧ (s.clk.sclkMode = false) ∧ (s.running = true)) ∧
    (let s : State := idle.setPll .spll pllLocked; (s.pllState .spll ≠ pllHoldover ∧ s.pllState .fpll ≠ pllHoldover)) ∧
    (let s : State := { (idle.setPll .spll pllLocked) with clk := { idle.clk with sclkMode := true } }; (s.clk.sclkMode = true) ∧ (s.pllState .spll ≠ pllBypass) ∧ (s.pllState .spll ≠ pllOff) ∧ (s.cur = .idle)) ∧
    (let s : State := { (live.setPll .spll pllLocked) with clk := { live.clk with sclkMode := true } }; (s.clk.sclkMode = true) ∧ (s.pllState .spll ≠ pllBypass) ∧ (s.pllState .spll ≠ pllOff) ∧ (s.cur = .armed ∨ s.cur = .acquiring)) := by
  and_intros <;> decide +kernel

/-- The hypotheses of SyncAndOutputs can be met. -/
theorem witness_SyncAndOutputs :
    (let s : State := withCtrl (((((idle.setPll .spll pllLocked).setBit F.CLK_STATUS_REF_PRESENT true).setF F.CLK_SYNC_MODE 1).set64 Reg.CLK_TSC_LOAD_LO (2 ^ 40 + 3)).setReg Reg.CLK_BUILD_OUT_LO 9) 0x1F; (s.getF F.CLK_SYNC_MODE = 1) ∧ (s.bit F.CLK_STATUS_REF_PRESENT = true) ∧ (s.pllState .spll = pllLocked)) ∧
    (let s : State := ((idle.setPll .spll pllLocked).setBit F.CLK_STATUS_REF_PRESENT true).setF F.CLK_SYNC_MODE 2; let phase : Int := -3; (s.getF F.CLK_SYNC_MODE = 2) ∧ (s.bit F.CLK_STATUS_REF_PRESENT = true) ∧ (s.pllState .spll = pllLocked) ∧ (phase ≠ 0)) ∧
    (let s : State := idle.setF F.CLK_SYNC_MODE 1; (s.getF F.CLK_SYNC_MODE = 1 ∨ s.getF F.CLK_SYNC_MODE = 2) ∧ (s.bit F.CLK_STATUS_REF_PRESENT = false ∨ s.pllState .spll ≠ pllLocked)) ∧
    (let s : State := running; let v : Word := 1; (s.takesWrite Reg.CLK_SYNC = true) ∧ (s.cur ≠ .idle) ∧ (fieldOf v 0 2 = 1)) ∧
    (let s : State := idle.setPll .spll pllLocked; (s.takesWrite Reg.CLK_PAIR_TRIM = true) ∧ (s.isShadow = false)) ∧
    (let s : State := idle; let p : Pll := .spll; let o : Fin 16 := 4; (s.takesWrite (Reg.CLK_OUT p.idx o) = true) ∧ (o.val < outCount p) ∧ (s.outExists p o = false)) ∧
    (let s : State := idle; let p : Pll := .spll; let o : Fin 16 := 6; (s.takesWrite (Reg.CLK_OUT p.idx o) = true) ∧ (s.isProtectedActive = false) ∧ (outCount p ≤ o)) ∧
    (let s : State := running; let p : Pll := .spll; let o : Fin 16 := 3; (s.takesWrite (Reg.CLK_OUT p.idx o) = true) ∧ (o.val < outCount p) ∧ (s.outExists p o = true) ∧ (p = .fpll ∨ (p = .spll ∧ o.val < 4)) ∧ (s.cur ≠ .idle)) ∧
    (let s : State := clkIdle.setPll .mpll pllLocked; let p : Pll := .mpll; let o : Fin 16 := 1; (s.takesWrite (Reg.CLK_OUT p.idx o) = true) ∧ (o.val < outCount p) ∧ (s.outExists p o = true) ∧ (s.cur = .idle)) := by
  and_intros <;> decide +kernel

/-- The hypotheses of TriggerSets can be met. -/
theorem witness_TriggerSets :
    (let s : State := ((idle.setReg (Reg.TRIG_UNIT_CFG 3) 0x10000000).setReg (Reg.TRIG_UNIT_CFG 5) 0xC0000000).setReg Reg.TRIG_AUX_CFG 1; (s.takesWrite Reg.TRIG_APPLY = true)) ∧
    (let u : TrigUnit := { TrigUnit.init with applied := [(30, [], true)] }; let n : Nat := 30; let clock : Nat := 10; let w : List Word := []; let b : Bool := true; (u.applied = [(n, w, b)]) ∧ (clock + 20 ≤ n)) ∧
    (let u : TrigUnit := { TrigUnit.init with applied := [(29, [], true)] }; let n : Nat := 29; let clock : Nat := 10; let w : List Word := []; let b : Bool := true; (u.applied = [(n, w, b)]) ∧ (n < clock + 20)) := by
  and_intros <;> decide +kernel

/-- The hypotheses of Comparators can be met. -/
theorem witness_Comparators :
    (let c : Comparator := ⟨false, true, false⟩; let hyst : Int := 0; (c.armRise = true) ∧ (0 ≤ hyst)) ∧
    (let c : Comparator := ⟨true, false, true⟩; let hyst : Int := 3; (c.armRise = false) ∧ (0 ≤ hyst)) := by
  and_intros <;> decide +kernel

/-- The hypotheses of TriggerReports can be met. -/
theorem witness_TriggerReports :
    (let s : State := (idle.setReg Reg.CONV_MODE 0x1F0).setUnit 3 { TrigUnit.init with set := [0x10000000, 1], a := ⟨false, true, false⟩ }; let k : Fin 16 := 3; let clock : Nat := 50; let words : List ChanWord := [⟨0, [], [0, 9], []⟩]; let w : ChanWord := ⟨0, [], [0, 9], []⟩; (s.operational = true) ∧ (∀ j : Fin 16, (s.unit j).applied = [] ∧ (j ≠ k → s.unitWorks j = false)) ∧ (s.unitWorks k = true) ∧ ((s.unit k).type < 7) ∧ (fieldOf ((s.unit k).word 5) 0 24 = 0) ∧ (words.find? (fun x => x.chan.val == (s.unit k).chan) = some w) ∧ ((s.qualify k clock w).2 ≠ [])) ∧
    (let s : State := (idle.setReg Reg.CONV_MODE 0x1F0).setReg (Reg.LANE_BIND 63) 0xFFFFFFFF; (s.operational = true) ∧ (∀ j : Fin 16, (s.unit j).applied = [] ∧ s.unitWorks j = false)) ∧
    (let s : State := ({ (idle.setReg Reg.CONV_MODE 0x1F0) with trig := { idle.trig with aux := { idle.trig.aux with events := [50 * 2 ^ 32 + 5] } } } : State).setUnit 3 { TrigUnit.init with set := [0x80000000, 0, 0, 0, 0, 0, 0, 0, 0x1010, 1] }; let k : Fin 16 := 3; (s.unitWorks k = true) ∧ ((s.unit k).type = 8) ∧ (fieldOf ((s.unit k).word 5) 0 24 = 0)) ∧
    (let s : State := (idle.setReg Reg.CONV_MODE 0x1F0).setUnit 3 { TrigUnit.init with set := [0x10000000] }; let k : Fin 16 := 3; ((s.unit k).bus.events = [] ∨ (s.unit k).type = 9 ∨ s.unitWorks k = false)) ∧
    (let s : State := idle.setUnit 3 { TrigUnit.init with set := [0x80000000, 0, 0, 0, 9], seqA := some 7 }; let k : Fin 16 := 3; (s.operational = true) ∧ ((s.unit k).type = 8) ∧ ((s.unit k).seqA.isSome = true) ∧ ((s.unit k).word 4 ≠ 0)) ∧
    (let s : State := { idle with trig := { idle.trig with aux := { idle.trig.aux with sets := [(9, [3, 0xFFFFFFFF, 4])], level := true, lastKept := some 0 } } }; let rising : Bool := false; let e : Instant := 2 ^ 40 + 5; let hold : Nat := 0; let set : List Word := [3, 0xFFFFFFFF, 4]; let i : Int := 2 ^ 40 + 2 ^ 16; (s.operational = true) ∧ (set = s.trig.aux.setAt ((e : Nat) / 2 ^ 32 : Nat)) ∧ ((set.getD 0 0).getLsbD 0 = true) ∧ (rising = !s.trig.aux.level) ∧ (rising = !(set.getD 0 0).getLsbD 1) ∧ (min 60 (fieldOf (set.getD 0 0) 2 6) ≤ hold) ∧ (i = ((e : Nat) / 2 ^ 16 * 2 ^ 16 : Nat) - (set.getD 1 0).toInt * 2 ^ 16) ∧ (fieldOf (set.getD 2 0) 0 24 = 0 ∨ ∀ l ∈ s.trig.aux.lastKept, l + fieldOf (set.getD 2 0) 0 24 * 2 ^ 32 ≤ i)) ∧
    (let s : State := { idle with trig := { idle.trig with aux := { idle.trig.aux with sets := [(9, [0x11])] } } }; let rising : Bool := true; let e : Instant := 2 ^ 40 + 5; let hold : Nat := 3; (s.operational = true) ∧ (rising = !s.trig.aux.level) ∧ (((s.trig.aux.setAt ((e : Nat) / 2 ^ 32 : Nat)).getD 0 0).getLsbD 0 = true) ∧ (hold < min 60 (fieldOf ((s.trig.aux.setAt ((e : Nat) / 2 ^ 32 : Nat)).getD 0 0) 2 6))) ∧
    (let s : State := running.setReg Reg.TRIG_OUT_COUNT 0xFF000000; let p : Fin 4 := 3; (s.loomIssues = true) ∧ (s.pulse p = none)) ∧
    (let s : State := { running.setPulse 3 (some (5, 9)) with time := { running.time with clk := 9 } }; let p : Fin 4 := 3; let r : Nat := 5; let n : Nat := 9; (s.loomIssues = true) ∧ (s.pulse p = some (r, n)) ∧ (r ≤ s.time.clk + 2)) ∧
    (let s : State := { (running.setPulse 3 (some (5, 9))).setReg Reg.TRIG_OUT_STATUS 0x8F with time := { running.time with clk := 14 } }; let p : Fin 4 := 3; let r : Nat := 5; let n : Nat := 9; (s.pulse p = some (r, n)) ∧ (r + n ≤ s.time.clk)) ∧
    (let s : State := { (running.setPulse 3 (some (5, 9))) with time := { running.time with clk := 6 } }; let p : Fin 4 := 3; let r : Nat := 5; let n : Nat := 9; (s.pulse p = some (r, n)) ∧ (r < s.time.clk)) := by
  and_intros <;> decide +kernel

/-- The hypotheses of LaneSets can be met. -/
theorem witness_LaneSets :
    (let s : State := idle; let l : Fin 64 := 63; let word : Fin 48 := 0; (s.takesWrite (laneBase l + 0x40 + 4 * word.val) = true) ∧ ((s.lane l).ctx = none)) ∧
    (let s : State := laneUp; let l : Fin 64 := 0; let word : Fin 48 := 4; let o : Nat := laneBase 0 + 0x50; (o = laneBase l + 0x40 + 4 * word.val) ∧ (s.takesWrite o = true) ∧ ((s.lane l).ctx ≠ none) ∧ ((s.lane l).swapped ≠ some s.time.clk)) ∧
    (let s : State := laneUp; let l : Fin 64 := 0; (s.takesWrite (Reg.LANE_SEAL l) = true) ∧ ((s.lane l).ctx ≠ none) ∧ ((s.lane l).swapped ≠ some s.time.clk)) ∧
    (let s : State := laneUp.setReg (Reg.LANE_RANK 0) 5; let l : Fin 64 := 0; let p : LaneSet := { LaneSet.zero with rank := 5, firTaps := 3, firDec := 1 }; (s.takesWrite (Reg.LANE_SEAL l) = true) ∧ ((s.lane l).ctx ≠ none) ∧ ((s.lane l).swapped ≠ some s.time.clk) ∧ (p = s.paramSet (laneBase l)) ∧ (s.checkSet p (s.lane l).kinds = 0) ∧ (laneRate p (s.lane l).kinds s.chanRate ≤ (s.laneUse l).2) ∧ ((s.laneUse l).1 = false)) ∧
    (let s : State := laneUp.setLane 0 { laneUp.lane 0 with sealed := some { LaneSet.zero with rank := 5, firTaps := 3, firDec := 1 } }; let c : Fin 1024 := 3; let x : LiveCtx := liveCtx; let p : LaneSet := { LaneSet.zero with rank := 5, firTaps := 3, firDec := 1 }; let cause : Nat := 0; (s.loomIssues = true) ∧ (s.liveOf c = some x) ∧ (x.lane < 64) ∧ ((s.lane x.lane).sealed = some p) ∧ ((s.lane x.lane).sealedPre = none) ∧ ((s.lane x.lane).swapped ≠ some s.time.clk) ∧ (cause = (if s.checkSet p (s.lane x.lane).kinds = 0 ∧ x.outRate < laneRate p (s.lane x.lane).kinds s.chanRate then 4 else s.checkSet p (s.lane x.lane).kinds))) ∧
    (let s : State := laneUp; let c : Fin 1024 := 3; let x : LiveCtx := liveCtx; (s.loomIssues = true) ∧ (s.liveOf c = some x) ∧ ((s.lane x.lane).sealed = none) ∧ ((s.lane x.lane).sealedPre = none) ∧ ((s.lane x.lane).swapped ≠ some s.time.clk)) ∧
    (let s : State := laneUp.setLane 0 { laneUp.lane 0 with deferred := some { LaneSet.zero with rank := 5 } }; let l : Fin 64 := 0; let p : LaneSet := { LaneSet.zero with rank := 5 }; ((s.lane l).deferred = some p) ∧ ((s.laneUse l).1 = false)) ∧
    (let s : State := { laneUp with lanes := [(0, { laneUp.lane 0 with mark := some (2 ^ 40, 2) })] }; let l : Fin 64 := 0; let x : LaneSt := { laneUp.lane 0 with mark := some (2 ^ 40, 2) }; let word : Nat := 2 ^ 40; let n : Nat := 2; (s.lanes = [(l.val, x)]) ∧ (x.mark = some (word, n)) ∧ (word < 2 ^ 64)) := by
  and_intros <;> decide +kernel

/-- The hypotheses of CoefficientBanks can be met. -/
theorem witness_CoefficientBanks :
    (let s : State := laneUp.setReg (Reg.LANE_COEF_PAGE 0) 0x100; let l : Fin 64 := 0; let i : Fin 256 := 0; (s.takesWrite (laneBase l + 0x400 + 4 * i.val) = true) ∧ ((s.lane l).hasCoefs (s.getF (F.LANE_COEF_PAGE_STAGE l)) = false)) ∧
    (let s : State := (laneUp.setLane 0 { laneUp.lane 0 with kinds := [1, 3, 4] }).setReg (Reg.LANE_COEF_PAGE 0) 0x31F; let l : Fin 64 := 0; let i : Fin 256 := 255; (s.takesWrite (laneBase l + 0x400 + 4 * i.val) = true) ∧ ((s.lane l).hasCoefs (s.getF (F.LANE_COEF_PAGE_STAGE l)) = true) ∧ (s.bit (F.LANE_COEF_PAGE_BCAST l) = false) ∧ (s.getF (F.LANE_COEF_PAGE_STAGE l) = 1 ∨ 256 * s.getF (F.LANE_COEF_PAGE_PAGE l) + i.val < 128) ∧ ((s.lane l).ctx = none ∨ (if s.getF (F.LANE_COEF_PAGE_STAGE l) = 0 then (s.lane l).firBank else (s.lane l).rsBank) ≠ s.bit (F.LANE_COEF_PAGE_BANK l))) ∧
    (let s : State := laneUp.setReg (Reg.LANE_COEF_PAGE 0) 0x200; let l : Fin 64 := 0; let i : Fin 256 := 128; (s.takesWrite (laneBase l + 0x400 + 4 * i.val) = true) ∧ ((s.lane l).hasCoefs (s.getF (F.LANE_COEF_PAGE_STAGE l)) = true) ∧ (s.getF (F.LANE_COEF_PAGE_STAGE l) = 0) ∧ (128 ≤ 256 * s.getF (F.LANE_COEF_PAGE_PAGE l) + i.val)) ∧
    (let s : State := ((laneUp.setLane 0 { laneUp.lane 0 with kinds := [1, 3, 4] }).setReg (Reg.LANE_COEF_PAGE 0) 0x1101).setReg (Reg.LANE_BIND 63) 0x10000; let l : Fin 64 := 0; let i : Fin 256 := 9; (s.takesWrite (laneBase l + 0x400 + 4 * i.val) = true) ∧ ((s.lane l).hasCoefs (s.getF (F.LANE_COEF_PAGE_STAGE l)) = true) ∧ (s.bit (F.LANE_COEF_PAGE_BCAST l) = true) ∧ (s.getF (F.LANE_COEF_PAGE_STAGE l) = 1)) ∧
    (let s : State := (laneUp.setLane 0 { laneUp.lane 0 with kinds := [1, 3, 4] }).setReg (Reg.LANE_COEF_PAGE 0) 0x11F; let l : Fin 64 := 0; let i : Fin 256 := 255; (s.takesWrite (laneBase l + 0x400 + 4 * i.val) = true) ∧ ((s.lane l).hasCoefs (s.getF (F.LANE_COEF_PAGE_STAGE l)) = true) ∧ (s.bit (F.LANE_COEF_PAGE_BCAST l) = false) ∧ (s.getF (F.LANE_COEF_PAGE_STAGE l) = 1 ∨ 256 * s.getF (F.LANE_COEF_PAGE_PAGE l) + i.val < 128) ∧ ((s.lane l).ctx ≠ none) ∧ ((if s.getF (F.LANE_COEF_PAGE_STAGE l) = 0 then (s.lane l).firBank else (s.lane l).rsBank) = s.bit (F.LANE_COEF_PAGE_BANK l))) ∧
    (let s : State := laneUp; let c : Fin 1024 := 3; let stage : Bool := false; let sel : Fin 4 := 0; let x : LiveCtx := liveCtx; (s.loomIssues = true) ∧ (s.liveOf c = some x) ∧ (sel ≠ 3) ∧ ((s.lane x.lane).kinds.contains (if stage then 4 else 3) = true)) ∧
    (let s : State := laneUp.setLane 0 { laneUp.lane 0 with swaps := [(0, true)] }; let l : Fin 64 := 0; let c : Nat := 3; let new : Bool := true; ((s.lane l).ctx = some c) ∧ ((s.lane l).swaps = [(0, new)]) ∧ ((s.lane l).wrote = [])) := by
  and_intros <;> decide +kernel

/-- The hypotheses of CoefSwapRefusals can be met. -/
theorem witness_CoefSwapRefusals :
    (let s : State := laneUp; let c : Fin 1024 := 3; let stage : Bool := true; let sel : Fin 4 := 0; let x : LiveCtx := liveCtx; (s.loomIssues = true) ∧ (s.liveOf c = some x) ∧ (sel = 3 ∨ (s.lane x.lane).kinds.contains (if stage then 4 else 3) = false)) ∧
    (let s : State := running; let c : Fin 1024 := 3; (s.loomIssues = true) ∧ (s.liveOf c = none)) ∧
    (let s : State := running; let kind : BitVec 5 := 9; (s.loomIssues = true) ∧ (kind ≠ 0)) := by
  and_intros <;> decide +kernel

/-- The hypotheses of RecordLifecycle can be met. -/
theorem witness_RecordLifecycle :
    (let s : State := closable; let c : Fin 1024 := 3; let first : Nat := 251; let raw : List (BitVec 10) := List.replicate 12 5; let r : Record := closableRec; let kept : List LaneSample := closableKept; let pre : Nat := 0; let frac : Nat := 0; let short : Bool := false; (s.openRec c = some r) ∧ (s.cutOut r (laneOutputs (s.lane r.lane) (s.correctRun ((s.ctxChannel c).getD 0) first (raw.map (·.toInt)))) (decide (first + 5 ≤ (((s.lane r.lane).eras.getLast?).map (·.start)).getD 0)) = some (kept, pre, frac, short))) ∧
    (let s : State := live; let c : Fin 1024 := 3; (s.openRec c = none)) ∧
    (let s : State := marked; let c : Fin 1024 := 3; let r : Record := marked.seg.recs.headD (marked.blankRecord 3 .gap); (s.nextReady c = some r) ∧ (s.recHeld r = false)) ∧
    (let s : State := ((marked.mapRecs (fun _ => true) (fun q => { q with slot := some 7 })).setReg (Reg.MEM_PC_STATE 7) 2); let c : Fin 1024 := 3; let r : Record := ((marked.mapRecs (fun _ => true) (fun q => { q with slot := some 7 })).seg.recs.headD (marked.blankRecord 3 .gap)); (s.nextReady c = some r) ∧ (s.recHeld r = true)) ∧
    (let s : State := ready.set64 Reg.SEG_GSEQ_HOST_LO (2 ^ 64 - 1); let c : Fin 1024 := 3; let r : Record := ready.seg.recs.headD (marked.blankRecord 3 .gap); (s.delivers = true) ∧ (s.readyHead c = some r) ∧ (s.nextToHand c r = true) ∧ (∀ q ∈ s.seg.recs, q.ctx = r.ctx → q.cseq = r.cseq → q = r) ∧ (r.host.wanted = true) ∧ (r.host.acked = false)) ∧
    (let s : State := ready.mapRecs (fun _ => true) (fun q => { q with host := { q.host with wanted := false } }); let c : Fin 1024 := 3; let r : Record := (ready.mapRecs (fun _ => true) (fun q => { q with host := { q.host with wanted := false } })).seg.recs.headD (marked.blankRecord 3 .gap); (s.delivers = true) ∧ (s.readyHead c = some r) ∧ (s.nextToHand c r = true) ∧ ((s.recsOf c).head? = some r) ∧ (r.host.wanted = false) ∧ (r.stream.wanted = false)) ∧
    (let s : State := idle.setKeep 9 { CtxKeep.init with next := 7 }; let v : Word := 0x80000009; (s.takesWrite Reg.SEG_CTX_CLEAR = true) ∧ (v.getLsbD 31 = true) ∧ (s.isLive (fieldOf v 0 10) = false) ∧ (s.recsOf (fieldOf v 0 10) = [])) ∧
    (let s : State := marked; let v : Word := 0x80000003; (s.takesWrite Reg.SEG_CTX_CLEAR = true) ∧ (v.getLsbD 31 = true) ∧ (s.isLive (fieldOf v 0 10) = true ∨ s.recsOf (fieldOf v 0 10) ≠ [])) := by
  and_intros <;> decide +kernel

/-- The hypotheses of JobPlacement can be met. -/
theorem witness_JobPlacement :
    (let s : State := idle; let j : Fin 256 := 255; let w : Fin 13 := 12; let o : Nat := Reg.BEAM_JOB_CFG 255 + 48; (o = Reg.BEAM_JOB_CFG j + 4 * w.val) ∧ (s.takesWrite o = true) ∧ ((s.job j).state = 0)) ∧
    (let s : State := idle.setJob 255 { JobSt.init with state := 1 }; let j : Fin 256 := 255; let w : Fin 13 := 12; (s.takesWrite (Reg.BEAM_JOB_CFG j + 4 * w.val) = true) ∧ ((s.job j).state ≠ 0)) ∧
    (let s : State := placeable; let j : Fin 256 := 255; let b : Nat := 15; let d : JobDesc := placeable.jobDesc 255; let pcs : List Nat := [0]; (s.takesWrite (Reg.BEAM_JOB_CTRL j) = true) ∧ (s.beam.pre.any (fun p => p.1 == j.val) = false) ∧ ((s.job j).state = 0) ∧ (d = s.jobDesc j) ∧ (s.badJob d = false) ∧ (s.freeBeam d.pool = some b) ∧ (pcs = s.leastLoaded 16) ∧ (pcs ≠ []) ∧ (s.resvFits (d.reservation pcs pcs) = true)) ∧
    (let s : State := (placeable.setReg (Reg.BEAM_JOB_CFG 255) 0xF01).setReg (Reg.BEAM_JOB_X_DIV 255) 257; let j : Fin 256 := 255; let d : JobDesc := ((placeable.setReg (Reg.BEAM_JOB_CFG 255) 0xF01).setReg (Reg.BEAM_JOB_X_DIV 255) 257).jobDesc 255; (s.takesWrite (Reg.BEAM_JOB_CTRL j) = true) ∧ (s.beam.pre.any (fun p => p.1 == j.val) = false) ∧ (s.beam.tally = []) ∧ ((s.job j).state = 0) ∧ (d = s.jobDesc j) ∧ (d.kind = 0 ∨ 6 ≤ d.kind ∨ d.xMode = 3 ∨ (d.kind ≠ 3 ∧ d.kind ≠ 4 ∧ d.xMode ≠ 0) ∨ (d.kind = 3 ∧ d.xMode = 0) ∨ d.width = 0 ∨ (d.kind ≠ 1 ∧ d.kind ≠ 5 ∧ (4096 < d.width ∨ d.height = 0 ∨ 2048 < d.height)) ∨ (d.kind = 4 ∧ 1024 < d.height) ∨ d.xDiv = 0 ∨ 65536 < d.xDiv ∨ (d.kind = 1 ∧ 256 < d.xDiv) ∨ (d.xMode = 1 ∧ d.ui < 2 ^ 32) ∨ ((d.double = true ∨ d.kind = 3 ∨ d.kind = 4) ∧ d.limitCells < d.cells))) ∧
    (let s : State := placeable.setBit (F.BEAM_BEAM_STATUS_IN_SERVICE 15) false; let j : Fin 256 := 255; let d : JobDesc := placeable.jobDesc 255; (s.takesWrite (Reg.BEAM_JOB_CTRL j) = true) ∧ (s.beam.pre.any (fun p => p.1 == j.val) = false) ∧ (s.beam.tally = []) ∧ ((s.job j).state = 0) ∧ (d = s.jobDesc j) ∧ (s.badJob d = false) ∧ (s.freeBeam d.pool = none ∨ s.resvFits (d.reservation (s.leastLoaded 16) (s.leastLoaded 16)) = false)) ∧
    (let s : State := idle.setJob 9 { JobSt.init with state := 1, beam := some 2 }; let j : Fin 256 := 9; (s.takesWrite (Reg.BEAM_JOB_CTRL j) = true) ∧ ((s.job j).state = 1) ∧ (s.beam.pre.any (fun p => p.1 == j.val) = false)) ∧
    (let s : State := idle.setJob 9 { JobSt.init with state := 3, beam := some 2 }; let j : Fin 256 := 9; (s.takesWrite (Reg.BEAM_JOB_CTRL j) = true) ∧ ((s.job j).state ≠ 1)) ∧
    (let s : State := (withJob running); let j : Fin 256 := 255; let b : Nat := 15; let d : JobDesc := (withJob running).jobDesc 255; (s.loomIssues = true) ∧ (s.beam.pre = [] ∧ s.beam.freed = [] ∧ s.beam.placed = []) ∧ ((s.job j).state = 0) ∧ (d = s.jobDesc j) ∧ (s.badJob d = false) ∧ (s.freeBeam d.pool = some b) ∧ (s.leastLoaded 16 ≠ []) ∧ (s.resvFits (d.reservation (s.leastLoaded 16) (s.leastLoaded 16)) = true)) := by
  and_intros <;> decide +kernel

/-- The hypotheses of BeamPasses can be met. -/
theorem witness_BeamPasses :
    (let s : State := running.setJob 7 { JobSt.init with state := 1, beam := some 2, nextPass := 4 }; let j : Fin 256 := 7; (s.loomIssues = true) ∧ (s.beam.pre = [] ∧ s.beam.freed = [] ∧ s.beam.placed = []) ∧ ((s.job j).state = 1 ∨ (4 ≤ (s.job j).state ∧ (s.job j).state ≤ 6))) ∧
    (let s : State := running.setJob 7 { JobSt.init with state := 7 }; let j : Fin 256 := 7; (s.loomIssues = true) ∧ (s.beam.pre = [] ∧ s.beam.freed = [] ∧ s.beam.placed = []) ∧ (s.beam.tally = []) ∧ ((s.job j).state = 2 ∨ (s.job j).state = 3 ∨ 7 ≤ (s.job j).state)) ∧
    (let s : State := running.setJob 7 { JobSt.init with state := 3, beam := some 2 }; let j : Fin 256 := 7; (s.loomIssues = true) ∧ (s.beam.pre = [] ∧ s.beam.freed = [] ∧ s.beam.placed = []) ∧ ((s.job j).state = 3 ∨ (s.job j).state = 7)) ∧
    (let s : State := running.setJob 7 { JobSt.init with state := 2, beam := some 2, bufs := [none], desc := some { running.jobDesc 7 with report := true } }; let j : Fin 256 := 7; (s.loomIssues = true) ∧ (s.beam.pre = [] ∧ s.beam.freed = [] ∧ s.beam.placed = []) ∧ ((s.job j).state = 2) ∧ ((s.descOf j).report = true)) ∧
    (let s : State := running; let j : Fin 256 := 7; (s.loomIssues = true) ∧ (s.beam.pre = [] ∧ s.beam.freed = [] ∧ s.beam.placed = []) ∧ (s.beam.tally = []) ∧ ((s.job j).state ≤ 1 ∨ (4 ≤ (s.job j).state ∧ (s.job j).state ≤ 6))) ∧
    (let s : State := running.setJob 7 { JobSt.init with state := 3, beam := some 2, bufs := [none] }; let j : Fin 256 := 7; let x : JobSt := { JobSt.init with state := 3, beam := some 2, bufs := [none] }; (s.loomIssues = true) ∧ (s.beam.pre = [] ∧ s.beam.freed = [] ∧ s.beam.placed = []) ∧ (x = s.job j) ∧ (x.state = 3) ∧ (x.freeBufs ≠ 0) ∧ ((s.descOf j).double = false ∨ x.oldPhase = .idle)) ∧
    (let s : State := running.setJob 7 { JobSt.init with state := 3, beam := some 2, bufs := [some (1, 1)] }; let j : Fin 256 := 7; (s.loomIssues = true) ∧ (s.beam.pre = [] ∧ s.beam.freed = [] ∧ s.beam.placed = []) ∧ (s.beam.tally = []) ∧ ((s.job j).state = 3) ∧ ((s.job j).freeBufs = 0 ∨ ((s.descOf j).double = true ∧ (s.job j).oldPhase ≠ .idle))) ∧
    (let s : State := running.setJob 7 { JobSt.init with state := 2, beam := some 2 }; let j : Fin 256 := 7; ((s.job j).oldPhase ≠ .clearing) ∧ ((s.job j).state = 2)) ∧
    (let s : State := running.setJob 7 { JobSt.init with state := 3, oldPhase := .clearing }; let j : Fin 256 := 7; ((s.job j).oldPhase = .clearing)) ∧
    (let s : State := running.setJob 7 { JobSt.init with state := 4, beam := some 2, bufs := [none], desc := some { running.jobDesc 7 with report := true } }; let j : Fin 256 := 7; ((s.job j).oldPhase = .idle) ∧ ((s.job j).state = 4) ∧ ((s.job j).cur.sweepsIn = [])) ∧
    (let s : State := running.setJob 7 { JobSt.init with state := 5, beam := some 2, bufs := [none], desc := some { running.jobDesc 7 with report := true, kind := 3, width := 2, height := 1 } }; let j : Fin 256 := 7; let d : JobDesc := { running.jobDesc 7 with report := true, kind := 3, width := 2, height := 1 }; ((s.job j).oldPhase = .idle) ∧ ((s.job j).state = 5) ∧ ((s.job j).startPending = false) ∧ (d = s.descOf j) ∧ (d.ctx < 1024)) ∧
    (let s : State := running.setJob 7 { JobSt.init with state := 6, bufs := [none, some (1, 1)] }; let j : Fin 256 := 7; ((s.job j).freeBufs ≠ 0) ∧ ((s.job j).oldPhase = .waitBuf ∨ ((s.job j).oldPhase = .idle ∧ (s.job j).state = 6))) ∧
    (let s : State := running.setJob 7 { JobSt.init with state := 6, bufs := [some (1, 1)] }; let j : Fin 256 := 7; ((s.job j).freeBufs = 0)) := by
  and_intros <;> decide +kernel

/-- The hypotheses of BeamFaultsAndPeek can be met. -/
theorem witness_BeamFaultsAndPeek :
    (let s : State := placeable.setReg (Reg.BEAM_CE_COUNT 15) 0xFFFFFFFF; let b : Fin 16 := 15; (s.beamInService b = true)) ∧
    (let s : State := placeable; let b : Fin 16 := 15; (s.beamInService b = true) ∧ (s.beamJob b = none)) ∧
    (let s : State := spareBeam; let b : Fin 16 := 15; let j : Fin 256 := 7; let e : Nat := 3; (s.beamInService b = true) ∧ (s.beamJob b = some j.val) ∧ (s.beam.pre = []) ∧ ((s.job j).state = 1) ∧ ((s.job j).restart = false ∧ (s.job j).startPending = false ∧ (s.job j).oldPhase = .idle) ∧ (e < 16 ∧ e ≠ b.val ∧ s.beamInService e = true ∧ s.beamJob e = none ∧ (s.beam.pools.getD e 0xFF).toNat = (s.descOf j).pool) ∧ (∀ i : Fin 16, i.val < e → i ≠ b → s.beamInService i = false ∨ s.beamJob i ≠ none ∨ (s.beam.pools.getD i 0xFF).toNat ≠ (s.descOf j).pool) ∧ ((s.beam.jobs.filter (fun p => p.1 == j.val)).length = 1)) ∧
    (let s : State := placeable.setJob 7 { JobSt.init with state := 1, beam := some 15, desc := some (placeable.jobDesc 255) }; let b : Fin 16 := 15; let j : Fin 256 := 7; (s.beamInService b = true) ∧ (s.beamJob b = some j.val) ∧ (s.beam.pre = []) ∧ ((s.job j).state = 1) ∧ ((s.job j).oldPhase = .idle) ∧ (∀ i : Fin 16, i ≠ b → s.beamInService i = false ∨ s.beamJob i ≠ none ∨ (s.beam.pools.getD i 0xFF).toNat ≠ (s.descOf j).pool)) ∧
    (let s : State := placeable.setJob 7 { JobSt.init with state := 7, desc := some (placeable.jobDesc 255), restart := true }; let j : Fin 256 := 7; let b : Nat := 15; ((s.job j).state = 7) ∧ (s.freeBeam (s.descOf j).pool = some b)) ∧
    (let s : State := idle; (s.takesWrite Reg.BEAM_PEEK_SEL = true)) ∧
    (let s : State := (placeable.setJob 7 { JobSt.init with state := 3, beam := some 15, desc := some { placeable.jobDesc 255 with kind := 2, width := 4, height := 2 }, cur := { BeamPass.init with cells := [(5, (0xFFFFFFFF, 0))] } }).setReg Reg.BEAM_PEEK_SEL 0x07000005; let j : Fin 256 := 7; let k : Nat := 5; let x : JobSt := { JobSt.init with state := 3, beam := some 15, desc := some { placeable.jobDesc 255 with kind := 2, width := 4, height := 2 }, cur := { BeamPass.init with cells := [(5, (0xFFFFFFFF, 0))] } }; (s.hostReaches = true) ∧ (s.readOpen (Reg.BEAM_PEEK 0) = true) ∧ (s.reg Reg.BEAM_PEEK_SEL = BitVec.ofNat 32 (j.val * 2 ^ 24 + k)) ∧ (x = s.job j) ∧ (k < (s.descOf j).cells) ∧ (k < 2 ^ 24) ∧ (∀ w ∈ (s.workingPass j).loose, k % max 1 (s.descOf j).width < w.lo ∨ w.hi ≤ k % max 1 (s.descOf j).width) ∧ (x.beam ≠ none ∧ x.spilled = false ∧ (s.workingPass j).blurred = none) ∧ ((s.descOf j).kind = 2 ∨ (s.descOf j).kind = 3)) ∧
    (let s : State := idle; (s.hostReaches = true) ∧ (s.readOpen (Reg.BEAM_PEEK 0) = true) ∧ ((s.job (s.getF ⟨Reg.BEAM_PEEK_SEL, 24, 8⟩)).beam = none)) := by
  and_intros <;> decide +kernel

/-- The hypotheses of HbmFreezes can be met. -/
theorem witness_HbmFreezes :
    (let s : State := placeable.setReg (Reg.MEM_CE_TOTAL) 0xFFFFFFFF; let p : Fin 64 := 0; (s.operational = true ∨ s.cur = .selftest) ∧ (s.pcState p = 1 ∨ s.pcState p = 3)) ∧
    (let s : State := placeable; let p : Fin 64 := 0; (s.operational = true) ∧ (s.pcState p = 1) ∧ (s.seg.keep = [] ∧ s.seg.recs = [] ∧ s.beam.jobs = []) ∧ (s.mem.change = none ∧ s.mem.deferred = none ∧ s.mem.ctrlReq = [])) ∧
    (let s : State := placeable.setReg (Reg.MEM_PC_STATE 63) 2; let p : Fin 64 := 63; (s.operational = true) ∧ (s.pcState p = 2 ∨ (s.pcState p = 3 ∧ sparseGet (fun _ => none) s.mem.released p = some s.time.clk))) ∧
    (let s : State := placeable.setKeep 9 { CtxKeep.init with stripe := [63, 0, 5] }; let p : Fin 64 := 0; let c : Fin 1024 := 9; let k : CtxKeep := { CtxKeep.init with stripe := [63, 0, 5] }; (s.operational = true) ∧ (s.pcState p = 1) ∧ (s.seg.keep = [(c.val, k)] ∧ s.seg.recs = [] ∧ s.beam.jobs = []) ∧ (k.stripe.contains p.val = true)) ∧
    (let s : State := { placeable with mem := { placeable.mem with ctrlReq := [(0, 1)] } }; let p : Fin 64 := 0; (s.operational = true) ∧ (s.pcState p = 1) ∧ (s.seg.keep = [] ∧ s.seg.recs = [] ∧ s.beam.jobs = []) ∧ (s.mem.change = none ∧ s.mem.deferred = none) ∧ (s.mem.ctrlReq = [(p.val, 1)] ∧ s.mem.retireReq = [])) ∧
    (let s : State := placeable.setF F.DEV_STATE_CUR EngState.selftest.code; let p : Fin 64 := 0; let e : HbmError := ⟨1, 6, 47, 16383, 31, 5, 3⟩; (s.cur = .selftest) ∧ (s.pcState p = 1) ∧ (e.cause = 1)) ∧
    (let s : State := placeable; let p : Fin 64 := 0; (s.takesWrite (Reg.MEM_PC_CTRL p) = true) ∧ (s.pcState p ≠ 2) ∧ (s.mem.retireReq = [] ∧ s.mem.doneReq = [])) ∧
    (let s : State := placeable.setReg (Reg.MEM_PC_STATE 63) 2; let p : Fin 64 := 63; (s.takesWrite (Reg.MEM_PC_CTRL p) = true) ∧ (s.pcState p = 2) ∧ (s.mem.retireReq.contains p.val = false)) ∧
    (let s : State := placeable.setReg (Reg.MEM_PC_STATE 63) 2; let p : Fin 64 := 63; (s.takesWrite (Reg.MEM_PC_CTRL p) = true) ∧ (s.pcState p = 2) ∧ (s.mem.retireReq = [] ∧ s.mem.doneReq = [] ∧ s.mem.ctrlReq = []) ∧ (s.seg = SegSt.init) ∧ (s.retiredCount < 8)) ∧
    (let s : State := placeable.setReg (Reg.MEM_PC_STATE 63) 3; let p : Fin 64 := 63; let x : PcSweep := openSweep; let tm : PcTiming := ⟨[63, 63, 63, 63, 63], [63, 63, 63, 63, 63], 128⟩; (s.pcState p = 3) ∧ (sweepTiming x (LaneMap.ofWord (s.reg (Reg.MEM_PC_LANEMAP p))) = .inl tm) ∧ (s.mem.retireReq = [] ∧ s.mem.doneReq = [] ∧ s.mem.ctrlReq = []) ∧ (s.seg = SegSt.init)) ∧
    (let s : State := placeable.setReg (Reg.MEM_PC_STATE 63) 3; let p : Fin 64 := 63; let x : PcSweep := ⟨[], []⟩; let g : Nat := 0; (s.pcState p = 3) ∧ (sweepTiming x (LaneMap.ofWord (s.reg (Reg.MEM_PC_LANEMAP p))) = .inr g) ∧ (s.mem.retireReq = [] ∧ s.mem.doneReq = [] ∧ s.mem.ctrlReq = []) ∧ (s.seg = SegSt.init) ∧ (s.retiredCount < 8)) ∧
    (let s : State := reread; let p : Fin 64 := 0; let c : Fin 1024 := 3; let cseq : Nat := 0; let r : Record := reread.seg.recs.headD (marked.blankRecord 3 .gap); (s.pcState p = 1) ∧ ((sparseGet (fun _ => []) s.mem.reread p).contains (c.val, cseq) = true) ∧ (s.seg.recs = [r]) ∧ (r.ctx = c.val ∧ r.cseq = cseq ∧ r.state = .ready) ∧ (r.host.wanted = true ∧ r.host.visible = false ∧ r.host.gap = none ∧ r.stream.wanted = false)) := by
  and_intros <;> decide +kernel

/-- The hypotheses of FrequencyTrackingWindow can be met. -/
theorem witness_FrequencyTrackingWindow :
    (let s : State := placeable; let v : Word := 0x80000002; (s.takesWrite Reg.MEM_FREQ = true) ∧ (v.getLsbD 31 = true) ∧ (fieldOf v 0 2 ≠ 3) ∧ (s.lives = [] ∧ s.mem.change = none ∧ s.mem.deferred = none ∧ s.mem.track = none) ∧ (∀ p : Fin 64, s.pcState p ≠ 2 ∧ s.pcState p ≠ 3)) ∧
    (let s : State := placeable.setReg (Reg.MEM_PC_STATE 63) 3; let v : Word := 0x80000002; (s.takesWrite Reg.MEM_FREQ = true) ∧ (v.getLsbD 31 = true) ∧ (s.lives ≠ [] ∨ s.mem.change ≠ none ∨ s.mem.deferred ≠ none ∨ (∃ p : Fin 64, s.pcState p = 2 ∨ s.pcState p = 3) ∨ fieldOf v 0 2 = 3)) ∧
    (let s : State := tracking; let v : Word := 0x80000001; let n : TrackPass := ⟨0, 99, [], [], 0⟩; (s.takesWrite Reg.MEM_FREQ = true) ∧ (v.getLsbD 31 = true) ∧ (fieldOf v 0 2 ≠ 3) ∧ (s.lives = [] ∧ s.mem.change = none ∧ s.mem.deferred = none ∧ s.mem.track = some n) ∧ (∀ p : Fin 64, s.pcState p ≠ 2 ∧ s.pcState p ≠ 3)) ∧
    (let s : State := (placeable.setReg Reg.MEM_FREQ 2).deferChange 2 5; let point : Nat := 2; let go : Nat := 5; (s.mem.deferred = some (point, go)) ∧ (s.mem.track.all (fun p => decide (p.turn.length ≤ p.done)) = true)) ∧
    (let s : State := (placeable.startChange 2 5).setPll .mpll pllLocked; let c : FreqChange := ⟨2, 0, 5, false⟩; (s.mem.change = some c) ∧ (c.point < 4) ∧ (s.mpllRuns = true) ∧ (c.opened = false ∨ (s.getF F.MEM_STATUS_POINT_IN_EFFECT = c.point ∧ ∀ p : Fin 64, s.bit (F.MEM_PC_STATE_SELF_REFRESH p) = false))) ∧
    (let s : State := placeable; (s.operational = true) ∧ (s.getF ⟨Reg.MEM_TRACK_PERIOD, 0, 16⟩ ≠ 0) ∧ (s.mem.change = none ∧ s.mem.track = none)) ∧
    (let s : State := { tracking with time := { tracking.time with clk := 100 } }; let p : TrackPass := ⟨0, 99, [], [], 0⟩; (s.mem.track = some p) ∧ (p.start + p.clocks ≤ s.time.clk)) ∧
    (let old : Nat := 127; (old ≤ 127)) ∧
    (let s : State := idle; (s.hostReaches = true)) ∧
    (let s : State := idle.setReg Reg.MEM_DBG_BASE 12; (s.hostReaches = true) ∧ (12 ≤ s.getF ⟨Reg.MEM_DBG_BASE, 0, 4⟩)) ∧
    (let s : State := (idle.setReg Reg.MEM_DBG_BASE 11).setReg (Reg.MEM_PC_STATE 63) 4; let a : BitVec 32 := 0xFFFFFFFF; let g : Nat := 12 * 2 ^ 32 - 1; let p : Nat := 63; (s.hostReaches = true) ∧ (s.getF ⟨Reg.MEM_DBG_BASE, 0, 4⟩ < 12) ∧ (g = s.getF ⟨Reg.MEM_DBG_BASE, 0, 4⟩ * 2 ^ 32 + a.toNat) ∧ (p = 32 * (g / 25769803776) + g % 25769803776 / 805306368) ∧ (s.pcState p = 2 ∨ s.pcState p = 4 ∨ s.bit F.MEM_STATUS_CHANGING = true)) ∧
    (let s : State := placeable; let a : BitVec 32 := 0xFF; (s.hostReaches = true) ∧ (s.getF ⟨Reg.MEM_DBG_BASE, 0, 4⟩ < 12) ∧ (s.pcState (s.bar2Pc a.toNat) = 1) ∧ (s.bit F.MEM_STATUS_CHANGING = false)) ∧
    (let s : State := placeable.setPool 63 [⟨true, 805306304, 3, 0, List.replicate 64 7⟩]; let p : Fin 64 := 63; let e : PoolEntry := ⟨true, 805306304, 3, 0, List.replicate 64 7⟩; (s.pool p = [e]) ∧ (e.write = true ∧ e.addr % 64 = 0 ∧ e.data.length = 64)) ∧
    (let s : State := windowEnd; let st : Fin 2 := 1; (s.operational = true) ∧ (s.windowOver st = true)) := by
  and_intros <;> decide +kernel

/-- The hypotheses of ShuttleRounds can be met. -/
theorem witness_ShuttleRounds :
    (let s : State := offering; let st : Nat := 0; let offers : List (Nat × Nat) := [(0, 0), (11, 5)]; let g : List (Nat × Nat × Bool) := [(11, 5, true), (0, 0, false)]; (offers = (List.range 12).filterMap (fun r => (s.arbOffer st r).map (fun p => (r, p)))) ∧ (g = ((List.range 4).foldl (fun a _ => s.arbSlot st offers a) ⟨[], (s.shuttle st).ptr, (s.shuttle st).forcedPtr⟩).grants)) ∧
    (let s : State := offering; let st : Fin 2 := 0; let r : Fin 12 := 0; (s.arbOffer st r ≠ none)) ∧
    (let s : State := offering; let st : Fin 2 := 0; let r : Fin 12 := 7; (s.arbOffer st r = none)) ∧
    (let s : State := windowEnd; let st : Fin 2 := 1; (s.operational = true) ∧ (s.windowOver st = true)) ∧
    (let s : State := offering; let st : Fin 2 := 0; (s.operational = false ∨ s.windowOver st = false)) := by
  and_intros <;> decide +kernel

/-- The hypotheses of DeliveryQueues can be met. -/
theorem witness_DeliveryQueues :
    (let s : State := (idle.setReg (Reg.DMA_CH_CFG 8) 1).setReg (Reg.DMA_DQ_COMP_CONS 63) 9; let q : Fin 64 := 63; let v : Word := 0x08000600; (s.takesWrite (Reg.DMA_DQ_CFG q) = true) ∧ ((s.reg (Reg.DMA_DQ_CFG q)).getLsbD 31 = false) ∧ (s.geometryOk q ((v ||| 0x80000000) &&& maskAt (Reg.DMA_DQ_CFG q)) = true)) ∧
    (let s : State := idle.setReg (Reg.DMA_CH_CFG 8) 1; let q : Fin 64 := 63; let v : Word := 0x08005600; (s.takesWrite (Reg.DMA_DQ_CFG q) = true) ∧ ((s.reg (Reg.DMA_DQ_CFG q)).getLsbD 31 = false) ∧ ((1 ≤ fieldOf v 8 4 ∧ fieldOf v 8 4 ≤ 5) ∨ (1 ≤ fieldOf v 12 4 ∧ fieldOf v 12 4 ≤ 5) ∨ fieldOf (s.reg (Reg.DMA_DQ_FREE_BASE_LO q)) 0 12 ≠ 0 ∨ fieldOf (s.reg (Reg.DMA_DQ_COMP_BASE_LO q)) 0 12 ≠ 0 ∨ s.chanKind (fieldOf v 24 5) ≠ 1)) ∧
    (let s : State := queueUp; let q : Fin 64 := 0; let v : Word := 0x08006600; (s.takesWrite (Reg.DMA_DQ_CFG q) = true) ∧ ((s.reg (Reg.DMA_DQ_CFG q)).getLsbD 31 = true) ∧ ((v ^^^ s.reg (Reg.DMA_DQ_CFG q)) &&& maskAt (Reg.DMA_DQ_CFG q) &&& 0x7FFFFFFF = 0) ∧ (s.reg (Reg.DMA_DQ_CFG q) &&& ~~~maskAt (Reg.DMA_DQ_CFG q) = 0)) ∧
    (let s : State := queueUp.setReg (Reg.DMA_DQ_FREE_CONS 0) 0xFFFFFFFF; let q : Fin 64 := 0; (s.takesWrite (Reg.DMA_DQ_FREE_PROD q) = true)) ∧
    (let s : State := queueUp; let q : Fin 64 := 0; let v : Word := 1; let cons : Word := 0; let prod : Word := 0; (s.takesWrite (Reg.DMA_DQ_COMP_CONS q) = true) ∧ (cons = s.reg (Reg.DMA_DQ_COMP_CONS q)) ∧ (prod = s.reg (Reg.DMA_DQ_COMP_PROD q)) ∧ ((prod - cons).toNat < (v - cons).toNat)) ∧
    (let s : State := visible; let q : Fin 64 := 0; let v : Word := 1; let k : Nat × Nat := (3, 0); let r : Record := visible.seg.recs.headD (marked.blankRecord 3 .gap); (s.takesWrite (Reg.DMA_DQ_COMP_CONS q) = true) ∧ (v = s.reg (Reg.DMA_DQ_COMP_CONS q) + 1) ∧ (s.reg (Reg.DMA_DQ_COMP_PROD q) ≠ s.reg (Reg.DMA_DQ_COMP_CONS q)) ∧ ((s.queue q).unacked = [k]) ∧ (s.seg.recs = [r] ∧ (r.ctx, r.cseq) = k) ∧ (r.state = .handed ∧ r.host.visible = true ∧ r.stream.wanted = false)) ∧
    (let s : State := queueUp; let q : Fin 64 := 0; let v : Word := 0; (s.takesWrite (Reg.DMA_DQ_COMP_CONS q) = true) ∧ (v = s.reg (Reg.DMA_DQ_COMP_CONS q))) ∧
    (let s : State := queueUp.setReg (Reg.DMA_DQ_FREE_PROD 0) 40; let q : Fin 64 := 0; let descs : List (BitVec 64 × Word) := List.replicate 20 (0x1000, 7); let n : Nat := 4; let i : Nat := 0; (s.burstsOpen = true) ∧ (s.arbPick false = some (q % 4)) ∧ ((s.prefetchQueues (q % 4)).contains q.val = true) ∧ (descs ≠ [] ∧ descs.all (fun d => d.1 &&& 0x3F == 0) = true) ∧ (n = (descs.take (s.prefetchCount (q % 4) q)).length) ∧ (i = (s.reg (Reg.DMA_DQ_FREE_CONS q)).toNat + (s.queue q).ahead.length)) ∧
    (let s : State := queueUp.setReg (Reg.DMA_DQ_FREE_PROD 0) 40; let q : Fin 64 := 0; let a : BitVec 64 := 0x1020; (s.burstsOpen = true) ∧ (s.arbPick false = some (q % 4)) ∧ ((s.prefetchQueues (q % 4)).contains q.val = true) ∧ (0 < s.prefetchCount (q % 4) q) ∧ (a &&& 0x3F ≠ 0) ∧ (s.bit F.DMA_STATUS_ALL_STOP = false)) ∧
    (let s : State := queueUp; let q : Fin 64 := 0; let descs : List (BitVec 64 × Word) := [(0x1000, 7)]; (s.burstsOpen = false ∨ descs = [] ∨ s.arbPick false ≠ some (q % 4) ∨ (s.prefetchQueues (q % 4)).contains q.val = false)) := by
  and_intros <;> decide +kernel

/-- The hypotheses of DeliveryBursts can be met. -/
theorem witness_DeliveryBursts :
    (let s : State := moving; let ch : Nat := 8; let q : Nat := 0; let r : Record := moving.seg.recs.headD (marked.blankRecord 3 .gap); let b : Taken := ⟨0, 0x1FC0, 7⟩; let n : Nat := 64; let x : QueueSt := { moving.queue 0 with cur := some (3, 0) }; (s.burstsOpen = true) ∧ (s.arbPick true = some ch) ∧ (s.readyQueue ch = some q) ∧ (s.nextBurst ch q = some (r, b, n)) ∧ (x = (s.queue q).facing r) ∧ (s.bit F.MEM_STATUS_CHANGING = false)) ∧
    (let s : State := moving.setBit F.MEM_STATUS_CHANGING true; let ch : Nat := 8; let q : Nat := 0; let r : Record := moving.seg.recs.headD (marked.blankRecord 3 .gap); let b : Taken := ⟨0, 0x1FC0, 7⟩; let n : Nat := 64; (s.burstsOpen = true) ∧ (s.arbPick true = some ch) ∧ (s.readyQueue ch = some q) ∧ (s.nextBurst ch q = some (r, b, n)) ∧ (s.bit F.MEM_STATUS_CHANGING = true)) ∧
    (let s : State := queueUp.setReg (Reg.DMA_DQ_FREE_PROD 0) 40; let data : List Byte := List.replicate 32 0; let ch : Nat := 0; let q : Nat := 0; let n : Nat := 2; (s.burstsOpen = true) ∧ (s.arbPick false = some ch) ∧ (ch < 4) ∧ (s.prefetchQueues ch = [q]) ∧ ((descsOf data).all (fun d => d.1 &&& 0x3F == 0) = true) ∧ (n = ((descsOf data).take (s.prefetchCount ch q)).length) ∧ (16 ≤ data.length)) ∧
    (let s : State := queueUp.setReg (Reg.DMA_DQ_FREE_PROD 0) 40; let data : List Byte := []; let ch : Nat := 0; (s.burstsOpen = true) ∧ (s.arbPick false = some ch) ∧ (ch < 4) ∧ (data.length < 16)) ∧
    (let s : State := pacing; let data : List Byte := List.replicate 64 1; let ch : Nat := 9; let p : PacedReq := ⟨1, 4, 0x1000, 100, [], false⟩; let l : List PacedReq := []; let n : Nat := 64; (s.burstsOpen = true) ∧ (s.arbPick false = some ch) ∧ (4 ≤ ch) ∧ ((s.chan ch).paced = p :: l ∧ (s.chan ch).gone = none) ∧ (n = s.burstLen ch p.left 0 p.left p.addr) ∧ (n ≤ data.length)) ∧
    (let s : State := pacing; let data : List Byte := List.replicate 63 1; let ch : Nat := 9; let p : PacedReq := ⟨1, 4, 0x1000, 100, [], false⟩; let l : List PacedReq := []; (s.burstsOpen = true) ∧ (s.arbPick false = some ch) ∧ (4 ≤ ch) ∧ ((s.chan ch).paced = p :: l ∧ (s.chan ch).gone = none) ∧ (data.length < s.burstLen ch p.left 0 p.left p.addr)) ∧
    (let s : State := pacing.setChan 9 { ChanSt.init with gone := some ⟨1, 4, 0x1000, 100, [], false⟩ }; let ch : Nat := 9; let p : PacedReq := ⟨1, 4, 0x1000, 100, [], false⟩; let n : Nat := 64; (s.burstsOpen = true) ∧ (s.arbPick false = some ch) ∧ (4 ≤ ch) ∧ ((s.chan ch).gone = some p) ∧ (n = s.burstLen ch p.left 0 p.left p.addr)) ∧
    (let s : State := idle; let toHost : Bool := true; (s.arbPick toHost = none ∨ s.burstsOpen = false)) ∧
    (let s : State := moved.setQueue 0 { moved.queue 0 with flush := some 0x1FC0 }; let q : Fin 64 := 0; let flushed : Bool := false; ((s.queue q).flush ≠ none ∧ flushed = false)) ∧
    (let s : State := moved; let q : Fin 64 := 0; let r : Record := moving.seg.recs.headD (marked.blankRecord 3 .gap); let i : CompletionInfo := ⟨true, 0, 1, 64, 0, 7⟩; let flushed : Bool := false; (s.queueRecord q = some r) ∧ (flushed = true ∨ (s.queue q).flush = none) ∧ (s.mayComplete q r = true) ∧ (i = { phase := (s.reg (Reg.DMA_DQ_COMP_PROD q)).toNat / s.compEntries q % 2 == 0, reshuffle := s.reshuffleOf q r, bufs := (s.queue q).taken.length, bytes := (s.queue q).sent, freeIndex := ((s.queue q).taken.headD ⟨0, 0, 0⟩).index, tag := ((s.queue q).taken.headD ⟨0, 0, 0⟩).tag.toNat })) ∧
    (let s : State := ((queueUp.setQueue 63 { QueueSt.init with coal := 2 }).setReg (Reg.DMA_DQ_COAL 63) 0x10000).setReg (Reg.DMA_MSIX_CTL 63) 0; let q : Fin 64 := 63; ((s.queue q).coal ≠ 0 ∧ s.getF (F.DMA_DQ_COAL_TIME q) ≠ 0) ∧ (s.bit (F.DMA_MSIX_MASK (s.getF ⟨Reg.DMA_DQ_VECTOR q, 0, 6⟩)) = false ∧ s.board.d3hot = false)) ∧
    (let s : State := (queueUp.setQueue 63 { QueueSt.init with coal := 2 }).setReg (Reg.DMA_DQ_COAL 63) 0x10000; let q : Fin 64 := 63; ((s.queue q).coal ≠ 0 ∧ s.getF (F.DMA_DQ_COAL_TIME q) ≠ 0) ∧ (s.bit (F.DMA_MSIX_MASK (s.getF ⟨Reg.DMA_DQ_VECTOR q, 0, 6⟩)) = true ∨ s.board.d3hot = true)) := by
  and_intros <;> decide +kernel

/-- The hypotheses of FullCompletionRing can be met. -/
theorem witness_FullCompletionRing :
    (let s : State := moved.setReg (Reg.DMA_DQ_COMP_PROD 0) 64; let q : Fin 64 := 0; ((s.queue q).consOld.map (·.1) ≠ some s.time.clk) ∧ (s.compEntries q ≤ (s.reg (Reg.DMA_DQ_COMP_PROD q) - s.reg (Reg.DMA_DQ_COMP_CONS q)).toNat)) ∧
    (let s : State := moved.setReg (Reg.DMA_DQ_COMP_PROD 0) 64; let q : Fin 64 := 0; (s.hostReaches = true) ∧ (s.readOpen (Reg.DMA_DQ_STATUS q) = true) ∧ (s.getF (F.DMA_DQ_CFG_COMP_LOG2 q) = 0 ∨ 6 ≤ s.getF (F.DMA_DQ_CFG_COMP_LOG2 q))) := by
  and_intros <;> decide +kernel

/-- The hypotheses of ChannelsAndBusErrors can be met. -/
theorem witness_ChannelsAndBusErrors :
    (let s : State := queueUp; let ch : Fin 32 := 8; (4 ≤ ch.val) ∧ (s.chanState ch = 1 ∨ s.chanState ch = 2)) ∧
    (let s : State := queueUp; (s.bit F.DMA_STATUS_ALL_STOP = false)) ∧
    (let s : State := halted; let ch : Fin 32 := 8; let q : Nat := 0; let n : Nat := 64; (s.takesWrite (Reg.DMA_CH_CTRL ch) = true) ∧ (s.getF (F.DMA_CH_STATUS_STATE ch) = 3) ∧ (s.bit (F.DMA_CH_STATUS_DIR ch) = true) ∧ (s.chanKind ch ≠ 2) ∧ ((s.chan ch).last = some (q, n)) ∧ ((s.queue q).cur ≠ none) ∧ (n ≤ (s.queue q).sent) ∧ (s.dma.ctrlReq = [] ∧ s.dma.resetReq = false ∧ s.bit F.DMA_STATUS_ALL_STOP = false)) ∧
    (let s : State := flushing; let ch : Fin 32 := 8; let q : Nat := 0; let a : Nat := 0x1FC0; (s.takesWrite (Reg.DMA_CH_CTRL ch) = true) ∧ (s.getF (F.DMA_CH_STATUS_STATE ch) = 3) ∧ (s.bit (F.DMA_CH_STATUS_DIR ch) = false) ∧ (s.chanKind ch ≠ 2) ∧ (s.chanQueues ch = [q]) ∧ ((s.queue q).flush = some a ∧ s.get64 (Reg.DMA_CH_ERR_ADDR_LO ch) = a) ∧ (s.dma.ctrlReq = [] ∧ s.dma.resetReq = false ∧ s.bit F.DMA_STATUS_ALL_STOP = false)) ∧
    (let s : State := halted; let ch : Fin 32 := 8; let q : Nat := 0; let n : Nat := 64; (s.takesWrite (Reg.DMA_CH_CTRL ch) = true) ∧ (s.getF (F.DMA_CH_STATUS_STATE ch) = 3) ∧ (s.chanKind ch ≠ 2) ∧ ((s.chan ch).last = some (q, n)) ∧ ((s.queue q).cur ≠ none) ∧ (s.dma.ctrlReq = [] ∧ s.dma.resetReq = false ∧ s.bit F.DMA_STATUS_ALL_STOP = false)) ∧
    (let s : State := queueUp.setReg (Reg.DMA_CH_STATUS 8) 4; let ch : Fin 32 := 8; (s.takesWrite (Reg.DMA_CH_CTRL ch) = true) ∧ (s.getF (F.DMA_CH_STATUS_STATE ch) ≠ 3) ∧ (s.dma.ctrlReq = [] ∧ s.dma.resetReq = false)) ∧
    (let s : State := (halted.chanCtrl 8 1).stopAll 0 0x40 false 3; (s.bit F.DMA_STATUS_ALL_STOP = true ∧ s.dma.resetReq = false)) ∧
    (let s : State := queueUp; (s.takesWrite Reg.DMA_CTRL = true)) ∧
    (let s : State := { queueUp with dma := { queueUp.dma with resetReq := true } }; (s.dma.resetReq = true ∧ s.dma.ctrlReq = [])) ∧
    (let s : State := moved.setReg Reg.DMA_STATUS 3; (s.bit F.DMA_STATUS_RESETTING = true)) ∧
    (let s : State := moved; let ch : Fin 32 := 8; let v : Word := 0x00FF0771; (s.takesWrite (Reg.DMA_CH_CFG ch) = true) ∧ (4 ≤ ch.val) ∧ ((v ^^^ s.reg (Reg.DMA_CH_CFG ch)) &&& 0x3F000003 = 0) ∧ (v &&& maskAt (Reg.DMA_CH_CFG ch) = v) ∧ (fieldOf v 0 2 ≠ 3)) ∧
    (let s : State := queueUp; let ch : Fin 32 := 8; let v : Word := 0x2; (s.takesWrite (Reg.DMA_CH_CFG ch) = true) ∧ (4 ≤ ch.val) ∧ ((v ^^^ s.reg (Reg.DMA_CH_CFG ch)) &&& 0x3F000003 ≠ 0) ∧ (v &&& maskAt (Reg.DMA_CH_CFG ch) = v) ∧ (fieldOf v 0 2 ≠ 3)) ∧
    (let s : State := overlayUp; let n : Fin 32 := 9; let line : Nat := 3; let scan : Option Nat := some 0; let l : Nat := 1; (s.operational = true ∧ s.chanKind n = 2) ∧ (l = s.getF (F.DMA_CH_CFG_PERIPH n)) ∧ (l = 1 ∨ l = 2) ∧ (s.bit (F.DISP_LAYER_STATUS_ENABLED l) = true) ∧ (line < fieldOf (s.dispEff (Reg.DISP_LAYER_SIZE l)) 16 13) ∧ ((s.chan n).paced = []) ∧ (s.disp.lines.any (fun p => p.1 == l && p.2.1 == line) = false) ∧ (scan.all (fun a => decide (line ≤ a + 8)) = true)) := by
  and_intros <;> decide +kernel

/-- The hypotheses of PacedWithdrawals can be met. -/
theorem witness_PacedWithdrawals :
    (let s : State := pacing; let n : Fin 32 := 9; let p : PacedReq := ⟨1, 4, 0x1000, 100, [], false⟩; let l : List PacedReq := []; ((s.chan n).paced = p :: l)) ∧
    (let s : State := pacing.setChan 9 { ChanSt.init with gone := some ⟨1, 4, 0x1000, 100, [], false⟩ }; (s.dma.resetReq = false ∧ s.dma.ctrlReq = [])) := by
  and_intros <;> decide +kernel

/-- The hypotheses of StreamCredit can be met. -/
theorem witness_StreamCredit :
    (let s : State := streaming; let r : Record := streaming.seg.recs.headD (marked.blankRecord 3 .gap); let k : Nat := 0; let b : Bolt := streaming.boltOf (streaming.seg.recs.headD (marked.blankRecord 3 .gap)) 0; (s.nextFrame = some (r, k)) ∧ (b = s.boltOf r k) ∧ (boltUnits b.payload.length ≤ (s.limitSeen - s.reg Reg.STRM_SENT).toNat) ∧ (s.bit F.MEM_STATUS_CHANGING = false ∨ (k ≠ 0 ∧ s.lastFrame r k = true))) ∧
    (let s : State := streaming.setReg Reg.STRM_LIMIT 0; let r : Record := streaming.seg.recs.headD (marked.blankRecord 3 .gap); let k : Nat := 0; (s.nextFrame = some (r, k)) ∧ ((s.limitSeen - s.reg Reg.STRM_SENT).toNat < boltUnits (s.boltOf r k).payload.length)) ∧
    (let s : State := { streaming with strm := { streaming.strm with flying := true } }; let r : Record := streaming.seg.recs.headD (marked.blankRecord 3 .gap); (s.strm.flying = true ∧ s.strm.resend = none) ∧ (r.stream.gap = none ∨ (s.boltOf r s.strm.frame).kind ≠ 2) ∧ (s.recAt true s.strm.gseq = some r) ∧ (r.stream.visible = false)) ∧
    (let s : State := overtaken; let r : Record := overtaken.seg.recs.headD (marked.blankRecord 3 .gap); (s.strm.flying = true ∧ s.strm.resend = none) ∧ (s.recAt true s.strm.gseq = some r) ∧ (r.stream.visible = false ∧ r.stream.gap.isSome = true ∧ (s.boltOf r s.strm.frame).kind = 2)) ∧
    (let s : State := streaming.setBit F.MEM_STATUS_CHANGING true; let r : Record := streaming.seg.recs.headD (marked.blankRecord 3 .gap); let k : Nat := 0; (s.nextFrame = some (r, k)) ∧ (s.bit F.MEM_STATUS_CHANGING = true ∧ (k = 0 ∨ s.lastFrame r k = false))) ∧
    (let s : State := streaming; let f : CtlFrame := ⟨[], 0⟩; (s.getF F.STRM_STATUS_STATE = 3) ∧ (f.errors.all (· == 0) = true ∧ f.corrected = 0)) := by
  and_intros <;> decide +kernel

/-- The hypotheses of StreamPort can be met. -/
theorem witness_StreamPort :
    (let s : State := streaming; let f : CtlFrame := ⟨[0, 4], 0⟩; let k : Fin 4 := 3; let x : Word := 5; let g : BitVec 64 := 0; (2 ≤ s.getF F.STRM_STATUS_STATE) ∧ (f.corrected = 0) ∧ (receivedCtl f ([ctlBolt 0x8 x.toNat 0 0, ctlBolt 0x9 0 0 g.toNat, ctlBolt 0xA x.toNat 0 0, ctlBolt 0xB 0 x.toNat g.toNat].getD k.val (ctlBolt 0x8 x.toNat 0 0)) = none)) ∧
    (let s : State := streamed; let f : CtlFrame := ⟨[], 0⟩; let g : BitVec 64 := 1; let r : Record := streamed.seg.recs.headD (marked.blankRecord 3 .gap); (s.getF F.STRM_STATUS_STATE = 3) ∧ (f.errors.all (· == 0) = true ∧ f.corrected = 0) ∧ (s.get64 Reg.STRM_ACKED_LO < g.toNat ∧ g.toNat ≤ s.strm.visible) ∧ (s.seg.recs = [r]) ∧ (r.state = .handed ∧ r.stream.wanted = true ∧ r.host.wanted = true ∧ r.host.acked = false ∧ r.stream.gseq = some (g.toNat - 1))) ∧
    (let s : State := streamed; let f : CtlFrame := ⟨[], 0⟩; let g : BitVec 64 := 0; (s.getF F.STRM_STATUS_STATE = 3) ∧ (f.errors.all (· == 0) = true ∧ f.corrected = 0) ∧ (g.toNat ≤ s.get64 Reg.STRM_ACKED_LO ∨ s.strm.visible < g.toNat)) ∧
    (let s : State := streamed; let f : CtlFrame := ⟨[], 0⟩; let g : Nat := 0; let fs : Nat := 0; let l : List Bolt := [someBolt, someBolt]; (s.getF F.STRM_STATUS_STATE = 3) ∧ (f.errors.all (· == 0) = true ∧ f.corrected = 0) ∧ (s.strm.starts = [(g, fs, l)] ∧ s.strm.resendReq = [])) ∧
    (let s : State := (streamed.resendActs 1).streamDown 1; (s.getF F.STRM_STATUS_STATE ≠ 3)) ∧
    (let kind : Nat := 11; let fseq : Nat := 2 ^ 32 - 1; let offset : Nat := 2 ^ 32 - 1; let gseq : Nat := 2 ^ 64 - 1; (kind < 256 ∧ fseq < 2 ^ 32 ∧ offset < 2 ^ 32 ∧ gseq < 2 ^ 64)) ∧
    (let s : State := streamed.setReg Reg.STRM_STATUS 0xA; let f : CtlFrame := ⟨[], 0⟩; let g : BitVec 64 := 1; (s.getF F.STRM_STATUS_STATE = 2) ∧ (f.errors.all (· == 0) = true ∧ f.corrected = 0) ∧ (s.get64 Reg.STRM_ACKED_LO ≤ g.toNat ∧ g.toNat ≤ s.strm.visible)) ∧
    (let s : State := streamed.setReg Reg.STRM_STATUS 0xA; let f : CtlFrame := ⟨[], 0⟩; let g : BitVec 64 := 2; (s.getF F.STRM_STATUS_STATE = 2) ∧ (f.errors.all (· == 0) = true ∧ f.corrected = 0) ∧ (g.toNat < s.get64 Reg.STRM_ACKED_LO ∨ s.strm.visible < g.toNat)) ∧
    (let s : State := streamed; (2 ≤ s.getF F.STRM_STATUS_STATE)) ∧
    (let s : State := (streamed.setReg Reg.STRM_STATUS 0x9).setReg Reg.STRM_CTRL 1; (s.getF F.STRM_STATUS_STATE = 1 ∧ s.bit F.STRM_CTRL_EN = true)) ∧
    (let s : State := streaming.setReg Reg.STRM_LIMIT 0; let r : Record := streaming.seg.recs.headD (marked.blankRecord 3 .gap); let k : Nat := 0; (s.nextFrame = some (r, k)) ∧ ((s.reg Reg.STRM_LIMIT - s.reg Reg.STRM_SENT).toNat < boltUnits (s.boltOf r k).payload.length) ∧ (s.bit F.STRM_STATUS_STALLED = false)) ∧
    (let s : State := streamed; (2 ≤ s.getF F.STRM_STATUS_STATE)) := by
  and_intros <;> decide +kernel

/-- The hypotheses of DisplayLink can be met. -/
theorem witness_DisplayLink :
    (let s : State := display; let v : Word := 0x00020310; (s.takesWrite Reg.DISP_CTRL = true) ∧ (s.bit F.DISP_CTRL_EN = false) ∧ (fieldOf v 16 2 ≠ 3 ∧ fieldOf v 8 3 ≤ 3)) ∧
    (let s : State := display; let v : Word := 0x00030300; (s.takesWrite Reg.DISP_CTRL = true) ∧ (s.bit F.DISP_CTRL_EN = false) ∧ (fieldOf v 16 2 = 3 ∨ 3 < fieldOf v 8 3)) ∧
    (let s : State := scanning; (s.takesWrite Reg.DISP_CTRL = true) ∧ (s.bit F.DISP_CTRL_EN = true)) ∧
    (let s : State := scanning; (s.takesWrite Reg.DISP_CTRL = true) ∧ (s.bit F.DISP_CTRL_EN = true) ∧ (s.reg Reg.DISP_CTRL &&& ~~~maskAt Reg.DISP_CTRL = 0)) ∧
    (let s : State := display.setF F.DISP_STATUS_STATE 1; (s.dispRuns = true)) ∧
    (let s : State := scanning; (s.dispRuns = true) ∧ (s.getF F.DISP_STATUS_STATE ≠ 0)) ∧
    (let s : State := scanning; (s.dispRuns = true)) ∧
    (let s : State := display.setF F.DISP_STATUS_STATE 2; (s.dispRuns = true) ∧ (s.getF F.DISP_STATUS_STATE = 2)) ∧
    (let s : State := withMode display; (s.takesWrite Reg.DISP_TIMING_COMMIT = true) ∧ (s.timingOk s.timingSet = true) ∧ (s.getF F.DISP_STATUS_STATE ≠ 3 ∨ s.hActive ≠ 0)) ∧
    (let s : State := (withMode display).setF F.DISP_CTRL_LANES 1; let pix : Nat := 533280; let bpc : Nat := 8; (s.takesWrite Reg.DISP_TIMING_COMMIT = true) ∧ (pix = s.getF ⟨Reg.DISP_PIXCLK, 0, 20⟩) ∧ (bpc = (if s.bit F.DISP_CTRL_BPC6 then 6 else 8)) ∧ (s.getF ⟨Reg.DISP_H_TIMING0, 0, 13⟩ < 320 ∨ 3840 < s.getF ⟨Reg.DISP_H_TIMING0, 0, 13⟩ ∨ s.getF ⟨Reg.DISP_V_TIMING0, 0, 13⟩ < 200 ∨ 2160 < s.getF ⟨Reg.DISP_V_TIMING0, 0, 13⟩ ∨ s.getF ⟨Reg.DISP_H_TIMING0, 16, 13⟩ = 0 ∨ s.getF ⟨Reg.DISP_H_TIMING1, 16, 13⟩ = 0 ∨ s.getF ⟨Reg.DISP_H_TIMING1, 0, 13⟩ = 0 ∨ s.getF ⟨Reg.DISP_V_TIMING0, 16, 13⟩ = 0 ∨ s.getF ⟨Reg.DISP_V_TIMING1, 16, 13⟩ = 0 ∨ s.getF ⟨Reg.DISP_V_TIMING1, 0, 13⟩ = 0 ∨ pix < 25000 ∨ 600000 < pix ∨ 78 * s.linkKbps < pix * 3 * bpc * 100)) ∧
    (let s : State := { scanning.setBit F.CLK_STATUS_REF_PRESENT true with disp := { scanning.disp with relock := true } }; (s.dispRuns = true ∧ s.disp.relock = true ∧ s.bit F.CLK_STATUS_REF_PRESENT = true)) ∧
    (let s : State := display; let v : Word := 0x90000100; (s.takesWrite Reg.DISP_AUX_CMD = true) ∧ (v.getLsbD 31 = true ∧ fieldOf v 28 3 ≤ 3)) ∧
    (let s : State := { display.setReg (Reg.DISP_AUX_DATA 0) 0x11223344 with disp := { display.disp with auxCmd := some 0x90000100 } }; let v : Word := 0x90000100; (s.disp.auxCmd = some v)) ∧
    (let s : State := display; (s.takesWrite Reg.DISP_LUT_COMMIT = true)) ∧
    (let s : State := display; let page : Bool := true; let i : Fin 4096 := 4095; (s.takesWrite (Reg.DISP_CURSOR (4096 * page.toNat + i)) = true)) ∧
    (let s : State := scanning; let o : Nat := Reg.DISP_BACKGROUND; (s.sendsFrames = true) ∧ (dispShadows.contains o = true) ∧ (s.disp.wrote.all (fun p => p.1 != o) = true)) ∧
    (let s : State := display; (s.sendsFrames = false)) := by
  and_intros <;> decide +kernel

/-- The hypotheses of DisplayFrames can be met. -/
theorem witness_DisplayFrames :
    (let s : State := scanning; (s.sendsFrames = true)) ∧
    (let s : State := scanning.setF F.DISP_STATUS_STATE 3; (s.sendsFrames = true) ∧ (s.getF F.DISP_STATUS_STATE = 3)) ∧
    (let s : State := { scanning with disp := { scanning.disp with displaced := [(2, some 0x1040000000)] } }; let n : Fin 4 := 2; let a : Nat := 0x1040000000; (s.sendsFrames = true) ∧ (n = 1 ∨ n = 2) ∧ (sparseGet (fun _ => none) s.disp.displaced n = some a) ∧ (a < 2 ^ 64)) ∧
    (let s : State := scanning.setReg (Reg.DISP_LAYER_ADDR_LO 1) 0x40; let n : Fin 4 := 1; (s.sendsFrames = true) ∧ (n = 1 ∨ n = 2) ∧ (sparseGet (fun _ => none) s.disp.displaced n = none)) ∧
    (let s : State := scanning.setBit (F.DISP_LAYER_STATUS_ENABLED 2) true; let n : Fin 4 := 2; (s.sendsFrames = true) ∧ (n = 1 ∨ n = 2) ∧ (s.layerOn n = true) ∧ (s.disp.pendTiming = none)) ∧
    (let s : State := rectangle; let k : Fin 8 := 7; (s.rectOn k = true ∧ s.rectInside k = true)) ∧
    (let a : Nat := 128; let x : Nat := 255; let d : Nat := 0; (a ≤ 255 ∧ x ≤ 255 ∧ d ≤ 255)) ∧
    (let v : Nat := 3; (0 < v)) := by
  and_intros <;> decide +kernel

/-- The hypotheses of BlackBox can be met. -/
theorem witness_BlackBox :
    (let s : State := idle; let src : Byte := 9; let code : BitVec 16 := 1; let p : List Byte := [1, 2]; let r : BbxRecord := idle.newRecord 9 1 0 [1, 2]; (s.cur ≠ .off) ∧ (p.length ≤ 32) ∧ (s.bbxLost = false) ∧ (s.nextRseq + 1 < 2 ^ 64) ∧ (s.bbx.ring.all (fun q => q.2 != s.time.clk) = true) ∧ (r = s.newRecord src.toNat code.toNat 0 p)) ∧
    (let p : List Byte := List.replicate 33 0; (32 < p.length)) ∧
    (let s : State := made; let okA : Bool := true; let okB : Bool := true; let r : BbxRecord := made.bbx.ring.map (·.1) |>.headD (made.newRecord 2 1 0 []); let c : Nat := 0; (s.cur ≠ .off) ∧ (s.bbx.ring = [(r, c)] ∧ c < s.time.clk) ∧ (s.snapBlocks = false) ∧ (s.copyInService false = true ∧ s.copyInService true = true) ∧ (okA = true ∨ okB = true)) ∧
    (let s : State := idle.setF F.BBX_STATUS_COPY_A 1; (s.takesWrite Reg.BBX_CTRL = true)) ∧
    (let s : State := { idle.setF F.BBX_STATUS_COPY_A 2 with bbx := { idle.bbx with retryReq := some (true, false) } }; let a : Bool := true; let b : Bool := false; (s.bbx.retryReq = some (a, b)) ∧ (s.bbxLost = false)) ∧
    (let s : State := committed.setBit F.BBX_STATUS_MODE true; let f : Nat := 0; let l : Nat := 0; (s.takesWrite Reg.BBX_CTRL = true) ∧ (s.snapshotMode = true) ∧ (f = s.get64 Reg.BBX_SNAP_FROM_LO % 2 ^ 48) ∧ (l = s.get64 Reg.BBX_SNAP_TO_LO % 2 ^ 48)) ∧
    (let s : State := { committed with bbx := { committed.bbx with latchReq := some (0, 0) } }; let f : Nat := 0; let l : Nat := 0; (s.bbx.latchReq = some (f, l)) ∧ (f ≤ l)) ∧
    (let s : State := committed; (s.takesWrite Reg.BBX_CTRL = true)) ∧
    (let s : State := committed; let v : Word := 0; let n : Nat := 0; let b : List Byte := match committed.recordIn committed.bbx.copyBefore 0 with | some r => r.bytes | none => []; (s.takesWrite Reg.BBX_READ_SEL_HI = true) ∧ (s.snapshotMode = false) ∧ (n = (s.takeHeld Reg.BBX_READ_SEL_LO).1.toNat + 2 ^ 32 * fieldOf v 0 16) ∧ (b = (match s.recordIn s.bbx.copyBefore n with | some r => r.bytes | none => [])) ∧ (s.reg Reg.BBX_READ_SEL_HI &&& ~~~maskAt Reg.BBX_READ_SEL_HI = 0)) ∧
    (let s : State := committed.setBit F.BBX_STATUS_MODE true; let v : Word := 0; let n : Nat := 0; (s.takesWrite Reg.BBX_READ_SEL_HI = true) ∧ (s.snapshotMode = true) ∧ (n = (s.takeHeld Reg.BBX_READ_SEL_LO).1.toNat + 2 ^ 32 * fieldOf v 0 16) ∧ (s.bbx.snap = none ∨ s.bbx.snap = some (n + 1, n + 1)) ∧ (s.reg Reg.BBX_READ_SEL_HI &&& ~~~maskAt Reg.BBX_READ_SEL_HI = 0)) ∧
    (let s : State := { made with bbx := { made.bbx with ring := List.replicate 513 (made.bbx.ring.headD (made.newRecord 2 1 0 [], 0)) } }; let v : Word := 0x80000001; (s.takesWrite Reg.BBX_ANNOT_CTRL = true) ∧ (v.getLsbD 31 = true) ∧ (512 < s.bbx.ring.length)) ∧
    (let s : State := { (idle.set64 Reg.BBX_ANNOT_WALL_LO 1899999990) with bbx := { idle.bbx with lastWall := some 1900000000 } }; let v : Word := 0x80000000; let back : Bool := true; (s.takesWrite Reg.BBX_ANNOT_CTRL = true) ∧ (v.getLsbD 31 = true) ∧ (s.bbx.ring = []) ∧ (s.bbxLost = false) ∧ (back = (match s.bbx.lastWall with | some w => decide (s.get64 Reg.BBX_ANNOT_WALL_LO < w.toNat) | none => false))) ∧
    (let s : State := idle; let v : Word := 0x5A000001; (s.takesWrite Reg.BBX_ERASE_CTRL = true) ∧ (fieldOf v 24 8 = 0x5A) ∧ (v.getLsbD 1 = false)) ∧
    (let s : State := erasable; let v : Word := 0x5A000002; (s.takesWrite Reg.BBX_ERASE_CTRL = true) ∧ (fieldOf v 24 8 = 0x5A) ∧ (v.getLsbD 0 = false)) ∧
    (let s : State := idle; let v : Word := 0x5B000001; (s.takesWrite Reg.BBX_ERASE_CTRL = true) ∧ (fieldOf v 24 8 ≠ 0x5A)) ∧
    (let s : State := { idle with bbx := { idle.bbx with chal := some 5 } }; (s.bbx.chal ≠ none)) ∧
    (let s : State := (idle.setReg Reg.BBX_HOURS 21345).setReg Reg.BBX_SECS 3540; let n : Nat := 61; let now : Nat := 76845540; (s.cur ≠ .off) ∧ (now = (s.reg Reg.BBX_HOURS).toNat * 3600 + (s.reg Reg.BBX_SECS).toNat) ∧ ((s.reg Reg.BBX_SECS).toNat < 3600) ∧ (s.bbx.unsaved < 60) ∧ (now + n < 2 ^ 32 * 3600)) := by
  and_intros <;> decide +kernel

/-- The hypotheses of MaintenancePort can be met. -/
theorem witness_MaintenancePort :
    (let s : State := idle; let a : Byte := 0x3D; (s.cur ≠ .off) ∧ ((0x38 ≤ a.toNat ∧ a.toNat < 0x44) ∨ a.toNat < 0x30 ∨ (0x45 ≤ a.toNat ∧ a.toNat ≠ 0x90))) ∧
    (let l : List Byte := [1, 2]; (l ≠ [])) ∧
    (let s : State := { idle with i2c := { idle.i2c with ptr := 0x44, outOfSnap := true } }; (s.cur ≠ .off)) ∧
    (let s : State := committed.setBit F.BBX_STATUS_MODE true; (s.cur ≠ .off) ∧ (s.snapshotMode = true)) ∧
    (let s : State := { committed with i2c := { committed.i2c with latchReq := some (0, 0) } }; let f : Nat := 0; let l : Nat := 0; (s.i2c.latchReq = some (f, l))) ∧
    (let s : State := committed; (s.cur ≠ .off)) ∧
    (let s : State := committed; let b : Byte := 0; let r : BbxRecord := (committed.recordIn committed.bbx.copyBefore 0).getD (made.newRecord 2 1 0 []); (s.cur ≠ .off) ∧ (s.snapshotMode = false) ∧ (s.i2c.readSel < 2 ^ 40) ∧ (s.recordIn s.bbx.copyBefore (b.toNat * 2 ^ 40 + s.i2c.readSel.toNat) = some r)) ∧
    (let s : State := { idle with i2c := { idle.i2c with loading := some [1, 2] } }; let b : List Byte := [1, 2]; (s.i2c.loading = some b)) ∧
    (let s : State := State.reset.setF F.DEV_STATE_CUR 0; (s.cur = .off)) := by
  and_intros <;> decide +kernel

/-- The hypotheses of PairProtocol can be met. -/
theorem witness_PairProtocol :
    (let s : State := idle; let h : CellHead := nextCell; let p : Heartbeat := plainBeat; let g : PairHello := peerHello; let m : MatchCell := ⟨0, [], []⟩; let c : Fin 1024 := 3; let n : Nat := 3; let cell : Instr := .matchCell nextCell ⟨0, [], []⟩; (cell = ([Instr.heartbeat h p, .pairHelloCell h g, .formCell h .accept true true true, .matchCell h m, .hand h .host c 0 0 [], .data h c 0 0 [1], .mirrored h .host 0, .pairAckCell h .host c 0 9, .bbx h [1], .tenonResend h 0].getD n (.write h 0 0 0))) ∧ (s.bit F.PAIR_STATUS_LINK_UP = false)) ∧
    (let s : State := linked; let h : CellHead := ⟨false, 5, 0, none⟩; let p : Heartbeat := plainBeat; let g : PairHello := peerHello; let m : MatchCell := ⟨0, [], []⟩; let c : Fin 1024 := 3; let n : Nat := 4; let cell : Instr := .hand ⟨false, 5, 0, none⟩ .host 3 0 0 []; (cell = ([Instr.heartbeat h p, .pairHelloCell h g, .formCell h .accept true true true, .matchCell h m, .hand h .host c 0 0 [], .data h c 0 0 [1], .mirrored h .host 0, .pairAckCell h .host c 0 9, .bbx h [1]].getD n (.tenonResend h 0))) ∧ (s.bit F.PAIR_STATUS_LINK_UP = true) ∧ (h.good = false)) ∧
    (let s : State := linked; let h : CellHead := ⟨true, 7, 0, none⟩; let e : Nat := 5; let k : Nat := 2; (s.bit F.PAIR_STATUS_LINK_UP = true) ∧ (h.good = true) ∧ (s.pair.expect = some e ∧ e < 2 ^ 32 ∧ k < 2 ^ 31 ∧ h.seq = (e + k) % 2 ^ 32) ∧ (h.lostWrite = none)) ∧
    (let s : State := shadowEngine; let h : CellHead := ⟨true, 7, 0, some 12⟩; let e : Nat := 5; let k : Nat := 2; let n : Nat := 12; (s.bit F.PAIR_STATUS_LINK_UP = true) ∧ (h.good = true ∧ s.isShadow = true) ∧ (s.pair.expect = some e ∧ e < 2 ^ 32 ∧ 0 < k ∧ k < 2 ^ 31 ∧ h.seq = (e + k) % 2 ^ 32) ∧ (h.lostWrite = some n)) ∧
    (let s : State := linked; let h : CellHead := nextCell; (s.bit F.PAIR_STATUS_LINK_UP = true) ∧ (h.good = true ∧ s.pair.expect = some h.seq) ∧ (s.bit F.PAIR_STATUS_PROTECTED = false)) ∧
    (let s : State := shadowEngine; let h : CellHead := nextCell; (s.bit F.PAIR_STATUS_LINK_UP = true) ∧ (h.good = true ∧ s.pair.expect = some h.seq) ∧ (s.isShadow = true)) ∧
    (let s : State := { shadowEngine with pair := { shadowEngine.pair with missNow := true } }; (s.pair.missNow = true) ∧ (s.pair.heardAt ≠ some s.time.clk) ∧ (s.pair.missed ≠ 2)) ∧
    (let s : State := { shadowEngine with pair := { shadowEngine.pair with missNow := true, missed := 2, heardAt := some shadowEngine.time.clk } }; (s.pair.missNow = true) ∧ (s.pair.heardAt = some s.time.clk)) ∧
    (let s : State := { shadowEngine with pair := { shadowEngine.pair with missNow := true, missed := 2 } }; (s.pair.missNow = true) ∧ (s.pair.heardAt ≠ some s.time.clk) ∧ (s.pair.missed = 2) ∧ (s.pair.fencing = false ∧ s.pair.lostAt = none)) ∧
    (let s : State := { protActive with pair := { protActive.pair with lostAt := some 4 } }; (s.isProtectedActive = true)) ∧
    (let s : State := { linked with pair := { linked.pair with formReq := some ⟨false, true, true, true, 0⟩ } }; let q : FormReq := ⟨false, true, true, true, 0⟩; let n : Nat := 1; (s.pair.formReq = some q ∧ q.accepted = false) ∧ (s.bit F.PAIR_STATUS_PROTECTED = false) ∧ (s.pair.dissolvedAt ≠ some s.time.clk) ∧ (n = s.formCause q) ∧ (n ≠ 0)) ∧
    (let s : State := linked; (s.takesWrite Reg.PAIR_CTRL = true)) ∧
    (let s : State := { linked with pair := { linked.pair with formReq := some ⟨true, true, true, true, 0⟩, dissolvedAt := some linked.time.clk } }; let q : FormReq := ⟨true, true, true, true, 0⟩; (s.pair.formReq = some q) ∧ (s.bit F.PAIR_STATUS_PROTECTED = true ∨ s.pair.dissolvedAt = some s.time.clk ∨ (q.accepted = true ∧ s.getF F.PAIR_STATUS_ROLE = 4))) ∧
    (let s : State := { linked with pair := { linked.pair with formReq := some ⟨true, true, true, true, 0⟩ } }; let q : FormReq := ⟨true, true, true, true, 0⟩; (s.pair.formReq = some q ∧ q.accepted = true) ∧ (s.bit F.PAIR_STATUS_PROTECTED = false) ∧ (s.pair.dissolvedAt ≠ some s.time.clk) ∧ (s.getF F.PAIR_STATUS_ROLE ≠ 4)) ∧
    (let s : State := formable; let q : FormReq := ⟨false, true, true, true, 0⟩; (s.pair.formReq = some q ∧ q.accepted = false) ∧ (s.bit F.PAIR_STATUS_PROTECTED = false) ∧ (s.pair.dissolvedAt ≠ some s.time.clk) ∧ (s.formCause q = 0)) ∧
    (let s : State := linked; let h : CellHead := nextCell; (s.bit F.PAIR_STATUS_LINK_UP = true) ∧ (h.good = true ∧ s.pair.expect = some h.seq)) ∧
    (let s : State := shadowEngine; (s.takesWrite Reg.PAIR_CTRL = true)) ∧
    (let s : State := shadowEngine; let h : CellHead := nextCell; (s.bit F.PAIR_STATUS_LINK_UP = true) ∧ (h.good = true ∧ s.pair.expect = some h.seq)) ∧
    (let s : State := following; (s.isShadow = true ∧ s.loomRuns = true) ∧ (s.bit F.PAIR_STATUS_LOCAL_LOOM = false)) ∧
    (let s : State := following; (s.bit F.PAIR_STATUS_LINK_UP = true) ∧ (s.isShadow = true)) ∧
    (let s : State := shadowEngine; let h : CellHead := nextCell; let hdr : List Byte := leBytes 4 2 ++ List.replicate 60 0; (s.bit F.PAIR_STATUS_LINK_UP = true) ∧ (h.good = true ∧ s.pair.expect = some h.seq) ∧ (s.isShadow = true) ∧ (s.pair.mirror = []) ∧ (hdr.length = 64 ∧ (headerView hdr).kind = 2) ∧ (s.pair.resv = [(0, (s.reg Reg.PAIR_MIRROR_QUOTA).toNat)] ∧ s.reg Reg.PAIR_MIRROR_QUOTA ≠ 0 ∧ s.pcFrozen 0 = false)) ∧
    (let s : State := { shadowEngine with pair := { shadowEngine.pair with mirror := [someMirror] } }; let h : CellHead := nextCell; let c : Fin 1024 := 3; let m : Mirror := someMirror; (s.bit F.PAIR_STATUS_LINK_UP = true) ∧ (h.good = true ∧ s.pair.expect = some h.seq) ∧ (s.isShadow = true) ∧ (s.pair.mirror = [m] ∧ m.ctx = c.val)) ∧
    (let s : State := { protActive with seg := streaming.seg }; let h : CellHead := nextCell; let r : Record := streaming.seg.recs.headD (streaming.blankRecord 3 .gap); (s.bit F.PAIR_STATUS_LINK_UP = true) ∧ (h.good = true ∧ s.pair.expect = some h.seq) ∧ (s.seg.recs = [r] ∧ r.state = .handed)) ∧
    (let s : State := { shadowEngine with pair := { shadowEngine.pair with mirror := [someMirror] } }; let h : CellHead := nextCell; let c : Fin 1024 := 3; let first : Nat := 9; let last : Nat := 9; let m : Mirror := someMirror; (s.bit F.PAIR_STATUS_LINK_UP = true) ∧ (h.good = true ∧ s.pair.expect = some h.seq) ∧ (s.isShadow = true) ∧ (s.seg.recs = []) ∧ (s.pair.mirror = [m] ∧ m.ctx = c.val ∧ m.stream = none) ∧ (first ≤ m.cseq ∧ m.cseq ≤ last)) ∧
    (let s : State := { linked with bbx := { linked.bbx with ring := [] } }; let h : CellHead := nextCell; let r : BbxRecord := peerRec; (s.bit F.PAIR_STATUS_LINK_UP = true ∧ s.bit F.DEV_CAPS_PAIRED = true) ∧ (h.good = true ∧ s.pair.expect = some h.seq) ∧ (s.bbxLost = false) ∧ (s.bbx.ring = []) ∧ (s.nextRseq + 1 < 2 ^ 64 ∧ r.rseq < 2 ^ 48 ∧ r.payload.length ≤ 32)) ∧
    (let s : State := { protActive with pair := { protActive.pair with sent := [(2, .bbx [1]), (3, .data 3 9 0 [4])] } }; let h : CellHead := nextCell; (s.bit F.PAIR_STATUS_LINK_UP = true) ∧ (h.good = true ∧ s.pair.expect = some h.seq)) ∧
    (let s : State := { shadowEngine with pair := { shadowEngine.pair with ackAt := some 0 }, time := { shadowEngine.time with clk := 1 } }; let n : Nat := 0; (s.pair.ackAt = some n ∧ n < s.time.clk)) ∧
    (let s : State := { shadowEngine with pair := { shadowEngine.pair with ackAt := some 0, mirror := [{ someMirror with toldHost := true }] }, time := { shadowEngine.time with clk := 1 } }; let n : Nat := 0; let g : Nat := 7; let m : Mirror := { someMirror with toldHost := true }; let hdr : List Byte := leBytes 4 2 ++ List.replicate 60 0; (s.pair.ackAt = some n ∧ n < s.time.clk) ∧ (s.isShadow = true ∧ s.seg.recs = []) ∧ (s.pair.mirror = [m] ∧ m.host = some (g, hdr) ∧ m.toldHost = true ∧ m.ackHost = false ∧ m.toldStream = false)) ∧
    (let s : State := { shadowEngine with pair := { shadowEngine.pair with ackAt := some 3 }, time := { shadowEngine.time with clk := 3 } }; let n : Nat := 3; (s.pair.ackAt = some n ∧ s.time.clk ≤ n)) ∧
    (let s : State := shadowEngine; let lead : Int := -51; let err : Int := -51; (err = lead - 10 * ofBitsInt 16 (s.reg Reg.PAIR_PHASE_COMP).toNat)) := by
  and_intros
  any_goals with_reducible exact formable_cause
  all_goals decide +kernel

/-- The hypotheses of FaultEvents can be met. -/
theorem witness_FaultEvents :
    (let s : State := { running with board := { running.board with hotReadings := 1 } }; let v : BitVec 16 := 7360; (s.cur ≠ .off) ∧ (v.toInt < 7360 ∨ s.board.hotReadings < 2)) ∧
    (let s : State := { running with board := { running.board with hotReadings := 2 } }; let v : BitVec 16 := 7360; (s.cur = .idle ∨ s.cur = .armed ∨ s.cur = .acquiring) ∧ (7 ≤ s.rankNow) ∧ (7360 ≤ v.toInt ∧ s.board.hotReadings = 2)) ∧
    (let s : State := made.dropEntry |> fun m => { m with bbx := { m.bbx with ring := [] } }; (s.cur = .idle ∨ s.cur = .armed ∨ s.cur = .acquiring) ∧ (7 ≤ s.rankNow) ∧ (s.bbxLost = false) ∧ (s.bbx.ring = [])) ∧
    (let s : State := State.reset.setF F.DEV_STATE_CUR EngState.aonUp.code; (s.cur = .off ∨ s.cur = .aonUp)) ∧
    (let s : State := running; (s.cur = .idle ∨ s.cur = .armed ∨ s.cur = .acquiring) ∧ (7 ≤ s.rankNow)) ∧
    (let s : State := running.setPll .fpll pllBypass; (s.cur = .idle ∨ s.cur = .armed ∨ s.cur = .acquiring) ∧ (7 ≤ s.rankNow)) ∧
    (let s : State := idle; let c : Fin 1024 := 3; ((s.keepOf c).timer = none)) ∧
    (let s : State := heldRec; let c : Fin 1024 := 3; let r : Record := heldRec.seg.recs.headD (heldRec.blankRecord 3 .gap); ((s.keepOf c).timer ≠ none) ∧ (s.seg.recs = [r] ∧ r.ctx = c.val) ∧ (r.state = .handed ∧ s.recHeld r = true) ∧ (r.host.wanted = true ∧ r.host.visible = false ∧ r.host.gap = none ∧ r.stream.wanted = false ∧ r.stream.gap = none)) ∧
    (let s : State := State.reset; (s.cur ≠ .off ∧ s.cur ≠ .aonUp ∧ s.board.perst = false)) ∧
    (let s : State := { idle with board := { idle.board with perst := true } }; (s.board.perst = true)) := by
  and_intros <;> decide +kernel

/-! ### Worked cases of the spec -/

/-- Record 1,000,000 lies in slot 111,168 (spec/15_startup_and_black_box.md, the worked case). -/
theorem test_bbx_slot : bbxSlot 1000000 = 111168 := by decide

/-- 65,536 samples of P10 take 81,920 bytes, 1,048,576 of W16 take 2,097,152 (spec/09_segments_and_placement.md). -/
theorem test_data_bytes : dataBytes 0 65536 = 81920 ∧ dataBytes 2 1048576 = 2097152 := by decide +kernel

/-- RANK of 5 taps, CIC of order 4 by 64 and FIR of 127 taps by 2 delay 4,160 channel samples
(spec/08_decimation_lanes.md). -/
theorem test_lane_delay :
    let p : LaneSet := { LaneSet.zero with rank := 5, cicOrder := 4, cicM := 1, cicR := 64, firTaps := 127, firDec := 2 }
    laneDelay p [1, 2, 3] = 4160 ∧ ratioOf p [1, 2, 3] = 128 ∧ delayFixed p [1, 2, 3] = 0x10400000 := by
  decide +kernel

/-- CIC of order 3 by 4,096, FIR of 63 taps by 64 and RESAMP delay 4,326,910.5 channel samples
(spec/08_decimation_lanes.md). -/
theorem test_lane_delay_resampler :
    let p : LaneSet := { LaneSet.zero with cicOrder := 3, cicM := 1, cicR := 4096, firTaps := 63, firDec := 64 }
    laneDelay p [2, 3, 4] = 4326910 + 1 / 2 ∧ delayFixed p [2, 3, 4] = 0x4205FE8000 := by decide +kernel

/-- A run from step 37 to step 81 is 45 steps wide with its centre at 59 (spec/11_memory_and_shuttle.md). -/
theorem test_train_centre : runWidth (37, 81) = 45 ∧ runCentre (37, 81) = 59 := by decide

/-- Tread 1 of the worked case of spec/03_axis_and_loom.md. -/
theorem test_tread_fields :
    let t := treadOf 0x400000000000180000AE000003001000
    t.cond = 4 ∧ t.aKind = 3 ∧ t.aArg = 5 ∧ t.bKind = 14 ∧ t.next = 3 ∧ t.target = 1 ∧ t.fail = 0 := by decide +kernel

/-- The MONITOR entry of 71.5 degrees on bank 1, source 3 (spec/05_selvedge_calibration.md). -/
theorem test_monitor_word : monWord 1 3 4 4576 = 0x41C011E0 := by decide

/-- Sample PRETRIG + 7 of the folded eye falls in bin 382 x 1,000 + 737 (spec/10_cloth_beams.md). -/
theorem test_eye_bin :
    let d : JobDesc := { idle.jobDesc 7 with xMode := 1, width := 1000, height := 512, yBase := -32768, yShift := 7,
                                             ui := 10 * 2 ^ 32, foldOffset := 0 }
    columnOf d 64 24576 ⟨71, 16176, none⟩ = some 737 ∧ rowOf d 16176 = some 382 := by decide +kernel

/-- Slot 1,030 of a completion ring of 1,024 entries is written in pass 1, with PHASE 0
(spec/12_host_port_and_delivery.md). -/
theorem test_completion_phase :
    ((idle.setReg (Reg.DMA_DQ_CFG 5) 0x8800A800).setReg (Reg.DMA_DQ_COMP_PROD 5) 1030).compPhase 5 = false := by
  decide +kernel

/-! ### Single steps -/

/-- The outcome of a step, judged by a test of its next state. -/
def after (s : State) (p : State → Bool) : Bool :=
  match step s with
  | .next t => p t
  | _ => false

/-- A write of DEV.SCRATCH at the front of the queue is taken, and the rest waits. -/
theorem test_step_write :
    after { idle with pending := [.registerWrite 0x24 0x5A 15 none, .nop 0] } (fun t =>
      t.reg Reg.DEV_SCRATCH == 0x5A && t.pending == [.nop 0]) = true := by decide +kernel

/-- A partial write is discarded and counted (spec/00_scope.md R8). -/
theorem test_step_partial :
    after { idle with pending := [.registerWrite 0x24 0x5A 7 none] } (fun t =>
      t.reg Reg.DEV_SCRATCH == 0 && t.bit F.FLT_HOST_PARTIAL_WRITE) = true := by decide +kernel

/-- RUN in IDLE with no relock arms the engine (spec/01_engine_architecture.md R32). -/
theorem test_step_run :
    after { idle with pending := [.run 0] } (fun t => t.cur == .armed) = true := by
  decide +kernel

/-- A record longer than 32 bytes cannot occur. -/
theorem test_step_ill_formed :
    (match step { idle with pending := [.recordMade 1 1 (List.replicate 33 0)] } with
      | .fault f => f == .illFormed "RECORD_MADE"
      | _ => false) = true := by decide +kernel

/-! ### Ill-formed commands -/

theorem test_wf_image : Instr.wf (.flashLoadDone (List.replicate 8388609 0)) = false := by
  simp only [Instr.wf, List.length_replicate]; decide

/-- One ill-formed command for every other check. -/
def illFormed : List Instr :=
  [.hbmTrainingDone [],
   .burnDone (List.replicate 9 0) true,
   .openSegment 0 ⟨0, 17, false⟩,
   .marker 0 0 ⟨0, 0xFE, false⟩,
   .pairedWrite 0x4000000 0,
   .latchingRead 3 (.enables 15),
   .latchingRead 4 .wide,
   .rclRead 6 (.enables 15),
   .w1cWrite 1 0,
   .registerWrite 2 0 15 none,
   .registerWrite 4 0 15 (some (0, 15)),
   .busError 8 0 true 0,
   .allStop 0 0 7,
   .captureEnd 0 ⟨0, 0, 0, [], 0, 0⟩,
   .hbmFreeze 0 ⟨0, 0, 0, 0, 0, 0, 0⟩ [],
   .releaseDone 0 ⟨[], []⟩,
   .hbmUnreadable 0 0 0 ⟨1, 12, 0, 0, 0, 0, 0⟩,
   .hbmUnreadable 0 0 0 ⟨1, 0, 48, 0, 0, 0, 0⟩,
   .auxDone 0 (List.replicate 17 0),
   .recordMade 1 1 (List.replicate 33 0),
   .heartbeat nextCell ⟨5, false, false, 0, 0⟩,
   .pairHelloCell nextCell peerHello,
   .formCell ⟨true, 4294967296, 0, none⟩ .accept true true true 0,
   .matchCell nextCell ⟨0, [], []⟩,
   .write nextCell 0 2 0,
   .hand nextCell .host 0 0 0 [],
   .mirrored ⟨true, 0, 18446744073709551616, none⟩ .host 0,
   .pairAckCell nextCell .host 0 2 1,
   .bbx nextCell [],
   .tenonResend ⟨true, 4294967296, 0, none⟩ 0,
   .trackPass [] 80001,
   .write ⟨true, 0, 0, some (2 ^ 64)⟩ 0 0 0,
   .data nextCell 0 0 0 (List.replicate 1025 0)]

theorem test_wf : illFormed.all (fun c => !c.wf) = true := by decide +kernel

end Sys2Proof.Tests
end

section
/-! PROOF. The scope of the machine: an idle step, and what every host access of BAR0 meets (spec/00_scope.md R8 to R10). -/

namespace Sys2Proof.Machine

open Sys2Proof.Laws

/-! ### The idle step -/

theorem step_of_idle {s : State} (h : s.pending = []) : step s = .next s.tick := by
  unfold step
  rw [h]

/-- Settles O2: a step without a command is `tick`, which keeps the queue and advances the clock by one. -/
theorem idleStepIsOneClock : Obligations.IdleStepIsOneClock := by
  unfold Obligations.IdleStepIsOneClock
  intro s h
  obtain ⟨hq, hc, -, -⟩ := tick_keeps s
  exact ⟨s.tick, step_of_idle h, rfl, hq.trans h, hc⟩

/-! ### Fields of one bit, and the writable bits of a register -/

theorem State.getF_lt (s : State) (f : Fld) : s.getF f < 2 ^ f.w := Nat.mod_lt _ (Nat.two_pow_pos _)

/-- A one-bit field set to 1 reads 1. -/
theorem State.bit_setF_one (s : State) (f : Fld) (hw : f.w = 1) (hlo : f.lo < 32) : (s.setF f 1).bit f = true :=
  State.bit_setBit_same s f true (by omega) hw

theorem State.SameRegsBut.refl (s : State) (l : List Nat) : s.SameRegsBut s l := fun _ _ => rfl

theorem State.SameRegsBut.trans {s t u : State} {l : List Nat} (a : s.SameRegsBut t l) (b : t.SameRegsBut u l) :
    s.SameRegsBut u l := fun o ho => (b o ho).trans (a o ho)

theorem State.sameRegsBut_setReg (s : State) (o : Nat) (v : Word) : s.SameRegsBut (s.setReg o v) [o] :=
  fun _ hp => State.reg_setReg_other s v (by simpa using hp)

theorem State.sameRegsBut_setF (s : State) (f : Fld) (n : Nat) : s.SameRegsBut (s.setF f n) [f.off] :=
  State.sameRegsBut_setReg _ _ _

/-- A register all of whose bits are writable takes the word written. -/
theorem mergeWrite_allOnes (old v : Word) : mergeWrite old 0xFFFFFFFF#32 v = v := by
  have all : (0xFFFFFFFF#32 : Word) = BitVec.allOnes 32 := by decide
  simp only [mergeWrite, all, BitVec.not_allOnes, BitVec.and_zero, BitVec.zero_or, BitVec.and_allOnes]

theorem State.reg_storeReg (s : State) (off : Nat) (v : Word) :
    (s.storeReg off v).reg off = (s.reg off &&& ~~~maskAt off) ||| (v &&& maskAt off) :=
  State.reg_setReg_same _ _ _

theorem State.sameRegsBut_storeReg (s : State) (off : Nat) (v : Word) : s.SameRegsBut (s.storeReg off v) [off] :=
  State.sameRegsBut_setReg _ _ _

theorem State.restSame_storeReg (s : State) (off : Nat) (v : Word) : s.RestSame (s.storeReg off v) := rfl

/-! ### Hardware sets a bit (R10, R420, R421) -/

/-- A bit whose register raises no vector. -/
theorem State.hwSet_of_no_vector (s : State) {f : Fld} (h : flagVector f.off = none) :
    s.hwSet f = (s.countOcc f).setF f 1 := by
  unfold State.hwSet
  simp only [h]

/-- A bit of FLT.HOST raises the FLT vector. -/
theorem State.hwSet_fltHost (s : State) {f : Fld} (h : f.off = Reg.FLT_HOST) :
    s.hwSet f = ((s.countOcc f).setF f 1).raiseVector (((s.countOcc f).setF f 1).getF F.DMA_VEC_MAP_FLT) := by
  have hv : flagVector f.off = some F.DMA_VEC_MAP_FLT := by rw [h]; rfl
  unfold State.hwSet
  simp only [hv]

/-- A vector's pending bit stands in one of the two registers of them. -/
theorem pbaReg_mem {v : Nat} (h : v < 64) : (F.DMA_PBA_BIT v).off ∈ pbaRegs := by
  have hv : v / 32 = 0 ∨ v / 32 = 1 := by omega
  rcases hv with hv | hv <;> simp [F.DMA_PBA_BIT, pbaRegs, hv]

theorem State.sameRegsBut_raiseVector (s : State) {v : Nat} (h : v < 64) : s.SameRegsBut (s.raiseVector v) pbaRegs :=
  fun _ ho => State.reg_raiseVector_other s v (fun e => ho (e ▸ pbaReg_mem h))

/-- What an access that the engine discards leaves behind: its own bit of FLT.HOST, whose vector is raised. -/
theorem State.hwSet_fltHost_spec (s : State) {f : Fld} (hf : f.off = Reg.FLT_HOST) (hw : f.w = 1) (hlo : f.lo < 32) :
    (s.hwSet f).bit f = true ∧ s.SameRegsBut (s.hwSet f) (Reg.FLT_HOST :: pbaRegs) ∧ s.RestSameButMarks (s.hwSet f) := by
  rw [State.hwSet_fltHost s hf]
  have hv := State.getF_lt ((s.countOcc f).setF f 1) F.DMA_VEC_MAP_FLT
  generalize ((s.countOcc f).setF f 1).getF F.DMA_VEC_MAP_FLT = v at hv
  have raised := State.sameRegsBut_raiseVector ((s.countOcc f).setF f 1) hv
  refine ⟨?_, fun o ho => ?_, ?_⟩
  · have stays := raised f.off (by rw [hf]; decide)
    have set := State.bit_setF_one (s.countOcc f) f hw hlo
    simpa only [State.bit, State.getF, stays] using set
  · rw [List.mem_cons, not_or] at ho
    obtain ⟨hne, hpba⟩ := ho
    rw [raised o hpba, State.reg_setF_other _ _ _ (hf ▸ hne), State.reg_countOcc]
  · simp [State.RestSameButMarks]

/-- The occurrence counter of a bit after a count: one more, once in a clock, up to 255 (R420). -/
theorem State.occ_countOcc (s : State) (f : Fld) :
    (sparseGet (fun _ => 0) (s.countOcc f).occ (occKey f)).toNat =
      if s.time.setNow.contains (occKey f) then (sparseGet (fun _ => 0) s.occ (occKey f)).toNat
      else min 255 ((sparseGet (fun _ => 0) s.occ (occKey f)).toNat + 1) := by
  unfold State.countOcc
  split
  · rfl
  · simp only [sparseGet_set_same, satTo, BitVec.toNat_ofNat]
    split <;> omega

/-! ### Host writes (R8, R30, R40, R394, R433) -/

theorem exec_registerWrite (s : State) (off : Nat) (v : Word) (be : BitVec 4) :
    exec (.registerWrite off v be none) s = .next (s.writeWord off v be) := rfl

theorem State.writeWord_unreached {s : State} (h : s.hostReaches = false) (off : Nat) (v : Word) (be : BitVec 4) :
    s.writeWord off v be = s := by
  simp [State.writeWord, h]

theorem State.writeWord_partial {s : State} (h : s.hostReaches = true) (off : Nat) (v : Word) {be : BitVec 4}
    (hb : be ≠ 15) : s.writeWord off v be = s.hwSet F.FLT_HOST_PARTIAL_WRITE := by
  unfold State.writeWord
  rw [h, Bool.not_true, if_neg Bool.false_ne_true, if_pos hb]

/-- A write with all four byte enables set. -/
theorem State.writeWord_full (s : State) (off : Nat) (v : Word) :
    s.writeWord off v 15 = s.hostWrite off v (fun s => s.writeReg off v) := by
  by_cases h : s.hostReaches = true
  · simp [State.writeWord, h]
  · simp [State.writeWord, State.hostWrite, h]

/-- No forwarded block can be left out of the structure, nor lies above the last block. -/
theorem State.forwarded_present {blk : Nat} (s : State) (h : forwardedBlock blk = true) :
    s.blockAbsent blk = false ∧ blk ≤ 0x18 := by
  have hb : blk < 0x10 := by
    simp only [forwardedBlock, Bool.or_eq_true, Bool.and_eq_true, beq_iff_eq, decide_eq_true_eq] at h
    omega
  have h13 : blk ≠ 0x13 := by omega
  have h14 : blk ≠ 0x14 := by omega
  have h15 : blk ≠ 0x15 := by omega
  exact ⟨by simp [State.blockAbsent, h13, h14, h15], by omega⟩

section Discarded

variable {s : State} {off : Nat}

theorem State.hostWrite_resets (h : s.resetsNow off = true) (v : Word) (k : State → State) : s.hostWrite off v k = s := by
  simp [State.hostWrite, h]

theorem State.hostWrite_reserved (h : 0x18 < off / 0x10000) (v : Word) (k : State → State) : s.hostWrite off v k = s := by
  simp [State.hostWrite, h]

variable (hr : s.hostReaches = true) (hn : s.resetsNow off = false) (v : Word) (k : State → State)
include hr hn

theorem State.hostWrite_closed (hc : s.closedState = true) (ho : alwaysOpen (off / 0x10000) = false)
    (hb : off / 0x10000 ≤ 0x18) : s.hostWrite off v k = s.hwSet F.FLT_HOST_BLOCK_CLOSED := by
  simp [State.hostWrite, hr, hn, hc, ho, Nat.not_lt.mpr hb]

theorem State.hostWrite_absent (hc : s.closedState = false) (ha : s.blockAbsent (off / 0x10000) = true)
    (hb : off / 0x10000 ≤ 0x18) : s.hostWrite off v k = s.hwSet F.FLT_HOST_STRUCT_ABSENT := by
  simp [State.hostWrite, hr, hn, hc, ha, Nat.not_lt.mpr hb]

theorem State.hostWrite_shadow (hc : s.closedState = false) (hf : forwardedBlock (off / 0x10000) = true)
    (hs : s.isShadow = true) : s.hostWrite off v k = s.hwSet F.FLT_HOST_SHADOW_WRITE := by
  obtain ⟨ha, hb⟩ := State.forwarded_present s hf
  simp [State.hostWrite, hr, hn, hc, ha, hf, hs, Nat.not_lt.mpr hb]

end Discarded

/-- A write that meets its register is performed, and forwarded by a protected ACTIVE (R394). -/
theorem State.hostWrite_taken {s : State} {off : Nat} (h : s.takesWrite off = true) (v : Word) (k : State → State) :
    s.hostWrite off v k = if forwardedBlock (off / 0x10000) && s.isProtectedActive then
      (k s).sendCell (.write s.tsc off v) else k s := by
  simp only [State.takesWrite, Bool.and_eq_true, Bool.not_eq_true', decide_eq_true_eq] at h
  obtain ⟨⟨⟨⟨⟨hr, hn⟩, hc⟩, ha⟩, hf⟩, hb⟩ := h
  simp [State.hostWrite, hr, hn, hc, ha, hf, Nat.not_lt.mpr hb]

/-- Forwarding touches no register. -/
theorem State.hostWrite_taken_regs {s : State} {off : Nat} (h : s.takesWrite off = true) (v : Word) (k : State → State) :
    (s.hostWrite off v k).regs = (k s).regs := by
  rw [State.hostWrite_taken h]
  split <;> rfl

/-- A write of a register that no pair forwards is performed, and no more. -/
theorem State.hostWrite_local {s : State} {off : Nat} (h : s.takesWrite off = true)
    (hf : forwardedBlock (off / 0x10000) = false) (v : Word) (k : State → State) : s.hostWrite off v k = k s := by
  rw [State.hostWrite_taken h, hf]
  rfl

theorem State.writeReg_scratch (s : State) (v : Word) : s.writeReg Reg.DEV_SCRATCH v = s.setReg Reg.DEV_SCRATCH v := by
  have ha : accessAt Reg.DEV_SCRATCH = .rw := by decide
  have hm : maskAt Reg.DEV_SCRATCH = 0xFFFFFFFF#32 := by decide
  have hb : Reg.DEV_SCRATCH / 0x10000 = 0 := rfl
  simp [State.writeReg, ha, hb, State.writeDev, State.storeReg, hm, mergeWrite_allOnes]

theorem State.writeReg_arb (s : State) {off : Nat} (hb : off / 0x10000 = 0x11) (ha : accessAt off ≠ .w1c) (v : Word) :
    s.writeReg off v = s.storeReg off v := by
  simp [State.writeReg, ha, hb]

/-- Settles O9: a case for each way through `writeWord` and `hostWrite`. -/
theorem hostWriteGates : Obligations.HostWriteGates := by
  unfold Obligations.HostWriteGates
  refine ⟨?unreached, ?wide, ?pins, ?resets, ?byteEnables, ?closed,
    ?absent, ?reserved, ?shadow, ?scratch, ?arb⟩
  case unreached => exact fun s off v be hr => ⟨_, exec_registerWrite .., State.writeWord_unreached hr ..⟩
  case wide => exact fun s off v w be be' => rfl
  case pins => exact fun s off v be high l => rfl
  case resets =>
    intro s off v _ hn
    refine ⟨_, exec_registerWrite .., ?_⟩
    rw [State.writeWord_full, State.hostWrite_resets hn]
  case byteEnables =>
    intro s off v be hr hb
    refine ⟨_, exec_registerWrite .., ?_⟩
    rw [State.writeWord_partial hr off v hb]
    exact State.hwSet_fltHost_spec s rfl rfl (by decide)
  case closed =>
    intro s off v hr hn hc ho hb
    refine ⟨_, exec_registerWrite .., ?_⟩
    rw [State.writeWord_full, State.hostWrite_closed hr hn _ _ hc ho hb]
    exact State.hwSet_fltHost_spec s rfl rfl (by decide)
  case absent =>
    intro s off v hr hn hc ha hb
    refine ⟨_, exec_registerWrite .., ?_⟩
    rw [State.writeWord_full, State.hostWrite_absent hr hn _ _ hc ha hb]
    exact State.hwSet_fltHost_spec s rfl rfl (by decide)
  case reserved =>
    intro s off v hb
    refine ⟨_, exec_registerWrite .., ?_⟩
    rw [State.writeWord_full, State.hostWrite_reserved hb]
  case shadow =>
    intro s off v hr hn hc hf hs
    refine ⟨_, exec_registerWrite .., ?_⟩
    rw [State.writeWord_full, State.hostWrite_shadow hr hn _ _ hc hf hs]
    exact State.hwSet_fltHost_spec s rfl rfl (by decide)
  case scratch =>
    intro s v h
    refine ⟨_, exec_registerWrite .., ?_⟩
    rw [State.writeWord_full, State.hostWrite_local h rfl, State.writeReg_scratch]
  case arb =>
    intro s off v h hb ha
    refine ⟨_, exec_registerWrite .., ?_⟩
    rw [State.writeWord_full, State.hostWrite_local h (by rw [hb]; rfl), State.writeReg_arb s hb ha]
    exact ⟨State.reg_storeReg .., State.sameRegsBut_storeReg s off v, State.restSame_storeReg ..⟩

end Sys2Proof.Machine
end

section
/-! PROOF. Host reads, pairs, and W1C bits (spec/00_scope.md R8, R10, spec/03_axis_and_loom.md R81). -/

namespace Sys2Proof.Machine

open Sys2Proof.Laws

/-! ### Host reads -/

theorem exec_latchingRead (s : State) (off : Nat) (be : BitVec 4) :
    exec (.latchingRead off (.enables be)) s = .next (s.hostRead off) := rfl

theorem exec_rclRead {off : Nat} (h : accessAt off = .rcl) (s : State) (be : BitVec 4) :
    exec (.rclRead off (.enables be)) s = .next (s.hostRead off) := by
  have full : exec (.rclRead off (.enables be)) s = execRclRead off s (.enables be) := rfl
  rw [full, execRclRead, h]
  rfl

/-- A read that meets its register sends what the register returns (R8). -/
theorem State.hostRead_taken {s : State} {off : Nat} (hr : s.hostReaches = true) (ho : s.readOpen off = true) :
    s.hostRead off = (s.takeRead off).2.send (.readData off (s.takeRead off).1) := by
  simp [State.hostRead, hr, ho]

/-- A register whose read has no effect but on the latches of R81. -/
def ReadsByLatch (off : Nat) : Prop :=
  off ≠ Reg.CAL_MON_POP ∧ off ≠ Reg.BEAM_PEEK 0 ∧ ¬ (Reg.FLT_OCC 0 ≤ off ∧ off < Reg.FLT_OCC 8 ∧ off % 4 = 0) ∧
    accessAt off ≠ .rcl ∧ ¬ (Reg.BEAM_PEEK 1 ≤ off ∧ off ≤ Reg.BEAM_PEEK 3)

section Latch

variable {off : Nat} (h : ReadsByLatch off) {s : State}
include h

/-- A word that was latched is returned, and the latch is used up (R81; log 16). -/
theorem State.takeRead_latched {v : Word} (hl : optAt s.latched off = some v) :
    s.takeRead off = (v, { s with latched := sparseSet (fun _ => none) s.latched off none }) := by
  obtain ⟨hpop, hpeek, hocc, hrcl, hpeeks⟩ := h
  simp [State.takeRead, hpop, hpeek, hocc, hrcl, hpeeks, hl]

/-- Otherwise the register is shown, and its partners are latched (R81). -/
theorem State.takeRead_unlatched (hl : optAt s.latched off = none) :
    s.takeRead off = (s.readValue off, (latchPartners off).foldl (fun t p => t.latch p (s.readValue p)) s) := by
  obtain ⟨hpop, hpeek, hocc, hrcl, hpeeks⟩ := h
  simp [State.takeRead, hpop, hpeek, hocc, hrcl, hpeeks, hl]

end Latch

/-- A held or latched word reads back as it was put, or as gone. -/
theorem optAt_set (m : Sparse (Option Word)) (off : Nat) (v : Option Word) :
    optAt (sparseSet (fun _ => none) m off v) off = v :=
  sparseGet_set_same (fun _ => none) m off v

/-- The LO registers of four 64-bit counters. -/
abbrev counterLos : List Nat := [Reg.CLK_TSC_LO, Reg.DEV_SERIAL_LO, Reg.BBX_NEXT_LO, Reg.FLT_FATAL_TSC_LO]

theorem counterLos_readByLatch :
    ∀ lo ∈ counterLos, ReadsByLatch lo ∧ ReadsByLatch (lo + 4) ∧ latchPartners lo = [lo + 4] := by
  unfold ReadsByLatch
  decide

/-- A counter shows its registers as they stand. -/
theorem State.readValue_counter (s : State) :
    ∀ lo ∈ counterLos, s.readValue lo = s.reg lo ∧ s.readValue (lo + 4) = s.reg (lo + 4) := by
  simp only [counterLos, List.forall_mem_cons]
  exact ⟨⟨rfl, rfl⟩, ⟨rfl, rfl⟩, ⟨rfl, rfl⟩, ⟨rfl, rfl⟩, by simp⟩

/-- A read of a counter's LO returns it and latches HI (R81). -/
theorem State.takeRead_counter {s : State} {lo : Nat} (hm : lo ∈ counterLos) (hl : optAt s.latched lo = none) :
    s.takeRead lo = (s.reg lo, s.latch (lo + 4) (s.reg (lo + 4))) := by
  obtain ⟨hlo, -, hpartner⟩ := counterLos_readByLatch lo hm
  obtain ⟨hv, hv'⟩ := s.readValue_counter lo hm
  rw [State.takeRead_unlatched hlo hl, hpartner, hv, List.foldl_cons, List.foldl_nil, hv']

/-! ### RCL counters (R10) -/

/-- A read of an RCL counter other than the monitor queue and the occurrence counters. -/
theorem State.takeRead_rcl (s : State) {off : Nat} (h : accessAt off = .rcl) (hpop : off ≠ Reg.CAL_MON_POP)
    (hocc : off < Reg.FLT_OCC 0 ∨ Reg.FLT_OCC 8 ≤ off) : s.takeRead off = s.rclTake off := by
  have hpeek : off ≠ Reg.BEAM_PEEK 0 := by
    rintro rfl
    exact absurd h (by decide)
  have hocc' : ¬ (Reg.FLT_OCC 0 ≤ off ∧ off < Reg.FLT_OCC 8 ∧ off % 4 = 0) := by omega
  simp [State.takeRead, hpop, hpeek, hocc', h]

/-- Without an addition of the present clock the counter clears. -/
theorem State.rclTake_of_none {s : State} {off : Nat} (h : s.addedNow off = none) :
    s.rclTake off = (s.reg off, s.setReg off 0) := by
  simp only [State.rclTake, h]

/-- What the present clock added stays. -/
theorem State.rclTake_of_some {s : State} {off old n : Nat} (h : s.addedNow off = some (old, n)) :
    s.rclTake off = (BitVec.ofNat 32 old, s.rclPut off 0 n) := by
  simp only [State.rclTake, h]

theorem State.reg_rclPut (s : State) (off old n : Nat) :
    (s.rclPut off old n).reg off = BitVec.ofNat 32 (min (old + n) 4294967295) := by
  have sat : satTo (2 ^ 32 - 1) (old + n) = min (old + n) 4294967295 := by
    unfold satTo
    split <;> omega
  rw [← sat]
  exact State.reg_setReg_same _ _ _

theorem State.sameRegsBut_rclPut (s : State) (off old n : Nat) : s.SameRegsBut (s.rclPut off old n) [off] :=
  State.sameRegsBut_setReg s off _

/-! ### Pairs (R81) -/

theorem exec_pairedWrite (s : State) (off : Nat) (v : Word) :
    exec (.pairedWrite off v) s = .next (s.hostWrite off v (fun s => s.writeReg off v)) := rfl

/-- The LO registers of four pairs both of whose words take effect at HI. -/
abbrev pairLos : List Nat := [Reg.BBX_SNAP_FROM_LO, Reg.BBX_SNAP_TO_LO, Reg.BBX_ANNOT_WALL_LO, Reg.CLK_TSC_LOAD_LO]

theorem State.writeReg_pair (s : State) (v : Word) :
    ∀ lo ∈ pairLos, s.writeReg lo v = s.pairStore lo lo v ∧ s.writeReg (lo + 4) v = s.pairStore lo (lo + 4) v := by
  simp only [pairLos, List.forall_mem_cons]
  exact ⟨⟨rfl, rfl⟩, ⟨rfl, rfl⟩, ⟨rfl, rfl⟩, ⟨rfl, rfl⟩, by simp⟩

/-- No pair forwards a write of these registers. -/
theorem pairLos_local :
    ∀ lo ∈ pairLos, forwardedBlock (lo / 0x10000) = false ∧ forwardedBlock ((lo + 4) / 0x10000) = false := by
  decide

theorem State.pairStore_lo (s : State) (lo : Nat) (v : Word) : s.pairStore lo lo v = s.holdLo lo (v &&& maskAt lo) := by
  simp [State.pairStore, State.pairWrite]

/-- A write of HI brings the LO held and itself into effect. -/
theorem State.pairStore_hi {s : State} {lo : Nat} {l : Word} (h : optAt s.held lo = some l) (v : Word) :
    s.pairStore lo (lo + 4) v = (s.takeHeld lo).2.set64 lo
      (l.toNat + 2 ^ 32 * (v &&& maskAt (lo + 4)).toNat) := by
  simp [State.pairStore, State.pairWrite, State.takeHeld, h]

/-- The two words of a pair set together. -/
theorem State.reg_set64_words (s : State) (lo : Nat) (l h : Word) :
    (s.set64 lo (l.toNat + 2 ^ 32 * h.toNat)).reg lo = l ∧ (s.set64 lo (l.toNat + 2 ^ 32 * h.toNat)).reg (lo + 4) = h := by
  have hl := l.isLt
  have hh := h.isLt
  have ne : lo ≠ lo + 4 := by omega
  unfold State.set64
  rw [State.reg_setReg_other _ _ ne, State.reg_setReg_same, State.reg_setReg_same]
  constructor <;> apply BitVec.eq_of_toNat_eq <;> rw [BitVec.toNat_ofNat] <;> omega

theorem State.sameRegsBut_set64 (s : State) (lo n : Nat) : s.SameRegsBut (s.set64 lo n) [lo, lo + 4] := by
  intro o ho
  simp only [List.mem_cons, List.not_mem_nil, or_false, not_or] at ho
  obtain ⟨hlo, hhi⟩ := ho
  exact State.reg_set64_other s lo n hlo hhi

/-! ### W1C bits (R10) -/

theorem exec_w1cWrite {off : Nat} (h : accessAt off = .w1c) (s : State) (v : Word) :
    exec (.w1cWrite off v) s = .next (s.hostWrite off v (fun s => s.w1cClear off v)) := by
  have full : exec (.w1cWrite off v) s = execW1cWrite off v s := rfl
  rw [full, execW1cWrite, h]
  rfl

theorem insertField_bit_zero (v : Word) {i j : Nat} (h : i < 32) :
    (insertField v i 1 0).getLsbD j = (v.getLsbD j && !(j == i)) := by
  rw [insertField_getLsbD _ _ _ _ _ (by omega)]
  by_cases e : j = i
  · simp [e]
  · rw [if_neg (by omega)]
    simp [e]

/-- Clearing each bit of a list clears those bits and no other of the register. -/
theorem State.reg_clearBits (off : Nat) (l : List Nat) (h : ∀ i ∈ l, i < 32) (s : State) (j : Nat) :
    ((l.foldl (fun s i => s.setF (bitFld off i) 0) s).reg off).getLsbD j = ((s.reg off).getLsbD j && !l.contains j) := by
  induction l generalizing s with
  | nil => simp
  | cons i l ih =>
    rw [List.forall_mem_cons] at h
    obtain ⟨hi, hl⟩ := h
    have one : (s.setF (bitFld off i) 0).reg off = insertField (s.reg off) i 1 0 := State.reg_setReg_same _ _ _
    rw [List.foldl_cons, ih hl, one, insertField_bit_zero _ hi, List.contains_cons, Bool.and_assoc, Bool.not_or]

theorem State.sameRegsBut_clearBits (off : Nat) (l : List Nat) (s : State) :
    s.SameRegsBut (l.foldl (fun s i => s.setF (bitFld off i) 0) s) [off] := by
  induction l generalizing s with
  | nil => exact State.SameRegsBut.refl s _
  | cons i l ih => exact (State.sameRegsBut_setF s (bitFld off i) 0).trans (ih _)

/-- A host write of ones clears each bit it names that hardware does not set in the same clock. -/
theorem State.reg_w1cClear (s : State) (off : Nat) (v : Word) {i : Nat} (hi : i < 32) :
    ((s.w1cClear off v).reg off).getLsbD i =
      ((s.reg off).getLsbD i && !(v.getLsbD i && (maskAt off).getLsbD i && !s.time.setNow.contains (off * 32 + i))) := by
  have named : ∀ j ∈ (bitsSet 32 (v &&& maskAt off).toNat).filter
      (fun i => !s.time.setNow.contains (off * 32 + i)), j < 32 := by
    intro j hj
    exact List.mem_range.mp (List.mem_filter.mp (List.mem_filter.mp hj).1).1
  unfold State.w1cClear
  rw [State.reg_clearBits off _ named]
  congr 2
  rw [Bool.eq_iff_iff, List.contains_iff_mem]
  simp [bitsSet, hi, BitVec.testBit_toNat, and_comm]

theorem State.sameRegsBut_w1cClear (s : State) (off : Nat) (v : Word) : s.SameRegsBut (s.w1cClear off v) [off] :=
  State.sameRegsBut_clearBits off _ s

/-- FLT.OCC_SEL takes its writable bits. -/
theorem exec_occSel {s : State} (h : s.takesWrite Reg.FLT_OCC_SEL = true) (v : Word) :
    exec (.occSel v) s = .next (s.storeReg Reg.FLT_OCC_SEL v) :=
  congrArg Host.Outcome.next (State.hostWrite_local h rfl v _)

/-- Settles O10: a case for each kind of register, from the lemma about its read or its write. -/
theorem hostReads : Obligations.HostReads := by
  unfold Obligations.HostReads
  refine ⟨?counterLo, ?counterHi, ?wide, ?pins, ?rcl, ?rclAdded,
    ?pairLo, ?pairHi, ?w1c, ?hardware, ?occSel⟩
  case counterLo =>
    intro s lo be hr hm ho hl
    refine ⟨_, exec_latchingRead .., ?_⟩
    rw [State.hostRead_taken hr ho, State.takeRead_counter hm hl]
    exact ⟨rfl, optAt_set s.latched (lo + 4) (some (s.reg (lo + 4))), rfl⟩
  case counterHi =>
    intro s lo v be hr hm ho hl
    obtain ⟨-, hhi, -⟩ := counterLos_readByLatch lo hm
    refine ⟨_, exec_latchingRead .., ?_⟩
    rw [State.hostRead_taken hr ho, State.takeRead_latched hhi hl]
    exact ⟨rfl, optAt_set s.latched (lo + 4) none, rfl⟩
  case wide => exact fun s off => rfl
  case pins => exact fun s off size l => rfl
  case rcl =>
    intro s off be hr ha hpop hocc ho hn
    refine ⟨_, exec_rclRead ha s be, ?_⟩
    rw [State.hostRead_taken hr ho, State.takeRead_rcl s ha hpop hocc, State.rclTake_of_none hn]
    exact ⟨rfl, State.reg_setReg_same s off 0, State.sameRegsBut_setReg s off 0⟩
  case rclAdded =>
    intro s off old n be hr ha hpop hocc ho hn
    refine ⟨_, exec_rclRead ha s be, ?_⟩
    rw [State.hostRead_taken hr ho, State.takeRead_rcl s ha hpop hocc, State.rclTake_of_some hn]
    have left := State.reg_rclPut s off 0 n
    rw [Nat.zero_add] at left
    exact ⟨rfl, left, State.sameRegsBut_rclPut s off 0 n⟩
  case pairLo =>
    intro s lo v hm h
    obtain ⟨hf, -⟩ := pairLos_local lo hm
    refine ⟨_, exec_pairedWrite .., ?_⟩
    rw [State.hostWrite_local h hf, (State.writeReg_pair s v lo hm).1, State.pairStore_lo]
    exact ⟨rfl, optAt_set s.held lo (some (v &&& maskAt lo))⟩
  case pairHi =>
    intro s lo v l hm h hl
    obtain ⟨-, hf⟩ := pairLos_local lo hm
    refine ⟨_, exec_pairedWrite .., ?_⟩
    rw [State.hostWrite_local h hf, (State.writeReg_pair s v lo hm).2, State.pairStore_hi hl]
    obtain ⟨hlo, hhi⟩ := State.reg_set64_words (s.takeHeld lo).2 lo l (v &&& maskAt (lo + 4))
    exact ⟨hlo, hhi, optAt_set s.held lo none, State.sameRegsBut_set64 _ lo _⟩
  case w1c =>
    intro s off v ha _ h
    have hregs := State.hostWrite_taken_regs h v (fun s => s.w1cClear off v)
    refine ⟨_, exec_w1cWrite ha s v, fun i => ?_, fun o ho => ?_⟩
    · rw [State.reg_congr hregs, State.reg_w1cClear s off v i.isLt]
    · rw [State.reg_congr hregs, State.sameRegsBut_w1cClear s off v o ho]
  case hardware =>
    intro s off bit hb hv
    rw [State.hwSet_of_no_vector s (f := bitFld off bit) hv]
    refine ⟨State.bit_setF_one _ _ rfl hb, fun o ho => ?_, State.occ_countOcc s (bitFld off bit)⟩
    rw [State.sameRegsBut_setF (s.countOcc (bitFld off bit)) (bitFld off bit) 1 o ho, State.reg_countOcc]
  case occSel =>
    intro s v h
    exact ⟨_, exec_occSel h v, State.reg_storeReg .., State.sameRegsBut_storeReg s _ v, State.restSame_storeReg ..⟩

end Sys2Proof.Machine
end

section
/-! PROOF. What the operations of the black box leave: the board and the memory of the draft
(spec/15_startup_and_black_box.md R364 to R379). -/

namespace Sys2Proof.Machine

/-- What no operation of the black box touches: the board and the memory of the draft. -/
def State.boardAndDraft (s : State) : BoardSt × DraftSt := (s.board, s.draft)

@[simp] theorem State.boardAndDraft_withBbx (s : State) (x : BbxSt) :
    ({ s with bbx := x } : State).boardAndDraft = s.boardAndDraft := rfl

@[simp] theorem State.boardAndDraft_setReg (s : State) (o : Nat) (v : Word) :
    (s.setReg o v).boardAndDraft = s.boardAndDraft := rfl

@[simp] theorem State.boardAndDraft_setF (s : State) (f : Fld) (n : Nat) :
    (s.setF f n).boardAndDraft = s.boardAndDraft := rfl

@[simp] theorem State.boardAndDraft_setBit (s : State) (f : Fld) (b : Bool) :
    (s.setBit f b).boardAndDraft = s.boardAndDraft := rfl

@[simp] theorem State.boardAndDraft_set64 (s : State) (o n : Nat) :
    (s.set64 o n).boardAndDraft = s.boardAndDraft := rfl

@[simp] theorem State.boardAndDraft_nextFree (s : State) : s.nextFree.boardAndDraft = s.boardAndDraft := rfl

@[simp] theorem State.boardAndDraft_hwSet (s : State) (f : Fld) : (s.hwSet f).boardAndDraft = s.boardAndDraft := by
  simp only [State.boardAndDraft, State.hwSet_board, State.hwSet_draft]

@[simp] theorem State.boardAndDraft_sendCell (s : State) (c : Cell) : (s.sendCell c).boardAndDraft = s.boardAndDraft := rfl

@[simp] theorem State.boardAndDraft_crossCopy (s : State) (r : BbxRecord) :
    (s.crossCopy r).boardAndDraft = s.boardAndDraft := by
  unfold State.crossCopy
  split <;> simp

@[simp] theorem State.boardAndDraft_ringRoom (s : State) : s.ringRoom.boardAndDraft = s.boardAndDraft := by
  unfold State.ringRoom
  split <;> simp [State.boardAndDraft]

@[simp] theorem State.boardAndDraft_pushRecord (s : State) (r : BbxRecord) :
    (s.pushRecord r).boardAndDraft = s.boardAndDraft := by
  unfold State.pushRecord
  split
  · simp
  · have hroom (r : BbxRecord) :
        (if s.bbxLost then s.ringRoom.crossCopy r else s).boardAndDraft = s.boardAndDraft := by split <;> simp
    exact hroom _

@[simp] theorem State.boardAndDraft_makeRecord (s : State) (src code : Nat) (p : List Byte) :
    (s.makeRecord src code p).boardAndDraft = s.boardAndDraft := s.boardAndDraft_pushRecord _

/-! ### The copies and the control page -/

@[simp] theorem State.boardAndDraft_judgeLost (s : State) : s.judgeLost.boardAndDraft = s.boardAndDraft := by
  unfold State.judgeLost
  split
  · split <;> simp
  · split <;> simp

@[simp] theorem State.boardAndDraft_setCopyState (s : State) (b : Bool) (n : Nat) :
    (s.setCopyState b n).boardAndDraft = s.boardAndDraft := State.boardAndDraft_judgeLost _

@[simp] theorem State.boardAndDraft_commitTo (s : State) (b ok : Bool) (r : BbxRecord) :
    (s.commitTo b ok r).boardAndDraft = s.boardAndDraft := by
  unfold State.commitTo
  split
  · rfl
  · split <;> simp [State.failCopy]

@[simp] theorem State.boardAndDraft_afterCommit (s : State) (r : BbxRecord) :
    (s.afterCommit r).boardAndDraft = s.boardAndDraft := by
  unfold State.afterCommit
  split <;> simp

@[simp] theorem State.boardAndDraft_commitHead (s : State) (okA okB : Bool) :
    (s.commitHead okA okB).boardAndDraft = s.boardAndDraft := by
  unfold State.commitHead
  split
  · rfl
  · split
    · rfl
    · dsimp only
      split <;> simp

@[simp] theorem State.boardAndDraft_replay (s : State) (r : BbxRecord) :
    (s.replay r).boardAndDraft = s.boardAndDraft := by simp [State.replay]

@[simp] theorem State.boardAndDraft_examineJournals (s : State) (a b : Option Journal) :
    (s.examineJournals a b).2.boardAndDraft = s.boardAndDraft := by
  have hclear : s.clearJournals.boardAndDraft = s.boardAndDraft := rfl
  unfold State.examineJournals
  dsimp only
  split
  · exact hclear
  · split <;> simp [hclear]
  · split <;> simp [hclear]

@[simp] theorem State.boardAndDraft_retry (s : State) (passA passB : Bool) :
    (s.retry passA passB).boardAndDraft = s.boardAndDraft := by
  have hmark (s : State) (b : Bool) :
      (if s.copyInService b then s else s.setCopyState b 2).boardAndDraft = s.boardAndDraft := by split <;> simp
  simp [State.retry, hmark]

@[simp] theorem State.boardAndDraft_readPage (s : State) (cold : Bool) (page : Option Page) :
    (s.readPage cold page).boardAndDraft = s.boardAndDraft := by
  unfold State.readPage
  split
  simp only [State.boardAndDraft_nextFree]
  split
  · simp only [State.boardAndDraft_setF, State.boardAndDraft_setReg]
  · simp only [State.boardAndDraft_setReg]

@[simp] theorem State.boardAndDraft_savePage (s : State) : s.savePage.boardAndDraft = s.boardAndDraft := rfl

@[simp] theorem State.boardAndDraft_holeRecord (s : State) (first last cause : Nat) :
    (s.holeRecord first last cause).boardAndDraft = s.boardAndDraft := State.boardAndDraft_makeRecord ..

@[simp] theorem State.boardAndDraft_powerUpRecord (s : State) (outcome : Nat) :
    (s.powerUpRecord outcome).boardAndDraft = s.boardAndDraft := State.boardAndDraft_pushRecord ..

@[simp] theorem State.boardAndDraft_resumeRseq (s : State) (skip : Bool) :
    (s.resumeRseq skip).boardAndDraft = s.boardAndDraft := State.boardAndDraft_set64 ..

theorem State.boardAndDraft_aonRecords (s : State) (cold : Bool) (bad : Bool × Bool) (passA passB : Bool) :
    (s.aonRecords cold bad passA passB).boardAndDraft = s.boardAndDraft := by
  unfold State.aonRecords
  extract_lets damaged page saved skip
  have hsaved : saved.boardAndDraft = s.boardAndDraft :=
    (State.boardAndDraft_savePage _).trans (State.boardAndDraft_readPage damaged cold page)
  generalize hj : saved.examineJournals _ _ = j
  obtain ⟨outcome, t⟩ := j
  have ht : t.boardAndDraft = s.boardAndDraft := by
    rw [snd_eq hj, State.boardAndDraft_examineJournals, hsaved]
  have htested : (t.retry passA passB).boardAndDraft = s.boardAndDraft := (State.boardAndDraft_retry ..).trans ht
  cases cold
  case false => exact (State.boardAndDraft_powerUpRecord ..).trans htested
  case true =>
    have hrecord (n : Nat) :
        ((((t.retry passA passB).resumeRseq skip).set64 Reg.BBX_OLDEST_LO n).powerUpRecord outcome).boardAndDraft =
          s.boardAndDraft := by
      rw [State.boardAndDraft_powerUpRecord, State.boardAndDraft_set64, State.boardAndDraft_resumeRseq, htested]
    show (if skip = true then State.holeRecord _ _ _ _ else _).boardAndDraft = _
    split
    · exact (State.boardAndDraft_holeRecord ..).trans (hrecord _)
    · exact hrecord _

theorem State.boardAndDraft_cutCommit (s : State) (cut : CommitCut) :
    (s.cutCommit cut).boardAndDraft = s.boardAndDraft := by
  have hput (s : State) (b : Bool) (r : BbxRecord) (whole : Bool) :
      (s.putJournal b r whole).boardAndDraft = s.boardAndDraft := rfl
  have hcopy (x : BbxSt) :
      (if s.copyInService false then { s with bbx := x } else s).boardAndDraft = s.boardAndDraft := by split <;> simp
  unfold State.cutCommit
  split
  · rfl
  · split
    · rfl
    · dsimp only
      cases cut <;> simp [hput, hcopy]

end Sys2Proof.Machine
end

section
/-! PROOF. Power (spec/01_engine_architecture.md R31, spec/15_startup_and_black_box.md R361 to R365): the entries to
AON_UP and OFF, and what the black box does there. -/

namespace Sys2Proof.Machine

/-! ### Entry to AON_UP and OFF (R31, R57, R433) -/

theorem State.enterAonUp_fuses (s : State) (cause : Nat) (a : BitVec 3) :
    (s.enterAonUp cause a).board.fuses = s.board.fuses := by
  have hboard : (s.enterAonUp cause a).board.fuses = (s.enter .aonUp cause).board.fuses := rfl
  rw [hboard, State.enter_board]

theorem sparseFind_filter {α : Type} (m : Sparse α) (keep : Nat → Bool) {k : Nat} (h : keep k = true) :
    sparseFind (m.filter (fun p => keep p.1)) k = sparseFind m k := by
  induction m with
  | nil => rfl
  | cons p m ih =>
    obtain ⟨j, v⟩ := p
    by_cases hj : keep j = true
    · simp only [List.filter_cons, hj, if_true, sparseFind, ih]
    · have hjk : j ≠ k := by rintro rfl; exact hj h
      simpa [hj, sparseFind, hjk] using ih

/-- A register that is kept reads as before. -/
theorem State.reg_keepRegs (s : State) {keep : Nat → Bool} {o : Nat} (h : keep o = true) :
    (s.keepRegs keep).reg o = s.reg o := by
  simp only [State.reg, State.keepRegs, sparseGet, sparseFind_filter _ _ h]

theorem Leaves.keepRegs {P : Nat → Prop} {r s : State} (h : Leaves P r s) {keep : Nat → Bool}
    (hk : ∀ o, P o → keep o = true) : Leaves P r (s.keepRegs keep) :=
  ⟨fun o ho => (State.reg_keepRegs s (hk o ho)).trans (h.reg o ho)⟩

theorem Leaves.clearStructure {P : Nat → Prop} {r s : State} (h : Leaves P r s) : Leaves P r s.clearStructure :=
  h.of_regs rfl

theorem State.leaves_enterAonUp (s : State) (cause : Nat) (a : BitVec 3) :
    Leaves DevState (s.enter .aonUp cause) (s.enterAonUp cause a) := by
  have kept := ((Leaves.refl (s.enter .aonUp cause)).keepRegs
    (keep := fun o => bbxKept o || blockOf o == 0x18 || o == Reg.DEV_STATE)
    (by rintro o (rfl : o = 8); decide)).clearStructure
  have marked := ((kept.setBit (f := F.BBX_STATUS_SNAP_ACTIVE) false (devState_ne (by decide))).setBit
    (f := F.BBX_STATUS_MODE) false (devState_ne (by decide))).setBit (f := F.BBX_STATUS_LOST) false
    (devState_ne (by decide))
  exact marked.of_regs rfl

/-- What leaves DEV.STATE alone leaves the engine in the state that it entered, for its cause (R31). -/
theorem Leaves.cur_of_enter {s t : State} {d : EngState} {c : Nat} (h : Leaves DevState (s.enter d c) t) (hc : c < 256) :
    t.cur = d ∧ t.getF F.DEV_STATE_ENTRY_CAUSE = c := by
  obtain ⟨hcur, hcause⟩ := State.cur_enter s d c
  refine ⟨(State.cur_congr (h.reg 8 rfl)).trans hcur, ?_⟩
  rw [h.getF F.DEV_STATE_ENTRY_CAUSE rfl, hcause]
  exact Nat.mod_eq_of_lt hc

/-- What the black box does after an entry to AON_UP leaves what the entry made (R31, R57). -/
theorem State.enterAonUp_then {s t : State} {cause : Nat} {a : BitVec 3} (hc : cause < 256)
    (hb : t.boardAndDraft = (s.enterAonUp cause a).boardAndDraft) (hs : Leaves DevState (s.enterAonUp cause a) t) :
    t.cur = .aonUp ∧ t.getF F.DEV_STATE_ENTRY_CAUSE = cause ∧ t.board.i2cAddr = a ∧ t.draft.staging = [] ∧
      t.board.fuses = s.board.fuses := by
  obtain ⟨hboard, hdraft⟩ := Prod.mk.inj hb
  obtain ⟨hcur, hcause⟩ := ((State.leaves_enterAonUp s cause a).trans hs).cur_of_enter hc
  refine ⟨hcur, hcause, ?_, ?_, ?_⟩
  · rw [hboard]; rfl
  · rw [hdraft]; rfl
  · rw [hboard, State.enterAonUp_fuses]

theorem State.cur_enterOff (s : State) : s.enterOff.cur = .off := by
  have h8 : s.enterOff.reg 8 = 0 := State.reg_setReg_same _ 8 0
  simp only [State.cur, State.getF]
  rw [show F.DEV_STATE_CUR.off = 8 from rfl, h8]
  rfl

/-! ### The commands -/

theorem exec_railLoss {s : State} {rail : Rail} (hrail : rail ≠ .vddAon) (hoff : s.cur ≠ .off) (haon : s.cur ≠ .aonUp)
    (a : BitVec 3) (pa pb : Bool) (bad : Bool × Bool) :
    exec (.railLoss rail a pa pb bad) s = .next (((s.enterAonUp 0x10 a).railRecord rail.step
      ((s.enterAonUp 0x10 a).getF F.DEV_STATE_PREV)).aonRecords false bad pa pb) := by
  show Host.Outcome.next _ = _
  rw [if_neg hrail]
  split
  · contradiction
  · contradiction
  · rfl

/-- The rail out of order, in the box and on the board (R362). -/
theorem exec_seqViolation {s : State} (haon : s.cur = .aonUp) (rail before : Rail) :
    ∃ payload t, exec (.seqViolation rail before) s = .next t ∧ t.regs = (s.makeRecord 1 3 payload).regs ∧
      t.draft = s.draft ∧ t.board = { s.board with seqViolation := some (s.board.seqViolation.getD (rail, before)) } := by
  let payload := [BitVec.ofNat 8 rail.step, BitVec.ofNat 8 before.step]
  obtain ⟨hboard, hdraft⟩ := Prod.mk.inj (s.boardAndDraft_makeRecord 1 3 payload)
  let m := s.makeRecord 1 3 payload
  refine ⟨payload, { m with board := { m.board with seqViolation := some (m.board.seqViolation.getD (rail, before)) } },
    ?_, rfl, hdraft, by rw [← hboard]⟩
  show Host.Outcome.next _ = _
  rw [if_neg (by simp [haon])]

/-- Settles O12: the entry to AON_UP or OFF makes each of the values named, and the black box's records and tests that follow
it leave the board, the draft's memory and DEV.STATE alone. -/
theorem powerEvents : Obligations.PowerEvents := by
  unfold Obligations.PowerEvents
  refine ⟨?aonValid, ?railLoss, ?aonLoss, ?seqViolation⟩
  case aonValid =>
    intro s a pg pa pb bad hoff
    refine ⟨(s.enterAonUp 0x0F a).aonRecords true (bad.1 || !pg, bad.2 || !pg) pa pb, ?_, ?_⟩
    · show Host.Outcome.next _ = _
      rw [if_neg (by simp [hoff])]
    · exact State.enterAonUp_then (by decide) (State.boardAndDraft_aonRecords ..)
        (State.aonRecords_devState (Leaves.refl _) _ _ _ _)
  case railLoss =>
    intro s rail a pa pb bad hrail hoff haon
    refine ⟨_, exec_railLoss hrail hoff haon a pa pb bad, ?_⟩
    exact State.enterAonUp_then (by decide)
      ((State.boardAndDraft_aonRecords ..).trans (State.boardAndDraft_makeRecord ..))
      (State.aonRecords_devState (State.railRecord_devState (Leaves.refl _) _ _) _ _ _ _)
  case aonLoss =>
    intro s cut hoff
    refine ⟨(s.cutCommit cut).enterOff, ?_, State.cur_enterOff _, rfl, rfl, rfl, ?_⟩
    · show Host.Outcome.next (s.aonLost cut) = _
      rw [State.aonLost, if_neg (by simp [hoff])]
    · exact congrArg (fun p => p.1.fuses) (State.boardAndDraft_cutCommit s cut)
  case seqViolation =>
    intro s rail before haon
    obtain ⟨payload, t, hexec, hregs, hdraft, hboard⟩ := exec_seqViolation haon rail before
    have hdev : Leaves DevState s t := ((Leaves.refl s).makeRecord 1 3 payload devState_bbx).of_regs hregs
    exact ⟨t, hexec, (State.cur_congr (hdev.reg 8 rfl)).trans haon, hboard, hdraft⟩

end Sys2Proof.Machine
end

section
/-! PROOF. Resets that meet in one clock (spec/01_engine_architecture.md R31, R35, R54). -/

namespace Sys2Proof.Machine

/-- An engine whose PCIe link is up with a Max Payload Size of 256 bytes, after it took the reset command of the maintenance
port in the present clock. -/
def linkedEngineReset : State :=
  ({ State.reset with
      board := { State.reset.board with pcieUp := true, pcie := { PcieConfig.init with mps := 1 } } } : State).resetBy 3
    Straps.init .noRef

theorem linkedEngineReset_cur : linkedEngineReset.cur = .reset := by decide +kernel

theorem linkedEngineReset_rankNow : linkedEngineReset.rankNow = 3 := by decide +kernel

theorem linkedEngineReset_pcie : linkedEngineReset.board.pcie ≠ PcieConfig.init := by decide +kernel

/-- The engine as PERST_N leaves its board: the link down, its settings and error bits at the standard's defaults (R54). -/
def State.perstOnBoard (s : State) : State :=
  { s with board := { s.board with perst := true, pcieUp := false, pcie := PcieConfig.init, aer := 0, d3hot := false } }

/-- Where PERST_N leaves the link's settings as they were, they were the standard's defaults already. -/
theorem State.pcie_of_perstOnBoard_board {s : State}
    (h : s.perstOnBoard.board = { s.board with perst := true, pcieUp := false, d3hot := false }) :
    s.board.pcie = PcieConfig.init := (congrArg BoardSt.pcie h).symm

theorem State.nowPerst_board (s : State) : s.nowPerst.board = s.board := rfl

/-- PERST_N in the clock of another reset enters nothing again: it becomes the cause (R31, R35, R54). -/
theorem exec_perstAssert_of_reset {s : State} (hc : s.cur = .reset) (hr : s.rankNow = 3) (straps : Straps) (ref : RefClass) :
    exec (.perstAssert straps ref) s = .next s.perstOnBoard.nowPerst := by
  have hres : s.perstOnBoard.resettable = true := by
    have hcp : s.perstOnBoard.cur = .reset := hc
    unfold State.resettable
    rw [hcp]
    rfl
  have hrp : s.perstOnBoard.rankNow = 3 := hr
  have hexec : exec (.perstAssert straps ref) s = .next (s.perstOnBoard.resetBy 2 straps ref) := rfl
  rw [hexec, State.resetBy, if_neg (by simp [hres]), if_pos hrp, if_pos rfl]

/-- Refutes O13: PERST_N also puts the link's settings and AER bits back to the standard's defaults (R54, log 148), so
where it meets the maintenance port's reset of the same clock the board differs from the one before in more than PERST_N,
the link and D3hot. The counterexample is an engine whose link was up with a Max Payload Size of 256 bytes. -/
theorem not_resets : ¬ Obligations.Resets := by
  unfold Obligations.Resets
  rintro ⟨-, -, -, meet, -⟩
  obtain ⟨⟨t, ht, -, -, hboard⟩, -⟩ := meet _ Straps.init .noRef linkedEngineReset_cur linkedEngineReset_rankNow
  rw [exec_perstAssert_of_reset linkedEngineReset_cur linkedEngineReset_rankNow] at ht
  obtain rfl := Host.Outcome.next.inj ht
  rw [State.nowPerst_board] at hboard
  exact linkedEngineReset_pcie (State.pcie_of_perstOnBoard_board hboard)

end Sys2Proof.Machine
end

section
/-! PROOF. HBM training (spec/11_memory_and_shuttle.md R286, R287): what it makes of each pseudo-channel. -/

namespace Sys2Proof.Machine

/-- What training makes of one pseudo-channel. -/
def State.trainStep (results : Training) (s : State) (p : Nat) : State :=
  let x := trainPc (results.getD p [])
  let s := s.setReg (Reg.MEM_PC_LANEMAP p) x.1.word
  match x.2 with
  | .retire step group => s.retireState p step group
  | .ok sets =>
    let s : State := { s with mem := { s.mem with timing := sparseSet (fun _ => []) s.mem.timing p sets } }
    (s.setF (F.MEM_PC_STATE_STATE p) 1).showTiming p (s.timingNow p)

/-- The state that an outcome of training gives a pseudo-channel. -/
def Trained.pcState : Trained → Nat
  | .retire _ _ => 4
  | .ok _ => 1

/-- DEV.STATE and the states of the 64 pseudo-channels. -/
def DevOrPcState (o : Nat) : Prop := o = 8 ∨ ∃ q < 64, o = Reg.MEM_PC_STATE q

theorem DevOrPcState.lt {o : Nat} (h : DevOrPcState o) : o < 0x110000 := by
  obtain rfl | ⟨q, hq, rfl⟩ := h
  · decide
  · have : Reg.MEM_PC_STATE q = 0x100100 + 64 * q := rfl
    omega

/-- The registers of the MEM block at other places in the rows of its pseudo-channels. -/
theorem not_devOrPcState {o : Nat} (h : o % 64 ≠ 0) (h8 : o ≠ 8) : ¬ DevOrPcState o := by
  rintro (rfl | ⟨q, hq, rfl⟩)
  · exact h8 rfl
  · have : Reg.MEM_PC_STATE q = 0x100100 + 64 * q := rfl
    omega

/-- A field set on both sides. -/
theorem Leaves.setF_both {P : Nat → Prop} {r s : State} (h : Leaves P r s) {f : Fld} (n : Nat) (hf : P f.off) :
    Leaves P (r.setF f n) (s.setF f n) :=
  ⟨fun o ho => by rw [State.reg_setF, State.reg_setF, h.reg _ hf, h.reg _ ho]⟩

/-- A retirement sets the state of its pseudo-channel, and of what training shows nothing else (R287). -/
theorem State.leaves_retireState (s : State) (p step group : Nat) :
    Leaves DevOrPcState (s.setF (F.MEM_PC_STATE_STATE p) 4) (s.retireState p step group) := by
  have above {o : Nat} (h : 0x110000 ≤ o) : ¬ DevOrPcState o := fun ho => absurd ho.lt (by omega)
  have pba (v : Nat) : ¬ DevOrPcState (F.DMA_PBA_BIT v).off :=
    above (show 0x110000 ≤ 0x129000 + 4 * (v / 32) by omega)
  have marked := ((Leaves.refl (s.setF (F.MEM_PC_STATE_STATE p) 4)).hwSet (f := F.MEM_EVENTS_RETIRE)
    (not_devOrPcState (by decide) (by decide)) pba).hwSet (f := F.FLT_CLASS_HBM_RETIRE) (above (by decide)) pba
  have emptied : Leaves DevOrPcState _ (State.setPool _ p []) := marked.of_regs rfl
  exact emptied.makeRecord 7 1 _ (fun o ho => by have := ho.lt; omega)

theorem State.leaves_showTiming (s : State) (p : Nat) (t : PcTiming) : Leaves DevOrPcState s (s.showTiming p t) := by
  refine (Leaves.refl s).setRegs _ ?_
  have out (k : Nat) (h : k % 64 ≠ 0) (h8 : 8 < k) : ¬ DevOrPcState (k + 64 * p) :=
    not_devOrPcState (by omega) (by omega)
  simp only [List.forall_mem_cons]
  exact ⟨out 0x100124 (by decide) (by decide), out 0x100128 (by decide) (by decide),
    out 0x10012c (by decide) (by decide), by simp⟩

/-- Training sets the state of its pseudo-channel as its sweeps tell, and leaves DEV.STATE and the other states
(R286, R287). -/
theorem State.leaves_trainStep (results : Training) (s : State) {p : Nat} (hp : p < 64) :
    Leaves DevOrPcState (s.setF (F.MEM_PC_STATE_STATE p) (trainPc (results.getD p [])).2.pcState)
      (s.trainStep results p) := by
  have hrow : ¬ DevOrPcState (Reg.MEM_PC_LANEMAP p) :=
    not_devOrPcState (show (0x100120 + 64 * p) % 64 ≠ 0 by omega) (show 0x100120 + 64 * p ≠ 8 by omega)
  have hstate : DevOrPcState (F.MEM_PC_STATE_STATE p).off := Or.inr ⟨p, hp, rfl⟩
  have mapped (w : Word) := (Leaves.refl s).setReg w hrow
  unfold State.trainStep
  dsimp only
  split
  next h =>
    rw [h]
    exact ((mapped _).setF_both 4 hstate).trans (State.leaves_retireState ..)
  next h =>
    rw [h]
    refine Leaves.trans (Leaves.setF_both ?_ 1 hstate) (State.leaves_showTiming ..)
    exact (mapped _).of_regs rfl

@[simp] theorem State.boardAndDraft_setPool (s : State) (p : Nat) (l : List PoolEntry) :
    (s.setPool p l).boardAndDraft = s.boardAndDraft := rfl

@[simp] theorem State.boardAndDraft_setRegs (s : State) (l : List (Nat × Word)) :
    (s.setRegs l).boardAndDraft = s.boardAndDraft := by
  simp only [State.boardAndDraft, State.setRegs_board, State.setRegs_draft]

theorem State.boardAndDraft_withMem (s : State) (x : MemSt) :
    ({ s with mem := x } : State).boardAndDraft = s.boardAndDraft := rfl

theorem State.boardAndDraft_showTiming (s : State) (p : Nat) (t : PcTiming) :
    (s.showTiming p t).boardAndDraft = s.boardAndDraft := s.boardAndDraft_setRegs _

theorem State.board_trainStep (results : Training) (s : State) (p : Nat) : (s.trainStep results p).board = s.board := by
  refine congrArg Prod.fst (?_ : (s.trainStep results p).boardAndDraft = s.boardAndDraft)
  unfold State.trainStep
  dsimp only
  split
  · simp [State.retireState]
  · rw [State.boardAndDraft_showTiming, State.boardAndDraft_setF, State.boardAndDraft_withMem, State.boardAndDraft_setReg]

/-- What the training of the first n pseudo-channels leaves, and the states that it gives them. -/
theorem State.trainSteps_spec (results : Training) (s : State) {n : Nat} (hn : n ≤ 64) :
    ((List.range n).foldl (State.trainStep results) s).board = s.board ∧
      Leaves DevState s ((List.range n).foldl (State.trainStep results) s) ∧
      ∀ p < n, ((List.range n).foldl (State.trainStep results) s).pcState p = (trainPc (results.getD p [])).2.pcState := by
  induction n with
  | zero => exact ⟨rfl, Leaves.refl s, by simp⟩
  | succ n ih =>
    obtain ⟨hboard, hdev, hstates⟩ := ih (by omega)
    rw [List.range_succ, List.foldl_append, List.foldl_cons, List.foldl_nil]
    generalize (List.range n).foldl (State.trainStep results) s = u at *
    have hstep := State.leaves_trainStep results u (p := n) (by omega)
    have hne : 8 ≠ (F.MEM_PC_STATE_STATE n).off := show 8 ≠ 0x100100 + 64 * n by omega
    have hwidth (q : Nat) : (F.MEM_PC_STATE_STATE q).lo + (F.MEM_PC_STATE_STATE q).w ≤ 32 := show 0 + 3 ≤ 32 by decide
    refine ⟨(State.board_trainStep ..).trans hboard, hdev.trans ⟨?_⟩, fun p hp => ?_⟩
    · rintro o (rfl : o = 8)
      rw [hstep.reg 8 (Or.inl rfl), State.reg_setF_other _ _ _ hne]
    · rw [State.pcState, hstep.getF _ (Or.inr ⟨p, by omega, rfl⟩)]
      by_cases hpn : p = n
      · subst hpn
        rw [State.getF_setF_same _ _ _ (hwidth p)]
        cases (trainPc (results.getD p [])).2 <;> rfl
      · rw [State.getF_setF_other _ _ _ _ (hwidth n) (Or.inl (show 0x100100 + 64 * p ≠ 0x100100 + 64 * n by omega))]
        exact hstates p (by omega)

/-- Training is done: a new set of error blocks begins (R286). -/
def State.trainingEnds (s : State) : State :=
  { s with board := { s.board with trained := true }, mem := { s.mem with blocks := [], era := s.mem.era + 1 } }

theorem State.trainingEnds_spec {s t : State} (hboard : t.board = s.board) (hdev : Leaves DevState s t) :
    t.trainingEnds.cur = s.cur ∧ t.trainingEnds.board = { s.board with trained := true } := by
  refine ⟨State.cur_congr (hdev.reg 8 rfl), ?_⟩
  rw [← hboard]
  rfl

theorem State.pcState_trainingEnds (s : State) (p : Nat) : s.trainingEnds.pcState p = s.pcState p := rfl

theorem exec_hbmTrainingDone {s : State} (hc : s.cur = .reset) (hp : s.board.perst = false) (ht : s.board.trained = false)
    (results : Training) :
    exec (.hbmTrainingDone results) s = .next ((List.range 64).foldl (State.trainStep results) s).trainingEnds := by
  show Host.Outcome.next _ = _
  rw [if_neg (by simp [hc, hp, ht])]
  rfl

end Sys2Proof.Machine
end

section
/-! PROOF. The end of RESET and of self-test (spec/01_engine_architecture.md R31,
spec/15_startup_and_black_box.md R366 to R369, R384). -/

namespace Sys2Proof.Machine

/-! ### Entries, and the registers of the TEST block (R31, R384) -/

/-- The registers of the TEST block. -/
abbrev InTest (o : Nat) : Prop := o / 0x10000 = 0x18

/-- The registers of the TEST block but TEST.SAFE_CODE, which an entry clears. -/
abbrev TestResult (o : Nat) : Prop := InTest o ∧ o ≠ Reg.TEST_SAFE_CODE

theorem Leaves.mono {P Q : Nat → Prop} {r s : State} (h : Leaves P r s) (hq : ∀ o, Q o → P o) : Leaves Q r s :=
  ⟨fun o ho => h.reg o (hq o ho)⟩

theorem State.leaves_dropEntry {P : Nat → Prop} (s : State) (hb : ∀ o, P o → o / 0x10000 ≠ 0x17) :
    Leaves P s s.dropEntry := by
  have out {o : Nat} (ho : o / 0x10000 = 0x17) : ¬ P o := fun h => hb o h ho
  unfold State.dropEntry
  split
  · exact Leaves.refl s
  · exact ((Leaves.refl s).set64 (o := Reg.BBX_NEXT_LO) _ (out (by decide)) (out (by decide))).of_regs rfl

/-- What an entry makes of the registers but TEST.SAFE_CODE: the ENTRY record that gives way or the state left, the cause and
the state (R31, R35). -/
def State.entryRegs (s : State) (d : EngState) (c : Nat) : State :=
  let u := if causeRank c < s.rankNow ∧ s.rankNow < 7 then s.dropEntry else s.setF F.DEV_STATE_PREV s.cur.code
  (u.setF F.DEV_STATE_ENTRY_CAUSE c).setF F.DEV_STATE_CUR d.code

theorem State.leaves_entryRegs (s : State) (d : EngState) (c : Nat) :
    Leaves (· ≠ Reg.TEST_SAFE_CODE) (s.entryRegs d c) (s.enter d c) := by
  refine Leaves.ite ((Leaves.refl (s.entryRegs d c)).of_regs rfl) (Leaves.setReg ?_ _ (fun h => h rfl))
  exact (Leaves.refl (s.entryRegs d c)).of_regs rfl

/-- An entry leaves the registers other than DEV.STATE, TEST.SAFE_CODE and those of the black box (R31, R35). -/
theorem State.leaves_enter {P : Nat → Prop} (s : State) (d : EngState) (c : Nat) (hb : ∀ o, P o → o / 0x10000 ≠ 0x17)
    (h8 : ¬ P 8) (hsafe : ¬ P Reg.TEST_SAFE_CODE) : Leaves P s (s.enter d c) := by
  refine Leaves.trans ?_ ((s.leaves_entryRegs d c).mono fun o ho e => hsafe (e ▸ ho))
  exact ((Leaves.ite (s.leaves_dropEntry hb) ((Leaves.refl s).setF (f := F.DEV_STATE_PREV) _ h8)).setF
    (f := F.DEV_STATE_ENTRY_CAUSE) c h8).setF (f := F.DEV_STATE_CUR) d.code h8

/-- An entry leaves DEV.STATE.SELFTEST_FAIL (R31). -/
theorem State.selftestFail_enter (s : State) (d : EngState) (c : Nat) :
    (s.enter d c).getF F.DEV_STATE_SELFTEST_FAIL = s.getF F.DEV_STATE_SELFTEST_FAIL := by
  rw [(s.leaves_entryRegs d c).getF F.DEV_STATE_SELFTEST_FAIL (by decide), State.entryRegs,
    State.getF_setF_other _ _ _ _ (by decide) (by decide), State.getF_setF_other _ _ _ _ (by decide) (by decide)]
  split
  · exact (s.leaves_dropEntry devState_bbx).getF F.DEV_STATE_SELFTEST_FAIL rfl
  · exact State.getF_setF_other _ _ _ _ (by decide) (by decide)

theorem State.setRegs_append (s : State) (l m : List (Nat × Word)) : s.setRegs (l ++ m) = (s.setRegs l).setRegs m :=
  List.foldl_append

theorem State.reg_setRegs_other (s : State) {l : List (Nat × Word)} {o : Nat} (h : ∀ p ∈ l, p.1 ≠ o) :
    (s.setRegs l).reg o = s.reg o :=
  ((Leaves.refl s).setRegs (P := (· = o)) l h).reg o rfl

/-! ### LOADED -/

/-- TEST.RESULT and TEST.DURATION lie before the details. -/
theorem State.reg_setResult (s : State) (w d : Word) {l : List (Nat × Word)} (h : ∀ p ∈ l, Reg.TEST_DETAIL 0 ≤ p.1) :
    (s.setRegs ([(Reg.TEST_RESULT, w), (Reg.TEST_DURATION, d)] ++ l)).reg Reg.TEST_RESULT = w ∧
      (s.setRegs ([(Reg.TEST_RESULT, w), (Reg.TEST_DURATION, d)] ++ l)).reg Reg.TEST_DURATION = d := by
  have before {o : Nat} (ho : o < Reg.TEST_DETAIL 0) : ∀ p ∈ l, p.1 ≠ o := fun p hp => by have := h p hp; omega
  rw [State.setRegs_append, State.reg_setRegs_other _ (before (by decide)), State.reg_setRegs_other _ (before (by decide))]
  have hpair : s.setRegs [(Reg.TEST_RESULT, w), (Reg.TEST_DURATION, d)] =
      (s.setReg Reg.TEST_RESULT w).setReg Reg.TEST_DURATION d := rfl
  rw [hpair]
  exact ⟨(State.reg_setReg_other _ d (by decide)).trans (State.reg_setReg_same ..), State.reg_setReg_same ..⟩

/-- The entry to SELFTEST: what TEST shows is cleared (R31, R384). -/
def State.entersSelftest (s : State) : State :=
  ((s.enter .selftest 0x0E).setF F.DEV_STATE_SELFTEST_FAIL 0).setRegs
    ([(Reg.TEST_RESULT, 0), (Reg.TEST_DURATION, 0)] ++ (List.range 10).map (fun i => (Reg.TEST_DETAIL i, 0)))

theorem exec_loaded {s : State} (hc : s.cur = .reset) (hp : s.board.perst = false) (hl : s.board.load = none)
    (ht : s.board.trained = true) (hi : s.bit F.DRAFT_STATUS_LOADED = true) (hs : s.pllsSettled = true) :
    exec .loaded s = .next s.entersSelftest := by
  show Host.Outcome.next _ = _
  rw [if_neg (by simp [hc, hp, hl, ht, hi, hs])]
  rfl

theorem State.entersSelftest_spec (s : State) :
    s.entersSelftest.cur = .selftest ∧ s.entersSelftest.getF F.DEV_STATE_ENTRY_CAUSE = 0x0E ∧
      s.entersSelftest.getF F.DEV_STATE_SELFTEST_FAIL = 0 ∧ s.entersSelftest.reg Reg.TEST_RESULT = 0 ∧
      s.entersSelftest.reg Reg.TEST_DURATION = 0 := by
  have hdev : Leaves DevState ((s.enter .selftest 0x0E).setF F.DEV_STATE_SELFTEST_FAIL 0) s.entersSelftest :=
    (Leaves.refl _).setRegs _ (devState_list (by decide))
  obtain ⟨hcur, hcause⟩ := State.cur_enter s .selftest 0x0E
  refine ⟨?_, ?_, ?_, State.reg_setResult _ 0 0 (by decide)⟩
  · rw [State.cur_congr (hdev.reg 8 rfl), State.cur, State.getF_setF_other _ _ _ _ (by decide) (by decide)]
    exact hcur
  · rw [hdev.getF F.DEV_STATE_ENTRY_CAUSE rfl, State.getF_setF_other _ _ _ _ (by decide) (by decide), hcause]
    rfl
  · rw [hdev.getF F.DEV_STATE_SELFTEST_FAIL rfl, State.getF_setF_same _ _ _ (by decide)]
    rfl

/-! ### What self-test posts (R366, R384) -/

/-- The registers of TEST as the results are posted. -/
def State.postRegs (s : State) (fails : List (Nat × Nat)) (ms : BitVec 12) : State :=
  s.setRegs ([(Reg.TEST_RESULT, BitVec.ofNat 32 (fails.foldl (fun a f => a ||| 2 ^ f.1) (2 ^ 31))),
    (Reg.TEST_DURATION, ms.zeroExtend 32)] ++ fails.map (fun f => (Reg.TEST_DETAIL (f.1 - 1), BitVec.ofNat 32 f.2)))

theorem State.reg_postRegs (s : State) (fails : List (Nat × Nat)) (ms : BitVec 12) :
    (s.postRegs fails ms).reg Reg.TEST_RESULT = BitVec.ofNat 32 (fails.foldl (fun a f => a ||| 2 ^ f.1) (2 ^ 31)) ∧
      (s.postRegs fails ms).reg Reg.TEST_DURATION = ms.zeroExtend 32 := by
  refine State.reg_setResult s _ _ fun p hp => ?_
  obtain ⟨f, -, rfl⟩ := List.mem_map.mp hp
  exact Nat.add_le_add_left (Nat.mul_le_mul_left 4 (Nat.zero_le _)) _

/-- The detail of the item that fails last. -/
theorem State.detail_postRegs (s : State) (fails : List (Nat × Nat)) (code detail : Nat) (ms : BitVec 12) :
    (s.postRegs (fails ++ [(code, detail)]) ms).reg (Reg.TEST_DETAIL (code - 1)) = BitVec.ofNat 32 detail := by
  unfold State.postRegs
  rw [List.map_append, ← List.append_assoc, State.setRegs_append]
  exact State.reg_setReg_same ..

theorem State.leaves_postResult (s : State) (fails : List (Nat × Nat)) (ms : BitVec 12) :
    Leaves (fun o => o = 8 ∨ InTest o) ((s.postRegs fails ms).setF F.DEV_STATE_SELFTEST_FAIL (fails.headD (0, 0)).1)
      (s.postResult fails ms) :=
  (Leaves.refl _).makeRecord _ _ _ (by rintro o (rfl | h) <;> omega)

theorem State.postResult_spec (s : State) (fails : List (Nat × Nat)) (ms : BitVec 12) :
    Leaves InTest (s.postRegs fails ms) (s.postResult fails ms) ∧
      (s.postResult fails ms).getF F.DEV_STATE_SELFTEST_FAIL = (fails.headD (0, 0)).1 % 256 := by
  have h := s.leaves_postResult fails ms
  refine ⟨((Leaves.refl _).setF (f := F.DEV_STATE_SELFTEST_FAIL) _ (by decide)).trans (h.mono fun o ho => Or.inr ho), ?_⟩
  rw [h.getF F.DEV_STATE_SELFTEST_FAIL (Or.inl rfl), State.getF_setF_same _ _ _ (by decide)]
  rfl

/-! ### What follows an entry leaves TEST alone -/

section InTest

variable {r s : State}

theorem not_inTest {o : Nat} (h : o < 0x180000) : ¬ InTest o := by omega

theorem State.takeRole_inTest (h : Leaves InTest r s) (fenced : Bool) : Leaves InTest r (s.takeRole fenced) := by
  unfold State.takeRole
  refine Leaves.setF ?_ _ (by decide)
  exact h.of_regs rfl

theorem State.loadCoefShadow_inTest (h : Leaves InTest r s) : Leaves InTest r s.loadCoefShadow := by
  refine h.setRegs _ (List.forall_mem_append.mpr ⟨?_, ?_⟩)
  · simp only [List.forall_mem_cons]
    exact ⟨by decide, by decide, by decide, by decide, by simp⟩
  · refine List.forall_mem_map.mpr fun i hi => ?_
    have := List.mem_range.mp hi
    exact not_inTest (show 0x90060 + 4 * i < 0x180000 by omega)

theorem State.setGate_inTest (h : Leaves InTest r s) (p : Pll) (gated : Bool) : Leaves InTest r (s.setGate p gated) := by
  have hp : p.idx < 5 := by cases p <;> decide
  unfold State.setGate
  refine Leaves.foldl (h.setBit gated (not_inTest ?_)) _ fun t o ho ht => Leaves.ite (ht.setBit _ (not_inTest ?_)) ht
  · show 0xa0100 + 32 * p.idx < 0x180000
    omega
  · have ho : o < 6 := List.mem_range.mp ho
    show 0xa0200 + 0x40 * p.idx + 4 * o < 0x180000
    omega

theorem State.setPll_inTest (h : Leaves InTest r s) (p : Pll) (st : Nat) : Leaves InTest r (s.setPll p st) := by
  have hp : p.idx < 5 := by cases p <;> decide
  have set : Leaves InTest r (s.setF (F.CLK_PLL_STATUS_STATE p.idx) st) :=
    h.setF _ (not_inTest (show 0xa0100 + 32 * p.idx < 0x180000 by omega))
  have taken : Leaves InTest r (if st == pllLocked then (s.setF (F.CLK_PLL_STATUS_STATE p.idx) st).takeEn p
      else s.setF (F.CLK_PLL_STATUS_STATE p.idx) st) := Leaves.ite (set.of_regs rfl) set
  exact Leaves.ite taken (State.setGate_inTest taken p _)

theorem State.calHalt_inTest (h : Leaves InTest r s) : Leaves InTest r s.calHalt := by
  refine Leaves.foldl h _ fun t b hb ht => ?_
  have status : ¬ InTest Reg.CAL_STATUS := by decide
  have inj : ¬ InTest Reg.CAL_INJ_STATUS := by decide
  unfold State.setCalBank
  refine Leaves.setBit (Leaves.setF ?_ _ status) _ inj
  exact (ht.setBit (f := bitFld Reg.CAL_STATUS b) false status).of_regs rfl

/-- What stops on entry to SAFE_TALK shows in the registers of its own blocks (R369). -/
theorem State.quiesce_inTest (h : Leaves InTest r s) : Leaves InTest r s.quiesce := by
  have loom := ((h.setBit (f := F.LOOM_STATUS_RUNNING) false (by decide)).setBit
    (f := F.LOOM_STATUS_STOPPING) false (by decide)).setBit (f := F.LOOM_CTRL_RUN) false (by decide)
  have plls := State.setPll_inTest (State.setPll_inTest loom .spll pllOff) .fpll pllOff
  have cal := (State.calHalt_inTest plls).setF (f := F.CLK_STATUS_RATE_IN_EFFECT) 0 (by decide)
  have strm := (cal.setReg (o := Reg.TRIG_OUT_STATUS) 0 (by decide)).setF (f := F.STRM_STATUS_STATE) 0 (by decide)
  have trig := (Leaves.foldl (f := fun s k => s.setF ⟨Reg.TRIG_UNIT_STATUS k, 0, 4⟩ 0) strm (List.range 16)
    fun t k hk ht => by
      have := List.mem_range.mp hk
      exact ht.setF _ (not_inTest (show 0xb0128 + 64 * k < 0x180000 by omega))).setReg
    (o := Reg.TRIG_STATUS) 0 (by decide)
  have disp := (trig.setF (f := F.DISP_STATUS_STATE) 0 (by decide)).setReg (o := Reg.DISP_PANEL) 0 (by decide)
  have pair := ((disp.setBit (f := F.PAIR_STATUS_LINK_UP) false (by decide)).setBit
    (f := F.PAIR_STATUS_PROTECTED) false (by decide)).setBit (f := F.PAIR_STATUS_PEER_HEARD) false (by decide)
  unfold State.quiesce
  refine leaves_mk (Leaves.ite (Leaves.foldl pair _ fun t p hp ht => ?_) pair) rfl
  have := List.mem_range.mp hp
  exact ht.setBit _ (not_inTest (show 0x100100 + 64 * p < 0x180000 by omega))

end InTest

/-! ### The two ends of self-test (R31, R367) -/

/-- What an entry shows, after consequences that leave DEV.STATE and the results of self-test alone. -/
theorem Leaves.entry_spec {s t : State} {d : EngState} {c : Nat} (hdev : Leaves DevState (s.enter d c) t)
    (htest : Leaves TestResult (s.enter d c) t) (hc : c < 256) :
    t.cur = d ∧ t.getF F.DEV_STATE_ENTRY_CAUSE = c ∧
      t.getF F.DEV_STATE_SELFTEST_FAIL = s.getF F.DEV_STATE_SELFTEST_FAIL ∧ Leaves TestResult s t := by
  obtain ⟨hcur, hcause⟩ := hdev.cur_of_enter hc
  refine ⟨hcur, hcause, ?_, (s.leaves_enter d c ?_ ?_ ?_).trans htest⟩
  · rw [hdev.getF F.DEV_STATE_SELFTEST_FAIL rfl, State.selftestFail_enter]
  · rintro o ⟨h, -⟩
    omega
  · decide
  · exact fun h => h.2 rfl

/-- The end of a self-test that every item has passed. -/
def State.entersIdle (s : State) (fenced : Bool) : State :=
  (((((s.enter .idle 5).takeRole fenced).loadCoefShadow).startWindow 0).startWindow 1).entryRecord

theorem State.entersIdle_spec (s : State) (fenced : Bool) :
    (s.entersIdle fenced).cur = .idle ∧ (s.entersIdle fenced).getF F.DEV_STATE_ENTRY_CAUSE = 5 ∧
      (s.entersIdle fenced).getF F.DEV_STATE_SELFTEST_FAIL = s.getF F.DEV_STATE_SELFTEST_FAIL ∧
      Leaves TestResult s (s.entersIdle fenced) := by
  have windows (u : State) : ((u.startWindow 0).startWindow 1).regs = u.regs := rfl
  have hdev : Leaves DevState (s.enter .idle 5) (s.entersIdle fenced) :=
    Leaves.entryRecord (Leaves.of_regs
      (State.loadCoefShadow_devState (State.takeRole_devState (Leaves.refl _) fenced)) (windows _)) devState_bbx
  have htest : Leaves InTest (s.enter .idle 5) (s.entersIdle fenced) :=
    Leaves.entryRecord (Leaves.of_regs
      (State.loadCoefShadow_inTest (State.takeRole_inTest (Leaves.refl _) fenced)) (windows _)) (by omega)
  exact hdev.entry_spec (htest.mono fun o ho => ho.1) (by decide)

theorem State.enterSafeTalk_spec (s : State) {cause : Nat} (cls detail : Nat) (hc : cause < 256) :
    (s.enterSafeTalk cause cls detail).cur = .safeTalk ∧
      (s.enterSafeTalk cause cls detail).getF F.DEV_STATE_ENTRY_CAUSE = cause ∧
      (s.enterSafeTalk cause cls detail).getF F.DEV_STATE_SELFTEST_FAIL = s.getF F.DEV_STATE_SELFTEST_FAIL ∧
      Leaves TestResult s (s.enterSafeTalk cause cls detail) ∧
      (s.enterSafeTalk cause cls detail).getF F.TEST_SAFE_CODE_CLASS = cls % 4 ∧
      (s.enterSafeTalk cause cls detail).getF F.TEST_SAFE_CODE_DETAIL = detail % 32 := by
  let coded := ((s.enter .safeTalk cause).setF F.TEST_SAFE_CODE_CLASS cls).setF F.TEST_SAFE_CODE_DETAIL detail
  have hdev : Leaves DevState coded (s.enterSafeTalk cause cls detail) :=
    (State.quiesce_devState (Leaves.refl _)).entryRecord devState_bbx
  have htest : Leaves InTest coded (s.enterSafeTalk cause cls detail) :=
    (State.quiesce_inTest (Leaves.refl _)).entryRecord (by omega)
  have hcoded {P : Nat → Prop} (h : ¬ P Reg.TEST_SAFE_CODE) : Leaves P (s.enter .safeTalk cause) coded :=
    ((Leaves.refl _).setF (f := F.TEST_SAFE_CODE_CLASS) cls h).setF (f := F.TEST_SAFE_CODE_DETAIL) detail h
  obtain ⟨hcur, hcause, hfail, hresult⟩ := ((hcoded (devState_ne (by decide))).trans hdev).entry_spec
    ((hcoded (fun h => h.2 rfl)).trans (htest.mono fun o ho => ho.1)) hc
  refine ⟨hcur, hcause, hfail, hresult, ?_, ?_⟩
  · rw [htest.getF F.TEST_SAFE_CODE_CLASS (by decide), State.getF_setF_other _ _ _ _ (by decide) (by decide),
      State.getF_setF_same _ _ _ (by decide)]
    rfl
  · rw [htest.getF F.TEST_SAFE_CODE_DETAIL (by decide), State.getF_setF_same _ _ _ (by decide)]
    rfl

/-! ### The judgement at the end of the clock (R367, R368) -/

/-- A verdict on self-test, as its clock keeps it to its end (log 66). -/
def State.withVerdict (s : State) (v : Option (SelftestResults × Bool × Option (BitVec 10))) : State :=
  { s with board := { s.board with verdict := v } }

theorem State.selftestSettle_withVerdict {s : State} (hc : s.cur = .selftest) (r : SelftestResults) (fenced : Bool)
    (late : Option (BitVec 10)) :
    (s.withVerdict (some (r, fenced, late))).selftestSettle =
      late.elim ((s.withVerdict none).selftestEnds r fenced) (fun u => (s.withVerdict none).selftestTimesOut u r) := by
  have hcur : (s.withVerdict (some (r, fenced, late))).cur = .selftest := hc
  cases late with
  | none => exact if_neg (by simp [hcur])
  | some u => exact if_neg (by simp [hcur])

theorem State.withVerdict_self {s : State} (hv : s.board.verdict = none) : s.withVerdict none = s := by
  rw [State.withVerdict, ← hv]

theorem State.selftestEnds_passed {s : State} {r : SelftestResults} (h : (s.selftestRetire r).selftestFails r = [])
    (fenced : Bool) :
    s.selftestEnds r fenced = ((s.selftestRetire r).postResult [] r.ms).entersIdle fenced := by
  unfold State.selftestEnds
  dsimp only
  rw [h]
  rfl

theorem State.selftestEnds_failed {s : State} {r : SelftestResults} {code detail : Nat} {l : List (Nat × Nat)}
    (h : (s.selftestRetire r).selftestFails r = (code, detail) :: l) (fenced : Bool) :
    s.selftestEnds r fenced = ((s.selftestRetire r).postResult ((code, detail) :: l) r.ms).enterSafeTalk 6 1 code := by
  unfold State.selftestEnds
  dsimp only
  rw [h]

/-- A time-out posts the items that failed before it, and itself last (R366). -/
theorem State.selftestTimesOut_eq (s : State) (u : BitVec 10) (r : SelftestResults) :
    ∃ v fails, s.selftestTimesOut u r =
      (State.postResult v (fails ++ [(10, 2 * u.toNat)]) r.ms).enterSafeTalk 6 1
        ((fails ++ [(10, 2 * u.toNat)]).headD (10, 0)).1 := ⟨_, _, rfl⟩

theorem exec_selftestDone {s : State} (hc : s.cur = .selftest) (hv : s.board.verdict = none) (r : SelftestResults)
    (fenced : Bool) : exec (.selftestDone r fenced) s = .next (s.withVerdict (some (r, fenced, none))) := by
  show Host.Outcome.next _ = _
  rw [if_neg (by simp [hc, hv])]
  rfl

theorem exec_selftestTimeout {s : State} (hc : s.cur = .selftest) (u : BitVec 10) (r : SelftestResults) :
    exec (.selftestTimeout u r) s = .next (s.withVerdict (some (r, false, some u))) := by
  show Host.Outcome.next _ = _
  rw [if_neg (by simp [hc])]
  rfl

/-- Settles O15: training sets one state after another; an entry shows its state and cause, and what follows it leaves
DEV.STATE and the posted results alone; the verdict that a clock keeps is judged by the state of its end. -/
theorem resetEnds : Obligations.ResetEnds := by
  unfold Obligations.ResetEnds
  refine ⟨?trained, ?loaded, ?passed, ?failed, ?late, ?elsewhere⟩
  case trained =>
    intro s results hc hp ht
    obtain ⟨hboard, hdev, hstates⟩ := State.trainSteps_spec results s (n := 64) le_rfl
    obtain ⟨hcur, hafter⟩ := State.trainingEnds_spec hboard hdev
    refine ⟨_, exec_hbmTrainingDone hc hp ht results, hcur.trans hc, hafter, fun p => ?_⟩
    rw [State.pcState_trainingEnds, hstates p p.isLt]
    obtain ⟨lanes, outcome⟩ := trainPc (results.getD p [])
    cases outcome <;> rfl
  case loaded =>
    intro s hc hp hl ht hi hs
    exact ⟨_, exec_loaded hc hp hl ht hi hs, s.entersSelftest_spec⟩
  case passed =>
    intro s r fenced hc hv hfails
    refine ⟨_, exec_selftestDone hc hv r fenced, rfl, hc, ?_⟩
    rw [State.selftestSettle_withVerdict hc, Option.elim_none, State.withVerdict_self hv, State.selftestEnds_passed hfails]
    obtain ⟨hcur, hcause, hfail, hresult⟩ := State.entersIdle_spec ((s.selftestRetire r).postResult [] r.ms) fenced
    obtain ⟨hposted, hfirst⟩ := (s.selftestRetire r).postResult_spec [] r.ms
    obtain ⟨hword, hms⟩ := (s.selftestRetire r).reg_postRegs [] r.ms
    refine ⟨hcur, hcause, hfail.trans hfirst, ?_, ?_⟩
    · rw [hresult.reg _ (by decide), hposted.reg _ (by decide), hword]
      rfl
    · rw [hresult.reg _ (by decide), hposted.reg _ (by decide), hms]
  case failed =>
    intro s r fenced code detail l hc hv hfails
    refine ⟨_, exec_selftestDone hc hv r fenced, rfl, ?_⟩
    rw [State.selftestSettle_withVerdict hc, Option.elim_none, State.withVerdict_self hv, State.selftestEnds_failed hfails]
    obtain ⟨hcur, hcause, hfail, -, hclass, hdetail⟩ :=
      State.enterSafeTalk_spec ((s.selftestRetire r).postResult ((code, detail) :: l) r.ms) (cause := 6) 1 code (by decide)
    obtain ⟨-, hfirst⟩ := (s.selftestRetire r).postResult_spec ((code, detail) :: l) r.ms
    exact ⟨hcur, hcause, hfail.trans hfirst, hclass, hdetail⟩
  case late =>
    intro s u r hc
    refine ⟨_, exec_selftestTimeout hc u r, rfl, ?_⟩
    obtain ⟨v, fails, hlate⟩ := (s.withVerdict none).selftestTimesOut_eq u r
    rw [State.selftestSettle_withVerdict hc, Option.elim_some, hlate]
    obtain ⟨hcur, hcause, -, hresult, hclass, -⟩ := State.enterSafeTalk_spec
      (v.postResult (fails ++ [(10, 2 * u.toNat)]) r.ms) (cause := 6) 1
      ((fails ++ [(10, 2 * u.toNat)]).headD (10, 0)).1 (by decide)
    obtain ⟨hposted, -⟩ := v.postResult_spec (fails ++ [(10, 2 * u.toNat)]) r.ms
    refine ⟨hcur, hcause, hclass, ?_, ?_⟩
    · rw [hresult.reg _ (by decide), hposted.reg _ (by decide)]
      exact v.detail_postRegs fails 10 (2 * u.toNat) r.ms
    · rw [hresult.reg _ (by decide), hposted.reg _ (by decide), (v.reg_postRegs _ r.ms).2]
  case elsewhere =>
    intro s u r fenced hc
    refine ⟨?_, ?_, ?_⟩
    · show Host.Outcome.next _ = _
      rw [if_pos (by simp [hc])]
    · show Host.Outcome.next _ = _
      rw [if_pos (by simp [hc])]
    · unfold State.selftestSettle
      dsimp only
      split
      next hv => rw [← hv]
      next => rw [if_pos (by simp [hc])]

end Sys2Proof.Machine
end

section
/-! PROOF. An ARM that fails (spec/03_axis_and_loom.md R95, R96). -/

namespace Sys2Proof.Machine

/-- An ARM of a context that is not live and not VALID fails with the cause INVALID_CTX (R95). -/
theorem State.arm_notValid {s : State} {c : Nat} (hl : s.liveOf c = none) (hv : s.bit (F.CTX_CTL_VALID c) = false) :
    s.arm c = (2, s) := by
  simp only [State.arm, hl, State.armFresh, hv, Bool.not_false, if_true]

theorem exec_arm_refused {s : State} (hi : s.loomIssues = true) {c : Fin 1024} (ha : (s.arm c).1 ≠ 0) (tread : Fin 4096) :
    exec (.arm c tread) s = .next ((s.arm c).2.armFailed c (s.arm c).1 tread) := by
  have hexec : exec (.arm c tread) s =
      s.issue (fun s => if (s.arm c).1 = 0 then (s.arm c).2 else (s.arm c).2.armFailed c (s.arm c).1 tread) := rfl
  rw [hexec, State.issue, if_pos hi, if_neg ha]

/-- The failures of the present clock add up on what the counter held before it (R10, R96). -/
theorem State.reg_armFailed_count {s : State} {old n : Nat} (h : s.addedNow Reg.LOOM_ARM_FAIL_COUNT = some (old, n))
    (c cause tread : Nat) :
    (s.armFailed c cause tread).reg Reg.LOOM_ARM_FAIL_COUNT = BitVec.ofNat 32 (min (old + (n + 1)) 4294967295) := by
  have hadd : s.rclAdd Reg.LOOM_ARM_FAIL_COUNT 1 = s.rclPut Reg.LOOM_ARM_FAIL_COUNT old (n + 1) := by
    unfold State.rclAdd
    rw [h]
  unfold State.armFailed
  rw [State.reg_setReg_other _ _ (by decide), State.hwSet_of_no_vector _ rfl, State.reg_setF_other _ _ _ (by decide),
    State.reg_countOcc, hadd, State.reg_rclPut]

/-- A Loom that runs, in a clock that has marked one failed ARM on a count of 0, while LOOM.ARM_FAIL_COUNT reads 0. -/
def markedArmFailure : State :=
  let s := (State.reset.setF F.DEV_STATE_CUR EngState.armed.code).setBit F.LOOM_STATUS_RUNNING true
  { s with time := { s.time with addNow := [(Reg.LOOM_ARM_FAIL_COUNT, 0, 1)] } }

/-- Refutes O19: a failed ARM adds to what the counter held before the failures of its clock (R10), and the statement does
not ask that the register shows those failures (that no `addedNow` of LOOM.ARM_FAIL_COUNT says otherwise). In the
counterexample the clock has marked one failure on a count of 0 and the register reads 0: the next failure makes it 2. -/
theorem not_armAndDisarm : ¬ Obligations.ArmAndDisarm := by
  unfold Obligations.ArmAndDisarm
  rintro ⟨-, refused, -⟩
  have issues : markedArmFailure.loomIssues = true := by decide +kernel
  have cause : markedArmFailure.arm 0 = (2, markedArmFailure) :=
    State.arm_notValid (by decide +kernel) (by decide +kernel)
  have shown : markedArmFailure.reg Reg.LOOM_ARM_FAIL_COUNT = 0 := by decide +kernel
  have fails : (markedArmFailure.arm (0 : Fin 1024)).1 ≠ 0 := by
    rw [Fin.val_zero, cause]; decide
  obtain ⟨t, ht, -, -, hcount, -⟩ := refused _ 0 0 issues fails
  rw [exec_arm_refused issues fails] at ht
  obtain rfl := Host.Outcome.next.inj ht
  rw [Fin.val_zero, cause, State.reg_armFailed_count (old := 0) (n := 1) rfl, shown] at hcount
  exact absurd hcount (by decide)

end Sys2Proof.Machine
end

section
/-! PROOF. No step unburns a fuse (spec/02_draft_image.md R61, spec/15_startup_and_black_box.md R382). -/

namespace Sys2Proof.Machine

theorem keeps_of_exec {i : Instr} {s t : State} (h : exec i s = .next t) : Keeps s t := by
  have k := exec_keeps i s
  unfold KeepsOut at k
  exact k t h

theorem step_of_front {s : State} {c : Instr} {rest : List Instr} (h : s.pending = c :: rest) :
    step s = exec c { s with pending := rest } := by
  unfold step
  rw [h]

/-- Settles O6: a fabric clock and every command keep the order of the fuse array. -/
theorem fusesOnlyBurn : Obligations.FusesOnlyBurn := by
  unfold Obligations.FusesOnlyBurn
  intro s t h
  cases hp : s.pending with
  | nil =>
    rw [step_of_idle hp] at h
    obtain rfl := Host.Outcome.next.inj h
    obtain ⟨-, -, -, fuses⟩ := tick_keeps s
    exact fuses
  | cons c rest =>
    rw [step_of_front hp] at h
    exact (keeps_of_exec h).fuses

end Sys2Proof.Machine
end

section
/-! PROOF. The LOAD record of a ring out of order (spec/02_draft_image.md R53, spec/15_startup_and_black_box.md R375). -/

namespace Sys2Proof.Machine

/-- The codes and payloads of the LOAD records that a clock has made, in the order of the ring. -/
def State.loadRecordsAt (s : State) (clk : Nat) : List (BitVec 16 × List Byte) :=
  (s.bbx.ring.filter (fun q => q.1.source == 3 && q.2 == clk)).map (fun q => (q.1.code, q.1.payload))

/-- A record of a source in the first clock, with an empty payload. -/
def emptyRecord (source : Byte) : BbxRecord :=
  { rseq := 0, secs := 0, pcc := 0, hours := 0, source := source, rflags := 0, code := 0, origin := 0, tsc := 0, payload := [] }

/-- The engine after power-up with two records of its first clock, of which the one of the higher SOURCE comes first. -/
def disorderedRing : State :=
  { State.reset with bbx := { State.reset.bbx with ring := [(emptyRecord 5, 0), (emptyRecord 3, 0)] } }

/-- What an outcome's next state holds of LOAD records. -/
def loadRecordsOf (o : Result) (clk : Nat) : List (BitVec 16 × List Byte) :=
  match o with
  | .next t => t.loadRecordsAt clk
  | _ => []

/-- The load of a blank flash, refused with reason 1, makes its LOAD record before the record of SOURCE 5, and so before the
other of SOURCE 3. -/
theorem loadRecordsOf_disorderedRing :
    loadRecordsOf (exec (.flashLoadDone []) disorderedRing) 0 = [(1, List.replicate 13 0 ++ [1]), (0, [])] := by
  decide +kernel

theorem verifyImage_nil (v : Verifier) : verifyImage v [] = (1, 0) := by
  unfold verifyImage
  rw [if_pos (by decide)]

/-- Refutes O14: a record goes behind those of its clock whose SOURCE is not above its own (R375), and the statement does not ask
that the ring is in that order. In the counterexample the clock has already made a record of SOURCE 5 and, behind it, one of
SOURCE 3: the LOAD record goes before both. -/
theorem not_loadVerdict : ¬ Obligations.LoadVerdict := by
  unfold Obligations.LoadVerdict
  rintro ⟨-, records, -⟩
  obtain ⟨t, ht, hring⟩ := records disorderedRing [] (by decide +kernel) rfl rfl (by decide +kernel) rfl (by decide +kernel)
  have made := loadRecordsOf_disorderedRing
  rw [ht] at made
  rw [verifyImage_nil] at hring
  exact absurd (made.symm.trans hring) (by decide +kernel)

end Sys2Proof.Machine
end

section
/-! PROOF. Staging, checking, the behaviour select and the fuses (spec/02_draft_image.md R56 to R62). -/

namespace Sys2Proof.Machine

open Sys2Proof.Laws

/-! ### Words and bits -/

theorem fieldOf_one (v : Word) (lo : Nat) : fieldOf v lo 1 = (v.getLsbD lo).toNat := by
  have h := Nat.toNat_testBit (v >>> lo).toNat 0
  simp only [pow_zero, Nat.div_one] at h
  rw [fieldOf, pow_one, ← h, BitVec.testBit_toNat, BitVec.getLsbD_ushiftRight, Nat.add_zero]

/-- A one-bit field reads its bit of the register. -/
theorem State.bit_eq_getLsbD (s : State) {f : Fld} (hw : f.w = 1) : s.bit f = (s.reg f.off).getLsbD f.lo := by
  rw [State.bit, State.getF, hw, fieldOf_one]
  cases (s.reg f.off).getLsbD f.lo <;> rfl

theorem State.getF_oneBit (s : State) {f : Fld} (hw : f.w = 1) : s.getF f = (s.bit f).toNat := by
  rw [State.bit_eq_getLsbD s hw, State.getF, hw, fieldOf_one]

/-- A field reads through its own register alone. -/
theorem State.getF_congr_reg {s t : State} {f : Fld} (h : t.reg f.off = s.reg f.off) : t.getF f = s.getF f := by
  rw [State.getF, State.getF, h]

/-- A bit below a field that a write adds leaves the field as it is written. -/
theorem fieldOf_or_low (v : Word) {m lo : Nat} (w : Nat) (h : m < 2 ^ lo) :
    fieldOf (v ||| BitVec.ofNat 32 m) lo w = fieldOf v lo w := by
  apply Nat.eq_of_testBit_eq
  intro i
  have hm : m.testBit (lo + i) = false :=
    Nat.testBit_lt_two_pow (h.trans_le (Nat.pow_le_pow_right (by decide) (Nat.le_add_right lo i)))
  rw [fieldOf_testBit, fieldOf_testBit, BitVec.getLsbD_or, BitVec.getLsbD_ofNat, hm, Bool.and_false, Bool.or_false]

/-- Hardware sets a bit that raises no vector: it reads 1. -/
theorem State.bit_hwSet_same (s : State) {f : Fld} (hv : flagVector f.off = none) (hw : f.w = 1) (hlo : f.lo < 32) :
    (s.hwSet f).bit f = true := by
  rw [State.hwSet_of_no_vector s hv]
  exact State.bit_setF_one _ f hw hlo

theorem State.SameRegsBut.setF {s t : State} {l : List Nat} (h : s.SameRegsBut t l) (f : Fld) (n : Nat) (hf : f.off ∈ l) :
    s.SameRegsBut (t.setF f n) l :=
  fun o ho => (State.reg_setF_other t f n (by rintro rfl; exact ho hf)).trans (h o ho)

theorem State.sameRegsBut_hwSet (s : State) {f : Fld} (hv : flagVector f.off = none) : s.SameRegsBut (s.hwSet f) [f.off] := by
  rw [State.hwSet_of_no_vector s hv]
  exact fun o ho => (State.sameRegsBut_setF (s.countOcc f) f 1 o ho).trans (State.reg_countOcc s f o)

/-- Hardware sets a bit that raises no vector: a field beside it stays. -/
theorem State.getF_hwSet_other (s : State) {f g : Fld} (hv : flagVector f.off = none) (hf : f.lo + f.w ≤ 32)
    (h : g.off ≠ f.off ∨ g.lo + g.w ≤ f.lo ∨ f.lo + f.w ≤ g.lo) : (s.hwSet f).getF g = s.getF g := by
  rw [State.hwSet_of_no_vector s hv, State.getF_setF_other _ f g 1 hf h]
  exact State.getF_congr (State.countOcc_regs s f) g

theorem State.bit_hwSet_other (s : State) {f g : Fld} (hv : flagVector f.off = none) (hf : f.lo + f.w ≤ 32)
    (h : g.off ≠ f.off ∨ g.lo + g.w ≤ f.lo ∨ f.lo + f.w ≤ g.lo) : (s.hwSet f).bit g = s.bit g := by
  rw [State.bit, State.bit, State.getF_hwSet_other s hv hf h]

theorem State.draftOpen_of {s : State} (h : s.cur = .idle ∨ s.cur = .safeTalk) : s.draftOpen = true := by
  rcases h with h | h <;> simp [State.draftOpen, h]

/-! ### The staging buffer (R56, R57) -/

/-- Consecutive keys set in turn read back what was set. -/
theorem sparseGet_setFrom {α : Type} [DecidableEq α] (d : Nat → α) (m : Sparse α) (a : Nat) (g : Nat → α) {n i : Nat}
    (h : i < n) : sparseGet d ((List.range n).foldl (fun m i => sparseSet d m (a + i) (g i)) m) (a + i) = g i := by
  induction n with
  | zero => omega
  | succ n ih =>
    rw [List.range_succ, List.foldl_append, List.foldl_cons, List.foldl_nil, sparseGet_set]
    by_cases hi : i = n
    · rw [if_pos (by rw [hi]), hi]
    · rw [if_neg (by omega), ih (by omega)]

/-- The four bytes of a word stored in the staging buffer. -/
def State.stagesWord (s : State) (a : Nat) (v : Word) : State :=
  let buf := (List.range 4).foldl (fun m i =>
    sparseSet (fun _ => 0) m (a + i) (BitVec.ofNat 8 (fieldOf v (8 * i) 8))) s.draft.staging
  { s with draft := { s.draft with staging := buf } }

section Stage

variable {s : State} (ho : s.cur = .idle ∨ s.cur = .safeTalk) (hc : s.draft.checking = false) (v : Word)
include ho hc

theorem State.stageData_room (ha : (s.reg Reg.DRAFT_STAGE_ADDR).toNat < maxImage) :
    s.stageData v = (s.stagesWord (s.reg Reg.DRAFT_STAGE_ADDR).toNat v).setReg Reg.DRAFT_STAGE_ADDR
      (BitVec.ofNat 32 ((s.reg Reg.DRAFT_STAGE_ADDR).toNat + 4)) := by
  simp [State.stageData, State.stagesWord, State.draftOpen_of ho, hc, Nat.not_le.mpr ha]

theorem State.stageData_full (ha : maxImage ≤ (s.reg Reg.DRAFT_STAGE_ADDR).toNat) :
    s.stageData v = s.hwSet F.FLT_HOST_STAGE_OVERRUN := by
  simp [State.stageData, State.draftOpen_of ho, hc, ha]

end Stage

theorem exec_stageData {s : State} (h : s.takesWrite Reg.DRAFT_STAGE_DATA = true) (v : Word) :
    exec (.stageData v) s = .next (s.stageData v) :=
  congrArg Host.Outcome.next (State.hostWrite_local h rfl v _)

theorem exec_stageAddr {s : State} (h : s.takesWrite Reg.DRAFT_STAGE_ADDR = true)
    (ho : s.cur = .idle ∨ s.cur = .safeTalk) (v : Word) :
    exec (.stageAddr v) s = .next (s.setReg Reg.DRAFT_STAGE_ADDR (BitVec.ofNat 32 (min v.toNat maxImage / 4 * 4))) := by
  refine congrArg Host.Outcome.next ((State.hostWrite_local h rfl v _).trans ?_)
  rw [State.stageAddr, State.draftOpen_of ho, if_pos rfl]

/-! ### CHECK (R58) -/

/-- A check begins. -/
def State.beginsCheck (s : State) : State :=
  ({ s with draft := { s.draft with checking := true } } : State).setBit F.DRAFT_CHECK_STATUS_BUSY true

theorem State.sameRegsBut_beginsCheck (s : State) : s.SameRegsBut s.beginsCheck [Reg.DRAFT_CHECK_STATUS] := by
  have checks : s.SameRegsBut { s with draft := { s.draft with checking := true } } [Reg.DRAFT_CHECK_STATUS] := fun _ _ => rfl
  exact checks.setF F.DRAFT_CHECK_STATUS_BUSY _ List.mem_cons_self

/-- A write of DRAFT.CTRL with CHECK and without RELOAD, where a check is accepted. -/
theorem State.draftCtrl_check {s : State} (ho : s.cur = .idle ∨ s.cur = .safeTalk) (hc : s.draft.checking = false) {v : Word}
    (hreload : v.getLsbD 1 = false) (hcheck : v.getLsbD 2 = true) :
    s.draftCtrl v none = (s.setBit F.DRAFT_CTRL_SOURCE (v.getLsbD 0)).beginsCheck := by
  have hcur : (s.setBit F.DRAFT_CTRL_SOURCE (v.getLsbD 0)).cur = s.cur :=
    State.cur_congr (State.reg_setF_other _ _ _ (by decide))
  have hopen : (s.setBit F.DRAFT_CTRL_SOURCE (v.getLsbD 0)).draftOpen = true := State.draftOpen_of (by rw [hcur]; exact ho)
  have hchecking : (s.setBit F.DRAFT_CTRL_SOURCE (v.getLsbD 0)).draft.checking = false := hc
  simp only [State.draftCtrl, hreload, hcheck, hopen, hchecking, Bool.not_true, Bool.false_eq_true, if_false, if_true]
  rfl

/-- The word of a CHECK: SOURCE as it reads, and CHECK. -/
theorem checkWord_bits (source : Bool) :
    (BitVec.ofNat 32 (4 + source.toNat)).getLsbD 0 = source ∧ (BitVec.ofNat 32 (4 + source.toNat)).getLsbD 1 = false ∧
      (BitVec.ofNat 32 (4 + source.toNat)).getLsbD 2 = true := by
  cases source <;> decide

theorem exec_check {s : State} (h : s.takesWrite Reg.DRAFT_CTRL = true) (ho : s.cur = .idle ∨ s.cur = .safeTalk)
    (hc : s.draft.checking = false) :
    exec .check s = .next (s.setBit F.DRAFT_CTRL_SOURCE (s.bit F.DRAFT_CTRL_SOURCE)).beginsCheck := by
  obtain ⟨hsource, hreload, hcheck⟩ := checkWord_bits (s.bit F.DRAFT_CTRL_SOURCE)
  have hexec : exec .check s = execCheck s := rfl
  rw [hexec, execCheck, s.getF_oneBit (f := F.DRAFT_CTRL_SOURCE) rfl, State.hostWrite_local h rfl,
    State.draftCtrl_check ho hc hreload hcheck, hsource]

/-- A check ends. -/
def State.endsCheck (s : State) : State := { s with draft := { s.draft with checking := false } }

/-- The result of a check as CHECK_STATUS shows it, before DONE. -/
def State.showsCheck (s : State) (reason sect : Nat) : State :=
  (((s.setBit F.DRAFT_CHECK_STATUS_BUSY false).setF F.DRAFT_CHECK_STATUS_REASON reason).setF
    F.DRAFT_CHECK_STATUS_SECTION sect).setBit F.DRAFT_CHECK_STATUS_PASS (reason == 0)

/-- The result of a check, posted. -/
def State.postsCheck (s : State) (reason sect : Nat) : State :=
  (s.endsCheck.showsCheck reason sect).hwSet F.DRAFT_CHECK_STATUS_DONE

theorem exec_checkDone {s : State} (hc : s.draft.checking = true) :
    exec .checkDone s = .next (s.postsCheck (verifyImage s.verifier s.stagedImage).1
      (verifyImage s.verifier s.stagedImage).2) := by
  have hexec : exec .checkDone s = execCheckDone s := rfl
  rw [hexec, execCheckDone, if_neg (by simp [hc])]
  generalize verifyImage s.verifier s.stagedImage = p
  obtain ⟨reason, sect⟩ := p
  rfl

theorem State.showsCheck_spec (s : State) (reason sect : Nat) :
    (s.showsCheck reason sect).bit F.DRAFT_CHECK_STATUS_BUSY = false ∧
      (s.showsCheck reason sect).bit F.DRAFT_CHECK_STATUS_PASS = (reason == 0) ∧
      (s.showsCheck reason sect).getF F.DRAFT_CHECK_STATUS_REASON = reason % 256 ∧
      (s.showsCheck reason sect).getF F.DRAFT_CHECK_STATUS_SECTION = sect % 64 ∧
      s.SameRegsBut (s.showsCheck reason sect) [Reg.DRAFT_CHECK_STATUS] := by
  refine ⟨?_, State.bit_setBit_same _ _ _ (by decide) rfl, ?_, ?_, ?_⟩
  · rw [State.showsCheck, State.bit_setBit_other _ _ _ _ (by decide) (by decide),
      State.bit_setF_other _ _ _ _ (by decide) (by decide), State.bit_setF_other _ _ _ _ (by decide) (by decide)]
    exact State.bit_setBit_same _ _ _ (by decide) rfl
  · rw [State.showsCheck, State.setBit, State.getF_setF_other _ _ _ _ (by decide) (by decide),
      State.getF_setF_other _ _ _ _ (by decide) (by decide)]
    exact State.getF_setF_same _ _ _ (by decide)
  · rw [State.showsCheck, State.setBit, State.getF_setF_other _ _ _ _ (by decide) (by decide)]
    exact State.getF_setF_same _ _ _ (by decide)
  · have mem : Reg.DRAFT_CHECK_STATUS ∈ [Reg.DRAFT_CHECK_STATUS] := List.mem_cons_self
    exact ((((State.SameRegsBut.refl s _).setF F.DRAFT_CHECK_STATUS_BUSY _ mem).setF F.DRAFT_CHECK_STATUS_REASON _ mem).setF
      F.DRAFT_CHECK_STATUS_SECTION _ mem).setF F.DRAFT_CHECK_STATUS_PASS _ mem

theorem State.postsCheck_spec (s : State) (reason sect : Nat) :
    (s.postsCheck reason sect).draft = { s.draft with checking := false } ∧
      (s.postsCheck reason sect).bit F.DRAFT_CHECK_STATUS_DONE = true ∧
      (s.postsCheck reason sect).bit F.DRAFT_CHECK_STATUS_BUSY = false ∧
      (s.postsCheck reason sect).bit F.DRAFT_CHECK_STATUS_PASS = (reason == 0) ∧
      (s.postsCheck reason sect).getF F.DRAFT_CHECK_STATUS_REASON = reason % 256 ∧
      (s.postsCheck reason sect).getF F.DRAFT_CHECK_STATUS_SECTION = sect % 64 ∧
      s.SameRegsBut (s.postsCheck reason sect) [Reg.DRAFT_CHECK_STATUS] := by
  have hv : flagVector F.DRAFT_CHECK_STATUS_DONE.off = none := rfl
  have fits : F.DRAFT_CHECK_STATUS_DONE.lo + F.DRAFT_CHECK_STATUS_DONE.w ≤ 32 := by decide
  obtain ⟨busy, pass, code, sec, same⟩ := s.endsCheck.showsCheck_spec reason sect
  unfold State.postsCheck
  refine ⟨?_, State.bit_hwSet_same _ hv rfl (by decide), ?_, ?_, ?_, ?_, ?_⟩
  · rw [State.hwSet_draft]
    rfl
  · rw [State.bit_hwSet_other _ hv fits (by decide), busy]
  · rw [State.bit_hwSet_other _ hv fits (by decide), pass]
  · rw [State.getF_hwSet_other _ hv fits (by decide), code]
  · rw [State.getF_hwSet_other _ hv fits (by decide), sec]
  · have ends : s.SameRegsBut s.endsCheck [Reg.DRAFT_CHECK_STATUS] := fun _ _ => rfl
    exact (ends.trans same).trans (State.sameRegsBut_hwSet _ hv)

/-! ### COMPAT (R62) -/

theorem exec_compatWrite {s : State} (h : s.takesWrite Reg.DEV_CTRL = true) (v : Word) :
    exec (.compatWrite v) s = .next (s.compatWrite v) :=
  congrArg Host.Outcome.next (State.hostWrite_local h rfl v _)

theorem State.compatWrite_idle {s : State} (hc : s.cur = .idle) (v : Word) :
    (s.compatWrite v).bit F.DEV_CTRL_COMPAT = v.getLsbD 0 ∧ s.SameRegsBut (s.compatWrite v) [Reg.DEV_CTRL] ∧
      s.RestSame (s.compatWrite v) := by
  unfold State.compatWrite
  by_cases hv : v.getLsbD 0 = s.bit F.DEV_CTRL_COMPAT
  · rw [if_pos (by simpa using hv)]
    exact ⟨hv.symm, State.SameRegsBut.refl s _, rfl⟩
  · rw [if_neg (by simpa using hv), if_pos (by rw [hc]; rfl)]
    exact ⟨State.bit_setBit_same s _ _ (by decide) rfl, State.sameRegsBut_setF s _ _, rfl⟩

theorem State.compatWrite_busy {s : State} (hc : s.cur ≠ .idle) (hr : s.reloadedNow = false) {v : Word}
    (hv : v.getLsbD 0 ≠ s.bit F.DEV_CTRL_COMPAT) : s.compatWrite v = s.hwSet F.FLT_HOST_COMPAT_BUSY := by
  rw [State.compatWrite, if_neg (by simpa using hv), if_neg (by simpa using hc), if_neg (by simp [hr])]

/-! ### Burning (R60, R61) -/

theorem exec_burnKey {s : State} (h : s.takesWrite Reg.DRAFT_FUSE_CTRL = true) (v : Word) :
    exec (.burnKey v) s = .next (s.fuseCtrl (v ||| 1)) :=
  congrArg Host.Outcome.next (State.hostWrite_local h rfl _ _)

theorem exec_burnSignedOnly {s : State} (h : s.takesWrite Reg.DRAFT_FUSE_CTRL = true) (v : Word) :
    exec (.burnSignedOnly v) s = .next (s.fuseCtrl (v ||| 2)) :=
  congrArg Host.Outcome.next (State.hostWrite_local h rfl _ _)

/-- The write of FUSE_CTRL clears BURN_ERROR where it is asked to. -/
def State.clearsBurnError (s : State) (v : Word) : State := s.w1cClear Reg.DRAFT_FUSE_CTRL (v &&& 0x20)

@[simp] theorem State.boardAndDraft_clearsBurnError (s : State) (v : Word) :
    (s.clearsBurnError v).boardAndDraft = s.boardAndDraft :=
  foldl_same State.boardAndDraft _ (fun _ _ => State.boardAndDraft_setF _ _ _) _ _

/-- Every bit of FUSE_CTRL but BURN_ERROR stays. -/
theorem State.bit_clearsBurnError (s : State) (v : Word) {f : Fld} (hoff : f.off = Reg.DRAFT_FUSE_CTRL) (hw : f.w = 1)
    (hlo : f.lo < 32) (h5 : f.lo ≠ 5) : (s.clearsBurnError v).bit f = s.bit f := by
  have named : (0x20 : Word).getLsbD f.lo = false := by
    have h20 : (0x20 : Word) = BitVec.twoPow 32 5 := by decide
    rw [h20, BitVec.getLsbD_twoPow]
    simp [Ne.symm h5]
  rw [State.bit_eq_getLsbD _ hw, State.bit_eq_getLsbD _ hw, hoff, State.clearsBurnError, State.reg_w1cClear _ _ _ hlo,
    BitVec.getLsbD_and, named]
  simp

theorem State.cur_clearsBurnError (s : State) (v : Word) : (s.clearsBurnError v).cur = s.cur :=
  State.cur_congr (State.sameRegsBut_w1cClear s _ _ 8 (by decide))

/-- Whether a burn is refused: outside IDLE, during another, of a key over one programmed, and of SIGNED_ONLY over none. -/
def State.burnRefused (s : State) (key so : Bool) : Bool :=
  s.cur != .idle || s.bit F.DRAFT_FUSE_CTRL_BUSY || (key && s.bit F.DRAFT_FUSE_CTRL_KEY_PROGRAMMED) ||
    (so && !key && !s.bit F.DRAFT_FUSE_CTRL_KEY_PROGRAMMED)

theorem State.burnRefused_clearsBurnError (s : State) (v : Word) (key so : Bool) :
    (s.clearsBurnError v).burnRefused key so = s.burnRefused key so := by
  rw [State.burnRefused, State.bit_clearsBurnError s v (f := F.DRAFT_FUSE_CTRL_BUSY) rfl rfl (by decide) (by decide),
    State.bit_clearsBurnError s v (f := F.DRAFT_FUSE_CTRL_KEY_PROGRAMMED) rfl rfl (by decide) (by decide),
    State.cur_clearsBurnError]
  rfl

/-- A burn begins. -/
def State.beginsBurn (s : State) (b : Burn) : State :=
  ({ s with draft := { s.draft with burn := some b } } : State).setBit F.DRAFT_FUSE_CTRL_BUSY true

/-- A write of FUSE_CTRL with the unlock code that asks for a burn. -/
theorem State.fuseCtrl_asked (s : State) {v : Word} (hask : (v.getLsbD 0 || v.getLsbD 1) = true)
    (hcode : fieldOf v 8 8 = 0xA5) :
    s.fuseCtrl v = if s.burnRefused (v.getLsbD 0) (v.getLsbD 1) then
        (s.clearsBurnError v).hwSet F.DRAFT_FUSE_CTRL_BURN_ERROR
      else (s.clearsBurnError v).beginsBurn { key := v.getLsbD 0, signedOnly := v.getLsbD 1 } := by
  have hfuse : s.fuseCtrl v = if !(v.getLsbD 0 || v.getLsbD 1) || fieldOf v 8 8 ≠ 0xA5 then s.clearsBurnError v
      else if (s.clearsBurnError v).burnRefused (v.getLsbD 0) (v.getLsbD 1) then
        (s.clearsBurnError v).hwSet F.DRAFT_FUSE_CTRL_BURN_ERROR
      else (s.clearsBurnError v).beginsBurn { key := v.getLsbD 0, signedOnly := v.getLsbD 1 } := rfl
  rw [hfuse, if_neg (by rw [hask, hcode]; decide), State.burnRefused_clearsBurnError]

/-- What a burn that begins leaves. -/
theorem State.beginsBurn_spec (s : State) (v : Word) (b : Burn) :
    ((s.clearsBurnError v).beginsBurn b).draft = { s.draft with burn := some b } ∧
      ((s.clearsBurnError v).beginsBurn b).bit F.DRAFT_FUSE_CTRL_BUSY = true ∧
      ((s.clearsBurnError v).beginsBurn b).board = s.board ∧
      s.SameRegsBut ((s.clearsBurnError v).beginsBurn b) [Reg.DRAFT_FUSE_CTRL] := by
  obtain ⟨hboard, hdraft⟩ := Prod.mk.inj (s.boardAndDraft_clearsBurnError v)
  refine ⟨?_, State.bit_setBit_same _ _ _ (by decide) rfl, hboard, ?_⟩
  · rw [← hdraft]
    rfl
  · have cleared := State.sameRegsBut_w1cClear s Reg.DRAFT_FUSE_CTRL (v &&& 0x20)
    exact State.SameRegsBut.setF (fun o ho => cleared o ho) F.DRAFT_FUSE_CTRL_BUSY _ List.mem_cons_self

/-- What a burn that is refused leaves. -/
theorem State.refusesBurn_spec (s : State) (v : Word) :
    ((s.clearsBurnError v).hwSet F.DRAFT_FUSE_CTRL_BURN_ERROR).draft = s.draft ∧
      ((s.clearsBurnError v).hwSet F.DRAFT_FUSE_CTRL_BURN_ERROR).board = s.board ∧
      ((s.clearsBurnError v).hwSet F.DRAFT_FUSE_CTRL_BURN_ERROR).bit F.DRAFT_FUSE_CTRL_BURN_ERROR = true := by
  obtain ⟨hboard, hdraft⟩ := Prod.mk.inj (s.boardAndDraft_clearsBurnError v)
  exact ⟨(State.hwSet_draft _ _).trans hdraft, (State.hwSet_board _ _).trans hboard,
    State.bit_hwSet_same _ rfl rfl (by decide)⟩

/-- A write of FUSE_CTRL whose burn begins. -/
theorem State.fuseCtrl_begins {s : State} {v : Word} {key so : Bool} (hkey : v.getLsbD 0 = key) (hso : v.getLsbD 1 = so)
    (hask : (key || so) = true) (hcode : fieldOf v 8 8 = 0xA5) (hr : s.burnRefused key so = false) :
    (s.fuseCtrl v).draft = { s.draft with burn := some { key := key, signedOnly := so } } ∧
      (s.fuseCtrl v).bit F.DRAFT_FUSE_CTRL_BUSY = true ∧ (s.fuseCtrl v).board = s.board ∧
      s.SameRegsBut (s.fuseCtrl v) [Reg.DRAFT_FUSE_CTRL] := by
  subst hkey hso
  rw [State.fuseCtrl_asked s hask hcode, hr, if_neg Bool.false_ne_true]
  exact State.beginsBurn_spec s v _

/-- A write of FUSE_CTRL whose burn is refused. -/
theorem State.fuseCtrl_refuses {s : State} {v : Word} (hask : (v.getLsbD 0 || v.getLsbD 1) = true)
    (hcode : fieldOf v 8 8 = 0xA5) (hr : s.cur ≠ .idle ∨ s.bit F.DRAFT_FUSE_CTRL_BUSY = true) :
    (s.fuseCtrl v).draft = s.draft ∧ (s.fuseCtrl v).board = s.board ∧
      (s.fuseCtrl v).bit F.DRAFT_FUSE_CTRL_BURN_ERROR = true := by
  have refused (key so : Bool) : s.burnRefused key so = true := by
    rcases hr with h | h <;> simp [State.burnRefused, h]
  rw [State.fuseCtrl_asked s hask hcode, refused, if_pos rfl]
  exact State.refusesBurn_spec s v

/-! ### The end of a burn (R61) -/

/-- Whether the key reads back as it was staged. -/
def State.keyReadsBack (s : State) (b : Burn) (read : Nat) : Bool := !b.key || read == s.draft.fuseStage.toNat

/-- The fuses as a burn leaves them, for what reads back. -/
def State.burntFuses (s : State) (b : Burn) (read : Nat) (so : Bool) : Fuses :=
  let f := s.board.fuses
  let keyHash := if b.key then f.keyHash ||| BitVec.ofNat 256 read else f.keyHash
  { f with keyHash := keyHash, signedOnly := f.signedOnly || (b.signedOnly && s.keyReadsBack b read && keyHash != 0 && so) }

/-- The registers that show the fuses, once a burn has ended. -/
def State.endsBurn (s : State) (f : Fuses) : State :=
  let s : State := { s with board := { s.board with fuses := f }, draft := { s.draft with burn := none } }
  let s := s.setRegs ((List.range 8).map (fun i => (Reg.DRAFT_KEY_HASH i, (f.keyHash >>> (32 * i)).truncate 32)))
  (((s.setBit F.DRAFT_FUSE_CTRL_KEY_PROGRAMMED (f.keyHash != 0)).setBit F.DRAFT_FUSE_CTRL_SIGNED_ONLY
    f.signedOnly).setBit F.DRAFT_STATUS_SIGNED_ONLY f.signedOnly).setBit F.DRAFT_FUSE_CTRL_BUSY false

/-- A burn that reads back otherwise than it was asked for. -/
def State.burnFails (s : State) (b : Burn) (read : Nat) (so : Bool) : Bool :=
  !s.keyReadsBack b read || (b.signedOnly && !(s.burntFuses b read so).signedOnly)

/-- The end of a burn. -/
def State.burnSettles (s : State) (b : Burn) (read : Nat) (so : Bool) : State :=
  if s.burnFails b read so then (s.endsBurn (s.burntFuses b read so)).hwSet F.DRAFT_FUSE_CTRL_BURN_ERROR
  else s.endsBurn (s.burntFuses b read so)

theorem exec_burnDone {s : State} {b : Burn} (h : s.draft.burn = some b) (keyRead : List Word) (so : Bool) :
    exec (.burnDone keyRead so) s = .next (s.burnSettles b (wordsValue keyRead) so) := by
  have hexec : exec (.burnDone keyRead so) s = execBurnDone keyRead so s := rfl
  rw [hexec, execBurnDone, h]
  rfl

theorem State.endsBurn_spec (s : State) (f : Fuses) :
    (s.endsBurn f).draft = { s.draft with burn := none } ∧ (s.endsBurn f).board.fuses = f ∧
      (s.endsBurn f).bit F.DRAFT_FUSE_CTRL_BUSY = false ∧
      (s.endsBurn f).bit F.DRAFT_FUSE_CTRL_KEY_PROGRAMMED = (f.keyHash != 0) ∧
      (s.endsBurn f).bit F.DRAFT_STATUS_SIGNED_ONLY = f.signedOnly := by
  unfold State.endsBurn
  refine ⟨by simp, by simp, State.bit_setBit_same _ _ _ (by decide) rfl, ?_, ?_⟩
  · rw [State.bit_setBit_other _ _ _ _ (by decide) (by decide), State.bit_setBit_other _ _ _ _ (by decide) (by decide),
      State.bit_setBit_other _ _ _ _ (by decide) (by decide)]
    exact State.bit_setBit_same _ _ _ (by decide) rfl
  · rw [State.bit_setBit_other _ _ _ _ (by decide) (by decide)]
    exact State.bit_setBit_same _ _ _ (by decide) rfl

/-- BURN_ERROR leaves what a burn's end shows. -/
theorem State.burnSettles_spec (s : State) (b : Burn) (read : Nat) (so : Bool) :
    (s.burnSettles b read so).draft = { s.draft with burn := none } ∧
      (s.burnSettles b read so).board.fuses = s.burntFuses b read so ∧
      (s.burnSettles b read so).bit F.DRAFT_FUSE_CTRL_BUSY = false ∧
      (s.burnSettles b read so).bit F.DRAFT_FUSE_CTRL_KEY_PROGRAMMED = ((s.burntFuses b read so).keyHash != 0) ∧
      (s.burnSettles b read so).bit F.DRAFT_STATUS_SIGNED_ONLY = (s.burntFuses b read so).signedOnly := by
  have ends := s.endsBurn_spec (s.burntFuses b read so)
  unfold State.burnSettles
  split
  · have hv : flagVector F.DRAFT_FUSE_CTRL_BURN_ERROR.off = none := rfl
    rw [State.hwSet_draft, State.hwSet_board, State.bit_hwSet_other _ hv (by decide) (by decide),
      State.bit_hwSet_other _ hv (by decide) (by decide), State.bit_hwSet_other _ hv (by decide) (by decide)]
    exact ends
  · exact ends

theorem State.burnSettles_error {s : State} {b : Burn} {read : Nat} {so : Bool} (h : s.burnFails b read so = true) :
    (s.burnSettles b read so).bit F.DRAFT_FUSE_CTRL_BURN_ERROR = true := by
  rw [State.burnSettles, if_pos h]
  exact State.bit_hwSet_same _ rfl rfl (by decide)

/-- Settles O16: a case for each write and for the end of a check and of a burn, from the lemma about it. -/
theorem stagingAndFuses : Obligations.StagingAndFuses := by
  unfold Obligations.StagingAndFuses
  refine ⟨?room, ?full, ?addr, ?check, ?checkDone, ?compat, ?compatBusy, ?burnKey, ?burnSignedOnly, ?burnDone, ?refused⟩
  case room =>
    intro s v h ho hc ha
    refine ⟨_, exec_stageData h v, ?_⟩
    rw [State.stageData_room ho hc v ha]
    refine ⟨?_, fun i => sparseGet_setFrom _ s.draft.staging _ _ i.isLt, ?_⟩
    · rw [State.reg_setReg_same]
      apply BitVec.eq_of_toNat_eq
      simp
    · have staged : s.SameRegsBut (s.stagesWord (s.reg Reg.DRAFT_STAGE_ADDR).toNat v) [Reg.DRAFT_STAGE_ADDR] :=
        fun _ _ => rfl
      exact staged.trans (State.sameRegsBut_setReg _ _ _)
  case full =>
    intro s v h ho hc ha
    refine ⟨_, exec_stageData h v, ?_⟩
    rw [State.stageData_full ho hc v ha]
    obtain ⟨set, same, -⟩ := State.hwSet_fltHost_spec s (f := F.FLT_HOST_STAGE_OVERRUN) rfl rfl (by decide)
    exact ⟨set, State.hwSet_draft _ _, same _ (by decide)⟩
  case addr => exact fun s v h ho => ⟨_, exec_stageAddr h ho v, rfl⟩
  case check =>
    intro s h ho hc
    refine ⟨_, exec_check h ho hc, rfl, State.bit_setBit_same _ _ _ (by decide) rfl, ?_, ?_⟩
    · rw [State.getF_congr_reg (State.sameRegsBut_beginsCheck _ _ (by decide)), State.setBit,
        State.getF_setF_same _ _ _ (by decide), State.getF_oneBit s rfl]
      cases s.bit F.DRAFT_CTRL_SOURCE <;> rfl
    · exact State.cur_congr ((State.sameRegsBut_beginsCheck _ _ (by decide)).trans (State.reg_setF_other _ _ _ (by decide)))
  case checkDone => exact fun s hc => ⟨_, exec_checkDone hc, State.postsCheck_spec s _ _⟩
  case compat => exact fun s v h hc => ⟨_, exec_compatWrite h v, State.compatWrite_idle hc v⟩
  case compatBusy =>
    intro s v h hc hr hv
    refine ⟨_, exec_compatWrite h v, ?_⟩
    rw [State.compatWrite_busy hc hr hv]
    obtain ⟨set, same, -⟩ := State.hwSet_fltHost_spec s (f := F.FLT_HOST_COMPAT_BUSY) rfl rfl (by decide)
    exact ⟨set, same⟩
  case burnKey =>
    intro s v h hc hcode hb hk
    have hcode' : fieldOf (v ||| 1) 8 8 = 0xA5 := (fieldOf_or_low v 8 (by decide)).trans hcode
    refine ⟨_, exec_burnKey h v, State.fuseCtrl_begins (by simp) (by simp) rfl hcode' ?_⟩
    simp [State.burnRefused, hc, hb, hk]
  case burnSignedOnly =>
    intro s v h hc hcode hv hb hk
    have hcode' : fieldOf (v ||| 2) 8 8 = 0xA5 := (fieldOf_or_low v 8 (by decide)).trans hcode
    refine ⟨_, exec_burnSignedOnly h v, State.fuseCtrl_begins (by rw [BitVec.getLsbD_or, hv]; rfl) (by simp) rfl hcode' ?_⟩
    simp [State.burnRefused, hc, hb, hk]
  case burnDone =>
    intro s b keyRead so hb
    obtain ⟨hdraft, hfuses, hbusy, hkey, hso⟩ := s.burnSettles_spec b (wordsValue keyRead) so
    refine ⟨_, exec_burnDone hb keyRead so, hdraft, ?_⟩
    rw [hfuses]
    refine ⟨rfl, rfl, fun hk hr => ?_, fun hs hf => ?_, hbusy, hkey, hso⟩
    · exact State.burnSettles_error (by simp [State.burnFails, State.keyReadsBack, hk, hr])
    · exact State.burnSettles_error (by simp [State.burnFails, hs, hf])
  case refused =>
    intro s v h hcode hr
    have hcode' {m : Nat} (hm : m < 2 ^ 8) : fieldOf (v ||| BitVec.ofNat 32 m) 8 8 = 0xA5 :=
      (fieldOf_or_low v 8 hm).trans hcode
    exact ⟨⟨_, exec_burnKey h v, State.fuseCtrl_refuses (by simp) (hcode' (by decide)) hr⟩,
      ⟨_, exec_burnSignedOnly h v, State.fuseCtrl_refuses (by simp) (hcode' (by decide)) hr⟩⟩

end Sys2Proof.Machine
end

section
/-! PROOF. A deferred hand-over of a lane whose context is released (spec/08_decimation_lanes.md R220, R222). -/

namespace Sys2Proof.Machine

/-- A lane whose context is released in the present clock takes no deferred set: the release discards it (R222). -/
theorem State.deferredDue_of_leaves {s : State} {l : Nat} (h : s.laneLeaves l = true) (back : Nat) :
    s.deferredDue l back = s := by
  unfold State.deferredDue
  split
  · rw [h, Bool.or_true, if_pos rfl]
  · rfl

theorem exec_deferredHandover (s : State) (l : Fin 64) : exec (.deferredHandover l) s = .next (s.deferredDue l 19) := rfl

/-- A live context bound to lane 0 that has no segment open, and whose release falls due in the first clock. -/
def leavingCtx : LiveCtx :=
  { lane := 0, armed := false, release := some 0, rate := 0, w16 := 0, strm := 0, outRate := 0, holdoff := false, h0 := none,
    h0At := 0, p0 := 0, seen := [], segCseq := 0, segHanded := none }

/-- Lane 0 with a set deferred, in the clock in which the release of its context falls due. -/
def leavingLane : State :=
  { State.reset with
    lanes := [(0, { LaneSt.init with ctx := some 0, deferred := some LaneSet.zero })]
    seg := { State.reset.seg with live := [(0, some leavingCtx)] } }

/-- Refutes O38: where the release of the lane's context falls due in the same clock, the set that waits is discarded and not put
into effect (R222), and the statement does not exclude that release. In the counterexample the deferred set stays
deferred until the release of the clock drops it. -/
theorem not_laneSets : ¬ Obligations.LaneSets := by
  unfold Obligations.LaneSets
  rintro ⟨-, -, -, -, -, -, deferredTakes, -⟩
  have leaves : leavingLane.laneLeaves 0 = true := by decide +kernel
  obtain ⟨t, ht, -, hgone, -⟩ := deferredTakes leavingLane 0 LaneSet.zero (by decide +kernel) (by decide +kernel)
  rw [exec_deferredHandover, Fin.val_zero, State.deferredDue_of_leaves leaves] at ht
  obtain rfl := Host.Outcome.next.inj ht
  exact absurd hgone (by decide +kernel)

end Sys2Proof.Machine
end

section
/-! PROOF. The coefficient window and the swap of banks (spec/08_decimation_lanes.md R221 to R224). -/

namespace Sys2Proof.Machine

open Sys2Proof.Laws

/-! ### Lanes as they are set -/

theorem State.lane_setLane (s : State) (l m : Nat) (x : LaneSt) :
    (s.setLane l x).lane m = if m = l then x else s.lane m := sparseGet_set _ _ _ _ _

theorem State.lane_setLane_same (s : State) (l : Nat) (x : LaneSt) : (s.setLane l x).lane l = x := sparseGet_set_same _ _ _ _

theorem State.lane_setLane_other (s : State) {l m : Nat} (x : LaneSt) (h : m ≠ l) : (s.setLane l x).lane m = s.lane m :=
  sparseGet_set_other _ _ _ h

theorem State.lane_congr {s t : State} (h : s.lanes = t.lanes) (l : Nat) : s.lane l = t.lane l := by
  rw [State.lane, State.lane, h]

/-- A write that meets its register leaves the lanes as its effect does. -/
theorem State.hostWrite_taken_lanes {s : State} {off : Nat} (h : s.takesWrite off = true) (v : Word) (k : State → State) :
    (s.hostWrite off v k).lanes = (k s).lanes := by
  rw [State.hostWrite_taken h]
  split <;> rfl

/-- No register below those of the DMA raises a vector (R324). -/
theorem flagVector_of_lt {off : Nat} (h : off < 0x120000) : flagVector off = none := by
  simp only [flagVector, Reg.FLT_CLASS, Reg.FLT_HOST, Reg.FLT_DRAFT, Reg.FLT_BBX, Reg.DMA_EVENTS, Reg.DISP_EVENTS,
    Reg.PAIR_EVENTS]
  rw [if_neg (by omega), if_neg (by omega), if_neg (by omega), if_neg (by omega)]

theorem flagVector_laneEvents (l : Fin 64) : flagVector (Reg.LANE_EVENTS l) = none :=
  flagVector_of_lt (show 0xc0008 + 2048 * l.val < 0x120000 by omega)

/-! ### The coefficient that a word of the window holds (R224) -/

/-- The index of word i of the window in its bank. -/
def State.coefIndex (s : State) (l i : Nat) : Nat := 256 * s.getF (F.LANE_COEF_PAGE_PAGE l) + i

/-- The place of word i of the window among the lane's coefficients. -/
def State.coefKey (s : State) (l i : Nat) : Nat :=
  2 ^ 14 * s.getF (F.LANE_COEF_PAGE_STAGE l) + 2 ^ 13 * s.getF (F.LANE_COEF_PAGE_BANK l) + s.coefIndex l i

/-- Whether word i of the window lies in the bank: the FIR has 128 coefficients. -/
def State.coefInBank (s : State) (l i : Nat) : Prop := s.getF (F.LANE_COEF_PAGE_STAGE l) = 0 → s.coefIndex l i < 128

/-- 32 pages of 256 words are a resampler's bank. -/
theorem State.coefIndex_lt (s : State) (l : Nat) (i : Fin 256) : s.coefIndex l i < 8192 := by
  have hp : s.getF (F.LANE_COEF_PAGE_PAGE l) < 32 := s.getF_lt (F.LANE_COEF_PAGE_PAGE l)
  unfold State.coefIndex
  omega

theorem State.coefInBank_iff (s : State) (l : Nat) (i : Fin 256) :
    s.coefInBank l i ↔ ¬ ((s.getF (F.LANE_COEF_PAGE_STAGE l) = 0 ∧ 128 ≤ s.coefIndex l i) ∨ 8192 ≤ s.coefIndex l i) := by
  have := s.coefIndex_lt l i
  unfold State.coefInBank
  omega

theorem State.coefKey_inj {s : State} {l i j : Nat} (h : s.coefKey l i = s.coefKey l j) : i = j := by
  unfold State.coefKey State.coefIndex at h
  omega

theorem State.coefRead_inBank {s : State} {l : Nat} {i : Fin 256}
    (hc : (s.lane l).hasCoefs (s.getF (F.LANE_COEF_PAGE_STAGE l)) = true) (hi : s.coefInBank l i) :
    s.coefRead l i = (sparseGet (fun _ => 0) (s.lane l).coefs (s.coefKey l i)).signExtend 32 := by
  rw [State.coefInBank_iff] at hi
  exact if_neg (not_or.mpr ⟨by rw [hc]; decide, hi⟩)

theorem State.coefRead_absent {s : State} {l : Nat} (i : Nat)
    (hc : (s.lane l).hasCoefs (s.getF (F.LANE_COEF_PAGE_STAGE l)) = false) : s.coefRead l i = 0 :=
  if_pos (Or.inl (by rw [hc]; rfl))

theorem State.coefRead_beyond {s : State} {l : Nat} {i : Fin 256} (hi : ¬ s.coefInBank l i) : s.coefRead l i = 0 := by
  rw [State.coefInBank_iff, not_not] at hi
  exact if_pos (Or.inr hi)

/-- What the window reads comes from COEF_PAGE and the lane. -/
theorem State.coefRead_congr {s t : State} {l : Nat} (hr : t.reg (Reg.LANE_COEF_PAGE l) = s.reg (Reg.LANE_COEF_PAGE l))
    (hl : t.lane l = s.lane l) (i : Nat) : t.coefRead l i = s.coefRead l i := by
  have hstage : t.getF (F.LANE_COEF_PAGE_STAGE l) = s.getF (F.LANE_COEF_PAGE_STAGE l) := State.getF_congr_reg hr
  have hpage : t.getF (F.LANE_COEF_PAGE_PAGE l) = s.getF (F.LANE_COEF_PAGE_PAGE l) := State.getF_congr_reg hr
  have hbank : t.getF (F.LANE_COEF_PAGE_BANK l) = s.getF (F.LANE_COEF_PAGE_BANK l) := State.getF_congr_reg hr
  unfold State.coefRead
  rw [hstage, hpage, hbank, hl]

/-! ### Storing a coefficient (R222, R224) -/

/-- Whether bank b of a stage is in effect on a live lane. -/
def LaneSt.bankInUse (x : LaneSt) (stage : Nat) (b : Bool) : Bool :=
  x.ctx.isSome && (if stage = 0 then x.firBank else x.rsBank) == b

theorem LaneSt.bankInUse_eq_true {x : LaneSt} {stage : Nat} {b : Bool} :
    x.bankInUse stage b = true ↔ x.ctx ≠ none ∧ (if stage = 0 then x.firBank else x.rsBank) = b := by
  simp [LaneSt.bankInUse, Option.isSome_iff_ne_none]

theorem LaneSt.bankInUse_eq_false {x : LaneSt} {stage : Nat} {b : Bool} :
    x.bankInUse stage b = false ↔ x.ctx = none ∨ (if stage = 0 then x.firBank else x.rsBank) ≠ b := by
  rw [← Bool.not_eq_true, LaneSt.bankInUse_eq_true, not_and_or, not_not]

/-- A lane that stores a coefficient, and what it held. -/
def LaneSt.storesCoef (x : LaneSt) (key : Nat) (v : BitVec 18) : LaneSt :=
  { x with coefs := sparseSet (fun _ => 0) x.coefs key v, wrote := (key, sparseGet (fun _ => 0) x.coefs key) :: x.wrote }

def State.storeCoef (s : State) (l key : Nat) (v : BitVec 18) : State := s.setLane l ((s.lane l).storesCoef key v)

/-- A broadcast meets lane m: it stores the coefficient when its PROFILE is the one named and the bank is not in use there. -/
def State.spreadCoef (prof stage : Nat) (b : Bool) (key : Nat) (v : BitVec 18) (s : State) (m : Nat) : State :=
  if s.getF (F.LANE_BIND_PROFILE m) = prof ∧ !(s.lane m).bankInUse stage b then s.storeCoef m key v else s

/-- A broadcast to the first n lanes. -/
theorem State.spreadCoef_lanes (prof stage : Nat) (b : Bool) (key : Nat) (v : BitVec 18) (s : State) (n : Nat) :
    ((List.range n).foldl (State.spreadCoef prof stage b key v) s).regs = s.regs ∧
      ∀ m, ((List.range n).foldl (State.spreadCoef prof stage b key v) s).lane m =
        if m < n ∧ s.getF (F.LANE_BIND_PROFILE m) = prof ∧ (s.lane m).bankInUse stage b = false then
          (s.lane m).storesCoef key v else s.lane m := by
  induction n with
  | zero => exact ⟨rfl, fun m => (if_neg (fun h => Nat.not_lt_zero m h.1)).symm⟩
  | succ n ih =>
    rw [List.range_succ, List.foldl_append, List.foldl_cons, List.foldl_nil]
    generalize (List.range n).foldl (State.spreadCoef prof stage b key v) s = u at ih
    obtain ⟨hregs, hlanes⟩ := ih
    have hn : u.lane n = s.lane n := (hlanes n).trans (if_neg (fun h => Nat.lt_irrefl n h.1))
    unfold State.spreadCoef
    rw [State.getF_congr hregs, hn]
    split
    next h =>
      obtain ⟨hprof, hfree⟩ := h
      refine ⟨hregs, fun m => ?_⟩
      rw [State.storeCoef, State.lane_setLane, hn]
      by_cases hm : m = n
      · subst hm
        rw [if_pos rfl, if_pos ⟨Nat.lt_succ_self m, hprof, by simpa using hfree⟩]
      · rw [if_neg hm, hlanes m]
        simp only [Nat.lt_succ_iff_lt_or_eq, hm, or_false]
    next h =>
      refine ⟨hregs, fun m => ?_⟩
      rw [hlanes m]
      by_cases hm : m = n
      · subst hm
        rw [if_neg (by omega), if_neg (fun g => h ⟨g.2.1, by simp [g.2.2]⟩)]
      · simp only [Nat.lt_succ_iff_lt_or_eq, hm, or_false]

/-- The mark of a write into a bank of the addressed lane that is in use. -/
def State.marksInUse (s : State) (l stage : Nat) : State :=
  if (s.lane l).bankInUse stage (s.bit (F.LANE_COEF_PAGE_BANK l)) then s.hwSet (F.LANE_EVENTS_COEF_IN_USE l) else s

theorem State.marksInUse_spec (s : State) (l : Fin 64) (stage : Nat) :
    (s.marksInUse l stage).lanes = s.lanes ∧ s.SameRegsBut (s.marksInUse l stage) [Reg.LANE_EVENTS l] ∧
      ((s.lane l).bankInUse stage (s.bit (F.LANE_COEF_PAGE_BANK l)) = true →
        (s.marksInUse l stage).bit (F.LANE_EVENTS_COEF_IN_USE l) = true) ∧
      ((s.lane l).bankInUse stage (s.bit (F.LANE_COEF_PAGE_BANK l)) = false →
        (s.marksInUse l stage).bit (F.LANE_EVENTS_COEF_IN_USE l) = s.bit (F.LANE_EVENTS_COEF_IN_USE l)) := by
  have hv := flagVector_laneEvents l
  unfold State.marksInUse
  split
  next h =>
    exact ⟨State.hwSet_lanes _ _, State.sameRegsBut_hwSet s hv,
      fun _ => State.bit_hwSet_same s hv rfl (show 3 < 32 by decide), fun hf => by rw [h] at hf; cases hf⟩
  next h => exact ⟨rfl, State.SameRegsBut.refl s _, fun ht => absurd ht h, fun _ => rfl⟩

theorem laneBind_notMem_events (l m : Nat) : Reg.LANE_BIND m ∉ [Reg.LANE_EVENTS l] := by
  simp only [Reg.LANE_BIND, Reg.LANE_EVENTS, List.mem_singleton]
  omega

/-- The ways through a write into the window. -/
theorem State.coefWrite_eq (s : State) (l i : Nat) (v : Word) :
    s.coefWrite l i v =
      if !(s.lane l).hasCoefs (s.getF (F.LANE_COEF_PAGE_STAGE l)) then s.hwSet F.FLT_HOST_STRUCT_ABSENT
      else if (s.getF (F.LANE_COEF_PAGE_STAGE l) = 0 ∧ 128 ≤ s.coefIndex l i) ∨ 8192 ≤ s.coefIndex l i then s
      else if s.bit (F.LANE_COEF_PAGE_BCAST l) then
        (List.range 64).foldl (State.spreadCoef (s.getF (F.LANE_BIND_PROFILE l)) (s.getF (F.LANE_COEF_PAGE_STAGE l))
          (s.bit (F.LANE_COEF_PAGE_BANK l)) (s.coefKey l i) (v.truncate 18))
          (s.marksInUse l (s.getF (F.LANE_COEF_PAGE_STAGE l)))
      else if (s.lane l).bankInUse (s.getF (F.LANE_COEF_PAGE_STAGE l)) (s.bit (F.LANE_COEF_PAGE_BANK l)) then
        s.hwSet (F.LANE_EVENTS_COEF_IN_USE l)
      else s.storeCoef l (s.coefKey l i) (v.truncate 18) := by
  have hb : s.getF (F.LANE_COEF_PAGE_BANK l) = b2n (s.bit (F.LANE_COEF_PAGE_BANK l)) := by
    rw [State.getF_oneBit s rfl]
    cases s.bit (F.LANE_COEF_PAGE_BANK l) <;> rfl
  rw [State.coefKey, hb]
  rfl

theorem exec_coefWindowWrite {s : State} {l : Fin 64} {i : Fin 256}
    (h : s.takesWrite (laneBase l + 0x400 + 4 * i.val) = true) (v : Word) :
    ∃ t, exec (.coefWindowWrite l i v) s = .next t ∧ t.regs = (s.coefWrite l i v).regs ∧
      t.lanes = (s.coefWrite l i v).lanes :=
  ⟨_, rfl, State.hostWrite_taken_regs h v _, State.hostWrite_taken_lanes h v _⟩

section Window

variable {s : State} {l : Fin 64} {i : Fin 256} (v : Word)

theorem State.coefWrite_absent (hc : (s.lane l).hasCoefs (s.getF (F.LANE_COEF_PAGE_STAGE l)) = false) :
    s.coefWrite l i v = s.hwSet F.FLT_HOST_STRUCT_ABSENT := by
  rw [State.coefWrite_eq, hc]
  rfl

variable (hc : (s.lane l).hasCoefs (s.getF (F.LANE_COEF_PAGE_STAGE l)) = true)
include hc

theorem State.coefWrite_beyond (hi : ¬ s.coefInBank l i) : s.coefWrite l i v = s := by
  rw [State.coefInBank_iff, not_not] at hi
  rw [State.coefWrite_eq, hc, if_neg (by simp), if_pos hi]

variable (hi : s.coefInBank l i)
include hi

/-- A broadcast: the registers show whether the addressed lane uses the bank, and each lane of the PROFILE that does not use it
stores the coefficient. -/
theorem State.coefWrite_broadcast (hb : s.bit (F.LANE_COEF_PAGE_BCAST l) = true) :
    (s.coefWrite l i v).regs = (s.marksInUse l (s.getF (F.LANE_COEF_PAGE_STAGE l))).regs ∧
      ∀ m : Fin 64, (s.coefWrite l i v).lane m =
        if s.getF (F.LANE_BIND_PROFILE m) = s.getF (F.LANE_BIND_PROFILE l) ∧
            (s.lane m).bankInUse (s.getF (F.LANE_COEF_PAGE_STAGE l)) (s.bit (F.LANE_COEF_PAGE_BANK l)) = false then
          (s.lane m).storesCoef (s.coefKey l i) (v.truncate 18) else s.lane m := by
  rw [State.coefWrite_eq, hc, if_neg (by simp), if_neg ((s.coefInBank_iff l i).mp hi), if_pos hb]
  obtain ⟨hlane, hsame, -, -⟩ := s.marksInUse_spec l (s.getF (F.LANE_COEF_PAGE_STAGE l))
  obtain ⟨fregs, flanes⟩ := State.spreadCoef_lanes (s.getF (F.LANE_BIND_PROFILE l)) (s.getF (F.LANE_COEF_PAGE_STAGE l))
    (s.bit (F.LANE_COEF_PAGE_BANK l)) (s.coefKey l i) (v.truncate 18)
    (s.marksInUse l (s.getF (F.LANE_COEF_PAGE_STAGE l))) 64
  refine ⟨fregs, fun m => ?_⟩
  rw [flanes m, State.lane_congr hlane, State.getF_congr_reg (hsame _ (laneBind_notMem_events l m))]
  simp only [m.isLt, true_and]

variable (hb : s.bit (F.LANE_COEF_PAGE_BCAST l) = false)
include hb

theorem State.coefWrite_inUse
    (hu : (s.lane l).bankInUse (s.getF (F.LANE_COEF_PAGE_STAGE l)) (s.bit (F.LANE_COEF_PAGE_BANK l)) = true) :
    s.coefWrite l i v = s.hwSet (F.LANE_EVENTS_COEF_IN_USE l) := by
  rw [State.coefWrite_eq, hc, if_neg (by simp), if_neg ((s.coefInBank_iff l i).mp hi), hb, if_neg (by simp), if_pos hu]

theorem State.coefWrite_stored
    (hu : (s.lane l).bankInUse (s.getF (F.LANE_COEF_PAGE_STAGE l)) (s.bit (F.LANE_COEF_PAGE_BANK l)) = false) :
    s.coefWrite l i v = s.storeCoef l (s.coefKey l i) (v.truncate 18) := by
  rw [State.coefWrite_eq, hc, if_neg (by simp), if_neg ((s.coefInBank_iff l i).mp hi), hb, if_neg (by simp), hu,
    if_neg (by simp)]

end Window

/-- Where the lane stores a coefficient and COEF_PAGE stays, its word reads back what was stored and no other word changes. -/
theorem State.coefRead_stored {s t : State} {l : Nat} {i : Fin 256} {v : BitVec 18}
    (hc : (s.lane l).hasCoefs (s.getF (F.LANE_COEF_PAGE_STAGE l)) = true) (hi : s.coefInBank l i)
    (hr : t.regs = s.regs) (hl : t.lane l = (s.lane l).storesCoef (s.coefKey l i) v) :
    t.coefRead l i = v.signExtend 32 ∧ ∀ j : Fin 256, j ≠ i → t.coefRead l j = s.coefRead l j := by
  have hstage : t.getF (F.LANE_COEF_PAGE_STAGE l) = s.getF (F.LANE_COEF_PAGE_STAGE l) := State.getF_congr hr _
  have index (j : Nat) : t.coefIndex l j = s.coefIndex l j := by
    rw [State.coefIndex, State.getF_congr hr]
    rfl
  have key (j : Nat) : t.coefKey l j = s.coefKey l j := by
    rw [State.coefKey, hstage, index, State.getF_congr hr]
    rfl
  have inBank (j : Nat) : t.coefInBank l j ↔ s.coefInBank l j := by rw [State.coefInBank, hstage, index, State.coefInBank]
  have hct : (t.lane l).hasCoefs (t.getF (F.LANE_COEF_PAGE_STAGE l)) = true := by
    rw [hstage, hl]
    exact hc
  refine ⟨?_, fun j hj => ?_⟩
  · rw [State.coefRead_inBank hct ((inBank i).mpr hi), key, hl]
    exact congrArg _ (sparseGet_set_same _ _ _ _)
  · by_cases hjb : s.coefInBank l j
    · rw [State.coefRead_inBank hct ((inBank j).mpr hjb), State.coefRead_inBank hc hjb, key, hl]
      exact congrArg _ (sparseGet_set_other _ _ _ fun h => hj (Fin.ext (State.coefKey_inj h)))
    · rw [State.coefRead_beyond hjb, State.coefRead_beyond (fun h => hjb ((inBank j).mp h))]

/-! ### COEF_SWAP (R92, R221, R223) -/

theorem exec_coefSwap {s : State} {c : Fin 1024} {stage : Bool} {sel : Fin 4} {x : LiveCtx} (hi : s.loomIssues = true)
    (hl : s.liveOf c = some x) (hs : sel ≠ 3) (hk : (s.lane x.lane).kinds.contains (if stage then 4 else 3) = true) :
    exec (.coefSwap c stage sel) s = .next (s.coefSwap x.lane (b2n stage) sel) := by
  have hexec : exec (.coefSwap c stage sel) s = s.issue (fun s => s.coefAction c (b2n stage) sel) := rfl
  have hk' : (s.lane x.lane).kinds.contains (if b2n stage = 0 then 3 else 4) = true := by
    rw [← hk]
    cases stage <;> rfl
  have hs' : sel.val ≠ 3 := fun h => hs (Fin.ext h)
  rw [hexec, State.issue, if_pos hi, State.coefAction, hl]
  simp only [hk', hs', decide_false, Bool.not_true, Bool.or_self, Bool.false_eq_true, if_false]

/-- The swaps of the clock after a COEF_SWAP: the later one of a stage counts, and one that selects the bank in effect is none. -/
theorem State.coefSwap_lane (s : State) (l : Nat) (stage : Bool) {sel : Fin 4} (hs : sel ≠ 3) :
    (s.coefSwap l (b2n stage) sel).lane l = { s.lane l with
      swaps := (s.lane l).swaps.filter (fun p => p.1 != (if stage then 1 else 0)) ++
        (if sel ≠ 0 ∧ (if stage then (s.lane l).rsBank else (s.lane l).firBank) = decide (sel = 2) then []
          else [(if stage then 1 else 0, if sel = 1 then false else if sel = 2 then true else
            if stage then !(s.lane l).rsBank else !(s.lane l).firBank)]) } := by
  have hsel : sel = 0 ∨ sel = 1 ∨ sel = 2 := by omega
  rw [State.coefSwap, State.lane_setLane_same]
  generalize s.lane l = x
  have append_ite (c : Prop) [Decidable c] (l k : List (Nat × Bool)) : (if c then l else l ++ k) = l ++ if c then [] else k := by
    split <;> simp
  rcases hsel with rfl | rfl | rfl <;> cases stage <;> simp [b2n, append_ite]

/-- No coefficient was written in the clock: nothing is undone (R222). -/
theorem State.undoCoefs_of_none {s : State} {l : Nat} (h : (s.lane l).wrote = []) (stage : Nat) (b : Bool) :
    s.undoCoefs l stage b = s := by
  rw [State.undoCoefs, h]
  rfl

theorem State.tsc_setLane (s : State) (l : Nat) (x : LaneSt) : (s.setLane l x).tsc = s.tsc := rfl

theorem State.laneChanged_lanes (s : State) (c : Nat) : (s.laneChanged c).lanes = s.lanes := rfl

theorem State.showLane_lanes (s : State) (l : Nat) : (s.showLane l).lanes = s.lanes := rfl

theorem State.markBoundary_lane (s : State) (l : Nat) :
    ∃ n, (s.markBoundary l 19).lane l = { s.lane l with mark := some (s.tsc - 19, n) } :=
  ⟨_, State.lane_setLane_same _ _ _⟩

/-- The lane after the FIR's bank has come into effect. -/
theorem State.takeBank_fir_lane {s : State} {l : Nat} (h : (s.lane l).wrote = []) (new : Bool) :
    ∃ eras n, (s.takeBank l 0 new).lane l =
      { s.lane l with firBank := new, eras := eras, mark := some (s.tsc - 19, n) } := by
  rw [State.takeBank, State.undoCoefs_of_none h]
  dsimp only
  rw [if_pos rfl, State.lane_congr (State.showLane_lanes _ _)]
  obtain ⟨n, hn⟩ := State.markBoundary_lane (s.setLane l { s.lane l with
    firBank := new, eras := ({ s.lane l with firBank := new } : LaneSt).eraFrom (s.wordStart 19) :: (s.lane l).eras }) l
  rw [State.lane_setLane_same] at hn
  exact ⟨_, n, hn⟩

theorem State.swapsSettle_one {s : State} {l c stage : Nat} {new : Bool} (hc : (s.lane l).ctx = some c)
    (hs : (s.lane l).swaps = [(stage, new)]) :
    s.swapsSettle l = ((s.setLane l { s.lane l with swaps := [] }).takeBank l stage new).laneChanged c := by
  unfold State.swapsSettle
  dsimp only
  split
  next h => rw [hs] at h; cases h
  next h _ => rw [hc] at h; cases h
  next h _ =>
    obtain rfl := Option.some.inj (hc.symm.trans h)
    rw [hs]
    rfl

/-- The lane after the clock's COEF_SWAP of its FIR. -/
theorem State.swapsSettle_fir_lane {s : State} {l c : Nat} {new : Bool} (hc : (s.lane l).ctx = some c)
    (hs : (s.lane l).swaps = [(0, new)]) (hw : (s.lane l).wrote = []) :
    ∃ eras n, (s.swapsSettle l).lane l =
      { s.lane l with swaps := [], firBank := new, eras := eras, mark := some (s.tsc - 19, n) } := by
  obtain ⟨eras, n, hlane⟩ := State.takeBank_fir_lane (s := s.setLane l { s.lane l with swaps := [] }) (l := l)
    (by rw [State.lane_setLane_same]; exact hw) new
  rw [State.lane_setLane_same, State.tsc_setLane] at hlane
  exact ⟨eras, n, by rw [State.swapsSettle_one hc hs, State.lane_congr (State.laneChanged_lanes _ _), hlane]⟩

/-- No register below those of the DMA is FLT.HOST or holds pending bits. -/
theorem notMem_fltHost_pba_of_lt {o : Nat} (h : o < 0x120000) : o ∉ Reg.FLT_HOST :: pbaRegs := by
  simp only [pbaRegs, Reg.FLT_HOST, List.mem_cons, List.not_mem_nil, or_false, not_or]
  omega

/-- Settles O39: a case for each way through a write into the window, and for each of the two clocks of a COEF_SWAP. -/
theorem coefficientBanks : Obligations.CoefficientBanks := by
  unfold Obligations.CoefficientBanks
  refine ⟨?absent, ?stored, ?beyond, ?broadcast, ?inUse, ?swap, ?settle⟩
  case absent =>
    intro s l i v h hc
    obtain ⟨t, ht, hregs, hlanes⟩ := exec_coefWindowWrite h v
    rw [State.coefWrite_absent v hc] at hregs hlanes
    obtain ⟨set, same, -⟩ := State.hwSet_fltHost_spec s (f := F.FLT_HOST_STRUCT_ABSENT) rfl rfl (by decide)
    have hlane : t.lanes = s.lanes := hlanes.trans (State.hwSet_lanes _ _)
    have hsame : s.SameRegsBut t (Reg.FLT_HOST :: pbaRegs) := fun o ho => (State.reg_congr hregs o).trans (same o ho)
    refine ⟨t, ht, ?_, ?_, hlane, hsame⟩
    · rw [State.bit, State.getF_congr hregs]
      exact set
    · rw [State.coefRead_congr (hsame _ (notMem_fltHost_pba_of_lt (show 0xc0020 + 2048 * l.val < 0x120000 by omega)))
        (State.lane_congr hlane l), State.coefRead_absent i hc]
  case stored =>
    intro s l i v h hc hb hi hu
    obtain ⟨t, ht, hregs, hlanes⟩ := exec_coefWindowWrite h v
    have hib : s.coefInBank l i := fun h0 => hi.resolve_left (by omega)
    rw [State.coefWrite_stored v hc hib hb (LaneSt.bankInUse_eq_false.mpr hu)] at hregs hlanes
    have hl : t.lane l = (s.lane l).storesCoef (s.coefKey l i) (v.truncate 18) :=
      (State.lane_congr hlanes l).trans (State.lane_setLane_same _ _ _)
    obtain ⟨hsame, hother⟩ := State.coefRead_stored hc hib hregs hl
    exact ⟨t, ht, hsame, hother, fun m hm => (State.lane_congr hlanes m).trans
      (State.lane_setLane_other _ _ fun e => hm (Fin.ext e)), hregs⟩
  case beyond =>
    intro s l i v h hc hs hi
    obtain ⟨t, ht, hregs, hlanes⟩ := exec_coefWindowWrite h v
    have hib : ¬ s.coefInBank l i := fun hlt => absurd (hlt hs) (Nat.not_lt.mpr hi)
    rw [State.coefWrite_beyond v hc hib] at hregs hlanes
    refine ⟨t, ht, ?_, hlanes, hregs⟩
    rw [State.coefRead_congr (State.reg_congr hregs _) (State.lane_congr hlanes l), State.coefRead_beyond hib]
  case broadcast =>
    intro s l i v h hc hb hs
    obtain ⟨t, ht, hregs, hlanes⟩ := exec_coefWindowWrite h v
    obtain ⟨bregs, blanes⟩ := State.coefWrite_broadcast (i := i) v hc
      (fun h0 => absurd (hs.symm.trans h0) (by decide)) hb
    rw [hs] at bregs blanes
    have hreg : t.regs = (s.marksInUse l 1).regs := hregs.trans bregs
    have hl (m : Fin 64) := (State.lane_congr hlanes m).trans (blanes m)
    obtain ⟨-, hsame, hset, hstays⟩ := s.marksInUse_spec l 1
    have hbit : t.bit (F.LANE_EVENTS_COEF_IN_USE l) = (s.marksInUse l 1).bit (F.LANE_EVENTS_COEF_IN_USE l) := by
      rw [State.bit, State.bit, State.getF_congr hreg]
    refine ⟨t, ht, fun m hp hf => ?_, fun m hn => ?_, fun hx hbank => ?_, fun hf => ?_, fun o ho => ?_⟩
    · rw [hl, if_pos ⟨hp, LaneSt.bankInUse_eq_false.mpr hf⟩]
      have hkey : 2 ^ 14 + 2 ^ 13 * s.getF (F.LANE_COEF_PAGE_BANK l) + 256 * s.getF (F.LANE_COEF_PAGE_PAGE l) + i.val =
          s.coefKey l i := by
        rw [State.coefKey, State.coefIndex, hs]
        omega
      rw [hkey]
      exact sparseGet_set_same _ _ _ _
    · rw [hl, if_neg]
      rintro ⟨hp, hf⟩
      rcases hn with hn | hn
      · exact hn hp
      · rw [LaneSt.bankInUse_eq_true.mpr hn] at hf
        cases hf
    · rw [hbit]
      exact hset (LaneSt.bankInUse_eq_true.mpr ⟨hx, hbank⟩)
    · rw [hbit]
      exact hstays (LaneSt.bankInUse_eq_false.mpr hf)
    · exact (State.reg_congr hreg o).trans (hsame o ho)
  case inUse =>
    intro s l i v h hc hb hi hx hbank
    obtain ⟨t, ht, hregs, hlanes⟩ := exec_coefWindowWrite h v
    have hib : s.coefInBank l i := fun h0 => hi.resolve_left (by omega)
    rw [State.coefWrite_inUse v hc hib hb (LaneSt.bankInUse_eq_true.mpr ⟨hx, hbank⟩)] at hregs hlanes
    have hv := flagVector_laneEvents l
    refine ⟨t, ht, ?_, hlanes.trans (State.hwSet_lanes _ _), fun o ho => ?_⟩
    · rw [State.bit, State.getF_congr hregs]
      exact State.bit_hwSet_same s hv rfl (show 3 < 32 by decide)
    · exact (State.reg_congr hregs o).trans (State.sameRegsBut_hwSet s hv o ho)
  case swap =>
    intro s c stage sel x hi hl hs hk
    refine ⟨_, exec_coefSwap hi hl hs hk, ?_⟩
    rw [State.coefSwap_lane s _ stage hs]
    exact ⟨rfl, rfl, rfl, rfl, rfl⟩
  case settle =>
    intro s l c new t hc hs hw ht
    obtain ⟨eras, n, hlane⟩ := State.swapsSettle_fir_lane hc hs hw
    rw [ht, hlane]
    exact ⟨rfl, rfl, rfl, rfl, rfl⟩

end Sys2Proof.Machine
end

section
/-! PROOF. The actions of treads that touch flags and vectors alone, and a COEF_SWAP that has no effect
(spec/03_axis_and_loom.md R87, R88, R99, spec/12_host_port_and_delivery.md R324). -/

namespace Sys2Proof.Machine

open Sys2Proof.Laws

/-! ### Bits that hardware sets without a vector -/

/-- Hardware sets a bit that raises no vector: that bit, and the marks of its clock (R10, R420). -/
theorem State.hwSet_spec (s : State) {f : Fld} (hv : flagVector f.off = none) (hw : f.w = 1) (hlo : f.lo < 32) :
    (s.hwSet f).bit f = true ∧ s.SameRegsBut (s.hwSet f) [f.off] ∧ s.RestSameButMarks (s.hwSet f) :=
  ⟨State.bit_hwSet_same s hv hw hlo, State.sameRegsBut_hwSet s hv, by simp [State.RestSameButMarks]⟩

/-- A register that stays outside one list stays outside a longer one. -/
theorem State.SameRegsBut.mono {s t : State} {l m : List Nat} (h : s.SameRegsBut t l) (hl : ∀ o ∈ l, o ∈ m) :
    s.SameRegsBut t m := fun o ho => h o fun hm => ho (hl o hm)

/-! ### Actions (R87) -/

/-- An action happens while the Loom issues. -/
theorem State.issue_of {s : State} (h : s.loomIssues = true) (k : State → State) : s.issue k = .next (k s) := by
  rw [State.issue, if_pos h]

theorem exec_nop {s : State} (h : s.loomIssues = true) (kind : BitVec 5) :
    exec (.nop kind) s = .next (if kind = 0 then s else s.hwSet F.LOOM_EVENTS_BAD_ACTION) :=
  Eq.trans (b := s.issue fun s => if kind = 0 then s else s.hwSet F.LOOM_EVENTS_BAD_ACTION) rfl (State.issue_of h _)

theorem exec_flag {s : State} (h : s.loomIssues = true) (f : Fin 32) (v : Bool) :
    exec (.flag f v) s = .next (s.flagAction f v) :=
  Eq.trans (b := s.issue fun s => s.flagAction f v) rfl (State.issue_of h _)

theorem exec_irq {s : State} (h : s.loomIssues = true) (v : Fin 64) : exec (.irq v) s = .next (s.raiseVector v) :=
  Eq.trans (b := s.issue fun s => s.raiseVector v) rfl (State.issue_of h _)

/-- Setting one bit of a register leaves its other bits. -/
theorem State.getLsbD_setBit_bitFld (s : State) (off : Nat) {i : Nat} (hi : i < 32) (b : Bool) (j : Nat) :
    ((s.setBit (bitFld off i) b).reg off).getLsbD j = if j = i then b else (s.reg off).getLsbD j := by
  have set : (s.setBit (bitFld off i) b).reg off = insertField (s.reg off) i 1 (b2n b) := State.reg_setReg_same _ _ _
  rw [set, insertField_getLsbD _ _ _ _ _ (by omega)]
  by_cases h : j = i
  · rw [if_pos (by omega), if_pos h, h, Nat.sub_self]
    cases b <;> rfl
  · rw [if_neg (by omega), if_neg h]

/-- A FLAG action's flag, and the mark of it for the host writes of its clock (R88). -/
def State.setsFlag (s : State) (f : Nat) (v : Bool) : State :=
  { s.setBit (bitFld Reg.LOOM_FLAGS f) v with
    loom := { s.loom with flagActed := s.loom.flagActed ||| BitVec.ofNat 32 (2 ^ f) } }

/-- Where the host wrote the flags in the clock of a FLAG action, FLAG_COLLIDE sets (R88). -/
theorem State.flagAction_eq (s : State) (f : Nat) (v : Bool) :
    s.flagAction f v = if s.loom.flagHost.isSome then (s.setsFlag f v).hwSet F.LOOM_EVENTS_FLAG_COLLIDE
      else s.setsFlag f v := rfl

theorem State.flagAction_spec (s : State) (f : Fin 32) (v : Bool) :
    (∀ i, ((s.flagAction f v).reg Reg.LOOM_FLAGS).getLsbD i = if i = f then v else (s.reg Reg.LOOM_FLAGS).getLsbD i) ∧
      s.SameRegsBut (s.flagAction f v) [Reg.LOOM_FLAGS, Reg.LOOM_EVENTS] := by
  have collides : (s.setsFlag f v).SameRegsBut (s.flagAction f v) [Reg.LOOM_EVENTS] := by
    rw [State.flagAction_eq]
    split
    · exact State.sameRegsBut_hwSet _ rfl
    · exact State.SameRegsBut.refl _ _
  have sets : s.SameRegsBut (s.setsFlag f v) [Reg.LOOM_FLAGS] := State.sameRegsBut_setF s (bitFld Reg.LOOM_FLAGS f) _
  refine ⟨fun i => ?_, (sets.mono ?_).trans (collides.mono ?_)⟩
  · rw [collides _ (by decide)]
    exact State.getLsbD_setBit_bitFld s _ f.isLt v i
  · decide
  · decide

/-- Settles O21: NOP and a reserved kind from what BAD_ACTION's setting changes, FLAG from the bit it sets, IRQ from the two ways
through `raiseVector`. -/
theorem flagsAndVectorsOfTreads : Obligations.FlagsAndVectorsOfTreads := by
  unfold Obligations.FlagsAndVectorsOfTreads
  refine ⟨?nop, ?reserved, ?flag, ?unmasked, ?masked⟩
  case nop => exact fun s h => ⟨s, exec_nop h 0, rfl⟩
  case reserved =>
    intro s kind h hk
    exact ⟨_, (exec_nop h kind).trans (by rw [if_neg hk]), s.hwSet_spec rfl rfl (by decide)⟩
  case flag =>
    intro s f v h
    obtain ⟨bits, same⟩ := s.flagAction_spec f v
    exact ⟨_, exec_flag h f v, fun i => by rw [bits]; simp only [Fin.ext_iff], same⟩
  case unmasked =>
    intro s v h hm hd
    refine ⟨_, exec_irq h v, ?_⟩
    rw [State.raiseVector, hm, hd, Bool.or_self, if_neg Bool.false_ne_true]
    exact ⟨rfl, rfl⟩
  case masked =>
    intro s v h hm
    refine ⟨_, exec_irq h v, ?_⟩
    have raised : s.raiseVector v = s.setBit (F.DMA_PBA_BIT v) true := by
      rw [State.raiseVector, hm, Bool.true_or, if_pos rfl]
    have fits : (F.DMA_PBA_BIT v).lo + (F.DMA_PBA_BIT v).w ≤ 32 := by
      show v.val % 32 + 1 ≤ 32
      omega
    refine ⟨?_, ?_, State.sameRegsBut_raiseVector s v.isLt⟩
    · rw [raised]
      exact State.bit_setBit_same s _ true fits rfl
    · rw [raised]
      rfl

/-! ### Counted actions (R10, R99) -/

/-- What is added adds up with the additions of the present clock to what the counter held before it (R10). -/
theorem State.rclAdd_of_some {s : State} {off old m : Nat} (h : s.addedNow off = some (old, m)) (n : Nat) :
    s.rclAdd off n = s.rclPut off old (m + n) := by
  unfold State.rclAdd
  rw [h]

theorem State.reg_notLive_count {s : State} {old m : Nat} (h : s.addedNow Reg.LOOM_NOT_LIVE_COUNT = some (old, m)) :
    s.notLive.reg Reg.LOOM_NOT_LIVE_COUNT = BitVec.ofNat 32 (min (old + (m + 1)) 4294967295) := by
  rw [State.notLive, State.sameRegsBut_hwSet _ rfl _ (by decide), State.rclAdd_of_some h, State.reg_rclPut]

theorem exec_coefSwap_notLive {s : State} (hi : s.loomIssues = true) {c : Fin 1024} (hl : s.liveOf c = none) (stage : Bool)
    (sel : Fin 4) : exec (.coefSwap c stage sel) s = .next s.notLive := by
  have hexec : exec (.coefSwap c stage sel) s = s.issue (fun s => s.coefAction c (b2n stage) sel) := rfl
  rw [hexec, State.issue_of hi, State.coefAction, hl]

/-- A Loom that runs, in a clock that has marked one action of a context that was not live on a count of 0, while
LOOM.NOT_LIVE_COUNT reads 0. -/
def markedNotLive : State :=
  let s := (State.reset.setF F.DEV_STATE_CUR EngState.armed.code).setBit F.LOOM_STATUS_RUNNING true
  { s with time := { s.time with addNow := [(Reg.LOOM_NOT_LIVE_COUNT, 0, 1)] } }

/-- Refutes O40: a COEF_SWAP of a context that is not live adds to what the counter held before the additions of its clock (R10),
and the statement does not ask that the register shows those additions (that no `addedNow` of LOOM.NOT_LIVE_COUNT says
otherwise). In the counterexample the clock has marked one addition to a count of 0 and the register reads 0: the COEF_SWAP
makes it 2. -/
theorem not_coefSwapRefusals : ¬ Obligations.CoefSwapRefusals := by
  unfold Obligations.CoefSwapRefusals
  rintro ⟨-, notLive, -⟩
  have issues : markedNotLive.loomIssues = true := by decide +kernel
  have gone : markedNotLive.liveOf (0 : Fin 1024) = none := rfl
  have shown : markedNotLive.reg Reg.LOOM_NOT_LIVE_COUNT = 0 := by decide +kernel
  obtain ⟨t, ht, hcount, -⟩ := notLive _ 0 false 0 issues gone
  rw [exec_coefSwap_notLive issues gone] at ht
  obtain rfl := Host.Outcome.next.inj ht
  rw [State.reg_notLive_count (old := 0) (m := 1) rfl, shown] at hcount
  exact absurd hcount (by decide)

end Sys2Proof.Machine
end

section
/-! PROOF. Where a cursor goes (spec/03_axis_and_loom.md R84, R85, R89): its arrival at a tread, its staying there, and the
evaluation of the treads whose condition is ALWAYS or NEVER. -/

namespace Sys2Proof.Machine

open Sys2Proof.Laws

/-! ### The register of a cursor -/

/-- A field of a register stays when one beside it is set. -/
theorem State.getF_setF_beside (s : State) (off lo w lo' w' n : Nat) (fits : lo + w ≤ 32)
    (apart : lo' + w' ≤ lo ∨ lo + w ≤ lo') : (s.setF ⟨off, lo, w⟩ n).getF ⟨off, lo', w'⟩ = s.getF ⟨off, lo', w'⟩ :=
  State.getF_setF_other s _ _ n fits (.inr apart)

theorem State.bit_setBit_beside (s : State) (off : Nat) {lo lo' : Nat} (b : Bool) (fits : lo < 32) (apart : lo' ≠ lo) :
    (s.setBit ⟨off, lo, 1⟩ b).bit ⟨off, lo', 1⟩ = s.bit ⟨off, lo', 1⟩ :=
  State.bit_setBit_other s _ _ b fits (.inr (by rcases Nat.lt_or_gt_of_ne apart with h | h <;> simp only <;> omega))

/-- The register that shows cursor k is not that of LOOM.CTRL, nor LOOM.STATUS. -/
theorem loomCursor_ne (k : Nat) : Reg.LOOM_CTRL ≠ Reg.LOOM_CURSOR k ∧ Reg.LOOM_CURSOR k ≠ Reg.LOOM_STATUS := by
  constructor <;> simp only [Reg.LOOM_CURSOR, Reg.LOOM_CTRL, Reg.LOOM_STATUS, ne_eq] <;> omega

/-- What LOOM.CURSORk shows: the tread, WAITING and HALTED (R89). -/
def State.showsCursor (s : State) (k tread : Nat) (waiting halted : Bool) : Prop :=
  s.getF (F.LOOM_CURSOR_TREAD k) = tread ∧ s.bit (F.LOOM_CURSOR_WAITING k) = waiting ∧
    s.bit (F.LOOM_CURSOR_HALTED k) = halted

section Shown

variable {s : State} {k i : Nat} {w h : Bool} (shown : s.showsCursor k i w h)
include shown

/-- A cursor is shown through its own register alone. -/
theorem State.showsCursor.of_reg {t : State} (e : t.reg (Reg.LOOM_CURSOR k) = s.reg (Reg.LOOM_CURSOR k)) :
    t.showsCursor k i w h := by
  obtain ⟨tread, waiting, halted⟩ := shown
  refine ⟨(State.getF_congr_reg e).trans tread, ?_, ?_⟩
  · rw [State.bit, State.getF_congr_reg (f := F.LOOM_CURSOR_WAITING k) e]
    exact waiting
  · rw [State.bit, State.getF_congr_reg (f := F.LOOM_CURSOR_HALTED k) e]
    exact halted

theorem State.showsCursor.setTread {n : Nat} (hn : n < 4096) : (s.setF (F.LOOM_CURSOR_TREAD k) n).showsCursor k n w h := by
  obtain ⟨-, waiting, halted⟩ := shown
  refine ⟨(State.getF_setF_same _ _ _ (show 0 + 12 ≤ 32 by decide)).trans (Nat.mod_eq_of_lt hn), ?_, ?_⟩
  · rw [State.bit, F.LOOM_CURSOR_TREAD, F.LOOM_CURSOR_WAITING, State.getF_setF_beside _ _ _ _ _ _ _ (by decide) (by decide)]
    exact waiting
  · rw [State.bit, F.LOOM_CURSOR_TREAD, F.LOOM_CURSOR_HALTED, State.getF_setF_beside _ _ _ _ _ _ _ (by decide) (by decide)]
    exact halted

theorem State.showsCursor.setWaiting (b : Bool) : (s.setBit (F.LOOM_CURSOR_WAITING k) b).showsCursor k i b h := by
  obtain ⟨tread, -, halted⟩ := shown
  exact ⟨(State.getF_setF_beside _ _ 12 1 0 12 _ (by decide) (by decide)).trans tread,
    State.bit_setBit_same _ _ b (show 12 + 1 ≤ 32 by decide) rfl,
    (State.bit_setBit_beside _ _ b (by decide) (show 13 ≠ 12 by decide)).trans halted⟩

theorem State.showsCursor.setHalted (b : Bool) : (s.setBit (F.LOOM_CURSOR_HALTED k) b).showsCursor k i w b := by
  obtain ⟨tread, waiting, -⟩ := shown
  exact ⟨(State.getF_setF_beside _ _ 13 1 0 12 _ (by decide) (by decide)).trans tread,
    (State.bit_setBit_beside _ _ b (by decide) (show 12 ≠ 13 by decide)).trans waiting,
    State.bit_setBit_same _ _ b (show 13 + 1 ≤ 32 by decide) rfl⟩

/-- LOOM.STATUS shows of a cursor whether it waits, and what is kept of the cursor is no register. -/
theorem State.showsCursor.setStatus (j : Nat) (b : Bool) (x : CursorSt) :
    ((s.setBit (bitFld Reg.LOOM_STATUS j) b).setCursor k x).showsCursor k i w h :=
  shown.of_reg (State.reg_setF_other s (bitFld Reg.LOOM_STATUS j) _ (loomCursor_ne k).2)

end Shown

theorem State.cursor_setCursor (s : State) (k : Nat) (x : CursorSt) : (s.setCursor k x).cursor k = x :=
  sparseGet_set_same _ _ _ _

/-! ### Arriving and staying (R85, R89) -/

/-- A cursor that arrives at a tread evaluates it in the next clock; an enabled one is not halted. -/
theorem State.arrive_spec (s : State) (k i : Nat) :
    (s.arrive k i).showsCursor k (i % 4096) false
        (s.bit (F.LOOM_CURSOR_HALTED k) && !(s.getF F.LOOM_CTRL_CURSOR_EN).testBit k) ∧
      ((s.arrive k i).cursor k).next = s.time.clk + 1 ∧
      s.SameRegsBut (s.arrive k i) [Reg.LOOM_CURSOR k, Reg.LOOM_STATUS] := by
  have mem : Reg.LOOM_CURSOR k ∈ [Reg.LOOM_CURSOR k, Reg.LOOM_STATUS] := List.mem_cons_self
  have mem' : Reg.LOOM_STATUS ∈ [Reg.LOOM_CURSOR k, Reg.LOOM_STATUS] := List.mem_cons_of_mem _ List.mem_cons_self
  let u := (s.setF (F.LOOM_CURSOR_TREAD k) (i % 4096)).setBit (F.LOOM_CURSOR_WAITING k) false
  have points : u.showsCursor k (i % 4096) false (s.bit (F.LOOM_CURSOR_HALTED k)) :=
    (State.showsCursor.setTread ⟨rfl, rfl, rfl⟩ (Nat.mod_lt i (by decide))).setWaiting false
  have same : s.SameRegsBut u [Reg.LOOM_CURSOR k, Reg.LOOM_STATUS] :=
    ((State.SameRegsBut.refl s _).setF (F.LOOM_CURSOR_TREAD k) _ mem).setF (F.LOOM_CURSOR_WAITING k) _ mem
  have enables : u.getF F.LOOM_CTRL_CURSOR_EN = s.getF F.LOOM_CTRL_CURSOR_EN :=
    State.getF_congr_reg (same Reg.LOOM_CTRL (by simp [(loomCursor_ne k).1]))
  let v := if (u.getF F.LOOM_CTRL_CURSOR_EN).testBit k then u.setBit (F.LOOM_CURSOR_HALTED k) false else u
  have enabled : v.showsCursor k (i % 4096) false
        (s.bit (F.LOOM_CURSOR_HALTED k) && !(s.getF F.LOOM_CTRL_CURSOR_EN).testBit k) ∧
      v.time.clk = s.time.clk ∧ s.SameRegsBut v [Reg.LOOM_CURSOR k, Reg.LOOM_STATUS] := by
    simp only [v, enables]
    cases (s.getF F.LOOM_CTRL_CURSOR_EN).testBit k
    · rw [if_neg Bool.false_ne_true, Bool.not_false, Bool.and_true]
      exact ⟨points, rfl, same⟩
    · rw [if_pos rfl, Bool.not_true, Bool.and_false]
      exact ⟨points.setHalted false, rfl, same.setF (F.LOOM_CURSOR_HALTED k) _ mem⟩
  obtain ⟨shown, clk, sameV⟩ := enabled
  have arrives : s.arrive k i = (v.setBit (bitFld Reg.LOOM_STATUS (4 + k)) false).setCursor k
      { arrival := v.time.clk + 1, tally := 0, next := v.time.clk + 1 } := rfl
  rw [arrives, State.cursor_setCursor, clk]
  exact ⟨shown.setStatus _ _ _, rfl, sameV.setF (bitFld Reg.LOOM_STATUS (4 + k)) _ mem'⟩

/-- A cursor that stays on a NEVER tread waits there, halted. -/
theorem State.stay_spec (s : State) (k tally : Nat) :
    (s.stay k tally true).showsCursor k (s.getF (F.LOOM_CURSOR_TREAD k)) true true ∧
      ((s.stay k tally true).cursor k).next = s.time.clk + 1 ∧
      s.SameRegsBut (s.stay k tally true) [Reg.LOOM_CURSOR k, Reg.LOOM_STATUS] := by
  have mem : Reg.LOOM_CURSOR k ∈ [Reg.LOOM_CURSOR k, Reg.LOOM_STATUS] := List.mem_cons_self
  have mem' : Reg.LOOM_STATUS ∈ [Reg.LOOM_CURSOR k, Reg.LOOM_STATUS] := List.mem_cons_of_mem _ List.mem_cons_self
  have waits := ((State.showsCursor.setWaiting (s := s) (k := k) ⟨rfl, rfl, rfl⟩ true).setStatus (4 + k) true
    (s.cursor k)).setHalted true
  refine ⟨waits.of_reg rfl, ?_, ?_⟩
  · unfold State.stay
    rw [State.cursor_setCursor]
    rfl
  · exact (((State.SameRegsBut.refl s _).setF (F.LOOM_CURSOR_WAITING k) _ mem).setF (bitFld Reg.LOOM_STATUS (4 + k)) _ mem').setF
      (F.LOOM_CURSOR_HALTED k) _ mem

/-! ### Evaluating (R84, R89) -/

theorem exec_treadMatch {s : State} (hr : s.loomRuns = true) (hf : s.follows = false) {k : Fin 4} (hd : s.due k = true) :
    exec (.treadMatch k) s = .next (s.evaluate k) := by
  have hexec : exec (.treadMatch k) s = .next (if s.loomRuns && !s.follows && s.due k then s.evaluate k else s) := rfl
  rw [hexec, hr, hf, hd]
  rfl

theorem State.condition_always (s : State) {t : Tread} (x : CursorSt) (h : t.cond = 1) :
    s.condition t x = (some s.plainMatch, x.tally) := by
  simp only [State.condition, h]

theorem State.condition_never (s : State) {t : Tread} (x : CursorSt) (h : t.cond = 0) : s.condition t x = (none, x.tally) := by
  simp only [State.condition, h]

/-- A tread that is met on time, by no doorbell and with two NOPs, moves the cursor and does nothing else. -/
theorem State.met_nops (s : State) (k i : Nat) {t : Tread} {m : Match} (hlate : m.iss.late = false) (hbell : t.cond ≠ 7)
    (ha : t.aKind = 0) (hb : t.bKind = 0) :
    ∃ met, s.met k i t m none = { s.arrive k (if t.next % 2 = 1 then t.target else i + 1) with
      loom := { (s.arrive k (if t.next % 2 = 1 then t.target else i + 1)).loom with metNow := met } } := by
  have quiet : s.noteMatch t m = s := by
    rw [State.noteMatch, hlate, if_neg Bool.false_ne_true, if_neg hbell]
  have nop (arg : Nat) : s.action 0 arg i m none = (false, s) := rfl
  unfold State.met
  simp only [quiet, ha, hb, forcedFor, nop, Bool.or_self, Bool.false_eq_true, if_false]
  exact ⟨_, rfl⟩

/-- ALWAYS is met at once (R84). -/
theorem State.evaluate_always {s : State} {k i : Nat} (hi : i = s.getF (F.LOOM_CURSOR_TREAD k)) (hc : (s.treadAt i).cond = 1)
    (ha : (s.treadAt i).aKind = 0) (hb : (s.treadAt i).bKind = 0) :
    ∃ met, s.evaluate k = { s.arrive k (if (s.treadAt i).next % 2 = 1 then (s.treadAt i).target else i + 1) with
      loom := { (s.arrive k (if (s.treadAt i).next % 2 = 1 then (s.treadAt i).target else i + 1)).loom with
        metNow := met } } := by
  obtain ⟨met, hmet⟩ := s.met_nops k i (m := s.plainMatch) rfl (by rw [hc]; decide) ha hb
  refine ⟨met, Eq.trans ?_ hmet⟩
  unfold State.evaluate
  simp only [← hi, State.condition_always s _ hc]

/-- NEVER is not met (R84, R89). -/
theorem State.evaluate_never {s : State} {k i : Nat} (hi : i = s.getF (F.LOOM_CURSOR_TREAD k)) (hc : (s.treadAt i).cond = 0) :
    s.evaluate k = if (s.treadAt i).next < 2 then s.arrive k (i + 1) else s.stay k (s.cursor k).tally true := by
  unfold State.evaluate
  simp only [← hi, State.condition_never s _ hc, State.unmet, hc, beq_self_eq_true, Bool.true_or]

/-- Settles O18: an evaluation arrives where NEXT says, or stays. -/
theorem treadEvaluation : Obligations.TreadEvaluation := by
  unfold Obligations.TreadEvaluation
  refine ⟨?always, ?never⟩
  case always =>
    intro s k i hr hf hd hi hc ha hb
    obtain ⟨met, heval⟩ := State.evaluate_always hi hc ha hb
    obtain ⟨⟨tread, -, -⟩, next, same⟩ := s.arrive_spec k (if (s.treadAt i).next % 2 = 1 then (s.treadAt i).target else i + 1)
    exact ⟨_, (exec_treadMatch hr hf hd).trans (congrArg _ heval), tread, next, same⟩
  case never =>
    intro s k i hr hf hd hi hc
    refine ⟨_, (exec_treadMatch hr hf hd).trans (congrArg _ (State.evaluate_never hi hc)), ?_⟩
    by_cases hn : (s.treadAt i).next < 2
    · have h2 : ¬ 2 ≤ (s.treadAt i).next := by omega
      simp only [if_pos hn, if_neg h2, decide_eq_false h2]
      obtain ⟨⟨tread, waiting, halted⟩, next, same⟩ := s.arrive_spec k (i + 1)
      exact ⟨tread, waiting, halted, next, same⟩
    · have h2 : 2 ≤ (s.treadAt i).next := by omega
      simp only [if_neg hn, if_pos h2, decide_eq_true h2]
      obtain ⟨⟨tread, waiting, halted⟩, next, same⟩ := s.stay_spec k (s.cursor k).tally
      exact ⟨tread.trans hi.symm, waiting, halted, next, same⟩

/-! ### The end of a stop (R33) -/

/-- A Loom whose stop the host writes in the present clock, with no context live. -/
def stoppedNow : State :=
  ((State.reset.setF F.DEV_STATE_CUR EngState.armed.code).setBit F.LOOM_STATUS_RUNNING true).stopLoom

theorem stoppedNow_stopDone : stoppedNow.stopDone.cur = .armed := by decide +kernel

/-- Refutes O17: the treads matched in the clock of a stop issue in the next one (R33, R35), so that a stop is not complete in its
own clock, and the statement does not ask that its clock is past. In the counterexample no context is live, and the host stops
the Loom in the present clock: the engine stays in ARMED. -/
theorem not_loomControl : ¬ Obligations.LoomControl := by
  unfold Obligations.LoomControl
  rintro ⟨-, -, complete, -⟩
  obtain ⟨t, ht, idle, -⟩ := complete stoppedNow rfl (by decide +kernel) rfl
  obtain rfl : stoppedNow.stopDone = t := Host.Outcome.next.inj ht
  rw [stoppedNow_stopDone] at idle
  exact absurd idle (by decide)

end Sys2Proof.Machine
end

section
/-! PROOF. A CLOSE of a segment that a CLOSE of an earlier clock has ended (spec/03_axis_and_loom.md R92,
spec/09_segments_and_placement.md R230). -/

namespace Sys2Proof.Machine

/-- A live context that only its lane and its being armed distinguish. -/
def plainCtx : LiveCtx :=
  { lane := 0, armed := true, release := none, rate := 0, w16 := 0, strm := 0, outRate := 0, holdoff := false, h0 := none,
    h0At := 0, p0 := 0, seen := [], segCseq := 0, segHanded := none }

/-- A running Loom whose TSC reads 1, with a segment of context 0 open that a CLOSE has cut while the TSC read 0. -/
def closedBefore : State :=
  let s := ((State.reset.setF F.DEV_STATE_CUR EngState.armed.code).setBit F.LOOM_STATUS_RUNNING true).set64 Reg.CLK_TSC_LO 1
  let s := s.setLive 0 (some plainCtx)
  { s with seg := { s.seg with recs := [{ s.blankRecord 0 .segment with cut := some (2 ^ 32) }] } }

/-- The segment still ends where the first CLOSE ended it. -/
theorem closedBefore_closeSeg : closedBefore.closeSeg 0 = closedBefore := by
  have running : closedBefore.isLive 0 = true := rfl
  have still : closedBefore.stillOpen 0 = true := by decide +kernel
  have ended : (closedBefore.recsOf 0).find? (fun r => r.kind == .segment && r.state == .opened && r.cut.isNone) = none := rfl
  have nobody : closedBefore.seg.waiting.any (fun w => w.ctx == 0) = false := rfl
  have fresh : closedBefore.seg.undo.find? (fun u => u.ctx == 0 && u.clk == closedBefore.time.clk) = none := rfl
  simp only [State.closeSeg, nobody, Bool.false_eq_true, if_false, running, still, Bool.not_true, Bool.or_self, fresh, ended]

/-- Refutes O20: an open segment that a CLOSE of an earlier clock has ended still ends there (R230), and the statement does not ask
that the segment has no end yet. In the counterexample the segment was cut at the end of TSC 0, and the CLOSE is that of TSC 1,
whose cut would come a clock later. -/
theorem not_segmentsOpenAndClose : ¬ Obligations.SegmentsOpenAndClose := by
  unfold Obligations.SegmentsOpenAndClose
  rintro ⟨-, -, closes, -⟩
  obtain ⟨t, ht, cuts, -⟩ := closes closedBefore 0 (by decide +kernel) rfl (by decide +kernel) rfl
  have hexec : exec (.close 0) closedBefore = closedBefore.issue (fun s => s.closeSeg 0) := rfl
  rw [hexec, State.issue_of (by decide +kernel), closedBefore_closeSeg] at ht
  obtain rfl := Host.Outcome.next.inj ht
  have cut := cuts _ List.mem_cons_self rfl rfl rfl
  exact absurd cut (by decide +kernel)

end Sys2Proof.Machine
end

section
/-! PROOF. Host writes into the tread window and the context windows, and the exchange of table banks
(spec/03_axis_and_loom.md R100 to R103, spec/01_engine_architecture.md R27). -/

namespace Sys2Proof.Machine

open Sys2Proof.Laws

/-- A write that meets its register does what its effect does, beside the cell that may forward it (R394). -/
theorem State.hostWrite_taken_eq {s : State} {off : Nat} (h : s.takesWrite off = true) (v : Word) (k : State → State) :
    ∃ pair out, s.hostWrite off v k = { k s with pair := pair, out := out } := by
  rw [State.hostWrite_taken h]
  split
  · exact ⟨_, _, rfl⟩
  · exact ⟨(k s).pair, (k s).out, rfl⟩

/-! ### The tread window (R82, R100) -/

theorem exec_treadWindowWrite {s : State} {off : Fin 8192} (h : s.takesWrite (0x38000 + 4 * off) = true) (v : Word) :
    ∃ pair out, exec (.treadWindowWrite off v) s = .next { s.windowWrite off v with pair := pair, out := out } := by
  obtain ⟨pair, out, e⟩ := State.hostWrite_taken_eq h v fun s => s.windowWrite off v
  exact ⟨pair, out, congrArg Host.Outcome.next e⟩

/-- The content of BACK replaced. -/
def State.setBack (s : State) (b : Sparse (BitVec 128)) : State :=
  { s with loom := if s.bit F.LOOM_STATUS_FRONT_PHYS then { s.loom with bank0 := b } else { s.loom with bank1 := b } }

theorem State.bank_setBack (s : State) (b : Sparse (BitVec 128)) :
    (s.setBack b).bank false = b ∧ (s.setBack b).bank true = s.bank true := by
  have shown : (s.setBack b).bit F.LOOM_STATUS_FRONT_PHYS = s.bit F.LOOM_STATUS_FRONT_PHYS := rfl
  unfold State.bank
  rw [shown, State.setBack]
  cases s.bit F.LOOM_STATUS_FRONT_PHYS <;> exact ⟨rfl, rfl⟩

/-- A write that is accepted replaces one word of one tread of BACK; what a tread of the old FRONT held may be kept for the
evaluations that still meet it (R102). -/
theorem State.windowWrite_back {s : State} (hv : s.bit F.LOOM_WIN_VIEW = false) (hs : s.loom.swap = none) (off : Nat) (v : Word) :
    ∃ was, s.windowWrite off v = ({ s with loom := { s.loom with frontWas := was } } : State).setBack
      (sparseSet (fun _ => 0) (s.bank false) (s.windowAt off).1
        (withWord (sparseGet (fun _ => 0) (s.bank false) (s.windowAt off).1) (s.windowAt off).2 v)) := by
  unfold State.windowWrite
  rw [hv, hs, if_neg Bool.false_ne_true, if_neg (by decide)]
  dsimp only
  split
  · exact ⟨_, rfl⟩
  · exact ⟨s.loom.frontWas, rfl⟩

/-- A write with VIEW on FRONT is discarded. -/
theorem State.windowWrite_front {s : State} (hv : s.bit F.LOOM_WIN_VIEW = true) (off : Nat) (v : Word) :
    s.windowWrite off v = s.hwSet F.LOOM_EVENTS_FRONT_WRITE := by
  rw [State.windowWrite, hv, if_pos rfl]

/-- A write to BACK is discarded while a swap is pending. -/
theorem State.windowWrite_locked {s : State} (hv : s.bit F.LOOM_WIN_VIEW = false) (hs : s.loom.swap.isSome = true) (off : Nat)
    (v : Word) : s.windowWrite off v = s.hwSet F.LOOM_EVENTS_BACK_LOCKED := by
  rw [State.windowWrite, hv, hs, if_neg Bool.false_ne_true, if_pos rfl]

/-- A bit that hardware sets without a vector counts one occurrence, once in a fabric clock (R420). -/
theorem State.occ_hwSet {s : State} {f : Fld} (hv : flagVector f.off = none) (h : s.time.setNow.contains (occKey f) = false) :
    (sparseGet (fun _ => 0) (s.hwSet f).occ (occKey f)).toNat =
      min 255 ((sparseGet (fun _ => 0) s.occ (occKey f)).toNat + 1) := by
  have counted := s.occ_countOcc f
  rw [h, if_neg Bool.false_ne_true] at counted
  rw [State.hwSet_of_no_vector s hv, State.setF_occ, counted]

/-- Settles O22: a case for each way through `windowWrite`. -/
theorem treadWindowWrites : Obligations.TreadWindowWrites := by
  unfold Obligations.TreadWindowWrites
  refine ⟨?back, ?front, ?locked⟩
  case back =>
    intro s off v h hv hs
    obtain ⟨pair, out, hexec⟩ := exec_treadWindowWrite h v
    obtain ⟨was, hwrite⟩ := State.windowWrite_back hv hs off v
    obtain ⟨back, front⟩ := ({ s with loom := { s.loom with frontWas := was } } : State).bank_setBack
      (sparseSet (fun _ => 0) (s.bank false) (s.windowAt off).1
        (withWord (sparseGet (fun _ => 0) (s.bank false) (s.windowAt off).1) (s.windowAt off).2 v))
    rw [hwrite] at hexec
    exact ⟨_, hexec, (congrArg (sparseGet _ · _) back).trans (sparseGet_set_same _ _ _ _), front, rfl⟩
  case front =>
    intro s off v h hv
    obtain ⟨pair, out, hexec⟩ := exec_treadWindowWrite h v
    rw [State.windowWrite_front hv] at hexec
    obtain ⟨bit, same, -⟩ := s.hwSet_spec (f := F.LOOM_EVENTS_FRONT_WRITE) rfl rfl (by decide)
    exact ⟨_, hexec, bit, State.occ_hwSet rfl, State.hwSet_loom s _, same⟩
  case locked =>
    intro s off v h hv hs
    obtain ⟨pair, out, hexec⟩ := exec_treadWindowWrite h v
    rw [State.windowWrite_locked hv hs] at hexec
    obtain ⟨bit, same, -⟩ := s.hwSet_spec (f := F.LOOM_EVENTS_BACK_LOCKED) rfl rfl (by decide)
    exact ⟨_, hexec, bit, State.occ_hwSet rfl, State.hwSet_loom s _, same⟩

/-! ### Swap requests (R101, R103) -/

theorem getLsbD_or_one (v : Word) : (v ||| 1).getLsbD 0 = true ∧ ∀ i, i ≠ 0 → (v ||| 1).getLsbD i = v.getLsbD i :=
  ⟨by simp, fun i hi => by simp [hi]⟩

/-- A request that is accepted: it is pending. -/
def State.requestsSwap (s : State) (v : Word) : State :=
  let u := (s.storeReg Reg.LOOM_SWAP (v ||| 1)).setBit F.LOOM_STATUS_SWAP_PENDING true
  { u with loom := { u.loom with swap := some ⟨fieldOf v 2 2, v.getLsbD 4, fieldOf v 8 10, s.time.clk, false⟩ } }

theorem State.swapWrite_request {s : State} (hs : s.loom.swap = none) {v : Word} (hcancel : v.getLsbD 1 = false)
    (hb : fieldOf v 2 2 ≠ 3) : s.swapWrite (v ||| 1) = s.requestsSwap v := by
  obtain ⟨req, others⟩ := getLsbD_or_one v
  have boundary : fieldOf (v ||| 1) 2 2 = fieldOf v 2 2 := fieldOf_or_low v 2 (m := 1) (by decide)
  have ctx : fieldOf (v ||| 1) 8 10 = fieldOf v 8 10 := fieldOf_or_low v 10 (m := 1) (by decide)
  rw [State.swapWrite, others 1 (by decide), hcancel, if_neg Bool.false_ne_true, req, Bool.not_true, if_neg Bool.false_ne_true,
    hs, boundary, ctx, others 4 (by decide), if_neg (by simpa using hb)]
  rfl

theorem State.requestsSwap_spec (s : State) (v : Word) :
    (s.requestsSwap v).bit F.LOOM_STATUS_SWAP_PENDING = true ∧
      (s.requestsSwap v).bit F.LOOM_STATUS_FRONT_PHYS = s.bit F.LOOM_STATUS_FRONT_PHYS ∧
      s.SameRegsBut (s.requestsSwap v) [Reg.LOOM_SWAP, Reg.LOOM_STATUS] := by
  have stored := s.sameRegsBut_storeReg Reg.LOOM_SWAP (v ||| 1)
  refine ⟨State.bit_setBit_same _ _ true (by decide) rfl, ?_, ?_⟩
  · calc (s.requestsSwap v).bit F.LOOM_STATUS_FRONT_PHYS
        = (s.storeReg Reg.LOOM_SWAP (v ||| 1)).bit F.LOOM_STATUS_FRONT_PHYS :=
          State.bit_setBit_other _ _ _ true (by decide) (by decide)
      _ = s.bit F.LOOM_STATUS_FRONT_PHYS := by rw [State.bit, State.getF_congr_reg (stored _ (by decide)), State.bit]
  · exact (stored.mono (by simp)).setF F.LOOM_STATUS_SWAP_PENDING 1 (by decide)

/-- The word of a CANCEL alone: CANCEL, without REQ. -/
theorem cancelWord_bits (w : Word) : (w &&& 0xFFFFFFFC ||| 2).getLsbD 0 = false ∧ (w &&& 0xFFFFFFFC ||| 2).getLsbD 1 = true := by
  constructor <;> simp

/-- A CANCEL before the boundary: the request is withdrawn. -/
def State.withdrawsSwap (s : State) (q : SwapReq) : State :=
  ({ s with loom := { s.loom with swapGone := some (s.time.clk, q) } } : State).endSwap

theorem State.swapWrite_cancel {s : State} {q : SwapReq} (hs : s.loom.swap = some q) (hb : s.atBoundary q s.time.clk = false)
    (w : Word) : s.swapWrite (w &&& 0xFFFFFFFC ||| 2) =
      (s.withdrawsSwap q).storeReg Reg.LOOM_SWAP (w &&& 0xFFFFFFFC ||| 2) := by
  obtain ⟨req, cancel⟩ := cancelWord_bits w
  have withdrawn : s.swapCancel = s.withdrawsSwap q := by
    simp only [State.swapCancel, hs, hb, Bool.false_eq_true, if_false]
    rfl
  rw [State.swapWrite, cancel, if_pos rfl, req, Bool.not_false, if_pos rfl, withdrawn]

theorem State.endSwap_spec (s : State) :
    s.endSwap.bit F.LOOM_STATUS_SWAP_PENDING = false ∧
      s.endSwap.bit F.LOOM_STATUS_FRONT_PHYS = s.bit F.LOOM_STATUS_FRONT_PHYS ∧
      s.SameRegsBut s.endSwap [Reg.LOOM_STATUS] :=
  ⟨State.bit_setBit_same _ _ false (by decide) rfl, State.bit_setBit_other _ _ _ false (by decide) (by decide),
    State.sameRegsBut_setF ({ s with loom := { s.loom with swap := none } } : State) F.LOOM_STATUS_SWAP_PENDING _⟩

/-- A request whose boundary is reached leads to the exchange of the banks there or in the clock before (R101). -/
theorem State.swapDue_at {s : State} {q : SwapReq} (hs : s.loom.swap = some q) (hb : s.atBoundary q s.time.clk = true) :
    ∃ b, s.swapDue = (s.exchange q b).endSwap := by
  simp only [State.swapDue, hs, hb, if_true]
  split <;> exact ⟨_, rfl⟩

/-- FRONT and BACK change places (R102). -/
def State.flipsBanks (s : State) (q : SwapReq) (b : Nat) : State :=
  let u := s.setBit F.LOOM_STATUS_FRONT_PHYS (!s.bit F.LOOM_STATUS_FRONT_PHYS)
  { u with loom := { u.loom with swapAt := some (b, q.restart), frontWas := [] } }

/-- The bank that serves as FRONT is the one that FRONT_PHYS names. -/
theorem State.bank_of_flipped {s t : State} (h0 : t.loom.bank0 = s.loom.bank0) (h1 : t.loom.bank1 = s.loom.bank1)
    (hf : t.bit F.LOOM_STATUS_FRONT_PHYS = !s.bit F.LOOM_STATUS_FRONT_PHYS) (front : Bool) : t.bank front = s.bank !front := by
  unfold State.bank
  rw [h0, h1, hf]
  cases front <;> cases s.bit F.LOOM_STATUS_FRONT_PHYS <;> rfl

theorem State.exchange_spec {s : State} (hs : s.loom.swapAt = none) (q : SwapReq) (b : Nat) :
    (s.exchange q b).bit F.LOOM_STATUS_FRONT_PHYS = !s.bit F.LOOM_STATUS_FRONT_PHYS ∧
      (s.exchange q b).bit F.LOOM_EVENTS_SWAP_DONE = true ∧
      (s.exchange q b).loom = { s.loom with swapAt := some (b, q.restart), frontWas := [] } ∧
      s.SameRegsBut (s.exchange q b) [Reg.LOOM_STATUS, Reg.LOOM_EVENTS] := by
  have hex : s.exchange q b = (s.flipsBanks q b).hwSet F.LOOM_EVENTS_SWAP_DONE := by
    unfold State.exchange
    rw [hs]
    rfl
  obtain ⟨done, same, -⟩ := (s.flipsBanks q b).hwSet_spec (f := F.LOOM_EVENTS_SWAP_DONE) rfl rfl (by decide)
  have flips : s.SameRegsBut (s.flipsBanks q b) [Reg.LOOM_STATUS] := State.sameRegsBut_setF s F.LOOM_STATUS_FRONT_PHYS _
  rw [hex]
  refine ⟨?_, done, State.hwSet_loom _ _, (flips.mono (by decide)).trans (same.mono (by decide))⟩
  rw [State.bit_hwSet_other _ rfl (by decide) (by decide)]
  exact State.bit_setBit_same s _ _ (by decide) rfl

/-! ### The context windows (R27) -/

theorem State.ctxWrite_notLive {s : State} {c : Nat} (hl : s.isLive c = false) {word : Nat}
    (hc : s.bit F.DRAFT_STATUS_COMPAT_ACTIVE = false) (v : Word) :
    s.ctxWrite c word v = s.storeReg (ctxBase c + 4 * word) v := by
  have compat : (s.storeReg (ctxBase c + 4 * word) v).bit F.DRAFT_STATUS_COMPAT_ACTIVE = false := by
    have apart : F.DRAFT_STATUS_COMPAT_ACTIVE.off ≠ ctxBase c + 4 * word := by
      simp only [F.DRAFT_STATUS_COMPAT_ACTIVE, Reg.DRAFT_STATUS, ctxBase]
      omega
    rw [State.bit, State.storeReg, State.getF_setReg_other _ _ _ apart]
    exact hc
  rw [State.ctxWrite, hl, if_neg Bool.false_ne_true, State.dropNative, compat]
  rfl

theorem State.ctxWrite_live {s : State} {c : Nat} (hl : s.isLive c = true) (word : Nat) (v : Word) :
    s.ctxWrite c word v = s.hwSet F.FLT_HOST_CTX_LIVE_WRITE := by
  rw [State.ctxWrite, hl, if_pos rfl]

theorem exec_ctxWindowWrite {s : State} {c : Fin 1024} {word : Fin 64} (h : s.takesWrite (ctxBase c + 4 * word) = true) (v : Word) :
    ∃ pair out, exec (.ctxWindowWrite c word v) s = .next { s.ctxWrite c word v with pair := pair, out := out } := by
  obtain ⟨pair, out, e⟩ := State.hostWrite_taken_eq h v fun s => s.ctxWrite c word v
  exact ⟨pair, out, congrArg Host.Outcome.next e⟩

/-- Settles O23: what a request, a CANCEL and an exchange make of LOOM.STATUS and of the banks, and the two ways through
`ctxWrite`. -/
theorem tableWrites : Obligations.TableWrites := by
  unfold Obligations.TableWrites
  refine ⟨?request, ?cancel, ?done, ?notLive, ?live⟩
  case request =>
    intro s v h hs hcancel hb
    obtain ⟨pair, out, e⟩ := State.hostWrite_taken_eq h (v ||| 1) fun s => s.swapWrite (v ||| 1)
    rw [State.swapWrite_request hs hcancel hb] at e
    obtain ⟨pending, front, same⟩ := s.requestsSwap_spec v
    exact ⟨_, congrArg Host.Outcome.next e, rfl, pending, front, same⟩
  case cancel =>
    intro s q h hs hb
    let w := s.reg Reg.LOOM_SWAP &&& 0xFFFFFFFC ||| 2
    obtain ⟨pair, out, e⟩ := State.hostWrite_taken_eq h w fun s => s.swapWrite w
    rw [State.swapWrite_cancel hs hb] at e
    obtain ⟨pending, front, -⟩ := ({ s with loom := { s.loom with swapGone := some (s.time.clk, q) } } : State).endSwap_spec
    have stored := (s.withdrawsSwap q).sameRegsBut_storeReg Reg.LOOM_SWAP w Reg.LOOM_STATUS (by decide)
    refine ⟨_, congrArg Host.Outcome.next e, rfl, ?_, ?_, rfl⟩
    · exact (congrArg (· != 0) (State.getF_congr_reg (f := F.LOOM_STATUS_SWAP_PENDING) stored)).trans pending
    · exact (congrArg (· != 0) (State.getF_congr_reg (f := F.LOOM_STATUS_FRONT_PHYS) stored)).trans front
  case done =>
    intro s q hs ha hb
    obtain ⟨b, due⟩ := State.swapDue_at hs hb
    obtain ⟨phys, done, loom, same⟩ := State.exchange_spec ha q b
    obtain ⟨pending, front, ends⟩ := (s.exchange q b).endSwap_spec
    have banks0 : (s.exchange q b).loom.bank0 = (s.exchange q b).endSwap.loom.bank0 := rfl
    have banks1 : (s.exchange q b).loom.bank1 = (s.exchange q b).endSwap.loom.bank1 := rfl
    have flipped (f : Bool) : (s.exchange q b).endSwap.bank f = s.bank !f :=
      State.bank_of_flipped (by rw [← banks0, loom]) (by rw [← banks1, loom]) (front.trans phys) f
    refine ⟨_, congrArg Host.Outcome.next due, rfl, flipped true, flipped false, ?_, pending, same.trans (ends.mono (by simp))⟩
    rw [State.bit, State.getF_congr_reg (f := F.LOOM_EVENTS_SWAP_DONE) (ends _ (by decide))]
    exact done
  case notLive =>
    intro s c word v h hl hc
    obtain ⟨pair, out, hexec⟩ := exec_ctxWindowWrite h v
    rw [State.ctxWrite_notLive hl hc] at hexec
    exact ⟨_, hexec, s.reg_storeReg _ v, s.sameRegsBut_storeReg _ v⟩
  case live =>
    intro s c word v h hl
    obtain ⟨pair, out, hexec⟩ := exec_ctxWindowWrite h v
    rw [State.ctxWrite_live hl] at hexec
    obtain ⟨bit, same, -⟩ := s.hwSet_fltHost_spec (f := F.FLT_HOST_CTX_LIVE_WRITE) rfl rfl (by decide)
    exact ⟨_, hexec, bit, same⟩

end Sys2Proof.Machine
end

section
/-! PROOF. The axis compares: AXIS_CMP actions, and host writes that meet one (spec/03_axis_and_loom.md R81, R87, R88, R92). -/

namespace Sys2Proof.Machine

open Sys2Proof.Laws

/-! ### The value of an action (R87) -/

theorem State.axisReg64_lt (s : State) (lo : Nat) : s.axisReg64 lo < 2 ^ 64 := by
  have hl := (s.axisReg lo).isLt
  have hh := (s.axisReg (lo + 4)).isLt
  unfold State.axisReg64
  omega

theorem toBitsInt_lt (w : Nat) (n : Int) : toBitsInt w n < 2 ^ w := BitVec.isLt _

theorem ofBitsInt_eq_zero {w n : Nat} (h : n < 2 ^ w) : ofBitsInt w n = 0 ↔ n = 0 := by
  rw [ofBitsInt, ← BitVec.toInt_zero (w := w), BitVec.toInt_inj, ← BitVec.toNat_inj, BitVec.toNat_ofNat,
    Nat.mod_eq_of_lt h, BitVec.toNat_zero]

/-- A pair neither of whose registers changes reads as before. -/
theorem State.SameRegsBut.get64 {s t : State} {l : List Nat} (h : s.SameRegsBut t l) {lo : Nat} (hlo : lo ∉ l)
    (hhi : lo + 4 ∉ l) : t.get64 lo = s.get64 lo := by
  rw [State.get64, State.get64, h lo hlo, h (lo + 4) hhi]

/-- A step other than zero adds, loads, goes beyond the position or to the next multiple (R87). -/
theorem State.cmpValue_eq (s : State) (k old : Nat) (mode : Fin 4) (hstep : s.axisReg64 (Reg.AXIS_CMP_STEP_LO k) ≠ 0) :
    s.cmpValue k mode old =
      if mode = 0 then (old + s.axisReg64 (Reg.AXIS_CMP_STEP_LO k)) % 2 ^ 64
      else if mode = 1 then s.axisReg64 (Reg.AXIS_CMP_LOAD_LO k)
      else if mode = 2 then toBitsInt 64 (s.axisReported s.time.clk + ofBitsInt 64 (s.axisReg64 (Reg.AXIS_CMP_STEP_LO k)))
      else toBitsInt 64 ((s.axisReported s.time.clk / (ofBitsInt 64 (s.axisReg64 (Reg.AXIS_CMP_STEP_LO k))).natAbs + 1) *
        (ofBitsInt 64 (s.axisReg64 (Reg.AXIS_CMP_STEP_LO k))).natAbs) := by
  have multiple : ((ofBitsInt 64 (s.axisReg64 (Reg.AXIS_CMP_STEP_LO k))).natAbs : Int) ≠ 0 := by
    rw [Int.natCast_ne_zero, Int.natAbs_ne_zero]
    exact fun h => hstep ((ofBitsInt_eq_zero (s.axisReg64_lt _)).mp h)
  match mode with
  | 0 => rfl
  | 1 => rfl
  | 2 => rfl
  | 3 => exact if_neg multiple

theorem State.cmpValue_lt (s : State) (k mode old : Nat) : s.cmpValue k mode old < 2 ^ 64 := by
  unfold State.cmpValue
  dsimp only
  split
  · exact Nat.mod_lt _ (by decide)
  · exact s.axisReg64_lt _
  · exact toBitsInt_lt 64 _
  · split
    · exact s.axisReg64_lt _
    · exact toBitsInt_lt 64 _

/-! ### Actions (R88, R92) -/

theorem exec_axisCmp {s : State} (h : s.loomIssues = true) (k : Fin 16) (mode : Fin 4) :
    exec (.axisCmp k mode) s = .next (s.cmpAction k mode) :=
  congrArg Host.Outcome.next (if_pos h)

/-- A compare is set to a value of 64 bits. -/
theorem State.set64_cmp_spec (s : State) (k : Nat) {n : Nat} (hn : n < 2 ^ 64) :
    (s.set64 (Reg.AXIS_CMP_LO k) n).get64 (Reg.AXIS_CMP_LO k) = n ∧
      s.SameRegsBut (s.set64 (Reg.AXIS_CMP_LO k) n) [Reg.AXIS_CMP_LO k, Reg.AXIS_CMP_HI k] := by
  have hi : Reg.AXIS_CMP_LO k + 4 = Reg.AXIS_CMP_HI k := by
    simp only [Reg.AXIS_CMP_LO, Reg.AXIS_CMP_HI]
    omega
  exact ⟨(State.get64_set64_same s _ n).trans (Nat.mod_eq_of_lt hn), hi ▸ s.sameRegsBut_set64 _ n⟩

/-- The first action of its clock on a compare that the host has not written acts on what the compare holds. -/
theorem State.cmpAction_first {s : State} (ha : s.loom.cmpActed = []) (hh : s.loom.cmpHost = []) (k mode : Nat) :
    s.cmpAction k mode =
      { s.set64 (Reg.AXIS_CMP_LO k) (s.cmpValue k mode (s.get64 (Reg.AXIS_CMP_LO k))) with
        loom := { s.loom with cmpActed := [(k, s.get64 (Reg.AXIS_CMP_LO k))] } } := by
  unfold State.cmpAction
  rw [ha, hh]
  dsimp only [List.find?_nil, Option.map_none, Option.isSome_none]
  simp only [Bool.false_and, Bool.false_eq_true, if_false, State.set64_loom, ha]

/-- A later action of the clock acts on the value before the first one. -/
theorem State.cmpAction_second {s : State} {k old : Nat} (ha : s.loom.cmpActed = [(k, old)]) (hh : s.loom.cmpHost = [])
    (mode : Nat) : s.cmpAction k mode = s.set64 (Reg.AXIS_CMP_LO k) (s.cmpValue k mode old) := by
  unfold State.cmpAction
  rw [ha, hh]
  simp

/-! ### Host writes of a compare (R81, R88) -/

theorem State.writeReg_axis (s : State) {off : Nat} (hb : off / 0x10000 = 2) (ha : accessAt off ≠ .w1c) (v : Word) :
    s.writeReg off v = s.writeAxis off v := by
  simp [State.writeReg, ha, hb]

/-- A write of HI brings the pair into effect as a host write of the compare. -/
theorem State.writeReg_cmpHi (s : State) (k : Fin 16) (v : Word) :
    ∃ n, s.writeReg (Reg.AXIS_CMP_HI k) v = (s.takeHeld (Reg.AXIS_CMP_LO k)).2.cmpHostWrite k n := by
  have access : ∀ k : Fin 16, accessAt (Reg.AXIS_CMP_HI k) ≠ .w1c := by decide
  have block : Reg.AXIS_CMP_HI k / 0x10000 = 2 := by
    simp only [Reg.AXIS_CMP_HI]
    omega
  have lo : Reg.AXIS_CMP_HI k / 8 * 8 = Reg.AXIS_CMP_LO k := by
    simp only [Reg.AXIS_CMP_HI, Reg.AXIS_CMP_LO]
    omega
  have index : (Reg.AXIS_CMP_LO k - 0x20100) / 8 = k := by
    simp only [Reg.AXIS_CMP_LO]
    omega
  rw [State.writeReg_axis s block (access k), State.writeAxis, if_neg (by simp only [Reg.AXIS_CMP_HI, Reg.AXIS_CFG]; omega),
    if_pos (by simp only [Reg.AXIS_CMP_HI]; omega)]
  simp only [lo, index]
  rw [if_pos (by simp only [Reg.AXIS_CMP_HI]; omega), State.pairWrite,
    if_neg (by simp only [Reg.AXIS_CMP_HI, Reg.AXIS_CMP_LO]; omega)]
  exact ⟨_, rfl⟩

/-- A host write that meets an action of its clock is lost. -/
theorem State.cmpHostWrite_acted {s : State} {k old : Nat} (h : s.loom.cmpActed = [(k, old)]) (n : Nat) :
    s.cmpHostWrite k n = s.hwSet F.AXIS_EVENTS_CMP_COLLIDE := by
  rw [State.cmpHostWrite, h, if_pos (by simp)]

/-- Settles O26: the value of the first and of a later action of a clock, and a host write that meets one. -/
theorem axisCompares : Obligations.AxisCompares := by
  unfold Obligations.AxisCompares
  refine ⟨?first, ?second, ?host⟩
  case first =>
    intro s k mode h ha hh hstep
    refine ⟨_, (exec_axisCmp h k mode).trans (congrArg _ (State.cmpAction_first ha hh k mode)), ?_⟩
    obtain ⟨value, same⟩ := s.set64_cmp_spec k (s.cmpValue_lt k mode (s.get64 (Reg.AXIS_CMP_LO k)))
    exact ⟨value.trans (s.cmpValue_eq k _ mode hstep), rfl, same⟩
  case second =>
    intro s k old h ha hh
    refine ⟨_, (exec_axisCmp h k 0).trans (congrArg _ (State.cmpAction_second ha hh _)), ?_⟩
    obtain ⟨value, same⟩ := s.set64_cmp_spec k (s.cmpValue_lt k 0 old)
    exact ⟨value, same⟩
  case host =>
    intro s k v old h ha
    obtain ⟨pair, out, e⟩ := State.hostWrite_taken_eq h v fun s => s.writeReg (Reg.AXIS_CMP_HI k) v
    obtain ⟨n, hn⟩ := s.writeReg_cmpHi k v
    rw [hn, State.cmpHostWrite_acted (s := (s.takeHeld (Reg.AXIS_CMP_LO k)).2) ha] at e
    obtain ⟨bit, same, -⟩ := (s.takeHeld (Reg.AXIS_CMP_LO k)).2.hwSet_spec (f := F.AXIS_EVENTS_CMP_COLLIDE) rfl rfl (by decide)
    have apart : Reg.AXIS_CMP_LO k ∉ [Reg.AXIS_EVENTS] ∧ Reg.AXIS_CMP_LO k + 4 ∉ [Reg.AXIS_EVENTS] := by
      simp only [Reg.AXIS_CMP_LO, Reg.AXIS_EVENTS, List.mem_singleton]
      omega
    exact ⟨_, congrArg Host.Outcome.next e, bit, same.get64 apart.1 apart.2, same⟩

end Sys2Proof.Machine
end

section
/-! PROOF. The axis estimator: what it reads, what the parts of its track say, and what its events leave
(spec/03_axis_and_loom.md R66 to R80). -/

namespace Sys2Proof.Machine

open Sys2Proof.Laws

/-! ### What the estimator reads (R67, R68, R80) -/

/-- Registers that no operation of the estimator writes: of those below the DMA's, all but AXIS.STATUS, AXIS.EVENTS, STEP_FROM
and STEP_TO. -/
abbrev AxisInput (o : Nat) : Prop :=
  o < 0x120000 ∧ (o < Reg.AXIS_STATUS ∨ Reg.AXIS_EVENTS < o) ∧ (o < Reg.AXIS_STEP_FROM_LO ∨ Reg.AXIS_STEP_TO_HI < o)

/-- t has what the estimator of s reads of registers and clock, but for the direction of motion. -/
structure AxisReads (s t : State) : Prop where
  input : Leaves AxisInput s t
  clk : t.time.clk = s.time.clk

/-- It has the direction of motion of s too, and its REVERSAL. -/
structure AxisSame (s t : State) : Prop extends AxisReads s t where
  down : t.bit F.AXIS_STATUS_DOWN = s.bit F.AXIS_STATUS_DOWN
  reversal : t.bit F.AXIS_EVENTS_REVERSAL = s.bit F.AXIS_EVENTS_REVERSAL

theorem AxisReads.trans {s t u : State} (a : AxisReads s t) (b : AxisReads t u) : AxisReads s u :=
  ⟨a.input.trans b.input, b.clk.trans a.clk⟩

theorem AxisSame.refl (s : State) : AxisSame s s := ⟨⟨Leaves.refl s, rfl⟩, rfl, rfl⟩

theorem AxisSame.trans {s t u : State} (a : AxisSame s t) (b : AxisSame t u) : AxisSame s u :=
  ⟨a.toAxisReads.trans b.toAxisReads, b.down.trans a.down, b.reversal.trans a.reversal⟩

section Reads

variable {s t : State} (h : AxisReads s t)
include h

theorem AxisReads.isTime : t.axisIsTime = s.axisIsTime := by
  rw [State.axisIsTime, h.input.getF F.AXIS_CFG_SOURCE (by decide), h.input.bit F.DRAFT_STATUS_COMPAT_ACTIVE (by decide),
    State.axisIsTime]

theorem AxisReads.tscOff : t.tscOff = s.tscOff := by
  rw [State.tscOff, State.tsc, State.get64, h.input.reg _ (by decide), h.input.reg _ (by decide), h.clk, State.tscOff,
    State.tsc, State.get64]

theorem AxisReads.modelTime (i : Instant) : t.modelTime i = s.modelTime i := by
  rw [State.modelTime, h.tscOff, State.modelTime]

theorem AxisReads.axisReg (hw : t.axis.wrote = s.axis.wrote) {o : Nat} (ho : AxisInput o) : t.axisReg o = s.axisReg o := by
  unfold State.axisReg
  rw [hw, h.input.reg o ho]

theorem AxisReads.axisField (hw : t.axis.wrote = s.axis.wrote) {o : Nat} (ho : AxisInput o) (lo w : Nat) :
    t.axisField o lo w = s.axisField o lo w := by
  rw [State.axisField, h.axisReg hw ho, State.axisField]

theorem AxisReads.axisAt (ht : t.axis.track = s.axis.track) (n : Int) : t.axisAt n = s.axisAt n := by
  simp only [State.axisAt, State.axisKnot, ht, h.isTime, h.tscOff]

theorem AxisReads.axisReported (ht : t.axis.track = s.axis.track) (n : Int) : t.axisReported n = s.axisReported n := by
  rw [State.axisReported, h.axisAt ht, State.axisReported]

end Reads

theorem AxisSame.noBackward {s t : State} (h : AxisSame s t) (ht : t.axis.track = s.axis.track) (pos : Int) :
    t.noBackward pos = s.noBackward pos := by
  have dir : t.axisDir = s.axisDir := by rw [State.axisDir, h.down, State.axisDir]
  simp only [State.noBackward, h.axisAt ht, dir, h.clk]

/-! ### What leaves it (R10, R75 to R78) -/

theorem AxisSame.of_regs {s t : State} (hr : t.regs = s.regs) (hc : t.time.clk = s.time.clk) : AxisSame s t :=
  ⟨⟨(Leaves.refl s).of_regs hr, hc⟩, by rw [State.bit, State.getF_congr hr, State.bit],
    by rw [State.bit, State.getF_congr hr, State.bit]⟩

/-- A field of AXIS.STATUS beside DOWN. -/
theorem AxisSame.setStatus (s : State) {f : Fld} (n : Nat) (hf : f.off = Reg.AXIS_STATUS) (fits : f.lo + f.w ≤ 32)
    (apart : f.lo + f.w ≤ 4 ∨ 5 ≤ f.lo) : AxisSame s (s.setF f n) :=
  ⟨⟨(Leaves.refl s).setF n (by rw [hf]; decide), rfl⟩, State.bit_setF_other _ _ _ _ fits (.inr apart.symm),
    State.bit_setF_other _ _ _ _ fits (.inl (by rw [hf]; decide))⟩

/-- A bit of AXIS.EVENTS beside REVERSAL. -/
theorem AxisSame.hwSet (s : State) {f : Fld} (hf : f.off = Reg.AXIS_EVENTS) (fits : f.lo + f.w ≤ 32)
    (apart : f.lo + f.w ≤ 5 ∨ 6 ≤ f.lo) : AxisSame s (s.hwSet f) := by
  have hv : flagVector f.off = none := by rw [hf]; rfl
  exact ⟨⟨(Leaves.refl s).hwSet_plain (by rw [hf]; decide) hv, (State.hwSet_keeps (Keeps.refl s) f).clock⟩,
    State.bit_hwSet_other s hv fits (.inl (by rw [hf]; decide)), State.bit_hwSet_other s hv fits (.inr apart.symm)⟩

theorem AxisSame.axisEvent (s : State) {b : Nat} (t : Option Instant) (hb : b < 5) : AxisSame s (s.axisEvent b t) :=
  (AxisSame.hwSet s (f := bitFld Reg.AXIS_EVENTS b) rfl (show b + 1 ≤ 32 by omega) (.inl (show b + 1 ≤ 5 by omega))).trans
    (AxisSame.of_regs rfl rfl)

/-- The registers of STEP_FROM or of STEP_TO. -/
theorem AxisSame.setStep (s : State) (n : Nat) :
    AxisSame s (s.set64 Reg.AXIS_STEP_FROM_LO n) ∧ AxisSame s (s.set64 Reg.AXIS_STEP_TO_LO n) := by
  have stays {lo o : Nat} (h : o < lo) : (s.set64 lo n).reg o = s.reg o := State.reg_set64_other s lo n (by omega) (by omega)
  have same {lo : Nat} (hlo : ¬ AxisInput lo) (hhi : ¬ AxisInput (lo + 4)) (hs : Reg.AXIS_STATUS < lo)
      (he : Reg.AXIS_EVENTS < lo) : AxisSame s (s.set64 lo n) :=
    ⟨⟨(Leaves.refl s).set64 n hlo hhi, rfl⟩,
      by rw [State.bit, State.getF_congr_reg (f := F.AXIS_STATUS_DOWN) (stays hs), State.bit],
      by rw [State.bit, State.getF_congr_reg (f := F.AXIS_EVENTS_REVERSAL) (stays he), State.bit]⟩
  exact ⟨same (by decide) (by decide) (by decide) (by decide), same (by decide) (by decide) (by decide) (by decide)⟩

/-- A black-box record leaves the registers below the DMA's. -/
theorem State.leaves_makeRecord (s : State) (src code : Nat) (p : List Byte) :
    Leaves (· < 0x120000) s (s.makeRecord src code p) :=
  (Leaves.refl s).makeRecord src code p fun o ho => by omega

theorem AxisSame.makeRecord (s : State) (src code : Nat) (p : List Byte) : AxisSame s (s.makeRecord src code p) := by
  have leaves := s.leaves_makeRecord src code p
  exact ⟨⟨leaves.mono fun o ho => ho.1, (State.makeRecord_keeps (Keeps.refl s) src code p).clock⟩,
    leaves.bit F.AXIS_STATUS_DOWN (by decide), leaves.bit F.AXIS_EVENTS_REVERSAL (by decide)⟩

@[simp] theorem State.axisEvent_axis (s : State) (b : Nat) (t : Option Instant) : (s.axisEvent b t).axis = s.axis :=
  State.hwSet_axis s (bitFld Reg.AXIS_EVENTS b)

/-- An axis event is reported to the Loom in the present clock (R85). -/
theorem State.axisEvent_loom (s : State) (b : Nat) (t : Option Instant) :
    (s.axisEvent b t).loom = { s.loom with events := (s.time.clk, .axis b t) :: s.loom.events } := by
  rw [State.axisEvent, State.reportEvent, State.hwSet_loom, (State.hwSet_keeps (Keeps.refl s) _).clock]

@[simp] theorem State.makeRecord_axis (s : State) (src code : Nat) (p : List Byte) :
    (s.makeRecord src code p).axis = s.axis := by
  have cross (u : State) (r : BbxRecord) : (u.crossCopy r).axis = u.axis := by
    unfold State.crossCopy
    split <;> rfl
  have room (u : State) : u.ringRoom.axis = u.axis := by
    unfold State.ringRoom
    split
    · rfl
    · exact State.rclAdd_axis u _ _
  unfold State.makeRecord State.pushRecord
  split
  · exact cross _ _
  · dsimp only
    split
    · exact (cross _ _).trans (room s)
    · rfl

/-! ### Parts of the track (R67, R70, R75) -/

/-- The part that comes into effect in the present clock. -/
def State.knotHere (s : State) (pos rate : Int) (st : Nat) (jump : Bool) : AxisKnot :=
  { clk := s.time.clk, pos := pos, rate := rate, st := st, jump := jump, down := s.bit F.AXIS_STATUS_DOWN }

@[simp] theorem State.axisKnotNow_axis (s : State) (pos rate : Int) (st : Nat) (jump : Bool) :
    (s.axisKnotNow pos rate st jump).axis = { s.axis with track := s.knotHere pos rate st jump :: s.axis.track } := rfl

theorem AxisSame.axisKnotNow (s : State) (pos rate : Int) (st : Nat) (jump : Bool) :
    AxisSame s (s.axisKnotNow pos rate st jump) :=
  AxisSame.trans (t := { s with axis := { s.axis with track := s.knotHere pos rate st jump :: s.axis.track } })
    (AxisSame.of_regs rfl rfl) (AxisSame.setStatus _ (f := F.AXIS_STATUS_STATE) st rfl (by decide) (by decide))

/-- The newest part of the track governs the clock in which it begins. -/
theorem State.axis_of_knot {t : State} {k : AxisKnot} {l : List AxisKnot} (h : t.axis.track = k :: l)
    (hk : k.clk = t.time.clk) (ht : t.axisIsTime = false) :
    t.axisAt t.time.clk = k.pos ∧ t.axisStAt t.time.clk = k.st ∧ t.axisRateAt t.time.clk = k.rate := by
  have knot : t.axisKnot t.time.clk = k := by
    rw [State.axisKnot, h, List.find?_cons_of_pos (by simp [hk])]
  refine ⟨?_, ?_, ?_⟩
  · simp only [State.axisAt, ht, Bool.false_eq_true, if_false, knot, hk, Int.sub_self, Int.mul_zero, Int.add_zero]
  · simp only [State.axisStAt, ht, Bool.false_eq_true, if_false, knot]
  · simp only [State.axisRateAt, ht, Bool.false_eq_true, if_false, knot]

/-- An external source is no time axis (R68). -/
theorem State.axisIsTime_external {s : State} {n : Nat} (hs : s.getF F.AXIS_CFG_SOURCE = n) (hn : n ≠ 0)
    (hc : s.bit F.DRAFT_STATUS_COMPAT_ACTIVE = false) : s.axisIsTime = false := by
  simp [State.axisIsTime, hs, hn, hc]

end Sys2Proof.Machine
end

section
/-! PROOF. The choice of the axis source, COAST, STALLED and the index latch (spec/03_axis_and_loom.md R66, R68, R69, R75,
R80). -/

namespace Sys2Proof.Machine

open Sys2Proof.Laws

/-! ### The choice of source (R69) -/

/-- A field all of whose bits are writable takes what is written. -/
theorem fieldOf_mergeWrite (old v : Word) {mask : Word} {lo w : Nat} (h : ∀ i < w, mask.getLsbD (lo + i) = true) :
    fieldOf (mergeWrite old mask v) lo w = fieldOf v lo w := by
  apply Nat.eq_of_testBit_eq
  intro i
  rw [fieldOf_testBit, fieldOf_testBit]
  by_cases hi : i < w
  · simp only [mergeWrite, BitVec.getLsbD_or, BitVec.getLsbD_and, BitVec.getLsbD_not, h i hi, Bool.not_true, Bool.and_false,
      Bool.false_or, Bool.and_true]
  · simp [hi]

theorem State.source_storeReg (s : State) (v : Word) :
    (s.storeReg Reg.AXIS_CFG v).getF F.AXIS_CFG_SOURCE = fieldOf v 0 2 := by
  rw [State.getF, F.AXIS_CFG_SOURCE, State.storeReg, State.reg_setReg_same]
  exact fieldOf_mergeWrite _ _ (by decide)

/-- A write of AXIS.CFG in IDLE that chooses no reserved source. -/
theorem State.axisCfg_idle {s : State} (hcur : s.cur = .idle) {v : Word} (hv : fieldOf v 0 2 ≠ 3)
    (hc : s.bit F.DRAFT_STATUS_COMPAT_ACTIVE = false) :
    s.axisCfg v = if fieldOf v 0 2 = s.getF F.AXIS_CFG_SOURCE then s.storeReg Reg.AXIS_CFG v
      else (s.storeReg Reg.AXIS_CFG v).axisRestart := by
  unfold State.axisCfg
  rw [hc, if_neg Bool.false_ne_true, hcur]
  dsimp only
  rw [if_neg (by simp [hv]), State.source_storeReg]

theorem State.axisCfg_busy {s : State} (hcur : s.cur ≠ .idle) (v : Word) : s.axisCfg v = s.hwSet F.FLT_HOST_AXIS_BUSY := by
  unfold State.axisCfg
  dsimp only
  rw [if_pos (by simp [hcur])]

/-- The estimator with no track, and its motion upward. -/
def State.axisCleared (s : State) : State :=
  ((({ s with axis := { AxisSt.init with a := s.axis.a, b := s.axis.b, wrote := s.axis.wrote } } : State).setBit
    F.AXIS_STATUS_DOWN false).setBit F.AXIS_STATUS_SLEWING false)

theorem State.sameRegsBut_axisCleared (s : State) : s.SameRegsBut s.axisCleared [Reg.AXIS_STATUS] := by
  have same : s.SameRegsBut ({ s with axis := { AxisSt.init with a := s.axis.a, b := s.axis.b, wrote := s.axis.wrote } } : State)
    [Reg.AXIS_STATUS] := fun _ _ => rfl
  exact (same.setF F.AXIS_STATUS_DOWN _ (by decide)).setF F.AXIS_STATUS_SLEWING _ (by decide)

/-- Whether time is the axis shows in AXIS.CFG and DRAFT.STATUS. -/
theorem State.axisIsTime_congr {s t : State} {l : List Nat} (h : s.SameRegsBut t l) (hcfg : Reg.AXIS_CFG ∉ l)
    (hcompat : Reg.DRAFT_STATUS ∉ l) : t.axisIsTime = s.axisIsTime := by
  rw [State.axisIsTime, State.bit, State.getF_congr_reg (f := F.AXIS_CFG_SOURCE) (h _ hcfg),
    State.getF_congr_reg (f := F.DRAFT_STATUS_COMPAT_ACTIVE) (h _ hcompat), State.axisIsTime, State.bit]

theorem State.axisRestart_time {s : State} (h : s.axisIsTime = true) :
    s.axisRestart = (s.axisCleared.setBit F.AXIS_STATUS_NEVER_LOCKED false).setF F.AXIS_STATUS_STATE 0 :=
  if_pos ((State.axisIsTime_congr s.sameRegsBut_axisCleared (by decide) (by decide)).trans h)

theorem State.axisRestart_external {s : State} (h : s.axisIsTime = false) :
    s.axisRestart = (s.axisCleared.axisKnotNow 0 0 2 true).setBit F.AXIS_STATUS_NEVER_LOCKED true :=
  if_neg (by rw [← State.axisIsTime_congr s.sameRegsBut_axisCleared (by decide) (by decide)] at h; exact ne_true_of_eq_false h)

theorem State.sameRegsBut_axisRestart (s : State) : s.SameRegsBut s.axisRestart [Reg.AXIS_STATUS] := by
  have mem : Reg.AXIS_STATUS ∈ [Reg.AXIS_STATUS] := List.mem_cons_self
  cases h : s.axisIsTime with
  | true =>
    rw [State.axisRestart_time h]
    exact (s.sameRegsBut_axisCleared.setF F.AXIS_STATUS_NEVER_LOCKED _ mem).setF F.AXIS_STATUS_STATE _ mem
  | false =>
    rw [State.axisRestart_external h]
    have knot : s.SameRegsBut (s.axisCleared.axisKnotNow 0 0 2 true) [Reg.AXIS_STATUS] :=
      s.sameRegsBut_axisCleared.trans (State.sameRegsBut_setF ({ s.axisCleared with axis := { s.axisCleared.axis with
        track := s.axisCleared.knotHere 0 0 2 true :: s.axisCleared.axis.track } } : State) F.AXIS_STATUS_STATE 2)
    exact knot.setF F.AXIS_STATUS_NEVER_LOCKED _ mem

/-- An external source begins in STALLED at the position zero, without a first edge (R69). -/
theorem State.axisRestart_spec {s : State} (h : s.axisIsTime = false) :
    s.axisRestart.axisStAt s.axisRestart.time.clk = 2 ∧ s.axisRestart.axisAt s.axisRestart.time.clk = 0 ∧
      s.axisRestart.bit F.AXIS_STATUS_NEVER_LOCKED = true ∧ s.axisRestart.axis.rate = 0 := by
  have restart := State.axisRestart_external h
  have track : s.axisRestart.axis.track = [s.axisCleared.knotHere 0 0 2 true] := by rw [restart]; rfl
  have clk : s.time.clk = s.axisRestart.time.clk := by rw [restart]; rfl
  obtain ⟨pos, st, -⟩ := State.axis_of_knot track clk
    ((State.axisIsTime_congr s.sameRegsBut_axisRestart (by decide) (by decide)).trans h)
  refine ⟨st, pos, ?_, ?_⟩
  · rw [restart]
    exact State.bit_setBit_same _ _ true (by decide) rfl
  · rw [restart]
    rfl

/-! ### COAST and STALLED (R75, R76) -/

/-- Hardware sets a bit whose register raises a vector: that bit, and the pending bit of a vector that is held back (R324, R421). -/
theorem State.hwSet_vector_spec (s : State) {f m : Fld} (hv : flagVector f.off = some m) (hm : m.w = 6) (hf : f.off ∉ pbaRegs)
    (hw : f.w = 1) (hlo : f.lo < 32) :
    (s.hwSet f).bit f = true ∧ s.SameRegsBut (s.hwSet f) (f.off :: pbaRegs) := by
  have raises : s.hwSet f = ((s.countOcc f).setF f 1).raiseVector (((s.countOcc f).setF f 1).getF m) := by
    unfold State.hwSet
    simp only [hv]
  have vector := State.getF_lt ((s.countOcc f).setF f 1) m
  rw [hm] at vector
  have raised := State.sameRegsBut_raiseVector ((s.countOcc f).setF f 1) vector
  rw [raises]
  refine ⟨?_, fun o ho => ?_⟩
  · rw [State.bit, State.getF_congr_reg (raised f.off hf)]
    exact State.bit_setF_one (s.countOcc f) f hw hlo
  · rw [List.mem_cons, not_or] at ho
    rw [raised o ho.2, State.reg_setF_other _ _ _ ho.1, State.reg_countOcc]

/-- The estimator goes on without edges from the position that it is at: in COAST or in STALLED. -/
def State.goesOn (s : State) (rate : Int) (st : Nat) (lastEdge : Option Int) (f : Fld) : State :=
  let u := (s.axisKnotNow (s.axisAt s.time.clk) rate st false).setBit F.AXIS_STATUS_SLEWING false
  let u : State := { u with axis := { u.axis with rate := rate, lastEdge := lastEdge, slew := 0 } }
  (u.axisEvent (st - 1) none).hwSet f

theorem exec_enterCoast {s : State} (ho : s.operational = true) (ht : s.axisIsTime = false)
    (hst : s.axisStAt s.time.clk = 0) (hr : s.axis.rate ≠ 0) :
    exec .enterCoast s = .next (s.goesOn s.axis.rate 1 s.axis.lastEdge F.FLT_CLASS_AXIS_COAST) :=
  congrArg Host.Outcome.next (if_pos (by simp [ho, ht, hst, hr]))

theorem exec_enterStalled {s : State} (ho : s.operational = true) (ht : s.axisIsTime = false)
    (hst : s.axisStAt s.time.clk ≠ 2) :
    exec .enterStalled s = .next (s.goesOn 0 2 none F.FLT_CLASS_AXIS_STALL) :=
  congrArg Host.Outcome.next (if_pos (by simp [ho, ht, hst]))

theorem State.goesOn_spec {s : State} (ht : s.axisIsTime = false) (rate : Int) {st : Nat} (hst : st < 4) (lastEdge : Option Int)
    {f : Fld} (hf : f.off = Reg.FLT_CLASS) (hw : f.w = 1) (hlo : f.lo < 32) {t : State} (e : t = s.goesOn rate st lastEdge f) :
    t.axisStAt t.time.clk = st ∧ t.axisAt t.time.clk = s.axisAt s.time.clk ∧ t.axisRateAt t.time.clk = rate ∧
      t.axis.rate = rate ∧ t.axis.slew = 0 ∧ t.bit F.AXIS_STATUS_SLEWING = false ∧ t.getF F.AXIS_STATUS_STATE = st ∧
      t.bit f = true ∧ s.SameRegsBut t (Reg.AXIS_STATUS :: Reg.AXIS_EVENTS :: Reg.FLT_CLASS :: pbaRegs) := by
  let k := s.knotHere (s.axisAt s.time.clk) rate st false
  let ax : AxisSt := { s.axis with track := k :: s.axis.track, rate := rate, lastEdge := lastEdge, slew := 0 }
  let u : State := { (s.axisKnotNow (s.axisAt s.time.clk) rate st false).setBit F.AXIS_STATUS_SLEWING false with axis := ax }
  have regs : s.SameRegsBut u [Reg.AXIS_STATUS] := by
    have begins : s.SameRegsBut ({ s with axis := { s.axis with track := k :: s.axis.track } } : State) [Reg.AXIS_STATUS] :=
      fun _ _ => rfl
    exact (begins.setF F.AXIS_STATUS_STATE st (by decide)).setF F.AXIS_STATUS_SLEWING 0 (by decide)
  have slewing : u.bit F.AXIS_STATUS_SLEWING = false := State.bit_setBit_same _ _ false (by decide) rfl
  have state : u.getF F.AXIS_STATUS_STATE = st := by
    refine (State.getF_setF_other _ F.AXIS_STATUS_SLEWING F.AXIS_STATUS_STATE 0 (by decide) (by decide)).trans ?_
    exact (State.getF_setF_same _ F.AXIS_STATUS_STATE st (by decide)).trans (Nat.mod_eq_of_lt hst)
  let w := u.axisEvent (st - 1) none
  have event : u.SameRegsBut w [Reg.AXIS_EVENTS] := State.sameRegsBut_hwSet u (f := bitFld Reg.AXIS_EVENTS (st - 1)) rfl
  obtain ⟨bit, fault⟩ := w.hwSet_vector_spec (f := f) (by rw [hf]; rfl) rfl (by rw [hf]; decide) hw hlo
  obtain rfl : t = w.hwSet f := e
  rw [hf] at fault
  have status : (w.hwSet f).reg Reg.AXIS_STATUS = u.reg Reg.AXIS_STATUS :=
    (fault _ (by decide)).trans (event _ (by decide))
  have same : s.SameRegsBut (w.hwSet f) (Reg.AXIS_STATUS :: Reg.AXIS_EVENTS :: Reg.FLT_CLASS :: pbaRegs) :=
    ((regs.mono (by decide)).trans (event.mono (by decide))).trans (fault.mono (by decide))
  have axis : (w.hwSet f).axis = ax := (State.hwSet_axis w f).trans (State.axisEvent_axis u _ _)
  have clk : s.time.clk = (w.hwSet f).time.clk :=
    (((State.hwSet_keeps (Keeps.refl w) f).clock).trans (AxisSame.axisEvent u none (by omega)).clk).symm
  obtain ⟨pos, stAt, rateAt⟩ := State.axis_of_knot (congrArg AxisSt.track axis) clk
    ((State.axisIsTime_congr same (by decide) (by decide)).trans ht)
  refine ⟨stAt, pos, rateAt, congrArg AxisSt.rate axis, congrArg AxisSt.slew axis, ?_, ?_, bit, same⟩
  · rw [State.bit, State.getF_congr_reg (f := F.AXIS_STATUS_SLEWING) status]
    exact slewing
  · rw [State.getF_congr_reg (f := F.AXIS_STATUS_STATE) status, state]

/-! ### The time axis, and the index latch (R68, R80) -/

theorem State.axisAt_time {s : State} (h : s.axisIsTime = true) :
    s.axisAt s.time.clk = (s.tsc : Int) * axisUnit ∧ s.axisReported s.time.clk = (s.tsc : Int) * 2 ^ 16 := by
  have pos : s.axisAt s.time.clk = (s.tsc : Int) * axisUnit := by
    rw [State.axisAt, if_pos h, State.tscOff, axisUnit]
    ring
  refine ⟨pos, ?_⟩
  rw [State.axisReported, pos, axisUnit]
  omega

theorem exec_axisIndexEdge {s : State} (ho : s.operational = true) (hm : s.getF F.AXIS_CFG_INDEX_MODE = 1) {hold : Nat}
    (hh : s.getF F.AXIS_CFG_FILTER ≤ hold) (e : Instant) :
    exec (.axisIndexEdge e hold) s = .next ((s.set64 Reg.AXIS_Z_LATCH_LO (toBitsInt 64 (s.axisHeader (edgeStamp e)))).axisEvent 4
      (some (edgeStamp e))) := by
  have hexec : exec (.axisIndexEdge e hold) s = execAxisIndexEdge e s hold := rfl
  rw [hexec, execAxisIndexEdge]
  simp [ho, hm, State.axisAccepts, hh]

/-- Settles O24: what a write of AXIS.CFG stores and starts, the position on the time axis, what COAST and STALLED share, and the
latch of an index edge. -/
theorem axisSource : Obligations.AxisSource := by
  unfold Obligations.AxisSource
  refine ⟨?chosen, ?busy, ?time, ?coast, ?stalled, ?index⟩
  case chosen =>
    intro s v h hcur hv hc
    obtain ⟨pair, out, e⟩ := State.hostWrite_taken_eq h v fun s => s.axisCfg v
    rw [State.axisCfg_idle hcur hv hc] at e
    have stored := s.sameRegsBut_storeReg Reg.AXIS_CFG v
    by_cases hs : fieldOf v 0 2 = s.getF F.AXIS_CFG_SOURCE
    · rw [if_pos hs] at e
      exact ⟨_, congrArg Host.Outcome.next e, s.reg_storeReg _ v, stored.mono (by decide), fun _ => rfl, fun hn => absurd hs hn⟩
    · rw [if_neg hs] at e
      have restart := (s.storeReg Reg.AXIS_CFG v).sameRegsBut_axisRestart
      refine ⟨_, congrArg Host.Outcome.next e, (restart _ (by decide)).trans (s.reg_storeReg _ v),
        (stored.mono (by decide)).trans (restart.mono (by decide)), fun he => absurd he hs, fun _ hn => ?_⟩
      refine State.axisRestart_spec (State.axisIsTime_external (s.source_storeReg v) hn ?_)
      rw [State.bit, State.getF_congr_reg (f := F.DRAFT_STATUS_COMPAT_ACTIVE) (stored _ (by decide))]
      exact hc
  case busy =>
    intro s v h hr
    have hcur : s.cur ≠ .idle := by
      intro hcur
      simp [State.running, hcur] at hr
    obtain ⟨pair, out, e⟩ := State.hostWrite_taken_eq h v fun s => s.axisCfg v
    rw [State.axisCfg_busy hcur] at e
    obtain ⟨bit, same, -⟩ := s.hwSet_fltHost_spec (f := F.FLT_HOST_AXIS_BUSY) rfl rfl (by decide)
    exact ⟨_, congrArg Host.Outcome.next e, bit, State.hwSet_axis s _, same⟩
  case time =>
    intro s h
    have ht : s.axisIsTime = true := by simpa [State.axisIsTime] using h
    obtain ⟨pos, reported⟩ := State.axisAt_time ht
    exact ⟨pos, reported, fun n => if_pos ht⟩
  case coast =>
    intro s ho ht hst hr
    obtain ⟨stAt, pos, rateAt, -, slew, slewing, state, bit, same⟩ :=
      State.goesOn_spec ht s.axis.rate (st := 1) (by decide) s.axis.lastEdge (f := F.FLT_CLASS_AXIS_COAST) rfl rfl (by decide) rfl
    exact ⟨_, exec_enterCoast ho ht hst hr, stAt, pos, rateAt, slew, slewing, state, bit, same⟩
  case stalled =>
    intro s ho ht hst
    obtain ⟨stAt, pos, rateAt, rate, -, -, state, bit, same⟩ :=
      State.goesOn_spec ht 0 (st := 2) (by decide) none (f := F.FLT_CLASS_AXIS_STALL) rfl rfl (by decide) rfl
    exact ⟨_, exec_enterStalled ho ht hst, stAt, pos, rateAt, rate, state, bit, same⟩
  case index =>
    intro s e hold ho hm hh
    refine ⟨_, exec_axisIndexEdge ho hm hh e, ?_⟩
    generalize hn : toBitsInt 64 (s.axisHeader (edgeStamp e)) = n
    have hlt : n < 2 ^ 64 := hn ▸ toBitsInt_lt 64 _
    obtain ⟨bit, event, -⟩ := (s.set64 Reg.AXIS_Z_LATCH_LO n).hwSet_spec (f := F.AXIS_EVENTS_INDEX) rfl rfl (by decide)
    have latched := s.sameRegsBut_set64 Reg.AXIS_Z_LATCH_LO n
    refine ⟨?_, bit, ?_, State.axisEvent_axis _ _ _, (latched.mono (by decide)).trans (event.mono (by decide))⟩
    · refine (event.get64 (by decide) (by decide)).trans ?_
      rw [State.get64_set64_same, Nat.mod_eq_of_lt hlt]
    · rw [State.axisEvent_loom]
      rfl

end Sys2Proof.Machine
end

section
/-! PROOF. The edges of an external axis: an edge with its true position, the steps of the quadrature inputs, and the glitch
filter (spec/03_axis_and_loom.md R70 to R78). -/

namespace Sys2Proof.Machine

open Sys2Proof.Laws

/-! ### A new part of the track -/

/-- t is s with a part k added to its track in the present clock, and with an error for a SLEW to absorb. -/
structure Knotted (s t : State) (k : AxisKnot) : Prop where
  same : AxisSame s t
  axis : ∃ slew, t.axis = { s.axis with track := k :: s.axis.track, slew := slew }
  clk : k.clk = s.time.clk

theorem Knotted.now (s : State) (pos rate : Int) (st : Nat) (jump : Bool) :
    Knotted s (s.axisKnotNow pos rate st jump) (s.knotHere pos rate st jump) :=
  ⟨AxisSame.axisKnotNow s pos rate st jump, ⟨s.axis.slew, rfl⟩, rfl⟩

theorem Knotted.before {s t u : State} {k : AxisKnot} (h : AxisSame s t) (ha : t.axis = s.axis) (hk : Knotted t u k) :
    Knotted s u k := by
  obtain ⟨same, ⟨slew, axis⟩, clk⟩ := hk
  exact ⟨h.trans same, ⟨slew, by rw [axis, ha]⟩, clk.trans h.clk⟩

theorem Knotted.after {s t u : State} {k : AxisKnot} (hk : Knotted s t k) (h : AxisSame t u) (ha : u.axis = t.axis) :
    Knotted s u k := by
  obtain ⟨same, ⟨slew, axis⟩, clk⟩ := hk
  exact ⟨same.trans h, ⟨slew, ha.trans axis⟩, clk⟩

/-- The position and the state in the present clock are those of the new part. -/
theorem Knotted.values {s t : State} {k : AxisKnot} (hk : Knotted s t k) (ht : s.axisIsTime = false) :
    t.axisAt t.time.clk = k.pos ∧ t.axisStAt t.time.clk = k.st := by
  obtain ⟨same, ⟨slew, axis⟩, clk⟩ := hk
  obtain ⟨pos, st, -⟩ := State.axis_of_knot (congrArg AxisSt.track axis) (clk.trans same.clk.symm) (same.isTime.trans ht)
  exact ⟨pos, st⟩

/-! ### STEP (R77, R78) -/

/-- A STEP up to its event and its record. -/
def State.stepsTo (s : State) (pos rate : Int) : State :=
  ((s.axisKnotNow pos rate 0 true).set64 Reg.AXIS_STEP_FROM_LO (toBitsInt 64 (s.axisReported (s.time.clk - 1)))).set64
    Reg.AXIS_STEP_TO_LO (toBitsInt 64 (pos / 2 ^ 32))

theorem State.axisStep_eq (s : State) (pos rate : Int) (t : Instant) :
    ∃ payload, s.axisStep pos rate t = ((s.stepsTo pos rate).axisEvent 3 (some t)).makeRecord 6 1 payload := ⟨_, rfl⟩

theorem Knotted.step (s : State) (pos rate : Int) (t : Instant) :
    Knotted s (s.axisStep pos rate t) (s.knotHere pos rate 0 true) := by
  obtain ⟨payload, e⟩ := s.axisStep_eq pos rate t
  rw [e]
  have steps : Knotted s (s.stepsTo pos rate) (s.knotHere pos rate 0 true) :=
    (((Knotted.now s pos rate 0 true).after (AxisSame.setStep _ _).1 rfl).after (AxisSame.setStep _ _).2 rfl)
  exact (steps.after (AxisSame.axisEvent _ (some t) (by decide)) (State.axisEvent_axis _ _ _)).after (AxisSame.makeRecord _ _ _ _)
    (State.makeRecord_axis _ _ _ _)

/-- A STEP reports where it came from and where it leads. -/
theorem State.axisStep_spec (s : State) (pos rate : Int) (t : Instant) :
    (s.axisStep pos rate t).get64 Reg.AXIS_STEP_TO_LO = toBitsInt 64 (pos / 2 ^ 32) ∧
      (s.axisStep pos rate t).get64 Reg.AXIS_STEP_FROM_LO = toBitsInt 64 (s.axisReported (s.time.clk - 1)) ∧
      (s.axisStep pos rate t).bit F.AXIS_EVENTS_STEP = true ∧
      (s.axisStep pos rate t).bit F.AXIS_EVENTS_PHASE_ALARM = s.bit F.AXIS_EVENTS_PHASE_ALARM := by
  obtain ⟨payload, e⟩ := s.axisStep_eq pos rate t
  rw [e]
  let u := s.stepsTo pos rate
  let w := u.axisEvent 3 (some t)
  have record := w.leaves_makeRecord 6 1 payload
  obtain ⟨bit, event, -⟩ := u.hwSet_spec (f := F.AXIS_EVENTS_STEP) rfl rfl (by decide)
  have same : u.SameRegsBut w [Reg.AXIS_EVENTS] := event
  have events : u.reg Reg.AXIS_EVENTS = s.reg Reg.AXIS_EVENTS := by
    refine (State.reg_set64_other _ _ _ (by decide) (by decide)).trans ?_
    exact (State.reg_set64_other _ _ _ (by decide) (by decide)).trans (State.reg_setF_other _ F.AXIS_STATUS_STATE 0 (by decide))
  have pair {lo : Nat} (hlo : lo + 4 < 0x120000) (h : lo ∉ [Reg.AXIS_EVENTS]) (h' : lo + 4 ∉ [Reg.AXIS_EVENTS]) :
      (w.makeRecord 6 1 payload).get64 lo = u.get64 lo := by
    rw [State.get64, record.reg lo (by omega), record.reg (lo + 4) hlo, same lo h, same (lo + 4) h', State.get64]
  refine ⟨?_, ?_, ?_, ?_⟩
  · rw [pair (by decide) (by decide) (by decide)]
    exact (State.get64_set64_same _ _ _).trans (Nat.mod_eq_of_lt (toBitsInt_lt 64 _))
  · rw [pair (by decide) (by decide) (by decide)]
    refine ((State.sameRegsBut_set64 _ Reg.AXIS_STEP_TO_LO _).get64 (by decide) (by decide)).trans ?_
    exact (State.get64_set64_same _ _ _).trans (Nat.mod_eq_of_lt (toBitsInt_lt 64 _))
  · exact (record.bit F.AXIS_EVENTS_STEP (by decide)).trans bit
  · refine (record.bit F.AXIS_EVENTS_PHASE_ALARM (by decide)).trans ?_
    refine (State.bit_hwSet_other u (f := F.AXIS_EVENTS_STEP) rfl (by decide) (by decide)).trans ?_
    rw [State.bit, State.getF_congr_reg (f := F.AXIS_EVENTS_PHASE_ALARM) events, State.bit]

/-! ### An edge with its true position (R69, R70, R75 to R78) -/

/-- The rate that an edge gives; the first one after a reversal gives none (R71). -/
def State.edgeGives (s : State) (t : Instant) (truePos : Int) (fresh : Bool) : Int :=
  s.forwardRate (if s.axisStAt s.time.clk = 2 || fresh then 0
    else if s.axis.rate = 0 then
      match s.axis.lastEdge with
      | some t0 => edgeRate s.axis.lastTrue truePos t0 (s.modelTime t)
      | none => 0
    else Config.trackRate s.axis.rate (truePos - s.axisAtTime (s.modelTime t)) (max 1 (s.axisField Reg.AXIS_LOOP 0 4))
      (s.modelTime t - (s.axis.lastEdge.getD (s.modelTime t))))

theorem State.edgeGives_fresh (s : State) (t : Instant) (truePos : Int) : s.edgeGives t truePos true = 0 := by
  unfold State.edgeGives State.forwardRate
  rw [Bool.or_true, if_pos rfl]
  split <;> rfl

/-- The estimator with the edge noted, before its position is corrected. -/
def State.notesEdge (s : State) (t : Instant) (truePos : Int) (fresh : Bool) : State :=
  ({ s with axis := { s.axis with
    rate := s.edgeGives t truePos fresh, lastEdge := some (s.modelTime t), lastTrue := truePos, slew := 0 } } : State).setBit
      F.AXIS_STATUS_SLEWING false

theorem AxisSame.notesEdge (s : State) (t : Instant) (truePos : Int) (fresh : Bool) :
    AxisSame s (s.notesEdge t truePos fresh) :=
  AxisSame.trans (t := { s with axis := { s.axis with
      rate := s.edgeGives t truePos fresh, lastEdge := some (s.modelTime t), lastTrue := truePos, slew := 0 } })
    (AxisSame.of_regs rfl rfl) (AxisSame.setStatus _ (f := F.AXIS_STATUS_SLEWING) 0 rfl (by decide) (by decide))

/-- The same, with the return to TRACK reported. -/
def State.returnsToTrack (s : State) (t : Instant) (truePos : Int) (fresh : Bool) : State :=
  if s.axisStAt s.time.clk = 0 then s.notesEdge t truePos fresh else (s.notesEdge t truePos fresh).axisEvent 2 (some t)

theorem State.returnsToTrack_spec (s : State) (t : Instant) (truePos : Int) (fresh : Bool) :
    AxisSame (s.notesEdge t truePos fresh) (s.returnsToTrack t truePos fresh) ∧
      (s.returnsToTrack t truePos fresh).axis = (s.notesEdge t truePos fresh).axis ∧
      (s.returnsToTrack t truePos fresh).bit F.AXIS_EVENTS_PHASE_ALARM = s.bit F.AXIS_EVENTS_PHASE_ALARM := by
  have noted : (s.notesEdge t truePos fresh).bit F.AXIS_EVENTS_PHASE_ALARM = s.bit F.AXIS_EVENTS_PHASE_ALARM :=
    State.bit_setBit_other _ F.AXIS_STATUS_SLEWING _ false (by decide) (by decide)
  unfold State.returnsToTrack
  split
  · exact ⟨AxisSame.refl _, rfl, noted⟩
  · refine ⟨AxisSame.axisEvent _ _ (by decide), State.axisEvent_axis _ _ _, Eq.trans ?_ noted⟩
    exact State.bit_hwSet_other _ (f := F.AXIS_EVENTS_RETURN) rfl (by decide) (by decide)

/-- A SLEW toward the true position begins (R77). -/
def State.slewsTo (s : State) (pos rate err : Int) : State :=
  let eff := if decide (0 ≤ err) == decide (0 ≤ rate) then rate * 257 / 256 else rate * 255 / 256
  let u := (s.axisKnotNow pos eff 0 false).setBit F.AXIS_STATUS_SLEWING true
  { u with axis := { u.axis with slew := err } }

theorem Knotted.slew (s : State) (pos rate err : Int) : ∃ k, Knotted s (s.slewsTo pos rate err) k ∧ k.st = 0 := by
  let eff := if decide (0 ≤ err) == decide (0 ≤ rate) then rate * 257 / 256 else rate * 255 / 256
  obtain ⟨same, -, clk⟩ := (Knotted.now s pos eff 0 false).after
    (AxisSame.setStatus _ (f := F.AXIS_STATUS_SLEWING) 1 rfl (by decide) (by decide)) rfl
  exact ⟨_, ⟨same.trans (AxisSame.of_regs rfl rfl), ⟨err, rfl⟩, clk⟩, rfl⟩

section Edge

variable (s : State) (t : Instant) (truePos : Int) (fresh : Bool)

/-- The error of the estimate at an edge is above the threshold (R77). -/
abbrev State.beyondThresh : Prop :=
  (s.axisReg Reg.AXIS_PHASE_THRESH).toNat * 2 ^ 32 < (truePos - s.axisAtTime (s.modelTime t)).natAbs

/-- The ways through an edge: the first one after the choice of source, an error above the threshold, which the policy meets with a
STEP or a SLEW, and the tracking loop. -/
theorem State.axisEdge_cases :
    (s.bit F.AXIS_STATUS_NEVER_LOCKED = true ∧ s.axisEdge t truePos fresh =
      ((s.notesEdge t truePos fresh).axisKnotNow truePos 0 0 true).setBit F.AXIS_STATUS_NEVER_LOCKED false) ∨
    (s.bit F.AXIS_STATUS_NEVER_LOCKED = false ∧ s.beyondThresh t truePos ∧
      (s.axisField Reg.AXIS_POLICY 0 1 = 0 ∨ s.axis.rate = 0) ∧ s.axisEdge t truePos fresh =
      ((s.returnsToTrack t truePos fresh).hwSet F.AXIS_EVENTS_PHASE_ALARM).axisStep truePos (s.edgeGives t truePos fresh) t) ∨
    (s.bit F.AXIS_STATUS_NEVER_LOCKED = false ∧ s.beyondThresh t truePos ∧
      ¬ (s.axisField Reg.AXIS_POLICY 0 1 = 0 ∨ s.axis.rate = 0) ∧ ∃ pos, s.axisEdge t truePos fresh =
      ((s.returnsToTrack t truePos fresh).hwSet F.AXIS_EVENTS_PHASE_ALARM).slewsTo pos (s.edgeGives t truePos fresh)
        (truePos - s.axisAtTime (s.modelTime t))) ∨
    (s.bit F.AXIS_STATUS_NEVER_LOCKED = false ∧ ¬ s.beyondThresh t truePos ∧ ∃ pos jump, s.axisEdge t truePos fresh =
      (s.returnsToTrack t truePos fresh).axisKnotNow ((s.returnsToTrack t truePos fresh).noBackward pos)
        (s.edgeGives t truePos fresh) 0 jump) := by
  let u := s.returnsToTrack t truePos fresh
  obtain ⟨returned, axis, -⟩ := s.returnsToTrack_spec t truePos fresh
  have reads : AxisSame s u := (AxisSame.notesEdge s t truePos fresh).trans returned
  have wrote : u.axis.wrote = s.axis.wrote := (congrArg AxisSt.wrote axis).trans rfl
  have thresh : u.axisReg Reg.AXIS_PHASE_THRESH = s.axisReg Reg.AXIS_PHASE_THRESH := reads.axisReg wrote (by decide)
  have policy : (u.hwSet F.AXIS_EVENTS_PHASE_ALARM).axisField Reg.AXIS_POLICY 0 1 = s.axisField Reg.AXIS_POLICY 0 1 :=
    (reads.trans (AxisSame.hwSet u (f := F.AXIS_EVENTS_PHASE_ALARM) rfl (by decide) (by decide))).axisField
      ((congrArg AxisSt.wrote (State.hwSet_axis u _)).trans wrote) (by decide) 0 1
  have later (h : s.bit F.AXIS_STATUS_NEVER_LOCKED = false) : s.axisEdge t truePos fresh =
      if (u.axisReg Reg.AXIS_PHASE_THRESH).toNat * 2 ^ 32 < (truePos - s.axisAtTime (s.modelTime t)).natAbs then
        if (u.hwSet F.AXIS_EVENTS_PHASE_ALARM).axisField Reg.AXIS_POLICY 0 1 = 0 ∨ s.axis.rate = 0 then
          (u.hwSet F.AXIS_EVENTS_PHASE_ALARM).axisStep truePos (s.edgeGives t truePos fresh) t
        else (u.hwSet F.AXIS_EVENTS_PHASE_ALARM).slewsTo ((u.hwSet F.AXIS_EVENTS_PHASE_ALARM).axisAt s.time.clk)
          (s.edgeGives t truePos fresh) (truePos - s.axisAtTime (s.modelTime t))
      else if s.axisStAt s.time.clk = 2 || s.axis.rate = 0 then
        u.axisKnotNow (u.noBackward truePos) (s.edgeGives t truePos fresh) 0 true
      else u.axisKnotNow (u.noBackward (u.axisAt s.time.clk + Config.trackPos (truePos - s.axisAtTime (s.modelTime t))
        (max 1 (u.axisField Reg.AXIS_LOOP 0 4)))) (s.edgeGives t truePos fresh) 0 false := by
    unfold State.axisEdge
    dsimp only
    rw [if_neg (by simp [h])]
    rfl
  by_cases never : s.bit F.AXIS_STATUS_NEVER_LOCKED = true
  · refine .inl ⟨never, ?_⟩
    unfold State.axisEdge
    dsimp only
    rw [if_pos never]
    rfl
  · have locked := eq_false_of_ne_true never
    have edge := later locked
    rw [thresh, policy] at edge
    by_cases beyond : s.beyondThresh t truePos
    · rw [if_pos beyond] at edge
      by_cases hp : s.axisField Reg.AXIS_POLICY 0 1 = 0 ∨ s.axis.rate = 0
      · exact .inr (.inl ⟨locked, beyond, hp, edge.trans (if_pos hp)⟩)
      · exact .inr (.inr (.inl ⟨locked, beyond, hp, _, edge.trans (if_neg hp)⟩))
    · rw [if_neg beyond] at edge
      refine .inr (.inr (.inr ⟨locked, beyond, ?_⟩))
      split at edge
      · exact ⟨_, _, edge⟩
      · exact ⟨_, _, edge⟩

/-- What holds of an edge before its position is corrected holds after the alarm too, but for the alarm. -/
theorem State.alarmed_spec :
    AxisSame (s.notesEdge t truePos fresh) ((s.returnsToTrack t truePos fresh).hwSet F.AXIS_EVENTS_PHASE_ALARM) ∧
      ((s.returnsToTrack t truePos fresh).hwSet F.AXIS_EVENTS_PHASE_ALARM).axis = (s.notesEdge t truePos fresh).axis := by
  obtain ⟨returned, axis, -⟩ := s.returnsToTrack_spec t truePos fresh
  exact ⟨returned.trans (AxisSame.hwSet _ (f := F.AXIS_EVENTS_PHASE_ALARM) rfl (by decide) (by decide)),
    (State.hwSet_axis _ F.AXIS_EVENTS_PHASE_ALARM).trans axis⟩

/-- Every edge begins a part of the track in TRACK; the first one begins it at its true position (R69, R77). -/
theorem State.axisEdge_knotted :
    ∃ k, Knotted (s.notesEdge t truePos fresh) (s.axisEdge t truePos fresh) k ∧ k.st = 0 ∧
      (s.bit F.AXIS_STATUS_NEVER_LOCKED = true →
        k.pos = truePos ∧ (s.axisEdge t truePos fresh).bit F.AXIS_STATUS_NEVER_LOCKED = false) := by
  obtain ⟨alarmed, alarmedAxis⟩ := s.alarmed_spec t truePos fresh
  obtain ⟨never, e⟩ | ⟨h, -, -, e⟩ | ⟨h, -, -, pos, e⟩ | ⟨h, -, pos, jump, e⟩ := s.axisEdge_cases t truePos fresh
  · rw [e]
    exact ⟨_, (Knotted.now _ truePos 0 0 true).after
      (AxisSame.setStatus _ (f := F.AXIS_STATUS_NEVER_LOCKED) 0 rfl (by decide) (by decide)) rfl, rfl,
      fun _ => ⟨rfl, State.bit_setBit_same _ F.AXIS_STATUS_NEVER_LOCKED false (by decide) (by decide)⟩⟩
  · rw [e]
    exact ⟨_, (Knotted.step _ _ _ _).before alarmed alarmedAxis, rfl, fun never => absurd never (ne_true_of_eq_false h)⟩
  · obtain ⟨k, knotted, hk⟩ := Knotted.slew ((s.returnsToTrack t truePos fresh).hwSet F.AXIS_EVENTS_PHASE_ALARM) pos
      (s.edgeGives t truePos fresh) (truePos - s.axisAtTime (s.modelTime t))
    rw [e]
    exact ⟨k, knotted.before alarmed alarmedAxis, hk, fun never => absurd never (ne_true_of_eq_false h)⟩
  · obtain ⟨returned, axis, -⟩ := s.returnsToTrack_spec t truePos fresh
    rw [e]
    exact ⟨_, (Knotted.now _ _ _ _ _).before returned axis, rfl, fun never => absurd never (ne_true_of_eq_false h)⟩

/-- What an edge leaves in the estimator. -/
structure EdgeTaken (u : State) : Prop where
  same : AxisSame s u
  lastEdge : u.axis.lastEdge = some (s.modelTime t)
  lastTrue : u.axis.lastTrue = truePos
  rate : u.axis.rate = s.edgeGives t truePos fresh
  count : u.axis.count = s.axis.count
  levels : u.axis.a = s.axis.a ∧ u.axis.b = s.axis.b
  tracks : u.axisStAt u.time.clk = 0
  first : s.bit F.AXIS_STATUS_NEVER_LOCKED = true →
    u.axisAt u.time.clk = truePos ∧ u.bit F.AXIS_STATUS_NEVER_LOCKED = false

theorem State.axisEdge_taken (ht : s.axisIsTime = false) :
    EdgeTaken s t truePos fresh (s.axisEdge t truePos fresh) := by
  obtain ⟨k, knotted, hst, first⟩ := s.axisEdge_knotted t truePos fresh
  have noted := AxisSame.notesEdge s t truePos fresh
  obtain ⟨pos, st⟩ := knotted.values (noted.isTime.trans ht)
  obtain ⟨same, ⟨slew, axis⟩, -⟩ := knotted
  exact
    { same := noted.trans same
      lastEdge := by rw [axis]; rfl
      lastTrue := by rw [axis]; rfl
      rate := by rw [axis]; rfl
      count := by rw [axis]; rfl
      levels := by rw [axis]; exact ⟨rfl, rfl⟩
      tracks := st.trans hst
      first := fun never => ⟨pos.trans (first never).1, (first never).2⟩ }

/-- Within the threshold the position never moves against the direction of motion, and no alarm is raised (R71, R77). -/
theorem State.axisEdge_within (ht : s.axisIsTime = false) (never : s.bit F.AXIS_STATUS_NEVER_LOCKED = false)
    (within : ¬ s.beyondThresh t truePos) :
    (∃ pos, (s.axisEdge t truePos fresh).axisAt (s.axisEdge t truePos fresh).time.clk = s.noBackward pos) ∧
      (s.axisEdge t truePos fresh).bit F.AXIS_EVENTS_PHASE_ALARM = s.bit F.AXIS_EVENTS_PHASE_ALARM := by
  obtain ⟨h, -⟩ | ⟨-, h, -⟩ | ⟨-, h, -⟩ | ⟨-, -, pos, jump, e⟩ := s.axisEdge_cases t truePos fresh
  · exact absurd h (ne_true_of_eq_false never)
  · exact absurd h within
  · exact absurd h within
  · obtain ⟨returned, axis, alarm⟩ := s.returnsToTrack_spec t truePos fresh
    have same := (AxisSame.notesEdge s t truePos fresh).trans returned
    have track : (s.returnsToTrack t truePos fresh).axis.track = s.axis.track := (congrArg AxisSt.track axis).trans rfl
    obtain ⟨now, -⟩ := (Knotted.now (s.returnsToTrack t truePos fresh) ((s.returnsToTrack t truePos fresh).noBackward pos)
      (s.edgeGives t truePos fresh) 0 jump).values (same.isTime.trans ht)
    rw [e]
    refine ⟨⟨pos, now.trans (same.noBackward track pos)⟩, Eq.trans ?_ alarm⟩
    exact State.bit_setF_other _ F.AXIS_STATUS_STATE F.AXIS_EVENTS_PHASE_ALARM 0 (by decide) (by decide)

/-- Above the threshold the policy STEP sets the position to the true one and reports where it came from (R77, R78). -/
theorem State.axisEdge_steps (ht : s.axisIsTime = false) (never : s.bit F.AXIS_STATUS_NEVER_LOCKED = false)
    (hp : s.axisField Reg.AXIS_POLICY 0 1 = 0) (beyond : s.beyondThresh t truePos) :
    (s.axisEdge t truePos fresh).axisAt (s.axisEdge t truePos fresh).time.clk = truePos ∧
      (s.axisEdge t truePos fresh).get64 Reg.AXIS_STEP_TO_LO = toBitsInt 64 (truePos / 2 ^ 32) ∧
      (s.axisEdge t truePos fresh).get64 Reg.AXIS_STEP_FROM_LO = toBitsInt 64 (s.axisReported (s.time.clk - 1)) ∧
      (s.axisEdge t truePos fresh).bit F.AXIS_EVENTS_STEP = true ∧
      (s.axisEdge t truePos fresh).bit F.AXIS_EVENTS_PHASE_ALARM = true := by
  obtain ⟨h, -⟩ | ⟨-, -, -, e⟩ | ⟨-, -, h, -⟩ | ⟨-, h, -⟩ := s.axisEdge_cases t truePos fresh
  · exact absurd h (ne_true_of_eq_false never)
  · obtain ⟨alarmed, axis⟩ := s.alarmed_spec t truePos fresh
    have same := (AxisSame.notesEdge s t truePos fresh).trans alarmed
    obtain ⟨alarm, -⟩ := (s.returnsToTrack t truePos fresh).hwSet_spec (f := F.AXIS_EVENTS_PHASE_ALARM) rfl rfl (by decide)
    let u := (s.returnsToTrack t truePos fresh).hwSet F.AXIS_EVENTS_PHASE_ALARM
    have track : u.axis.track = s.axis.track := (congrArg AxisSt.track axis).trans rfl
    obtain ⟨reached, left, event, alarmKept⟩ := u.axisStep_spec truePos (s.edgeGives t truePos fresh) t
    rw [e]
    refine ⟨((Knotted.step u truePos _ t).values (same.isTime.trans ht)).1, reached, left.trans ?_, event, alarmKept.trans alarm⟩
    rw [same.axisReported track, same.clk]
  · exact absurd (.inl hp) h
  · exact absurd beyond h

end Edge

/-- The direction of motion bounds the position (R71). -/
theorem State.noBackward_bounds (s : State) (pos : Int) :
    (s.bit F.AXIS_STATUS_DOWN = false → s.axisAt (s.time.clk - 1) ≤ s.noBackward pos) ∧
      (s.bit F.AXIS_STATUS_DOWN = true → s.noBackward pos ≤ s.axisAt (s.time.clk - 1)) := by
  refine ⟨fun h => ?_, fun h => ?_⟩
  · rw [State.noBackward, State.axisDir, h]
    exact le_max_right _ _
  · rw [State.noBackward, State.axisDir, h]
    exact min_le_right _ _

/-! ### The reference input (R72, R73) -/

theorem exec_axisRefEdge {s : State} (ho : s.operational = true) {hold : Nat} (hf : s.getF F.AXIS_CFG_FILTER ≤ hold)
    (hs : s.getF F.AXIS_CFG_SOURCE = 2) (hc : s.bit F.DRAFT_STATUS_COMPAT_ACTIVE = false) (e : Instant) :
    exec (.axisRefEdge e hold) s =
      .next (s.axisEdge (edgeStamp e) (s.refTrue (edgeStamp e) (s.getF F.AXIS_CFG_REF_DIV + 1)) false) := by
  have hexec : exec (.axisRefEdge e hold) s = execAxisRefEdge e s hold := rfl
  rw [hexec, execAxisRefEdge]
  simp [State.axisRunsOn, ho, hs, State.axisIsTime_external hs (by decide) hc, State.axisAccepts, hf]

/-! ### The quadrature inputs (R71, R73, R74) -/

/-- A counted step is one up or one down. -/
theorem quadStep_unit {a b a' b' : Bool} {d : Int} (h : quadStep a b a' b' = some d) (hd : d ≠ 0) : d = 1 ∨ d = -1 := by
  have values : quadStep a b a' b' ∈ [none, some 0, some 1, some (-1)] := by clear h; revert a b a' b'; decide
  simpa [h, hd] using values

/-- A reversal stops the motion and turns its direction (R71). -/
theorem State.axisReverse_spec (s : State) (t : Instant) :
    AxisReads s (s.axisReverse t) ∧ (s.axisReverse t).bit F.AXIS_STATUS_DOWN = !s.bit F.AXIS_STATUS_DOWN ∧
      (s.axisReverse t).bit F.AXIS_EVENTS_REVERSAL = true ∧
      ∃ track, (s.axisReverse t).axis = { s.axis with track := track, rate := 0, lastEdge := none, slew := 0 } := by
  let u := s.setBit F.AXIS_STATUS_DOWN (!s.bit F.AXIS_STATUS_DOWN)
  let k := u.axisKnotNow (u.axisAt u.time.clk) 0 (u.axisStAt u.time.clk) false
  let v := k.setBit F.AXIS_STATUS_SLEWING false
  let w : State := { v with axis := { v.axis with rate := 0, lastEdge := none, slew := 0 } }
  have turned : AxisReads s u := ⟨(Leaves.refl s).setF _ (by decide), rfl⟩
  have stopped : AxisSame u w :=
    ((AxisSame.axisKnotNow u _ _ _ _).trans (AxisSame.setStatus k (f := F.AXIS_STATUS_SLEWING) 0 rfl (by decide) (by decide))).trans
      (AxisSame.of_regs rfl rfl)
  have told : AxisReads w (w.hwSet F.AXIS_EVENTS_REVERSAL) :=
    ⟨(Leaves.refl w).hwSet_plain (by decide) rfl, (State.hwSet_keeps (Keeps.refl w) _).clock⟩
  obtain ⟨event, -⟩ := w.hwSet_spec (f := F.AXIS_EVENTS_REVERSAL) rfl rfl (by decide)
  have whole : s.axisReverse t = (w.hwSet F.AXIS_EVENTS_REVERSAL).reportEvent (.axis 5 (some t)) := rfl
  have reported : AxisSame (w.hwSet F.AXIS_EVENTS_REVERSAL)
      ((w.hwSet F.AXIS_EVENTS_REVERSAL).reportEvent (.axis 5 (some t))) := AxisSame.of_regs rfl rfl
  rw [whole]
  refine ⟨((turned.trans stopped.toAxisReads).trans told).trans reported.toAxisReads, ?_, event,
    _, (State.hwSet_axis w F.AXIS_EVENTS_REVERSAL).trans rfl⟩
  calc (w.hwSet F.AXIS_EVENTS_REVERSAL).bit F.AXIS_STATUS_DOWN
    _ = w.bit F.AXIS_STATUS_DOWN := State.bit_hwSet_other w (f := F.AXIS_EVENTS_REVERSAL) rfl (by decide) (by decide)
    _ = u.bit F.AXIS_STATUS_DOWN := stopped.down
    _ = !s.bit F.AXIS_STATUS_DOWN := State.bit_setBit_same s F.AXIS_STATUS_DOWN _ (by decide) (by decide)

/-- The estimator turned toward a counted step. -/
def State.turnsToward (s : State) (d : Int) (t : Instant) : State :=
  if !(d != s.axisDir) then s
  else if s.bit F.AXIS_STATUS_NEVER_LOCKED then s.setBit F.AXIS_STATUS_DOWN (d == -1) else s.axisReverse t

/-- The same with the step counted. -/
def State.countsStep (s : State) (d : Int) (t : Instant) : State :=
  { s.turnsToward d t with axis := { (s.turnsToward d t).axis with count := (s.turnsToward d t).axis.count + d } }

theorem State.quadCount_eq (s : State) (d : Int) (t : Instant) :
    s.quadCount d t = (s.countsStep d t).axisEdge t ((s.countsStep d t).axis.count * axisUnit /
      (max 1 ((s.countsStep d t).axisField Reg.AXIS_SCALE 0 25) : Nat)) (d != s.axisDir) := rfl

/-- What is kept when the estimator turns, and the direction it then has. -/
structure Turned (s q : State) (d : Int) : Prop where
  reads : AxisReads s q
  count : q.axis.count = s.axis.count
  levels : q.axis.a = s.axis.a ∧ q.axis.b = s.axis.b
  wrote : q.axis.wrote = s.axis.wrote
  down : q.bit F.AXIS_STATUS_DOWN = decide (d < 0)
  reversal : s.bit F.AXIS_STATUS_NEVER_LOCKED = false → d ≠ s.axisDir → q.bit F.AXIS_EVENTS_REVERSAL = true

theorem State.turnsToward_turned (s : State) {d : Int} (hd : d = 1 ∨ d = -1) (t : Instant) :
    Turned s (s.turnsToward d t) d := by
  unfold State.turnsToward
  by_cases same : d = s.axisDir
  · rw [if_pos (by simp [same])]
    refine ⟨AxisReads.mk (Leaves.refl s) rfl, rfl, ⟨rfl, rfl⟩, rfl, ?_, fun _ h => absurd same h⟩
    rw [same, State.axisDir]
    cases s.bit F.AXIS_STATUS_DOWN <;> rfl
  · rw [if_neg (by simp [same])]
    cases never : s.bit F.AXIS_STATUS_NEVER_LOCKED with
    | true =>
      refine ⟨⟨(Leaves.refl s).setF _ (by decide), rfl⟩, rfl, ⟨rfl, rfl⟩, rfl, ?_,
        fun h => absurd (never.symm.trans h) (by decide)⟩
      refine (State.bit_setBit_same s F.AXIS_STATUS_DOWN _ (by decide) (by decide)).trans ?_
      obtain rfl | rfl := hd <;> rfl
    | false =>
      obtain ⟨reads, down, event, track, axis⟩ := s.axisReverse_spec t
      refine ⟨reads, by rw [if_neg (by decide), axis], by rw [if_neg (by decide), axis]; exact ⟨rfl, rfl⟩,
        by rw [if_neg (by decide), axis], down.trans ?_, fun _ _ => event⟩
      rw [State.axisDir] at same
      obtain rfl | rfl := hd
      · cases h : s.bit F.AXIS_STATUS_DOWN with
        | true => rfl
        | false => exact absurd (by rw [h]; rfl) same
      · cases h : s.bit F.AXIS_STATUS_DOWN with
        | true => exact absurd (by rw [h]; rfl) same
        | false => rfl

/-- What a counted step leaves (R71, R73). -/
theorem State.quadCount_spec {s : State} (ht : s.axisIsTime = false) {d : Int} (hd : d = 1 ∨ d = -1) (t : Instant) :
    (s.quadCount d t).axis.count = s.axis.count + d ∧
      ((s.quadCount d t).axis.a = s.axis.a ∧ (s.quadCount d t).axis.b = s.axis.b) ∧
      (s.quadCount d t).axis.lastTrue = (s.axis.count + d) * axisUnit / (max 1 (s.axisField Reg.AXIS_SCALE 0 25) : Nat) ∧
      (s.quadCount d t).axis.lastEdge = some (s.modelTime t) ∧
      (s.quadCount d t).bit F.AXIS_STATUS_DOWN = decide (d < 0) ∧
      (s.bit F.AXIS_STATUS_NEVER_LOCKED = false → d ≠ s.axisDir →
        (s.quadCount d t).axis.rate = 0 ∧ (s.quadCount d t).bit F.AXIS_EVENTS_REVERSAL = true) := by
  have turned := s.turnsToward_turned hd t
  have counted : AxisSame (s.turnsToward d t) (s.countsStep d t) := AxisSame.of_regs rfl rfl
  have reads : AxisReads s (s.countsStep d t) := turned.reads.trans counted.toAxisReads
  have count : (s.countsStep d t).axis.count = s.axis.count + d := congrArg (· + d) turned.count
  have scale : (s.countsStep d t).axisField Reg.AXIS_SCALE 0 25 = s.axisField Reg.AXIS_SCALE 0 25 :=
    reads.axisField turned.wrote (by decide) 0 25
  have edge := (s.countsStep d t).axisEdge_taken t ((s.countsStep d t).axis.count * axisUnit /
    (max 1 ((s.countsStep d t).axisField Reg.AXIS_SCALE 0 25) : Nat)) (d != s.axisDir) (reads.isTime.trans ht)
  rw [← State.quadCount_eq, count, scale] at edge
  refine ⟨edge.count.trans count, ⟨edge.levels.1.trans turned.levels.1, edge.levels.2.trans turned.levels.2⟩, edge.lastTrue,
    edge.lastEdge.trans (by rw [reads.modelTime]), (edge.same.down.trans counted.down).trans turned.down, fun never h => ⟨?_, ?_⟩⟩
  · rw [edge.rate, bne_iff_ne.mpr h]
    exact State.edgeGives_fresh _ _ _
  · exact (edge.same.reversal.trans counted.reversal).trans (turned.reversal never h)

section Quadrature

variable {s : State} (ho : s.operational = true) {hold : Nat} (hf : s.getF F.AXIS_CFG_FILTER ≤ hold)
  (hs : s.getF F.AXIS_CFG_SOURCE = 1) (hc : s.bit F.DRAFT_STATUS_COMPAT_ACTIVE = false)
include ho hf hs hc

theorem exec_axisQuadEdge_counted (hi : s.bit F.AXIS_CFG_DIR_INVERT = false) {a b : Bool} {d : Int}
    (h : quadStep s.axis.a s.axis.b a b = some d) (hd : d ≠ 0) (e : Instant) :
    exec (.axisQuadEdge a b e hold) s =
      .next (({ s with axis := { s.axis with a := a, b := b } } : State).quadCount d (edgeStamp e)) := by
  have hexec : exec (.axisQuadEdge a b e hold) s = execAxisQuadEdge a b e s hold := rfl
  have runs : ({ s with axis := { s.axis with a := a, b := b } } : State).axisRunsOn 1 = s.axisRunsOn 1 := rfl
  have on : s.axisRunsOn 1 = true := by simp [State.axisRunsOn, ho, hs, State.axisIsTime_external hs (by decide) hc]
  rw [hexec, execAxisQuadEdge]
  simp [runs, on, State.axisAccepts, hf, hi, h, hd]

theorem exec_axisQuadEdge_both (e : Instant) :
    exec (.axisQuadEdge (!s.axis.a) (!s.axis.b) e hold) s =
      .next (({ s with axis := { s.axis with a := !s.axis.a, b := !s.axis.b } } : State).hwSet F.AXIS_EVENTS_QUAD_ERR) := by
  have hexec : exec (.axisQuadEdge (!s.axis.a) (!s.axis.b) e hold) s = execAxisQuadEdge (!s.axis.a) (!s.axis.b) e s hold := rfl
  have runs : ({ s with axis := { s.axis with a := !s.axis.a, b := !s.axis.b } } : State).axisRunsOn 1 = s.axisRunsOn 1 := rfl
  have on : s.axisRunsOn 1 = true := by simp [State.axisRunsOn, ho, hs, State.axisIsTime_external hs (by decide) hc]
  have both (a b : Bool) : quadStep a b (!a) (!b) = none := by revert a b; decide
  rw [hexec, execAxisQuadEdge]
  simp [runs, on, State.axisAccepts, hf, both]

end Quadrature

/-! ### The glitch filter (R72) -/

/-- A level shorter than FILTER is no edge on any input. -/
theorem exec_axisEdge_filtered {s : State} {hold : Nat} (h : hold < s.getF F.AXIS_CFG_FILTER) (a b : Bool) (e : Instant) :
    exec (.axisQuadEdge a b e hold) s = .next s ∧ exec (.axisRefEdge e hold) s = .next s ∧
      exec (.axisIndexEdge e hold) s = .next s := by
  have refused : s.axisAccepts hold = false := by simp [State.axisAccepts, h]
  have quad : exec (.axisQuadEdge a b e hold) s = execAxisQuadEdge a b e s hold := rfl
  have ref : exec (.axisRefEdge e hold) s = execAxisRefEdge e s hold := rfl
  have index : exec (.axisIndexEdge e hold) s = execAxisIndexEdge e s hold := rfl
  refine ⟨?_, ?_, ?_⟩
  · rw [quad, execAxisQuadEdge, refused]; rfl
  · rw [ref, execAxisRefEdge, refused, Bool.not_false, Bool.or_true, if_pos rfl]
  · rw [index, execAxisIndexEdge]; simp [refused]

/-- Settles O25: what an edge of each input gives the estimator, what the tracking loop and the policy STEP make of its error, and
what the glitch filter and the quadrature table refuse. -/
theorem axisEdges : Obligations.AxisEdges := by
  unfold Obligations.AxisEdges
  refine ⟨?reference, ?within, ?steps, ?quadrature, ?table, ?both, fun s a b e hold h => exec_axisEdge_filtered h a b e⟩
  case reference =>
    intro s e hold ho hf hs hc
    have edge := s.axisEdge_taken (edgeStamp e) (s.refTrue (edgeStamp e) (s.getF F.AXIS_CFG_REF_DIV + 1)) false
      (State.axisIsTime_external hs (by decide) hc)
    refine ⟨_, exec_axisRefEdge ho hf hs hc e, edge.lastEdge, edge.lastTrue, edge.tracks, edge.count, fun never => ?_⟩
    rw [edge.lastTrue]
    exact edge.first never
  case within =>
    intro s e hold ho hf hs hc never _ _ hw
    obtain ⟨⟨pos, at_now⟩, alarm⟩ := s.axisEdge_within (edgeStamp e)
      (s.refTrue (edgeStamp e) (s.getF F.AXIS_CFG_REF_DIV + 1)) false (State.axisIsTime_external hs (by decide) hc) never
      (Nat.not_lt.mpr hw)
    obtain ⟨up, down⟩ := s.noBackward_bounds pos
    refine ⟨_, exec_axisRefEdge ho hf hs hc e, ?_, ?_, alarm⟩
    · rw [at_now]; exact up
    · rw [at_now]; exact down
  case steps =>
    intro s e hold ho hf hs hc never hp hb
    obtain ⟨at_now, reached, left, event, alarm⟩ := s.axisEdge_steps (edgeStamp e)
      (s.refTrue (edgeStamp e) (s.getF F.AXIS_CFG_REF_DIV + 1)) false (State.axisIsTime_external hs (by decide) hc) never hp hb
    refine ⟨_, exec_axisRefEdge ho hf hs hc e, at_now, ?_, left, event, alarm⟩
    rw [reached, State.axisReported, at_now]
  case quadrature =>
    intro s a b e hold d ho hf hs hc hi h hd
    obtain ⟨count, ⟨levelA, levelB⟩, lastTrue, lastEdge, down, reversal⟩ :=
      State.quadCount_spec (s := { s with axis := { s.axis with a := a, b := b } })
        (State.axisIsTime_external hs (by decide) hc) (quadStep_unit h hd) (edgeStamp e)
    exact ⟨_, exec_axisQuadEdge_counted ho hf hs hc hi h hd e, count, levelA, levelB, lastTrue, lastEdge, down, reversal⟩
  case table => decide
  case both =>
    intro s e hold ho hf hs hc
    obtain ⟨event, same, -⟩ := State.hwSet_spec ({ s with axis := { s.axis with a := !s.axis.a, b := !s.axis.b } } : State)
      (f := F.AXIS_EVENTS_QUAD_ERR) rfl rfl (by decide)
    refine ⟨_, exec_axisQuadEdge_both ho hf hs hc e, event, ?_, ?_, same⟩
    · rw [State.hwSet_axis]
    · rw [State.hwSet_axis]

end Sys2Proof.Machine
end

section
/-! PROOF. A fault of EXTERNAL in the clock of an erase (spec/04_converter_banks.md R126,
spec/15_startup_and_black_box.md R382, R383). -/

namespace Sys2Proof.Machine

open Sys2Proof.Laws

@[simp] theorem State.crossCopy_bbx (s : State) (r : BbxRecord) : (s.crossCopy r).bbx = s.bbx := by
  unfold State.crossCopy
  split <;> rfl

/-- A record made in the clock of an erase goes with the store that was erased: the ring stays as it is (R383). -/
theorem State.ring_makeRecord_erased {s : State} (h : s.bbx.erased.isSome = true) (src code : Nat) (p : List Byte) :
    (s.makeRecord src code p).bbx.ring = s.bbx.ring := by
  obtain ⟨n, hn⟩ := Option.isSome_iff_exists.mp h
  rw [State.makeRecord, State.pushRecord, hn]
  dsimp only
  rw [State.crossCopy_bbx]

/-- The fall-back from EXTERNAL touches the black box by its record alone (R126). -/
theorem State.extFall_record (s : State) : ∃ u : State, s.extFall = u.makeRecord 5 1 [] ∧ u.bbx = s.bbx := by
  refine ⟨_, rfl, ?_⟩
  dsimp only [State.extNow]
  split <;> simp

theorem State.ring_extFall_erased {s : State} (h : s.bbx.erased.isSome = true) : s.extFall.bbx.ring = s.bbx.ring := by
  obtain ⟨u, hfall, hbbx⟩ := s.extFall_record
  rw [hfall, State.ring_makeRecord_erased (by rwa [hbbx]), hbbx]

theorem exec_extFault {s : State} (ho : s.operational = true) (hs : s.getF F.CONV_REF_STATUS_SEL_IN_EFFECT = 1) :
    exec .extFault s = .next s.extFall := by
  have hexec : exec .extFault s = execExtFault s := rfl
  rw [hexec, execExtFault, if_pos (by simp [ho, hs])]

/-- An engine in IDLE with EXTERNAL in effect and settled, whose black box the present clock has erased. -/
def erasedOnExternal : State :=
  (((State.reset.setF F.DEV_STATE_CUR EngState.idle.code).setF F.CONV_REF_STATUS_SEL_IN_EFFECT 1).setBit
    F.CONV_REF_STATUS_SETTLED true).erase

/-- Its ring holds the ERASED record alone. -/
theorem erasedOnExternal_ring : erasedOnExternal.bbx.ring.map (fun p => (p.1.source, p.1.code)) = [(0x0B, 3)] := by
  decide +kernel

/-- Refutes O27: a record made in the clock of an erase belongs to the store that was erased (R383, log 68), and the statement does
not ask that its clock has erased nothing (that `bbx.erased` is none). In the counterexample the black box of an engine in IDLE
with EXTERNAL in effect is erased in the clock of the fault: the ring holds the ERASED record, and none of the fall-back. -/
theorem not_converterReference : ¬ Obligations.ConverterReference := by
  unfold Obligations.ConverterReference
  rintro ⟨-, -, -, fault⟩
  have operational : erasedOnExternal.operational = true := by decide +kernel
  have external : erasedOnExternal.getF F.CONV_REF_STATUS_SEL_IN_EFFECT = 1 := by decide +kernel
  obtain ⟨t, ht, -, -, -, -, -, recorded, -⟩ := fault _ operational external
  rw [exec_extFault operational external] at ht
  obtain rfl := Host.Outcome.next.inj ht
  rw [State.ring_extFall_erased rfl, List.any_eq_true] at recorded
  obtain ⟨p, hp, made⟩ := recorded
  have only := List.mem_map_of_mem (f := fun p : BbxRecord × Nat => (p.1.source, p.1.code)) hp
  rw [erasedOnExternal_ring, List.mem_singleton, Prod.mk.injEq] at only
  obtain ⟨source, -⟩ := only
  rw [source] at made
  exact absurd made (by simp)

end Sys2Proof.Machine
end

section
/-! PROOF. Coefficient shadows, and requests for injected conversions (spec/05_selvedge_calibration.md R148, R152, R153). -/

namespace Sys2Proof.Machine

open Sys2Proof.Laws

/-! ### Loading several registers -/

/-- Of registers that are all different, each takes the value listed with it. -/
theorem State.reg_setRegs_mem {l : List (Nat × Word)} (distinct : (l.map Prod.fst).Nodup) {o : Nat} {v : Word}
    (h : (o, v) ∈ l) (s : State) : (s.setRegs l).reg o = v := by
  obtain ⟨before, after, rfl⟩ := List.append_of_mem h
  have later : ∀ p ∈ after, p.1 ≠ o := by
    intro p hp e
    rw [List.map_append, List.map_cons, List.nodup_append, List.nodup_cons] at distinct
    obtain ⟨-, ⟨absent, -⟩, -⟩ := distinct
    exact absent (List.mem_map.mpr ⟨p, hp, e⟩)
  have split : s.setRegs (before ++ (o, v) :: after) = ((s.setRegs before).setReg o v).setRegs after := by
    rw [State.setRegs_append]
    rfl
  rw [split, State.reg_setRegs_other _ later, State.reg_setReg_same]

/-! ### Selecting a slice (R152) -/

theorem exec_calSel {s : State} (h : s.takesWrite Reg.CAL_SEL = true) (v : Word) :
    exec (.calSel v) s = .next (s.storeReg Reg.CAL_SEL v).loadCoefShadow :=
  congrArg Host.Outcome.next (State.hostWrite_local h rfl v _)

/-- CAL.SEL shows the bank and the slice written. -/
theorem State.calSel_storeReg (s : State) (v : Word) :
    (s.storeReg Reg.CAL_SEL v).getF F.CAL_SEL_BANK = fieldOf v 8 2 ∧
      (s.storeReg Reg.CAL_SEL v).getF F.CAL_SEL_SLICE = fieldOf v 0 7 := by
  constructor <;> rw [State.getF]
  · rw [F.CAL_SEL_BANK, State.storeReg, State.reg_setReg_same]
    exact fieldOf_mergeWrite _ _ (by decide)
  · rw [F.CAL_SEL_SLICE, State.storeReg, State.reg_setReg_same]
    exact fieldOf_mergeWrite _ _ (by decide)

/-- The shadow registers that show the coefficients c. -/
def coefShadows (c : Coef) : List (Nat × Word) :=
  [(Reg.CAL_COEF_OFFSET, BitVec.ofNat 32 (toBitsInt 16 c.offset)), (Reg.CAL_COEF_GAIN, BitVec.ofNat 32 (toBitsInt 18 c.gain)),
    (Reg.CAL_COEF_DELAY, BitVec.ofNat 32 (toBitsInt 16 c.delay)), (Reg.CAL_COEF_TRIM, BitVec.ofNat 32 (toBitsInt 12 c.trim))] ++
    (List.range 8).map (fun i => (Reg.CAL_COEF_H i, BitVec.ofNat 32 (toBitsInt 18 (c.taps.getD i 0))))

theorem coefShadows_regs (c : Coef) : (coefShadows c).map Prod.fst =
    [Reg.CAL_COEF_OFFSET, Reg.CAL_COEF_GAIN, Reg.CAL_COEF_DELAY, Reg.CAL_COEF_TRIM] ++ (List.range 8).map Reg.CAL_COEF_H := rfl

theorem coefShadows_distinct (c : Coef) : ((coefShadows c).map Prod.fst).Nodup := by
  rw [coefShadows_regs]
  decide

/-- A slice below 64 shows its coefficients in effect. -/
theorem State.loadCoefShadow_slice {s : State} (h : s.getF F.CAL_SEL_SLICE < 64) :
    s.loadCoefShadow = s.setRegs (coefShadows (s.coef (s.getF F.CAL_SEL_BANK) (s.getF F.CAL_SEL_SLICE))) := by
  unfold State.loadCoefShadow
  dsimp only
  rw [if_neg (by omega), if_pos h]
  rfl

theorem State.getF_loadCoefShadow {s : State} (h : s.getF F.CAL_SEL_SLICE < 64) {f : Fld} (hf : f.off = Reg.CAL_SEL) :
    s.loadCoefShadow.getF f = s.getF f := by
  refine State.getF_congr_reg ?_
  rw [State.loadCoefShadow_slice h, hf]
  refine State.reg_setRegs_other s fun p hp => ?_
  have listed := List.mem_map_of_mem (f := Prod.fst) hp
  rw [coefShadows_regs] at listed
  have other : Reg.CAL_SEL ∉ [Reg.CAL_COEF_OFFSET, Reg.CAL_COEF_GAIN, Reg.CAL_COEF_DELAY, Reg.CAL_COEF_TRIM] ++
    (List.range 8).map Reg.CAL_COEF_H := by decide
  exact fun e => other (e ▸ listed)

/-! ### Committing the shadow set (R153) -/

theorem exec_coefCommit {s : State} (h : s.takesWrite Reg.CAL_COEF_COMMIT = true) :
    exec .coefCommit s = .next s.coefCommit :=
  congrArg Host.Outcome.next (State.hostWrite_local h rfl 1 _)

theorem State.coefCommit_free {s : State} (hb : s.bankEn (s.getF F.CAL_SEL_BANK) = false) (hs : s.getF F.CAL_SEL_SLICE < 64) :
    s.coefCommit = s.setCoef (s.getF F.CAL_SEL_BANK) (s.getF F.CAL_SEL_SLICE) s.shadowCoef :=
  if_neg (by simp [hb, hs])

theorem State.coefCommit_calibrated {s : State} (hb : s.bankEn (s.getF F.CAL_SEL_BANK) = true) :
    s.coefCommit = s.hwSet F.CAL_EVENTS_COEF_BUSY :=
  if_pos (by simp [hb])

/-- Settles O31: a write of CAL.SEL loads what `coefShadows` lists; a commit is `setCoef`, or the bit COEF_BUSY alone. -/
theorem coefficientShadows : Obligations.CoefficientShadows := by
  unfold Obligations.CoefficientShadows
  refine ⟨?selects, ?commits, ?busy⟩
  case selects =>
    intro s v h hv
    refine ⟨_, exec_calSel h v, ?_⟩
    obtain ⟨bank, slice⟩ := s.calSel_storeReg v
    have below : (s.storeReg Reg.CAL_SEL v).getF F.CAL_SEL_SLICE < 64 := by rw [slice]; exact hv
    rw [State.getF_loadCoefShadow below rfl, State.getF_loadCoefShadow below rfl, State.loadCoefShadow_slice below, bank, slice]
    have same : (s.storeReg Reg.CAL_SEL v).coef (fieldOf v 8 2) (fieldOf v 0 7) = s.coef (fieldOf v 8 2) (fieldOf v 0 7) := rfl
    rw [same]
    have shown {o : Nat} {w : Word} (hm : (o, w) ∈ coefShadows (s.coef (fieldOf v 8 2) (fieldOf v 0 7))) :=
      State.reg_setRegs_mem (coefShadows_distinct _) hm (s.storeReg Reg.CAL_SEL v)
    refine ⟨rfl, rfl, shown ?_, shown ?_, shown ?_, fun i => shown ?_, State.setRegs_cal _ _⟩
    · simp [coefShadows]
    · simp [coefShadows]
    · simp [coefShadows]
    · exact List.mem_append_right _ (List.mem_map.mpr ⟨i, List.mem_range.mpr i.isLt, rfl⟩)
  case commits =>
    intro s h hb hs
    refine ⟨_, exec_coefCommit h, ?_⟩
    rw [State.coefCommit_free hb hs]
    exact ⟨rfl, rfl⟩
  case busy =>
    intro s h hb
    refine ⟨_, exec_coefCommit h, ?_⟩
    rw [State.coefCommit_calibrated hb]
    obtain ⟨set, regs, -⟩ := s.hwSet_spec (f := F.CAL_EVENTS_COEF_BUSY) rfl rfl (by decide)
    exact ⟨State.hwSet_cal _ _, set, regs⟩

/-! ### A request that is dropped (R148, R150) -/

theorem exec_inj {s : State} (h : s.takesWrite Reg.CAL_INJ = true) {v : Word} (go : v.getLsbD 31 = true) :
    exec (.inj v) s = .next (s.inject (fieldOf v 8 2) (fieldOf v 0 5)) := by
  have hexec : exec (.inj v) s =
      .next (s.hostWrite Reg.CAL_INJ v fun s => if v.getLsbD 31 then s.inject (fieldOf v 8 2) (fieldOf v 0 5) else s) := rfl
  rw [hexec, State.hostWrite_local h rfl, if_pos go]

/-- A source of 22 or more is none: the request of a bank that could take one is dropped with the outcome 3. -/
theorem State.inject_noSource {s : State} {b source : Nat} (idle : (s.calBank b).capturingNow = false)
    (free : (s.calBank b).inj = none) (none : 22 ≤ source) :
    s.inject b source =
      ((s.setF (F.CAL_INJ_OUTCOME b) 3).rclAdd Reg.CAL_INJ_DROPPED 1).hwSet F.CAL_EVENTS_INJ_DROP := by
  simp [State.inject, idle, free, none]

/-- What is dropped adds up with what the present clock has dropped to what the counter held before it (R10). -/
theorem State.reg_dropped_count {s : State} {old m : Nat} (h : s.addedNow Reg.CAL_INJ_DROPPED = some (old, m)) (f : Fld) (n : Nat) :
    (((s.setF f n).rclAdd Reg.CAL_INJ_DROPPED 1).hwSet F.CAL_EVENTS_INJ_DROP).reg Reg.CAL_INJ_DROPPED =
      BitVec.ofNat 32 (min (old + (m + 1)) 4294967295) := by
  have added : (s.setF f n).addedNow Reg.CAL_INJ_DROPPED = some (old, m) := h
  rw [State.sameRegsBut_hwSet _ rfl _ (by decide), State.rclAdd_of_some added, State.reg_rclPut]

/-- An engine in IDLE whose link is up, in a clock that has marked one dropped request on a count of 0, while CAL.INJ_DROPPED
reads 0. -/
def markedInjDrop : State :=
  let s := State.reset.setF F.DEV_STATE_CUR EngState.idle.code
  { s with
    board := { s.board with pcieUp := true }
    time := { s.time with addNow := [(Reg.CAL_INJ_DROPPED, 0, 1)] } }

/-- Refutes O30: a dropped request adds to what CAL.INJ_DROPPED held before those of its clock (R10, R150), and the statement does
not ask that the register shows those requests (that no `addedNow` of CAL.INJ_DROPPED says otherwise). In the counterexample the
clock has marked one dropped request on a count of 0 and the register reads 0: a request of the source 22 makes it 2. -/
theorem not_monitorQueue : ¬ Obligations.MonitorQueue := by
  unfold Obligations.MonitorQueue
  rintro ⟨-, dropped, -⟩
  have takes : markedInjDrop.takesWrite Reg.CAL_INJ = true := by decide +kernel
  have go : (0x80000016 : Word).getLsbD 31 = true := by decide
  have source : 22 ≤ fieldOf (0x80000016 : Word) 0 5 := by decide
  have init : markedInjDrop.calBank (fieldOf (0x80000016 : Word) 8 2) = CalBank.init := rfl
  have shown : markedInjDrop.reg Reg.CAL_INJ_DROPPED = 0 := by decide +kernel
  obtain ⟨t, ht, -, -, count, -⟩ := dropped _ _ takes go (by rw [init]; decide) (.inr (.inr source))
  rw [exec_inj takes go, State.inject_noSource (by rw [init]; rfl) (by rw [init]; rfl) source] at ht
  obtain rfl := Host.Outcome.next.inj ht
  rw [State.reg_dropped_count (old := 0) (m := 1) rfl, shown] at count
  exact absurd count (by decide)

end Sys2Proof.Machine
end

section
/-! PROOF. The banks under calibration (spec/05_selvedge_calibration.md R133 to R154): what an operation on some banks leaves
of the others. -/

namespace Sys2Proof.Machine

open Sys2Proof.Laws

/-! ### The engine of a bank -/

theorem State.calBank_setCalBank (s : State) (b i : Nat) (x : CalBank) :
    (s.setCalBank b x).calBank i = if i = b then x else s.calBank i := sparseGet_set _ _ _ _ _

@[simp] theorem State.calBank_setCalBank_same (s : State) (b : Nat) (x : CalBank) : (s.setCalBank b x).calBank b = x :=
  sparseGet_set_same _ _ _ _

theorem State.calBank_congr {s t : State} (h : t.cal.banks = s.cal.banks) (b : Nat) : t.calBank b = s.calBank b := by
  rw [State.calBank, State.calBank, h]

theorem CalBank.code_lt (x : CalBank) : x.code < 2 ^ 4 := by
  unfold CalBank.code
  split
  · decide
  · decide
  · split <;> decide

/-- CAL.STATUS shows the phase of a bank that is set (R154). -/
theorem State.phase_setCalBank (s : State) {b : Nat} (hb : b < 4) (x : CalBank) :
    (s.setCalBank b x).getF (F.CAL_PHASE b) = x.code := by
  have fits : 16 + 4 * b + 4 ≤ 32 := by omega
  have busy : 8 + b + 1 ≤ 32 := by omega
  unfold State.setCalBank
  rw [State.setBit, State.getF_setF_other _ (bitFld Reg.CAL_INJ_STATUS (8 + b)) (F.CAL_PHASE b) _ busy
      (.inl (show Reg.CAL_STATUS ≠ Reg.CAL_INJ_STATUS by decide)),
    State.getF_setF_same _ (F.CAL_PHASE b) _ fits]
  exact Nat.mod_eq_of_lt x.code_lt

/-! ### What an operation on some banks leaves -/

/-- The registers that show the engines of the banks. -/
abbrev bankRegs : List Nat := [Reg.CAL_STATUS, Reg.CAL_INJ_STATUS]

/-- Those, and the events of calibration. -/
abbrev visitRegs : List Nat := [Reg.CAL_STATUS, Reg.CAL_INJ_STATUS, Reg.CAL_EVENTS]

/-- t follows s by operations on the banks of P and on the monitor queue that touch the registers of l alone: they leave the
coefficients, CAL.CTRL in effect, CONVERGED and what SWEEPING says of the other banks, and clear no event. -/
structure Calibrates (l : List Nat) (P : Nat → Prop) (s t : State) : Prop where
  banks : ∀ i, ¬ P i → t.calBank i = s.calBank i
  sweeping : ∀ i < 4, ¬ P i → t.bit (bitFld Reg.CAL_STATUS i) = s.bit (bitFld Reg.CAL_STATUS i)
  converged : t.getF F.CAL_STATUS_CONVERGED = s.getF F.CAL_STATUS_CONVERGED
  coefs : t.cal.coefs = s.cal.coefs
  coming : t.cal.coming = s.cal.coming
  ctrl : t.cal.ctrl = s.cal.ctrl
  events : ∀ i, (s.reg Reg.CAL_EVENTS).getLsbD i = true → (t.reg Reg.CAL_EVENTS).getLsbD i = true
  regs : s.SameRegsBut t l

variable {l : List Nat} {P : Nat → Prop} {r s t : State}

theorem Calibrates.refl (l : List Nat) (P : Nat → Prop) (s : State) : Calibrates l P s s :=
  ⟨fun _ _ => rfl, fun _ _ _ => rfl, rfl, rfl, rfl, rfl, fun _ h => h, State.SameRegsBut.refl s l⟩

theorem Calibrates.trans (h : Calibrates l P r s) (k : Calibrates l P s t) : Calibrates l P r t where
  banks i hi := (k.banks i hi).trans (h.banks i hi)
  sweeping i hb hi := (k.sweeping i hb hi).trans (h.sweeping i hb hi)
  converged := k.converged.trans h.converged
  coefs := k.coefs.trans h.coefs
  coming := k.coming.trans h.coming
  ctrl := k.ctrl.trans h.ctrl
  events i hi := k.events i (h.events i hi)
  regs := h.regs.trans k.regs

theorem Calibrates.mono (h : Calibrates l P s t) {m : List Nat} {Q : Nat → Prop} (hm : ∀ o ∈ l, o ∈ m) (hq : ∀ i, P i → Q i) :
    Calibrates m Q s t :=
  { h with
    banks := fun i hi => h.banks i fun p => hi (hq i p)
    sweeping := fun i hb hi => h.sweeping i hb fun p => hi (hq i p)
    regs := h.regs.mono hm }

/-- An operation whose registers and banks are among those of l and P goes on. -/
theorem Calibrates.next (h : Calibrates l P r s) {m : List Nat} {Q : Nat → Prop} (k : Calibrates m Q s t) (hm : ∀ o ∈ m, o ∈ l)
    (hq : ∀ i, Q i → P i) : Calibrates l P r t := h.trans (k.mono hm hq)

theorem Calibrates.ite {c : Prop} [Decidable c] {a b : State} (ha : Calibrates l P s a) (hb : Calibrates l P s b) :
    Calibrates l P s (if c then a else b) := by split <;> assumption

theorem Calibrates.foldl {α : Type} {f : State → α → State} (h : Calibrates l P r s) (as : List α)
    (hf : ∀ u a, a ∈ as → Calibrates l P r u → Calibrates l P u (f u a)) : Calibrates l P r (as.foldl f s) := by
  induction as generalizing s with
  | nil => exact h
  | cons a as ih =>
    exact ih (h.trans (hf s a List.mem_cons_self h)) fun u b hb => hf u b (List.mem_cons_of_mem a hb)

theorem Calibrates.bit (h : Calibrates l P s t) {f : Fld} (hf : f.off ∉ l) : t.bit f = s.bit f := by
  rw [State.bit, State.bit, State.getF_congr_reg (h.regs _ hf)]

/-- An event that is set stays. -/
theorem Calibrates.event (h : Calibrates l P s t) {f : Fld} (hf : f.off = Reg.CAL_EVENTS) (hw : f.w = 1) (set : s.bit f = true) :
    t.bit f = true := by
  rw [State.bit_eq_getLsbD _ hw, hf] at set ⊢
  exact h.events _ set

/-! ### The operations on one bank -/

theorem State.sameRegsBut_setCalBank (s : State) (b : Nat) (x : CalBank) : s.SameRegsBut (s.setCalBank b x) bankRegs :=
  ((State.SameRegsBut.refl s bankRegs).setF (F.CAL_PHASE b) x.code (by simp [F.CAL_PHASE])).setF
    (bitFld Reg.CAL_INJ_STATUS (8 + b)) _ (by simp [bitFld])

/-- A field of the low half of CAL.STATUS stays when a bank's phase is shown. -/
theorem State.getF_setCalBank_status (s : State) {b : Nat} (hb : b < 4) (x : CalBank) {lo w : Nat} (h : lo + w ≤ 16) :
    (s.setCalBank b x).getF ⟨Reg.CAL_STATUS, lo, w⟩ = s.getF ⟨Reg.CAL_STATUS, lo, w⟩ := by
  have fits : 16 + 4 * b + 4 ≤ 32 := by omega
  have busy : 8 + b + 1 ≤ 32 := by omega
  have below : lo + w ≤ 16 + 4 * b := by omega
  unfold State.setCalBank
  rw [State.setBit, State.getF_setF_other _ (bitFld Reg.CAL_INJ_STATUS (8 + b)) _ _ busy
      (.inl (show Reg.CAL_STATUS ≠ Reg.CAL_INJ_STATUS by decide)),
    State.getF_setF_other _ (F.CAL_PHASE b) _ _ fits (.inr (.inl below))]
  rfl

theorem State.calibrates_setCalBank (s : State) {b : Nat} (hb : b < 4) (x : CalBank) :
    Calibrates bankRegs (· = b) s (s.setCalBank b x) where
  banks i hi := (s.calBank_setCalBank b i x).trans (if_neg hi)
  sweeping i hi _ := by
    rw [State.bit, State.bit, bitFld, State.getF_setCalBank_status s hb x (by omega)]
  converged := State.getF_setCalBank_status s hb x (by decide)
  coefs := rfl
  coming := rfl
  ctrl := rfl
  events i hi := by rwa [State.sameRegsBut_setCalBank s b x _ (by decide)]
  regs := State.sameRegsBut_setCalBank s b x

/-- Whether a sweep of a bank is in progress shows in its bit of SWEEPING. -/
theorem State.calibrates_setSweeping (s : State) {b : Nat} (hb : b < 4) (v : Bool) :
    Calibrates bankRegs (· = b) s (s.setBit (bitFld Reg.CAL_STATUS b) v) where
  banks _ _ := rfl
  sweeping i _ hi := State.bit_setBit_beside s _ v (by omega) hi
  converged := State.getF_setF_beside s _ _ _ _ _ _ (by omega) (.inr hb)
  coefs := rfl
  coming := rfl
  ctrl := rfl
  events i hi := by rwa [State.setBit, State.reg_setF_other _ _ _ (by simp [bitFld])]
  regs := (State.SameRegsBut.refl s bankRegs).setF _ _ (by simp [bitFld])

theorem State.pushMon_eq (s : State) (bank slice kind value : Nat) : ∃ queue pushed excess,
    s.pushMon bank slice kind value =
      { s with cal := { s.cal with queue := queue, pushedNow := pushed, excess := excess } } := by
  unfold State.pushMon
  split
  · exact ⟨s.cal.queue, s.cal.pushedNow, s.cal.excess, rfl⟩
  · split <;> exact ⟨_, _, _, rfl⟩

/-- An entry of the monitor queue touches no register and no bank. -/
theorem State.calibrates_pushMon (s : State) (bank slice kind value : Nat) :
    Calibrates [] (fun _ => False) s (s.pushMon bank slice kind value) := by
  obtain ⟨queue, pushed, excess, e⟩ := s.pushMon_eq bank slice kind value
  rw [e]
  exact ⟨fun _ _ => rfl, fun _ _ _ => rfl, rfl, rfl, rfl, rfl, fun _ h => h, fun _ _ => rfl⟩

/-- An event of calibration sets its bit alone. -/
theorem State.calibrates_event (s : State) {i : Nat} (hi : i < 32) :
    Calibrates [Reg.CAL_EVENTS] (fun _ => False) s (s.hwSet (bitFld Reg.CAL_EVENTS i)) := by
  have regs : s.SameRegsBut (s.hwSet (bitFld Reg.CAL_EVENTS i)) [Reg.CAL_EVENTS] := State.sameRegsBut_hwSet s rfl
  have cal : (s.hwSet (bitFld Reg.CAL_EVENTS i)).cal = s.cal := State.hwSet_cal s _
  have status : (s.hwSet (bitFld Reg.CAL_EVENTS i)).reg Reg.CAL_STATUS = s.reg Reg.CAL_STATUS := regs _ (by decide)
  refine ⟨fun b _ => State.calBank_congr (by rw [cal]) b, fun b _ _ => ?_, State.getF_congr_reg status, by rw [cal], by rw [cal],
    by rw [cal], fun j hj => ?_, regs⟩
  · rw [State.bit, State.bit, State.getF_congr_reg (f := bitFld Reg.CAL_STATUS b) status]
  · rw [State.hwSet_of_no_vector s rfl, State.reg_setF, if_pos (show Reg.CAL_EVENTS = (bitFld Reg.CAL_EVENTS i).off from rfl),
      State.reg_countOcc]
    refine (insertField_getLsbD (s.reg Reg.CAL_EVENTS) i 1 1 j hi).trans ?_
    split
    · next h =>
      rw [show j - i = 0 by omega]
      rfl
    · exact hj

/-- A visit begins in SETTLE, or as the self visit, with LOOP as it stands (R134). -/
theorem State.calBank_startVisit (s : State) (b slice : Nat) :
    (s.startVisit b slice).calBank b = { s.calBank b with
      phase := if slice = 64 then .self else .settle, slice := slice, capturing := false, capWait := false,
      loop := s.reg Reg.CAL_LOOP, est := none, ended := false, capAt := none } :=
  State.calBank_setCalBank_same _ _ _

theorem State.calibrates_startVisit (s : State) {b : Nat} (hb : b < 4) (slice : Nat) :
    Calibrates bankRegs (· = b) s (s.startVisit b slice) := s.calibrates_setCalBank hb _

theorem State.calBank_idleBank (s : State) (b : Nat) (phase : CalPhase) :
    (s.idleBank b phase).calBank b = { s.calBank b with
      phase := phase, capturing := false, capWait := false, est := none, ended := false, capAt := none } :=
  State.calBank_setCalBank_same _ _ _

theorem State.calibrates_idleBank (s : State) {b : Nat} (hb : b < 4) (phase : CalPhase) :
    Calibrates bankRegs (· = b) s (s.idleBank b phase) :=
  (s.calibrates_setSweeping hb false).trans (State.calibrates_setCalBank _ hb _)

theorem State.sweeping_setCalBank (s : State) {b : Nat} (hb : b < 4) (x : CalBank) :
    (s.setCalBank b x).bit (bitFld Reg.CAL_STATUS b) = s.bit (bitFld Reg.CAL_STATUS b) := by
  rw [State.bit, State.bit, bitFld, State.getF_setCalBank_status s hb x (by omega)]

/-- A bank whose calibration ends is not sweeping. -/
theorem State.sweeping_idleBank (s : State) {b : Nat} (hb : b < 4) (phase : CalPhase) :
    (s.idleBank b phase).bit (bitFld Reg.CAL_STATUS b) = false := by
  rw [State.idleBank, State.sweeping_setCalBank _ hb]
  exact State.bit_setBit_same s _ false (show b + 1 ≤ 32 by omega) rfl

/-- The self visit of a bank's sweep is in progress. -/
def State.visitsSelf (s : State) (b : Nat) : Prop :=
  (s.calBank b).phase = .self ∧ (s.calBank b).slice = 64 ∧ s.bit (bitFld Reg.CAL_STATUS b) = true

theorem Calibrates.visitsSelf (h : Calibrates l P s t) {b : Nat} (hb : b < 4) (hp : ¬ P b) (hs : s.visitsSelf b) :
    t.visitsSelf b := by
  rwa [State.visitsSelf, h.banks b hp, h.sweeping b hb hp]

theorem State.calibrates_startSweep (s : State) {b : Nat} (hb : b < 4) : Calibrates bankRegs (· = b) s (s.startSweep b) :=
  ((s.calibrates_setCalBank hb _).trans (State.calibrates_setSweeping _ hb true)).trans (State.calibrates_startVisit _ hb 64)

/-- A sweep begins with the self visit (R133). -/
theorem State.visitsSelf_startSweep (s : State) {b : Nat} (hb : b < 4) : (s.startSweep b).visitsSelf b := by
  unfold State.startSweep
  rw [State.visitsSelf, State.calBank_startVisit, State.startVisit, State.sweeping_setCalBank _ hb]
  exact ⟨rfl, rfl, State.bit_setBit_same _ _ true (show b + 1 ≤ 32 by omega) rfl⟩

/-- An abandoned visit sets ABORTED, and leaves the injected conversion (R136, R139). -/
theorem State.abortVisit_spec (s : State) {b : Nat} (hb : b < 4) :
    Calibrates visitRegs (· = b) s (s.abortVisit b) ∧ ((s.abortVisit b).calBank b).inj = (s.calBank b).inj ∧
      ((s.calBank b).visiting = true → (s.abortVisit b).bit F.CAL_EVENTS_ABORTED = true) := by
  unfold State.abortVisit
  split
  · have pushed := s.calibrates_pushMon b (s.calBank b).slice 6 4
    generalize s.pushMon b (s.calBank b).slice 6 4 = u at pushed
    have event : Calibrates [Reg.CAL_EVENTS] (fun _ => False) u (u.hwSet F.CAL_EVENTS_ABORTED) :=
      u.calibrates_event (i := 5) (by decide)
    have set : (u.hwSet F.CAL_EVENTS_ABORTED).bit F.CAL_EVENTS_ABORTED = true :=
      State.bit_hwSet_same u rfl rfl (by decide)
    generalize u.hwSet F.CAL_EVENTS_ABORTED = v at event set
    dsimp only
    have bank := v.calibrates_setCalBank hb
      { v.calBank b with clean := false, capturing := false, capWait := false, est := none }
    refine ⟨?_, ?_, fun _ => ?_⟩
    · exact (((Calibrates.refl _ _ s).next pushed (by simp) (by simp)).next event (by simp) (by simp)).next bank (by simp)
        (fun _ h => h)
    · rw [State.calBank_setCalBank_same, event.banks b not_false, pushed.banks b not_false]
    · rw [bank.bit (by decide)]
      exact set
  · next idle => exact ⟨Calibrates.refl _ _ s, rfl, fun h => absurd h idle⟩

/-! ### Operations on several banks in turn -/

/-- Among operations on different banks, that on one bank finds it as it was, and is the last to touch it. -/
theorem Calibrates.foldl_at {α : Type} {f : State → α → State} {T : α → Nat → Prop} {as : List α} (distinct : as.Nodup) {a : α}
    (ha : a ∈ as) (hf : ∀ u c, c ∈ as → Calibrates l (fun _ => True) s u → Calibrates l (T c) u (f u c)) :
    ∃ u, Calibrates l (fun i => ∃ c ∈ as, c ≠ a ∧ T c i) s u ∧
      Calibrates l (fun i => ∃ c ∈ as, c ≠ a ∧ T c i) (f u a) (as.foldl f s) := by
  obtain ⟨before, after, rfl⟩ := List.append_of_mem ha
  rw [List.nodup_middle, List.nodup_cons, List.mem_append, not_or] at distinct
  obtain ⟨⟨hbefore, hafter⟩, -⟩ := distinct
  have whole {Q : Nat → Prop} {u v : State} (h : Calibrates l Q u v) : Calibrates l (fun _ => True) u v :=
    h.mono (fun _ ho => ho) fun _ _ => trivial
  have first : Calibrates l (fun i => ∃ c ∈ before ++ a :: after, c ≠ a ∧ T c i) s (before.foldl f s) := by
    refine Calibrates.foldl (Calibrates.refl _ _ s) before fun u c hc hu => ?_
    have mem : c ∈ before ++ a :: after := List.mem_append_left _ hc
    exact (hf u c mem (whole hu)).mono (fun _ ho => ho) fun i hi => ⟨c, mem, ne_of_mem_of_not_mem hc hbefore, hi⟩
  have reached : Calibrates l (fun _ => True) s (f (before.foldl f s) a) := (whole first).trans (whole (hf _ a ha (whole first)))
  refine ⟨before.foldl f s, first, ?_⟩
  rw [List.foldl_append, List.foldl_cons]
  refine Calibrates.foldl (Calibrates.refl _ _ _) after fun u c hc hu => ?_
  have mem : c ∈ before ++ a :: after := List.mem_append_right _ (List.mem_cons_of_mem a hc)
  exact (hf u c mem (reached.trans (whole hu))).mono (fun _ ho => ho) fun i hi => ⟨c, mem, ne_of_mem_of_not_mem hc hafter, hi⟩

/-- The case of an operation on one bank each. -/
theorem Calibrates.foldBanks_at {f : State → Nat → State} {as : List Nat} (distinct : as.Nodup) {b : Nat} (hb : b ∈ as)
    (hf : ∀ u c, c ∈ as → Calibrates l (· = c) u (f u c)) :
    ∃ u, Calibrates l (· ≠ b) s u ∧ Calibrates l (· ≠ b) (f u b) (as.foldl f s) := by
  obtain ⟨u, before, after⟩ := Calibrates.foldl_at (s := s) (T := fun c i => i = c) distinct hb fun u c hc _ => hf u c hc
  have others : ∀ i, (∃ c ∈ as, c ≠ b ∧ i = c) → i ≠ b := by
    rintro i ⟨c, -, hc, rfl⟩
    exact hc
  exact ⟨u, before.mono (fun _ ho => ho) others, after.mono (fun _ ho => ho) others⟩

/-! ### The banks of a channel (R111) -/

theorem State.mem_chanGroup {s : State} {b i : Nat} :
    i ∈ s.chanGroup b ↔ i < 4 ∧ i / s.banksPerCh = b / s.banksPerCh := by
  simp [State.chanGroup]

theorem State.mem_leadBanks {s : State} {b : Nat} : b ∈ s.leadBanks ↔ b < 4 ∧ b % s.banksPerCh = 0 := by
  simp [State.leadBanks]

theorem State.nodup_chanGroup (s : State) (b : Nat) : (s.chanGroup b).Nodup := List.nodup_range.filter _

theorem State.nodup_leadBanks (s : State) : s.leadBanks.Nodup := List.nodup_range.filter _

/-- The first bank of the channel that a bank serves. -/
def State.leadOf (s : State) (b : Nat) : Nat := b / s.banksPerCh * s.banksPerCh

theorem State.banksPerCh_pos (s : State) : 0 < s.banksPerCh := Nat.lt_of_lt_of_le Nat.one_pos (Nat.le_max_left _ _)

theorem State.leadOf_mem (s : State) {b : Nat} (hb : b < 4) : s.leadOf b ∈ s.leadBanks :=
  State.mem_leadBanks.mpr ⟨(Nat.div_mul_le_self _ _).trans_lt hb, Nat.mul_mod_left _ _⟩

theorem State.leadOf_div (s : State) (b : Nat) : s.leadOf b / s.banksPerCh = b / s.banksPerCh :=
  Nat.mul_div_cancel _ s.banksPerCh_pos

theorem State.chanGroup_leadOf (s : State) (b : Nat) : s.chanGroup (s.leadOf b) = s.chanGroup b := by
  rw [State.chanGroup, State.leadOf_div, State.chanGroup]

theorem State.self_mem_chanGroup (s : State) {b : Nat} (hb : b < 4) : b ∈ s.chanGroup b := State.mem_chanGroup.mpr ⟨hb, rfl⟩

/-- The channels share no bank. -/
theorem State.lead_eq_leadOf {s : State} {lead b i : Nat} (hl : lead ∈ s.leadBanks) (hi : i ∈ s.chanGroup lead)
    (hb : i ∈ s.chanGroup b) : lead = s.leadOf b := by
  obtain ⟨-, hmod⟩ := State.mem_leadBanks.mp hl
  obtain ⟨-, hlead⟩ := State.mem_chanGroup.mp hi
  obtain ⟨-, hgroup⟩ := State.mem_chanGroup.mp hb
  rw [State.leadOf, ← hgroup, hlead, Nat.div_mul_cancel (Nat.dvd_of_mod_eq_zero hmod)]

theorem Calibrates.banksPerCh (h : Calibrates visitRegs P s t) : t.banksPerCh = s.banksPerCh := by
  rw [State.banksPerCh, State.banksPerCh, State.getF_congr_reg (h.regs F.CONV_MODE_BANKS_PER_CH.off (by decide))]

theorem Calibrates.chanGroup (h : Calibrates visitRegs P s t) (b : Nat) : t.chanGroup b = s.chanGroup b := by
  rw [State.chanGroup, h.banksPerCh, State.chanGroup]

theorem Calibrates.slicesRun (h : Calibrates visitRegs P s t) : t.slicesRun = s.slicesRun := by
  rw [State.slicesRun, h.bit (by decide), State.slicesRun]

/-- What is done on the banks of one channel after another: the operation on the channel of a bank finds its banks as they were,
and is the last to touch them. -/
theorem Calibrates.foldLeads_at {f : State → Nat → State} {b : Nat} (hb : b < 4)
    (hf : ∀ u lead, Calibrates visitRegs (fun _ => True) s u → Calibrates visitRegs (· ∈ s.chanGroup lead) u (f u lead)) :
    ∃ u, Calibrates visitRegs (· ∉ s.chanGroup b) s u ∧
      Calibrates visitRegs (· ∉ s.chanGroup b) (f u (s.leadOf b)) (s.leadBanks.foldl f s) := by
  obtain ⟨u, before, after⟩ := Calibrates.foldl_at (T := fun lead i => i ∈ s.chanGroup lead) s.nodup_leadBanks (s.leadOf_mem hb)
    fun u lead _ => hf u lead
  have others : ∀ i, (∃ lead ∈ s.leadBanks, lead ≠ s.leadOf b ∧ i ∈ s.chanGroup lead) → i ∉ s.chanGroup b := by
    rintro i ⟨lead, hl, hne, hi⟩ hib
    exact hne (State.lead_eq_leadOf hl hi hib)
  exact ⟨u, before.mono (fun _ ho => ho) others, after.mono (fun _ ho => ho) others⟩

/-! ### The start of a channel's sweeps (R135) -/

/-- The banks of a channel that take part. -/
theorem State.mem_takers {s : State} {lead i : Nat} :
    i ∈ (s.chanGroup lead).filter (fun b => calTakes s.cal.ctrl b) ↔ i ∈ s.chanGroup lead ∧ calTakes s.cal.ctrl i = true :=
  List.mem_filter

theorem State.calibrates_startGroup (s : State) (lead : Nat) :
    Calibrates bankRegs (fun i => i ∈ s.chanGroup lead ∧ calTakes s.cal.ctrl i = true) s (s.startGroup lead) := by
  refine Calibrates.ite (Calibrates.foldl (Calibrates.refl _ _ s) _ fun u i hi _ => ?_) (Calibrates.refl _ _ s)
  obtain ⟨inGroup, taker⟩ := State.mem_takers.mp hi
  obtain ⟨hlt, -⟩ := State.mem_chanGroup.mp inGroup
  refine (u.calibrates_startSweep hlt).mono (fun _ ho => ho) ?_
  rintro j rfl
  exact ⟨inGroup, taker⟩

/-- While the slice clocks run and no bank of the channel that takes part is in a sweep, each of them begins one. -/
theorem State.startGroup_starts {s : State} (runs : s.slicesRun = true) {lead : Nat}
    (idle : ∀ i ∈ s.chanGroup lead, calTakes s.cal.ctrl i = true → (s.calBank i).busy = false) {b : Nat}
    (hb : b ∈ s.chanGroup lead) (takes : calTakes s.cal.ctrl b = true) : (s.startGroup lead).visitsSelf b := by
  obtain ⟨hlt, -⟩ := State.mem_chanGroup.mp hb
  have start : s.startGroup lead = ((s.chanGroup lead).filter (fun b => calTakes s.cal.ctrl b)).foldl State.startSweep s := by
    refine if_pos ?_
    rw [runs, Bool.true_and, List.all_eq_true]
    intro i hi
    obtain ⟨inGroup, taker⟩ := State.mem_takers.mp hi
    rw [idle i inGroup taker, Bool.not_false]
  rw [start]
  obtain ⟨u, -, after⟩ := Calibrates.foldBanks_at (s := s) (f := State.startSweep) ((s.nodup_chanGroup lead).filter _)
    (State.mem_takers.mpr ⟨hb, takes⟩)
    fun u c hc => u.calibrates_startSweep (State.mem_chanGroup.mp (State.mem_takers.mp hc).1).1
  exact after.visitsSelf hlt (fun h => h rfl) (u.visitsSelf_startSweep hlt)

end Sys2Proof.Machine
end

section
/-! PROOF. Sweeps: CAL.CTRL, START, the end of the period, and captures (spec/05_selvedge_calibration.md R133 to R136, R151). -/

namespace Sys2Proof.Machine

open Sys2Proof.Laws

variable {s : State}

/-! ### What CAL.CTRL and CAL.STATUS say -/

theorem calTakes_off {v : Word} (h : calModeOf v = 0) (b : Nat) : calTakes v b = false := by
  simp [calTakes, h]

theorem calTakes_on {v : Word} (h : calModeOf v ≠ 0) (b : Nat) : calTakes v b = v.getLsbD b := by
  simp [calTakes, h]

/-- A bit of SWEEPING is that of its bank. -/
theorem State.testBit_sweeping (s : State) (i : Nat) :
    (s.getF F.CAL_STATUS_SWEEPING).testBit i = (decide (i < 4) && s.bit (bitFld Reg.CAL_STATUS i)) := by
  have low : F.CAL_STATUS_SWEEPING.lo + i = i := Nat.zero_add i
  rw [State.getF, fieldOf_testBit, State.bit_eq_getLsbD _ rfl, low]
  rfl

/-! ### A write of CAL.CTRL -/

theorem exec_calCtrlWrite (h : s.takesWrite Reg.CAL_CTRL = true) {v : Word} (hv : v.getLsbD 14 = false) :
    exec (.calCtrlWrite v) s = .next (s.storeReg Reg.CAL_CTRL v) := by
  have hexec : exec (.calCtrlWrite v) s = .next (s.hostWrite Reg.CAL_CTRL v fun s => s.calCtrl v) := rfl
  rw [hexec, State.hostWrite_local h rfl, State.calCtrl, hv, if_neg Bool.false_ne_true]

theorem exec_calStart (h : s.takesWrite Reg.CAL_CTRL = true) : exec .calStart s = .next s.calStartSweep :=
  congrArg Host.Outcome.next (State.hostWrite_local h rfl 0x4000 _)

/-! ### CAL.CTRL takes effect (R136) -/

/-- The banks take up a change of CAL.CTRL in turn. -/
def State.retargets (s : State) (old : Word) : State := (List.range 4).foldl (fun s b => s.calRetarget old b) s

/-- The banks of a channel that all begin PERIODIC calibration start their first sweep (R135). -/
def State.joinsPeriodic (old v : Word) (s : State) (lead : Nat) : State :=
  if (s.chanGroup lead).all (fun b => !calTakes v b || s.freshPeriodic old b) then s.startGroup lead else s

/-- CAL.CTRL in effect as it is written, before a bank takes it up. -/
def State.withCalCtrl (s : State) : State := { s with cal := { s.cal with ctrl := s.reg Reg.CAL_CTRL } }

theorem State.ctrlTakes_changed (ho : s.operational = true) (changed : calModeOf (s.reg Reg.CAL_CTRL) ≠ calModeOf s.cal.ctrl) :
    s.ctrlTakes = if (s.withCalCtrl.retargets s.cal.ctrl).calMode = 1 then
        (s.withCalCtrl.retargets s.cal.ctrl).leadBanks.foldl (State.joinsPeriodic s.cal.ctrl (s.reg Reg.CAL_CTRL))
          (s.withCalCtrl.retargets s.cal.ctrl)
      else s.withCalCtrl.retargets s.cal.ctrl := by
  have runs : s.withCalCtrl.operational = true := ho
  unfold State.ctrlTakes
  dsimp only
  rw [if_neg fun e => changed (congrArg calModeOf e), if_neg (by rw [Bool.not_eq_true, Bool.not_eq_false']; exact runs)]
  rfl

theorem State.calibrates_calRetarget (s : State) (old : Word) {b : Nat} (hb : b < 4) :
    Calibrates visitRegs (· = b) s (s.calRetarget old b) := by
  obtain ⟨aborts, -⟩ := s.abortVisit_spec hb
  have stays := Calibrates.refl visitRegs (· = b) s
  have more : ∀ o ∈ bankRegs, o ∈ visitRegs := by simp
  have idles {u : State} (h : Calibrates visitRegs (· = b) s u) (phase : CalPhase) :
      Calibrates visitRegs (· = b) s (u.idleBank b phase) := h.next (u.calibrates_idleBank hb phase) more fun _ e => e
  have sweeps {u : State} (h : Calibrates visitRegs (· = b) s u) : Calibrates visitRegs (· = b) s (u.startSweep b) :=
    h.next (u.calibrates_startSweep hb) more fun _ e => e
  have visits : Calibrates visitRegs (· = b) s ((s.abortVisit b).startVisit b s.calFocus) :=
    aborts.next (State.calibrates_startVisit _ hb _) more fun _ e => e
  unfold State.calRetarget
  dsimp only
  refine .ite (idles aborts _) (.ite (.ite (sweeps (idles stays _)) (idles stays _)) (.ite (.ite visits stays) (.ite stays ?_)))
  exact .ite (.ite (sweeps (idles aborts _)) (idles aborts _)) (.ite (idles aborts _) stays)

theorem State.calibrates_retargets (s : State) (old : Word) : Calibrates visitRegs (· < 4) s (s.retargets old) :=
  Calibrates.foldl (Calibrates.refl _ _ s) _ fun u b hb _ =>
    have hb : b < 4 := List.mem_range.mp hb
    (u.calibrates_calRetarget old hb).mono (fun _ ho => ho) fun _ e => e ▸ hb

/-- Each bank takes the change up as the others leave it, and they leave what it makes of it. -/
theorem State.retargets_at (s : State) (old : Word) {b : Nat} (hb : b < 4) :
    ∃ u, Calibrates visitRegs (· ≠ b) s u ∧ Calibrates visitRegs (· ≠ b) (u.calRetarget old b) (s.retargets old) :=
  Calibrates.foldBanks_at List.nodup_range (List.mem_range.mpr hb) fun u _ hc => u.calibrates_calRetarget old (List.mem_range.mp hc)

/-- A bank that takes part no more ends its calibration. -/
theorem State.calRetarget_leaves {b : Nat} (h : calTakes s.cal.ctrl b = false) (old : Word) :
    s.calRetarget old b = (s.abortVisit b).idleBank b .off := if_pos (by rw [h, Bool.not_false])

/-- A bank that begins to take part waits for its sweep, but in FOCUS. -/
theorem State.calRetarget_joins {old : Word} {b : Nat} (h : calTakes s.cal.ctrl b = true) (before : calTakes old b = false)
    (mode : s.calMode ≠ 3) : s.calRetarget old b = s.idleBank b .gap := by
  unfold State.calRetarget
  dsimp only
  rw [if_neg (by simp [h]), if_pos (by simp [before]), if_neg (by simp [mode])]

/-- Without a MODE every bank ends its calibration (R135). -/
theorem State.retargets_off (h : s.calMode = 0) (old : Word) {b : Nat} (hb : b < 4) :
    ((s.retargets old).calBank b).phase = .off ∧ ((s.retargets old).calBank b).inj = (s.calBank b).inj ∧
      ((s.retargets old).calBank b).est = none ∧ (s.retargets old).bit (bitFld Reg.CAL_STATUS b) = false ∧
      ((s.calBank b).visiting = true → (s.retargets old).bit F.CAL_EVENTS_ABORTED = true) := by
  obtain ⟨u, before, after⟩ := s.retargets_at old hb
  have here : ¬ b ≠ b := fun h => h rfl
  rw [State.calRetarget_leaves (calTakes_off (by rw [before.ctrl]; exact h) b)] at after
  obtain ⟨-, inj, aborted⟩ := u.abortVisit_spec hb
  have idles := (u.abortVisit b).calibrates_idleBank hb .off
  rw [after.banks b here, after.sweeping b hb here, State.calBank_idleBank, State.sweeping_idleBank _ hb, ← before.banks b here]
  refine ⟨rfl, inj, rfl, rfl, fun visiting => after.event rfl rfl ?_⟩
  rw [idles.bit (by decide)]
  exact aborted visiting

/-- Where no bank took part, none is in a sweep when the MODE is PERIODIC. -/
theorem State.retargets_idle (mode : s.calMode = 1) {old : Word} (off : calModeOf old = 0) {b : Nat} (hb : b < 4) :
    ((s.retargets old).calBank b).busy = false := by
  obtain ⟨u, before, after⟩ := s.retargets_at old hb
  rw [after.banks b fun h => h rfl]
  cases takes : calTakes u.cal.ctrl b with
  | false =>
    rw [State.calRetarget_leaves takes, State.calBank_idleBank]
    rfl
  | true =>
    have sweeps : u.calMode ≠ 3 := by
      rw [State.calMode, before.ctrl]
      exact ne_of_eq_of_ne mode (by decide)
    rw [State.calRetarget_joins takes (calTakes_off off b) sweeps, State.calBank_idleBank]
    rfl

/-! ### Starting the sweeps of the channels (R135) -/

section Starts

variable {P : Nat → Prop} {u : State}

theorem Calibrates.startGroup (h : Calibrates visitRegs P s u) (lead : Nat) :
    Calibrates visitRegs (· ∈ s.chanGroup lead) u (u.startGroup lead) := by
  refine (u.calibrates_startGroup lead).mono (by simp) ?_
  rintro i ⟨inGroup, -⟩
  rwa [h.chanGroup] at inGroup

/-- The channel of a bank starts its sweeps as the other channels leave it. -/
theorem Calibrates.startGroup_starts {b : Nat} (h : Calibrates visitRegs (· ∉ s.chanGroup b) s u) (hb : b < 4)
    (runs : s.slicesRun = true) (idle : ∀ i ∈ s.chanGroup b, calTakes s.cal.ctrl i = true → (s.calBank i).busy = false)
    (takes : calTakes s.cal.ctrl b = true) : (u.startGroup (s.leadOf b)).visitsSelf b := by
  have group : u.chanGroup (s.leadOf b) = s.chanGroup b := by rw [h.chanGroup, State.chanGroup_leadOf]
  refine State.startGroup_starts (h.slicesRun.trans runs) (fun i hi taker => ?_) ?_ (by rwa [h.ctrl])
  · rw [group] at hi
    rw [h.banks i (not_not.mpr hi)]
    exact idle i hi (by rwa [h.ctrl] at taker)
  · rw [group]
    exact s.self_mem_chanGroup hb

/-- A bank that is in its self visit when its channel has started stays so while the others start. -/
theorem Calibrates.visitsSelf_group {b : Nat} {t : State} (h : Calibrates visitRegs (· ∉ s.chanGroup b) u t) (hb : b < 4)
    (hu : u.visitsSelf b) : t.visitsSelf b := h.visitsSelf hb (not_not.mpr (s.self_mem_chanGroup hb)) hu

end Starts

/-- PERIODIC from OFF: each bank that takes part begins its self visit. -/
theorem State.joinsPeriodic_starts {u : State} {old v : Word} (ctrl : u.cal.ctrl = v) (off : calModeOf old = 0)
    (runs : u.slicesRun = true) (idle : ∀ i < 4, (u.calBank i).busy = false) {b : Nat} (hb : b < 4) (takes : calTakes v b = true) :
    (u.leadBanks.foldl (State.joinsPeriodic old v) u).visitsSelf b := by
  obtain ⟨w, before, after⟩ := Calibrates.foldLeads_at (s := u) (f := State.joinsPeriodic old v) hb
    fun w lead h => Calibrates.ite (h.startGroup lead) (Calibrates.refl _ _ w)
  have fresh : w.joinsPeriodic old v (u.leadOf b) = w.startGroup (u.leadOf b) := by
    refine if_pos (List.all_eq_true.mpr fun i _ => ?_)
    rw [State.freshPeriodic, calTakes_off off, before.ctrl, ctrl, Bool.false_and, Bool.not_false, Bool.and_true, Bool.not_or_self]
  rw [fresh] at after
  exact after.visitsSelf_group hb (before.startGroup_starts hb runs (fun i hi _ => idle i (State.mem_chanGroup.mp hi).1)
    (by rwa [ctrl]))

/-! ### START (R135) -/

theorem State.singleSweep_starts (mode : s.calMode = 2) (none : s.getF F.CAL_STATUS_SWEEPING = 0) :
    s.calStartSweep = s.leadBanks.foldl State.startGroup s := by
  rw [State.calStartSweep, if_pos mode, State.singleSweep, if_pos (by simp [mode, none])]

theorem State.calStartSweep_busy (mode : s.calMode = 2) (sweeping : s.getF F.CAL_STATUS_SWEEPING ≠ 0) : s.calStartSweep = s := by
  rw [State.calStartSweep, if_pos mode, State.singleSweep, if_neg (by simp [sweeping])]

theorem State.calibrates_startGroups (s : State) :
    Calibrates bankRegs (fun i => calTakes s.cal.ctrl i = true) s (s.leadBanks.foldl State.startGroup s) := by
  refine Calibrates.foldl (Calibrates.refl _ _ s) _ fun u lead _ h => (u.calibrates_startGroup lead).mono (fun _ ho => ho) ?_
  rintro i ⟨-, takes⟩
  rwa [h.ctrl] at takes

theorem State.startGroups_starts (runs : s.slicesRun = true) (idle : ∀ i < 4, (s.calBank i).busy = false) {b : Nat} (hb : b < 4)
    (takes : calTakes s.cal.ctrl b = true) : (s.leadBanks.foldl State.startGroup s).visitsSelf b := by
  obtain ⟨u, before, after⟩ := Calibrates.foldLeads_at (s := s) (f := State.startGroup) hb fun u lead h => h.startGroup lead
  exact after.visitsSelf_group hb
    (before.startGroup_starts hb runs (fun i hi _ => idle i (State.mem_chanGroup.mp hi).1) takes)

/-! ### The end of the period (R135) -/

/-- A sweep of each of the banks is due. -/
def State.marksDue (s : State) (banks : List Nat) : State :=
  banks.foldl (fun s b => s.setCalBank b { s.calBank b with due := true }) s

/-- The period ends for a channel: its sweeps start, or are late. -/
def State.periodEnds (s : State) (lead : Nat) : State :=
  if ((s.chanGroup lead).filter (fun b => calTakes s.cal.ctrl b)).any (fun b => (s.calBank b).busy) then
    s.marksDue ((s.chanGroup lead).filter (fun b => calTakes s.cal.ctrl b))
  else s.startGroup lead

theorem exec_sweepPeriodExpiry (ho : s.operational = true) (mode : s.calMode = 1) (runs : s.slicesRun = true) :
    exec .sweepPeriodExpiry s = .next (s.leadBanks.foldl State.periodEnds s) :=
  congrArg Host.Outcome.next (if_pos (by simp [ho, mode, runs]))

theorem State.calibrates_periodEnds (s : State) (lead : Nat) :
    Calibrates bankRegs (fun i => i ∈ s.chanGroup lead ∧ calTakes s.cal.ctrl i = true) s (s.periodEnds lead) := by
  refine Calibrates.ite (Calibrates.foldl (Calibrates.refl _ _ s) _ fun u i hi _ => ?_) (s.calibrates_startGroup lead)
  obtain ⟨inGroup, taker⟩ := State.mem_takers.mp hi
  refine (u.calibrates_setCalBank (State.mem_chanGroup.mp inGroup).1 _).mono (fun _ ho => ho) ?_
  rintro j rfl
  exact ⟨inGroup, taker⟩

theorem Calibrates.periodEnds {P : Nat → Prop} {u : State} (h : Calibrates visitRegs P s u) (lead : Nat) :
    Calibrates visitRegs (· ∈ s.chanGroup lead) u (u.periodEnds lead) := by
  refine (u.calibrates_periodEnds lead).mono (by simp) ?_
  rintro i ⟨inGroup, -⟩
  rwa [h.chanGroup] at inGroup

/-- A bank that takes no part is left as it is. -/
theorem State.calibrates_periodsEnd (s : State) :
    Calibrates bankRegs (fun i => calTakes s.cal.ctrl i = true) s (s.leadBanks.foldl State.periodEnds s) := by
  refine Calibrates.foldl (Calibrates.refl _ _ s) _ fun u lead _ h => (u.calibrates_periodEnds lead).mono (fun _ ho => ho) ?_
  rintro i ⟨-, takes⟩
  rwa [h.ctrl] at takes

theorem State.calBank_marksDue (s : State) {banks : List Nat} (distinct : banks.Nodup) (h4 : ∀ i ∈ banks, i < 4) {b : Nat}
    (hb : b ∈ banks) : (s.marksDue banks).calBank b = { s.calBank b with due := true } := by
  obtain ⟨u, before, after⟩ := Calibrates.foldBanks_at (s := s)
    (f := fun s b => s.setCalBank b { s.calBank b with due := true }) distinct hb fun u c hc => u.calibrates_setCalBank (h4 c hc) _
  have here : ¬ b ≠ b := fun h => h rfl
  exact (after.banks b here).trans (by rw [State.calBank_setCalBank_same, before.banks b here])

section PeriodEnds

variable {u : State} {b : Nat} (h : Calibrates visitRegs (· ∉ s.chanGroup b) s u)
include h

/-- The banks of a bank's channel that take part, as the other channels leave them. -/
theorem Calibrates.busyGroup : ((u.chanGroup (s.leadOf b)).filter (fun i => calTakes u.cal.ctrl i)).any
    (fun i => (u.calBank i).busy) = (s.chanGroup b).any (fun i => calTakes s.cal.ctrl i && (s.calBank i).busy) := by
  rw [List.any_filter, h.chanGroup, State.chanGroup_leadOf, h.ctrl, Bool.eq_iff_iff, List.any_eq_true, List.any_eq_true]
  refine exists_congr fun i => and_congr_right fun hi => ?_
  rw [h.banks i (not_not.mpr hi)]

variable (hb : b < 4)
include hb

theorem Calibrates.periodEnds_late
    (late : (s.chanGroup b).any (fun i => calTakes s.cal.ctrl i && (s.calBank i).busy) = true)
    (takes : calTakes s.cal.ctrl b = true) : (u.periodEnds (s.leadOf b)).calBank b = { s.calBank b with due := true } := by
  have mem : b ∈ (u.chanGroup (s.leadOf b)).filter (fun i => calTakes u.cal.ctrl i) := by
    rw [List.mem_filter, h.chanGroup, State.chanGroup_leadOf, h.ctrl]
    exact ⟨s.self_mem_chanGroup hb, takes⟩
  rw [State.periodEnds, h.busyGroup, if_pos late,
    State.calBank_marksDue u ((u.nodup_chanGroup _).filter _)
      (fun i hi => (State.mem_chanGroup.mp (State.mem_takers.mp hi).1).1) mem,
    h.banks b (not_not.mpr (s.self_mem_chanGroup hb))]

theorem Calibrates.periodEnds_starts (runs : s.slicesRun = true)
    (idle : (s.chanGroup b).any (fun i => calTakes s.cal.ctrl i && (s.calBank i).busy) = false)
    (takes : calTakes s.cal.ctrl b = true) : (u.periodEnds (s.leadOf b)).visitsSelf b := by
  rw [State.periodEnds, h.busyGroup, idle, if_neg Bool.false_ne_true]
  refine h.startGroup_starts hb runs (fun i hi taker => ?_) takes
  have notBusy := List.any_eq_false.mp idle i hi
  simpa [taker] using notBusy

end PeriodEnds

/-- What the end of the period does to a bank that takes part. -/
theorem State.periodsEnd_spec (runs : s.slicesRun = true) {b : Nat} (hb : b < 4) (takes : calTakes s.cal.ctrl b = true) :
    ((s.chanGroup b).any (fun i => calTakes s.cal.ctrl i && (s.calBank i).busy) = true →
      (s.leadBanks.foldl State.periodEnds s).calBank b = { s.calBank b with due := true }) ∧
    ((s.chanGroup b).any (fun i => calTakes s.cal.ctrl i && (s.calBank i).busy) = false →
      (s.leadBanks.foldl State.periodEnds s).visitsSelf b) := by
  obtain ⟨u, before, after⟩ := Calibrates.foldLeads_at (s := s) (f := State.periodEnds) hb fun u lead h => h.periodEnds lead
  refine ⟨fun late => ?_, fun idle => after.visitsSelf_group hb (before.periodEnds_starts hb runs idle takes)⟩
  rw [after.banks b (not_not.mpr (s.self_mem_chanGroup hb))]
  exact before.periodEnds_late hb late takes

/-! ### Captures (R134, R151) -/

section Captures

variable {b : Fin 4}

theorem exec_captureStart (phase : (s.calBank b).phase = .settle) (capturing : (s.calBank b).capturing = false)
    (ended : (s.calBank b).ended = false) :
    exec (.captureStart b) s = .next (if (s.calBank b).inj.isSome then s.setCalBank b { s.calBank b with capWait := true }
      else (s.beginCapture b).setCalBank b { (s.beginCapture b).calBank b with capAt := some s.time.clk }) :=
  congrArg Host.Outcome.next (if_pos (by simp [phase, capturing, ended]))

theorem State.calBank_beginCapture (s : State) (b : Nat) :
    (s.beginCapture b).calBank b = { s.calBank b with
      capturing := true, capWait := false, phase := if (s.calBank b).slice = 64 then .self else .capture } :=
  State.calBank_setCalBank_same _ _ _

theorem exec_captureEnd {est : VisitEst} (capturing : (s.calBank b).capturing = true) (none : (s.calBank b).est = none) :
    exec (.captureEnd b est) s = .next (s.setCalBank b { s.calBank b with
      est := some est, phase := if (s.calBank b).slice = 64 then .self else .update }) :=
  congrArg Host.Outcome.next (if_pos (by simp [capturing, none]))

end Captures

/-- Settles O28: a change of CAL.CTRL is taken up bank by bank and then channel by channel; START and the end of the period go
through the channels, which share no bank; a capture changes its own bank alone. -/
theorem calibrationSweeps : Obligations.CalibrationSweeps := by
  unfold Obligations.CalibrationSweeps
  refine ⟨?writes, ?off, ?periodic, ?start, ?startBusy, ?startWaits, ?period, ?captureStart, ?captureEnd⟩
  case writes =>
    exact fun s v h hv => ⟨_, exec_calCtrlWrite h hv, State.reg_storeReg .., State.sameRegsBut_storeReg s _ v, rfl⟩
  case off =>
    rintro s b t ho old off rfl
    have mode : (s.withCalCtrl.retargets s.cal.ctrl).calMode = 0 := by
      rw [State.calMode, (s.withCalCtrl.calibrates_retargets _).ctrl]
      exact off
    rw [State.ctrlTakes_changed ho (by rw [off]; exact old.symm), if_neg (by rw [mode]; decide)]
    have keeps := s.withCalCtrl.calibrates_retargets s.cal.ctrl
    have ends {i : Nat} (hi : i < 4) := State.retargets_off (s := s.withCalCtrl) off s.cal.ctrl hi
    obtain ⟨phase, inj, est, -, aborted⟩ := ends b.isLt
    refine ⟨phase, inj, est, Nat.eq_of_testBit_eq fun i => ?_, keeps.converged, keeps.coefs, aborted⟩
    rw [State.testBit_sweeping, Nat.zero_testBit, Bool.and_eq_false_imp]
    intro hi
    obtain ⟨-, -, -, sweeping, -⟩ := ends (of_decide_eq_true hi)
    exact sweeping
  case periodic =>
    rintro s b t ho runs off periodic en rfl
    have keeps := s.withCalCtrl.calibrates_retargets s.cal.ctrl
    have mode : (s.withCalCtrl.retargets s.cal.ctrl).calMode = 1 := by
      rw [State.calMode, keeps.ctrl]
      exact periodic
    have takes : calTakes (s.reg Reg.CAL_CTRL) b = true := by
      rw [calTakes_on (by rw [periodic]; decide)]
      exact en
    rw [State.ctrlTakes_changed ho (by rw [off, periodic]; decide), if_pos mode]
    obtain ⟨phase, slice, sweeping⟩ := State.joinsPeriodic_starts (v := s.reg Reg.CAL_CTRL) keeps.ctrl off
      (keeps.slicesRun.trans runs) (fun i hi => State.retargets_idle (s := s.withCalCtrl) periodic off hi) b.isLt takes
    have starts : Calibrates visitRegs (fun _ => True) (s.withCalCtrl.retargets s.cal.ctrl) _ :=
      Calibrates.foldl (Calibrates.refl _ _ _) (s.withCalCtrl.retargets s.cal.ctrl).leadBanks
        (f := State.joinsPeriodic s.cal.ctrl (s.reg Reg.CAL_CTRL)) fun u lead _ _ =>
          Calibrates.ite ((u.calibrates_startGroup lead).mono (by simp) fun _ _ => trivial) (Calibrates.refl _ _ u)
    exact ⟨phase, slice, sweeping, starts.coefs.trans keeps.coefs⟩
  case start =>
    intro s h mode none runs idle
    refine ⟨_, exec_calStart h, ?_⟩
    rw [State.singleSweep_starts mode none]
    have keeps := s.calibrates_startGroups
    have enabled (b : Nat) : calTakes s.cal.ctrl b = s.bankEn b := calTakes_on (ne_of_eq_of_ne mode (by decide)) b
    have starts {b : Nat} (hb : b < 4) (en : s.bankEn b = true) := State.startGroups_starts runs (fun i hi => idle ⟨i, hi⟩) hb
      ((enabled b).trans en)
    refine ⟨Nat.eq_of_testBit_eq fun i => ?_, fun b en => ?_, fun b en => keeps.banks b (by rw [enabled, en]; decide), keeps.regs⟩
    · rw [State.testBit_sweeping, fieldOf_testBit, Nat.zero_add]
      by_cases hi : i < 4
      · congr 1
        cases en : s.bankEn i with
        | true =>
          obtain ⟨-, -, sweeping⟩ := starts hi en
          exact sweeping.trans en.symm
        | false =>
          have before := s.testBit_sweeping i
          rw [none, Nat.zero_testBit, decide_eq_true hi, Bool.true_and] at before
          rw [keeps.sweeping i hi (by rw [enabled, en]; decide), ← before]
          exact en.symm
      · simp [hi]
    · obtain ⟨phase, slice, -⟩ := starts b.isLt en
      exact ⟨phase, slice⟩
  case startBusy =>
    intro s h mode sweeping
    exact ⟨_, exec_calStart h, State.calStartSweep_busy mode sweeping⟩
  case startWaits =>
    intro s h mode
    exact ⟨_, exec_calStart h, if_neg mode⟩
  case period =>
    intro s ho mode runs
    refine ⟨_, exec_sweepPeriodExpiry ho mode runs, ?_⟩
    have enabled (b : Nat) : s.bankEn b = calTakes s.cal.ctrl b := (calTakes_on (ne_of_eq_of_ne mode (by decide)) b).symm
    simp only [enabled]
    refine ⟨fun b en late => ?_, fun b en idle => ?_, fun b en => s.calibrates_periodsEnd.banks b (by rw [en]; decide)⟩
    · exact (State.periodsEnd_spec runs b.isLt en).1 late
    · obtain ⟨phase, slice, -⟩ := (State.periodsEnd_spec runs b.isLt en).2 idle
      exact ⟨phase, slice⟩
  case captureStart =>
    intro s b phase capturing ended
    refine ⟨_, exec_captureStart phase capturing ended, ?_⟩
    cases inj : (s.calBank b).inj with
    | none =>
      rw [if_neg (by simp)]
      have begins := s.calBank_beginCapture b
      refine ⟨fun _ => ⟨?_, fun slice => ?_⟩, fun h => absurd rfl h, rfl, ?_⟩
      · rw [State.calBank_setCalBank_same, begins]
      · rw [State.phase_setCalBank _ b.isLt, begins, CalBank.code, inj]
        simp only [if_neg slice]
      · exact (s.sameRegsBut_setCalBank b _).trans (State.sameRegsBut_setCalBank _ b _)
    | some p =>
      rw [if_pos (by simp)]
      refine ⟨fun h => absurd h (by simp), fun _ => ?_, rfl, s.sameRegsBut_setCalBank b _⟩
      rw [State.calBank_setCalBank_same]
      exact ⟨capturing, rfl⟩
  case captureEnd =>
    intro s b est capturing none
    refine ⟨_, exec_captureEnd capturing none, ?_⟩
    rw [State.calBank_setCalBank_same]
    exact ⟨rfl, fun slice => if_neg slice, rfl⟩

end Sys2Proof.Machine
end

section
/-! PROOF. The end of a visit and of a sweep (spec/05_selvedge_calibration.md R133 to R143). -/

namespace Sys2Proof.Machine

open Sys2Proof.Laws

variable {s : State} {b : Nat}

/-! ### The coefficients after a visit (R137, R139) -/

section Updated

variable (c : Coef) (e : VisitEst) (mu : Nat) (selfVisit quiet : Bool) (term spacing : Rat)

/-- OFFSET moves by its residual in every visit. -/
theorem updatedCoef_offset : (updatedCoef c e mu selfVisit quiet term spacing).1.offset =
    clampInt (-32768) 32767 (moveCoef c.offset e.offset mu) := by
  cases selfVisit
  · cases quiet <;> rfl
  · rfl

/-- GAIN moves by its residual unless the visit was quiet. -/
theorem updatedCoef_gain : (updatedCoef c e mu selfVisit false term spacing).1.gain =
    clampInt 0x18000 0x28000 (moveCoef c.gain ((e.gain : Rat) / 8) mu) := by
  cases selfVisit <;> rfl

end Updated

/-- A visit to another slice than the selvedge that found too little signal (R139). -/
def CalBank.quiet (x : CalBank) (e : VisitEst) : Bool := !(x.slice == 64) && decide (e.rmsDiff < fieldOf x.loop 16 16)

/-- The coefficients of the visited slice as the visit leaves them. -/
def State.visitCoef (s : State) (b : Nat) (e : VisitEst) : Coef :=
  (updatedCoef (s.coef b (s.calBank b).slice) e (calMu (s.calBank b).loop) ((s.calBank b).slice == 64) ((s.calBank b).quiet e)
    (((sparseGet (fun _ => 0) (s.calBank b).term (s.calBank b).slice : Int) : Rat) / 8) s.spacingFs).1

/-- They take effect with the next clock, unless every block was over range (R134, R139). -/
def State.movesCoef (s : State) (b : Nat) (e : VisitEst) : State :=
  if decide (calBlocks (s.calBank b).loop ≤ e.overBlocks) then s else s.setCoef b (s.calBank b).slice (s.visitCoef b e)

theorem State.movesCoef_spec (s : State) (b : Nat) (e : VisitEst) :
    (s.movesCoef b e).regs = s.regs ∧ (∀ i, (s.movesCoef b e).calBank i = s.calBank i) ∧
      (s.movesCoef b e).cal.coefs = s.cal.coefs ∧ (s.movesCoef b e).cal.ctrl = s.cal.ctrl := by
  unfold State.movesCoef
  split <;> exact ⟨rfl, fun _ => rfl, rfl, rfl⟩

/-! ### What a completed visit reports (R144, R145) -/

/-- The entries of a completed visit to the bank x, and the event LIMIT (R139, R145). -/
def State.reportsVisit (s : State) (b : Nat) (x : CalBank) (e : VisitEst) (limit : Bool) : State :=
  let allOver := decide (calBlocks x.loop ≤ e.overBlocks)
  let offset := if allOver then s else s.pushMon b x.slice 0 (toBitsInt 16 (clampInt (-32768) 32767 e.offset))
  let gain := if allOver || x.quiet e then offset
    else offset.pushMon b x.slice 1 (toBitsInt 16 (clampInt (-32768) 32767 e.gain))
  let skew := if allOver || x.quiet e || x.slice == 64 then gain
    else (gain.pushMon b x.slice 2 (toBitsInt 16 (clampInt (-32767) 32767 e.skew))).pushMon b x.slice 3
      (rmsOpen ((((e.taps.map (fun t => t * t)).foldl (· + ·) 0 : Int) : Rat) / 8))
  let range := if e.overBlocks = 0 then skew else skew.pushMon b x.slice 6 2
  let signal := if x.quiet e && !allOver then range.pushMon b x.slice 6 1 else range
  if limit && !allOver then (signal.pushMon b x.slice 6 3).hwSet F.CAL_EVENTS_LIMIT else signal

theorem State.calibrates_reportsVisit (s : State) (b : Nat) (x : CalBank) (e : VisitEst) (limit : Bool) :
    Calibrates [Reg.CAL_EVENTS] (fun _ => False) s (s.reportsVisit b x e limit) := by
  have entry {u : State} (h : Calibrates [Reg.CAL_EVENTS] (fun _ => False) s u) (bank slice kind value : Nat) :
      Calibrates [Reg.CAL_EVENTS] (fun _ => False) s (u.pushMon bank slice kind value) :=
    h.next (u.calibrates_pushMon bank slice kind value) (by simp) fun _ h => h
  unfold State.reportsVisit
  extract_lets allOver offset gain skew range signal
  have hoffset : Calibrates [Reg.CAL_EVENTS] (fun _ => False) s offset := .ite (.refl _ _ s) (entry (.refl _ _ s) ..)
  have hgain : Calibrates [Reg.CAL_EVENTS] (fun _ => False) s gain := .ite hoffset (entry hoffset ..)
  have hskew : Calibrates [Reg.CAL_EVENTS] (fun _ => False) s skew := .ite hgain (entry (entry hgain ..) ..)
  have hrange : Calibrates [Reg.CAL_EVENTS] (fun _ => False) s range := .ite hskew (entry hskew ..)
  have hsignal : Calibrates [Reg.CAL_EVENTS] (fun _ => False) s signal := .ite (entry hrange ..) hrange
  exact .ite ((entry hsignal ..).trans (State.calibrates_event _ (i := 4) (by decide))) hsignal

/-- Of the bank, a completed visit changes whether its sweep is clean, the residuals of skew and the terms. -/
theorem State.applyVisit_eq (s : State) (b : Nat) (e : VisitEst) : ∃ u skewSq term,
    Calibrates [Reg.CAL_EVENTS] (fun _ => False) (s.movesCoef b e) u ∧
      s.applyVisit b e = u.setCalBank b { u.calBank b with
        clean := (s.calBank b).clean && e.overBlocks == 0 && !(s.calBank b).quiet e, skewSq := skewSq, term := term,
        est := none } :=
  ⟨_, _, _, State.calibrates_reportsVisit _ b (s.calBank b) e _, rfl⟩

theorem State.applyVisit_spec (s : State) (hb : b < 4) (e : VisitEst) :
    Calibrates visitRegs (· = b) (s.movesCoef b e) (s.applyVisit b e) ∧
      ((s.applyVisit b e).calBank b).slice = (s.calBank b).slice ∧
      (e.overBlocks ≠ 0 → ((s.applyVisit b e).calBank b).clean = false) := by
  obtain ⟨u, skewSq, term, reports, eq⟩ := s.applyVisit_eq b e
  obtain ⟨-, banks, -⟩ := s.movesCoef_spec b e
  rw [eq, State.calBank_setCalBank_same]
  refine ⟨?_, ?_, fun overRange => by simp [overRange]⟩
  · exact (reports.mono (by simp) (by simp)).next (u.calibrates_setCalBank hb _) (by simp) fun _ h => h
  · rw [reports.banks b not_false, banks]

/-! ### The end of a sweep (R135, R141, R143) -/

/-- A bit of CONVERGED is that of its bank. -/
theorem State.testBit_converged (s : State) (i : Nat) :
    (s.getF F.CAL_STATUS_CONVERGED).testBit i = (decide (i < 4) && s.bit (bitFld Reg.CAL_STATUS (4 + i))) := by
  rw [State.getF, fieldOf_testBit, State.bit_eq_getLsbD _ rfl]
  rfl

theorem Calibrates.convergedOf {l : List Nat} {P : Nat → Prop} {t : State} (h : Calibrates l P s t) (hb : b < 4) :
    t.bit (bitFld Reg.CAL_STATUS (4 + b)) = s.bit (bitFld Reg.CAL_STATUS (4 + b)) := by
  have bits := congrArg (fun n => n.testBit b) h.converged
  simpa only [State.testBit_converged, decide_eq_true hb, Bool.true_and] using bits

/-- Whether a sweep met both conditions of R143. -/
def CalBank.converges (x : CalBank) : Bool := x.clean && decide (sweepSkew x.skewSq ≤ 64 * 64)

/-- A sweep that ends is judged, counted and reported. -/
def State.countsSweep (s : State) (b : Nat) : State :=
  let lost := if s.bit (bitFld Reg.CAL_STATUS (4 + b)) && !(s.calBank b).converges then s.hwSet F.CAL_EVENTS_CONV_LOST else s
  let judged := lost.setBit (bitFld Reg.CAL_STATUS (4 + b)) (s.calBank b).converges
  let counted := judged.setF ⟨Reg.CAL_SWEEP_COUNT, 8 * b, 8⟩ (judged.getF ⟨Reg.CAL_SWEEP_COUNT, 8 * b, 8⟩ + 1)
  (counted.pushMon b 0 5 (rmsOpen (sweepSkew (s.calBank b).skewSq))).hwSet F.CAL_EVENTS_SWEEP_DONE

theorem State.countsSweep_spec (s : State) (hb : b < 4) :
    (s.countsSweep b).calBank b = s.calBank b ∧ (s.countsSweep b).bit F.CAL_EVENTS_SWEEP_DONE = true ∧
      (s.countsSweep b).getF ⟨Reg.CAL_SWEEP_COUNT, 8 * b, 8⟩ = (s.getF ⟨Reg.CAL_SWEEP_COUNT, 8 * b, 8⟩ + 1) % 256 ∧
      (s.countsSweep b).bit (bitFld Reg.CAL_STATUS (4 + b)) = (s.calBank b).converges := by
  have status : 4 + b + 1 ≤ 32 := by omega
  have count : 8 * b + 8 ≤ 32 := by omega
  have apart : Reg.CAL_SWEEP_COUNT ≠ Reg.CAL_STATUS := by decide
  unfold State.countsSweep
  extract_lets lost judged counted
  have loses : Calibrates [Reg.CAL_EVENTS] (fun _ => False) s lost :=
    Calibrates.ite (s.calibrates_event (i := 6) (by decide)) (Calibrates.refl _ _ s)
  have pushes := counted.calibrates_pushMon b 0 5 (rmsOpen (sweepSkew (s.calBank b).skewSq))
  generalize counted.pushMon b 0 5 (rmsOpen (sweepSkew (s.calBank b).skewSq)) = u at pushes
  have reports : Calibrates [Reg.CAL_EVENTS] (fun _ => False) counted (u.hwSet F.CAL_EVENTS_SWEEP_DONE) :=
    (pushes.mono (by simp) (fun _ h => h)).trans (u.calibrates_event (i := 0) (by decide))
  refine ⟨?_, State.bit_hwSet_same u rfl rfl (by decide), ?_, ?_⟩
  · rw [reports.banks b not_false, ← loses.banks b not_false]
    rfl
  · have before : judged.getF ⟨Reg.CAL_SWEEP_COUNT, 8 * b, 8⟩ = s.getF ⟨Reg.CAL_SWEEP_COUNT, 8 * b, 8⟩ :=
      (State.getF_setF_other lost _ _ _ status (.inl apart)).trans
        (State.getF_congr_reg (loses.regs Reg.CAL_SWEEP_COUNT (by decide)))
    rw [State.getF_congr_reg (reports.regs Reg.CAL_SWEEP_COUNT (by decide)), State.getF_setF_same _ _ _ count, before]
    rfl
  · rw [reports.convergedOf hb]
    exact (State.bit_setF_other judged _ _ _ count (.inl apart.symm)).trans (State.bit_setBit_same lost _ _ status rfl)

/-- The bank terms leave of every bank all but the terms (R141). -/
theorem State.foldTerms_spec (s : State) (b : Nat) (terms : List Int) :
    Calibrates bankRegs (fun _ => True) s (s.foldTerms b terms) ∧
      ∀ i, ∃ term, (s.foldTerms b terms).calBank i = { s.calBank i with term := term } := by
  have group : ∀ q ∈ List.zip ((s.chanGroup b).drop 1) terms, q.1 < 4 := fun q hq =>
    (State.mem_chanGroup.mp (List.mem_of_mem_drop (List.of_mem_zip hq).1)).1
  unfold State.foldTerms
  generalize List.zip ((s.chanGroup b).drop 1) terms = l at group
  induction l generalizing s with
  | nil => exact ⟨Calibrates.refl _ _ s, fun i => ⟨(s.calBank i).term, rfl⟩⟩
  | cons q l ih =>
    rw [List.forall_mem_cons] at group
    obtain ⟨hq, group⟩ := group
    rw [List.foldl_cons]
    have pushes := s.calibrates_pushMon q.1 65 2 (toBitsInt 16 (clampInt (-32767) 32767 q.2))
    generalize s.pushMon q.1 65 2 (toBitsInt 16 (clampInt (-32767) 32767 q.2)) = u at pushes
    dsimp only
    generalize (List.range 64).foldl _ _ = folded
    have sets := u.calibrates_setCalBank hq { u.calBank q.1 with term := folded }
    obtain ⟨rest, banks⟩ := ih (u.setCalBank q.1 { u.calBank q.1 with term := folded }) group
    refine ⟨((pushes.mono (by simp) (by simp)).trans (sets.mono (by simp) (fun _ _ => trivial))).trans rest, fun i => ?_⟩
    obtain ⟨term, hterm⟩ := banks i
    rw [hterm, State.calBank_setCalBank]
    split
    · next here => exact ⟨term, by rw [here, pushes.banks q.1 not_false]⟩
    · exact ⟨term, by rw [pushes.banks i not_false]⟩

/-- The end of a bank's sweep. -/
theorem State.endSweep_spec (s : State) (hb : b < 4) (terms : List Int) :
    (s.endSweep b terms).bit F.CAL_EVENTS_SWEEP_DONE = true ∧
      (s.endSweep b terms).getF ⟨Reg.CAL_SWEEP_COUNT, 8 * b, 8⟩ = (s.getF ⟨Reg.CAL_SWEEP_COUNT, 8 * b, 8⟩ + 1) % 256 ∧
      (s.endSweep b terms).bit (bitFld Reg.CAL_STATUS (4 + b)) = ((s.endSweep b terms).calBank b).converges ∧
      ((s.endSweep b terms).calBank b).clean = (s.calBank b).clean := by
  obtain ⟨bank, done, count, converges⟩ := s.countsSweep_spec hb
  have whole : s.endSweep b terms =
      let u := s.countsSweep b
      let v := if (u.chanGroup b).all (fun i => i == b || !u.bit (bitFld Reg.CAL_STATUS i) ||
        ((u.calBank i).ended && (u.calBank i).slice == 63)) then u.foldTerms b terms else u
      if v.getF ⟨Reg.CAL_SWEEP_PERIOD, 0, 16⟩ = 0 then v.setCalBank b { v.calBank b with due := true } else v := rfl
  rw [whole]
  extract_lets u v
  have terms : Calibrates bankRegs (fun _ => True) u v ∧ ∃ term, v.calBank b = { u.calBank b with term := term } := by
    obtain ⟨folds, banks⟩ := u.foldTerms_spec b terms
    unfold v
    split
    · exact ⟨folds, banks b⟩
    · exact ⟨Calibrates.refl _ _ u, (u.calBank b).term, rfl⟩
  obtain ⟨folds, term, hterm⟩ := terms
  have ends : ∃ w, (if v.getF ⟨Reg.CAL_SWEEP_PERIOD, 0, 16⟩ = 0 then v.setCalBank b { v.calBank b with due := true } else v) = w ∧
      Calibrates bankRegs (fun _ => True) u w ∧ ∃ due, w.calBank b = { v.calBank b with due := due } := by
    refine ⟨_, rfl, ?_⟩
    split
    · exact ⟨folds.next (v.calibrates_setCalBank hb _) (fun _ h => h) fun _ _ => trivial, true, State.calBank_setCalBank_same _ _ _⟩
    · exact ⟨folds, (v.calBank b).due, rfl⟩
  obtain ⟨w, hw, follows, due, hdue⟩ := ends
  rw [hw, follows.bit (by decide), State.getF_congr_reg (follows.regs Reg.CAL_SWEEP_COUNT (by decide)), follows.convergedOf hb,
    hdue, hterm, bank]
  exact ⟨done, count, converges, rfl⟩

/-! ### The end of a visit (R133, R134) -/

/-- The visit of slice 63 ends the sweep, but in FOCUS. -/
def State.sweepEnds (s : State) (b : Nat) (terms : List Int) : State :=
  if (s.calBank b).slice = 63 && s.calMode != 3 then s.endSweep b terms else s

/-- The last clock of UPDATE. -/
def State.visitDone (s : State) (b : Nat) : State :=
  s.setCalBank b { s.calBank b with capturing := false, ended := true }

theorem exec_visitEnd {b : Fin 4} {e : VisitEst} (h : (s.calBank b).est = some e) (terms : List Int) :
    exec (.visitEnd b terms) s = .next (((s.applyVisit b e).sweepEnds b terms).visitDone b) := by
  have hexec : exec (.visitEnd b terms) s = execVisitEnd b terms s := rfl
  rw [hexec, execVisitEnd, h]
  rfl

theorem State.calBank_visitDone (s : State) (b : Nat) :
    (s.visitDone b).calBank b = { s.calBank b with capturing := false, ended := true } := State.calBank_setCalBank_same _ _ _

theorem State.applyVisit_calMode (s : State) (hb : b < 4) (e : VisitEst) : (s.applyVisit b e).calMode = s.calMode := by
  obtain ⟨visits, -⟩ := s.applyVisit_spec hb e
  obtain ⟨-, -, -, ctrl⟩ := s.movesCoef_spec b e
  rw [State.calMode, visits.ctrl, ctrl, State.calMode]

/-- A visit within a sweep. -/
theorem State.sweepEnds_within (hb : b < 4) (e : VisitEst) (slice : (s.calBank b).slice ≠ 63) (terms : List Int) :
    (s.applyVisit b e).sweepEnds b terms = s.applyVisit b e := by
  obtain ⟨-, same, -⟩ := s.applyVisit_spec hb e
  exact if_neg (by simp [same, slice])

/-- The last visit of a sweep. -/
theorem State.sweepEnds_last (hb : b < 4) (e : VisitEst) (slice : (s.calBank b).slice = 63) (mode : s.calMode ≠ 3)
    (terms : List Int) : (s.applyVisit b e).sweepEnds b terms = (s.applyVisit b e).endSweep b terms := by
  obtain ⟨-, same, -⟩ := s.applyVisit_spec hb e
  exact if_pos (by simp [same, slice, s.applyVisit_calMode hb e, mode])

/-- The coefficients that a visit sets stand last among those that take effect. -/
theorem State.coming_movesCoef {e : VisitEst} (h : e.overBlocks < calBlocks (s.calBank b).loop) :
    (s.movesCoef b e).cal.coming = s.cal.coming ++ [(65 * b + (s.calBank b).slice, s.visitCoef b e)] := by
  rw [State.movesCoef, if_neg (by simp [h])]
  rfl

theorem State.coefsTake_one {k : Nat} {c : Coef} (h : s.cal.coming = [(k, c)]) :
    s.coefsTake = ({ s with cal := { s.cal with coming := [] } } : State).putCoef k c := by
  rw [State.coefsTake, h, List.foldl_cons, List.foldl_nil]

/-! ### What follows a visit (R133, R134) -/

theorem State.visitFollows_within (ended : (s.calBank b).ended = true) (mode : s.calMode ≠ 3) (slice : (s.calBank b).slice ≠ 63) :
    s.visitFollows b = s.startVisit b (if (s.calBank b).slice = 64 then 0 else (s.calBank b).slice + 1) := by
  simp [State.visitFollows, ended, mode, slice]

theorem State.visitFollows_last (ended : (s.calBank b).ended = true) (mode : s.calMode ≠ 3) (slice : (s.calBank b).slice = 63) :
    s.visitFollows b = s.idleBank b .gap := by
  simp [State.visitFollows, ended, mode, slice]

/-- Settles O29: the end of a visit moves the coefficients and reports, and the last visit ends its sweep. -/
theorem calibrationVisits : Obligations.CalibrationVisits := by
  unfold Obligations.CalibrationVisits
  refine ⟨?moves, ?next, ?takes, ?ends, ?gap⟩
  case moves =>
    intro s b terms e est mode slice
    refine ⟨_, exec_visitEnd est terms, ?_⟩
    obtain ⟨visits, same, -⟩ := s.applyVisit_spec b.isLt e
    obtain ⟨-, -, coefs, -⟩ := s.movesCoef_spec b e
    have coming : (((s.applyVisit b e).sweepEnds b terms).visitDone b).cal.coming = (s.movesCoef b e).cal.coming := by
      rw [State.sweepEnds_within b.isLt e slice]
      exact visits.coming
    rw [State.calBank_visitDone, coming, State.sweepEnds_within b.isLt e slice]
    refine ⟨rfl, same, visits.coefs.trans coefs, fun overRange => ?_, fun inRange => ?_, fun inRange loud => ?_⟩
    · rw [State.movesCoef, if_pos (decide_eq_true overRange)]
    · rw [State.coming_movesCoef inRange, List.dropLast_concat, List.getLast?_concat, Option.map_some, State.visitCoef,
        updatedCoef_offset]
      exact ⟨rfl, rfl⟩
    · have quiet : (s.calBank b).quiet e = false := by simp [CalBank.quiet, Nat.not_lt.mpr loud]
      rw [State.coming_movesCoef inRange, List.getLast?_concat, Option.map_some, State.visitCoef, quiet, updatedCoef_gain]
  case next =>
    rintro s b t ended mode slice rfl
    rw [State.visitFollows_within ended mode slice, State.calBank_startVisit]
    refine ⟨rfl, fun below => if_neg ?_, rfl, rfl⟩
    split <;> omega
  case takes =>
    rintro s k c t coming rfl
    rw [State.coefsTake_one coming]
    exact ⟨sparseGet_set_same _ _ _ _, fun j hj => sparseGet_set_other _ _ _ hj, rfl⟩
  case ends =>
    intro s b terms e est mode slice
    refine ⟨_, exec_visitEnd est terms, ?_⟩
    rw [State.sweepEnds_last b.isLt e slice mode]
    obtain ⟨visits, -, dirty⟩ := s.applyVisit_spec b.isLt e
    obtain ⟨regs, -⟩ := s.movesCoef_spec b e
    obtain ⟨done, count, converges, clean⟩ := (s.applyVisit b e).endSweep_spec b.isLt terms
    have last : Calibrates bankRegs (· = b.val) _ (((s.applyVisit b e).endSweep b terms).visitDone b) :=
      State.calibrates_setCalBank _ b.isLt _
    rw [last.bit (by decide), State.getF_congr_reg (last.regs Reg.CAL_SWEEP_COUNT (by decide)), last.convergedOf b.isLt,
      State.calBank_visitDone, converges, count, State.getF_congr_reg (visits.regs Reg.CAL_SWEEP_COUNT (by decide)),
      State.getF_congr regs]
    refine ⟨rfl, done, rfl, rfl, fun overRange => ?_⟩
    rw [CalBank.converges, clean, dirty overRange, Bool.false_and]
  case gap =>
    rintro s b t ended mode slice rfl
    rw [State.visitFollows_last ended mode slice, State.calBank_idleBank]
    exact ⟨rfl, s.sweeping_idleBank b.isLt .gap⟩

end Sys2Proof.Machine
end

section
/-! PROOF. Calibration at a restart of the dividers (spec/05_selvedge_calibration.md R139, spec/06_clocking.md R166). -/

namespace Sys2Proof.Machine

variable {s : State}

/-- A restart abandons the visit of a bank that takes part (R139). -/
def State.abandonsVisit (s : State) (b : Nat) : State :=
  if calTakes s.cal.ctrl b then (s.abortVisit b).idleBank b .gap else s

/-- What calibration that goes on does to one bank (R135, R140). -/
def State.resumesBank (s : State) (b : Nat) : State :=
  if !s.operational || !calTakes s.cal.ctrl b || (s.calBank b).busy then s
  else if s.calMode = 3 then s.startSweep b
  else if s.calMode = 1 && s.getF ⟨Reg.CAL_SWEEP_PERIOD, 0, 16⟩ == 0 then s.setCalBank b { s.calBank b with due := true }
  else s

theorem State.calRestart_eq (s : State) :
    s.calRestart = (List.range 4).foldl State.resumesBank ((List.range 4).foldl State.abandonsVisit s) := rfl

theorem State.calibrates_abandonsVisit (s : State) {b : Nat} (hb : b < 4) :
    Calibrates visitRegs (· = b) s (s.abandonsVisit b) := by
  obtain ⟨aborts, -⟩ := s.abortVisit_spec hb
  exact Calibrates.ite (aborts.next (State.calibrates_idleBank _ hb .gap) (by simp) fun _ h => h) (Calibrates.refl _ _ s)

theorem State.calibrates_resumesBank (s : State) {b : Nat} (hb : b < 4) :
    Calibrates visitRegs (· = b) s (s.resumesBank b) := by
  have same := Calibrates.refl visitRegs (· = b) s
  have sweeps := same.next (s.calibrates_startSweep hb) (by simp) fun _ h => h
  have due := same.next (s.calibrates_setCalBank hb { s.calBank b with due := true }) (by simp) fun _ h => h
  exact Calibrates.ite same (Calibrates.ite sweeps (Calibrates.ite due same))

/-- Outside FOCUS no sweep begins: the bank stays in its phase (R135). -/
theorem State.phase_resumesBank (mode : s.calMode ≠ 3) (b : Nat) :
    ((s.resumesBank b).calBank b).phase = (s.calBank b).phase := by
  unfold State.resumesBank
  rw [if_neg mode]
  split
  · rfl
  · split
    · rw [State.calBank_setCalBank_same]
    · rfl

/-- An operation on each of the four banks in turn. -/
theorem Calibrates.foldBanks {f : State → Nat → State} {l : List Nat} (hf : ∀ u c, c < 4 → Calibrates l (· = c) u (f u c))
    (s : State) :
    Calibrates l (fun _ => True) s ((List.range 4).foldl f s) :=
  Calibrates.foldl (Calibrates.refl _ _ s) _ fun u c hc _ => (hf u c (List.mem_range.mp hc)).mono (fun _ h => h) fun _ _ => trivial

theorem State.calibrates_calRestart (s : State) : Calibrates visitRegs (fun _ => True) s s.calRestart := by
  rw [State.calRestart_eq]
  exact (Calibrates.foldBanks (fun u _ hc => u.calibrates_abandonsVisit hc) s).trans
    (Calibrates.foldBanks (fun u _ hc => u.calibrates_resumesBank hc) _)

/-- After a restart outside FOCUS a bank that takes part waits in GAP for its next sweep. -/
theorem State.phase_calRestart {b : Nat} (hb : b < 4) (takes : calTakes s.cal.ctrl b = true) (mode : s.calMode ≠ 3) :
    (s.calRestart.calBank b).phase = .gap := by
  have mem : b ∈ List.range 4 := List.mem_range.mpr hb
  rw [State.calRestart_eq]
  have abandons := Calibrates.foldBanks (fun u _ hc => u.calibrates_abandonsVisit hc) s
  obtain ⟨u, before, after⟩ := Calibrates.foldBanks_at (s := s) List.nodup_range mem
    fun u c hc => u.calibrates_abandonsVisit (List.mem_range.mp hc)
  have gap : (((List.range 4).foldl State.abandonsVisit s).calBank b).phase = .gap := by
    rw [after.banks b (fun h => h rfl), State.abandonsVisit, before.ctrl, if_pos takes, State.calBank_idleBank]
  generalize (List.range 4).foldl State.abandonsVisit s = v at abandons gap
  obtain ⟨w, before, after⟩ := Calibrates.foldBanks_at (s := v) List.nodup_range mem
    fun u c hc => u.calibrates_resumesBank (List.mem_range.mp hc)
  have stays : w.calMode ≠ 3 := by rwa [State.calMode, before.ctrl, abandons.ctrl]
  rw [after.banks b (fun h => h rfl), State.phase_resumesBank stays, before.banks b (fun h => h rfl), gap]

end Sys2Proof.Machine
end

section
/-! PROOF. SYNC_IN and PAIR_TRIM (spec/06_clocking.md R166, R168, spec/16_pair_and_array.md R393). -/

namespace Sys2Proof.Machine

open Sys2Proof.Laws

variable {s : State}

/-! ### SYNC_IN (R166) -/

theorem State.get64_lt (s : State) (lo : Nat) : s.get64 lo < 2 ^ 64 := by
  have low := (s.reg lo).isLt
  have high := (s.reg (lo + 4)).isLt
  rw [State.get64]
  omega

/-- What an edge of SYNC_IN under ARM loads and shows. -/
def State.syncLoads (s : State) : State :=
  (((s.loadTsc (s.get64 Reg.CLK_TSC_LOAD_LO)).set64 Reg.CLK_BUILD_OUT_LO 0).setF F.CLK_SYNC_MODE 2).hwSet F.CLK_EVENTS_SYNC_DONE

/-- An edge of SYNC_IN under ARM: the dividers restart, and with them calibration (R139, R166). -/
def State.syncRestarts (s : State) : State :=
  let u := s.syncLoads.calRestart
  { u with clk := { u.clk with originTsc := s.get64 Reg.CLK_TSC_LOAD_LO, sync := 0 } }

section Edge

variable (phase : Int)

theorem exec_syncInEdge_arm (mode : s.getF F.CLK_SYNC_MODE = 1) (here : s.bit F.CLK_STATUS_REF_PRESENT = true)
    (locked : s.pllState .spll = pllLocked) : exec (.syncInEdge phase) s = .next s.syncRestarts := by
  have whole : exec (.syncInEdge phase) s = execSyncInEdge phase s := rfl
  rw [whole, execSyncInEdge]
  dsimp only
  rw [mode, if_neg (by decide), here, locked, if_neg (by decide), if_pos rfl, State.syncRestarts, State.syncLoads]

theorem exec_syncInEdge_check (mode : s.getF F.CLK_SYNC_MODE = 2) (here : s.bit F.CLK_STATUS_REF_PRESENT = true)
    (locked : s.pllState .spll = pllLocked) (apart : phase ≠ 0) : exec (.syncInEdge phase) s =
      .next ((s.setReg Reg.CLK_SYNC_OFFSET (BitVec.ofInt 32 phase)).hwSet F.CLK_EVENTS_SYNC_SLIP) := by
  have whole : exec (.syncInEdge phase) s = execSyncInEdge phase s := rfl
  rw [whole, execSyncInEdge]
  simp [mode, here, locked, apart]

theorem exec_syncInEdge_ignored (mode : s.getF F.CLK_SYNC_MODE = 1 ∨ s.getF F.CLK_SYNC_MODE = 2)
    (lost : s.bit F.CLK_STATUS_REF_PRESENT = false ∨ s.pllState .spll ≠ pllLocked) :
    exec (.syncInEdge phase) s = .next (s.hwSet F.CLK_EVENTS_SYNC_IGNORED) := by
  have whole : exec (.syncInEdge phase) s = execSyncInEdge phase s := rfl
  have asks : ¬ (s.getF F.CLK_SYNC_MODE = 0 ∨ s.getF F.CLK_SYNC_MODE = 3) := by omega
  have ignores : (!s.bit F.CLK_STATUS_REF_PRESENT || s.pllState .spll != pllLocked) = true := by
    rcases lost with h | h <;> simp [h]
  rw [whole, execSyncInEdge]
  dsimp only
  rw [if_neg asks, if_pos ignores]

end Edge

/-- The load of the TSC touches its registers, and of calibration the log alone. -/
theorem State.loadTsc_spec (s : State) (n : Nat) :
    s.SameRegsBut (s.loadTsc n) [Reg.CLK_TSC_LO, Reg.CLK_TSC_HI] ∧ (s.loadTsc n).tsc = n % 2 ^ 64 ∧
      (s.loadTsc n).cal.coefs = s.cal.coefs ∧ (s.loadTsc n).cal.ctrl = s.cal.ctrl :=
  ⟨State.sameRegsBut_set64 (s.rebase ((n : Int) - s.tsc)) Reg.CLK_TSC_LO n, State.get64_set64_same _ _ n, rfl, rfl⟩

theorem State.syncLoads_spec (s : State) :
    s.syncLoads.tsc = s.get64 Reg.CLK_TSC_LOAD_LO ∧ s.syncLoads.get64 Reg.CLK_BUILD_OUT_LO = 0 ∧
      s.syncLoads.getF F.CLK_SYNC_MODE = 2 ∧ s.syncLoads.bit F.CLK_EVENTS_SYNC_DONE = true ∧
      s.syncLoads.cal.coefs = s.cal.coefs ∧ s.syncLoads.cal.ctrl = s.cal.ctrl := by
  obtain ⟨-, tsc, coefs, ctrl⟩ := s.loadTsc_spec (s.get64 Reg.CLK_TSC_LOAD_LO)
  rw [Nat.mod_eq_of_lt (s.get64_lt _)] at tsc
  unfold State.syncLoads
  generalize s.loadTsc (s.get64 Reg.CLK_TSC_LOAD_LO) = u at tsc coefs ctrl
  have builds := u.sameRegsBut_set64 Reg.CLK_BUILD_OUT_LO 0
  have built := u.get64_set64_same Reg.CLK_BUILD_OUT_LO 0
  have cal : (u.set64 Reg.CLK_BUILD_OUT_LO 0).cal = u.cal := rfl
  generalize u.set64 Reg.CLK_BUILD_OUT_LO 0 = v at builds built cal
  have checks := v.sameRegsBut_setF F.CLK_SYNC_MODE 2
  have check : (v.setF F.CLK_SYNC_MODE 2).getF F.CLK_SYNC_MODE = 2 := State.getF_setF_same v _ 2 (by decide)
  have cal' : (v.setF F.CLK_SYNC_MODE 2).cal = v.cal := rfl
  generalize v.setF F.CLK_SYNC_MODE 2 = w at checks check cal'
  obtain ⟨done, marks, -⟩ := w.hwSet_spec (f := F.CLK_EVENTS_SYNC_DONE) rfl rfl (by decide)
  refine ⟨?_, ?_, ?_, done, ?_, ?_⟩
  · rw [State.tsc, marks.get64 (by decide) (by decide), checks.get64 (by decide) (by decide),
      builds.get64 (by decide) (by decide)]
    exact tsc
  · rw [marks.get64 (by decide) (by decide), checks.get64 (by decide) (by decide), built, Nat.zero_mod]
  · rw [State.getF_congr_reg (marks _ (by decide)), check]
  · rw [State.hwSet_cal, cal', cal, coefs]
  · rw [State.hwSet_cal, cal', cal, ctrl]

theorem State.syncRestarts_spec (s : State) :
    s.syncRestarts.tsc = s.get64 Reg.CLK_TSC_LOAD_LO ∧ s.syncRestarts.clk.originTsc = s.get64 Reg.CLK_TSC_LOAD_LO ∧
      s.syncRestarts.get64 Reg.CLK_BUILD_OUT_LO = 0 ∧ s.syncRestarts.getF F.CLK_SYNC_MODE = 2 ∧
      s.syncRestarts.bit F.CLK_EVENTS_SYNC_DONE = true ∧
      (∀ b : Fin 4, calTakes s.cal.ctrl b = true → s.calMode ≠ 3 → (s.syncRestarts.calBank b).phase = .gap) ∧
      s.syncRestarts.cal.coefs = s.cal.coefs := by
  obtain ⟨tsc, built, mode, done, coefs, ctrl⟩ := s.syncLoads_spec
  have restarts := s.syncLoads.calibrates_calRestart
  have gap (b : Fin 4) (takes : calTakes s.cal.ctrl b = true) (mode : s.calMode ≠ 3) :
      (s.syncLoads.calRestart.calBank b).phase = .gap :=
    State.phase_calRestart b.isLt (by rwa [ctrl]) (by rwa [State.calMode, ctrl])
  unfold State.syncRestarts
  generalize s.syncLoads.calRestart = u at restarts gap
  refine ⟨?_, rfl, ?_, ?_, ?_, gap, restarts.coefs.trans coefs⟩
  · exact (restarts.regs.get64 (lo := Reg.CLK_TSC_LO) (by decide) (by decide)).trans tsc
  · exact (restarts.regs.get64 (lo := Reg.CLK_BUILD_OUT_LO) (by decide) (by decide)).trans built
  · exact (State.getF_congr_reg (f := F.CLK_SYNC_MODE) (restarts.regs _ (by decide))).trans mode
  · exact (restarts.bit (f := F.CLK_EVENTS_SYNC_DONE) (by decide)).trans done

/-- A write of CLK.SYNC meets its rule (R166). -/
theorem exec_write_sync (h : s.takesWrite Reg.CLK_SYNC = true) (v : Word) :
    exec (.registerWrite Reg.CLK_SYNC v 15 none) s = .next (s.syncWrite v) := by
  have access : accessAt Reg.CLK_SYNC ≠ .w1c := by decide
  have block : Reg.CLK_SYNC / 0x10000 = 0xA := rfl
  rw [exec_registerWrite, State.writeWord_full, State.hostWrite_local h rfl]
  simp [State.writeReg, access, block, State.writeClk]

/-! ### PAIR_TRIM (R168, R393) -/

theorem exec_pairTrimWrite (h : s.takesWrite Reg.CLK_PAIR_TRIM = true) (alone : s.isShadow = false) (v : Word) :
    exec (.pairTrimWrite v) s = .next (s.retrim (fieldOf v 0 16)) := by
  have whole : exec (.pairTrimWrite v) s = .next (s.hostWrite Reg.CLK_PAIR_TRIM v fun s => s.trimWrite v) := rfl
  rw [whole, State.hostWrite_local h rfl, State.trimWrite, alone]
  rfl

theorem fieldOf_ofNat_low {n w : Nat} (hn : n < 2 ^ w) (hw : w ≤ 32) : fieldOf (BitVec.ofNat 32 n) 0 w = n := by
  have fits : n < 2 ^ 32 := hn.trans_le (Nat.pow_le_pow_right (by decide) hw)
  rw [fieldOf, BitVec.ushiftRight_zero, BitVec.toNat_ofNat, Nat.mod_eq_of_lt fits, Nat.mod_eq_of_lt hn]

/-- The field holds the target, and PAIR_SLEWING says whether the slew has still to reach it. -/
theorem State.retrim_spec (s : State) {n : Nat} (hn : n < 2 ^ 16) :
    (s.retrim n).getF ⟨Reg.CLK_PAIR_TRIM, 0, 16⟩ = n ∧ (s.retrim n).clk = s.clk ∧
      (s.retrim n).bit F.CLK_STATUS_PAIR_SLEWING = (ofBitsInt 16 n != s.clk.trimNow) ∧
      s.SameRegsBut (s.retrim n) [Reg.CLK_PAIR_TRIM, Reg.CLK_STATUS] := by
  have takes := s.reg_setReg_same Reg.CLK_PAIR_TRIM (BitVec.ofNat 32 n)
  have trims := s.sameRegsBut_setReg Reg.CLK_PAIR_TRIM (BitVec.ofNat 32 n)
  have clk : (s.setReg Reg.CLK_PAIR_TRIM (BitVec.ofNat 32 n)).clk = s.clk := rfl
  have whole : s.retrim n = (s.setReg Reg.CLK_PAIR_TRIM (BitVec.ofNat 32 n)).setBit F.CLK_STATUS_PAIR_SLEWING
      ((s.setReg Reg.CLK_PAIR_TRIM (BitVec.ofNat 32 n)).trimTarget !=
        (s.setReg Reg.CLK_PAIR_TRIM (BitVec.ofNat 32 n)).clk.trimNow) := by
    rw [State.retrim, show n % 65536 = n from Nat.mod_eq_of_lt hn]
  generalize s.setReg Reg.CLK_PAIR_TRIM (BitVec.ofNat 32 n) = u at takes trims clk whole
  have target : u.trimTarget = ofBitsInt 16 n := by
    rw [State.trimTarget, takes, BitVec.toNat_ofNat, Nat.mod_eq_of_lt (hn.trans (by decide))]
  rw [whole, target, clk]
  refine ⟨?_, clk, State.bit_setBit_same u _ _ (by decide) rfl, ?_⟩
  · rw [State.setBit, State.getF_setF_other u _ _ _ (by decide) (.inl (by decide)), State.getF, takes]
    exact fieldOf_ofNat_low hn (by decide)
  · exact (trims.mono (by simp)).setF _ _ (by simp [F.CLK_STATUS_PAIR_SLEWING])

/-- A fabric clock has at most four edges of the slice clock. -/
theorem State.sliceEdges_bounds (s : State) : 0 ≤ s.sliceEdges ∧ s.sliceEdges ≤ 4 := by
  unfold State.sliceEdges
  split
  · decide
  · split <;> decide

/-- In a fabric clock the slew moves by at most four steps (R168). -/
theorem State.slewTrim_near (s : State) : (s.slewTrim.clk.trimNow - s.clk.trimNow).natAbs ≤ 4 := by
  obtain ⟨hlo, hhi⟩ := s.sliceEdges_bounds
  have moves : s.slewTrim.clk.trimNow = if s.bit F.CLK_STATUS_PAIR_SLEWING then
      (if s.clk.trimNow < s.trimTarget then min s.trimTarget (s.clk.trimNow + s.sliceEdges)
        else max s.trimTarget (s.clk.trimNow - s.sliceEdges)) else s.clk.trimNow := by
    unfold State.slewTrim
    split <;> rfl
  rw [moves]
  split
  · split <;> omega
  · omega

end Sys2Proof.Machine
end

section
/-! PROOF. The outputs of the PLLs: their gates and their enables (spec/06_clocking.md R159, R164,
spec/02_draft_image.md R40). -/

namespace Sys2Proof.Machine

open Sys2Proof.Laws

variable {s : State}

/-! ### Numbers and words -/

theorem pllIdx_lt (p : Pll) : p.idx < 5 := by cases p <;> decide

theorem outCount_le (p : Pll) : outCount p ≤ 6 := by cases p <;> decide

/-- The status word of a PLL is no word of an output. -/
theorem pllStatus_notMem_out (p q : Pll) (o : Nat) : Reg.CLK_PLL_STATUS q.idx ∉ [Reg.CLK_OUT p.idx o] := by
  have := pllIdx_lt q
  rw [List.mem_singleton]
  show 0xa0100 + 32 * q.idx ≠ 0xa0200 + 0x40 * p.idx + 4 * o
  omega

theorem clkOut_inj {p : Pll} {o o' : Nat} : Reg.CLK_OUT p.idx o = Reg.CLK_OUT p.idx o' ↔ o = o' := by
  show 0xa0200 + 0x40 * p.idx + 4 * o = 0xa0200 + 0x40 * p.idx + 4 * o' ↔ o = o'
  omega

/-- The number whose bits below n are those of f. -/
def gatherBits (f : Nat → Bool) (n : Nat) : Nat := (List.range n).foldl (fun a i => if f i then a + 2 ^ i else a) 0

theorem gatherBits_succ (f : Nat → Bool) (n : Nat) :
    gatherBits f (n + 1) = if f n then 2 ^ n + gatherBits f n else gatherBits f n := by
  simp [gatherBits, List.range_succ, Nat.add_comm]

theorem gatherBits_lt (f : Nat → Bool) (n : Nat) : gatherBits f n < 2 ^ n := by
  induction n with
  | zero => exact Nat.one_pos
  | succ n ih =>
    rw [gatherBits_succ]
    split <;> omega

theorem testBit_gatherBits (f : Nat → Bool) {n i : Nat} (hi : i < n) : (gatherBits f n).testBit i = f i := by
  induction n with
  | zero => omega
  | succ n ih =>
    rw [gatherBits_succ]
    rcases Nat.lt_succ_iff_lt_or_eq.mp hi with below | rfl
    · split
      · rw [Nat.testBit_two_pow_add_gt below, ih below]
      · exact ih below
    · have clear : (gatherBits f i).testBit i = false := Nat.testBit_lt_two_pow (gatherBits_lt f i)
      split
      · next set => rw [Nat.testBit_two_pow_add_eq, clear, set, Bool.not_false]
      · next unset => rw [clear, Bool.eq_false_of_not_eq_true unset]

/-- Setting a bit to what it reads leaves the word. -/
theorem State.reg_setBit_self (s : State) {f : Fld} (hw : f.w = 1) (hlo : f.lo < 32) (o : Nat) :
    (s.setBit f (s.bit f)).reg o = s.reg o := by
  rw [State.setBit, State.reg_setF]
  split
  · next here =>
    rw [here, State.bit_eq_getLsbD s hw, hw]
    apply BitVec.eq_of_getLsbD_eq
    intro i _
    rw [insertField_getLsbD _ _ _ _ _ (by omega)]
    split
    · next inside =>
      rw [show i = f.lo by omega, Nat.sub_self]
      cases (s.reg f.off).getLsbD f.lo <;> rfl
    · rfl
  · rfl

/-! ### Gates (R159, R164) -/

/-- An existing output runs as its EN in effect says, unless it is gated. -/
def State.drivesOut (p : Pll) (gated : Bool) (s : State) (o : Nat) : State :=
  if s.outExists p o then s.setBit (F.CLK_OUT_EN_EFFECT p.idx o) (!gated && (s.clk.ens.getD p.idx 0).getLsbD o) else s

/-- So do the first n outputs of a PLL. -/
def State.drivesOuts (s : State) (p : Pll) (gated : Bool) (n : Nat) : State := (List.range n).foldl (State.drivesOut p gated) s

theorem State.drivesOuts_succ (s : State) (p : Pll) (gated : Bool) (n : Nat) :
    s.drivesOuts p gated (n + 1) = State.drivesOut p gated (s.drivesOuts p gated n) n := by
  simp [State.drivesOuts, List.range_succ]

theorem State.sameRegsBut_drivesOut (s : State) (p : Pll) (gated : Bool) (o : Nat) :
    s.SameRegsBut (State.drivesOut p gated s o) [Reg.CLK_OUT p.idx o] := by
  unfold State.drivesOut
  split
  · exact State.sameRegsBut_setF s _ _
  · exact State.SameRegsBut.refl s _

theorem State.clk_drivesOuts (s : State) (p : Pll) (gated : Bool) (n : Nat) : (s.drivesOuts p gated n).clk = s.clk :=
  foldl_same State.clk _ (fun u o => by unfold State.drivesOut; split <;> rfl) _ s

/-- A field beside EN_EFFECT stays, of whatever register. -/
theorem State.getF_drivesOuts (s : State) (p : Pll) (gated : Bool) (n : Nat) {f : Fld} (h : f.lo + f.w ≤ 30 ∨ 31 ≤ f.lo) :
    (s.drivesOuts p gated n).getF f = s.getF f := by
  refine foldl_same (fun u => u.getF f) _ (fun u o => ?_) _ s
  unfold State.drivesOut
  split
  · exact State.getF_setF_other u _ f _ (show 30 + 1 ≤ 32 by decide) (.inr h)
  · rfl

theorem State.sameRegsBut_drivesOuts (s : State) (p : Pll) (gated : Bool) (n : Nat) :
    s.SameRegsBut (s.drivesOuts p gated n) ((List.range n).map (Reg.CLK_OUT p.idx)) := by
  induction n with
  | zero => exact State.SameRegsBut.refl s _
  | succ n ih =>
    rw [State.drivesOuts_succ, List.range_succ, List.map_append]
    exact (ih.mono fun o ho => List.mem_append_left _ ho).trans
      ((State.sameRegsBut_drivesOut _ p gated n).mono fun o ho => List.mem_append_right _ ho)

theorem State.bit_drivesOuts (s : State) {p : Pll} (gated : Bool) {n o : Nat} (ho : o < n) (exist : s.outExists p o = true) :
    (s.drivesOuts p gated n).bit (F.CLK_OUT_EN_EFFECT p.idx o) = (!gated && (s.clk.ens.getD p.idx 0).getLsbD o) := by
  induction n with
  | zero => omega
  | succ n ih =>
    have clk := s.clk_drivesOuts p gated n
    rw [State.drivesOuts_succ]
    by_cases last : o = n
    · subst last
      have there : (s.drivesOuts p gated o).outExists p o = true := by rwa [State.outExists, clk]
      rw [State.drivesOut, if_pos there, clk]
      exact State.bit_setBit_same _ _ _ (show 30 + 1 ≤ 32 by decide) rfl
    · have other : (F.CLK_OUT_EN_EFFECT p.idx o).off ∉ [Reg.CLK_OUT p.idx n] := by
        rw [List.mem_singleton]
        exact fun e => last (clkOut_inj.mp e)
      rw [State.bit, State.getF_congr_reg (State.sameRegsBut_drivesOut _ p gated n _ other)]
      exact ih (by omega)

/-! ### Enables (R159) -/

/-- The EN bits in effect are those last written. -/
theorem State.ens_takeEn (s : State) (p : Pll) {o : Nat} (ho : o < 6) :
    ((s.takeEn p).clk.ens.getD p.idx 0).getLsbD o = s.bit (F.CLK_OUT_EN p.idx o) := by
  have taken : (s.takeEn p).clk.ens.getD p.idx 0 = BitVec.ofNat 16 (gatherBits (fun o => s.bit (F.CLK_OUT_EN p.idx o)) 6) := by
    simp [State.takeEn, gatherBits, List.getD, pllIdx_lt p]
  rw [taken, BitVec.getLsbD_ofNat, testBit_gatherBits _ ho, decide_eq_true (ho.trans (by decide)), Bool.true_and]

/-- The EN bits of a PLL come into effect, and its gate is set as it was. -/
def State.regates (s : State) (p : Pll) : State :=
  (s.takeEn p).setBit (F.CLK_PLL_STATUS_GATED p.idx) (s.bit (F.CLK_PLL_STATUS_GATED p.idx))

/-- The outputs follow EN. -/
def State.followsEn (s : State) (p : Pll) : State := (s.takeEn p).setGate p (s.bit (F.CLK_PLL_STATUS_GATED p.idx))

theorem State.followsEn_eq (s : State) (p : Pll) :
    s.followsEn p = (s.regates p).drivesOuts p (s.bit (F.CLK_PLL_STATUS_GATED p.idx)) 6 := rfl

theorem State.reg_regates (s : State) (p : Pll) (o : Nat) : (s.regates p).reg o = s.reg o :=
  (s.takeEn p).reg_setBit_self (f := F.CLK_PLL_STATUS_GATED p.idx) rfl (show 3 < 32 by decide) o

theorem State.followsEn_spec (s : State) (p : Pll) :
    s.SameRegsBut (s.followsEn p) ((List.range 6).map (Reg.CLK_OUT p.idx)) ∧
      (∀ o < 6, s.outExists p o = true → (s.followsEn p).bit (F.CLK_OUT_EN_EFFECT p.idx o) =
        (!s.bit (F.CLK_PLL_STATUS_GATED p.idx) && s.bit (F.CLK_OUT_EN p.idx o))) ∧
      ∀ f : Fld, f.lo + f.w ≤ 30 ∨ 31 ≤ f.lo → (s.followsEn p).getF f = s.getF f := by
  rw [State.followsEn_eq]
  refine ⟨fun o ho => ?_, fun o ho exist => ?_, fun f beside => ?_⟩
  · rw [State.sameRegsBut_drivesOuts _ p _ 6 o ho, s.reg_regates p]
  · rw [State.bit_drivesOuts (s.regates p) _ ho exist]
    exact congrArg _ (s.ens_takeEn p ho)
  · rw [State.getF_drivesOuts _ p _ 6 beside, State.getF_congr_reg (s.reg_regates p f.off)]

/-! ### Writes of CLK.OUT (R9, R40, R159) -/

/-- What a write of an output stores: EN, and of SPLL.4 also DELAY and DIV. -/
def State.storesOut (s : State) (p : Pll) (o : Nat) (v : Word) : State :=
  let u := s.setBit (F.CLK_OUT_EN p.idx o) (v.getLsbD 31)
  if p == .spll && o == 4 then
    (u.setF ⟨Reg.CLK_OUT 0 4, 16, 12⟩ (fieldOf v 16 12)).setF ⟨Reg.CLK_OUT 0 4, 0, 16⟩ (fieldOf v 0 16) else u

theorem State.clk_storesOut (s : State) (p : Pll) (o : Nat) (v : Word) : (s.storesOut p o v).clk = s.clk := by
  unfold State.storesOut
  dsimp only
  split <;> rfl

theorem State.storesOut_spec (s : State) (p : Pll) (o : Nat) (v : Word) :
    s.SameRegsBut (s.storesOut p o v) [Reg.CLK_OUT p.idx o] ∧
      (s.storesOut p o v).bit (F.CLK_OUT_EN p.idx o) = v.getLsbD 31 ∧
      (s.storesOut p o v).bit (F.CLK_OUT_EN_EFFECT p.idx o) = s.bit (F.CLK_OUT_EN_EFFECT p.idx o) ∧
      (¬(p = .spll ∧ o = 4) →
        (s.storesOut p o v).getF ⟨Reg.CLK_OUT p.idx o, 0, 28⟩ = s.getF ⟨Reg.CLK_OUT p.idx o, 0, 28⟩) := by
  have stores : s.SameRegsBut (s.setBit (F.CLK_OUT_EN p.idx o) (v.getLsbD 31)) [Reg.CLK_OUT p.idx o] :=
    s.sameRegsBut_setF _ _
  have en := s.bit_setBit_same (F.CLK_OUT_EN p.idx o) (v.getLsbD 31) (show 31 + 1 ≤ 32 by decide) rfl
  have effect : (s.setBit (F.CLK_OUT_EN p.idx o) (v.getLsbD 31)).bit (F.CLK_OUT_EN_EFFECT p.idx o) =
      s.bit (F.CLK_OUT_EN_EFFECT p.idx o) := s.bit_setBit_beside _ _ (by decide) (by decide)
  have low : (s.setBit (F.CLK_OUT_EN p.idx o) (v.getLsbD 31)).getF ⟨Reg.CLK_OUT p.idx o, 0, 28⟩ =
      s.getF ⟨Reg.CLK_OUT p.idx o, 0, 28⟩ := s.getF_setF_beside _ 31 1 0 28 _ (by decide) (by decide)
  unfold State.storesOut
  generalize s.setBit (F.CLK_OUT_EN p.idx o) (v.getLsbD 31) = u at stores en effect low
  by_cases four : p = .spll ∧ o = 4
  · obtain ⟨rfl, rfl⟩ := four
    have beside (i : Nat) (hi : 28 ≤ i) : ((u.setF ⟨Reg.CLK_OUT 0 4, 16, 12⟩ (fieldOf v 16 12)).setF
        ⟨Reg.CLK_OUT 0 4, 0, 16⟩ (fieldOf v 0 16)).bit ⟨Reg.CLK_OUT 0 4, i, 1⟩ = u.bit ⟨Reg.CLK_OUT 0 4, i, 1⟩ := by
      rw [State.bit, State.getF_setF_beside _ _ _ _ _ _ _ (by decide) (by omega),
        State.getF_setF_beside _ _ _ _ _ _ _ (by decide) (by omega), State.bit]
    exact ⟨(stores.setF _ _ (by simp [Pll.idx])).setF _ _ (by simp [Pll.idx]), (beside 31 (by decide)).trans en,
      (beside 30 (by decide)).trans effect, fun other => absurd ⟨rfl, rfl⟩ other⟩
  · have plain : ¬ (p == .spll && o == 4) = true := by simpa using four
    rw [if_neg plain]
    exact ⟨stores, en, effect, fun _ => low⟩

/-- The word of an output holds the state of no PLL. -/
theorem State.pllState_storesOut (s : State) (p q : Pll) (o : Nat) (v : Word) :
    (s.storesOut p o v).pllState q = s.pllState q := by
  obtain ⟨same, -⟩ := s.storesOut_spec p o v
  exact State.getF_congr_reg (same _ (pllStatus_notMem_out p q o))

/-- A write of an existing output in IDLE is stored; while its PLL is locked its outputs follow. -/
theorem State.outWrite_idle {p : Pll} {o : Nat} (ho : o < outCount p) (exist : s.outExists p o = true) (idle : s.cur = .idle)
    (v : Word) : s.outWrite p o v =
      if s.pllState p = pllLocked then (s.storesOut p o v).followsEn p else s.storesOut p o v := by
  have whole : s.outWrite p o v = if outCount p ≤ o then s
      else if !s.outExists p o then s.hwSet F.FLT_HOST_STRUCT_ABSENT
      else if ((p == .spll && o < 4) || p == .fpll) && s.cur != .idle then s.hwSet F.FLT_HOST_CLK_BUSY
      else if (s.storesOut p o v).pllState p == pllLocked then (s.storesOut p o v).followsEn p else s.storesOut p o v := rfl
  rw [whole, if_neg (Nat.not_le.mpr ho), if_neg (by simp [exist]), if_neg (by simp [idle]), State.pllState_storesOut]
  simp only [beq_iff_eq]

/-- So the outputs of a PLL that is locked and not gated follow EN. -/
theorem State.outWrite_idle_spec {p : Pll} {o : Nat} (ho : o < outCount p) (exist : s.outExists p o = true)
    (idle : s.cur = .idle) (v : Word) :
    (s.outWrite p o v).bit (F.CLK_OUT_EN p.idx o) = v.getLsbD 31 ∧
      (s.outWrite p o v).bit (F.CLK_OUT_EN_EFFECT p.idx o) = (if s.pllState p = pllLocked then
        !s.bit (F.CLK_PLL_STATUS_GATED p.idx) && v.getLsbD 31 else s.bit (F.CLK_OUT_EN_EFFECT p.idx o)) ∧
      (¬(p = .spll ∧ o = 4) →
        (s.outWrite p o v).getF ⟨Reg.CLK_OUT p.idx o, 0, 28⟩ = s.getF ⟨Reg.CLK_OUT p.idx o, 0, 28⟩) ∧
      s.SameRegsBut (s.outWrite p o v) ((List.range 6).map (Reg.CLK_OUT p.idx)) ∧
      (s.pllState p ≠ pllLocked → s.SameRegsBut (s.outWrite p o v) [Reg.CLK_OUT p.idx o]) := by
  have six : o < 6 := ho.trans_le (outCount_le p)
  have clk := s.clk_storesOut p o v
  obtain ⟨stores, en, effect, low⟩ := s.storesOut_spec p o v
  have listed : s.SameRegsBut (s.storesOut p o v) ((List.range 6).map (Reg.CLK_OUT p.idx)) :=
    stores.mono fun _ mem => List.mem_singleton.mp mem ▸ List.mem_map_of_mem (List.mem_range.mpr six)
  have gated : (s.storesOut p o v).bit (F.CLK_PLL_STATUS_GATED p.idx) = s.bit (F.CLK_PLL_STATUS_GATED p.idx) := by
    rw [State.bit, State.getF_congr_reg (stores _ (pllStatus_notMem_out p p o)), State.bit]
  rw [State.outWrite_idle ho exist idle]
  generalize s.storesOut p o v = u at clk stores en effect low listed gated
  split
  · next locked =>
    obtain ⟨same, follows, beside⟩ := u.followsEn_spec p
    refine ⟨?_, ?_, fun other => ?_, listed.trans same, fun unlocked => absurd locked unlocked⟩
    · rw [State.bit, beside _ (.inr (show 31 ≤ 31 by decide))]
      exact en
    · rw [follows o six (by rwa [State.outExists, clk]), gated, en]
    · rw [beside _ (.inl (show 0 + 28 ≤ 30 by decide)), low other]
  · exact ⟨en, effect, low, listed, fun _ => stores⟩

theorem exec_clkOutEnWrite {p : Pll} {o : Fin 16} (h : s.takesWrite (Reg.CLK_OUT p.idx o) = true) (v : Word) :
    exec (.clkOutEnWrite p o v) s = .next (s.outWrite p o v) := by
  have far : forwardedBlock (Reg.CLK_OUT p.idx o / 0x10000) = false := by
    have := pllIdx_lt p
    have block : Reg.CLK_OUT p.idx o / 0x10000 = 0xA := by
      show (0xa0200 + 0x40 * p.idx + 4 * o.val) / 0x10000 = 0xA
      omega
    rw [block]
    rfl
  exact congrArg Host.Outcome.next (State.hostWrite_local h far v _)

/-- A write of an output that the structure leaves out, and one of a slice clock outside IDLE, are discarded. -/
theorem State.outWrite_absent {p : Pll} {o : Nat} (ho : o < outCount p) (absent : s.outExists p o = false) (v : Word) :
    s.outWrite p o v = s.hwSet F.FLT_HOST_STRUCT_ABSENT := by
  rw [State.outWrite, if_neg (Nat.not_le.mpr ho), if_pos (by simp [absent])]

theorem State.outWrite_busy {p : Pll} {o : Nat} (ho : o < outCount p) (exist : s.outExists p o = true)
    (slice : p = .fpll ∨ (p = .spll ∧ o < 4)) (active : s.cur ≠ .idle) (v : Word) :
    s.outWrite p o v = s.hwSet F.FLT_HOST_CLK_BUSY := by
  have busy : (((p == .spll && decide (o < 4)) || p == .fpll) && s.cur != .idle) = true := by
    rcases slice with rfl | ⟨rfl, low⟩
    · simp [active]
    · simp [active, low]
  rw [State.outWrite, if_neg (Nat.not_le.mpr ho), if_neg (by simp [exist]), if_pos busy]

/-- Settles O34: a case for each command, from the lemma about it. -/
theorem syncAndOutputs : Obligations.SyncAndOutputs := by
  unfold Obligations.SyncAndOutputs
  refine ⟨?arm, ?check, ?ignored, ?busyArm, ?trim, ?absent, ?unnamed, ?busyOut, ?enable⟩
  case arm =>
    intro s phase mode here locked
    exact ⟨_, exec_syncInEdge_arm phase mode here locked, s.syncRestarts_spec⟩
  case check =>
    intro s phase mode here locked apart
    have offset := s.sameRegsBut_setReg Reg.CLK_SYNC_OFFSET (BitVec.ofInt 32 phase)
    have shown := s.reg_setReg_same Reg.CLK_SYNC_OFFSET (BitVec.ofInt 32 phase)
    refine ⟨_, exec_syncInEdge_check phase mode here locked apart, ?_⟩
    generalize s.setReg Reg.CLK_SYNC_OFFSET (BitVec.ofInt 32 phase) = u at offset shown
    obtain ⟨slip, marks, -⟩ := u.hwSet_spec (f := F.CLK_EVENTS_SYNC_SLIP) rfl rfl (by decide)
    exact ⟨(marks _ (by decide)).trans shown, slip,
      (offset.mono (by simp)).trans (marks.mono (by simp [F.CLK_EVENTS_SYNC_SLIP]))⟩
  case ignored =>
    intro s phase mode lost
    obtain ⟨flag, same, -⟩ := s.hwSet_spec (f := F.CLK_EVENTS_SYNC_IGNORED) rfl rfl (by decide)
    exact ⟨_, exec_syncInEdge_ignored phase mode lost, flag, same⟩
  case busyArm =>
    intro s v h active asks
    obtain ⟨flag, same, -⟩ := s.hwSet_fltHost_spec (f := F.FLT_HOST_CLK_BUSY) rfl rfl (by decide)
    refine ⟨_, exec_write_sync h v, ?_⟩
    rw [State.syncWrite, if_pos ⟨asks, active⟩]
    exact ⟨flag, same⟩
  case trim =>
    intro s v h alone
    refine ⟨_, exec_pairTrimWrite h alone v, ?_⟩
    obtain ⟨target, clk, slewing, same⟩ := s.retrim_spec (n := fieldOf v 0 16) (Nat.mod_lt _ (by decide))
    have near := (s.retrim (fieldOf v 0 16)).slewTrim_near
    rw [clk] at near
    exact ⟨target, by rw [clk], slewing, near, same⟩
  case absent =>
    intro s p o v h named missing
    obtain ⟨flag, same, -⟩ := s.hwSet_fltHost_spec (f := F.FLT_HOST_STRUCT_ABSENT) rfl rfl (by decide)
    refine ⟨_, exec_clkOutEnWrite h v, ?_⟩
    rw [State.outWrite_absent named missing]
    exact ⟨flag, same⟩
  case unnamed =>
    intro s p o v h _ beyond
    exact ⟨_, exec_clkOutEnWrite h v, if_pos beyond⟩
  case busyOut =>
    intro s p o v h named exist slice active
    obtain ⟨flag, same, -⟩ := s.hwSet_fltHost_spec (f := F.FLT_HOST_CLK_BUSY) rfl rfl (by decide)
    refine ⟨_, exec_clkOutEnWrite h v, ?_⟩
    rw [State.outWrite_busy named exist slice active]
    exact ⟨flag, same⟩
  case enable =>
    intro s p o v h named exist idle
    exact ⟨_, exec_clkOutEnWrite h v, State.outWrite_idle_spec named exist idle v⟩

end Sys2Proof.Machine
end

section
/-! PROOF. The records of a rate hop and of a phase jump in the clock of an erase (spec/06_clocking.md R165, R171,
spec/15_startup_and_black_box.md R382, R383). -/

namespace Sys2Proof.Machine

/-- An engine in IDLE with an image in force and the reference present. -/
def clockedIdle : State :=
  ((State.reset.setF F.DEV_STATE_CUR EngState.idle.code).setBit F.DRAFT_STATUS_LOADED true).setBit F.CLK_STATUS_REF_PRESENT true

/-- Its SPLL settles at a new rate, 2.0 GS/s, after a GO, and the present clock has erased the black box. -/
def erasedOnHop : State :=
  let s := clockedIdle.setPll .spll pllSettle
  ({ s with clk := { s.clk with relock := some .go, want := 20000 } } : State).erase

/-- Its SPLL is in HOLDOVER, and the present clock has erased the black box. -/
def erasedInHoldover : State := (clockedIdle.setPll .spll pllHoldover).erase

/-- What an outcome's next state holds in its ring: source and code of each record. -/
def ringKindsOf (o : Result) : List (Byte × BitVec 16) :=
  match o with
  | .next t => t.bbx.ring.map (fun q => (q.1.source, q.1.code))
  | _ => []

/-- The opening at the new rate leaves the ERASED record alone in the ring. -/
theorem ringKindsOf_erasedOnHop : ringKindsOf (exec (.pllOutputsOpen .spll 16384 0) erasedOnHop) = [(0x0B, 3)] := by
  decide +kernel

/-- So does the return of the reference with a phase error of 1 ms. -/
theorem ringKindsOf_erasedInHoldover :
    ringKindsOf (exec (.refReturn (10 ^ 12) false none) erasedInHoldover) = [(0x0B, 3)] := by
  decide +kernel

theorem mem_ringKindsOf {o : Result} {t : State} (h : o = .next t) {src : Byte} {code : BitVec 16} {p : BbxRecord × Nat → Bool}
    (kind : ∀ q, p q = true → q.1.source = src ∧ q.1.code = code) (recorded : t.bbx.ring.any p = true) :
    (src, code) ∈ ringKindsOf o := by
  obtain ⟨q, hq, made⟩ := List.any_eq_true.mp recorded
  obtain ⟨rfl, rfl⟩ := kind q made
  rw [h]
  exact List.mem_map_of_mem hq

/-- Refutes O32: a record made in the clock of an erase belongs to the store that was erased (R383, log 68), and the statement does
not ask that its clock has erased nothing (that `bbx.erased` is none). In the counterexample the SPLL opens at a new rate in the
clock in which the black box of an engine in IDLE is erased: the ring holds the ERASED record, and none of the epoch. -/
theorem not_sliceRate : ¬ Obligations.SliceRate := by
  unfold Obligations.SliceRate
  rintro ⟨-, -, -, -, -, -, -, opens, -⟩
  obtain ⟨t, ht, -, -, -, -, -, -, -, recorded, -⟩ := opens erasedOnHop 16384 0 (by decide +kernel) (by decide +kernel)
    (by decide +kernel) (by decide +kernel) (by decide +kernel) (by decide +kernel)
  have epoch := mem_ringKindsOf ht (src := 4) (code := 1) (by simp +contextual) (recorded (by decide +kernel))
  rw [ringKindsOf_erasedOnHop] at epoch
  exact absurd epoch (by decide)

/-- Refutes O33, for the same reason (R383, log 68). In the counterexample the reference returns with a phase error beyond the
threshold, under BUILD_OUT, in the clock in which the black box of an engine in IDLE is erased: the ring holds the ERASED record,
and none of the phase jump. -/
theorem not_holdover : ¬ Obligations.Holdover := by
  unfold Obligations.Holdover
  rintro ⟨-, -, -, -, -, -, jump, -⟩
  obtain ⟨t, ht, -, -, recorded, -⟩ := jump erasedInHoldover (10 ^ 12) false none (by decide +kernel) (by decide +kernel)
    (by decide +kernel)
  have jumped := mem_ringKindsOf ht (src := 4) (code := 2) (by simp +contextual) (recorded (by decide +kernel))
  rw [ringKindsOf_erasedInHoldover] at jumped
  exact absurd jumped (by decide)

end Sys2Proof.Machine
end

section
/-! PROOF. The sets of the trigger units: what a unit that meets them becomes, and what an APPLY leaves of each unit
(spec/07_trigger.md R177, R178, R185, R201). -/

namespace Sys2Proof.Machine

open Sys2Proof.Laws

variable {s t : State}

/-! ### A unit that meets its sets (R177) -/

/-- A set starts a unit afresh when it changes TYPE, CHANNEL or SUB. -/
def TrigUnit.restarts (u : TrigUnit) (set : List Word) : Prop :=
  fieldOf (u.word 0) 28 4 ≠ fieldOf (set.getD 0 0) 28 4 ∨ fieldOf (u.word 0) 26 2 ≠ fieldOf (set.getD 0 0) 26 2 ∨
    fieldOf (u.word 0) 20 2 ≠ fieldOf (set.getD 0 0) 20 2

theorem TrigUnit.meet_fresh {u : TrigUnit} {set : List Word} (h : u.restarts set) (bad : Bool) :
    u.meet set bad = { TrigUnit.init with set := set, bad := bad, lastKept := u.lastKept } :=
  if_pos (by simpa [TrigUnit.restarts, TrigUnit.type, TrigUnit.chan, TrigUnit.word, or_assoc] using h)

theorem TrigUnit.meet_kept {u : TrigUnit} {set : List Word} (h : ¬ u.restarts set) (bad : Bool) :
    u.meet set bad = { u with set := set, bad := bad } :=
  if_neg (by simpa [TrigUnit.restarts, TrigUnit.type, TrigUnit.chan, TrigUnit.word, and_assoc] using h)

theorem TrigUnit.meet_set (u : TrigUnit) (set : List Word) (bad : Bool) :
    (u.meet set bad).set = set ∧ (u.meet set bad).bad = bad := by
  by_cases h : u.restarts set
  · rw [TrigUnit.meet_fresh h]
    exact ⟨rfl, rfl⟩
  · rw [TrigUnit.meet_kept h]
    exact ⟨rfl, rfl⟩

/-- A word that enters the unit no later than the APPLY finishes under the set before. -/
theorem TrigUnit.meetSets_later {clock n : Nat} (h : clock + 20 ≤ n) (set : List Word) (bad : Bool)
    (rest : List (Nat × List Word × Bool)) (u : TrigUnit) :
    TrigUnit.meetSets clock ((n, set, bad) :: rest) u = { u with applied := (n, set, bad) :: rest } := by
  rw [TrigUnit.meetSets, if_neg (by omega)]

/-- A word that enters the unit after the last APPLY meets its set. -/
theorem TrigUnit.meetSets_last {clock n : Nat} (h : n < clock + 20) (set : List Word) (bad : Bool) (u : TrigUnit) :
    TrigUnit.meetSets clock [(n, set, bad)] u = { u.meet set bad with applied := [] } := by
  rw [TrigUnit.meetSets, if_pos h, TrigUnit.meetSets]

/-- Words that agree in a field agree in every part of it. -/
theorem fieldOf_part {v v' : Word} {lo w lo' w' : Nat} (h : fieldOf v lo w = fieldOf v' lo w) (low : lo ≤ lo')
    (high : lo' + w' ≤ lo + w) : fieldOf v lo' w' = fieldOf v' lo' w' := by
  apply Nat.eq_of_testBit_eq
  intro i
  rw [fieldOf_testBit, fieldOf_testBit]
  by_cases hi : i < w'
  · have whole := congrArg (Nat.testBit · (lo' - lo + i)) h
    have inside : lo' - lo + i < w := by omega
    have place : lo + (lo' - lo + i) = lo' + i := by omega
    simpa [fieldOf_testBit, inside, place, hi] using whole
  · simp [hi]

/-- TYPE, CHANNEL and SUB stand in the high twelve bits of CFG. -/
theorem TrigUnit.not_restarts_of_high {u : TrigUnit} {set : List Word}
    (h : fieldOf (set.getD 0 0) 20 12 = fieldOf (u.word 0) 20 12) : ¬ u.restarts set := by
  rintro (type | chan | sub)
  · exact type (fieldOf_part h.symm (by decide) (by decide))
  · exact chan (fieldOf_part h.symm (by decide) (by decide))
  · exact sub (fieldOf_part h.symm (by decide) (by decide))

/-- The last set applied is the set under which the unit will work. -/
theorem TrigUnit.latest_applied (u : TrigUnit) (l : List (Nat × List Word × Bool)) (n : Nat) (set : List Word) (bad : Bool) :
    (TrigUnit.latest { u with applied := l ++ [(n, set, bad)] }).set = set ∧
      (TrigUnit.latest { u with applied := l ++ [(n, set, bad)] }).bad = bad := by
  rw [TrigUnit.latest, List.foldl_append]
  exact TrigUnit.meet_set _ set bad

theorem badCfg_reserved (typeOf : Nat → Nat) (k : Nat) {u : TrigUnit} (h : 10 ≤ u.type) : badCfg typeOf k u = true := by
  unfold badCfg
  dsimp only
  split
  case h_6 => exact decide_eq_true h
  all_goals omega

/-! ### The units of the block -/

theorem State.unit_setUnit (s : State) (k i : Nat) (u : TrigUnit) :
    (s.setUnit k u).unit i = if i = k then u else s.unit i := sparseGet_set _ _ _ _ _

theorem State.unit_congr (h : t.trig.units = s.trig.units) (k : Nat) : t.unit k = s.unit k := by
  rw [State.unit, State.unit, h]

/-- A bit reads through its own register alone. -/
theorem State.bit_congr_reg {f : Fld} (h : t.reg f.off = s.reg f.off) : t.bit f = s.bit f := by
  rw [State.bit, State.bit, State.getF_congr_reg h]

/-! ### What an operation on the sets of some units leaves -/

/-- t follows s by operations on the sets of the units of P: they leave the other units with what STATUS and TRIG.STATUS show
of them, clear no BAD_CFG event, and touch no other register. -/
structure TakesSets (P : Nat → Prop) (s t : State) : Prop where
  units : ∀ i, ¬ P i → t.unit i = s.unit i
  reporting : ∀ i, ¬ P i → t.bit (bitFld Reg.TRIG_STATUS i) = s.bit (bitFld Reg.TRIG_STATUS i)
  badCfg : s.bit F.TRIG_EVENTS_BAD_CFG = true → t.bit F.TRIG_EVENTS_BAD_CFG = true
  regs : ∀ o, o ≠ Reg.TRIG_EVENTS → o ≠ Reg.TRIG_STATUS → (∀ i, P i → o ≠ Reg.TRIG_UNIT_STATUS i) →
    t.reg o = s.reg o

variable {P Q : Nat → Prop} {r : State}

theorem TakesSets.refl (P : Nat → Prop) (s : State) : TakesSets P s s :=
  ⟨fun _ _ => rfl, fun _ _ => rfl, id, fun _ _ _ _ => rfl⟩

theorem TakesSets.trans (h : TakesSets P r s) (k : TakesSets P s t) : TakesSets P r t where
  units i hi := (k.units i hi).trans (h.units i hi)
  reporting i hi := (k.reporting i hi).trans (h.reporting i hi)
  badCfg set := k.badCfg (h.badCfg set)
  regs o he hs hu := (k.regs o he hs hu).trans (h.regs o he hs hu)

theorem TakesSets.mono (h : TakesSets P s t) (hq : ∀ i, P i → Q i) : TakesSets Q s t where
  units i hi := h.units i fun p => hi (hq i p)
  reporting i hi := h.reporting i fun p => hi (hq i p)
  badCfg := h.badCfg
  regs o he hs hu := h.regs o he hs fun i p => hu i (hq i p)

theorem TakesSets.ite {c : Prop} [Decidable c] {a b : State} (ha : TakesSets P s a) (hb : TakesSets P s b) :
    TakesSets P s (if c then a else b) := by split <;> assumption

theorem TakesSets.foldl {f : State → Nat → State} {as : List Nat} (hf : ∀ u c, c ∈ as → TakesSets P u (f u c))
    (s : State) : TakesSets P s (as.foldl f s) := by
  induction as generalizing s with
  | nil => exact TakesSets.refl P s
  | cons a as ih =>
    exact (hf s a List.mem_cons_self).trans (ih (fun u c hc => hf u c (List.mem_cons_of_mem a hc)) _)

/-- Among operations on different units, that on one unit finds it as it was, and is the last to touch it. -/
theorem TakesSets.foldl_at {f : State → Nat → State} {as : List Nat} (distinct : as.Nodup) {k : Nat} (hk : k ∈ as)
    (hf : ∀ u c, c ∈ as → TakesSets (· = c) u (f u c)) (s : State) :
    ∃ u, TakesSets (· ≠ k) s u ∧ TakesSets (· ≠ k) (f u k) (as.foldl f s) := by
  obtain ⟨before, after, rfl⟩ := List.append_of_mem hk
  rw [List.nodup_middle, List.nodup_cons, List.mem_append, not_or] at distinct
  obtain ⟨⟨hbefore, hafter⟩, -⟩ := distinct
  have others {u : State} {c : Nat} (mem : c ∈ before ++ k :: after) (hc : c ≠ k) : TakesSets (· ≠ k) u (f u c) :=
    (hf u c mem).mono fun i e => e ▸ hc
  refine ⟨before.foldl f s, TakesSets.foldl (fun u c hc => ?_) s, ?_⟩
  · exact others (List.mem_append_left _ hc) (ne_of_mem_of_not_mem hc hbefore)
  · rw [List.foldl_append, List.foldl_cons]
    exact TakesSets.foldl (fun u c hc => others (List.mem_append_right _ (List.mem_cons_of_mem k hc))
      (ne_of_mem_of_not_mem hc hafter)) _

/-- A register below the windows of the units other than TRIG.STATUS and TRIG.EVENTS stays. -/
theorem TakesSets.reg (h : TakesSets P s t) {o : Nat} (he : o ≠ Reg.TRIG_EVENTS) (hs : o ≠ Reg.TRIG_STATUS)
    (low : o < 0xb0100) : t.reg o = s.reg o :=
  h.regs o he hs fun i _ => show o ≠ 0xb0128 + 64 * i by omega

theorem TakesSets.tsc (h : TakesSets P s t) : t.tsc = s.tsc := by
  rw [State.tsc, State.tsc, State.get64, State.get64, h.reg (by decide) (by decide) (by decide),
    h.reg (by decide) (by decide) (by decide)]

/-! ### The parts of an APPLY -/

theorem State.takesSets_setUnit (s : State) (k : Nat) (u : TrigUnit) : TakesSets (· = k) s (s.setUnit k u) :=
  ⟨fun i hi => (s.unit_setUnit k i u).trans (if_neg hi), fun _ _ => rfl, id, fun _ _ _ _ => rfl⟩

/-- An event of the block, a reserved TYPE's or an absent channel's. -/
theorem State.takesSets_event (s : State) {i : Nat} (hi : i < 32) :
    TakesSets (fun _ => False) s (s.hwSet (bitFld Reg.TRIG_EVENTS i)) where
  units k _ := State.unit_congr (by rw [State.hwSet_trig]) k
  reporting k _ := State.bit_hwSet_other s (f := bitFld Reg.TRIG_EVENTS i) rfl hi
    (.inl (show Reg.TRIG_STATUS ≠ Reg.TRIG_EVENTS by decide))
  badCfg set := by
    by_cases h : i = 19
    · exact h ▸ State.bit_hwSet_same s rfl rfl (by decide)
    · rwa [State.bit_hwSet_other s (f := bitFld Reg.TRIG_EVENTS i) rfl hi (.inr (show 19 + 1 ≤ i ∨ i + 1 ≤ 19 by omega))]
  regs o he _ _ := State.sameRegsBut_hwSet s (f := bitFld Reg.TRIG_EVENTS i) rfl o (by simpa [bitFld] using he)

/-- Showing a unit (R201). -/
theorem State.takesSets_showUnit (s : State) {k : Nat} (hk : k < 16) : TakesSets (· = k) s (s.showUnit k) := by
  have status_ne : Reg.TRIG_STATUS ≠ Reg.TRIG_UNIT_STATUS k := show 0xb0004 ≠ 0xb0128 + 64 * k by omega
  have events_ne : Reg.TRIG_EVENTS ≠ Reg.TRIG_UNIT_STATUS k := show 0xb0008 ≠ 0xb0128 + 64 * k by omega
  unfold State.showUnit
  dsimp only
  generalize BitVec.ofNat 32 _ = status
  refine ⟨fun _ _ => rfl, fun i hi => ?_, fun set => ?_, fun o _ hs hu => ?_⟩
  · exact (State.bit_setBit_beside _ _ _ (by omega) hi).trans (State.bit_congr_reg (State.reg_setReg_other s status status_ne))
  · rwa [State.bit_setBit_other _ _ _ _ (show k + 1 ≤ 32 by omega) (.inl (show Reg.TRIG_EVENTS ≠ Reg.TRIG_STATUS by decide)),
      State.bit_congr_reg (State.reg_setReg_other s status events_ne)]
  · exact (State.reg_setF_other _ _ _ hs).trans (State.reg_setReg_other s status (hu k rfl))

/-- What UNITk.STATUS shows of BAD_CFG (R185, R201). -/
theorem State.badCfg_showUnit (s : State) (k : Nat) :
    (s.showUnit k).bit (F.TRIG_UNIT_STATUS_BAD_CFG k) = (s.unit k).latest.bad := by
  have apart : Reg.TRIG_UNIT_STATUS k ≠ Reg.TRIG_STATUS := show 0xb0128 + 64 * k ≠ 0xb0004 by omega
  have bit5 : ∀ a b c d e : Bool,
      (BitVec.ofNat 32 (b2n a + 2 * b2n b + 4 * b2n c + 16 * b2n d + 32 * b2n e)).getLsbD 5 = e := by decide
  rw [State.bit_eq_getLsbD _ rfl, State.showUnit]
  dsimp only [F.TRIG_UNIT_STATUS_BAD_CFG]
  rw [State.setBit, State.reg_setF_other _ _ _ apart, State.reg_setReg_same, bit5]

/-- TRIG.STATUS shows no unit in BAD_CFG as reporting (R185, R201). -/
theorem State.reporting_showUnit {k : Nat} (hk : k < 32) (h : (s.unit k).latest.bad = true) :
    (s.showUnit k).bit (bitFld Reg.TRIG_STATUS k) = false := by
  rw [State.showUnit]
  refine (State.bit_setBit_same _ (bitFld Reg.TRIG_STATUS k) _ hk rfl).trans ?_
  simp [State.works, h]

/-! ### One unit at an APPLY (R177, R178, R185) -/

/-- Whether the set of unit k, among those of all units, is one that BAD_CFG names. -/
def badAmong (sets : Nat → List Word) (k : Nat) : Bool :=
  badCfg (fun i => TrigUnit.type { TrigUnit.init with set := sets i }) k { TrigUnit.init with set := sets k }

/-- A set of unit k, and BAD_CFG or not with it, waits for the words to come. -/
def State.queueSet (s : State) (k : Nat) (set : List Word) (bad : Bool) : State :=
  let u := TrigUnit.meetSets (s.tsc - 104) (s.unit k).applied (s.unit k)
  s.setUnit k { u with applied := u.applied ++ [(s.tsc, set, bad)] }

/-- The events of a set: that of BAD_CFG, and that of a channel that does not exist when the write names the unit. -/
def State.setEvents (s : State) (named : Bool) (set : List Word) (bad : Bool) : State :=
  let s := if bad then s.hwSet F.TRIG_EVENTS_BAD_CFG else s
  if named && s.chAbsent { TrigUnit.init with set := set } then s.hwSet F.TRIG_EVENTS_CH_ABSENT else s

/-- Unit k takes a set, with its events and what is shown of it. -/
def State.renewUnit (s : State) (named : Bool) (k : Nat) (set : List Word) (bad : Bool) : State :=
  ((s.queueSet k set bad).setEvents named set bad).showUnit k

/-- A unit takes its set when the write names it, or when it enters BAD_CFG by it. -/
theorem State.applyUnit_eq (s : State) (v : Word) (sets : Nat → List Word) (k : Nat) :
    s.applyUnit v sets k =
      if v.getLsbD k || (badAmong sets k || (!v.getLsbD k && (s.unit k).latest.bad)) != (s.unit k).latest.bad then
        s.renewUnit (v.getLsbD k) k (sets k) (badAmong sets k || (!v.getLsbD k && (s.unit k).latest.bad))
      else s := rfl

@[simp] theorem State.showUnit_trig (s : State) (k : Nat) : (s.showUnit k).trig = s.trig := rfl

@[simp] theorem State.setEvents_trig (s : State) (named : Bool) (set : List Word) (bad : Bool) :
    (s.setEvents named set bad).trig = s.trig := by
  unfold State.setEvents
  dsimp only
  split <;> split <;> simp only [State.hwSet_trig]

theorem State.renewUnit_trig (s : State) (named : Bool) (k : Nat) (set : List Word) (bad : Bool) :
    (s.renewUnit named k set bad).trig = (s.queueSet k set bad).trig := by
  rw [State.renewUnit, State.showUnit_trig, State.setEvents_trig]

theorem State.latest_queueSet (s : State) (k : Nat) (set : List Word) (bad : Bool) :
    ((s.queueSet k set bad).unit k).latest.set = set ∧ ((s.queueSet k set bad).unit k).latest.bad = bad := by
  rw [State.queueSet, State.unit_setUnit, if_pos rfl]
  exact TrigUnit.latest_applied _ _ _ _ _

theorem State.latest_renewUnit (s : State) (named : Bool) (k : Nat) (set : List Word) (bad : Bool) :
    ((s.renewUnit named k set bad).unit k).latest.set = set ∧ ((s.renewUnit named k set bad).unit k).latest.bad = bad := by
  rw [State.unit_congr (congrArg TrigSt.units (s.renewUnit_trig named k set bad))]
  exact s.latest_queueSet k set bad

theorem State.takesSets_setEvents (s : State) (named : Bool) (set : List Word) (bad : Bool) :
    TakesSets (fun _ => False) s (s.setEvents named set bad) := by
  have first : TakesSets (fun _ => False) s (if bad then s.hwSet F.TRIG_EVENTS_BAD_CFG else s) :=
    TakesSets.ite (s.takesSets_event (i := 19) (by decide)) (TakesSets.refl _ s)
  exact first.trans (TakesSets.ite (State.takesSets_event _ (i := 18) (by decide)) (TakesSets.refl _ _))

theorem State.badCfg_setEvents (s : State) (named : Bool) (set : List Word) :
    (s.setEvents named set true).bit F.TRIG_EVENTS_BAD_CFG = true := by
  have event : (s.hwSet F.TRIG_EVENTS_BAD_CFG).bit F.TRIG_EVENTS_BAD_CFG = true := State.bit_hwSet_same s rfl rfl (by decide)
  unfold State.setEvents
  dsimp only
  rw [if_pos rfl]
  split
  · exact (State.takesSets_event _ (i := 18) (by decide)).badCfg event
  · exact event

theorem State.takesSets_renewUnit (s : State) (named : Bool) {k : Nat} (hk : k < 16) (set : List Word) (bad : Bool) :
    TakesSets (· = k) s (s.renewUnit named k set bad) := by
  have queued : TakesSets (· = k) s (s.queueSet k set bad) := s.takesSets_setUnit k _
  have events := (s.queueSet k set bad).takesSets_setEvents named set bad
  exact (queued.trans (events.mono fun _ h => h.elim)).trans (State.takesSets_showUnit _ hk)

/-- A unit that enters BAD_CFG sets the event, and shows it in both registers (R185, R201). -/
theorem State.renewUnit_bad (s : State) (named : Bool) {k : Nat} (hk : k < 16) (set : List Word) :
    (s.renewUnit named k set true).bit F.TRIG_EVENTS_BAD_CFG = true ∧
      (s.renewUnit named k set true).bit (F.TRIG_UNIT_STATUS_BAD_CFG k) = true ∧
      (s.renewUnit named k set true).bit (bitFld Reg.TRIG_STATUS k) = false := by
  obtain ⟨-, latest⟩ := s.latest_queueSet k set true
  rw [← State.unit_congr (congrArg TrigSt.units (State.setEvents_trig _ named set true))] at latest
  exact ⟨(State.takesSets_showUnit _ hk).badCfg (State.badCfg_setEvents _ named set), (State.badCfg_showUnit _ k).trans latest,
    State.reporting_showUnit (by omega) latest⟩

section Unit

variable {v : Word} {sets : Nat → List Word} {k : Nat}

theorem State.takesSets_applyUnit (s : State) (v : Word) (sets : Nat → List Word) (hk : k < 16) :
    TakesSets (· = k) s (s.applyUnit v sets k) := by
  rw [State.applyUnit_eq]
  exact TakesSets.ite (s.takesSets_renewUnit _ hk _ _) (TakesSets.refl _ s)

/-- A unit that the write does not name and that stays valid is left alone. -/
theorem State.applyUnit_kept (unnamed : v.getLsbD k = false) (valid : badAmong sets k = false) : s.applyUnit v sets k = s := by
  rw [State.applyUnit_eq, if_neg (by simp [unnamed, valid])]

/-- The unit is under the set that it has among all. -/
theorem State.latest_set_applyUnit (keeps : v.getLsbD k = false → sets k = (s.unit k).latest.set) :
    ((s.applyUnit v sets k).unit k).latest.set = sets k := by
  rw [State.applyUnit_eq]
  split
  · exact (s.latest_renewUnit _ k _ _).1
  · next h =>
    rw [Bool.or_eq_true, not_or, Bool.not_eq_true] at h
    exact (keeps h.1).symm

/-- A bad set leaves the unit in BAD_CFG, named or not. -/
theorem State.latest_bad_applyUnit (bad : badAmong sets k = true) : ((s.applyUnit v sets k).unit k).latest.bad = true := by
  rw [State.applyUnit_eq, bad, Bool.true_or]
  split
  · exact (s.latest_renewUnit _ k _ _).2
  · next h =>
    rw [Bool.or_eq_true, not_or, bne_iff_ne, not_not] at h
    exact h.2.symm

/-- A unit that takes a bad set shows it. -/
theorem State.applyUnit_bad (named : v.getLsbD k = true) (bad : badAmong sets k = true) (hk : k < 16) :
    (s.applyUnit v sets k).bit F.TRIG_EVENTS_BAD_CFG = true ∧
      (s.applyUnit v sets k).bit (F.TRIG_UNIT_STATUS_BAD_CFG k) = true ∧
      (s.applyUnit v sets k).bit (bitFld Reg.TRIG_STATUS k) = false := by
  rw [State.applyUnit_eq, named, bad, Bool.true_or, Bool.true_or, if_pos rfl]
  exact s.renewUnit_bad true hk (sets k)

end Unit

/-! ### The whole write (R177) -/

/-- The units of an APPLY, one after the other. -/
def State.applyUnits (s : State) (v : Word) : State :=
  (List.range 16).foldl (fun t k => t.applyUnit v (s.setAfter v) k) s

theorem State.applyWrite_eq (s : State) (v : Word) :
    s.applyWrite v = if v.getLsbD 16 then (s.applyUnits v).applyAux else s.applyUnits v := rfl

/-- The AUX_TRIG set touches the bit of AUX_TRIG alone. -/
theorem State.takesSets_applyAux (s : State) : TakesSets (· = 16) s s.applyAux where
  units _ _ := rfl
  reporting _ hi := (State.bit_setBit_beside _ _ _ (by decide) hi).trans rfl
  badCfg set := (State.bit_setBit_other _ (bitFld Reg.TRIG_STATUS 16) F.TRIG_EVENTS_BAD_CFG _ (by decide)
    (.inl (by decide))).trans set
  regs _ _ hs _ := State.reg_setF_other _ _ _ hs

theorem State.aux_applyUnit (s : State) (v : Word) (sets : Nat → List Word) (k : Nat) :
    (s.applyUnit v sets k).trig.aux = s.trig.aux := by
  rw [State.applyUnit_eq]
  split
  · rw [State.renewUnit_trig]
    rfl
  · rfl

theorem State.aux_applyUnits (s : State) (v : Word) : (s.applyUnits v).trig.aux = s.trig.aux :=
  List.foldlRecOn (motive := fun t : State => t.trig.aux = s.trig.aux) (List.range 16) _ rfl
    fun t h k _ => (State.aux_applyUnit t v (s.setAfter v) k).trans h

theorem State.takesSets_applyUnits (s : State) (v : Word) : TakesSets (· < 16) s (s.applyUnits v) :=
  TakesSets.foldl (fun u _ hc => (u.takesSets_applyUnit v _ (List.mem_range.mp hc)).mono fun _ e => e ▸ List.mem_range.mp hc) s

/-- An APPLY finds a unit as it was, and is done with it when it has applied its set. -/
theorem State.applyWrite_at (s : State) (v : Word) {k : Nat} (hk : k < 16) :
    ∃ u, TakesSets (· ≠ k) s u ∧ TakesSets (· ≠ k) (u.applyUnit v (s.setAfter v) k) (s.applyWrite v) := by
  obtain ⟨u, before, after⟩ := TakesSets.foldl_at (f := fun t k => t.applyUnit v (s.setAfter v) k) List.nodup_range
    (List.mem_range.mpr hk) (fun u _ hc => u.takesSets_applyUnit v _ (List.mem_range.mp hc)) s
  refine ⟨u, before, after.trans ?_⟩
  rw [State.applyWrite_eq]
  exact TakesSets.ite ((State.takesSets_applyAux _).mono fun i e => by omega) (TakesSets.refl _ _)

theorem State.setAfter_named {v : Word} {k : Nat} (h : v.getLsbD k = true) : s.setAfter v k = s.shadowUnit k := by
  rw [State.setAfter, if_pos h]

theorem State.setAfter_unnamed {v : Word} {k : Nat} (h : v.getLsbD k = false) : s.setAfter v k = (s.unit k).latest.set := by
  rw [State.setAfter, h, if_neg Bool.false_ne_true]

theorem State.latest_set_applyWrite (s : State) (v : Word) {k : Nat} (hk : k < 16) :
    ((s.applyWrite v).unit k).latest.set = s.setAfter v k := by
  obtain ⟨u, before, after⟩ := s.applyWrite_at v hk
  rw [after.units k (not_not.mpr rfl)]
  refine State.latest_set_applyUnit fun unnamed => ?_
  rw [State.setAfter_unnamed unnamed, before.units k (not_not.mpr rfl)]

theorem State.latest_bad_applyWrite {v : Word} {k : Nat} (hk : k < 16) (bad : badAmong (s.setAfter v) k = true) :
    ((s.applyWrite v).unit k).latest.bad = true := by
  obtain ⟨u, -, after⟩ := s.applyWrite_at v hk
  rw [after.units k (not_not.mpr rfl)]
  exact State.latest_bad_applyUnit bad

theorem State.unit_applyWrite_kept {v : Word} {k : Nat} (hk : k < 16) (unnamed : v.getLsbD k = false)
    (valid : badAmong (s.setAfter v) k = false) : (s.applyWrite v).unit k = s.unit k := by
  obtain ⟨u, before, after⟩ := s.applyWrite_at v hk
  rw [after.units k (not_not.mpr rfl), State.applyUnit_kept unnamed valid, before.units k (not_not.mpr rfl)]

/-- The shadow of a reserved TYPE is a bad set. -/
theorem State.badAmong_reserved {v : Word} {k : Nat} (named : v.getLsbD k = true)
    (reserved : 10 ≤ fieldOf (s.reg (Reg.TRIG_UNIT_CFG k)) 28 4) : badAmong (s.setAfter v) k = true := by
  refine badCfg_reserved _ k ?_
  rw [State.setAfter_named named]
  exact reserved

theorem State.applyWrite_bad {v : Word} {k : Nat} (hk : k < 16) (named : v.getLsbD k = true)
    (bad : badAmong (s.setAfter v) k = true) :
    (s.applyWrite v).bit F.TRIG_EVENTS_BAD_CFG = true ∧ (s.applyWrite v).bit (F.TRIG_UNIT_STATUS_BAD_CFG k) = true ∧
      (s.applyWrite v).bit (bitFld Reg.TRIG_STATUS k) = false := by
  obtain ⟨u, -, after⟩ := s.applyWrite_at v hk
  obtain ⟨event, status, reporting⟩ := State.applyUnit_bad (s := u) named bad hk
  refine ⟨after.badCfg event, ?_, (after.reporting k (not_not.mpr rfl)).trans reporting⟩
  rw [State.bit_congr_reg (f := F.TRIG_UNIT_STATUS_BAD_CFG k) (after.regs _ ?_ ?_ ?_), status]
  all_goals simp only [F.TRIG_UNIT_STATUS_BAD_CFG, Reg.TRIG_UNIT_STATUS, Reg.TRIG_EVENTS, Reg.TRIG_STATUS]
  all_goals omega

/-- Bit 16 takes the AUX_TRIG set, for the edges of later clocks. -/
theorem State.applyWrite_aux {v : Word} (h : v.getLsbD 16 = true) :
    (s.applyWrite v).trig.aux.sets =
        (s.tsc, [s.reg Reg.TRIG_AUX_CFG, s.reg Reg.TRIG_AUX_OFFSET, s.reg Reg.TRIG_AUX_HOLDOFF]) :: s.trig.aux.sets ∧
      (s.applyWrite v).bit (bitFld Reg.TRIG_STATUS 16) = (s.reg Reg.TRIG_AUX_CFG).getLsbD 0 := by
  have units := s.takesSets_applyUnits v
  have aux := s.aux_applyUnits v
  rw [State.applyWrite_eq, if_pos h]
  generalize s.applyUnits v = u at units aux
  rw [← aux, ← units.tsc, ← units.reg (o := Reg.TRIG_AUX_CFG) (by decide) (by decide) (by decide),
    ← units.reg (o := Reg.TRIG_AUX_OFFSET) (by decide) (by decide) (by decide),
    ← units.reg (o := Reg.TRIG_AUX_HOLDOFF) (by decide) (by decide) (by decide)]
  exact ⟨rfl, State.bit_setBit_same _ _ _ (by decide) rfl⟩

theorem State.applyWrite_aux_kept {v : Word} (h : v.getLsbD 16 = false) : (s.applyWrite v).trig.aux = s.trig.aux := by
  rw [State.applyWrite_eq, h, if_neg Bool.false_ne_true, State.aux_applyUnits]

/-- A write of TRIG.APPLY that meets its register, beside the cell that may forward it. -/
theorem exec_apply (h : s.takesWrite Reg.TRIG_APPLY = true) (v : Word) :
    ∃ t, exec (.apply v) s = .next t ∧ t.trig = (s.applyWrite v).trig ∧ t.regs = (s.applyWrite v).regs := by
  obtain ⟨pair, out, e⟩ := State.hostWrite_taken_eq h v fun s => s.applyWrite v
  exact ⟨_, congrArg Host.Outcome.next e, rfl, rfl⟩

/-- Settles O35: the sets after the write are judged together, and each unit takes its own among operations on other units; how
a unit meets a set tells which words it governs. -/
theorem triggerSets : Obligations.TriggerSets := by
  unfold Obligations.TriggerSets
  refine ⟨?write, ?before, ?after⟩
  case write =>
    intro s v h
    obtain ⟨t, run, trig, regs⟩ := exec_apply h v
    have unit (k : Nat) : t.unit k = (s.applyWrite v).unit k := State.unit_congr (congrArg TrigSt.units trig) k
    have bit (f : Fld) : t.bit f = (s.applyWrite v).bit f := State.bit_congr_reg (State.reg_congr regs _)
    refine ⟨t, run, ?named, ?unnamed, ?kept, ?bad, ?aux, ?auxKept, ?reserved⟩
    case named => exact fun k named => by rw [unit, State.latest_set_applyWrite s v k.isLt, State.setAfter_named named]
    case unnamed => exact fun k unnamed => by rw [unit, State.latest_set_applyWrite s v k.isLt, State.setAfter_unnamed unnamed]
    case kept =>
      intro k unnamed valid
      rw [unit, State.unit_applyWrite_kept k.isLt unnamed]
      rwa [badAmong, State.setAfter_unnamed unnamed]
    case bad => exact fun k bad => by rw [unit, State.latest_bad_applyWrite k.isLt bad]
    case aux =>
      intro aux
      rw [trig, bit]
      exact State.applyWrite_aux aux
    case auxKept => exact fun aux => by rw [trig, State.applyWrite_aux_kept aux]
    case reserved =>
      intro k named reserved
      rw [bit, bit, bit]
      exact State.applyWrite_bad k.isLt named (State.badAmong_reserved named reserved)
  case before =>
    intro u n clock w b only later
    rw [only, TrigUnit.meetSets_later later, ← only]
  case after =>
    intro u n clock w b only earlier
    obtain ⟨set, bad⟩ := u.meet_set w b
    rw [only, TrigUnit.meetSets_last earlier]
    refine ⟨set, bad, fun same => ?_, fun type => ?_⟩
    · rw [TrigUnit.meet_kept (TrigUnit.not_restarts_of_high same)]
    · rw [TrigUnit.meet_fresh (.inl (Ne.symm type))]
      exact ⟨rfl, rfl, rfl, rfl⟩

end Sys2Proof.Machine
end

section
/-! PROOF. A SEQUENCE unit whose source has an event at the instant of the word's last sample (spec/07_trigger.md R176, R184). -/

namespace Sys2Proof.Machine

/-- An engine in IDLE with all four channels. AUX_TRIG has kept one event, at the instant `at'`; unit 3 is a SEQUENCE that
takes its A events and its B events from AUX_TRIG, and that one B event completes. -/
def auxSequence (at' : Int) : State :=
  let s := (clockedIdle.setReg Reg.CONV_MODE 0x1F0).setUnit 3
    { TrigUnit.init with set := [0x80000000, 0, 0, 0, 0, 0, 0, 0, 0x1010, 1] }
  { s with trig := { s.trig with aux := { s.trig.aux with events := [at'] } } }

/-- The event falls on the last sample of the word sampled in clock 50. -/
def lastSampleSequence : State := auxSequence ((clockedIdle.setReg Reg.CONV_MODE 0x1F0).wordTo 50)

/-- It is among the events of the word, and the sequence reports it when all of those are run. -/
theorem runSequence_lastSample :
    (TrigUnit.runSequence lastSampleSequence.subSample (lastSampleSequence.seqEvents 50 (lastSampleSequence.wordFrom 50)
      (lastSampleSequence.wordTo 50) (lastSampleSequence.unit 3)) (lastSampleSequence.unit 3)).2 =
      [lastSampleSequence.wordTo 50] := by
  decide +kernel

/-- The unit keeps it for the next word, whose events may share its instant. -/
theorem judgeWord_lastSample :
    ((lastSampleSequence.judgeWord 3 50).unit 3).bus.events = [] ∧
      ((lastSampleSequence.judgeWord 3 50).unit 3).late =
        [(lastSampleSequence.wordTo 50, 2), (lastSampleSequence.wordTo 50, 3)] := by
  decide +kernel

/-- Refutes O37: a source event at the instant of the word's last sample waits for the events of the next word that share its
instant, which R184 ranks together with it, whereas the statement has all events of the sources run with the word. In the
counterexample AUX_TRIG, which is both A_SRC and B_SRC, has its event at that instant: run with the word it would be reported,
and the unit puts nothing on the bus. -/
theorem not_triggerReports : ¬ Obligations.TriggerReports := by
  unfold Obligations.TriggerReports
  rintro ⟨-, -, sequence, -⟩
  obtain ⟨reported, -⟩ := sequence lastSampleSequence 3 50 _ (by decide +kernel) (by decide +kernel) (by decide +kernel) rfl
  obtain ⟨nothing, -⟩ := judgeWord_lastSample
  have empty := (nothing.symm.trans reported).trans runSequence_lastSample
  exact List.cons_ne_nil _ _ empty.symm

end Sys2Proof.Machine
end

section
/-! PROOF. What becomes of the records of one context and sequence in the operations on all records: placement, gaps,
mirror traffic and retirement (spec/09_segments_and_placement.md R229 to R247, spec/17_faults_and_ordering.md R424 to R428). -/

namespace Sys2Proof.Machine

open Sys2Proof.Laws

/-! ### Requests to the shuttles and cells to the peer -/

/-- t differs from s neither in registers nor in the placement engine, and stands in the same clock. -/
structure Quiet (s t : State) : Prop where
  regs : t.regs = s.regs
  seg : t.seg = s.seg
  clk : t.time.clk = s.time.clk

theorem Quiet.refl (s : State) : Quiet s s := ⟨rfl, rfl, rfl⟩

theorem Quiet.trans {s t u : State} (a : Quiet s t) (b : Quiet t u) : Quiet s u :=
  ⟨b.regs.trans a.regs, b.seg.trans a.seg, b.clk.trans a.clk⟩

theorem Quiet.foldl {α : Type} {f : State → α → State} (hf : ∀ u a, Quiet u (f u a)) (l : List α) (s : State) :
    Quiet s (l.foldl f s) := by
  induction l generalizing s with
  | nil => exact .refl s
  | cons a l ih => exact (hf s a).trans (ih _)

theorem State.quiet_offer (s : State) (r : Nat) (q : MemReq) : Quiet s (s.offer r q) := by
  unfold State.offer
  split
  · exact .refl s
  · exact ⟨rfl, rfl, rfl⟩

theorem State.quiet_offerArea (s : State) (r : Nat) (write : Bool) (data : List Byte) (lo hi : Nat)
    (place : Nat → Option (Nat × Nat)) : Quiet s (s.offerArea r write data lo hi place) := by
  unfold State.offerArea
  split
  · exact .refl s
  · refine Quiet.foldl (fun u i => ?_) _ s
    dsimp only
    split
    · exact u.quiet_offer _ _
    · exact .refl u

theorem State.quiet_offerRing (s : State) (r : Nat) (write : Bool) (data : List Byte) (d start stop : Nat) :
    Quiet s (s.offerRing r write data d start stop) := s.quiet_offerArea ..

theorem State.quiet_offerRead (s : State) (req : Nat) (r : Record) (lo hi : Nat) : Quiet s (s.offerRead req r lo hi) := by
  unfold State.offerRead
  split
  · exact s.quiet_offerArea ..
  · exact s.quiet_offerRing ..

theorem State.quiet_offerSlot (s : State) (req : Nat) (write : Bool) (data : List Byte) (r : Record) :
    Quiet s (s.offerSlot req write data r) := by
  unfold State.offerSlot
  split
  · exact s.quiet_offer _ _
  · exact .refl s

theorem State.quiet_sendCell (s : State) (x : Cell) : Quiet s (s.sendCell x) := ⟨rfl, rfl, rfl⟩

theorem State.quiet_sendHand (s : State) (r : Record) (toStream : Bool) : Quiet s (s.sendHand r toStream) :=
  s.quiet_sendCell _

theorem State.quiet_handAgain (s : State) (old new : Record) : Quiet s (s.handAgain old new) := by
  have host : ∀ b : Prop, ∀ [Decidable b], Quiet s (if b then s.sendHand new false else s) := by
    intro b _
    split
    · exact s.quiet_sendHand new false
    · exact .refl s
  unfold State.handAgain
  dsimp only
  split
  · exact .refl s
  · split
    · exact (host _).trans (State.quiet_sendHand _ new true)
    · exact host _

theorem State.quiet_sendData (s : State) (ctx cseq : Nat) (bytes : List Byte) (n off : Nat) :
    Quiet s (s.sendData ctx cseq bytes n off) := by
  induction n generalizing s off with
  | zero => exact .refl s
  | succ n ih =>
    unfold State.sendData
    split
    · exact .refl s
    · exact (s.quiet_sendCell _).trans (ih _ _)

/-! ### The records of a context and sequence -/

/-- Every record of context c with sequence n has a property. -/
def State.RecsAre (s : State) (c n : Nat) (P : Record → Prop) : Prop :=
  ∀ q ∈ s.seg.recs, q.ctx = c → q.cseq = n → P q

/-- Context c holds a record with sequence n. -/
def State.HasRec (s : State) (c n : Nat) : Prop := ∃ q ∈ s.seg.recs, q.ctx = c ∧ q.cseq = n

/-- A property that a record keeps when a slot is given, taken or sought, and with which it does not retire. -/
structure Settled (P : Record → Prop) : Prop where
  slot : ∀ q o, P q → P { q with slot := o }
  notOpened : ∀ q, P q → q.state ≠ .opened
  unacked : ∀ q, P q → q.allAcked = false

/-- From s to t the records of context c with sequence n keep P and do not all go, each context keeps the end of its last segment,
and the registers of Q stay. -/
structure Tends (Q : Nat → Prop) (c n : Nat) (P : Record → Prop) (s t : State) : Prop where
  recs : s.RecsAre c n P → t.RecsAre c n P
  has : s.RecsAre c n P → s.HasRec c n → t.HasRec c n
  lastEnd : ∀ d, (t.keepOf d).lastEnd = (s.keepOf d).lastEnd
  regs : Leaves Q s t

section Tends

variable {Q : Nat → Prop} {c n : Nat} {P : Record → Prop} {s t u : State}

theorem Tends.refl (s : State) : Tends Q c n P s s := ⟨id, fun _ => id, fun _ => rfl, .refl s⟩

theorem Tends.trans (a : Tends Q c n P s t) (b : Tends Q c n P t u) : Tends Q c n P s u where
  recs h := b.recs (a.recs h)
  has h h' := b.has (a.recs h) (a.has h h')
  lastEnd d := (b.lastEnd d).trans (a.lastEnd d)
  regs := a.regs.trans b.regs

theorem Tends.ite {p : Prop} [Decidable p] {a b : State} (ha : Tends Q c n P s a) (hb : Tends Q c n P s b) :
    Tends Q c n P s (if p then a else b) := by split <;> assumption

theorem Tends.foldl {α : Type} {f : State → α → State} (hf : ∀ u a, Tends Q c n P u (f u a)) (l : List α) (s : State) :
    Tends Q c n P s (l.foldl f s) := by
  induction l generalizing s with
  | nil => exact .refl s
  | cons a l ih => exact (hf s a).trans (ih _)

/-- Registers aside, t keeps the records and what the contexts keep. -/
theorem Tends.of_same (regs : Leaves Q s t) (recs : t.seg.recs = s.seg.recs) (keep : t.seg.keep = s.seg.keep) :
    Tends Q c n P s t where
  recs := by unfold State.RecsAre; rw [recs]; exact id
  has := by unfold State.HasRec; rw [recs]; exact fun _ => id
  lastEnd d := by unfold State.keepOf; rw [keep]
  regs := regs

theorem Quiet.tends (h : Quiet s t) : Tends Q c n P s t :=
  .of_same ((Leaves.refl s).of_regs h.regs) (congrArg _ h.seg) (congrArg _ h.seg)

theorem State.tends_setLive (s : State) (d : Nat) (x : Option LiveCtx) : Tends Q c n P s (s.setLive d x) :=
  .of_same ((Leaves.refl s).of_regs rfl) rfl rfl

theorem State.keepOf_setKeep (s : State) (d e : Nat) (k : CtxKeep) :
    (s.setKeep d k).keepOf e = if e = d then k else s.keepOf e := sparseGet_set _ _ _ _ _

/-- What a context keeps may change but for the end of its last segment. -/
theorem State.tends_setKeep (s : State) {d : Nat} {k : CtxKeep} (h : k.lastEnd = (s.keepOf d).lastEnd) :
    Tends Q c n P s (s.setKeep d k) where
  recs := id
  has _ := id
  lastEnd e := by
    rw [State.keepOf_setKeep]
    split
    next same => rw [h, same]
    next => rfl
  regs := (Leaves.refl s).of_regs rfl

theorem State.mem_mapRecs {s : State} {sel : Record → Bool} {f : Record → Record} {q : Record} :
    q ∈ (s.mapRecs sel f).seg.recs ↔ ∃ r ∈ s.seg.recs, (if sel r = true then f r else r) = q := List.mem_map

/-- A change of the records of context a with sequence b. -/
theorem State.tends_mapRecs (s : State) (a b : Nat) {f : Record → Record}
    (key : ∀ q, q.ctx = a → q.cseq = b → (f q).ctx = a ∧ (f q).cseq = b)
    (hf : ∀ q, q.ctx = a → q.cseq = b → a = c → b = n → P q → P (f q)) :
    Tends Q c n P s (s.mapRecs (fun q => q.ctx == a && q.cseq == b) f) := by
  have keys : ∀ q, (q.ctx = a ∧ q.cseq = b) ∨ (if (q.ctx == a && q.cseq == b) = true then f q else q) = q := by
    intro q
    by_cases h : q.ctx = a ∧ q.cseq = b
    · exact .inl h
    · exact .inr (if_neg (by simpa using h))
  refine ⟨fun are q hq hc hn => ?_, fun _ ⟨q, hq, hc, hn⟩ => ?_, fun _ => rfl, (Leaves.refl s).of_regs rfl⟩
  · obtain ⟨r, hr, rfl⟩ := State.mem_mapRecs.mp hq
    rcases keys r with ⟨ha, hb⟩ | same
    · rw [if_pos (by simp [ha, hb])] at hc hn ⊢
      obtain ⟨fa, fb⟩ := key r ha hb
      have hac : a = c := fa.symm.trans hc
      have hbn : b = n := fb.symm.trans hn
      exact hf r ha hb hac hbn (are r hr (ha.trans hac) (hb.trans hbn))
    · rw [same] at hc hn ⊢
      exact are r hr hc hn
  · refine ⟨_, State.mem_mapRecs.mpr ⟨q, hq, rfl⟩, ?_⟩
    rcases keys q with ⟨ha, hb⟩ | same
    · rw [if_pos (by simp [ha, hb])]
      obtain ⟨fa, fb⟩ := key q ha hb
      exact ⟨fa.trans (ha.symm.trans hc), fb.trans (hb.symm.trans hn)⟩
    · rw [same]
      exact ⟨hc, hn⟩

/-! ### Chunks and slots -/

theorem State.tends_refreshResv (s : State) (d : Nat) : Tends Q c n P s (s.refreshResv d) := by
  unfold State.refreshResv
  exact Tends.ite (s.tends_setKeep rfl) (s.tends_setKeep rfl)

theorem State.tends_gcChunks (s : State) (d : Nat) : Tends Q c n P s (s.gcChunks d) := by
  unfold State.gcChunks
  exact (s.tends_setKeep (by dsimp only)).trans (State.tends_refreshResv _ d)

theorem State.tends_placeChunks (s : State) (d start stop : Nat) : Tends Q c n P s (s.placeChunks d start stop) := by
  unfold State.placeChunks
  refine Tends.ite (.refl s) (Tends.foldl (fun u i => ?_) _ s)
  exact Tends.ite (.refl u) (u.tends_setKeep rfl)

/-- A slot for a record that waits for one, where one is free (R226, R243). -/
def State.givesSlot (s : State) (r : Record) : State :=
  if r.kind == .segment || r.slot.isSome || r.state != .opened then s
  else match s.takeSlot with
    | none => s
    | some i => (s.mapRecs (fun q => q.ctx == r.ctx && q.cseq == r.cseq)
        (fun q => { q with slot := some i, state := .closing })).nextFree

theorem State.serveMarkers_eq (s : State) : s.serveMarkers = s.seg.recs.foldl State.givesSlot s := rfl

theorem State.quiet_nextFree (s : State) : Quiet s s.nextFree := ⟨rfl, rfl, rfl⟩

/-- Only a record that is still open waits for a slot. -/
theorem State.tends_givesSlot (s : State) (r : Record)
    (hr : r.ctx = c → r.cseq = n → r.state = .opened → ∀ q i, P q → P { q with slot := some i, state := .closing }) :
    Tends Q c n P s (s.givesSlot r) := by
  unfold State.givesSlot
  split
  next => exact .refl s
  next waits =>
    have opened : r.state = .opened := by
      simp only [Bool.or_eq_true, bne_iff_ne, not_or, not_not] at waits
      exact waits.2
    split
    next => exact .refl s
    next i _ =>
      have given := s.tends_mapRecs (Q := Q) (c := c) (n := n) (P := P) r.ctx r.cseq
        (f := fun q => { q with slot := some i, state := .closing }) (fun _ a b => ⟨a, b⟩) fun q _ _ hc hn => hr hc hn opened q i
      exact given.trans (State.quiet_nextFree _).tends

/-- Records that are no longer open pass through a hand-out of slots as they are. -/
theorem State.tends_serveMarkers (hP : Settled P) (s : State) : Tends Q c n P s s.serveMarkers := by
  rw [State.serveMarkers_eq]
  have others : ∀ l : List Record, (∀ r ∈ l, r.ctx = c → r.cseq = n → P r) → ∀ u : State,
      Tends Q c n P u (l.foldl State.givesSlot u) := by
    intro l
    induction l with
    | nil => exact fun _ u => .refl u
    | cons r l ih =>
      intro hl u
      obtain ⟨hr, hl⟩ := List.forall_mem_cons.mp hl
      exact (u.tends_givesSlot r fun hc hn opened => absurd opened (hP.notOpened r (hr hc hn))).trans (ih hl _)
  have all : Tends Q c n (fun _ => True) s (s.seg.recs.foldl State.givesSlot s) :=
    Tends.foldl (fun u r => u.tends_givesSlot r fun _ _ _ _ _ => id) _ s
  exact ⟨fun are => (others _ are s).recs are, fun are => (others _ are s).has are, all.lastEnd, all.regs⟩

theorem State.tends_freeSlotOf (hP : Settled P) (s : State) (r : Record) : Tends Q c n P s (s.freeSlotOf r) := by
  unfold State.freeSlotOf
  split
  · exact .refl s
  next i _ =>
    have freed := s.tends_mapRecs (Q := Q) (c := c) (n := n) (P := P) r.ctx r.cseq (f := fun q => { q with slot := none })
      (fun _ a b => ⟨a, b⟩) fun q _ _ _ _ => hP.slot q none
    exact Tends.ite (freed.trans (.of_same ((Leaves.refl _).of_regs rfl) rfl rfl))
      (freed.trans (State.tends_serveMarkers hP _))

/-! ### Marks in the registers -/

/-- Q names registers below the blocks of the delivery and of the faults alone, in which the events of records are marked. -/
def BelowDelivery (Q : Nat → Prop) : Prop := ∀ o, Q o → o < 0x100000

theorem BelowDelivery.not (hQ : BelowDelivery Q) {o : Nat} (h : 0x100000 ≤ o) : ¬ Q o := fun q => absurd (hQ o q) (by omega)

theorem BelowDelivery.tends_hwSet (hQ : BelowDelivery Q) (s : State) {f : Fld} (h : 0x100000 ≤ f.off) :
    Tends Q c n P s (s.hwSet f) := by
  have pba : ∀ v, ¬ Q (F.DMA_PBA_BIT v).off := fun v => hQ.not (show 0x100000 ≤ 0x129000 + 4 * (v / 32) by omega)
  exact .of_same ((Leaves.refl s).hwSet (hQ.not h) pba) (by rw [State.hwSet_seg]) (by rw [State.hwSet_seg])

theorem BelowDelivery.tends_rclAdd (hQ : BelowDelivery Q) (s : State) {o : Nat} (m : Nat) (h : 0x100000 ≤ o) :
    Tends Q c n P s (s.rclAdd o m) :=
  .of_same ((Leaves.refl s).rclAdd m (hQ.not h)) (by rw [State.rclAdd_seg]) (by rw [State.rclAdd_seg])

/-! ### Held records and gaps -/

theorem State.tends_judgeHeld (hQ : BelowDelivery Q) (s : State) (d : Nat) : Tends Q c n P s (s.judgeHeld d) := by
  unfold State.judgeHeld
  dsimp only
  have marked : ∀ b : Bool, Tends Q c n P s (if b = true then s.hwSet F.FLT_CLASS_FREEZE_HELD else s) :=
    fun b => Tends.ite (hQ.tends_hwSet s (by decide)) (.refl s)
  refine (marked _).trans (State.tends_setKeep _ ?_)
  exact ((marked _).lastEnd d).symm

/-- A record that is a gap at the consumers named (R428). -/
def Record.gapAt (r : Record) (cause : GapCause) (atHost atStream : Bool) : Record :=
  { r with
    host := if atHost then r.host.toGap cause else r.host
    stream := if atStream then r.stream.toGap cause else r.stream }

/-- It keeps no data that no consumer needs any more. -/
def Record.asGap (r : Record) (cause : GapCause) (atHost atStream : Bool) : Record :=
  let g := r.gapAt cause atHost atStream
  if g.spent then { g with bytes := 0, data := if g.host.visible || g.stream.visible then g.data else [] } else g

/-- Becoming a gap changes how a record stands at its consumers, and its data. -/
theorem Record.asGap_eq (r : Record) (cause : GapCause) (atHost atStream : Bool) :
    ∃ b d, r.asGap cause atHost atStream = { r.gapAt cause atHost atStream with bytes := b, data := d } := by
  rcases ite_eq_or_eq ((r.gapAt cause atHost atStream).spent = true) _ (r.gapAt cause atHost atStream) with e | e
  · exact ⟨_, _, e⟩
  · exact ⟨_, _, e⟩

/-- What making a gap of a record does where it does anything. -/
def State.makesGap (s : State) (r : Record) (cause : GapCause) (atHost atStream : Bool) : State :=
  let r' := r.asGap cause atHost atStream
  let fresh := r.host.gap != some cause && r.stream.gap != some cause
  let s := (s.mapRecs (fun q => q.ctx == r.ctx && q.cseq == r.cseq) (fun _ => r')).handAgain r r'
  let s := if fresh then s.rclAdd (Reg.FLT_GAP (cause.code - 1)) 1 else s
  let frozen := cause == .hbmRetired || cause == .hbmUnreadable || cause == .freezeTimeout
  let s := if frozen && r'.spent then s.freeSlotOf r' else s
  (s.gcChunks r.ctx).judgeHeld r.ctx

theorem State.gapRecord_cases (s : State) (r : Record) (cause : GapCause) (atHost atStream : Bool) :
    s.gapRecord r cause atHost atStream = s ∨ s.gapRecord r cause atHost atStream = s.makesGap r cause atHost atStream :=
  ite_eq_or_eq _ s (s.makesGap r cause atHost atStream)

theorem State.tends_gapRecord (hQ : BelowDelivery Q) (hP : Settled P) (s : State) (r : Record) (cause : GapCause)
    (atHost atStream : Bool) (hr : r.ctx = c → r.cseq = n → P (r.asGap cause atHost atStream)) :
    Tends Q c n P s (s.gapRecord r cause atHost atStream) := by
  rcases s.gapRecord_cases r cause atHost atStream with e | e
  · rw [e]
    exact .refl s
  rw [e]
  obtain ⟨b, d, made⟩ := r.asGap_eq cause atHost atStream
  have ctx : (r.asGap cause atHost atStream).ctx = r.ctx := by rw [made]; rfl
  have cseq : (r.asGap cause atHost atStream).cseq = r.cseq := by rw [made]; rfl
  unfold State.makesGap
  dsimp only
  have replaced := s.tends_mapRecs (Q := Q) (c := c) (n := n) (P := P) r.ctx r.cseq
    (f := fun _ => r.asGap cause atHost atStream) (fun _ _ _ => ⟨ctx, cseq⟩) fun _ _ _ hc hn _ => hr hc hn
  have sent := replaced.trans (State.quiet_handAgain _ r (r.asGap cause atHost atStream)).tends
  have counted := sent.trans (Tends.ite (p := (r.host.gap != some cause && r.stream.gap != some cause) = true)
    (hQ.tends_rclAdd _ 1 (show 0x100000 ≤ Reg.FLT_GAP (cause.code - 1) by simp only [Reg.FLT_GAP]; omega)) (.refl _))
  have freed := counted.trans (Tends.ite
    (p := ((cause == .hbmRetired || cause == .hbmUnreadable || cause == .freezeTimeout) && (r.asGap cause atHost atStream).spent) = true)
    (State.tends_freeSlotOf hP _ (r.asGap cause atHost atStream)) (.refl _))
  exact (freed.trans (State.tends_gcChunks _ r.ctx)).trans (State.tends_judgeHeld hQ _ r.ctx)

/-! ### Retirement -/

theorem State.quiet_freeBuffer (s : State) (r : Record) : Quiet s (s.freeBuffer r) := by
  unfold State.freeBuffer
  split
  · exact .refl s
  · exact ⟨rfl, rfl, rfl⟩

/-- The records of context c with sequence n leave. -/
def State.dropRecs (s : State) (c n : Nat) : State :=
  { s with seg := { s.seg with recs := s.seg.recs.filter (fun q => !(q.ctx == c && q.cseq == n)) } }

theorem State.mem_dropRecs {s : State} {c n : Nat} {q : Record} :
    q ∈ (s.dropRecs c n).seg.recs ↔ q ∈ s.seg.recs ∧ ¬ (q.ctx = c ∧ q.cseq = n) := by
  simp [State.dropRecs, List.mem_filter, imp_iff_not_or]

/-- The oldest record of a context retires (R235). -/
def State.retiresOne (s : State) (d : Nat) (r : Record) : State := (((s.dropRecs d r.cseq).freeBuffer r).gcChunks d).serveMarkers

theorem State.retireFrom_succ (s : State) (d m : Nat) : State.retireFrom d (m + 1) s =
    match s.recsOf d with
    | [] => s
    | r :: _ => if r.allAcked then State.retireFrom d m (s.retiresOne d r) else s := rfl

theorem State.mem_recsOf {s : State} {d : Nat} {q : Record} : q ∈ s.recsOf d ↔ q ∈ s.seg.recs ∧ q.ctx = d := by
  simp [State.recsOf, List.mem_filter]

theorem State.tends_dropRecs (s : State) {a b : Nat} (h : s.RecsAre c n P → ¬ (a = c ∧ b = n)) :
    Tends Q c n P s (s.dropRecs a b) where
  recs are q hq := are q (State.mem_dropRecs.mp hq).1
  has are := fun ⟨q, hq, hc, hn⟩ =>
    ⟨q, State.mem_dropRecs.mpr ⟨hq, fun ⟨ha, hb⟩ => h are ⟨ha.symm.trans hc, hb.symm.trans hn⟩⟩, hc, hn⟩
  lastEnd _ := rfl
  regs := (Leaves.refl s).of_regs rfl

theorem State.tends_afterDrop (hP : Settled P) (s : State) (d : Nat) (r : Record) :
    Tends Q c n P (s.dropRecs d r.cseq) (s.retiresOne d r) :=
  ((State.quiet_freeBuffer _ r).tends.trans (State.tends_gcChunks _ d)).trans (State.tends_serveMarkers hP _)

/-- A record that not every consumer has acknowledged stays. -/
theorem State.tends_retiresOne (hP : Settled P) {d : Nat} {r : Record} (mem : r ∈ s.recsOf d) (acked : r.allAcked = true) :
    Tends Q c n P s (s.retiresOne d r) := by
  obtain ⟨hr, hd⟩ := State.mem_recsOf.mp mem
  have other : s.RecsAre c n P → ¬ (d = c ∧ r.cseq = n) := by
    rintro are ⟨hc, hn⟩
    exact absurd acked (by rw [hP.unacked r (are r hr (hd.trans hc) hn)]; decide)
  exact (s.tends_dropRecs other).trans (s.tends_afterDrop hP d r)

theorem State.tends_retireFrom (hP : Settled P) (d m : Nat) (s : State) : Tends Q c n P s (State.retireFrom d m s) := by
  induction m generalizing s with
  | zero => exact .refl s
  | succ m ih =>
    rw [State.retireFrom_succ]
    split
    next => exact .refl s
    next r rest hrecs =>
      split
      next acked => exact (State.tends_retiresOne hP (hrecs ▸ List.mem_cons_self) acked).trans (ih _)
      next => exact .refl s

theorem State.tends_retire (hP : Settled P) (s : State) (d : Nat) : Tends Q c n P s (s.retire d) :=
  State.tends_retireFrom hP d _ s

end Tends

theorem settled_false : Settled (fun _ => False) := ⟨fun _ _ h => h, fun _ h => h.elim, fun _ h => h.elim⟩

/-- The oldest record of a context is gone after a retirement, where every consumer has acknowledged it. -/
theorem State.retire_head {s : State} {d : Nat} {r : Record} (head : (s.recsOf d).head? = some r) (acked : r.allAcked = true) :
    (s.retire d).RecsAre d r.cseq (fun _ => False) := by
  obtain ⟨rest, oldest⟩ := List.head?_eq_some_iff.mp head
  have first : s.retire d = State.retireFrom d rest.length (s.retiresOne d r) := by
    rw [State.retire, oldest, List.length_cons, State.retireFrom_succ, oldest]
    exact if_pos acked
  have dropped : (s.dropRecs d r.cseq).RecsAre d r.cseq (fun _ => False) :=
    fun q hq hd hn => (State.mem_dropRecs.mp hq).2 ⟨hd, hn⟩
  rw [first]
  exact ((s.tends_afterDrop (Q := fun _ => False) settled_false d r).trans
    (State.tends_retireFrom settled_false d rest.length _)).recs dropped

end Sys2Proof.Machine
end

section
/-! PROOF. The lifecycle of records: SEGMENT_CLOSE, RECORD_READY, RECORD_HANDED and CTX_CLEAR
(spec/09_segments_and_placement.md R229 to R234). -/

namespace Sys2Proof.Machine

open Sys2Proof.Laws

/-! ### A change of one record -/

section Change

variable {s : State} {a b : Nat} {f : Record → Record}

/-- What a change makes of the records that it selects. -/
theorem State.recsAre_mapRecs {P P' : Record → Prop} (are : s.RecsAre a b P')
    (hf : ∀ q, q.ctx = a → q.cseq = b → P' q → P (f q)) :
    (s.mapRecs (fun q => q.ctx == a && q.cseq == b) f).RecsAre a b P := by
  intro q hq hc hn
  obtain ⟨r, hr, rfl⟩ := State.mem_mapRecs.mp hq
  by_cases h : r.ctx = a ∧ r.cseq = b
  · obtain ⟨ha, hb⟩ := h
    rw [if_pos (by simp [ha, hb])]
    exact hf r ha hb (are r hr ha hb)
  · rw [if_neg (by simpa using h)] at hc hn
    exact absurd ⟨hc, hn⟩ h

theorem State.hasRec_mapRecs (key : ∀ q, q.ctx = a → q.cseq = b → (f q).ctx = a ∧ (f q).cseq = b) (h : s.HasRec a b) :
    (s.mapRecs (fun q => q.ctx == a && q.cseq == b) f).HasRec a b :=
  (s.tends_mapRecs (Q := fun _ => False) (P := fun _ => True) a b key fun _ _ _ _ _ => id).has (fun _ _ _ _ => trivial) h

/-- What a change leaves of each record. -/
theorem State.map_mapRecs {α : Type} (s : State) (sel : Record → Bool) {g : Record → α} (same : ∀ q, g (f q) = g q) :
    (s.mapRecs sel f).seg.recs.map g = s.seg.recs.map g := by
  simp only [State.mapRecs, List.map_map]
  refine List.map_congr_left fun q _ => ?_
  simp only [Function.comp]
  split
  · exact same q
  · rfl

variable (key : ∀ q, (f q).ctx = q.ctx ∧ (f q).cseq = q.cseq)
include key

/-- The other records stay as they are. -/
theorem State.others_mapRecs (s : State) (a b : Nat) :
    (s.mapRecs (fun q => q.ctx == a && q.cseq == b) f).seg.recs.filter (fun q => q.ctx != a || q.cseq != b) =
      s.seg.recs.filter (fun q => q.ctx != a || q.cseq != b) := by
  simp only [State.mapRecs]
  induction s.seg.recs with
  | nil => rfl
  | cons r l ih =>
    obtain ⟨hc, hn⟩ := key r
    rw [List.map_cons]
    by_cases h : (r.ctx == a && r.cseq == b) = true
    · have changed : ((f r).ctx != a || (f r).cseq != b) = false := by simpa [hc, hn] using h
      have left : (r.ctx != a || r.cseq != b) = false := by simpa using h
      rw [if_pos h, List.filter_cons_of_neg (by simp [changed]), List.filter_cons_of_neg (by simp [left]), ih]
    · have kept : (r.ctx != a || r.cseq != b) = true := by simpa [imp_iff_not_or] using h
      rw [if_neg h, List.filter_cons_of_pos (by exact kept), List.filter_cons_of_pos (by exact kept), ih]

/-- The oldest record of a context is still the same one. -/
theorem State.head_mapRecs {d : Nat} {r : Record} (sel : Record → Bool) (head : (s.recsOf d).head? = some r) :
    ((s.mapRecs sel f).recsOf d).head? = some (if sel r = true then f r else r) := by
  have same : ∀ q : Record, ((if sel q = true then f q else q).ctx == d) = (q.ctx == d) := by
    intro q
    split
    · rw [(key q).1]
    · rfl
  have maps : (s.mapRecs sel f).recsOf d = (s.recsOf d).map (fun q => if sel q = true then f q else q) := by
    simp only [State.recsOf, State.mapRecs, List.filter_map]
    congr 1
    exact List.filter_congr fun q _ => same q
  rw [maps, List.head?_map, head]
  rfl

end Change

/-! ### Hand-over (R233, R234) -/

/-- A property that a record keeps through what follows its hand-over to the host: it stands at the stream consumer in any way,
its HAND cells are sent, and its data goes. -/
structure Lasting (P : Record → Prop) : Prop extends Settled P where
  stream : ∀ q x, P q → P { q with stream := x }
  mirror : ∀ q x y, P q → P { q with host := { q.host with hand := x, mirrored := y } }
  data : ∀ q b d, P q → P { q with bytes := b, data := d }

/-- A delivery whose HAND cell is sent. -/
def Delivery.marked (d : Delivery) (b : Bool) : Delivery := if b then { d with hand := true, mirrored := false } else d

theorem Delivery.marked_eq (d : Delivery) (b : Bool) : ∃ x y, d.marked b = { d with hand := x, mirrored := y } := by
  cases b
  · exact ⟨d.hand, d.mirrored, rfl⟩
  · exact ⟨true, false, rfl⟩

/-- A record whose HAND cells are sent. -/
def Record.marked (host stream : Bool) (q : Record) : Record :=
  { q with host := q.host.marked host, stream := q.stream.marked stream }

/-- What a protected ACTIVE mirrors of a record marks it, and makes requests and cells. -/
theorem State.quiet_mirrorOut {s : State} (h : s.isProtectedActive = true) (r : Record) :
    Quiet (s.mapRecs (fun q => q.ctx == r.ctx && q.cseq == r.cseq)
      (Record.marked (r.host.wanted && !r.host.visible) (r.stream.wanted && !r.stream.visible))) (s.mirrorOut r) := by
  have sends : ∀ (u : State) (b x : Bool), Quiet u (if b = true then u.sendHand r x else u) := by
    intro u b x
    cases b
    · exact .refl u
    · exact u.quiet_sendHand r x
  unfold State.mirrorOut
  rw [h]
  exact ((((sends _ _ false).trans (sends _ _ true)).trans (State.quiet_offerSlot _ 10 false [] r)).trans
    (State.quiet_offerRead _ 10 r 0 _)).trans (State.quiet_sendData _ r.ctx r.cseq _ _ 0)

/-- A record is HANDED. -/
def State.handed (s : State) (r : Record) : State :=
  s.mapRecs (fun q => q.ctx == r.ctx && q.cseq == r.cseq) (fun q => { q with state := .handed })

/-- The stream consumer is handed a record. -/
def State.handsStream (s : State) (r : Record) : State :=
  match s.recKey (r.ctx, r.cseq) with
  | some q => s.handStream q
  | none => s

/-- A record handed over is mirrored, but for one beyond its stream quota. -/
def State.mirrorsHanded (s : State) (r : Record) : State :=
  match s.recKey (r.ctx, r.cseq) with
  | some q => if s.strm.excess.contains (q.ctx, q.cseq) then s else s.mirrorOut q
  | none => s

/-- What follows the hand-over of a record to the host, up to retirement. -/
def State.handsOn (s : State) (r : Record) : State :=
  (((if r.stream.wanted then s.handsStream r else s).noteHanded r).mirrorsHanded r).judgeHeld r.ctx

theorem State.handRecord_eq (s : State) (r : Record) : s.handRecord r =
    ((if r.host.wanted then (s.handed r).handHost r else s.handed r).handsOn r).retire r.ctx := rfl

section Hand

variable {Q : Nat → Prop} {c n : Nat} {P : Record → Prop} {s : State}

theorem State.tends_mirrorOut (hP : Lasting P) (s : State) (r : Record) : Tends Q c n P s (s.mirrorOut r) := by
  by_cases h : s.isProtectedActive = true
  · refine Tends.trans (s.tends_mapRecs r.ctx r.cseq
      (f := Record.marked (r.host.wanted && !r.host.visible) (r.stream.wanted && !r.stream.visible))
      (fun _ a b => ⟨a, b⟩) fun q _ _ _ _ hq => ?_) (State.quiet_mirrorOut h r).tends
    obtain ⟨x, y, e⟩ := q.host.marked_eq (r.host.wanted && !r.host.visible)
    unfold Record.marked
    rw [e]
    exact hP.stream _ _ (hP.mirror q x y hq)
  · have idle : s.mirrorOut r = s := by simp [State.mirrorOut, h]
    rw [idle]
    exact .refl s

theorem State.tends_mirrorsHanded (hP : Lasting P) (s : State) (r : Record) : Tends Q c n P s (s.mirrorsHanded r) := by
  unfold State.mirrorsHanded
  split
  · exact Tends.ite (.refl s) (s.tends_mirrorOut hP _)
  · exact .refl s

theorem State.tends_noteHanded (s : State) (r : Record) : Tends Q c n P s (s.noteHanded r) := by
  unfold State.noteHanded
  split
  · exact Tends.ite (s.tends_setLive _ _) (.refl s)
  · exact .refl s

theorem Lasting.asGap_stream (hP : Lasting P) {r : Record} (hr : P r) (cause : GapCause) : P (r.asGap cause false true) := by
  obtain ⟨b, d, e⟩ := r.asGap_eq cause false true
  rw [e]
  exact hP.data _ b d (hP.stream r _ hr)

variable (hQ : BelowDelivery Q)
include hQ

theorem State.tends_dropOrSpill (hP : Lasting P) (s : State) (r : Record) (hr : r.ctx = c → r.cseq = n → P r) :
    Tends Q c n P s (s.dropOrSpill r) := by
  unfold State.dropOrSpill
  refine Tends.ite ?drop (Tends.ite ?spill (.refl s))
  case drop =>
    have gap := s.tends_gapRecord hQ hP.toSettled r .streamDropped false true fun hc hn => hP.asGap_stream (hr hc hn) _
    exact ((gap.trans (hQ.tends_rclAdd _ 1 (by decide))).trans (hQ.tends_hwSet _ (by decide))).trans (hQ.tends_hwSet _ (by decide))
  case spill =>
    exact s.tends_mapRecs r.ctx r.cseq (fun _ a b => ⟨a, b⟩) fun q _ _ _ _ => hP.stream q _

theorem State.tends_handStream (hP : Lasting P) (lo : ¬ Q Reg.SEG_GSEQ_STREAM_LO) (hi : ¬ Q Reg.SEG_GSEQ_STREAM_HI)
    (s : State) (r : Record) (hr : r.ctx = c → r.cseq = n → P r) : Tends Q c n P s (s.handStream r) := by
  unfold State.handStream
  dsimp only
  have counted : Tends Q c n P s (s.set64 Reg.SEG_GSEQ_STREAM_LO (s.get64 Reg.SEG_GSEQ_STREAM_LO + 1)) :=
    .of_same ((Leaves.refl s).set64 _ lo hi) rfl rfl
  have numbered := counted.trans (State.tends_mapRecs _ r.ctx r.cseq
    (f := fun q => { q with stream := { q.stream with gseq := some (s.get64 Reg.SEG_GSEQ_STREAM_LO) } })
    (fun _ a b => ⟨a, b⟩) fun q _ _ _ _ => hP.stream q _)
  refine numbered.trans (Tends.ite (.of_same ((Leaves.refl _).of_regs rfl) rfl rfl) ?_)
  exact State.tends_dropOrSpill hQ hP _ _ fun hc hn => hP.stream r _ (hr hc hn)

theorem State.tends_handsStream (hP : Lasting P) (lo : ¬ Q Reg.SEG_GSEQ_STREAM_LO) (hi : ¬ Q Reg.SEG_GSEQ_STREAM_HI)
    (r : Record) (are : s.RecsAre c n P) : Tends Q c n P s (s.handsStream r) := by
  unfold State.handsStream
  split
  next q found => exact s.tends_handStream hQ hP lo hi q (are q (List.mem_of_find?_eq_some found))
  next => exact .refl s

/-- What follows the hand-over of a record to the host, retirement with it, keeps what lasts of any record, and the registers
below the delivery's but for the stream consumer's sequence. -/
theorem State.tends_handsOn_retire (hP : Lasting P) (s : State) (r : Record) (hs : r.stream.wanted = true →
      s.RecsAre c n P ∧ ¬ Q Reg.SEG_GSEQ_STREAM_LO ∧ ¬ Q Reg.SEG_GSEQ_STREAM_HI) : Tends Q c n P s ((s.handsOn r).retire r.ctx) := by
  have stream : Tends Q c n P s (if r.stream.wanted then s.handsStream r else s) := by
    split
    next wanted =>
      obtain ⟨are, lo, hi⟩ := hs wanted
      exact State.tends_handsStream hQ hP lo hi r are
    next => exact .refl s
  exact (((stream.trans (State.tends_noteHanded _ r)).trans (State.tends_mirrorsHanded hP _ r)).trans
    (State.tends_judgeHeld hQ _ r.ctx)).trans (State.tends_retire hP.toSettled _ r.ctx)

end Hand

theorem lasting_false : Lasting (fun _ => False) :=
  ⟨settled_false, fun _ _ h => h, fun _ _ _ h => h, fun _ _ _ h => h⟩

/-- A record handed to the host with a global sequence, and not yet acknowledged there. -/
def Record.HandedAs (g : Nat) (q : Record) : Prop :=
  q.state = .handed ∧ q.host.wanted = true ∧ q.host.acked = false ∧ q.host.gseq = some g

theorem lasting_handedAs (g : Nat) : Lasting (Record.HandedAs g) where
  slot _ _ h := h
  notOpened q h := by
    obtain ⟨state, -⟩ := h
    simp [state]
  unacked q h := by
    obtain ⟨-, wanted, acked, -⟩ := h
    simp [Record.allAcked, wanted, acked]
  stream _ _ h := h
  mirror _ _ _ h := h
  data _ _ _ h := h

/-- The registers of the host's global sequence. -/
def HostGseq (o : Nat) : Prop := o = Reg.SEG_GSEQ_HOST_LO ∨ o = Reg.SEG_GSEQ_HOST_LO + 4

/-- The registers of the stream consumer's global sequence. -/
def StreamGseq (o : Nat) : Prop := o = Reg.SEG_GSEQ_STREAM_LO ∨ o = Reg.SEG_GSEQ_STREAM_LO + 4

theorem belowDelivery_hostGseq : BelowDelivery HostGseq := by
  rintro o (rfl | rfl) <;> decide

theorem belowDelivery_streamGseq : BelowDelivery StreamGseq := by
  rintro o (rfl | rfl) <;> decide

theorem Leaves.get64 {Q : Nat → Prop} {s t : State} (h : Leaves Q s t) {o : Nat} (lo : Q o) (hi : Q (o + 4)) :
    t.get64 o = s.get64 o := by
  rw [State.get64, State.get64, h.reg o lo, h.reg _ hi]

section Handed

variable {s : State} {r : Record}

/-- The host's number on a record that is the only one of its context and sequence. -/
theorem State.handHost_spec (mem : r ∈ s.seg.recs) (only : ∀ q ∈ s.seg.recs, q.ctx = r.ctx → q.cseq = r.cseq → q = r)
    (wanted : r.host.wanted = true) (unacked : r.host.acked = false) :
    ((s.handed r).handHost r).RecsAre r.ctx r.cseq (Record.HandedAs (s.get64 Reg.SEG_GSEQ_HOST_LO)) ∧
      ((s.handed r).handHost r).HasRec r.ctx r.cseq ∧
      ((s.handed r).handHost r).get64 Reg.SEG_GSEQ_HOST_LO = (s.get64 Reg.SEG_GSEQ_HOST_LO + 1) % 2 ^ 64 ∧
      ((s.handed r).handHost r).get64 Reg.SEG_GSEQ_STREAM_LO = s.get64 Reg.SEG_GSEQ_STREAM_LO := by
  have handed : (s.handed r).RecsAre r.ctx r.cseq (fun q => q = { r with state := .handed }) :=
    State.recsAre_mapRecs (P' := fun q => q = r) only fun q _ _ e => by rw [e]
  refine ⟨?_, ?_, ?_, ?_⟩
  · refine State.recsAre_mapRecs (P' := fun q => q = { r with state := .handed }) handed fun q _ _ e => ?_
    rw [e]
    exact ⟨rfl, wanted, unacked, rfl⟩
  · have present : (s.handed r).HasRec r.ctx r.cseq := State.hasRec_mapRecs (fun _ a b => ⟨a, b⟩) ⟨r, mem, rfl, rfl⟩
    exact State.hasRec_mapRecs (fun _ a b => ⟨a, b⟩) present
  · exact State.get64_set64_same s _ _
  · exact ((Leaves.refl s).set64 (P := StreamGseq) _ (by unfold StreamGseq; decide) (by unfold StreamGseq; decide)).get64
      (.inl rfl) (.inr rfl)

theorem State.readyHead_mem {c : Nat} (head : s.readyHead c = some r) : r ∈ s.seg.recs ∧ r.ctx = c := by
  unfold State.readyHead at head
  split at head
  next q found =>
    split at head
    · obtain rfl := Option.some.inj head
      exact State.mem_recsOf.mp (List.mem_of_find?_eq_some found)
    · cases head
  next => cases head

theorem exec_recordHanded {c : Fin 1024} (delivers : s.delivers = true) (head : s.readyHead c = some r)
    (next : s.nextToHand c r = true) : exec (.recordHanded c) s = .next (s.handRecord r) := by
  have hexec : exec (.recordHanded c) s = .next (match s.readyHead c with
    | some r => if s.delivers && s.nextToHand c r then s.handRecord r else s
    | none => s) := rfl
  simp [hexec, head, delivers, next]

theorem State.handRecord_host (wanted : r.host.wanted = true) :
    s.handRecord r = (((s.handed r).handHost r).handsOn r).retire r.ctx := by
  rw [State.handRecord_eq, wanted, if_pos rfl]

/-- A record handed to the host has the host's next number, and the sequences of the consumers it does not name stay. -/
theorem State.handRecord_host_spec (mem : r ∈ s.seg.recs) (only : ∀ q ∈ s.seg.recs, q.ctx = r.ctx → q.cseq = r.cseq → q = r)
    (wanted : r.host.wanted = true) (unacked : r.host.acked = false) :
    (∃ q ∈ (s.handRecord r).seg.recs, q.ctx = r.ctx ∧ q.cseq = r.cseq ∧ q.HandedAs (s.get64 Reg.SEG_GSEQ_HOST_LO)) ∧
      (s.handRecord r).get64 Reg.SEG_GSEQ_HOST_LO = (s.get64 Reg.SEG_GSEQ_HOST_LO + 1) % 2 ^ 64 ∧
      (r.stream.wanted = false → (s.handRecord r).get64 Reg.SEG_GSEQ_STREAM_LO = s.get64 Reg.SEG_GSEQ_STREAM_LO) := by
  obtain ⟨are, has, host, stream⟩ := State.handHost_spec mem only wanted unacked
  have lasting := lasting_handedAs (s.get64 Reg.SEG_GSEQ_HOST_LO)
  rw [State.handRecord_host wanted]
  have after := State.tends_handsOn_retire (c := r.ctx) (n := r.cseq) belowDelivery_hostGseq lasting ((s.handed r).handHost r) r
    fun _ => ⟨are, by unfold HostGseq; decide, by unfold HostGseq; decide⟩
  refine ⟨?_, (after.regs.get64 (.inl rfl) (.inr rfl)).trans host, fun alone => ?_⟩
  · obtain ⟨q, hq, hc, hn⟩ := after.has are has
    exact ⟨q, hq, hc, hn, after.recs are q hq hc hn⟩
  · have other := State.tends_handsOn_retire (c := r.ctx) (n := r.cseq) belowDelivery_streamGseq lasting
      ((s.handed r).handHost r) r fun named => absurd named (by simp [alone])
    exact (other.regs.get64 (.inl rfl) (.inr rfl)).trans stream

end Handed

/-! ### A record that names no consumer -/

/-- A record that no consumer is to have. -/
def Record.HandedToNone (q : Record) : Prop := q.state = .handed ∧ q.host.wanted = false ∧ q.stream.wanted = false

theorem Record.HandedToNone.allAcked {q : Record} (h : q.HandedToNone) : q.allAcked = true := by
  obtain ⟨state, host, stream⟩ := h
  simp [Record.allAcked, state, host, stream]

theorem Record.HandedToNone.marked {q : Record} (h : q.HandedToNone) (host stream : Bool) : (q.marked host stream).HandedToNone := by
  obtain ⟨_, _, hHost⟩ := q.host.marked_eq host
  obtain ⟨_, _, hStream⟩ := q.stream.marked_eq stream
  unfold Record.marked
  rw [hHost, hStream]
  exact h

theorem State.recsOf_congr {s t : State} (h : t.seg.recs = s.seg.recs) (d : Nat) : t.recsOf d = s.recsOf d := by
  rw [State.recsOf, State.recsOf, h]

theorem State.recs_judgeHeld (s : State) (c : Nat) : (s.judgeHeld c).seg.recs = s.seg.recs := by
  unfold State.judgeHeld
  dsimp only
  have marked : ∀ b : Bool, (if b = true then s.hwSet F.FLT_CLASS_FREEZE_HELD else s).seg.recs = s.seg.recs := by
    intro b
    split
    · rw [State.hwSet_seg]
    · rfl
  exact marked _

theorem State.recs_noteHanded (s : State) (r : Record) : (s.noteHanded r).seg.recs = s.seg.recs := by
  unfold State.noteHanded
  split
  · split <;> rfl
  · rfl

/-- The mirror traffic leaves the oldest record of a context the oldest, for no consumer. -/
theorem State.oldest_mirrorsHanded {s : State} {d n : Nat} (r : Record)
    (head : ∃ q, (s.recsOf d).head? = some q ∧ q.cseq = n ∧ q.HandedToNone) :
    ∃ q, ((s.mirrorsHanded r).recsOf d).head? = some q ∧ q.cseq = n ∧ q.HandedToNone := by
  have mirrors : ∀ x, ∃ q, ((s.mirrorOut x).recsOf d).head? = some q ∧ q.cseq = n ∧ q.HandedToNone := by
    intro x
    by_cases h : s.isProtectedActive = true
    · obtain ⟨q, oldest, cseq, none⟩ := head
      rw [State.recsOf_congr (congrArg _ (State.quiet_mirrorOut h x).seg)]
      refine ⟨_, State.head_mapRecs (f := Record.marked _ _) (fun q => ⟨rfl, rfl⟩) _ oldest, ?_⟩
      split
      · exact ⟨cseq, none.marked _ _⟩
      · exact ⟨cseq, none⟩
    · have idle : s.mirrorOut x = s := by simp [State.mirrorOut, h]
      rwa [idle]
  unfold State.mirrorsHanded
  split
  next x _ =>
    split
    · exact head
    · exact mirrors x
  next => exact head

/-- A record that names no consumer and is the oldest of its context is gone when it is handed over, without a number. -/
theorem State.handRecord_none_spec {s : State} {r : Record} (head : (s.recsOf r.ctx).head? = some r)
    (host : r.host.wanted = false) (stream : r.stream.wanted = false) :
    (s.handRecord r).RecsAre r.ctx r.cseq (fun _ => False) ∧
      (s.handRecord r).get64 Reg.SEG_GSEQ_HOST_LO = s.get64 Reg.SEG_GSEQ_HOST_LO := by
  have hands : s.handRecord r = ((s.handed r).handsOn r).retire r.ctx := by simp [State.handRecord_eq, host]
  rw [hands]
  constructor
  · have oldest := State.head_mapRecs (f := fun q => { q with state := .handed }) (fun q => ⟨rfl, rfl⟩)
      (fun q => q.ctx == r.ctx && q.cseq == r.cseq) head
    rw [if_pos (by simp)] at oldest
    have noted : ∃ q, (((s.handed r).noteHanded r).recsOf r.ctx).head? = some q ∧ q.cseq = r.cseq ∧ q.HandedToNone := by
      rw [State.recsOf_congr (State.recs_noteHanded _ r)]
      exact ⟨_, oldest, rfl, rfl, host, stream⟩
    obtain ⟨q, last, cseq, none⟩ := State.oldest_mirrorsHanded r noted
    have on : (s.handed r).handsOn r = (((s.handed r).noteHanded r).mirrorsHanded r).judgeHeld r.ctx := by
      simp [State.handsOn, stream]
    rw [on, ← cseq]
    rw [← State.recsOf_congr (State.recs_judgeHeld _ r.ctx)] at last
    exact State.retire_head last none.allAcked
  · have after := State.tends_handsOn_retire (c := r.ctx) (n := r.cseq) belowDelivery_hostGseq lasting_false (s.handed r) r
      fun named => absurd named (by simp [stream])
    exact after.regs.get64 (.inl rfl) (.inr rfl)

/-! ### The close of a segment (R229, R230) -/

section Close

theorem State.seg_foldl {α : Type} {f : State → α → State} (hf : ∀ u a, (f u a).seg = u.seg) (l : List α) (s : State) :
    (l.foldl f s).seg = s.seg := by
  induction l generalizing s with
  | nil => rfl
  | cons a l ih => exact (ih _).trans (hf s a)

theorem State.seg_passEvents (s : State) (was now : BeamPass) : (s.passEvents was now).seg = s.seg := by
  unfold State.passEvents
  dsimp only
  split <;> split <;> simp

theorem State.seg_streamTiles (s : State) (j pre frac : Nat) (qs : List SweepSample) : (s.streamTiles j pre frac qs).seg = s.seg := by
  unfold State.streamTiles
  exact State.seg_foldl (fun u _ => ((u.quiet_offerArea ..).trans (State.quiet_offerArea _ ..)).seg) _ s

/-- A segment's samples reach the rasters of jobs, which are no records. -/
theorem State.seg_accumulate (s : State) (c n pre frac : Nat) (out : Rat) (qs : List SweepSample) :
    (s.accumulate c n pre frac out qs).seg = s.seg := by
  unfold State.accumulate
  refine State.seg_foldl (fun u p => ?_) _ s
  have rebased : ∀ (v : State) (b : Bool), (if b = true then v.rebaseJob p.1 else v).seg = v.seg := by
    intro v b
    split <;> rfl
  dsimp only
  split
  · split
    · rw [State.seg_streamTiles, rebased, State.nextFree_seg, State.seg_passEvents, State.seg_passEvents]
      rfl
    · rw [rebased, State.nextFree_seg, State.seg_passEvents, State.seg_passEvents]
      rfl
  · rfl

theorem State.seg_arrive (s : State) (k tread : Nat) : (s.arrive k tread).seg = s.seg := by
  unfold State.arrive
  dsimp only
  rw [State.setCursor_seg, State.setBit_seg]
  split <;> rfl

theorem State.seg_arriveAll (s : State) (restart : Bool) (m : Nat) : (s.arriveAll restart m).seg = s.seg :=
  State.seg_foldl (fun u k => by rw [State.setCursor_seg, State.seg_arrive]) _ s

theorem State.seg_exchange (s : State) (q : SwapReq) (b : Nat) : (s.exchange q b).seg = s.seg := by
  unfold State.exchange
  simp only [State.hwSet_seg, State.setBit_seg]
  split
  · rw [State.seg_arriveAll]
  · rfl

theorem State.seg_endSwap (s : State) : s.endSwap.seg = s.seg := rfl

theorem State.seg_swapDue (s : State) : s.swapDue.seg = s.seg := by
  unfold State.swapDue
  split
  · split
    · rw [State.seg_endSwap, State.seg_exchange]
    · split
      · rw [State.seg_endSwap, State.seg_exchange]
      · rfl
  · rfl

theorem State.seg_cancelLate (s : State) (m : Nat) : (s.cancelLate m).seg = s.seg := by
  unfold State.cancelLate
  split
  · split
    · simp only [State.hwSet_seg, State.seg_exchange]
    · rfl
  · rfl

theorem State.seg_swapClosed (s : State) (d : Nat) : (s.swapClosed d).seg = s.seg :=
  (State.seg_cancelLate _ _).trans (State.seg_swapDue _)

/-- No register. -/
def NoReg (_ : Nat) : Prop := False

theorem belowDelivery_noReg : BelowDelivery NoReg := fun _ h => h.elim

variable {c n : Nat} {P : Record → Prop} {s t : State}

theorem Tends.of_seg (h : t.seg = s.seg) : Tends NoReg c n P s t :=
  .of_same ⟨fun _ h => h.elim⟩ (congrArg _ h) (congrArg _ h)

theorem State.tends_holdoffFrom (s : State) (d m : Nat) (at' : Int) : Tends NoReg c n P s (s.holdoffFrom d m at') := by
  unfold State.holdoffFrom
  split
  · exact Tends.ite (s.tends_setLive _ _) (.refl s)
  · exact .refl s

theorem State.tends_afterClose (s : State) (d : Nat) : Tends NoReg c n P s (s.afterClose d) := by
  have released : Tends NoReg c n P s (match s.liveOf d with
      | some x =>
        if !x.armed || s.loom.stopping then s.setLive d (some { x with release := some (s.time.clk + 1) }) else s
      | none => s) := by
    split
    · exact Tends.ite (s.tends_setLive _ _) (.refl s)
    · exact .refl s
  have leaves : ∀ u : State, u.leaveAcquiring.seg = u.seg := by
    intro u
    unfold State.leaveAcquiring
    split
    · rw [State.enter_seg]
    · rfl
  unfold State.afterClose
  exact released.trans (.of_seg ((leaves _).trans (State.seg_swapClosed _ d)))

/-- The record of a segment that closes with the samples it keeps (R230, R236). -/
def State.closedRecord (s : State) (r : Record) (kept : List LaneSample) (pre frac : Nat) (short : Bool) : Record :=
  let x := s.lane r.lane
  let lost := r.spent && (r.host.gap.isSome || r.stream.gap.isSome)
  let data := if lost then [] else packSamples r.fmt (kept.map (·.w))
  { r with
    state := .closing, samples := kept.length, pretrig := pre, trigFrac := frac
    delay := delayFixed x.eff x.kinds, flags := s.spanFlags r kept short, bytes := round64 data.length, data := data }

/-- The instant of the last sample that a segment stores; without one, that of its CLOSE. -/
def State.lastStored (s : State) (r : Record) (kept : List LaneSample) : Int :=
  match kept.getLast? with
  | some y => s.clockOf y.at'
  | none => r.cut.getD 0

/-- A segment's record closes, and its context keeps where it ended. -/
def State.storesClosed (s : State) (r r' : Record) (last : Int) : State :=
  let k := s.keepOf r.ctx
  (s.mapRecs (fun q => q.ctx == r.ctx && q.cseq == r.cseq) (fun _ => r')).setKeep r.ctx { k with
    lastEnd := some last, ringPos := if k.ringPos = r.start + r.bytes then r.start + r'.bytes else k.ringPos }

/-- What the close of a segment means for its chunks, its context, the jobs and the Loom. -/
def State.settlesClosed (s : State) (r' : Record) (kept : List LaneSample) (last : Int) : State :=
  let s := (s.placeChunks r'.ctx r'.start (r'.start + r'.bytes)).refreshResv r'.ctx
  let s := s.offerRing ((s.ctxChannel r'.ctx).getD 0) true r'.data r'.ctx r'.start (r'.start + r'.bytes)
  let s := s.holdoffFrom r'.ctx r'.cseq last
  let qs := (List.zip (List.range kept.length) kept).map (fun q => s.sweepSample q.1 q.2)
  let s := s.accumulate r'.ctx r'.cseq r'.pretrig r'.trigFrac (s.ctxOut r'.ctx) qs
  let s := if (s.keepOf r'.ctx).expired && s.recHeld r' then s.gapRecord r' .freezeTimeout true true else s
  s.afterClose r'.ctx

theorem State.finishSegment_eq (s : State) (r : Record) (kept : List LaneSample) (pre frac : Nat) (short : Bool) :
    s.finishSegment r kept pre frac short = (s.storesClosed r (s.closedRecord r kept pre frac short)
      (s.lastStored r kept)).settlesClosed (s.closedRecord r kept pre frac short) kept (s.lastStored r kept) := rfl

/-- A closed segment of m samples with its trigger in its place. -/
def Record.ClosedWith (m pre frac : Nat) (q : Record) : Prop :=
  q.kind = .segment ∧ q.state = .closing ∧ q.samples = m ∧ q.pretrig = pre ∧ q.trigFrac = frac

theorem settled_closedWith (m pre frac : Nat) : Settled (Record.ClosedWith m pre frac) where
  slot _ _ h := h
  notOpened q h := by
    obtain ⟨-, state, -⟩ := h
    simp [state]
  unacked q h := by
    obtain ⟨-, state, -⟩ := h
    simp [Record.allAcked, state]

theorem State.tends_settlesClosed {m pre frac : Nat} {r' : Record} (h : r'.ClosedWith m pre frac) (s : State)
    (kept : List LaneSample) (last : Int) :
    Tends NoReg c n (Record.ClosedWith m pre frac) s (s.settlesClosed r' kept last) := by
  have gap : ∀ u : State, Tends NoReg c n (Record.ClosedWith m pre frac) u
      (if (u.keepOf r'.ctx).expired && u.recHeld r' then u.gapRecord r' .freezeTimeout true true else u) := by
    intro u
    refine Tends.ite (u.tends_gapRecord belowDelivery_noReg (settled_closedWith m pre frac) r' .freezeTimeout true true
      fun _ _ => ?_) (.refl u)
    obtain ⟨b, d, e⟩ := r'.asGap_eq .freezeTimeout true true
    rw [e]
    exact h
  unfold State.settlesClosed
  dsimp only
  have placed := (s.tends_placeChunks (Q := NoReg) (c := c) (n := n) (P := Record.ClosedWith m pre frac) r'.ctx r'.start
    (r'.start + r'.bytes)).trans (State.tends_refreshResv _ r'.ctx)
  exact ((((placed.trans (State.quiet_offerRing ..).tends).trans (State.tends_holdoffFrom _ r'.ctx r'.cseq last)).trans
    (.of_seg (State.seg_accumulate ..))).trans (gap _)).trans (State.tends_afterClose _ r'.ctx)

/-- The last sample of an open segment closes it with the samples it stores. -/
theorem State.finishSegment_spec {s : State} {r : Record} (mem : r ∈ s.seg.recs) (seg : r.kind = .segment)
    (kept : List LaneSample) (pre frac : Nat) (short : Bool) :
    (∃ q ∈ (s.finishSegment r kept pre frac short).seg.recs,
        q.ctx = r.ctx ∧ q.cseq = r.cseq ∧ q.ClosedWith kept.length pre frac) ∧
      ((s.finishSegment r kept pre frac short).keepOf r.ctx).lastEnd = some (s.lastStored r kept) := by
  have closed : (s.closedRecord r kept pre frac short).ClosedWith kept.length pre frac := ⟨seg, rfl, rfl, rfl, rfl⟩
  rw [State.finishSegment_eq]
  have lastEnd : ((s.storesClosed r (s.closedRecord r kept pre frac short) (s.lastStored r kept)).keepOf r.ctx).lastEnd =
      some (s.lastStored r kept) := by
    rw [State.storesClosed, State.keepOf_setKeep, if_pos rfl]
  have stored : (s.storesClosed r (s.closedRecord r kept pre frac short) (s.lastStored r kept)).RecsAre r.ctx r.cseq
      (Record.ClosedWith kept.length pre frac) :=
    State.recsAre_mapRecs (P' := fun _ => True) (fun _ _ _ _ => trivial) fun _ _ _ _ => closed
  have present : (s.storesClosed r (s.closedRecord r kept pre frac short) (s.lastStored r kept)).HasRec r.ctx r.cseq :=
    State.hasRec_mapRecs (fun _ _ _ => ⟨rfl, rfl⟩) ⟨r, mem, rfl, rfl⟩
  have after := State.tends_settlesClosed (c := r.ctx) (n := r.cseq) closed
    (s.storesClosed r (s.closedRecord r kept pre frac short) (s.lastStored r kept)) kept (s.lastStored r kept)
  obtain ⟨q, hq, hc, hn⟩ := after.has stored present
  exact ⟨⟨q, hq, hc, hn, after.recs stored q hq hc hn⟩, (after.lastEnd r.ctx).trans lastEnd⟩

theorem exec_segmentClose_open {s : State} {c : Fin 1024} {first : Nat} {raw : List (BitVec 10)} {r : Record}
    {kept : List LaneSample} {pre frac : Nat} {short : Bool} (hr : s.openRec c = some r)
    (cut : s.cutOut r (laneOutputs (s.lane r.lane) (s.correctRun ((s.ctxChannel c).getD 0) first (raw.map (·.toInt))))
      (decide (first + 5 ≤ (((s.lane r.lane).eras.getLast?).map (·.start)).getD 0)) = some (kept, pre, frac, short)) :
    exec (.segmentClose c first raw) s = .next (s.finishSegment r kept pre frac short) := by
  show execSegmentClose c first raw s = _
  unfold execSegmentClose
  cases begins : (s.lane r.lane).eras.getLast? with
  | none =>
    rw [begins, Option.map_none, Option.getD_none] at cut
    simp only [hr, begins, cut]
  | some e =>
    rw [begins, Option.map_some, Option.getD_some] at cut
    simp only [hr, begins, cut]

theorem exec_segmentClose_none {s : State} {c : Fin 1024} (h : s.openRec c = none) (first : Nat) (raw : List (BitVec 10)) :
    exec (.segmentClose c first raw) s = .next s := by
  show execSegmentClose c first raw s = _
  unfold execSegmentClose
  rw [h]

end Close

/-! ### READY (R229, R231, R247) -/

/-- A copy of shared samples that delayed a segment is noted. -/
def State.notesCopy (s : State) (copied : Bool) (r : Record) : State :=
  if copied && r.kind == .segment then s.hwSet F.SEG_EVENTS_COPY_WAIT else s

/-- The header of a record goes to its slot of the segment table. -/
def State.writesSlot (s : State) (copied : Bool) (r : Record) : State :=
  let u := s.notesCopy copied r
  u.offerSlot ((u.ctxChannel r.ctx).getD 0) true (u.header r false) r

/-- A record is READY since a clock. -/
def Record.readySince (clk : Nat) (q : Record) : Record := { q with state := .ready, readyIn := clk }

theorem State.notesCopy_spec (s : State) (copied : Bool) (r : Record) :
    (s.notesCopy copied r).seg = s.seg ∧ (s.notesCopy copied r).time.clk = s.time.clk ∧
      s.SameRegsBut (s.notesCopy copied r) [Reg.SEG_EVENTS] ∧
      (copied = true ∧ r.kind = .segment → (s.notesCopy copied r).bit F.SEG_EVENTS_COPY_WAIT = true) := by
  unfold State.notesCopy
  split
  next =>
    obtain ⟨set, same, -⟩ := s.hwSet_spec (f := F.SEG_EVENTS_COPY_WAIT) rfl rfl (by decide)
    exact ⟨State.hwSet_seg s _, (State.hwSet_keeps (.refl s) _).clock, same, fun _ => set⟩
  next other =>
    refine ⟨rfl, rfl, .refl s _, fun ⟨waited, seg⟩ => absurd ?_ other⟩
    simp [waited, seg]

theorem State.writesSlot_spec (s : State) (copied : Bool) (r : Record) :
    (s.writesSlot copied r).seg = s.seg ∧ (s.writesSlot copied r).time.clk = s.time.clk ∧
      s.SameRegsBut (s.writesSlot copied r) [Reg.SEG_EVENTS] ∧
      (copied = true ∧ r.kind = .segment → (s.writesSlot copied r).bit F.SEG_EVENTS_COPY_WAIT = true) := by
  obtain ⟨seg, clk, same, noted⟩ := s.notesCopy_spec copied r
  have written : Quiet (s.notesCopy copied r) (s.writesSlot copied r) := State.quiet_offerSlot ..
  refine ⟨written.seg.trans seg, written.clk.trans clk, same.trans fun o _ => State.reg_congr written.regs o, fun h => ?_⟩
  rw [State.bit, State.getF_congr written.regs]
  exact noted h

section Ready

variable {s : State} {c : Fin 1024} {r : Record} (next : s.nextReady c = some r)
include next

theorem State.nextReady_ctx : r.ctx = c := by
  unfold State.nextReady at next
  split at next
  next q found =>
    split at next
    · obtain rfl := Option.some.inj next
      exact (State.mem_recsOf.mp (List.mem_of_find?_eq_some found)).2
    · cases next
  next => cases next

theorem exec_recordReady_held (held : s.recHeld r = true) (copied : Bool) : exec (.recordReady c copied) s = .next s := by
  show execRecordReady c copied s = _
  unfold execRecordReady
  simp only [next, held, if_true]

theorem exec_recordReady (free : s.recHeld r = false) (copied : Bool) : exec (.recordReady c copied) s =
    .next ((s.writesSlot copied r).mapRecs (fun q => q.ctx == c.val && q.cseq == r.cseq) (Record.readySince s.time.clk)) := by
  obtain ⟨-, clk, -, -⟩ := s.writesSlot_spec copied r
  rw [← clk, ← State.nextReady_ctx next]
  show execRecordReady c copied s = _
  unfold execRecordReady
  simp only [next, free]
  rfl

end Ready

/-! ### CTX_CLEAR (R232) -/

theorem exec_ctxClear {s : State} {v : Word} (h : s.takesWrite Reg.SEG_CTX_CLEAR = true) :
    ∃ pair out, exec (.ctxClear v) s = .next { s.ctxClear v with pair := pair, out := out } := by
  obtain ⟨pair, out, e⟩ := State.hostWrite_taken_eq h v fun s => s.ctxClear v
  exact ⟨pair, out, congrArg Host.Outcome.next e⟩

theorem State.ctxClear_taken {s : State} {v : Word} (go : v.getLsbD 31 = true) (idle : s.isLive (fieldOf v 0 10) = false)
    (empty : s.recsOf (fieldOf v 0 10) = []) :
    s.ctxClear v = s.setKeep (fieldOf v 0 10) { s.keepOf (fieldOf v 0 10) with next := 0 } := by
  simp [State.ctxClear, go, idle, empty]

theorem State.ctxClear_refused {s : State} {v : Word} (go : v.getLsbD 31 = true)
    (busy : s.isLive (fieldOf v 0 10) = true ∨ s.recsOf (fieldOf v 0 10) ≠ []) :
    s.ctxClear v = s.hwSet F.SEG_EVENTS_CLEAR_REFUSED := by
  have refused : (s.isLive (fieldOf v 0 10) || !(s.recsOf (fieldOf v 0 10)).isEmpty) = true := by
    simpa using busy
  simp only [State.ctxClear, go, refused, Bool.not_true, Bool.false_eq_true, if_false, if_true]

theorem State.openRec_spec {s : State} {c : Nat} {r : Record} (h : s.openRec c = some r) :
    r ∈ s.seg.recs ∧ r.ctx = c ∧ r.kind = .segment := by
  have sel := List.find?_some h
  simp only [Bool.and_eq_true, beq_iff_eq] at sel
  obtain ⟨⟨ctx, kind⟩, -⟩ := sel
  exact ⟨List.mem_of_find?_eq_some h, ctx, kind⟩

/-- Settles O41: what each command makes of the records of its context and sequence, which the operations behind it keep. -/
theorem recordLifecycle : Obligations.RecordLifecycle := by
  unfold Obligations.RecordLifecycle
  refine ⟨?closes, ?nothingOpen, ?ready, ?held, ?handed, ?toNone, ?clears, ?refused⟩
  case closes =>
    intro s c first raw r kept pre frac short hopen hcut
    obtain ⟨mem, ctx, kind⟩ := State.openRec_spec hopen
    obtain ⟨⟨q, hq, hc, hn, seg, closing, samples, pretrig, trigFrac⟩, last⟩ :=
      State.finishSegment_spec mem kind kept pre frac short
    refine ⟨_, exec_segmentClose_open hopen hcut, List.any_eq_true.mpr ⟨q, hq, ?_⟩, ?_⟩
    · simp [hc, ctx, hn, seg, closing, samples, pretrig, trigFrac]
    · rw [← ctx, last]
      rfl
  case nothingOpen => exact fun s c first raw h => ⟨s, exec_segmentClose_none h first raw, rfl⟩
  case ready =>
    intro s c copied r next free
    obtain ⟨seg, -, same, noted⟩ := s.writesSlot_spec copied r
    refine ⟨_, exec_recordReady next free copied, ?_, ?_, ?_, noted, same⟩
    · exact State.recsAre_mapRecs (P' := fun _ => True) (fun _ _ _ _ => trivial) fun _ _ _ _ => ⟨rfl, rfl⟩
    · rw [State.others_mapRecs (f := Record.readySince s.time.clk) (fun _ => ⟨rfl, rfl⟩), seg]
    · rw [State.map_mapRecs _ _ (f := Record.readySince s.time.clk) (fun _ => rfl), seg]
  case held => exact fun s c copied r next held => ⟨s, exec_recordReady_held next held copied, rfl⟩
  case handed =>
    intro s c r delivers head next only wanted unacked
    obtain ⟨mem, ctx⟩ := State.readyHead_mem head
    obtain ⟨⟨q, hq, hc, hn, state, -, -, gseq⟩, host, stream⟩ := State.handRecord_host_spec mem only wanted unacked
    refine ⟨_, exec_recordHanded delivers head next, List.any_eq_true.mpr ⟨q, hq, ?_⟩, host, stream⟩
    simp [hc, ctx, hn, state, gseq]
  case toNone =>
    intro s c r delivers head next oldest host stream
    obtain ⟨-, ctx⟩ := State.readyHead_mem head
    rw [← ctx] at oldest
    obtain ⟨gone, same⟩ := State.handRecord_none_spec oldest host stream
    exact ⟨_, exec_recordHanded delivers head next, fun q hq hc hn => gone q hq (hc.trans ctx.symm) hn, same⟩
  case clears =>
    intro s v h go idle empty
    obtain ⟨pair, out, e⟩ := exec_ctxClear (v := v) h
    rw [State.ctxClear_taken go idle empty] at e
    refine ⟨_, e, ?_, fun c other => ?_, rfl, rfl⟩
    · exact congrArg CtxKeep.next ((State.keepOf_setKeep s _ _ _).trans (if_pos rfl))
    · exact (State.keepOf_setKeep s _ _ _).trans (if_neg other)
  case refused =>
    intro s v h go busy
    obtain ⟨pair, out, e⟩ := exec_ctxClear (v := v) h
    rw [State.ctxClear_refused go busy] at e
    obtain ⟨set, same, -⟩ := s.hwSet_spec (f := F.SEG_EVENTS_CLEAR_REFUSED) rfl rfl (by decide)
    exact ⟨_, e, State.hwSet_seg s _, set, same⟩

end Sys2Proof.Machine
end

section
/-! PROOF. A placement that fails in a clock that has marked another (spec/10_cloth_beams.md R259, R267, spec/00_scope.md R10). -/

namespace Sys2Proof.Machine

theorem State.addedNow_countOcc (s : State) (f : Fld) (o : Nat) : (s.countOcc f).addedNow o = s.addedNow o := by
  unfold State.countOcc
  split <;> rfl

/-- Hardware that sets a bit adds to no counter. -/
theorem State.addedNow_hwSet (s : State) (f : Fld) (o : Nat) : (s.hwSet f).addedNow o = s.addedNow o := by
  rw [← State.addedNow_countOcc s f o]
  unfold State.hwSet
  split <;> simp [State.addedNow]

/-- A host placement of a descriptor that fails its check: the job stays as it is, and the failure waits for the end
of the clock. -/
theorem exec_place_badJob {s : State} {j : Fin 256} (takes : s.takesWrite (Reg.BEAM_JOB_CTRL j) = true) (calm : s.acted j = false)
    (unplaced : (s.job j).state = 0) (bad : s.badJob (s.jobDesc j) = true) :
    ∃ pair out, exec (.place j) s = .next { s.jobFault j .badJob with
      pair := pair, out := out
      beam := { (s.jobFault j .badJob).beam with placed := s.beam.placed ++ [(j.val, s.jobDesc j)] } } := by
  obtain ⟨pair, out, e⟩ := State.hostWrite_taken_eq takes 1 fun s => s.jobCtrl j 1
  have refused : s.placeHost j (s.jobDesc j) = s.jobFault j .badJob := by
    simp [State.placeHost, State.placeJob, unplaced, calm, bad]
  refine ⟨pair, out, (congrArg Host.Outcome.next e).trans ?_⟩
  simp [State.jobCtrl, State.hostPlace, unplaced, refused]

/-- A placement that fails the check adds to what the present clock has already counted (R10, R267). -/
theorem State.reg_countFault_badJob {s : State} {old m : Nat} (h : s.addedNow Reg.BEAM_PLACE_FAIL = some (old, m)) :
    (s.countFault .badJob).reg Reg.BEAM_PLACE_FAIL = BitVec.ofNat 32 (min (old + (m + 1)) 4294967295) := by
  rw [State.countFault, State.rclAdd_of_some ((State.addedNow_hwSet ..).trans h), State.reg_rclPut]

/-- The end of the clock counts the one failed placement that waits for it. -/
theorem State.reg_placeFail_accSettle {s : State} {j old m : Nat} (tally : s.beam.tally = [(j, .badJob)])
    (h : s.addedNow Reg.BEAM_PLACE_FAIL = some (old, m)) :
    s.accSettle.reg Reg.BEAM_PLACE_FAIL = BitVec.ofNat 32 (min (old + (m + 1)) 4294967295) := by
  have settles : s.accSettle =
      ({ s with beam := { s.beam with tally := [], pre := [] } } : State).countFault .badJob := by
    simp [State.accSettle, tally]
  rw [settles]
  exact State.reg_countFault_badJob h

/-- An engine in IDLE whose link is up, in a clock that has marked one failed placement on a count of 0, while BEAM.PLACE_FAIL
reads 0. The descriptor of job 0 names no kind. -/
def markedPlaceFail : State :=
  let s := State.reset.setF F.DEV_STATE_CUR EngState.idle.code
  { s with
    board := { s.board with pcieUp := true }
    time := { s.time with addNow := [(Reg.BEAM_PLACE_FAIL, 0, 1)] } }

/-- Refutes O42: a failed placement adds, at the end of its clock, to what BEAM.PLACE_FAIL held before those of the clock (R10,
R267), and the statement does not ask that the register shows what the clock has counted (that no `addedNow` of BEAM.PLACE_FAIL says
otherwise). In the counterexample the clock has marked one failed placement on a count of 0 and the register reads 0: a PLACE of
job 0, whose descriptor names no kind, makes it 2. -/
theorem not_jobPlacement : ¬ Obligations.JobPlacement := by
  unfold Obligations.JobPlacement
  rintro ⟨-, -, -, badJob, -⟩
  have takes : markedPlaceFail.takesWrite (Reg.BEAM_JOB_CTRL 0) = true := by decide +kernel
  have noKind : (markedPlaceFail.jobDesc 0).kind = 0 := by decide +kernel
  have shown : markedPlaceFail.reg Reg.BEAM_PLACE_FAIL = 0 := by decide +kernel
  obtain ⟨t, ht, -, -, -, count, -⟩ := badJob markedPlaceFail 0 _ takes rfl rfl rfl rfl (.inl noKind)
  obtain ⟨pair, out, placed⟩ := exec_place_badJob (j := 0) takes rfl rfl (by decide +kernel)
  rw [placed] at ht
  obtain rfl := Host.Outcome.next.inj ht
  rw [State.reg_placeFail_accSettle (j := 0) (old := 0) (m := 1) rfl rfl, shown] at count
  exact absurd count (by decide)

end Sys2Proof.Machine
end

section
/-! PROOF. RESULT_BUFFER_FREE of a job that an action of the clock has named (spec/10_cloth_beams.md R268, R273). -/

namespace Sys2Proof.Machine

/-- With no free result buffer RESULT_BUFFER_FREE starts no unload, but the actions that have named the job in this clock no longer
order it. -/
theorem exec_resultBufferFree_none {s : State} {j : Fin 256} (h : (s.job j).freeBufs = 0) :
    exec (.resultBufferFree j) s = .next (s.rebaseJob j) := by
  show execResultBufferFree j s = _
  unfold execResultBufferFree
  simp [h]

theorem State.key_ne_of_mem_rebaseJob {s : State} {j : Nat} {p : Nat × JobSt × List JobEvent}
    (h : p ∈ (s.rebaseJob j).beam.pre) : p.1 ≠ j := by
  simpa [State.rebaseJob] using (List.mem_filter.mp h).2

/-- A running Loom in whose present clock an ACC_STOP has named job 0, which is UNPLACED. -/
def stoppedUnplaced : State :=
  ((State.reset.setF F.DEV_STATE_CUR EngState.armed.code).setBit F.LOOM_STATUS_RUNNING true).accAction 0 .stop

/-- Refutes O43: RESULT_BUFFER_FREE ends what orders the job in the present clock (R92, R268) even when no result buffer is free,
and the statement has it leave the whole state as it was without asking that no action of the clock has named the job (that
`beam.pre` has no entry of it). In the counterexample an ACC_STOP of the clock has named job 0, which is UNPLACED and has no
result buffer: `beam.pre` loses the entry of that STOP. -/
theorem not_beamPasses : ¬ Obligations.BeamPasses := by
  unfold Obligations.BeamPasses
  rintro ⟨-, -, -, -, -, -, -, -, -, -, -, -, noBuffer⟩
  obtain ⟨t, ht, same⟩ := noBuffer stoppedUnplaced 0 (by decide +kernel)
  rw [exec_resultBufferFree_none (by decide +kernel)] at ht
  have named : (0, JobSt.init, [.act .stop]) ∈ stoppedUnplaced.beam.pre := by decide +kernel
  rw [← same, ← Host.Outcome.next.inj ht] at named
  exact State.key_ne_of_mem_rebaseJob named rfl

end Sys2Proof.Machine
end

section
/-! PROOF. An error of a beam without a job behind a placement of the host in its clock (spec/10_cloth_beams.md R267, R268,
R276). -/

namespace Sys2Proof.Machine

/-- An engine in IDLE whose link is up, with one pseudo-channel in service and beams 0, 1 and 2 in service in pool 0. Job 4 is
PLACED on beam 0; the descriptor of job 5 asks for a HIST raster of one bin in pool 0. -/
def threeBeams : State :=
  let s := ((State.reset.setF F.DEV_STATE_CUR EngState.idle.code).setReg (Reg.MEM_PC_STATE 0) 1).setRegs
    [(Reg.BEAM_JOB_CFG 5, 2), (Reg.BEAM_JOB_WIDTH 5, 1), (Reg.BEAM_JOB_HEIGHT 5, 1), (Reg.BEAM_JOB_X_DIV 5, 1)]
  let s := [0, 1, 2].foldl (fun s b => s.setBit (F.BEAM_BEAM_STATUS_IN_SERVICE b) true) s
  { s with
    board := { s.board with pcieUp := true }
    beam := { s.beam with pools := [0, 0, 0], jobs := [(4, { JobSt.init with state := 1, beam := some 0 })] } }

/-- The host places job 5, which takes beam 1, and then releases job 4, all in one clock. -/
def releasedAfterPlace : State := (threeBeams.hostPlace 5).hostRelease 4

/-- The beam that a job holds in an outcome's next state. -/
def beamOf (o : Result) (j : Nat) : Option Nat :=
  match o with
  | .next t => (t.job j).beam
  | _ => none

/-- An uncorrectable error of beam 2, which holds no job, moves job 5 from beam 1 to beam 0. -/
theorem beamOf_releasedAfterPlace :
    (releasedAfterPlace.job 5).beam = some 1 ∧ beamOf (exec (.beamUncorr 2 0) releasedAfterPlace) 5 = some 0 := by
  decide +kernel

/-- Refutes O44: an uncorrectable error comes before the host's placements of its clock, which are made again behind it (R268), and
the statement has an error of a beam without a job leave all jobs as they were without asking that the host has placed none in
this clock (that `beam.placed` is empty). In the counterexample the host has placed job 5, which took beam 1, and then released
job 4, which held beam 0, when beam 2 fails, which holds no job: made again, the placement finds beam 0 free. -/
theorem not_beamFaultsAndPeek : ¬ Obligations.BeamFaultsAndPeek := by
  unfold Obligations.BeamFaultsAndPeek
  rintro ⟨-, noJob, -⟩
  obtain ⟨t, ht, -, -, -, -, same⟩ := noJob releasedAfterPlace 2 0 (by decide +kernel) (by decide +kernel)
  obtain ⟨before, after⟩ := beamOf_releasedAfterPlace
  rw [ht] at after
  have kept : t.job 5 = releasedAfterPlace.job 5 := by rw [State.job, same, State.job]
  rw [beamOf, kept, before] at after
  exact absurd after (by decide)

end Sys2Proof.Machine
end

section
/-! PROOF. The slots of a shuttle's round: whom they grant (spec/11_memory_and_shuttle.md R297 to R299). -/

namespace Sys2Proof.Machine

open Sys2Proof.Laws

/-! ### The choice of a slot -/

/-- One step of `firstFrom`: the requester met, where it comes before the one found so far. -/
def earlierOf (ptr : Nat) (a : Option (Nat × Nat)) (q : Nat × Nat) : Option (Nat × Nat) :=
  match a with
  | none => some q
  | some b => if (q.1 + 12 - ptr) % 12 < (b.1 + 12 - ptr) % 12 then some q else a

theorem firstFrom_eq (ptr : Nat) (l : List (Nat × Nat)) : firstFrom ptr l = l.foldl (earlierOf ptr) none := rfl

theorem earlierOf_cases (ptr : Nat) (a : Option (Nat × Nat)) (q : Nat × Nat) :
    earlierOf ptr a q = some q ∨ (earlierOf ptr a q = a ∧ a ≠ none) := by
  cases a with
  | none => exact .inl rfl
  | some b =>
    rw [earlierOf]
    split
    · exact .inl rfl
    · exact .inr ⟨rfl, by simp⟩

theorem foldl_earlierOf_mem {ptr : Nat} {l : List (Nat × Nat)} {a : Option (Nat × Nat)} {q : Nat × Nat}
    (h : l.foldl (earlierOf ptr) a = some q) : q ∈ l ∨ a = some q := by
  induction l generalizing a with
  | nil => exact .inr h
  | cons p l ih =>
    rcases ih h with mem | found
    · exact .inl (List.mem_cons_of_mem p mem)
    · rcases earlierOf_cases ptr a p with new | ⟨old, -⟩
      · obtain rfl := Option.some.inj (new.symm.trans found)
        exact .inl List.mem_cons_self
      · exact .inr (old.symm.trans found)

theorem foldl_earlierOf_ne_none {ptr : Nat} (l : List (Nat × Nat)) {a : Option (Nat × Nat)} (h : a ≠ none) :
    l.foldl (earlierOf ptr) a ≠ none := by
  induction l generalizing a with
  | nil => exact h
  | cons p l ih =>
    refine ih ?_
    rcases earlierOf_cases ptr a p with new | ⟨old, -⟩
    · simp [new]
    · rwa [old]

theorem firstFrom_mem {ptr : Nat} {l : List (Nat × Nat)} {q : Nat × Nat} (h : firstFrom ptr l = some q) : q ∈ l :=
  (foldl_earlierOf_mem h).resolve_right (by simp)

theorem firstFrom_eq_none {ptr : Nat} {l : List (Nat × Nat)} (h : firstFrom ptr l = none) : l = [] := by
  cases l with
  | nil => rfl
  | cons p l => exact absurd h (foldl_earlierOf_ne_none l (Option.some_ne_none p))

/-- The maximum that a slot computes over a list is a bound of it, and is reached where the list is not empty. -/
theorem foldl_max_spec {α : Type} (f : α → Nat) (l : List α) :
    (∀ q ∈ l, f q ≤ l.foldl (fun m q => max m (f q)) 0) ∧ (l ≠ [] → ∃ q ∈ l, f q = l.foldl (fun m q => max m (f q)) 0) := by
  have top : (0 :: l.map f).max? = some (l.foldl (fun m q => max m (f q)) 0) := by rw [List.max?_cons', List.foldl_map]
  generalize l.foldl (fun m q => max m (f q)) 0 = m at top
  obtain ⟨reached, bound⟩ := List.max?_eq_some_iff.mp top
  have below (q : α) (hq : q ∈ l) : f q ≤ m := bound _ (List.mem_cons_of_mem _ (List.mem_map_of_mem hq))
  refine ⟨below, fun ne => ?_⟩
  rcases List.mem_cons.mp reached with zero | mem
  · obtain ⟨q, hq⟩ := List.exists_mem_of_ne_nil l ne
    have := below q hq
    exact ⟨q, hq, by omega⟩
  · obtain ⟨q, hq, e⟩ := List.mem_map.mp mem
    exact ⟨q, hq, e⟩

/-- Whether a requester has waited its LIMIT. -/
def State.waitedLimit (s : State) (st r : Nat) : Prop :=
  s.arbLimit st r ≤ sparseGet (fun _ => 0) (s.shuttle st).wait r

/-- The offers that a slot still may grant: those toward pseudo-channels without a grant of this round. -/
def openOffers (offers : List (Nat × Nat)) (g : List (Nat × Nat × Bool)) : List (Nat × Nat) :=
  offers.filter (fun q => !(g.any (fun x => x.2.1 == q.2)))

theorem mem_openOffers {offers : List (Nat × Nat)} {g : List (Nat × Nat × Bool)} {q : Nat × Nat} :
    q ∈ openOffers offers g ↔ q ∈ offers ∧ q.2 ∉ g.map (·.2.1) := by
  rw [openOffers, List.mem_filter, Bool.not_eq_true', List.any_eq_false]
  simp only [beq_iff_eq, List.mem_map, not_exists, not_and]

/-- What one slot does (R298): it grants an open offer, a forced one where there is one, else one of the highest priority; without
an open offer it grants nothing. -/
inductive SlotGrants (s : State) (st : Nat) (offers : List (Nat × Nat)) (g : List (Nat × Nat × Bool)) :
    List (Nat × Nat × Bool) → Prop
  | forced (q : Nat × Nat) (mem : q ∈ openOffers offers g) (waited : s.waitedLimit st q.1) :
      SlotGrants s st offers g (g ++ [(q.1, q.2, true)])
  | unforced (q : Nat × Nat) (mem : q ∈ openOffers offers g) (none : ∀ p ∈ openOffers offers g, ¬ s.waitedLimit st p.1)
      (highest : ∀ p ∈ openOffers offers g, s.getF (F.ARB_RQ_PRIO st p.1) ≤ s.getF (F.ARB_RQ_PRIO st q.1)) :
      SlotGrants s st offers g (g ++ [(q.1, q.2, false)])
  | idle (empty : openOffers offers g = []) : SlotGrants s st offers g g

theorem State.arbSlot_grants (s : State) (st : Nat) (offers : List (Nat × Nat)) (a : ArbRound) :
    SlotGrants s st offers a.grants (s.arbSlot st offers a).grants := by
  have opened : offers.filter (fun q => !(a.grants.any (fun x => x.2.1 == q.2))) = openOffers offers a.grants := rfl
  simp only [State.arbSlot, opened]
  split
  next q chosen =>
    have mem := firstFrom_mem chosen
    rw [List.mem_filter, decide_eq_true_eq] at mem
    obtain ⟨opened, waited⟩ := mem
    exact .forced q opened waited
  next nobody =>
    have unforced (p : Nat × Nat) (hp : p ∈ openOffers offers a.grants) : ¬ s.waitedLimit st p.1 := fun waited =>
      List.filter_eq_nil_iff.mp (firstFrom_eq_none nobody) p hp (decide_eq_true waited)
    obtain ⟨bound, reached⟩ := foldl_max_spec (fun q => s.getF (F.ARB_RQ_PRIO st q.1)) (openOffers offers a.grants)
    split
    next q chosen =>
      have mem := firstFrom_mem chosen
      rw [List.mem_filter, beq_iff_eq] at mem
      obtain ⟨opened, top⟩ := mem
      exact .unforced q opened unforced fun p hp => top ▸ bound p hp
    next nobody =>
      refine .idle (Classical.byContradiction fun ne => ?_)
      obtain ⟨q, hq, top⟩ := reached ne
      exact List.filter_eq_nil_iff.mp (firstFrom_eq_none nobody) q hq (beq_iff_eq.mpr top)

/-! ### The grants of a round -/

/-- What the grants of a round keep from slot to slot. -/
structure GrantsOf (s : State) (st : Nat) (offers : List (Nat × Nat)) (g : List (Nat × Nat × Bool)) : Prop where
  pcs : (g.map (·.2.1)).Nodup
  requesters : (g.map (·.1)).Nodup
  offered : ∀ x ∈ g, (x.1, x.2.1) ∈ offers
  forced : ∀ x ∈ g, x.2.2 = true ↔ s.waitedLimit st x.1

section Grants

variable {s : State} {st : Nat} {offers : List (Nat × Nat)} {g g' : List (Nat × Nat × Bool)}

theorem GrantsOf.nil : GrantsOf s st offers [] := ⟨by simp, by simp, by simp, by simp⟩

/-- A requester offers toward one pseudo-channel. -/
def OneEach (offers : List (Nat × Nat)) : Prop := ∀ r p p', (r, p) ∈ offers → (r, p') ∈ offers → p = p'

theorem GrantsOf.append (h : GrantsOf s st offers g) (one : OneEach offers) {q : Nat × Nat} {b : Bool}
    (mem : q ∈ openOffers offers g) (forced : b = true ↔ s.waitedLimit st q.1) :
    GrantsOf s st offers (g ++ [(q.1, q.2, b)]) := by
  obtain ⟨offered, fresh⟩ := mem_openOffers.mp mem
  have newcomer : q.1 ∉ g.map (·.1) := by
    intro old
    obtain ⟨x, hx, e⟩ := List.mem_map.mp old
    exact fresh (List.mem_map.mpr ⟨x, hx, one q.1 _ _ (e ▸ h.offered x hx) offered⟩)
  refine ⟨?_, ?_, ?_, ?_⟩
  · rw [List.map_append]
    exact h.pcs.append (List.nodup_singleton _) (by simpa using fresh)
  · rw [List.map_append]
    exact h.requesters.append (List.nodup_singleton _) (by simpa using newcomer)
  · intro x hx
    rcases List.mem_append.mp hx with old | new
    · exact h.offered x old
    · rw [List.mem_singleton.mp new]
      exact offered
  · intro x hx
    rcases List.mem_append.mp hx with old | new
    · exact h.forced x old
    · rw [List.mem_singleton.mp new]
      exact forced

theorem GrantsOf.slot (h : GrantsOf s st offers g) (one : OneEach offers) (k : SlotGrants s st offers g g') :
    GrantsOf s st offers g' := by
  cases k with
  | forced q mem waited => exact h.append one mem (by simpa using waited)
  | unforced q mem none highest => exact h.append one mem (by simpa using none q mem)
  | idle empty => exact h

theorem SlotGrants.begins (k : SlotGrants s st offers g g') : g <+: g' := by
  cases k with
  | forced => exact List.prefix_append ..
  | unforced => exact List.prefix_append ..
  | idle => exact List.prefix_rfl

theorem SlotGrants.length (k : SlotGrants s st offers g g') : g'.length ≤ g.length + 1 := by
  cases k <;> simp

/-- After n further slots the grants keep what they kept, are at most n more, and begin with those before. -/
theorem State.arbSlots_grants (s : State) (st : Nat) (one : OneEach offers) (n : List Nat) (a : ArbRound)
    (h : GrantsOf s st offers a.grants) :
    let g := (n.foldl (fun a _ => s.arbSlot st offers a) a).grants
    GrantsOf s st offers g ∧ g.length ≤ a.grants.length + n.length ∧ a.grants <+: g := by
  induction n generalizing a with
  | nil => exact ⟨h, Nat.le_refl _, List.prefix_rfl⟩
  | cons i n ih =>
    have slot := s.arbSlot_grants st offers a
    obtain ⟨kept, short, begins⟩ := ih (s.arbSlot st offers a) (h.slot one slot)
    have := slot.length
    exact ⟨kept, by rw [List.length_cons]; exact Nat.le_trans short (by omega), slot.begins.trans begins⟩

/-- The first slot of a round grants a forced requester where one offers, else one of the highest priority. -/
theorem SlotGrants.first (k : SlotGrants s st offers [] g) :
    ((∃ q ∈ offers, s.waitedLimit st q.1) → ∃ x, g.head? = some x ∧ x.2.2 = true) ∧ (offers ≠ [] → g ≠ []) ∧
      ∀ x, g.head? = some x → x.2.2 = false → ∀ q ∈ offers, s.getF (F.ARB_RQ_PRIO st q.1) ≤ s.getF (F.ARB_RQ_PRIO st x.1) := by
  have all : openOffers offers [] = offers := by simp [openOffers]
  cases k with
  | forced q mem waited =>
    refine ⟨fun _ => ⟨_, rfl, rfl⟩, fun _ => by simp, fun x hx hf => ?_⟩
    obtain rfl := Option.some.inj hx
    exact absurd hf (by simp)
  | unforced q mem none highest =>
    rw [all] at none highest
    refine ⟨fun ⟨p, hp, waited⟩ => absurd waited (none p hp), fun _ => by simp, fun x hx _ => ?_⟩
    obtain rfl := Option.some.inj hx
    exact highest
  | idle empty =>
    rw [all] at empty
    simp [empty]

end Grants

/-- The offers of a shuttle's requesters, lowest requester first: whom, and toward which pseudo-channel. -/
def State.offers (s : State) (st : Nat) : List (Nat × Nat) :=
  (List.range 12).filterMap (fun r => (s.arbOffer st r).map (fun p => (r, p)))

/-- A round before its first slot. -/
def State.roundStart (s : State) (st : Nat) : ArbRound := ⟨[], (s.shuttle st).ptr, (s.shuttle st).forcedPtr⟩

/-- The grants of a round, and the pointers behind it. -/
def State.roundGrants (s : State) (st : Nat) : ArbRound :=
  (List.range 4).foldl (fun a _ => s.arbSlot st (s.offers st) a) (s.roundStart st)

theorem State.mem_offers {s : State} {st : Nat} {q : Nat × Nat} :
    q ∈ s.offers st ↔ q.1 < 12 ∧ s.arbOffer st q.1 = some q.2 := by
  simp only [State.offers, List.mem_filterMap, List.mem_range, Option.map_eq_some_iff]
  constructor
  · rintro ⟨r, hr, p, hp, rfl⟩
    exact ⟨hr, hp⟩
  · rintro ⟨hr, hp⟩
    exact ⟨q.1, hr, q.2, hp, rfl⟩

theorem State.oneEach_offers (s : State) (st : Nat) : OneEach (s.offers st) := by
  intro r p p' h h'
  obtain ⟨-, e⟩ := State.mem_offers.mp h
  obtain ⟨-, e'⟩ := State.mem_offers.mp h'
  exact Option.some.inj (e.symm.trans e')

theorem State.roundGrants_spec (s : State) (st : Nat) :
    GrantsOf s st (s.offers st) (s.roundGrants st).grants ∧ (s.roundGrants st).grants.length ≤ 4 ∧
      ∃ g, SlotGrants s st (s.offers st) [] g ∧ g <+: (s.roundGrants st).grants := by
  have one := s.oneEach_offers st
  obtain ⟨kept, short, -⟩ := s.arbSlots_grants st one (List.range 4) (s.roundStart st) GrantsOf.nil
  have first := s.arbSlot_grants st (s.offers st) (s.roundStart st)
  obtain ⟨-, -, begins⟩ := s.arbSlots_grants st one [1, 2, 3] _ (GrantsOf.nil.slot one first)
  exact ⟨kept, short, _, first, begins⟩

end Sys2Proof.Machine
end

section
/-! PROOF. The rounds and windows of a shuttle (spec/11_memory_and_shuttle.md R296 to R303). -/

namespace Sys2Proof.Machine

open Sys2Proof.Laws

/-! ### What a round leaves of its shuttle -/

@[simp] theorem State.shuttle_setShuttle (s : State) (st : Nat) (x : Shuttle) : (s.setShuttle st x).shuttle st = x :=
  sparseGet_set_same ..

theorem State.shuttle_setShuttle_other (s : State) {st q : Nat} (x : Shuttle) (h : q ≠ st) :
    (s.setShuttle st x).shuttle q = s.shuttle q :=
  sparseGet_set_other _ _ _ h

theorem State.shuttle_congr {s t : State} (h : t.shuttles = s.shuttles) (st : Nat) : t.shuttle st = s.shuttle st := by
  rw [State.shuttle, State.shuttle, h]

/-- A shuttle behind a grant to a requester toward a pseudo-channel: the request is gone, the requester waits anew. -/
def Shuttle.granted (x : Shuttle) (g : Nat × Nat × Bool) : Shuttle :=
  { x with
    queues := sparseSet (fun _ => []) x.queues g.1 (takeRequest g.2.1 (x.queue g.1))
    wait := sparseSet (fun _ => 0) x.wait g.1 0
    got := sparseSet (fun _ => 0) x.got g.1 (sparseGet (fun _ => 0) x.got g.1 + 1) }

theorem State.shuttle_arbGrant (s : State) (st : Nat) (g : Nat × Nat × Bool) :
    (s.arbGrant st g).shuttle st = (s.shuttle st).granted g := by
  have leaves : (s.arbGrant st g).shuttles = (s.setShuttle st ((s.shuttle st).granted g)).shuttles := by
    simp only [State.arbGrant]
    split <;> split <;> simp [State.enterPool, State.setPool, Shuttle.granted]
  rw [State.shuttle_congr leaves, State.shuttle_setShuttle]

theorem State.shuttle_arbGrants (st : Nat) (l : List (Nat × Nat × Bool)) (s : State) :
    (l.foldl (fun s g => s.arbGrant st g) s).shuttle st = l.foldl Shuttle.granted (s.shuttle st) := by
  induction l generalizing s with
  | nil => rfl
  | cons g l ih => rw [List.foldl_cons, List.foldl_cons, ih, State.shuttle_arbGrant]

theorem Shuttle.wait_granted (x : Shuttle) (g : Nat × Nat × Bool) (r : Nat) :
    sparseGet (fun _ => 0) (x.granted g).wait r = if r = g.1 then 0 else sparseGet (fun _ => 0) x.wait r := by
  simp only [Shuttle.granted, sparseGet_set]

theorem Shuttle.queue_granted_other (x : Shuttle) {g : Nat × Nat × Bool} {r : Nat} (h : r ≠ g.1) :
    (x.granted g).queue r = x.queue r :=
  sparseGet_set_other _ _ _ h

/-- The rounds made and the rounds of the window, which a grant leaves alone. -/
def Shuttle.window (x : Shuttle) : Nat × Nat := (x.round, x.len)

theorem Shuttle.window_grants (l : List (Nat × Nat × Bool)) (x : Shuttle) :
    (l.foldl Shuttle.granted x).window = x.window := foldl_same Shuttle.window Shuttle.granted (fun _ _ => rfl) l x

/-- Requesters that are granted wait anew; the others keep wait counter and queue. -/
theorem Shuttle.grants_spec (l : List (Nat × Nat × Bool)) (x : Shuttle) (r : Nat) :
    (r ∈ l.map (·.1) → sparseGet (fun _ => 0) (l.foldl Shuttle.granted x).wait r = 0) ∧
      (r ∉ l.map (·.1) → sparseGet (fun _ => 0) (l.foldl Shuttle.granted x).wait r = sparseGet (fun _ => 0) x.wait r ∧
        (l.foldl Shuttle.granted x).queue r = x.queue r) := by
  induction l generalizing x with
  | nil => exact ⟨fun h => absurd h (by simp), fun _ => ⟨rfl, rfl⟩⟩
  | cons g l ih =>
    obtain ⟨anew, others⟩ := ih (x.granted g)
    rw [List.map_cons, List.mem_cons, List.foldl_cons]
    refine ⟨fun mem => ?_, fun absent => ?_⟩
    · by_cases later : r ∈ l.map (·.1)
      · exact anew later
      · obtain rfl := mem.resolve_right later
        obtain ⟨wait, -⟩ := others later
        rw [wait, Shuttle.wait_granted, if_pos rfl]
    · rw [not_or] at absent
      obtain ⟨ne, absent⟩ := absent
      obtain ⟨wait, queue⟩ := others absent
      rw [wait, queue, Shuttle.wait_granted, if_neg ne]
      exact ⟨rfl, x.queue_granted_other ne⟩

/-- The wait counters of requesters that offered and were not granted: one round more, up to 255 (R298). -/
def waitsOn (l : List (Nat × Nat)) (w : Sparse Nat) : Sparse Nat :=
  l.foldl (fun w q => sparseSet (fun _ => 0) w q.1 (min 255 (sparseGet (fun _ => 0) w q.1 + 1))) w

theorem waitsOn_other {l : List (Nat × Nat)} {r : Nat} (h : r ∉ l.map (·.1)) (w : Sparse Nat) :
    sparseGet (fun _ => 0) (waitsOn l w) r = sparseGet (fun _ => 0) w r := by
  induction l generalizing w with
  | nil => rfl
  | cons q l ih =>
    rw [List.map_cons, List.mem_cons, not_or] at h
    obtain ⟨ne, absent⟩ := h
    exact (ih absent _).trans (sparseGet_set_other _ _ _ ne)

theorem waitsOn_mem {l : List (Nat × Nat)} {r : Nat} (once : (l.map (·.1)).Nodup) (h : r ∈ l.map (·.1)) (w : Sparse Nat) :
    sparseGet (fun _ => 0) (waitsOn l w) r = min 255 (sparseGet (fun _ => 0) w r + 1) := by
  induction l generalizing w with
  | nil => exact absurd h (by simp)
  | cons q l ih =>
    rw [List.map_cons, List.nodup_cons] at once
    obtain ⟨fresh, once⟩ := once
    by_cases e : r = q.1
    · subst e
      exact (waitsOn_other fresh _).trans (sparseGet_set_same ..)
    · have later := (List.mem_cons.mp h).resolve_left e
      rw [waitsOn, List.foldl_cons, ← waitsOn, ih once later, sparseGet_set_other _ _ _ e]

/-- The offers of a round that were not granted. -/
def State.lostOffers (s : State) (st : Nat) : List (Nat × Nat) :=
  (s.offers st).filter (fun q => !((s.roundGrants st).grants.any (fun g => g.1 == q.1)))

/-- The shuttle after a round's slots, before its grants act: one round more is made, and those not granted wait on. -/
def State.slotsMade (s : State) (st : Nat) : Shuttle :=
  { s.shuttle st with
    wait := waitsOn (s.lostOffers st) (s.shuttle st).wait
    ptr := (s.roundGrants st).ptr, forcedPtr := (s.roundGrants st).forcedPtr, round := (s.shuttle st).round + 1 }

theorem State.shuttle_arbSlots (s : State) (st : Nat) :
    (s.arbSlots st).shuttle st = (s.roundGrants st).grants.foldl Shuttle.granted (s.slotsMade st) := by
  have slots : s.arbSlots st = (s.roundGrants st).grants.foldl (fun s g => s.arbGrant st g)
      (s.setShuttle st (s.slotsMade st)) := rfl
  rw [slots, State.shuttle_arbGrants, State.shuttle_setShuttle]

theorem State.mem_lostOffers {s : State} {st r : Nat} :
    r ∈ (s.lostOffers st).map (·.1) ↔ r ∈ (s.offers st).map (·.1) ∧ r ∉ (s.roundGrants st).grants.map (·.1) := by
  simp only [State.lostOffers, List.mem_map, List.mem_filter, Bool.not_eq_true', List.any_eq_false, beq_iff_eq, not_exists,
    not_and]
  constructor
  · rintro ⟨q, ⟨hq, lost⟩, rfl⟩
    exact ⟨⟨q, hq, rfl⟩, lost⟩
  · rintro ⟨⟨q, hq, rfl⟩, lost⟩
    exact ⟨q, ⟨hq, lost⟩, rfl⟩

theorem State.nodup_offers (s : State) (st : Nat) : ((s.offers st).map (·.1)).Nodup := by
  have sub : ((s.offers st).map (·.1)).Sublist (List.range 12) := by
    unfold State.offers
    generalize List.range 12 = l
    induction l with
    | nil => simp
    | cons r l ih =>
      cases h : s.arbOffer st r with
      | none => simpa [h] using ih.cons r
      | some p => simpa [h] using ih
  exact sub.nodup List.nodup_range

theorem State.mem_offers_requesters {s : State} {st : Nat} (r : Fin 12) :
    r.val ∈ (s.offers st).map (·.1) ↔ s.arbOffer st r ≠ none := by
  rw [Option.ne_none_iff_exists', List.mem_map]
  constructor
  · rintro ⟨q, hq, e⟩
    obtain ⟨-, offer⟩ := State.mem_offers.mp hq
    exact ⟨q.2, e ▸ offer⟩
  · rintro ⟨p, offer⟩
    exact ⟨(r.val, p), State.mem_offers.mpr ⟨r.isLt, offer⟩, rfl⟩

theorem State.granted_offers {s : State} {st r : Nat} (h : r ∈ (s.roundGrants st).grants.map (·.1)) :
    r ∈ (s.offers st).map (·.1) := by
  obtain ⟨kept, -, -⟩ := s.roundGrants_spec st
  obtain ⟨x, hx, rfl⟩ := List.mem_map.mp h
  exact List.mem_map_of_mem (f := fun q : Nat × Nat => q.1) (kept.offered x hx)

/-- A round's requester that offers waits anew when it is granted, and one round more, up to 255, when it is not (R298). -/
theorem State.wait_arbSlots {s : State} {st : Nat} {r : Fin 12} (h : s.arbOffer st r ≠ none) :
    sparseGet (fun _ => 0) ((s.arbSlots st).shuttle st).wait r =
      if r.val ∈ (s.roundGrants st).grants.map (·.1) then 0
      else min 255 (sparseGet (fun _ => 0) (s.shuttle st).wait r + 1) := by
  have offered := (State.mem_offers_requesters r).mpr h
  rw [State.shuttle_arbSlots]
  obtain ⟨anew, others⟩ := Shuttle.grants_spec (s.roundGrants st).grants (s.slotsMade st) r
  split
  next granted => exact anew granted
  next lost =>
    have once : ((s.lostOffers st).map (·.1)).Nodup := (s.nodup_offers st).sublist (List.filter_sublist.map _)
    obtain ⟨wait, -⟩ := others lost
    rw [wait]
    exact waitsOn_mem once (State.mem_lostOffers.mpr ⟨offered, lost⟩) _

/-- A requester that does not offer keeps wait counter and queue. -/
theorem State.arbSlots_other {s : State} {st : Nat} {r : Fin 12} (h : s.arbOffer st r = none) :
    sparseGet (fun _ => 0) ((s.arbSlots st).shuttle st).wait r = sparseGet (fun _ => 0) (s.shuttle st).wait r ∧
      ((s.arbSlots st).shuttle st).queue r = (s.shuttle st).queue r := by
  have quiet : r.val ∉ (s.offers st).map (·.1) := fun mem => (State.mem_offers_requesters r).mp mem h
  have ungranted : r.val ∉ (s.roundGrants st).grants.map (·.1) := fun mem => quiet (State.granted_offers mem)
  rw [State.shuttle_arbSlots]
  obtain ⟨-, others⟩ := Shuttle.grants_spec (s.roundGrants st).grants (s.slotsMade st) r
  obtain ⟨wait, queue⟩ := others ungranted
  rw [wait]
  exact ⟨waitsOn_other (fun mem => quiet (State.mem_lostOffers.mp mem).1) _, queue⟩

/-! ### Windows (R299, R300, R303) -/

theorem State.window_noteMasked (s : State) (st : Nat) : ((s.noteMasked st).shuttle st).window = (s.shuttle st).window := by
  have marks (l : List Nat) (u : State) :
      (l.foldl (fun s r => s.hwSet (bitFld (Reg.ARB_EVENTS st) (16 + r))) u).shuttles = u.shuttles :=
    foldl_same State.shuttles _ (fun _ _ => by simp) l u
  simp only [State.noteMasked, State.shuttle_setShuttle, Shuttle.window, State.shuttle_congr (marks ..) st]

theorem State.window_arbSlots (s : State) (st : Nat) :
    ((s.arbSlots st).shuttle st).window = ((s.shuttle st).round + 1, (s.shuttle st).len) := by
  rw [State.shuttle_arbSlots, Shuttle.window_grants]
  rfl

theorem State.window_arbRound (s : State) (st : Nat) : ((s.arbRound st).shuttle st).window =
    if s.windowOver st then (1, max 1 (fieldOf (s.reg (Reg.ARB_WINDOW st)) 0 16))
    else ((s.shuttle st).round + 1, (s.shuttle st).len) := by
  have round (u : State) : (((u.noteMasked st).arbSlots st).noteMasked st |>.shuttle st).window =
      ((u.shuttle st).window.1 + 1, (u.shuttle st).window.2) := by
    rw [State.window_noteMasked, State.window_arbSlots, ← State.window_noteMasked]
    rfl
  unfold State.arbRound
  dsimp only
  rw [round]
  split
  · rw [State.startWindow, State.shuttle_setShuttle]
    rfl
  · rfl

/-- QUOTA_WINDOW_END behind the last round of a window: the next begins, and nobody is masked (R299). -/
theorem State.startWindow_spec (s : State) (st : Nat) :
    ((s.startWindow st).shuttle st).round = 0 ∧
      ((s.startWindow st).shuttle st).len = max 1 (fieldOf (s.reg (Reg.ARB_WINDOW st)) 0 16) ∧
      (∀ r, (s.startWindow st).arbMasked st r = false) ∧
      ((s.startWindow st).shuttle st).wait = (s.shuttle st).wait ∧
      ((s.startWindow st).shuttle st).queues = (s.shuttle st).queues ∧
      (∀ q, q ≠ st → (s.startWindow st).shuttle q = s.shuttle q) := by
  have begun : (s.startWindow st).shuttle st = { s.shuttle st with
      got := [], masked := [], round := 0, len := max 1 (fieldOf (s.reg (Reg.ARB_WINDOW st)) 0 16) } :=
    State.shuttle_setShuttle ..
  refine ⟨by rw [begun], by rw [begun], fun r => ?_, by rw [begun], by rw [begun], fun q hq => s.shuttle_setShuttle_other _ hq⟩
  simp only [State.arbMasked, begun, sparseGet_nil, Nat.le_zero, Bool.and_eq_false_imp, bne_iff_ne, ne_eq,
    decide_eq_false_iff_not]
  exact fun quota => quota

theorem exec_quotaWindowEnd_over {s : State} {st : Fin 2} (ho : s.operational = true) (hw : s.windowOver st = true) :
    exec (.quotaWindowEnd st) s = .next (s.startWindow st) := by
  have e : exec (.quotaWindowEnd st) s = execQuotaWindowEnd st s := rfl
  rw [e, execQuotaWindowEnd, ho, hw]
  rfl

theorem exec_quotaWindowEnd_early {s : State} {st : Fin 2} (h : s.operational = false ∨ s.windowOver st = false) :
    exec (.quotaWindowEnd st) s = .next s := by
  have e : exec (.quotaWindowEnd st) s = execQuotaWindowEnd st s := rfl
  rw [e, execQuotaWindowEnd, if_neg (by rcases h with h | h <;> simp [h])]

/-- Settles O47: the invariant of the grants from slot to slot (`GrantsOf`) and the first slot give the clauses of a round; its
shuttle behind it is `waitsOn` of the offers not granted and `Shuttle.granted` of the grants. -/
theorem shuttleRounds : Obligations.ShuttleRounds := by
  unfold Obligations.ShuttleRounds
  refine ⟨?round, ?offering, ?quiet, ?window, ?ends, ?early⟩
  case round =>
    intro s st offers g ho hg
    obtain rfl : offers = s.offers st := ho
    obtain rfl : g = (s.roundGrants st).grants := hg
    obtain ⟨kept, short, start, first, rest, begins⟩ := s.roundGrants_spec st
    obtain ⟨forced, grants, highest⟩ := first.first
    refine ⟨short, kept.pcs, kept.requesters, fun x hx => ⟨?_, kept.forced x hx⟩, ?_, ?_, ?_⟩
    · obtain ⟨-, offer⟩ := State.mem_offers.mp (kept.offered x hx)
      exact offer
    · rintro ⟨r, hr, offer, waited⟩
      obtain ⟨p, hp⟩ := Option.ne_none_iff_exists'.mp offer
      obtain ⟨x, hx, isForced⟩ := forced ⟨(r, p), State.mem_offers.mpr ⟨hr, hp⟩, waited⟩
      exact ⟨x, by rw [← begins, List.head?_append, hx, Option.some_or], isForced⟩
    · intro some
      rw [← begins]
      exact List.append_ne_nil_of_left_ne_nil (grants some) rest
    · intro x hx unforced q hq
      rw [← begins, List.head?_append_of_ne_nil _ (grants (List.ne_nil_of_mem hq))] at hx
      exact highest x hx unforced q hq
  case offering =>
    rintro s st r t offered rfl
    rw [State.wait_arbSlots offered]
    split
    · exact .inl rfl
    · exact .inr rfl
  case quiet =>
    rintro s st r t quiet rfl
    exact State.arbSlots_other quiet
  case window =>
    rintro s st t rfl
    have made := s.window_arbRound st
    refine ⟨fun all => ?_, fun more => ?_⟩
    · rw [if_pos all] at made
      exact Prod.mk.inj made
    · rw [more, if_neg Bool.false_ne_true] at made
      exact Prod.mk.inj made
  case ends =>
    intro s st ho hw
    obtain ⟨round, len, unmasked, wait, queues, others⟩ := s.startWindow_spec st
    exact ⟨_, exec_quotaWindowEnd_over ho hw, round, len, fun r => unmasked r, wait, queues,
      fun q hq => others q (Fin.val_ne_of_ne hq), rfl⟩
  case early => exact fun s st h => ⟨s, exec_quotaWindowEnd_early h, rfl⟩

end Sys2Proof.Machine
end

section
/-! PROOF. Changes of frequency point and tracking passes (spec/11_memory_and_shuttle.md R288, R291 to R293). -/

namespace Sys2Proof.Machine

open Sys2Proof.Laws

/-! ### GO (R291, R293) -/

theorem exec_freqGo {s : State} (h : s.takesWrite Reg.MEM_FREQ = true) (v : Word) :
    exec (.freqGo v) s = .next (s.freqWrite v) := by
  have e : exec (.freqGo v) s = execFreqGo v s := rfl
  rw [e, execFreqGo, State.hostWrite_local h (by decide)]

theorem State.pcState_setF_below (s : State) {f : Fld} (n p : Nat) (hf : f.off < 0x100100) :
    (s.setF f n).pcState p = s.pcState p := by
  have other : (F.MEM_PC_STATE_STATE p).off ≠ f.off := by
    have : (F.MEM_PC_STATE_STATE p).off = 0x100100 + 64 * p := rfl
    omega
  exact State.getF_setReg_other _ _ _ other

theorem State.getF_freqPoint (s : State) (v : Word) :
    (s.setF F.MEM_FREQ_POINT (fieldOf v 0 2)).getF F.MEM_FREQ_POINT = fieldOf v 0 2 := by
  rw [State.getF_setF_same _ _ _ (by decide)]
  exact Nat.mod_mod_of_dvd _ (Nat.dvd_refl _)

/-- When a GO is accepted (R291, log 33). -/
theorem State.freqOpen_iff (s : State) (v : Word) : (s.setF F.MEM_FREQ_POINT (fieldOf v 0 2)).freqOpen = true ↔
    s.lives = [] ∧ (∀ p : Fin 64, s.pcState p ≠ 2 ∧ s.pcState p ≠ 3) ∧ s.mem.change = none ∧ s.mem.deferred = none ∧
      fieldOf v 0 2 ≠ 3 := by
  have lives : (s.setF F.MEM_FREQ_POINT (fieldOf v 0 2)).lives = s.lives := rfl
  have calm (p : Nat) : (!(s.setF F.MEM_FREQ_POINT (fieldOf v 0 2)).pcFrozen p) = true ↔ s.pcState p ≠ 2 ∧ s.pcState p ≠ 3 := by
    simp [State.pcFrozen, State.pcState_setF_below s (f := F.MEM_FREQ_POINT) _ p (by decide)]
  simp only [State.freqOpen, Bool.and_eq_true, lives, List.isEmpty_iff, List.all_eq_true, List.mem_range, calm, State.setF_mem,
    Option.isNone_iff_eq_none, State.getF_freqPoint, bne_iff_ne, and_assoc]
  exact and_congr_right fun _ => and_congr_left fun _ => ⟨fun h p => h p p.isLt, fun h p hp => h ⟨p, hp⟩⟩

section Go

variable {s : State} {v : Word} (go : v.getLsbD 31 = true)
include go

theorem State.freqWrite_refused (h : (s.setF F.MEM_FREQ_POINT (fieldOf v 0 2)).freqOpen = false) :
    s.freqWrite v = (s.setF F.MEM_FREQ_POINT (fieldOf v 0 2)).hwSet F.MEM_EVENTS_FREQ_REFUSED := by
  simp [State.freqWrite, go, h]

theorem State.freqWrite_deferred (h : (s.setF F.MEM_FREQ_POINT (fieldOf v 0 2)).freqOpen = true)
    (pass : s.mem.track.isSome = true) :
    s.freqWrite v = (s.setF F.MEM_FREQ_POINT (fieldOf v 0 2)).deferChange (fieldOf v 0 2) s.time.clk := by
  simp [State.freqWrite, go, h, pass]

theorem State.freqWrite_started (h : (s.setF F.MEM_FREQ_POINT (fieldOf v 0 2)).freqOpen = true) (pass : s.mem.track = none) :
    s.freqWrite v = (s.setF F.MEM_FREQ_POINT (fieldOf v 0 2)).startChange (fieldOf v 0 2) s.time.clk := by
  simp [State.freqWrite, go, h, pass]

end Go

/-- A change begins: CHANGING is set and DEFERRED cleared, beside the point in effect (R292). -/
theorem State.startChange_spec (s : State) (point go : Nat) :
    (s.startChange point go).bit F.MEM_STATUS_CHANGING = true ∧ (s.startChange point go).bit F.MEM_STATUS_DEFERRED = false ∧
      (s.startChange point go).getF F.MEM_STATUS_POINT_IN_EFFECT = s.getF F.MEM_STATUS_POINT_IN_EFFECT ∧
      s.SameRegsBut (s.startChange point go) [Reg.MEM_STATUS] ∧
      (s.startChange point go).mem = { s.mem with change := some ⟨point, s.time.clk, go, false⟩, deferred := none } := by
  have regs : (s.startChange point go).regs =
      ((s.setBit F.MEM_STATUS_CHANGING true).setBit F.MEM_STATUS_DEFERRED false).regs := rfl
  refine ⟨?_, ?_, ?_, fun o ho => ?_, rfl⟩
  · rw [State.bit, State.getF_congr regs, ← State.bit, State.bit_setBit_other _ _ _ _ (by decide) (by decide),
      State.bit_setBit_same _ _ _ (by decide) rfl]
  · rw [State.bit, State.getF_congr regs, ← State.bit, State.bit_setBit_same _ _ _ (by decide) rfl]
  · rw [State.getF_congr regs, State.setBit, State.getF_setF_other _ _ _ _ (by decide) (by decide), State.setBit,
      State.getF_setF_other _ _ _ _ (by decide) (by decide)]
  · rw [State.reg_congr regs]
    exact ((State.SameRegsBut.refl s [Reg.MEM_STATUS]).setF F.MEM_STATUS_CHANGING _ List.mem_cons_self).setF
      F.MEM_STATUS_DEFERRED _ List.mem_cons_self o ho

/-- A change that waits for a tracking pass (R293, log 41). -/
theorem State.deferChange_spec (s : State) (point go : Nat) :
    (s.deferChange point go).bit F.MEM_STATUS_DEFERRED = true ∧ (s.deferChange point go).bit F.MEM_EVENTS_FREQ_DEFERRED = true ∧
      (s.deferChange point go).mem.deferred = some (point, go) ∧ (s.deferChange point go).mem.change = none := by
  have regs : (s.deferChange point go).regs = ((s.setBit F.MEM_STATUS_DEFERRED true).hwSet F.MEM_EVENTS_FREQ_DEFERRED).regs := rfl
  refine ⟨?_, ?_, rfl, rfl⟩
  · rw [State.bit, State.getF_congr regs, State.getF_hwSet_other _ rfl (by decide) (by decide), ← State.bit,
      State.bit_setBit_same _ _ _ (by decide) rfl]
  · rw [State.bit, State.getF_congr regs, ← State.bit, State.bit_hwSet_same _ rfl rfl (by decide)]

/-- A pass without a re-sweep left ends (R288). -/
theorem State.endTracking_done {s : State} (h : s.mem.track.all (fun p => decide (p.turn.length ≤ p.done)) = true) :
    s.endTracking = { s.setBit F.MEM_STATUS_TRAINING false with mem := { s.mem with track := none } } := by
  unfold State.endTracking
  cases pass : s.mem.track with
  | none => rfl
  | some t =>
    rw [pass, Option.all_some, decide_eq_true_eq] at h
    have left : (t.turn.take t.turn.length).drop t.done = [] := by simpa using h
    simp only [State.resweepTo, left, List.foldl_nil]
    rfl

theorem exec_freqDeferredStart {s : State} {point go : Nat} (h : s.mem.deferred = some (point, go)) :
    exec .freqDeferredStart s = .next (s.endTracking.startChange point go) := by
  have e : exec .freqDeferredStart s = execFreqDeferredStart s := rfl
  rw [e, execFreqDeferredStart, h]

/-! ### Timings (R286, R288, R292) -/

/-- Registers that no timing of a pseudo-channel is shown in: those below the rows of the pseudo-channels, and the first of each
row, its state. -/
def BesideTimings (o : Nat) : Prop := o < 0x100100 ∨ o % 64 = 0

theorem besideTimings_pcState (p : Nat) : BesideTimings (Reg.MEM_PC_STATE p) := by
  refine Or.inr ?_
  rw [show Reg.MEM_PC_STATE p = 0x100100 + 64 * p from rfl]
  omega

section Timings

variable {P : Nat → Prop} (hP : ∀ o, P o → BesideTimings o)
include hP

theorem Leaves.showTiming {r s : State} (h : Leaves P r s) (p : Nat) (t : PcTiming) : Leaves P r (s.showTiming p t) := by
  have row (k : Nat) (low : 0x100100 ≤ k) (off : k % 64 ≠ 0) : ¬ P (k + 64 * p) := fun h => by
    rcases hP _ h with below | first <;> omega
  refine h.setRegs _ ?_
  simp only [List.forall_mem_cons]
  exact ⟨row 0x100124 (by decide) (by decide), row 0x100128 (by decide) (by decide),
    row 0x10012c (by decide) (by decide), by simp⟩

theorem Leaves.setTiming {r s : State} (h : Leaves P r s) (p : Nat) (t : PcTiming) : Leaves P r (s.setTiming p t) := by
  unfold State.setTiming
  refine Leaves.showTiming hP ?_ p t
  exact h.of_regs rfl

theorem Leaves.recentre {r s : State} (h : Leaves P r s) (p : Nat) (sweep : List (BitVec 128)) :
    Leaves P r (s.recentre p sweep) := by
  unfold State.recentre
  exact Leaves.ite h (h.setTiming hP p _)

end Timings

@[simp] theorem State.showTiming_mem (s : State) (p : Nat) (t : PcTiming) : (s.showTiming p t).mem = s.mem := State.setRegs_mem ..

theorem State.timing_setTiming_other (s : State) {p q : Nat} (t : PcTiming) (h : q ≠ p) :
    sparseGet (fun _ => []) (s.setTiming p t).mem.timing q = sparseGet (fun _ => []) s.mem.timing q := by
  rw [State.setTiming, State.showTiming_mem]
  exact sparseGet_set_other _ _ _ h

theorem State.change_recentre (s : State) (p : Nat) (sweep : List (BitVec 128)) :
    (s.recentre p sweep).mem.change = s.mem.change := by
  unfold State.recentre
  split
  · rfl
  · rw [State.setTiming, State.showTiming_mem]

/-! ### FREQ_DONE (R292) -/

/-- The timings of the point in effect are loaded, and self-refresh ends, in one pseudo-channel. -/
def State.leavesSelfRefresh (s : State) (p : Nat) : State :=
  (s.setBit (F.MEM_PC_STATE_SELF_REFRESH p) false).showTiming p (s.timingNow p)

theorem State.leavesSelfRefresh_spec (s : State) (p : Nat) :
    (s.leavesSelfRefresh p).reg Reg.MEM_STATUS = s.reg Reg.MEM_STATUS ∧
      (∀ q, (s.leavesSelfRefresh p).pcState q = s.pcState q) ∧
      ∀ q, (s.leavesSelfRefresh p).bit (F.MEM_PC_STATE_SELF_REFRESH q) =
        (decide (q ≠ p) && s.bit (F.MEM_PC_STATE_SELF_REFRESH q)) := by
  have shown : Leaves BesideTimings (s.setBit (F.MEM_PC_STATE_SELF_REFRESH p) false) (s.leavesSelfRefresh p) :=
    (Leaves.refl _).showTiming (fun _ h => h) p _
  refine ⟨?_, fun q => ?_, fun q => ?_⟩
  · rw [shown.reg _ (Or.inl (by decide))]
    exact State.reg_setF_other _ _ _ (show 0x100004 ≠ 0x100100 + 64 * p by omega)
  · rw [State.pcState, shown.getF _ (besideTimings_pcState q)]
    exact State.getF_setF_other _ _ _ _ (by decide : 9 + 1 ≤ 32) (Or.inr (Or.inl (by decide : 0 + 3 ≤ 9)))
  · rw [shown.bit _ (besideTimings_pcState q)]
    by_cases e : q = p
    · subst e
      rw [State.bit_setBit_same _ _ _ (by decide : 9 + 1 ≤ 32) rfl]
      simp
    · have other : 0x100100 + 64 * q ≠ 0x100100 + 64 * p := by omega
      rw [State.bit_setBit_other _ _ _ _ (by decide : 9 + 1 ≤ 32) (Or.inl other)]
      simp [e]

theorem State.leaveSelfRefresh_spec (l : List Nat) (s : State) :
    (l.foldl State.leavesSelfRefresh s).reg Reg.MEM_STATUS = s.reg Reg.MEM_STATUS ∧
      (∀ q, (l.foldl State.leavesSelfRefresh s).pcState q = s.pcState q) ∧
      ∀ q ∈ l, (l.foldl State.leavesSelfRefresh s).bit (F.MEM_PC_STATE_SELF_REFRESH q) = false := by
  have stays (l : List Nat) (s : State) (q : Nat) (h : s.bit (F.MEM_PC_STATE_SELF_REFRESH q) = false) :
      (l.foldl State.leavesSelfRefresh s).bit (F.MEM_PC_STATE_SELF_REFRESH q) = false := by
    induction l generalizing s with
    | nil => exact h
    | cons p l ih =>
      obtain ⟨-, -, refresh⟩ := s.leavesSelfRefresh_spec p
      exact ih _ (by rw [refresh, h, Bool.and_false])
  induction l generalizing s with
  | nil => exact ⟨rfl, fun _ => rfl, fun q hq => absurd hq (by simp)⟩
  | cons p l ih =>
    obtain ⟨status, state, refresh⟩ := s.leavesSelfRefresh_spec p
    obtain ⟨statuses, states, refreshes⟩ := ih (s.leavesSelfRefresh p)
    refine ⟨statuses.trans status, fun q => (states q).trans (state q), fun q hq => ?_⟩
    rcases List.mem_cons.mp hq with rfl | later
    · exact stays l _ _ (by rw [refresh]; simp)
    · exact refreshes q later

/-- The point of a change is in effect (R292). -/
def State.pointOpens (s : State) (c : FreqChange) : State :=
  { s.setF F.MEM_STATUS_POINT_IN_EFFECT c.point with mem := { s.mem with change := some { c with opened := true } } }

theorem State.getF_pointOpens (s : State) {c : FreqChange} (hp : c.point < 4) :
    (s.pointOpens c).getF F.MEM_STATUS_POINT_IN_EFFECT = c.point :=
  (s.getF_setF_same F.MEM_STATUS_POINT_IN_EFFECT c.point (by decide)).trans (Nat.mod_eq_of_lt hp)

theorem State.pcState_pointOpens (s : State) (c : FreqChange) (p : Nat) : (s.pointOpens c).pcState p = s.pcState p :=
  s.pcState_setF_below (f := F.MEM_STATUS_POINT_IN_EFFECT) c.point p (by decide)

/-- The memory clocks open at the point of a change, unless they have (R292). -/
theorem State.memClocksOpen_spec {s : State} {c : FreqChange} (hp : c.point < 4) (h : c.opened = false ∨
      (s.getF F.MEM_STATUS_POINT_IN_EFFECT = c.point ∧ ∀ p : Fin 64, s.bit (F.MEM_PC_STATE_SELF_REFRESH p) = false)) :
    (s.memClocksOpen c).getF F.MEM_STATUS_POINT_IN_EFFECT = c.point ∧
      ∀ p : Fin 64, (s.memClocksOpen c).pcState p = s.pcState p ∧
        (s.memClocksOpen c).bit (F.MEM_PC_STATE_SELF_REFRESH p) = false := by
  cases opened : c.opened with
  | true =>
    have same : s.memClocksOpen c = s := by rw [State.memClocksOpen, if_pos opened]
    obtain ⟨point, refresh⟩ := h.resolve_left (by simp [opened])
    rw [same]
    exact ⟨point, fun p => ⟨rfl, refresh p⟩⟩
  | false =>
    have opens : s.memClocksOpen c = (List.range 64).foldl State.leavesSelfRefresh (s.pointOpens c) := by
      rw [State.memClocksOpen, if_neg (by simp [opened])]
      rfl
    obtain ⟨status, states, refreshes⟩ := State.leaveSelfRefresh_spec (List.range 64) (s.pointOpens c)
    rw [opens]
    refine ⟨?_, fun p => ⟨(states p).trans (s.pcState_pointOpens c p), refreshes p (List.mem_range.mpr p.isLt)⟩⟩
    exact (congrArg (fun w => fieldOf w 0 2) status).trans (s.getF_pointOpens hp)

/-- What FREQ_DONE does before the re-centres. -/
def State.resumesAt (s : State) (c : FreqChange) : State :=
  let s := ((s.memClocksOpen c).setBit F.MEM_STATUS_CHANGING false).hwSet F.MEM_EVENTS_FREQ_DONE
  { s with mem := { s.mem with change := none } }

theorem exec_freqDone {s : State} {c : FreqChange} (h : s.mem.change = some c) (runs : s.mpllRuns = true)
    (sweeps : List (List (BitVec 128))) : exec (.freqDone sweeps) s =
      .next ((List.range 64).foldl (fun s p => s.recentre p (sweeps.getD p [])) (s.resumesAt c)) := by
  have e : exec (.freqDone sweeps) s = execFreqDone sweeps s := rfl
  rw [e, execFreqDone, h]
  simp only [runs, Bool.not_true, Bool.false_eq_true, if_false]
  rfl

theorem State.resumesAt_spec (s : State) (c : FreqChange) :
    (s.resumesAt c).getF F.MEM_STATUS_POINT_IN_EFFECT = (s.memClocksOpen c).getF F.MEM_STATUS_POINT_IN_EFFECT ∧
      (s.resumesAt c).bit F.MEM_STATUS_CHANGING = false ∧ (s.resumesAt c).bit F.MEM_EVENTS_FREQ_DONE = true ∧
      Leaves (fun o => ∃ p, o = Reg.MEM_PC_STATE p) (s.memClocksOpen c) (s.resumesAt c) := by
  have regs : (s.resumesAt c).regs =
      (((s.memClocksOpen c).setBit F.MEM_STATUS_CHANGING false).hwSet F.MEM_EVENTS_FREQ_DONE).regs := rfl
  generalize s.memClocksOpen c = u at regs
  refine ⟨?_, ?_, ?_, ?_⟩
  · rw [State.getF_congr regs, State.getF_hwSet_other _ rfl (by decide) (by decide), State.setBit,
      State.getF_setF_other _ _ _ _ (by decide) (by decide)]
  · rw [State.bit, State.getF_congr regs, State.getF_hwSet_other _ rfl (by decide) (by decide), ← State.bit,
      State.bit_setBit_same _ _ _ (by decide) rfl]
  · rw [State.bit, State.getF_congr regs, ← State.bit, State.bit_hwSet_same _ rfl rfl (by decide)]
  · have events : ¬ ∃ p, F.MEM_EVENTS_FREQ_DONE.off = Reg.MEM_PC_STATE p := fun ⟨p, e⟩ =>
      absurd e (show 0x100008 ≠ 0x100100 + 64 * p by omega)
    have status : ¬ ∃ p, F.MEM_STATUS_CHANGING.off = Reg.MEM_PC_STATE p := fun ⟨p, e⟩ =>
      absurd e (show 0x100004 ≠ 0x100100 + 64 * p by omega)
    exact (((Leaves.refl u).setBit false status).hwSet_plain events rfl).of_regs regs

/-! ### Tracking passes (R288) -/

theorem exec_trackPass {s : State} (ho : s.operational = true) (period : s.getF ⟨Reg.MEM_TRACK_PERIOD, 0, 16⟩ ≠ 0)
    (change : s.mem.change = none) (track : s.mem.track = none) (maps : List (List (BitVec 17))) (n : Nat) :
    exec (.trackPass maps n) s = .next { s.setBit F.MEM_STATUS_TRAINING true with mem := { s.mem with
      track := some ⟨s.time.clk, n, maps, (List.range 64).filter s.pcInService, 0⟩ } } := by
  have service : (s.setBit F.MEM_STATUS_TRAINING true).pcInService = s.pcInService :=
    funext fun p => congrArg (· == 1) (s.pcState_setF_below (f := F.MEM_STATUS_TRAINING) _ p (by decide))
  have e : exec (.trackPass maps n) s = execTrackPass maps n s := rfl
  simp [e, execTrackPass, ho, period, change, track, service]

/-- Registers that a tracking pass leaves alone: those beside the timings, but EVENTS, and below the blocks behind MEM. -/
def BesideTracking (o : Nat) : Prop := BesideTimings o ∧ o ≠ Reg.MEM_EVENTS ∧ o < 0x110000

theorem Leaves.resweep {r s : State} (h : Leaves BesideTracking r s) (p : Nat) (maps : List (BitVec 17)) :
    Leaves BesideTracking r (s.resweep p maps) := by
  unfold State.resweep
  have set (t : PcTiming) : Leaves BesideTracking r (s.setTiming p t) :=
    h.setTiming (fun _ ⟨beside, _⟩ => beside) p t
  refine Leaves.ite h (Leaves.ite ?_ (set _))
  exact ((set _).hwSet_plain (f := F.MEM_EVENTS_TRACK_WARN) (fun ⟨_, events, _⟩ => events rfl)
    rfl).makeRecord _ _ _ fun o ⟨_, _, below⟩ => by omega

@[simp] theorem State.crossCopy_mem (s : State) (r : BbxRecord) : (s.crossCopy r).mem = s.mem := by
  unfold State.crossCopy
  split <;> rfl

@[simp] theorem State.ringRoom_mem (s : State) : s.ringRoom.mem = s.mem := by
  unfold State.ringRoom
  split
  · rfl
  · exact s.rclAdd_mem ..

@[simp] theorem State.makeRecord_mem (s : State) (src code : Nat) (p : List Byte) : (s.makeRecord src code p).mem = s.mem := by
  unfold State.makeRecord State.pushRecord
  split
  · rw [State.crossCopy_mem]
  · dsimp only
    split
    · rw [State.set64_mem, State.crossCopy_mem, State.ringRoom_mem]
    · rw [State.set64_mem]

/-- A re-sweep changes the timing of its pseudo-channel alone, and only where it is in service. -/
theorem State.timing_resweep {s : State} {p q : Nat} (h : q = p → s.pcInService q = false) (maps : List (BitVec 17)) :
    sparseGet (fun _ => []) (s.resweep p maps).mem.timing q = sparseGet (fun _ => []) s.mem.timing q := by
  unfold State.resweep
  split
  · rfl
  next served =>
    have other : q ≠ p := by
      rintro rfl
      exact served (by rw [h rfl, Bool.not_false])
    dsimp only
    split
    · rw [State.makeRecord_mem, State.hwSet_mem, State.timing_setTiming_other _ _ other]
    · exact State.timing_setTiming_other _ _ other

theorem State.pcInService_congr {s t : State} (h : Leaves BesideTracking s t) (q : Fin 64) :
    t.pcInService q = s.pcInService q := by
  have beside : BesideTracking (Reg.MEM_PC_STATE q) :=
    ⟨besideTimings_pcState q, show 0x100100 + 64 * q.val ≠ 0x100008 by omega, show 0x100100 + 64 * q.val < 0x110000 by omega⟩
  exact congrArg (· == 1) (h.getF (F.MEM_PC_STATE_STATE q) beside)

/-- Re-sweeps leave a pseudo-channel that is out of service as it was. -/
theorem State.timing_resweeps {q : Fin 64} (maps : Nat → List (BitVec 17)) (l : List Nat) (s : State)
    (h : s.pcInService q = false) :
    Leaves BesideTracking s (l.foldl (fun s p => s.resweep p (maps p)) s) ∧
      sparseGet (fun _ => []) (l.foldl (fun s p => s.resweep p (maps p)) s).mem.timing q =
        sparseGet (fun _ => []) s.mem.timing q := by
  induction l generalizing s with
  | nil => exact ⟨Leaves.refl s, rfl⟩
  | cons p l ih =>
    have one : Leaves BesideTracking s (s.resweep p (maps p)) := (Leaves.refl s).resweep p _
    obtain ⟨regs, timing⟩ := ih (s.resweep p (maps p)) ((State.pcInService_congr one q).trans h)
    exact ⟨one.trans regs, timing.trans (State.timing_resweep (fun _ => h) _)⟩

/-- The end of a pass (R288). -/
theorem State.trackTick_ends {s : State} {p : TrackPass} (track : s.mem.track = some p) (last : p.start + p.clocks ≤ s.time.clk) :
    s.trackTick = { ((s.resweepTo p p.turn.length).setBit F.MEM_STATUS_TRAINING false) with
      mem := { (s.resweepTo p p.turn.length).mem with track := none } } := by
  unfold State.trackTick State.endTracking
  simp only [track, if_pos last]
  rfl

theorem State.timingNow_congr {s t : State} {q : Nat}
    (point : t.getF F.MEM_STATUS_POINT_IN_EFFECT = s.getF F.MEM_STATUS_POINT_IN_EFFECT)
    (timing : sparseGet (fun _ => []) t.mem.timing q = sparseGet (fun _ => []) s.mem.timing q) :
    t.timingNow q = s.timingNow q := by
  rw [State.timingNow, State.timingNow, point, timing]

theorem State.resweepTo_spec {s : State} {q : Fin 64} (h : s.pcInService q = false) (p : TrackPass) (n : Nat) :
    (s.resweepTo p n).getF F.MEM_STATUS_POINT_IN_EFFECT = s.getF F.MEM_STATUS_POINT_IN_EFFECT ∧
      sparseGet (fun _ => []) (s.resweepTo p n).mem.timing q = sparseGet (fun _ => []) s.mem.timing q := by
  obtain ⟨regs, timing⟩ := State.timing_resweeps (fun i => p.maps.getD i []) ((p.turn.take n).drop p.done) s h
  exact ⟨regs.getF F.MEM_STATUS_POINT_IN_EFFECT ⟨Or.inl (by decide), by decide, by decide⟩, timing⟩

/-- The end of a pass changes no timing of a pseudo-channel out of service (R288). -/
theorem State.trackTick_ends_spec {s : State} {p : TrackPass} (track : s.mem.track = some p)
    (last : p.start + p.clocks ≤ s.time.clk) :
    s.trackTick.mem.track = none ∧ s.trackTick.bit F.MEM_STATUS_TRAINING = false ∧
      ∀ q : Fin 64, s.pcInService q = false → s.trackTick.timingNow q = s.timingNow q := by
  rw [State.trackTick_ends track last]
  refine ⟨rfl, State.bit_setBit_same _ F.MEM_STATUS_TRAINING false (by decide) rfl, fun q out => ?_⟩
  obtain ⟨point, timing⟩ := State.resweepTo_spec out p p.turn.length
  have beside := State.getF_setF_other (s.resweepTo p p.turn.length) F.MEM_STATUS_TRAINING F.MEM_STATUS_POINT_IN_EFFECT
    (b2n false) (by decide) (by decide)
  exact State.timingNow_congr (beside.trans point) timing

theorem clampInt_bounds {lo hi : Int} (h : lo ≤ hi) (n : Int) : lo ≤ clampInt lo hi n ∧ clampInt lo hi n ≤ hi := by
  unfold clampInt
  split
  · exact ⟨Int.le_refl lo, h⟩
  · split <;> omega

theorem clampInt_of_mem {lo hi n : Int} (h : lo ≤ n) (h' : n ≤ hi) : clampInt lo hi n = n := by
  rw [clampInt, if_neg (by omega), if_neg (by omega)]

/-- A centre moves by at most four steps, and stays among the 128 settings (R288). -/
theorem trackCentre_near {old : Nat} (h : old ≤ 127) (map : BitVec 17) :
    (trackCentre old map).1 ≤ 127 ∧ (trackCentre old map).1 ≤ old + 4 ∧ old ≤ (trackCentre old map).1 + 4 := by
  unfold trackCentre
  split
  · exact ⟨h, by omega, by omega⟩
  next r hr =>
    have step := clampInt_bounds (show (-4 : Int) ≤ 4 by decide) ((runCentre r : Int) - 8)
    generalize clampInt (-4) 4 ((runCentre r : Int) - 8) = d at step
    have bounds := clampInt_bounds (show (0 : Int) ≤ 127 by decide) (old + d)
    have near : clampInt 0 127 (old + d) - 4 ≤ old ∧ old ≤ clampInt 0 127 (old + d) + 4 := by
      unfold clampInt
      split_ifs <;> omega
    dsimp only
    omega

/-- Every setting passes: the run's middle is where the centre stands. -/
theorem trackCentre_allOnes {old : Nat} (h : old ≤ 127) : trackCentre old (BitVec.allOnes 17) = (old, false) := by
  have whole : longestRun 17 (fun i => (BitVec.allOnes 17).getLsbD i) = some (0, 16) := by decide
  have stays : clampInt 0 127 ((old : Int) + clampInt (-4) 4 ((runCentre (0, 16) : Int) - 8)) = old := by
    rw [show clampInt (-4) 4 ((runCentre (0, 16) : Int) - 8) = 0 by decide, Int.add_zero]
    exact clampInt_of_mem (by omega) (by omega)
  rw [trackCentre, whole]
  dsimp only
  rw [stays]
  rfl

/-- No setting passes: the centre stays, with a warning. -/
theorem trackCentre_zero (old : Nat) : trackCentre old 0 = (old, true) := by
  have empty : longestRun 17 (fun i => (0 : BitVec 17).getLsbD i) = none := by decide
  rw [trackCentre, empty]

end Sys2Proof.Machine
end

section
/-! PROOF. The debug window, and transactions that complete (spec/11_memory_and_shuttle.md R280 to R284, R294). -/

namespace Sys2Proof.Machine

open Sys2Proof.Laws

/-! ### BAR2 (R294) -/

theorem exec_bar2Write {s : State} (h : s.hostReaches = true) : exec .bar2Write s = .next (s.hwSet F.FLT_HOST_BAR2_WRITE) := by
  have e : exec .bar2Write s = execBar2Write s := rfl
  rw [e, execBar2Write, if_pos h]

section Window

variable {s : State} {a : BitVec 32} (h : s.hostReaches = true)
include h

theorem exec_bar2Read_above (base : 12 ≤ s.getF ⟨Reg.MEM_DBG_BASE, 0, 4⟩) :
    exec (.bar2Read a) s = .next (s.send (.bar2Data a.toNat 0xFFFFFFFF)) := by
  have e : exec (.bar2Read a) s = execBar2Read a s := rfl
  simp [e, execBar2Read, h, base]

theorem exec_bar2Read_void (base : s.getF ⟨Reg.MEM_DBG_BASE, 0, 4⟩ < 12)
    (void : s.pcState (s.bar2Pc a.toNat) = 2 ∨ s.pcState (s.bar2Pc a.toNat) = 4 ∨ s.bit F.MEM_STATUS_CHANGING = true) :
    exec (.bar2Read a) s = .next ((s.hwSet F.MEM_EVENTS_DBG_VOID).send (.bar2Data a.toNat 0xFFFFFFFF)) := by
  have e : exec (.bar2Read a) s = execBar2Read a s := rfl
  have c : (s.pcState (s.bar2Pc a.toNat) == 2 || s.pcState (s.bar2Pc a.toNat) == 4 || s.bit F.MEM_STATUS_CHANGING) = true := by
    simpa [or_assoc] using void
  rw [e, execBar2Read, h, Bool.not_true, if_neg Bool.false_ne_true, if_neg (by omega)]
  dsimp only
  rw [if_pos c]

theorem exec_bar2Read_word (base : s.getF ⟨Reg.MEM_DBG_BASE, 0, 4⟩ < 12) (served : s.pcState (s.bar2Pc a.toNat) = 1)
    (calm : s.bit F.MEM_STATUS_CHANGING = false) :
    exec (.bar2Read a) s = .next ((s.send (.bar2Data a.toNat (s.hbmWordAt (s.bar2Pc a.toNat) (s.bar2Local a.toNat)))).offer 11
      { pc := s.bar2Pc a.toNat, write := false, addr := s.bar2Local a.toNat / 64 * 64, bytes := 64, data := [] }) := by
  have e : exec (.bar2Read a) s = execBar2Read a s := rfl
  rw [e, execBar2Read, h, Bool.not_true, if_neg Bool.false_ne_true, if_neg (by omega)]
  dsimp only
  rw [if_neg (by simp [served, calm])]

end Window

theorem State.offer_frame (s : State) (r : Nat) (q : MemReq) :
    (s.offer r q).out = s.out ∧ (s.offer r q).regs = s.regs ∧ (s.offer r q).mem = s.mem := by
  unfold State.offer
  split <;> exact ⟨rfl, rfl, rfl⟩

/-! ### Transactions (R281, R282, R284) -/

@[simp] theorem State.pool_setPool (s : State) (p : Nat) (l : List PoolEntry) : (s.setPool p l).pool p = l :=
  sparseGet_set_same ..

theorem State.pool_setPool_other (s : State) {p q : Nat} (l : List PoolEntry) (h : q ≠ p) : (s.setPool p l).pool q = s.pool q :=
  sparseGet_set_other _ _ _ h

theorem State.pool_congr {s t : State} (h : t.mem.pools = s.mem.pools) (p : Nat) : t.pool p = s.pool p := by
  rw [State.pool, State.pool, h]

/-- A write of a whole block that completes leaves its pool empty and its bytes in the stack. -/
theorem State.transactionDone_block {s : State} {p : Nat} {e : PoolEntry} (only : s.pool p = [e]) (write : e.write = true)
    (whole : e.data.length = 64) :
    (s.transactionDone p 0).pool p = [] ∧ (∀ q, q ≠ p → (s.transactionDone p 0).pool q = s.pool q) ∧
      sparseGet (fun _ => []) (s.transactionDone p 0).mem.blocks (blockKey p e.addr) = e.data := by
  have block : e.block p = e.data := by simp [PoolEntry.block, whole]
  have done : s.transactionDone p 0 = { s.setPool p [] with mem := { (s.setPool p []).mem with
      blocks := sparseSet (fun _ => []) (s.setPool p []).mem.blocks (blockKey p e.addr) e.data } } := by
    simp [State.transactionDone, only, write, block]
  have pools : (s.transactionDone p 0).mem.pools = (s.setPool p []).mem.pools := by rw [done]
  refine ⟨?_, fun q hq => ?_, ?_⟩
  · rw [State.pool_congr pools, State.pool_setPool]
  · rw [State.pool_congr pools, State.pool_setPool_other _ _ hq]
  · rw [done]
    exact sparseGet_set_same ..

/-- A word of a stored block (R280). -/
theorem State.hbmWordAt_stored {s : State} {p a : Nat} (aligned : a % 64 = 0) {bytes : List Byte} (some : bytes ≠ [])
    (stored : sparseGet (fun _ => []) s.mem.blocks (blockKey p a) = bytes) (w : Fin 16) :
    s.hbmWordAt p (a + 4 * w) = BitVec.ofNat 32 (leNat (sliceBytes bytes (4 * w) 4)) := by
  have key : blockKey p (a + 4 * w) = blockKey p a := by
    have := w.isLt
    unfold blockKey
    omega
  have place : (a + 4 * w.val) % 64 / 4 * 4 = 4 * w := by omega
  unfold State.hbmWordAt
  rw [key, stored, place]
  cases bytes with
  | nil => exact absurd rfl some
  | cons => rfl

/-- Settles O46: a case for each clause, from the equations of GO, FREQ_DONE, the passes, the debug window and transactions. -/
theorem frequencyTrackingWindow : Obligations.FrequencyTrackingWindow := by
  unfold Obligations.FrequencyTrackingWindow
  refine ⟨?started, ?refused, ?deferred, ?begins, ?done, ?pass, ?ends, ?centre, ?bar2Write, ?above, ?void, ?word, ?block, ?quota⟩
  case started =>
    rintro s v h go point ⟨lives, change, deferred, track⟩ calm
    have accepted := (s.freqOpen_iff v).mpr ⟨lives, calm, change, deferred, point⟩
    obtain ⟨changing, -, effect, regs, mem⟩ :=
      (s.setF F.MEM_FREQ_POINT (fieldOf v 0 2)).startChange_spec (fieldOf v 0 2) s.time.clk
    refine ⟨_, exec_freqGo h v, ?_⟩
    rw [State.freqWrite_started go accepted track]
    refine ⟨changing, by rw [mem]; rfl, ?_, ?_, fun o ho => ?_⟩
    · exact (congrArg (fun w => fieldOf w 0 2) (regs Reg.MEM_FREQ (by decide))).trans (s.getF_freqPoint v)
    · exact effect.trans (State.getF_setF_other _ _ _ _ (by decide) (by decide))
    · rw [List.mem_cons, not_or] at ho
      obtain ⟨freq, others⟩ := ho
      rw [regs o others, State.reg_setF_other _ _ _ freq]
  case refused =>
    intro s v h go why
    have closed : (s.setF F.MEM_FREQ_POINT (fieldOf v 0 2)).freqOpen = false := by
      rw [Bool.eq_false_iff, ne_eq, State.freqOpen_iff]
      rintro ⟨lives, calm, change, deferred, point⟩
      rcases why with w | w | w | ⟨p, w⟩ | w
      · exact w lives
      · exact w change
      · exact w deferred
      · obtain ⟨notFrozen, notReleasing⟩ := calm p
        exact w.elim notFrozen notReleasing
      · exact point w
    refine ⟨_, exec_freqGo h v, ?_⟩
    rw [State.freqWrite_refused go closed]
    refine ⟨State.bit_hwSet_same _ rfl rfl (by decide), fun o ho => ?_, by rw [State.hwSet_mem, State.setF_mem]⟩
    rw [List.mem_cons, not_or] at ho
    obtain ⟨freq, others⟩ := ho
    rw [State.sameRegsBut_hwSet _ rfl o others, State.reg_setF_other _ _ _ freq]
  case deferred =>
    rintro s v n h go point ⟨lives, change, deferred, track⟩ calm
    have accepted := (s.freqOpen_iff v).mpr ⟨lives, calm, change, deferred, point⟩
    refine ⟨_, exec_freqGo h v, ?_⟩
    rw [State.freqWrite_deferred go accepted (by rw [track]; rfl)]
    exact State.deferChange_spec ..
  case begins =>
    intro s point go deferred done
    refine ⟨_, exec_freqDeferredStart deferred, ?_⟩
    obtain ⟨changing, waits, -, regs, mem⟩ := s.endTracking.startChange_spec point go
    rw [State.endTracking_done done] at changing waits regs mem ⊢
    refine ⟨waits, changing, by rw [mem]; rfl, by rw [mem], by rw [mem], fun o ho => ?_⟩
    exact (regs o ho).trans (State.sameRegsBut_setF s F.MEM_STATUS_TRAINING _ o ho)
  case done =>
    intro s c sweeps change point runs opened
    obtain ⟨effect, states⟩ := State.memClocksOpen_spec point opened
    obtain ⟨kept, changing, event, rows⟩ := s.resumesAt_spec c
    have recentred := (Leaves.refl (P := BesideTimings) (s.resumesAt c)).foldl (List.range 64)
      (f := fun s p => s.recentre p (sweeps.getD p [])) fun t p _ h => h.recentre (fun _ h => h) p _
    refine ⟨_, exec_freqDone change runs sweeps, ?_, ?_, ?_, ?_, fun p => ⟨?_, ?_⟩⟩
    · rw [recentred.getF _ (Or.inl (by decide)), kept, effect]
    · rw [recentred.bit _ (Or.inl (by decide)), changing]
    · rw [recentred.bit _ (Or.inl (by decide)), event]
    · exact foldl_same (fun s : State => s.mem.change) _ (fun _ _ => State.change_recentre ..) _ _
    all_goals obtain ⟨state, refresh⟩ := states p
    · rw [State.pcState, recentred.getF _ (besideTimings_pcState p), rows.getF _ ⟨p, rfl⟩]
      exact state
    · rw [recentred.bit _ (besideTimings_pcState p), rows.bit _ ⟨p, rfl⟩, refresh]
  case pass =>
    rintro s maps n ho period ⟨change, track⟩
    exact ⟨_, exec_trackPass ho period change track maps n, rfl,
      State.bit_setBit_same s F.MEM_STATUS_TRAINING true (by decide) rfl,
      fun p => s.pcState_setF_below (f := F.MEM_STATUS_TRAINING) _ p (by decide)⟩
  case ends =>
    rintro s p t track last rfl
    exact State.trackTick_ends_spec track last
  case centre =>
    intro old map h
    refine ⟨trackCentre_near h map, ?_, ?_⟩
    · rintro rfl
      exact trackCentre_allOnes h
    · rintro rfl
      exact trackCentre_zero old
  case bar2Write =>
    intro s h
    obtain ⟨fault, regs, -⟩ := s.hwSet_fltHost_spec (f := F.FLT_HOST_BAR2_WRITE) rfl rfl (by decide)
    exact ⟨_, exec_bar2Write h, fault, regs, State.hwSet_mem ..⟩
  case above => exact fun s a h base => ⟨_, exec_bar2Read_above h base, rfl, rfl⟩
  case void =>
    rintro s a g p h base rfl rfl void
    obtain ⟨fault, regs, -⟩ := s.hwSet_spec (f := F.MEM_EVENTS_DBG_VOID) rfl rfl (by decide)
    have out : (s.hwSet F.MEM_EVENTS_DBG_VOID).out = s.out := by
      rw [State.hwSet_of_no_vector s rfl, State.setF_out, State.countOcc_out]
    exact ⟨_, exec_bar2Read_void h base void, by simp only [State.send, out], fault, regs⟩
  case word =>
    intro s a h base served calm
    obtain ⟨out, regs, mem⟩ := State.offer_frame
      (s.send (.bar2Data a.toNat (s.hbmWordAt (s.bar2Pc a.toNat) (s.bar2Local a.toNat)))) 11
      { pc := s.bar2Pc a.toNat, write := false, addr := s.bar2Local a.toNat / 64 * 64, bytes := 64, data := [] }
    exact ⟨_, exec_bar2Read_word h base served calm, out, regs, mem⟩
  case block =>
    rintro s p e w t only ⟨write, aligned, whole⟩ rfl
    obtain ⟨empty, others, stored⟩ := State.transactionDone_block only write whole
    exact ⟨empty, State.hbmWordAt_stored aligned (by rintro e; simp [e] at whole) stored w,
      fun q hq => others q (Fin.val_ne_of_ne hq)⟩
  case quota =>
    intro s st ho made
    obtain ⟨round, len, unmasked, -⟩ := s.startWindow_spec st
    exact ⟨_, exec_quotaWindowEnd_over ho made, round, len, fun r => unmasked r, rfl, rfl⟩

end Sys2Proof.Machine
end

section
/-! PROOF. The record of a freeze in the clock of an erase (spec/11_memory_and_shuttle.md R289,
spec/15_startup_and_black_box.md R382, R383). -/

namespace Sys2Proof.Machine

/-- An engine in IDLE whose pseudo-channel 0 is in service, and whose black box the present clock has erased. -/
def erasedInService : State :=
  ((State.reset.setF F.DEV_STATE_CUR EngState.idle.code).setF (F.MEM_PC_STATE_STATE 0) 1).erase

/-- An uncorrectable error in column 0 of row 0 of bank 0. -/
def uncorrectable : HbmError := ⟨1, 0, 0, 0, 0, 0, 0⟩

/-- The freeze of pseudo-channel 0 leaves the ERASED record alone in the ring. -/
theorem ringKindsOf_erasedInService :
    ringKindsOf (exec (.hbmFreeze 0 uncorrectable []) erasedInService) = [(0x0B, 3)] := by
  decide +kernel

/-- Refutes O45: a record made in the clock of an erase belongs to the store that was erased (R383, log 68), and the statement
does not ask that its clock has erased nothing (that `bbx.erased` is none). In the counterexample a pseudo-channel freezes in the
clock in which the black box of an engine in IDLE is erased: the ring holds the ERASED record, and none of the freeze. -/
theorem not_hbmFreezes : ¬ Obligations.HbmFreezes := by
  unfold Obligations.HbmFreezes
  rintro ⟨-, freezes, -⟩
  obtain ⟨t, ht, -, -, -, -, -, -, -, -, -, -, recorded⟩ := freezes erasedInService 0 uncorrectable (by decide +kernel)
    (by decide +kernel) (by decide +kernel) (by decide +kernel)
  have frozen := mem_ringKindsOf ht (src := 7) (code := 3) (by simp +contextual) recorded
  rw [ringKindsOf_erasedInService] at frozen
  exact absurd frozen (by decide)

end Sys2Proof.Machine
end

section
/-! PROOF. What every step of the machine keeps (spec/95_what_each_step_holds.md), and the state after reset
(spec/18_register_map.md R433, R434). -/

namespace Sys2Proof.Machine

/-- Settles O1: the equation of a step with a command waiting. -/
theorem stepRunsFront : Obligations.StepRunsFront := by
  unfold Obligations.StepRunsFront
  exact fun s c rest h => step_of_front h

/-- After reset no register is listed, so that each reads its reset value. -/
theorem State.reset_reg (off : Nat) : State.reset.reg off = resetValue off := rfl

/-- Settles O3: the register file of the reset state lists nothing, and the map's own values are read. -/
theorem resetState : Obligations.ResetState := by
  unfold Obligations.ResetState
  have id : resetValue Reg.DEV_ID = 0x53486404#32 := by decide +kernel
  have cur : State.reset.cur = .reset := by decide +kernel
  exact ⟨State.reset_reg, (State.reset_reg _).trans id, cur, rfl, rfl, rfl, fun c h => absurd h List.not_mem_nil⟩

/-- Settles O4: a fabric clock and every command keep the canonical form. -/
theorem stepKeepsRegisterFile : Obligations.StepKeepsRegisterFile := by
  unfold Obligations.StepKeepsRegisterFile
  intro s t canon h
  cases hp : s.pending with
  | nil =>
    rw [step_of_idle hp] at h
    obtain rfl := Host.Outcome.next.inj h
    obtain ⟨-, -, keeps, -⟩ := tick_keeps s
    exact keeps canon
  | cons c rest =>
    rw [step_of_front hp] at h
    exact (keeps_of_exec h).canon canon

/-- Settles O5: a fabric clock leaves the empty queue and advances the clock, a command takes its place in the queue alone. -/
theorem stepTakesOneCommand : Obligations.StepTakesOneCommand := by
  unfold Obligations.StepTakesOneCommand
  intro s t h
  cases hp : s.pending with
  | nil =>
    rw [step_of_idle hp] at h
    obtain rfl := Host.Outcome.next.inj h
    obtain ⟨queue, clock, -, -⟩ := tick_keeps s
    exact ⟨queue.trans hp, by rw [clock, if_pos rfl]⟩
  | cons c rest =>
    rw [step_of_front hp] at h
    have k := keeps_of_exec h
    exact ⟨k.queue, by rw [k.clock, if_neg (List.cons_ne_nil c rest), Nat.add_zero]⟩

/-- Settles O7: what waits after a step waited before it. -/
theorem queueStaysWellFormed : Obligations.QueueStaysWellFormed := by
  unfold Obligations.QueueStaysWellFormed
  intro s t wf h c hc
  obtain ⟨queue, -⟩ := stepTakesOneCommand s t h
  exact wf c (List.mem_of_mem_tail (queue ▸ hc))

end Sys2Proof.Machine
end

section
/-! PROOF. Every command completes, but for the three operands of log 97 (spec/95_what_each_step_holds.md). -/

namespace Sys2Proof.Machine

/-- The commands with an operand that can have the wrong length: a payload, a run of samples, the bytes of a burst. -/
def mayFault : Instr → Bool
  | .recordMade .. | .segmentClose .. | .dmaBurstStart .. => true
  | _ => false

theorem exec_completes_of_not_mayFault {c : Instr} (h : mayFault c = false) (s : State) : ∃ t, exec c s = .next t := by
  cases c
  case recordMade => cases h
  case segmentClose => cases h
  case dmaBurstStart => cases h
  all_goals exact ⟨_, rfl⟩

/-- A record of at most 32 payload bytes is made (R372, R375). -/
theorem exec_recordMade_completes (source : Byte) (code : BitVec 16) {p : List Byte} (h : p.length ≤ 32) (s : State) :
    ∃ t, exec (.recordMade source code p) s = .next t :=
  ⟨_, if_neg (Nat.not_lt.mpr h)⟩

/-- A segment ends when its stored run can be cut from the samples (R230). -/
theorem exec_segmentClose_completes {c : Fin 1024} {n : Nat} {raw : List (BitVec 10)} {s : State}
    (h : ∀ r, s.openRec c = some r →
      s.cutOut r (laneOutputs (s.lane r.lane) (s.correctRun ((s.ctxChannel c).getD 0) n (raw.map (·.toInt))))
        (decide (n + 5 ≤ (((s.lane r.lane).eras.getLast?).map (·.start)).getD 0)) ≠ none) :
    ∃ t, exec (.segmentClose c n raw) s = .next t := by
  show ∃ t, execSegmentClose c n raw s = .next t
  unfold execSegmentClose
  split
  next => exact ⟨_, rfl⟩
  next r hr =>
    have cuts := h r hr
    dsimp only
    split
    next uncut =>
      refine absurd ?_ cuts
      rw [← uncut]
      cases (s.lane r.lane).eras.getLast? <;> rfl
    next => exact ⟨_, rfl⟩

/-- A burst toward memory has enough bytes: a descriptor, or what it asks of the oldest request of a PACED channel. -/
def State.enoughRead (s : State) (data : List Byte) : Prop :=
  ∀ ch, s.burstsOpen = true → s.arbPick false = some ch →
    (ch < 4 → 16 ≤ data.length) ∧
    (4 ≤ ch → (s.chan ch).gone = none → ∀ p l, (s.chan ch).paced = p :: l →
      s.burstLen ch p.left 0 p.left p.addr ≤ data.length)

/-- A PACED channel's burst fails only for want of bytes. -/
theorem State.pacedBurst_isSome {s : State} {ch : Nat} {data : List Byte}
    (h : (s.chan ch).gone = none → ∀ p l, (s.chan ch).paced = p :: l →
      s.burstLen ch p.left 0 p.left p.addr ≤ data.length) : (s.pacedBurst ch data).isSome = true := by
  unfold State.pacedBurst
  dsimp only
  split
  next => rfl
  next => rfl
  next p l gone paced => rw [if_neg (Nat.not_lt.mpr (h gone p l paced))]; rfl

theorem exec_dmaBurstStart_completes {toHost : Bool} {data : List Byte} {s : State}
    (h : toHost = false → s.enoughRead data) : ∃ t, exec (.dmaBurstStart toHost data) s = .next t := by
  show ∃ t, execDmaBurstStart toHost data s = .next t
  unfold execDmaBurstStart
  split
  next => exact ⟨_, rfl⟩
  next isOpen =>
    split
    next => exact ⟨_, rfl⟩
    next ch pick =>
      split
      next => exact ⟨_, rfl⟩
      next toMemory =>
        obtain rfl : toHost = false := by simpa using toMemory
        obtain ⟨descriptors, paced⟩ := h rfl ch (by simpa using isOpen) pick
        split
        next prefetch =>
          split
          next => exact ⟨_, if_neg (Nat.not_lt.mpr (descriptors prefetch))⟩
          next => exact ⟨_, rfl⟩
        next delivers =>
          obtain ⟨t, ht⟩ := Option.isSome_iff_exists.mp (State.pacedBurst_isSome (paced (Nat.not_lt.mp delivers)))
          rw [ht]
          exact ⟨_, rfl⟩

/-- A command answers a next state or stops with a fault. -/
theorem exec_next_or_fault (c : Instr) (s : State) : (∃ t, exec c s = .next t) ∨ ∃ f, exec c s = .fault f := by
  cases hc : mayFault c with
  | false => exact .inl (exec_completes_of_not_mayFault hc s)
  | true =>
    cases c
    case recordMade source code p =>
      by_cases h : p.length ≤ 32
      · exact .inl (exec_recordMade_completes source code h s)
      · exact .inr ⟨_, if_pos (Nat.not_le.mp h)⟩
    case segmentClose c n raw =>
      show (∃ t, execSegmentClose c n raw s = .next t) ∨ ∃ f, execSegmentClose c n raw s = .fault f
      unfold execSegmentClose
      split
      next => exact .inl ⟨_, rfl⟩
      next =>
        dsimp only
        split
        next => exact .inr ⟨_, rfl⟩
        next => exact .inl ⟨_, rfl⟩
    case dmaBurstStart toHost data =>
      show (∃ t, execDmaBurstStart toHost data s = .next t) ∨ ∃ f, execDmaBurstStart toHost data s = .fault f
      unfold execDmaBurstStart
      split
      next => exact .inl ⟨_, rfl⟩
      next =>
        split
        next => exact .inl ⟨_, rfl⟩
        next ch _ =>
          split
          next => exact .inl ⟨_, rfl⟩
          next =>
            split
            next =>
              split
              next => split <;> simp
              next => exact .inl ⟨_, rfl⟩
            next => cases s.pacedBurst ch data <;> simp
    all_goals cases hc

/-- Settles O8: only three commands can fault, and each of them completes when its operand has the length it needs. -/
theorem nothingRefused : Obligations.NothingRefused := by
  unfold Obligations.NothingRefused
  intro s c
  refine ⟨fun r refused => ?_, fun payload samples paced prefetch => ?_⟩
  · rcases exec_next_or_fault c s with ⟨t, ht⟩ | ⟨f, hf⟩
    · cases ht.symm.trans refused
    · cases hf.symm.trans refused
  · cases hc : mayFault c with
    | false => exact exec_completes_of_not_mayFault hc s
    | true =>
      cases c
      case recordMade source code p => exact exec_recordMade_completes source code (payload _ _ _ rfl) s
      case segmentClose c n raw => exact exec_segmentClose_completes (fun r hr => samples c n raw r rfl hr)
      case dmaBurstStart toHost data =>
        refine exec_dmaBurstStart_completes fun hto ch isOpen pick => ?_
        subst hto
        exact ⟨fun low => prefetch data ch rfl isOpen pick low,
          fun high gone p l hp => paced data ch p l rfl isOpen pick high gone hp⟩
      all_goals cases hc

end Sys2Proof.Machine
end

section
/-! PROOF. The MSI-X vectors (spec/12_host_port_and_delivery.md R305, R324, spec/17_faults_and_ordering.md R421). -/

namespace Sys2Proof.Machine

theorem State.SameRegsBut.getF {s t : State} {l : List Nat} (h : s.SameRegsBut t l) {f : Fld} (hf : f.off ∉ l) :
    t.getF f = s.getF f := by
  simp only [State.getF, h _ hf]

theorem State.SameRegsBut.bit {s t : State} {l : List Nat} (h : s.SameRegsBut t l) {f : Fld} (hf : f.off ∉ l) :
    t.bit f = s.bit f := by
  simp only [State.bit, h.getF hf]

/-! ### One vector -/

theorem State.raiseVector_sends {s : State} {v : Nat} (hm : s.bit (F.DMA_MSIX_MASK v) = false) (hd : s.board.d3hot = false) :
    s.raiseVector v = s.send (.msix v (s.msixAddr v) (s.reg (Reg.DMA_MSIX_DATA v))) := by
  rw [State.raiseVector, hm, hd, Bool.or_self, if_neg Bool.false_ne_true]

theorem State.raiseVector_pends {s : State} {v : Nat} (h : s.bit (F.DMA_MSIX_MASK v) = true ∨ s.board.d3hot = true) :
    s.raiseVector v = s.setBit (F.DMA_PBA_BIT v) true := by
  rw [State.raiseVector, if_pos (by simpa using h)]

/-- Pending bits are read apart from each other. -/
theorem State.bit_setPba (s : State) (v w : Nat) (b : Bool) :
    (s.setBit (F.DMA_PBA_BIT v) b).bit (F.DMA_PBA_BIT w) = if w = v then b else s.bit (F.DMA_PBA_BIT w) := by
  have fits : (F.DMA_PBA_BIT v).lo + (F.DMA_PBA_BIT v).w ≤ 32 := by
    show v % 32 + 1 ≤ 32
    omega
  split
  next e => rw [e, State.bit_setBit_same _ _ _ fits rfl]
  next apart =>
    refine State.bit_setBit_other _ _ _ _ fits ?_
    show 0x129000 + 4 * (w / 32) ≠ 0x129000 + 4 * (v / 32) ∨ w % 32 + 1 ≤ v % 32 ∨ v % 32 + 1 ≤ w % 32
    omega

theorem notMem_pba_of_lt {o : Nat} (h : o < 0x129000) : o ∉ pbaRegs := by
  simp only [pbaRegs, List.mem_cons, List.not_mem_nil, or_false]
  omega

/-! ### The return to D0 (R305) -/

/-- The vectors below n that are pending and not masked. -/
def State.dueVectors (s : State) (n : Nat) : List Nat :=
  (List.range n).filter (fun v => s.bit (F.DMA_PBA_BIT v) && !s.bit (F.DMA_MSIX_MASK v))

/-- The message of a vector. -/
def State.message (s : State) (v : Nat) : Output := .msix v (s.msixAddr v) (s.reg (Reg.DMA_MSIX_DATA v))

/-- The state t in which the vectors of s below n have been released. -/
structure Released (s : State) (n : Nat) (t : State) : Prop where
  board : t.board = s.board
  out : t.out = s.out ++ (s.dueVectors n).map s.message
  regs : s.SameRegsBut t pbaRegs
  pending : ∀ v, t.bit (F.DMA_PBA_BIT v) = (s.bit (F.DMA_PBA_BIT v) && (s.bit (F.DMA_MSIX_MASK v) || decide (n ≤ v)))

theorem Released.masked {s t : State} {n : Nat} (h : Released s n t) (hn : n < 64) :
    t.bit (F.DMA_MSIX_MASK n) = s.bit (F.DMA_MSIX_MASK n) := by
  refine h.regs.bit (notMem_pba_of_lt ?_)
  show 0x12800C + 16 * n < 0x129000
  omega

theorem Released.message {s t : State} {n : Nat} (h : Released s n t) (hn : n < 64) : t.message n = s.message n := by
  have entry (o : Nat) (ho : o < 0x128010) : t.reg (o + 16 * n) = s.reg (o + 16 * n) := h.regs _ (notMem_pba_of_lt (by omega))
  have data : t.reg (Reg.DMA_MSIX_DATA n) = s.reg (Reg.DMA_MSIX_DATA n) := entry 0x128008 (by decide)
  have lo : t.reg (Reg.DMA_MSIX_ADDR_LO n) = s.reg (Reg.DMA_MSIX_ADDR_LO n) := entry 0x128000 (by decide)
  have hi : t.reg (Reg.DMA_MSIX_ADDR_HI n) = s.reg (Reg.DMA_MSIX_ADDR_HI n) := entry 0x128004 (by decide)
  simp only [State.message, State.msixAddr, data, lo, hi]

theorem Released.next {s t : State} {n : Nat} (h : Released s n t) (hd : s.board.d3hot = false) (hn : n < 64) :
    Released s (n + 1) (t.releaseVector n) := by
  have awake : t.board.d3hot = false := by rw [h.board, hd]
  have still : t.bit (F.DMA_PBA_BIT n) = s.bit (F.DMA_PBA_BIT n) := by simp [h.pending n]
  have due : s.dueVectors (n + 1) =
      s.dueVectors n ++ if s.bit (F.DMA_PBA_BIT n) && !s.bit (F.DMA_MSIX_MASK n) then [n] else [] := by
    rw [State.dueVectors, List.range_succ, List.filter_append, List.filter_singleton, Bool.cond_eq_ite]
    rfl
  have beyond (v : Nat) (hv : v ≠ n) : decide (n + 1 ≤ v) = decide (n ≤ v) := by
    simp only [decide_eq_decide]
    omega
  unfold State.releaseVector
  rw [still, h.masked hn, awake, Bool.not_false, Bool.and_true]
  split
  next release =>
    obtain ⟨_, unmasked⟩ : s.bit (F.DMA_PBA_BIT n) = true ∧ s.bit (F.DMA_MSIX_MASK n) = false := by simpa using release
    refine ⟨h.board, ?_, ?_, fun v => ?_⟩
    · show t.out ++ [t.message n] = _
      rw [due, if_pos release, List.map_append, h.out, h.message hn, List.append_assoc]
      rfl
    · exact h.regs.trans ((State.sameRegsBut_setF t _ _).mono (by simpa using pbaReg_mem hn))
    · show (t.setBit (F.DMA_PBA_BIT n) false).bit (F.DMA_PBA_BIT v) = _
      rw [State.bit_setPba]
      split
      next e => simp [e, unmasked]
      next hv => rw [h.pending v, beyond v hv]
  next stays =>
    refine ⟨h.board, ?_, h.regs, fun v => ?_⟩
    · rw [due, if_neg stays, List.append_nil, h.out]
    · rw [h.pending v]
      by_cases hv : v = n
      · subst hv
        cases hp : s.bit (F.DMA_PBA_BIT v) <;> simp_all
      · rw [beyond v hv]

theorem State.released (s : State) (hd : s.board.d3hot = false) {n : Nat} (hn : n ≤ 64) :
    Released s n ((List.range n).foldl State.releaseVector s) := by
  induction n with
  | zero => exact ⟨rfl, by simp [State.dueVectors], State.SameRegsBut.refl _ _, by simp⟩
  | succ n ih =>
    rw [List.range_succ, List.foldl_append]
    exact (ih (by omega)).next hd hn

theorem exec_d0Return {s : State} (h : s.board.d3hot = true) : exec .d0Return s =
    .next ((List.range 64).foldl State.releaseVector { s with board := { s.board with d3hot := false } }) := by
  show execD0Return s = _
  rw [execD0Return, if_pos h]

/-- Settles O11: raising a vector has two ways, the return to D0 releases one vector after the other, and a bit of FLT.HOST raises
the vector that VEC_MAP names, a register that setting the bit leaves. -/
theorem vectorsRaised : Obligations.VectorsRaised := by
  unfold Obligations.VectorsRaised
  refine ⟨?sends, ?pends, ?sleeps, ?wakes, ?fault⟩
  case sends => exact fun s v => State.raiseVector_sends
  case pends =>
    intro s v h
    rw [State.raiseVector_pends h, State.bit_setPba, if_pos rfl]
    exact ⟨rfl, rfl, State.sameRegsBut_setF s _ _⟩
  case sleeps => exact fun s up => ⟨_, congrArg Host.Outcome.next (if_pos up), rfl⟩
  case wakes =>
    intro s v h
    obtain ⟨board, out, regs, pending⟩ :=
      State.released { s with board := { s.board with d3hot := false } } rfl (Nat.le_refl 64)
    refine ⟨_, exec_d0Return h, board, ?_, out, regs⟩
    rw [pending v, decide_eq_false (Nat.not_le.mpr v.isLt), Bool.or_false]
    rfl
  case fault =>
    intro s i
    rw [State.hwSet_fltHost s rfl]
    have map : ((s.countOcc (bitFld Reg.FLT_HOST i)).setF (bitFld Reg.FLT_HOST i) 1).getF F.DMA_VEC_MAP_FLT =
        s.getF F.DMA_VEC_MAP_FLT := by
      have apart : F.DMA_VEC_MAP_FLT.off ≠ (bitFld Reg.FLT_HOST i).off := by
        show F.DMA_VEC_MAP_FLT.off ≠ Reg.FLT_HOST
        decide
      rw [State.getF, State.reg_setF_other _ _ _ apart, State.reg_countOcc, State.getF]
    rw [map]

end Sys2Proof.Machine
end

section
/-! PROOF. Counters of a clock that has already counted (spec/00_scope.md R10): PACED requests withdrawn, control frames, frames of
the display, cells of the tenon. -/

namespace Sys2Proof.Machine

/-- The clock has marked one addition to the RCL register at an offset, on a count of 0; the register stays as it is. -/
def State.marksOne (s : State) (off : Nat) : State := { s with time := { s.time with addNow := [(off, 0, 1)] } }

/-- The register at an offset behind a command that completes. -/
def regAfter (o : Result) (off : Nat) : Option Word :=
  match o with
  | .next t => some (t.reg off)
  | _ => none

theorem reg_of_regAfter {o : Result} {t : State} {off : Nat} {v : Word} (h : regAfter o off = some v) (ht : o = .next t) :
    t.reg off = v := by
  rw [ht] at h
  exact Option.some.inj h

/-! ### PACED requests -/

/-- An overlay line of which a burst has started. -/
def startedLine : PacedReq := { layer := 1, line := 4, addr := 0x1000, left := 100, got := [], started := true }

/-- PACED channel 9 with that line, in a clock that has counted a withdrawal. -/
def withdrawnBefore : State :=
  (State.reset.setChan 9 { ChanSt.init with paced := [startedLine] }).marksOne (Reg.DMA_CH_WITHDRAWN 9)

theorem withdrawn_after_withdrawnBefore :
    regAfter (exec (.pacedWithdraw 9) withdrawnBefore) (Reg.DMA_CH_WITHDRAWN (9 : Fin 32)) = some 2 := by
  decide +kernel

/-- Refutes O52: a withdrawal adds to what CHn.WITHDRAWN held before those of its clock (R10, R329), and the statement does not ask
that the register shows those withdrawals (that no `addedNow` of it says otherwise). In the counterexample the clock has marked
one withdrawal on a count of 0 and the register reads 0: the next one makes it 2. -/
theorem not_pacedWithdrawals : ¬ Obligations.PacedWithdrawals := by
  unfold Obligations.PacedWithdrawals
  rintro ⟨withdraws, -⟩
  have shown : withdrawnBefore.reg (Reg.DMA_CH_WITHDRAWN (9 : Fin 32)) = 0 := by decide +kernel
  obtain ⟨t, ht, -, -, counts, -⟩ := withdraws withdrawnBefore 9 startedLine [] (by decide +kernel)
  obtain ⟨counted, -⟩ := counts rfl
  rw [reg_of_regAfter withdrawn_after_withdrawnBefore ht, shown] at counted
  exact absurd counted (by decide)

/-- PACED channel 9 of an engine in IDLE, whose request is withdrawn in a clock that has counted another withdrawal. -/
def goneBefore : State :=
  (((State.reset.setF F.DEV_STATE_CUR EngState.idle.code).setReg (Reg.DMA_CH_CFG 9) 2).setChan 9
    { ChanSt.init with gone := some startedLine }).marksOne (Reg.DMA_CH_WITHDRAWN 9)

theorem withdrawn_after_goneBefore :
    regAfter (exec (.dmaBurstStart false []) goneBefore) (Reg.DMA_CH_WITHDRAWN 9) = some 2 := by
  decide +kernel

/-- Refutes O49, for the same reason: the burst of a request withdrawn in its clock counts in CHn.WITHDRAWN (R330). In the
counterexample the clock has marked one withdrawal on a count of 0 and the register reads 0: the burst makes it 2. -/
theorem not_deliveryBursts : ¬ Obligations.DeliveryBursts := by
  unfold Obligations.DeliveryBursts
  rintro ⟨-, -, -, -, -, -, -, withdrawn, -⟩
  have shown : goneBefore.reg (Reg.DMA_CH_WITHDRAWN 9) = 0 := by decide +kernel
  obtain ⟨t, ht, -, -, -, counted, -⟩ := withdrawn goneBefore [] 9 startedLine _ (by decide +kernel) (by decide +kernel)
    (by decide) (by decide +kernel) rfl
  rw [reg_of_regAfter withdrawn_after_goneBefore ht, shown] at counted
  exact absurd counted (by decide)

/-! ### The stream port -/

/-- An UP stream port, in a clock that has counted an uncorrectable codeword. -/
def uncorrectableBefore : State := (State.reset.setF F.STRM_STATUS_STATE 3).marksOne Reg.STRM_FEC_UNCORR

theorem uncorrectable_after_uncorrectableBefore :
    regAfter (exec .rxFecUncorrectable uncorrectableBefore) Reg.STRM_FEC_UNCORR = some 2 := by
  decide +kernel

/-- Refutes O54: an uncorrectable codeword adds to what STRM.FEC_UNCORR held before those of its clock (R10, R333), and the
statement does not ask that the register shows them. In the counterexample the clock has marked one codeword on a count of 0 and
the register reads 0: the next one makes it 2. -/
theorem not_streamPort : ¬ Obligations.StreamPort := by
  unfold Obligations.StreamPort
  rintro ⟨-, -, -, -, -, -, -, -, -, -, -, counts⟩
  have shown : uncorrectableBefore.reg Reg.STRM_FEC_UNCORR = 0 := by decide +kernel
  obtain ⟨t, ht, counted, -⟩ := counts uncorrectableBefore (by decide +kernel)
  rw [reg_of_regAfter uncorrectable_after_uncorrectableBefore ht, shown] at counted
  exact absurd counted (by decide)

/-! ### The display -/

/-- A display that sends a black frame, in a clock that has counted another. -/
def blackBefore : State :=
  let s := (State.reset.setF F.DEV_STATE_CUR EngState.idle.code).setBit F.DEV_CAPS_DISPLAY true
  let s := s.setF F.DISP_STATUS_STATE dispBlank
  ({ s with disp := { s.disp with timing := [320] } } : State).marksOne Reg.DISP_CRC_VOID

theorem void_after_blackBefore :
    regAfter (exec (.verticalBlank ⟨[], []⟩) blackBefore) Reg.DISP_CRC_VOID = some 2 := by
  decide +kernel

/-- Refutes O56: a black frame adds to what DISP.CRC_VOID held before those of its clock (R10, R351), and the statement does not ask
that the register shows them. In the counterexample the clock has marked one black frame on a count of 0 and the register reads
0: the blank makes it 2. -/
theorem not_displayFrames : ¬ Obligations.DisplayFrames := by
  unfold Obligations.DisplayFrames
  rintro ⟨-, black, -⟩
  have shown : blackBefore.reg Reg.DISP_CRC_VOID = 0 := by decide +kernel
  obtain ⟨t, ht, counted, -⟩ := black blackBefore ⟨[], []⟩ (by decide +kernel) (by decide +kernel)
  rw [reg_of_regAfter void_after_blackBefore ht, shown] at counted
  exact absurd counted (by decide)

/-! ### The pair -/

/-- A tenon link that is up, in a clock that has counted a cell with a bad CRC. -/
def badCellBefore : State := (State.reset.setBit F.PAIR_STATUS_LINK_UP true).marksOne Reg.PAIR_CELL_BAD

/-- A heartbeat cell whose CRC is bad. -/
def badBeat : Instr := .heartbeat ⟨false, 0, 0, none⟩ ⟨0, false, false, 0, 0⟩

theorem cellBad_after_badCellBefore : regAfter (exec badBeat badCellBefore) Reg.PAIR_CELL_BAD = some 2 := by
  decide +kernel

/-- Refutes O59: a cell with a bad CRC adds to what PAIR.CELL_BAD held before those of its clock (R10, R391), and the statement does
not ask that the register shows them. In the counterexample the clock has marked one such cell on a count of 0 and the register
reads 0: the next one makes it 2. -/
theorem not_pairProtocol : ¬ Obligations.PairProtocol := by
  unfold Obligations.PairProtocol
  rintro ⟨-, bad, -⟩
  have shown : badCellBefore.reg Reg.PAIR_CELL_BAD = 0 := by decide +kernel
  obtain ⟨t, ht, counted, -⟩ := bad badCellBefore ⟨false, 0, 0, none⟩ ⟨0, false, false, 0, 0⟩ ⟨0, false, false, false, [], []⟩
    ⟨0, [], []⟩ 0 0 badBeat rfl (by decide +kernel) rfl
  rw [reg_of_regAfter cellBad_after_badCellBefore ht, shown] at counted
  exact absurd counted (by decide)

end Sys2Proof.Machine
end

section
/-! PROOF. Accesses of the registers of a delivery queue (spec/12_host_port_and_delivery.md R321, R322), and the record of a fatal
fault in the clock of an erase (spec/15_startup_and_black_box.md R383, spec/17_faults_and_ordering.md R419). -/

namespace Sys2Proof.Machine

/-- An engine in IDLE with its PCIe link up. -/
def linkedIdle : State :=
  let s := State.reset.setF F.DEV_STATE_CUR EngState.idle.code
  { s with board := { s.board with pcieUp := true } }

/-- What is sent last by a command that completes. -/
def lastOutput (o : Result) : Option Output :=
  match o with
  | .next t => t.out.getLast?
  | _ => none

/-- A word of 4 is latched for DQ0.STATUS. -/
def latchedStatus : State := linkedIdle.latch (Reg.DMA_DQ_STATUS 0) 4

theorem lastOutput_latchedStatus :
    lastOutput (exec (.latchingRead (Reg.DMA_DQ_STATUS (0 : Fin 64)) (.enables 0xF)) latchedStatus) =
      some (.readData (Reg.DMA_DQ_STATUS (0 : Fin 64)) 4) := by
  decide +kernel

/-- Refutes O50: a read returns the word that is latched for its register, where one is (R81, log 16), and the statement does not
ask that none is latched for DQq.STATUS. In the counterexample a word with bit 2 set is, and the completion ring is empty. -/
theorem not_fullCompletionRing : ¬ Obligations.FullCompletionRing := by
  unfold Obligations.FullCompletionRing
  rintro ⟨-, shows⟩
  obtain ⟨t, ht, full, -⟩ := shows latchedStatus 0 (by decide +kernel) (by decide +kernel) (by decide +kernel)
  have last := lastOutput_latchedStatus
  rw [ht] at last
  have sent : t.out.getLast? = some (.readData (Reg.DMA_DQ_STATUS (0 : Fin 64)) 4) := last
  rw [sent] at full
  exact absurd full (by decide +kernel)

/-- The register file behind a command that completes. -/
def regsAfter (o : Result) : Option (Sparse Word) :=
  match o with
  | .next t => some t.regs
  | _ => none

/-- A register file that lists DQ0.COMP_CONS at its reset value. -/
def listedAtReset : State :=
  { linkedIdle with regs := linkedIdle.regs ++ [(Reg.DMA_DQ_COMP_CONS 0, 0)] }

theorem regsAfter_listedAtReset :
    regsAfter (exec (.compCons (0 : Fin 64) 0) listedAtReset) = some linkedIdle.regs := by
  decide +kernel

/-- Refutes O48: a register written with its own value is the same register, but the register file is the same list only where it
lists none at its reset value (R431), and the statement does not ask for that canonical form. In the counterexample the file lists
DQ0.COMP_CONS as 0, its reset value, and the write of 0 takes it off the list. -/
theorem not_deliveryQueues : ¬ Obligations.DeliveryQueues := by
  unfold Obligations.DeliveryQueues
  rintro ⟨-, -, -, -, -, -, again, -⟩
  obtain ⟨t, ht, same, -⟩ := again listedAtReset 0 0 (by decide +kernel) (by decide +kernel)
  have after := regsAfter_listedAtReset
  rw [ht] at after
  have shorter : listedAtReset.regs = linkedIdle.regs := same.symm.trans (Option.some.inj after)
  exact absurd shorter (by decide +kernel)

/-- An engine in IDLE, with no record waiting, in a clock in which the black box has been erased. -/
def erasedAtFault : State :=
  { linkedIdle with bbx := { linkedIdle.bbx with ring := [], erased := some 0 } }

theorem ringKindsOf_erasedAtFault : ringKindsOf (exec (.fatal 0 0) erasedAtFault) = [] := by
  decide +kernel

/-- Refutes O60: a record made in the clock of an erase belongs to the store that was erased (R383, log 68), and the statement does
not ask that its clock has erased nothing (that `bbx.erased` is none). In the counterexample the fatal fault comes in the clock of
an erase: the ring stays empty. -/
theorem not_faultEvents : ¬ Obligations.FaultEvents := by
  unfold Obligations.FaultEvents
  rintro ⟨-, -, fatal, -⟩
  obtain ⟨t, ht, -, -, -, -, -, -, -, -, recorded⟩ := fatal erasedAtFault 0 0 (.inl (by decide +kernel)) (by decide +kernel)
    (by decide +kernel) rfl
  have made := mem_ringKindsOf ht (src := 9) (code := 1) (by simp +contextual) recorded
  rw [ringKindsOf_erasedAtFault] at made
  exact absurd made (by decide)

end Sys2Proof.Machine
end

section
/-! PROOF. DMA channels: bus errors, all-stop, RESUME, RESTART, RESET and CFG (spec/12_host_port_and_delivery.md R311, R325 to R328,
R330). -/

namespace Sys2Proof.Machine

/-! ### What the registers of DMA meet -/

/-- A host write that meets a register of DMA is performed, and no more: DMA is not forwarded (R394). -/
theorem State.hostWrite_dma {s : State} {off : Nat} (h : s.takesWrite off = true) (hb : off / 0x10000 = 0x12) (v : Word)
    (k : State → State) : s.hostWrite off v k = k s :=
  State.hostWrite_local h (by rw [hb]; rfl) v k

/-- A read of one field of a register beside another that is set. -/
theorem State.getF_setF_clear (s : State) {f g : Fld} (n : Nat) (hf : f.lo + f.w ≤ 32)
    (h : g.lo + g.w ≤ f.lo ∨ f.lo + f.w ≤ g.lo) : (s.setF f n).getF g = s.getF g :=
  State.getF_setF_other s f g n hf (.inr h)

/-! ### Bus errors (R326, R327) -/

/-- The registers in which a channel latches a failing request. -/
def errorRegs (ch : Nat) : List Nat := [Reg.DMA_CH_STATUS ch, Reg.DMA_CH_ERR_ADDR_LO ch, Reg.DMA_CH_ERR_ADDR_HI ch]

/-- A failing request stands in the registers of a channel (R326). -/
structure State.ErrorLatched (s : State) (ch : Nat) (addr : BitVec 64) (write : Bool) (cause : Nat) : Prop where
  addr : s.get64 (Reg.DMA_CH_ERR_ADDR_LO ch) = addr.toNat
  write : s.bit (F.DMA_CH_STATUS_DIR ch) = write
  cause : s.getF (F.DMA_CH_STATUS_CAUSE ch) = cause

theorem word_halves (a : BitVec 64) :
    (a.truncate 32 : Word).toNat + 2 ^ 32 * ((a >>> 32).truncate 32 : Word).toNat = a.toNat := by
  have := a.isLt
  simp only [BitVec.truncate_eq_setWidth, BitVec.toNat_setWidth, BitVec.toNat_ushiftRight, Nat.shiftRight_eq_div_pow]
  omega

section

variable {s t : State} {ch : Nat} {addr : BitVec 64} {write : Bool} {cause : Nat}

theorem State.ErrorLatched.of_regs (h : s.ErrorLatched ch addr write cause) {l : List Nat} (k : s.SameRegsBut t l)
    (hl : ∀ o ∈ errorRegs ch, o ∉ l) : t.ErrorLatched ch addr write cause := by
  obtain ⟨status, lo, hi⟩ : Reg.DMA_CH_STATUS ch ∉ l ∧ Reg.DMA_CH_ERR_ADDR_LO ch ∉ l ∧ Reg.DMA_CH_ERR_ADDR_LO ch + 4 ∉ l := by
    refine ⟨hl _ (by simp [errorRegs]), hl _ (by simp [errorRegs]), hl _ ?_⟩
    simp only [errorRegs, Reg.DMA_CH_STATUS, Reg.DMA_CH_ERR_ADDR_LO, Reg.DMA_CH_ERR_ADDR_HI, List.mem_cons, List.not_mem_nil, or_false]
    omega
  exact ⟨(k.get64 lo hi).trans h.addr, (k.bit (f := F.DMA_CH_STATUS_DIR ch) status).trans h.write,
    (k.getF (f := F.DMA_CH_STATUS_CAUSE ch) status).trans h.cause⟩

/-- The state of a channel stands beside what its STATUS latches. -/
theorem State.ErrorLatched.setState (h : s.ErrorLatched ch addr write cause) (n k : Nat) :
    (s.setF (F.DMA_CH_STATUS_STATE n) k).ErrorLatched ch addr write cause := by
  have fits : (F.DMA_CH_STATUS_STATE n).lo + (F.DMA_CH_STATUS_STATE n).w ≤ 32 := by show 0 + 3 ≤ 32; decide
  refine ⟨(State.SameRegsBut.get64 (State.sameRegsBut_setF s _ k) ?_ ?_).trans h.addr, ?_, ?_⟩
  · show 0x12040c + 64 * ch ∉ [0x120408 + 64 * n]
    simp only [List.mem_singleton]
    omega
  · show 0x12040c + 64 * ch + 4 ∉ [0x120408 + 64 * n]
    simp only [List.mem_singleton]
    omega
  · rw [State.bit, State.getF_setF_clear s k fits (.inr (by show 0 + 3 ≤ 16; decide))]
    exact h.write
  · rw [State.getF_setF_clear s k fits (.inr (by show 0 + 3 ≤ 8; decide))]
    exact h.cause

end

theorem State.sameRegsBut_latchBusError (s : State) (ch : Nat) (addr : BitVec 64) (write : Bool) (cause : Nat) :
    s.SameRegsBut (s.latchBusError ch addr write cause) (errorRegs ch) := by
  have addrs : s.SameRegsBut (({ s with board := { s.board with aer := s.board.aer ||| aerBit cause } } : State).setRegs
      [(Reg.DMA_CH_ERR_ADDR_LO ch, addr.truncate 32), (Reg.DMA_CH_ERR_ADDR_HI ch, (addr >>> 32).truncate 32)]) (errorRegs ch) := by
    intro o ho
    refine State.reg_setRegs_other _ ?_
    rintro p hp rfl
    simp only [List.mem_cons, List.not_mem_nil, or_false] at hp
    obtain rfl | rfl := hp <;> simp [errorRegs] at ho
  exact (addrs.setF (F.DMA_CH_STATUS_DIR ch) _ (by simp [errorRegs, F.DMA_CH_STATUS_DIR])).setF (F.DMA_CH_STATUS_CAUSE ch) _
    (by simp [errorRegs, F.DMA_CH_STATUS_CAUSE])

theorem State.latchBusError_latched (s : State) (ch : Nat) (addr : BitVec 64) (write : Bool) {cause : Nat} (hc : cause < 16) :
    (s.latchBusError ch addr write cause).ErrorLatched ch addr write cause := by
  unfold State.latchBusError
  generalize ({ s with board := { s.board with aer := s.board.aer ||| aerBit cause } } : State) = u
  have off (o : Nat) (h : o ≠ 0x120408 + 64 * ch) (v : State) : ((v.setBit (F.DMA_CH_STATUS_DIR ch) write).setF
      (F.DMA_CH_STATUS_CAUSE ch) cause).reg o = v.reg o :=
    (State.reg_setF_other _ _ _ h).trans (State.reg_setF_other _ _ _ h)
  refine ⟨?_, ?_, ?_⟩
  · have lo : Reg.DMA_CH_ERR_ADDR_LO ch + 4 = Reg.DMA_CH_ERR_ADDR_HI ch := by
      show 0x12040c + 64 * ch + 4 = 0x120410 + 64 * ch
      omega
    have apart : Reg.DMA_CH_ERR_ADDR_LO ch ≠ Reg.DMA_CH_ERR_ADDR_HI ch := by
      show 0x12040c + 64 * ch ≠ 0x120410 + 64 * ch
      omega
    rw [State.get64, lo, off _ (by show 0x12040c + 64 * ch ≠ _; omega), off _ (by show 0x120410 + 64 * ch ≠ _; omega),
      State.reg_setRegs_mem (v := addr.truncate 32) (by simp) (by simp),
      State.reg_setRegs_mem (v := (addr >>> 32).truncate 32) (by simp) (by simp)]
    exact word_halves addr
  · rw [State.bit, State.getF_setF_clear _ _ (by show 8 + 4 ≤ 32; decide) (.inr (by show 8 + 4 ≤ 16; decide))]
    exact State.bit_setBit_same _ (F.DMA_CH_STATUS_DIR ch) write (by show 16 + 1 ≤ 32; decide) rfl
  · rw [State.getF_setF_same _ _ _ (by show 8 + 4 ≤ 32; decide)]
    exact Nat.mod_eq_of_lt hc

@[simp] theorem State.latchBusError_dma (s : State) (ch : Nat) (addr : BitVec 64) (write : Bool) (cause : Nat) :
    (s.latchBusError ch addr write cause).dma = s.dma := by
  simp [State.latchBusError, State.setRegs]

@[simp] theorem State.latchBusError_seg (s : State) (ch : Nat) (addr : BitVec 64) (write : Bool) (cause : Nat) :
    (s.latchBusError ch addr write cause).seg = s.seg := by
  simp [State.latchBusError, State.setRegs]

@[simp] theorem State.latchBusError_board (s : State) (ch : Nat) (addr : BitVec 64) (write : Bool) (cause : Nat) :
    (s.latchBusError ch addr write cause).board = { s.board with aer := s.board.aer ||| aerBit cause } := by
  simp [State.latchBusError, State.setRegs]

/-- A channel halts (R326). -/
def State.halted (s : State) (ch : Nat) (addr : BitVec 64) (write : Bool) (cause : Nat) : State :=
  (((s.latchBusError ch addr write cause).setF (F.DMA_CH_STATUS_STATE ch) 3).hwSet F.DMA_EVENTS_HALT).hwSet F.FLT_CLASS_DMA_HALT

theorem State.busError_halts {s : State} {ch : Nat} (hch : 4 ≤ ch) (h : s.chanState ch = 1 ∨ s.chanState ch = 2) (addr : BitVec 64)
    (write : Bool) (cause : Nat) : s.busError ch addr write cause = s.halted ch addr write cause := by
  rw [State.busError, if_neg (by omega)]
  obtain h | h := h <;> (rw [h]; rfl)

/-- The two flags that report a halt or an all-stop, an event and a fault class (R326, R327). -/
theorem State.flags_spec (s : State) {e c : Fld} (he : e.off = Reg.DMA_EVENTS) (hc : c.off = Reg.FLT_CLASS) (ew : e.w = 1)
    (cw : c.w = 1) (elo : e.lo < 32) (clo : c.lo < 32) :
    ((s.hwSet e).hwSet c).bit e = true ∧ ((s.hwSet e).hwSet c).bit c = true ∧
      s.SameRegsBut ((s.hwSet e).hwSet c) (Reg.DMA_EVENTS :: Reg.FLT_CLASS :: pbaRegs) := by
  obtain ⟨eset, eregs⟩ := s.hwSet_vector_spec (f := e) (m := F.DMA_VEC_MAP_DMA) (by rw [he]; rfl) rfl (by rw [he]; decide) ew elo
  obtain ⟨cset, cregs⟩ := (s.hwSet e).hwSet_vector_spec (f := c)
    (m := F.DMA_VEC_MAP_FLT) (by rw [hc]; rfl) rfl (by rw [hc]; decide) cw clo
  rw [he] at eregs
  rw [hc] at cregs
  refine ⟨?_, cset, (eregs.mono ?_).trans (cregs.mono ?_)⟩
  · rw [cregs.bit (f := e) (by rw [he]; decide)]
    exact eset
  · intro o ho
    obtain rfl | ho := List.mem_cons.mp ho
    · exact List.mem_cons_self
    · exact List.mem_cons_of_mem _ (List.mem_cons_of_mem _ ho)
  · exact fun o ho => List.mem_cons_of_mem _ ho

/-- The registers of channels are none of the flags'. -/
theorem notMem_flags {o : Nat} (lo : 0x120400 ≤ o) (hi : o < 0x129000) : o ∉ Reg.DMA_EVENTS :: Reg.FLT_CLASS :: pbaRegs := by
  simp only [List.mem_cons, not_or]
  have event : Reg.DMA_EVENTS < 0x120400 := by decide
  have fault : 0x129000 ≤ Reg.FLT_CLASS := by decide
  exact ⟨by omega, by omega, notMem_pba_of_lt hi⟩

theorem errorRegs_notMem_flags {ch o : Nat} (hch : ch < 32) (ho : o ∈ errorRegs ch) :
    o ∉ Reg.DMA_EVENTS :: Reg.FLT_CLASS :: pbaRegs := by
  simp only [errorRegs, Reg.DMA_CH_STATUS, Reg.DMA_CH_ERR_ADDR_LO, Reg.DMA_CH_ERR_ADDR_HI, List.mem_cons, List.not_mem_nil,
    or_false] at ho
  exact notMem_flags (by omega) (by omega)

/-- The bus error on a channel that is no PREFETCH channel (O51). -/
theorem State.halted_spec (s : State) (ch : Fin 32) (a : BitVec 64) (w : Bool) (cause : Fin 16) :
    (s.halted ch a w cause).getF (F.DMA_CH_STATUS_STATE ch) = 3 ∧ (s.halted ch a w cause).ErrorLatched ch a w cause ∧
      (s.halted ch a w cause).bit F.DMA_EVENTS_HALT = true ∧ (s.halted ch a w cause).bit F.FLT_CLASS_DMA_HALT = true ∧
      s.SameRegsBut (s.halted ch a w cause) (errorRegs ch ++ Reg.DMA_EVENTS :: Reg.FLT_CLASS :: pbaRegs) := by
  have latched := s.latchBusError_latched ch a w cause.isLt
  have hold := (s.sameRegsBut_latchBusError ch a w cause).setF (F.DMA_CH_STATUS_STATE ch) 3
    (by simp [errorRegs, F.DMA_CH_STATUS_STATE])
  obtain ⟨event, fault, flags⟩ := ((s.latchBusError ch a w cause).setF (F.DMA_CH_STATUS_STATE ch) 3).flags_spec
    (e := F.DMA_EVENTS_HALT) (c := F.FLT_CLASS_DMA_HALT) rfl rfl rfl rfl (by decide) (by decide)
  have apart : ∀ o ∈ errorRegs ch, o ∉ Reg.DMA_EVENTS :: Reg.FLT_CLASS :: pbaRegs := fun o ho => errorRegs_notMem_flags ch.isLt ho
  refine ⟨?_, (latched.setState ch 3).of_regs flags apart, event, fault, ?_⟩
  · have kept := flags.getF (f := F.DMA_CH_STATUS_STATE ch) (apart _ (by simp [errorRegs, F.DMA_CH_STATUS_STATE]))
    exact kept.trans (State.getF_setF_same _ _ _ (by show 0 + 3 ≤ 32; decide))
  · exact (hold.mono fun o ho => List.mem_append_left _ ho).trans (flags.mono fun o ho => List.mem_append_right _ ho)

theorem State.halted_rest (s : State) (ch : Nat) (a : BitVec 64) (w : Bool) (cause : Nat) :
    (s.halted ch a w cause).dma = s.dma ∧ (s.halted ch a w cause).seg = s.seg ∧
      (s.halted ch a w cause).board = { s.board with aer := s.board.aer ||| aerBit cause } := by
  rw [State.halted, State.hwSet_dma, State.hwSet_dma, State.hwSet_seg, State.hwSet_seg, State.hwSet_board, State.hwSet_board,
    State.setF_dma, State.setF_seg, State.setF_board]
  exact ⟨State.latchBusError_dma .., State.latchBusError_seg .., State.latchBusError_board ..⟩

/-! ### All-stop (R327) -/

/-- The first n channels in state k. -/
def State.setStates (s : State) (k n : Nat) : State := (List.range n).foldl (fun s n => s.setF (F.DMA_CH_STATUS_STATE n) k) s

theorem State.setStates_succ (s : State) (k n : Nat) :
    s.setStates k (n + 1) = (s.setStates k n).setF (F.DMA_CH_STATUS_STATE n) k := by
  simp [State.setStates, List.range_succ]

theorem State.ErrorLatched.setStates {s : State} {ch : Nat} {addr : BitVec 64} {write : Bool} {cause : Nat}
    (h : s.ErrorLatched ch addr write cause) (k n : Nat) : (s.setStates k n).ErrorLatched ch addr write cause := by
  induction n with
  | zero => exact h
  | succ n ih =>
    rw [State.setStates_succ]
    exact ih.setState n k

theorem State.state_setStates (s : State) {k n i : Nat} (hk : k < 8) (h : i < n) :
    (s.setStates k n).getF (F.DMA_CH_STATUS_STATE i) = k := by
  induction n with
  | zero => omega
  | succ n ih =>
    rw [State.setStates_succ]
    by_cases e : i = n
    · rw [e, State.getF_setF_same _ _ _ (by show 0 + 3 ≤ 32; decide)]
      exact Nat.mod_eq_of_lt hk
    · rw [State.getF_setF_other _ _ _ _ (by show 0 + 3 ≤ 32; decide) (.inl (by show 0x120408 + 64 * i ≠ 0x120408 + 64 * n; omega))]
      exact ih (by omega)

theorem State.reg_setStates (s : State) (k n : Nat) {o : Nat} (h : ∀ i, i < n → o ≠ Reg.DMA_CH_STATUS i) :
    (s.setStates k n).reg o = s.reg o := by
  induction n with
  | zero => rfl
  | succ n ih =>
    rw [State.setStates_succ, State.reg_setF_other _ _ _ (h n (Nat.lt_succ_self n)), ih fun i hi => h i (by omega)]

@[simp] theorem State.setStates_dma (s : State) (k n : Nat) : (s.setStates k n).dma = s.dma :=
  foldl_same State.dma _ (fun _ _ => by simp) _ _

@[simp] theorem State.setStates_seg (s : State) (k n : Nat) : (s.setStates k n).seg = s.seg :=
  foldl_same State.seg _ (fun _ _ => by simp) _ _

/-- An all-stop as STATUS of DMA names it. -/
def State.namesStop (s : State) (ch : Nat) : State := (s.setBit F.DMA_STATUS_ALL_STOP true).setF F.DMA_STATUS_STOP_CHANNEL ch

theorem State.stopAll_of_open {s : State} (h : s.bit F.DMA_STATUS_ALL_STOP = false) (ch : Nat) (addr : BitVec 64)
    (write : Bool) (cause : Nat) : s.stopAll ch addr write cause =
      ((((s.latchBusError ch addr write cause).setStates 4 32).namesStop ch).hwSet F.DMA_EVENTS_ALL_STOP).hwSet
        F.FLT_CLASS_DMA_ALL_STOP := by
  have same : (s.latchBusError ch addr write cause).bit F.DMA_STATUS_ALL_STOP = false := by
    rw [(s.sameRegsBut_latchBusError ch addr write cause).bit, h]
    simp only [errorRegs, Reg.DMA_CH_STATUS, Reg.DMA_CH_ERR_ADDR_LO, Reg.DMA_CH_ERR_ADDR_HI, List.mem_cons, List.not_mem_nil,
      or_false, F.DMA_STATUS_ALL_STOP, Reg.DMA_STATUS]
    omega
  rw [State.stopAll]
  simp only [same, Bool.false_eq_true, if_false]
  rfl

theorem State.namesStop_rest (s : State) (ch : Nat) : (s.namesStop ch).dma = s.dma ∧ (s.namesStop ch).seg = s.seg := ⟨rfl, rfl⟩

theorem State.namesStop_spec (s : State) {ch : Nat} (hch : ch < 4) : (s.namesStop ch).bit F.DMA_STATUS_ALL_STOP = true ∧
    (s.namesStop ch).getF F.DMA_STATUS_STOP_CHANNEL = ch ∧ s.SameRegsBut (s.namesStop ch) [Reg.DMA_STATUS] := by
  refine ⟨?_, ?_, (State.sameRegsBut_setF s F.DMA_STATUS_ALL_STOP 1).setF F.DMA_STATUS_STOP_CHANNEL ch (by decide)⟩
  · rw [State.namesStop, State.bit, State.getF_setF_clear _ _ (by decide) (by decide)]
    exact State.bit_setBit_same s _ true (by decide) rfl
  · rw [State.namesStop, State.getF_setF_same _ _ _ (by decide)]
    exact Nat.mod_eq_of_lt (hch.trans (by decide))

/-- The bus error on a PREFETCH channel that stops all channels. -/
theorem State.stopAll_spec {s : State} (h : s.bit F.DMA_STATUS_ALL_STOP = false) (ch : Fin 4) (a : BitVec 64) (cause : Fin 16) :
    (s.stopAll ch a false cause).bit F.DMA_STATUS_ALL_STOP = true ∧
      (s.stopAll ch a false cause).getF F.DMA_STATUS_STOP_CHANNEL = ch ∧
      (∀ n : Fin 32, (s.stopAll ch a false cause).getF (F.DMA_CH_STATUS_STATE n) = 4) ∧
      (s.stopAll ch a false cause).bit F.DMA_EVENTS_ALL_STOP = true ∧
      (s.stopAll ch a false cause).bit F.FLT_CLASS_DMA_ALL_STOP = true ∧
      (s.stopAll ch a false cause).ErrorLatched ch a false cause := by
  rw [State.stopAll_of_open h]
  have latched := (s.latchBusError_latched ch a false cause.isLt).setStates 4 32
  have states (n : Fin 32) : ((s.latchBusError ch a false cause).setStates 4 32).getF (F.DMA_CH_STATUS_STATE n) = 4 :=
    State.state_setStates _ (by decide) n.isLt
  obtain ⟨stop, channel, named⟩ := ((s.latchBusError ch a false cause).setStates 4 32).namesStop_spec ch.isLt
  obtain ⟨event, fault, flags⟩ := (((s.latchBusError ch a false cause).setStates 4 32).namesStop ch).flags_spec
    (e := F.DMA_EVENTS_ALL_STOP) (c := F.FLT_CLASS_DMA_ALL_STOP) rfl rfl rfl rfl (by decide) (by decide)
  have beside : Reg.DMA_STATUS ∉ Reg.DMA_EVENTS :: Reg.FLT_CLASS :: pbaRegs := by decide
  refine ⟨(flags.bit (f := F.DMA_STATUS_ALL_STOP) beside).trans stop,
    (flags.getF (f := F.DMA_STATUS_STOP_CHANNEL) beside).trans channel, fun n => ?_, event, fault, ?_⟩
  · have apart : (F.DMA_CH_STATUS_STATE n).off ∉ Reg.DMA_EVENTS :: Reg.FLT_CLASS :: pbaRegs :=
      errorRegs_notMem_flags n.isLt (by simp [errorRegs, F.DMA_CH_STATUS_STATE])
    rw [flags.getF apart, named.getF (f := F.DMA_CH_STATUS_STATE n) (by
      show 0x120408 + 64 * n.val ∉ [0x120004]
      simp only [List.mem_singleton]
      omega)]
    exact states n
  · refine (latched.of_regs named ?_).of_regs flags fun o ho => errorRegs_notMem_flags (by omega) ho
    intro o ho
    simp only [errorRegs, Reg.DMA_CH_STATUS, Reg.DMA_CH_ERR_ADDR_LO, Reg.DMA_CH_ERR_ADDR_HI, List.mem_cons, List.not_mem_nil,
      or_false] at ho
    simp only [List.mem_singleton, Reg.DMA_STATUS]
    omega

theorem State.stopAll_rest {s : State} (h : s.bit F.DMA_STATUS_ALL_STOP = false) (ch : Nat) (a : BitVec 64) (write : Bool)
    (cause : Nat) : (s.stopAll ch a write cause).dma = s.dma ∧ (s.stopAll ch a write cause).seg = s.seg := by
  obtain ⟨dma, seg⟩ := ((s.latchBusError ch a write cause).setStates 4 32).namesStop_rest ch
  rw [State.stopAll_of_open h, State.hwSet_dma, State.hwSet_dma, State.hwSet_seg, State.hwSet_seg, dma, seg, State.setStates_dma,
    State.setStates_seg]
  exact ⟨State.latchBusError_dma .., State.latchBusError_seg ..⟩

end Sys2Proof.Machine
end

section
/-! PROOF. RESUME, RESTART and RESET at the end of their clock (spec/12_host_port_and_delivery.md R326, R328, R330). -/

namespace Sys2Proof.Machine

open Sys2Proof.Laws

/-- What the end of a clock leaves of DMA beside what was asked for in it. -/
def State.settled (s : State) : State :=
  { s with dma := { s.dma with
    resetReq := false
    ctrlReq := []
    chans := (s.dma.chans.map (·.1)).foldl (fun m n =>
      sparseSet (fun _ => ChanSt.init) m n { sparseGet (fun _ => ChanSt.init) m n with gone := none }) s.dma.chans } }

/-- RESUME and RESTART of a clock act unless all channels are stopped. -/
def State.channelsActed (s : State) : State :=
  if s.bit F.DMA_STATUS_ALL_STOP then s.settled else s.dma.ctrlReq.foldl (fun s c => s.chanCtrlActs c.1 c.2) s.settled

/-- A RESET of the clock is judged. -/
def State.judgeReset (s : State) (asked : Bool) : State :=
  if !asked then s
  else if s.bit F.DMA_STATUS_ALL_STOP || (List.range 32).all (fun n => s.chanState n != 2 && s.chanState n != 4) then
    s.setBit F.DMA_STATUS_RESETTING true
  else s.hwSet F.DMA_EVENTS_RESET_REFUSED

theorem State.dmaSettle_eq (s : State) : s.dmaSettle = s.channelsActed.judgeReset s.dma.resetReq := rfl

/-- The end of a clock changes of a channel only what was withdrawn in it. -/
theorem State.chan_settled {α : Type} (s : State) (n : Nat) (p : ChanSt → α) (h : ∀ x : ChanSt, p { x with gone := none } = p x) :
    p (s.settled.chan n) = p (s.chan n) := by
  refine foldl_same (fun m => p (sparseGet (fun _ => ChanSt.init) m n)) _ (fun m k => ?_) (s.dma.chans.map (·.1)) s.dma.chans
  simp only [sparseGet_set]
  split
  next e => rw [h, e]
  next => rfl

theorem State.chanState_settled (s : State) (n : Nat) : s.settled.chanState n = s.chanState n := by
  have paced : (s.settled.chan n).paced = (s.chan n).paced := s.chan_settled n ChanSt.paced fun _ => rfl
  unfold State.chanState
  rw [paced]
  rfl

/-- RESUME and RESTART of a clock that did not stop all channels and asked for no reset. -/
theorem State.dmaSettle_chanCtrl {s : State} (ctrl : s.dma.ctrlReq = []) (reset : s.dma.resetReq = false)
    (running : s.bit F.DMA_STATUS_ALL_STOP = false) (ch : Nat) (v : Word) :
    (s.chanCtrl ch v).dmaSettle = s.settled.chanCtrlActs ch v := by
  have asked : (s.chanCtrl ch v).dma.ctrlReq = [(ch, v)] := by
    show s.dma.ctrlReq ++ [(ch, v)] = _
    rw [ctrl, List.nil_append]
  have acted : (s.chanCtrl ch v).channelsActed = s.settled.chanCtrlActs ch v := by
    rw [State.channelsActed, show (s.chanCtrl ch v).bit F.DMA_STATUS_ALL_STOP = false from running, asked]
    rfl
  rw [State.dmaSettle_eq, acted, show (s.chanCtrl ch v).dma.resetReq = false from reset]
  rfl

/-- In an all-stop RESUME and RESTART do nothing. -/
theorem State.dmaSettle_stopped {s : State} (stop : s.bit F.DMA_STATUS_ALL_STOP = true) (reset : s.dma.resetReq = false) :
    s.dmaSettle = s.settled := by
  rw [State.dmaSettle_eq, State.channelsActed, if_pos stop, reset]
  rfl

/-- A RESET with no RESUME or RESTART beside it. -/
theorem State.dmaSettle_reset {s : State} (ctrl : s.dma.ctrlReq = []) (reset : s.dma.resetReq = true) :
    s.dmaSettle = if s.bit F.DMA_STATUS_ALL_STOP || (List.range 32).all (fun n => s.chanState n != 2 && s.chanState n != 4) then
      s.settled.setBit F.DMA_STATUS_RESETTING true else s.settled.hwSet F.DMA_EVENTS_RESET_REFUSED := by
  have acted : s.channelsActed = s.settled := by
    rw [State.channelsActed, ctrl]
    exact ite_self _
  rw [State.dmaSettle_eq, acted, reset, State.judgeReset]
  simp only [State.chanState_settled]
  rfl

/-! ### RESUME and RESTART (R326) -/

/-- A channel goes on: IDLE, with nothing else touched. -/
theorem State.released_spec (s : State) (ch : Nat) : (s.setF (F.DMA_CH_STATUS_STATE ch) 0).chanHeld ch = false ∧
    s.SameRegsBut (s.setF (F.DMA_CH_STATUS_STATE ch) 0) [Reg.DMA_CH_STATUS ch] := by
  refine ⟨?_, State.sameRegsBut_setF s _ 0⟩
  rw [State.chanHeld, State.getF_setF_same _ _ _ (by show 0 + 3 ≤ 32; decide)]
  rfl

theorem State.queue_setQueue_same (s : State) (q : Nat) (x : QueueSt) : (s.setQueue q x).queue q = x :=
  sparseGet_set_same _ _ _ _

theorem State.queue_setQueue (s : State) (q k : Nat) (x : QueueSt) :
    (s.setQueue q x).queue k = if k = q then x else s.queue k :=
  sparseGet_set _ _ _ _ _

theorem State.resumeChan_of_not_halted {s : State} {ch : Nat} (h : s.getF (F.DMA_CH_STATUS_STATE ch) ≠ 3) :
    s.resumeChan ch = s := by
  rw [State.resumeChan, if_pos (by simpa using h)]

theorem State.restartChan_of_not_halted {s : State} {ch : Nat} (h : s.getF (F.DMA_CH_STATUS_STATE ch) ≠ 3) :
    s.restartChan ch = s := by
  rw [State.restartChan, if_pos (by simpa using h)]

section

variable {s : State} {ch q n : Nat} (halted : s.getF (F.DMA_CH_STATUS_STATE ch) = 3) (kind : s.chanKind ch ≠ 2)

include halted kind

/-- A failing write is repeated: its record goes back to where the burst began. -/
theorem State.resumeChan_write (dir : s.bit (F.DMA_CH_STATUS_DIR ch) = true) (last : (s.chan ch).last = some (q, n))
    (cur : (s.queue q).cur ≠ none) : s.resumeChan ch = (s.setF (F.DMA_CH_STATUS_STATE ch) 0).setQueue q
      { s.queue q with sent := min n (s.queue q).sent, flush := none } := by
  have lastGo : ((s.setF (F.DMA_CH_STATUS_STATE ch) 0).chan ch).last = some (q, n) := last
  have curGo : ((s.setF (F.DMA_CH_STATUS_STATE ch) 0).queue q).cur.isSome = true := Option.isSome_iff_ne_none.mpr cur
  rw [State.resumeChan, if_neg (by simp [halted]), if_neg (by simpa using kind)]
  simp only [dir, lastGo, curGo]
  rfl

/-- A failing read is repeated. -/
theorem State.resumeChan_read (dir : s.bit (F.DMA_CH_STATUS_DIR ch) = false) :
    s.resumeChan ch = (s.setF (F.DMA_CH_STATUS_STATE ch) 0).flushAgain ch := by
  rw [State.resumeChan, if_neg (by simp [halted]), if_neg (by simpa using kind)]
  simp only [dir]
  rfl

/-- The record begins again. -/
theorem State.restartChan_again (last : (s.chan ch).last = some (q, n)) (cur : (s.queue q).cur ≠ none) :
    s.restartChan ch = (s.setF (F.DMA_CH_STATUS_STATE ch) 0).setQueue q { s.queue q with sent := 0, flush := none } := by
  have lastGo : ((s.setF (F.DMA_CH_STATUS_STATE ch) 0).chan ch).last = some (q, n) := last
  have curGo : ((s.setF (F.DMA_CH_STATUS_STATE ch) 0).queue q).cur.isSome = true := Option.isSome_iff_ne_none.mpr cur
  rw [State.restartChan, if_neg (by simp [halted]), if_neg (by simpa using kind)]
  simp only [lastGo, curGo]
  rfl

end

/-- The state of a channel is none of the registers of queues, so the queues that a channel serves stay. -/
theorem State.chanQueues_setState (s : State) (ch k m : Nat) :
    (s.setF (F.DMA_CH_STATUS_STATE ch) k).chanQueues m = s.chanQueues m := by
  have apart (i : Nat) : Reg.DMA_DQ_CFG i ≠ Reg.DMA_CH_STATUS ch := by
    show 0x121000 + 64 * i ≠ 0x120408 + 64 * ch
    omega
  have en (i : Nat) : (s.setF (F.DMA_CH_STATUS_STATE ch) k).queueEnabled i = s.queueEnabled i := by
    rw [State.queueEnabled, State.bit, State.getF, State.reg_setF_other _ _ _ (apart i)]
    rfl
  have names (i : Nat) : (s.setF (F.DMA_CH_STATUS_STATE ch) k).getF (F.DMA_DQ_CFG_CHAN i) = s.getF (F.DMA_DQ_CFG_CHAN i) := by
    rw [State.getF, State.reg_setF_other _ _ _ (apart i)]
    rfl
  simp only [State.chanQueues, en, names]

/-- The one flush read that failed is sent again. -/
theorem State.flushAgain_one {s : State} {ch q a : Nat} (queues : s.chanQueues ch = [q])
    (failed : s.get64 (Reg.DMA_CH_ERR_ADDR_LO ch) = a) (flush : (s.queue q).flush = some a) :
    s.flushAgain ch = s.send (.hostRead a 0) := by
  rw [State.flushAgain, queues, failed]
  exact if_pos flush

/-! ### The end of a reset (R328) -/

/-- A queue that writes its record again, from the first buffer that it took. -/
def QueueSt.again (x : QueueSt) : QueueSt := { x with ahead := [], sent := 0, flush := none }

/-- Each queue below n with its record to be written again. -/
def State.queuesAgain (s : State) (n : Nat) : State :=
  (List.range n).foldl (fun s q => s.setQueue q (s.queue q).again) s

theorem State.queuesAgain_succ (s : State) (n : Nat) :
    s.queuesAgain (n + 1) = (s.queuesAgain n).setQueue n ((s.queuesAgain n).queue n).again := by
  simp [State.queuesAgain, List.range_succ]

theorem State.queue_queuesAgain (s : State) (n q : Nat) :
    (s.queuesAgain n).queue q = if q < n then (s.queue q).again else s.queue q := by
  induction n generalizing q with
  | zero => rfl
  | succ n ih =>
    rw [State.queuesAgain_succ, State.queue_setQueue]
    by_cases e : q = n
    · rw [if_pos e, ← e, e, ih n, if_neg (Nat.lt_irrefl n), if_pos (Nat.lt_succ_self n)]
    · rw [if_neg e, ih q]
      simp only [show q < n + 1 ↔ q < n by omega]

theorem State.queuesAgain_rest (s : State) (n : Nat) : (s.queuesAgain n).regs = s.regs ∧ (s.queuesAgain n).seg = s.seg := by
  induction n with
  | zero => exact ⟨rfl, rfl⟩
  | succ n ih =>
    rw [State.queuesAgain_succ]
    exact ih

/-- DMA runs again: no reset, no all-stop, every channel IDLE. -/
def State.dmaAfresh (s : State) : State :=
  ((s.setBit F.DMA_STATUS_RESETTING false).setBit F.DMA_STATUS_ALL_STOP false).setStates 0 32

theorem exec_dmaResetDone {s : State} (h : s.bit F.DMA_STATUS_RESETTING = true) :
    exec .dmaResetDone s = .next (s.dmaAfresh.queuesAgain 64) := by
  show execDmaResetDone s = _
  rw [execDmaResetDone, h]
  rfl

theorem State.dmaAfresh_spec (s : State) : s.dmaAfresh.bit F.DMA_STATUS_RESETTING = false ∧
    s.dmaAfresh.bit F.DMA_STATUS_ALL_STOP = false ∧ (∀ n : Fin 32, s.dmaAfresh.chanHeld n = false) ∧
      (∀ o, 0x121000 ≤ o → s.dmaAfresh.reg o = s.reg o) := by
  have status : s.dmaAfresh.reg Reg.DMA_STATUS =
      ((s.setBit F.DMA_STATUS_RESETTING false).setBit F.DMA_STATUS_ALL_STOP false).reg Reg.DMA_STATUS :=
    State.reg_setStates _ 0 32 fun i _ => by
      show 0x120004 ≠ 0x120408 + 64 * i
      omega
  refine ⟨?_, ?_, fun n => ?_, fun o ho => ?_⟩
  · rw [State.bit, State.getF, show s.dmaAfresh.reg F.DMA_STATUS_RESETTING.off = _ from status]
    show ((s.setBit F.DMA_STATUS_RESETTING false).setBit F.DMA_STATUS_ALL_STOP false).bit F.DMA_STATUS_RESETTING = false
    rw [State.bit_setBit_other _ _ _ _ (by decide) (by decide), State.bit_setBit_same _ _ _ (by decide) rfl]
  · rw [State.bit, State.getF, show s.dmaAfresh.reg F.DMA_STATUS_ALL_STOP.off = _ from status]
    exact State.bit_setBit_same (s.setBit F.DMA_STATUS_RESETTING false) F.DMA_STATUS_ALL_STOP false (by decide) rfl
  · rw [State.chanHeld, State.dmaAfresh, State.state_setStates _ (by decide) n.isLt]
    rfl
  · have beside : o ≠ Reg.DMA_STATUS := by
      show o ≠ 0x120004
      omega
    rw [State.dmaAfresh, State.reg_setStates _ 0 32 fun i hi => by
      show o ≠ 0x120408 + 64 * i
      omega]
    exact (State.reg_setF_other _ _ _ beside).trans (State.reg_setF_other _ _ _ beside)

end Sys2Proof.Machine
end

section
/-! PROOF. The configuration of a channel, requests of overlay lines, and what a channel does (spec/12_host_port_and_delivery.md
R307, R311, R325 to R328, R355). -/

namespace Sys2Proof.Machine

open Sys2Proof.Laws

/-! ### CFG of a channel (R311) -/

section

variable {s : State} {ch : Nat} {v : Word} (hch : 4 ≤ ch) (within : v &&& maskAt (Reg.DMA_CH_CFG ch) = v)
  (kind : fieldOf v 0 2 ≠ 3)

include hch within kind

/-- KIND and PERIPH are judged, the other fields take what is written. -/
theorem State.chanCfg_eq : s.chanCfg ch v =
    if (v ^^^ s.reg (Reg.DMA_CH_CFG ch)) &&& 0x3F000003 = 0 then s.setReg (Reg.DMA_CH_CFG ch) v
    else if s.chanState ch < 2 && (s.chanQueues ch).isEmpty && (s.chan ch).paced.isEmpty then s.setReg (Reg.DMA_CH_CFG ch) v
    else s.hwSet F.DMA_EVENTS_CH_CFG_REFUSED := by
  rw [State.chanCfg, within, if_neg (by omega), if_neg kind]

theorem State.chanCfg_plain (same : (v ^^^ s.reg (Reg.DMA_CH_CFG ch)) &&& 0x3F000003 = 0) :
    s.chanCfg ch v = s.setReg (Reg.DMA_CH_CFG ch) v := by
  rw [State.chanCfg_eq hch within kind, if_pos same]

theorem State.chanCfg_quiet (quiet : s.chanState ch < 2 ∧ s.chanQueues ch = [] ∧ (s.chan ch).paced = []) :
    s.chanCfg ch v = s.setReg (Reg.DMA_CH_CFG ch) v := by
  have accepted : (s.chanState ch < 2 && (s.chanQueues ch).isEmpty && (s.chan ch).paced.isEmpty) = true := by
    simpa [and_assoc] using quiet
  rw [State.chanCfg_eq hch within kind, if_pos accepted, ite_self]

theorem State.chanCfg_busy (other : (v ^^^ s.reg (Reg.DMA_CH_CFG ch)) &&& 0x3F000003 ≠ 0)
    (busy : ¬(s.chanState ch < 2 ∧ s.chanQueues ch = [] ∧ (s.chan ch).paced = [])) :
    s.chanCfg ch v = s.hwSet F.DMA_EVENTS_CH_CFG_REFUSED := by
  rw [State.chanCfg_eq hch within kind, if_neg other, if_neg (by simpa [and_assoc] using busy)]

end

theorem exec_dmaChCfgWrite {s : State} {ch : Fin 32} (taken : s.takesWrite (Reg.DMA_CH_CFG ch) = true) (v : Word) :
    exec (.dmaChCfgWrite ch v) s = .next (s.chanCfg ch v) :=
  congrArg Host.Outcome.next (State.hostWrite_dma taken (by show (0x120400 + 64 * ch.val) / 0x10000 = 0x12; omega) _ _)

theorem exec_resume {s : State} {ch : Fin 32} (taken : s.takesWrite (Reg.DMA_CH_CTRL ch) = true) :
    exec (.resume ch) s = .next (s.chanCtrl ch 1) :=
  congrArg Host.Outcome.next (State.hostWrite_dma taken (by show (0x120404 + 64 * ch.val) / 0x10000 = 0x12; omega) _ _)

theorem exec_restart {s : State} {ch : Fin 32} (taken : s.takesWrite (Reg.DMA_CH_CTRL ch) = true) :
    exec (.restart ch) s = .next (s.chanCtrl ch 2) :=
  congrArg Host.Outcome.next (State.hostWrite_dma taken (by show (0x120404 + 64 * ch.val) / 0x10000 = 0x12; omega) _ _)

/-! ### Requests of overlay lines (R307, R355) -/

/-- Line `line` of overlay layer l, to be fetched. -/
def State.lineRequest (s : State) (l line : Nat) : PacedReq where
  layer := l
  line := line
  addr := (s.dispEff (Reg.DISP_LAYER_ADDR_LO l)).toNat + 2 ^ 32 * (s.dispEff (Reg.DISP_LAYER_ADDR_HI l)).toNat +
    line * fieldOf (s.dispEff (Reg.DISP_LAYER_STRIDE l)) 0 20
  left := fieldOf (s.dispEff (Reg.DISP_LAYER_SIZE l)) 0 13 * overlayBytes (fieldOf (s.dispEff (Reg.DISP_LAYER_CFG l)) 0 2)
  got := []
  started := false

theorem exec_pacedRequest {s : State} {n : Fin 32} {line : Nat} {scan : Option Nat} {l : Nat}
    (open_ : s.operational = true ∧ s.chanKind n = 2) (periph : l = s.getF (F.DMA_CH_CFG_PERIPH n)) (layer : l = 1 ∨ l = 2)
    (enabled : s.bit (F.DISP_LAYER_STATUS_ENABLED l) = true) (height : line < fieldOf (s.dispEff (Reg.DISP_LAYER_SIZE l)) 16 13)
    (none_ : (s.chan n).paced = []) (fetched : s.disp.lines.any (fun p => p.1 == l && p.2.1 == line) = false)
    (ahead : scan.all (fun a => decide (line ≤ a + 8)) = true) : exec (.pacedRequest n line scan) s =
      .next ((s.setChan n { s.chan n with paced := [s.lineRequest l line] }).setBit (F.DISP_LAYER_STATUS_FETCH_IDLE l) false) := by
  obtain ⟨up, kind⟩ := open_
  have isLayer : (l == 1 || l == 2) = true := by simpa using layer
  show execPacedRequest n line s scan = _
  rw [execPacedRequest]
  simp only [← periph, up, kind, isLayer, enabled, none_, fetched, ahead, decide_eq_true height]
  rfl

/-! ### What a channel does -/

/-- Settles O51: a failing request is latched in registers of its channel that the flags beside leave, RESUME, RESTART and RESET act at
the end of their clock on the channels as it left them, and CFG of a channel has one judgement. -/
theorem channelsAndBusErrors : Obligations.ChannelsAndBusErrors := by
  unfold Obligations.ChannelsAndBusErrors
  refine ⟨?halts, ?stops, ?resumeWrite, ?resumeRead, ?restart, ?idle, ?stopped, ?reset, ?judged, ?resetDone, ?plain, ?kind, ?request⟩
  case halts =>
    intro s ch a w cause hch active
    obtain ⟨state, latched, event, fault, regs⟩ := s.halted_spec ch a w cause
    refine ⟨_, congrArg Host.Outcome.next (State.busError_halts hch active a w cause), state, latched.write, latched.cause,
      latched.addr, event, fault, fun n hn => ?_, regs, s.halted_rest ch a w cause⟩
    · refine regs.getF (f := F.DMA_CH_STATUS_STATE n) ?_
      have apart : n.val ≠ ch.val := fun e => hn (Fin.ext e)
      rw [List.mem_append, not_or]
      refine ⟨?_, errorRegs_notMem_flags n.isLt (by simp [errorRegs, F.DMA_CH_STATUS_STATE])⟩
      simp only [errorRegs, Reg.DMA_CH_STATUS, Reg.DMA_CH_ERR_ADDR_LO, Reg.DMA_CH_ERR_ADDR_HI, List.mem_cons, List.not_mem_nil,
        or_false, F.DMA_CH_STATUS_STATE]
      omega
  case stops =>
    intro s ch a cause running
    obtain ⟨stop, channel, states, event, fault, latched⟩ := State.stopAll_spec running ch a cause
    obtain ⟨dma, seg⟩ := State.stopAll_rest running ch a false cause
    exact ⟨_, rfl, stop, channel, states, event, fault, latched.cause, latched.addr, dma, seg⟩
  case resumeWrite =>
    rintro s ch q n taken halted dir kind last cur sent ⟨ctrl, reset, running⟩
    obtain ⟨held, regs⟩ := s.settled.released_spec ch
    have acted : s.settled.chanCtrlActs ch 1 = _ :=
      State.resumeChan_write (s := s.settled) halted kind dir ((s.chan_settled ch ChanSt.last fun _ => rfl).trans last) cur
    refine ⟨_, exec_resume taken, ?_⟩
    rw [State.dmaSettle_chanCtrl ctrl reset running, acted]
    refine ⟨held, ?_, regs⟩
    rw [State.queue_setQueue_same]
    show ({ s.queue q with sent := min n (s.queue q).sent, flush := none } : QueueSt) = _
    rw [Nat.min_eq_left sent]
  case resumeRead =>
    rintro s ch q a taken halted dir kind queues ⟨flush, addr⟩ ⟨ctrl, reset, running⟩
    obtain ⟨held, -⟩ := s.settled.released_spec ch
    have served : (s.settled.setF (F.DMA_CH_STATUS_STATE ch) 0).chanQueues ch = [q] :=
      (State.chanQueues_setState _ _ _ _).trans queues
    have failed : (s.settled.setF (F.DMA_CH_STATUS_STATE ch) 0).get64 (Reg.DMA_CH_ERR_ADDR_LO ch) = a := by
      refine (State.SameRegsBut.get64 (State.sameRegsBut_setF s.settled _ 0) ?_ ?_).trans addr
      · show 0x12040c + 64 * ch.val ∉ [0x120408 + 64 * ch.val]
        simp
      · show 0x12040c + 64 * ch.val + 4 ∉ [0x120408 + 64 * ch.val]
        simp only [List.mem_singleton]
        omega
    have acted : s.settled.chanCtrlActs ch 1 = (s.settled.setF (F.DMA_CH_STATUS_STATE ch) 0).send (.hostRead a 0) :=
      (State.resumeChan_read (s := s.settled) halted kind dir).trans (State.flushAgain_one served failed flush)
    refine ⟨_, exec_resume taken, ?_⟩
    rw [State.dmaSettle_chanCtrl ctrl reset running, acted]
    exact ⟨rfl, held, rfl⟩
  case restart =>
    rintro s ch q n taken halted kind last cur ⟨ctrl, reset, running⟩
    obtain ⟨held, regs⟩ := s.settled.released_spec ch
    have acted : s.settled.chanCtrlActs ch 2 = _ :=
      State.restartChan_again (s := s.settled) halted kind ((s.chan_settled ch ChanSt.last fun _ => rfl).trans last) cur
    refine ⟨_, exec_restart taken, ?_⟩
    rw [State.dmaSettle_chanCtrl ctrl reset running, acted]
    exact ⟨held, State.queue_setQueue_same _ _ _, regs⟩
  case idle =>
    rintro s ch again taken notHalted ⟨ctrl, reset⟩
    have quiet (v : Word) : (s.chanCtrl ch v).dmaSettle = s.settled := by
      cases running : s.bit F.DMA_STATUS_ALL_STOP with
      | true => exact State.dmaSettle_stopped (s := s.chanCtrl ch v) running reset
      | false =>
        rw [State.dmaSettle_chanCtrl ctrl reset running, State.chanCtrlActs,
          State.restartChan_of_not_halted (s := s.settled) notHalted, State.resumeChan_of_not_halted (s := s.settled) notHalted,
          ite_self, ite_self]
    cases again with
    | true =>
      refine ⟨_, exec_restart taken, rfl, rfl, ?_⟩
      rw [quiet]
      exact ⟨rfl, rfl⟩
    | false =>
      refine ⟨_, exec_resume taken, rfl, rfl, ?_⟩
      rw [quiet]
      exact ⟨rfl, rfl⟩
  case stopped =>
    rintro s t ⟨stop, reset⟩ rfl
    rw [State.dmaSettle_stopped stop reset]
    exact ⟨rfl, rfl, rfl, rfl⟩
  case reset => exact fun s taken => ⟨_, congrArg Host.Outcome.next (State.hostWrite_dma taken rfl _ _), rfl, rfl⟩
  case judged =>
    rintro s t ⟨reset, ctrl⟩ rfl
    rw [State.dmaSettle_reset ctrl reset]
    refine ⟨fun accepted => ?_, ?_, ?_⟩
    · rw [if_pos]
      · exact ⟨State.bit_setBit_same _ _ _ (by decide) rfl, State.sameRegsBut_setF s.settled F.DMA_STATUS_RESETTING 1⟩
      · rw [Bool.or_eq_true, List.all_eq_true]
        refine accepted.imp id fun quiet n hn => ?_
        simpa using quiet ⟨n, List.mem_range.mp hn⟩
    · rintro running ⟨n, active⟩
      rw [if_neg]
      · exact s.settled.hwSet_vector_spec (f := F.DMA_EVENTS_RESET_REFUSED) (m := F.DMA_VEC_MAP_DMA) rfl rfl (by decide) rfl (by decide)
      · rw [running, Bool.false_or, List.all_eq_true]
        exact fun quiet => by simpa [active] using quiet n (List.mem_range.mpr n.isLt)
    · split
      · exact ⟨rfl, rfl⟩
      · simp [State.settled]
  case resetDone =>
    intro s resetting
    obtain ⟨resetOver, running, held, kept⟩ := s.dmaAfresh_spec
    obtain ⟨regs, seg⟩ := s.dmaAfresh.queuesAgain_rest 64
    have same (o : Nat) : (s.dmaAfresh.queuesAgain 64).reg o = s.dmaAfresh.reg o := by rw [State.reg, regs]; rfl
    have sameField (f : Fld) : (s.dmaAfresh.queuesAgain 64).getF f = s.dmaAfresh.getF f := by rw [State.getF, same]; rfl
    refine ⟨_, exec_dmaResetDone resetting, ?_, ?_, fun n => ?_, fun q => ?_, fun q => ⟨?_, ?_⟩, seg.trans (State.setStates_seg _ _ _)⟩
    · rw [State.bit, sameField]
      exact resetOver
    · rw [State.bit, sameField]
      exact running
    · rw [State.chanHeld, sameField]
      exact held n
    · rw [State.queue_queuesAgain, if_pos q.isLt, State.queue, State.dmaAfresh, State.setStates_dma]
      rfl
    · rw [same, kept _ (by show 0x121000 ≤ 0x121024 + 64 * q.val; omega)]
    · rw [same, kept _ (by show 0x121000 ≤ 0x121018 + 64 * q.val; omega)]
  case plain =>
    intro s ch v taken hch same within kind
    refine ⟨_, exec_dmaChCfgWrite taken v, ?_⟩
    rw [State.chanCfg_plain hch within kind same]
    exact ⟨State.reg_setReg_same _ _ _, State.sameRegsBut_setReg _ _ _⟩
  case kind =>
    intro s ch v taken hch other within kind
    refine ⟨_, exec_dmaChCfgWrite taken v, fun quiet => ?_, fun busy => ?_⟩
    · rw [State.chanCfg_quiet hch within kind quiet]
      exact ⟨State.reg_setReg_same _ _ _, State.sameRegsBut_setReg _ _ _⟩
    · rw [State.chanCfg_busy hch within kind other busy]
      exact s.hwSet_vector_spec (f := F.DMA_EVENTS_CH_CFG_REFUSED) (m := F.DMA_VEC_MAP_DMA) rfl rfl (by decide) rfl (by decide)
  case request =>
    intro s n line scan l open_ periph layer enabled height none_ fetched ahead
    refine ⟨_, exec_pacedRequest open_ periph layer enabled height none_ fetched ahead, ?_⟩
    have paced : ((s.setChan n { s.chan n with paced := [s.lineRequest l line] }).chan n).paced = [s.lineRequest l line] := by
      rw [State.chan, State.setChan, sparseGet_set_same]
    exact ⟨congrArg _ paced, congrArg _ paced, State.bit_setBit_same _ _ _ (by show 3 + 1 ≤ 32; decide) rfl,
      State.sameRegsBut_setF (s.setChan n _) (F.DISP_LAYER_STATUS_FETCH_IDLE l) 0⟩

end Sys2Proof.Machine
end

section
/-! PROOF. The start of a frame, its end, and CREDIT (spec/13_stream_port.md R334 to R337, R345). -/

namespace Sys2Proof.Machine

open Sys2Proof.Laws

/-! ### Requests to the shuttles -/

/-- t differs from s in the shuttles at most. -/
def State.OffersOnly (s t : State) : Prop := { t with shuttles := s.shuttles } = s

theorem State.OffersOnly.refl (s : State) : s.OffersOnly s := rfl

theorem State.OffersOnly.trans {s t u : State} (a : s.OffersOnly t) (b : t.OffersOnly u) : s.OffersOnly u := by
  unfold State.OffersOnly at *
  rw [← a, ← b]

theorem State.OffersOnly.foldl {α : Type} {f : State → α → State} (hf : ∀ (u : State) a, u.OffersOnly (f u a)) (l : List α) (s : State) :
    s.OffersOnly (l.foldl f s) := by
  induction l generalizing s with
  | nil => exact .refl s
  | cons a l ih => exact (hf s a).trans (ih _)

theorem State.offer_only (s : State) (r : Nat) (q : MemReq) : s.OffersOnly (s.offer r q) := by
  unfold State.offer
  split
  · exact .refl s
  · rfl

theorem State.offerArea_only (s : State) (r : Nat) (write : Bool) (data : List Byte) (lo hi : Nat)
    (place : Nat → Option (Nat × Nat)) : s.OffersOnly (s.offerArea r write data lo hi place) := by
  unfold State.offerArea
  split
  · exact .refl s
  · refine State.OffersOnly.foldl (fun u i => ?_) _ s
    dsimp only
    split
    · exact u.offer_only _ _
    · exact .refl u

theorem State.offerRead_only (s : State) (req : Nat) (r : Record) (lo hi : Nat) : s.OffersOnly (s.offerRead req r lo hi) := by
  unfold State.offerRead
  split
  · exact s.offerArea_only ..
  · exact s.offerArea_only ..

theorem State.offerSlot_only (s : State) (req : Nat) (write : Bool) (data : List Byte) (r : Record) :
    s.OffersOnly (s.offerSlot req write data r) := by
  unfold State.offerSlot
  split
  · exact s.offer_only _ _
  · exact .refl s

theorem State.offerFrame_only (s : State) (r : Record) (k : Nat) : s.OffersOnly (s.offerFrame r k) := by
  have slot : s.OffersOnly (if k = 0 then s.offerSlot 9 false [] r else s) := by
    split
    · exact s.offerSlot_only ..
    · exact .refl s
  unfold State.offerFrame
  dsimp only
  split
  · exact slot
  · exact slot.trans (State.offerRead_only ..)

/-- The parts of a state beside the shuttles that the stream port speaks of. -/
theorem State.OffersOnly.same {s t : State} (h : s.OffersOnly t) :
    t.regs = s.regs ∧ t.out = s.out ∧ t.seg = s.seg ∧ t.strm = s.strm := by
  unfold State.OffersOnly at h
  rw [← h]
  exact ⟨rfl, rfl, rfl, rfl⟩

/-! ### The length of a frame (R334) -/

@[simp] theorem length_leBytes (n v : Nat) : (leBytes n v).length = n := by
  induction n generalizing v with
  | zero => rfl
  | succ n ih => rw [leBytes, List.length_cons, ih]

@[simp] theorem length_sliceBytes (bs : List Byte) (off n : Nat) : (sliceBytes bs off n).length = n := by
  simp only [sliceBytes, List.length_append, List.length_take, List.length_drop, List.length_replicate]
  omega

/-- A frame is a header and a trailer of 64 bytes around its payload, padded to whole units. -/
theorem Bolt.length_bytes (b : Bolt) : b.bytes.length = 64 * boltUnits b.payload.length := by
  simp only [Bolt.bytes, boltUnits, round64, List.length_append, length_leBytes, length_sliceBytes, List.length_replicate]
  omega

/-! ### The start of a frame (R336, R337) -/

/-- Frame k of record r as it leaves, with SENT and FSEQ_NEXT behind it. -/
def State.frameSends (s : State) (r : Record) (k : Nat) : State :=
  ((s.send (.boltFrame (s.boltOf r k).bytes)).setReg Reg.STRM_SENT
    (s.reg Reg.STRM_SENT + BitVec.ofNat 32 (boltUnits (s.boltOf r k).payload.length))).setReg Reg.STRM_FSEQ_NEXT
      (BitVec.ofNat 32 ((s.boltOf r k).fseq + 1))

/-- RESENT counts a frame that was sent before. -/
def State.countsResent (s : State) (again : Bool) : State := if again then s.rclAdd Reg.STRM_RESENT 1 else s

/-- The frame leaves a port that is not STALLED. -/
def State.frameLeaves (s : State) (r : Record) (k : Nat) : State :=
  ((s.frameSends r k).countsResent (4 ≤ (s.boltOf r k).flags || decide (k < (s.sentBefore (r.stream.gseq.getD 0)).length))).setBit
    F.STRM_STATUS_STALLED false

theorem State.sameRegsBut_rclAdd (s : State) (off n : Nat) : s.SameRegsBut (s.rclAdd off n) [off] :=
  fun o ho => State.reg_rclAdd_other s n (by simpa using ho)

theorem State.countsResent_spec (s : State) (again : Bool) : s.SameRegsBut (s.countsResent again) [Reg.STRM_RESENT] ∧
    (s.countsResent again).out = s.out ∧ (s.countsResent again).seg = s.seg ∧ (s.countsResent again).strm = s.strm := by
  unfold State.countsResent
  split
  · exact ⟨s.sameRegsBut_rclAdd _ _, State.rclAdd_out .., State.rclAdd_seg .., State.rclAdd_strm ..⟩
  · exact ⟨.refl s _, rfl, rfl, rfl⟩

/-- The frame and the registers that tell of it. -/
theorem State.frameLeaves_spec (s : State) (r : Record) (k : Nat) :
    (s.frameLeaves r k).out = s.out ++ [.boltFrame (s.boltOf r k).bytes] ∧
      (s.frameLeaves r k).reg Reg.STRM_SENT =
        s.reg Reg.STRM_SENT + BitVec.ofNat 32 (boltUnits (s.boltOf r k).payload.length) ∧
      (s.frameLeaves r k).reg Reg.STRM_FSEQ_NEXT = BitVec.ofNat 32 ((s.boltOf r k).fseq + 1) ∧
      (s.frameLeaves r k).bit F.STRM_STATUS_STALLED = false ∧
      s.SameRegsBut (s.frameLeaves r k) [Reg.STRM_SENT, Reg.STRM_FSEQ_NEXT, Reg.STRM_STATUS, Reg.STRM_RESENT] ∧
      (s.frameLeaves r k).seg = s.seg ∧ (s.frameLeaves r k).strm = s.strm := by
  obtain ⟨counted, out, seg, strm⟩ := (s.frameSends r k).countsResent_spec
    (4 ≤ (s.boltOf r k).flags || decide (k < (s.sentBefore (r.stream.gseq.getD 0)).length))
  have stalled := State.sameRegsBut_setF ((s.frameSends r k).countsResent
    (4 ≤ (s.boltOf r k).flags || decide (k < (s.sentBefore (r.stream.gseq.getD 0)).length))) F.STRM_STATUS_STALLED (b2n false)
  have left : (s.frameSends r k).SameRegsBut (s.frameLeaves r k) [Reg.STRM_RESENT, Reg.STRM_STATUS] :=
    (counted.mono (by simp)).trans (stalled.mono (by simp [F.STRM_STATUS_STALLED]))
  have sent : s.SameRegsBut (s.frameSends r k) [Reg.STRM_SENT, Reg.STRM_FSEQ_NEXT] :=
    ((State.sameRegsBut_setReg (s.send (.boltFrame (s.boltOf r k).bytes)) Reg.STRM_SENT _).mono (by simp)).trans
      ((State.sameRegsBut_setReg _ Reg.STRM_FSEQ_NEXT _).mono (by simp))
  refine ⟨out, ?_, ?_, State.bit_setBit_same _ _ _ (by decide) rfl, (sent.mono (by simp)).trans (left.mono (by simp)), seg, strm⟩
  · rw [left _ (by decide), State.frameSends, State.reg_setReg_other _ _ (by decide), State.reg_setReg_same]
  · rw [left _ (by decide), State.frameSends, State.reg_setReg_same]

/-- What the port notes of the frame. -/
def State.noted (s : State) (x : StrmSt) (r : Record) (k : Nat) : StrmSt :=
  let x := x.note (r.stream.gseq.getD 0) k (s.boltOf r k)
  let x : StrmSt := if s.lastFrame r k then { x with flying := true } else { x with frame := k + 1 }
  { x with asked := none }

/-- The frame has started; its requests are made where they were not made before. -/
def State.frameStarted (s : State) (r : Record) (k : Nat) : State :=
  let t : State := { s.frameLeaves r k with strm := s.noted (s.frameLeaves r k).strm r k }
  if s.strm.asked = some (r.stream.gseq.getD 0, k) then t else t.offerFrame r k

/-- A frame with credit waits for the memory to change its point (R292). -/
def State.frameAsked (s : State) (r : Record) (k : Nat) : State :=
  if s.strm.asked.isSome || (List.range 2).any (fun st => decide (16 ≤ requestCount ((s.shuttle st).queue 9))) then s
  else
    let s1 := s.offerFrame r k
    { s1 with strm := { s1.strm with asked := some (r.stream.gseq.getD 0, k) } }

theorem exec_streamFrameStart {s : State} {r : Record} {k : Nat} (next : s.nextFrame = some (r, k)) :
    exec .streamFrameStart s = .next (if !s.creditFor s.limitSeen (s.boltOf r k) then s
      else if s.bit F.MEM_STATUS_CHANGING && (k == 0 || !s.lastFrame r k) then s.frameAsked r k else s.frameStarted r k) := by
  show execStreamFrameStart s = _
  rw [execStreamFrameStart, next]
  rfl

theorem StrmSt.note_rest (x : StrmSt) (g k : Nat) (b : Bolt) : (x.note g k b).flying = x.flying ∧ (x.note g k b).frame = x.frame := by
  unfold StrmSt.note
  split <;> exact ⟨rfl, rfl⟩

theorem State.noted_rest (s : State) (x : StrmSt) (r : Record) (k : Nat) :
    if s.lastFrame r k then (s.noted x r k).flying = true ∧ (s.noted x r k).frame = x.frame
    else (s.noted x r k).flying = x.flying ∧ (s.noted x r k).frame = k + 1 := by
  obtain ⟨flying, frame⟩ := x.note_rest (r.stream.gseq.getD 0) k (s.boltOf r k)
  unfold State.noted
  split
  · exact ⟨rfl, frame⟩
  · exact ⟨flying, rfl⟩

/-- A started frame differs from what its leaving makes in what the port notes and in requests. -/
theorem State.frameStarted_spec (s : State) (r : Record) (k : Nat) :
    (s.frameStarted r k).regs = (s.frameLeaves r k).regs ∧ (s.frameStarted r k).out = (s.frameLeaves r k).out ∧
      (s.frameStarted r k).seg = (s.frameLeaves r k).seg ∧ (s.frameStarted r k).strm = s.noted s.strm r k := by
  obtain ⟨-, -, -, -, -, -, strm⟩ := s.frameLeaves_spec r k
  unfold State.frameStarted
  rw [strm]
  dsimp only
  split
  · exact ⟨rfl, rfl, rfl, rfl⟩
  · exact (State.offerFrame_only _ r k).same

theorem State.frameAsked_spec (s : State) (r : Record) (k : Nat) :
    (s.frameAsked r k).regs = s.regs ∧ (s.frameAsked r k).out = s.out ∧ (s.frameAsked r k).seg = s.seg ∧
      (s.frameAsked r k).strm.frame = s.strm.frame ∧ (s.frameAsked r k).strm.flying = s.strm.flying := by
  obtain ⟨regs, out, seg, strm⟩ := (s.offerFrame_only r k).same
  unfold State.frameAsked
  split
  · exact ⟨rfl, rfl, rfl, rfl, rfl⟩
  · refine ⟨regs, out, seg, ?_, ?_⟩
    · show (s.offerFrame r k).strm.frame = _
      rw [strm]
    · show (s.offerFrame r k).strm.flying = _
      rw [strm]

/-! ### A record that is VISIBLE (R229) -/

/-- From s to t the records of context a with sequence n stay visible at STREAM, and the stream port as it is. -/
structure KeepsSeen (a n : Nat) (s t : State) : Prop where
  recs : s.RecsAre a n (fun q => q.stream.visible = true) → t.RecsAre a n (fun q => q.stream.visible = true)
  strm : t.strm = s.strm

section

variable {a n : Nat}

theorem KeepsSeen.refl (s : State) : KeepsSeen a n s s := ⟨id, rfl⟩

theorem KeepsSeen.trans {s t u : State} (h : KeepsSeen a n s t) (k : KeepsSeen a n t u) : KeepsSeen a n s u :=
  ⟨fun x => k.recs (h.recs x), k.strm.trans h.strm⟩

theorem State.strm_gcChunks (s : State) (c : Nat) : (s.gcChunks c).strm = s.strm := by
  unfold State.gcChunks State.refreshResv
  dsimp only
  split <;> rfl

theorem State.strm_freeBuffer (s : State) (r : Record) : (s.freeBuffer r).strm = s.strm := by
  unfold State.freeBuffer
  split
  · rfl
  · rfl

theorem State.strm_givesSlot (s : State) (r : Record) : (s.givesSlot r).strm = s.strm := by
  unfold State.givesSlot
  split
  · rfl
  · split <;> rfl

theorem State.strm_serveMarkers (s : State) : s.serveMarkers.strm = s.strm := by
  rw [State.serveMarkers_eq]
  exact foldl_same State.strm _ State.strm_givesSlot _ _

theorem State.keepsSeen_retiresOne (s : State) (d : Nat) (r : Record) : KeepsSeen a n s (s.retiresOne d r) where
  recs seen := by
    have dropped : (s.dropRecs d r.cseq).RecsAre a n (fun q => q.stream.visible = true) :=
      fun q hq => seen q (State.mem_dropRecs.mp hq).1
    have freed := (State.quiet_freeBuffer (s.dropRecs d r.cseq) r).tends (Q := fun _ => False) (c := a) (n := n)
      (P := fun q => q.stream.visible = true)
    have served : Tends (fun _ => False) a n (fun q => q.stream.visible = true) (((s.dropRecs d r.cseq).freeBuffer r).gcChunks d)
        (s.retiresOne d r) :=
      Tends.foldl (fun u x => u.tends_givesSlot x fun _ _ _ _ _ => id) _ _
    exact ((freed.trans (State.tends_gcChunks _ d)).trans served).recs dropped
  strm := by
    rw [State.retiresOne, State.strm_serveMarkers, State.strm_gcChunks, State.strm_freeBuffer]
    rfl

theorem State.keepsSeen_retireFrom (d m : Nat) (s : State) : KeepsSeen a n s (State.retireFrom d m s) := by
  induction m generalizing s with
  | zero => exact .refl s
  | succ m ih =>
    rw [State.retireFrom_succ]
    split
    next => exact .refl s
    next r rest _ =>
      split
      next => exact (s.keepsSeen_retiresOne d r).trans (ih _)
      next => exact .refl s

theorem State.keepsSeen_judgeHeld (s : State) (c : Nat) : KeepsSeen a n s (s.judgeHeld c) where
  recs seen := by
    unfold State.RecsAre
    rw [State.recs_judgeHeld]
    exact seen
  strm := by
    unfold State.judgeHeld
    dsimp only
    split
    · exact State.hwSet_strm _ _
    · rfl

end

/-- REPLAYED counts a record sent again after a takeover (R402). -/
def State.countsReplayed (s : State) (again : Bool) : State := if again then s.rclAdd Reg.PAIR_REPLAYED 1 else s

theorem State.keepsSeen_countsReplayed {a n : Nat} (s : State) (again : Bool) : KeepsSeen a n s (s.countsReplayed again) where
  recs seen := by
    have recs : (s.countsReplayed again).seg = s.seg := by
      unfold State.countsReplayed
      split
      · exact State.rclAdd_seg ..
      · rfl
    unfold State.RecsAre
    rw [recs]
    exact seen
  strm := by
    unfold State.countsReplayed
    split
    · exact State.rclAdd_strm ..
    · rfl

/-- Once it is VISIBLE at STREAM a record is so, and the stream port as it was. -/
theorem State.makeVisible_spec (s : State) (r : Record) :
    (s.makeVisible r true).RecsAre r.ctx r.cseq (fun q => q.stream.visible = true) ∧ (s.makeVisible r true).strm = s.strm := by
  have seen : (s.mapRecs (fun q => q.ctx == r.ctx && q.cseq == r.cseq) fun q =>
      { q with stream := { q.stream with visible := true } }).RecsAre r.ctx r.cseq (fun q => q.stream.visible = true) :=
    State.recsAre_mapRecs (P' := fun _ => True) (fun _ _ _ _ => trivial) fun _ _ _ _ => rfl
  obtain ⟨recs, strm⟩ := ((State.keepsSeen_countsReplayed (a := r.ctx) (n := r.cseq) (s.mapRecs (fun q => q.ctx == r.ctx && q.cseq == r.cseq) fun q =>
      { q with stream := { q.stream with visible := true } }) r.stream.again).trans (State.keepsSeen_judgeHeld _ r.ctx)).trans
      (State.keepsSeen_retireFrom r.ctx _ _)
  exact ⟨recs seen, strm⟩

/-! ### The end of a record's last frame (R336, R345) -/

/-- The record in transmission is followed by the next one that is not acknowledged. -/
def State.recordSent (s : State) : State :=
  { s with strm := { s.strm with
    flying := false, gseq := max (s.strm.gseq + 1) (s.get64 Reg.STRM_ACKED_LO), frame := 0, resend := none
    visible := max s.strm.visible (s.strm.gseq + 1) } }

/-- The frames of a record that were sent keep their FSEQ. -/
def State.numbersFrom (s : State) (g : Nat) : State :=
  match s.frameStart g with
  | some (f, _) => s.setReg Reg.STRM_FSEQ_NEXT (BitVec.ofNat 32 f)
  | none => s

/-- The state behind a record's last frame, before the record is VISIBLE. -/
def State.nextRecord (s : State) : State := s.recordSent.numbersFrom (max (s.strm.gseq + 1) (s.get64 Reg.STRM_ACKED_LO))

theorem State.strm_numbersFrom (s : State) (g : Nat) : (s.numbersFrom g).strm = s.strm := by
  unfold State.numbersFrom
  split <;> rfl

theorem State.recAt_numbersFrom (s : State) (g h : Nat) : (s.numbersFrom g).recAt true h = s.recAt true h := by
  unfold State.numbersFrom
  split <;> rfl

section

variable {s : State} {r : Record} (flying : s.strm.flying = true ∧ s.strm.resend = none)
  (record : s.recAt true s.strm.gseq = some r) (unseen : r.stream.visible = false)

include flying record unseen

theorem exec_streamFrameSent_seen (whole : r.stream.gap = none ∨ (s.boltOf r s.strm.frame).kind ≠ 2) : exec .streamFrameSent s =
    .next (s.nextRecord.makeVisible r true) := by
  obtain ⟨flies, resend⟩ := flying
  have gapped : (r.stream.gap.isSome && !r.stream.visible && (s.boltOf r s.strm.frame).kind == 2) = false := by
    obtain none_ | other := whole
    · simp [none_]
    · simp [other]
  have found : s.nextRecord.recAt true s.strm.gseq = some r :=
    (State.recAt_numbersFrom _ _ _).trans record
  show execStreamFrameSent s = _
  rw [execStreamFrameSent, flies]
  simp only [record, gapped, resend]
  have same : (match s.nextRecord.recAt true s.strm.gseq with
      | some r => if r.stream.visible || false then s.nextRecord else
        s.nextRecord.makeVisible r true
      | none => s.nextRecord) =
      s.nextRecord.makeVisible r true := by
    rw [found]
    simp [unseen]
  exact congrArg Host.Outcome.next same

theorem exec_streamFrameSent_gapped (gap : r.stream.gap.isSome = true ∧ (s.boltOf r s.strm.frame).kind = 2) :
    exec .streamFrameSent s = .next { s with strm := { s.strm with flying := false, frame := s.strm.frame + 1 } } := by
  obtain ⟨flies, resend⟩ := flying
  obtain ⟨isGap, ends⟩ := gap
  show execStreamFrameSent s = _
  rw [execStreamFrameSent, flies]
  simp only [record, isGap, unseen, ends, resend]
  rfl

end

/-! ### CREDIT (R337, R344) -/

/-- A control frame without errors acts where the link is UP. -/
theorem State.control_good {s : State} {f : CtlFrame} (up : s.getF F.STRM_STATUS_STATE = 3)
    (good : f.errors.all (· == 0) = true ∧ f.corrected = 0) (b : Bolt) : s.control f b = s.ctlActs b := by
  obtain ⟨errors, corrected⟩ := good
  rw [State.control, if_neg (by omega)]
  simp only [corrected, if_true, receivedCtl, errors]

/-- LIMIT moves to where a CREDIT takes it. -/
def State.moveLimit (s : State) (limit : Word) : State :=
  let old := match s.strm.limitOld with
    | some (n, o) => if n = s.time.clk then o else (s.reg Reg.STRM_LIMIT).toNat
    | none => (s.reg Reg.STRM_LIMIT).toNat
  let s := s.setReg Reg.STRM_LIMIT limit
  { s with strm := { s.strm with limitOld := some (s.time.clk, old) } }

theorem exec_credit {s : State} {f : CtlFrame} (up : s.getF F.STRM_STATUS_STATE = 3)
    (good : f.errors.all (· == 0) = true ∧ f.corrected = 0) (limit : Word) : exec (.credit f limit) s =
      .next (if 2 ^ 31 ≤ (limit - s.reg Reg.STRM_LIMIT).toNat then s.hwSet F.STRM_EVENTS_CTL_IGNORED
        else (s.moveLimit limit).judgeStall) := by
  have acts : s.ctlActs (ctlBolt 0x8 limit.toNat 0 0) = s.creditActs limit := by
    show s.creditActs (BitVec.ofNat 32 limit.toNat) = _
    rw [BitVec.ofNat_toNat, BitVec.setWidth_eq]
  show execCredit f limit s = _
  rw [execCredit, State.control_good up good, acts, State.creditActs, if_neg (by simp [up])]
  rfl

theorem State.judgeStall_spec (s : State) : s.SameRegsBut s.judgeStall [Reg.STRM_STATUS] ∧ s.judgeStall.out = s.out ∧
    s.judgeStall.seg = s.seg := by
  unfold State.judgeStall
  split
  · split
    · exact ⟨State.sameRegsBut_setF s F.STRM_STATUS_STALLED _, rfl, rfl⟩
    · exact ⟨.refl s _, rfl, rfl⟩
  · exact ⟨.refl s _, rfl, rfl⟩

/-- Settles O53: with credit the next frame leaves, or is asked for while the memory changes; the end of a record's last frame makes it
VISIBLE, but for an END whose record became a gap; and CREDIT moves LIMIT where it lies ahead. -/
theorem streamCredit : Obligations.StreamCredit := by
  unfold Obligations.StreamCredit
  refine ⟨?starts, ?waits, ?sent, ?gapped, ?changing, ?credit⟩
  case starts =>
    rintro s r k b next rfl credit ready
    have covered : s.creditFor s.limitSeen (s.boltOf r k) = true := decide_eq_true credit
    have go : (s.bit F.MEM_STATUS_CHANGING && (k == 0 || !s.lastFrame r k)) = false := by
      obtain calm | ⟨later, last⟩ := ready
      · simp [calm]
      · simp [later, last]
    have started : exec .streamFrameStart s = .next (s.frameStarted r k) := by
      rw [exec_streamFrameStart next, covered, go]
      rfl
    obtain ⟨regs, out, seg, strm⟩ := s.frameStarted_spec r k
    obtain ⟨frame, sent, fseq, stalled, others, rest, -⟩ := s.frameLeaves_spec r k
    have same : (s.frameLeaves r k).SameRegsBut (s.frameStarted r k) [] := fun o _ => by rw [State.reg, regs]; rfl
    refine ⟨_, started, out.trans frame, Bolt.length_bytes _, (same _ (by simp)).trans sent, (same _ (by simp)).trans fseq,
      (same.bit (by simp)).trans stalled, ?_, others.trans (same.mono (by simp)), seg.trans rest⟩
    rw [strm]
    exact s.noted_rest s.strm r k
  case waits =>
    intro s r k next little
    have uncovered : s.creditFor s.limitSeen (s.boltOf r k) = false := decide_eq_false (Nat.not_le.mpr little)
    refine ⟨_, exec_streamFrameStart next, ?_⟩
    rw [uncovered]
    rfl
  case sent =>
    intro s r flying whole record unseen
    obtain ⟨seen, strm⟩ :=
      s.nextRecord.makeVisible_spec r
    refine ⟨_, exec_streamFrameSent_seen flying record unseen whole, ?_⟩
    rw [strm, State.nextRecord, State.strm_numbersFrom]
    exact ⟨rfl, rfl, rfl, Nat.le_max_right _ _, seen⟩
  case gapped =>
    rintro s r flying record ⟨unseen, isGap, ends⟩
    exact ⟨_, exec_streamFrameSent_gapped flying record unseen ⟨isGap, ends⟩, rfl, rfl, rfl, rfl, rfl⟩
  case changing =>
    rintro s r k next ⟨changing, reads⟩
    have asks : (s.bit F.MEM_STATUS_CHANGING && (k == 0 || !s.lastFrame r k)) = true := by
      obtain first | more := reads
      · simp [changing, first]
      · simp [changing, more]
    obtain ⟨regs, out, seg, frame, flying⟩ := s.frameAsked_spec r k
    refine ⟨_, exec_streamFrameStart next, ?_⟩
    rw [asks, if_pos rfl]
    split
    · exact ⟨rfl, rfl, rfl, rfl, rfl⟩
    · exact ⟨out, regs, seg, frame, flying⟩
  case credit =>
    intro s f limit up good
    refine ⟨_, exec_credit up good limit, ?_⟩
    split
    next beyond =>
      obtain ⟨set, regs, -⟩ := s.hwSet_spec (f := F.STRM_EVENTS_CTL_IGNORED) rfl rfl (by decide)
      refine ⟨fun h => absurd beyond (Nat.not_le.mpr h), fun _ => ⟨set, regs⟩, ?_, State.hwSet_seg ..⟩
      rw [State.hwSet_of_no_vector s rfl]
      simp
    next ahead =>
      obtain ⟨judged, out, seg⟩ := (s.moveLimit limit).judgeStall_spec
      have moved : s.SameRegsBut (s.moveLimit limit) [Reg.STRM_LIMIT] := State.sameRegsBut_setReg s _ _
      refine ⟨fun _ => ⟨?_, (moved.mono (by simp)).trans (judged.mono (by simp))⟩, fun h => absurd h ahead, out, seg⟩
      rw [judged _ (by decide)]
      exact State.reg_setReg_same s _ _

end Sys2Proof.Machine
end

section
/-! PROOF. What a vertical blank leaves of the display's shadows and of LOCK (spec/14_display_scanout.md R351, R356). -/

namespace Sys2Proof.Machine

open Sys2Proof.Laws

/-! ### The state of a PLL -/

theorem State.setGate_eq (s : State) (p : Pll) (gated : Bool) :
    s.setGate p gated = (s.setBit (F.CLK_PLL_STATUS_GATED p.idx) gated).drivesOuts p gated 6 := rfl

/-- A PLL's change of state stays within CLK. -/
theorem State.reg_setPll (s : State) (p : Pll) (st : Nat) {o : Nat} (h : 0xb0000 ≤ o) : (s.setPll p st).reg o = s.reg o := by
  have hp : p.idx < 5 := pllIdx_lt p
  have status : o ≠ Reg.CLK_PLL_STATUS p.idx := by
    show o ≠ 0xa0100 + 32 * p.idx
    omega
  have outs : o ∉ (List.range 6).map (Reg.CLK_OUT p.idx) := by
    simp only [List.mem_map, List.mem_range, Reg.CLK_OUT, not_exists, not_and]
    omega
  have gate (u : State) (gated : Bool) : (u.setGate p gated).reg o = u.reg o := by
    rw [State.setGate_eq, State.sameRegsBut_drivesOuts _ p gated 6 o outs]
    exact State.reg_setF_other _ _ _ status
  have set : (s.setF (F.CLK_PLL_STATUS_STATE p.idx) st).reg o = s.reg o := State.reg_setF_other _ _ _ status
  have taken : (if st == pllLocked then (s.setF (F.CLK_PLL_STATUS_STATE p.idx) st).takeEn p
      else s.setF (F.CLK_PLL_STATUS_STATE p.idx) st).reg o = s.reg o := by
    split
    · exact set
    · exact set
  unfold State.setPll
  dsimp only
  split
  · exact taken
  · exact (gate _ _).trans taken

/-- A PLL that locks is locked. -/
theorem State.pllState_setPll_locked (s : State) (p : Pll) : (s.setPll p pllLocked).pllState p = pllLocked := by
  have outs : (F.CLK_PLL_STATUS_STATE p.idx).off ∉ (List.range 6).map (Reg.CLK_OUT p.idx) := by
    simp only [List.mem_map, not_exists, not_and]
    exact fun o _ e => pllStatus_notMem_out p p o (List.mem_singleton.mpr e.symm)
  have beside : (((s.setF (F.CLK_PLL_STATUS_STATE p.idx) pllLocked).takeEn p).setGate p (!runsIn pllLocked)).pllState p =
      (s.setF (F.CLK_PLL_STATUS_STATE p.idx) pllLocked).pllState p := by
    rw [State.setGate_eq, State.pllState, State.getF_congr_reg (State.sameRegsBut_drivesOuts _ p _ 6 _ outs)]
    exact State.getF_setF_beside _ _ _ _ _ _ _ (by decide) (by decide)
  show (((s.setF (F.CLK_PLL_STATUS_STATE p.idx) pllLocked).takeEn p).setGate p (!runsIn pllLocked)).pllState p = _
  rw [beside, State.pllState, State.getF_setF_same _ _ _ (by show 0 + 3 ≤ 32; decide)]
  rfl

/-! ### What a blank keeps -/

/-- FRAME_COUNT, LOCK and the shadows of DISP. -/
def BlankKept (o : Nat) : Prop := o = Reg.DISP_FRAME_COUNT ∨ o = Reg.DISP_LOCK ∨ o ∈ dispShadows

/-- The shadows stand at BACKGROUND, in the first 28 bytes of a layer, and in POS, SIZE, E  · have marked : ∀ u : State, Blanks u (if uPECT and CFG of a rectangle. -/
theorem dispShadows_place : ∀ o ∈ dispShadows, o = 0x140028 ∨ (0x140100 ≤ o ∧ o < 0x140200 ∧ (o - 0x140100) % 64 < 28) ∨
    (0x140200 ≤ o ∧ o < 0x140300 ∧ ((o - 0x140200) % 32 < 12 ∨ (o - 0x140200) % 32 = 20)) := by
  decide

/-- Where FRAME_COUNT, LOCK and the shadows stand. -/
def BlankPlace (o : Nat) : Prop := o = 0x14000c ∨ o = 0x14002c ∨ o = 0x140028 ∨
  (0x140100 ≤ o ∧ o < 0x140200 ∧ (o - 0x140100) % 64 < 28) ∨
  (0x140200 ≤ o ∧ o < 0x140300 ∧ ((o - 0x140200) % 32 < 12 ∨ (o - 0x140200) % 32 = 20))

theorem BlankKept.place {o : Nat} (h : BlankKept o) : BlankPlace o := by
  obtain rfl | rfl | shadow := h
  · exact .inl rfl
  · exact .inr (.inl rfl)
  · exact .inr (.inr (dispShadows_place o shadow))

theorem not_blankKept_low {o : Nat} (h : o < 0x140000) : ¬ BlankKept o := fun k => by
  have := k.place
  unfold BlankPlace at this
  omega

theorem not_blankKept_layer {n i : Nat} (hi : 28 ≤ i ∧ i < 64) (hn : n < 4) : ¬ BlankKept (0x140100 + i + 64 * n) := fun k => by
  have := k.place
  unfold BlankPlace at this
  omega

theorem not_blankKept_status : ¬ BlankKept Reg.DISP_STATUS := fun h => absurd h.place (by unfold BlankPlace; decide)

theorem not_blankKept_crcStatus : ¬ BlankKept Reg.DISP_CRC_STATUS := fun h => absurd h.place (by unfold BlankPlace; decide)

theorem not_blankKept_void : ¬ BlankKept Reg.DISP_CRC_VOID := fun h => absurd h.place (by unfold BlankPlace; decide)

/-- From s to t the registers that a blank keeps, the shadows in effect and those written in this clock stay. -/
structure Blanks (s t : State) : Prop where
  regs : Leaves BlankKept s t
  eff : t.disp.eff = s.disp.eff
  wrote : t.disp.wrote = s.disp.wrote

theorem Blanks.refl (s : State) : Blanks s s := ⟨.refl s, rfl, rfl⟩

theorem Blanks.trans {s t u : State} (a : Blanks s t) (b : Blanks t u) : Blanks s u :=
  ⟨a.regs.trans b.regs, b.eff.trans a.eff, b.wrote.trans a.wrote⟩

theorem Blanks.ite {s t u : State} {c : Prop} [Decidable c] (a : Blanks s t) (b : Blanks s u) : Blanks s (if c then t else u) := by
  split <;> assumption

theorem Blanks.foldl {α : Type} {f : State → α → State} (l : List α) (s : State)
    (hf : ∀ a ∈ l, ∀ u, Blanks u (f u a)) : Blanks s (l.foldl f s) := by
  induction l generalizing s with
  | nil => exact .refl s
  | cons a l ih => exact (hf a (by simp) s).trans (ih _ fun b hb => hf b (by simp [hb]))

/-- An update of registers that a blank does not keep. -/
theorem Blanks.of_disp {s t : State} (regs : Leaves BlankKept s t) (disp : t.disp = s.disp) : Blanks s t :=
  ⟨regs, by rw [disp], by rw [disp]⟩

theorem State.blanks_setF (s : State) {f : Fld} (n : Nat) (h : ¬ BlankKept f.off) : Blanks s (s.setF f n) :=
  .of_disp ((Leaves.refl s).setF n h) rfl

theorem State.blanks_setReg (s : State) {o : Nat} (v : Word) (h : ¬ BlankKept o) : Blanks s (s.setReg o v) :=
  .of_disp ((Leaves.refl s).setReg v h) rfl

theorem State.blanks_rclAdd (s : State) {o : Nat} (n : Nat) (h : ¬ BlankKept o) : Blanks s (s.rclAdd o n) :=
  .of_disp ((Leaves.refl s).rclAdd n h) (State.rclAdd_disp s o n)

/-- Setting an event of the display raises its vector (R324, R421). -/
theorem State.dispEvent_spec (s : State) {f : Fld} (h : f.off = Reg.DISP_EVENTS) (hw : f.w = 1) (hlo : f.lo < 32) :
    (s.hwSet f).bit f = true ∧ s.SameRegsBut (s.hwSet f) (Reg.DISP_EVENTS :: pbaRegs) := by
  have := s.hwSet_vector_spec (f := f) (m := F.DMA_VEC_MAP_DISP) (by rw [h]; rfl) rfl (by rw [h]; decide) hw hlo
  rwa [h] at this

theorem not_blankKept_event {o : Nat} (k : BlankKept o) : o ∉ Reg.DISP_EVENTS :: pbaRegs := by
  have := k.place
  unfold BlankPlace at this
  simp only [pbaRegs, Reg.DISP_EVENTS, List.mem_cons, List.not_mem_nil, or_false]
  omega

theorem State.blanks_event (s : State) {f : Fld} (h : f.off = Reg.DISP_EVENTS) (hw : f.w = 1) (hlo : f.lo < 32) :
    Blanks s (s.hwSet f) :=
  .of_disp ⟨fun o k => (s.dispEvent_spec h hw hlo).2 o (not_blankKept_event k)⟩ (State.hwSet_disp s f)

/-! ### The end of the frame in progress -/

theorem State.blanks_underrun (s : State) {n : Nat} (count : Nat) (hn : n < 4) : Blanks s (s.underrun n count) := by
  unfold State.underrun
  split
  · exact .refl s
  · have place : ¬ BlankKept (Reg.DISP_LAYER_UNDERRUN n) := not_blankKept_layer (i := 40) (by decide) hn
    exact (s.blanks_rclAdd count place).trans (State.blanks_event _ rfl rfl (by decide))

theorem Blanks.of_offers {s t : State} (h : s.OffersOnly t) : Blanks s t := by
  obtain ⟨regs, -⟩ := h.same
  refine .of_disp ((Leaves.refl s).of_regs regs) ?_
  unfold State.OffersOnly at h
  rw [← h]

theorem State.offerSpill_only (s : State) (req j lo hi : Nat) : s.OffersOnly (s.offerSpill req j lo hi) := s.offerArea_only ..

theorem State.blanks_fetchWave (s : State) : Blanks s s.fetchWave := by
  unfold State.fetchWave
  dsimp only
  split
  · exact .refl s
  · exact Blanks.foldl _ s fun c _ u => .of_offers (u.offerSpill_only ..)

theorem not_blankKept_rect {k i : Nat} (hi : 12 ≤ i ∧ i < 20 ∨ 24 ≤ i ∧ i < 32) (hk : k < 8) : ¬ BlankKept (0x140200 + i + 32 * k) :=
  fun h => by
    have := h.place
    unfold BlankPlace at this
    omega

theorem State.blanks_compareRect (late : FrameLate) (s : State) {k : Nat} (hk : k < 8) : Blanks s (State.compareRect late s k) := by
  have skipped : ¬ BlankKept (Reg.DISP_CRC_SKIPPED k) := not_blankKept_rect (i := 24) (by decide) hk
  have result : ¬ BlankKept (Reg.DISP_CRC_RESULT k) := not_blankKept_rect (i := 12) (by decide) hk
  have mismatch : ¬ BlankKept (Reg.DISP_CRC_MISMATCH k) := not_blankKept_rect (i := 16) (by decide) hk
  have status : ¬ BlankKept (bitFld Reg.DISP_CRC_STATUS k).off := not_blankKept_crcStatus
  unfold State.compareRect
  split
  · exact .refl s
  · split
    · exact s.blanks_rclAdd 1 skipped
    · dsimp only
      have stored := s.blanks_setReg (s.rectCrc late k) result
      split
      · exact stored.trans (State.blanks_setF _ _ status)
      · exact ((stored.trans (State.blanks_rclAdd _ 1 mismatch)).trans (State.blanks_setF _ _ status)).trans
          (State.blanks_event _ rfl rfl (by decide))

/-- What the end of a frame does behind FRAME_COUNT. -/
def State.frameEnds (s : State) (late : FrameLate) : State :=
  if s.getF F.DISP_STATUS_STATE = dispBlank then
    let s := s.rclAdd Reg.DISP_CRC_VOID 1
    let s := if s.disp.timingBlack then s.hwSet F.DISP_EVENTS_TIMING_DONE else s
    let s : State := { s with disp := { s.disp with timingBlack := false } }
    s.setF F.DISP_STATUS_STATE dispActive
  else
    let s := ((s.underrun 0 (s.lateBins late)).underrun 1 (s.shortLines late 1)).underrun 2 (s.shortLines late 2)
    let s := (if s.layerOn 0 && s.waveVoid then s.hwSet F.DISP_EVENTS_WAVE_VOID else s).fetchWave
    ((List.range 8).foldl (State.compareRect late) s).nextFree

theorem State.endFrame_eq (s : State) (late : FrameLate) :
    s.endFrame late = (s.setReg Reg.DISP_FRAME_COUNT (s.reg Reg.DISP_FRAME_COUNT + 1)).frameEnds late := rfl

theorem State.blanks_frameEnds (s : State) (late : FrameLate) : Blanks s (s.frameEnds late) := by
  unfold State.frameEnds
  split
  · have marked (u : State) : Blanks u (if u.disp.timingBlack then u.hwSet F.DISP_EVENTS_TIMING_DONE else u) :=
      .ite (u.blanks_event rfl rfl (by decide)) (.refl u)
    have cleared (u : State) : Blanks u { u with disp := { u.disp with timingBlack := false } } :=
      ⟨(Leaves.refl u).of_regs rfl, rfl, rfl⟩
    exact (((s.blanks_rclAdd 1 not_blankKept_void).trans (marked _)).trans (cleared _)).trans
      (State.blanks_setF _ _ not_blankKept_status)
  · have under := ((s.blanks_underrun (s.lateBins late) (n := 0) (by decide)).trans
      (State.blanks_underrun _ (s.shortLines late 1) (n := 1) (by decide))).trans
      (State.blanks_underrun _ (s.shortLines late 2) (n := 2) (by decide))
    have wave (u : State) : Blanks u (if u.layerOn 0 && u.waveVoid then u.hwSet F.DISP_EVENTS_WAVE_VOID else u) :=
      .ite (u.blanks_event rfl rfl (by decide)) (.refl u)
    have compared (u : State) : Blanks u ((List.range 8).foldl (State.compareRect late) u) :=
      .foldl _ u fun k hk v => v.blanks_compareRect late (List.mem_range.mp hk)
    have free (u : State) : Blanks u u.nextFree := ⟨(Leaves.refl u).of_regs rfl, rfl, rfl⟩
    exact (((under.trans (wave _)).trans (State.blanks_fetchWave _)).trans (compared _)).trans (free _)

/-! ### The next frame -/

theorem State.blanks_withdrawLayer (s : State) (l : Nat) : Blanks s (s.withdrawLayer l) := by
  unfold State.withdrawLayer
  refine Blanks.foldl _ s fun n hn u => ?_
  have hn : n < 32 := List.mem_range.mp (List.mem_filter.mp hn).1
  have held (x : ChanSt) : Blanks u (u.setChan n x) := ⟨(Leaves.refl u).of_regs rfl, rfl, rfl⟩
  have low : ¬ BlankKept (Reg.DMA_CH_WITHDRAWN n) := not_blankKept_low (by
    show 0x120418 + 64 * n < 0x140000
    omega)
  exact (held _).trans (State.blanks_rclAdd _ _ low)

/-- Whether PPLL relocks for the timing that takes effect (R161, R169). -/
def State.timingRelocks (s : State) : Bool :=
  (s.disp.pendTiming.getD s.disp.timing).getD 4 0 != s.timingWord 4 ||
    (s.pllState .ppll != pllLocked && s.pllState .ppll != pllHoldover)

/-- The pending timing in force, with a black frame to come. -/
def State.retimed (s : State) (report : Bool) : State :=
  ({ s with disp := { s.disp with
    timing := s.disp.pendTiming.getD s.disp.timing, pendTiming := none, relock := s.timingRelocks
    timingBlack := report && s.disp.pendTiming.isSome } } : State).setF F.DISP_STATUS_STATE dispBlank

theorem State.takeTiming_eq (s : State) (report : Bool) :
    s.takeTiming report = if s.timingRelocks then (s.retimed report).setPll .ppll pllSearch else s.retimed report := rfl

theorem State.blanks_takeTiming (s : State) (report : Bool) : Blanks s (s.takeTiming report) := by
  have retimed : Blanks s (s.retimed report) :=
    ⟨((Leaves.refl s).setF dispBlank not_blankKept_status).of_regs rfl, rfl, rfl⟩
  have pll (u : State) : Blanks u (u.setPll .ppll pllSearch) := by
    refine .of_disp ⟨fun o k => u.reg_setPll _ _ ?_⟩ (State.setPll_disp u _ _)
    have := k.place
    unfold BlankPlace at this
    omega
  rw [State.takeTiming_eq]
  exact .ite (retimed.trans (pll _)) retimed

theorem not_blankKept_layerStatus {n : Nat} (hn : n < 4) : ¬ BlankKept (Reg.DISP_LAYER_STATUS n) :=
  not_blankKept_layer (i := 28) (by decide) hn

/-- Layer n is in effect where its set asks for it and is valid. -/
def State.layerJudged (s : State) (n : Nat) : State :=
  let en := (s.dispEff (Reg.DISP_LAYER_CFG n)).getLsbD 31
  (if en && !s.layerValid n then s.hwSet F.DISP_EVENTS_LAYER_BAD else s).setBit (F.DISP_LAYER_STATUS_ENABLED n)
    (en && s.layerValid n)

/-- A new address clears RELEASED (R357). -/
def State.addressTaken (s : State) (n : Nat) (fresh : Bool) : State :=
  if fresh then s.setBit (F.DISP_LAYER_STATUS_RELEASED n) false else s

/-- The buffer of an overlay is displaced by a new address, or by the overlay's end (R357). -/
def State.bufferTakes (s was : State) (n : Nat) (ends : Bool) : State :=
  let fresh := s.overlayAddr n != was.overlayAddr n
  let s := s.addressTaken n fresh
  if was.layerOn n && (fresh || ends) then
    { s with disp := { s.disp with displaced := sparseSet (fun _ => none) s.disp.displaced n (some (was.overlayAddr n)) } }
  else s

theorem State.layerTakes_eq (s was : State) (n : Nat) : s.layerTakes was n = if n = 1 ∨ n = 2 then
    (s.layerJudged n).bufferTakes was n (!((s.dispEff (Reg.DISP_LAYER_CFG n)).getLsbD 31 && s.layerValid n))
    else s.layerJudged n := rfl

theorem State.blanks_layerTakes (s was : State) {n : Nat} (hn : n < 4) : Blanks s (s.layerTakes was n) := by
  have judged : Blanks s (s.layerJudged n) :=
    (Blanks.ite (s.blanks_event rfl rfl (by decide)) (.refl s)).trans (State.blanks_setF _ _ (not_blankKept_layerStatus hn))
  have taken (u : State) (fresh : Bool) : Blanks u (u.addressTaken n fresh) :=
    .ite (u.blanks_setF _ (not_blankKept_layerStatus hn)) (.refl u)
  have displaced (u : State) (m : Sparse (Option Nat)) : Blanks u { u with disp := { u.disp with displaced := m } } :=
    ⟨(Leaves.refl u).of_regs rfl, rfl, rfl⟩
  rw [State.layerTakes_eq]
  refine .ite (judged.trans ?_) judged
  exact .ite ((taken _ _).trans (displaced _ _)) (taken _ _)

theorem State.blanks_handBack (s was : State) {n : Nat} (hn : n < 4) : Blanks s (s.handBack was n) := by
  have address : ¬ BlankKept (Reg.DISP_LAYER_REL_ADDR_LO n) := not_blankKept_layer (i := 32) (by decide) hn
  have high : ¬ BlankKept (Reg.DISP_LAYER_REL_ADDR_LO n + 4) := fun k => by
    have := k.place
    simp only [BlankPlace, Reg.DISP_LAYER_REL_ADDR_LO] at this
    omega
  have stored (u : State) (a : Nat) : Blanks u (u.set64 (Reg.DISP_LAYER_REL_ADDR_LO n) a) :=
    .of_disp ((Leaves.refl u).set64 a address high) rfl
  unfold State.handBack
  split
  · exact .refl s
  · exact ((s.blanks_setF _ (not_blankKept_layerStatus hn)).trans (stored _ _)).trans (State.blanks_event _ rfl rfl (by decide))

end Sys2Proof.Machine
end

section
/-! PROOF. The display link, its timing, AUX, the cursor, and the vertical blank (spec/14_display_scanout.md R348 to R356). -/

namespace Sys2Proof.Machine

open Sys2Proof.Laws

/-- A host write that meets a register of DISP is performed, and no more: DISP is not forwarded (R394). -/
theorem State.hostWrite_disp {s : State} {off : Nat} (h : s.takesWrite off = true) (hb : off / 0x10000 = 0x14) (v : Word)
    (k : State → State) : s.hostWrite off v k = k s :=
  State.hostWrite_local h (by rw [hb]; rfl) v k

/-! ### The vertical blank (R351, R356) -/

theorem sparseGet_foldl_set {α : Type} [DecidableEq α] (d value : Nat → α) (l : List Nat) (m : Sparse α) (o : Nat) :
    sparseGet d (l.foldl (fun m k => sparseSet d m k (value k)) m) o = if o ∈ l then value o else sparseGet d m o := by
  induction l generalizing m with
  | nil => rfl
  | cons k l ih =>
    rw [List.foldl_cons, ih, sparseGet_set]
    by_cases later : o ∈ l
    · rw [if_pos later, if_pos (List.mem_cons_of_mem _ later)]
    · by_cases now : o = k <;> simp [later, now]

/-- What a shadow takes: its value before a write of this clock, else what it reads (R356). -/
def State.shadowValue (s : State) (off : Nat) : Word :=
  match s.disp.wrote.find? (fun p => p.1 == off) with
  | some p => p.2
  | none => s.reg off

theorem State.eff_takeShadows (s : State) : s.takeShadows.disp.eff =
    dispShadows.foldl (fun m off => sparseSet resetValue m off (s.shadowValue off)) s.disp.eff := rfl

/-- A shadow that was not written in this clock takes effect as it reads. -/
theorem State.dispEff_takeShadows {s : State} {o : Nat} (shadow : o ∈ dispShadows)
    (earlier : s.disp.wrote.all (fun p => p.1 != o) = true) : s.takeShadows.dispEff o = s.reg o := by
  have unwritten : s.disp.wrote.find? (fun p => p.1 == o) = none := by
    rw [List.find?_eq_none]
    intro p hp
    simpa using List.all_eq_true.mp earlier p hp
  have value : s.shadowValue o = s.reg o := by rw [State.shadowValue, unwritten]
  rw [State.dispEff, State.eff_takeShadows, sparseGet_foldl_set, if_pos shadow, value]

/-- The frame has ended, and no overlay asks for lines. -/
def State.frameOver (s : State) (late : FrameLate) : State := ((s.endFrame late).withdrawLayer 1).withdrawLayer 2

/-- The shadows taken, but for those of a display that is LOCKed. -/
def State.shadowsTaken (s : State) : State := if s.bit F.DISP_LOCK_LOCK then s else s.takeShadows

/-- Taking the shadows touches no register. -/
theorem State.reg_shadowsTaken (s : State) (o : Nat) : s.shadowsTaken.reg o = s.reg o := by
  unfold State.shadowsTaken
  split
  · rfl
  · rfl

/-- A pending timing of an earlier clock takes effect, but for that of a display that is LOCKed. -/
def State.timingTaken (s was : State) : State :=
  if !was.bit F.DISP_LOCK_LOCK && (s.disp.pendTiming.isSome && !was.disp.wrote.any (fun p => p.1 == Reg.DISP_TIMING_COMMIT)) then
    s.takeTiming true else s

/-- No buffer is displaced yet. -/
def State.noneDisplaced (s : State) : State := { s with disp := { s.disp with displaced := [] } }

/-- The layers of the next picture. -/
def State.layersTaken (s was : State) : State := (List.range 4).foldl (fun s n => s.layerTakes was n) s

/-- Rectangles outside the active area are reported (R359). -/
def State.rectsJudged (s : State) : State :=
  if (List.range 8).any (fun k => s.rectOn k && !s.rectInside k) then s.hwSet F.DISP_EVENTS_RECT_BAD else s

/-- No line is fetched yet. -/
def State.noLines (s : State) : State := { s with disp := { s.disp with lines := [] } }

/-- What the state at the end of the frame, and what was taken of it, make of the next picture. -/
def State.nextPicture (s was : State) : State :=
  (((((s.timingTaken was).noneDisplaced.layersTaken was).handBack was 1).handBack was 2).rectsJudged).noLines

theorem State.verticalBlank_eq (s : State) (late : FrameLate) :
    s.verticalBlank late = (s.frameOver late).shadowsTaken.nextPicture (s.frameOver late) := by
  unfold State.verticalBlank State.nextPicture State.rectsJudged State.layersTaken State.noneDisplaced State.timingTaken State.noLines
    State.shadowsTaken State.frameOver
  with_reducible rfl

theorem State.blanks_nextPicture (s was : State) : Blanks s (s.nextPicture was) := by
  have timed : Blanks s (s.timingTaken was) := .ite (s.blanks_takeTiming true) (.refl s)
  have none_ (u : State) : Blanks u u.noneDisplaced := ⟨(Leaves.refl u).of_regs rfl, rfl, rfl⟩
  have layers (u : State) : Blanks u (u.layersTaken was) :=
    .foldl _ u fun n hn v => v.blanks_layerTakes was (List.mem_range.mp hn)
  have rects (u : State) : Blanks u u.rectsJudged := .ite (u.blanks_event rfl rfl (by decide)) (.refl u)
  have noLines (u : State) : Blanks u u.noLines := ⟨(Leaves.refl u).of_regs rfl, rfl, rfl⟩
  have picture := ((timed.trans (none_ _)).trans (layers _)).trans (State.blanks_handBack _ was (n := 1) (by decide))
  exact ((picture.trans (State.blanks_handBack _ was (n := 2) (by decide))).trans (rects _)).trans (noLines _)

/-- The frame counted. -/
def State.frameCounted (s : State) : State := s.setReg Reg.DISP_FRAME_COUNT (s.reg Reg.DISP_FRAME_COUNT + 1)

theorem State.blanks_frameOver (s : State) (late : FrameLate) : Blanks s.frameCounted (s.frameOver late) := by
  rw [State.frameOver, State.endFrame_eq]
  show Blanks s.frameCounted (((s.frameCounted.frameEnds late).withdrawLayer 1).withdrawLayer 2)
  exact ((s.frameCounted.blanks_frameEnds late).trans (State.blanks_withdrawLayer _ 1)).trans (State.blanks_withdrawLayer _ 2)

theorem State.verticalBlank_spec (s : State) (late : FrameLate) {o : Nat} (shadow : o ∈ dispShadows)
    (earlier : s.disp.wrote.all (fun p => p.1 != o) = true) :
    (s.verticalBlank late).reg Reg.DISP_FRAME_COUNT = s.reg Reg.DISP_FRAME_COUNT + 1 ∧
      (s.verticalBlank late).dispEff o = if s.bit F.DISP_LOCK_LOCK then s.dispEff o else s.reg o := by
  have ended := s.blanks_frameOver late
  have next := State.blanks_nextPicture (s.frameOver late).shadowsTaken (s.frameOver late)
  have apart : o ≠ Reg.DISP_FRAME_COUNT := fun e => absurd (e ▸ shadow) (by decide)
  have same : (s.frameOver late).reg o = s.reg o :=
    (ended.regs.reg o (.inr (.inr shadow))).trans (State.reg_setReg_other _ _ apart)
  have lock : (s.frameOver late).bit F.DISP_LOCK_LOCK = s.bit F.DISP_LOCK_LOCK := by
    rw [ended.regs.bit F.DISP_LOCK_LOCK (.inr (.inl rfl)), State.bit, State.getF, State.frameCounted,
      State.reg_setReg_other _ _ (by decide)]
    rfl
  have unwritten : (s.frameOver late).disp.wrote.all (fun p => p.1 != o) = true := by
    rw [ended.wrote]
    exact earlier
  rw [State.verticalBlank_eq]
  refine ⟨?_, ?_⟩
  · rw [next.regs.reg _ (.inl rfl), State.reg_shadowsTaken, ended.regs.reg _ (.inl rfl), State.frameCounted, State.reg_setReg_same]
  · have kept : (s.frameOver late).dispEff o = s.dispEff o := by
      rw [State.dispEff, ended.eff, State.frameCounted, State.setReg_disp, State.dispEff]
    have shown : ((s.frameOver late).shadowsTaken.nextPicture (s.frameOver late)).dispEff o =
        (s.frameOver late).shadowsTaken.dispEff o := by
      rw [State.dispEff, next.eff, State.dispEff]
    rw [shown, State.shadowsTaken, lock]
    split
    · exact kept
    · rw [State.dispEff_takeShadows shadow unwritten, same]

end Sys2Proof.Machine
end

section
/-! PROOF. The display link, its timing, AUX and the cursor pages (spec/14_display_scanout.md R348 to R350, R354, R355). -/

namespace Sys2Proof.Machine

open Sys2Proof.Laws

/-! ### Words -/

theorem fieldOf_or_and (v a m : Word) {lo w : Nat} (h : ∀ i < w, m.getLsbD (lo + i) = true ∧ a.getLsbD (lo + i) = false) :
    fieldOf ((v ||| a) &&& m) lo w = fieldOf v lo w := by
  apply Nat.eq_of_testBit_eq
  intro i
  rw [fieldOf_testBit, fieldOf_testBit]
  by_cases hi : i < w
  · obtain ⟨masked, low⟩ := h i hi
    simp [masked, low]
  · simp [hi]

/-- A word within a mask has no bit beside it. -/
theorem bit_within {m old : Word} (within : old &&& ~~~m = 0) {i : Nat} (hi : i < 32) : (old.getLsbD i && !m.getLsbD i) = false := by
  have bit := congrArg (BitVec.getLsbD · i) within
  simpa [hi] using bit

/-- The difference of a masked word from one within the mask, in bits that another word leaves. -/
theorem or_and_xor_and (v a m old k : Word) (within : old &&& ~~~m = 0) (apart : a &&& k = 0) :
    (((v ||| a) &&& m) ^^^ old) &&& k = (v ^^^ old) &&& m &&& k := by
  have bits : ∀ v a m o k : Bool, (o && !m) = false → (a && k) = false →
      (Bool.xor ((v || a) && m) o && k) = ((Bool.xor v o && m) && k) := by decide
  refine BitVec.eq_of_getLsbD_eq fun i hi => ?_
  have beside := congrArg (BitVec.getLsbD · i) apart
  simp only [BitVec.getLsbD_and, BitVec.getLsbD_xor, BitVec.getLsbD_or]
  exact bits _ _ _ _ _ (bit_within within hi) (by simpa using beside)

theorem and_and_xor_and (m old k : Word) (within : old &&& ~~~m = 0) : (((old &&& k) &&& m) ^^^ old) &&& k = 0 := by
  have bits : ∀ m o k : Bool, (o && !m) = false → (Bool.xor ((o && k) && m) o && k) = false := by decide
  refine BitVec.eq_of_getLsbD_eq fun i hi => ?_
  simp only [BitVec.getLsbD_and, BitVec.getLsbD_xor]
  rw [bits _ _ _ (bit_within within hi)]
  simp

/-! ### CTRL (R348, R360) -/

/-- A word of CTRL with EN set, as the register holds it. -/
def enWord (v : Word) : Word := (v ||| 0x80000000) &&& maskAt Reg.DISP_CTRL

theorem enWord_en (v : Word) : (enWord v).getLsbD 31 = true := by
  have en : (maskAt Reg.DISP_CTRL).getLsbD 31 = true := by decide
  have set : (0x80000000 : Word).getLsbD 31 = true := by decide
  rw [enWord, BitVec.getLsbD_and, BitVec.getLsbD_or, en, set, Bool.or_true, Bool.and_true]

theorem enWord_fields (v : Word) : fieldOf (enWord v) 16 2 = fieldOf v 16 2 ∧ fieldOf (enWord v) 8 3 = fieldOf v 8 3 :=
  ⟨fieldOf_or_and v _ _ (by decide), fieldOf_or_and v _ _ (by decide)⟩

theorem State.ctrlEn_eq (s : State) : (s.reg Reg.DISP_CTRL).getLsbD 31 = s.bit F.DISP_CTRL_EN :=
  (s.bit_eq_getLsbD (f := F.DISP_CTRL_EN) rfl).symm

/-- EN starts the link. -/
def State.linkStarts (s : State) (v : Word) : State :=
  (s.setReg Reg.DISP_CTRL (enWord v)).setF F.DISP_STATUS_STATE (if s.bit F.DISP_STATUS_HPD then dispTraining else dispWaitHpd)

theorem State.dispCtrl_en {s : State} (off : s.bit F.DISP_CTRL_EN = false) (v : Word) : s.dispCtrl (v ||| 0x80000000) =
    if fieldOf v 16 2 = 3 ∨ 3 < fieldOf v 8 3 then s.setReg Reg.DISP_CTRL (enWord v &&& 0x7FFFFFFF) else s.linkStarts v := by
  obtain ⟨lanes, rate⟩ := enWord_fields v
  rw [State.dispCtrl]
  show (if (s.reg Reg.DISP_CTRL).getLsbD 31 then _ else if !(enWord v).getLsbD 31 then _ else
    if fieldOf (enWord v) 16 2 = 3 ∨ 3 < fieldOf (enWord v) 8 3 then _ else _) = _
  rw [s.ctrlEn_eq, off, enWord_en, lanes, rate]
  rfl

/-- While the link is started, a write that leaves EN set changes nothing, and tells of other fields. -/
theorem State.dispCtrl_again {s : State} (on : s.bit F.DISP_CTRL_EN = true) (v : Word) : s.dispCtrl (v ||| 0x80000000) =
    if (enWord v ^^^ s.reg Reg.DISP_CTRL) &&& 0x7FFFFFFF ≠ 0 then s.hwSet F.FLT_HOST_DISP_BUSY else s := by
  rw [State.dispCtrl]
  show (if (s.reg Reg.DISP_CTRL).getLsbD 31 then if (enWord v).getLsbD 31 then _ else _ else _) = _
  rw [s.ctrlEn_eq, on, enWord_en]
  rfl

/-- Clearing EN alone takes the link down. -/
theorem State.dispCtrl_stop {s : State} (on : s.bit F.DISP_CTRL_EN = true)
    (within : s.reg Reg.DISP_CTRL &&& ~~~maskAt Reg.DISP_CTRL = 0) : s.dispCtrl (s.reg Reg.DISP_CTRL &&& 0x7FFFFFFF) =
      ((s.setBit F.DISP_CTRL_EN false).setF F.DISP_STATUS_STATE dispOff).stopOutput := by
  have same : (((s.reg Reg.DISP_CTRL &&& 0x7FFFFFFF) &&& maskAt Reg.DISP_CTRL) ^^^ s.reg Reg.DISP_CTRL) &&& 0x7FFFFFFF = 0 :=
    and_and_xor_and _ _ _ within
  have clear : ((s.reg Reg.DISP_CTRL &&& 0x7FFFFFFF) &&& maskAt Reg.DISP_CTRL).getLsbD 31 = false := by
    have low : (0x7FFFFFFF : Word).getLsbD 31 = false := by decide
    rw [BitVec.getLsbD_and, BitVec.getLsbD_and, low, Bool.and_false, Bool.false_and]
  rw [State.dispCtrl]
  dsimp only
  rw [s.ctrlEn_eq, on, same, clear]
  rfl

/-! ### The output stops (R348, R357) -/

/-- The first n layers are not in effect. -/
def State.layersOff (s : State) (n : Nat) : State := (List.range n).foldl (fun s n => s.setBit (F.DISP_LAYER_STATUS_ENABLED n) false) s

theorem State.layersOff_succ (s : State) (n : Nat) :
    s.layersOff (n + 1) = (s.layersOff n).setBit (F.DISP_LAYER_STATUS_ENABLED n) false := by
  simp [State.layersOff, List.range_succ]

theorem State.layerOn_layersOff (s : State) {n i : Nat} (h : i < n) : (s.layersOff n).layerOn i = false := by
  induction n with
  | zero => omega
  | succ n ih =>
    rw [State.layersOff_succ]
    by_cases e : i = n
    · rw [e]
      exact State.bit_setBit_same _ _ _ (by show 0 + 1 ≤ 32; decide) rfl
    · have apart : (F.DISP_LAYER_STATUS_ENABLED i).off ≠ (F.DISP_LAYER_STATUS_ENABLED n).off := by
        show 0x14011c + 64 * i ≠ 0x14011c + 64 * n
        omega
      exact (State.bit_setBit_other _ _ _ _ (by show 0 + 1 ≤ 32; decide) (.inl apart)).trans (ih (by omega))

theorem State.reg_layersOff (s : State) (n : Nat) {o : Nat} (h : o < 0x140100) : (s.layersOff n).reg o = s.reg o := by
  induction n with
  | zero => rfl
  | succ n ih =>
    rw [State.layersOff_succ, State.setBit, State.reg_setF_other _ _ _ (by show o ≠ 0x14011c + 64 * n; omega), ih]

theorem State.reg_withdrawLayer (s : State) (l : Nat) {o : Nat} (h : 0x140000 ≤ o) : (s.withdrawLayer l).reg o = s.reg o := by
  unfold State.withdrawLayer
  refine (Leaves.foldl (P := (· = o)) (.refl s) _ fun u n hn hu => ?_).reg o rfl
  have hn : n < 32 := List.mem_range.mp (List.mem_filter.mp hn).1
  have held (x : ChanSt) : Leaves (· = o) s (u.setChan n x) := hu.of_regs rfl
  refine (held _).rclAdd _ ?_
  show 0x120418 + 64 * n ≠ o
  omega

/-- No layer is in effect, and no overlay fetches. -/
def State.layersStopped (s : State) : State :=
  (((s.withdrawLayer 1).withdrawLayer 2).layersOff 4 |>.setBit (F.DISP_LAYER_STATUS_FETCH_IDLE 1) true).setBit
    (F.DISP_LAYER_STATUS_FETCH_IDLE 2) true

/-- No buffer is in use. -/
def State.buffersFree (s : State) : State :=
  { s with disp := { s.disp with displaced := [], lines := [], relock := false, timingBlack := false } }

theorem State.stopOutput_eq (s : State) : s.stopOutput = s.layersStopped.buffersFree := by
  unfold State.stopOutput State.buffersFree State.layersStopped State.layersOff
  with_reducible rfl

theorem State.layerOn_layersStopped (s : State) (n : Fin 4) : s.layersStopped.layerOn n = false := by
  have idle (u : State) (i n : Nat) : (u.setBit (F.DISP_LAYER_STATUS_FETCH_IDLE i) true).layerOn n = u.layerOn n := by
    have fits : (F.DISP_LAYER_STATUS_FETCH_IDLE i).lo + (F.DISP_LAYER_STATUS_FETCH_IDLE i).w ≤ 32 := by show 3 + 1 ≤ 32; decide
    exact State.bit_setBit_other _ _ _ _ fits (.inr (.inl (by show 0 + 1 ≤ 3; decide)))
  rw [State.layersStopped, idle, idle, State.layerOn_layersOff _ n.isLt]

theorem State.reg_layersStopped (s : State) {o : Nat} (lo : 0x140000 ≤ o) (hi : o < 0x140100) : s.layersStopped.reg o = s.reg o := by
  have idle (u : State) (i : Nat) : (u.setBit (F.DISP_LAYER_STATUS_FETCH_IDLE i) true).reg o = u.reg o :=
    State.reg_setF_other _ _ _ (by show o ≠ 0x14011c + 64 * i; omega)
  rw [State.layersStopped, idle, idle, State.reg_layersOff _ _ hi, State.reg_withdrawLayer _ _ lo, State.reg_withdrawLayer _ _ lo]

theorem State.buffersFree_spec (s : State) : s.buffersFree.disp.displaced = [] ∧ s.buffersFree.disp.lines = [] ∧
    (∀ n, s.buffersFree.layerOn n = s.layerOn n) ∧ ∀ o, s.buffersFree.reg o = s.reg o :=
  ⟨rfl, rfl, fun _ => rfl, fun _ => rfl⟩

/-- What the end of the output leaves: no layer, no buffer, no line, and the registers of the link. -/
theorem State.stopOutput_spec (s : State) : (∀ n : Fin 4, s.stopOutput.layerOn n = false) ∧ s.stopOutput.disp.displaced = [] ∧
    s.stopOutput.disp.lines = [] ∧ ∀ o, 0x140000 ≤ o → o < 0x140100 → s.stopOutput.reg o = s.reg o := by
  obtain ⟨displaced, lines, layers, regs⟩ := s.layersStopped.buffersFree_spec
  rw [State.stopOutput_eq]
  exact ⟨fun n => (layers n).trans (s.layerOn_layersStopped n), displaced, lines,
    fun o lo hi => (regs o).trans (s.reg_layersStopped lo hi)⟩

end Sys2Proof.Machine
end

section
/-! PROOF. What the display link does (spec/14_display_scanout.md R348 to R356). -/

namespace Sys2Proof.Machine

open Sys2Proof.Laws

/-! ### The link (R348) -/

theorem exec_dispEn {s : State} (taken : s.takesWrite Reg.DISP_CTRL = true) (v : Word) :
    exec (.dispEn v) s = .next (s.dispCtrl (v ||| 0x80000000)) :=
  congrArg Host.Outcome.next (State.hostWrite_disp taken rfl _ _)

theorem exec_dispStop {s : State} (taken : s.takesWrite Reg.DISP_CTRL = true) :
    exec .dispStop s = .next (s.dispCtrl (s.reg Reg.DISP_CTRL &&& 0x7FFFFFFF)) :=
  congrArg Host.Outcome.next (State.hostWrite_disp taken rfl _ _)

theorem exec_hpdAssert {s : State} (runs : s.dispRuns = true) : exec .hpdAssert s =
    .next (if s.getF F.DISP_STATUS_STATE = dispWaitHpd then (s.setBit F.DISP_STATUS_HPD true).setF F.DISP_STATUS_STATE dispTraining
      else s.setBit F.DISP_STATUS_HPD true) := by
  have state : (s.setBit F.DISP_STATUS_HPD true).getF F.DISP_STATUS_STATE = s.getF F.DISP_STATUS_STATE :=
    State.getF_setF_beside _ _ _ _ _ _ _ (by decide) (by decide)
  show execHpdAssert s = _
  rw [execHpdAssert, runs, ← state]
  rfl

/-- HPD is low, the loss is reported, and the link waits for HPD. -/
def State.hpdDown (s : State) : State :=
  ((s.setBit F.DISP_STATUS_HPD false).hwSet F.DISP_EVENTS_HPD_LOST).setF F.DISP_STATUS_STATE dispWaitHpd

theorem exec_hpdLost {s : State} (runs : s.dispRuns = true) (started : s.getF F.DISP_STATUS_STATE ≠ 0) :
    exec .hpdLost s = .next s.hpdDown.stopOutput := by
  have state : (s.setBit F.DISP_STATUS_HPD false).getF F.DISP_STATUS_STATE = s.getF F.DISP_STATUS_STATE :=
    State.getF_setF_beside _ _ _ _ _ _ _ (by decide) (by decide)
  show execHpdLost s = _
  rw [execHpdLost, runs]
  show Host.Outcome.next (if (s.setBit F.DISP_STATUS_HPD false).getF F.DISP_STATUS_STATE = dispOff then _ else _) = _
  rw [state, if_neg (show ¬ s.getF F.DISP_STATUS_STATE = dispOff from started)]
  rfl

theorem State.hpdDown_spec (s : State) : s.hpdDown.bit F.DISP_STATUS_HPD = false ∧ s.hpdDown.getF F.DISP_STATUS_STATE = 1 ∧
    s.hpdDown.bit F.DISP_EVENTS_HPD_LOST = true ∧ s.hpdDown.bit F.DISP_CTRL_EN = s.bit F.DISP_CTRL_EN := by
  obtain ⟨event, regs⟩ := (s.setBit F.DISP_STATUS_HPD false).dispEvent_spec (f := F.DISP_EVENTS_HPD_LOST) rfl rfl (by decide)
  have waits := State.sameRegsBut_setF ((s.setBit F.DISP_STATUS_HPD false).hwSet F.DISP_EVENTS_HPD_LOST) F.DISP_STATUS_STATE dispWaitHpd
  refine ⟨?_, State.getF_setF_same _ _ _ (by decide), (waits.bit (by decide)).trans event, ?_⟩
  · rw [State.hpdDown, State.bit_setF_other _ _ _ _ (by decide) (by decide), regs.bit (by decide)]
    exact State.bit_setBit_same _ _ _ (by decide) rfl
  · rw [State.hpdDown, waits.bit (by decide), regs.bit (by decide)]
    exact (State.sameRegsBut_setF s F.DISP_STATUS_HPD _).bit (by decide)

/-! ### Timing (R350, R351) -/

theorem State.retimed_spec (s : State) (report : Bool) : (s.takeTiming report).getF F.DISP_STATUS_STATE = dispBlank ∧
    (s.takeTiming report).disp.timing = s.disp.pendTiming.getD s.disp.timing ∧ (s.takeTiming report).disp.pendTiming = none := by
  have state : (s.retimed report).getF F.DISP_STATUS_STATE = dispBlank := State.getF_setF_same _ _ _ (by decide)
  have set : (s.retimed report).disp.timing = s.disp.pendTiming.getD s.disp.timing ∧ (s.retimed report).disp.pendTiming = none := ⟨rfl, rfl⟩
  rw [State.takeTiming_eq]
  split
  · rw [State.setPll_disp, State.getF, State.reg_setPll _ _ _ (by decide)]
    exact ⟨state, set⟩
  · exact ⟨state, set⟩

section

variable {s : State} (runs : s.dispRuns = true) (training : s.getF F.DISP_STATUS_STATE = 2)

include runs training

theorem exec_trainingDone_good : exec (.trainingDone true) s =
    .next (if s.disp.pendTiming.isNone && s.hActive == 0 then s.setF F.DISP_STATUS_STATE dispBlank else s.takeTiming true) := by
  show execTrainingDone true s = _
  rw [execTrainingDone, runs, training]
  rfl

theorem exec_trainingDone_bad : exec (.trainingDone false) s =
    .next ((s.setF F.DISP_STATUS_STATE dispTrainFail).hwSet F.DISP_EVENTS_TRAIN_FAIL) := by
  show execTrainingDone false s = _
  rw [execTrainingDone, runs, training]
  rfl

end

theorem exec_timingCommit {s : State} (taken : s.takesWrite Reg.DISP_TIMING_COMMIT = true) :
    exec .timingCommit s = .next s.timingCommit :=
  congrArg Host.Outcome.next (State.hostWrite_disp taken rfl _ _)

/-- The timing set pending. -/
def State.timingPending (s : State) : State :=
  { s with disp := { s.disp with
    pendTiming := some s.timingSet
    wrote := if s.disp.pendTiming.isNone then (Reg.DISP_TIMING_COMMIT, 0) :: s.disp.wrote else s.disp.wrote } }

theorem State.timingCommit_good {s : State} (ok : s.timingOk s.timingSet = true)
    (later : s.getF F.DISP_STATUS_STATE ≠ 3 ∨ s.hActive ≠ 0) : s.timingCommit = s.timingPending := by
  have waits : ¬ (s.timingPending.getF F.DISP_STATUS_STATE = dispBlank ∧ s.timingPending.hActive = 0) := by
    rintro ⟨blank, noMode⟩
    exact later.elim (fun h => h blank) fun h => h noMode
  rw [State.timingCommit, ok]
  exact if_neg waits

theorem State.timingCommit_bad {s : State} (bad : s.timingOk s.timingSet = false) :
    s.timingCommit = s.hwSet F.DISP_EVENTS_TIMING_REFUSED := by
  rw [State.timingCommit, bad]
  rfl

theorem State.timingOk_of_broken {s : State} (broken : s.getF ⟨Reg.DISP_H_TIMING0, 0, 13⟩ < 320 ∨
    3840 < s.getF ⟨Reg.DISP_H_TIMING0, 0, 13⟩ ∨ s.getF ⟨Reg.DISP_V_TIMING0, 0, 13⟩ < 200 ∨ 2160 < s.getF ⟨Reg.DISP_V_TIMING0, 0, 13⟩ ∨
    s.getF ⟨Reg.DISP_H_TIMING0, 16, 13⟩ = 0 ∨ s.getF ⟨Reg.DISP_H_TIMING1, 16, 13⟩ = 0 ∨ s.getF ⟨Reg.DISP_H_TIMING1, 0, 13⟩ = 0 ∨
    s.getF ⟨Reg.DISP_V_TIMING0, 16, 13⟩ = 0 ∨ s.getF ⟨Reg.DISP_V_TIMING1, 16, 13⟩ = 0 ∨ s.getF ⟨Reg.DISP_V_TIMING1, 0, 13⟩ = 0 ∨
    s.getF ⟨Reg.DISP_PIXCLK, 0, 20⟩ < 25000 ∨ 600000 < s.getF ⟨Reg.DISP_PIXCLK, 0, 20⟩ ∨
    78 * s.linkKbps < s.getF ⟨Reg.DISP_PIXCLK, 0, 20⟩ * 3 * (if s.bit F.DISP_CTRL_BPC6 then 6 else 8) * 100) :
    s.timingOk s.timingSet = false := by
  rw [Bool.eq_false_iff]
  intro ok
  simp only [State.timingOk, State.timingSet, List.getD_cons_zero, List.getD_cons_succ, Bool.and_eq_true, decide_eq_true_eq] at ok
  obtain ⟨⟨⟨⟨active, hblank⟩, vblank⟩, pix⟩, rate⟩ := ok
  simp only [State.getF] at broken
  omega

/-! ### AUX (R349) -/

theorem exec_auxCmd {s : State} (taken : s.takesWrite Reg.DISP_AUX_CMD = true) (v : Word) :
    exec (.auxCmd v) s = .next (s.auxStart v) :=
  congrArg Host.Outcome.next (State.hostWrite_disp taken rfl _ _)

theorem State.auxStart_busy {s : State} (busy : s.bit F.DISP_AUX_STATUS_BUSY = true) (v : Word) : s.auxStart v = s := by
  rw [State.auxStart, busy, Bool.or_true]
  rfl

theorem State.auxStart_idle {s : State} {v : Word} (go : v.getLsbD 31 = true ∧ fieldOf v 28 3 ≤ 3)
    (idle : s.bit F.DISP_AUX_STATUS_BUSY = false) : (s.auxStart v).bit F.DISP_AUX_STATUS_BUSY = true ∧
      (s.auxStart v).disp.auxCmd = some v ∧ s.SameRegsBut (s.auxStart v) [Reg.DISP_AUX_STATUS] := by
  obtain ⟨start, command⟩ := go
  have known : decide (3 < fieldOf v 28 3) = false := decide_eq_false (Nat.not_lt.mpr command)
  rw [State.auxStart, start, known, idle]
  exact ⟨State.bit_setBit_same s _ true (by decide) rfl, rfl, State.sameRegsBut_setF s F.DISP_AUX_STATUS_BUSY 1⟩

/-- The bytes of the four words of AUX_DATA. -/
def State.auxBytes (s : State) : List Byte := (List.range 4).flatMap (fun i => leBytes 4 (s.reg (Reg.DISP_AUX_DATA i)).toNat)

/-- A transaction has ended. -/
def State.auxEnds (s : State) (r : Nat) : State :=
  (({ s with disp := { s.disp with auxCmd := none } } : State).setBit F.DISP_AUX_STATUS_BUSY false).setF F.DISP_AUX_STATUS_RESULT r

/-- The words of AUX_DATA behind the sink's bytes. -/
def auxWords (got old : List Byte) : List (Nat × Word) :=
  (List.range 4).map (fun i => (Reg.DISP_AUX_DATA i, BitVec.ofNat 32 (fieldLe (got ++ old.drop got.length) (4 * i) 4)))

theorem exec_auxDone {s : State} {v : Word} (command : s.disp.auxCmd = some v) (r : Fin 4) (data : List Byte) :
    exec (.auxDone r data) s = .next (if fieldOf v 28 1 = 1 ∧ r.val = 0 then
      (s.auxEnds r).setRegs (auxWords (data.take (fieldOf v 24 4 + 1)) (s.auxEnds r).auxBytes) else s.auxEnds r) := by
  show execAuxDone r data s = _
  rw [execAuxDone, command]
  rfl

theorem State.auxEnds_spec (s : State) (r : Fin 4) : (s.auxEnds r).bit F.DISP_AUX_STATUS_BUSY = false ∧
    (s.auxEnds r).getF F.DISP_AUX_STATUS_RESULT = r ∧ (s.auxEnds r).disp.auxCmd = none ∧
    s.SameRegsBut (s.auxEnds r) [Reg.DISP_AUX_STATUS] := by
  have idle : s.SameRegsBut (({ s with disp := { s.disp with auxCmd := none } } : State).setBit F.DISP_AUX_STATUS_BUSY false)
      [Reg.DISP_AUX_STATUS] := State.sameRegsBut_setF s F.DISP_AUX_STATUS_BUSY 0
  refine ⟨?_, ?_, rfl, idle.setF F.DISP_AUX_STATUS_RESULT r (by decide)⟩
  · rw [State.auxEnds, State.bit_setF_other _ _ _ _ (by decide) (by decide)]
    exact State.bit_setBit_same ({ s with disp := { s.disp with auxCmd := none } } : State) F.DISP_AUX_STATUS_BUSY false (by decide) rfl
  · rw [State.auxEnds, State.getF_setF_same _ _ _ (by decide)]
    exact Nat.mod_eq_of_lt r.isLt

/-! ### A byte that the sink sends (R349, R360) -/

theorem leNat_leBytes (n v : Nat) : leNat (leBytes n v) = v % 256 ^ n := by
  induction n generalizing v with
  | zero => simp [leBytes, leNat, Nat.mod_one]
  | succ n ih =>
    have split : v % 256 ^ (n + 1) = v % 256 + 256 * (v / 256 % 256 ^ n) := by rw [pow_succ', Nat.mod_mul]
    rw [leBytes, leNat, ih, BitVec.toNat_ofNat]
    exact split.symm

/-- In the bytes of four words behind another first byte, the first word has the byte and the last one stays. -/
theorem fieldLe_firstByte (b : Byte) (w₀ w₁ w₂ w₃ : Nat) :
    fieldLe ([b] ++ (leBytes 4 w₀ ++ leBytes 4 w₁ ++ leBytes 4 w₂ ++ leBytes 4 w₃).drop 1) 0 4 =
        b.toNat + 256 * leNat (leBytes 3 (w₀ / 256)) ∧
      fieldLe ([b] ++ (leBytes 4 w₀ ++ leBytes 4 w₁ ++ leBytes 4 w₂ ++ leBytes 4 w₃).drop 1) 12 4 = leNat (leBytes 4 w₃) := by
  simp [leBytes, fieldLe, sliceBytes, leNat]

theorem State.auxBytes_eq (s : State) : s.auxBytes = leBytes 4 (s.reg (Reg.DISP_AUX_DATA 0)).toNat ++
    leBytes 4 (s.reg (Reg.DISP_AUX_DATA 1)).toNat ++ leBytes 4 (s.reg (Reg.DISP_AUX_DATA 2)).toNat ++
    leBytes 4 (s.reg (Reg.DISP_AUX_DATA 3)).toNat := by
  simp [State.auxBytes, List.range_succ]

/-- A word with another low byte. -/
theorem ofNat_lowByte (a : Word) (b : Byte) :
    BitVec.ofNat 32 (b.toNat + 256 * (a.toNat / 256 % 256 ^ 3)) = (a &&& 0xFFFFFF00) ||| b.zeroExtend 32 := by
  have upper : a.toNat / 256 % 256 ^ 3 = a.toNat / 2 ^ 8 := Nat.mod_eq_of_lt (by have := a.isLt; omega)
  have mask : ∀ i < 32, (0xFFFFFF00 : Word).getLsbD i = decide (8 ≤ i) := by decide
  refine BitVec.eq_of_getLsbD_eq fun i hi => ?_
  rw [upper, BitVec.getLsbD_ofNat, decide_eq_true hi, Bool.true_and, show b.toNat + 256 * (a.toNat / 2 ^ 8) = 2 ^ 8 * (a.toNat / 2 ^ 8) + b.toNat by omega,
    Nat.testBit_two_pow_mul_add _ b.isLt]
  rw [BitVec.getLsbD_or, BitVec.getLsbD_and, mask i hi, BitVec.zeroExtend_eq_setWidth, BitVec.getLsbD_setWidth, decide_eq_true hi, Bool.true_and]
  by_cases low : i < 8
  · rw [if_pos low, decide_eq_false (Nat.not_le.mpr low), Bool.and_false, Bool.false_or]
    rfl
  · have none_ : b.getLsbD i = false := BitVec.getLsbD_of_ge b i (Nat.not_lt.mp low)
    rw [if_neg low, decide_eq_true (Nat.not_lt.mp low), Bool.and_true, none_, Bool.or_false, Nat.testBit_div_two_pow,
      Nat.sub_add_cancel (Nat.not_lt.mp low)]
    rfl

theorem auxWords_keys (got old : List Byte) : ((auxWords got old).map Prod.fst).Nodup := by
  rw [auxWords, List.map_map]
  show ((List.range 4).map fun i => 0x140038 + 4 * i).Nodup
  decide

/-- A read of one byte. -/
theorem State.auxRead_spec (s : State) (b : Byte) :
    (s.setRegs (auxWords [b] s.auxBytes)).reg (Reg.DISP_AUX_DATA 0) =
        (s.reg (Reg.DISP_AUX_DATA 0) &&& 0xFFFFFF00) ||| b.zeroExtend 32 ∧
      (s.setRegs (auxWords [b] s.auxBytes)).reg (Reg.DISP_AUX_DATA 3) = s.reg (Reg.DISP_AUX_DATA 3) := by
  obtain ⟨first, last⟩ := fieldLe_firstByte b (s.reg (Reg.DISP_AUX_DATA 0)).toNat (s.reg (Reg.DISP_AUX_DATA 1)).toNat
    (s.reg (Reg.DISP_AUX_DATA 2)).toNat (s.reg (Reg.DISP_AUX_DATA 3)).toNat
  rw [← s.auxBytes_eq, leNat_leBytes] at first last
  have whole : (s.reg (Reg.DISP_AUX_DATA 3)).toNat % 256 ^ 4 = (s.reg (Reg.DISP_AUX_DATA 3)).toNat :=
    Nat.mod_eq_of_lt (s.reg (Reg.DISP_AUX_DATA 3)).isLt
  have put (i : Nat) (hi : i < 4) : (s.setRegs (auxWords [b] s.auxBytes)).reg (Reg.DISP_AUX_DATA i) =
      BitVec.ofNat 32 (fieldLe ([b] ++ s.auxBytes.drop 1) (4 * i) 4) :=
    State.reg_setRegs_mem (auxWords_keys _ _) (List.mem_map.mpr ⟨i, List.mem_range.mpr hi, rfl⟩) s
  refine ⟨?_, ?_⟩
  · rw [put 0 (by decide), Nat.mul_zero, first, ofNat_lowByte]
  · rw [put 3 (by decide), last, whole, BitVec.ofNat_toNat, BitVec.setWidth_eq]

theorem State.reg_auxWords (s : State) (got old : List Byte) : (s.setRegs (auxWords got old)).reg Reg.DISP_AUX_STATUS =
    s.reg Reg.DISP_AUX_STATUS := by
  refine State.reg_setRegs_other s fun p hp => ?_
  obtain ⟨i, -, rfl⟩ := List.mem_map.mp hp
  show 0x140038 + 4 * i ≠ 0x140034
  omega

end Sys2Proof.Machine
end

section
/-! PROOF. The display link: EN, HPD, training, timing, AUX, the LUT, the cursor and the blank (spec/14_display_scanout.md R348 to
R356). -/

namespace Sys2Proof.Machine

open Sys2Proof.Laws

theorem exec_pixclkRelocked {s : State} (runs : s.dispRuns = true ∧ s.disp.relock = true ∧ s.bit F.CLK_STATUS_REF_PRESENT = true) :
    exec .pixclkRelocked s = .next { s.setPll .ppll pllLocked with disp := { (s.setPll .ppll pllLocked).disp with relock := false } } := by
  obtain ⟨up, relock, reference⟩ := runs
  show execPixclkRelocked s = _
  rw [execPixclkRelocked, up, relock, reference]
  rfl

theorem exec_cursorPageWrite {s : State} {page : Bool} {i : Fin 4096}
    (taken : s.takesWrite (Reg.DISP_CURSOR (4096 * page.toNat + i)) = true) (v : Word) :
    exec (.cursorPageWrite page i v) s = .next (if page.toNat = s.effF (Reg.DISP_LAYER_CFG 3) 2 1 then
      s.hwSet F.DISP_EVENTS_CURSOR_BUSY else s.setReg (Reg.DISP_CURSOR (4096 * page.toNat + i)) v) := by
  have number : b2n page = page.toNat := by cases page <;> rfl
  have half : (4096 * page.toNat + i.val) / 4096 = page.toNat := by omega
  have low : page.toNat ≤ 1 := Bool.toNat_le page
  show execCursorPageWrite page i v s = _
  rw [execCursorPageWrite, number, State.hostWrite_disp taken (by show (0x141000 + 4 * (4096 * page.toNat + i.val)) / 0x10000 = 0x14; omega),
    State.cursorWrite, half]

/-- Settles O55: the link follows EN, HPD and training; a timing set is judged rule by rule; AUX, LUT and cursor have one case each for
busy and for free; and a blank leaves the shadows and LOCK until it takes them. -/
theorem displayLink : Obligations.DisplayLink := by
  unfold Obligations.DisplayLink
  refine ⟨?starts, ?refused, ?again, ?stop, ?hpd, ?lost, ?irq, ?trained, ?pending, ?broken, ?relocked, ?aux, ?auxDone, ?lut, ?cursor,
    ?blank, ?noFrames⟩
  case starts =>
    rintro s v taken off ⟨lanes, rate⟩
    refine ⟨_, exec_dispEn taken v, ?_⟩
    rw [State.dispCtrl_en off, if_neg (by omega)]
    have ctrl := State.sameRegsBut_setReg s Reg.DISP_CTRL (enWord v)
    refine ⟨?_, ?_, (ctrl.mono (by simp)).setF F.DISP_STATUS_STATE _ (by decide), rfl⟩
    · rw [State.linkStarts, State.reg_setF_other _ _ _ (by decide), State.reg_setReg_same]
      rfl
    · rw [State.linkStarts, State.getF_setF_same _ _ _ (by decide)]
      split <;> rfl
  case refused =>
    intro s v taken off bad
    refine ⟨_, exec_dispEn taken v, ?_⟩
    rw [State.dispCtrl_en off, if_pos bad]
    have ctrl := State.sameRegsBut_setReg s Reg.DISP_CTRL (enWord v &&& 0x7FFFFFFF)
    refine ⟨?_, ctrl.getF (by decide), ctrl⟩
    rw [← State.ctrlEn_eq, State.reg_setReg_same, BitVec.getLsbD_and]
    exact Bool.and_false _
  case again =>
    intro s v taken on
    refine ⟨_, exec_dispEn taken v, ?_⟩
    rw [State.dispCtrl_again on]
    obtain ⟨busy, regs, -⟩ := s.hwSet_fltHost_spec (f := F.FLT_HOST_DISP_BUSY) rfl rfl (by decide)
    have bits (within : s.reg Reg.DISP_CTRL &&& ~~~maskAt Reg.DISP_CTRL = 0) : (enWord v ^^^ s.reg Reg.DISP_CTRL) &&& 0x7FFFFFFF =
        (v ^^^ s.reg Reg.DISP_CTRL) &&& maskAt Reg.DISP_CTRL &&& 0x7FFFFFFF :=
      or_and_xor_and v _ _ _ _ within (by decide)
    refine ⟨?_, fun same within => ?_, fun other within => ?_⟩
    · split
      · exact regs _ (by decide)
      · rfl
    · rw [if_neg (by rw [bits within, same]; decide)]
    · rw [if_pos (by rwa [bits within])]
      exact ⟨busy, regs⟩
  case stop =>
    intro s taken on within
    refine ⟨_, exec_dispStop taken, ?_⟩
    rw [State.dispCtrl_stop on within]
    obtain ⟨layers, displaced, lines, regs⟩ := ((s.setBit F.DISP_CTRL_EN false).setF F.DISP_STATUS_STATE dispOff).stopOutput_spec
    refine ⟨?_, ?_, layers, displaced, lines⟩
    · rw [← State.ctrlEn_eq, regs _ (by decide) (by decide), State.ctrlEn_eq]
      exact ((State.sameRegsBut_setF _ F.DISP_STATUS_STATE dispOff).bit (by decide)).trans (State.bit_setBit_same s _ false (by decide) rfl)
    · rw [State.getF, regs _ (by decide) (by decide)]
      exact State.getF_setF_same (s.setBit F.DISP_CTRL_EN false) F.DISP_STATUS_STATE dispOff (by decide)
  case hpd =>
    intro s runs
    refine ⟨_, exec_hpdAssert runs, ?_⟩
    have high : (s.setBit F.DISP_STATUS_HPD true).bit F.DISP_STATUS_HPD = true := State.bit_setBit_same s _ true (by decide) rfl
    have regs : s.SameRegsBut (s.setBit F.DISP_STATUS_HPD true) [Reg.DISP_STATUS] := State.sameRegsBut_setF s _ _
    by_cases waits : s.getF F.DISP_STATUS_STATE = 1
    · rw [if_pos (show s.getF F.DISP_STATUS_STATE = dispWaitHpd from waits), if_pos waits]
      refine ⟨?_, State.getF_setF_same _ _ _ (by decide), regs.setF F.DISP_STATUS_STATE dispTraining (by decide)⟩
      rw [State.bit_setF_other _ _ _ _ (by decide) (by decide), high]
    · rw [if_neg (show ¬ s.getF F.DISP_STATUS_STATE = dispWaitHpd from waits), if_neg waits]
      exact ⟨high, State.getF_setF_beside _ _ _ _ _ _ _ (by decide) (by decide), regs⟩
  case lost =>
    intro s runs started
    obtain ⟨low, state, event, en⟩ := s.hpdDown_spec
    obtain ⟨layers, -, -, regs⟩ := s.hpdDown.stopOutput_spec
    have kept (f : Fld) (lo : 0x140000 ≤ f.off) (hi : f.off < 0x140100) : s.hpdDown.stopOutput.getF f = s.hpdDown.getF f := by
      rw [State.getF, regs _ lo hi]
      rfl
    refine ⟨_, exec_hpdLost runs started, ?_, (kept _ (by decide) (by decide)).trans state, ?_, layers, ?_⟩
    · rw [State.bit, kept _ (by decide) (by decide)]
      exact low
    · rw [State.bit, kept _ (by decide) (by decide)]
      exact event
    · rw [State.bit, kept _ (by decide) (by decide)]
      exact en
  case irq =>
    intro s runs
    obtain ⟨event, regs⟩ := s.dispEvent_spec (f := F.DISP_EVENTS_HPD_IRQ) rfl rfl (by decide)
    exact ⟨_, congrArg Host.Outcome.next (if_pos runs), event, regs, State.hwSet_disp _ _⟩
  case trained =>
    intro s ok runs training
    cases ok with
    | true =>
      obtain ⟨state, timing, none_⟩ := s.retimed_spec true
      refine ⟨_, exec_trainingDone_good runs training, fun _ => ?_, fun _ p pending => ?_, fun h => absurd h (by decide)⟩
      · split
        · exact State.getF_setF_same s _ _ (by decide)
        · exact state
      · rw [pending]
        rw [pending] at timing
        exact ⟨timing, none_⟩
    | false =>
      obtain ⟨event, regs⟩ := (s.setF F.DISP_STATUS_STATE dispTrainFail).dispEvent_spec (f := F.DISP_EVENTS_TRAIN_FAIL) rfl rfl (by decide)
      refine ⟨_, exec_trainingDone_bad runs training, fun h => absurd h (by decide), fun h => absurd h (by decide),
        fun _ => ⟨?_, event, ?_⟩⟩
      · rw [regs.getF (by decide)]
        exact State.getF_setF_same s _ _ (by decide)
      · rw [State.hwSet_disp]
        rfl
  case pending =>
    intro s taken ok later
    refine ⟨_, exec_timingCommit taken, ?_⟩
    rw [State.timingCommit_good ok later]
    refine ⟨?_, rfl⟩
    rw [State.timingPending]
    simp only [Option.isNone_iff_eq_none]
  case broken =>
    rintro s pix bpc taken rfl rfl broken
    obtain ⟨event, regs⟩ := s.dispEvent_spec (f := F.DISP_EVENTS_TIMING_REFUSED) rfl rfl (by decide)
    refine ⟨_, exec_timingCommit taken, ?_⟩
    rw [State.timingCommit_bad (State.timingOk_of_broken broken)]
    exact ⟨event, State.hwSet_disp _ _, regs⟩
  case relocked =>
    intro s runs
    refine ⟨_, exec_pixclkRelocked runs, ?_, s.pllState_setPll_locked .ppll⟩
    rw [State.setPll_disp]
  case aux =>
    intro s v taken go
    refine ⟨_, exec_auxCmd taken v, fun busy => ?_, fun idle => State.auxStart_idle go idle⟩
    rw [State.auxStart_busy busy]
    exact ⟨rfl, rfl, rfl⟩
  case auxDone =>
    intro s r data v command
    obtain ⟨idle, result, none_, regs⟩ := s.auxEnds_spec r
    refine ⟨_, exec_auxDone command r data, ?_⟩
    by_cases read : fieldOf v 28 1 = 1 ∧ r.val = 0
    · rw [if_pos read]
      have same : ((s.auxEnds r).setRegs (auxWords (data.take (fieldOf v 24 4 + 1)) (s.auxEnds r).auxBytes)).reg Reg.DISP_AUX_STATUS =
        (s.auxEnds r).reg Reg.DISP_AUX_STATUS := State.reg_auxWords _ _ _
      refine ⟨?_, ?_, ?_, fun other => ?_, fun _ _ one count => ?_⟩
      · rw [State.bit, State.getF_congr_reg same]
        exact idle
      · rw [State.getF_congr_reg same, result]
      · rw [State.setRegs_disp]
        exact none_
      · exact absurd read fun ⟨write, good⟩ => other.elim (fun h => by omega) fun h => h (Fin.ext good)
      · obtain ⟨b, rfl⟩ := List.length_eq_one_iff.mp one
        obtain ⟨first, last⟩ := (s.auxEnds r).auxRead_spec b
        rw [count]
        exact ⟨first.trans (by rw [regs _ (by decide)]; rfl), last.trans (regs _ (by decide))⟩
    · rw [if_neg read]
      exact ⟨idle, result, none_, fun _ => regs, fun h h' => absurd ⟨h, congrArg Fin.val h'⟩ read⟩
  case lut =>
    intro s taken
    refine ⟨_, congrArg Host.Outcome.next (State.hostWrite_disp taken rfl _ _), ?_⟩
    rw [State.lutCommit]
    split
    · exact ⟨rfl, rfl⟩
    · exact ⟨rfl, rfl⟩
  case cursor =>
    intro s page i v taken
    refine ⟨_, exec_cursorPageWrite taken v, fun current => ?_, fun other => ?_⟩
    · rw [if_pos current.symm]
      exact s.dispEvent_spec (f := F.DISP_EVENTS_CURSOR_BUSY) rfl rfl (by decide)
    · rw [if_neg (Ne.symm other)]
      exact ⟨State.reg_setReg_same _ _ _, State.sameRegsBut_setReg _ _ _⟩
  case blank =>
    intro s late o frames shadow earlier
    exact ⟨_, congrArg Host.Outcome.next (if_pos frames), s.verticalBlank_spec late (List.contains_iff_mem.mp shadow) earlier⟩
  case noFrames =>
    intro s late none_
    exact ⟨_, congrArg Host.Outcome.next (if_neg (by simp [none_])), rfl⟩

end Sys2Proof.Machine
end

section
/-! PROOF. The maintenance port's transactions and commands (spec/15_startup_and_black_box.md R380,
spec/19_package_and_electrical.md R453 to R455). -/

namespace Sys2Proof.Machine

open Sys2Proof.Laws

/-! ### What a record and an entry to RESET leave of the port -/

theorem State.i2c_crossCopy (s : State) (r : BbxRecord) : (s.crossCopy r).i2c = s.i2c := by
  unfold State.crossCopy
  split <;> rfl

theorem State.i2c_ringRoom (s : State) : s.ringRoom.i2c = s.i2c := by
  unfold State.ringRoom
  split
  · rfl
  · exact State.rclAdd_i2c ..

theorem State.i2c_makeRecord (s : State) (src code : Nat) (payload : List Byte) : (s.makeRecord src code payload).i2c = s.i2c := by
  have copied (x : BbxRecord) (lost : Bool) : (if lost then s.ringRoom.crossCopy x else s).i2c = s.i2c := by
    split
    · rw [State.i2c_crossCopy, State.i2c_ringRoom]
    · rfl
  unfold State.makeRecord State.pushRecord
  split
  · exact State.i2c_crossCopy _ _
  · exact copied _ s.bbxLost

theorem State.i2c_sampleBoard (s : State) (full : Bool) (straps : Straps) (ref : RefClass) :
    (s.sampleBoard full straps ref).i2c = s.i2c := by
  unfold State.sampleBoard
  cases full <;> simp

theorem State.i2c_startPlls (s : State) : s.startPlls.i2c = s.i2c := by
  simp [State.startPlls]

/-- The registers of RESET, and what the board tells. -/
def State.resetSampled (s : State) (cause : Nat) (full : Bool) (straps : Straps) (ref : RefClass) : State :=
  ((((s.enter .reset cause).keepRegs (keptInReset full)).clearStructure).sampleBoard full straps ref).setBit F.BBX_STATUS_SNAP_ACTIVE
    false

/-- What RESET owes and drops. -/
def State.resetOwes (s : State) (full : Bool) (load : LoadFrom) : State :=
  { s with
    board := { s.board with load := some load, trained := false }
    draft := { s.draft with image := [], burn := if full then none else s.draft.burn, checking := false }
    bbx := { s.bbx with snap := none, latchReq := none, chal := if full then none else s.bbx.chal }
    i2c := { s.i2c with snap := none, latchReq := none } }

/-- No image is loaded. -/
def State.resetUnloaded (s : State) : State :=
  (((s.setBit F.DRAFT_STATUS_LOADED false).setF F.DRAFT_STATUS_FORMAT 0).setReg Reg.DEV_CAPS 0).setBit F.BBX_STATUS_MODE false

theorem State.enterReset_eq (s : State) (cause : Nat) (full : Bool) (straps : Straps) (ref : RefClass) (load : LoadFrom) :
    s.enterReset cause full straps ref load =
      (((s.resetSampled cause full straps ref).resetOwes full load).resetUnloaded.startPlls).entryRecord := by
  unfold State.enterReset State.resetUnloaded State.resetOwes State.resetSampled
  with_reducible rfl

theorem State.ptr_resetOwes (s : State) (full : Bool) (load : LoadFrom) :
    (s.resetOwes full load).resetUnloaded.i2c.ptr = s.i2c.ptr := rfl

theorem State.i2c_resetSampled (s : State) (cause : Nat) (full : Bool) (straps : Straps) (ref : RefClass) :
    (s.resetSampled cause full straps ref).i2c = s.i2c := by
  have kept : (((s.enter .reset cause).keepRegs (keptInReset full)).clearStructure).i2c = (s.enter .reset cause).i2c := rfl
  rw [State.resetSampled, State.setBit_i2c, State.i2c_sampleBoard, kept, State.enter_i2c]

theorem State.leaves_resetSampled (s : State) (cause : Nat) (full : Bool) (straps : Straps) (ref : RefClass) :
    Leaves DevState (s.enter .reset cause) (s.resetSampled cause full straps ref) := by
  have kept := ((Leaves.refl (s.enter .reset cause)).keepRegs (keep := keptInReset full)
    (by rintro o (rfl : o = 8); cases full <;> decide)).clearStructure
  exact (State.sampleBoard_devState kept full straps ref).setBit (f := F.BBX_STATUS_SNAP_ACTIVE) false (devState_ne (by decide))

theorem State.leaves_resetOwes (s : State) (full : Bool) (load : LoadFrom) :
    Leaves DevState s (s.resetOwes full load).resetUnloaded := by
  have owes : Leaves DevState s (s.resetOwes full load) := (Leaves.refl s).of_regs rfl
  exact (((owes.setBit (f := F.DRAFT_STATUS_LOADED) false (devState_ne (by decide))).setF (f := F.DRAFT_STATUS_FORMAT) 0
    (devState_ne (by decide))).setReg (o := Reg.DEV_CAPS) 0 (devState_ne (by decide))).setBit (f := F.BBX_STATUS_MODE) false
    (devState_ne (by decide))

/-- From s to t the port's address stays, and an engine that is not OFF is not OFF. -/
structure PortKept (s t : State) : Prop where
  ptr : t.i2c.ptr = s.i2c.ptr
  up : s.cur ≠ .off → t.cur ≠ .off

theorem PortKept.refl (s : State) : PortKept s s := ⟨rfl, id⟩

theorem PortKept.trans {s t u : State} (a : PortKept s t) (b : PortKept t u) : PortKept s u :=
  ⟨b.ptr.trans a.ptr, fun h => b.up (a.up h)⟩

theorem State.cur_enterReset (s : State) (cause : Nat) (full : Bool) (straps : Straps) (ref : RefClass) (load : LoadFrom) :
    (s.enterReset cause full straps ref load).cur ≠ .off := by
  have owed := (s.leaves_resetSampled cause full straps ref).trans (State.leaves_resetOwes _ full load)
  have entered : Leaves DevState (s.enter .reset cause) _ := (State.startPlls_devState owed).entryRecord devState_bbx
  rw [State.enterReset_eq, State.cur_congr (entered.reg 8 rfl), (s.cur_enter .reset cause).1]
  decide

theorem State.portKept_enterReset (s : State) (cause : Nat) (full : Bool) (straps : Straps) (ref : RefClass) (load : LoadFrom) :
    PortKept s (s.enterReset cause full straps ref load) := by
  refine ⟨?_, fun _ => s.cur_enterReset cause full straps ref load⟩
  rw [State.enterReset_eq, State.entryRecord, State.i2c_makeRecord, State.i2c_startPlls, State.ptr_resetOwes, State.i2c_resetSampled]

/-- An update of the port that leaves its address. -/
theorem State.portKept_i2c (s : State) {x : I2cSt} (h : x.ptr = s.i2c.ptr) : PortKept s { s with i2c := x } := ⟨h, id⟩

/-! ### The port's commands (R455) -/

theorem State.portKept_resetBy (s : State) (straps : Straps) (ref : RefClass) : PortKept s (s.resetBy 3 straps ref) := by
  unfold State.resetBy
  split
  · exact .refl s
  · split
    · exact .refl s
    · exact s.portKept_enterReset ..

theorem State.portKept_fltHost (s : State) {f : Fld} (hf : f.off = Reg.FLT_HOST) : PortKept s (s.hwSet f) := by
  have kept : Leaves DevState s (s.hwSet f) := (Leaves.refl s).hwSet (by rw [hf]; exact devState_ne (by decide)) devState_pba
  refine ⟨congrArg I2cSt.ptr (State.hwSet_i2c s f), fun h => ?_⟩
  rwa [State.cur_congr (kept.reg 8 rfl)]

/-- A RUN of the reload's clock gives way to it (R35). -/
def State.reloadUnruns (s : State) : State := if s.ranNow then s.setF F.DEV_STATE_CUR EngState.idle.code else s

/-- A check in progress is abandoned (R59). -/
def State.reloadUnchecks (s : State) : State :=
  if s.draft.checking then
    (((s.setBit F.DRAFT_CHECK_STATUS_BUSY false).setF F.DRAFT_CHECK_STATUS_REASON 0xFF).setBit
      F.DRAFT_CHECK_STATUS_PASS false).hwSet F.DRAFT_CHECK_STATUS_DONE
  else s

/-- What a reload drops before it enters RESET. -/
def State.reloadDrops (s : State) : State := s.reloadUnruns.reloadUnchecks

theorem State.i2c_reloadUnruns (s : State) : s.reloadUnruns.i2c = s.i2c := by
  unfold State.reloadUnruns
  split
  · exact State.setF_i2c ..
  · rfl

theorem State.i2c_reloadUnchecks (s : State) : s.reloadUnchecks.i2c = s.i2c := by
  unfold State.reloadUnchecks
  split
  · rw [State.hwSet_i2c, State.setBit_i2c, State.setF_i2c, State.setBit_i2c]
  · rfl

theorem State.i2c_reloadDrops (s : State) : s.reloadDrops.i2c = s.i2c :=
  s.reloadUnruns.i2c_reloadUnchecks.trans s.i2c_reloadUnruns

/-- The strap and the REF_IN that a reload samples. -/
def State.reloadPins (s : State) (pins : Option (Straps × RefClass)) : Straps × RefClass :=
  pins.getD (s.reloadDrops.board.straps, s.reloadDrops.board.refIn)

theorem State.draftReload_eq (s : State) (src : LoadFrom) (pins : Option (Straps × RefClass)) :
    s.draftReload src pins = s.reloadDrops.enterReset 4 false (s.reloadPins pins).1 (s.reloadPins pins).2 src := by
  unfold State.draftReload State.reloadPins State.reloadDrops State.reloadUnchecks State.reloadUnruns
  with_reducible rfl

theorem State.portKept_takeReload (s : State) (src : LoadFrom) (pins : Option (Straps × RefClass)) :
    PortKept s (s.takeReload src pins) := by
  unfold State.takeReload
  split
  · exact .refl s
  · rw [State.draftReload_eq]
    refine ⟨?_, fun _ => State.cur_enterReset s.reloadDrops 4 false _ _ src⟩
    rw [(State.portKept_enterReset ..).ptr, State.i2c_reloadDrops]

theorem State.portKept_portReload (s : State) (pins : Option (Straps × RefClass)) : PortKept s (s.portReload pins) := by
  have again (u : State) : PortKept u (if u.reloadedNow then { u with board := { u.board with load := some .flash } } else u) := by
    split
    · exact ⟨rfl, id⟩
    · exact .refl u
  have tells (u : State) (n : Byte) : PortKept u { u with i2c := { u.i2c with result := n } } := u.portKept_i2c rfl
  unfold State.portReload
  split
  · exact ((s.portKept_takeReload .flash pins).trans (again _)).trans (tells _ 1)
  · exact (s.portKept_fltHost rfl).trans (tells _ 2)

theorem State.portKept_portReset (s : State) (straps : Straps) (ref : RefClass) : PortKept s (s.portReset straps ref) :=
  (s.portKept_resetBy straps ref).trans (State.portKept_i2c _ rfl)

theorem State.portKept_portLoad (s : State) : PortKept s s.portLoad := by
  unfold State.portLoad
  split
  · exact s.portKept_i2c rfl
  · exact s.portKept_i2c rfl

theorem State.portKept_portLatch (s : State) : PortKept s s.portLatch := by
  unfold State.portLatch
  split
  · exact s.portKept_i2c rfl
  · exact .refl s

/-- The write of byte 0x44: SNAP_RELEASE, then SNAP_LATCH (R454). -/
theorem State.portKept_portCtrl (s : State) (b : Byte) :
    PortKept s (if b.getLsbD 0 then (if b.getLsbD 1 then s.portRelease else s).portLatch
      else if b.getLsbD 1 then s.portRelease else s) := by
  have released : PortKept s (if b.getLsbD 1 then s.portRelease else s) := by
    split
    · exact s.portKept_i2c rfl
    · exact .refl s
  split
  · exact released.trans (State.portKept_portLatch _)
  · exact released

theorem State.portKept_portWrite (s : State) (straps : Straps) (ref : RefClass) (a : Nat) (b : Byte) :
    PortKept s (State.portWrite straps ref s a b) := by
  unfold State.portWrite
  split
  · dsimp only
    split
    · exact (s.portKept_i2c (x := { s.i2c with readSel := withByte48 s.i2c.readSel (a - 0x30) b }) rfl).trans (State.portKept_portLoad _)
    · exact s.portKept_i2c rfl
  split
  · exact s.portKept_i2c rfl
  split
  · exact s.portKept_i2c rfl
  split
  · exact s.portKept_portCtrl b
  split
  · split
    · exact s.portKept_portReload _
    split
    · exact s.portKept_portReset straps ref
    · exact .refl s
  · exact .refl s

end Sys2Proof.Machine
end

section
/-! PROOF. What the maintenance port's transactions do (spec/15_startup_and_black_box.md R380,
spec/19_package_and_electrical.md R453 to R455). -/

namespace Sys2Proof.Machine

open Sys2Proof.Laws

/-! ### Byte i of a 48-bit value -/

theorem getLsbD_byteMask (j : Nat) : (0xFF#48).getLsbD j = decide (j < 8) := by
  have ones : (0xFF#48).toNat = 2 ^ 8 - 1 := rfl
  rw [BitVec.getLsbD, ones, Nat.testBit_two_pow_sub_one]

theorem getLsbD_withByte48 (v : BitVec 48) (i : Nat) (b : Byte) {m : Nat} (hm : m < 48) :
    (withByte48 v i b).getLsbD m = if 8 * i ≤ m ∧ m < 8 * i + 8 then b.getLsbD (m - 8 * i) else v.getLsbD m := by
  have bits : (withByte48 v i b).getLsbD m = (v.getLsbD m && !(!decide (m < 8 * i) && decide (m - 8 * i < 8)) ||
      !decide (m < 8 * i) && b.getLsbD (m - 8 * i)) := by
    have near : m - 8 * i < 48 := by omega
    simp only [withByte48, BitVec.getLsbD_or, BitVec.getLsbD_and, BitVec.getLsbD_not, BitVec.getLsbD_shiftLeft, getLsbD_byteMask,
      BitVec.getLsbD_setWidth, hm, near, decide_true, Bool.true_and]
  rw [bits]
  split
  case isTrue inside =>
    rw [decide_eq_false (by omega), decide_eq_true (by omega : m - 8 * i < 8)]
    simp
  case isFalse outside =>
    by_cases low : m < 8 * i
    · rw [decide_eq_true low]
      simp
    · rw [decide_eq_false (by omega : ¬ m - 8 * i < 8), BitVec.getLsbD_of_ge _ _ (by omega : 8 ≤ m - 8 * i)]
      simp

theorem testBit_byte (n k m : Nat) : (n / 256 ^ k % 256).testBit m = (decide (m < 8) && n.testBit (8 * k + m)) := by
  rw [show (256 : Nat) = 2 ^ 8 from rfl, ← Nat.pow_mul, Nat.testBit_mod_two_pow, Nat.testBit_div_two_pow, Nat.add_comm]

/-- Byte i of the value is the one written. -/
theorem withByte48_same (v : BitVec 48) {i : Nat} (hi : i < 6) (b : Byte) :
    (withByte48 v i b).toNat / 256 ^ i % 256 = b.toNat := by
  refine Nat.eq_of_testBit_eq fun m => ?_
  rw [testBit_byte, ← BitVec.getLsbD, ← BitVec.getLsbD]
  by_cases hm : m < 8
  · rw [getLsbD_withByte48 v i b (by omega), if_pos (by omega), Nat.add_sub_cancel_left]
    simp [hm]
  · rw [BitVec.getLsbD_of_ge _ _ (by omega : 8 ≤ m)]
    simp [hm]

/-- The other bytes stay. -/
theorem withByte48_other (v : BitVec 48) {i k : Nat} (hk : k < 6) (hik : k ≠ i) (b : Byte) :
    (withByte48 v i b).toNat / 256 ^ k % 256 = v.toNat / 256 ^ k % 256 := by
  refine Nat.eq_of_testBit_eq fun m => ?_
  rw [testBit_byte, testBit_byte, ← BitVec.getLsbD, ← BitVec.getLsbD]
  by_cases hm : m < 8
  · rw [getLsbD_withByte48 v i b (by omega), if_neg (by omega)]
  · simp [hm]

/-- The top byte of a value that has none. -/
theorem withByte48_top {v : BitVec 48} (hv : v < 2 ^ 40) (b : Byte) :
    (withByte48 v 5 b).toNat = b.toNat * 2 ^ 40 + v.toNat := by
  have small : v.toNat < 2 ^ 40 := by simpa [BitVec.lt_def] using hv
  have whole (n : Nat) (h : n < 2 ^ 48) : n = n % 2 ^ 40 + 2 ^ 40 * (n / 256 ^ 5 % 256) := by omega
  have top := withByte48_same v (i := 5) (by decide) b
  have low : (withByte48 v 5 b).toNat % 2 ^ 40 = v.toNat % 2 ^ 40 := by
    refine Nat.eq_of_testBit_eq fun m => ?_
    rw [Nat.testBit_mod_two_pow, Nat.testBit_mod_two_pow, ← BitVec.getLsbD, ← BitVec.getLsbD]
    by_cases hm : m < 40
    · rw [getLsbD_withByte48 v 5 b (by omega), if_neg (by omega)]
    · simp [hm]
  have split := whole _ (withByte48 v 5 b).isLt
  rw [top, low] at split
  omega

/-! ### A write transaction -/

/-- The port at an address. -/
def State.portAt (s : State) (a : Byte) : State := { s with i2c := { s.i2c with ptr := a } }

/-- One data byte at the port's address, which goes one further. -/
def State.portStep (s : State) (straps : Straps) (ref : RefClass) (b : Byte) : State :=
  (State.portWrite straps ref s s.i2c.ptr.toNat b).portAt ((State.portWrite straps ref s s.i2c.ptr.toNat b).i2c.ptr + 1)

theorem State.portAt_ptr (s : State) : s.portAt s.i2c.ptr = s := rfl

theorem State.portWrites_cons (straps : Straps) (ref : RefClass) (b : Byte) (l : List Byte) (s : State) :
    State.portWrites straps ref (b :: l) s = State.portWrites straps ref l (s.portStep straps ref b) := rfl

theorem State.portUp_iff (s : State) : s.portUp = true ↔ s.cur ≠ .off := by
  simp [State.portUp]

theorem State.exec_i2cWrite_up {s : State} (h : s.cur ≠ .off) (a : Byte) (l : List Byte) (straps : Straps) (ref : RefClass) :
    exec (.i2cWrite a l straps ref) s = .next (State.portWrites straps ref l (s.portAt a)) := by
  rw [exec, execI2cWrite, s.portUp_iff.mpr h]
  rfl

theorem State.exec_i2cWrite_off {s : State} (h : s.cur = .off) (a : Byte) (l : List Byte) (straps : Straps) (ref : RefClass) :
    exec (.i2cWrite a l straps ref) s = .next s := by
  simp [exec, execI2cWrite, State.portUp, h]

theorem State.portStep_ptr (s : State) (straps : Straps) (ref : RefClass) (b : Byte) :
    (s.portStep straps ref b).i2c.ptr = s.i2c.ptr + 1 :=
  congrArg (· + 1) (s.portKept_portWrite straps ref s.i2c.ptr.toNat b).ptr

theorem State.portStep_up {s : State} (h : s.cur ≠ .off) (straps : Straps) (ref : RefClass) (b : Byte) :
    (s.portStep straps ref b).cur ≠ .off := (s.portKept_portWrite straps ref s.i2c.ptr.toNat b).up h

/-- A transaction is one of its first byte and then one of the rest (R454). -/
theorem State.i2cWrite_cons (s : State) (a b : Byte) (l : List Byte) (straps : Straps) (ref : RefClass) :
    exec (.i2cWrite a (b :: l) straps ref) s = (match exec (.i2cWrite a [b] straps ref) s with
      | .next u => exec (.i2cWrite (a + 1) l straps ref) u
      | o => o) := by
  by_cases off : s.cur = .off
  · rw [State.exec_i2cWrite_off off, State.exec_i2cWrite_off off]
    exact (State.exec_i2cWrite_off off ..).symm
  · have up : ((s.portAt a).portStep straps ref b).cur ≠ .off := State.portStep_up (s := s.portAt a) off straps ref b
    rw [State.exec_i2cWrite_up off, State.exec_i2cWrite_up off, State.portWrites_cons, State.portWrites_cons]
    show _ = exec _ ((s.portAt a).portStep straps ref b)
    rw [State.exec_i2cWrite_up up, show a + 1 = ((s.portAt a).portStep straps ref b).i2c.ptr from
      ((s.portAt a).portStep_ptr straps ref b).symm, State.portAt_ptr]

end Sys2Proof.Machine
end

section
/-! PROOF. O58: the maintenance port (spec/15_startup_and_black_box.md R380, spec/19_package_and_electrical.md R453 to R455). -/

namespace Sys2Proof.Machine

open Sys2Proof.Laws

/-! ### A byte written -/

theorem State.exec_i2cWrite_byte {s : State} (h : s.cur ≠ .off) (a b : Byte) (straps : Straps) (ref : RefClass) :
    exec (.i2cWrite a [b] straps ref) s = .next ((s.portAt a).portStep straps ref b) := State.exec_i2cWrite_up h ..

theorem portWrite_from (s : State) (straps : Straps) (ref : RefClass) (b : Byte) {a : Nat} (lo : 0x38 ≤ a) (hi : a < 0x3E) :
    State.portWrite straps ref s a b = { s with i2c := { s.i2c with snapFrom := withByte48 s.i2c.snapFrom (a - 0x38) b } } := by
  rw [State.portWrite, if_neg (by omega), if_pos ⟨lo, hi⟩]

theorem portWrite_to (s : State) (straps : Straps) (ref : RefClass) (b : Byte) {a : Nat} (lo : 0x3E ≤ a) (hi : a < 0x44) :
    State.portWrite straps ref s a b = { s with i2c := { s.i2c with snapTo := withByte48 s.i2c.snapTo (a - 0x3E) b } } := by
  rw [State.portWrite, if_neg (by omega), if_neg (by omega), if_pos ⟨lo, hi⟩]

theorem portWrite_unnamed (s : State) (straps : Straps) (ref : RefClass) (b : Byte) {a : Nat}
    (h : a < 0x30 ∨ (0x45 ≤ a ∧ a ≠ 0x90)) : State.portWrite straps ref s a b = s := by
  rw [State.portWrite, if_neg (by omega), if_neg (by omega), if_neg (by omega), if_neg (by omega), if_neg (by omega)]

/-- What a byte of the range or at an address that the table does not name leaves. -/
structure ByteWritten (s : State) (a b : Byte) (t : State) : Prop where
  ptr : t.i2c.ptr = a + 1
  range : 0x38 ≤ a.toNat ∧ a.toNat < 0x3E → t.i2c.snapFrom.toNat / 256 ^ (a.toNat - 0x38) % 256 = b.toNat ∧
    ∀ i : Fin 6, i.val ≠ a.toNat - 0x38 → t.i2c.snapFrom.toNat / 256 ^ i.val % 256 = s.i2c.snapFrom.toNat / 256 ^ i.val % 256
  unnamed : a.toNat < 0x30 ∨ 0x45 ≤ a.toNat → t.i2c = { s.i2c with ptr := a + 1 }
  regs : t.regs = s.regs
  bbx : t.bbx = s.bbx

theorem State.byteWritten (s : State) (a b : Byte) (straps : Straps) (ref : RefClass)
    (h : (0x38 ≤ a.toNat ∧ a.toNat < 0x44) ∨ a.toNat < 0x30 ∨ (0x45 ≤ a.toNat ∧ a.toNat ≠ 0x90)) :
    ByteWritten s a b ((s.portAt a).portStep straps ref b) := by
  have ptr : ((s.portAt a).portStep straps ref b).i2c.ptr = a + 1 := State.portStep_ptr ..
  have step (u : State) (w : State.portWrite straps ref (s.portAt a) a.toNat b = u) :
      (s.portAt a).portStep straps ref b = u.portAt (u.i2c.ptr + 1) := by rw [← w]; rfl
  by_cases first : 0x38 ≤ a.toNat ∧ a.toNat < 0x3E
  · have eq := step _ (portWrite_from _ straps ref b first.1 first.2)
    refine ⟨ptr, fun _ => ?_, fun h' => by omega, by rw [eq]; rfl, by rw [eq]; rfl⟩
    rw [eq]
    exact ⟨withByte48_same _ (by omega) b, fun i hi => withByte48_other _ i.isLt hi b⟩
  by_cases last : 0x3E ≤ a.toNat ∧ a.toNat < 0x44
  · have eq := step _ (portWrite_to _ straps ref b last.1 last.2)
    exact ⟨ptr, fun h' => absurd h' first, fun h' => by omega, by rw [eq]; rfl, by rw [eq]; rfl⟩
  · have eq := step _ (portWrite_unnamed _ straps ref b (by omega))
    exact ⟨ptr, fun h' => absurd h' first, fun _ => by rw [eq]; rfl, by rw [eq]; rfl, by rw [eq]; rfl⟩

/-! ### A read transaction -/

/-- One byte read. -/
def State.portReadStep (s : State) : State :=
  if s.i2c.ptr.toNat = 0x44 then { s with i2c := { s.i2c with outOfSnap := false, snapRefused := false, ptr := s.i2c.ptr + 1 } }
  else s.portAt (s.i2c.ptr + 1)

theorem State.portReads_succ (n : Nat) (l : List Byte) (s : State) :
    State.portReads (n + 1) l s = State.portReads n (l ++ [s.portByte s.i2c.ptr.toNat]) s.portReadStep := by
  rw [State.portReads, State.portReadStep]
  split <;> rfl

/-- A read of n bytes gives n bytes behind those read before, moves the address on by n and touches the port alone. -/
structure BytesRead (n : Nat) (l : List Byte) (s : State) (p : List Byte × State) : Prop where
  bytes : ∃ r, p.1 = l ++ r ∧ r.length = n
  ptr : p.2.i2c.ptr = s.i2c.ptr + BitVec.ofNat 8 n
  regs : p.2.regs = s.regs
  bbx : p.2.bbx = s.bbx
  out : p.2.out = s.out

theorem State.portReadStep_ptr (s : State) : s.portReadStep.i2c.ptr = s.i2c.ptr + 1 := by
  unfold State.portReadStep
  split <;> rfl

theorem State.portReadStep_rest (s : State) :
    s.portReadStep.regs = s.regs ∧ s.portReadStep.bbx = s.bbx ∧ s.portReadStep.out = s.out := by
  unfold State.portReadStep
  split <;> exact ⟨rfl, rfl, rfl⟩

theorem State.bytesRead (n : Nat) (l : List Byte) (s : State) : BytesRead n l s (State.portReads n l s) := by
  induction n generalizing l s with
  | zero => exact ⟨⟨[], by simp [State.portReads]⟩, by simp [State.portReads], rfl, rfl, rfl⟩
  | succ n ih =>
    obtain ⟨⟨r, hr, hn⟩, ptr, regs, bbx, out⟩ := ih (l ++ [s.portByte s.i2c.ptr.toNat]) s.portReadStep
    obtain ⟨regs', bbx', out'⟩ := s.portReadStep_rest
    rw [State.portReads_succ]
    refine ⟨⟨s.portByte s.i2c.ptr.toNat :: r, by simp [hr], by simp [hn]⟩, ?_, regs.trans regs', bbx.trans bbx', out.trans out'⟩
    rw [ptr, State.portReadStep_ptr, BitVec.add_assoc, BitVec.ofNat_add n 1, BitVec.add_comm (BitVec.ofNat 8 n)]
    rfl

theorem State.exec_i2cRead_up {s : State} (h : s.cur ≠ .off) (n : Nat) :
    exec (.i2cRead n) s = .next ((State.portReads n [] s).2.send (.i2cData (State.portReads n [] s).1)) := by
  rw [exec, execI2cRead, s.portUp_iff.mpr h]
  rfl

/-- The first byte read is the one at the port's address. -/
theorem State.portReads_head (s : State) {n : Nat} (h : 0 < n) :
    (State.portReads n [] s).1.head? = some (s.portByte s.i2c.ptr.toNat) := by
  obtain ⟨n, rfl⟩ := Nat.exists_eq_succ_of_ne_zero h.ne'
  obtain ⟨⟨r, hr, -⟩, -⟩ := State.bytesRead n ([] ++ [s.portByte s.i2c.ptr.toNat]) s.portReadStep
  rw [State.portReads_succ, hr]
  rfl

/-- A read of byte 0x44 clears OUT_OF_SNAP and SNAP_REFUSED (R454). -/
theorem State.portReads_clears {s : State} (h : s.i2c.ptr = 0x44) :
    (State.portReads 1 [] s).2.i2c.outOfSnap = false ∧ (State.portReads 1 [] s).2.i2c.snapRefused = false := by
  have at44 : s.i2c.ptr.toNat = 0x44 := by rw [h]; rfl
  rw [State.portReads_succ, State.portReads, State.portReadStep, if_pos at44]
  exact ⟨rfl, rfl⟩

/-! ### Latch, release and load -/

theorem State.exec_i2cSnapLatch_up {s : State} (h : s.cur ≠ .off) (mode : s.snapshotMode = true) :
    exec .i2cSnapLatch s = .next { s with i2c := { s.i2c with latchReq := some (s.i2c.snapFrom.toNat, s.i2c.snapTo.toNat) } } := by
  rw [exec, execI2cSnapLatch, if_pos (s.portUp_iff.mpr h), State.portLatch, if_pos mode]

theorem State.exec_i2cSnapRelease_up {s : State} (h : s.cur ≠ .off) : exec .i2cSnapRelease s = .next s.portRelease := by
  rw [exec, execI2cSnapRelease, if_pos (s.portUp_iff.mpr h)]

/-- A range turned round, one too long, and one whose last record is not held cannot be latched (R380). -/
theorem State.rangeOk_false {s : State} {f l : Nat} (h : l < f ∨ f + 16384 ≤ l ∨ s.findRecord l = none) : s.rangeOk f l = false := by
  rw [← Bool.not_eq_true, State.rangeOk, Bool.and_eq_true, decide_eq_true_eq, List.all_eq_true]
  rintro ⟨⟨le, lt⟩, held⟩
  have last := held (l - f) (List.mem_range.mpr (by omega))
  rw [Nat.add_sub_cancel' le] at last
  rcases h with h | h | h
  · omega
  · omega
  · rw [h] at last
    exact absurd last (by decide)

theorem State.latchPort_of {s : State} {f l : Nat} (h : s.i2c.latchReq = some (f, l)) :
    s.latchPort = if s.rangeOk f l then { s with i2c := { s.i2c with latchReq := none, snap := some (f, l) } }
      else { s with i2c := { s.i2c with latchReq := none, snapRefused := true } } := by
  rw [State.latchPort, h]

theorem State.loadPort_of {s : State} {b : List Byte} (h : s.i2c.loading = some b) :
    s.loadPort = { s with i2c := { s.i2c with buffer := b, loading := none } } := by
  rw [State.loadPort, h]

/-- In LIVE mode a record that is held is loaded whatever range is latched. -/
theorem State.loadedBytes_live {s : State} {n : Nat} {r : BbxRecord} (mode : s.snapshotMode = false)
    (held : s.recordIn s.bbx.copyBefore n = some r) (range : Option (Nat × Nat)) : s.loadedBytes n range = some r.bytes := by
  simp [State.loadedBytes, mode, held]

/-- The selector with its byte 0x35 written. -/
def State.portSelected (s : State) (b : Byte) : State := { s with i2c := { s.i2c with readSel := withByte48 s.i2c.readSel 5 b } }

theorem State.portLoad_of {s : State} {l : List Byte} (h : s.loadedBytes s.i2c.readSel.toNat s.i2c.snap = some l) :
    s.portLoad = { s with i2c := { s.i2c with loading := some (sliceBytes l 0 64) } } := by
  rw [State.portLoad, h]

theorem State.exec_i2cReadSelLoad_up {s : State} (h : s.cur ≠ .off) (b : Byte) :
    exec (.i2cReadSelLoad b) s = .next (s.portSelected b).portLoad := by
  rw [exec, execI2cReadSelLoad, s.portUp_iff.mpr h]
  rfl

theorem State.portSelected_load {s : State} {b : Byte} {r : BbxRecord} (mode : s.snapshotMode = false)
    (low : s.i2c.readSel < 2 ^ 40) (held : s.recordIn s.bbx.copyBefore (b.toNat * 2 ^ 40 + s.i2c.readSel.toNat) = some r) :
    (s.portSelected b).portLoad =
      { s.portSelected b with i2c := { (s.portSelected b).i2c with loading := some (sliceBytes r.bytes 0 64) } } := by
  refine State.portLoad_of (State.loadedBytes_live mode ?_ _)
  rw [← held, ← withByte48_top low b]
  rfl

/-! ### In OFF -/

/-- In OFF the port does not answer (R453). -/
theorem State.port_off {s : State} (off : s.cur = .off) (b : Byte) (n : Nat) (x : Straps) (ref : RefClass) :
    exec ([Instr.i2cWrite b [b] x ref, Instr.i2cRead n, Instr.i2cSnapLatch, Instr.i2cSnapRelease, Instr.i2cReadSelLoad b,
      Instr.i2cDraftReload, Instr.i2cReset x ref].getD n (.i2cRead n)) s = .next s := by
  have down : s.portUp = false := by rw [← Bool.not_eq_true, State.portUp_iff]; exact fun h => h off
  have every : ∀ c ∈ [Instr.i2cWrite b [b] x ref, Instr.i2cRead n, Instr.i2cSnapLatch, Instr.i2cSnapRelease, Instr.i2cReadSelLoad b,
      Instr.i2cDraftReload, Instr.i2cReset x ref], exec c s = .next s := by
    simp [exec, execI2cWrite, execI2cRead, execI2cSnapLatch, execI2cSnapRelease, execI2cReadSelLoad, execI2cDraftReload,
      execI2cReset, down]
  rw [List.getD_eq_getElem?_getD]
  by_cases hn : n < 7
  · rw [List.getElem?_eq_getElem hn]
    exact every _ (List.getElem_mem hn)
  · rw [List.getElem?_eq_none (Nat.le_of_not_lt hn)]
    exact every _ (by simp)

/-- Settles O58: a byte of a transaction writes at the port's address and moves it on, so a transaction splits behind its first byte;
a read is an induction over its bytes; latch, release and load change the port's own fields. -/
theorem maintenancePort : Obligations.MaintenancePort := by
  unfold Obligations.MaintenancePort
  refine ⟨fun s a b x ref up ha => ?_, fun s a b l x ref _ => s.i2cWrite_cons a b l x ref, fun s n up => ?_, fun s up mode => ?_,
    fun s f l t req ht => ?_, fun s up => ?_, fun s b r up mode low held => ?_, fun s b t busy ht => ?_, fun s b n x ref off => ?_⟩
  · obtain ⟨ptr, range, unnamed, regs, bbx⟩ := s.byteWritten a b x ref ha
    exact ⟨_, State.exec_i2cWrite_byte up a b x ref, ptr, range, unnamed, regs, bbx⟩
  · obtain ⟨⟨r, hr, hn⟩, ptr, regs, bbx, out⟩ := State.bytesRead n [] s
    have len : (State.portReads n [] s).1.length = n := by rw [hr]; exact hn
    refine ⟨_, State.exec_i2cRead_up up n, ?_, ?_, ptr, ?_, regs, bbx⟩
    · simpa [State.send, len] using (Nat.eq_zero_or_pos n).imp_right s.portReads_head
    · simp [State.send, out]
    · rintro rfl at44
      exact State.portReads_clears at44
  · exact ⟨_, State.exec_i2cSnapLatch_up up mode, rfl, rfl, rfl⟩
  · subst ht
    rw [State.latchPort_of req]
    refine ⟨fun ok => by rw [if_pos ok], fun bad => ?_, ?_⟩
    · rw [State.rangeOk_false bad]
      rfl
    · split <;> exact ⟨rfl, rfl⟩
  · exact ⟨_, State.exec_i2cSnapRelease_up up, rfl, rfl, rfl⟩
  · refine ⟨_, State.exec_i2cReadSelLoad_up up b, ?_⟩
    rw [State.portSelected_load mode low held]
    exact ⟨rfl, rfl, rfl, withByte48_top low b, rfl, rfl⟩
  · subst ht
    rw [State.loadPort_of busy]
    exact ⟨rfl, rfl, rfl⟩
  · exact ⟨s, State.port_off off b n x ref, rfl⟩

end Sys2Proof.Machine
end
